-- ==== Sys2Proof/Config.lean ====
section
/-!
DEFINITION. Config.lean: what an implementation fixes and what the spec leaves open.  Every free value is an
opaque constant, so no proof can rely on a particular one (notes/assumptions/10 and 11).
-/

namespace Sys2Proof

/-- A byte of memory, of a message or of a descriptor. -/
abbrev Byte := BitVec 8

namespace Config

/-- A value the spec leaves open, drawn by the counter `State.draws` (log entry 11). -/
opaque freeValue : Nat → BitVec 64

/-- A free byte (log entry 11). -/
opaque freeByte : Nat → Byte

/-- The seed that the PUF of the part gives (step 1 of Table 15.3, R437). -/
opaque pufSeed : BitVec 256

/-- The 32 bytes of randomness of an ML-DSA signature (R440, FIPS 204), by the draw counter of the start-up and the message. -/
opaque signRandom : Nat → List Byte → BitVec 256

/-- The security version number in an image's header (R433 gives it no place). -/
opaque imageSvn : List Byte → Nat

/-- Fowaest's firmware key, whose hash the ROM holds (R433, R434). -/
opaque fowaestKey : List Byte

/-- The device identity certificate that Fowaest issued (Table 15.1). -/
opaque deviceCert : List Byte

/-- The part to be signed of a certificate of a key (R437): X.509 bytes that the spec does not lay out, by the issuing layer
(0 the device identity key, 1 the layer 1 key), the draw counter of the start-up, and the public key. -/
opaque certBody : Nat → Nat → List Byte → List Byte

/-- The PUF helper data that the board came with (Table 15.1). -/
opaque pufHelper : List Byte

/-- The sector that the rotation of a Tense record takes for a commit (R448 gives no order): the record and the number of the
commit. -/
opaque sectorOf : Nat → Nat → Nat

/-- The images that the board came with, by slot. -/
opaque boardImage : Nat → List Byte

/-- A tier key of a generation (R239): 0 the CXL key, 1 the flash key; 64 bytes for AES-256-XTS. -/
opaque tierKey : Nat → Nat → BitVec 512

/-- The measurement of an image's component, or of a configuration record (R435): the index of `LX_MEASURE`, and the bytes of
the image or the record. -/
opaque measure : Nat → List Byte → BitVec 256

/-- The bytes of the owner-set list that `LX_MEASURE` 7 hashes (R440 gives no layout): entry, node ID and hash of the key. -/
opaque ownerList : List (Nat × Nat × List Byte) → List Byte

end Config
end Sys2Proof
end

