-- ==== Sys2Proof/Word.lean ====
section
/-!
DEFINITION. Word.lean: the word types the spec counts in (R4, R5).
-/

namespace Sys2Proof

/-- A 64-bit register image. -/
abbrev Word := BitVec 64

/-- A binary32 pattern (R86). -/
abbrev F32 := BitVec 32

/-- A raw run of bytes: a message, a descriptor, a buffer. -/
abbrev Bytes := List Byte

end Sys2Proof
end

