-- ==== Sys2Proof/Syntax.lean ====
section
/-!
DEFINITION. Syntax.lean: the commands of the block, one constructor per row of spec/opcode_table.json.
A command carries what comes from outside with it: the access of a host, the descriptor a ring fetched, the bytes of
a message, and the measurements only the surroundings can supply (log entry 3).
-/

namespace Sys2Proof

/-- A host access to BAR0: the function it comes through, the offset, the size in bytes and the value written. -/
structure Access where
  fn   : Nat
  off  : Nat
  size : Nat
  val  : Word
deriving DecidableEq, Repr

/-- What the surroundings show of the lines that a command reads: the channel of each line whose refetch passed (R269), 128 for
a line of a lower tier and 129 for one that came as poison at first, and the lines that an expander returned as poison, as handle and line (R227). -/
structure Reads where
  passed : List Nat
  poison : List (Nat × Nat)
deriving DecidableEq, Repr

/-- Lines that all read at once. -/
def Reads.clean : Reads := ⟨[], []⟩

/-- A descriptor fetched from a submission ring (R408): function, ring number, the 64 bytes; and the lines read for it. -/
structure Cmd where
  fn    : Nat
  ring  : Nat
  d     : Bytes
  reads : Reads := .clean
deriving DecidableEq, Repr

/-- The descriptor as it was fetched. -/
def Cmd.bare (c : Cmd) : Cmd := { c with reads := .clean }

/-- Who sends a BAU command (section "BAU commands"). -/
inductive Issuer where
  | dispatch
  | thread (job idx : Nat)
  | lexicon
deriving DecidableEq, Repr

/-- A BAU command word sent to a BBD (R168, R169), and the NPA its result block goes to (R204). -/
structure BauCmd where
  bbd    : Nat
  issuer : Issuer
  word   : Bytes
  result : Nat
deriving DecidableEq, Repr

/-- A TE command word queued on an AC's tensor engine by the context of a way (R193, R198). -/
structure TeCmd where
  ac   : Nat
  te   : Nat
  way  : Nat
  word : Bytes
deriving DecidableEq, Repr

/-- What an RV64GCV instruction does that a thread runs ahead of its next Fowaest instruction, its arithmetic done by the sender
(R202; log entry 215): a value into a register, a read of a CSR, a load, a store, the fetch at a new address. -/
inductive SxAct where
  | setX (rd v : Nat)
  | setF (rd v : Nat)
  | setV (rd v : Nat)
  | csr (rd csr : Nat)
  | load (rd addr len : Nat) (signed : Bool)
  | store (addr : Nat) (data : Bytes)
  | jump (pc : Nat)
deriving DecidableEq, Repr

/-- A Fowaest instruction that a thread has fetched (Table 07.6): job, thread, the 32-bit instruction word. -/
structure SxOp where
  job  : Nat
  idx  : Nat
  word : Nat
  acts : List SxAct := []
deriving DecidableEq, Repr

/-- A management datagram (R374): the port it came by, the packet's `SRC_NODE`, the payload. -/
structure Mgmt where
  port : Nat
  src  : Nat
  body : Bytes
deriving DecidableEq, Repr

/-- What a descriptor fetch brought (R416): the 64 bytes, or an error or poison. -/
inductive Fetch where
  | data (d : Bytes)
  | error
deriving DecidableEq, Repr

/-- What a port's training found (R292, R297, R300): each physical lane that trained with the logical number its markers
carry, and the block number of the marker at which alignment was found. -/
structure Training where
  lanes : List (Nat × Nat)
  block : Nat
deriving DecidableEq, Repr

/-- What a tier link and its partner show at training (R227 to R229): `nvme` where the link trained as PCI Express, its rate
code (Table 08.14), whether a CXL switch lies between, whether the device is of Type 3, the logical devices it presents; the
major version of the NVMe controller, whether it is the second on its link, whether namespace 1 is active, the active
namespaces, the bytes of a logical block and of its metadata; and the bytes it holds. -/
structure TierLink where
  port       : Nat
  link       : Nat
  up         : Bool
  nvme       : Bool
  rate       : Nat
  switched   : Bool
  type3      : Bool
  logical    : Nat
  version    : Nat
  second     : Bool
  first      : Bool
  namespaces : Nat
  block      : Nat
  metadata   : Nat
  capacity   : Nat
deriving DecidableEq, Repr

/-- What the surroundings and the built-in self-test show during a start-up (R435, R477).
`stop` is the `STOP_CAUSE` of a failed step and 0 when none failed; `step` the last trust step completed. -/
structure StartReport where
  stop       : Nat
  step       : Nat
  failedAcs  : List Nat
  failedBaus : List (Nat × Nat)
  failedChan : List Nat
  linksDown  : List Nat
  tier       : List TierLink
  imageSlot  : Nat
  imageSvn   : Nat
  recordSlot : Nat
  record     : Bytes
  /-- Tense records of which no copy holds (R450). -/
  lost       : List Nat := []
deriving DecidableEq, Repr

/-- A message, and the lines read for it (R269). -/
structure MsgRead where
  msg   : Bytes
  reads : Reads
deriving DecidableEq, Repr

/-- What a BAU reports of its command: its completion, or, of an `APPEND_ROWS`, a step of its locked writes (R183): the lock of
the next row is taken, or the row is written and its lock released. -/
inductive BauPhase where
  | done
  | lock
  | row
deriving DecidableEq, Repr

/-- The BAU that reports, and what, the transfers of its link that passed on a replay since the last report (R160), and the
lines read for it (R269). -/
structure BauDone where
  bau     : Nat
  phase   : BauPhase := .done
  replays : Nat
  reads   : Reads
deriving DecidableEq, Repr

/-- A BBD whose link failed one transfer for good, after `replays` replays that passed (R160, R161). -/
structure LinkFault where
  bbd     : Nat
  replays : Nat
deriving DecidableEq, Repr

/-- A move at its edit, and the lines read for it (R244, R269). -/
structure MoveRead where
  id    : Nat
  reads : Reads
deriving DecidableEq, Repr

/-- A context, and the lines read for what the node does next with it (R269): the next tail of a rebuild, the entries of a
handover, the map of a close. -/
structure CtxRead where
  ctx   : Nat
  reads : Reads
deriving DecidableEq, Repr

/-- The KV head of a page, and the lines read for it (R269). -/
structure HeadRead where
  head  : Nat
  reads : Reads
deriving DecidableEq, Repr

/-- How a drive's Read of a slot ended (R256, R269): its bytes came, the drive failed the command, or the bytes that came do
not pass their checks although the drive holds them well. -/
inductive DriveRead where
  | good
  | error
  | corrupt
deriving DecidableEq, Repr

/-- How the exit from Retain ended (R475): the measurements are those kept; the BBDs and the tier links that did not retrain
(R161, R231). -/
structure RetainExit where
  same  : Bool
  bbds  : List Nat
  tiers : List Nat
deriving DecidableEq, Repr

/-- Which waiting packets a spray takes (R325, R348): those of a connection, or the waiting datagrams. -/
inductive Spray where
  | conn (c : Nat)
  | dgram
deriving DecidableEq, Repr

/-- An access of the host (R474, R486): the function, its BAR, the offset, the bytes and the value written.  In Retain the wake
logic answers it. -/
inductive HostAccess where
  | read (fn bar off size : Nat)
  | write (fn bar off size : Nat) (val : Word)
deriving DecidableEq, Repr

/-- The commands: one constructor per row of spec/opcode_table.json. -/
inductive Instr where
  | registerWrite (a : Access)
  | badSizeAccess (a : Access) (write : Bool)
  | tmStatusRead (a : Access)
  | cxTableBaseWrite (a : Access)
  | cxReady
  | bbNarrowShareWrite (a : Access)
  | bbPermitLimitWrite (a : Access)
  | tmPlanWrite (a : Access)
  | flPortEnableWrite (a : Access)
  | flPortClassWrite (a : Access)
  | esShaperWrite (a : Access)
  | imProfileWrite (a : Access)
  | gsIntEnableWrite (a : Access)
  | pfLogHeadWrite (a : Access)
  | pwCapWrite (a : Access)
  | bar4Write (off : Nat) (data : Bytes)
  | bar4Read (off len : Nat)
  | cxOpen (c : Cmd)
  | cxClose (c : Cmd)
  | closeDrainEnd (x : CtxRead)
  | cxPark (c : Cmd)
  | cxReopen (c : Cmd)
  | parkEnd (x : CtxRead)
  | reopenEnd (x : CtxRead)
  | cxQuery (c : Cmd) (hostOk : Bool)
  | cxSetShards (c : Cmd) (buf : Option Bytes)
  | walkerSlotGrant
  | editWaitEnd
  | bankGrant (handle : Nat)
  | bankReleaseAck (handle : Nat)
  | attend (m : Bytes) (reads : Reads)
  | draftRows (x : MsgRead)
  | draftHoldExpiry (k : Nat)
  | draftWaitTimeout (req : Nat)
  | clause (src : Nat) (m : Bytes)
  | done (src : Nat) (m : Bytes)
  | childTimeout (req shard : Nat)
  | shardClauseSend (req : Nat) (reads : Reads)
  | attnSlotFree
  | append (m : Bytes) (reads : Reads)
  | refill (m : Bytes) (reads : Reads)
  | pageOpWaitEnd
  | bauStoreWrite (bbd : Nat) (issuer : Issuer) (off : Nat) (data : Bytes)
  | glossBound (b : BauCmd)
  | attendPage (b : BauCmd)
  | appendRows (b : BauCmd)
  | requant (b : BauCmd)
  | rmsnorm (b : BauCmd)
  | elementwise (b : BauCmd)
  | gatherReduce (b : BauCmd)
  | zeroRange (b : BauCmd)
  | permitGrant (bbd : Nat)
  | bauCompletion (bbd : Nat) (x : BauDone)
  | d2dLinkRetrain (x : LinkFault)
  | bbdOutOfService (bbd : Nat)
  | refreshDue (chan : Nat)
  | refreshPause (chan : Nat)
  | refreshResume (chan cycles : Nat)
  | matmul (t : TeCmd)
  | score (t : TeCmd)
  | fold (t : TeCmd)
  | bound (t : TeCmd)
  | conjoin (t : TeCmd)
  | teComplete (ac te : Nat)
  | sxTe (op : SxOp)
  | sxBstore (op : SxOp)
  | sxBau (op : SxOp)
  | sxCopy (op : SxOp)
  | sxWait (op : SxOp)
  | sxPoll (op : SxOp)
  | sxSleep (op : SxOp)
  | sxStep (op : SxOp)
  | sxEnd (op : SxOp)
  | sxTrap (job idx mcause addr : Nat)
  | contextEvent (job idx : Nat)
  | swapOut (ac : Nat)
  | swapLoad (ac : Nat)
  | jobSubmit (c : Cmd)
  | jobPreempt (c : Cmd)
  | preemptTimeout (job : Nat)
  | jobQuery (c : Cmd)
  | rmLoad (c : Cmd)
  | rmUnload (c : Cmd)
  | attnWayGrant
  | moveStart (id : Nat) (reads : Reads)
  | moveCommit (x : MoveRead)
  | moveAbandon (id : Nat) (fault : Bool)
  | quotaSpill (cls : Nat)
  | spillMarkSpill (cls : Nat)
  | freeMarkSpill (narrow : Bool)
  | spill (ctx layer n : Nat) (x : HeadRead)
  | compact (drive : Nat)
  | extentFlush (buf : Nat)
  | driveCompletion (buf : Nat) (ok : Bool)
  | tierLinkDown (port link : Nat)
  | tierLinkTimeout (port link : Nat)
  | inboundRequest (port link : Nat)
  | passStart (a : Access)
  | passAbort (a : Access)
  | passUnitRead (reads : Reads)
  | splitWrite (a : Access)
  | testRead (a : Access)
  | retireSlot (c : Cmd)
  | retireChannel (c : Cmd)
  | frameReceive (port : Nat) (frame : Bytes)
  | pauseRepeat (port tc : Nat)
  | hello (port : Nat) (lcf : Bytes)
  | helloSend (port : Nat)
  | pause (port : Nat) (lcf : Bytes)
  | pauseExpiry (port tc : Nat)
  | pauseWatchdog (port tc : Nat)
  | swapReq (port : Nat) (lcf : Bytes)
  | swapAck (port : Nat) (lcf : Bytes)
  | flSwapGo (a : Access) (ahead : Nat)
  | swapMarker (port block : Nat)
  | swapTimeout (port : Nat)
  | portTrained (port : Nat) (t : Training)
  | portTrainRetry (port : Nat)
  | laneFault (port : Nat) (lane : Option Nat)
  | fecPeriod (port : Nat) (corrected uncorrected : List Nat)
  | listenDone (port : Nat)
  | listenLimitExpiry (port : Nat) (signal : Bool)
  | detachLimitExpiry (port : Nat)
  | frameStart (port : Nat)
  | gateInstall (a : Access)
  | gateInstallEffect (port : Nat)
  | gateEntryChange (port : Nat)
  | connDropPeriod
  | msg (port tc : Nat)
  | write (port tc : Nat)
  | readReq (port tc : Nat)
  | readResp (port tc : Nat)
  | ack (port tc : Nat)
  | nak (port tc : Nat)
  | report (port tc : Nat)
  | dgram (port tc : Nat)
  | ackTimer (conn : Nat)
  | gapTimer (conn : Nat)
  | retxTimer (conn : Nat)
  | packetSpray (what : Spray)
  | connOpen (c : Cmd)
  | connClose (c : Cmd)
  | connQuery (c : Cmd) (hostOk : Bool)
  | wrPost (c : Cmd)
  | wrFire (id : Nat)
  | regionRegister (c : Cmd)
  | regionRevoke (c : Cmd)
  | regionQuery (c : Cmd) (hostOk : Bool)
  | recvPost (c : Cmd)
  | recvQuery (c : Cmd)
  | counterSet (c : Cmd)
  | status (g : Mgmt)
  | routeSet (g : Mgmt)
  | epochOpen (g : Mgmt)
  | epochClose (g : Mgmt)
  | portFence (g : Mgmt)
  | watchSet (g : Mgmt)
  | scores (g : Mgmt)
  | fence (g : Mgmt)
  | drain (g : Mgmt)
  | reopen (g : Mgmt)
  | rehome (g : Mgmt)
  | rebuildMap (g : Mgmt)
  | handover (g : Mgmt)
  | recovery (c : Cmd)
  | healthPeriod (extra : List (Nat × Nat))
  | heartbeatSend
  | heartbeatReceive (src : Nat) (m : Bytes)
  | heartbeatPeriodEnd
  | offer (src : Nat) (x : MsgRead)
  | accept (src : Nat) (x : MsgRead)
  | refuse (src : Nat) (m : Bytes)
  | page (src : Nat) (m : Bytes)
  | commitSend (x : CtxRead)
  | commit (src : Nat) (m : Bytes)
  | commitAck (src : Nat) (m : Bytes)
  | final (src : Nat) (m : Bytes)
  | abandon (src : Nat) (m : Bytes)
  | query (src : Nat) (m : Bytes)
  | handoverTimer (ctx : Nat)
  | queryTimer (ctx : Nat)
  | sqDoorbell (fn ring val : Nat)
  | cqDoorbell (fn ring val : Nat)
  | descriptorFetch (fn ring : Nat) (f : Fetch)
  | completionWrite (fn ring : Nat) (hostOk : Bool)
  | ringEnableWrite (a : Access)
  | msixCoalesceTimer (fn ring : Nat)
  | eventHoldoffTimer (fn : Nat)
  | functionLevelReset
  | lxEnrol (c : Cmd) (buf : Option Bytes)
  | lxTransfer (c : Cmd) (buf : Option Bytes)
  | lxManagerSet (c : Cmd) (buf : Option Bytes)
  | lxManagerClear (c : Cmd)
  | lxHandover (c : Cmd) (buf : Option Bytes)
  | lxFlashWrite (c : Cmd) (buf : Option Bytes)
  | lxRollback (c : Cmd)
  | lxAnchor (c : Cmd)
  | lxTnRead (c : Cmd) (hostOk good : Bool)
  | lxSupplete (c : Cmd)
  | lxSetActive (c : Cmd)
  | measuredRestart (same : Bool)
  | getChain (body : Bytes)
  | attest (body : Bytes)
  | getHandover (body : Bytes)
  | doeAbort
  | tensePeriodicCommit (failing : List Nat) (celsius : List Nat)
  | powerOn
  | warmReset (fromPerst : Bool)
  | nodeReset (a : Access)
  | startUpEnd (r : StartReport)
  | overvoltage (millivolt : Nat)
  | brownout
  | thermalTrip (sensor celsius : Nat)
  | clockLoss
  | throttleBoundary (watts : Nat) (celsius : List Nat)
  | retainRequest (a : Access)
  | retainEntryProgress
  | runRequest (a : Access)
  | wake
  | retainExitEnd (x : RetainExit)
  | retainHostAccess (h : HostAccess)
  | perstNRise
  | tierLinkRetrained (port link : Nat)
  | d2dRetrainDone (bbd : Nat)
  | thermtripRelease
  | sxCopyComplete (job idx ticket : Nat)
  | swapSaveDone (ac way : Nat)
  | swapLoadDone (ac way : Nat)
  | driveReadCompletion (handle : Nat) (got : DriveRead)
  | rebuildTailRead (x : CtxRead)
  | msixUnmask (fn vec : Nat)
deriving DecidableEq, Repr

end Sys2Proof
end

