-- ==== Sys2Proof/Machine/Base.lean ====
section
/-!
DEFINITION. Machine/Base.lean: the plain data tools of the model: sorted maps, bit fields, little-endian bytes (R4, R5),
serial order (R496) and saturating counters (R427).
-/

namespace Sys2Proof.Machine

/-- A sparse table: entries sorted strictly by key. -/
abbrev NMap (α : Type) := List (Nat × α)

/-- The entry at key `k`. -/
def mapGet {α : Type} : NMap α → Nat → Option α
  | [], _ => none
  | (j, v) :: m, k => if j = k then some v else if k < j then none else mapGet m k

/-- Put `v` at key `k`. -/
def mapPut {α : Type} : NMap α → Nat → α → NMap α
  | [], k, v => [(k, v)]
  | (j, w) :: m, k, v =>
    if k < j then (k, v) :: (j, w) :: m else if j = k then (k, v) :: m else (j, w) :: mapPut m k v

/-- Remove key `k`. -/
def mapDel {α : Type} : NMap α → Nat → NMap α
  | [], _ => []
  | (j, w) :: m, k => if j = k then m else if k < j then (j, w) :: m else (j, w) :: mapDel m k

/-- The keys rise strictly. -/
def mapWf {α : Type} : NMap α → Bool
  | [] => true
  | [_] => true
  | (j, _) :: (k, w) :: m => decide (j < k) && mapWf ((k, w) :: m)

/-- Replace the entry at `k`, when there is one. -/
def mapAdj {α : Type} (m : NMap α) (k : Nat) (f : α → α) : NMap α :=
  match mapGet m k with
  | some v => mapPut m k (f v)
  | none => m

/-- The least natural number that is not a key, from `k` on. -/
def mapFresh {α : Type} : NMap α → Nat → Nat
  | [], k => k
  | (j, _) :: m, k => if j < k then mapFresh m k else if j = k then mapFresh m (k + 1) else k

/-- Bits [lo + w − 1 : lo] of `n` (R5). -/
def fld (n lo w : Nat) : Nat := n / 2 ^ lo % 2 ^ w

/-- `v` in a field of `w` bits at bit `lo`. -/
def at_ (lo w v : Nat) : Nat := 2 ^ lo * (v % 2 ^ w)

/-- `n` with bits [lo + w − 1 : lo] replaced by `v`. -/
def setFld (n lo w v : Nat) : Nat := n - 2 ^ lo * fld n lo w + at_ lo w v

/-- A little-endian number (R4). -/
def leNat : Bytes → Nat
  | [] => 0
  | b :: bs => b.toNat + 256 * leNat bs

/-- The `k` low bytes of a number, little-endian (R4). -/
def natLe : Nat → Nat → Bytes
  | 0, _ => []
  | k + 1, n => BitVec.ofNat 8 (n % 256) :: natLe k (n / 256)

/-- `len` bytes from `off` on; bytes beyond the end are absent. -/
def slice (b : Bytes) (off len : Nat) : Bytes := (b.drop off).take len

/-- The `len`-byte little-endian number at `off`. -/
def num (b : Bytes) (off len : Nat) : Nat := leNat (slice b off len)

/-- The field [lo + w − 1 : lo] counted from byte `off`. -/
def bfld (b : Bytes) (off lo w : Nat) : Nat := fld (num b off ((lo + w + 7) / 8)) lo w

/-- `len` zero bytes. -/
def zeros (len : Nat) : Bytes := List.replicate len 0

/-- `b` cut or padded with zeros to `len` bytes. -/
def padTo (len : Nat) (b : Bytes) : Bytes := (b ++ zeros (len - b.length)).take len

/-- `b` with the bytes `d` written from `off` on (no growth). -/
def overlay (b : Bytes) (off : Nat) (d : Bytes) : Bytes :=
  b.take off ++ (d.take (b.length - off)) ++ b.drop (off + d.length)

/-- Serial order of n-bit values (R496): `a` is after `b`. -/
def serialAfter (n a b : Nat) : Bool :=
  let d := (a + 2 ^ n - b % 2 ^ n) % 2 ^ n
  decide (1 ≤ d ∧ d < 2 ^ (n - 1))

/-- Serial order of n-bit values (R496): `a` is before `b`. -/
def serialBefore (n a b : Nat) : Bool := decide (2 ^ (n - 1) < (a + 2 ^ n - b % 2 ^ n) % 2 ^ n)

/-- `a` and `b` are unordered (R496). -/
def unordered (n a b : Nat) : Bool := decide ((a + 2 ^ n - b % 2 ^ n) % 2 ^ n = 2 ^ (n - 1))

/-- A w-bit saturating counter raised by `k` (R427). -/
def satAdd (w a k : Nat) : Nat := min (2 ^ w - 1) (a + k)

/-- Division rounded up. -/
def ceilDiv (a b : Nat) : Nat := (a + b - 1) / b

/-- The largest entry of a list, 0 for an empty one. -/
def maxOf (l : List Nat) : Nat := l.foldl max 0

/-- The sum of a list. -/
def sumOf (l : List Nat) : Nat := l.foldl (· + ·) 0

/-- `l` sorted in ascending order by a key (insertion sort, stable). -/
def insertBy {α : Type} (le : α → α → Bool) (x : α) : List α → List α
  | [] => [x]
  | y :: ys => if le x y then x :: y :: ys else y :: insertBy le x ys

/-- Stable insertion sort. -/
def sortBy {α : Type} (le : α → α → Bool) (l : List α) : List α := l.foldr (insertBy le) []

/-- Remove the first entry that satisfies `p`. -/
def removeFirst {α : Type} (p : α → Bool) : List α → List α
  | [] => []
  | x :: xs => if p x then xs else x :: removeFirst p xs

/-- Replace the entry at index `k`. -/
def setAt {α : Type} : List α → Nat → α → List α
  | [], _, _ => []
  | _ :: xs, 0, v => v :: xs
  | x :: xs, k + 1, v => x :: setAt xs k v

/-- A failed unit leaves service: a spare takes its index, or the index is empty. -/
def assignStep (p : List (Option Nat) × List Nat) (f : Nat) : List (Option Nat) × List Nat :=
  if p.2.contains f then (p.1, p.2.erase f)
  else
    match p.1.findIdx? (· == some f), p.2 with
    | none, _ => p
    | some i, q :: r => (setAt p.1 i (some q), r)
    | some i, [] => (setAt p.1 i none, [])

/-- The physical units behind the software indices, which stay contiguous from 0, and the spares left, of `n` units
whose failures are replaced in the order given (R14, R15, R455). -/
def assignUnits (n : Nat) (spares failed : List Nat) : List Nat × List Nat :=
  let p := failed.foldl assignStep ((List.range n).map some, spares)
  (p.1.filterMap id, p.2)

end Sys2Proof.Machine
end

