-- ==== Sys2Proof/Machine/Fp.lean ====
section
/-!
DEFINITION. Machine/Fp.lean: the numbers of the chapter "Attention arithmetic": binary32 with the three roundings of R86,
exact sums, products and quotients rounded once, the correctly rounded functions by long fixed-point expansion (log entry
13), and the formats of Tables 04.2 and 04.3.  A binary32 value is its bit pattern as a number.
-/

namespace Sys2Proof.Machine

/-- Rounding directions (R86). -/
inductive Rnd where
  | rn | ru | rd
deriving DecidableEq, Repr

/-- A decoded value: NaN, an infinity, or (−1)^neg × m × 2^e. -/
inductive Fp where
  | nan
  | inf (neg : Bool)
  | fin (neg : Bool) (m : Nat) (e : Int)
deriving DecidableEq, Repr

/-- The magnitude bits of (n / d) × 2^e rounded to `mb` mantissa bits above the least exponent `umin`: exponent and
mantissa run on from each other, without a bound above. -/
def roundMag (mb : Nat) (umin : Int) (md : Rnd) (neg : Bool) (n d : Nat) (e : Int) : Nat :=
  if n = 0 then 0
  else
    let lg : Int := (n.log2 : Int) - (d.log2 : Int)
    let below : Bool := if 0 ≤ lg then decide (n < d * 2 ^ lg.toNat) else decide (n * 2 ^ (-lg).toNat < d)
    let top : Int := lg + e - (if below then 1 else 0)
    let u : Int := max (top - mb) umin
    let sh := e - u
    let nn := if 0 ≤ sh then n * 2 ^ sh.toNat else n
    let dd := if 0 ≤ sh then d else d * 2 ^ (-sh).toNat
    let q := nn / dd
    let r := nn % dd
    let up : Bool := match md with
      | .rn => decide (dd < 2 * r ∨ 2 * r = dd ∧ q % 2 = 1)
      | .ru => !neg && decide (0 < r)
      | .rd => neg && decide (0 < r)
    (u - umin).toNat * 2 ^ mb + q + (if up then 1 else 0)

/-- Canonical NaN of binary32 (R86). -/
def fNan : Nat := 0x7FC00000
/-- A binary32 pattern as the node writes it: every NaN is the canonical one (R86). -/
def fCanon (x : Nat) : Nat := if x / 2 ^ 23 % 256 = 255 ∧ x % 2 ^ 23 ≠ 0 then fNan else x
def fInf (neg : Bool) : Nat := if neg then 0xFF800000 else 0x7F800000
def fNegInf : Nat := 0xFF800000
def fOne : Nat := 0x3F800000
def fZero : Nat := 0
/-- L2E (R86). -/
def fL2E : Nat := 0x3FB8AA3B

/-- (−1)^neg × (n / d) × 2^e rounded to binary32; a zero keeps the sign given. -/
def roundFrac (md : Rnd) (neg : Bool) (n d : Nat) (e : Int) : Nat :=
  let b := roundMag 23 (-149) md neg n d e
  let s := if neg then 2 ^ 31 else 0
  if b < 0x7F800000 then s + b
  else
    match md, neg with
    | .ru, true => s + 0x7F7FFFFF
    | .rd, false => 0x7F7FFFFF
    | _, _ => s + 0x7F800000

/-- Decode a binary32 pattern. -/
def fDec (x : Nat) : Fp :=
  let neg := decide (fld x 31 1 = 1)
  let ex := fld x 23 8
  let m := fld x 0 23
  if ex = 255 then (if m = 0 then .inf neg else .nan)
  else if ex = 0 then .fin neg m (-149) else .fin neg (m + 2 ^ 23) ((ex : Int) - 150)

def fIsNan (x : Nat) : Bool := match fDec x with
  | .nan => true
  | _ => false
def fFinite (x : Nat) : Bool := match fDec x with
  | .fin _ _ _ => true
  | _ => false
def fNeg (x : Nat) : Bool := decide (fld x 31 1 = 1)
def fAbs (x : Nat) : Nat := fld x 0 31
def fNegate (x : Nat) : Nat := if fNeg x then x - 2 ^ 31 else x + 2 ^ 31

/-- The sign-magnitude order of two non-NaN patterns as an integer key. -/
def fKey (x : Nat) : Int := if fNeg x then -(fAbs x : Int) else (fAbs x : Int)
def fLt (x y : Nat) : Bool := decide (fKey x < fKey y)
def fLe (x y : Nat) : Bool := decide (fKey x ≤ fKey y)
def fMax (x y : Nat) : Nat := if fLt x y then y else x

/-- A signed integer multiple of 2^e. -/
def sInt (neg : Bool) (m : Nat) : Int := if neg then -(m : Int) else m

/-- a × b + c formed exactly and rounded once (R86). -/
def fFma (md : Rnd) (a b c : Nat) : Nat :=
  match fDec a, fDec b, fDec c with
  | .nan, _, _ => fNan
  | _, .nan, _ => fNan
  | _, _, .nan => fNan
  | .fin na ma ea, .fin nb mb eb, .fin nc mc ec =>
    let e := min (ea + eb) ec
    let p := sInt (na != nb) (ma * mb * 2 ^ (ea + eb - e).toNat)
    let q := sInt nc (mc * 2 ^ (ec - e).toNat)
    let t := p + q
    if t = 0 then
      if ma * mb = 0 ∧ mc = 0 ∧ (na != nb) = nc then (if nc then 2 ^ 31 else 0)
      else if md = .rd then 2 ^ 31 else 0
    else roundFrac md (decide (t < 0)) t.natAbs 1 e
  | .fin _ _ _, .fin _ _ _, .inf nc => fInf nc
  | da, db, dc =>
    -- an infinity among the factors
    let zero (x : Fp) : Bool := match x with
      | .fin _ m _ => decide (m = 0)
      | _ => false
    let np := fNeg a != fNeg b
    if zero da || zero db then fNan
    else
      match dc with
      | .inf nc => if nc = np then fInf np else fNan
      | _ => fInf np

def fAdd (md : Rnd) (a b : Nat) : Nat := fFma md a fOne b
def fSub (md : Rnd) (a b : Nat) : Nat := fFma md (fNegate b) fOne a

/-- A product rounded once. -/
def fMul (md : Rnd) (a b : Nat) : Nat :=
  match fDec a, fDec b with
  | .nan, _ => fNan
  | _, .nan => fNan
  | .fin na ma ea, .fin nb mb eb => roundFrac md (na != nb) (ma * mb) 1 (ea + eb)
  | .fin _ m _, .inf _ => if m = 0 then fNan else fInf (fNeg a != fNeg b)
  | .inf _, .fin _ m _ => if m = 0 then fNan else fInf (fNeg a != fNeg b)
  | .inf na, .inf nb => fInf (na != nb)

/-- A quotient rounded once. -/
def fDiv (md : Rnd) (a b : Nat) : Nat :=
  let ng := fNeg a != fNeg b
  match fDec a, fDec b with
  | .nan, _ => fNan
  | _, .nan => fNan
  | .inf _, .inf _ => fNan
  | .inf _, _ => fInf ng
  | _, .inf _ => if ng then 2 ^ 31 else 0
  | .fin _ ma ea, .fin _ mb eb =>
    if mb = 0 then (if ma = 0 then fNan else fInf ng) else roundFrac md ng ma mb (ea - eb)

/-! ## Correctly rounded functions -/

/-- Fixed-point precision of the expansions, in bits (log entry 13). -/
def fxBits : Nat := 704
/-- ln 2 and π in units of 2^−704. -/
def fxLn2 : Nat := 0xb17217f7d1cf79abc9e3b39803f2f6af40f343267298b62d8a0d175b8baafa2be7b876206debac98559552fb4afa1b10ed2eae35c138214427573b291169b8253e96ca16224ae8c51acbda11317c387eb9ea9bc3b136603b
def fxPi : Nat := 0x3243f6a8885a308d313198a2e03707344a4093822299f31d0082efa98ec4e6c89452821e638d01377be5466cf34e90c6cc0ac29b7c97c50dd3f84d5b5b54709179216d5d98979fb1bd1310ba698dfb5ac2ffd72dbd01adfb7

/-- m × 2^e in units of 2^−704, toward zero. -/
def toFx (m : Nat) (e : Int) : Nat :=
  let s := e + (fxBits : Int)
  if 0 ≤ s then m * 2 ^ s.toNat else m / 2 ^ (-s).toNat

def fxMul (a b : Nat) : Nat := a * b / 2 ^ fxBits

/-- Σ y^k / k! from a term `t` = y^k / k! on. -/
def expTerms (y : Nat) : Nat → Nat → Nat → Nat
  | 0, _, _ => 0
  | fuel + 1, k, t => if t = 0 then 0 else t + expTerms y fuel (k + 1) (fxMul t y / (k + 1))

/-- e^y for 0 ≤ y < 1, in units of 2^−704. -/
def fxExp (y : Nat) : Nat := expTerms y 200 0 (2 ^ fxBits)

/-- Σ over odd or even terms of e^y with alternating or equal signs: from the term `t` = y^k / k! on, every second term. -/
def trigTerms (alt : Bool) (y : Nat) : Nat → Nat → Nat → Int
  | 0, _, _ => 0
  | fuel + 1, k, t =>
    if t = 0 then 0
    else
      let r := trigTerms alt y fuel (k + 2) (fxMul (fxMul t y) y / ((k + 1) * (k + 2)))
      (t : Int) + (if alt then -r else r)

/-- exp2 of a signed fixed-point number: as mantissa in units of 2^−704 and a binary exponent. -/
def exp2Fx (x : Int) : Nat × Int :=
  let i := x / (2 ^ fxBits : Int)
  let f := (x - i * (2 ^ fxBits : Int)).toNat
  (if f = 0 then 2 ^ fxBits else fxExp (fxMul f fxLn2), i)

/-- exp2, correctly rounded (R86). -/
def fExp2 (md : Rnd) (x : Nat) : Nat :=
  match fDec x with
  | .nan => fNan
  | .inf true => 0
  | .inf false => fInf false
  | .fin neg m e =>
    if fLt x 0xC3800000 then roundFrac md false 1 1 (-1000)
    else if fLt 0x43800000 x then roundFrac md false 1 1 1000
    else
      let (n, i) := exp2Fx (sInt neg (toFx m e))
      roundFrac md false n 1 (i - fxBits)

/-- tanh, correctly rounded (R86). -/
def fTanh (md : Rnd) (x : Nat) : Nat :=
  match fDec x with
  | .nan => fNan
  | .inf neg => roundFrac md neg 1 1 0
  | .fin neg m e =>
    if m = 0 then x
    else if fLe 0x41800000 (fAbs x) then roundFrac md neg (2 ^ 60 - 1) (2 ^ 60) 0
    else
      let y := toFx m e
      let sh := trigTerms false y 300 1 y
      let ch := trigTerms false y 300 0 (2 ^ fxBits)
      roundFrac md neg sh.toNat ch.toNat 0

/-- Σ z^(2k+1) / (2k + 1) from z^(2k+1) = `t` on. -/
def atanhTerms (z : Nat) : Nat → Nat → Nat → Nat
  | 0, _, _ => 0
  | fuel + 1, k, t => if t = 0 then 0 else t / k + atanhTerms z fuel (k + 2) (fxMul (fxMul t z) z)

/-- ln of a positive finite binary32 value m × 2^e, in units of 2^−704. -/
def fxLn (m : Nat) (e : Int) : Int :=
  let lg := m.log2
  let one := 2 ^ lg
  let z := (m - one) * 2 ^ fxBits / (m + one)
  ((2 * atanhTerms z 300 1 z : Nat) : Int) + (e + lg) * (fxLn2 : Int)

/-- pow(base, −2j / D), correctly rounded to nearest; the exponent is exact (R90).  A context's base is at least 1; a command's
may be any value, of which the spec says nothing: the bases that are no positive finite number, −infinity among them, follow
IEEE 754's pow (log entry 186). -/
def fPowRope (base j d : Nat) : Nat :=
  match fDec base with
  | .fin neg m e =>
    if j = 0 then fOne
    else if m = 0 then fInf false
    else if neg then fNan
    else
      let y := fxLn m e * ((2 * j : Nat) : Int) / (d : Int)
      let k := y / (fxLn2 : Int) + 1
      roundFrac .rn false (fxExp (k * (fxLn2 : Int) - y).toNat) 1 (-k - fxBits)
  | .inf _ => if j = 0 then fOne else 0
  | .nan => if j = 0 then fOne else fNan

/-- cos and sin of the exact product p × f, correctly rounded to nearest (R90).  A frequency that is infinite (a power that
overflows) or a NaN gives no angle: cos and sin are NaN then, the model's choice (log entry 186). -/
def fCosSin (p f : Nat) : Nat × Nat :=
  match fDec f with
  | .fin _ m e =>
    let y := toFx (p * m) e % (2 * fxPi)
    let c := trigTerms true y 400 0 (2 ^ fxBits)
    let s := trigTerms true y 400 1 y
    let enc (v : Int) : Nat := roundFrac .rn (decide (v < 0)) v.natAbs 1 (-(fxBits : Int))
    if y = 0 then (fOne, 0) else (enc c, enc s)
  | _ => (fNan, fNan)

/-- The integer square root by bits from 2^k down. -/
def isqrtBits (n : Nat) : Nat → Nat → Nat
  | 0, r => r
  | k + 1, r => let t := r + 2 ^ k; isqrtBits n k (if t * t ≤ n then t else r)

/-- 1 / √x, correctly rounded to nearest (R175). -/
def fRsqrt (x : Nat) : Nat :=
  match fDec x with
  | .nan => fNan
  | .inf neg => if neg then fNan else 0
  | .fin neg m e =>
    if m = 0 then fInf neg
    else if neg then fNan
    else
      -- 1/√(m 2^e) = √(2^(2t)/m) 2^(−t−e/2) with an even exponent
      let odd := decide (e % 2 ≠ 0)
      let m := if odd then 2 * m else m
      let e := if odd then e - 1 else e
      let n := 2 ^ 160 / m
      let r := isqrtBits n 81 0
      let exact := r * r * m == 2 ^ 160
      roundFrac .rn false (2 * r + (if exact then 0 else 1)) 1 (-81 - e / 2)

/-! ## Formats -/

/-- Widen a BF16 pattern exactly (R87). -/
def bf16Dec (b : Nat) : Nat := b % 65536 * 65536

/-- Encode binary32 as BF16, RN (Table 04.3). -/
def bf16Enc (x : Nat) : Nat :=
  match fDec x with
  | .nan => 0x7FC0
  | .inf neg => if neg then 0xFF80 else 0x7F80
  | .fin neg m e =>
    let b := roundMag 7 (-133) .rn neg m 1 e
    (if neg then 0x8000 else 0) + min b 0x7F80

/-- A finite small value as binary32: exact. -/
def fOf (neg : Bool) (m : Nat) (e : Int) : Nat := roundFrac .rn neg m 1 e

/-- Decode FP8 E4M3 (Table 04.2). -/
def e4m3Dec (b : Nat) : Nat :=
  let neg := decide (fld b 7 1 = 1)
  let ex := fld b 3 4
  let m := fld b 0 3
  if ex = 15 ∧ m = 7 then fNan
  else if ex = 0 then fOf neg m (-9) else fOf neg (m + 8) ((ex : Int) - 10)

/-- Decode FP8 E5M2 (Table 04.2). -/
def e5m2Dec (b : Nat) : Nat :=
  let neg := decide (fld b 7 1 = 1)
  let ex := fld b 2 5
  let m := fld b 0 2
  if ex = 31 then (if m = 0 then fInf neg else fNan)
  else if ex = 0 then fOf neg m (-16) else fOf neg (m + 4) ((ex : Int) - 17)

/-- Encode as FP8 E4M3, RN, saturating (Table 04.3). -/
def e4m3Enc (x : Nat) : Nat :=
  match fDec x with
  | .fin neg m e => (if neg then 128 else 0) + min (roundMag 3 (-9) .rn neg m 1 e) 0x7E
  | _ => 0x7F

/-- Encode as FP8 E5M2, RN, saturating (Table 04.3). -/
def e5m2Enc (x : Nat) : Nat :=
  match fDec x with
  | .nan => 0x7F
  | .inf neg => if neg then 0xFC else 0x7C
  | .fin neg m e => (if neg then 128 else 0) + min (roundMag 2 (-16) .rn neg m 1 e) 0x7B

/-- A gloss bound (R58): E5M2 rounded toward the named infinity, an overflow away from zero becoming the infinity and
one toward zero saturating. -/
def e5m2Bound (up : Bool) (x : Nat) : Nat :=
  match fDec x with
  | .nan => 0x7F
  | .inf neg => if neg then 0xFC else 0x7C
  | .fin neg m e =>
    let b := roundMag 2 (-16) (if up then .ru else .rd) neg m 1 e
    let s := if neg then 128 else 0
    if b ≤ 0x7B then s + b else if up = !neg then s + 0x7C else s + 0x7B

/-- Decode an E2M1 element × 2^(S − 127) (Table 04.2). -/
def mx4Dec (nib scale : Nat) : Nat :=
  if scale = 255 then fNan
  else
    let neg := decide (fld nib 3 1 = 1)
    let ex := fld nib 1 2
    let m := fld nib 0 1
    if ex = 0 then fOf neg m (-1 + (scale : Int) - 127) else fOf neg (m + 2) ((ex : Int) - 2 + (scale : Int) - 127)

/-- Decode a K4S element: a 4-bit two's-complement integer × an E4M3 scale (Table 04.2). -/
def k4sDec (nib scale : Nat) : Nat :=
  let neg := decide (8 ≤ nib)
  let k := if neg then 16 - nib else nib
  match fDec (e4m3Dec scale) with
  | .fin ns m e => fOf (neg != ns) (k * m) e
  | _ => fNan

/-- The scale and elements of an MXFP4 block (Table 04.3). -/
def mx4Enc (xs : List Nat) : Nat × List Nat :=
  if !(xs.all fFinite) then (0xFF, xs.map fun _ => 0)
  else
    let a := maxOf (xs.map fAbs)
    match fDec a with
    | .fin _ m e =>
      if m = 0 then (0x7F, xs.map fun _ => 0)
      else
        let ex : Int := max (-127) (min 127 ((m.log2 : Int) + e - 2))
        ((ex + 127).toNat, xs.map fun x =>
          match fDec x with
          | .fin neg m e => (if neg then 8 else 0) + min (roundMag 1 (-1) .rn neg m 1 (e - ex)) 7
          | _ => 0)
    | _ => (0xFF, xs.map fun _ => 0)

/-- The quotient of two magnitudes rounded to the nearest integer, ties to even. -/
def rnInt (n d : Nat) : Nat :=
  let q := n / d
  let r := n % d
  if d < 2 * r ∨ 2 * r = d ∧ q % 2 = 1 then q + 1 else q

/-- m × 2^e over p × 2^f as a pair of naturals. -/
def ratio (m : Nat) (e : Int) (p : Nat) (f : Int) : Nat × Nat :=
  if f ≤ e then (m * 2 ^ (e - f).toNat, p) else (m, p * 2 ^ (f - e).toNat)

/-- The scale and elements of a K4S block (Table 04.3). -/
def k4sEnc (xs : List Nat) : Nat × List Nat :=
  if !(xs.all fFinite) then (0x7F, xs.map fun _ => 0)
  else
    match fDec (maxOf (xs.map fAbs)) with
    | .fin _ m e =>
      if m = 0 then (0, xs.map fun _ => 0)
      else
        let d := min 0x7E (max 1 (roundMag 3 (-9) .ru false m 7 e))
        match fDec (e4m3Dec d) with
        | .fin _ dm de =>
          (d, xs.map fun x =>
            match fDec x with
            | .fin neg m e =>
              let (n, dd) := ratio m e dm de
              let q := min 7 (rnInt n dd)
              if neg ∧ q ≠ 0 then 16 - q else q
            | _ => 0)
        | _ => (0x7F, xs.map fun _ => 0)
    | _ => (0x7F, xs.map fun _ => 0)

/-- RN(x / s) clamped to −127 … 127, as a byte (R175); a NaN or an infinity takes the clamp of its sign, NaN 0
(log entry 15). -/
def int8Enc (x s : Nat) : Nat :=
  match fDec (fDiv .rn x s) with
  | .nan => 0
  | .inf neg => if neg then 129 else 127
  | .fin neg m e =>
    let (n, d) := ratio m e 1 0
    let q := min 127 (rnInt n d)
    if neg ∧ q ≠ 0 then 256 - q else q

/-- Groups of `k` elements. -/
def chunks {α : Type} (k : Nat) : Nat → List α → List (List α)
  | 0, _ => []
  | fuel + 1, l => if l.isEmpty then [] else l.take k :: chunks k fuel (l.drop k)

/-- Decode a cache row of `w` channels (R52, R87). -/
def rowDec (fmt w : Nat) (b : Bytes) : List Nat :=
  match fmt with
  | 0 => (List.range w).map fun c => bf16Dec (num b (2 * c) 2)
  | 1 => (List.range w).map fun c => e4m3Dec (num b c 1)
  | 2 => (List.range w).map fun c => e5m2Dec (num b c 1)
  | _ =>
    (List.range w).map fun c =>
      let nib := bfld b (c / 2) (4 * (c % 2)) 4
      let scale := num b (w / 2 + c / 32) 1
      if fmt = 3 then mx4Dec nib scale else k4sDec nib scale

/-- Pack nibbles, the even channel low (R52). -/
def packNibbles : List Nat → Bytes
  | a :: b :: r => BitVec.ofNat 8 (a + 16 * b) :: packNibbles r
  | [a] => [BitVec.ofNat 8 a]
  | [] => []

/-- Encode a row of binary32 values into a cache format (R52, R89). -/
def rowEnc (fmt : Nat) (xs : List Nat) : Bytes :=
  match fmt with
  | 0 => xs.flatMap fun x => natLe 2 (bf16Enc x)
  | 1 => xs.map fun x => BitVec.ofNat 8 (e4m3Enc x)
  | 2 => xs.map fun x => BitVec.ofNat 8 (e5m2Enc x)
  | _ =>
    let bs := (chunks 32 xs.length xs).map (if fmt = 3 then mx4Enc else k4sEnc)
    packNibbles (bs.flatMap (·.2)) ++ bs.map fun b => BitVec.ofNat 8 b.1

end Sys2Proof.Machine
end

