-- ==== Sys2Proof/Machine/Crypto.lean ====
section
/-!
DEFINITION. Machine/Crypto.lean: the functions of the standards that the spec names: Keccak with SHA3-256 and SHAKE (FIPS 202:
R434, R440, R490) and KMAC256 (SP 800-185: R375, R437), and AES-256 (FIPS 197) in XTS mode (IEEE 1619: R237, R238).
-/

namespace Sys2Proof.Machine

/-! ## Keccak -/

abbrev Lane64 := BitVec 64

/-- Lane x + 5y of a Keccak state. -/
def lane (a : List Lane64) (x y : Nat) : Lane64 := a.getD (x % 5 + 5 * (y % 5)) 0

/-- The 25 lanes of a state, from their coordinates. -/
def lanes (f : Nat → Nat → Lane64) : List Lane64 := (List.range 25).map fun i => f (i % 5) (i / 5)

def theta (a : List Lane64) : List Lane64 :=
  let c := (List.range 5).map fun x => (List.range 5).foldl (fun v y => v ^^^ lane a x y) 0
  let d := (List.range 5).map fun x => c.getD ((x + 4) % 5) 0 ^^^ (c.getD ((x + 1) % 5) 0).rotateLeft 1
  lanes fun x y => lane a x y ^^^ d.getD x 0

/-- Rotation offsets of lanes x + 5y. -/
def rhoOffsets : List Nat :=
  [0, 1, 62, 28, 27, 36, 44, 6, 55, 20, 3, 10, 43, 25, 39, 41, 45, 15, 21, 8, 18, 2, 61, 56, 14]

/-- ρ and π: lane (x, y) comes, rotated, from lane (x + 3y, x). -/
def rhoPi (a : List Lane64) : List Lane64 :=
  lanes fun x y => (lane a (x + 3 * y) x).rotateLeft (rhoOffsets.getD ((x + 3 * y) % 5 + 5 * x) 0)

def chi (a : List Lane64) : List Lane64 := lanes fun x y => lane a x y ^^^ (~~~(lane a (x + 1) y) &&& lane a (x + 2) y)

def roundConstants : List Nat :=
  [0x0000000000000001, 0x0000000000008082, 0x800000000000808A, 0x8000000080008000, 0x000000000000808B, 0x0000000080000001,
   0x8000000080008081, 0x8000000000008009, 0x000000000000008A, 0x0000000000000088, 0x0000000080008009, 0x000000008000000A]
  ++ [0x000000008000808B, 0x800000000000008B, 0x8000000000008089, 0x8000000000008003, 0x8000000000008002, 0x8000000000000080,
   0x000000000000800A, 0x800000008000000A, 0x8000000080008081, 0x8000000000008080, 0x0000000080000001, 0x8000000080008008]

/-- One round, with ι's constant. -/
def keccakRound (a : List Lane64) (k : Nat) : List Lane64 :=
  match chi (rhoPi (theta a)) with
  | v :: rest => (v ^^^ BitVec.ofNat 64 k) :: rest
  | [] => []

def keccakF (a : List Lane64) : List Lane64 := roundConstants.foldl keccakRound a

/-- The rate of capacity 512, in bytes. -/
def keccakRate : Nat := 136

/-- Absorb one block, of at most 200 bytes. -/
def absorb (a : List Lane64) (b : Bytes) : List Lane64 :=
  keccakF (lanes fun x y => lane a x y ^^^ BitVec.ofNat 64 (num b (8 * (x + 5 * y)) 8))

/-- Absorb `n` blocks of `rate` bytes. -/
def absorbAll (rate : Nat) : Nat → List Lane64 → Bytes → List Lane64
  | 0, a, _ => a
  | n + 1, a, b => absorbAll rate n (absorb a (b.take rate)) (b.drop rate)

/-- The message with its suffix bits and pad10*1. -/
def keccakPad (rate suffix : Nat) (m : Bytes) : Bytes :=
  let k := rate - m.length % rate
  m ++ (if k = 1 then [BitVec.ofNat 8 (suffix + 0x80)]
        else BitVec.ofNat 8 suffix :: (zeros (k - 2) ++ [BitVec.ofNat 8 0x80]))

/-- The sponge after a message with its suffix. -/
def sponge (rate suffix : Nat) (m : Bytes) : List Lane64 :=
  let p := keccakPad rate suffix m
  absorbAll rate (p.length / rate) (List.replicate 25 0) p

/-- The first 32 bytes of KECCAK[512] of a message with its suffix. -/
def keccak256 (suffix : Nat) (m : Bytes) : Bytes :=
  ((sponge keccakRate suffix m).take 4).flatMap fun v => natLe 8 v.toNat

/-- `n` blocks squeezed from a sponge. -/
def squeeze (rate : Nat) : Nat → List Lane64 → Bytes
  | 0, _ => []
  | n + 1, a => ((a.take (rate / 8)).flatMap fun v => natLe 8 v.toNat) ++ squeeze rate n (keccakF a)

/-- SHAKE128 with an output of `n` bytes. -/
def shake128 (m : Bytes) (n : Nat) : Bytes := (squeeze 168 (n / 168 + 1) (sponge 168 0x1F m)).take n

/-- SHAKE256 with an output of `n` bytes. -/
def shake256 (m : Bytes) (n : Nat) : Bytes := (squeeze keccakRate (n / keccakRate + 1) (sponge keccakRate 0x1F m)).take n

/-- SHA3-256. -/
def sha3 (m : Bytes) : Bytes := keccak256 0x06 m

/-! ## KMAC256 (SP 800-185) -/

/-- The bytes that a number needs, at least one. -/
def byteCount (n : Nat) : Nat := max 1 ((List.range 8).foldl (fun k i => if 256 ^ i ≤ n then i + 1 else k) 0)

/-- `left_encode`. -/
def leftEncode (n : Nat) : Bytes := BitVec.ofNat 8 (byteCount n) :: (natLe (byteCount n) n).reverse

/-- `right_encode`. -/
def rightEncode (n : Nat) : Bytes := (natLe (byteCount n) n).reverse ++ [BitVec.ofNat 8 (byteCount n)]

/-- `encode_string`. -/
def encodeString (b : Bytes) : Bytes := leftEncode (8 * b.length) ++ b

/-- `bytepad` to the rate. -/
def bytePad (b : Bytes) : Bytes :=
  let p := leftEncode keccakRate ++ b
  p ++ zeros ((keccakRate - p.length % keccakRate) % keccakRate)

/-- The ASCII text `KMAC`. -/
def kmacName : Bytes := [0x4B, 0x4D, 0x41, 0x43]

/-- KMAC256 with a 256-bit output: key, data, customisation string. -/
def kmac256 (key data custom : Bytes) : Bytes :=
  keccak256 0x04 (bytePad (encodeString kmacName ++ encodeString custom) ++ bytePad (encodeString key) ++ data
    ++ rightEncode 256)

/-! ## AES-256 -/

/-- Multiplication by x in GF(2^8), modulo 0x11B. -/
def xtime (a : Byte) : Byte := if a.getLsbD 7 then a <<< 1 ^^^ 0x1B else a <<< 1

/-- Multiplication in GF(2^8), by the bits of the second factor. -/
def gmul (a b : Byte) : Byte :=
  ((List.range 8).foldl (fun (p : Byte × Byte) i => (if b.getLsbD i then p.1 ^^^ p.2 else p.1, xtime p.2)) (0, a)).1

/-- The inverse in GF(2^8), a^254; 0 for 0. -/
def ginv (a : Byte) : Byte :=
  let a2 := gmul a a
  let a3 := gmul a2 a
  let a12 := (List.range 2).foldl (fun v _ => gmul v v) a3
  let a15 := gmul a12 a3
  let a240 := (List.range 4).foldl (fun v _ => gmul v v) a15
  gmul (gmul a240 a12) a2

/-- `SubBytes` of one byte. -/
def subByte (a : Byte) : Byte :=
  let b := ginv a
  b ^^^ b.rotateLeft 1 ^^^ b.rotateLeft 2 ^^^ b.rotateLeft 3 ^^^ b.rotateLeft 4 ^^^ 0x63

/-- `InvSubBytes` of one byte. -/
def invSubByte (a : Byte) : Byte := ginv (a.rotateLeft 1 ^^^ a.rotateLeft 3 ^^^ a.rotateLeft 6 ^^^ 0x05)

def xorBytes (a b : Bytes) : Bytes := List.zipWith (· ^^^ ·) a b

/-- `ShiftRows`: byte r + 4c comes from column c + r. -/
def shiftRows (b : Bytes) : Bytes := (List.range 16).map fun i => b.getD ((i + 4 * (i % 4)) % 16) 0

def invShiftRows (b : Bytes) : Bytes := (List.range 16).map fun i => b.getD ((i + 12 * (i % 4)) % 16) 0

/-- Multiply every column by a circulant matrix. -/
def mixWith (m0 m1 m2 m3 : Byte) (b : Bytes) : Bytes :=
  (List.range 16).map fun i =>
    let at_ (k : Nat) : Byte := b.getD (i / 4 * 4 + (i + k) % 4) 0
    gmul (at_ 0) m0 ^^^ gmul (at_ 1) m1 ^^^ gmul (at_ 2) m2 ^^^ gmul (at_ 3) m3

def mixColumns (b : Bytes) : Bytes := mixWith 2 3 1 1 b
def invMixColumns (b : Bytes) : Bytes := mixWith 0x0E 0x0B 0x0D 0x09 b

/-- One word of the key schedule, from the one 8 before it and the one before it. -/
def keyWord (i : Nat) (back prev : Bytes) : Bytes :=
  let t := if i % 8 = 0 then
      xorBytes ((prev.drop 1 ++ prev.take 1).map subByte) [BitVec.ofNat 8 (2 ^ (i / 8 - 1)), 0, 0, 0]
    else if i % 8 = 4 then prev.map subByte else prev
  xorBytes back t

/-- The 60 words of the key schedule of a 32-byte key. -/
def keySchedule (key : Bytes) : List Bytes :=
  ((List.range 52).map (· + 8)).foldl (init := (List.range 8).map fun i => padTo 4 (slice key (4 * i) 4)) fun ws i =>
    ws ++ [keyWord i (ws.getD (i - 8) []) (ws.getD (i - 1) [])]

/-- Round key r. -/
def roundKey (ws : List Bytes) (r : Nat) : Bytes := (slice4 ws (4 * r)).flatten
where
  slice4 (ws : List Bytes) (i : Nat) : List Bytes := (ws.drop i).take 4

/-- AES-256 of one block under a key schedule. -/
def aesEncrypt (ws : List Bytes) (b : Bytes) : Bytes :=
  let mid := ((List.range 13).map (· + 1)).foldl (init := xorBytes b (roundKey ws 0)) fun x r =>
    xorBytes (mixColumns (shiftRows (x.map subByte))) (roundKey ws r)
  xorBytes (shiftRows (mid.map subByte)) (roundKey ws 14)

/-- The inverse cipher. -/
def aesDecrypt (ws : List Bytes) (b : Bytes) : Bytes :=
  let x := (invShiftRows (xorBytes b (roundKey ws 14))).map invSubByte
  let mid := ((List.range 13).map (13 - ·)).foldl (init := x) fun x r =>
    (invShiftRows (invMixColumns (xorBytes x (roundKey ws r)))).map invSubByte
  xorBytes mid (roundKey ws 0)

/-! ## XTS -/

/-- The tweak of the next block: times α in GF(2^128). -/
def nextTweak (t : Nat) : Nat := if t < 2 ^ 127 then 2 * t else Nat.xor (2 * t % 2 ^ 128) 0x87

/-- XTS over the whole blocks of a data unit, with the block cipher given. -/
def xtsBlocks (f : Bytes → Bytes) : Nat → Nat → Bytes → Bytes
  | 0, _, _ => []
  | n + 1, t, b =>
    let m := natLe 16 t
    xorBytes (f (xorBytes (padTo 16 (b.take 16)) m)) m ++ xtsBlocks f n (nextTweak t) (b.drop 16)

/-- The first tweak of a data unit, under the second half of the key. -/
def firstTweak (key : Bytes) (tweak : Nat) : Nat := leNat (aesEncrypt (keySchedule (key.drop 32)) (natLe 16 tweak))

/-- AES-256-XTS of one data unit under a key of 64 bytes; every data unit of the node is whole blocks long. -/
def xtsEncrypt (key : Bytes) (tweak : Nat) (b : Bytes) : Bytes :=
  xtsBlocks (aesEncrypt (keySchedule (key.take 32))) (b.length / 16) (firstTweak key tweak) b

def xtsDecrypt (key : Bytes) (tweak : Nat) (b : Bytes) : Bytes :=
  xtsBlocks (aesDecrypt (keySchedule (key.take 32))) (b.length / 16) (firstTweak key tweak) b

end Sys2Proof.Machine
end

