-- ==== Sys2Proof/Machine/RegTab.lean ====
section
/-!
DEFINITION. Machine/RegTab.lean: every register of BAR0: its offset (Table 17.8 and the register tables of each chapter),
its owner (R407, R485), and its fields with their bits, access codes (R7) and reset cells (R9).  A field whose reset cell
names no class keeps no reset value there (its home is the Tense block, or it is write-only).
-/

namespace Sys2Proof.Machine

/-- Access codes of Table 00.2. -/
inductive Acc where
  | ro | rov | rw | w1c | wo
deriving DecidableEq, Repr

/-- Reset classes of Table 00.3. -/
inductive RClass where
  | C | W | N | H | F
deriving DecidableEq, Repr

/-- Which function reaches a register (R407). -/
inductive Owner where
  | both | f0 | f1 | gsControl
deriving DecidableEq, Repr

/-- A field of a register: its lowest bit and its width (R5). -/
structure Fld where
  lo : Nat
  w  : Nat
deriving DecidableEq, Repr

/-- One row of a register table. -/
structure RegField where
  name  : String
  lo    : Nat
  w     : Nat
  acc   : Acc
  reset : Nat
  cls   : List RClass
deriving DecidableEq, Repr

/-- A register or a two-dimensional array of registers: element (i, j) lies at `base + s1 * i + s2 * j`. -/
structure RegGroup where
  name   : String
  base   : Nat
  n1     : Nat
  s1     : Nat
  n2     : Nat
  s2     : Nat
  width  : Nat
  owner  : Owner
  fields : List RegField
deriving DecidableEq, Repr

/-! ## The ID block -/

/-- ID_PART, Table 17.2. -/
def rIdPart : Nat := 0x0
def fIdPartPart : Fld := ⟨0, 32⟩
def fIdPartStepping : Fld := ⟨32, 8⟩

/-- ID_SERIAL, Table 17.2. -/
def rIdSerial : Nat := 0x8

/-- ID_CAPS, Table 17.2. -/
def rIdCaps : Nat := 0x10
def fIdCapsAcs : Fld := ⟨0, 8⟩
def fIdCapsBbds : Fld := ⟨8, 4⟩
def fIdCapsBaus : Fld := ⟨12, 5⟩
def fIdCapsFabricPorts : Fld := ⟨17, 5⟩
def fIdCapsRingPorts : Fld := ⟨22, 2⟩
def fIdCapsGddr7Gib : Fld := ⟨32, 8⟩

/-- ID_FIRMWARE, Table 17.2. -/
def rIdFirmware : Nat := 0x18
def fIdFirmwareImageSvn : Fld := ⟨0, 32⟩
def fIdFirmwareRecordSvn : Fld := ⟨32, 32⟩

def regsId0 : List RegGroup := [
  ⟨"ID_PART", 0x0, 1, 0x0, 1, 0x0, 8, .both,
    [ ⟨"PART", 0, 32, .ro, 0x34365850, [.C, .W]⟩,
      ⟨"STEPPING", 32, 8, .ro, 0xA1, [.C, .W]⟩ ]⟩,
  ⟨"ID_SERIAL", 0x8, 1, 0x0, 1, 0x0, 8, .both,
    [ ⟨"SERIAL", 0, 64, .ro, 0x0, [.C, .W]⟩ ]⟩,
  ⟨"ID_CAPS", 0x10, 1, 0x0, 1, 0x0, 8, .both,
    [ ⟨"ACS", 0, 8, .ro, 0x80, [.C, .W]⟩,
      ⟨"BBDS", 8, 4, .ro, 0x8, [.C, .W]⟩,
      ⟨"BAUS", 12, 5, .ro, 0x10, [.C, .W]⟩,
      ⟨"FABRIC_PORTS", 17, 5, .ro, 0x10, [.C, .W]⟩,
      ⟨"RING_PORTS", 22, 2, .ro, 0x2, [.C, .W]⟩,
      ⟨"GDDR7_GIB", 32, 8, .ro, 0x80, [.C, .W]⟩ ]⟩,
  ⟨"ID_FIRMWARE", 0x18, 1, 0x0, 1, 0x0, 8, .both,
    [ ⟨"IMAGE_SVN", 0, 32, .ro, 0x0, [.C, .W]⟩,
      ⟨"RECORD_SVN", 32, 32, .ro, 0x0, [.C, .W]⟩ ]⟩]

def regsId : List RegGroup := regsId0

/-! ## The GS block -/

/-- GS_STATUS, Table 17.3. -/
def rGsStatus : Nat := 0x100000
def fGsStatusTrustStep : Fld := ⟨0, 3⟩
def fGsStatusRunning : Fld := ⟨3, 1⟩
def fGsStatusStopCause : Fld := ⟨4, 4⟩
def fGsStatusLastClass : Fld := ⟨8, 3⟩
def fGsStatusCCause : Fld := ⟨11, 2⟩
def fGsStatusDegraded : Fld := ⟨13, 1⟩
def fGsStatusLxHalted : Fld := ⟨14, 1⟩
def fGsStatusBbdOut : Fld := ⟨15, 8⟩

/-- GS_UNITS, Table 17.3. -/
def rGsUnits : Nat := 0x100008
def fGsUnitsActiveAcs : Fld := ⟨0, 8⟩
def fGsUnitsActiveBaus : Fld := ⟨8, 40⟩

/-- GS_CONTROL, Table 17.3. -/
def rGsControl : Nat := 0x100010
def fGsControlNodeReset : Fld := ⟨0, 1⟩
def fGsControlNodeBusy : Fld := ⟨1, 1⟩

/-- GS_TIME, Table 17.3. -/
def rGsTime : Nat := 0x100018

/-- GS_EVENT (F1), Table 17.4. -/
def rGsEvent1 : Nat := 0x101000
def fGsEvent1Ready : Fld := ⟨0, 1⟩
def fGsEvent1BbdOut : Fld := ⟨1, 1⟩
def fGsEvent1LxHalt : Fld := ⟨2, 1⟩
def fGsEvent1BadAccess : Fld := ⟨3, 1⟩

/-- GS_EVENT_COUNT k (F1), Table 17.4. -/
def rGsEventCount1 (i : Nat) : Nat := 0x101010 + 0x4 * i
def fGsEventCount1Count : Fld := ⟨0, 32⟩

/-- GS_INT_PENDING (F1), Table 17.4. -/
def rGsIntPending1 : Nat := 0x101040

/-- GS_INT_ENABLE s (F1), Table 17.5. -/
def rGsIntEnable1 (i : Nat) : Nat := 0x101100 + 0x8 * i
def fGsIntEnable1Mask : Fld := ⟨0, 32⟩

/-- GS_EVENT (F0), Table 17.4. -/
def rGsEvent0 : Nat := 0x102000
def fGsEvent0Ready : Fld := ⟨0, 1⟩
def fGsEvent0BbdOut : Fld := ⟨1, 1⟩
def fGsEvent0LxHalt : Fld := ⟨2, 1⟩
def fGsEvent0BadAccess : Fld := ⟨3, 1⟩

/-- GS_EVENT_COUNT k (F0), Table 17.4. -/
def rGsEventCount0 (i : Nat) : Nat := 0x102010 + 0x4 * i
def fGsEventCount0Count : Fld := ⟨0, 32⟩

/-- GS_INT_PENDING (F0), Table 17.4. -/
def rGsIntPending0 : Nat := 0x102040

/-- GS_INT_ENABLE s (F0), Table 17.5. -/
def rGsIntEnable0 (i : Nat) : Nat := 0x102100 + 0x8 * i
def fGsIntEnable0Mask : Fld := ⟨0, 32⟩

def regsGs0 : List RegGroup := [
  ⟨"GS_STATUS", 0x100000, 1, 0x0, 1, 0x0, 8, .both,
    [ ⟨"TRUST_STEP", 0, 3, .rov, 0x0, [.C, .W]⟩,
      ⟨"RUNNING", 3, 1, .rov, 0x0, [.C, .W, .N, .H]⟩,
      ⟨"STOP_CAUSE", 4, 4, .rov, 0x0, [.C, .W]⟩,
      ⟨"LAST_CLASS", 8, 3, .rov, 0x0, [.C]⟩,
      ⟨"C_CAUSE", 11, 2, .rov, 0x0, [.C]⟩,
      ⟨"DEGRADED", 13, 1, .rov, 0x0, [.C, .W]⟩,
      ⟨"LX_HALTED", 14, 1, .rov, 0x0, [.C, .W]⟩,
      ⟨"BBD_OUT", 15, 8, .rov, 0x0, [.C, .W, .N]⟩ ]⟩,
  ⟨"GS_UNITS", 0x100008, 1, 0x0, 1, 0x0, 8, .both,
    [ ⟨"ACTIVE_ACS", 0, 8, .ro, 0x80, [.C, .W]⟩,
      ⟨"ACTIVE_BAUS", 8, 40, .ro, 0x8421084210, [.C, .W]⟩ ]⟩,
  ⟨"GS_CONTROL", 0x100010, 1, 0x0, 1, 0x0, 8, .gsControl,
    [ ⟨"NODE_RESET", 0, 1, .wo, 0x0, []⟩,
      ⟨"NODE_BUSY", 1, 1, .rov, 0x0, [.C, .W]⟩ ]⟩,
  ⟨"GS_TIME", 0x100018, 1, 0x0, 1, 0x0, 8, .both,
    [ ⟨"COUNT", 0, 64, .rov, 0x0, [.C]⟩ ]⟩,
  ⟨"GS_EVENT (F1)", 0x101000, 1, 0x0, 1, 0x0, 4, .f1,
    [ ⟨"READY", 0, 1, .w1c, 0x0, [.C, .W, .N, .H, .F]⟩,
      ⟨"BBD_OUT", 1, 1, .w1c, 0x0, [.C, .W, .N, .H, .F]⟩,
      ⟨"LX_HALT", 2, 1, .w1c, 0x0, [.C, .W, .N, .H, .F]⟩,
      ⟨"BAD_ACCESS", 3, 1, .w1c, 0x0, [.C, .W, .N, .H, .F]⟩ ]⟩,
  ⟨"GS_EVENT_COUNT k (F1)", 0x101010, 4, 0x4, 1, 0x0, 4, .f1,
    [ ⟨"COUNT", 0, 32, .rov, 0x0, [.C, .W, .N, .H, .F]⟩ ]⟩]

def regsGs1 : List RegGroup := [
  ⟨"GS_INT_PENDING (F1)", 0x101040, 1, 0x0, 1, 0x0, 8, .f1,
    [ ⟨"PENDING", 0, 64, .rov, 0x0, [.C, .W, .N, .H, .F]⟩ ]⟩,
  ⟨"GS_INT_ENABLE s (F1)", 0x101100, 64, 0x8, 1, 0x0, 8, .f1,
    [ ⟨"MASK", 0, 32, .rw, 0x0, [.C, .W, .N, .H, .F]⟩ ]⟩,
  ⟨"GS_EVENT (F0)", 0x102000, 1, 0x0, 1, 0x0, 4, .f0,
    [ ⟨"READY", 0, 1, .w1c, 0x0, [.C, .W]⟩,
      ⟨"BBD_OUT", 1, 1, .w1c, 0x0, [.C, .W]⟩,
      ⟨"LX_HALT", 2, 1, .w1c, 0x0, [.C, .W]⟩,
      ⟨"BAD_ACCESS", 3, 1, .w1c, 0x0, [.C, .W]⟩ ]⟩,
  ⟨"GS_EVENT_COUNT k (F0)", 0x102010, 4, 0x4, 1, 0x0, 4, .f0,
    [ ⟨"COUNT", 0, 32, .rov, 0x0, [.C, .W]⟩ ]⟩,
  ⟨"GS_INT_PENDING (F0)", 0x102040, 1, 0x0, 1, 0x0, 8, .f0,
    [ ⟨"PENDING", 0, 64, .rov, 0x0, [.C, .W]⟩ ]⟩,
  ⟨"GS_INT_ENABLE s (F0)", 0x102100, 64, 0x8, 1, 0x0, 8, .f0,
    [ ⟨"MASK", 0, 32, .rw, 0x0, [.C, .W]⟩ ]⟩]

def regsGs : List RegGroup := regsGs0 ++ regsGs1

/-! ## The QE block -/

/-- QE_CONTROL (F1), Table 14.8. -/
def rQeControl1 : Nat := 0x200000
def fQeControl1NoticeRing : Fld := ⟨0, 6⟩
def fQeControl1NoticeEn : Fld := ⟨6, 1⟩
def fQeControl1EventVector : Fld := ⟨7, 8⟩
def fQeControl1EventHoldoff : Fld := ⟨15, 16⟩

/-- QE_STATUS (F1), Table 14.8. -/
def rQeStatus1 : Nat := 0x200008
def fQeStatus1F1Resetting : Fld := ⟨0, 1⟩

/-- QE_EVENT (F1), Table 14.9. -/
def rQeEvent1 : Nat := 0x200010
def fQeEvent1DoorbellBad : Fld := ⟨0, 1⟩
def fQeEvent1FetchError : Fld := ⟨1, 1⟩
def fQeEvent1DmaError : Fld := ⟨2, 1⟩
def fQeEvent1NoticeLost : Fld := ⟨3, 1⟩
def fQeEvent1WriteRefused : Fld := ⟨4, 1⟩

/-- QE_EVENT_COUNT k (F1), Table 14.9. -/
def rQeEventCount1 (i : Nat) : Nat := 0x200020 + 0x4 * i
def fQeEventCount1Count : Fld := ⟨0, 32⟩

/-- QE_DGRAM_BASE, Table 14.9. -/
def rQeDgramBase : Nat := 0x200040
def fQeDgramBaseBase : Fld := ⟨12, 52⟩

/-- QE_DISCARDS (F1), Table 14.9. -/
def rQeDiscards1 : Nat := 0x200048
def fQeDiscards1QeDiscards : Fld := ⟨0, 32⟩

/-- QE_SQ_BASE n (F1), Table 14.10. -/
def rQeSqBase1 (i : Nat) : Nat := 0x201000 + 0x40 * i
def fQeSqBase1Base : Fld := ⟨12, 52⟩

/-- QE_CQ_BASE n (F1), Table 14.10. -/
def rQeCqBase1 (i : Nat) : Nat := 0x201008 + 0x40 * i
def fQeCqBase1Base : Fld := ⟨12, 52⟩

/-- QE_RING_CTRL n (F1), Table 14.11. -/
def rQeRingCtrl1 (i : Nat) : Nat := 0x201010 + 0x40 * i
def fQeRingCtrl1Enable : Fld := ⟨0, 1⟩
def fQeRingCtrl1Log2 : Fld := ⟨1, 5⟩
def fQeRingCtrl1Vector : Fld := ⟨6, 8⟩
def fQeRingCtrl1CoalesceCount : Fld := ⟨14, 8⟩
def fQeRingCtrl1CoalesceTime : Fld := ⟨22, 16⟩

/-- QE_RING_INDEX n (F1), Table 14.11. -/
def rQeRingIndex1 (i : Nat) : Nat := 0x201018 + 0x40 * i
def fQeRingIndex1SqHead : Fld := ⟨0, 16⟩
def fQeRingIndex1SqTail : Fld := ⟨16, 16⟩
def fQeRingIndex1CqProducer : Fld := ⟨32, 16⟩
def fQeRingIndex1CqConsumer : Fld := ⟨48, 16⟩

/-- QE_RING_STATE n (F1), Table 14.11. -/
def rQeRingState1 (i : Nat) : Nat := 0x201020 + 0x40 * i
def fQeRingState1State : Fld := ⟨0, 2⟩
def fQeRingState1Phase : Fld := ⟨2, 1⟩
def fQeRingState1Reserved : Fld := ⟨3, 17⟩

/-- QE_CONTROL (F0), Table 14.8. -/
def rQeControl0 : Nat := 0x200800
def fQeControl0NoticeRing : Fld := ⟨0, 6⟩
def fQeControl0NoticeEn : Fld := ⟨6, 1⟩
def fQeControl0EventVector : Fld := ⟨7, 8⟩
def fQeControl0EventHoldoff : Fld := ⟨15, 16⟩

/-- QE_STATUS (F0), Table 14.8. -/
def rQeStatus0 : Nat := 0x200808
def fQeStatus0F1Resetting : Fld := ⟨0, 1⟩

/-- QE_EVENT (F0), Table 14.9. -/
def rQeEvent0 : Nat := 0x200810
def fQeEvent0DoorbellBad : Fld := ⟨0, 1⟩
def fQeEvent0FetchError : Fld := ⟨1, 1⟩
def fQeEvent0DmaError : Fld := ⟨2, 1⟩
def fQeEvent0NoticeLost : Fld := ⟨3, 1⟩
def fQeEvent0WriteRefused : Fld := ⟨4, 1⟩

/-- QE_EVENT_COUNT k (F0), Table 14.9. -/
def rQeEventCount0 (i : Nat) : Nat := 0x200820 + 0x4 * i
def fQeEventCount0Count : Fld := ⟨0, 32⟩

/-- QE_DISCARDS (F0), Table 14.9. -/
def rQeDiscards0 : Nat := 0x200848
def fQeDiscards0QeDiscards : Fld := ⟨0, 32⟩

/-- QE_SQ_BASE n (F0), Table 14.10. -/
def rQeSqBase0 (i : Nat) : Nat := 0x203000 + 0x40 * i
def fQeSqBase0Base : Fld := ⟨12, 52⟩

/-- QE_CQ_BASE n (F0), Table 14.10. -/
def rQeCqBase0 (i : Nat) : Nat := 0x203008 + 0x40 * i
def fQeCqBase0Base : Fld := ⟨12, 52⟩

/-- QE_RING_CTRL n (F0), Table 14.11. -/
def rQeRingCtrl0 (i : Nat) : Nat := 0x203010 + 0x40 * i
def fQeRingCtrl0Enable : Fld := ⟨0, 1⟩
def fQeRingCtrl0Log2 : Fld := ⟨1, 5⟩
def fQeRingCtrl0Vector : Fld := ⟨6, 8⟩
def fQeRingCtrl0CoalesceCount : Fld := ⟨14, 8⟩
def fQeRingCtrl0CoalesceTime : Fld := ⟨22, 16⟩

/-- QE_RING_INDEX n (F0), Table 14.11. -/
def rQeRingIndex0 (i : Nat) : Nat := 0x203018 + 0x40 * i
def fQeRingIndex0SqHead : Fld := ⟨0, 16⟩
def fQeRingIndex0SqTail : Fld := ⟨16, 16⟩
def fQeRingIndex0CqProducer : Fld := ⟨32, 16⟩
def fQeRingIndex0CqConsumer : Fld := ⟨48, 16⟩

/-- QE_RING_STATE n (F0), Table 14.11. -/
def rQeRingState0 (i : Nat) : Nat := 0x203020 + 0x40 * i
def fQeRingState0State : Fld := ⟨0, 2⟩
def fQeRingState0Phase : Fld := ⟨2, 1⟩
def fQeRingState0Reserved : Fld := ⟨3, 17⟩

def regsQe0 : List RegGroup := [
  ⟨"QE_CONTROL (F1)", 0x200000, 1, 0x0, 1, 0x0, 8, .f1,
    [ ⟨"NOTICE_RING", 0, 6, .rw, 0x0, [.C, .W, .N, .H, .F]⟩,
      ⟨"NOTICE_EN", 6, 1, .rw, 0x0, [.C, .W, .N, .H, .F]⟩,
      ⟨"EVENT_VECTOR", 7, 8, .rw, 0x0, [.C, .W, .N, .H, .F]⟩,
      ⟨"EVENT_HOLDOFF", 15, 16, .rw, 0x40, [.C, .W, .N, .H, .F]⟩ ]⟩,
  ⟨"QE_STATUS (F1)", 0x200008, 1, 0x0, 1, 0x0, 8, .f1,
    [ ⟨"F1_RESETTING", 0, 1, .rov, 0x0, [.C, .W]⟩ ]⟩,
  ⟨"QE_EVENT (F1)", 0x200010, 1, 0x0, 1, 0x0, 4, .f1,
    [ ⟨"DOORBELL_BAD", 0, 1, .w1c, 0x0, [.C, .W, .N, .H, .F]⟩,
      ⟨"FETCH_ERROR", 1, 1, .w1c, 0x0, [.C, .W, .N, .H, .F]⟩,
      ⟨"DMA_ERROR", 2, 1, .w1c, 0x0, [.C, .W, .N, .H, .F]⟩,
      ⟨"NOTICE_LOST", 3, 1, .w1c, 0x0, [.C, .W, .N, .H, .F]⟩,
      ⟨"WRITE_REFUSED", 4, 1, .w1c, 0x0, [.C, .W, .N, .H, .F]⟩ ]⟩,
  ⟨"QE_EVENT_COUNT k (F1)", 0x200020, 5, 0x4, 1, 0x0, 4, .f1,
    [ ⟨"COUNT", 0, 32, .rov, 0x0, [.C, .W, .N, .H, .F]⟩ ]⟩,
  ⟨"QE_DGRAM_BASE", 0x200040, 1, 0x0, 1, 0x0, 8, .f1,
    [ ⟨"BASE", 12, 52, .rw, 0x0, [.C, .W, .N, .H, .F]⟩ ]⟩,
  ⟨"QE_DISCARDS (F1)", 0x200048, 1, 0x0, 1, 0x0, 8, .f1,
    [ ⟨"QE_DISCARDS", 0, 32, .rov, 0x0, [.C, .W, .N, .H]⟩ ]⟩]

def regsQe1 : List RegGroup := [
  ⟨"QE_SQ_BASE n (F1)", 0x201000, 64, 0x40, 1, 0x0, 8, .f1,
    [ ⟨"BASE", 12, 52, .rw, 0x0, [.C, .W, .N, .H, .F]⟩ ]⟩,
  ⟨"QE_CQ_BASE n (F1)", 0x201008, 64, 0x40, 1, 0x0, 8, .f1,
    [ ⟨"BASE", 12, 52, .rw, 0x0, [.C, .W, .N, .H, .F]⟩ ]⟩,
  ⟨"QE_RING_CTRL n (F1)", 0x201010, 64, 0x40, 1, 0x0, 8, .f1,
    [ ⟨"ENABLE", 0, 1, .rw, 0x0, [.C, .W, .N, .H, .F]⟩,
      ⟨"LOG2", 1, 5, .rw, 0x4, [.C, .W, .N, .H, .F]⟩,
      ⟨"VECTOR", 6, 8, .rw, 0x0, [.C, .W, .N, .H, .F]⟩,
      ⟨"COALESCE_COUNT", 14, 8, .rw, 0x1, [.C, .W, .N, .H, .F]⟩,
      ⟨"COALESCE_TIME", 22, 16, .rw, 0x0, [.C, .W, .N, .H, .F]⟩ ]⟩,
  ⟨"QE_RING_INDEX n (F1)", 0x201018, 64, 0x40, 1, 0x0, 8, .f1,
    [ ⟨"SQ_HEAD", 0, 16, .rov, 0x0, [.C, .W, .N, .H, .F]⟩,
      ⟨"SQ_TAIL", 16, 16, .rov, 0x0, [.C, .W, .N, .H, .F]⟩,
      ⟨"CQ_PRODUCER", 32, 16, .rov, 0x0, [.C, .W, .N, .H, .F]⟩,
      ⟨"CQ_CONSUMER", 48, 16, .rov, 0x0, [.C, .W, .N, .H, .F]⟩ ]⟩,
  ⟨"QE_RING_STATE n (F1)", 0x201020, 64, 0x40, 1, 0x0, 8, .f1,
    [ ⟨"STATE", 0, 2, .rov, 0x0, [.C, .W, .N, .H, .F]⟩,
      ⟨"PHASE", 2, 1, .rov, 0x1, [.C, .W, .N, .H, .F]⟩,
      ⟨"RESERVED", 3, 17, .rov, 0x0, [.C, .W, .N, .H, .F]⟩ ]⟩,
  ⟨"QE_CONTROL (F0)", 0x200800, 1, 0x0, 1, 0x0, 8, .f0,
    [ ⟨"NOTICE_RING", 0, 6, .rw, 0x0, [.C, .W]⟩,
      ⟨"NOTICE_EN", 6, 1, .rw, 0x0, [.C, .W]⟩,
      ⟨"EVENT_VECTOR", 7, 8, .rw, 0x0, [.C, .W]⟩,
      ⟨"EVENT_HOLDOFF", 15, 16, .rw, 0x40, [.C, .W]⟩ ]⟩]

def regsQe2 : List RegGroup := [
  ⟨"QE_STATUS (F0)", 0x200808, 1, 0x0, 1, 0x0, 8, .f0,
    [ ⟨"F1_RESETTING", 0, 1, .rov, 0x0, [.C, .W]⟩ ]⟩,
  ⟨"QE_EVENT (F0)", 0x200810, 1, 0x0, 1, 0x0, 4, .f0,
    [ ⟨"DOORBELL_BAD", 0, 1, .w1c, 0x0, [.C, .W]⟩,
      ⟨"FETCH_ERROR", 1, 1, .w1c, 0x0, [.C, .W]⟩,
      ⟨"DMA_ERROR", 2, 1, .w1c, 0x0, [.C, .W]⟩,
      ⟨"NOTICE_LOST", 3, 1, .w1c, 0x0, [.C, .W]⟩,
      ⟨"WRITE_REFUSED", 4, 1, .w1c, 0x0, [.C, .W]⟩ ]⟩,
  ⟨"QE_EVENT_COUNT k (F0)", 0x200820, 5, 0x4, 1, 0x0, 4, .f0,
    [ ⟨"COUNT", 0, 32, .rov, 0x0, [.C, .W]⟩ ]⟩,
  ⟨"QE_DISCARDS (F0)", 0x200848, 1, 0x0, 1, 0x0, 8, .f0,
    [ ⟨"QE_DISCARDS", 0, 32, .rov, 0x0, [.C, .W]⟩ ]⟩,
  ⟨"QE_SQ_BASE n (F0)", 0x203000, 8, 0x40, 1, 0x0, 8, .f0,
    [ ⟨"BASE", 12, 52, .rw, 0x0, [.C, .W]⟩ ]⟩,
  ⟨"QE_CQ_BASE n (F0)", 0x203008, 8, 0x40, 1, 0x0, 8, .f0,
    [ ⟨"BASE", 12, 52, .rw, 0x0, [.C, .W]⟩ ]⟩]

def regsQe3 : List RegGroup := [
  ⟨"QE_RING_CTRL n (F0)", 0x203010, 8, 0x40, 1, 0x0, 8, .f0,
    [ ⟨"ENABLE", 0, 1, .rw, 0x0, [.C, .W]⟩,
      ⟨"LOG2", 1, 5, .rw, 0x4, [.C, .W]⟩,
      ⟨"VECTOR", 6, 8, .rw, 0x0, [.C, .W]⟩,
      ⟨"COALESCE_COUNT", 14, 8, .rw, 0x1, [.C, .W]⟩,
      ⟨"COALESCE_TIME", 22, 16, .rw, 0x0, [.C, .W]⟩ ]⟩,
  ⟨"QE_RING_INDEX n (F0)", 0x203018, 8, 0x40, 1, 0x0, 8, .f0,
    [ ⟨"SQ_HEAD", 0, 16, .rov, 0x0, [.C, .W]⟩,
      ⟨"SQ_TAIL", 16, 16, .rov, 0x0, [.C, .W]⟩,
      ⟨"CQ_PRODUCER", 32, 16, .rov, 0x0, [.C, .W]⟩,
      ⟨"CQ_CONSUMER", 48, 16, .rov, 0x0, [.C, .W]⟩ ]⟩,
  ⟨"QE_RING_STATE n (F0)", 0x203020, 8, 0x40, 1, 0x0, 8, .f0,
    [ ⟨"STATE", 0, 2, .rov, 0x0, [.C, .W]⟩,
      ⟨"PHASE", 2, 1, .rov, 0x1, [.C, .W]⟩,
      ⟨"RESERVED", 3, 17, .rov, 0x0, [.C, .W]⟩ ]⟩]

def regsQe : List RegGroup := regsQe0 ++ regsQe1 ++ regsQe2 ++ regsQe3

/-! ## The CX block -/

/-- CX_TABLE_BASE, Table 02.5. -/
def rCxTableBase : Nat := 0x300000
def fCxTableBaseBase : Fld := ⟨27, 13⟩

/-- CX_SHARD_BASE, Table 02.6. -/
def rCxShardBase : Nat := 0x300008
def fCxShardBaseBase : Fld := ⟨12, 28⟩

/-- CX_STATUS, Table 02.7. -/
def rCxStatus : Nat := 0x300010
def fCxStatusOpenCount : Fld := ⟨0, 21⟩
def fCxStatusParkedCount : Fld := ⟨21, 21⟩
def fCxStatusBaseLocked : Fld := ⟨42, 1⟩

/-- CX_EVENT, Table 02.8. -/
def rCxEvent : Nat := 0x300018
def fCxEventQuotaRefuse : Fld := ⟨0, 1⟩
def fCxEventLimitRefuse : Fld := ⟨1, 1⟩
def fCxEventDescCheck : Fld := ⟨2, 1⟩

/-- CX_EVENT_COUNT k, Table 02.9. -/
def rCxEventCount (i : Nat) : Nat := 0x300020 + 0x4 * i
def fCxEventCountCount : Fld := ⟨0, 32⟩

/-- CX_JOB_LIMIT, R50. -/
def rCxJobLimit : Nat := 0x300030
def fCxJobLimitLimit : Fld := ⟨0, 16⟩

/-- QUOTA_CTX n, Table 02.10. -/
def rCxQuotaCtx (i : Nat) : Nat := 0x301000 + 0x40 * i
def fCxQuotaCtxQuotaCtx : Fld := ⟨0, 32⟩

/-- QUOTA_GDDR n, Table 02.10. -/
def rCxQuotaGddr (i : Nat) : Nat := 0x301004 + 0x40 * i
def fCxQuotaGddrQuotaGddr : Fld := ⟨0, 32⟩

/-- QUOTA_CXL n, Table 02.10. -/
def rCxQuotaCxl (i : Nat) : Nat := 0x301008 + 0x40 * i
def fCxQuotaCxlQuotaCxl : Fld := ⟨0, 32⟩

/-- QUOTA_FLASH n, Table 02.10. -/
def rCxQuotaFlash (i : Nat) : Nat := 0x30100C + 0x40 * i
def fCxQuotaFlashQuotaFlash : Fld := ⟨0, 32⟩

/-- SPILL_MARK n, Table 02.10. -/
def rCxSpillMark (i : Nat) : Nat := 0x301010 + 0x40 * i
def fCxSpillMarkSpillMark : Fld := ⟨0, 32⟩

/-- USE_CTX n, Table 02.10. -/
def rCxUseCtx (i : Nat) : Nat := 0x301014 + 0x40 * i
def fCxUseCtxUseCtx : Fld := ⟨0, 32⟩

/-- USE_GDDR n, Table 02.10. -/
def rCxUseGddr (i : Nat) : Nat := 0x301018 + 0x40 * i
def fCxUseGddrUseGddr : Fld := ⟨0, 32⟩

/-- USE_CXL n, Table 02.10. -/
def rCxUseCxl (i : Nat) : Nat := 0x30101C + 0x40 * i
def fCxUseCxlUseCxl : Fld := ⟨0, 32⟩

/-- USE_FLASH n, Table 02.10. -/
def rCxUseFlash (i : Nat) : Nat := 0x301020 + 0x40 * i
def fCxUseFlashUseFlash : Fld := ⟨0, 32⟩

/-- CX_CLIENT_JOBS c, Table 02.11. -/
def rCxClientJobs (i : Nat) : Nat := 0x302000 + 0x2 * i
def fCxClientJobsJobs : Fld := ⟨0, 16⟩

def regsCx0 : List RegGroup := [
  ⟨"CX_TABLE_BASE", 0x300000, 1, 0x0, 1, 0x0, 8, .f1,
    [ ⟨"BASE", 27, 13, .rw, 0x0, [.C, .W, .N]⟩ ]⟩,
  ⟨"CX_SHARD_BASE", 0x300008, 1, 0x0, 1, 0x0, 8, .f1,
    [ ⟨"BASE", 12, 28, .rw, 0x0, [.C, .W, .N]⟩ ]⟩,
  ⟨"CX_STATUS", 0x300010, 1, 0x0, 1, 0x0, 8, .f1,
    [ ⟨"OPEN_COUNT", 0, 21, .rov, 0x0, [.C, .W, .N, .H]⟩,
      ⟨"PARKED_COUNT", 21, 21, .rov, 0x0, [.C, .W, .N, .H]⟩,
      ⟨"BASE_LOCKED", 42, 1, .rov, 0x0, [.C, .W, .N, .H]⟩ ]⟩,
  ⟨"CX_EVENT", 0x300018, 1, 0x0, 1, 0x0, 4, .f1,
    [ ⟨"QUOTA_REFUSE", 0, 1, .w1c, 0x0, [.C, .W, .N, .H]⟩,
      ⟨"LIMIT_REFUSE", 1, 1, .w1c, 0x0, [.C, .W, .N, .H]⟩,
      ⟨"DESC_CHECK", 2, 1, .w1c, 0x0, [.C, .W, .N, .H]⟩ ]⟩,
  ⟨"CX_EVENT_COUNT k", 0x300020, 3, 0x4, 1, 0x0, 4, .f1,
    [ ⟨"COUNT", 0, 32, .rov, 0x0, [.C, .W, .N, .H]⟩ ]⟩,
  ⟨"CX_JOB_LIMIT", 0x300030, 1, 0x0, 1, 0x0, 4, .f1,
    [ ⟨"LIMIT", 0, 16, .rw, 0x0, [.C, .W, .N, .H]⟩ ]⟩]

def regsCx1 : List RegGroup := [
  ⟨"QUOTA_CTX n", 0x301000, 16, 0x40, 1, 0x0, 4, .f1,
    [ ⟨"QUOTA_CTX", 0, 32, .rw, 0x0, [.C, .W, .N, .H]⟩ ]⟩,
  ⟨"QUOTA_GDDR n", 0x301004, 16, 0x40, 1, 0x0, 4, .f1,
    [ ⟨"QUOTA_GDDR", 0, 32, .rw, 0x0, [.C, .W, .N, .H]⟩ ]⟩,
  ⟨"QUOTA_CXL n", 0x301008, 16, 0x40, 1, 0x0, 4, .f1,
    [ ⟨"QUOTA_CXL", 0, 32, .rw, 0x0, [.C, .W, .N, .H]⟩ ]⟩,
  ⟨"QUOTA_FLASH n", 0x30100C, 16, 0x40, 1, 0x0, 4, .f1,
    [ ⟨"QUOTA_FLASH", 0, 32, .rw, 0x0, [.C, .W, .N, .H]⟩ ]⟩,
  ⟨"SPILL_MARK n", 0x301010, 16, 0x40, 1, 0x0, 4, .f1,
    [ ⟨"SPILL_MARK", 0, 32, .rw, 0x0, [.C, .W, .N, .H]⟩ ]⟩,
  ⟨"USE_CTX n", 0x301014, 16, 0x40, 1, 0x0, 4, .f1,
    [ ⟨"USE_CTX", 0, 32, .rov, 0x0, [.C, .W, .N, .H]⟩ ]⟩]

def regsCx2 : List RegGroup := [
  ⟨"USE_GDDR n", 0x301018, 16, 0x40, 1, 0x0, 4, .f1,
    [ ⟨"USE_GDDR", 0, 32, .rov, 0x0, [.C, .W, .N, .H]⟩ ]⟩,
  ⟨"USE_CXL n", 0x30101C, 16, 0x40, 1, 0x0, 4, .f1,
    [ ⟨"USE_CXL", 0, 32, .rov, 0x0, [.C, .W, .N, .H]⟩ ]⟩,
  ⟨"USE_FLASH n", 0x301020, 16, 0x40, 1, 0x0, 4, .f1,
    [ ⟨"USE_FLASH", 0, 32, .rov, 0x0, [.C, .W, .N, .H]⟩ ]⟩,
  ⟨"CX_CLIENT_JOBS c", 0x302000, 4096, 0x2, 1, 0x0, 2, .f1,
    [ ⟨"JOBS", 0, 16, .rov, 0x0, [.C, .W, .N, .H]⟩ ]⟩]

def regsCx : List RegGroup := regsCx0 ++ regsCx1 ++ regsCx2

/-! ## The PM block -/

/-- PM_POOL_BASE, Table 03.9. -/
def rPmPoolBase : Nat := 0x400000
def fPmPoolBaseBase : Fld := ⟨12, 28⟩

/-- PM_POOL_SIZE, Table 03.10. -/
def rPmPoolSize : Nat := 0x400008
def fPmPoolSizeBlocks : Fld := ⟨0, 28⟩

/-- PM_STATUS, Table 03.11. -/
def rPmStatus : Nat := 0x400010
def fPmStatusFreeBlocks : Fld := ⟨0, 28⟩
def fPmStatusWalkers : Fld := ⟨28, 13⟩
def fPmStatusDeferred : Fld := ⟨41, 17⟩
def fPmStatusPoolLocked : Fld := ⟨58, 1⟩

/-- PM_EVENT, Table 03.12. -/
def rPmEvent : Nat := 0x400018
def fPmEventPoolEmpty : Fld := ⟨0, 1⟩
def fPmEventEntryCheck : Fld := ⟨1, 1⟩
def fPmEventHeaderMismatch : Fld := ⟨2, 1⟩
def fPmEventGenStall : Fld := ⟨3, 1⟩

/-- PM_EVENT_COUNT k, Table 03.13. -/
def rPmEventCount (i : Nat) : Nat := 0x400020 + 0x4 * i
def fPmEventCountCount : Fld := ⟨0, 32⟩

/-- PM_WAIT_WALKER, Table 03.14. -/
def rPmWaitWalker : Nat := 0x400030

/-- PM_WAIT_EDIT, Table 03.14. -/
def rPmWaitEdit : Nat := 0x400038

def regsPm0 : List RegGroup := [
  ⟨"PM_POOL_BASE", 0x400000, 1, 0x0, 1, 0x0, 8, .f1,
    [ ⟨"BASE", 12, 28, .rw, 0x0, [.C, .W, .N]⟩ ]⟩,
  ⟨"PM_POOL_SIZE", 0x400008, 1, 0x0, 1, 0x0, 8, .f1,
    [ ⟨"BLOCKS", 0, 28, .rw, 0x0, [.C, .W, .N]⟩ ]⟩,
  ⟨"PM_STATUS", 0x400010, 1, 0x0, 1, 0x0, 8, .f1,
    [ ⟨"FREE_BLOCKS", 0, 28, .rov, 0x0, [.C, .W, .N, .H]⟩,
      ⟨"WALKERS", 28, 13, .rov, 0x0, [.C, .W, .N, .H]⟩,
      ⟨"DEFERRED", 41, 17, .rov, 0x0, [.C, .W, .N, .H]⟩,
      ⟨"POOL_LOCKED", 58, 1, .rov, 0x0, [.C, .W, .N, .H]⟩ ]⟩,
  ⟨"PM_EVENT", 0x400018, 1, 0x0, 1, 0x0, 4, .f1,
    [ ⟨"POOL_EMPTY", 0, 1, .w1c, 0x0, [.C, .W, .N, .H]⟩,
      ⟨"ENTRY_CHECK", 1, 1, .w1c, 0x0, [.C, .W, .N, .H]⟩,
      ⟨"HEADER_MISMATCH", 2, 1, .w1c, 0x0, [.C, .W, .N, .H]⟩,
      ⟨"GEN_STALL", 3, 1, .w1c, 0x0, [.C, .W, .N, .H]⟩ ]⟩,
  ⟨"PM_EVENT_COUNT k", 0x400020, 4, 0x4, 1, 0x0, 4, .f1,
    [ ⟨"COUNT", 0, 32, .rov, 0x0, [.C, .W, .N, .H]⟩ ]⟩,
  ⟨"PM_WAIT_WALKER", 0x400030, 1, 0x0, 1, 0x0, 8, .f1,
    [ ⟨"CYCLES", 0, 64, .rov, 0x0, [.C, .W, .N, .H]⟩ ]⟩]

def regsPm1 : List RegGroup := [
  ⟨"PM_WAIT_EDIT", 0x400038, 1, 0x0, 1, 0x0, 8, .f1,
    [ ⟨"CYCLES", 0, 64, .rov, 0x0, [.C, .W, .N, .H]⟩ ]⟩]

def regsPm : List RegGroup := regsPm0 ++ regsPm1

/-! ## The AE block -/

/-- AE_CONTROL, Table 05.11. -/
def rAeControl : Nat := 0x500000
def fAeControlChildTimeout : Fld := ⟨0, 24⟩
def fAeControlForwardEn : Fld := ⟨24, 1⟩

/-- AE_STATUS, Table 05.12. -/
def rAeStatus : Nat := 0x500008
def fAeStatusActive : Fld := ⟨0, 14⟩
def fAeStatusHeldDrafts : Fld := ⟨14, 9⟩

/-- AE_EVENT, Table 05.13. -/
def rAeEvent : Nat := 0x500010
def fAeEventChildTimeout : Fld := ⟨0, 1⟩
def fAeEventLateReply : Fld := ⟨1, 1⟩
def fAeEventMovedForward : Fld := ⟨2, 1⟩
def fAeEventDraftDiscard : Fld := ⟨3, 1⟩
def fAeEventStaleRefuse : Fld := ⟨4, 1⟩
def fAeEventShortMessage : Fld := ⟨5, 1⟩

/-- AE_EVENT_COUNT k, Table 05.14. -/
def rAeEventCount (i : Nat) : Nat := 0x500020 + 0x4 * i
def fAeEventCountCount : Fld := ⟨0, 32⟩

/-- AE_EXCESS_INGRESS, Table 05.15. -/
def rAeExcessIngress : Nat := 0x500040
def fAeExcessIngressCount : Fld := ⟨0, 32⟩
def fAeExcessIngressWorst : Fld := ⟨32, 32⟩

/-- AE_EXCESS_FANOUT, Table 05.15. -/
def rAeExcessFanout : Nat := 0x500048
def fAeExcessFanoutCount : Fld := ⟨0, 32⟩
def fAeExcessFanoutWorst : Fld := ⟨32, 32⟩

/-- AE_EXCESS_EGRESS, Table 05.15. -/
def rAeExcessEgress : Nat := 0x500050
def fAeExcessEgressCount : Fld := ⟨0, 32⟩
def fAeExcessEgressWorst : Fld := ⟨32, 32⟩

/-- AE_EXCESS_CONJOIN, Table 05.15. -/
def rAeExcessConjoin : Nat := 0x500058
def fAeExcessConjoinCount : Fld := ⟨0, 32⟩
def fAeExcessConjoinWorst : Fld := ⟨32, 32⟩

/-- AE_EXCESS_APPEND, Table 05.15. -/
def rAeExcessAppend : Nat := 0x500060
def fAeExcessAppendCount : Fld := ⟨0, 32⟩
def fAeExcessAppendWorst : Fld := ⟨32, 32⟩

/-- AE_WAIT_SLOT, Table 05.16. -/
def rAeWaitSlot : Nat := 0x500070

/-- AE DECODE, Table 05.16. -/
def rAeDecode : Nat := 0x500080

/-- AE VERIFY, Table 05.16. -/
def rAeVerify : Nat := 0x500088

/-- AE APPENDS, Table 05.16. -/
def rAeAppends : Nat := 0x500090

/-- AE REFILLS, Table 05.16. -/
def rAeRefills : Nat := 0x500098

def regsAe0 : List RegGroup := [
  ⟨"AE_CONTROL", 0x500000, 1, 0x0, 1, 0x0, 8, .f1,
    [ ⟨"CHILD_TIMEOUT", 0, 24, .rw, 0x3E8, [.C, .W, .N]⟩,
      ⟨"FORWARD_EN", 24, 1, .rw, 0x1, [.C, .W, .N]⟩ ]⟩,
  ⟨"AE_STATUS", 0x500008, 1, 0x0, 1, 0x0, 8, .f1,
    [ ⟨"ACTIVE", 0, 14, .rov, 0x0, [.C, .W, .N, .H]⟩,
      ⟨"HELD_DRAFTS", 14, 9, .rov, 0x0, [.C, .W, .N, .H]⟩ ]⟩,
  ⟨"AE_EVENT", 0x500010, 1, 0x0, 1, 0x0, 4, .f1,
    [ ⟨"CHILD_TIMEOUT", 0, 1, .w1c, 0x0, [.C, .W, .N, .H]⟩,
      ⟨"LATE_REPLY", 1, 1, .w1c, 0x0, [.C, .W, .N, .H]⟩,
      ⟨"MOVED_FORWARD", 2, 1, .w1c, 0x0, [.C, .W, .N, .H]⟩,
      ⟨"DRAFT_DISCARD", 3, 1, .w1c, 0x0, [.C, .W, .N, .H]⟩,
      ⟨"STALE_REFUSE", 4, 1, .w1c, 0x0, [.C, .W, .N, .H]⟩,
      ⟨"SHORT_MESSAGE", 5, 1, .w1c, 0x0, [.C, .W, .N, .H]⟩ ]⟩,
  ⟨"AE_EVENT_COUNT k", 0x500020, 6, 0x4, 1, 0x0, 4, .f1,
    [ ⟨"COUNT", 0, 32, .rov, 0x0, [.C, .W, .N, .H]⟩ ]⟩,
  ⟨"AE_EXCESS_INGRESS", 0x500040, 1, 0x0, 1, 0x0, 8, .f1,
    [ ⟨"COUNT", 0, 32, .rov, 0x0, [.C, .W, .N, .H]⟩,
      ⟨"WORST", 32, 32, .rov, 0x0, [.C, .W, .N, .H]⟩ ]⟩,
  ⟨"AE_EXCESS_FANOUT", 0x500048, 1, 0x0, 1, 0x0, 8, .f1,
    [ ⟨"COUNT", 0, 32, .rov, 0x0, [.C, .W, .N, .H]⟩,
      ⟨"WORST", 32, 32, .rov, 0x0, [.C, .W, .N, .H]⟩ ]⟩]

def regsAe1 : List RegGroup := [
  ⟨"AE_EXCESS_EGRESS", 0x500050, 1, 0x0, 1, 0x0, 8, .f1,
    [ ⟨"COUNT", 0, 32, .rov, 0x0, [.C, .W, .N, .H]⟩,
      ⟨"WORST", 32, 32, .rov, 0x0, [.C, .W, .N, .H]⟩ ]⟩,
  ⟨"AE_EXCESS_CONJOIN", 0x500058, 1, 0x0, 1, 0x0, 8, .f1,
    [ ⟨"COUNT", 0, 32, .rov, 0x0, [.C, .W, .N, .H]⟩,
      ⟨"WORST", 32, 32, .rov, 0x0, [.C, .W, .N, .H]⟩ ]⟩,
  ⟨"AE_EXCESS_APPEND", 0x500060, 1, 0x0, 1, 0x0, 8, .f1,
    [ ⟨"COUNT", 0, 32, .rov, 0x0, [.C, .W, .N, .H]⟩,
      ⟨"WORST", 32, 32, .rov, 0x0, [.C, .W, .N, .H]⟩ ]⟩,
  ⟨"AE_WAIT_SLOT", 0x500070, 1, 0x0, 1, 0x0, 8, .f1,
    [ ⟨"CYCLES", 0, 64, .rov, 0x0, [.C, .W, .N, .H]⟩ ]⟩,
  ⟨"AE DECODE", 0x500080, 1, 0x0, 1, 0x0, 8, .f1,
    [ ⟨"DECODE", 0, 64, .rov, 0x0, [.C, .W, .N, .H]⟩ ]⟩,
  ⟨"AE VERIFY", 0x500088, 1, 0x0, 1, 0x0, 8, .f1,
    [ ⟨"VERIFY", 0, 64, .rov, 0x0, [.C, .W, .N, .H]⟩ ]⟩]

def regsAe2 : List RegGroup := [
  ⟨"AE APPENDS", 0x500090, 1, 0x0, 1, 0x0, 8, .f1,
    [ ⟨"APPENDS", 0, 64, .rov, 0x0, [.C, .W, .N, .H]⟩ ]⟩,
  ⟨"AE REFILLS", 0x500098, 1, 0x0, 1, 0x0, 8, .f1,
    [ ⟨"REFILLS", 0, 64, .rov, 0x0, [.C, .W, .N, .H]⟩ ]⟩]

def regsAe : List RegGroup := regsAe0 ++ regsAe1 ++ regsAe2

/-! ## The BB block -/

/-- BB_NARROW_SHARE, Table 06.8. -/
def rBbNarrowShare : Nat := 0x600000
def fBbNarrowShareShare : Fld := ⟨0, 5⟩

/-- BB_WIDE_SIZE, Table 06.9. -/
def rBbWideSize : Nat := 0x600008
def fBbWideSizeBytes : Fld := ⟨0, 40⟩

/-- BB_CONTROL, Table 06.10. -/
def rBbControl : Nat := 0x600010
def fBbControlAhead : Fld := ⟨0, 6⟩
def fBbControlBauAttendEn : Fld := ⟨6, 1⟩

/-- BB_STATUS b, Table 06.11. -/
def rBbStatus (i : Nat) : Nat := 0x601000 + 0x100 * i
def fBbStatusActiveBaus : Fld := ⟨0, 5⟩
def fBbStatusPermitMax : Fld := ⟨5, 4⟩
def fBbStatusPermitsHeld : Fld := ⟨9, 4⟩
def fBbStatusGrants : Fld := ⟨13, 15⟩
def fBbStatusLinkUp : Fld := ⟨28, 1⟩
def fBbStatusQueued : Fld := ⟨29, 9⟩

/-- BB_PERMIT_LIMIT b, Table 06.12. -/
def rBbPermitLimit (i : Nat) : Nat := 0x601008 + 0x100 * i
def fBbPermitLimitLimit : Fld := ⟨0, 4⟩

/-- BB_EVENT b, Table 06.13. -/
def rBbEvent (i : Nat) : Nat := 0x601010 + 0x100 * i
def fBbEventLineCheck : Fld := ⟨0, 1⟩
def fBbEventWriteRefused : Fld := ⟨1, 1⟩
def fBbEventLinkReplay : Fld := ⟨2, 1⟩
def fBbEventLinkRetrain : Fld := ⟨3, 1⟩
def fBbEventGrantFull : Fld := ⟨4, 1⟩
def fBbEventRefreshPause : Fld := ⟨5, 1⟩

/-- BB_EVENT_COUNT k b, Table 06.14. -/
def rBbEventCount (i : Nat) (j : Nat) : Nat := 0x601020 + 0x100 * i + 0x4 * j
def fBbEventCountCount : Fld := ⟨0, 32⟩

/-- BB_PERMIT_WAIT b, Table 06.15. -/
def rBbPermitWait (i : Nat) : Nat := 0x601040 + 0x100 * i

/-- BB_LOCK_WAIT b, Table 06.15. -/
def rBbLockWait (i : Nat) : Nat := 0x601048 + 0x100 * i

/-- BB_REFRESH_PAUSE b, Table 06.15. -/
def rBbRefreshPause (i : Nat) : Nat := 0x601050 + 0x100 * i
def fBbRefreshPausePauses : Fld := ⟨0, 32⟩
def fBbRefreshPauseCycles : Fld := ⟨32, 32⟩

/-- BB_REFRESH_TIMING b, Table 06.16. -/
def rBbRefreshTiming (i : Nat) : Nat := 0x601058 + 0x100 * i
def fBbRefreshTimingIntervalNs : Fld := ⟨0, 16⟩
def fBbRefreshTimingRefreshNs : Fld := ⟨16, 16⟩

def regsBb0 : List RegGroup := [
  ⟨"BB_NARROW_SHARE", 0x600000, 1, 0x0, 1, 0x0, 8, .f1,
    [ ⟨"SHARE", 0, 5, .rw, 0x0, [.C, .W, .N]⟩ ]⟩,
  ⟨"BB_WIDE_SIZE", 0x600008, 1, 0x0, 1, 0x0, 8, .f1,
    [ ⟨"BYTES", 0, 40, .rov, 0x2000000000, [.C, .W, .N]⟩ ]⟩,
  ⟨"BB_CONTROL", 0x600010, 1, 0x0, 1, 0x0, 8, .f1,
    [ ⟨"AHEAD", 0, 6, .rw, 0x20, [.C, .W, .N]⟩,
      ⟨"BAU_ATTEND_EN", 6, 1, .rw, 0x1, [.C, .W, .N]⟩ ]⟩,
  ⟨"BB_STATUS b", 0x601000, 8, 0x100, 1, 0x0, 8, .f1,
    [ ⟨"ACTIVE_BAUS", 0, 5, .ro, 0x10, [.C, .W]⟩,
      ⟨"PERMIT_MAX", 5, 4, .ro, 0x8, [.C, .W]⟩,
      ⟨"PERMITS_HELD", 9, 4, .rov, 0x0, [.C, .W, .N, .H]⟩,
      ⟨"GRANTS", 13, 15, .rov, 0x0, [.C, .W, .N, .H]⟩,
      ⟨"LINK_UP", 28, 1, .rov, 0x0, [.C, .W]⟩,
      ⟨"QUEUED", 29, 9, .rov, 0x0, [.C, .W, .N, .H]⟩ ]⟩,
  ⟨"BB_PERMIT_LIMIT b", 0x601008, 8, 0x100, 1, 0x0, 8, .f1,
    [ ⟨"LIMIT", 0, 4, .rw, 0x8, [.C, .W, .N, .H]⟩ ]⟩,
  ⟨"BB_EVENT b", 0x601010, 8, 0x100, 1, 0x0, 4, .f1,
    [ ⟨"LINE_CHECK", 0, 1, .w1c, 0x0, [.C, .W, .N, .H]⟩,
      ⟨"WRITE_REFUSED", 1, 1, .w1c, 0x0, [.C, .W, .N, .H]⟩,
      ⟨"LINK_REPLAY", 2, 1, .w1c, 0x0, [.C, .W, .N, .H]⟩,
      ⟨"LINK_RETRAIN", 3, 1, .w1c, 0x0, [.C, .W, .N, .H]⟩,
      ⟨"GRANT_FULL", 4, 1, .w1c, 0x0, [.C, .W, .N, .H]⟩,
      ⟨"REFRESH_PAUSE", 5, 1, .w1c, 0x0, [.C, .W, .N, .H]⟩ ]⟩]

def regsBb1 : List RegGroup := [
  ⟨"BB_EVENT_COUNT k b", 0x601020, 8, 0x100, 6, 0x4, 4, .f1,
    [ ⟨"COUNT", 0, 32, .rov, 0x0, [.C, .W, .N, .H]⟩ ]⟩,
  ⟨"BB_PERMIT_WAIT b", 0x601040, 8, 0x100, 1, 0x0, 8, .f1,
    [ ⟨"CYCLES", 0, 64, .rov, 0x0, [.C, .W, .N, .H]⟩ ]⟩,
  ⟨"BB_LOCK_WAIT b", 0x601048, 8, 0x100, 1, 0x0, 8, .f1,
    [ ⟨"CYCLES", 0, 64, .rov, 0x0, [.C, .W, .N, .H]⟩ ]⟩,
  ⟨"BB_REFRESH_PAUSE b", 0x601050, 8, 0x100, 1, 0x0, 8, .f1,
    [ ⟨"PAUSES", 0, 32, .rov, 0x0, [.C, .W, .N, .H]⟩,
      ⟨"CYCLES", 32, 32, .rov, 0x0, [.C, .W, .N, .H]⟩ ]⟩,
  ⟨"BB_REFRESH_TIMING b", 0x601058, 8, 0x100, 1, 0x0, 8, .f1,
    [ ⟨"INTERVAL_NS", 0, 16, .ro, 0x0, [.C, .W]⟩,
      ⟨"REFRESH_NS", 16, 16, .ro, 0x0, [.C, .W]⟩ ]⟩]

def regsBb : List RegGroup := regsBb0 ++ regsBb1

/-! ## The AC block -/

/-- AC_STATUS, Table 07.10. -/
def rAcStatus : Nat := 0x700000
def fAcStatusActiveAcs : Fld := ⟨0, 8⟩
def fAcStatusSparesLeft : Fld := ⟨8, 4⟩
def fAcStatusRmLoaded : Fld := ⟨12, 1⟩
def fAcStatusResident : Fld := ⟨13, 12⟩
def fAcStatusJobs : Fld := ⟨25, 13⟩
def fAcStatusSaveLocked : Fld := ⟨38, 1⟩

/-- AC_CONTROL, Table 07.11. -/
def rAcControl : Nat := 0x700008
def fAcControlAttnContexts : Fld := ⟨0, 5⟩
def fAcControlPreemptTimeout : Fld := ⟨16, 24⟩

/-- AC_EVENT, Table 07.12. -/
def rAcEvent : Nat := 0x700010
def fAcEventJobFault : Fld := ⟨0, 1⟩
def fAcEventPreemptTimeout : Fld := ⟨1, 1⟩
def fAcEventSwapOut : Fld := ⟨2, 1⟩
def fAcEventRmWrite : Fld := ⟨3, 1⟩

/-- AC_EVENT_COUNT k, Table 07.13. -/
def rAcEventCount (i : Nat) : Nat := 0x700020 + 0x4 * i
def fAcEventCountCount : Fld := ⟨0, 32⟩

/-- AC_SAVE_BASE, Table 07.14. -/
def rAcSaveBase : Nat := 0x700030
def fAcSaveBaseBase : Fld := ⟨12, 28⟩

/-- AC_SAVE_SIZE, Table 07.14. -/
def rAcSaveSize : Nat := 0x700038
def fAcSaveSizeBlocks : Fld := ⟨0, 28⟩

/-- AC_RM_BASE, Table 07.15. -/
def rAcRmBase : Nat := 0x700040
def fAcRmBaseBase : Fld := ⟨0, 40⟩

/-- AC_RM_SIZE, Table 07.15. -/
def rAcRmSize : Nat := 0x700048
def fAcRmSizeBytes : Fld := ⟨0, 32⟩

/-- AC_ATTN_WAIT, Table 07.16. -/
def rAcAttnWait : Nat := 0x700050

/-- AC_PHYS s, Table 07.18. -/
def rAcPhys (i : Nat) : Nat := 0x700100 + 0x8 * i
def fAcPhysPhys : Fld := ⟨0, 8⟩

/-- AC_CLASS_WAYS k, Table 07.17. -/
def rAcClassWays (i : Nat) : Nat := 0x701000 + 0x8 * i
def fAcClassWaysReach : Fld := ⟨0, 16⟩
def fAcClassWaysMapc : Fld := ⟨16, 16⟩

def regsAc0 : List RegGroup := [
  ⟨"AC_STATUS", 0x700000, 1, 0x0, 1, 0x0, 8, .f1,
    [ ⟨"ACTIVE_ACS", 0, 8, .ro, 0x80, [.C, .W]⟩,
      ⟨"SPARES_LEFT", 8, 4, .rov, 0x8, [.C, .W]⟩,
      ⟨"RM_LOADED", 12, 1, .rov, 0x0, [.C, .W, .N, .H]⟩,
      ⟨"RESIDENT", 13, 12, .rov, 0x0, [.C, .W, .N, .H]⟩,
      ⟨"JOBS", 25, 13, .rov, 0x0, [.C, .W, .N, .H]⟩,
      ⟨"SAVE_LOCKED", 38, 1, .rov, 0x0, [.C, .W, .N, .H]⟩ ]⟩,
  ⟨"AC_CONTROL", 0x700008, 1, 0x0, 1, 0x0, 8, .f1,
    [ ⟨"ATTN_CONTEXTS", 0, 5, .rw, 0x4, [.C, .W, .N]⟩,
      ⟨"PREEMPT_TIMEOUT", 16, 24, .rw, 0x4000, [.C, .W, .N]⟩ ]⟩,
  ⟨"AC_EVENT", 0x700010, 1, 0x0, 1, 0x0, 4, .f1,
    [ ⟨"JOB_FAULT", 0, 1, .w1c, 0x0, [.C, .W, .N, .H]⟩,
      ⟨"PREEMPT_TIMEOUT", 1, 1, .w1c, 0x0, [.C, .W, .N, .H]⟩,
      ⟨"SWAP_OUT", 2, 1, .w1c, 0x0, [.C, .W, .N, .H]⟩,
      ⟨"RM_WRITE", 3, 1, .w1c, 0x0, [.C, .W, .N, .H]⟩ ]⟩,
  ⟨"AC_EVENT_COUNT k", 0x700020, 4, 0x4, 1, 0x0, 4, .f1,
    [ ⟨"COUNT", 0, 32, .rov, 0x0, [.C, .W, .N, .H]⟩ ]⟩,
  ⟨"AC_SAVE_BASE", 0x700030, 1, 0x0, 1, 0x0, 8, .f1,
    [ ⟨"BASE", 12, 28, .rw, 0x0, [.C, .W, .N]⟩ ]⟩,
  ⟨"AC_SAVE_SIZE", 0x700038, 1, 0x0, 1, 0x0, 8, .f1,
    [ ⟨"BLOCKS", 0, 28, .rw, 0x0, [.C, .W, .N]⟩ ]⟩]

def regsAc1 : List RegGroup := [
  ⟨"AC_RM_BASE", 0x700040, 1, 0x0, 1, 0x0, 8, .f1,
    [ ⟨"BASE", 0, 40, .rov, 0x0, [.C, .W, .N, .H]⟩ ]⟩,
  ⟨"AC_RM_SIZE", 0x700048, 1, 0x0, 1, 0x0, 8, .f1,
    [ ⟨"BYTES", 0, 32, .rov, 0x0, [.C, .W, .N, .H]⟩ ]⟩,
  ⟨"AC_ATTN_WAIT", 0x700050, 1, 0x0, 1, 0x0, 8, .f1,
    [ ⟨"CYCLES", 0, 64, .rov, 0x0, [.C, .W, .N, .H]⟩ ]⟩,
  ⟨"AC_PHYS s", 0x700100, 128, 0x8, 1, 0x0, 8, .f1,
    [ ⟨"PHYS", 0, 8, .rov, 0x0, [.C, .W]⟩ ]⟩,
  ⟨"AC_CLASS_WAYS k", 0x701000, 16, 0x8, 1, 0x0, 8, .f1,
    [ ⟨"REACH", 0, 16, .rw, 0xFFFF, [.C, .W, .N, .H]⟩,
      ⟨"MAPC", 16, 16, .rw, 0xFFFF, [.C, .W, .N, .H]⟩ ]⟩]

def regsAc : List RegGroup := regsAc0 ++ regsAc1

/-! ## The TM block -/

/-- TM_CONTROL, Table 08.6. -/
def rTmControl : Nat := 0x800000
def fTmControlPrefetchGap : Fld := ⟨0, 24⟩
def fTmControlFreeMark : Fld := ⟨24, 24⟩
def fTmControlFlushTime : Fld := ⟨48, 8⟩
def fTmControlCompactMark : Fld := ⟨56, 8⟩

/-- TM_STATUS, Table 08.7. -/
def rTmStatus : Nat := 0x800008
def fTmStatusRunning : Fld := ⟨0, 9⟩
def fTmStatusQueued : Fld := ⟨9, 17⟩
def fTmStatusBuffers : Fld := ⟨26, 4⟩
def fTmStatusSlotLocked : Fld := ⟨30, 1⟩
def fTmStatusPlanLocked : Fld := ⟨31, 1⟩

/-- TM_EVENT, Table 08.8. -/
def rTmEvent : Nat := 0x800010
def fTmEventSpillBlocked : Fld := ⟨0, 1⟩
def fTmEventDrop : Fld := ⟨1, 1⟩
def fTmEventMoveCheck : Fld := ⟨2, 1⟩
def fTmEventMoveFault : Fld := ⟨3, 1⟩
def fTmEventNarrowFull : Fld := ⟨4, 1⟩
def fTmEventPoolFull : Fld := ⟨5, 1⟩
def fTmEventPlanRefused : Fld := ⟨6, 1⟩
def fTmEventCompact : Fld := ⟨7, 1⟩

/-- TM_EVENT_COUNT k, Table 08.9. -/
def rTmEventCount (i : Nat) : Nat := 0x800020 + 0x4 * i
def fTmEventCountCount : Fld := ⟨0, 32⟩

/-- TM_SLOT_BASE, Table 08.10. -/
def rTmSlotBase : Nat := 0x800040
def fTmSlotBaseBase : Fld := ⟨12, 28⟩

/-- TM_SLOT_COUNT, Table 08.10. -/
def rTmSlotCount : Nat := 0x800048
def fTmSlotCountCount : Fld := ⟨0, 24⟩

/-- TM_WINDOW, Table 08.10. -/
def rTmWindow : Nat := 0x800050
def fTmWindowBase : Fld := ⟨0, 3⟩

/-- TM SPILLS, Table 08.11. -/
def rTmSpills : Nat := 0x800060

/-- TM PREFETCHES, Table 08.11. -/
def rTmPrefetches : Nat := 0x800068

/-- TM DROPS, Table 08.11. -/
def rTmDrops : Nat := 0x800070

/-- TM_SLOW_READS, Table 08.11. -/
def rTmSlowReads : Nat := 0x800078

/-- TM_STAGE_READS, Table 08.11. -/
def rTmStageReads : Nat := 0x800080

/-- WIDE_FREE, Table 08.12. -/
def rTmWideFree : Nat := 0x800090
def fTmWideFreeWideFree : Fld := ⟨0, 32⟩

/-- NARROW_FREE, Table 08.12. -/
def rTmNarrowFree : Nat := 0x800098
def fTmNarrowFreeNarrowFree : Fld := ⟨0, 32⟩

/-- CXL_FREE, Table 08.12. -/
def rTmCxlFree : Nat := 0x8000A0
def fTmCxlFreeCxlFree : Fld := ⟨0, 36⟩

/-- EXTENTS_FREE, Table 08.12. -/
def rTmExtentsFree : Nat := 0x8000A8
def fTmExtentsFreeExtentsFree : Fld := ⟨0, 36⟩

/-- TM_PLAN c, b, Table 08.2. -/
def rTmPlan (i : Nat) (j : Nat) : Nat := 0x810000 + 0x80 * i + 0x8 * j
def fTmPlanHome : Fld := ⟨0, 2⟩
def fTmPlanNarrow : Fld := ⟨2, 1⟩
def fTmPlanDropOk : Fld := ⟨3, 1⟩
def fTmPlanSpill : Fld := ⟨4, 2⟩
def fTmPlanPrefetch : Fld := ⟨8, 8⟩
def fTmPlanLastLayer : Fld := ⟨16, 8⟩

def regsTm0 : List RegGroup := [
  ⟨"TM_CONTROL", 0x800000, 1, 0x0, 1, 0x0, 8, .f1,
    [ ⟨"PREFETCH_GAP", 0, 24, .rw, 0x1000, [.C, .W, .N]⟩,
      ⟨"FREE_MARK", 24, 24, .rw, 0x4000, [.C, .W, .N]⟩,
      ⟨"FLUSH_TIME", 48, 8, .rw, 0x40, [.C, .W, .N]⟩,
      ⟨"COMPACT_MARK", 56, 8, .rw, 0x10, [.C, .W, .N]⟩ ]⟩,
  ⟨"TM_STATUS", 0x800008, 1, 0x0, 1, 0x0, 8, .f1,
    [ ⟨"RUNNING", 0, 9, .rov, 0x0, [.C, .W, .N, .H]⟩,
      ⟨"QUEUED", 9, 17, .rov, 0x0, [.C, .W, .N, .H]⟩,
      ⟨"BUFFERS", 26, 4, .rov, 0x0, [.C, .W, .N, .H]⟩,
      ⟨"SLOT_LOCKED", 30, 1, .rov, 0x0, [.C, .W, .N, .H]⟩,
      ⟨"PLAN_LOCKED", 31, 1, .rov, 0x0, [.C, .W, .N, .H]⟩ ]⟩,
  ⟨"TM_EVENT", 0x800010, 1, 0x0, 1, 0x0, 4, .f1,
    [ ⟨"SPILL_BLOCKED", 0, 1, .w1c, 0x0, [.C, .W, .N, .H]⟩,
      ⟨"DROP", 1, 1, .w1c, 0x0, [.C, .W, .N, .H]⟩,
      ⟨"MOVE_CHECK", 2, 1, .w1c, 0x0, [.C, .W, .N, .H]⟩,
      ⟨"MOVE_FAULT", 3, 1, .w1c, 0x0, [.C, .W, .N, .H]⟩,
      ⟨"NARROW_FULL", 4, 1, .w1c, 0x0, [.C, .W, .N, .H]⟩,
      ⟨"POOL_FULL", 5, 1, .w1c, 0x0, [.C, .W, .N, .H]⟩,
      ⟨"PLAN_REFUSED", 6, 1, .w1c, 0x0, [.C, .W, .N, .H]⟩,
      ⟨"COMPACT", 7, 1, .w1c, 0x0, [.C, .W, .N, .H]⟩ ]⟩,
  ⟨"TM_EVENT_COUNT k", 0x800020, 8, 0x4, 1, 0x0, 4, .f1,
    [ ⟨"COUNT", 0, 32, .rov, 0x0, [.C, .W, .N, .H]⟩ ]⟩,
  ⟨"TM_SLOT_BASE", 0x800040, 1, 0x0, 1, 0x0, 8, .f1,
    [ ⟨"BASE", 12, 28, .rw, 0x0, [.C, .W, .N, .H]⟩ ]⟩,
  ⟨"TM_SLOT_COUNT", 0x800048, 1, 0x0, 1, 0x0, 8, .f1,
    [ ⟨"COUNT", 0, 24, .rw, 0x0, [.C, .W, .N, .H]⟩ ]⟩]

def regsTm1 : List RegGroup := [
  ⟨"TM_WINDOW", 0x800050, 1, 0x0, 1, 0x0, 8, .f1,
    [ ⟨"BASE", 0, 3, .rw, 0x0, [.C, .W, .N, .H]⟩ ]⟩,
  ⟨"TM SPILLS", 0x800060, 1, 0x0, 1, 0x0, 8, .f1,
    [ ⟨"SPILLS", 0, 64, .rov, 0x0, [.C, .W, .N, .H]⟩ ]⟩,
  ⟨"TM PREFETCHES", 0x800068, 1, 0x0, 1, 0x0, 8, .f1,
    [ ⟨"PREFETCHES", 0, 64, .rov, 0x0, [.C, .W, .N, .H]⟩ ]⟩,
  ⟨"TM DROPS", 0x800070, 1, 0x0, 1, 0x0, 8, .f1,
    [ ⟨"DROPS", 0, 64, .rov, 0x0, [.C, .W, .N, .H]⟩ ]⟩,
  ⟨"TM_SLOW_READS", 0x800078, 1, 0x0, 1, 0x0, 8, .f1,
    [ ⟨"TM_SLOW_READS", 0, 64, .rov, 0x0, [.C, .W, .N, .H]⟩ ]⟩,
  ⟨"TM_STAGE_READS", 0x800080, 1, 0x0, 1, 0x0, 8, .f1,
    [ ⟨"TM_STAGE_READS", 0, 64, .rov, 0x0, [.C, .W, .N, .H]⟩ ]⟩]

def regsTm2 : List RegGroup := [
  ⟨"WIDE_FREE", 0x800090, 1, 0x0, 1, 0x0, 8, .f1,
    [ ⟨"WIDE_FREE", 0, 32, .rov, 0x0, [.C, .W, .N, .H]⟩ ]⟩,
  ⟨"NARROW_FREE", 0x800098, 1, 0x0, 1, 0x0, 8, .f1,
    [ ⟨"NARROW_FREE", 0, 32, .rov, 0x0, [.C, .W, .N, .H]⟩ ]⟩,
  ⟨"CXL_FREE", 0x8000A0, 1, 0x0, 1, 0x0, 8, .f1,
    [ ⟨"CXL_FREE", 0, 36, .rov, 0x0, [.C, .W, .N, .H]⟩ ]⟩,
  ⟨"EXTENTS_FREE", 0x8000A8, 1, 0x0, 1, 0x0, 8, .f1,
    [ ⟨"EXTENTS_FREE", 0, 36, .rov, 0x0, [.C, .W, .N, .H]⟩ ]⟩,
  ⟨"TM_PLAN c, b", 0x810000, 256, 0x80, 16, 0x8, 8, .f1,
    [ ⟨"HOME", 0, 2, .rw, 0x0, [.C, .W, .N, .H]⟩,
      ⟨"NARROW", 2, 1, .rw, 0x0, [.C, .W, .N, .H]⟩,
      ⟨"DROP_OK", 3, 1, .rw, 0x0, [.C, .W, .N, .H]⟩,
      ⟨"SPILL", 4, 2, .rw, 0x0, [.C, .W, .N, .H]⟩,
      ⟨"PREFETCH", 8, 8, .rw, 0x0, [.C, .W, .N, .H]⟩,
      ⟨"LAST_LAYER", 16, 8, .rw, 0xFE, [.C, .W, .N, .H]⟩ ]⟩]

def regsTm : List RegGroup := regsTm0 ++ regsTm1 ++ regsTm2

/-! ## The TP block -/

/-- TP_PORT p, Table 08.13. -/
def rTpPort (i : Nat) : Nat := 0x900000 + 0x100 * i
def fTpPortBifurcation : Fld := ⟨0, 2⟩
def fTpPortLinksUp : Fld := ⟨2, 4⟩

/-- TP_LINK p, l, Table 08.14. -/
def rTpLink (i : Nat) (j : Nat) : Nat := 0x900010 + 0x100 * i + 0x8 * j
def fTpLinkUp : Fld := ⟨0, 1⟩
def fTpLinkKind : Fld := ⟨1, 1⟩
def fTpLinkWidth : Fld := ⟨2, 2⟩
def fTpLinkRate : Fld := ⟨4, 3⟩
def fTpLinkFlit256 : Fld := ⟨7, 1⟩
def fTpLinkAttached : Fld := ⟨8, 1⟩
def fTpLinkDrive : Fld := ⟨9, 3⟩
def fTpLinkRefuseCause : Fld := ⟨12, 4⟩
def fTpLinkSlots : Fld := ⟨32, 32⟩

/-- TP_EVENT, Table 08.15. -/
def rTpEvent : Nat := 0x900800
def fTpEventLinkDown : Fld := ⟨0, 1⟩
def fTpEventPoison : Fld := ⟨1, 1⟩
def fTpEventNvmeError : Fld := ⟨2, 1⟩
def fTpEventInboundRefused : Fld := ⟨3, 1⟩

/-- TP_EVENT_COUNT k, Table 08.15. -/
def rTpEventCount (i : Nat) : Nat := 0x900820 + 0x4 * i
def fTpEventCountCount : Fld := ⟨0, 32⟩

def regsTp0 : List RegGroup := [
  ⟨"TP_PORT p", 0x900000, 2, 0x100, 1, 0x0, 8, .f1,
    [ ⟨"BIFURCATION", 0, 2, .ro, 0x0, [.C, .W]⟩,
      ⟨"LINKS_UP", 2, 4, .rov, 0x0, [.C, .W]⟩ ]⟩,
  ⟨"TP_LINK p, l", 0x900010, 2, 0x100, 4, 0x8, 8, .f1,
    [ ⟨"UP", 0, 1, .rov, 0x0, [.C, .W]⟩,
      ⟨"KIND", 1, 1, .rov, 0x0, [.C, .W]⟩,
      ⟨"WIDTH", 2, 2, .rov, 0x0, [.C, .W]⟩,
      ⟨"RATE", 4, 3, .rov, 0x0, [.C, .W]⟩,
      ⟨"FLIT256", 7, 1, .rov, 0x0, [.C, .W]⟩,
      ⟨"ATTACHED", 8, 1, .rov, 0x0, [.C, .W]⟩,
      ⟨"DRIVE", 9, 3, .rov, 0x0, [.C, .W]⟩,
      ⟨"REFUSE_CAUSE", 12, 4, .rov, 0x0, [.C, .W]⟩,
      ⟨"SLOTS", 32, 32, .rov, 0x0, [.C, .W]⟩ ]⟩,
  ⟨"TP_EVENT", 0x900800, 1, 0x0, 1, 0x0, 4, .f1,
    [ ⟨"LINK_DOWN", 0, 1, .w1c, 0x0, [.C, .W, .N, .H]⟩,
      ⟨"POISON", 1, 1, .w1c, 0x0, [.C, .W, .N, .H]⟩,
      ⟨"NVME_ERROR", 2, 1, .w1c, 0x0, [.C, .W, .N, .H]⟩,
      ⟨"INBOUND_REFUSED", 3, 1, .w1c, 0x0, [.C, .W, .N, .H]⟩ ]⟩,
  ⟨"TP_EVENT_COUNT k", 0x900820, 4, 0x4, 1, 0x0, 4, .f1,
    [ ⟨"COUNT", 0, 32, .rov, 0x0, [.C, .W, .N, .H]⟩ ]⟩]

def regsTp : List RegGroup := regsTp0

/-! ## The PF block -/

/-- PF_CONTROL, Table 09.6. -/
def rPfControl : Nat := 0xA00000
def fPfControlTestEn : Fld := ⟨0, 1⟩
def fPfControlPassRate : Fld := ⟨16, 16⟩

/-- PF_PASS, Table 09.6. -/
def rPfPass : Nat := 0xA00008
def fPfPassKind : Fld := ⟨0, 3⟩
def fPfPassUnit : Fld := ⟨3, 3⟩
def fPfPassStart : Fld := ⟨6, 1⟩
def fPfPassAbort : Fld := ⟨7, 1⟩

/-- PF_PASS_FROM, Table 09.7. -/
def rPfPassFrom : Nat := 0xA00010
def fPfPassFromValue : Fld := ⟨0, 40⟩

/-- PF_PASS_TO, Table 09.7. -/
def rPfPassTo : Nat := 0xA00018
def fPfPassToValue : Fld := ⟨0, 40⟩

/-- PF_STATUS, Table 09.8. -/
def rPfStatus : Nat := 0xA00020
def fPfStatusPassRunning : Fld := ⟨0, 1⟩
def fPfStatusTestBusy : Fld := ⟨1, 1⟩

/-- PF_PASS_LINES, Table 09.9. -/
def rPfPassLines : Nat := 0xA00028

/-- PF_PASS_FAILS, Table 09.9. -/
def rPfPassFails : Nat := 0xA00030
def fPfPassFailsFails : Fld := ⟨0, 32⟩
def fPfPassFailsSkipped : Fld := ⟨32, 32⟩

/-- PF_PASS_FIRST, Table 09.9. -/
def rPfPassFirst : Nat := 0xA00038
def fPfPassFirstFirst : Fld := ⟨0, 48⟩

/-- PF_PASS_LAST, Table 09.9. -/
def rPfPassLast : Nat := 0xA00040
def fPfPassLastLast : Fld := ⟨0, 48⟩

/-- PF_EVENT, Table 09.10. -/
def rPfEvent : Nat := 0xA00048
def fPfEventPassDone : Fld := ⟨0, 1⟩
def fPfEventLogFull : Fld := ⟨1, 1⟩
def fPfEventReserveOut : Fld := ⟨2, 1⟩
def fPfEventCheckFail : Fld := ⟨3, 1⟩
def fPfEventShareRefused : Fld := ⟨4, 1⟩

/-- PF_EVENT_COUNT k, Table 09.10. -/
def rPfEventCount (i : Nat) : Nat := 0xA00050 + 0x4 * i
def fPfEventCountCount : Fld := ⟨0, 32⟩

/-- PF_LOG_HEAD, Table 09.11. -/
def rPfLogHead : Nat := 0xA00068
def fPfLogHeadPfLogHead : Fld := ⟨0, 32⟩

/-- PF_LOG_TAIL, Table 09.11. -/
def rPfLogTail : Nat := 0xA00070
def fPfLogTailPfLogTail : Fld := ⟨0, 32⟩

/-- PF_LOG_LOST, Table 09.11. -/
def rPfLogLost : Nat := 0xA00078
def fPfLogLostLost : Fld := ⟨0, 32⟩
def fPfLogLostRepeat : Fld := ⟨32, 32⟩

/-- PF_REFETCH_OK, Table 09.11. -/
def rPfRefetchOk : Nat := 0xA00080

/-- PF log window word, Table 09.11. -/
def rPfLogWindow (i : Nat) (j : Nat) : Nat := 0xA10000 + 0x20 * i + 0x8 * j

/-- PF_TEST_TARGET, Table 09.12. -/
def rPfTestTarget : Nat := 0xA00100
def fPfTestTargetHandle : Fld := ⟨0, 40⟩
def fPfTestTargetLine : Fld := ⟨40, 8⟩
def fPfTestTargetMode : Fld := ⟨48, 2⟩
def fPfTestTargetOp : Fld := ⟨50, 2⟩

/-- PF_TEST_STATUS, Table 09.12. -/
def rPfTestStatus : Nat := 0xA00108
def fPfTestStatusStatus : Fld := ⟨0, 8⟩
def fPfTestStatusStored : Fld := ⟨16, 16⟩
def fPfTestStatusComputed : Fld := ⟨32, 16⟩

/-- PF_TEST_CHECK, Table 09.12. -/
def rPfTestCheck : Nat := 0xA00110
def fPfTestCheckPfTestCheck : Fld := ⟨0, 16⟩

/-- PF_TEST_DATA k, Table 09.12. -/
def rPfTestData (i : Nat) : Nat := 0xA00180 + 0x8 * i

/-- PF_RESERVE RS, Table 09.13. -/
def rPfReserveRs : Nat := 0xA00200
def fPfReserveRsRs : Fld := ⟨0, 40⟩

/-- PF_RESERVE LEFT, Table 09.13. -/
def rPfReserveLeft : Nat := 0xA00208
def fPfReserveLeftWideLeft : Fld := ⟨0, 32⟩
def fPfReserveLeftNarrowLeft : Fld := ⟨32, 32⟩

/-- PF_CHANNELS, Table 09.13. -/
def rPfChannels : Nat := 0xA00210
def fPfChannelsRemap0 : Fld := ⟨0, 8⟩
def fPfChannelsRemap1 : Fld := ⟨8, 8⟩
def fPfChannelsPending : Fld := ⟨16, 16⟩

def regsPf0 : List RegGroup := [
  ⟨"PF_CONTROL", 0xA00000, 1, 0x0, 1, 0x0, 8, .f1,
    [ ⟨"TEST_EN", 0, 1, .rw, 0x0, [.C, .W, .N, .H]⟩,
      ⟨"PASS_RATE", 16, 16, .rw, 0x100, [.C, .W, .N, .H]⟩ ]⟩,
  ⟨"PF_PASS", 0xA00008, 1, 0x0, 1, 0x0, 8, .f1,
    [ ⟨"KIND", 0, 3, .rw, 0x0, [.C, .W, .N, .H]⟩,
      ⟨"UNIT", 3, 3, .rw, 0x0, [.C, .W, .N, .H]⟩,
      ⟨"START", 6, 1, .wo, 0x0, []⟩,
      ⟨"ABORT", 7, 1, .wo, 0x0, []⟩ ]⟩,
  ⟨"PF_PASS_FROM", 0xA00010, 1, 0x0, 1, 0x0, 8, .f1,
    [ ⟨"VALUE", 0, 40, .rw, 0x0, [.C, .W, .N, .H]⟩ ]⟩,
  ⟨"PF_PASS_TO", 0xA00018, 1, 0x0, 1, 0x0, 8, .f1,
    [ ⟨"VALUE", 0, 40, .rw, 0x0, [.C, .W, .N, .H]⟩ ]⟩,
  ⟨"PF_STATUS", 0xA00020, 1, 0x0, 1, 0x0, 8, .f1,
    [ ⟨"PASS_RUNNING", 0, 1, .rov, 0x0, [.C, .W, .N, .H]⟩,
      ⟨"TEST_BUSY", 1, 1, .rov, 0x0, [.C, .W, .N, .H]⟩ ]⟩,
  ⟨"PF_PASS_LINES", 0xA00028, 1, 0x0, 1, 0x0, 8, .f1,
    [ ⟨"LINES", 0, 64, .rov, 0x0, [.C, .W, .N, .H]⟩ ]⟩]

def regsPf1 : List RegGroup := [
  ⟨"PF_PASS_FAILS", 0xA00030, 1, 0x0, 1, 0x0, 8, .f1,
    [ ⟨"FAILS", 0, 32, .rov, 0x0, [.C, .W, .N, .H]⟩,
      ⟨"SKIPPED", 32, 32, .rov, 0x0, [.C, .W, .N, .H]⟩ ]⟩,
  ⟨"PF_PASS_FIRST", 0xA00038, 1, 0x0, 1, 0x0, 8, .f1,
    [ ⟨"FIRST", 0, 48, .rov, 0x0, [.C, .W, .N, .H]⟩ ]⟩,
  ⟨"PF_PASS_LAST", 0xA00040, 1, 0x0, 1, 0x0, 8, .f1,
    [ ⟨"LAST", 0, 48, .rov, 0x0, [.C, .W, .N, .H]⟩ ]⟩,
  ⟨"PF_EVENT", 0xA00048, 1, 0x0, 1, 0x0, 4, .f1,
    [ ⟨"PASS_DONE", 0, 1, .w1c, 0x0, [.C, .W, .N, .H]⟩,
      ⟨"LOG_FULL", 1, 1, .w1c, 0x0, [.C, .W, .N, .H]⟩,
      ⟨"RESERVE_OUT", 2, 1, .w1c, 0x0, [.C, .W, .N, .H]⟩,
      ⟨"CHECK_FAIL", 3, 1, .w1c, 0x0, [.C, .W, .N, .H]⟩,
      ⟨"SHARE_REFUSED", 4, 1, .w1c, 0x0, [.C, .W, .N, .H]⟩ ]⟩,
  ⟨"PF_EVENT_COUNT k", 0xA00050, 5, 0x4, 1, 0x0, 4, .f1,
    [ ⟨"COUNT", 0, 32, .rov, 0x0, [.C, .W, .N, .H]⟩ ]⟩,
  ⟨"PF_LOG_HEAD", 0xA00068, 1, 0x0, 1, 0x0, 8, .f1,
    [ ⟨"PF_LOG_HEAD", 0, 32, .rw, 0x0, [.C, .W, .N, .H]⟩ ]⟩]

def regsPf2 : List RegGroup := [
  ⟨"PF_LOG_TAIL", 0xA00070, 1, 0x0, 1, 0x0, 8, .f1,
    [ ⟨"PF_LOG_TAIL", 0, 32, .rov, 0x0, [.C, .W, .N, .H]⟩ ]⟩,
  ⟨"PF_LOG_LOST", 0xA00078, 1, 0x0, 1, 0x0, 8, .f1,
    [ ⟨"LOST", 0, 32, .rov, 0x0, [.C, .W, .N, .H]⟩,
      ⟨"REPEAT", 32, 32, .rov, 0x0, [.C, .W, .N, .H]⟩ ]⟩,
  ⟨"PF_REFETCH_OK", 0xA00080, 1, 0x0, 1, 0x0, 8, .f1,
    [ ⟨"PF_REFETCH_OK", 0, 64, .rov, 0x0, [.C, .W, .N, .H]⟩ ]⟩,
  ⟨"PF log window word", 0xA10000, 1024, 0x20, 4, 0x8, 8, .f1,
    [ ⟨"Entry", 0, 64, .rov, 0x0, [.C, .W, .N, .H]⟩ ]⟩,
  ⟨"PF_TEST_TARGET", 0xA00100, 1, 0x0, 1, 0x0, 8, .f1,
    [ ⟨"HANDLE", 0, 40, .rw, 0x0, [.C, .W, .N, .H]⟩,
      ⟨"LINE", 40, 8, .rw, 0x0, [.C, .W, .N, .H]⟩,
      ⟨"MODE", 48, 2, .rw, 0x0, [.C, .W, .N, .H]⟩,
      ⟨"OP", 50, 2, .wo, 0x0, []⟩ ]⟩,
  ⟨"PF_TEST_STATUS", 0xA00108, 1, 0x0, 1, 0x0, 8, .f1,
    [ ⟨"STATUS", 0, 8, .rov, 0x0, [.C, .W, .N, .H]⟩,
      ⟨"STORED", 16, 16, .rov, 0x0, [.C, .W, .N, .H]⟩,
      ⟨"COMPUTED", 32, 16, .rov, 0x0, [.C, .W, .N, .H]⟩ ]⟩]

def regsPf3 : List RegGroup := [
  ⟨"PF_TEST_CHECK", 0xA00110, 1, 0x0, 1, 0x0, 8, .f1,
    [ ⟨"PF_TEST_CHECK", 0, 16, .rw, 0x0, [.C, .W, .N, .H]⟩ ]⟩,
  ⟨"PF_TEST_DATA k", 0xA00180, 16, 0x8, 1, 0x0, 8, .f1,
    [ ⟨"PF_TEST_DATA` 0–15", 0, 64, .rw, 0x0, [.C, .W, .N, .H]⟩ ]⟩,
  ⟨"PF_RESERVE RS", 0xA00200, 1, 0x0, 1, 0x0, 8, .f0,
    [ ⟨"RS", 0, 40, .rov, 0x1EB8500000, [.C, .W, .N]⟩ ]⟩,
  ⟨"PF_RESERVE LEFT", 0xA00208, 1, 0x0, 1, 0x0, 8, .f0,
    [ ⟨"WIDE_LEFT", 0, 32, .rov, 0x0, [.C, .W, .N]⟩,
      ⟨"NARROW_LEFT", 32, 32, .rov, 0x0, [.C, .W, .N]⟩ ]⟩,
  ⟨"PF_CHANNELS", 0xA00210, 1, 0x0, 1, 0x0, 8, .f0,
    [ ⟨"REMAP0", 0, 8, .rov, 0x0, [.C, .W, .N, .H]⟩,
      ⟨"REMAP1", 8, 8, .rov, 0x0, [.C, .W, .N, .H]⟩,
      ⟨"PENDING", 16, 16, .rov, 0x0, [.C, .W, .N, .H]⟩ ]⟩]

def regsPf : List RegGroup := regsPf0 ++ regsPf1 ++ regsPf2 ++ regsPf3

/-! ## The FL block -/

/-- FL_CONTROL, Table 10.5. -/
def rFlControl : Nat := 0xB00000
def fFlControlPauseTime : Fld := ⟨0, 16⟩
def fFlControlPauseWatchdog : Fld := ⟨16, 16⟩
def fFlControlUncorrLimit : Fld := ⟨32, 16⟩

/-- FL_RING_CONTROL, Table 10.6. -/
def rFlRingControl : Nat := 0xB00008
def fFlRingControlJoinEn : Fld := ⟨0, 1⟩
def fFlRingControlListenLimit : Fld := ⟨16, 16⟩
def fFlRingControlDetachLimit : Fld := ⟨32, 16⟩

/-- FL_RING_STATUS, Table 10.6. -/
def rFlRingStatus : Nat := 0xB00010
def fFlRingStatusAttached : Fld := ⟨0, 1⟩
def fFlRingStatusListenedE : Fld := ⟨1, 1⟩
def fFlRingStatusListenedW : Fld := ⟨2, 1⟩

/-- FL_SWAP, Table 10.7. -/
def rFlSwap : Nat := 0xB00018
def fFlSwapPort : Fld := ⟨0, 4⟩
def fFlSwapLane : Fld := ⟨4, 4⟩
def fFlSwapGo : Fld := ⟨8, 1⟩
def fFlSwapBusy : Fld := ⟨9, 1⟩
def fFlSwapStatus : Fld := ⟨16, 8⟩

/-- FL_PORT g, Table 10.8. -/
def rFlPort (i : Nat) : Nat := 0xB01000 + 0x200 * i
def fFlPortState : Fld := ⟨0, 3⟩
def fFlPortEnable : Fld := ⟨3, 1⟩
def fFlPortWidth : Fld := ⟨4, 2⟩
def fFlPortSpareIn : Fld := ⟨6, 1⟩
def fFlPortSpareFor : Fld := ⟨7, 4⟩
def fFlPortPartner : Fld := ⟨11, 12⟩
def fFlPortPartnerValid : Fld := ⟨23, 1⟩
def fFlPortLaneMap : Fld := ⟨24, 17⟩

/-- FL_PORT_CLASS g, c (fabric), Table 10.9. -/
def rFlPortClass (i : Nat) (j : Nat) : Nat := 0xB01010 + 0x200 * i + 0x8 * j
def fFlPortClassSize : Fld := ⟨0, 11⟩
def fFlPortClassHi : Fld := ⟨11, 11⟩
def fFlPortClassLo : Fld := ⟨22, 11⟩

/-- FL_PORT_CLASS g, c (ring), Table 10.9. -/
def rFlPortClassRing (i : Nat) (j : Nat) : Nat := 0xB03010 + 0x200 * i + 0x8 * j
def fFlPortClassRingSize : Fld := ⟨0, 11⟩
def fFlPortClassRingHi : Fld := ⟨11, 11⟩
def fFlPortClassRingLo : Fld := ⟨22, 11⟩

/-- FL_PORT_EVENT g, Table 10.10. -/
def rFlPortEvent (i : Nat) : Nat := 0xB01080 + 0x200 * i
def fFlPortEventRetrain : Fld := ⟨0, 1⟩
def fFlPortEventOverrun : Fld := ⟨1, 1⟩
def fFlPortEventCrcDrop : Fld := ⟨2, 1⟩
def fFlPortEventPauseStall : Fld := ⟨3, 1⟩
def fFlPortEventLcfBad : Fld := ⟨4, 1⟩
def fFlPortEventSwapFail : Fld := ⟨5, 1⟩
def fFlPortEventHopDrop : Fld := ⟨6, 1⟩
def fFlPortEventNeighbourChange : Fld := ⟨7, 1⟩
def fFlPortEventDetach : Fld := ⟨8, 1⟩

/-- FL_PORT_EVENT counters g, k, Table 10.10. -/
def rFlPortEventCount (i : Nat) (j : Nat) : Nat := 0xB01090 + 0x200 * i + 0x4 * j
def fFlPortEventCountCount : Fld := ⟨0, 32⟩

/-- FL_PORT_LAST_RETRAIN g, Table 10.10. -/
def rFlPortLastRetrain (i : Nat) : Nat := 0xB010C0 + 0x200 * i

/-- FL_LANE g, l, Table 10.11. -/
def rFlLane (i : Nat) (j : Nat) : Nat := 0xB01100 + 0x200 * i + 0x8 * j
def fFlLaneCorrected : Fld := ⟨0, 32⟩
def fFlLaneUncorrected : Fld := ⟨32, 32⟩

/-- FL_LANE g, l (ring), Table 10.11. -/
def rFlLaneRing (i : Nat) (j : Nat) : Nat := 0xB03100 + 0x200 * i + 0x8 * j
def fFlLaneRingCorrected : Fld := ⟨0, 32⟩
def fFlLaneRingUncorrected : Fld := ⟨32, 32⟩

def regsFl0 : List RegGroup := [
  ⟨"FL_CONTROL", 0xB00000, 1, 0x0, 1, 0x0, 8, .f1,
    [ ⟨"PAUSE_TIME", 0, 16, .rw, 0x400, [.C, .W]⟩,
      ⟨"PAUSE_WATCHDOG", 16, 16, .rw, 0x400, [.C, .W]⟩,
      ⟨"UNCORR_LIMIT", 32, 16, .rw, 0x10, [.C, .W]⟩ ]⟩,
  ⟨"FL_RING_CONTROL", 0xB00008, 1, 0x0, 1, 0x0, 8, .f1,
    [ ⟨"JOIN_EN", 0, 1, .rw, 0x1, [.C, .W]⟩,
      ⟨"LISTEN_LIMIT", 16, 16, .rw, 0x2400, [.C, .W]⟩,
      ⟨"DETACH_LIMIT", 32, 16, .rw, 0x400, [.C, .W]⟩ ]⟩,
  ⟨"FL_RING_STATUS", 0xB00010, 1, 0x0, 1, 0x0, 8, .f1,
    [ ⟨"ATTACHED", 0, 1, .rov, 0x0, [.C, .W, .N, .H]⟩,
      ⟨"LISTENED_E", 1, 1, .rov, 0x0, [.C, .W, .N, .H]⟩,
      ⟨"LISTENED_W", 2, 1, .rov, 0x0, [.C, .W, .N, .H]⟩ ]⟩,
  ⟨"FL_SWAP", 0xB00018, 1, 0x0, 1, 0x0, 8, .f0,
    [ ⟨"PORT", 0, 4, .rw, 0x0, [.C, .W, .N, .H]⟩,
      ⟨"LANE", 4, 4, .rw, 0x0, [.C, .W, .N, .H]⟩,
      ⟨"GO", 8, 1, .wo, 0x0, []⟩,
      ⟨"BUSY", 9, 1, .rov, 0x0, [.C, .W, .N, .H]⟩,
      ⟨"STATUS", 16, 8, .rov, 0x0, [.C, .W, .N, .H]⟩ ]⟩,
  ⟨"FL_PORT g", 0xB01000, 18, 0x200, 1, 0x0, 8, .f1,
    [ ⟨"STATE", 0, 3, .rov, 0x0, [.C, .W]⟩,
      ⟨"ENABLE", 3, 1, .rw, 0x1, [.C, .W]⟩,
      ⟨"WIDTH", 4, 2, .rov, 0x0, [.C, .W]⟩,
      ⟨"SPARE_IN", 6, 1, .rov, 0x0, [.C, .W]⟩,
      ⟨"SPARE_FOR", 7, 4, .rov, 0x0, [.C, .W]⟩,
      ⟨"PARTNER", 11, 12, .rov, 0x0, [.C, .W, .N, .H]⟩,
      ⟨"PARTNER_VALID", 23, 1, .rov, 0x0, [.C, .W, .N, .H]⟩,
      ⟨"LANE_MAP", 24, 17, .rov, 0x0, [.C, .W]⟩ ]⟩,
  ⟨"FL_PORT_CLASS g, c (fabric)", 0xB01010, 16, 0x200, 8, 0x8, 8, .f1,
    [ ⟨"SIZE", 0, 11, .rw, 0x80, [.C, .W]⟩,
      ⟨"HI", 11, 11, .rw, 0x20, [.C, .W]⟩,
      ⟨"LO", 22, 11, .rw, 0x10, [.C, .W]⟩ ]⟩]

def regsFl1 : List RegGroup := [
  ⟨"FL_PORT_CLASS g, c (ring)", 0xB03010, 2, 0x200, 8, 0x8, 8, .f1,
    [ ⟨"SIZE", 0, 11, .rw, 0x20, [.C, .W]⟩,
      ⟨"HI", 11, 11, .rw, 0x8, [.C, .W]⟩,
      ⟨"LO", 22, 11, .rw, 0x4, [.C, .W]⟩ ]⟩,
  ⟨"FL_PORT_EVENT g", 0xB01080, 18, 0x200, 1, 0x0, 4, .f1,
    [ ⟨"RETRAIN", 0, 1, .w1c, 0x0, [.C, .W, .N, .H]⟩,
      ⟨"OVERRUN", 1, 1, .w1c, 0x0, [.C, .W, .N, .H]⟩,
      ⟨"CRC_DROP", 2, 1, .w1c, 0x0, [.C, .W, .N, .H]⟩,
      ⟨"PAUSE_STALL", 3, 1, .w1c, 0x0, [.C, .W, .N, .H]⟩,
      ⟨"LCF_BAD", 4, 1, .w1c, 0x0, [.C, .W, .N, .H]⟩,
      ⟨"SWAP_FAIL", 5, 1, .w1c, 0x0, [.C, .W, .N, .H]⟩,
      ⟨"HOP_DROP", 6, 1, .w1c, 0x0, [.C, .W, .N, .H]⟩,
      ⟨"NEIGHBOUR_CHANGE", 7, 1, .w1c, 0x0, [.C, .W, .N, .H]⟩,
      ⟨"DETACH", 8, 1, .w1c, 0x0, [.C, .W, .N, .H]⟩ ]⟩,
  ⟨"FL_PORT_EVENT counters g, k", 0xB01090, 18, 0x200, 9, 0x4, 4, .f1,
    [ ⟨"COUNT", 0, 32, .rov, 0x0, [.C, .W, .N, .H]⟩ ]⟩,
  ⟨"FL_PORT_LAST_RETRAIN g", 0xB010C0, 18, 0x200, 1, 0x0, 8, .f1,
    [ ⟨"TIME", 0, 64, .rov, 0x0, [.C, .W, .N, .H]⟩ ]⟩,
  ⟨"FL_LANE g, l", 0xB01100, 16, 0x200, 17, 0x8, 8, .f1,
    [ ⟨"CORRECTED", 0, 32, .rov, 0x0, [.C, .W, .N, .H]⟩,
      ⟨"UNCORRECTED", 32, 32, .rov, 0x0, [.C, .W, .N, .H]⟩ ]⟩,
  ⟨"FL_LANE g, l (ring)", 0xB03100, 2, 0x200, 8, 0x8, 8, .f1,
    [ ⟨"CORRECTED", 0, 32, .rov, 0x0, [.C, .W, .N, .H]⟩,
      ⟨"UNCORRECTED", 32, 32, .rov, 0x0, [.C, .W, .N, .H]⟩ ]⟩]

def regsFl : List RegGroup := regsFl0 ++ regsFl1

/-! ## The FT block -/

/-- FT_CONTROL, Table 11.7. -/
def rFtControl : Nat := 0xC00000
def fFtControlAckTime : Fld := ⟨0, 8⟩
def fFtControlNakTime : Fld := ⟨8, 8⟩
def fFtControlRetxTime : Fld := ⟨16, 8⟩
def fFtControlRetryLimit : Fld := ⟨24, 8⟩
def fFtControlAckCoalesce : Fld := ⟨32, 8⟩

/-- FT_STATUS, Table 11.8. -/
def rFtStatus : Nat := 0xC00008
def fFtStatusOpen : Fld := ⟨0, 15⟩
def fFtStatusWrs : Fld := ⟨15, 17⟩
def fFtStatusArmed : Fld := ⟨32, 13⟩
def fFtStatusReasm : Fld := ⟨45, 17⟩

/-- FT_EVENT, Table 11.9. -/
def rFtEvent : Nat := 0xC00010
def fFtEventRetransmit : Fld := ⟨0, 1⟩
def fFtEventConnError : Fld := ⟨1, 1⟩
def fFtEventAccessViolation : Fld := ⟨2, 1⟩
def fFtEventRevokedRefuse : Fld := ⟨3, 1⟩
def fFtEventBadPacket : Fld := ⟨4, 1⟩
def fFtEventWindowDrop : Fld := ⟨5, 1⟩
def fFtEventNoSlot : Fld := ⟨6, 1⟩
def fFtEventRevokeDone : Fld := ⟨7, 1⟩

/-- FT_EVENT_COUNT k, Table 11.10. -/
def rFtEventCount (i : Nat) : Nat := 0xC00020 + 0x4 * i
def fFtEventCountCount : Fld := ⟨0, 32⟩

/-- FT_STORE_USED, Table 11.11. -/
def rFtStoreUsed : Nat := 0xC00040
def fFtStoreUsedBytes : Fld := ⟨0, 24⟩

/-- FT_VIOL, Table 11.11. -/
def rFtViol : Nat := 0xC00060
def fFtViolConn : Fld := ⟨0, 14⟩
def fFtViolNode : Fld := ⟨14, 12⟩
def fFtViolLocal : Fld := ⟨26, 1⟩
def fFtViolStatus : Fld := ⟨27, 8⟩

/-- FT_VIOL RKEY, Table 11.11. -/
def rFtViolKey : Nat := 0xC00068
def fFtViolKeyRkey : Fld := ⟨0, 32⟩

/-- FT_VIOL OFFSET, Table 11.11. -/
def rFtViolOffset : Nat := 0xC00070
def fFtViolOffsetOffset : Fld := ⟨0, 40⟩

/-- TX_PACKETS, Table 11.12. -/
def rFtTxPackets : Nat := 0xC00080

/-- RX_PACKETS, Table 11.12. -/
def rFtRxPackets : Nat := 0xC00088

/-- FT_RETX_PACKETS, Table 11.12. -/
def rFtRetxPackets : Nat := 0xC00090

/-- DUPLICATES, Table 11.12. -/
def rFtDuplicates : Nat := 0xC00098

/-- NAKS, Table 11.12. -/
def rFtNaks : Nat := 0xC000A0

/-- DGRAMS, Table 11.12. -/
def rFtDgrams : Nat := 0xC000A8

/-- FT_COUNTER k, Table 11.13. -/
def rFtCounter (i : Nat) : Nat := 0xC10000 + 0x4 * i
def fFtCounterValue : Fld := ⟨0, 32⟩

def regsFt0 : List RegGroup := [
  ⟨"FT_CONTROL", 0xC00000, 1, 0x0, 1, 0x0, 8, .f1,
    [ ⟨"ACK_TIME", 0, 8, .rw, 0x1, [.C, .W, .N]⟩,
      ⟨"NAK_TIME", 8, 8, .rw, 0x2, [.C, .W, .N]⟩,
      ⟨"RETX_TIME", 16, 8, .rw, 0x8, [.C, .W, .N]⟩,
      ⟨"RETRY_LIMIT", 24, 8, .rw, 0x10, [.C, .W, .N]⟩,
      ⟨"ACK_COALESCE", 32, 8, .rw, 0x10, [.C, .W, .N]⟩ ]⟩,
  ⟨"FT_STATUS", 0xC00008, 1, 0x0, 1, 0x0, 8, .f1,
    [ ⟨"OPEN", 0, 15, .rov, 0x0, [.C, .W, .N, .H]⟩,
      ⟨"WRS", 15, 17, .rov, 0x0, [.C, .W, .N, .H]⟩,
      ⟨"ARMED", 32, 13, .rov, 0x0, [.C, .W, .N, .H]⟩,
      ⟨"REASM", 45, 17, .rov, 0x0, [.C, .W, .N, .H]⟩ ]⟩,
  ⟨"FT_EVENT", 0xC00010, 1, 0x0, 1, 0x0, 4, .f1,
    [ ⟨"RETRANSMIT", 0, 1, .w1c, 0x0, [.C, .W, .N, .H]⟩,
      ⟨"CONN_ERROR", 1, 1, .w1c, 0x0, [.C, .W, .N, .H]⟩,
      ⟨"ACCESS_VIOLATION", 2, 1, .w1c, 0x0, [.C, .W, .N, .H]⟩,
      ⟨"REVOKED_REFUSE", 3, 1, .w1c, 0x0, [.C, .W, .N, .H]⟩,
      ⟨"BAD_PACKET", 4, 1, .w1c, 0x0, [.C, .W, .N, .H]⟩,
      ⟨"WINDOW_DROP", 5, 1, .w1c, 0x0, [.C, .W, .N, .H]⟩,
      ⟨"NO_SLOT", 6, 1, .w1c, 0x0, [.C, .W, .N, .H]⟩,
      ⟨"REVOKE_DONE", 7, 1, .w1c, 0x0, [.C, .W, .N, .H]⟩ ]⟩,
  ⟨"FT_EVENT_COUNT k", 0xC00020, 8, 0x4, 1, 0x0, 4, .f1,
    [ ⟨"COUNT", 0, 32, .rov, 0x0, [.C, .W, .N, .H]⟩ ]⟩,
  ⟨"FT_STORE_USED", 0xC00040, 1, 0x0, 1, 0x0, 8, .f1,
    [ ⟨"BYTES", 0, 24, .rov, 0x0, [.C, .W, .N, .H]⟩ ]⟩,
  ⟨"FT_VIOL", 0xC00060, 1, 0x0, 1, 0x0, 8, .f1,
    [ ⟨"CONN", 0, 14, .rov, 0x0, [.C, .W, .N, .H]⟩,
      ⟨"NODE", 14, 12, .rov, 0x0, [.C, .W, .N, .H]⟩,
      ⟨"LOCAL", 26, 1, .rov, 0x0, [.C, .W, .N, .H]⟩,
      ⟨"STATUS", 27, 8, .rov, 0x0, [.C, .W, .N, .H]⟩ ]⟩]

def regsFt1 : List RegGroup := [
  ⟨"FT_VIOL RKEY", 0xC00068, 1, 0x0, 1, 0x0, 8, .f1,
    [ ⟨"RKEY", 0, 32, .rov, 0x0, [.C, .W, .N, .H]⟩ ]⟩,
  ⟨"FT_VIOL OFFSET", 0xC00070, 1, 0x0, 1, 0x0, 8, .f1,
    [ ⟨"OFFSET", 0, 40, .rov, 0x0, [.C, .W, .N, .H]⟩ ]⟩,
  ⟨"TX_PACKETS", 0xC00080, 1, 0x0, 1, 0x0, 8, .f1,
    [ ⟨"TX_PACKETS", 0, 64, .rov, 0x0, [.C, .W, .N, .H]⟩ ]⟩,
  ⟨"RX_PACKETS", 0xC00088, 1, 0x0, 1, 0x0, 8, .f1,
    [ ⟨"RX_PACKETS", 0, 64, .rov, 0x0, [.C, .W, .N, .H]⟩ ]⟩,
  ⟨"FT_RETX_PACKETS", 0xC00090, 1, 0x0, 1, 0x0, 8, .f1,
    [ ⟨"FT_RETX_PACKETS", 0, 64, .rov, 0x0, [.C, .W, .N, .H]⟩ ]⟩,
  ⟨"DUPLICATES", 0xC00098, 1, 0x0, 1, 0x0, 8, .f1,
    [ ⟨"DUPLICATES", 0, 64, .rov, 0x0, [.C, .W, .N, .H]⟩ ]⟩]

def regsFt2 : List RegGroup := [
  ⟨"NAKS", 0xC000A0, 1, 0x0, 1, 0x0, 8, .f1,
    [ ⟨"NAKS", 0, 64, .rov, 0x0, [.C, .W, .N, .H]⟩ ]⟩,
  ⟨"DGRAMS", 0xC000A8, 1, 0x0, 1, 0x0, 8, .f1,
    [ ⟨"DGRAMS", 0, 64, .rov, 0x0, [.C, .W, .N, .H]⟩ ]⟩,
  ⟨"FT_COUNTER k", 0xC10000, 4096, 0x4, 1, 0x0, 4, .f1,
    [ ⟨"VALUE", 0, 32, .rov, 0x0, [.C, .W, .N, .H]⟩ ]⟩]

def regsFt : List RegGroup := regsFt0 ++ regsFt1 ++ regsFt2

/-! ## The ES block -/

/-- ES_PORT g, Table 12.1. -/
def rEsPort (i : Nat) : Nat := 0xD01000 + 0x800 * i
def fEsPortOverhead : Fld := ⟨0, 10⟩
def fEsPortAdminLen : Fld := ⟨10, 7⟩
def fEsPortInstall : Fld := ⟨17, 1⟩
def fEsPortOperLen : Fld := ⟨18, 7⟩
def fEsPortPending : Fld := ⟨25, 1⟩
def fEsPortSuspended : Fld := ⟨26, 1⟩

/-- ES_GATE_BASE g, Table 12.1. -/
def rEsGateBase (i : Nat) : Nat := 0xD01008 + 0x800 * i

/-- ES_GATE_STATUS g, Table 12.1. -/
def rEsGateStatus (i : Nat) : Nat := 0xD01010 + 0x800 * i
def fEsGateStatusEntry : Fld := ⟨0, 6⟩
def fEsGateStatusMask : Fld := ⟨6, 8⟩
def fEsGateStatusRemain : Fld := ⟨14, 24⟩

/-- ES_SHAPER g, c, Table 12.2. -/
def rEsShaper (i : Nat) (j : Nat) : Nat := 0xD01040 + 0x800 * i + 0x8 * j
def fEsShaperShapeEn : Fld := ⟨0, 1⟩
def fEsShaperRate : Fld := ⟨1, 12⟩
def fEsShaperBurst : Fld := ⟨13, 10⟩

/-- ES_HOLD_CYCLES g, c, Table 12.3. -/
def rEsHoldCycles (i : Nat) (j : Nat) : Nat := 0xD01080 + 0x800 * i + 0x8 * j

/-- ES_PORT_EVENT g, Table 12.4. -/
def rEsPortEvent (i : Nat) : Nat := 0xD01100 + 0x800 * i
def fEsPortEventInstalled : Fld := ⟨0, 1⟩
def fEsPortEventListRefused : Fld := ⟨1, 1⟩
def fEsPortEventSuspended : Fld := ⟨2, 1⟩

/-- ES_PORT_EVENT counters g, k, Table 12.4. -/
def rEsPortEventCount (i : Nat) (j : Nat) : Nat := 0xD01110 + 0x800 * i + 0x4 * j
def fEsPortEventCountCount : Fld := ⟨0, 32⟩

/-- ES administrative gate entry g, e, Table 12.5. -/
def rEsAdmin (i : Nat) (j : Nat) : Nat := 0xD01400 + 0x800 * i + 0x8 * j
def fEsAdminMask : Fld := ⟨0, 8⟩
def fEsAdminInterval : Fld := ⟨8, 24⟩

/-- ES operating gate entry g, e, Table 12.5. -/
def rEsOper (i : Nat) (j : Nat) : Nat := 0xD01600 + 0x800 * i + 0x8 * j
def fEsOperMask : Fld := ⟨0, 8⟩
def fEsOperInterval : Fld := ⟨8, 24⟩

def regsEs0 : List RegGroup := [
  ⟨"ES_PORT g", 0xD01000, 18, 0x800, 1, 0x0, 8, .f1,
    [ ⟨"OVERHEAD", 0, 10, .rw, 0x20, [.C, .W]⟩,
      ⟨"ADMIN_LEN", 10, 7, .rw, 0x0, [.C, .W]⟩,
      ⟨"INSTALL", 17, 1, .wo, 0x0, []⟩,
      ⟨"OPER_LEN", 18, 7, .rov, 0x0, [.C, .W]⟩,
      ⟨"PENDING", 25, 1, .rov, 0x0, [.C, .W, .N, .H]⟩,
      ⟨"SUSPENDED", 26, 1, .rov, 0x0, [.C, .W, .N, .H]⟩ ]⟩,
  ⟨"ES_GATE_BASE g", 0xD01008, 18, 0x800, 1, 0x0, 8, .f1,
    [ ⟨"BASE", 0, 64, .rw, 0x0, [.C, .W]⟩ ]⟩,
  ⟨"ES_GATE_STATUS g", 0xD01010, 18, 0x800, 1, 0x0, 8, .f1,
    [ ⟨"ENTRY", 0, 6, .rov, 0x0, [.C, .W, .N, .H]⟩,
      ⟨"MASK", 6, 8, .rov, 0xFF, [.C, .W, .N, .H]⟩,
      ⟨"REMAIN", 14, 24, .rov, 0x0, [.C, .W, .N, .H]⟩ ]⟩,
  ⟨"ES_SHAPER g, c", 0xD01040, 18, 0x800, 8, 0x8, 8, .f1,
    [ ⟨"SHAPE_EN", 0, 1, .rw, 0x0, [.C, .W]⟩,
      ⟨"RATE", 1, 12, .rw, 0x0, [.C, .W]⟩,
      ⟨"BURST", 13, 10, .rw, 0x10, [.C, .W]⟩ ]⟩,
  ⟨"ES_HOLD_CYCLES g, c", 0xD01080, 18, 0x800, 8, 0x8, 8, .f1,
    [ ⟨"CYCLES", 0, 64, .rov, 0x0, [.C, .W, .N, .H]⟩ ]⟩,
  ⟨"ES_PORT_EVENT g", 0xD01100, 18, 0x800, 1, 0x0, 4, .f1,
    [ ⟨"INSTALLED", 0, 1, .w1c, 0x0, [.C, .W, .N, .H]⟩,
      ⟨"LIST_REFUSED", 1, 1, .w1c, 0x0, [.C, .W, .N, .H]⟩,
      ⟨"SUSPENDED", 2, 1, .w1c, 0x0, [.C, .W, .N, .H]⟩ ]⟩]

def regsEs1 : List RegGroup := [
  ⟨"ES_PORT_EVENT counters g, k", 0xD01110, 18, 0x800, 3, 0x4, 4, .f1,
    [ ⟨"COUNT", 0, 32, .rov, 0x0, [.C, .W, .N, .H]⟩ ]⟩,
  ⟨"ES administrative gate entry g, e", 0xD01400, 18, 0x800, 64, 0x8, 8, .f1,
    [ ⟨"MASK", 0, 8, .rw, 0xFF, [.C, .W]⟩,
      ⟨"INTERVAL", 8, 24, .rw, 0x0, [.C, .W]⟩ ]⟩,
  ⟨"ES operating gate entry g, e", 0xD01600, 18, 0x800, 64, 0x8, 8, .f1,
    [ ⟨"MASK", 0, 8, .rov, 0xFF, [.C, .W]⟩,
      ⟨"INTERVAL", 8, 24, .rov, 0x0, [.C, .W]⟩ ]⟩]

def regsEs : List RegGroup := regsEs0 ++ regsEs1

/-! ## The IM block -/

/-- IM_CONTROL, Table 12.6. -/
def rImControl : Nat := 0xE00000
def fImControlConnLimit : Fld := ⟨0, 16⟩
def fImControlConnErrEn : Fld := ⟨16, 1⟩

/-- IM_MGMT, Table 12.6. -/
def rImMgmt : Nat := 0xE00008
def fImMgmtRate : Fld := ⟨0, 12⟩
def fImMgmtBurst : Fld := ⟨12, 10⟩

/-- IM_EVENT, Table 12.6. -/
def rImEvent : Nat := 0xE00010
def fImEventDrop : Fld := ⟨0, 1⟩
def fImEventConnError : Fld := ⟨1, 1⟩
def fImEventMgmtDrop : Fld := ⟨2, 1⟩

/-- IM_EVENT_COUNT k, Table 12.7. -/
def rImEventCount (i : Nat) : Nat := 0xE00020 + 0x4 * i
def fImEventCountCount : Fld := ⟨0, 32⟩

/-- IM_DROP_COUNT c, Table 12.7. -/
def rImDropCount (i : Nat) : Nat := 0xE00040 + 0x8 * i

/-- IM_SOURCE n, Table 12.8. -/
def rImSource (i : Nat) : Nat := 0xE10000 + 0x4 * i
def fImSourceProfile : Fld := ⟨0, 6⟩

/-- IM_PROFILE p, c, Table 12.8. -/
def rImProfile (i : Nat) (j : Nat) : Nat := 0xE20000 + 0x40 * i + 0x8 * j
def fImProfilePoliceEn : Fld := ⟨0, 1⟩
def fImProfileRate : Fld := ⟨1, 12⟩
def fImProfileBurst : Fld := ⟨13, 10⟩

def regsIm0 : List RegGroup := [
  ⟨"IM_CONTROL", 0xE00000, 1, 0x0, 1, 0x0, 8, .f1,
    [ ⟨"CONN_LIMIT", 0, 16, .rw, 0x400, [.C, .W]⟩,
      ⟨"CONN_ERR_EN", 16, 1, .rw, 0x1, [.C, .W]⟩ ]⟩,
  ⟨"IM_MGMT", 0xE00008, 1, 0x0, 1, 0x0, 8, .f1,
    [ ⟨"RATE", 0, 12, .rw, 0x1, [.C, .W]⟩,
      ⟨"BURST", 12, 10, .rw, 0x40, [.C, .W]⟩ ]⟩,
  ⟨"IM_EVENT", 0xE00010, 1, 0x0, 1, 0x0, 4, .f1,
    [ ⟨"DROP", 0, 1, .w1c, 0x0, [.C, .W, .N, .H]⟩,
      ⟨"CONN_ERROR", 1, 1, .w1c, 0x0, [.C, .W, .N, .H]⟩,
      ⟨"MGMT_DROP", 2, 1, .w1c, 0x0, [.C, .W, .N, .H]⟩ ]⟩,
  ⟨"IM_EVENT_COUNT k", 0xE00020, 3, 0x4, 1, 0x0, 4, .f1,
    [ ⟨"COUNT", 0, 32, .rov, 0x0, [.C, .W, .N, .H]⟩ ]⟩,
  ⟨"IM_DROP_COUNT c", 0xE00040, 8, 0x8, 1, 0x0, 8, .f1,
    [ ⟨"PACKETS", 0, 64, .rov, 0x0, [.C, .W, .N, .H]⟩ ]⟩,
  ⟨"IM_SOURCE n", 0xE10000, 4096, 0x4, 1, 0x0, 4, .f1,
    [ ⟨"PROFILE", 0, 6, .rw, 0x0, [.C, .W]⟩ ]⟩]

def regsIm1 : List RegGroup := [
  ⟨"IM_PROFILE p, c", 0xE20000, 64, 0x40, 7, 0x8, 8, .f1,
    [ ⟨"POLICE_EN", 0, 1, .rw, 0x0, [.C, .W]⟩,
      ⟨"RATE", 1, 12, .rw, 0x0, [.C, .W]⟩,
      ⟨"BURST", 13, 10, .rw, 0x10, [.C, .W]⟩ ]⟩]

def regsIm : List RegGroup := regsIm0 ++ regsIm1

/-! ## The CF block -/

/-- CF_STATUS, Table 13.8. -/
def rCfStatus : Nat := 0xF00000
def fCfStatusComposed : Fld := ⟨0, 1⟩
def fCfStatusRecovery : Fld := ⟨1, 13⟩
def fCfStatusForwards : Fld := ⟨14, 15⟩
def fCfStatusHandovers : Fld := ⟨29, 7⟩
def fCfStatusTreeErrors : Fld := ⟨36, 15⟩
def fCfStatusPrevOpen : Fld := ⟨51, 1⟩

/-- CF_EPOCH, Table 13.8. -/
def rCfEpoch : Nat := 0xF00008
def fCfEpochCurrent : Fld := ⟨0, 32⟩
def fCfEpochPrevious : Fld := ⟨32, 32⟩

/-- CF_NODE_ID, Table 13.9. -/
def rCfNodeId : Nat := 0xF00010
def fCfNodeIdNodeId : Fld := ⟨0, 12⟩

/-- CF_PORT_FENCE, Table 13.9. -/
def rCfPortFence : Nat := 0xF00018
def fCfPortFenceLogical : Fld := ⟨0, 18⟩
def fCfPortFenceElectrical : Fld := ⟨32, 18⟩

/-- CF_CONTROL, Table 13.9. -/
def rCfControl : Nat := 0xF00020
def fCfControlHbPeriod : Fld := ⟨0, 16⟩
def fCfControlHbMisses : Fld := ⟨16, 8⟩
def fCfControlHbTc : Fld := ⟨24, 3⟩
def fCfControlTreeTc : Fld := ⟨27, 3⟩

/-- CF_HANDOVER, Table 13.9. -/
def rCfHandover : Nat := 0xF00028
def fCfHandoverTimeout : Fld := ⟨0, 24⟩

/-- CF_SERIAL_FLOOR, Table 13.9. -/
def rCfSerialFloor : Nat := 0xF00030
def fCfSerialFloorFloor : Fld := ⟨0, 32⟩

/-- CF_EVENT, Table 13.10. -/
def rCfEvent : Nat := 0xF00038
def fCfEventAuthFail : Fld := ⟨0, 1⟩
def fCfEventReplay : Fld := ⟨1, 1⟩
def fCfEventSuspect : Fld := ⟨2, 1⟩
def fCfEventHealth : Fld := ⟨3, 1⟩
def fCfEventTreeError : Fld := ⟨4, 1⟩
def fCfEventRingChange : Fld := ⟨5, 1⟩
def fCfEventNoRoute : Fld := ⟨6, 1⟩
def fCfEventFenceDrop : Fld := ⟨7, 1⟩
def fCfEventHandoverRevert : Fld := ⟨8, 1⟩

/-- CF_EVENT_COUNT k, Table 13.10. -/
def rCfEventCount (i : Nat) : Nat := 0xF00040 + 0x4 * i
def fCfEventCountCount : Fld := ⟨0, 32⟩

/-- CF_SUSPECT, Table 13.11. -/
def rCfSuspect : Nat := 0xF00070

/-- CF_HEALTH_LAST, Table 13.11. -/
def rCfHealthLast : Nat := 0xF00078
def fCfHealthLastIndex : Fld := ⟨0, 10⟩
def fCfHealthLastScore : Fld := ⟨32, 16⟩

/-- CF_HEALTH_MARK k, Table 13.11. -/
def rCfHealthMark (i : Nat) : Nat := 0xF00080 + 0x8 * i
def fCfHealthMarkMark : Fld := ⟨0, 16⟩

/-- CF_WATCH n, Table 13.12. -/
def rCfWatch (i : Nat) : Nat := 0xF00100 + 0x4 * i
def fCfWatchNode : Fld := ⟨0, 12⟩
def fCfWatchValid : Fld := ⟨12, 1⟩

/-- CF_MANAGER m, Table 13.12. -/
def rCfManager (i : Nat) : Nat := 0xF00200 + 0x8 * i
def fCfManagerNode : Fld := ⟨0, 12⟩
def fCfManagerValid : Fld := ⟨12, 1⟩
def fCfManagerKeySet : Fld := ⟨13, 1⟩

/-- CF_SCORE i, Table 13.12. -/
def rCfScore (i : Nat) : Nat := 0xF10000 + 0x4 * i
def fCfScoreScore : Fld := ⟨0, 16⟩

/-- CF_ROUTE n, Table 13.12. -/
def rCfRoute (i : Nat) : Nat := 0xF20000 + 0x8 * i

def regsCf0 : List RegGroup := [
  ⟨"CF_STATUS", 0xF00000, 1, 0x0, 1, 0x0, 8, .f1,
    [ ⟨"COMPOSED", 0, 1, .rov, 0x0, [.C, .W, .N, .H]⟩,
      ⟨"RECOVERY", 1, 13, .rov, 0x0, [.C, .W, .N, .H]⟩,
      ⟨"FORWARDS", 14, 15, .rov, 0x0, [.C, .W, .N, .H]⟩,
      ⟨"HANDOVERS", 29, 7, .rov, 0x0, [.C, .W, .N, .H]⟩,
      ⟨"TREE_ERRORS", 36, 15, .rov, 0x0, [.C, .W, .N, .H]⟩,
      ⟨"PREV_OPEN", 51, 1, .rov, 0x0, [.C, .W, .N, .H]⟩ ]⟩,
  ⟨"CF_EPOCH", 0xF00008, 1, 0x0, 1, 0x0, 8, .f1,
    [ ⟨"CURRENT", 0, 32, .rov, 0x0, [.C, .W, .N, .H]⟩,
      ⟨"PREVIOUS", 32, 32, .rov, 0x0, [.C, .W, .N, .H]⟩ ]⟩,
  ⟨"CF_NODE_ID", 0xF00010, 1, 0x0, 1, 0x0, 8, .f1,
    [ ⟨"NODE_ID", 0, 12, .ro, 0x0, [.C, .W]⟩ ]⟩,
  ⟨"CF_PORT_FENCE", 0xF00018, 1, 0x0, 1, 0x0, 8, .f1,
    [ ⟨"LOGICAL", 0, 18, .rov, 0x3FFFF, [.C, .W]⟩,
      ⟨"ELECTRICAL", 32, 18, .rov, 0x0, [.C, .W]⟩ ]⟩,
  ⟨"CF_CONTROL", 0xF00020, 1, 0x0, 1, 0x0, 8, .f0,
    [ ⟨"HB_PERIOD", 0, 16, .rw, 0x10, [.C, .W]⟩,
      ⟨"HB_MISSES", 16, 8, .rw, 0x8, [.C, .W]⟩,
      ⟨"HB_TC", 24, 3, .rw, 0x6, [.C, .W]⟩,
      ⟨"TREE_TC", 27, 3, .rw, 0x5, [.C, .W]⟩ ]⟩,
  ⟨"CF_HANDOVER", 0xF00028, 1, 0x0, 1, 0x0, 8, .f0,
    [ ⟨"TIMEOUT", 0, 24, .rw, 0x400, [.C, .W]⟩ ]⟩]

def regsCf1 : List RegGroup := [
  ⟨"CF_SERIAL_FLOOR", 0xF00030, 1, 0x0, 1, 0x0, 8, .f1,
    [ ⟨"FLOOR", 0, 32, .rov, 0x0, []⟩ ]⟩,
  ⟨"CF_EVENT", 0xF00038, 1, 0x0, 1, 0x0, 4, .f1,
    [ ⟨"AUTH_FAIL", 0, 1, .w1c, 0x0, [.C, .W, .N, .H]⟩,
      ⟨"REPLAY", 1, 1, .w1c, 0x0, [.C, .W, .N, .H]⟩,
      ⟨"SUSPECT", 2, 1, .w1c, 0x0, [.C, .W, .N, .H]⟩,
      ⟨"HEALTH", 3, 1, .w1c, 0x0, [.C, .W, .N, .H]⟩,
      ⟨"TREE_ERROR", 4, 1, .w1c, 0x0, [.C, .W, .N, .H]⟩,
      ⟨"RING_CHANGE", 5, 1, .w1c, 0x0, [.C, .W, .N, .H]⟩,
      ⟨"NO_ROUTE", 6, 1, .w1c, 0x0, [.C, .W, .N, .H]⟩,
      ⟨"FENCE_DROP", 7, 1, .w1c, 0x0, [.C, .W, .N, .H]⟩,
      ⟨"HANDOVER_REVERT", 8, 1, .w1c, 0x0, [.C, .W, .N, .H]⟩ ]⟩,
  ⟨"CF_EVENT_COUNT k", 0xF00040, 9, 0x4, 1, 0x0, 4, .f1,
    [ ⟨"COUNT", 0, 32, .rov, 0x0, [.C, .W, .N, .H]⟩ ]⟩,
  ⟨"CF_SUSPECT", 0xF00070, 1, 0x0, 1, 0x0, 8, .f1,
    [ ⟨"SUSPECT", 0, 64, .rov, 0x0, [.C, .W, .N, .H]⟩ ]⟩,
  ⟨"CF_HEALTH_LAST", 0xF00078, 1, 0x0, 1, 0x0, 8, .f1,
    [ ⟨"INDEX", 0, 10, .rov, 0x0, [.C, .W]⟩,
      ⟨"SCORE", 32, 16, .rov, 0x0, [.C, .W]⟩ ]⟩,
  ⟨"CF_HEALTH_MARK k", 0xF00080, 5, 0x8, 1, 0x0, 8, .f0,
    [ ⟨"MARK", 0, 16, .rw, 0x8000, [.C, .W]⟩ ]⟩]

def regsCf2 : List RegGroup := [
  ⟨"CF_WATCH n", 0xF00100, 64, 0x4, 1, 0x0, 4, .f1,
    [ ⟨"NODE", 0, 12, .rov, 0x0, [.C, .W, .N, .H]⟩,
      ⟨"VALID", 12, 1, .rov, 0x0, [.C, .W, .N, .H]⟩ ]⟩,
  ⟨"CF_MANAGER m", 0xF00200, 8, 0x8, 1, 0x0, 8, .f1,
    [ ⟨"NODE", 0, 12, .rov, 0x0, []⟩,
      ⟨"VALID", 12, 1, .rov, 0x0, []⟩,
      ⟨"KEY_SET", 13, 1, .rov, 0x0, []⟩ ]⟩,
  ⟨"CF_SCORE i", 0xF10000, 578, 0x4, 1, 0x0, 4, .f1,
    [ ⟨"SCORE", 0, 16, .rov, 0x0, [.C, .W]⟩ ]⟩,
  ⟨"CF_ROUTE n", 0xF20000, 4096, 0x8, 1, 0x0, 8, .f1,
    [ ⟨"ENTRY", 0, 64, .rov, 0x0, [.C, .W, .N, .H]⟩ ]⟩]

def regsCf : List RegGroup := regsCf0 ++ regsCf1 ++ regsCf2

/-! ## The LX block -/

/-- LX_STATUS, Table 15.13. -/
def rLxStatus : Nat := 0x1000000
def fLxStatusOwnerEnrolled : Fld := ⟨0, 1⟩
def fLxStatusActiveSlot : Fld := ⟨1, 1⟩
def fLxStatusRecordSlot : Fld := ⟨2, 1⟩
def fLxStatusHandover : Fld := ⟨3, 1⟩
def fLxStatusHalted : Fld := ⟨4, 1⟩

/-- LX_EVENT, Table 15.14. -/
def rLxEvent : Nat := 0x1000010
def fLxEventRestart : Fld := ⟨0, 1⟩
def fLxEventImageFallback : Fld := ⟨1, 1⟩

/-- LX_EVENT_COUNT k, Table 15.14. -/
def rLxEventCount (i : Nat) : Nat := 0x1000020 + 0x4 * i
def fLxEventCountCount : Fld := ⟨0, 32⟩

/-- LX_MEASURE k word, Table 15.13. -/
def rLxMeasure (i : Nat) (j : Nat) : Nat := 0x1000100 + 0x20 * i + 0x8 * j

def regsLx0 : List RegGroup := [
  ⟨"LX_STATUS", 0x1000000, 1, 0x0, 1, 0x0, 8, .f0,
    [ ⟨"OWNER_ENROLLED", 0, 1, .rov, 0x0, []⟩,
      ⟨"ACTIVE_SLOT", 1, 1, .rov, 0x0, [.C, .W]⟩,
      ⟨"RECORD_SLOT", 2, 1, .rov, 0x0, [.C, .W]⟩,
      ⟨"HANDOVER", 3, 1, .rov, 0x0, [.C, .W]⟩,
      ⟨"HALTED", 4, 1, .rov, 0x0, [.C, .W]⟩ ]⟩,
  ⟨"LX_EVENT", 0x1000010, 1, 0x0, 1, 0x0, 4, .f0,
    [ ⟨"RESTART", 0, 1, .w1c, 0x0, [.C, .W]⟩,
      ⟨"IMAGE_FALLBACK", 1, 1, .w1c, 0x0, [.C, .W]⟩ ]⟩,
  ⟨"LX_EVENT_COUNT k", 0x1000020, 2, 0x4, 1, 0x0, 4, .f0,
    [ ⟨"COUNT", 0, 32, .rov, 0x0, [.C, .W]⟩ ]⟩,
  ⟨"LX_MEASURE k word", 0x1000100, 8, 0x20, 4, 0x8, 8, .f0,
    [ ⟨"DIGEST", 0, 64, .rov, 0x0, [.C, .W]⟩ ]⟩]

def regsLx : List RegGroup := regsLx0

/-! ## The TN block -/

/-- TN_STATUS, Table 15.15. -/
def rTnStatus : Nat := 0x1100000
def fTnStatusSparesUsed : Fld := ⟨0, 6⟩
def fTnStatusMaxWrites : Fld := ⟨32, 32⟩

/-- TN_EVENT, Table 15.15. -/
def rTnEvent : Nat := 0x1100008
def fTnEventSectorSpared : Fld := ⟨0, 1⟩
def fTnEventWorn : Fld := ⟨1, 1⟩
def fTnEventRecordLost : Fld := ⟨2, 1⟩

/-- TN_EVENT_COUNT k, Table 15.15. -/
def rTnEventCount (i : Nat) : Nat := 0x1100010 + 0x4 * i
def fTnEventCountCount : Fld := ⟨0, 32⟩

def regsTn0 : List RegGroup := [
  ⟨"TN_STATUS", 0x1100000, 1, 0x0, 1, 0x0, 8, .f0,
    [ ⟨"SPARES_USED", 0, 6, .rov, 0x0, []⟩,
      ⟨"MAX_WRITES", 32, 32, .rov, 0x0, []⟩ ]⟩,
  ⟨"TN_EVENT", 0x1100008, 1, 0x0, 1, 0x0, 4, .f0,
    [ ⟨"SECTOR_SPARED", 0, 1, .w1c, 0x0, [.C, .W]⟩,
      ⟨"WORN", 1, 1, .w1c, 0x0, [.C, .W]⟩,
      ⟨"RECORD_LOST", 2, 1, .w1c, 0x0, [.C, .W]⟩ ]⟩,
  ⟨"TN_EVENT_COUNT k", 0x1100010, 3, 0x4, 1, 0x0, 4, .f0,
    [ ⟨"COUNT", 0, 32, .rov, 0x0, [.C, .W]⟩ ]⟩]

def regsTn : List RegGroup := regsTn0

/-! ## The PW block -/

/-- PW_STATE, Table 16.10. -/
def rPwState : Nat := 0x1200000
def fPwStateRequest : Fld := ⟨0, 2⟩
def fPwStateState : Fld := ⟨2, 3⟩
def fPwStateStatus : Fld := ⟨8, 8⟩

/-- PW_CAP, Table 16.10. -/
def rPwCap : Nat := 0x1200008
def fPwCapWatts : Fld := ⟨0, 11⟩
def fPwCapMinStep : Fld := ⟨12, 3⟩

/-- PW_POWER, Table 16.11. -/
def rPwPower : Nat := 0x1200010
def fPwPowerLastW : Fld := ⟨0, 11⟩
def fPwPowerStep : Fld := ⟨16, 3⟩
def fPwPowerCapStep : Fld := ⟨19, 3⟩
def fPwPowerThermStep : Fld := ⟨22, 3⟩

/-- PW_EVENT, Table 16.11. -/
def rPwEvent : Nat := 0x1200018
def fPwEventCapUnmet : Fld := ⟨0, 1⟩
def fPwEventThermal : Fld := ⟨1, 1⟩
def fPwEventRetainExit : Fld := ⟨2, 1⟩

/-- PW_EVENT_COUNT k, Table 16.11. -/
def rPwEventCount (i : Nat) : Nat := 0x1200020 + 0x4 * i
def fPwEventCountCount : Fld := ⟨0, 32⟩

/-- PW_START, Table 16.12. -/
def rPwStart : Nat := 0x1200030
def fPwStartCxReady : Fld := ⟨0, 1⟩
def fPwStartFabricDone : Fld := ⟨1, 1⟩

/-- PW_TEMP s, Table 16.13. -/
def rPwTemp (i : Nat) : Nat := 0x1200100 + 0x8 * i
def fPwTempCelsius : Fld := ⟨0, 8⟩
def fPwTempMax : Fld := ⟨8, 8⟩

/-- PW_STEP_PERIODS s, Table 16.13. -/
def rPwStepPeriods (i : Nat) : Nat := 0x1200200 + 0x8 * i

def regsPw0 : List RegGroup := [
  ⟨"PW_STATE", 0x1200000, 1, 0x0, 1, 0x0, 8, .f0,
    [ ⟨"REQUEST", 0, 2, .wo, 0x0, []⟩,
      ⟨"STATE", 2, 3, .rov, 0x0, [.C, .W]⟩,
      ⟨"STATUS", 8, 8, .rov, 0x0, [.C, .W]⟩ ]⟩,
  ⟨"PW_CAP", 0x1200008, 1, 0x0, 1, 0x0, 8, .f0,
    [ ⟨"WATTS", 0, 11, .rw, 0x672, [.C, .W]⟩,
      ⟨"MIN_STEP", 12, 3, .rw, 0x0, [.C, .W]⟩ ]⟩,
  ⟨"PW_POWER", 0x1200010, 1, 0x0, 1, 0x0, 8, .f0,
    [ ⟨"LAST_W", 0, 11, .rov, 0x0, [.C, .W]⟩,
      ⟨"STEP", 16, 3, .rov, 0x0, [.C, .W]⟩,
      ⟨"CAP_STEP", 19, 3, .rov, 0x0, [.C, .W]⟩,
      ⟨"THERM_STEP", 22, 3, .rov, 0x0, [.C, .W]⟩ ]⟩,
  ⟨"PW_EVENT", 0x1200018, 1, 0x0, 1, 0x0, 4, .f0,
    [ ⟨"CAP_UNMET", 0, 1, .w1c, 0x0, [.C, .W]⟩,
      ⟨"THERMAL", 1, 1, .w1c, 0x0, [.C, .W]⟩,
      ⟨"RETAIN_EXIT", 2, 1, .w1c, 0x0, [.C, .W]⟩ ]⟩,
  ⟨"PW_EVENT_COUNT k", 0x1200020, 3, 0x4, 1, 0x0, 4, .f0,
    [ ⟨"COUNT", 0, 32, .rov, 0x0, [.C, .W]⟩ ]⟩,
  ⟨"PW_START", 0x1200030, 1, 0x0, 1, 0x0, 8, .f1,
    [ ⟨"CX_READY", 0, 1, .rov, 0x0, [.C, .W, .N, .H]⟩,
      ⟨"FABRIC_DONE", 1, 1, .rov, 0x0, [.C, .W]⟩ ]⟩]

def regsPw1 : List RegGroup := [
  ⟨"PW_TEMP s", 0x1200100, 16, 0x8, 1, 0x0, 8, .f0,
    [ ⟨"CELSIUS", 0, 8, .rov, 0x0, [.C, .W]⟩,
      ⟨"MAX", 8, 8, .rov, 0x0, [.C, .W]⟩ ]⟩,
  ⟨"PW_STEP_PERIODS s", 0x1200200, 8, 0x8, 1, 0x0, 8, .f1,
    [ ⟨"PERIODS", 0, 64, .rov, 0x0, [.C, .W, .N, .H]⟩ ]⟩]

def regsPw : List RegGroup := regsPw0 ++ regsPw1

/-- The registers of the 1 MiB block `k` of Table 17.1. -/
def regsOfBlock (k : Nat) : List RegGroup :=
  match k with
  | 0 => regsId
  | 1 => regsGs
  | 2 => regsQe
  | 3 => regsCx
  | 4 => regsPm
  | 5 => regsAe
  | 6 => regsBb
  | 7 => regsAc
  | 8 => regsTm
  | 9 => regsTp
  | 10 => regsPf
  | 11 => regsFl
  | 12 => regsFt
  | 13 => regsEs
  | 14 => regsIm
  | 15 => regsCf
  | 16 => regsLx
  | 17 => regsTn
  | 18 => regsPw
  | _ => []

/-- Every register of the map. -/
def allRegs : List RegGroup := regsId ++ regsGs ++ regsQe ++ regsCx ++ regsPm ++ regsAe ++ regsBb ++ regsAc ++ regsTm ++ regsTp ++ regsPf ++ regsFl ++ regsFt ++ regsEs ++ regsIm ++ regsCf ++ regsLx ++ regsTn ++ regsPw

end Sys2Proof.Machine
end

