-- ==== Sys2Proof/Machine/Types.lean ====
section
/-!
DEFINITION. Machine/Types.lean: the typed state of each block behind its registers, named as the spec names it.
-/

namespace Sys2Proof.Machine

/-- The descriptor a completion answers (R408, R409). -/
structure CmdRef where
  fn   : Nat
  ring : Nat
  tag  : Nat
  op   : Nat
  /-- The function-level resets of Function 1 begun before it was fetched (R428). -/
  gen  : Nat
deriving DecidableEq, Repr

/-- A completion waiting to be written (R409, Table 14.3); `notice` marks an entry of R423. -/
structure Completion where
  ref    : CmdRef
  status : Nat
  count  : Nat
  r0     : Nat
  r1     : Nat
  r2     : Nat
  notice : Bool
deriving DecidableEq, Repr

/-- What leaves the block at its lands and links (log entry 4). -/
inductive Out where
  /-- A read of a BAR returns these bytes. -/
  | readData (bytes : Bytes)
  /-- A read completes with Unsupported Request (R230, R478). -/
  | unsupported
  /-- A configuration request is answered with Configuration Request Retry Status (R435, R478). -/
  | configRetry
  /-- A memory write to the host. -/
  | hostWrite (addr : Nat) (bytes : Bytes)
  /-- An MSI-X message: its vector, and the address and data of the vector's table entry (R425, Table 14.1). -/
  | msix (fn vec addr data : Nat)
  /-- A frame starts on a port (R294, R354). -/
  | frame (port : Nat) (bytes : Bytes)
  /-- The port sends idle (R354). -/
  | idle (port : Nat)
  /-- A DOE response object (R439). -/
  | doe (body : Bytes)
  /-- The drive is given a Write of 128 logical blocks from an LBA on (R228, R235). -/
  | driveWrite (drive lba : Nat) (bytes : Bytes)
  /-- The drive is given a Flush (R228, R244). -/
  | driveFlush (drive : Nat)
  /-- The drive is given a Read of logical blocks from an LBA on (R228, R256). -/
  | driveRead (drive lba blocks : Nat)
  /-- The drive is given a deallocation of an extent's 128 blocks (R235). -/
  | driveDealloc (drive extent : Nat)
  /-- The drive is given a deallocation of every extent (R262, R263). -/
  | driveDeallocAll (drive : Nat)
  /-- The output pin `RING_ATTACH` changes (R310). -/
  | ringAttach (high : Bool)
  /-- The output pin `THERMTRIP_N` changes (R468). -/
  | thermtrip (low : Bool)
  /-- A BBD returns a completion record and its result block to the attention dispatch or the Lexicon (R176). -/
  | bauDone (bbd : Nat) (record result : Bytes)
  /-- A tensor engine returns the `TAG` and the status of a command (Table 07.3). -/
  | teDone (ac te tag status : Nat)
deriving DecidableEq, Repr

/-! ## Power, clocks and reset -/

/-- Whether the module is powered and why not (R459, R461, R468, R471, R472). -/
inductive Supply where
  | on
  /-- Held Off: waits for `VIN_56` above 48 V for 10 ms or for the lock. -/
  | off
  /-- Held Off above 61 V (R459). -/
  | overvoltage
  /-- Held Off after a thermal trip, `THERMTRIP_N` low (R468). -/
  | tripped
deriving DecidableEq, Repr

/-- The phase of Retain (Tables 16.5 and 16.10). -/
inductive RetainPhase where
  | out
  /-- Entering: the step of Table 16.5 in hand. -/
  | entering (step : Nat)
  | inside
  | leaving
deriving DecidableEq, Repr

/-- The tenant handover in progress (R444, R445). -/
structure HandoverCmd where
  refs   : List CmdRef
  tenant : Nat
  nonce  : Bytes
deriving DecidableEq, Repr

structure Power where
  supply     : Supply
  /-- The start-up or reset that runs (R477, R479). -/
  running    : Option RClass
  /-- Requests of lower rank that wait (R479). -/
  waiting    : List RClass
  /-- `PERST_N` is high (R478). -/
  perst      : Bool
  /-- A start-up has reached trust step 7, or its failed step, and waits for `PERST_N` (R478, R489). -/
  heldReport : Option StartReport
  /-- Both functions answer memory requests (R435). -/
  opened     : Bool
  /-- The functions opened in the restricted form of R489. -/
  restricted : Bool
  /-- Function 1 is closed by class F or H (R428, R444). -/
  f1Closed   : Bool
  retain     : RetainPhase
  /-- A request for Run made while entering Retain is held (R473). -/
  runHeld    : Bool
  /-- A request for Retain waits for a tenant handover (R473). -/
  retainWaits : Bool
  handover   : Option HandoverCmd
  /-- Doorbell writes the wake logic has stored in Retain: function, BAR2 offset, value (R474). -/
  doorbells  : List (Nat × Nat × Nat)
  /-- The last 1 ms period whose throttle step has been formed, and the periods below each release threshold (R464). -/
  boundary   : Nat
  capLow     : Nat
  thermLow   : Nat
  /-- The marks and the hysteresis of Table 16.9. -/
  throttleDie : Nat
  tripDie     : Nat
  throttleBbd : Nat
  tripBbd     : Nat
  hyst        : Nat
deriving DecidableEq, Repr

/-! ## Host queues -/

/-- Entries written since the last MSI-X message of a ring (R425). -/
structure Coalesce where
  count : Nat
  first : Nat
deriving DecidableEq, Repr

/-- The event vector of a function (R426). -/
structure EventMsg where
  last    : Option Nat
  waiting : Bool
deriving DecidableEq, Repr

structure Qe where
  /-- Function-level resets of Function 1 begun so far: a completion of an earlier fetch is discarded (R428). -/
  resets1  : Nat
  /-- Descriptors fetched and not yet started, oldest first, with `resets1` at their fetch (R411, R415). -/
  fetched  : List (Nat × Cmd)
  /-- Commands started and not yet completed (R412, R415). -/
  started  : List CmdRef
  /-- Finished commands whose entries are not yet written (R409). -/
  finished : List Completion
  /-- Per ring (function × 64 + ring): entries not yet covered by a message (R425). -/
  coalesce : NMap Coalesce
  event0   : EventMsg
  event1   : EventMsg
  /-- MSI-X vectors that are not masked, and pending bits, as function × 256 + vector (R425). -/
  unmasked : List Nat
  pba      : List Nat
  /-- The dwords 0 to 2 (address and data) of the MSI-X table entries that are not 0, as
  4 × (function × 256 + vector) + dword (Table 14.1). -/
  msix     : NMap Nat
deriving DecidableEq, Repr

/-! ## Contexts and page maps -/

/-- A park, reopen or close in progress and the commands that joined it (R30, R33 to R35). -/
inductive CtxOpKind where
  | park | reopen | close
deriving DecidableEq, Repr

structure CtxOp where
  kind  : CtxOpKind
  refs  : List CmdRef
  moved : Nat
  stop  : Option Nat
deriving DecidableEq, Repr

/-- What the node keeps of a context that is not `FREE` beside its descriptor (R37, R43, R241). -/
structure CtxAux where
  state    : Nat
  cls      : Nat
  plan     : Nat
  shardSet : Nat
  op       : Option CtxOp
  /-- Its descriptor failed its check: every later request on the context fails until it is closed (R28). -/
  bad      : Bool
  /-- Tail pages that lie in GDDR7 under the exception of R33, as layer, KV head and local ordinal. -/
  kept     : List (Nat × Nat × Nat)
deriving DecidableEq, Repr

structure Cx where
  /-- The contexts in a state other than `FREE`. -/
  open_   : NMap CtxAux
  /-- The context table is being zeroed (R480). -/
  zeroing : Bool
  /-- `CX_TABLE_BASE` has been written since the last reset (R480). -/
  written : Bool
  /-- The entries of the shard-set table written since a reset emptied it (R37, R42). -/
  sets    : List Nat
deriving DecidableEq, Repr

/-- What a page slot is used for (R225, R244, R279, R284). -/
inductive SlotUse where
  /-- Allocated and being written; not yet a home. -/
  | writing
  | home
  /-- Displaced, held for walkers (R74). -/
  | deferred
  /-- No map reaches it (R28, R67). -/
  | leaked
deriving DecidableEq, Repr

structure Slot where
  ctx : Nat
  cls : Nat
  use : SlotUse
  /-- A move of its page failed a check: the tier mover does not choose the page again (R245). -/
  failed : Bool
deriving DecidableEq, Repr

/-- What a deferred free frees (R74): a slot, or a leaf run of 2^log2 blocks. -/
inductive FreeWhat where
  | slot (handle : Nat)
  | run (block log2 : Nat)
deriving DecidableEq, Repr

structure Deferred where
  ctx  : Nat
  gen  : Nat
  what : FreeWhat
deriving DecidableEq, Repr

/-- Who holds a walker slot (R72). -/
inductive WalkOwner where
  | request (id : Nat)
  | op (id : Nat)
  | move (id : Nat)
  /-- The page command of a handle (R72, R81). -/
  | command (handle : Nat)
  /-- A drop of the tier mover: context, layer, local ordinal, KV head. -/
  | drop (ctx layer n head : Nat)
deriving DecidableEq, Repr

structure Walker where
  ctx   : Nat
  start : Nat
  owner : WalkOwner
deriving DecidableEq, Repr

/-- A grant of a bank-owned page (R78, R79, R181, R182). -/
structure Grant where
  /-- The page's slots, part by part, and the first of them, which names the grant. -/
  parts     : List Nat
  handle    : Nat
  ctx       : Nat
  layer     : Nat
  hpart     : Nat
  n         : Nat
  /-- The BBD holds the grant (step 3 of R78). -/
  granted   : Bool
  /-- The BBD has been asked to release it (step 1 of R79). -/
  releasing : Bool
  /-- The BBD has acknowledged the release, and the grant has left its table (step 3 of R79, R181). -/
  acked     : Bool
  /-- When the page was last written by a BAU. -/
  lastWrite : Nat
deriving DecidableEq, Repr

/-- Whose edit waits under R75: a move, an `APPEND` or `REFILL`, the flip of a page back to die-owned, a drop of the tier
mover, or a page that a handover or rebuild installs. -/
inductive EditOwner where
  | move (id : Nat)
  | op (id : Nat)
  | flip (handle : Nat)
  | drop (ctx layer n head : Nat)
  | install (ctx : Nat)
  /-- The flip of a page for a page-destination `REQUANT` (R182). -/
  | requant (ctx layer n head : Nat)
deriving DecidableEq, Repr

/-- A line of the Map cache (R200): the address of a context descriptor or of a page-map block in GDDR7, the way that holds
it, and a descriptor's copy; of a block none is kept, since each entry is checked as it is read (R67). -/
structure MapLine where
  addr : Nat
  way  : Nat
  data : Bytes
deriving DecidableEq, Repr

structure Pm where
  /-- Allocated runs of the page-map pool: block index to log2 of its blocks (R69). -/
  runs     : NMap Nat
  /-- Allocated page slots by handle (R62). -/
  slots    : NMap Slot
  deferred : List Deferred
  walkers  : NMap Walker
  /-- Work that waits for a walker slot, oldest first, and since when (R72). -/
  walkWait : List (WalkOwner × Nat)
  /-- Work whose edit waits under R75, oldest first, and since when. -/
  editWait : List (EditOwner × Nat)
  grants   : List Grant
  /-- Entries that failed their check, by address: their context and the logged cause (R67). -/
  bad      : NMap (Nat × Nat)
  /-- What the Map cache holds, oldest first (R200). -/
  cache    : List MapLine
deriving DecidableEq, Repr

/-! ## Attention -/

/-- A child copy of a led request (R135, R143, R144). -/
structure Child where
  shard   : Nat
  node    : Nat
  /-- Where its copy was started. -/
  start   : Nat
  resent  : Bool
  /-- The connection of its route, resolved when its copy was sent (R381). -/
  conn    : Option Nat
  /-- The settled input: a `CLAUSE` body. -/
  settled : Option Bytes
deriving DecidableEq, Repr

/-- The draft rows of an accepted draft-tree attend at shard 0 (R126). -/
inductive DraftState where
  | none
  | waiting
  | rows (m : Bytes)
  | failed (status : Nat)
deriving DecidableEq, Repr

/-- A page that the fold of a KV head is to reach (R108): its BBD where a BAU computes it, and what ellipsis decides there. -/
structure Visit where
  n    : Nat
  bbd  : Option Nat
  hs   : List Nat
  skip : Bool
deriving DecidableEq, Repr

/-- How far the dispatch of a KV head has come (R180): `GLOSS_BOUND` commands that have not returned, the visits still to make in
their order, and the pages whose `ATTEND_PAGE` is out or has returned. -/
structure HeadPlan where
  bounds : Nat
  visits : List Visit
  out    : List Nat
  back   : List Nat
deriving DecidableEq, Repr

/-- An accepted attend copy (R127, R131). -/
structure Req where
  msg      : Bytes
  ctx      : Nat
  job      : Nat
  epoch    : Nat
  accepted : Nat
  /-- When the message was received (Table 01.4). -/
  received : Nat
  /-- When the last clause of a child was received (Table 01.4). -/
  lastChild : Option Nat
  verify   : Bool
  walker   : Option Nat
  /-- The ways that the row tiles of verify-class work hold, one a tile as far as they have come (R218, R219). -/
  ways     : List Nat
  draft    : DraftState
  children : List Child
  height   : Nat
  /-- The route of the reply, resolved at acceptance (R381): the connection. -/
  reply    : Option Nat
  /-- The dispatch of decode-class work to the BBDs, by KV head (R180). -/
  plans    : NMap HeadPlan := []
  /-- KV head and ordinal of the pages that the fold skipped once a BAU had begun them (R114). -/
  ran      : List (Nat × Nat) := []
deriving DecidableEq, Repr

/-- An `APPEND` accepted and waiting for a bank grant or release, a prefetch or another operation (R147, R149, R150). -/
structure PageOp where
  msg      : Bytes
  ctx      : Nat
  job      : Nat
  layer    : Nat
  n        : Nat
  refill   : Bool
  reply    : Option Nat
  accepted : Nat
  /-- When the message was received (Table 05.9). -/
  received : Nat
  /-- It holds the move locks of its pages and waits for a grant, a release or an edit (R147, R150). -/
  begun    : Bool
  /-- Why it must fail: the prefetch or the release it waited for did not succeed. -/
  stop     : Option Nat
  walker   : Option Nat
  /-- The slots reserved for new pages, not yet homes, in head and part order (R147, R236). -/
  dst      : List Nat
  /-- The slots reserved for the prefetches that it needs and that are not yet queued, by KV head (R147, R149). -/
  lift     : NMap (List Nat)
  /-- The class's quotas at its acceptance, by tier: no later cut stops it (R127). -/
  quotas   : List Nat
deriving DecidableEq, Repr

/-- A held `DRAFT_ROWS` message and its arrival (R126). -/
structure HeldDraft where
  msg  : Bytes
  time : Nat
deriving DecidableEq, Repr

structure Ae where
  reqs    : NMap Req
  ops     : NMap PageOp
  drafts  : List HeldDraft
  /-- Messages delivered and not taken, and when they were received: the slots are held, the table is being zeroed, or a
  handover holds them. -/
  inbox   : List (Bytes × Nat)
  /-- Messages that wait for a request slot, and since when (R131). -/
  slotWait : List (Bytes × Nat)
  /-- Fan-outs whose child copies are leaving: how many are still to leave, and when the led request was received (R21). -/
  fans    : NMap (Nat × Nat)
deriving DecidableEq, Repr

/-! ## Bank buffer dies -/

/-- What the dispatch of a decode-class attend asks of a BBD (R180): bounds of pages of one KV head, or the clause of one page.
`req` is the request; none once that wants it no more. -/
structure BauWork where
  req   : Option Nat
  head  : Nat
  bound : Bool
  /-- Page ordinals and slots. -/
  pages : List (Nat × List Nat)
deriving DecidableEq, Repr

/-- A command in a BBD's queue or on its BAUs (R169, R178). -/
structure BauEntry where
  id     : Nat
  cmd    : BauCmd
  ticket : Nat
  /-- The BAUs it runs on, empty while it is queued. -/
  baus   : List Nat
  /-- The argument block as the store held it when the command entered the queue. -/
  arg    : Bytes
  /-- ACLK cycles for which it has waited for permits (R178). -/
  waited : Nat
  /-- The slot lock that it holds (R183). -/
  lock   : Option Nat
  /-- Rows of an `APPEND_ROWS` that are written (R183). -/
  rows   : Nat
  /-- A command of the dispatch: its operands are the pages it names (R180). -/
  work   : Option BauWork := none
deriving DecidableEq, Repr

/-- A node-die read that waits for the lock of a slot (R184): of a request, an `APPEND` or `REFILL`, a move, the proofreader, a
test operation, the host's window, a Syntax core's copy, a handover, a command by handle, or a packet formed from a local buffer. -/
inductive LockReader where
  | request (id : Nat)
  | op (id : Nat)
  | move (id : Nat)
  | pass
  | test
  | host (npa len : Nat)
  | copy (job idx ticket : Nat)
  | handover (ctx : Nat)
  | command (handle : Nat)
  | packet (conn : Nat)
  | thread (job idx : Nat)
deriving DecidableEq, Repr

/-- What waits on the link of a BBD, in arrival order: a store write held back under R168, or a command word, with its
ticket, that found the queue full or an earlier item of its issuer waiting (R169). -/
inductive BbdItem where
  | store (issuer : Issuer) (off : Nat) (data : Bytes)
  | command (cmd : BauCmd) (ticket : Nat)
  | work (w : BauWork)
deriving DecidableEq, Repr

structure Bbd where
  queue   : List BauEntry
  nextId  : Nat
  store   : NMap Byte
  held    : List BbdItem
  /-- The die-to-die link retrains (R161), and when it began. -/
  retrain : Option Nat
  /-- Spare BAUs not yet brought in. -/
  spares  : Nat
  /-- Slot locks held by BAUs, with the node-die reads that wait on each, and since when (R183, R184). -/
  locks   : NMap (List (LockReader × Nat))
deriving DecidableEq, Repr

/-- The refreshes of a channel (R185). -/
structure Refresh where
  postponed : Nat
  paused    : Bool
deriving DecidableEq, Repr

structure Bb where
  bbd     : NMap Bbd
  refresh : NMap Refresh
  /-- Host reads of the window that wait for a slot lock: NPA and length (R184). -/
  hostReads : List (Nat × Nat)
deriving DecidableEq, Repr

/-! ## Attention cores -/

/-- Who holds a way of a Reach store (R199, R218). -/
inductive WayUse where
  | thread (job idx : Nat)
  | attention (req : Nat)
deriving DecidableEq, Repr

structure TeEntry where
  cmd    : TeCmd
  issuer : Option (Nat × Nat)
  ticket : Nat
deriving DecidableEq, Repr

/-- What a ticket stands for (R204). -/
inductive TicketKind where
  | te | copy | bau
deriving DecidableEq, Repr

structure Ticket where
  id     : Nat
  kind   : TicketKind
  status : Option Nat
  /-- For a copy: source, destination, length (R204). -/
  src    : Nat
  dst    : Nat
  len    : Nat
deriving DecidableEq, Repr

/-- The condition of a thread (R206, R213). -/
inductive Cond where
  | running
  | internalWait
  | blocked
  | runnable
  /-- Stopped at a step boundary and saved (R213). -/
  | saved
  | ended
deriving DecidableEq, Repr

/-- Where a thread's state lies (R206 to R208). -/
inductive Place where
  | resident (ac way since : Nat)
  | saving (ac way : Nat)
  /-- Loading, from the save area or from its swap slot. -/
  | loading (ac way : Nat) (area : Bool)
  | swapped
  /-- Not yet run. -/
  | fresh
  /-- In the job's save area. -/
  | area
deriving DecidableEq, Repr

/-- What a thread waits for (R204). -/
inductive Await where
  | ticket (id : Nat)
  | slot (k : Nat)
  | time (t : Nat)
  | step
deriving DecidableEq, Repr

/-- The vector and floating control state of RV64GCV that a register record saves (R205, R206). -/
structure Fcsr where
  fcsr   : Nat
  vl     : Nat
  vtype  : Nat
  vstart : Nat
  vcsr   : Nat
deriving DecidableEq, Repr

structure Thread where
  cond    : Cond
  place   : Place
  pc      : Nat
  x       : NMap Word
  f       : NMap Word
  v       : NMap (BitVec 512)
  ctl     : Fcsr
  tickets : List Ticket
  await   : Option (Nat × Await)
  /-- The status of an event that arrived during a save, or while swapped out (R207). -/
  event   : Option Nat
  /-- When the thread took its present condition (R208). -/
  since   : Nat
  result  : Nat
  /-- Its swap slot (R209). -/
  slot    : Nat
deriving DecidableEq, Repr

/-- A pre-emption asked of a job (R213). -/
structure Preempt where
  resume : Bool
  time   : Nat
  refs   : List CmdRef
deriving DecidableEq, Repr

structure Job where
  desc     : Bytes
  ref      : CmdRef
  order    : Nat
  threads  : NMap Thread
  nextTick : Nat
  preempt  : Option Preempt
deriving DecidableEq, Repr

/-- The record of a job that ended (R421). -/
structure JobRec where
  npa    : Nat
  status : Nat
  result : Nat
  count  : Nat
  r1     : Nat
  r2     : Nat
deriving DecidableEq, Repr

/-- What a save area holds, as the node wrote it: the descriptor, the header and the threads (R211, R213; log entry 21). -/
structure SaveArea where
  desc    : Bytes
  header  : Bytes
  threads : NMap Thread
  nextTick : Nat
deriving DecidableEq, Repr

structure Ac where
  ways    : NMap WayUse
  reach   : NMap (NMap Byte)
  te      : NMap (List TeEntry)
  jobs    : NMap Job
  records : List JobRec
  /-- The save areas written, by their `SAVE` NPA. -/
  saved   : NMap SaveArea
  order   : Nat
  /-- `RM_UNLOAD` commands past the unload point (R217). -/
  unload  : Option (List CmdRef)
  /-- Physical ACs that serve as spares. -/
  spares  : List Nat
deriving DecidableEq, Repr

/-! ## Tiers -/

/-- Why a move was queued, by the priorities of R248. -/
inductive MoveWhy where
  | appendPrefetch | quotaCut | mark | parkReopen | layerAhead | compact | retire
deriving DecidableEq, Repr

inductive MoveStage where
  /-- Waiting in the queue. -/
  | queued
  /-- Bank-owned pages are being released (step 2 of R244). -/
  | releasing
  /-- The drive reads the source slots (R256). -/
  | reading
  /-- The page is locked and the copy waits for its target: a link that is down, or an extent buffer (steps 3 and 4). -/
  | placed
  /-- Slots are allocated and the copy runs (steps 3 and 4). -/
  | copying
  /-- The slots lie in an extent buffer, awaiting the drive (step 4). -/
  | buffered
  /-- The drive has completed; the edit is due (step 5). -/
  | ready
deriving DecidableEq, Repr

structure Move where
  ctx    : Nat
  layer  : Nat
  n      : Nat
  head   : Nat
  tier   : Nat
  why    : MoveWhy
  order  : Nat
  stage  : MoveStage
  /-- New handles, one per part, once allocated. -/
  dst    : List Nat
  walker : Option Nat
  /-- The commands `RETIRE_SLOT` that wait for it. -/
  refs   : List CmdRef
  /-- The spill that this spill makes room for (R250). -/
  for_   : Option Nat
deriving DecidableEq, Repr

/-- A 512 KiB extent buffer (R235, R236). -/
structure ExtBuf where
  drive  : Nat
  extent : Nat
  filled : NMap Bytes
  moves  : List Nat
  first  : Nat
  sent   : Bool
deriving DecidableEq, Repr

/-- A command in the I/O queues of a drive (R228): the Read of a slot, or the Write and Flush of an extent buffer. -/
inductive NvmeCmd where
  | read (handle : Nat)
  | write (buf : Nat)
  | flush (buf : Nat)
deriving DecidableEq, Repr

structure Tm where
  moves    : NMap Move
  order    : Nat
  buffers  : NMap ExtBuf
  /-- Written extents (drive × 2^29 + extent) and their live positions. -/
  extents  : NMap (List Nat)
  /-- CXL slots by handle, as the expander holds them: encrypted (R237). -/
  cxl      : NMap Bytes
  /-- Flash slots by handle, as the drive holds them: encrypted (R238). -/
  flash    : NMap Bytes
  /-- Retirements of the lower tiers (R285): a CXL handle, or an extent's handle at position 0. -/
  retired  : List Nat
  /-- Links that are down, as port × 4 + link: since when, and whether the 10 ms of R231 have passed. -/
  down     : NMap (Nat × Bool)
  /-- The generation of the tier keys (R239). -/
  keyGen   : Nat
  /-- Flash slots a drive has read for an attend or a move: 0 read, else failed reads so far (R256, R269). -/
  staged   : NMap Nat
  /-- Written extents under compaction (R254). -/
  compacting : List Nat
  /-- CXL lines that an expander returned as poison and that have not been written since, as handle and line (R227). -/
  poison   : List (Nat × Nat)
  /-- The I/O queue pairs of each attached drive, as 16 × drive + pair: the commands given and not yet completed, 1,024 at most
  (R228, R262). -/
  nvme     : NMap (List NvmeCmd)
  /-- Commands that find every queue pair of their drive full, oldest first. -/
  nvmeWait : NMap (List NvmeCmd)
  /-- The tier links rest in their lowest power state (R264). -/
  linkLow  : Bool
deriving DecidableEq, Repr

/-! ## Line checks -/

structure Pass where
  kind   : Nat
  unit   : Nat
  /-- Where the rest of the range begins, in the units of the kind. -/
  cursor : Nat
  stop   : Nat
  /-- The slot being read and its next line (R279). -/
  slot   : Option (Nat × Nat)
  failed : Bool
  /-- Units read in the present 1,024 cycles (R278). -/
  grid   : Nat
  used   : Nat
deriving DecidableEq, Repr

/-- A `RETIRE_SLOT` whose moves or drops are not all done, and the kinds of failure so far (R284). -/
structure Retire where
  ref   : CmdRef
  left  : Nat
  quota : Bool
  check : Bool
  /-- Pages still to be dropped: context, layer, local ordinal, KV head. -/
  drops  : List (Nat × Nat × Nat × Nat)
  /-- The walker slot of the command, which reads by handle (R72, R81). -/
  walker : Option Nat
deriving DecidableEq, Repr

/-- A split write or test read: its operation, slot, line, mode, check and payload (R275, R276). -/
structure TestOp where
  write  : Bool
  handle : Nat
  line   : Nat
  mode   : Nat
  check  : Nat
  data   : Bytes
deriving DecidableEq, Repr

structure Pf where
  pass   : Option Pass
  /-- `HANDLE`, `LINE`, `CAUSE` of the last 16 entries logged (R274). -/
  recent : List (Nat × Nat × Nat)
  retires : List Retire
  /-- A test operation that waits for its slot's lock (R184, R275). -/
  test   : Option TestOp
deriving DecidableEq, Repr

/-! ## Links -/

/-- A stage of Table 05.9 that ends when the first byte of a message leaves a port: its register, its bound in nanoseconds and
its start; or one of the child copies whose leaving together ends the fan-out `fan` (R21, R154). -/
inductive Stage where
  | bound (reg ns start : Nat)
  | copy (fan : Nat)
deriving DecidableEq, Repr

/-- A packet frame held in a class region or queue: the class and the link header's ring fields, and the packet. -/
structure Frame where
  tc   : Nat
  dest : Nat
  hops : Nat
  pkt  : Bytes
  /-- The ring port it came in by, when it is being forwarded (R308). -/
  from_ : Option Nat
  /-- The stages that end when it starts (R21). -/
  stages : List Stage := []
deriving DecidableEq, Repr

/-- A lane swap in progress (R301, R302). -/
structure Swap where
  lane     : Nat
  block    : Nat
  ours     : Bool
  acked    : Bool
  start    : Nat
  /-- The receiver moves its own transmit lane as well (Table 10.3). -/
  both     : Bool
deriving DecidableEq, Repr

/-- A pause the partner has asked for (R305). -/
structure Paused where
  until_ : Nat
  since  : Nat
deriving DecidableEq, Repr

structure Port where
  /-- The class regions: frames received and not yet taken. -/
  rx       : NMap (List Frame)
  lcf      : List Bytes
  paused   : NMap Paused
  /-- Classes held by the pause watchdog (R306). -/
  stalled  : List Nat
  /-- Classes this node has paused, and when it last said so (R303). -/
  sent     : NMap Nat
  /-- Classes whose pause or release no `PAUSE` has carried, the port being down (R303). -/
  changed  : List Nat
  swap     : Option Swap
  seq      : Nat
  /-- When the port left the up state, began to listen or came up. -/
  since    : Nat
  /-- When the last training attempt failed (R297). -/
  attempt  : Nat
  /-- The partner that the last `HELLO` named (R314). -/
  heard    : Option Nat
  /-- The port has finished its first training attempt since class C or W (Table 16.12). -/
  tried    : Bool
  /-- Physical lanes trained at the last training since class C or W, lanes failed since. -/
  trained  : List Nat
  failedLanes : List Nat
  /-- The physical lane on which each logical lane was found by its markers (R292). -/
  place    : NMap Nat
  /-- The block number of the markers at a time (R292). -/
  block    : Nat
  aligned  : Nat
deriving DecidableEq, Repr

/-! ## Egress and ingress -/

/-- A shaper or bucket credit in 1/65,536 bytes, and when it was brought up to date (R356). -/
structure Credit where
  value : Int
  time  : Nat
deriving DecidableEq, Repr

/-- An install that awaits its boundary (R360). -/
structure Install where
  entries : List (Nat × Nat)
  base    : Nat
  at_     : Nat
deriving DecidableEq, Repr

structure Es where
  queues  : NMap (List Frame)
  credit  : NMap Credit
  pending : NMap Install
  /-- The base of the operating list (R358, R360). -/
  base    : NMap Nat
deriving DecidableEq, Repr

structure Im where
  /-- The buckets of a source and class that stand apart (key `8 * source + class`), and the TC7 bucket (R366, R368). -/
  credit : NMap Credit
  /-- The credit of every other bucket of a profile and class (key `8 * profile + class`); with no record it stands at its
  cap (R366, R370). -/
  shared : NMap Credit
  /-- Drops of each connection in a period of the 1 ms grid, and the period (R369). -/
  drops  : NMap Nat
  period : Nat
deriving DecidableEq, Repr

/-! ## Transport -/

/-- Where a message's bytes come from (R330, R337). -/
inductive TxSrc where
  | bytes (b : Bytes)
  | npa (a : Nat)
deriving DecidableEq, Repr

structure TxMsg where
  kind    : Nat
  service : Nat
  msn     : Nat
  psn     : Nat
  len     : Nat
  src     : TxSrc
  trigEn  : Bool
  trig    : Nat
  rOff    : Nat
  rkey    : Nat
  code    : Nat
  reqMsn  : Nat
  wr      : Option Nat
  /-- The packet of the message that this part begins with, and the packets it ends after when a `REPORT` comes between
  (R335). -/
  first   : Nat
  cut     : Option Nat
  /-- The region a `READ_RESP` counts in flight (R342). -/
  region  : Option Nat
  /-- The stages that end when its first byte leaves a port (R21). -/
  stages  : List Stage := []
deriving DecidableEq, Repr

/-- A message being received (R331, R335). -/
structure Reasm where
  kind    : Nat
  service : Nat
  len     : Nat
  got     : Nat
  last    : Bool
  trigEn  : Bool
  trig    : Nat
  rOff    : Nat
  rkey    : Nat
  reqMsn  : Nat
  code    : Nat
  /-- Payload held or assembled, by offset (R333). -/
  held    : NMap Bytes
  /-- Ranges of memory its packets have been placed in: NPA and length (R334). -/
  placed  : List (Nat × Nat)
  /-- The receive slot it took (R345). -/
  slot    : Option Nat
  /-- The code of a message that failed, and the PSN of its `REPORT` until that is acknowledged (R335). -/
  failed  : Option Nat
  repPsn  : Option Nat
  region  : Option Nat
deriving DecidableEq, Repr

structure Conn where
  state    : Nat
  tc       : Nat
  path     : Nat
  hops     : Nat
  inc      : Nat
  peer     : Nat
  peerConn : Nat
  mask     : Nat
  sndUna   : Nat
  sndNxt   : Nat
  /-- One past the latest PSN ever sent: a PSN before it is a retransmission (R330). -/
  sndMax   : Nat
  rcvNxt   : Nat
  rcvDel   : Nat
  retries  : Nat
  cause    : Nat
  /-- Opened by the composition and fence unit (R380). -/
  tree     : Bool
  /-- The receive window beyond `RCV_NXT` (R326). -/
  bitmap   : Nat
  nextMsn  : Nat
  nextPsn  : Nat
  tx       : List TxMsg
  /-- Unsequenced packets waiting to be sprayed. -/
  ctl      : List Bytes
  reasm    : NMap Reasm
  /-- Accepted since the last acknowledgement, and when the first was (R327). -/
  unacked  : Nat
  ackSince : Option Nat
  gapSince : Option Nat
  retxSince : Option Nat
deriving DecidableEq, Repr

inductive WrState where
  | armed
  /-- In the send order, with its MSN. -/
  | sent (msn : Nat)
deriving DecidableEq, Repr

structure Wr where
  wr    : Bytes
  ref   : CmdRef
  conn  : Nat
  order : Nat
  st    : WrState
deriving DecidableEq, Repr

inductive RegionState where
  | active | revoking | revoked
deriving DecidableEq, Repr

structure Region where
  desc     : Bytes
  gen      : Nat
  st       : RegionState
  inFlight : Nat
  refs     : List CmdRef
deriving DecidableEq, Repr

/-- A posted receive (R345, R422). -/
structure RecvSlot where
  conn   : Nat
  addr   : Nat
  len    : Nat
  order  : Nat
  status : Option Nat
  got    : Nat
deriving DecidableEq, Repr

/-- A datagram waiting to be sprayed (R348): the class, the ports its sender names, the destination, the packet.
A reply of the CF unit names one port (R377). -/
structure DgramOut where
  tc    : Nat
  mask  : Nat
  dest  : Nat
  hops  : Nat
  pkt   : Bytes
deriving DecidableEq, Repr

structure Ft where
  conns   : NMap Conn
  wrs     : NMap Wr
  regions : NMap Region
  /-- The generation of each region index (R341, R349). -/
  gens    : NMap Nat
  recv    : NMap RecvSlot
  dgrams  : List DgramOut
  order   : Nat
  /-- Received heartbeats, management datagrams and handover messages not yet taken by the CF unit: port, source, payload. -/
  mgmtIn  : List Mgmt
  hbIn    : List (Nat × Bytes)
  hoIn    : List (Nat × Bytes)
deriving DecidableEq, Repr

/-! ## Composition -/

/-- The reply kept for a manager, once made, and the port of the latest copy of its request (R376). -/
structure MgrReply where
  seq   : Nat
  reply : Option Bytes
  port  : Nat
deriving DecidableEq, Repr

/-- Who issued a recovery command (R392). -/
inductive RecIssuer where
  | ring (ref : CmdRef)
  /-- The manager's entry, and the `SEQ` and arrival port of its request. -/
  | manager (entry seq port : Nat)
deriving DecidableEq, Repr

structure RecEntry where
  serial  : Nat
  type    : Nat
  status  : Option Nat
  order   : Nat
  issuers : List RecIssuer
deriving DecidableEq, Repr

structure Watch where
  missed : Nat
  heard  : Bool
deriving DecidableEq, Repr

inductive HoPhase where
  /-- Source: `OFFER` sent. -/
  | offered
  /-- Source: sending pages. -/
  | sending
  /-- Source: no further `APPEND` or `REFILL` is accepted; those accepted finish (step 1 and 2 of R401). -/
  | frozen
  /-- Source: `COMMIT` sent at this time. -/
  | committed (t : Nat)
  /-- Acceptor: reserving and receiving. -/
  | accepting
  /-- Acceptor: held since, last query. -/
  | held (t q : Nat)
deriving DecidableEq, Repr

structure Handover where
  peer    : Nat
  serial  : Nat
  source  : Bool
  phase   : HoPhase
  /-- Entries sent, with their `GEN` and `VALID`, or received, by layer, head part and local ordinal. -/
  seen    : NMap (Nat × Nat)
  /-- Slots reserved at an acceptor and not yet taken, by quota tier. -/
  reserved : NMap Nat
  /-- Slots taken for parts of a page of which another part has come, by the part's key (R233). -/
  taken   : NMap Nat
  /-- The class of an acceptor's context. -/
  cls     : Nat
deriving DecidableEq, Repr

/-- A rebuild of a page map (R396): the tails still to read, the winners by key with their `HOME_GEN`, the other slots
found, and the tails read in the present 1,024 cycles. -/
structure Rebuild where
  started : Bool
  toRead  : List Nat
  kept    : NMap (Nat × Nat)
  losers  : List Nat
  grid    : Nat
  used    : Nat
deriving DecidableEq, Repr

structure Cf where
  current  : NMap Nat
  previous : NMap Nat
  staging  : NMap Nat
  replies  : NMap MgrReply
  watch    : NMap Watch
  hbCount  : Nat
  hbLast   : Nat
  hbEnd    : Nat
  /-- The last 1 ms period whose scores have been formed (R387). -/
  healthAt : Nat
  notices  : Nat
  fences   : NMap Nat
  forwards : NMap (Nat × Nat)
  table    : NMap RecEntry
  order    : Nat
  handovers : NMap Handover
  /-- Context, serial and whether it was `FINAL`, of the last 256 handovers (R401). -/
  outcomes : List (Nat × Nat × Bool)
  rebuilds : NMap Rebuild
  drains   : List Nat
  rehomes  : NMap (List Nat)
  /-- Health sources counted in the period, in 1/256 units, by score index (R387). -/
  tally    : NMap Nat
  /-- An electrical fence that waits for its reply to leave (R386): the port and the new masks. -/
  fenceWait : Option (Nat × Nat × Nat)
deriving DecidableEq, Repr

/-! ## The Tense block and the Lexicon -/

structure Manager where
  node : Nat
  key  : Option Bytes
  seq  : Nat
deriving DecidableEq, Repr

structure Anchor where
  utc    : Nat
  localT : Nat
  cycles : Nat
  flags  : Nat
deriving DecidableEq, Repr

structure LaneHist where
  count   : Nat
  times   : List Nat
  retired : Bool
deriving DecidableEq, Repr

structure Tense where
  rollback : NMap Nat
  ownerKey : Option Bytes
  managers : NMap Manager
  floor    : Nat
  seconds  : Nat
  coldStarts : Nat
  thermalCycles : Nat
  handovers : Nat
  tenant   : Nat
  mark     : Bool
  offCause : Nat
  /-- 16 sensors × 64 bins of seconds, as sensor × 64 + bin. -/
  histogram : NMap Nat
  lanes    : NMap LaneHist
  /-- Failed and replaced physical ACs, in the order recorded. -/
  failedAcs  : List Nat
  /-- Failed and replaced BAUs as BBD × 32 + physical BAU, in the order recorded. -/
  failedBaus : List Nat
  /-- The highest score of each day, as unit × 64 + day modulo 64: unit a is physical AC a, and unit 136 + 18 × BBD + BAU a
  physical BAU (record 5). -/
  health   : NMap Nat
  /-- Retired granules, as channel × 2^18 + channel-local bits [29:12] (R283). -/
  granules : List Nat
  /-- Recorded channels in the order recorded (R286). -/
  channels : List Nat
  anchors  : List Anchor
  /-- Commits of each record so far, which place its rotation (R448). -/
  commits  : NMap Nat
  /-- Writes of each sector (record 8). -/
  wear     : NMap Nat
  sparesUsed : Nat
  /-- Records whose sector fails the read-back of its next commit (R450). -/
  failing  : List Nat
  ceilings : NMap Nat
  retainKeys : Bool
  /-- Wrapped measurements kept through Retain. -/
  retainMeasures : Bool
  /-- The highest die temperature since the last thermal cycle was counted (R448). -/
  peakDie  : Nat
deriving DecidableEq, Repr

structure Lx where
  /-- The boot flash (Table 15.1): the directory word, and the areas of `flashTable` that are not as the board came. -/
  directory : Nat
  areas    : NMap Bytes
  /-- The certificate of the attestation key (R437). -/
  attCert  : Bytes
  restarts : List Nat
  /-- The draw counter at the last start-up: it names the keys and certificates of that start-up (log entry 10). -/
  boot     : Nat
  /-- When the periodic commits were last made (R448). -/
  periodic : Nat
  /-- A DOE request that waits for a tenant handover (R439). -/
  doe      : Option Bytes
  report   : Option Bytes
  /-- Commands that replace a unit (R457): kind × 2^16 + unit. -/
  supplete : NMap (List CmdRef)
  /-- Accesses of Function 0 that wait for a tenant handover to end, oldest first; true for a write (R432, R487). -/
  held     : List (Bool × Access)
deriving DecidableEq, Repr

end Sys2Proof.Machine
end

