-- ==== Sys2Proof/Machine/State.lean ====
section
/-!
DEFINITION. Machine/State.lean: the whole state of the node and the state after reset.
Every register of BAR0 has one home, `regs`: a sparse table by offset, an unlisted register holding its reset value.
Status fields that count or mirror a structure below are computed from it (Machine/Regs.lean), never stored twice.
-/

namespace Sys2Proof.Machine

/-- Why a step stops with a fault. -/
inductive Fault where
  /-- Input above the 64 V absolute maximum: the spec says only that it may damage the module (R459).
  Raised by OVERVOLTAGE.  Safe: no state follows, so nothing is claimed of a damaged module. -/
  | damaged
deriving DecidableEq, Repr

/-- Why a step refuses a command. -/
inductive Refusal where
  /-- A command without a meaning yet; raised by an arm of `exec` alone.  Safe: no state follows. -/
  | notModelled (mnemonic : String)
deriving DecidableEq, Repr

/-- The state of the node. -/
structure State where
  /-- The local counter in ACLK cycles, modulo 2^64 (R452). -/
  time    : Nat
  /-- The registers of BAR0 that do not hold their reset value, by offset. -/
  regs    : NMap Word
  /-- GDDR7 by physical place, channel × 2^30 + channel-local address (R163); an unlisted byte reads 0 (log entry 5). -/
  mem     : List Host.Cell
  power   : Power
  qe      : Qe
  cx      : Cx
  pm      : Pm
  ae      : Ae
  bb      : Bb
  ac      : Ac
  tm      : Tm
  pf      : Pf
  fl      : NMap Port
  es      : Es
  im      : Im
  ft      : Ft
  cf      : Cf
  tn      : Tense
  lx      : Lx
  /-- What has left the block, oldest first (log entry 4). -/
  out     : List Out
  /-- The model's own counter of free values drawn (log entry 11). -/
  draws   : Nat
  /-- The commands that wait, first in, first out. -/
  pending : List Instr
deriving DecidableEq, Repr

/-- The Tense block of a new part (log entry 7). -/
def Tense.fresh : Tense :=
  { rollback := [], ownerKey := none, managers := [], floor := 0, seconds := 0, coldStarts := 0, thermalCycles := 0,
    handovers := 0, tenant := 0, mark := false, offCause := 0, histogram := [], lanes := [], failedAcs := [],
    failedBaus := [], health := [], granules := [], channels := [], anchors := [], commits := [], wear := [], sparesUsed := 0, failing := [],
    ceilings := [], retainKeys := false, retainMeasures := false, peakDie := 0 }

/-- The power block as a start-up of class C begins. -/
def Power.fresh : Power :=
  { supply := .on, running := some .C, waiting := [], perst := true, heldReport := none, opened := false,
    restricted := false, f1Closed := false, retain := .out, runHeld := false, retainWaits := false, handover := none, doorbells := [],
    boundary := 0, capLow := 0, thermLow := 0, throttleDie := 0, tripDie := 0, throttleBbd := 0, tripBbd := 0, hyst := 0 }

def Qe.fresh : Qe :=
  { resets1 := 0, fetched := [], started := [], finished := [], coalesce := [], event0 := ⟨none, false⟩, event1 := ⟨none, false⟩,
    unmasked := [], pba := [], msix := [] }

def Cx.fresh : Cx := { open_ := [], zeroing := false, written := false, sets := [] }

def Pm.fresh : Pm :=
  { runs := [], slots := [], deferred := [], walkers := [], walkWait := [], editWait := [], grants := [], bad := [], cache := [] }

def Ae.fresh : Ae := { reqs := [], ops := [], drafts := [], inbox := [], slotWait := [], fans := [] }

def Bb.fresh : Bb := { bbd := [], refresh := [], hostReads := [] }

/-- Eight spare physical ACs, 128 to 135 (R14, R221). -/
def Ac.fresh : Ac :=
  { ways := [], reach := [], te := [], jobs := [], records := [], saved := [], order := 0, unload := none,
    spares := [128, 129, 130, 131, 132, 133, 134, 135] }

def Tm.fresh : Tm :=
  { moves := [], order := 0, buffers := [], extents := [], cxl := [], flash := [], retired := [], down := [],
    keyGen := 0, staged := [], compacting := [], poison := [], nvme := [], nvmeWait := [], linkLow := false }

def Pf.fresh : Pf := { pass := none, recent := [], retires := [], test := none }

def Es.fresh : Es := { queues := [], credit := [], pending := [], base := [] }

def Im.fresh : Im := { credit := [], shared := [], drops := [], period := 0 }

def Ft.fresh : Ft :=
  { conns := [], wrs := [], regions := [], gens := [], recv := [], dgrams := [], order := 0, mgmtIn := [],
    hbIn := [], hoIn := [] }

def Cf.fresh : Cf :=
  { current := [], previous := [], staging := [], replies := [], watch := [], hbCount := 0, hbLast := 0, hbEnd := 0, healthAt := 0,
    notices := 0, fences := [], forwards := [], table := [], order := 0, handovers := [], outcomes := [],
    rebuilds := [], drains := [], rehomes := [], tally := [], fenceWait := none }

def Lx.fresh : Lx :=
  { directory := 1, areas := [], attCert := [], restarts := [], boot := 0, periodic := 0, doe := none, report := none,
    supplete := [], held := [] }

/-- The machine right after a reset of class C has begun on a new part: every register at its reset value, the local
counter 0, the start-up of class C in progress, nothing held anywhere (R9, R452, R477; log entries 6 and 7). -/
def State.reset : State :=
  { time := 0, regs := [], mem := [], power := .fresh, qe := .fresh, cx := .fresh, pm := .fresh, ae := .fresh,
    bb := .fresh, ac := .fresh, tm := .fresh, pf := .fresh, fl := [], es := .fresh, im := .fresh, ft := .fresh,
    cf := .fresh, tn := .fresh, lx := .fresh, out := [], draws := 0, pending := [] }

end Sys2Proof.Machine
end

