-- ==== Sys2Proof/Machine/Regs.lean ====
section
/-!
DEFINITION. Machine/Regs.lean: reading and writing the register file of BAR0 (R7, R9, R485, R494), elapsed time (R452),
and free values (log entry 11).
-/

namespace Sys2Proof.Machine

/-- The element numbers when `off` is the offset of a register of the group. -/
def RegGroup.elem (g : RegGroup) (off : Nat) : Option (Nat × Nat) :=
  let d := off - g.base
  let i := d / g.s1
  let r := d % g.s1
  let j := r / g.s2
  if g.base ≤ off ∧ i < g.n1 ∧ j < g.n2 ∧ r % g.s2 = 0 then some (i, j) else none

/-- The register at an offset. -/
def groupAt (off : Nat) : Option RegGroup := (regsOfBlock (off / 2 ^ 20)).find? fun g => (g.elem off).isSome

/-- The reset value of the fields of a register that some class restores, at most those of `keep`. -/
def RegField.resetBits (f : RegField) : Nat := if f.cls = [] then 0 else at_ f.lo f.w f.reset

/-- The reset value of the register at an offset (R9); 0 where no register lies. -/
def resetWord (off : Nat) : Nat :=
  match groupAt off with
  | some g => sumOf (g.fields.map RegField.resetBits)
  | none => 0

/-- The stored word of a register. -/
def regGet (s : State) (off : Nat) : Nat :=
  match mapGet s.regs off with
  | some w => w.toNat
  | none => resetWord off

/-- Store a register's word. -/
def setR (s : State) (off v : Nat) : State := { s with regs := mapPut s.regs off (BitVec.ofNat 64 v) }

/-- A field of a stored register (R5). -/
def getF (s : State) (off : Nat) (f : Fld) : Nat := fld (regGet s off) f.lo f.w

/-- Store a field of a register. -/
def setF (s : State) (off : Nat) (f : Fld) (v : Nat) : State := setR s off (setFld (regGet s off) f.lo f.w v)

/-- A one-bit field as a truth value. -/
def getB (s : State) (off : Nat) (f : Fld) : Bool := decide (getF s off f ≠ 0)

/-- Store a truth value in a one-bit field. -/
def setB (s : State) (off : Nat) (f : Fld) (b : Bool) : State := setF s off f (if b then 1 else 0)

/-- Raise a field by `k`, saturating at its width (R427). -/
def bumpF (s : State) (off : Nat) (f : Fld) (k : Nat) : State := setF s off f (satAdd f.w (getF s off f) k)

/-- Raise a saturating counter that fills a 64-bit register. -/
def bumpR (s : State) (off k : Nat) : State := setR s off (satAdd 64 (regGet s off) k)

/-- A word with the fields that name class `c` restored (R9). -/
def restoreWord (c : RClass) (fs : List RegField) (w : Nat) : Nat :=
  fs.foldl (fun w f => if c ∈ f.cls then setFld w f.lo f.w f.reset else w) w

/-- Every register after a reset of class `c` (R9, R494). -/
def restoreRegs (c : RClass) (m : NMap Word) : NMap Word :=
  m.map fun (o, w) =>
    match groupAt o with
    | some g => (o, BitVec.ofNat 64 (restoreWord c g.fields w.toNat))
    | none => (o, w)

/-- Cycles of the local counter since `t` (R452). -/
def elapsed (s : State) (t : Nat) : Nat := (s.time + 2 ^ 64 - t % 2 ^ 64) % 2 ^ 64

/-- The local counter has reached `start + limit`. -/
def due (s : State) (start limit : Nat) : Bool := decide (limit ≤ elapsed s start)

/-- Draw a free value of `w` bits. -/
def drawFree (s : State) (w : Nat) : Nat × State :=
  ((Config.freeValue s.draws).toNat % 2 ^ w, { s with draws := s.draws + 1 })

/-- Send something out of the block (log entry 4). -/
def emit (s : State) (o : Out) : State := { s with out := s.out ++ [o] }

/-- The module is powered. -/
def powered (s : State) : Bool := decide (s.power.supply = .on)

/-- The node die is powered: not Off, and not at rest in Retain (R472). -/
def awake (s : State) : Bool := powered s && s.power.retain != .inside

/-- A command acts only on a powered node die (R472); otherwise nothing happens. -/
def live (s : State) (f : State → State) : State := if awake s then f s else s

/-! ## Status codes (Table 00.4) -/

def stOk : Nat := 0x00
def stOkLossy : Nat := 0x01
def stEmpty : Nat := 0x02
def stLength : Nat := 0x10
def stLimit : Nat := 0x11
def stQuota : Nat := 0x12
def stFormat : Nat := 0x13
def stNoContext : Nat := 0x14
def stStaleEpoch : Nat := 0x20
def stMoved : Nat := 0x21
def stFenced : Nat := 0x22
def stAccess : Nat := 0x23
def stRevoked : Nat := 0x24
def stUncorrectable : Nat := 0x30
def stNeedsRecompute : Nat := 0x31
def stDropped : Nat := 0x32
def stTimeout : Nat := 0x40
def stAborted : Nat := 0x41
def stPreempted : Nat := 0x42
def stInternal : Nat := 0x7F

/-- The codes that the node produces (Table 00.4). -/
def statusCodes : List Nat :=
  [stOk, stOkLossy, stEmpty, stLength, stLimit, stQuota, stFormat, stNoContext, stStaleEpoch, stMoved, stFenced, stAccess, stRevoked,
   stUncorrectable, stNeedsRecompute, stDropped, stTimeout, stAborted, stPreempted, stInternal]

/-- A code from outside: any other stands for `INTERNAL` (R11; log entry 181). -/
def knownCode (st : Nat) : Nat := if st ∈ statusCodes then st else stInternal

/-- A test in the order of refusals: the first that applies (R12). -/
def firstRefusal : List (Bool × Nat) → Option Nat
  | [] => none
  | (b, c) :: r => if b then some c else firstRefusal r

end Sys2Proof.Machine
end

