-- ==== Sys2Proof/Machine/Flags.lean ====
section
/-!
DEFINITION. Machine/Flags.lean: every flag of the node.  An RW1C event flag is set with its saturating counter (R8,
R427), its interrupt source (Table 17.6) and the event vector it requests (R426); MSI-X messages (R425).
-/

namespace Sys2Proof.Machine

/-- MSI-X vectors of a function (Table 14.1). -/
def vectorsOf (fn : Nat) : Nat := if fn = 0 then 32 else 256

/-- A dword of a vector's MSI-X table entry: the address, the data, and the vector control, whose bit 0 masks (R425). -/
def msixDword (s : State) (fn vec d : Nat) : Nat :=
  if d = 3 then (if 256 * fn + vec ∈ s.qe.unmasked then 0 else 1) else (mapGet s.qe.msix (4 * (256 * fn + vec) + d)).getD 0

/-- The message of a vector. -/
def msixMsg (s : State) (fn vec : Nat) : Out :=
  .msix fn vec (msixDword s fn vec 0 + 2 ^ 32 * msixDword s fn vec 1) (msixDword s fn vec 2)

/-- Send an MSI-X message, or set the pending bit of a masked vector (R425). -/
def sendMsix (s : State) (fn vec : Nat) : State :=
  if vectorsOf fn ≤ vec then s
  else if 256 * fn + vec ∈ s.qe.unmasked then emit s (msixMsg s fn vec)
  else if 256 * fn + vec ∈ s.qe.pba then s
  else { s with qe := { s.qe with pba := s.qe.pba ++ [256 * fn + vec] } }

/-- `QE_CONTROL` of a function's copy. -/
def qeControl (fn : Nat) : Nat := if fn = 0 then rQeControl0 else rQeControl1

def eventMsg (s : State) (fn : Nat) : EventMsg := if fn = 0 then s.qe.event0 else s.qe.event1

def setEventMsg (s : State) (fn : Nat) (m : EventMsg) : State :=
  if fn = 0 then { s with qe := { s.qe with event0 := m } } else { s with qe := { s.qe with event1 := m } }

/-- The hold-off of a function's event vector, in cycles (R426). -/
def holdoff (s : State) (fn : Nat) : Nat := 1024 * getF s (qeControl fn) fQeControl1EventHoldoff

/-- Send the event vector's message now. -/
def sendEventNow (s : State) (fn : Nat) : State :=
  setEventMsg (sendMsix s fn (getF s (qeControl fn) fQeControl1EventVector)) fn ⟨some s.time, false⟩

/-- Request the event vector of a function: at once, or merged into one message at the end of the hold-off (R426). -/
def requestEvent (s : State) (fn : Nat) : State :=
  match (eventMsg s fn).last with
  | none => sendEventNow s fn
  | some t => if due s t (holdoff s fn) then sendEventNow s fn else setEventMsg s fn ⟨some t, true⟩

/-- The event register of an interrupt source as a function reads it (Table 17.6). -/
def eventReg (fn src : Nat) : Option Nat :=
  if src = 0 then some (if fn = 0 then rGsEvent0 else rGsEvent1)
  else if src = 1 then some (if fn = 0 then rQeEvent0 else rQeEvent1)
  else if fn = 0 then
    if src = 56 then some rLxEvent else if src = 57 then some rTnEvent else if src = 58 then some rPwEvent else none
  else if src = 2 then some rCxEvent
  else if src = 3 then some rPmEvent
  else if src = 4 then some rAeEvent
  else if src < 13 then some (rBbEvent (src - 5))
  else if src = 13 then some rAcEvent
  else if src = 14 then some rTmEvent
  else if src = 15 then some rTpEvent
  else if src = 16 then some rPfEvent
  else if src < 35 then some (rFlPortEvent (src - 17))
  else if src = 35 then some rFtEvent
  else if src < 54 then some (rEsPortEvent (src - 36))
  else if src = 54 then some rImEvent
  else if src = 55 then some rCfEvent
  else none

/-- The companion counter of a flag (R8). -/
def counterReg (fn src bit : Nat) : Nat :=
  if src = 0 then (if fn = 0 then rGsEventCount0 bit else rGsEventCount1 bit)
  else if src = 1 then (if fn = 0 then rQeEventCount0 bit else rQeEventCount1 bit)
  else if src = 2 then rCxEventCount bit
  else if src = 3 then rPmEventCount bit
  else if src = 4 then rAeEventCount bit
  else if src < 13 then rBbEventCount (src - 5) bit
  else if src = 13 then rAcEventCount bit
  else if src = 14 then rTmEventCount bit
  else if src = 15 then rTpEventCount bit
  else if src = 16 then rPfEventCount bit
  else if src < 35 then rFlPortEventCount (src - 17) bit
  else if src = 35 then rFtEventCount bit
  else if src < 54 then rEsPortEventCount (src - 36) bit
  else if src = 54 then rImEventCount bit
  else if src = 55 then rCfEventCount bit
  else if src = 56 then rLxEventCount bit
  else if src = 57 then rTnEventCount bit
  else rPwEventCount bit

/-- The interrupt-enable mask of a function for a source (Table 17.5). -/
def intMask (s : State) (fn src : Nat) : Nat := fld (regGet s (if fn = 0 then rGsIntEnable0 src else rGsIntEnable1 src)) 0 32

/-- A 32-bit saturating counter register. -/
def fCount : Fld := ⟨0, 32⟩

/-- Hardware sets flag `bit` of a source in a function's view: the flag, its counter, and the vector when enabled
(R8, R426, R427). -/
def raise (s : State) (fn src bit : Nat) : State :=
  match eventReg fn src with
  | none => s
  | some r =>
    let s := setF s r ⟨bit, 1⟩ 1
    let s := bumpF s (counterReg fn src bit) fCount 1
    if fld (intMask s fn src) bit 1 = 1 then requestEvent s fn else s

/-- Set a flag of Function 1's blocks. -/
def raise1 (s : State) (src : Nat) (f : Fld) : State := raise s 1 src f.lo

/-- Set a flag of the owner's blocks. -/
def raise0 (s : State) (src : Nat) (f : Fld) : State := raise s 0 src f.lo

/-- Set a flag in both copies of `GS_EVENT`. -/
def raiseGs (s : State) (f : Fld) : State := raise (raise s 1 0 f.lo) 0 0 f.lo

/-- `GS_INT_PENDING` of a function (R493). -/
def intPending (s : State) (fn : Nat) : Nat :=
  sumOf ((List.range 59).map fun src =>
    match eventReg fn src with
    | some r => if Nat.land (regGet s r) (intMask s fn src) = 0 then 0 else 2 ^ src
    | none => 0)

end Sys2Proof.Machine
end

