-- ==== Sys2Proof/Machine/Ops.lean ====
section
/-!
DEFINITION. Machine/Ops.lean: the named operations over memory: the pool address map (R162 to R165), the channel remap
(R287), GDDR7 as a canonical sparse memory, the checks of R55 and R323, the error log (R273, R274), and the completions,
notices and reservations of the host queues (R409, R412, R423).
-/

namespace Sys2Proof.Machine

/-! ## The address map -/

/-- Bytes of local GDDR7: 128 GiB. -/
def gddrSize : Nat := 2 ^ 37

/-- NS, the narrow share per device in bytes (R162). -/
def narrowShare (s : State) : Nat := 2 ^ 28 * getF s rBbNarrowShare ⟨0, 5⟩

/-- WIDE for a narrow share of `ns` bytes (R162). -/
def wideOf (ns : Nat) : Nat := 32 * (2 ^ 32 - ns)

/-- WIDE (R162). -/
def wideSize (s : State) : Nat := wideOf (narrowShare s)

/-- RS, the base of the wide reserve, for a wide pool of `w` bytes (R281). -/
def reserveOf (w : Nat) : Nat := w - 2 ^ 19 * ceilDiv (ceilDiv w 25) (2 ^ 19)

/-- RS (R281). -/
def reserveBase (s : State) : Nat := reserveOf (wideSize s)

/-- The remaps in force, in the order recorded (R287). -/
def remaps (s : State) : List Nat :=
  let w := regGet s rPfChannels
  [fld w 0 8, fld w 8 8].filterMap fun e => if 128 ≤ e then some (e % 128) else none

/-- Channel and channel-local address of an NPA, before any remap (R164, R165). -/
def place (s : State) (a : Nat) : Nat × Nat :=
  let ns := narrowShare s
  let w := wideOf ns
  if a < w then (Nat.xor (fld a 12 7) (Nat.xor (fld a 19 7) (fld a 26 7)), 4096 * (a / 2 ^ 19) + a % 4096)
  else
    let d := (a - w) / ns
    let o := (a - w) % ns
    (4 * d + fld o 7 2, 2 ^ 30 - ns / 4 + 128 * (o / 512) + o % 128)

/-- The wide-pool NPA of a channel-local address in the wide part of a channel: the inverse of R164. -/
def wideNpa (c l : Nat) : Nat :=
  let g := l / 4096
  2 ^ 19 * g + 4096 * Nat.xor c (Nat.xor (g % 128) (g / 128 % 128)) + l % 4096

/-- Where an access to a channel-local address goes under the remaps in force (R287). -/
def remapped (s : State) (c l : Nat) : Nat × Nat :=
  let rs := remaps s
  match rs.findIdx? (· = c) with
  | none => (c, l)
  | some r =>
    let live := (List.range 128).filter fun x => !(rs.contains x)
    let t := live.length
    let g := l / 4096
    let rb := 4096 * (reserveBase s / 2 ^ 19)
    (live.getD (g % t) 0, rb + 4096 * (2081 * r + g / t) + l % 4096)

/-- The physical byte of an NPA: channel × 2^30 + channel-local address. -/
def phys (s : State) (a : Nat) : Nat :=
  let p := place s a
  let q := remapped s p.1 p.2
  2 ^ 30 * q.1 + q.2

/-! ## GDDR7 -/

/-- The byte at a physical place; what an unlisted byte reads as is 0 (log entry 5). -/
def memGet : List Host.Cell → Nat → Byte
  | [], _ => 0
  | (j, b) :: m, k => if j = k then b else if k < j then 0 else memGet m k

/-- Store a byte, keeping the canonical form. -/
def memPut : List Host.Cell → Nat → Byte → List Host.Cell
  | [], k, v => if v = 0 then [] else [(k, v)]
  | (j, b) :: m, k, v =>
    if k < j then (if v = 0 then (j, b) :: m else (k, v) :: (j, b) :: m)
    else if j = k then (if v = 0 then m else (k, v) :: m)
    else (j, b) :: memPut m k v

/-- Keys rise strictly from `lo` on and no listed byte is 0. -/
def memWfFrom : Nat → List Host.Cell → Bool
  | _, [] => true
  | lo, (k, v) :: m => decide (lo ≤ k) && decide (v ≠ 0) && memWfFrom (k + 1) m

/-- The canonical form of memory: addresses strictly rising, no entry equal to what an unlisted address reads as. -/
def Memory.wf (m : List Host.Cell) : Bool := memWfFrom 0 m

/-- Read one byte by NPA; an unbacked address reads 0 here, and its reader reports it (R258). -/
def readByte (s : State) (a : Nat) : Byte := if a < gddrSize then memGet s.mem (phys s a) else 0

/-- Write one byte by NPA; a write to an unbacked address is discarded (R258). -/
def writeByte (s : State) (a : Nat) (b : Byte) : State :=
  if a < gddrSize then { s with mem := memPut s.mem (phys s a) b } else s

/-- Read `len` bytes from NPA `a`. -/
def readMem (s : State) (a : Nat) : Nat → Bytes
  | 0 => []
  | len + 1 => readByte s a :: readMem s (a + 1) len

/-- Write bytes from NPA `a` on. -/
def writeMem (s : State) (a : Nat) : Bytes → State
  | [] => s
  | b :: bs => writeMem (writeByte s a b) (a + 1) bs

/-- Every listed byte whose place satisfies `p` removed: the bytes read 0. -/
def zeroWhere (s : State) (p : Nat → Bool) : State := { s with mem := s.mem.filter fun c => !(p c.1) }

/-- The NPA of a channel and channel-local address, before any remap: the inverse of R164 and R165. -/
def npaOf (s : State) (c l : Nat) : Nat :=
  let ns := narrowShare s
  let nb := 2 ^ 30 - ns / 4
  if l < nb then wideNpa c l
  else wideOf ns + c / 4 * ns + 512 * ((l - nb) / 128) + 128 * (c % 4) + (l - nb) % 128

/-- The NPA that reaches a physical byte, when one does: the inverse of `phys`. -/
def npaOfPhys (s : State) (k : Nat) : Option Nat :=
  let c := k / 2 ^ 30
  let l := k % 2 ^ 30
  let rs := remaps s
  let rb := 4096 * (reserveBase s / 2 ^ 19)
  if rs.contains c then none
  else if rb ≤ l ∧ l < rb + 2081 * 4096 * rs.length then
    let row := (l - rb) / 4096
    let live := (List.range 128).filter fun x => !(rs.contains x)
    let g := row % 2081 * live.length + live.idxOf c
    if g < 2 ^ 18 then some (npaOf s (rs.getD (row / 2081) 0) (4096 * g + l % 4096)) else none
  else some (npaOf s c l)

/-- Zero the NPA range [a, a + len). -/
def zeroRange (s : State) (a len : Nat) : State :=
  zeroWhere s fun k =>
    match npaOfPhys s k with
    | some n => decide (a ≤ n ∧ n < a + len)
    | none => false

/-- The BBD that an NPA's byte lies in, after the remap. -/
def bbdAt (s : State) (a : Nat) : Nat := phys s a / 2 ^ 34

/-- BBD `b` is in service (R161). -/
def bbdUp (s : State) (b : Nat) : Bool := decide (fld (getF s rGsStatus fGsStatusBbdOut) b 1 = 0)

/-! ## Checks -/

/-- One bit of the CRC-16 of R55. -/
def crcBit (c : Nat) : Nat := if 0x8000 ≤ c then Nat.xor (c * 2) 0x18BB7 else c * 2

/-- One byte, most significant bit first (R55). -/
def crcByte (c : Nat) (b : Byte) : Nat :=
  crcBit (crcBit (crcBit (crcBit (crcBit (crcBit (crcBit (crcBit (Nat.xor c (256 * b.toNat)))))))))

/-- CRC-16, generator 0x8BB7, initial value 0, no reflection, no inversion (R55). -/
def crc16 (b : Bytes) : Nat := b.foldl crcByte 0

/-! ## The error log -/

/-- What is known of a failure (Table 09.3). -/
structure Failure where
  cause    : Nat
  source   : Nat
  author   : Nat := 0
  bank     : Nat := 0
  /-- Context, KV head, layer and first position, when known. -/
  ctx      : Option (Nat × Nat × Nat × Nat) := none
  channel  : Option Nat := none
  line     : Nat := 0xFF
  handle   : Nat := 0
  stored   : Nat := 0
  computed : Nat := 0
deriving DecidableEq, Repr

/-- The four 64-bit words of a log entry (Table 09.3). -/
def Failure.words (f : Failure) (time : Nat) : List Nat :=
  let (c, kv, l, p) := f.ctx.getD (0, 0, 0, 0)
  [ f.cause + at_ 4 4 f.source + at_ 8 1 f.author + at_ 9 1 f.bank + (if f.ctx.isSome then 2 ^ 10 else 0)
      + (if f.channel.isSome then 2 ^ 11 else 0) + at_ 12 7 (f.channel.getD 0) + at_ 24 8 f.line
      + at_ 32 20 c + at_ 52 6 kv,
    at_ 0 40 f.handle + at_ 40 8 l,
    at_ 0 32 p + at_ 32 16 f.stored + at_ 48 16 f.computed,
    time ]

/-- Write the words of a log slot into the log window (Table 09.11). -/
def writeLogWords (s : State) (slot : Nat) (ws : List Nat) : State :=
  (ws.zipIdx).foldl (init := s) fun s (w, i) => setR s (rPfLogWindow slot i) w

/-- Count a health source of a scored object, in 1/256 units (R387). -/
def tally (s : State) (idx units : Nat) : State :=
  { s with cf := { s.cf with tally := mapPut s.cf.tally idx ((mapGet s.cf.tally idx).getD 0 + units) } }

/-- Log a persistent failure (R273, R274); a failing GDDR7 line counts for its channel's score (Table 13.4), and poison was
returned by the read and by its refetch (R227, R269). -/
def logFailure (s : State) (f : Failure) : State :=
  let s := match f.channel with
    | some c => if f.cause ≤ 2 then tally s (314 + c) (256 * 256) else s
    | none => s
  let s := if f.cause = 5 then raise1 (raise1 s 15 fTpEventPoison) 15 fTpEventPoison else s
  if s.pf.recent.contains (f.handle, f.line, f.cause) then bumpF s rPfLogLost fPfLogLostRepeat 1
  else
    let tail := getF s rPfLogTail fPfLogTailPfLogTail
    let head := getF s rPfLogHead fPfLogHeadPfLogHead
    if (tail + 2 ^ 32 - head) % 2 ^ 32 = 1024 then raise1 (bumpF s rPfLogLost fPfLogLostLost 1) 16 fPfEventLogFull
    else
      let s := writeLogWords s (tail % 1024) (f.words s.time)
      let s := setF s rPfLogTail fPfLogTailPfLogTail (tail + 1)
      let s := { s with pf := { s.pf with recent := (s.pf.recent ++ [(f.handle, f.line, f.cause)]).drop
                                            (s.pf.recent.length - 15) } }
      raise1 s 16 fPfEventCheckFail

/-- A refetch that passed is counted, and for the score of a GDDR7 channel (R269, Table 13.4); one of a line that came as
poison at first sets its flag (Table 08.15). -/
def refetchOk (s : State) (chan : Nat) : State :=
  let s := bumpR s rPfRefetchOk 1
  if chan < 128 then tally s (314 + chan) (16 * 256) else if chan = 129 then raise1 s 15 fTpEventPoison else s

/-- What the surroundings show of the lines a command reads (R227, R269). -/
def takeReads (s : State) (r : Reads) : State :=
  let s := r.passed.foldl refetchOk s
  { s with tm := { s.tm with poison := r.poison.foldl (fun l p => if l.contains p then l else p :: l) s.tm.poison } }

/-- A sector failed its read-back (R450): the record moves to a spare sector; with no spare left it stays, and serves on. -/
def spareSector (s : State) (record : Nat) : State :=
  if s.tn.sparesUsed < 32 then
    raise0 { s with tn := { s.tn with sparesUsed := s.tn.sparesUsed + 1, failing := s.tn.failing.erase record } } 57
      fTnEventSectorSpared
  else raise0 s 57 fTnEventWorn

/-- One sector of a record is written, the next of its rotation, and read back (R448, R450; log entry 16). -/
def writeSector (s : State) (record : Nat) : State :=
  let n := (mapGet s.tn.commits record).getD 0
  let k := Config.sectorOf record n % 512
  let s := { s with tn := { s.tn with commits := mapPut s.tn.commits record (n + 1),
                                      wear := mapPut s.tn.wear k ((mapGet s.tn.wear k).getD 0 + 1) } }
  if s.tn.failing.contains record then spareSector s record else s

/-- A record of the Tense block is committed, and with its sector's rotation the wear record (Table 15.9, R448). -/
def commit (s : State) (record : Nat) : State := writeSector (writeSector s record) 8

/-! ## Completions and notices -/

/-- The ring registers of a function. -/
def ringCtrl (fn n : Nat) : Nat := if fn = 0 then rQeRingCtrl0 n else rQeRingCtrl1 n
def ringIndex (fn n : Nat) : Nat := if fn = 0 then rQeRingIndex0 n else rQeRingIndex1 n
def ringState (fn n : Nat) : Nat := if fn = 0 then rQeRingState0 n else rQeRingState1 n

/-- Rings of a function (Table 14.1). -/
def ringsOf (fn : Nat) : Nat := if fn = 0 then 8 else 64

/-- N = 2^`LOG2` of a ring. -/
def ringSize (s : State) (fn n : Nat) : Nat := 2 ^ getF s (ringCtrl fn n) fQeRingCtrl1Log2

/-- The free entries of a completion ring (R412). -/
def ringFree (s : State) (fn n : Nat) : Nat :=
  let size := ringSize s fn n
  let p := getF s (ringIndex fn n) fQeRingIndex1CqProducer
  let c := getF s (ringIndex fn n) fQeRingIndex1CqConsumer
  size - 1 - (p + size - c) % size - getF s (ringState fn n) fQeRingState1Reserved

/-- A command completes (R409): its entry waits to be written. A command that a function-level reset of Function 1
overtook is discarded and counted (R428). -/
def complete (s : State) (c : Completion) : State :=
  let s := { s with qe := { s.qe with started := s.qe.started.erase c.ref } }
  if c.ref.fn = 1 ∧ c.ref.gen ≠ s.qe.resets1 then bumpF s rQeDiscards1 fQeDiscards1QeDiscards 1
  else { s with qe := { s.qe with finished := s.qe.finished ++ [c] } }

/-- A completion with a status and `RESULT0`. -/
def completeWith (s : State) (r : CmdRef) (status r0 : Nat) : State := complete s ⟨r, status, 0, r0, 0, 0, false⟩

/-- A completion with a status alone. -/
def finish (s : State) (r : CmdRef) (status : Nat) : State := complete s ⟨r, status, 0, 0, 0, 0, false⟩

/-- Complete every command of a list. -/
def finishAll (s : State) (rs : List CmdRef) (status r0 : Nat) : State :=
  rs.foldl (fun s r => completeWith s r status r0) s

/-- Post a notice of a function, when it can take an entry (R423); whether it was posted. -/
def notice (s : State) (fn kind status count r0 r1 r2 : Nat) : Bool × State :=
  let ring := getF s (qeControl fn) fQeControl1NoticeRing
  let waiting := (s.qe.finished.filter fun c => c.notice && c.ref.fn == fn && c.ref.ring == ring).length
  if getB s (qeControl fn) fQeControl1NoticeEn && decide (ring < ringsOf fn)
      && decide (getF s (ringState fn ring) fQeRingState1State = 1) && decide (waiting < ringFree s fn ring) then
    (true, { s with qe := { s.qe with finished := s.qe.finished ++
      [⟨⟨fn, ring, 0, kind, if fn = 1 then s.qe.resets1 else 0⟩, status, count, r0, r1, r2, true⟩] } })
  else (false, s)

/-- Post a notice, or lose it and set `NOTICE_LOST` (R423). -/
def noticeOrLose (s : State) (fn kind status count r0 r1 r2 : Nat) : State :=
  match notice s fn kind status count r0 r1 r2 with
  | (true, s) => s
  | (false, s) => raise s fn 1 fQeEvent1NoticeLost.lo

/-- A refusal with `QUOTA` of the kinds that Table 02.8 lists. -/
def raiseQuota (s : State) : State := raise1 s 2 fCxEventQuotaRefuse

/-- A refusal with `LIMIT` (Table 02.8). -/
def raiseLimit (s : State) : State := raise1 s 2 fCxEventLimitRefuse

end Sys2Proof.Machine
end

