-- ==== Sys2Proof/Machine/Operands.lean ====
section
/-!
DEFINITION. Machine/Operands.lean: every operand form of the node: ring descriptors (Tables 14.2, 14.4, 14.5), context
descriptors (Table 02.1), page formats (R52, R53), headers (Table 03.3), page handles (R62, R63), map entries
(Tables 03.5 to 03.7) and placement plans (Table 08.2).
-/

namespace Sys2Proof.Machine

/-- Put a field [lo + w − 1 : lo], counted from byte `off`, into a run of bytes. -/
def putF (b : Bytes) (off lo w v : Nat) : Bytes :=
  let n := (lo + w + 7) / 8
  overlay b off (natLe n (setFld (num b off n) lo w v))

/-! ## Ring descriptors -/

end Sys2Proof.Machine

namespace Sys2Proof

def Cmd.opcode (c : Cmd) : Nat := Machine.num c.d 0 1
def Cmd.fence (c : Cmd) : Bool := decide (Machine.bfld c.d 0 8 1 = 1)
def Cmd.tag (c : Cmd) : Nat := Machine.num c.d 4 4

/-- The reserved bits of a descriptor that an opcode leaves unassigned are zero (R408, R418): `used` lists the bits
(offset, low bit, width) that the opcode assigns. -/
def Cmd.reservedOk (c : Cmd) (used : List (Nat × Nat × Nat)) : Bool :=
  decide (Machine.leNat (used.foldl (fun b (o, l, w) => Machine.putF b o l w 0) (Machine.putF (Machine.putF (Machine.putF c.d 0 0 8 0) 0 8 1 0) 4 0 32 0)) = 0)

/-- The host address and `LEN` of a buffer operand. -/
def Cmd.host (c : Cmd) : Nat := Machine.num c.d 0x10 8
def Cmd.len (c : Cmd) : Nat := Machine.num c.d 0x18 4

/-- The `LENGTH` test of a host buffer (Table 14.6). -/
def Cmd.badBuf (c : Cmd) (need : Nat) : Bool := decide (c.len < need ∨ 2 ^ 64 < c.host + c.len)

end Sys2Proof

namespace Sys2Proof.Machine

/-! ## Page formats -/

/-- Bytes of a row of `w` channels in a cache format (R52). -/
def rowBytes (fmt w : Nat) : Nat := if fmt = 0 then 2 * w else if fmt ≤ 2 then w else w / 2 + w / 32

/-- The widest part of a cache format (Table 03.2). -/
def partLimit (fmt : Nat) : Nat := if fmt = 0 then 128 else if fmt ≤ 2 then 256 else 480

/-- S, the head parts of a head of `w` channels (Table 03.2). -/
def partsOf (fmt w : Nat) : Nat := ceilDiv w (partLimit fmt)

/-- `PAGE_POS` (R53): P is the largest of 32, 64, 128 and 256 for which P rows fit a block. -/
def posCode (fmt w : Nat) : Nat :=
  let r := rowBytes fmt (min w (partLimit fmt))
  if partsOf fmt w ≠ 1 then 0
  else if 256 * r ≤ 8192 then 3 else if 128 * r ≤ 8192 then 2 else if 64 * r ≤ 8192 then 1 else 0

/-- P of a `PAGE_POS` code. -/
def posOf (code : Nat) : Nat := 32 * 2 ^ code

/-- First channel of a part. -/
def partBase (fmt part : Nat) : Nat := part * partLimit fmt

/-- Channels of a part. -/
def partWidth (fmt w part : Nat) : Nat := min (partLimit fmt) (w - partBase fmt part)

/-- The log2 of the gloss group size G of a part (R58). -/
def glossLog (pw : Nat) : Nat := if pw ≤ 112 then 0 else if pw ≤ 224 then 1 else if pw ≤ 448 then 2 else 3

/-! ## Context descriptors (Table 02.1) -/

def dState (d : Bytes) : Nat := bfld d 0 0 4
def dClass (d : Bytes) : Nat := bfld d 0 4 4
def dClient (d : Bytes) : Nat := bfld d 0 8 12
def dFmt (d : Bytes) : Nat := bfld d 0 20 3
def dWidthCode (d : Bytes) : Nat := bfld d 0 23 5
def dWidth (d : Bytes) : Nat := 32 * (dWidthCode d + 1)
def dPos (d : Bytes) : Nat := bfld d 0 28 2
def dP (d : Bytes) : Nat := posOf (dPos d)
def dRopeAt (d : Bytes) : Bool := decide (bfld d 0 30 1 = 1)
def dRopeHalves (d : Bytes) : Bool := decide (bfld d 0 31 1 = 1)
def dLayers (d : Bytes) : Nat := num d 4 1
def dHeads (d : Bytes) : Nat := num d 5 1
def dPlan (d : Bytes) : Nat := num d 6 1
def dRopeBase (d : Bytes) : Nat := num d 8 4
def dRopeDims (d : Bytes) : Nat := bfld d 0x0C 0 10
def dSet (d : Bytes) : Nat := bfld d 0x10 0 12
def dIndex (d : Bytes) : Nat := bfld d 0x10 12 10
def dW (d : Bytes) : Nat := bfld d 0x14 0 11
def dLead (d : Bytes) : Nat := bfld d 0x14 16 12
def dEnd (d : Bytes) : Nat := num d 0x18 4
def dGen (d : Bytes) : Nat := num d 0x1C 4
def dRoot (d : Bytes) : Nat := bfld d 0x20 0 40
def dGddr (d : Bytes) : Nat := num d 0x28 4
def dCxl (d : Bytes) : Nat := num d 0x2C 4
def dFlash (d : Bytes) : Nat := num d 0x30 4
def dDropped (d : Bytes) : Nat := num d 0x34 4
def dLast (d : Bytes) : Nat := num d 0x38 8
def dInFlight (d : Bytes) : Nat := num d 0x40 2
/-- S of a context. -/
def dParts (d : Bytes) : Nat := partsOf (dFmt d) (dWidth d)
/-- HP of a context. -/
def dHp (d : Bytes) : Nat := dHeads d * dParts d

/-! ## Page headers (Table 03.3) -/

/-- What a header must agree with (R57). -/
structure PageKey where
  ctx   : Nat
  layer : Nat
  kv    : Nat
  part  : Nat
  first : Nat
  fmt   : Nat
deriving DecidableEq, Repr

def hdValid (h : Bytes) : Nat := bfld h 8 0 9
def hdAuthor (h : Bytes) : Nat := bfld h 2 5 1
def hdLayer (h : Bytes) : Nat := num h 3 1
def hdFirst (h : Bytes) : Nat := num h 4 4
def hdContext (h : Bytes) : Nat := bfld h 0x10 0 20
def hdKv (h : Bytes) : Nat := bfld h 0x10 20 6
def hdPart (h : Bytes) : Nat := bfld h 1 5 3
def hdFmt (h : Bytes) : Nat := bfld h 0 0 3

/-- A header agrees with its key and holds at least `valid` rows (R57). -/
def headerAgrees (h : Bytes) (k : PageKey) (valid : Nat) : Bool :=
  decide (hdContext h = k.ctx ∧ hdLayer h = k.layer ∧ hdKv h = k.kv ∧ hdPart h = k.part ∧ hdFirst h = k.first ∧
    hdFmt h = k.fmt ∧ valid ≤ hdValid h)

/-- The header of a part, without its tail check (Table 03.3). -/
def mkHeader (d : Bytes) (k : PageKey) (valid homeGen author : Nat) : Bytes :=
  let w := dWidth d
  let pw := partWidth (dFmt d) w k.part
  let b := zeros 32
  let b := putF b 0 0 3 (dFmt d)
  let b := putF b 0 3 2 (dPos d)
  let b := putF b 1 0 5 (pw / 32 - 1)
  let b := putF b 1 5 3 k.part
  let b := putF b 2 0 3 (dParts d)
  let b := putF b 2 3 2 (glossLog pw)
  let b := putF b 2 5 1 author
  let b := putF b 3 0 8 k.layer
  let b := putF b 4 0 32 k.first
  let b := putF b 8 0 9 valid
  let b := putF b 0x0A 0 10 (partBase (dFmt d) k.part)
  let b := putF b 0x0C 0 32 homeGen
  let b := putF b 0x10 0 20 k.ctx
  putF b 0x10 20 6 k.kv

/-! ## Page handles (Table 03.4) -/

/-- Bytes of a page slot (R51). -/
def slotBytes : Nat := 16896

def hTier (h : Nat) : Nat := fld h 37 3
def hLoc (h : Nat) : Nat := fld h 0 37
def mkHandle (tier loc : Nat) : Nat := 2 ^ 37 * tier + loc

/-- 0 GDDR7, 1 CXL, 2 flash: the tier that quotas count (R45). -/
def hQuota (h : Nat) : Nat := if hTier h ≤ 1 then 0 else if hTier h ≤ 3 then 1 else 2

/-- The tier link of a CXL handle, as port × 4 + link. -/
def hLink (h : Nat) : Nat := (hTier h - 2) * 4 + fld h 35 2

/-- `TP_LINK` of link `k` = port × 4 + link. -/
def tpLink (k : Nat) : Nat := rTpLink (k / 4) (k % 4)

/-- Link `k` is a CXL expander the node has attached (R229). -/
def cxlAttached (s : State) (k : Nat) : Bool :=
  getB s (tpLink k) fTpLinkAttached && decide (getF s (tpLink k) fTpLinkKind = 0)

/-- The link of an attached drive. -/
def driveLink (s : State) (d : Nat) : Option Nat :=
  (List.range 8).find? fun k =>
    getB s (tpLink k) fTpLinkAttached && decide (getF s (tpLink k) fTpLinkKind = 1)
      && decide (getF s (tpLink k) fTpLinkDrive = d)

/-- Slots of a CXL link, or extents of a drive's link. -/
def linkSlots (s : State) (k : Nat) : Nat := getF s (tpLink k) fTpLinkSlots

/-- Extents of a drive; 0 when it is not attached. -/
def driveExtents (s : State) (d : Nat) : Nat :=
  match driveLink s d with
  | some k => linkSlots s k
  | none => 0

def fDrive (h : Nat) : Nat := fld h 34 3
def fPosn (h : Nat) : Nat := fld h 29 5
def fExtent (h : Nat) : Nat := fld h 0 29
def mkFlash (drive pos extent : Nat) : Nat := mkHandle 4 (2 ^ 34 * drive + 2 ^ 29 * pos + extent)
/-- The key of an extent in `tm.extents`. -/
def extKey (drive extent : Nat) : Nat := 2 ^ 29 * drive + extent

/-- A handle is malformed (R63). -/
def handleBad (s : State) (h : Nat) : Bool :=
  match hTier h with
  | 0 => decide (hLoc h % 128 ≠ 0 ∨ wideSize s < hLoc h + slotBytes)
  | 1 => decide (fld h 0 32 % 512 ≠ 0 ∨ narrowShare s < fld h 0 32 + slotBytes)
  | 2 | 3 =>
    !(cxlAttached s (hLink h)) || decide (fld h 34 1 = 1 ∨ fld h 0 34 % 132 ≠ 0 ∨ linkSlots s (hLink h) ≤ fld h 0 34 / 132)
  | 4 => decide (31 ≤ fPosn h ∨ driveExtents s (fDrive h) ≤ fExtent h)
  | _ => true

/-- The NPA of the first byte of a GDDR7 slot (R165). -/
def slotNpa (s : State) (h : Nat) : Nat :=
  if hTier h = 0 then hLoc h else wideSize s + fld h 32 5 * narrowShare s + fld h 0 32

/-! ## The bytes of a slot (R237, R238) -/

/-- The CXL key in force (R239). -/
def cxlKey (s : State) : Bytes := natLe 64 (Config.tierKey s.tm.keyGen 0).toNat
/-- The flash key in force (R239). -/
def flashKey (s : State) : Bytes := natLe 64 (Config.tierKey s.tm.keyGen 1).toNat

/-- The tweak of line i of a CXL slot: line index, link, port (R237). -/
def cxlTweak (h i : Nat) : Nat := fld (fld h 0 34 + i) 0 34 + 2 ^ 34 * fld h 35 2 + 2 ^ 36 * (hTier h - 2)
/-- The tweak of a flash slot: extent, position, drive (R238). -/
def flashTweak (h : Nat) : Nat := fExtent h + 2 ^ 29 * fPosn h + 2 ^ 34 * fDrive h

/-- Line i of a CXL slot, decrypted. -/
def cxlLine (s : State) (h i : Nat) : Bytes :=
  xtsDecrypt (cxlKey s) (cxlTweak h i) (padTo 128 (slice ((mapGet s.tm.cxl h).getD []) (128 * i) 128))

/-- Lines `i`, `i + 1`, … of a CXL slot, `k` of them. -/
def cxlLines (s : State) (h i : Nat) : Nat → Bytes
  | 0 => []
  | k + 1 => cxlLine s h i ++ cxlLines s h (i + 1) k

/-- A flash slot, decrypted as its one data unit. -/
def flashSlot (s : State) (h : Nat) : Bytes :=
  xtsDecrypt (flashKey s) (flashTweak h) (padTo slotBytes ((mapGet s.tm.flash h).getD []))

/-- The lines that `len` bytes from `off` on touch: the first, and how many. -/
def linesAt (off len : Nat) : Nat × Nat := (off / 128, ceilDiv (off + len) 128 - off / 128)

/-- Read bytes of a slot from its home, decrypted in a lower tier. -/
def slotRead (s : State) (h off len : Nat) : Bytes :=
  if hTier h ≤ 1 then readMem s (slotNpa s h + off) len
  else if hTier h ≤ 3 then
    let l := linesAt off len
    slice (cxlLines s h l.1 l.2) (off - 128 * l.1) len
  else slice (flashSlot s h) off len

/-- Lines `i`, `i + 1`, … encrypted, in place of those a CXL slot holds. -/
def sealLines (s : State) (h : Nat) : Nat → Nat → Bytes → Bytes → Bytes
  | 0, _, _, c => c
  | k + 1, i, b, c =>
    sealLines s h k (i + 1) (b.drop 128) (overlay c (128 * i) (xtsEncrypt (cxlKey s) (cxlTweak h i) (padTo 128 (b.take 128))))

/-- Write bytes of a slot, encrypted in a lower tier; a line that is written is poison no more (R227). -/
def slotWrite (s : State) (h off : Nat) (b : Bytes) : State :=
  if hTier h ≤ 1 then writeMem s (slotNpa s h + off) b
  else if hTier h ≤ 3 then
    let l := linesAt off b.length
    let p := overlay (cxlLines s h l.1 l.2) (off - 128 * l.1) b
    let c := sealLines s h l.2 l.1 p (padTo slotBytes ((mapGet s.tm.cxl h).getD []))
    { s with tm := { s.tm with
        cxl := mapPut s.tm.cxl h c,
        poison := s.tm.poison.filter fun e => !(decide (e.1 = h ∧ l.1 ≤ e.2 ∧ e.2 < l.1 + l.2)) } }
  else
    { s with tm := { s.tm with
        flash := mapPut s.tm.flash h (xtsEncrypt (flashKey s) (flashTweak h) (overlay (flashSlot s h) off b)) } }

/-- The 132-line tail region of a slot, 0x4000 to 0x41FF. -/
def slotTail (s : State) (h : Nat) : Bytes := slotRead s h 0x4000 0x200

/-- The check of the tail region as computed, over 0x4000 to 0x41FD (R56). -/
def tailCrc (t : Bytes) : Nat := crc16 (t.take 0x1FE)

/-- A tail region with its `TAIL_CRC` set. -/
def sealTail (t : Bytes) : Bytes := t.take 0x1FE ++ natLe 2 (tailCrc t)

/-- The header within a tail region. -/
def tailHeader (t : Bytes) : Bytes := slice t 0x1E0 32

/-- The link of a lower-tier slot has been down for the 10 ms of R231. -/
def linkDead (s : State) (k : Nat) : Bool :=
  match mapGet s.tm.down k with
  | some (_, b) => b
  | none => false

/-- Why a line of a slot cannot be read at all: a BBD out of service (R161), a link that stays down (R231), a line that an
expander returns as poison (R227) or a drive that failed the read and its refetch (R269). -/
def lineFault (s : State) (h line : Nat) : Option Nat :=
  if hTier h ≤ 1 then (if bbdUp s (bbdAt s (slotNpa s h + 128 * line)) then none else some 10)
  else
    let k := if hTier h ≤ 3 then hLink h else (driveLink s (fDrive h)).getD 0
    if linkDead s k then some 6
    else if hTier h ≤ 3 ∧ s.tm.poison.contains (h, line) = true then some 5
    else if hTier h = 4 ∧ mapGet s.tm.staged h = some 2 then some 7 else none

/-- The channel of a line of a GDDR7 slot (R163). -/
def lineChannel (s : State) (h line : Nat) : Option Nat :=
  if hTier h ≤ 1 then some (place s (slotNpa s h + 128 * line)).1 else none

/-! ## Map entries -/

def eHandle (e : Nat) : Nat := fld e 0 40
def eState (e : Nat) : Nat := fld e 40 2
def eOwner (e : Nat) : Nat := fld e 42 1
def eValid (e : Nat) : Nat := fld e 48 9
def eGen (e : Nat) : Nat := fld e 64 32
def eCrc (e : Nat) : Nat := fld e 112 16
def eComputed (e : Nat) : Nat := crc16 (natLe 14 e)

/-- A page entry's word with its check (Table 03.7). -/
def mkEntry (handle state owner valid gen : Nat) : Nat :=
  let e := at_ 0 40 handle + at_ 40 2 state + at_ 42 1 owner + at_ 48 9 valid + at_ 64 32 gen
  e + at_ 112 16 (crc16 (natLe 14 e))

/-- A root entry's word with its check (Table 03.5). -/
def mkRootEntry (log2 base gen : Nat) : Nat :=
  let e := 1 + at_ 1 5 log2 + at_ 12 28 (base / 4096) + at_ 64 32 gen
  e + at_ 112 16 (crc16 (natLe 14 e))

/-- The root header's word with its check (Table 03.6). -/
def mkRootHeader (ctx hp parts : Nat) : Nat :=
  let e := at_ 0 20 ctx + at_ 32 9 hp + at_ 41 3 parts
  e + at_ 112 16 (crc16 (natLe 14 e))

/-- A page entry's content keeps Table 03.7 but for its handle (R67). -/
def entryShape (e p : Nat) : Bool :=
  decide (eState e ≠ 3 ∧ fld e 43 5 = 0 ∧ fld e 57 7 = 0 ∧ fld e 96 16 = 0 ∧
    (eState e = 1 ∨ eHandle e = 0 ∧ eOwner e = 0) ∧
    (if eState e = 0 then eValid e = 0 else 1 ≤ eValid e ∧ eValid e ≤ p))

/-- A layer entry's content keeps Table 03.5 (R67). -/
def rootShape (e : Nat) : Bool := decide (fld e 6 6 = 0 ∧ fld e 40 24 = 0 ∧ fld e 96 16 = 0 ∧ fld e 1 5 ≤ 18)

/-- The root header's content keeps Table 03.6 (R67). -/
def rootHeaderShape (e : Nat) : Bool :=
  decide (fld e 20 12 = 0 ∧ fld e 44 68 = 0 ∧ 1 ≤ fld e 32 9 ∧ fld e 32 9 ≤ 320 ∧ 1 ≤ fld e 41 3 ∧ fld e 41 3 ≤ 5)

/-! ## Placement plans (Table 08.2) -/

/-- The band of a layer in a plan class: the least whose `LAST_LAYER` is the layer or more, else band 15 (R240). -/
def bandOf (s : State) (plan layer : Nat) : Nat :=
  ((List.range 16).find? fun b => decide (layer ≤ getF s (rTmPlan plan b) fTmPlanLastLayer)).getD 15

/-- The plan entry of a layer (R240). -/
def planOf (s : State) (plan layer : Nat) : Nat := regGet s (rTmPlan plan (bandOf s plan layer))

def plHome (w : Nat) : Nat := fld w 0 2
def plNarrow (w : Nat) : Bool := decide (fld w 2 1 = 1)
def plDropOk (w : Nat) : Bool := decide (fld w 3 1 = 1)
def plSpill (w : Nat) : Nat := fld w 4 2
def plPrefetch (w : Nat) : Nat := fld w 8 8

/-- The tiers of a band from its home down, as quota tiers (Table 08.2). -/
def plTiers (w : Nat) : List Nat :=
  plHome w :: (match plSpill w with
    | 0 => []
    | 1 => [1]
    | 2 => [1, 2]
    | _ => [2])

/-- The next tier below a tier in a band's spill order. -/
def plNext (w tier : Nat) : Option Nat := ((plTiers w).dropWhile (· ≠ tier)).drop 1 |>.head?

/-- A plan entry is well formed (Table 08.2, R241). -/
def planOk (w : Nat) : Bool :=
  decide (plHome w ≤ 1 ∧ (plHome w = 1 → fld w 2 1 = 0 ∧ (plSpill w = 0 ∨ plSpill w = 3)) ∧ fld w 16 8 ≤ 254)

end Sys2Proof.Machine
end

