-- ==== Sys2Proof/Machine/Slots.lean ====
section
/-!
DEFINITION. Machine/Slots.lean: page slots and page-map runs: the reserve and the retirement list (R281 to R285), the
free lists of every tier (R232 to R236), quotas (R45), buddy allocation (R69) and freeing.
Where the spec does not say which of several free slots is taken, the lowest is (log entry 9).
-/

namespace Sys2Proof.Machine

/-! ## Class usage (R45) -/

/-- The usage register of a class in a quota tier. -/
def useReg (cls tier : Nat) : Nat :=
  match tier with
  | 0 => rCxUseGddr cls
  | 1 => rCxUseCxl cls
  | _ => rCxUseFlash cls

/-- The quota register of a class in a quota tier. -/
def quotaReg (cls tier : Nat) : Nat :=
  match tier with
  | 0 => rCxQuotaGddr cls
  | 1 => rCxQuotaCxl cls
  | _ => rCxQuotaFlash cls

def usage (s : State) (cls tier : Nat) : Nat := fld (regGet s (useReg cls tier)) 0 32
def quota (s : State) (cls tier : Nat) : Nat := fld (regGet s (quotaReg cls tier)) 0 32
def addUse (s : State) (cls tier k : Nat) : State := setF s (useReg cls tier) fCount (usage s cls tier + k)
def subUse (s : State) (cls tier k : Nat) : State := setF s (useReg cls tier) fCount (usage s cls tier - k)

/-- `k` allocations of one slot each are allowed: before each, usage is below the quota (R45). -/
def quotaRoom (s : State) (cls tier k : Nat) : Bool := decide (k = 0 ∨ usage s cls tier + k ≤ quota s cls tier)

/-! ## Retired granules and the reserve -/

/-- Channel-local base of the narrow parts. -/
def narrowBase (s : State) : Nat := 2 ^ 30 - narrowShare s / 4

/-- The wide-pool NPA of a retired granule that lies in the wide part. -/
def granuleNpa (s : State) (g : Nat) : Option Nat :=
  if 4096 * (g % 2 ^ 18) < narrowBase s then some (wideNpa (g / 2 ^ 18) (4096 * (g % 2 ^ 18))) else none

/-- The wide-pool bytes [a, a + 16,896) touch a retired granule. -/
def touchesWide (s : State) (a : Nat) : Bool :=
  s.tn.granules.any fun g =>
    match granuleNpa s g with
    | some n => decide (a < n + 4096 ∧ n < a + slotBytes)
    | none => false

def slotRegionBase (s : State) : Nat := 4096 * getF s rTmSlotBase fTmSlotBaseBase
def slotRegionCount (s : State) : Nat := getF s rTmSlotCount fTmSlotCountCount

/-- Slots of the slot region that lie wholly below the wide reserve (R232, R259). -/
def ordinaryWide (s : State) : Nat :=
  min (slotRegionCount s) ((reserveBase s - slotRegionBase s) / slotBytes)

/-- NPA of slot k of the slot region (R232). -/
def wideSlot (s : State) (k : Nat) : Nat := slotRegionBase s + slotBytes * k

/-- Slots of the slot region that touch a retired granule (R283). -/
def wideWithheld (s : State) : List Nat :=
  let b := slotRegionBase s
  ((s.tn.granules.flatMap fun g =>
      match granuleNpa s g with
      | some n => if n + 4095 < b then [] else [(n - b) / slotBytes, (n + 4095 - b) / slotBytes]
      | none => []).eraseDups).filter fun k => decide (k < ordinaryWide s ∧ touchesWide s (wideSlot s k) = true)

/-- Base and count of the wide replacement slots (R282). -/
def wideReplBase (s : State) : Nat := reserveBase s + 2 ^ 19 * (2081 * (remaps s).length)
def wideReplCount (s : State) : Nat := (wideSize s - wideReplBase s) / slotBytes

/-- The NPAs of the wide replacement slots in service: one per slot withheld, the lowest that are not themselves
withheld (R283). -/
def wideInService (s : State) : List Nat :=
  let n := (wideWithheld s).length
  let m := min (wideReplCount s) (n + 2 * s.tn.granules.length)
  if n = 0 then []
  else (((List.range m).map fun k => wideReplBase s + slotBytes * k).filter fun a => !(touchesWide s a)).take n

/-- Slot positions of a narrow share, S (R281). -/
def narrowSlots (s : State) : Nat := narrowShare s / slotBytes
/-- Positions below the narrow reserve. -/
def ordinaryNarrow (s : State) : Nat := narrowSlots s - ceilDiv (narrowSlots s) 25

/-- Position k of device d touches a retired granule (R283): it spans 4,224 bytes of each of its channels. -/
def touchesNarrow (s : State) (d k : Nat) : Bool :=
  s.tn.granules.any fun g =>
    let l := 4096 * (g % 2 ^ 18)
    let a := narrowBase s + 4224 * k
    decide (g / 2 ^ 18 / 4 = d ∧ narrowBase s ≤ l ∧ a < l + 4096 ∧ l < a + 4224)

/-- Positions of device d that touch a retired granule. -/
def narrowWithheldAll (s : State) (d : Nat) : List Nat :=
  ((s.tn.granules.flatMap fun g =>
      let l := 4096 * (g % 2 ^ 18)
      if g / 2 ^ 18 / 4 = d ∧ narrowBase s ≤ l then [(l - narrowBase s) / 4224, (l + 4095 - narrowBase s) / 4224]
      else []).eraseDups).filter fun k => decide (k < narrowSlots s)

def narrowWithheld (s : State) (d : Nat) : List Nat :=
  (narrowWithheldAll s d).filter fun k => decide (k < ordinaryNarrow s)

/-- The replacement positions of device d in service (R283). -/
def narrowInService (s : State) (d : Nat) : List Nat :=
  let n := (narrowWithheld s d).length
  let m := min (narrowSlots s - ordinaryNarrow s) (n + 2 * s.tn.granules.length)
  if n = 0 then []
  else (((List.range m).map (ordinaryNarrow s + ·)).filter fun k => !(touchesNarrow s d k)).take n

/-- A slot is withheld (R283, R285). -/
def withheld (s : State) (h : Nat) : Bool :=
  if hTier h = 0 then touchesWide s (hLoc h)
  else if hTier h = 1 then touchesNarrow s (fld h 32 5) (fld h 0 32 / slotBytes)
  else if hTier h = 4 then s.tm.retired.contains (mkFlash (fDrive h) 0 (fExtent h))
  else s.tm.retired.contains h

def mkNarrow (d k : Nat) : Nat := mkHandle 1 (2 ^ 32 * d + slotBytes * k)

/-- Replacement slots that can still come into service (R282). -/
def wideLeft (s : State) : Nat :=
  wideReplCount s - (wideInService s).length
    - ((s.tn.granules.flatMap fun g =>
        match granuleNpa s g with
        | some n =>
          if n + 4095 < wideReplBase s then []
          else [(n - wideReplBase s) / slotBytes, (n + 4095 - wideReplBase s) / slotBytes]
        | none => []).eraseDups.filter fun k =>
          decide (k < wideReplCount s ∧ touchesWide s (wideReplBase s + slotBytes * k) = true)).length

def narrowLeftOf (s : State) (d : Nat) : Nat :=
  narrowSlots s - ordinaryNarrow s - (narrowInService s d).length
    - ((narrowWithheldAll s d).filter fun k => decide (ordinaryNarrow s ≤ k)).length

def narrowLeft (s : State) : Nat := sumOf ((List.range 32).map (narrowLeftOf s))

/-! ## Free slots -/

/-- The least k from `k` on, among `fuel` candidates, that is free. -/
def firstFree (p : Nat → Bool) : Nat → Nat → Option Nat
  | 0, _ => none
  | fuel + 1, k => if p k then some k else firstFree p fuel (k + 1)

def taken (s : State) (h : Nat) : Bool := (mapGet s.pm.slots h).isSome

/-- Allocated slots of a tier code. -/
def allocatedIn (s : State) (tier : Nat) : List Nat := (s.pm.slots.map (·.1)).filter fun h => hTier h == tier

/-- Free slots of the wide pool (R249, Table 08.12). -/
def wideFree (s : State) : Nat :=
  ordinaryWide s - (wideWithheld s).length + (wideInService s).length
    - ((allocatedIn s 0).filter fun h => !(withheld s h)).length

/-- The lowest free wide slot. -/
def lowestWide (s : State) : Option Nat :=
  let fuel := min (ordinaryWide s) ((allocatedIn s 0).length + (wideWithheld s).length + 1)
  match firstFree (fun k => !(taken s (wideSlot s k)) && !(touchesWide s (wideSlot s k))) fuel 0 with
  | some k => some (wideSlot s k)
  | none => (wideInService s).find? fun a => !(taken s a)

/-- Allocated slots of device d that are not withheld. -/
def narrowTaken (s : State) (d : Nat) : Nat :=
  ((allocatedIn s 1).filter fun h => fld h 32 5 == d && !(withheld s h)).length

/-- Free narrow slots of device d. -/
def narrowFreeOf (s : State) (d : Nat) : Nat :=
  ordinaryNarrow s - (narrowWithheld s d).length + (narrowInService s d).length - narrowTaken s d

def narrowFree (s : State) : Nat := sumOf ((List.range 32).map (narrowFreeOf s))

/-- The lowest free position of device d. -/
def lowestNarrow (s : State) (d : Nat) : Option Nat :=
  let fuel := min (ordinaryNarrow s) ((allocatedIn s 1).length + (narrowWithheld s d).length + 1)
  match firstFree (fun k => !(taken s (mkNarrow d k)) && !(touchesNarrow s d k)) fuel 0 with
  | some k => some (mkNarrow d k)
  | none => ((narrowInService s d).map (mkNarrow d)).find? fun h => !(taken s h)

def mkCxl (link k : Nat) : Nat := mkHandle (2 + link / 4) (2 ^ 35 * (link % 4) + 132 * k)

/-- Allocated or retired slots of CXL link `l`. -/
def cxlBusy (s : State) (l : Nat) : Nat :=
  (s.pm.slots.filter fun (h, _) => (hTier h == 2 || hTier h == 3) && hLink h == l).length
    + (s.tm.retired.filter fun h => (hTier h == 2 || hTier h == 3) && hLink h == l && !(taken s h)).length

/-- Free CXL slots of link `l`. -/
def cxlFreeOf (s : State) (l : Nat) : Nat := if cxlAttached s l then linkSlots s l - cxlBusy s l else 0

def cxlFree (s : State) : Nat := sumOf ((List.range 8).map (cxlFreeOf s))

/-- The lowest free CXL slot: the first link with one, a link that is up before one that is down (log entry 9). -/
def lowestCxl (s : State) : Option Nat :=
  match ((List.range 8).find? fun l => decide (0 < cxlFreeOf s l) && (mapGet s.tm.down l).isNone).orElse fun _ =>
      (List.range 8).find? fun l => decide (0 < cxlFreeOf s l) with
  | none => none
  | some l =>
    (firstFree (fun k => !(taken s (mkCxl l k)) && !(s.tm.retired.contains (mkCxl l k)))
      (min (linkSlots s l) (cxlBusy s l + 1)) 0).map (mkCxl l)

/-- An extent of a drive is free. -/
def extentFree (s : State) (d e : Nat) : Bool :=
  (mapGet s.tm.extents (extKey d e)).isNone && !(s.tm.retired.contains (mkFlash d 0 e))
    && !(s.tm.buffers.any fun (_, b) => b.drive == d && b.extent == e)

/-- Extents of a drive that are written, held by a buffer or retired. -/
def extentsBusy (s : State) (d : Nat) : Nat :=
  (s.tm.extents.filter fun (k, _) => k / 2 ^ 29 == d).length + (s.tm.buffers.filter fun (_, b) => b.drive == d).length
    + (s.tm.retired.filter fun h => hTier h == 4 && fDrive h == d
        && (mapGet s.tm.extents (extKey d (fExtent h))).isNone
        && !(s.tm.buffers.any fun (_, b) => b.drive == d && b.extent == fExtent h)).length

def extentsFreeOf (s : State) (d : Nat) : Nat := driveExtents s d - extentsBusy s d

def extentsFree (s : State) : Nat := sumOf ((List.range 8).map (extentsFreeOf s))

/-- The lowest free extent of a drive. -/
def lowestExtent (s : State) (d : Nat) : Option Nat :=
  firstFree (extentFree s d) (min (driveExtents s d) (extentsBusy s d + 1)) 0

/-! ## Taking and freeing slots -/

/-- Take a slot for a context of a class: it is being written, and the class's usage rises (R45, R74). -/
def takeSlot (s : State) (h ctx cls : Nat) : State :=
  addUse { s with pm := { s.pm with slots := mapPut s.pm.slots h ⟨ctx, cls, .writing, false⟩ } } cls (hQuota h) 1

/-- Why an allocation is refused: the quota, or no free slot. -/
inductive AllocFail where
  | quota
  | noSlot
deriving DecidableEq, Repr

/-- Take the slot found, then the rest; no slot found is no room. -/
def andTake (found : Option Nat) (rest : Nat → Except AllocFail (List Nat × State)) : Except AllocFail (List Nat × State) :=
  match found with
  | none => .error .noSlot
  | some h =>
    match rest h with
    | .ok (hs, s) => .ok (h :: hs, s)
    | .error e => .error e

/-- Take `k` wide slots. -/
def takeWide (s : State) (ctx cls : Nat) : Nat → Except AllocFail (List Nat × State)
  | 0 => .ok ([], s)
  | k + 1 => andTake (lowestWide s) fun h => takeWide (takeSlot s h ctx cls) ctx cls k

/-- Take `k` slots of narrow device d. -/
def takeNarrow (s : State) (d ctx cls : Nat) : Nat → Except AllocFail (List Nat × State)
  | 0 => .ok ([], s)
  | k + 1 => andTake (lowestNarrow s d) fun h => takeNarrow (takeSlot s h ctx cls) d ctx cls k

/-- Take `k` CXL slots. -/
def takeCxl (s : State) (ctx cls : Nat) : Nat → Except AllocFail (List Nat × State)
  | 0 => .ok ([], s)
  | k + 1 => andTake (lowestCxl s) fun h => takeCxl (takeSlot s h ctx cls) ctx cls k

/-- Take the `k` GDDR7 slots of one page in the pool its plan names: the preferred device first, then the next, then
the wide pool with `NARROW_FULL` (R233); a pool without a free slot sets `POOL_FULL` (R249). The error keeps the state
with that flag. -/
def takeGddr (s : State) (ctx cls k : Nat) (narrow : Bool) (prefer : Nat) : Except State (List Nat × State) :=
  let wide (s : State) : Except State (List Nat × State) :=
    match takeWide s ctx cls k with
    | .ok r => .ok r
    | .error _ => .error (raise1 s 14 fTmEventPoolFull)
  if narrow then
    match ((List.range 32).map fun i => (prefer + i) % 32).find? fun d => decide (k ≤ narrowFreeOf s d) with
    | some d =>
      match takeNarrow s d ctx cls k with
      | .ok r => .ok r
      | .error _ => wide (raise1 s 14 fTmEventNarrowFull)
    | none => wide (raise1 s 14 fTmEventNarrowFull)
  else wide s

/-- The preferred narrow device of a page (R233). -/
def preferDevice (n heads kv layer : Nat) : Nat := (n * heads + kv + layer) % 32

/-- A freed flash position; an extent with no live position is deallocated and returns to the drive, unless it is retired
(R235, R285); one freed by compaction sets `COMPACT` (R254). -/
def freeFlash (s : State) (h : Nat) : State :=
  let key := extKey (fDrive h) (fExtent h)
  let live := ((mapGet s.tm.extents key).getD []).erase (fPosn h)
  let s := { s with tm := { s.tm with flash := mapDel s.tm.flash h, staged := mapDel s.tm.staged h } }
  match mapGet s.tm.extents key with
  | none => s
  | some _ =>
    if live = [] then
      let s := if s.tm.compacting.contains key then raise1 s 14 fTmEventCompact else s
      emit { s with tm := { s.tm with extents := mapDel s.tm.extents key, compacting := s.tm.compacting.erase key } }
        (.driveDealloc (fDrive h) (fExtent h))
    else { s with tm := { s.tm with extents := mapPut s.tm.extents key live } }

/-- A slot returns to its free list. -/
def freeSlot (s : State) (h : Nat) : State :=
  let s := { s with pm := { s.pm with slots := mapDel s.pm.slots h } }
  if hQuota h = 2 then freeFlash s h
  else if hQuota h = 1 then { s with tm := { s.tm with cxl := mapDel s.tm.cxl h } }
  else s

/-- Undo an allocation that no map reaches: the slots are freed and the usage taken for them falls. -/
def untakeSlots (s : State) (cls : Nat) (hs : List Nat) : State :=
  hs.foldl (fun s h => subUse (freeSlot s h) cls (hQuota h) 1) s

/-- The tier mover may choose the page of these slots: none of its moves has failed a check (R245). -/
def mayChoose (s : State) (hs : List Nat) : Bool :=
  hs.all fun h => match mapGet s.pm.slots h with
    | some x => !x.failed
    | none => true

/-- A move of the page of these slots failed a check, which bars each of its parts (R245). -/
def barMoves (s : State) (hs : List Nat) : State :=
  { s with pm := { s.pm with slots := hs.foldl (fun l h => mapAdj l h fun x => { x with failed := true }) s.pm.slots } }

def setUse (s : State) (h : Nat) (u : SlotUse) : State :=
  { s with pm := { s.pm with slots := mapAdj s.pm.slots h fun x => { x with use := u } } }

/-! ## The page-map pool -/

def poolBase (s : State) : Nat := 4096 * getF s rPmPoolBase fPmPoolBaseBase
def poolBlocks (s : State) : Nat := getF s rPmPoolSize fPmPoolSizeBlocks

/-- Free blocks of the pool (Table 03.11). -/
def poolFree (s : State) : Nat := poolBlocks s - sumOf (s.pm.runs.map fun r => 2 ^ r.2)

/-- The lowest naturally aligned group of 2^k blocks that no run overlaps; alignment is counted in blocks from `PM_POOL_BASE`
(log entry 196). -/
def lowestRun (runs : NMap Nat) (k : Nat) : Nat :=
  runs.foldl (fun p (b, l) => if b < p + 2 ^ k ∧ p < b + 2 ^ l then ceilDiv (b + 2 ^ l) (2 ^ k) * 2 ^ k else p) 0

/-- Allocate 2^k blocks (R69): the block index and the state, or the pool is empty of such a group. -/
def takeRun (s : State) (k : Nat) : Option (Nat × State) :=
  let b := lowestRun s.pm.runs k
  if b + 2 ^ k ≤ poolBlocks s then some (b, { s with pm := { s.pm with runs := mapPut s.pm.runs b k } }) else none

/-- A run returns to the pool; its blocks leave the Map cache. -/
def freeRun (s : State) (b : Nat) : State :=
  let a := poolBase s + 4096 * b
  let n := 4096 * 2 ^ (mapGet s.pm.runs b).getD 0
  { s with pm := { s.pm with runs := mapDel s.pm.runs b,
                             cache := s.pm.cache.filter fun l => !(l.data.isEmpty && decide (a ≤ l.addr ∧ l.addr < a + n)) } }

/-- The block index of an NPA in the pool. -/
def blockOf (s : State) (a : Nat) : Nat := (a - poolBase s) / 4096

end Sys2Proof.Machine
end

