-- ==== Sys2Proof/Machine/Maps.lean ====
section
/-!
DEFINITION. Machine/Maps.lean: the context table (R22 to R28), shard sets (R42), page maps (R64 to R68), walkers (R72),
edits and deferred freeing (R70, R74, R75), and the Map cache (R200).
-/

namespace Sys2Proof.Machine

/-! ## Context descriptors -/

def ctxBase (s : State) : Nat := 2 ^ 27 * getF s rCxTableBase fCxTableBaseBase
def ctxAddr (s : State) (i : Nat) : Nat := ctxBase s + 128 * i
/-- The descriptor of a context as GDDR7 holds it. -/
def ctxStored (s : State) (i : Nat) : Bytes := readMem s (ctxAddr s i) 128

/-! ### The Map cache (R200; log entry 14) -/

/-- The copy of a context's descriptor that the Map cache holds, in whichever way. -/
def ctxCopy (s : State) (i : Nat) : Option Bytes :=
  (s.pm.cache.find? fun l => l.addr == ctxAddr s i && !l.data.isEmpty).map (·.data)

/-- Bytes that a line takes of its way: a descriptor's 128, or a page-map block's 4 KiB. -/
def MapLine.size (l : MapLine) : Nat := if l.data.isEmpty then 4096 else 128

/-- Bytes of a way that lines take. -/
def wayUsed (ls : List MapLine) (w : Nat) : Nat := sumOf ((ls.filter fun l => l.way == w).map MapLine.size)

/-- Bytes of a way. -/
def mapWayBytes : Nat := 2 ^ 22

/-- The oldest lines of way `w` leave until `n` bytes fit there. -/
def makeWay (w n : Nat) : List MapLine → List MapLine
  | [] => []
  | l :: ls =>
    if wayUsed (l :: ls) w + n ≤ mapWayBytes then l :: ls
    else if l.way = w then makeWay w n ls else l :: makeWay w n ls

/-- The ways that a class fills. -/
def mapWays (s : State) (cls : Nat) : List Nat :=
  (List.range 16).filter fun w => decide (fld (getF s (rAcClassWays cls) fAcClassWaysMapc) w 1 = 1)

/-- A line is filled into a way of its class, unless a way holds it: the lowest with room, else the lowest.  A class without
ways fills none. -/
def fillLine (s : State) (cls a : Nat) (data : Bytes) : State :=
  let n := MapLine.size ⟨a, 0, data⟩
  match mapWays s cls with
  | [] => s
  | w0 :: ws =>
    if s.pm.cache.any fun l => l.addr == a && l.data.isEmpty == data.isEmpty then s
    else
      let w := ((w0 :: ws).find? fun w => decide (wayUsed s.pm.cache w + n ≤ mapWayBytes)).getD w0
      { s with pm := { s.pm with cache := makeWay w n s.pm.cache ++ [⟨a, w, data⟩] } }

/-- The descriptor of a context as the node uses it: the Map cache's copy where it holds one. -/
def ctxBytes (s : State) (i : Nat) : Bytes := (ctxCopy s i).getD (ctxStored s i)

/-- The class a context is counted in. -/
def ctxClass (s : State) (ctx : Nat) : Nat :=
  match mapGet s.cx.open_ ctx with
  | some a => a.cls
  | none => 0

/-- The descriptor of a context that is not `FREE` is filled (R28, R200). -/
def fillCtx (s : State) (i : Nat) : State :=
  if (mapGet s.cx.open_ i).isSome then fillLine s (ctxClass s i) (ctxAddr s i) (ctxStored s i) else s

/-- A descriptor with its check (R25). -/
def sealDesc (d : Bytes) : Bytes := let b := padTo 0x7E d; b ++ natLe 2 (crc16 b)

def descOk (d : Bytes) : Bool := decide (num d 0x7E 2 = crc16 (d.take 0x7E))

/-- A descriptor is written, in GDDR7 and in the copy that the Map cache holds. -/
def writeCtx (s : State) (i : Nat) (d : Bytes) : State :=
  let put (l : MapLine) : MapLine := if l.addr = ctxAddr s i ∧ l.data.isEmpty = false then { l with data := sealDesc d } else l
  writeMem { s with pm := { s.pm with cache := s.pm.cache.map put } } (ctxAddr s i) (sealDesc d)

/-- The context's descriptor has failed its check since it was opened (R28). -/
def ctxBad (s : State) (i : Nat) : Bool :=
  match mapGet s.cx.open_ i with
  | some a => a.bad
  | none => false

/-- The descriptor is a copy that passed its check, or passes it and has not failed it before (R28). -/
def ctxGood (s : State) (i : Nat) : Bool := (ctxCopy s i).isSome || (descOk (ctxStored s i) && !(ctxBad s i))

/-- Change a descriptor in place; one that fails its check is not written, since its fields cannot be trusted (R28). -/
def updCtx (s : State) (i : Nat) (f : Bytes → Bytes) : State :=
  if ctxGood s i then writeCtx s i (f (ctxBytes s i)) else s

/-- The descriptor of a context has failed its check (R28). -/
def markCtx (s : State) (i : Nat) : State :=
  { s with cx := { s.cx with open_ := mapAdj s.cx.open_ i fun a => { a with bad := true } } }

/-- Why the descriptor of a context cannot be used: the Map cache holds no copy, and its BBD is out of service or the fill fails
its check, now or before (R28, R161). -/
def descFault (s : State) (i source : Nat) : Option Failure :=
  let a := ctxAddr s i
  let d := ctxStored s i
  if (ctxCopy s i).isSome then none
  else if !(bbdUp s (bbdAt s a)) then
    some { cause := 10, source := source, ctx := some (i, 0, 0, 0), channel := some (place s a).1, handle := a }
  else if descOk d && !(ctxBad s i) then none
  else
    some { cause := 4, source := source, ctx := some (i, 0, 0, 0), channel := some (place s a).1, handle := a,
           stored := num d 0x7E 2, computed := crc16 (d.take 0x7E) }

/-- A descriptor that fails its check sets its flag and is logged, and later reads fail (R28). -/
def descFailed (s : State) (i : Nat) (f : Failure) : State :=
  if f.cause = 10 then logFailure s f else logFailure (raise1 (markCtx s i) 2 fCxEventDescCheck) f

/-- Read a descriptor through the Map cache: a fill is checked (R28, R200). -/
def readCtx (s : State) (i source : Nat) : Except State (Bytes × State) :=
  match descFault s i source with
  | some f => .error (descFailed s i f)
  | none => .ok (ctxBytes s i, fillCtx s i)

def setDState (d : Bytes) (v : Nat) : Bytes := putF d 0 0 4 v
def setDEnd (d : Bytes) (v : Nat) : Bytes := putF d 0x18 0 32 v
def setDGen (d : Bytes) (v : Nat) : Bytes := putF d 0x1C 0 32 v
def setDLast (d : Bytes) (v : Nat) : Bytes := putF d 0x38 0 64 v
def setDInFlight (d : Bytes) (v : Nat) : Bytes := putF d 0x40 0 16 v

/-- The page count of a quota tier in a descriptor. -/
def dPages (d : Bytes) (tier : Nat) : Nat := num d (0x28 + 4 * tier) 4
def setDPages (d : Bytes) (tier v : Nat) : Bytes := putF d (0x28 + 4 * tier) 0 32 v
def setDDropped (d : Bytes) (v : Nat) : Bytes := putF d 0x34 0 32 v

/-- The state of a context, from the node's own record (log entry 8). -/
def auxState (s : State) (i : Nat) : Nat :=
  match mapGet s.cx.open_ i with
  | some a => a.state
  | none => 0

/-- Some context is in a state other than `FREE`. -/
def anyOpen (s : State) : Bool := !(s.cx.open_.isEmpty)

/-- Put a context in a state, in the descriptor and in the node's record; outside a park no page is held under R33. -/
def setCtxState (s : State) (i st : Nat) : State :=
  let put (a : CtxAux) : CtxAux := { a with state := st, kept := if st = 2 ∨ st = 3 then a.kept else [] }
  updCtx { s with cx := { s.cx with open_ := mapAdj s.cx.open_ i put } } i (setDState · st)

/-- A page of a context is held in GDDR7 under the exception of R33, by layer, KV head and local ordinal. -/
def keepPage (s : State) (i : Nat) (k : Nat × Nat × Nat) : State :=
  let put (a : CtxAux) : CtxAux := if a.kept.contains k then a else { a with kept := a.kept ++ [k] }
  { s with cx := { s.cx with open_ := mapAdj s.cx.open_ i put } }

def keptPages (s : State) (i : Nat) : List (Nat × Nat × Nat) :=
  match mapGet s.cx.open_ i with
  | some a => a.kept
  | none => []

def setCtxOp (s : State) (i : Nat) (o : Option CtxOp) : State :=
  { s with cx := { s.cx with open_ := mapAdj s.cx.open_ i fun a => { a with op := o } } }

/-- The context table can be used: `CX_READY` is set (R480). -/
def tableReady (s : State) : Bool := getB s rPwStart fPwStartCxReady

/-- The table is zeroed at the base in force, which ends with CX_READY (R480). -/
def zeroTable (s : State) : State := zeroRange { s with cx := { s.cx with zeroing := true } } (ctxBase s) (2 ^ 27)

/-- The table is not ready and no zeroing runs: it is zeroed at the base in force (R480). -/
def startZeroing (s : State) : State := if tableReady s || s.cx.zeroing then s else zeroTable s

/-! ## Shard sets -/

def shardBase (s : State) : Nat := 4096 * getF s rCxShardBase fCxShardBaseBase
/-- Bytes of the shard-set table (Table 08.4). -/
def shardTableBytes : Nat := 8454144
def shardHeader (s : State) (set : Nat) : Nat := shardBase s + 4096 * 2048 + 16 * set
/-- W of a shard set (R42): 0 until the entry is written, whatever the bytes a reset left there (R37). -/
def setWidth (s : State) (set : Nat) : Nat :=
  if s.cx.sets.contains set then leNat (readMem s (shardHeader s set) 16) % 2048 else 0
/-- Node ID of a shard of a set (R42). -/
def setNode (s : State) (set shard : Nat) : Nat := leNat (readMem s (shardBase s + 2048 * set + 2 * shard) 2) % 4096
def setNodes (s : State) (set : Nat) : List Nat := (List.range (setWidth s set)).map (setNode s set)

/-- Write one entry of the shard-set table. -/
def writeSet (s : State) (set : Nat) (ids : List Nat) : State :=
  let s := { s with cx := { s.cx with sets := if s.cx.sets.contains set then s.cx.sets else s.cx.sets ++ [set] } }
  let s := writeMem s (shardBase s + 2048 * set) (padTo 2048 (ids.flatMap (natLe 2)))
  writeMem s (shardHeader s set) (natLe 16 ids.length)

/-- This node's ID. -/
def nodeId (s : State) : Nat := getF s rCfNodeId fCfNodeIdNodeId

/-! ## The regions of the wide pool (R259, Table 08.4) -/

/-- Two ranges of addresses share a byte. -/
def overlaps (a m b n : Nat) : Bool := decide (a < b + n ∧ b < a + m ∧ 0 < m ∧ 0 < n)

/-- The first four regions of Table 08.4: base and bytes. -/
def fixedRegions (s : State) : List (Nat × Nat) :=
  [(ctxBase s, 2 ^ 27), (shardBase s, shardTableBytes), (poolBase s, 4096 * poolBlocks s),
   (slotRegionBase s, slotBytes * slotRegionCount s)]

/-- The swap pool: base and bytes. -/
def swapRegion (s : State) : Nat × Nat :=
  (4096 * getF s rAcSaveBase fAcSaveBaseBase, 4096 * getF s rAcSaveSize fAcSaveSizeBlocks)

/-- The loaded resident model, when there is one. -/
def modelRegion (s : State) : List (Nat × Nat) :=
  if getB s rAcStatus fAcStatusRmLoaded then [(regGet s rAcRmBase, regGet s rAcRmSize)] else []

/-- Some two of the ranges overlap. -/
def anyOverlap : List (Nat × Nat) → Bool
  | [] => false
  | (a, m) :: rs => rs.any (fun (b, n) => overlaps a m b n) || anyOverlap rs

/-- The first four regions keep R259. -/
def regionsOk (s : State) : Bool :=
  let r := fixedRegions s
  !(anyOverlap r) && r.all fun (a, n) => decide (n = 0 ∨ a + n ≤ wideSize s)

/-! ## Locks of slots (R183, R184) -/

/-- A BAU holds the lock of a slot (R183). -/
def slotLocked (s : State) (h : Nat) : Bool := s.bb.bbd.any fun e => (mapGet e.2.locks h).isSome

/-- A node-die read waits on the locks of slots, from now when it did not before (R184). -/
def waitLocks (s : State) (who : LockReader) (hs : List Nat) : State :=
  let mark (l : Nat × List (LockReader × Nat)) : Nat × List (LockReader × Nat) :=
    if hs.contains l.1 && !(l.2.any fun r => r.1 == who) then (l.1, l.2 ++ [(who, s.time)]) else l
  { s with bb := { s.bb with bbd := s.bb.bbd.map fun (e : Nat × Bbd) => (e.1, { e.2 with locks := e.2.locks.map mark }) } }

/-- The locked slots that a run of node memory meets (R184). -/
def lockedIn (s : State) (a len : Nat) : List Nat :=
  (s.bb.bbd.flatMap fun e => e.2.locks.map (·.1)).filter fun h => overlaps a len (slotNpa s h) 16896

/-! ## Walkers and deferred frees -/

/-- Walkers of a context. -/
def walkersOf (s : State) (ctx : Nat) : List Walker := (s.pm.walkers.map (·.2)).filter fun w => w.ctx == ctx

/-- The proofread pass is reading the slot (R279). -/
def passReads (s : State) (w : FreeWhat) : Bool :=
  match s.pf.pass, w with
  | some p, .slot h => p.slot.any fun x => x.1 == h
  | _, _ => false

/-- A deferred free may be made (R74, R279). -/
def mayFree (s : State) (d : Deferred) : Bool :=
  !((walkersOf s d.ctx).any fun w => serialBefore 32 w.start d.gen) && !(passReads s d.what)

def freeOne (s : State) (w : FreeWhat) : State :=
  match w with
  | .slot h => freeSlot s h
  | .run b _ => freeRun s b

/-- Free every deferred free that may be freed (R74). -/
def freeDeferred (s : State) : State :=
  let (go, stay) := s.pm.deferred.partition fun d => mayFree s d
  go.foldl (fun s d => freeOne s d.what) { s with pm := { s.pm with deferred := stay } }

/-- Walker slots of the node (R72). -/
def walkerSlots : Nat := 4096

/-- A walker's work completes: its slot is released, and what it held back is freed (R72, R74). -/
def walkEnd (s : State) (id : Nat) : State :=
  freeDeferred { s with pm := { s.pm with walkers := mapDel s.pm.walkers id } }

def walkEnd? (s : State) (id : Option Nat) : State :=
  match id with
  | some k => walkEnd s k
  | none => s

/-- Work that finds every walker slot taken waits, from now when it did not before (R72). -/
def waitWalker (s : State) (o : WalkOwner) : State :=
  if s.pm.walkWait.any fun w => w.1 == o then s
  else { s with pm := { s.pm with walkWait := s.pm.walkWait ++ [(o, s.time)] } }

/-- Work waits for a walker slot no more: what it waited is counted (R72). -/
def leaveWalk (s : State) (o : WalkOwner) : State :=
  let s := (s.pm.walkWait.filter fun w => w.1 == o).foldl (fun s w => bumpR s rPmWaitWalker (elapsed s w.2)) s
  { s with pm := { s.pm with walkWait := s.pm.walkWait.filter fun w => w.1 != o } }

/-- Work whose edit waited goes on, or ends without it: what it waited is counted (R75). -/
def leaveEdit (s : State) (o : EditOwner) : State :=
  let s := (s.pm.editWait.filter fun w => w.1 == o).foldl (fun s w => bumpR s rPmWaitEdit (elapsed s w.2)) s
  { s with pm := { s.pm with editWait := s.pm.editWait.filter fun w => w.1 != o } }

/-! ## Reading a map (R64 to R67) -/

/-- A layer's run: log2 of its blocks and its base; or none; or a failing check. -/
inductive RunLook where
  | none
  | run (log2 base : Nat)
  | bad (f : Failure)
deriving DecidableEq, Repr

def entryAt (s : State) (a : Nat) : Nat := leNat (readMem s a 16)
def writeEntry (s : State) (a e : Nat) : State := writeMem s a (natLe 16 e)

/-- The failure of an entry at an address (R67). -/
def entryFailure (s : State) (cause source a e : Nat) (who : Nat × Nat × Nat × Nat) : Failure :=
  { cause := cause, source := source, ctx := some who, channel := some (place s a).1, handle := a,
    stored := if cause = 3 then eCrc e else 0, computed := if cause = 3 then eComputed e else 0 }

/-- Why an entry fails its check: its BBD is out of service, it failed before, or its check or content is wrong (R67). -/
def entryCause (s : State) (a e : Nat) (shape : Bool) : Option Nat :=
  if !(bbdUp s (bbdAt s a)) then some 10
  else
    match mapGet s.pm.bad a with
    | some (_, c) => some c
    | none => if eCrc e = eComputed e ∧ shape = true then none else some 3

/-- An entry of a context failed its check: it fails until the context is closed or its map rebuilt (R67). -/
def markEntry (s : State) (f : Failure) : State :=
  match f.ctx with
  | some (c, _) => { s with pm := { s.pm with bad := mapPut s.pm.bad f.handle (c, f.cause) } }
  | none => s

/-- A context's map is gone: so are its failing entries. -/
def forgetBad (s : State) (i : Nat) : State :=
  { s with pm := { s.pm with bad := s.pm.bad.filter fun (e : Nat × Nat × Nat) => e.2.1 != i } }

/-- A grown run takes the failing entries of the run it copies with it. -/
def moveBad (s : State) (old base len : Nat) : State :=
  let gone := s.pm.bad.filter fun (e : Nat × Nat × Nat) => decide (old ≤ e.1 ∧ e.1 < old + len)
  let s := { s with pm := { s.pm with bad := s.pm.bad.filter fun (e : Nat × Nat × Nat) => !(decide (old ≤ e.1 ∧ e.1 < old + len)) } }
  gone.foldl (fun s e => { s with pm := { s.pm with bad := mapPut s.pm.bad (base + (e.1 - old)) e.2 } }) s

/-- Read the root header and a layer's root entry through their checks. -/
def readRun (s : State) (source ctx : Nat) (d : Bytes) (layer : Nat) : RunLook :=
  let ha := dRoot d + 16 * 255
  let h := entryAt s ha
  let ra := dRoot d + 16 * layer
  let r := entryAt s ra
  match entryCause s ha h (rootHeaderShape h) with
  | some c => .bad (entryFailure s c source ha h (ctx, 0, 0, 0))
  | none =>
    match entryCause s ra r (rootShape r) with
    | some c => .bad (entryFailure s c source ra r (ctx, 0, layer, 0))
    | none => if fld r 0 1 = 0 then .none else .run (fld r 1 5) (4096 * fld r 12 28)

/-- The blocks of a context's map that a walk reads are filled (R200): the root block, and the blocks of the layer's run. -/
def fillWalk (s : State) (ctx : Nat) (d : Bytes) (layer : Option Nat) : State :=
  if (mapGet s.cx.open_ ctx).isNone then s
  else
    let s := fillLine s (ctxClass s ctx) (dRoot d) []
    match layer.map (readRun s 2 ctx d) with
    | some (.run log2 base) => (List.range (2 ^ log2)).foldl (fun s k => fillLine s (ctxClass s ctx) (base + 4096 * k) []) s
    | _ => s

/-- Start a walker over a layer, when one is named: a slot and the start generation (R72); `none` while every slot is taken. -/
def walkStart (s : State) (ctx : Nat) (layer : Option Nat) (o : WalkOwner) : Option (Nat × State) :=
  if s.pm.walkers.length < walkerSlots then
    let id := mapFresh s.pm.walkers 0
    let d := ctxBytes s ctx
    let s := fillWalk s ctx d layer
    some (id, { s with pm := { s.pm with walkers := mapPut s.pm.walkers id ⟨ctx, dGen d, o⟩ } })
  else none

/-- The entry index of a head part at a local ordinal (R66). -/
def entryIndex (d : Bytes) (n hpart : Nat) : Nat := n * dHp d + hpart

/-- The address of a page entry, when the run covers it. -/
def entryAddr (log2 base e : Nat) : Option Nat := if e / 256 < 2 ^ log2 then some (base + 16 * e) else none

/-- First position of a local ordinal on this node. -/
def firstPos (d : Bytes) (n : Nat) : Nat := dP d * (n * dW d + dIndex d)

/-- One page entry through its checks: its address and word, `none` where no run covers it. -/
inductive EntryLook where
  | uncovered
  | entry (addr e : Nat)
  | bad (f : Failure)
deriving DecidableEq, Repr

def readEntry (s : State) (source ctx : Nat) (d : Bytes) (layer n hpart : Nat) : EntryLook :=
  match readRun s source ctx d layer with
  | .bad f => .bad f
  | .none => .uncovered
  | .run log2 base =>
    match entryAddr log2 base (entryIndex d n hpart) with
    | none => .uncovered
    | some a =>
      let e := entryAt s a
      let who := (ctx, hpart / dParts d, layer, firstPos d n)
      match entryCause s a e (entryShape e (dP d)) with
      | some c => .bad (entryFailure s c source a e who)
      | none =>
        if eState e = 1 ∧ handleBad s (eHandle e) = true then .bad (entryFailure s 8 source a e who)
        else .entry a e

/-- A page, all head parts of one KV head, as a walker sees it (R498). -/
inductive PageLook where
  | absent
  | dropped (valid : Nat)
  | present (handles : List Nat) (owner valid : Nat)
  | bad (f : Failure)
  /-- The parts show different `GEN` values: an edit is still writing them, and the walker reads them again. -/
  | unsettled
deriving DecidableEq, Repr

/-- Read the entries of the parts `hpart`, `hpart + 1`, …, `k` of them. -/
def readParts (s : State) (source ctx : Nat) (d : Bytes) (layer n hpart : Nat) : Nat → Except Failure (List (Option (Nat × Nat)))
  | 0 => .ok []
  | k + 1 =>
    match readEntry s source ctx d layer n hpart with
    | .bad f => .error f
    | .uncovered =>
      match readParts s source ctx d layer n (hpart + 1) k with
      | .ok r => .ok (none :: r)
      | .error f => .error f
    | .entry a e =>
      match readParts s source ctx d layer n (hpart + 1) k with
      | .ok r => .ok (some (a, e) :: r)
      | .error f => .error f

/-- The least of a list of numbers, `z` for an empty one. -/
def leastOf (z : Nat) : List Nat → Nat
  | [] => z
  | [x] => x
  | x :: xs => min x (leastOf z xs)

/-- Read a page (R498): a part beyond the run is `ABSENT` (R66), and parts with different `STATE` values fail like an entry
check. -/
def readPage (s : State) (source ctx : Nat) (d : Bytes) (layer kv n : Nat) : PageLook :=
  let h0 := kv * dParts d
  match readParts s source ctx d layer n h0 (dParts d) with
  | .error f => .bad f
  | .ok ps =>
    let es := ps.filterMap id
    match es with
    | [] => .absent
    | (a, e) :: _ =>
      if es.any (fun (_, x) => eGen x != eGen e) then .unsettled
      else if es.any (fun (_, x) => eState x != eState e) ∨ eState e ≠ 0 ∧ es.length ≠ ps.length then
        .bad (entryFailure s 3 source a e (ctx, kv, layer, firstPos d n))
      else if eState e = 0 then .absent
      else if eState e = 2 then .dropped (eValid e)
      else .present (es.map fun (_, x) => eHandle x) (eOwner e) (leastOf 0 (es.map fun (_, x) => eValid x))

/-- A failing read of an entry, or of the descriptor before it: the flag and the log, and it fails from now on (R28, R67). -/
def entryFailed (s : State) (f : Failure) : State :=
  if f.cause = 10 then logFailure s f
  else if f.cause = 4 then descFailed s (f.ctx.getD (0, 0, 0, 0)).1 f
  else logFailure (raise1 (markEntry s f) 3 fPmEventEntryCheck) f

/-! ## Edits (R70, R74, R75) -/

/-- One change of an edit: the entry's address and its new value without `GEN`. -/
structure Change where
  addr   : Nat
  handle : Nat
  state  : Nat
  owner  : Nat
  valid  : Nat
deriving DecidableEq, Repr

inductive EditRes where
  | done (s : State)
  /-- R75: the queue is full, or (`true`) the generation distance. -/
  | wait (gen : Bool)
  | bad (f : Failure)
deriving Repr

/-- An old entry fails its check before an edit (R67). -/
def badOld (s : State) (source ctx : Nat) (d : Bytes) (c : Change) : Option Failure :=
  let e := entryAt s c.addr
  match entryCause s c.addr e (entryShape e (dP d)) with
  | some k => some (entryFailure s k source c.addr e (ctx, 0, 0, 0))
  | none =>
    if eState e = 1 ∧ handleBad s (eHandle e) = true then some (entryFailure s 8 source c.addr e (ctx, 0, 0, 0))
    else none

/-- The old home that a change displaces. -/
def displaced (s : State) (c : Change) : Option Nat :=
  let e := entryAt s c.addr
  if eState e = 1 ∧ (c.state ≠ 1 ∨ eHandle e ≠ c.handle) then some (eHandle e) else none

/-- Write one change at a generation: the entry, the deferral of a displaced home, the class usage of the old home and
the descriptor's page counts (R74). -/
def writeChange (ctx cls g : Nat) (s : State) (c : Change) : State :=
  let e := entryAt s c.addr
  let newHome := c.state = 1 ∧ (eState e ≠ 1 ∨ eHandle e ≠ c.handle)
  let out := displaced s c
  let s := writeEntry s c.addr (mkEntry c.handle c.state c.owner c.valid g)
  let s := if newHome then
      setUse (updCtx s ctx fun d => setDPages d (hQuota c.handle) (dPages d (hQuota c.handle) + 1)) c.handle .home
    else s
  let s := match out with
    | some h =>
      let s := subUse s cls (hQuota h) 1
      let s := setUse (updCtx s ctx fun d => setDPages d (hQuota h) (dPages d (hQuota h) - 1)) h .deferred
      { s with pm := { s.pm with deferred := s.pm.deferred ++ [⟨ctx, g, .slot h⟩] } }
    | none => s
  let s := if c.state = 2 ∧ eState e ≠ 2 then updCtx s ctx fun d => setDDropped d (dDropped d + 1) else s
  if c.state ≠ 2 ∧ eState e = 2 then updCtx s ctx fun d => setDDropped d (dDropped d - 1) else s

/-- Records the deferred-free queue holds (R75). -/
def deferredMax : Nat := 65536

/-- An edit must wait under R75: `some true` for the generation distance. -/
def editWaits (s : State) (ctx g k : Nat) : Option Bool :=
  if deferredMax < s.pm.deferred.length + k then some false
  else if (walkersOf s ctx).any fun w => decide (2 ^ 31 ≤ (g + 2 ^ 32 - w.start) % 2 ^ 32) then some true
  else none

/-- One edit of a context: the descriptor and every old entry are read first, then the changes are written at the new
generation, then `PM_GEN` rises (R28, R67, R70, R74). -/
def edit (s : State) (source ctx cls : Nat) (cs : List Change) : EditRes :=
  let d := ctxBytes s ctx
  let g := (dGen d + 1) % 2 ^ 32
  match (descFault s ctx source).orElse fun _ => cs.findSome? (badOld s source ctx d) with
  | some f => .bad f
  | none =>
    match editWaits s ctx g (cs.filterMap (displaced s)).length with
    | some w => .wait w
    | none => .done (freeDeferred (updCtx (cs.foldl (writeChange ctx cls g) s) ctx (setDGen · g)))

/-- Set the flag of an edit that waits on the generation distance (R75). -/
def editStalled (s : State) (gen : Bool) : State := if gen then raise1 s 3 fPmEventGenStall else s

/-- An edit that waits under R75 is recorded once. -/
def waitEdit (s : State) (o : EditOwner) (gen : Bool) : State :=
  let s := editStalled s gen
  if s.pm.editWait.any fun w => w.1 == o then s
  else { s with pm := { s.pm with editWait := s.pm.editWait ++ [(o, s.time)] } }

/-- The least k ≤ `fuel` with `n` ≤ 2^k. -/
def coverLog (n : Nat) : Nat → Nat → Nat
  | 0, k => k
  | fuel + 1, k => if n ≤ 2 ^ k then k else coverLog n fuel (k + 1)

inductive GrowRes where
  | done (s : State)
  | full (s : State)
  | wait (gen : Bool)
  | bad (f : Failure)
deriving Repr

/-- The blocks that cover entry index `e` are written to hold a layer's run, copied from its old one, and the root's entry
names them, in one edit (R68). -/
def writeRun (s : State) (ctx layer g : Nat) (old : Option (Nat × Nat)) (root k b : Nat) : State :=
  let base := poolBase s + 4096 * b
  let bytes := match old with
    | some (ob, ol) => readMem s ob (4096 * 2 ^ ol)
    | none => []
  let s := zeroRange s base (4096 * 2 ^ k)
  let s := writeMem s base bytes
  let s := writeEntry s (root + 16 * layer) (mkRootEntry k base g)
  let s := match old with
    | some (ob, ol) =>
      let s := moveBad s ob base (4096 * 2 ^ ol)
      { s with pm := { s.pm with deferred := s.pm.deferred ++ [⟨ctx, g, .run (blockOf s ob) ol⟩] } }
    | none => s
  freeDeferred (updCtx s ctx (setDGen · g))

/-- The first of 2^k blocks of the pool that lies in a BBD out of service, and cannot be written (R161). -/
def blocksOut (s : State) (b k : Nat) : Option Nat :=
  if getF s rGsStatus fGsStatusBbdOut = 0 then none
  else ((List.range (2 ^ k)).map fun j => poolBase s + 4096 * (b + j)).find? fun a => !(bbdUp s (bbdAt s a))

/-- Grow a layer's run from the run it has; a pool without room sets `POOL_EMPTY` (R69). -/
def growFrom (s : State) (source ctx layer e : Nat) (d : Bytes) (old : Option (Nat × Nat)) : GrowRes :=
  let g := (dGen d + 1) % 2 ^ 32
  match editWaits s ctx g (if old.isSome then 1 else 0) with
  | some w => .wait w
  | none =>
    let k := coverLog (e / 256 + 1) 18 0
    match takeRun s k with
    | none => .full (raise1 s 3 fPmEventPoolEmpty)
    | some (b, t) =>
      match blocksOut s b k with
      | some a => .bad { cause := 10, source := source, ctx := some (ctx, 0, layer, 0), channel := some (place s a).1, handle := a }
      | none => .done (writeRun t ctx layer g old (dRoot d) k b)

/-- Grow a layer's run to cover an entry index, in one edit (R68). -/
def growRun (s : State) (source ctx : Nat) (layer e : Nat) : GrowRes :=
  let d := ctxBytes s ctx
  match descFault s ctx source with
  | some f => .bad f
  | none =>
    match readRun s source ctx d layer with
    | .bad f => .bad f
    | .run log2 base => if e / 256 < 2 ^ log2 then .done s else growFrom s source ctx layer e d (some (base, log2))
    | .none => growFrom s source ctx layer e d none

/-! ## Every page of a context -/

/-- Local ordinals that a layer's run covers, the last one perhaps in part (R66): the pages to visit. -/
def runOrdinals (s : State) (source ctx : Nat) (d : Bytes) (layer : Nat) : Nat :=
  match readRun s source ctx d layer with
  | .run log2 _ => min (ceilDiv (256 * 2 ^ log2) (dHp d)) (ceilDiv 4194304 (dP d * dW d))
  | _ => 0

/-- A `PRESENT` page of a context: local ordinal, layer, KV head, handles, owner, valid rows. -/
structure PageAt where
  n       : Nat
  layer   : Nat
  kv      : Nat
  handles : List Nat
  owner   : Nat
  valid   : Nat
deriving DecidableEq, Repr

/-- The `PRESENT` pages of a context by ascending local ordinal, layer and KV head (R247). -/
def pagesOf (s : State) (ctx : Nat) : List PageAt :=
  let d := ctxBytes s ctx
  if !(ctxGood s ctx) then []
  else
    let raw := (List.range (dLayers d)).flatMap fun l =>
      (List.range (runOrdinals s 2 ctx d l)).flatMap fun n =>
        (List.range (dHeads d)).filterMap fun kv =>
          match readPage s 2 ctx d l kv n with
          | .present hs o v => some (⟨n, l, kv, hs, o, v⟩ : PageAt)
          | _ => none
    sortBy (fun a b => decide (a.n < b.n ∨ a.n = b.n ∧ (a.layer < b.layer ∨ a.layer = b.layer ∧ a.kv ≤ b.kv))) raw

/-- The first of the tail's four lines that cannot be read at all, and why. -/
def tailFault (s : State) (h : Nat) : Option (Nat × Nat) :=
  [128, 129, 130, 131].findSome? fun i => (lineFault s h i).map fun c => (i, c)

/-- The bytes of a slot pass their line checks and `TAIL_CRC` (R55, R56). -/
def slotSound (b : Bytes) : Bool :=
  let t := slice b 0x4000 0x200
  decide (num t 0x1FE 2 = tailCrc t)
    && (List.range 128).all fun k => decide (num t (2 * k) 2 = crc16 (slice b (128 * k) 128))

/-- Read a tail region through its check (R56), and where `valid` is given through its header's (R57): the tail, or why
it fails. -/
def readTailBy (s : State) (source h : Nat) (k : PageKey) (valid : Option Nat) : Except Failure Bytes :=
  let t := slotTail s h
  let hd := tailHeader t
  let base : Failure := { cause := 1, source := source, author := hdAuthor hd, ctx := some (k.ctx, k.kv, k.layer, k.first),
                          channel := lineChannel s h 131, line := 131, handle := h }
  match tailFault s h with
  | some (i, c) => .error { base with cause := c, author := 0, line := i, channel := lineChannel s h i }
  | none =>
    if num t 0x1FE 2 ≠ tailCrc t then .error { base with stored := num t 0x1FE 2, computed := tailCrc t }
    else
      match valid with
      | some v => if headerAgrees hd k v then .ok t else .error { base with cause := 2 }
      | none => .ok t

/-- Read a tail for an attend, a move or a command by handle (R56, R57). -/
def readTail (s : State) (source h : Nat) (k : PageKey) (valid : Nat) : Except Failure Bytes :=
  readTailBy s source h k (some valid)

/-- Record a failing tail or line: the flag of a header mismatch, and the log (R57, R270). A mismatch shows on both
readings, the refetch included (R57, R269; DEDUCED: log entry 31). -/
def pageFailed (s : State) (f : Failure) : State :=
  let mismatch (s : State) : State := raise1 s 3 fPmEventHeaderMismatch
  logFailure (if f.cause = 2 then mismatch (mismatch s) else s) f

/-- The same for a read that a BBD made for a BAU (R171): its flag and `BANK_DETECT`. -/
def pageFailedAt (s : State) (bbd : Option Nat) (f : Failure) : State :=
  match bbd with
  | none => pageFailed s f
  | some b => pageFailed (if f.cause ≤ 2 then tally (raise1 s (5 + b) fBbEventLineCheck) (306 + b) (64 * 256) else s) { f with bank := 1 }

/-- Read a payload line through its check (R55), the check taken from the tail region. -/
def readLine (s : State) (source h : Nat) (tail : Bytes) (k : PageKey) (i : Nat) : Except Failure Bytes :=
  let b := slotRead s h (128 * i) 128
  let base : Failure := { cause := 0, source := source, author := hdAuthor (tailHeader tail),
                          ctx := some (k.ctx, k.kv, k.layer, k.first), channel := lineChannel s h i, line := i, handle := h }
  match lineFault s h i with
  | some c => .error { base with cause := c }
  | none =>
    if num tail (2 * i) 2 = crc16 b then .ok b
    else .error { base with stored := num tail (2 * i) 2, computed := crc16 b }

/-- Read lines `i`, `i + 1`, … of a slot, `k` of them. -/
def readLines (s : State) (source h : Nat) (tail : Bytes) (key : PageKey) (i : Nat) : Nat → Except Failure Bytes
  | 0 => .ok []
  | k + 1 =>
    match readLine s source h tail key i with
    | .error f => .error f
    | .ok b =>
      match readLines s source h tail key (i + 1) k with
      | .ok r => .ok (b ++ r)
      | .error f => .error f

end Sys2Proof.Machine
end

