-- ==== Sys2Proof/Machine/Attn.lean ====
section
/-!
DEFINITION. Machine/Attn.lean: the chapter "Attention arithmetic" over plain data: scores, masks, row records, conjoin,
page bounds, ellipsis and the merge of clauses (R91 to R114, R138 to R141).
-/

namespace Sys2Proof.Machine

/-! ## Scores (R91, R92) -/

/-- Adjacent pairs summed, RN. -/
def pairSums : List Nat → List Nat
  | a :: b :: r => fAdd .rn a b :: pairSums r
  | l => l

/-- The sum of a 32-channel group, pairwise (R91). -/
def groupSum (t : List Nat) : Nat := (pairSums (pairSums (pairSums (pairSums (pairSums t))))).headD 0

/-- Sums of groups in channel order, RN at each add. -/
def seqSum : List Nat → Nat
  | [] => 0
  | x :: xs => xs.foldl (fAdd .rn) x

/-- dot(q, k, H) (R91). -/
def dot (q k : List Nat) : Nat :=
  seqSum ((chunks 32 q.length (List.zipWith (fMul .rn) q k)).map groupSum)

/-- What a score needs of the request. -/
structure ScoreCfg where
  scale   : Nat
  softcap : Bool
  cap     : Nat
deriving DecidableEq, Repr

/-- The score of a row at a position from its dot product (R92). -/
def scoreOf (c : ScoreCfg) (d : Nat) : Nat :=
  let s := fMul .rn c.scale d
  let s := if c.softcap then fMul .rn c.cap (fTanh .rn (fDiv .rn s c.cap)) else s
  let z := fMul .rn s fL2E
  if z = 2 ^ 31 then 0 else z

/-! ## Masks (R93) -/

structure MaskCfg where
  causal    : Bool
  windowEn  : Bool
  window    : Nat
  sinkEn    : Bool
  sinks     : Nat
  /-- The committed length T of a draft tree. -/
  committed : Option Nat
deriving DecidableEq, Repr

/-- The window test, with the sinks that it admits (R93).  Sinks without a window hide nothing: they only admit positions
past a window (log entry 187). -/
def windowOk (c : MaskCfg) (i j : Nat) : Bool :=
  !c.windowEn || decide (i < j + c.window) || (c.sinkEn && decide (j < c.sinks))

/-- A stored position is visible to a row at query position i (R93, R94). -/
def visible (c : MaskCfg) (i j : Nat) : Bool :=
  (!c.causal || decide (j ≤ i)) && windowOk c i j && (match c.committed with
    | some t => decide (j < t)
    | none => true)

/-! ## Row records (R97, R99, R100) -/

structure RowRec where
  m : Nat
  l : Nat
  o : List Nat
deriving DecidableEq, Repr

def emptyRow (h : Nat) : RowRec := ⟨fNegInf, 0, List.replicate h 0⟩
def poisonedRow (h : Nat) : RowRec := ⟨fNan, fNan, List.replicate h fNan⟩

/-- A row is poisoned by its m (R103). -/
def RowRec.poisoned (r : RowRec) : Bool := fIsNan r.m || decide (r.m = fInf false)
def RowRec.empty (r : RowRec) : Bool := decide (r.m = fNegInf)

/-- Conjoin two rows (R100). -/
def conjoinRow (a b : RowRec) : RowRec :=
  if a.poisoned || b.poisoned then poisonedRow a.o.length
  else if a.empty then b
  else if b.empty then a
  else
    let (h, w) := if fLt a.m b.m then (b, a) else (a, b)
    let f := fExp2 .rn (fSub .rn w.m h.m)
    ⟨h.m, fFma .rn w.l f h.l, List.zipWith (fun x y => fFma .rn x f y) w.o h.o⟩

/-- The clause of one position (R92, R99). -/
def singleton (z : Nat) (v : List Nat) : RowRec :=
  match fDec z with
  | .fin _ _ _ => ⟨z, fOne, v⟩
  | .inf true => emptyRow v.length
  | _ => poisonedRow v.length

/-- The page clause of a row over (key, value) rows in ascending position order (R106). -/
def pageClause (c : ScoreCfg) (q : List Nat) (h : Nat) (kvs : List (List Nat × List Nat)) : RowRec :=
  kvs.foldl (fun r (k, v) => conjoinRow r (singleton (scoreOf c (dot q k)) v)) (emptyRow h)

/-! ## Page bounds and ellipsis (R111 to R113) -/

/-- A step of `page_bound` that would be a NaN yields +∞ (R112). -/
def noNan (x : Nat) : Nat := if fIsNan x then fInf false else x

/-- The page bound u from the query and the per-channel bounds (R112). -/
def pageBound (c : ScoreCfg) (q : List Nat) (g : List (Nat × Nat)) : Nat :=
  let (ud, a) := (List.zip q g).foldl (init := ((0 : Nat), (0 : Nat))) fun (ud, a) (x, lo, hi) =>
    if fAbs x = 0 then (ud, a)
    else
      (noNan (fAdd .ru ud (fMax (noNan (fMul .ru x lo)) (noNan (fMul .ru x hi)))),
       noNan (fAdd .ru a (noNan (fMul .ru (fAbs x) (max (fAbs lo) (fAbs hi))))))
  let ud := noNan (fAdd .ru ud (noNan (fMul .ru 0x36000000 a)))
  let us := noNan (fMul .ru c.scale ud)
  let us := if c.softcap then noNan (fMul .ru c.cap (fTanh .ru (noNan (fDiv .ru us c.cap)))) else us
  noNan (fMul .ru us fL2E)

/-- ε = 2^−e as binary32 (R111). -/
def epsOf (e : Nat) : Nat := 2 ^ 23 * (127 - e)

/-- A row of the fold: its running clause and its skip budget (R113). -/
structure FoldRow where
  rec_   : RowRec
  budget : Nat
deriving DecidableEq, Repr

/-- t of the skip test (R113). -/
def skipTerm (p u : Nat) (r : FoldRow) : Nat :=
  if r.rec_.empty then fInf false
  else fMul .ru (fOf false p 0) (fExp2 .ru (noNan (fSub .ru u r.rec_.m)))

/-- The skip test passes for a row (R113). -/
def skipOk (e p u : Nat) (r : FoldRow) : Bool :=
  fLe (noNan (fAdd .ru (skipTerm p u r) r.budget)) (fMul .rd (epsOf e) r.rec_.l)

/-- A visit of a page by a row: the fold and the budget (R113). -/
def visitRow (r : FoldRow) (pc : RowRec) : FoldRow :=
  let n := conjoinRow r.rec_ pc
  let b := if !n.poisoned && !r.rec_.empty && fLt r.rec_.m n.m then
      fMul .ru r.budget (fExp2 .ru (fSub .ru r.rec_.m n.m))
    else r.budget
  ⟨n, b⟩

/-! ## Clauses (R98, R138 to R141) -/

/-- A dropped range (Table 05.6). -/
structure DropRange where
  head  : Nat
  first : Nat
  count : Nat
deriving DecidableEq, Repr

/-- A clause with its route block. -/
structure Clause where
  status    : Nat
  bf16      : Bool
  width     : Nat
  rows      : List RowRec
  visited   : Nat
  skipped   : Nat
  excluded  : Nat
  dropped   : Nat
  done      : Nat
  failCount : Nat
  fail      : Option (Nat × Nat)
  hint      : Option (Nat × Nat)
  ranges    : List DropRange
  cut       : Bool
  seqEnd    : Nat
deriving DecidableEq, Repr

/-- The order of R141: 0 is the highest. -/
def statusRank (st : Nat) : Nat :=
  ([stInternal, stAborted, stTimeout, stFenced, stStaleEpoch, stAccess, stRevoked, stFormat, stLength, stLimit,
    stNoContext, stQuota, stMoved, stUncorrectable, stNeedsRecompute, stOkLossy, stEmpty, stOk].idxOf st) % 18

/-- A status that ranks as a failure sets `FAIL_VALID` (R141). -/
def isFailure (st : Nat) : Bool := decide (statusRank st ≤ 13)

/-- A clause of this status carries its rows (R140). -/
def carriesRows (st : Nat) : Bool := decide (st = stOk ∨ st = stOkLossy ∨ st = stEmpty ∨ st = stNeedsRecompute)

/-- A shard's own work counts in `SHARDS_DONE` (Table 05.5). -/
def countsDone (st : Nat) : Bool := decide (st ≤ 2 ∨ st = stUncorrectable ∨ st = stNeedsRecompute)

def rangeBefore (a b : DropRange) : Bool := decide (a.head < b.head ∨ a.head = b.head ∧ a.first ≤ b.first)

/-- Join the ranges of a sorted list that touch or overlap the range held, and go on with what they make (R139). -/
def joinInto (r : DropRange) : List DropRange → List DropRange
  | [] => [r]
  | x :: xs =>
    if r.head = x.head ∧ x.first ≤ r.first + r.count then
      joinInto ⟨r.head, r.first, max (r.first + r.count) (x.first + x.count) - r.first⟩ xs
    else r :: joinInto x xs

/-- Join ranges of one head that touch or overlap, over a sorted list (R139). -/
def joinRanges : List DropRange → List DropRange
  | [] => []
  | r :: rs => joinInto r rs

/-- Merge range lists (R139). -/
def mergeRanges (a b : List DropRange) : List DropRange := joinRanges (sortBy rangeBefore (a ++ b))

/-- A clause without rows that carries a status as one shard's failure. -/
def failClause (st shard node : Nat) (hint : Option (Nat × Nat)) (bf16 : Bool) : Clause :=
  { status := st, bf16 := bf16, width := 0, rows := [], visited := 0, skipped := 0, excluded := 0, dropped := 0,
    done := if countsDone st then 1 else 0, failCount := if countsDone st then 0 else 1,
    fail := if isFailure st then some (shard, node) else none, hint := hint, ranges := [], cut := false, seqEnd := 0 }

/-- Saturating 32-bit sum. -/
def sat32 (a b : Nat) : Nat := min (2 ^ 32 - 1) (a + b)

/-- Merge two clauses at a node of the tree (R101, R139, R141). -/
def mergeClause (a b : Clause) : Clause :=
  let ra := statusRank a.status
  let rb := statusRank b.status
  let rows := if a.rows = [] ∨ b.rows = [] then [] else List.zipWith conjoinRow a.rows b.rows
  let low := if ra < rb then a else if rb < ra then b
    else if (a.fail.getD (0, 0)).1 ≤ (b.fail.getD (0, 0)).1 then a else b
  let top := min ra rb
  let st := if 16 ≤ top then (if rows.all RowRec.empty then stEmpty else stOk)
    else if top = 0 then stInternal else low.status
  let rs := mergeRanges a.ranges b.ranges
  let rows := if carriesRows st then rows else []
  { status := st, bf16 := a.bf16, width := if rows = [] then 0 else max a.width b.width, rows := rows,
    visited := sat32 a.visited b.visited, skipped := sat32 a.skipped b.skipped,
    excluded := sat32 a.excluded b.excluded, dropped := sat32 a.dropped b.dropped,
    done := a.done + b.done, failCount := a.failCount + b.failCount,
    fail := if isFailure st then some (low.fail.getD (0, 0)) else none, hint := if top = 12 then low.hint else none,
    ranges := rs.take 255, cut := a.cut || b.cut || decide (255 < rs.length), seqEnd := max a.seqEnd b.seqEnd }

/-- A row record as bytes (R97, R102). -/
def rowBytesOf (bf16 : Bool) (r : RowRec) : Bytes :=
  natLe 4 (fCanon r.m) ++ natLe 4 (fCanon r.l) ++ r.o.flatMap fun x => if bf16 then natLe 2 (bf16Enc x) else natLe 4 (fCanon x)

/-- The body of a `CLAUSE` message (R138). -/
def Clause.body (c : Clause) : Bytes :=
  let route := zeros 32
  let route := putF route 0 0 11 c.done
  let route := putF route 0 11 11 c.failCount
  let route := match c.fail with
    | some (s, n) => putF (putF (putF route 4 0 10 s) 4 10 12 n) 4 22 1 1
    | none => route
  let route := match c.hint with
    | some (n, e) => putF (putF (putF route 8 0 12 n) 8 12 1 1) 0x0C 0 32 e
    | none => route
  let route := putF route 0x10 0 8 c.ranges.length
  let route := putF route 0x10 8 1 (if c.cut then 1 else 0)
  let route := putF route 0x14 0 32 c.seqEnd
  let hd := zeros 32
  let hd := putF hd 0 0 8 c.status
  let hd := putF hd 0 8 1 (if c.rows.all RowRec.empty then 1 else 0)
  let hd := putF hd 0 9 1 (if c.bf16 then 1 else 0)
  let hd := putF hd 0 16 5 (if c.rows = [] then 0 else c.width / 32 - 1)
  let hd := putF hd 4 0 16 c.rows.length
  let hd := putF hd 4 16 16 (c.rows.filter RowRec.poisoned).length
  let hd := putF hd 8 0 32 c.visited
  let hd := putF hd 0x0C 0 32 c.skipped
  let hd := putF hd 0x10 0 32 c.excluded
  let hd := putF hd 0x14 0 32 c.dropped
  let hd := putF hd 0x18 0 16 (c.rows.filter RowRec.empty).length
  route ++ hd ++ c.rows.flatMap (rowBytesOf c.bf16) ++
    c.ranges.flatMap fun r => natLe 8 (r.first + at_ 32 23 r.count + at_ 55 6 r.head)

/-- Decode a row record of a received clause (R102, R103). -/
def rowOfBytes (bf16 : Bool) (h : Nat) (b : Bytes) : RowRec :=
  let m := num b 0 4
  if fIsNan m ∨ m = fInf false then poisonedRow h
  else if m = fNegInf then emptyRow h
  else
    ⟨m, num b 4 4, (List.range h).map fun c =>
      if bf16 then bf16Dec (num b (8 + 2 * c) 2) else num b (8 + 4 * c) 4⟩

/-- A received `CLAUSE` body that belongs to the request (R119, R138); `none` when it breaks its own form. -/
def clauseOfBody (b : Bytes) (rows h : Nat) (bf16 : Bool) : Option Clause :=
  let st := num b 32 1
  let n := num b 36 2
  let w := 8 + (if bf16 then 2 else 4) * h
  let nr := num b 0x10 1
  let reserved := decide (bfld b 0 22 10 = 0 ∧ bfld b 4 23 9 = 0 ∧ bfld b 8 13 19 = 0 ∧ bfld b 0x10 9 23 = 0 ∧
    num b 0x18 8 = 0 ∧ bfld b 32 10 6 = 0 ∧ bfld b 32 21 11 = 0 ∧ num b (32 + 0x1A) 6 = 0)
  if b.length < 64 then none
  else if !reserved || decide (b.length ≠ 64 + n * w + 8 * nr) then none
  else if bfld b 32 9 1 ≠ (if bf16 then 1 else 0) then none
  else if n ≠ (if carriesRows st then rows else 0) then none
  else if bfld b 32 16 5 ≠ (if n = 0 then 0 else h / 32 - 1) then none
  else
    some { status := st, bf16 := bf16, width := if n = 0 then 0 else h,
           rows := (List.range n).map fun i => rowOfBytes bf16 h (slice b (64 + i * w) w),
           visited := num b (32 + 8) 4, skipped := num b (32 + 0x0C) 4, excluded := num b (32 + 0x10) 4,
           dropped := num b (32 + 0x14) 4, done := bfld b 0 0 11, failCount := bfld b 0 11 11,
           fail := if bfld b 4 22 1 = 1 then some (bfld b 4 0 10, bfld b 4 10 12) else none,
           hint := if bfld b 8 12 1 = 1 then some (bfld b 8 0 12, num b 0x0C 4) else none,
           ranges := (List.range nr).map fun i =>
             let r := num b (64 + n * w + 8 * i) 8
             ⟨fld r 55 6, fld r 0 32, fld r 32 23⟩,
           cut := decide (bfld b 0x10 8 1 = 1), seqEnd := num b 0x14 4 }

/-! ## Page contents -/

/-- The decoded (key, value) rows of a part: `valid` rows of a slot's payload (R52). -/
def partRows (fmt pw valid : Nat) (payload : Bytes) : List (List Nat × List Nat) :=
  let rb := rowBytes fmt pw
  (List.range valid).map fun r =>
    (rowDec fmt pw (slice payload (r * rb) rb), rowDec fmt pw (slice payload (8192 + r * rb) rb))

/-- Rows of several parts joined channel-wise. -/
def joinParts : List (List (List Nat × List Nat)) → List (List Nat × List Nat)
  | [] => []
  | [p] => p
  | p :: ps => List.zipWith (fun (a, b) (c, d) => (a ++ c, b ++ d)) p (joinParts ps)

/-- The per-channel bounds of a part's gloss, with whether a used group holds a NaN (R58). -/
def glossBounds (pw : Nat) (gloss : Bytes) : List (Nat × Nat) × Bool :=
  let g := 2 ^ glossLog pw
  let bs := (List.range pw).map fun c => (e5m2Dec (num gloss (2 * (c / g)) 1), e5m2Dec (num gloss (2 * (c / g) + 1) 1))
  (bs, bs.any fun (lo, hi) => fIsNan lo || fIsNan hi)

/-- The gloss bytes of key rows (lists of `pw` binary32 values), computed afresh (R58). -/
def glossOf (pw : Nat) (keys : List (List Nat)) : Bytes :=
  let g := 2 ^ glossLog pw
  let groups := ceilDiv pw g
  padTo 224 ((List.range groups).flatMap fun k =>
    let xs := keys.flatMap fun row => (row.drop (k * g)).take (min g (pw - k * g))
    if xs.any fIsNan then [0x7F, 0x7F]
    else
      match xs with
      | [] => [0, 0]
      | x :: r =>
        let lo := r.foldl (fun a b => if fLt b a then b else a) x
        let hi := r.foldl (fun a b => if fLt a b then b else a) x
        [BitVec.ofNat 8 (e5m2Bound false lo), BitVec.ofNat 8 (e5m2Bound true hi)])

/-- A gloss widened to cover further key rows (R59). -/
def widenGloss (pw : Nat) (old : Bytes) (keys : List (List Nat)) : Bytes :=
  let g := 2 ^ glossLog pw
  let new := glossOf pw keys
  padTo 224 ((List.range (ceilDiv pw g)).flatMap fun k =>
    let ol := e5m2Dec (num old (2 * k) 1)
    let oh := e5m2Dec (num old (2 * k + 1) 1)
    let nl := e5m2Dec (num new (2 * k) 1)
    let nh := e5m2Dec (num new (2 * k + 1) 1)
    if fIsNan ol || fIsNan oh || fIsNan nl || fIsNan nh then [0x7F, 0x7F]
    else
      [ if fLt nl ol then slice new (2 * k) 1 else slice old (2 * k) 1,
        if fLt oh nh then slice new (2 * k + 1) 1 else slice old (2 * k + 1) 1 ].flatten)

/-- Rotate a key row at a position (R90): `d` channels, in halves or adjacent pairs, base as binary32.  Where `d` is odd,
channel d − 1 is in no pair and is unchanged (log entry 197). -/
def rotate (base d : Nat) (halves : Bool) (p : Nat) (k : List Nat) : List Nat :=
  let half := d / 2
  -- exact a·c ± b·s rounded once
  let two (sub : Bool) (a c b s : Nat) : Nat :=
    match fDec a, fDec c, fDec b, fDec s with
    | .fin na ma ea, .fin nc mc ec, .fin nb mb eb, .fin ns ms es =>
      let e := min (ea + ec) (eb + es)
      let x := sInt (na != nc) (ma * mc * 2 ^ (ea + ec - e).toNat)
      let y := sInt (nb != ns) (mb * ms * 2 ^ (eb + es - e).toNat)
      let t := if sub then x - y else x + y
      let ny := (nb != ns) != sub
      if t = 0 then (if (na != nc) && ny && decide (ma * mc = 0 ∧ mb * ms = 0) then 2 ^ 31 else 0)
      else roundFrac .rn (decide (t < 0)) t.natAbs 1 e
    | _, _, _, _ => if sub then fSub .rn (fMul .rn a c) (fMul .rn b s) else fAdd .rn (fMul .rn a c) (fMul .rn b s)
  (List.range k.length).map fun c =>
    if 2 * half ≤ c then k.getD c 0
    else
      let j := if halves then c % half else c / 2
      let first := if halves then decide (c < half) else decide (c % 2 = 0)
      let ia := if halves then j else 2 * j
      let ib := if halves then j + half else 2 * j + 1
      let a := k.getD ia 0
      let b := k.getD ib 0
      let cs := fCosSin p (fPowRope base j d)
      if first then two true a cs.1 b cs.2 else two false a cs.2 b cs.1

/-- Decode a supplied row of `h` elements: 0 BF16, 1 FP32, 2 FP8 E4M3, 3 FP8 E5M2 (Table 05.7). -/
def inRow (fmt h : Nat) (b : Bytes) : List Nat :=
  match fmt with
  | 0 => (List.range h).map fun c => bf16Dec (num b (2 * c) 2)
  | 1 => (List.range h).map fun c => num b (4 * c) 4
  | 2 => (List.range h).map fun c => e4m3Dec (num b c 1)
  | _ => (List.range h).map fun c => e5m2Dec (num b c 1)

/-- Bytes of an element of a supplied row. -/
def inBytes (fmt : Nat) : Nat := match fmt with
  | 0 => 2
  | 1 => 4
  | _ => 1

/-- A key row of a context as an append or a refill stores it: rotated when the context asks for it (R90; for a refill, log
entry 188). -/
def keyRow (d : Bytes) (p : Nat) (k : List Nat) : List Nat :=
  if dRopeAt d ∧ dRopeDims d ≠ 0 then rotate (dRopeBase d) (dRopeDims d) (dRopeHalves d) p k else k

/-- A row after encoding and decoding in the cache format: the values the arithmetic uses (R89, R96). -/
def stored (fmt : Nat) (row : List Nat) : List Nat := rowDec fmt row.length (rowEnc fmt row)

end Sys2Proof.Machine
end

