-- ==== Sys2Proof/Machine/Links.lean ====
section
/-!
DEFINITION. Machine/Links.lean: the operations of the Galxifin links, the egress scheduler and the ingress meter: ports,
frames, class regions and pause (R294 to R308), class queues, shapers and gate lists (R352 to R364), meters (R365 to R369).
-/

namespace Sys2Proof.Machine

/-- A port that holds nothing. -/
def Port.fresh : Port :=
  { rx := [], lcf := [], paused := [], stalled := [], sent := [], changed := [], swap := none, seq := 0, since := 0, attempt := 0, heard := none,
    tried := false, trained := [], failedLanes := [], place := [], block := 0, aligned := 0 }

def portOf (s : State) (g : Nat) : Port := (mapGet s.fl g).getD .fresh
def setPort (s : State) (g : Nat) (p : Port) : State := { s with fl := mapPut s.fl g p }
def updPort (s : State) (g : Nat) (f : Port → Port) : State := setPort s g (f (portOf s g))

/-- `FL_PORT.STATE` (Table 10.8). -/
def portState (s : State) (g : Nat) : Nat := getF s (rFlPort g) fFlPortState
def setPortState (s : State) (g v : Nat) : State := setF s (rFlPort g) fFlPortState v
def portUp (s : State) (g : Nat) : Bool := decide (portState s g = 4)
def isRing (g : Nat) : Bool := decide (16 ≤ g)

/-- Fences of a port (R386). -/
def logFenced (s : State) (g : Nat) : Bool := decide (fld (getF s rCfPortFence fCfPortFenceLogical) g 1 = 1)
def elecFenced (s : State) (g : Nat) : Bool := decide (fld (getF s rCfPortFence fCfPortFenceElectrical) g 1 = 1)
def fenced (s : State) (g : Nat) : Bool := logFenced s g || elecFenced s g

/-- A frame is a TC7 management datagram (R374). -/
def mgmtFrame (c : Nat) (p : Bytes) : Bool := decide (c = 7 ∧ bfld p 0 4 4 = 6 ∧ bfld p 0 10 2 = 2)

/-- A port is held as though disabled (R299, R386). -/
def portDisabled (s : State) (g : Nat) : Bool := !(getB s (rFlPort g) fFlPortEnable) || elecFenced s g

/-- Payload rate in GB/s at a `WIDTH` code (R353). -/
def rateOf (g width : Nat) : Nat :=
  if isRing g then (if width = 2 then 100 else 50) else (if width = 3 then 400 else 200)

def fullRate (g : Nat) : Nat := if isRing g then 100 else 400
def portRate (s : State) (g : Nat) : Nat := rateOf g (getF s (rFlPort g) fFlPortWidth)

def classReg (g c : Nat) : Nat := if isRing g then rFlPortClassRing (g - 16) c else rFlPortClass g c
def regionSize (s : State) (g c : Nat) : Nat := 1024 * getF s (classReg g c) fFlPortClassSize
def regionHi (s : State) (g c : Nat) : Nat := 1024 * getF s (classReg g c) fFlPortClassHi
def regionLo (s : State) (g c : Nat) : Nat := 1024 * getF s (classReg g c) fFlPortClassLo

/-! ## Frames (R294) -/

/-- One bit of the reflected CRC-32 of IEEE 802.3. -/
def crc32Bit (c : Nat) : Nat := if c % 2 = 1 then Nat.xor (c / 2) 0xEDB88320 else c / 2

def crc32Byte (c : Nat) (b : Byte) : Nat :=
  crc32Bit (crc32Bit (crc32Bit (crc32Bit (crc32Bit (crc32Bit (crc32Bit (crc32Bit (Nat.xor c b.toNat))))))))

/-- CRC-32 of IEEE 802.3 (R294). -/
def crc32 (b : Bytes) : Nat := Nat.xor (b.foldl crc32Byte 0xFFFFFFFF) 0xFFFFFFFF

/-- A frame on a link: header, packet and CRC (R294, Table 10.2). -/
def mkFrame (tc lcf dest hops : Nat) (pkt : Bytes) : Bytes :=
  let h := natLe 8 (tc + at_ 3 1 lcf + at_ 4 12 dest + at_ 16 6 hops + at_ 22 13 pkt.length)
  h ++ pkt ++ natLe 4 (crc32 (h ++ pkt))

/-- A received frame keeps R295. -/
def frameOk (f : Bytes) : Bool :=
  let len := bfld f 0 22 13
  decide (76 ≤ f.length ∧ f.length = len + 12 ∧ 64 ≤ len ∧ len ≤ 4160 ∧ bfld f 0 35 29 = 0 ∧
    num f (len + 8) 4 = crc32 (f.take (len + 8)))

/-- Accounted length of a frame with a packet of `len` bytes (R352). -/
def accounted (s : State) (g len : Nat) : Nat := len + 12 + getF s (rEsPort g) fEsPortOverhead

/-- Transmit time of `a` accounted bytes at `r` GB/s (R353). -/
def transmitTime (a r : Nat) : Nat := ceilDiv (47 * a) (50 * r)

/-! ## Link control frames (Table 10.3) -/

/-- Queue a link control frame on a port that is up, or that retrains and sends it afterwards (R296, R298). -/
def sendLcf (s : State) (g : Nat) (b : Bytes) : State :=
  if portUp s g || decide (portState s g = 5) then updPort s g fun p => { p with lcf := p.lcf ++ [b] } else s

/-- The common part of a link control frame: every one carries the count of the `SWAP_REQ` frames sent (Table 10.3). -/
def mkLcf (s : State) (g type : Nat) : Bytes :=
  putF (putF (putF (putF (zeros 64) 0 0 4 type) 0 4 8 (portOf s g).seq) 0 12 12 (nodeId s)) 0 24 5 g

/-- The time that a `PAUSE` gives a class: `PAUSE_TIME` while this node holds it paused, else 0 (R303). -/
def pauseTime (s : State) (g c : Nat) : Nat :=
  if (mapGet (portOf s g).sent c).isSome then getF s rFlControl fFlControlPauseTime else 0

/-- A `PAUSE` that names classes, each with its time (R303, Table 10.3). -/
def pauseFrame (s : State) (g : Nat) (cs : List Nat) : Bytes :=
  ((List.range 8).filter cs.contains).foldl (fun b c => putF (putF b 4 c 1 1) (8 + 2 * c) 0 16 (pauseTime s g c)) (mkLcf s g 1)

/-- A `PAUSE` that covers classes and every other that has changed since the last one; a port that can send none keeps them
for the next (R303). -/
def sendPause (s : State) (g : Nat) (cs : List Nat) : State :=
  let cs := (portOf s g).changed ++ cs
  if portUp s g || decide (portState s g = 5) then
    updPort (sendLcf s g (pauseFrame s g cs)) g fun p => { p with changed := [] }
  else updPort s g fun p => { p with changed := cs.eraseDups }

/-! ## Class regions and pause (R303, R304) -/

/-- Frame bytes held in a class region. -/
def regionFill (s : State) (g c : Nat) : Nat :=
  sumOf (((mapGet (portOf s g).rx c).getD []).map fun f => f.pkt.length + 12)

/-- `PAUSE` when the fill has risen to `HI` from `before` (R303). -/
def pauseIfHigh (s : State) (g c before : Nat) : State :=
  if c ≠ 7 ∧ getF s rFlControl fFlControlPauseTime ≠ 0 ∧ before < regionHi s g c ∧ regionHi s g c ≤ regionFill s g c then
    sendPause (updPort s g fun p => { p with sent := mapPut p.sent c s.time }) g [c]
  else s

/-- Classes are paused no more: `PAUSE` with time 0; none with `PAUSE_TIME` at 0 (R303). -/
def releaseClasses (s : State) (g : Nat) (cs : List Nat) : State :=
  let s := updPort s g fun p => { p with sent := p.sent.filter fun e => !(cs.contains e.1) }
  if getF s rFlControl fFlControlPauseTime = 0 then s else sendPause s g cs

/-- `PAUSE` with time 0 when the fill has fallen to `LO` or below (R303). -/
def releaseIfLow (s : State) (g c : Nat) : State :=
  if (mapGet (portOf s g).sent c).isSome ∧ regionFill s g c ≤ regionLo s g c then releaseClasses s g [c] else s

/-- A frame enters a class region, or overruns it (R303, R304). -/
def enterRegion (s : State) (g : Nat) (f : Frame) : Bool × State :=
  if regionSize s g f.tc < regionFill s g f.tc + f.pkt.length + 12 then
    (false, raise1 s (17 + g) fFlPortEventOverrun)
  else
    (true, pauseIfHigh (updPort s g fun p => { p with rx := mapPut p.rx f.tc ((mapGet p.rx f.tc).getD [] ++ [f]) }) g f.tc
      (regionFill s g f.tc))

/-- The oldest packet of a class region that is addressed to this node. -/
def headPacket (s : State) (g c : Nat) : Option Bytes :=
  (((mapGet (portOf s g).rx c).getD []).find? fun f => f.from_.isNone).map (·.pkt)

/-- Remove the first frame of a class region that satisfies `p`. -/
def leaveRegion (s : State) (g c : Nat) (p : Frame → Bool) : State :=
  releaseIfLow (updPort s g fun q =>
    { q with rx := mapPut q.rx c (removeFirst p ((mapGet q.rx c).getD [])) }) g c

/-- Take the oldest packet addressed to this node out of its class region. -/
def takePacket (s : State) (g c : Nat) : State := leaveRegion s g c fun f => f.from_.isNone

/-! ## Class queues (R354) -/

def queueOf (s : State) (g c : Nat) : List Frame := (mapGet s.es.queues (g * 8 + c)).getD []
def setQueue (s : State) (g c : Nat) (q : List Frame) : State :=
  { s with es := { s.es with queues := if q.isEmpty then mapDel s.es.queues (g * 8 + c)
                                       else mapPut s.es.queues (g * 8 + c) q } }
def enqueue (s : State) (g : Nat) (f : Frame) : State := setQueue s g f.tc (queueOf s g f.tc ++ [f])

/-- Accounted bytes queued on a port in a class (R325, R352). -/
def queuedBytes (s : State) (g c : Nat) : Nat := sumOf ((queueOf s g c).map fun f => accounted s g f.pkt.length)

/-! ## Credits (R356, R366) -/

/-- Credit gained per ACLK cycle, in 1/65,536 bytes. -/
def gainOf (rate : Nat) : Nat := 65536 * (10 * rate) / 94

/-- A credit brought up to date, in 1/65,536 bytes; with no record it stands at its cap. -/
def creditNow (s : State) (m : NMap Credit) (k rate cap : Nat) : Int :=
  match mapGet m k with
  | none => (65536 * (1024 * cap) : Nat)
  | some c => min ((65536 * (1024 * cap) : Nat) : Int) (c.value + (elapsed s c.time * gainOf rate : Nat))

def shaperKey (g c : Nat) : Nat := g * 8 + c
def shaperOn (s : State) (g c : Nat) : Bool := getB s (rEsShaper g c) fEsShaperShapeEn
def shaperCap (s : State) (g c : Nat) : Nat := getF s (rEsShaper g c) fEsShaperBurst

/-- The shaper credit of a class (R356). -/
def shaperCredit (s : State) (g c : Nat) : Int :=
  if shaperOn s g c then creditNow s s.es.credit (shaperKey g c) (getF s (rEsShaper g c) fEsShaperRate) (shaperCap s g c)
  else (65536 * (1024 * shaperCap s g c) : Nat)

def setShaperCredit (s : State) (g c : Nat) (v : Int) : State :=
  { s with es := { s.es with credit := mapPut s.es.credit (shaperKey g c) ⟨v, s.time⟩ } }

/-! ## Gate lists (R358 to R363) -/

/-- A gate list: entries (mask, interval) and the base of its cycles. -/
abbrev Gates := List (Nat × Nat) × Nat

def cycleOf (es : List (Nat × Nat)) : Nat := sumOf (es.map (·.2))

/-- The operating list of a port. -/
def operList (s : State) (g : Nat) : Gates :=
  ((List.range (getF s (rEsPort g) fEsPortOperLen)).map fun e =>
      (getF s (rEsOper g e) fEsOperMask, getF s (rEsOper g e) fEsOperInterval),
    (mapGet s.es.base g).getD 0)

/-- The administrative list of a port. -/
def adminList (s : State) (g : Nat) : Gates :=
  ((List.range (min 64 (getF s (rEsPort g) fEsPortAdminLen))).map fun e =>
      (getF s (rEsAdmin g e) fEsAdminMask, getF s (rEsAdmin g e) fEsAdminInterval),
    regGet s (rEsGateBase g))

/-- A list that leaves every gate open (R358). -/
def gatesFree (es : List (Nat × Nat)) : Bool := decide (cycleOf es = 0)

/-- The phase of a time in a list's cycle. -/
def phaseAt (l : Gates) (t : Nat) : Nat := (((t : Int) - (l.2 : Int)) % (cycleOf l.1 : Int)).toNat

/-- The entry in force at a phase: its index, mask, and the cycles left. -/
def entryAtPhase : List (Nat × Nat) → Nat → Nat → Nat × Nat × Nat
  | [], i, _ => (i, 0xFF, 0)
  | (m, d) :: es, i, p => if p < d then (i, m, d - p) else entryAtPhase es (i + 1) (p - d)

/-- Class c is open in a mask; class 7 always is (R359). -/
def maskOpen (m c : Nat) : Bool := decide (c = 7) || decide (fld m c 1 = 1)

/-- Cycles from now until class c, open now, next closes, walking (mask, interval) entries; `none` when it does not
within them. -/
def walkClose (c : Nat) : List (Nat × Nat) → Nat → Option Nat
  | [], _ => none
  | (m, d) :: es, acc => if d = 0 then walkClose c es acc else if maskOpen m c then walkClose c es (acc + d) else some acc

/-- Cycles from t until class c is next closed under a list: 0 when it is closed at t, `none` when it never closes. -/
def closeAfter (l : Gates) (c t : Nat) : Option Nat :=
  if gatesFree l.1 then none
  else
    let (i, m, left) := entryAtPhase l.1 0 (phaseAt l t)
    if maskOpen m c then walkClose c (l.1.drop (i + 1) ++ l.1.take (i + 1)) left else some 0

def suspended (s : State) (g : Nat) : Bool := getB s (rEsPort g) fEsPortSuspended

/-- The gate of class c is open now (R358, R362). -/
def gateOpen (s : State) (g c : Nat) : Bool :=
  suspended s g || (let l := operList s g
    if gatesFree l.1 then true else maskOpen (entryAtPhase l.1 0 (phaseAt l s.time)).2.1 c)

/-- Transmit time of one LCF on a port at `r` GB/s. -/
def lcfTime (s : State) (g r : Nat) : Nat := transmitTime (76 + getF s (rEsPort g) fEsPortOverhead) r

/-- The open windows of class c: spans of entries with a nonzero interval that open it, around the cycle (R361).
`none` for a class that is open throughout. -/
def windowsOf (es : List (Nat × Nat)) (c : Nat) : List Nat :=
  let es := es.filter fun e => e.2 ≠ 0
  match es.findIdx? fun e => !(maskOpen e.1 c) with
  | none => []
  | some i =>
    let r := es.drop i ++ es.take i
    let (cur, acc) := r.foldl (init := ((0 : Nat), ([] : List Nat))) fun (cur, acc) e =>
      if maskOpen e.1 c then (cur + e.2, acc) else (0, if cur = 0 then acc else acc ++ [cur])
    if cur = 0 then acc else acc ++ [cur]

/-- Every open window of a list holds a full frame and one LCF at `r` GB/s (R361). -/
def windowsFit (s : State) (g r : Nat) (es : List (Nat × Nat)) : Bool :=
  (List.range 7).all fun c => (windowsOf es c).all fun w =>
    decide (transmitTime (accounted s g 4160) r + lcfTime s g r ≤ w)

/-- The first cycle boundary of a list at or after t (R360). -/
def boundaryAfter (l : Gates) (t : Nat) : Nat :=
  if gatesFree l.1 then t else (t + (((l.2 : Int) - (t : Int)) % (cycleOf l.1 : Int)).toNat) % 2 ^ 64

/-- Cycles from now until the gates of a port follow its operating list again: 0 when they do, and the next cycle boundary
while they are suspended at a width that passes now (R362). -/
def resumesIn (s : State) (g : Nat) : Option Nat :=
  if !(suspended s g) then some 0
  else if windowsFit s g (portRate s g) (operList s g).1 then some ((boundaryAfter (operList s g) s.time + 2 ^ 64 - s.time) % 2 ^ 64)
  else none

/-- Cycles until class c closes under a list that is followed from `w` cycles hence. -/
def closesFrom (s : State) (l : Gates) (c w : Nat) : Option Nat := (closeAfter l c (s.time + w)).map (w + ·)

/-- Cycles until class c's next closing, following the operating list and any install that will have taken effect by then
(R363). -/
def closingIn (s : State) (g c : Nat) : Option Nat :=
  let old := (resumesIn s g).bind fun w => closesFrom s (operList s g) c w
  match mapGet s.es.pending g with
  | none => old
  | some ins =>
    let w := (ins.at_ + 2 ^ 64 - s.time) % 2 ^ 64
    let new := if windowsFit s g (portRate s g) ins.entries then closesFrom s (ins.entries, ins.base) c w else none
    match old with
    | some d => if d < w then some d else new
    | none => new

/-- A head frame passes the comma test (R363). -/
def commaOk (s : State) (g c len : Nat) : Bool :=
  match closingIn s g c with
  | none => true
  | some d => decide (transmitTime (accounted s g len) (portRate s g) + lcfTime s g (portRate s g) ≤ d)

/-- A port comes up or retrains at a width at which its operating list fails: its gates open (R362). -/
def checkSuspend (s : State) (g : Nat) : State :=
  if windowsFit s g (portRate s g) (operList s g).1 then s
  else raise1 (setB s (rEsPort g) fEsPortSuspended true) (36 + g) fEsPortEventSuspended

/-! ## Starting frames (R354, R355) -/

/-- The partner has paused class c of a port (R305). -/
def pausedNow (s : State) (g c : Nat) : Bool := (mapGet (portOf s g).paused c).isSome

/-- The shaper of a class holds its head frame: the credit is below 0, or a rate of 0 stops the class (R356). -/
def shaperHolds (s : State) (g c : Nat) : Bool :=
  shaperOn s g c && (decide (shaperCredit s g c < 0) || decide (getF s (rEsShaper g c) fEsShaperRate = 0))

/-- Held by gate, comma or shaper (R364); a port that is not up has no width, and so no comma. -/
def heldHere (s : State) (g c : Nat) (f : Frame) : Bool :=
  !(gateOpen s g c && (!(portUp s g) || commaOk s g c f.pkt.length) && !(shaperHolds s g c))

/-- Class c is eligible on a port (R354): its head frame. -/
def eligible (s : State) (g c : Nat) : Option Frame :=
  match queueOf s g c with
  | [] => none
  | f :: _ => if heldHere s g c f || pausedNow s g c then none else some f

/-- One cycle in which the head frame of a class is held counts in `ES_HOLD_CYCLES` (R364). -/
def countHold (s : State) (g c : Nat) : State :=
  match queueOf s g c with
  | [] => s
  | f :: _ => if heldHere s g c f then bumpR s (rEsHoldCycles g c) 1 else s

/-- Every class queue that waits on a port counts one cycle. -/
def countHolds (s : State) : State := s.es.queues.foldl (fun s e => countHold s (e.1 / 8) (e.1 % 8)) s

/-! ## The stages of attention messages (Table 05.9) -/

/-- A stage that began at `start` and ends now has a bound of `ns` nanoseconds: an operation above it is counted in the
register, with the largest excess in NCLK cycles (R21, R154; log entry 139). -/
def noteExcess (s : State) (r ns start : Nat) : State :=
  let excess := ceilDiv (4000 * elapsed s start - 3760 * ns) 3000
  if excess = 0 then s
  else setF (bumpF s r fAeExcessIngressCount 1) r fAeExcessIngressWorst
    (max (getF s r fAeExcessIngressWorst) (min (2 ^ 32 - 1) excess))

/-- The first byte of a message leaves a port: a stage ends; a fan-out ends with the last of its copies (R21, R154). -/
def endStage (s : State) (x : Stage) : State :=
  match x with
  | .bound r ns start => noteExcess s r ns start
  | .copy f =>
    match mapGet s.ae.fans f with
    | none => s
    | some (n, t) =>
      if n ≤ 1 then noteExcess { s with ae := { s.ae with fans := mapDel s.ae.fans f } } rAeExcessFanout 60 t
      else { s with ae := { s.ae with fans := mapPut s.ae.fans f (n - 1, t) } }

/-- The head frame of class c starts: it leaves its queue, pays its credit, frees the region it was forwarded from, and ends the
stages of the message that it begins. -/
def startFrame (s : State) (g c : Nat) (f : Frame) : State :=
  let s := if shaperOn s g c then
      setShaperCredit s g c (shaperCredit s g c - (65536 * accounted s g f.pkt.length : Nat))
    else s
  let s := setQueue s g c ((queueOf s g c).drop 1)
  let s := match f.from_ with
    | some i => leaveRegion s i c fun x => x.from_.isSome && decide (x.pkt = f.pkt)
    | none => s
  emit (f.stages.foldl endStage s) (.frame g (mkFrame c 0 f.dest f.hops f.pkt))

/-! ## Ingress metering (R366, R368) -/

/-- Key of the node-wide TC7 bucket. -/
def mgmtKey : Nat := 4096 * 8

def profileReg (s : State) (src c : Nat) : Nat := rImProfile (getF s (rImSource src) fImSourceProfile) c

/-- The key of a source's bucket, and of the shared record of a profile and class. -/
def bucketKey (n c : Nat) : Nat := n * 8 + c

/-- A record of a bucket under its profile: the credit rises while the class is policed, and never above its cap (R366). -/
def bucketUp (s : State) (r : Nat) (k : Credit) : Int :=
  let gain := if getB s r fImProfilePoliceEn then elapsed s k.time * gainOf (getF s r fImProfileRate) else 0
  min ((65536 * (1024 * getF s r fImProfileBurst) : Nat) : Int) (k.value + (gain : Nat))

/-- The credit of the buckets of a profile and class that have no record of their own. -/
def sharedCredit (s : State) (p c : Nat) : Int :=
  match mapGet s.im.shared (bucketKey p c) with
  | some k => bucketUp s (rImProfile p c) k
  | none => (65536 * (1024 * getF s (rImProfile p c) fImProfileBurst) : Nat)

/-- The credit of a source's bucket (R366). -/
def bucketCredit (s : State) (src c : Nat) : Int :=
  match mapGet s.im.credit (bucketKey src c) with
  | some k => bucketUp s (profileReg s src c) k
  | none => sharedCredit s (getF s (rImSource src) fImSourceProfile) c

def setBucket (s : State) (k : Nat) (v : Int) : State := { s with im := { s.im with credit := mapPut s.im.credit k ⟨v, s.time⟩ } }

/-- Meter a packet of accounted length `a`: whether it conforms (R366). -/
def meterSource (s : State) (src c a : Nat) : Bool × State :=
  let r := profileReg s src c
  if !(getB s r fImProfilePoliceEn) then (true, s)
  else
    let v := bucketCredit s src c
    if getF s r fImProfileRate = 0 ∨ v < (65536 * a : Nat) then
      (false, raise1 (bumpR (setBucket s (bucketKey src c) v) (rImDropCount c) 1) 54 fImEventDrop)
    else (true, setBucket s (bucketKey src c) (v - (65536 * a : Nat)))

/-- The credit of the TC7 bucket (R368). -/
def mgmtCredit (s : State) : Int := creditNow s s.im.credit mgmtKey (getF s rImMgmt fImMgmtRate) (getF s rImMgmt fImMgmtBurst)

/-- Meter a TC7 packet (R368). -/
def meterMgmt (s : State) (a : Nat) : Bool × State :=
  let v := mgmtCredit s
  if v < (65536 * a : Nat) then
    (false, raise1 (bumpR (setBucket s mgmtKey v) (rImDropCount 7) 1) 54 fImEventMgmtDrop)
  else (true, setBucket s mgmtKey (v - (65536 * a : Nat)))

/-! ## Losing and releasing a port -/

/-- A swap on a port that leaves the up state before its marker ends `ABORTED` (R302). -/
def dropSwap (s : State) (g : Nat) : State :=
  match (portOf s g).swap with
  | some w =>
    let s := raise1 s (17 + g) fFlPortEventSwapFail
    let s := if w.ours then setF (setB s rFlSwap fFlSwapBusy false) rFlSwap fFlSwapStatus stAborted else s
    updPort s g fun p => { p with swap := none }
  | none => s

/-- A port goes down: what it was sending and receiving is lost with the link; queued frames wait, and the pauses of either
end run on (R298, R299, R303, R305). -/
def portDown (s : State) (g st : Nat) : State :=
  let s := dropSwap s g
  let s := updPort s g fun p => { p with lcf := [], since := s.time, attempt := s.time }
  let s := setF (setF s (rFlPort g) fFlPortWidth 0) (rFlPort g) fFlPortLaneMap 0
  let s := setB s (rFlPort g) fFlPortPartnerValid false
  setPortState s g st

/-- A retrain of an up port (R298, R302): its flag, the time, the score; a swap before its marker ends; frames not yet
started wait, and the pauses of either end run on (R303, R305). -/
def retrainPort (s : State) (g : Nat) : State :=
  let s := dropSwap s g
  let s := raise1 s (17 + g) fFlPortEventRetrain
  let s := setR s (rFlPortLastRetrain g) s.time
  let s := tally s (288 + g) (256 * 256)
  updPort (setPortState s g 5) g fun p => { p with since := s.time, attempt := s.time }

/-- Release `RING_ATTACH` (R313). -/
def releaseRing (s : State) : State :=
  if getB s rFlRingStatus fFlRingStatusAttached then
    emit (setR s rFlRingStatus 0) (.ringAttach false)
  else setR s rFlRingStatus 0

/-- The ring ports begin to listen (R312); one that was up transmits no more. -/
def startListening (s : State) : State :=
  if getB s rFlRingControl fFlRingControlJoinEn then
    [16, 17].foldl (fun s g => if portDisabled s g then s else portDown s g 2) s
  else s

/-- A write of `FL_RING_CONTROL` changed `JOIN_EN` (R312): set, the ports listen; cleared, `RING_ATTACH` is no longer driven
and the ports stay down. -/
def joinChanged (s : State) : State :=
  if getB s rFlRingControl fFlRingControlJoinEn then startListening s
  else [16, 17].foldl (fun s g => if portState s g = 0 then s else portDown s g 1) (releaseRing s)

/-! ## Enabling and fencing ports (R299, R386) -/

/-- A port that is held no more begins to train, or a ring port to listen (R299, R312). -/
def wakePort (s : State) (g : Nat) : State :=
  let st := if !(isRing g) || getB s rFlRingStatus fFlRingStatusAttached then 3
    else if getB s rFlRingControl fFlRingControlJoinEn then 2 else 1
  updPort (setPortState s g st) g fun p => { p with since := s.time }

/-- The frames queued on a port are discarded, but for TC7 management datagrams (R386). -/
def dropQueued (s : State) (g : Nat) : State :=
  (List.range 8).foldl (init := s) fun s c =>
    ((queueOf s g c).filter fun f => !(mgmtFrame c f.pkt)).foldl
      (init := setQueue s g c ((queueOf s g c).filter fun f => mgmtFrame c f.pkt)) fun s f =>
      match f.from_ with
      | some i => leaveRegion s i c fun x => x.from_.isSome && decide (x.pkt = f.pkt)
      | none => s

/-- Both fence masks are replaced at once (R386). -/
def applyFence (s : State) (logical electrical : Nat) : State :=
  let t := setF (setF s rCfPortFence fCfPortFenceLogical logical) rCfPortFence fCfPortFenceElectrical electrical
  (List.range 18).foldl (init := t) fun t g =>
    let t := if logFenced t g then dropQueued t g else t
    if elecFenced t g ∧ portState t g ≠ 0 then portDown t g 0
    else if elecFenced s g ∧ portDisabled t g = false then wakePort t g
    else t

end Sys2Proof.Machine
end

