-- ==== Sys2Proof/Machine/Rings.lean ====
section
/-!
DEFINITION. Machine/Rings.lean: how a ring command starts and completes (R408, R409, R415 to R419).
-/

namespace Sys2Proof.Machine

/-- The opcodes a function accepts (Tables 14.4, 14.5 and 15.6). -/
def accepted (fn : Nat) : List Nat :=
  if fn = 1 then
    [0x01, 0x02, 0x03, 0x04, 0x05, 0x06, 0x10, 0x11, 0x12, 0x13, 0x14, 0x20, 0x21, 0x22, 0x23, 0x24, 0x25, 0x26, 0x27,
     0x28, 0x29, 0x30]
  else [0x30, 0x40, 0x41, 0x50, 0x51, 0x52, 0x53, 0x54, 0x55, 0x56, 0x57, 0x58, 0x59, 0x5A]

/-- The operand bits that an opcode assigns: offset, low bit, width (Tables 14.4, 14.5, 15.6). -/
def operandBits (op : Nat) : List (Nat × Nat × Nat) :=
  let buffer := [(0x10, 0, 64), (0x18, 0, 32)]
  if op = 0x01 then [(0x08, 0, 20), (0x0C, 0, 160)]
  else if op = 0x02 ∨ op = 0x03 ∨ op = 0x04 then [(0x08, 0, 20)]
  else if op = 0x05 then (0x08, 0, 20) :: buffer
  else if op = 0x06 then (0x08, 0, 12) :: (0x08, 16, 11) :: buffer
  else if op = 0x10 ∨ op = 0x12 then [(0x08, 0, 40)]
  else if op = 0x11 then [(0x08, 0, 40), (0x10, 0, 1)]
  else if op = 0x13 then [(0x08, 0, 40), (0x10, 0, 32)]
  else if op = 0x14 then []
  else if op = 0x20 then [(0x08, 0, 14), (0x0C, 0, 96)]
  else if op = 0x21 then [(0x08, 0, 14)]
  else if op = 0x22 then (0x08, 0, 14) :: buffer
  else if op = 0x23 then [(0x08, 0, 256)]
  else if op = 0x24 then [(0x08, 0, 32)]
  else if op = 0x25 then (0x08, 0, 32) :: buffer
  else if op = 0x26 then [(0x08, 0, 384)]
  else if op = 0x27 then [(0x08, 0, 14), (0x10, 0, 40), (0x18, 0, 32)]
  else if op = 0x28 then [(0x08, 0, 16)]
  else if op = 0x29 then [(0x08, 0, 12), (0x0C, 0, 32)]
  else if op = 0x30 then [(0x08, 0, 8), (0x0C, 0, 32), (0x10, 0, 96)]
  else if op = 0x40 then [(0x08, 0, 40), (0x10, 0, 10)]
  else if op = 0x41 then [(0x08, 0, 7)]
  else if op = 0x50 ∨ op = 0x51 then buffer
  else if op = 0x52 then (0x08, 0, 3) :: (0x08, 16, 12) :: buffer
  else if op = 0x53 then [(0x08, 0, 3)]
  else if op = 0x54 then (0x08, 0, 32) :: buffer
  else if op = 0x55 then (0x08, 0, 2) :: buffer
  else if op = 0x56 then [(0x08, 0, 4), (0x0C, 0, 32)]
  else if op = 0x57 then [(0x08, 0, 64)]
  else if op = 0x58 then (0x08, 0, 8) :: buffer
  else if op = 0x59 then [(0x08, 0, 1), (0x08, 4, 8)]
  else if op = 0x5A then [(0x08, 0, 1)]
  else []

/-- Fetched descriptors of a ring, oldest first. -/
def fetchedOn (s : State) (fn ring : Nat) : List (Nat × Cmd) :=
  s.qe.fetched.filter fun e => e.2.fn == fn && e.2.ring == ring

/-- The generation of a fetched descriptor (R428). -/
def genOf (s : State) (c : Cmd) : Nat :=
  if c.fn ≠ 1 then 0
  else match s.qe.fetched.find? fun e => e.2 == c.bare with
    | some e => e.1
    | none => s.qe.resets1

/-- Every earlier descriptor of a descriptor's ring has completed (R408: `FENCE`). -/
def ringIdle (s : State) (c : Cmd) : Bool :=
  !(s.qe.started.any fun r => r.fn == c.fn && r.ring == c.ring && r.gen == genOf s c)

/-- A descriptor leaves the fetched list and its command is running (R412, R415). -/
def beginCmd (s : State) (c : Cmd) : CmdRef × State :=
  let ref : CmdRef := ⟨c.fn, c.ring, c.tag, c.opcode, genOf s c⟩
  (ref, { s with qe := { s.qe with fetched := removeFirst (fun e => e.2 == c.bare) s.qe.fetched,
                                   started := s.qe.started ++ [ref] } })

/-- The Lexicon has halted (R431). -/
def lxHalted (s : State) : Bool := getB s rLxStatus fLxStatusHalted

/-- The descriptor's turn has come (R408, R415). -/
def turnOf (s : State) (c : Cmd) : Bool :=
  (match fetchedOn s c.fn c.ring with
    | [] => true
    | e :: _ => e.2 == c.bare) && (!c.fence || ringIdle s c)

/-! ## Recovery targets (R393) -/

/-- Targets of Table 13.5: a job, a shard set or a context. -/
def tgtJob (j : Nat) : Nat := j
def tgtSet (set : Nat) : Nat := 2 ^ 20 + set
def tgtCtx (i : Nat) : Nat := 2 ^ 21 + i

/-- The target of a recovery command (Table 13.5). -/
def recTarget (type : Nat) (b : Bytes) : Nat :=
  if type = 0x10 ∨ type = 0x11 then tgtJob (bfld b 0 0 16)
  else if type = 0x12 then (if bfld b 0 0 1 = 0 then tgtJob (bfld b 4 0 16) else tgtCtx (bfld b 4 0 20))
  else if type = 0x13 then tgtSet (bfld b 0 0 12)
  else tgtCtx (bfld b 0 0 20)

def serialFloor (s : State) : Nat := s.tn.floor

/-- `BEAT`: the target's recorded serial, or the floor (R393). -/
def beatOf (s : State) (t : Nat) : Nat :=
  match mapGet s.cf.table t with
  | some e => e.serial
  | none => serialFloor s

/-- `BEAT` in the completion of a `RECOVERY` descriptor refused with `FORMAT` (Table 14.4, R393). -/
def cmdBeat (s : State) (c : Cmd) : Nat :=
  let type := num c.d 8 1
  if 0x10 ≤ type ∧ type ≤ 0x15 then beatOf s (recTarget type (slice c.d 0x10 12)) else serialFloor s

/-- Descriptors at the front of a ring whose opcode the function does not accept complete with `FORMAT` (R418). -/
def sweepUnknown (fn ring : Nat) : Nat → State → State
  | 0, s => s
  | k + 1, s =>
    match fetchedOn s fn ring with
    | [] => s
    | e :: _ =>
      if (accepted fn).contains e.2.opcode || !(turnOf s e.2) then s
      else
        let (ref, s) := beginCmd s e.2
        sweepUnknown fn ring k (finish s ref (if fn = 0 ∧ lxHalted s = true then stInternal else stFormat))

/-- The completion of a command that is refused for its form (R418): a work request's `TAG` and a recovery command's `BEAT` are
given with any refusal (Table 14.4, R337, R393). -/
def formRefusal (s : State) (ref : CmdRef) (c : Cmd) : Completion :=
  ⟨ref, stFormat, 0, if c.opcode = 0x26 then num c.d 0x34 4 else 0, 0, if c.opcode = 0x30 then cmdBeat s c else 0, false⟩

/-- Start the command of a descriptor when its turn has come: an opcode its function does not accept, another row's
opcode, or a reserved bit set completes with `FORMAT` (R408, R418); a halted Lexicon ends every command of Function 0
(R431). -/
def startCmd (s : State) (op : Nat) (c : Cmd) (f : CmdRef → State → State) : State :=
  live s fun s =>
    if !(turnOf s c) then s
    else
      let (ref, s) := beginCmd s c
      let s := if c.fn = 0 ∧ lxHalted s = true then finish s ref stInternal
        else if !((accepted c.fn).contains op) || c.opcode != op || !(c.reservedOk (operandBits op)) then
          complete s (formRefusal s ref c)
        else f ref (takeReads s c.reads)
      sweepUnknown c.fn c.ring s.qe.fetched.length s

/-- A host buffer is written, or the write fails: `ABORTED` and `DMA_ERROR` (R416). -/
def putHost (s : State) (r : CmdRef) (addr : Nat) (b : Bytes) (ok : Bool) (done : State → State) : State :=
  if ok then done (emit s (.hostWrite addr b)) else finish (raise s r.fn 1 fQeEvent1DmaError.lo) r stAborted

/-- A host buffer was read, or the read failed (R416). -/
def withHost (s : State) (r : CmdRef) (buf : Option Bytes) (f : Bytes → State) : State :=
  match buf with
  | some b => f b
  | none => finish (raise s r.fn 1 fQeEvent1DmaError.lo) r stAborted

/-- A status refusal when there is one. -/
def refuseOr (s : State) (r : CmdRef) (why : Option Nat) (f : State) : State :=
  match why with
  | some st => finish s r st
  | none => f

end Sys2Proof.Machine
end

