-- ==== Sys2Proof/Machine/Packets.lean ====
section
/-!
DEFINITION. Machine/Packets.lean: transport headers (Table 11.1), routes (Table 13.3), spraying (R325), management
messages the node sends (R374, R375, R377).
-/

namespace Sys2Proof.Machine

/-- The fields of a transport header (Table 11.1). -/
structure Hdr where
  kind      : Nat
  last      : Nat := 0
  trigEn    : Nat := 0
  service   : Nat := 0
  inc       : Nat := 0
  src       : Nat
  dst       : Nat
  dstConn   : Nat := 0
  srcConn   : Nat := 0
  psn       : Nat := 0
  msn       : Nat := 0
  len       : Nat := 0
  off       : Nat := 0
  trigger   : Nat := 0
  rOff      : Nat := 0
  rkey      : Nat := 0
  ackPsn    : Nat := 0
  ackValid  : Nat := 0
  delivered : Nat := 0
  code      : Nat := 0
  reqMsn    : Nat := 0
deriving DecidableEq, Repr

/-- The 64 bytes of a header, reserved bits zero and `VERSION` 1. -/
def Hdr.bytes (h : Hdr) : Bytes :=
  natLe 4 (1 + at_ 4 4 h.kind + at_ 8 1 h.last + at_ 9 1 h.trigEn + at_ 10 2 h.service + at_ 12 8 h.inc
    + at_ 20 12 h.src)
  ++ natLe 4 (at_ 0 12 h.dst + at_ 12 14 h.dstConn) ++ natLe 4 (at_ 0 14 h.srcConn) ++ natLe 4 (at_ 0 24 h.psn)
  ++ natLe 4 (at_ 0 24 h.msn) ++ natLe 4 h.len ++ natLe 4 h.off ++ natLe 4 (at_ 0 12 h.trigger)
  ++ natLe 8 (at_ 0 40 h.rOff) ++ natLe 4 h.rkey ++ natLe 4 (at_ 0 24 h.ackPsn + at_ 24 1 h.ackValid)
  ++ natLe 4 (at_ 0 24 h.delivered) ++ natLe 4 (at_ 0 8 h.code) ++ natLe 4 (at_ 0 24 h.reqMsn) ++ zeros 4

/-- The fields of a packet's header. -/
def hdrOf (p : Bytes) : Hdr :=
  { kind := bfld p 0 4 4, last := bfld p 0 8 1, trigEn := bfld p 0 9 1, service := bfld p 0 10 2, inc := bfld p 0 12 8,
    src := bfld p 0 20 12, dst := bfld p 4 0 12, dstConn := bfld p 4 12 14, srcConn := bfld p 8 0 14,
    psn := bfld p 0x0C 0 24, msn := bfld p 0x10 0 24, len := num p 0x14 4, off := num p 0x18 4,
    trigger := bfld p 0x1C 0 12, rOff := bfld p 0x20 0 40, rkey := num p 0x28 4, ackPsn := bfld p 0x2C 0 24,
    ackValid := bfld p 0x2C 24 1, delivered := bfld p 0x30 0 24, code := bfld p 0x34 0 8, reqMsn := bfld p 0x38 0 24 }

/-- The largest message (R317). -/
def msgMax : Nat := 16777216

/-- A packet's shape keeps R318: `k` payload bytes. -/
def shapeOk (h : Hdr) (k : Nat) : Bool :=
  match h.kind with
  | 0 | 1 | 3 =>
    decide (h.len ≤ msgMax ∧ h.off % 4096 = 0 ∧ (h.off < h.len ∨ h.len = 0 ∧ h.off = 0) ∧ k = min 4096 (h.len - h.off) ∧
      (h.last = 1 ↔ h.off + k = h.len))
  | 2 => decide (h.len ≤ msgMax ∧ h.off = 0 ∧ k = 0 ∧ h.last = 1)
  | 7 => decide (h.len = 0 ∧ h.off = 0 ∧ k = 0 ∧ h.last = 1)
  | 6 => decide (h.off = 0 ∧ k = h.len)
  | _ => decide (h.off = 0 ∧ k = 0)

/-- A packet passes R319, its class and the node's own ID given; `MSG` has the services 0 to 2 (R398). -/
def packetOk (s : State) (tc : Nat) (p : Bytes) : Bool :=
  let h := hdrOf p
  decide (h.bytes = p.take 64) && decide (64 ≤ p.length) && decide (h.kind ≤ 7) && decide (h.dst = nodeId s)
    && shapeOk h (p.length - 64) && decide (tc = 7 ↔ h.kind = 6 ∧ h.service = 2)
    && decide (h.kind = 0 → h.service ≤ 2) && decide (h.kind = 6 → h.service ≠ 0)

/-! ## Spraying (R325) -/

/-- A port may take packets of a class; TC7 management passes a logical fence (R386). -/
def portTakes (s : State) (c g : Nat) : Bool :=
  portUp s g && !(elecFenced s g) && (decide (c = 7) || !(logFenced s g)) && !((portOf s g).stalled.contains c)

/-- The fabric port with the fewest bytes queued in the class among those of a mask that qualify; ties go to the lowest. -/
def sprayPort (s : State) (c mask : Nat) : Option Nat :=
  (((List.range 16).filter fun g => decide (fld mask g 1 = 1) && portTakes s c g).foldl (init := none) fun best g =>
    match best with
    | none => some g
    | some b => if queuedBytes s g c < queuedBytes s b c then some g else best)

/-- Where a packet leaves: a ring port that the mask names (bit 16 or 17), or a sprayed fabric port. -/
def outPort (s : State) (c mask : Nat) : Option Nat :=
  if fld mask 16 1 = 1 then some 16 else if fld mask 17 1 = 1 then some 17 else sprayPort s c mask

/-- Count a packet sent (Table 11.12). -/
def countSent (s : State) (p : Bytes) : State :=
  let s := bumpR s rFtTxPackets 1
  if (hdrOf p).kind = 5 then bumpR s rFtNaks 1 else s

/-- Queue a packet on a port, which ends stages when it starts (R21; R308: `DEST` and `HOPS` matter on the ring). -/
def putFrameFor (s : State) (g c dest hops : Nat) (p : Bytes) (stages : List Stage) : State :=
  enqueue (countSent s p) g ⟨c, if isRing g then dest else 0, if isRing g then hops else 0, p, none, stages⟩

/-- Queue a packet on a port. -/
def putFrame (s : State) (g c dest hops : Nat) (p : Bytes) : State := putFrameFor s g c dest hops p []

/-- The ports a connection may use, as a mask (R325). -/
def Conn.ports (k : Conn) : Nat := if k.path = 0 then k.mask else if k.path = 1 then 2 ^ 16 else 2 ^ 17

/-- Hand a datagram to the spray (R348). -/
def sendDgram (s : State) (d : DgramOut) : State := { s with ft := { s.ft with dgrams := s.ft.dgrams ++ [d] } }

/-- Spray the waiting datagrams that a port can take, the first one of them (R348). -/
def sprayDgram (s : State) : State :=
  match s.ft.dgrams.find? fun d => (outPort s d.tc d.mask).isSome with
  | none => s
  | some d =>
    match outPort s d.tc d.mask with
    | none => s
    | some g => putFrame { s with ft := { s.ft with dgrams := s.ft.dgrams.erase d } } g d.tc d.dest d.hops d.pkt

/-! ## Routes (Table 13.3) -/

def rtPath (r : Nat) : Nat := fld r 0 2
def rtHops (r : Nat) : Nat := fld r 2 6
def rtMask (r : Nat) : Nat := fld r 8 16
def rtConn (r : Nat) : Nat := fld r 24 14
def rtPeerConn (r : Nat) : Nat := fld r 38 14
def rtInc (r : Nat) : Nat := fld r 52 8
/-- The ports of a route, as a mask. -/
def rtPorts (r : Nat) : Nat := match rtPath r with
  | 1 => rtMask r
  | 2 => 2 ^ 16
  | 3 => 2 ^ 17
  | _ => 0

/-- The route to a node in a bank; `PATH` 0 is none. -/
def routeIn (bank : NMap Nat) (node : Nat) : Option Nat :=
  match mapGet bank node with
  | some r => if rtPath r = 0 then none else some r
  | none => none

def composed (s : State) : Bool := getB s rCfStatus fCfStatusComposed
def prevOpen (s : State) : Bool := getB s rCfStatus fCfStatusPrevOpen
def epochNow (s : State) : Nat := getF s rCfEpoch fCfEpochCurrent
def epochPrev (s : State) : Nat := getF s rCfEpoch fCfEpochPrevious

/-- The bank of a request's epoch; an epoch without one uses the current bank (R381). -/
def bankOf (s : State) (epoch : Nat) : NMap Nat :=
  if prevOpen s && decide (epoch = epochPrev s) && decide (epoch ≠ epochNow s) then s.cf.previous else s.cf.current

def noRoute (s : State) : State := raise1 s 55 fCfEventNoRoute

/-! ## Management messages the node sends -/

/-- The management header and body (Table 13.1). -/
def mgmtBytes (type reply target status seq serial epoch : Nat) (body : Bytes) : Bytes :=
  natLe 4 (at_ 0 8 type + at_ 8 1 reply + at_ 16 12 target) ++ natLe 4 (at_ 0 12 body.length + at_ 16 8 status)
    ++ natLe 8 seq ++ natLe 4 serial ++ natLe 4 epoch ++ zeros 8 ++ body

/-- The ASCII text `GXF-MGMT` (R375). -/
def mgmtCustom : Bytes := [0x47, 0x58, 0x46, 0x2D, 0x4D, 0x47, 0x4D, 0x54]

/-- The 32-byte tag of a message from `src` under a key (R375). -/
def mgmtTag (key : Bytes) (src : Nat) (m : Bytes) : Bytes := kmac256 key (natLe 2 src ++ m) mgmtCustom

/-- A management datagram from this node. -/
def mgmtDgram (s : State) (key : Bytes) (dst mask hops : Nat) (m : Bytes) : DgramOut :=
  let b := m ++ mgmtTag key (nodeId s) m
  let h : Hdr := { kind := 6, last := 1, service := 2, src := nodeId s, dst := dst, len := b.length }
  ⟨7, mask, dst, hops, h.bytes ++ b⟩

/-- Send a `NOTICE` to every listed manager with a route in the current bank (R377). -/
def noticeManagers (s : State) (kind object : Nat) : State :=
  let seq := s.cf.notices + 1
  let s := { s with cf := { s.cf with notices := seq } }
  s.tn.managers.foldl (init := s) fun s (_, m) =>
    match m.key, routeIn s.cf.current m.node with
    | some key, some r =>
      sendDgram s (mgmtDgram s key m.node (rtPorts r) (rtHops r)
        (mgmtBytes 0x20 1 m.node 0 seq 0 (epochNow s) (natLe 4 (kind % 256) ++ natLe 4 (object % 65536))))
    | _, _ => s

end Sys2Proof.Machine
end

