-- ==== Sys2Proof/Machine/Conns.lean ====
section
/-!
DEFINITION. Machine/Conns.lean: connections: sending, go-back-N, reassembly, delivery, work requests, regions, receive
slots and triggers (R320 to R348).
-/

namespace Sys2Proof.Machine

def connOf (s : State) (c : Nat) : Option Conn := mapGet s.ft.conns c
def putConn (s : State) (c : Nat) (k : Conn) : State := { s with ft := { s.ft with conns := mapPut s.ft.conns c k } }
def updConn (s : State) (c : Nat) (f : Conn → Conn) : State :=
  { s with ft := { s.ft with conns := mapAdj s.ft.conns c f } }

/-- `a` + `d` in PSN and MSN arithmetic (R319). -/
def psnAdd (a d : Nat) : Nat := (a + d) % 2 ^ 24
/-- `a` − `b` in PSN and MSN arithmetic. -/
def psnSub (a b : Nat) : Nat := (a + 2 ^ 24 - b % 2 ^ 24) % 2 ^ 24

/-- A connection as it is opened (R321). -/
def mkConn (tc path hops inc peer peerConn mask : Nat) (tree : Bool) : Conn :=
  { state := 1, tc := tc, path := path, hops := hops, inc := inc, peer := peer, peerConn := peerConn, mask := mask,
    sndUna := 0, sndNxt := 0, sndMax := 0, rcvNxt := 0, rcvDel := 0, retries := 0, cause := 0, tree := tree, bitmap := 0,
    nextMsn := 0, nextPsn := 0, tx := [], ctl := [], reasm := [], unacked := 0, ackSince := none, gapSince := none,
    retxSince := none }

/-- The connection context as read (Table 11.2). -/
def connBytes (k : Option Conn) : Bytes :=
  match k with
  | none => zeros 32
  | some k =>
    natLe 4 (at_ 0 2 k.state + at_ 2 3 k.tc + at_ 5 2 k.path + at_ 7 6 k.hops + at_ 13 8 k.inc)
      ++ natLe 4 (at_ 0 12 k.peer + at_ 12 14 k.peerConn) ++ natLe 4 (at_ 0 16 k.mask) ++ natLe 4 k.sndUna
      ++ natLe 4 k.sndNxt ++ natLe 4 k.rcvNxt ++ natLe 4 k.rcvDel ++ natLe 4 (at_ 0 8 k.retries + at_ 8 8 k.cause)

/-! ## Sending -/

/-- Packets of a message (R318). -/
def TxMsg.total (m : TxMsg) : Nat := if m.kind = 2 ∨ m.kind = 7 then 1 else max 1 (ceilDiv m.len 4096)

/-- Packets of a message, or of the part of it that stands here in the stream. -/
def TxMsg.packets (m : TxMsg) : Nat := m.cut.getD (m.total - m.first)

/-- A message with no optional field. -/
def TxMsg.plain (kind service len : Nat) (src : TxSrc) : TxMsg :=
  { kind := kind, service := service, msn := 0, psn := 0, len := len, src := src, trigEn := false, trig := 0, rOff := 0,
    rkey := 0, code := 0, reqMsn := 0, wr := none, first := 0, cut := none,
    region := none }

/-- Add a message to an open connection's stream: it takes the next MSN, unless it is a `REPORT`, and the next PSNs. -/
def sendOn (s : State) (c : Nat) (m : TxMsg) : State :=
  updConn s c fun k =>
    if k.state ≠ 1 then k
    else
      let m := { m with psn := k.nextPsn, msn := if m.kind = 7 then 0 else k.nextMsn }
      { k with tx := k.tx ++ [m], nextPsn := psnAdd k.nextPsn m.packets,
               nextMsn := if m.kind = 7 then k.nextMsn else psnAdd k.nextMsn 1 }

/-- A stream with a `REPORT` as its next packet (R335): what has not been sent yet takes later PSNs, and a message that is
being sent goes on behind it.  What waits for an earlier `REPORT` that has not been sent waits for it at its new PSN. -/
def withReport (k : Conn) (m : TxMsg) : Conn :=
  let p := k.sndMax
  let begun (x : TxMsg) : Bool := serialBefore 24 x.psn p
  let whole (x : TxMsg) : Bool := !(serialAfter 24 (psnAdd x.psn x.packets) p)
  let sent := k.tx.filter begun
  let halves := sent.filter fun x => !(whole x)
  { k with
    reasm := k.reasm.map fun (e : Nat × Reasm) =>
      (e.1, { e.2 with repPsn := e.2.repPsn.map fun q => if serialBefore 24 q p then q else psnAdd q 1 })
    tx := sent.map (fun x => if whole x then x else { x with cut := some (psnSub p x.psn), region := none })
      ++ [{ m with psn := p }]
      ++ halves.map (fun x => { x with psn := psnAdd p 1, first := x.first + psnSub p x.psn })
      ++ (k.tx.filter fun x => !(begun x)).map (fun x => { x with psn := psnAdd x.psn 1 })
    nextPsn := psnAdd k.nextPsn 1 }

/-- Send a `REPORT` on an open connection. -/
def reportOn (s : State) (c : Nat) (m : TxMsg) : State := updConn s c fun k => if k.state ≠ 1 then k else withReport k m

/-- Send a message of the node's own whose first byte ends stages on a connection (R21, R118, R398). -/
def sendFor (s : State) (c service : Nat) (b : Bytes) (stages : List Stage) : State :=
  sendOn s c { TxMsg.plain 0 service b.length (.bytes b) with stages := stages }

/-- Send a message of the node's own on a connection (R118, R398). -/
def sendBytes (s : State) (c service : Nat) (b : Bytes) : State := sendFor s c service b []

/-- The stages that packet `i` of a message ends: its first packet, sent for the first time (R21). -/
def packetStages (m : TxMsg) (i : Nat) (again : Bool) : List Stage := if m.first + i = 0 ∧ again = false then m.stages else []

/-- Packet `i` of a message, formed from the bytes it holds now (R330, R337). -/
def formPacket (s : State) (k : Conn) (m : TxMsg) (i : Nat) : Bytes :=
  let j := m.first + i
  let off := 4096 * j
  let n := if m.kind = 2 ∨ m.kind = 7 then 0 else min 4096 (m.len - off)
  let pl := match m.src with
    | .bytes b => slice b off n
    | .npa a => readMem s (a + off) n
  let h : Hdr :=
    { kind := m.kind, last := if j + 1 = m.total then 1 else 0, trigEn := if m.trigEn then 1 else 0,
      service := m.service, inc := k.inc, src := nodeId s, dst := k.peer, dstConn := k.peerConn, srcConn := 0,
      psn := psnAdd m.psn i, msn := m.msn, len := m.len, off := off, trigger := if m.trigEn then m.trig else 0,
      rOff := m.rOff, rkey := m.rkey, code := m.code, reqMsn := m.reqMsn }
  h.bytes ++ pl

/-- The locked slots that packet `i` of a message reads its bytes from (R184, R337). -/
def packetLocks (s : State) (m : TxMsg) (i : Nat) : List Nat :=
  match m.src with
  | .bytes _ => []
  | .npa a =>
    let off := 4096 * (m.first + i)
    lockedIn s (a + off) (if m.kind = 2 ∨ m.kind = 7 then 0 else min 4096 (m.len - off))

/-- The local connection ID in a packet's `SRC_CONN`. -/
def setSrcConn (p : Bytes) (c : Nat) : Bytes := putF p 8 0 14 c

/-- An `ACK` or `NAK` of a connection (R327, R328). -/
def ackPacket (s : State) (c : Nat) (k : Conn) (kind code : Nat) : Bytes :=
  Hdr.bytes { kind := kind, inc := k.inc, src := nodeId s, dst := k.peer, dstConn := k.peerConn, srcConn := c,
              ackPsn := psnSub k.rcvNxt 1, ackValid := 1, delivered := k.rcvDel, code := code }

/-- Send an `ACK` (R327). -/
def sendAck (s : State) (c : Nat) : State :=
  updConn s c fun k => { k with ctl := k.ctl ++ [ackPacket s c k 4 0], unacked := 0, ackSince := none }

/-- Send a `NAK` with `CODE` `OK` (R328); it acknowledges as an `ACK` does (R327). -/
def sendNak (s : State) (c : Nat) : State :=
  updConn s c fun k => { k with ctl := k.ctl ++ [ackPacket s c k 5 0], unacked := 0, ackSince := none }

/-- Send the next packet of an open connection that a port can take (R325, R326); one whose bytes lie in a locked slot waits
(R184). -/
def sprayConn (s : State) (c : Nat) : State :=
  match connOf s c with
  | none => s
  | some k =>
    match outPort s k.tc k.ports with
    | none => s
    | some g =>
      if k.state ≠ 1 then s
      else match k.ctl with
        | p :: rest => putFrame (putConn s c { k with ctl := rest }) g k.tc k.peer k.hops p
        | [] =>
          if k.sndNxt = k.nextPsn ∨ 256 ≤ psnSub k.sndNxt k.sndUna then s
          else match k.tx.find? fun m => decide (psnSub k.sndNxt m.psn < m.packets) with
            | none => s
            | some m =>
              let locks := packetLocks s m (psnSub k.sndNxt m.psn)
              if locks ≠ [] then waitLocks s (.packet c) locks
              else
              let p := setSrcConn (formPacket s k m (psnSub k.sndNxt m.psn)) c
              let again := serialBefore 24 k.sndNxt k.sndMax
              let sent := k.sndNxt
              let k := { k with sndNxt := psnAdd k.sndNxt 1,
                                sndMax := if again then k.sndMax else psnAdd k.sndNxt 1,
                                retxSince := match k.retxSince with
                                  | some t => some t
                                  | none => some s.time }
              let s := putFrameFor (putConn s c k) g k.tc k.peer k.hops p (packetStages m (psnSub sent m.psn) again)
              if again then tally (bumpR s rFtRetxPackets 1) (288 + g) 256 else s

/-! ## Trigger counters and work requests -/

def counterOf (s : State) (i : Nat) : Nat := getF s (rFtCounter i) fFtCounterValue
def setCounter (s : State) (i v : Nat) : State := setF s (rFtCounter i) fFtCounterValue (v % 2 ^ 32)
/-- A counter rises by 1 (R346). -/
def bumpCounter (s : State) (i : Nat) : State := setCounter s i (counterOf s i + 1)

def wOp (w : Bytes) : Nat := bfld w 0 0 2
def wService (w : Bytes) : Nat := bfld w 0 2 2
def wArmed (w : Bytes) : Bool := decide (bfld w 0 4 1 = 1)
def wRtrigEn (w : Bytes) : Bool := decide (bfld w 0 5 1 = 1)
def wDoneEn (w : Bytes) : Bool := decide (bfld w 0 6 1 = 1)
def wConn (w : Bytes) : Nat := bfld w 4 0 14
def wLocal (w : Bytes) : Nat := bfld w 8 0 40
def wLength (w : Bytes) : Nat := num w 0x10 4
def wRkey (w : Bytes) : Nat := num w 0x14 4
def wOffset (w : Bytes) : Nat := bfld w 0x18 0 40
def wRtrig (w : Bytes) : Nat := bfld w 0x20 0 12
def wDone (w : Bytes) : Nat := bfld w 0x20 16 12
def wArm (w : Bytes) : Nat := bfld w 0x24 0 12
def wThreshold (w : Bytes) : Nat := num w 0x28 4
def wTag (w : Bytes) : Nat := num w 0x2C 4

/-- A work request completes (R338, R346). -/
def endWr (s : State) (id status : Nat) : State :=
  match mapGet s.ft.wrs id with
  | none => s
  | some w =>
    let s := { s with ft := { s.ft with wrs := mapDel s.ft.wrs id } }
    let s := if status = stOk ∧ wDoneEn w.wr = true then bumpCounter s (wDone w.wr) else s
    completeWith s w.ref status (wTag w.wr)

/-- The work requests of a connection that are in its send order, by ascending MSN distance from `base`. -/
def sentWrs (s : State) (c : Nat) : List (Nat × Nat × Wr) :=
  s.ft.wrs.filterMap fun (id, w) =>
    match w.st with
    | .sent m => if w.conn = c then some (id, m, w) else none
    | .armed => none

/-- A work request joins its connection's send order (R337, R347). -/
def sendWr (s : State) (id : Nat) : State :=
  match mapGet s.ft.wrs id with
  | none => s
  | some w =>
    match connOf s w.conn with
    | none => s
    | some k =>
      let b := w.wr
      let m : TxMsg :=
        { TxMsg.plain (wOp b) (wService b) (wLength b) (.npa (wLocal b)) with
          trigEn := wRtrigEn b, trig := wRtrig b, rOff := if wOp b = 0 then 0 else wOffset b,
          rkey := if wOp b = 0 then 0 else wRkey b, wr := some id }
      sendOn { s with ft := { s.ft with wrs := mapPut s.ft.wrs id { w with st := .sent k.nextMsn } } } w.conn m

/-- An armed request's counter has reached its threshold (R347). -/
def armedReady (s : State) (w : Bytes) : Bool :=
  decide ((counterOf s (wArm w) + 2 ^ 32 - wThreshold w) % 2 ^ 32 < 2 ^ 31)

/-! ## Regions -/

/-- A message leaves a region's in-flight count; a `REVOKING` region with none left becomes `REVOKED` (R342). -/
def regionDone (s : State) (i : Option Nat) : State :=
  match i with
  | none => s
  | some i =>
    match mapGet s.ft.regions i with
    | none => s
    | some r =>
      let r := { r with inFlight := r.inFlight - 1 }
      if r.st = .revoking ∧ r.inFlight = 0 then
        let s := { s with ft := { s.ft with regions := mapPut s.ft.regions i { r with st := .revoked, refs := [] } } }
        raise1 (finishAll s r.refs stOk 0) 35 fFtEventRevokeDone
      else { s with ft := { s.ft with regions := mapPut s.ft.regions i r } }

def regionAdd (s : State) (i : Nat) : State :=
  { s with ft := { s.ft with regions := mapAdj s.ft.regions i fun r => { r with inFlight := r.inFlight + 1 } } }

def rgBase (d : Bytes) : Nat := bfld d 0 0 40
def rgLength (d : Bytes) : Nat := bfld d 8 0 40
def rgWrite (d : Bytes) : Bool := decide (bfld d 0x10 0 1 = 1)
def rgRead (d : Bytes) : Bool := decide (bfld d 0x10 1 1 = 1)
def rgAny (d : Bytes) : Bool := decide (bfld d 0x10 2 1 = 1)
def rgPeer (d : Bytes) : Nat := bfld d 0x10 3 12

/-- The checks of R339 in order: the region's index and descriptor, or the failure. -/
def regionCheck (s : State) (write : Bool) (src rkey off len : Nat) : Except Nat (Nat × Bytes) :=
  let i := fld rkey 0 14
  match mapGet s.ft.regions i with
  | none => .error stAccess
  | some r =>
    if r.gen ≠ fld rkey 14 18 then .error stAccess
    else if r.st ≠ .active then .error stRevoked
    else if (if write then rgWrite r.desc else rgRead r.desc) = false then .error stAccess
    else if rgAny r.desc = false ∧ rgPeer r.desc ≠ src then .error stAccess
    else if rgLength r.desc < off + len then .error stAccess
    else .ok (i, r.desc)

/-! ## Failing messages and connections -/

/-- Record a violation (R344, Table 11.11). -/
def recordViol (s : State) (c node here code rkey off : Nat) : State :=
  let s := raise1 s 35 (if code = stRevoked then fFtEventRevokedRefuse else fFtEventAccessViolation)
  let s := setR s rFtViol (at_ 0 14 c + at_ 14 12 node + at_ 26 1 here + at_ 27 8 code)
  let s := setR s rFtViolKey (at_ 0 32 rkey)
  setR s rFtViolOffset (at_ 0 40 off)

/-- A message fails at the receiver: it is recorded and noticed, and the `REPORT` is the next packet of the node's own
stream (R335, R344). -/
def failMsg (s : State) (c msn code : Nat) : State :=
  match connOf s c with
  | none => s
  | some k =>
    match mapGet k.reasm msn with
    | none => s
    | some e =>
      let s := recordViol s c k.peer 1 code e.rkey e.rOff
      let s := noticeOrLose s 1 0x01 code c (at_ 0 12 k.peer + 2 ^ 12) e.rOff e.rkey
      let s := reportOn s c { TxMsg.plain 7 0 0 (.bytes []) with code := code, reqMsn := msn }
      updConn s c fun k =>
        { k with reasm := mapPut k.reasm msn { e with failed := some code, repPsn := some k.sndMax, held := [] } }

/-- Every message a connection was receiving or serving is discarded, and leaves its region's count (R322, R342). -/
def dropMessages (s : State) (c : Nat) : State :=
  match connOf s c with
  | none => s
  | some k =>
    let s := putConn s c { k with tx := [], ctl := [], reasm := [], bitmap := 0, ackSince := none, gapSince := none,
                                  retxSince := none, unacked := 0 }
    (k.reasm.map (·.2.region) ++ k.tx.map (·.region)).foldl regionDone s

/-- An open connection enters `ERROR` (R323). -/
def connFail (s : State) (c cause : Nat) : State :=
  match connOf s c with
  | none => s
  | some k =>
    if k.state ≠ 1 then s
    else
      let s := putConn s c { k with state := 2, cause := cause }
      let s := (sentWrs s c).foldl (fun s w => endWr s w.1 cause) s
      raise1 (dropMessages s c) 35 fFtEventConnError

/-- A tree connection in `ERROR` is reported (R380). -/
def reportTree (s : State) (c : Nat) : State := noticeManagers (raise1 s 55 fCfEventTreeError) 2 c

/-- A connection enters `ERROR`, and a tree connection is reported (R323, R380). -/
def connError (s : State) (c cause : Nat) : State :=
  match connOf s c with
  | none => s
  | some k =>
    if k.state ≠ 1 then s
    else if k.tree then reportTree (connFail s c cause) c
    else connFail s c cause

/-- A connection closes (R322, R345, R347). -/
def connShut (s : State) (c : Nat) : State :=
  let s := (s.ft.wrs.filter fun w => w.2.conn == c).foldl (fun s w => endWr s w.1 stAborted) s
  let s := dropMessages s c
  let recv := (s.ft.recv.filter fun r => !(r.2.conn == c && r.2.status.isSome)).map fun (i, r) =>
    (i, if r.conn = c then { r with status := some stAborted } else r)
  { s with ft := { s.ft with conns := mapDel s.ft.conns c, recv := recv } }

/-! ## Tree connections (R380) -/

/-- The connections that a bank names. -/
def bankNames (bank : NMap Nat) (c : Nat) : Bool := bank.any fun e => rtPath e.2 != 0 && rtConn e.2 == c

/-- An accepted request holds a route over a connection (R381). -/
def routeHeld (s : State) (c : Nat) : Bool :=
  s.ae.reqs.any (fun e => e.2.reply == some c || e.2.children.any fun k => k.conn == some c)
    || s.ae.ops.any fun e => e.2.reply == some c

/-- A tree connection that no bank names and no request holds closes, once what it was given to send has been delivered. -/
def sweepTrees (s : State) : State :=
  (s.ft.conns.filter fun e => e.2.tree && e.2.tx.isEmpty && !(bankNames s.cf.current e.1 || bankNames s.cf.previous e.1
      || bankNames s.cf.staging e.1 || routeHeld s e.1)).foldl (fun s e => connShut s e.1) s

/-! ## Reassembly -/

/-- The entry's payload is all there (R331). -/
def Reasm.complete (e : Reasm) : Bool := e.last && (decide (e.kind = 2) || decide (e.got = e.len))

/-- Messages in reassembly, of all connections. -/
def reasmHeld (s : State) : Nat := sumOf (s.ft.conns.map fun c => c.2.reasm.length)

def heldBytes (e : Reasm) : Nat := sumOf (e.held.map fun h => h.2.length)

/-- Bytes of the attention receive buffer in use (R333). -/
def attnUsed (s : State) : Nat :=
  sumOf (s.ae.inbox.map fun w => w.1.length) + sumOf (s.ae.slotWait.map fun w => w.1.length)
    + sumOf (s.ft.conns.map fun c => sumOf (c.2.reasm.map fun e =>
        if e.2.kind = 0 ∧ e.2.service ≠ 1 then heldBytes e.2 else 0))

/-- Bytes of the reorder store in use (R333). -/
def storeUsed (s : State) : Nat :=
  sumOf (s.ft.conns.map fun c => sumOf (c.2.reasm.map fun e =>
    if e.2.kind = 0 ∧ e.2.service ≠ 1 then 0 else heldBytes e.2))

def attnBuffer : Nat := 16 * 2 ^ 20
def storeSize : Nat := 8 * 2 ^ 20

/-- The work request that a `READ_RESP` answers. -/
def readWr (s : State) (c reqMsn : Nat) : Option (Nat × Wr) :=
  ((sentWrs s c).find? fun (_, m, w) => decide (m = reqMsn ∧ wOp w.wr = 2)).map fun (id, _, w) => (id, w)

/-- Where a `WRITE` or `READ_RESP` places its bytes: the NPA and the bytes it may place. -/
def targetOf (s : State) (c : Nat) (e : Reasm) : Option (Nat × Nat) :=
  if e.failed.isSome then none
  else if e.kind = 1 then
    match e.region with
    | some i => (mapGet s.ft.regions i).map fun r => (rgBase r.desc + e.rOff, e.len)
    | none => none
  else if e.kind = 3 then (readWr s c e.reqMsn).map fun (_, w) => (wLocal w.wr, min e.len (wLength w.wr))
  else none

/-- Bytes [a, a + n) overlap an undelivered earlier `WRITE` or `READ_RESP` of the connection (Table 11.3). -/
def mustHold (s : State) (c : Nat) (k : Conn) (msn a n : Nat) : Bool :=
  k.reasm.any fun (m, e) => serialBefore 24 m msn && (match targetOf s c e with
    | some (b, len) => overlaps a n b len
    | none => false)

/-- Write bytes but for those in the ranges given. -/
def writeSkipping (s : State) (skip : List (Nat × Nat)) (a : Nat) : Bytes → State
  | [] => s
  | b :: bs =>
    writeSkipping (if skip.any fun r => decide (r.1 ≤ a ∧ a < r.1 + r.2) then s else writeByte s a b) skip (a + 1) bs

/-- Place bytes of a message, leaving those that a later message of the connection has placed (R334). -/
def placeBytes (s : State) (c msn a : Nat) (b : Bytes) : State :=
  match connOf s c with
  | none => s
  | some k =>
    let later := k.reasm.flatMap fun (m, e) => if serialAfter 24 m msn then e.placed else []
    updConn (writeSkipping s later a b) c fun k =>
      { k with reasm := mapAdj k.reasm msn fun e => { e with placed := (a, b.length) :: e.placed } }

/-- Place or hold one packet's payload of a `WRITE` or `READ_RESP` (Table 11.3); `none` when the store is full. -/
def placeOrHold (s : State) (c msn off : Nat) (b : Bytes) : Option State :=
  match connOf s c with
  | none => none
  | some k =>
    match mapGet k.reasm msn with
    | none => some s
    | some e =>
      match targetOf s c e with
      | none => some s
      | some (base, len) =>
        let b := b.take (len - off)
        if mustHold s c k msn (base + off) b.length then
          if storeSize < storeUsed s + b.length then none
          else some (updConn s c fun k => { k with reasm := mapPut k.reasm msn { e with held := mapPut e.held off b } })
        else some (placeBytes s c msn (base + off) b)

/-- Place what a delivered message held back, in MSN order (Table 11.3). -/
def releaseHeld (s : State) (c : Nat) : State :=
  match connOf s c with
  | none => s
  | some k =>
    let ms := sortBy (fun a b => decide (psnSub a k.rcvDel ≤ psnSub b k.rcvDel)) (k.reasm.map (·.1))
    ms.foldl (init := s) fun s m =>
      match (connOf s c).bind fun k => mapGet k.reasm m with
      | none => s
      | some e =>
        if e.kind = 1 ∨ e.kind = 3 then
          e.held.foldl (init := s) fun s (off, b) =>
            match connOf s c, targetOf s c e with
            | some k, some (base, _) =>
              if mustHold s c k m (base + off) b.length then s
              else updConn (placeBytes s c m (base + off) b) c fun k =>
                { k with reasm := mapAdj k.reasm m fun e => { e with held := mapDel e.held off } }
            | _, _ => s
        else s

/-! ## Receive slots -/

/-- The oldest unused slot of a connection (R345). -/
def oldestSlot (s : State) (c : Nat) : Option (Nat × RecvSlot) :=
  (s.ft.recv.filter fun r => r.2.conn == c && r.2.status.isNone).foldl (init := none) fun best r =>
    match best with
    | none => some r
    | some b => if r.2.order < b.2.order then some r else some b

/-- A receive-service message that is the oldest undelivered one takes its slot, or fails (R345). -/
def claimSlot (s : State) (c msn : Nat) : State :=
  match (connOf s c).bind fun k => mapGet k.reasm msn with
  | none => s
  | some e =>
    if e.kind ≠ 0 ∨ e.service ≠ 1 ∨ e.slot.isSome ∨ e.failed.isSome then s
    else match oldestSlot s c with
      | none => failMsg s c msn stQuota
      | some (i, r) =>
        if r.len < e.len then failMsg s c msn stLength
        else
          let s := updConn s c fun k => { k with reasm := mapPut k.reasm msn { e with slot := some i, held := [] } }
          e.held.foldl (fun s (off, b) => writeMem s (r.addr + off) b) s

/-! ## Delivery (R332) -/

/-- What a delivered message does for its service. -/
def deliverTo (s : State) (c : Nat) (k : Conn) (e : Reasm) : State :=
  if e.failed.isSome then s
  else
    let s := if e.trigEn then bumpCounter s e.trig else s
    let body := (e.held.map (·.2)).flatten
    match e.kind with
    | 0 =>
      if e.service = 0 then { s with ae := { s.ae with inbox := s.ae.inbox ++ [(body, s.time)] } }
      else if e.service = 2 then { s with ft := { s.ft with hoIn := s.ft.hoIn ++ [(k.peer, body)] } }
      else match e.slot with
        | some i => { s with ft := { s.ft with recv := mapAdj s.ft.recv i fun r =>
            { r with status := some stOk, got := e.len } } }
        | none => s
    | 1 => regionDone s e.region
    | 3 =>
      match readWr s c e.reqMsn with
      | some (id, _) => endWr s id stOk
      | none => s
    | _ => s

/-- A `READ_REQ` at its delivery: checked, and served by a `READ_RESP` (R339, R340). -/
def serveRead (s : State) (c msn : Nat) (k : Conn) (e : Reasm) : State :=
  match regionCheck s false k.peer e.rkey e.rOff e.len with
  | .error code => failMsg s c msn code
  | .ok (i, d) =>
    sendOn (regionAdd s i) c
      { TxMsg.plain 3 0 e.len (.npa (rgBase d + e.rOff)) with reqMsn := msn, region := some i }

/-- Deliver messages in MSN order as far as they are complete (R332); whether any was delivered. -/
def deliverLoop (c : Nat) : Nat → Bool → State → Bool × State
  | 0, any, s => (any, s)
  | fuel + 1, any, s =>
    match connOf s c with
    | none => (any, s)
    | some k =>
      let msn := k.rcvDel
      let s := claimSlot s c msn
      match (connOf s c).bind fun k => mapGet k.reasm msn with
      | none => (any, s)
      | some e =>
        if !e.complete then (any, s)
        else
          let s := if e.kind = 2 ∧ e.failed.isNone then serveRead s c msn k e else s
          match (connOf s c).bind fun k => mapGet k.reasm msn with
          | none => (any, s)
          | some e =>
            if e.failed.isSome ∧ e.repPsn.isSome then (any, s)
            else
              let s := deliverTo s c k e
              let s := updConn s c fun k => { k with reasm := mapDel k.reasm msn, rcvDel := psnAdd msn 1 }
              deliverLoop c fuel true (releaseHeld s c)

/-- Deliver what can be delivered, and acknowledge a delivery (R327, R332). -/
def tryDeliver (s : State) (c : Nat) : Bool × State :=
  deliverLoop c (((connOf s c).map fun k => k.reasm.length).getD 0) false s

/-! ## Acknowledgements (R329) -/

/-- Everything an acknowledgement acknowledges leaves the sender (R329, R335, R342). -/
def trimTx (s : State) (c : Nat) : State :=
  match connOf s c with
  | none => s
  | some k =>
    let acked (m : TxMsg) : Bool := !(serialAfter 24 (psnAdd m.psn m.packets) k.sndUna)
    let gone := k.tx.filter acked
    let reasm := k.reasm.map fun (m, e) =>
      (m, match e.repPsn with
        | some p => if gone.any fun t => t.kind == 7 && t.psn == p then { e with repPsn := none } else e
        | none => e)
    let s := putConn s c { k with tx := k.tx.filter fun m => !(acked m), reasm := reasm }
    (gone.map (·.region)).foldl regionDone s

/-- The peer has delivered every message before `d` (R338). -/
def peerDelivered (s : State) (c d : Nat) : State :=
  ((sentWrs s c).filter fun (_, m, w) => decide (wOp w.wr ≠ 2) && serialBefore 24 m d).foldl
    (fun s (id, _, _) => endWr s id stOk) s

/-- An `ACK_PSN` and `DELIVERED` arrive (R329, R338); a message that waited for its `REPORT` may then be delivered. -/
def senderAck (s : State) (c a d : Nat) : State :=
  match connOf s c with
  | none => s
  | some k =>
    let u := psnAdd a 1
    let s := if serialAfter 24 u k.sndUna then
        let sndMax := if serialBefore 24 k.sndMax u then u else k.sndMax
        let k := { k with
          sndUna := u, retries := 0, sndMax := sndMax, sndNxt := if serialBefore 24 k.sndNxt u then u else k.sndNxt,
          retxSince := if u = sndMax then none else some s.time }
        sweepTrees (trimTx (putConn s c k) c)
      else s
    let s := peerDelivered s c d
    let r := tryDeliver s c
    if r.1 then sendAck r.2 c else r.2

/-- The sender goes back to a PSN (R329); what lies before `SND_UNA` has been acknowledged, and a stale `NAK` resends from
there (log entry 180). -/
def goBack (s : State) (c p : Nat) : State :=
  match connOf s c with
  | none => s
  | some k =>
    let p := if serialBefore 24 p k.sndUna then k.sndUna else p
    if serialBefore 24 p k.sndNxt then raise1 (putConn s c { k with sndNxt := p }) 35 fFtEventRetransmit else s

/-! ## Receiving sequenced packets -/

/-- The open connection a packet belongs to (R324). -/
def connFor (s : State) (h : Hdr) : Option Conn :=
  match connOf s h.dstConn with
  | none => none
  | some k => if k.state = 1 ∧ k.peer = h.src ∧ k.peerConn = h.srcConn ∧ k.inc = h.inc then some k else none

/-- The `NAK` with `CODE` `ABORTED` for a packet of no open connection, by the port it came in on (R324). -/
def nakUnknown (s : State) (port tc : Nat) (h : Hdr) : State :=
  let p := Hdr.bytes { kind := 5, inc := h.inc, src := nodeId s, dst := h.src, dstConn := h.srcConn, srcConn := h.dstConn,
                       ackValid := 1, ackPsn := 2 ^ 24 - 1, code := stAborted }
  sendDgram s ⟨tc, 2 ^ port, h.src, 63, p⟩

/-- A packet agrees with what is known of its message (R318, R319). -/
def agrees (k : Conn) (h : Hdr) : Bool :=
  match mapGet k.reasm h.msn with
  | none => true
  | some e => decide (h.kind = 7 ∨ e.kind = h.kind ∧ e.service = h.service ∧ e.len = h.len ∧
      e.trigEn = decide (h.trigEn = 1) ∧ e.trig = h.trigger ∧ e.rOff = h.rOff ∧ e.rkey = h.rkey)

/-- A reassembly entry as its first packet opens it. -/
def mkReasm (h : Hdr) : Reasm :=
  { kind := h.kind, service := h.service, len := h.len, got := 0, last := false, trigEn := decide (h.trigEn = 1),
    trig := h.trigger, rOff := h.rOff, rkey := h.rkey, reqMsn := h.reqMsn, code := h.code, held := [], placed := [],
    slot := none, failed := none, repPsn := none, region := none }

/-- The first packet of a message opens its entry; a `WRITE` is checked then (R331, R339). -/
def openReasm (s : State) (c : Nat) (k : Conn) (h : Hdr) : State :=
  let s := updConn s c fun k => { k with reasm := mapPut k.reasm h.msn (mkReasm h) }
  if h.kind = 1 then
    match regionCheck s true k.peer h.rkey h.rOff h.len with
    | .error code => failMsg s c h.msn code
    | .ok (i, _) =>
      updConn (regionAdd s i) c fun k =>
        { k with reasm := mapAdj k.reasm h.msn fun e => { e with region := some i } }
  else s

/-- A `REPORT` completes the work request it names (R338, R344); a code that the node does not know stands for `INTERNAL`
(R11). -/
def takeReport (s : State) (c : Nat) (k : Conn) (h : Hdr) : State :=
  let code := knownCode h.code
  match (sentWrs s c).find? fun (_, m, _) => decide (m = h.reqMsn) with
  | some (id, _, w) => endWr (recordViol s c k.peer 0 code (wRkey w.wr) (wOffset w.wr)) id code
  | none => recordViol s c k.peer 0 code 0 0

/-- Place or hold an accepted packet's payload (Table 11.3); `none` when it finds no room (R326, R331). -/
def acceptPacket (s : State) (c : Nat) (k : Conn) (h : Hdr) (pl : Bytes) : Option State :=
  if h.kind = 7 then some (takeReport s c k h)
  else if serialBefore 24 h.msn k.rcvDel then some s
  else
    let fresh := (mapGet k.reasm h.msn).isNone
    if fresh = true ∧ 65536 ≤ reasmHeld s then none
    else
      let s := if fresh then openReasm s c k h else s
      let s := if h.msn = k.rcvDel then claimSlot s c h.msn else s
      match (connOf s c).bind fun k => mapGet k.reasm h.msn with
      | none => some s
      | some e =>
        let count (s : State) : State := updConn s c fun k =>
          { k with reasm := mapAdj k.reasm h.msn fun e =>
              { e with got := e.got + pl.length, last := e.last || decide (h.last = 1) } }
        let hold (s : State) : State := updConn s c fun k =>
          { k with reasm := mapPut k.reasm h.msn { e with held := mapPut e.held h.off pl } }
        if e.failed.isSome ∨ e.kind = 2 then some (count s)
        else if e.kind = 0 ∧ e.service ≠ 1 then
          if attnBuffer < attnUsed s + pl.length then none else some (count (hold s))
        else if e.kind = 0 then
          match e.slot with
          | some i => some (count (match mapGet s.ft.recv i with
              | some r => writeMem s (r.addr + h.off) pl
              | none => s))
          | none => if storeSize < storeUsed s + pl.length then none else some (count (hold s))
        else (placeOrHold s c h.msn h.off pl).map count

/-- `RCV_NXT` advances over every set bit (R326): the advance and the bitmap left. -/
def advanceBits : Nat → Nat → Nat → Nat × Nat
  | 0, n, b => (n, b)
  | fuel + 1, n, b => if b % 2 = 1 then advanceBits fuel (n + 1) (b / 2) else (n, b)

/-- The bookkeeping of an acceptance: the bit, `RCV_NXT`, and the gap timer (R326, R328). -/
def advance (s : State) (c d : Nat) : State :=
  match connOf s c with
  | none => s
  | some k =>
    let (n, b) := advanceBits 257 0 (Nat.lor k.bitmap (2 ^ d))
    let gap : Option Nat := if b = 0 then none
      else if n = 0 then (match k.gapSince with
        | some t => some t
        | none => some s.time)
      else some s.time
    let started := decide (gap.isSome ∧ (n ≠ 0 ∨ k.gapSince.isNone))
    let s := putConn (bumpR s rFtRxPackets 1) c
      { k with rcvNxt := psnAdd k.rcvNxt n, bitmap := b, gapSince := gap, unacked := k.unacked + 1,
               ackSince := match k.ackSince with
                 | some t => some t
                 | none => some s.time }
    if started ∧ getF s rFtControl fFtControlNakTime = 0 then sendNak s c else s

/-- Acknowledge after an acceptance (R327). -/
def maybeAck (s : State) (c : Nat) (delivered : Bool) : State :=
  match connOf s c with
  | none => s
  | some k =>
    if delivered ∨ getF s rFtControl fFtControlAckCoalesce ≤ k.unacked ∨ getF s rFtControl fFtControlAckTime = 0 then
      sendAck s c
    else s

def badPacket (s : State) : State := raise1 s 35 fFtEventBadPacket

/-- A sequenced packet arrives (R319, R324, R326). -/
def receiveSeq (s : State) (port tc : Nat) (p : Bytes) : State :=
  let h := hdrOf p
  match connFor s h with
  | none => nakUnknown s port tc h
  | some k =>
    if !(agrees k h) then badPacket s
    else
      let c := h.dstConn
      let s := if h.ackValid = 1 then senderAck s c h.ackPsn h.delivered else s
      match connOf s c with
      | none => s
      | some k =>
        let d := psnSub h.psn k.rcvNxt
        if 2 ^ 23 < d ∨ d < 256 ∧ fld k.bitmap d 1 = 1 then sendAck (bumpR s rFtDuplicates 1) c
        else if 256 ≤ d then raise1 s 35 fFtEventWindowDrop
        else match acceptPacket s c k h (p.drop 64) with
          | none => raise1 s 35 fFtEventWindowDrop
          | some s =>
            let s := advance s c d
            let (any, s) := tryDeliver s c
            maybeAck s c any

/-- An `ACK` or `NAK` arrives (R323, R324, R329). -/
def receiveAck (s : State) (p : Bytes) : State :=
  let h := hdrOf p
  match connFor s h with
  | none => s
  | some _ =>
    let c := h.dstConn
    if h.kind = 5 ∧ h.code = stAborted then connError s c stAborted
    else
      let s := senderAck s c h.ackPsn h.delivered
      if h.kind = 5 ∧ h.code = stOk then goBack s c (psnAdd h.ackPsn 1) else s

/-! ## Datagrams (R348, R424) -/

/-- A receive-service datagram goes to the buffers of Function 1, header and payload, before its notice; one that
cannot take a notice is discarded (R424). -/
def hostDgram (s : State) (h : Hdr) (p : Bytes) : State :=
  let ring := getF s rQeControl1 fQeControl1NoticeRing
  let i := (getF s (ringIndex 1 ring) fQeRingIndex1CqProducer
    + (s.qe.finished.filter fun c => c.ref.fn == 1 && c.ref.ring == ring).length) % ringSize s 1 ring
  match notice s 1 0x03 0 (p.length - 64) h.src 0 0 with
  | (true, s) => bumpR (emit s (.hostWrite (4096 * getF s rQeDgramBase fQeDgramBaseBase + 4160 * i) p)) rFtDgrams 1
  | (false, s) => raise1 s 35 fFtEventNoSlot

/-- A datagram arrives (R348). -/
def receiveDgram (s : State) (port : Nat) (p : Bytes) : State :=
  let h := hdrOf p
  let body := p.drop 64
  if h.service = 3 then bumpR { s with ft := { s.ft with hbIn := s.ft.hbIn ++ [(h.src, body)] } } rFtDgrams 1
  else if h.service = 2 then
    bumpR { s with ft := { s.ft with mgmtIn := s.ft.mgmtIn ++ [⟨port, h.src, body⟩] } } rFtDgrams 1
  else hostDgram s h p

/-- Take the head packet of a class region when it is of a kind: a packet that breaks R319 is discarded, and so is one
of a reserved kind, which no row takes. -/
def takeKind (s : State) (port tc kind : Nat) (f : State → Bytes → State) : State :=
  live s fun s =>
    match headPacket s port tc with
    | none => s
    | some p =>
      if 8 ≤ (hdrOf p).kind then badPacket (takePacket s port tc)
      else if (hdrOf p).kind ≠ kind then s
      else
        let s := takePacket s port tc
        if packetOk s tc p then f s p else badPacket s

end Sys2Proof.Machine
end

