-- ==== Sys2Proof/Machine/LinkCmds.lean ====
section
/-!
DEFINITION. Machine/LinkCmds.lean: the commands of the Galxifin links, the board ring, the egress scheduler and the
ingress meter (R294 to R314, R354 to R369), but for those that are register writes.
-/

namespace Sys2Proof.Machine

/-- ACLK cycles of `ns` nanoseconds, rounded up, at 940 MHz (R353). -/
def cyclesNs (ns : Nat) : Nat := ceilDiv (94 * ns) 100

/-- Cycles of a pause time in units of 32 ns (Table 10.3). -/
def pauseCycles (t : Nat) : Nat := cyclesNs (32 * t)

/-- A time on the local counter has come (R452). -/
def reached (s : State) (t : Nat) : Bool := decide (elapsed s t < 2 ^ 63)

/-! ## Lanes -/

/-- The score index of a physical lane (Table 13.4). -/
def laneIndex (g l : Nat) : Nat := if g < 16 then 17 * g + l else if g = 16 then 272 + l else 280 + l

def laneReg (g l : Nat) : Nat := if isRing g then rFlLaneRing (g - 16) l else rFlLane g l
/-- Physical lanes of a port. -/
def lanesOf (g : Nat) : Nat := if isRing g then 8 else 17

def laneHist (s : State) (g l : Nat) : LaneHist := (mapGet s.tn.lanes (laneIndex g l)).getD ⟨0, [], false⟩

def retiredLane (s : State) (g l : Nat) : Bool := (laneHist s g l).retired

def putHist (s : State) (g l : Nat) (h : LaneHist) : State :=
  commit { s with tn := { s.tn with lanes := mapPut s.tn.lanes (laneIndex g l) h } } 4

/-- A lane's history takes a retrain (R298, R448): the last 16 times are kept. -/
def noteRetrain (s : State) (g l : Nat) : State :=
  let h := laneHist s g l
  putHist s g l { h with count := h.count + 1, times := (h.times ++ [s.time]).drop (h.times.length - 15) }

/-- A lane is recorded as retired (R301, R455). -/
def retireLane (s : State) (g l : Nat) : State := putHist s g l { laneHist s g l with retired := true }

/-- A lane carries data. -/
def laneInUse (s : State) (g l : Nat) : Bool := decide (fld (getF s (rFlPort g) fFlPortLaneMap) l 1 = 1)

/-- Retrain an up port over lanes that caused it (R298). -/
def retrainOver (s : State) (g : Nat) (ls : List Nat) : State :=
  let s := retrainPort s g
  let s := updPort s g fun p => { p with failedLanes := (p.failedLanes ++ ls).eraseDups }
  ls.foldl (init := s) fun s l => tally (noteRetrain s g l) (laneIndex g l) (256 * 256)

/-- LANE_FAULT (R298): a lane in use loses lock or alignment, or the partner begins training. -/
def execLaneFault (port : Nat) (lane : Option Nat) (s : State) : Host.Outcome State Fault Refusal :=
  .next (live s fun s =>
    if !(portUp s port) then s
    else match lane with
      | none => retrainOver s port []
      | some l => if laneInUse s port l then retrainOver s port [l] else s)

/-- FEC_PERIOD (R298, R387): what a 1 ms period counted on each physical lane. -/
def execFecPeriod (port : Nat) (corrected uncorrected : List Nat) (s : State) : Host.Outcome State Fault Refusal :=
  .next (live s fun s =>
    if !(portUp s port) then s
    else
      let ls := List.range (lanesOf port)
      let s := ls.foldl (init := s) fun s l =>
        let k := corrected.getD l 0
        let u := uncorrected.getD l 0
        let s := bumpF (bumpF s (laneReg port l) fFlLaneCorrected k) (laneReg port l) fFlLaneUncorrected u
        if k = 0 ∧ u = 0 then s else tally s (laneIndex port l) (k + 256 * (16 * u))
      let bad := ls.filter fun l =>
        laneInUse s port l && decide (getF s rFlControl fFlControlUncorrLimit < uncorrected.getD l 0)
      if bad = [] then s else retrainOver s port bad)

/-! ## Training (R297, R300) -/

/-- The lanes a training uses, as physical lanes by logical number, the width, and the lane that the spare replaces. -/
structure TrainedAs where
  lanes : NMap Nat
  width : Nat
  spare : Option Nat
deriving DecidableEq, Repr

/-- The physical lane on which the markers of a logical lane were found (R292). -/
def foundOn (found : List (Nat × Nat)) (l : Nat) : Option Nat := (found.find? fun e => e.2 == l).map (·.1)

/-- Logical lanes with the physical lanes that carry them. -/
def placed (found : List (Nat × Nat)) (ls : List Nat) : NMap Nat := ls.filterMap fun l => (foundOn found l).map fun p => (l, p)

/-- The physical lane that a logical lane failed on: where it was found, or the lowest on which nothing trained. -/
def lostOn (found : List (Nat × Nat)) (l : Nat) : Nat :=
  (foundOn found l).getD (((List.range 17).find? fun p => !(found.any fun e => e.1 == p)).getD l)

/-- What a port comes up as, or `none` when too few lanes trained; lanes are placed by their markers (R292). At the first
training after class C or W the spare replaces one lane that fails or is retired; later it stands only for the lane it
already replaces. Of more than eight trained lanes, x8 takes the lowest (log entry 17). -/
def trainAs (s : State) (g : Nat) (found : List (Nat × Nat)) : Option TrainedAs :=
  if isRing g then
    let good := (List.range 8).filter fun l => (foundOn found l).isSome
    if good.length = 8 then some ⟨placed found good, 2, none⟩
    else if 4 ≤ good.length then some ⟨placed found (good.take 4), 1, none⟩ else none
  else
    let held := if getB s (rFlPort g) fFlPortSpareIn then some (getF s (rFlPort g) fFlPortSpareFor) else none
    let sound (l : Nat) : Bool := match foundOn found l with
      | some p => !(retiredLane s g p)
      | none => false
    let good := (List.range 16).filter sound
    let bad := (List.range 16).filter fun l => !(good.contains l)
    let spare := match held with
      | some l => some l
      | none => if (portOf s g).trained = [] ∧ bad.length = 1 then bad.head? else none
    match spare with
    | some l =>
      if bad.all (· = l) && sound 16 then some ⟨placed found ((List.range 16).filter (· ≠ l) ++ [16]), 3, some l⟩
      else
        let usable := good.filter (· ≠ l) ++ (if sound 16 then [16] else [])
        if 8 ≤ usable.length then some ⟨placed found (usable.take 8), 2, held⟩ else none
    | none =>
      if bad = [] then some ⟨placed found good, 3, none⟩
      else if 8 ≤ good.length then some ⟨placed found (good.take 8), 2, none⟩ else none

/-- A port has finished a training attempt; once every fabric port has, `FABRIC_DONE` reads 1 (Table 16.12). -/
def noteAttempt (s : State) (g : Nat) : State :=
  let s := updPort s g fun p => { p with tried := true }
  if (List.range 16).all fun k => (portOf s k).tried then setB s rPwStart fPwStartFabricDone true else s

/-- PORT_TRAINED (R297, R300). -/
def execPortTrained (port : Nat) (t : Training) (s : State) : Host.Outcome State Fault Refusal :=
  .next (live s fun s =>
    if portDisabled s port || !(portState s port = 3 || portState s port = 5) then s
    else
      let fromUp := portState s port = 5
      let s := noteAttempt s port
      match trainAs s port t.lanes with
      | none =>
        let s := setF (setF s (rFlPort port) fFlPortWidth 0) (rFlPort port) fFlPortLaneMap 0
        updPort (setPortState s port 1) port fun p => { p with attempt := s.time }
      | some a =>
        let s := match a.spare with
          | some l =>
            let s := if getB s (rFlPort port) fFlPortSpareIn then s else retireLane s port (lostOn t.lanes l)
            setF (setB s (rFlPort port) fFlPortSpareIn true) (rFlPort port) fFlPortSpareFor l
          | none => s
        let s := setF s (rFlPort port) fFlPortWidth a.width
        let s := setF s (rFlPort port) fFlPortLaneMap (sumOf (a.lanes.map fun e => 2 ^ e.2))
        let s := if fromUp then s else setB s (rFlPort port) fFlPortPartnerValid false
        let s := updPort (setPortState s port 4) port fun p =>
          { p with
            trained := t.lanes.map (·.1), since := s.time, block := t.block % 2 ^ 32, aligned := s.time,
            place := placed t.lanes (List.range 17), failedLanes := p.failedLanes.filter fun l => !(t.lanes.any fun e => e.1 == l) }
        checkSuspend s port)

/-- PORT_TRAIN_RETRY (R297): a port that stays down trains again every 1 ms; a ring port only while attached (R312). -/
def execPortTrainRetry (port : Nat) (s : State) : Host.Outcome State Fault Refusal :=
  .next (live s fun s =>
    if portState s port = 1 ∧ portDisabled s port = false ∧ due s (portOf s port).attempt 940000 = true ∧
        (isRing port = false ∨ getB s rFlRingStatus fFlRingStatusAttached = true) then
      setPortState s port 3
    else s)

/-! ## Joining the ring (R312, R313) -/

/-- Once both ring ports have listened, `RING_ATTACH` is driven and each trains with its neighbour (R312). -/
def attachIfListened (s : State) : State :=
  if getB s rFlRingStatus fFlRingStatusListenedE && getB s rFlRingStatus fFlRingStatusListenedW
      && !(getB s rFlRingStatus fFlRingStatusAttached) then
    let s := emit (setB s rFlRingStatus fFlRingStatusAttached true) (.ringAttach true)
    [16, 17].foldl (init := s) fun s g =>
      if portState s g = 2 then updPort (setPortState s g 3) g fun p => { p with since := s.time, attempt := s.time } else s
  else s

/-- A ring port has listened. -/
def listened (s : State) (g : Nat) : State :=
  if portState s g = 2 then
    attachIfListened (setB s rFlRingStatus (if g = 16 then fFlRingStatusListenedE else fFlRingStatusListenedW) true)
  else s

/-- LISTEN_DONE (R312). -/
def execListenDone (port : Nat) (s : State) : Host.Outcome State Fault Refusal :=
  .next (live s fun s => if isRing port && getB s rFlRingControl fFlRingControlJoinEn then listened s port else s)

/-- LISTEN_LIMIT_EXPIRY (R312): without a signal the port counts as listened; with one it listens again. -/
def execListenLimitExpiry (port : Nat) (signal : Bool) (s : State) : Host.Outcome State Fault Refusal :=
  .next (live s fun s =>
    let limit := 1024 * getF s rFlRingControl fFlRingControlListenLimit
    if isRing port && decide (portState s port = 2) && getB s rFlRingControl fFlRingControlJoinEn
        && due s (portOf s port).since limit then
      if signal then
        updPort (raise1 s (17 + port) fFlPortEventRetrain) port fun p => { p with since := s.time }
      else listened s port
    else s)

/-- DETACH_LIMIT_EXPIRY (R313): a ring port that stays down too long releases `RING_ATTACH`, and the join starts again. -/
def execDetachLimitExpiry (port : Nat) (s : State) : Host.Outcome State Fault Refusal :=
  .next (live s fun s =>
    let limit := 1024 * getF s rFlRingControl fFlRingControlDetachLimit
    let st := portState s port
    if isRing port && decide (limit ≠ 0) && getB s rFlRingStatus fFlRingStatusAttached
        && decide (st = 1 ∨ st = 3 ∨ st = 5) && decide (limit < elapsed s (portOf s port).since) then
      startListening (releaseRing (raise1 s (17 + port) fFlPortEventDetach))
    else s)

/-! ## Link control frames (R296) -/

/-- HELLO: the partner; a changed ring neighbour is noticed (R296, R314, R385). -/
def takeHello (s : State) (g : Nat) (b : Bytes) : State :=
  let node := bfld b 0 12 12
  let changed := isRing g && (portOf s g).heard.any (· ≠ node)
  let s := setB (setF s (rFlPort g) fFlPortPartner node) (rFlPort g) fFlPortPartnerValid true
  let s := updPort s g fun p => { p with heard := some node }
  if changed then
    noticeManagers (raise1 (raise1 s (17 + g) fFlPortEventNeighbourChange) 55 fCfEventRingChange) 3 g
  else s

/-- PAUSE: each class named is paused for its time, or released at time 0 (R305). -/
def takePause (s : State) (g : Nat) (b : Bytes) : State :=
  (List.range 8).foldl (init := s) fun s c =>
    if bfld b 4 c 1 = 0 then s
    else
      let t := num b (8 + 2 * c) 2
      updPort s g fun p =>
        if t = 0 then { p with paused := mapDel p.paused c, stalled := p.stalled.filter (· ≠ c) }
        else
          let since := match mapGet p.paused c with
            | some x => x.since
            | none => s.time
          { p with paused := mapPut p.paused c ⟨(s.time + pauseCycles t) % 2 ^ 64, since⟩ }

/-- A `SWAP_REQ` or `SWAP_ACK` frame (Table 10.3). -/
def mkSwap (s : State) (g type lane both block : Nat) : Bytes :=
  putF (putF (putF (mkLcf s g type) 0x18 0 4 lane) 0x18 4 1 both) 0x1C 0 32 block

/-- SWAP_REQ: always answered; for the lane of a swap of this node's own, the request of the lower node ID stands (R302).
`BOTH` says that this node moves its own transmit lane as well (Table 10.3).  A further request of the partner takes the place
of its earlier one, which it has given up. -/
def takeSwapReq (s : State) (g : Nat) (b : Bytes) : State :=
  let lane := bfld b 0x18 0 4
  let block := num b 0x1C 4
  let both := decide (bfld b 0x18 4 1 = 1)
  let s := sendLcf s g (mkSwap s g 3 lane 0 block)
  match (portOf s g).swap with
  | some w =>
    if w.ours ∨ w.acked = false then
      if w.lane = lane ∧ bfld b 0 12 12 < nodeId s then
        updPort s g fun p => { p with swap := some { w with block := block, acked := true } }
      else s
    else updPort s g fun p => { p with swap := some ⟨lane, block, false, true, s.time, both⟩ }
  | none =>
    if getB s (rFlPort g) fFlPortSpareIn || isRing g then s
    else updPort s g fun p => { p with swap := some ⟨lane, block, false, true, s.time, both⟩ }

/-- SWAP_ACK: the partner agrees to the swap in progress (R301). -/
def takeSwapAck (s : State) (g : Nat) (b : Bytes) : State :=
  match (portOf s g).swap with
  | some w =>
    if (w.ours ∨ w.acked = false) ∧ w.lane = bfld b 0x18 0 4 ∧ w.block = num b 0x1C 4 then
      updPort s g fun p => { p with swap := some { w with acked := true } }
    else s
  | none => s

/-- A received LCF of a type (R296). -/
def takeLcf (s : State) (g : Nat) (b : Bytes) : State :=
  if b.length ≠ 64 then raise1 s (17 + g) fFlPortEventLcfBad
  else match bfld b 0 0 4 with
    | 0 => takeHello s g b
    | 1 => takePause s g b
    | 2 => takeSwapReq s g b
    | 3 => takeSwapAck s g b
    | _ => raise1 s (17 + g) fFlPortEventLcfBad

/-- The node discards every frame while a reset of class N or H runs (R315). -/
def discarding (s : State) : Bool := decide (s.power.running = some .N ∨ s.power.running = some .H)

/-- An LCF of the type a row names, on a port that is up. -/
def lcfRow (s : State) (g type : Nat) (b : Bytes) : State :=
  live s fun s => if portUp s g && !(discarding s) && decide (bfld b 0 0 4 = type) then takeLcf s g b else s

/-- HELLO (R296). -/
def execHello (port : Nat) (lcf : Bytes) (s : State) : Host.Outcome State Fault Refusal := .next (lcfRow s port 0 lcf)

/-- PAUSE (R305). -/
def execPause (port : Nat) (lcf : Bytes) (s : State) : Host.Outcome State Fault Refusal := .next (lcfRow s port 1 lcf)

/-- SWAP_REQ (R301, R302). -/
def execSwapReq (port : Nat) (lcf : Bytes) (s : State) : Host.Outcome State Fault Refusal := .next (lcfRow s port 2 lcf)

/-- SWAP_ACK (R301). -/
def execSwapAck (port : Nat) (lcf : Bytes) (s : State) : Host.Outcome State Fault Refusal := .next (lcfRow s port 3 lcf)

/-- HELLO_SEND (R296). -/
def execHelloSend (port : Nat) (s : State) : Host.Outcome State Fault Refusal :=
  .next (live s fun s => sendLcf s port (mkLcf s port 0))

/-- PAUSE_REPEAT (R303): each time half of `PAUSE_TIME` has passed while the fill stays above `LO`. -/
def execPauseRepeat (port tc : Nat) (s : State) : Host.Outcome State Fault Refusal :=
  .next (live s fun s =>
    let t := getF s rFlControl fFlControlPauseTime
    match mapGet (portOf s port).sent tc with
    | some at0 =>
      if t ≠ 0 ∧ regionLo s port tc < regionFill s port tc ∧ due s at0 (cyclesNs (16 * t)) = true then
        sendPause (updPort s port fun p => { p with sent := mapPut p.sent tc s.time }) port [tc]
      else s
    | none => s)

/-- PAUSE_EXPIRY (R305): the class resumes when its time has run out. -/
def execPauseExpiry (port tc : Nat) (s : State) : Host.Outcome State Fault Refusal :=
  .next (live s fun s =>
    match mapGet (portOf s port).paused tc with
    | some x =>
      if reached s x.until_ then
        updPort s port fun p => { p with paused := mapDel p.paused tc, stalled := p.stalled.filter (· ≠ tc) }
      else s
    | none => s)

/-- PAUSE_WATCHDOG (R306). -/
def execPauseWatchdog (port tc : Nat) (s : State) : Host.Outcome State Fault Refusal :=
  .next (live s fun s =>
    let limit := 1024 * getF s rFlControl fFlControlPauseWatchdog
    match mapGet (portOf s port).paused tc with
    | some x =>
      if limit ≠ 0 ∧ limit < elapsed s x.since ∧ (portOf s port).stalled.contains tc = false then
        let s := tally (raise1 s (17 + port) fFlPortEventPauseStall) (288 + port) (16 * 256)
        updPort s port fun p => { p with stalled := p.stalled ++ [tc] }
      else s
    | none => s)

/-! ## Swaps (R301, R302) -/

/-- The swap of this node's command ends with a status. -/
def endSwap (s : State) (st : Nat) : State := setF (setB s rFlSwap fFlSwapBusy false) rFlSwap fFlSwapStatus st

/-- Thousandths of an ACLK cycle from one marker of a lane to the next: 16,384 codewords of 5,440 bits at the lane's rate
(R290 to R292; log entry 179). -/
def markerPeriod (g : Nat) : Nat := if isRing g then 788529152 else 394264576

/-- The block number of a port's last marker (R292). -/
def markerNow (s : State) (g : Nat) : Nat :=
  ((portOf s g).block + 1000 * elapsed s (portOf s g).aligned / markerPeriod g) % 2 ^ 32

/-- The marker with a block number has come. -/
def markerPassed (s : State) (g block : Nat) : Bool := decide ((markerNow s g + 2 ^ 32 - block) % 2 ^ 32 < 2 ^ 31)

/-- The physical lane that carries a logical lane (R292). -/
def physLane (s : State) (g l : Nat) : Nat := (mapGet (portOf s g).place l).getD l

/-- SWAP_MARKER: at the named marker both ends move the lane's data onto the spare (R301); a partner's request without
`BOTH` moves what this node receives and leaves the lane in use for what it sends (Table 10.3). -/
def execSwapMarker (port block : Nat) (s : State) : Host.Outcome State Fault Refusal :=
  .next (live s fun s =>
    match (portOf s port).swap with
    | some w =>
      if w.acked ∧ w.block = block ∧ markerPassed s port block = true then
        let s := updPort s port fun p => { p with swap := none }
        let s := setF (setB s (rFlPort port) fFlPortSpareIn true) (rFlPort port) fFlPortSpareFor w.lane
        let m := setFld (getF s (rFlPort port) fFlPortLaneMap) (physLane s port 16) 1 1
        let s := setF s (rFlPort port) fFlPortLaneMap (if w.both then setFld m (physLane s port w.lane) 1 0 else m)
        let s := if w.both then retireLane s port (physLane s port w.lane) else s
        if w.ours then endSwap s stOk else s
      else s
    | none => s)

/-- SWAP_TIMEOUT: no `SWAP_ACK` within 10 µs (R302); the command of a swap that a reset has cut off reports nothing. -/
def execSwapTimeout (port : Nat) (s : State) : Host.Outcome State Fault Refusal :=
  .next (live s fun s =>
    match (portOf s port).swap with
    | some w =>
      if w.acked = false ∧ due s w.start 9400 = true then
        let s := updPort (raise1 s (17 + port) fFlPortEventSwapFail) port fun p => { p with swap := none }
        if w.ours then endSwap s stTimeout else s
      else s
    | none => s)

/-! ## Frames (R295, R308, R365 to R369, R386) -/

/-- Drops of a connection in the current period of the 1 ms grid (R369). -/
def dropsNow (s : State) : NMap Nat := if s.im.period = s.time / 940000 then s.im.drops else []

/-- The connections whose drops exceed the limit enter `ERROR` while `CONN_ERR_EN` is 1 (R369). -/
def checkDrops (s : State) : State :=
  if getB s rImControl fImControlConnErrEn then
    (dropsNow s).foldl (init := s) fun s e =>
      match connOf s e.1 with
      | some k =>
        if k.state = 1 ∧ getF s rImControl fImControlConnLimit < e.2 then raise1 (connError s e.1 stQuota) 54 fImEventConnError
        else s
      | none => s
  else s

/-- A meter drop counts against its open connection (R369). -/
def meterDrop (s : State) (h : Hdr) : State :=
  match connOf s h.dstConn with
  | none => s
  | some k =>
    if h.kind = 6 ∨ k.state ≠ 1 then s
    else
      let n := (mapGet (dropsNow s) h.dstConn).getD 0 + 1
      checkDrops { s with im := { s.im with drops := mapPut (dropsNow s) h.dstConn n, period := s.time / 940000 } }

/-- Meter a packet addressed to this node (R365, R366, R368). -/
def meter (s : State) (g c : Nat) (p : Bytes) : Bool × State :=
  let a := accounted s g p.length
  if c = 7 then meterMgmt s a
  else match meterSource s (hdrOf p).src c a with
    | (true, s) => (true, s)
    | (false, s) => (false, meterDrop s (hdrOf p))

/-- A logical fence keeps every frame but a TC7 management datagram from passing (R386). -/
def fenceStops (s : State) (g c : Nat) (p : Bytes) : Bool := logFenced s g && !(mgmtFrame c p)

/-- A ring frame for another node is forwarded out of the other ring port (R308); a fenced port forwards only management
(R386). -/
def forwardFrame (s : State) (g c dest hops : Nat) (p : Bytes) : State :=
  let out := if g = 16 then 17 else 16
  if hops = 0 then raise1 s (17 + g) fFlPortEventHopDrop
  else if fenceStops s out c p then raise1 s 55 fCfEventFenceDrop
  else match enterRegion s g ⟨c, dest, hops - 1, p, some out, []⟩ with
    | (true, s) => enqueue s out ⟨c, dest, hops - 1, p, some g, []⟩
    | (false, s) => s

/-- A frame arrives at a port that is up. -/
def takeFrame (s : State) (g : Nat) (f : Bytes) : State :=
  if !(frameOk f) then tally (raise1 s (17 + g) fFlPortEventCrcDrop) (288 + g) (4 * 256)
  else
    let c := bfld f 0 0 3
    let p := slice f 8 (f.length - 12)
    if bfld f 0 3 1 = 1 then takeLcf s g p
    else if fenceStops s g c p then raise1 s 55 fCfEventFenceDrop
    else if isRing g ∧ bfld f 0 4 12 ≠ nodeId s then forwardFrame s g c (bfld f 0 4 12) (bfld f 0 16 6) p
    else
      let (ok, s) := if isRing g || decide ((hdrOf p).dst = nodeId s) then meter s g c p else (true, s)
      if ok then (enterRegion s g ⟨c, 0, 0, p, none, []⟩).2 else s

/-- FRAME_RECEIVE (R295). -/
def execFrameReceive (port : Nat) (frame : Bytes) (s : State) : Host.Outcome State Fault Refusal :=
  .next (live s fun s => if portUp s port && !(discarding s) then takeFrame s port frame else s)

/-- The class whose head frame starts next: the highest eligible one (R354); a logically fenced port sends only TC7 management
datagrams (R386). -/
def nextClass (s : State) (g : Nat) : Option (Nat × Frame) :=
  ([7, 6, 5, 4, 3, 2, 1, 0].findSome? fun c =>
    ((eligible s g c).filter fun f => !(fenceStops s g c f.pkt)).map fun f => (c, f))

/-- A fence that waits for its reply takes effect once the reply has left (R386). -/
def fenceAfter (s : State) (g : Nat) (p : Bytes) : State :=
  match s.cf.fenceWait with
  | some (port, l, e) =>
    if port = g ∧ num p 64 1 = 5 ∧ bfld p 64 8 1 = 1 then applyFence { s with cf := { s.cf with fenceWait := none } } l e
    else s
  | none => s

/-- FRAME_START (R354, R355): the port is free to start a frame. -/
def execFrameStart (port : Nat) (s : State) : Host.Outcome State Fault Refusal :=
  .next (live s fun s =>
    if !(portUp s port) then s
    else
      match (portOf s port).lcf with
      | b :: rest => emit (updPort s port fun p => { p with lcf := rest }) (.frame port (mkFrame 7 1 0 0 b))
      | [] =>
        match nextClass s port with
        | some (c, f) =>
          let s := startFrame s port c f
          if c = 7 then fenceAfter s port f.pkt else s
        | none => emit s (.idle port))

/-- CONN_DROP_PERIOD (R369): a new period of the 1 ms grid on the local counter has begun. -/
def execConnDropPeriod (s : State) : Host.Outcome State Fault Refusal :=
  .next (live s fun s =>
    if s.im.period = s.time / 940000 then s else { s with im := { s.im with drops := [], period := s.time / 940000 } })

/-! ## Gate lists (R360, R362) -/

/-- Write the operating list of a port (R360). -/
def setOper (s : State) (g : Nat) (ins : Install) : State :=
  let s := (ins.entries.zipIdx).foldl (init := s) fun s ((m, d), e) =>
    setF (setF s (rEsOper g e) fEsOperMask m) (rEsOper g e) fEsOperInterval d
  let s := setF s (rEsPort g) fEsPortOperLen ins.entries.length
  { s with es := { s.es with base := mapPut s.es.base g ins.base, pending := mapDel s.es.pending g } }

/-- GATE_INSTALL_EFFECT (R360, R362). -/
def execGateInstallEffect (port : Nat) (s : State) : Host.Outcome State Fault Refusal :=
  .next (live s fun s =>
    match mapGet s.es.pending port with
    | none => s
    | some ins =>
      if reached s ins.at_ then
        let s := setB (setOper s port ins) (rEsPort port) fEsPortPending false
        let s := raise1 s (36 + port) fEsPortEventInstalled
        if portUp s port = false then s
        else if windowsFit s port (portRate s port) ins.entries then setB s (rEsPort port) fEsPortSuspended false
        else if suspended s port then s else checkSuspend s port
      else s)

/-- GATE_ENTRY_CHANGE (R358, R362): the entry in force follows from the local counter; a suspension ends at a cycle
boundary at which the width passes. -/
def execGateEntryChange (port : Nat) (s : State) : Host.Outcome State Fault Refusal :=
  .next (live s fun s =>
    let l := operList s port
    if portUp s port && suspended s port && decide (gatesFree l.1 = true ∨ phaseAt l s.time = 0) && windowsFit s port (portRate s port) l.1
    then setB s (rEsPort port) fEsPortSuspended false
    else s)

end Sys2Proof.Machine
end

