-- ==== Sys2Proof/Machine/Recov.lean ====
section
/-!
DEFINITION. Machine/Recov.lean: replies to managers (R376, R377), the recovery table and the ends of recovery commands
(R392 to R396).
-/

namespace Sys2Proof.Machine

/-! ## Replies to managers -/

/-- Send a message to a manager's node by the port its request came by, under its key (R377). -/
def sendMgr (s : State) (k port : Nat) (m : Bytes) : State :=
  match mapGet s.tn.managers k with
  | some x =>
    match x.key with
    | some key => sendDgram s (mgmtDgram s key x.node (2 ^ port) (if isRing port then 63 else 0) m)
    | none => s
  | none => s

/-- The reply to a request of a manager is made: it is kept, and it leaves by the port of the latest copy (R376, R377). -/
def mgrReply (s : State) (k seq port type status serial : Nat) (body : Bytes) : State :=
  let target := match mapGet s.tn.managers k with
    | some x => x.node
    | none => 0
  let m := mgmtBytes type 1 target status seq serial (epochNow s) body
  match mapGet s.cf.replies k with
  | some r =>
    if r.seq = seq then
      sendMgr { s with cf := { s.cf with replies := mapPut s.cf.replies k { r with reply := some m } } } k r.port m
    else sendMgr s k port m
  | none => sendMgr s k port m

/-! ## The recovery table (R393, R394) -/

/-- Answer the issuer of a recovery command (Tables 13.2 and 14.4). -/
def recAnswer (s : State) (who : RecIssuer) (type serial status applied beat : Nat) : State :=
  match who with
  | .ring ref => complete s ⟨ref, status, 0, applied, 0, beat, false⟩
  | .manager k seq port => mgrReply s k seq port type status serial (natLe 4 applied ++ natLe 4 beat)

/-- The command in progress on a target ends with a status, and every issuer is answered (R393). -/
def recDone (s : State) (t status : Nat) : State :=
  match mapGet s.cf.table t with
  | none => s
  | some e =>
    if e.status.isSome then s
    else
      let s := { s with cf := { s.cf with
        table := mapPut s.cf.table t { e with status := some status, issuers := [] } } }
      e.issuers.foldl (fun s w => recAnswer s w e.type e.serial status 1 e.serial) s

/-- A recovery command is in progress on a target. -/
def recRuns (s : State) (t : Nat) : Bool :=
  match mapGet s.cf.table t with
  | some e => e.status.isNone
  | none => false

/-- Accepted attention work of a job remains. -/
def jobBusy (s : State) (job : Nat) : Bool :=
  s.ae.reqs.any (fun e => e.2.job == job) || s.ae.ops.any fun e => e.2.job == job

/-- A drain completes when nothing of the job remains (Table 13.5). -/
def drainCheck (s : State) (job : Nat) : State :=
  if s.cf.drains.contains job && !(jobBusy s job) then
    recDone { s with cf := { s.cf with drains := s.cf.drains.erase job } } (tgtJob job) stOk
  else s

/-- A close that a `REHOME` started has ended (R395); a rebuild of a freed context ends (R396). -/
def closeEnded (s : State) (i : Nat) : State :=
  let s := if (mapGet s.cf.rebuilds i).isSome then
      recDone { s with cf := { s.cf with rebuilds := mapDel s.cf.rebuilds i } } (tgtCtx i) stNoContext
    else s
  let s := { s with cf := { s.cf with rehomes := s.cf.rehomes.map fun (e : Nat × List Nat) => (e.1, e.2.erase i) } }
  (s.cf.rehomes.filter fun e => e.2.isEmpty).foldl (init := s) fun s e =>
    recDone { s with cf := { s.cf with rehomes := mapDel s.cf.rehomes e.1 } } (tgtSet e.1) stOk

end Sys2Proof.Machine
end

