-- ==== Sys2Proof/Machine/Moves.lean ====
section
/-!
DEFINITION. Machine/Moves.lean: the tier mover: age order (R247), the queue and its priorities (R248), copies and edits
(R244, R245), room for a spill (R250), drops (R251), prefetch (R149, R252) and the extent buffers (R235, R236).
-/

namespace Sys2Proof.Machine

/-! ## Pages of a class -/

/-- The quota tier that a page's home lies in. -/
def pageTier (hs : List Nat) : Nat := hQuota (hs.headD 0)

/-- The contexts of some classes by ascending `LAST_USE`, not `CLOSING` (R247). -/
def contextsByAge (s : State) (p : CtxAux → Bool) : List Nat :=
  let l := (s.cx.open_.filter fun (_, a) => p a && a.state != 5).map fun (i, _) => (i, dLast (ctxBytes s i))
  (sortBy (fun a b => decide (a.2 < b.2 ∨ a.2 = b.2 ∧ a.1 ≤ b.1)) l).map (·.1)

/-- Every `PRESENT` page of those contexts in age order (R247). -/
def pagesByAge (s : State) (p : CtxAux → Bool) : List (Nat × PageAt) :=
  (contextsByAge s p).flatMap fun i => (pagesOf s i).map fun g => (i, g)

/-- The plan entry of a layer of a context. -/
def ctxPlan (s : State) (d : Bytes) (layer : Nat) : Nat := planOf s (dPlan d) layer

/-! ## Locks and the queue -/

/-- The priorities of R248; the moves of `RETIRE_SLOT` come first. -/
def MoveWhy.prio : MoveWhy → Nat
  | .retire => 0
  | .appendPrefetch => 1
  | .quotaCut => 2
  | .mark => 3
  | .parkReopen => 4
  | .layerAhead => 5
  | .compact => 6

def Move.isSpill (m : Move) : Bool := m.why == .quotaCut || m.why == .mark

def Move.covers (m : Move) (ctx layer n head : Nat) : Bool := m.ctx == ctx && m.layer == layer && m.n == n && m.head == head

/-- The move of a page, queued or running. -/
def moveOf (s : State) (ctx layer n head : Nat) : Option (Nat × Move) := s.tm.moves.find? fun e => e.2.covers ctx layer n head

/-- A running move holds the page's lock (R244). -/
def moveLocks (s : State) (ctx layer n head : Nat) : Bool :=
  s.tm.moves.any fun e => e.2.covers ctx layer n head && e.2.stage != .queued

def opFirst (o : PageOp) : Nat := bfld (o.msg.drop 32) 4 16 6
def opCount (o : PageOp) : Nat := bfld (o.msg.drop 32) 4 22 7

/-- An operation addresses the page. -/
def PageOp.covers (o : PageOp) (ctx layer n head : Nat) : Bool :=
  o.ctx == ctx && o.layer == layer && o.n == n && decide (opFirst o ≤ head ∧ head < opFirst o + opCount o)

/-- An `APPEND` or `REFILL` is in progress on the page (R244). -/
def opLocks (s : State) (ctx layer n head : Nat) : Bool := s.ae.ops.any fun e => e.2.begun && e.2.covers ctx layer n head

def Move.runs (m : Move) : Bool := m.stage != .queued
/-- Moves running (R248). -/
def movesRunning (s : State) : Nat := (s.tm.moves.filter fun e => e.2.runs).length
def movesQueued (s : State) : Nat := (s.tm.moves.filter fun e => !e.2.runs).length

/-- `a` runs before `b` (R248). -/
def Move.before (a b : Move) : Bool :=
  decide (a.why.prio < b.why.prio ∨ a.why.prio = b.why.prio ∧ a.order < b.order)

def updMove (s : State) (id : Nat) (f : Move → Move) : State :=
  { s with tm := { s.tm with moves := mapAdj s.tm.moves id f } }

/-- The link that a lower-tier slot lies behind. -/
def linkOf (s : State) (h : Nat) : Option Nat :=
  if hTier h ≤ 1 then none else if hTier h ≤ 3 then some (hLink h) else driveLink s (fDrive h)

/-- The slot has a line in a BBD whose link retrains (R161). -/
def slotRetrains (s : State) (h : Nat) : Bool :=
  (s.bb.bbd.filter fun e => e.2.retrain.isSome).any fun e =>
    (List.range 132).any fun i => bbdAt s (slotNpa s h + 128 * i) == e.1

/-- An access to the slot waits: its link is down and the 10 ms have not passed (R231), or its BBD's link retrains (R161). -/
def accessWaits (s : State) (h : Nat) : Bool :=
  if hTier h ≤ 1 then slotRetrains s h
  else match linkOf s h with
  | some k =>
    match mapGet s.tm.down k with
    | some (_, dead) => !dead
    | none => false
  | none => false

/-- The link of a slot has stayed down for the 10 ms of R231. -/
def slotDead (s : State) (h : Nat) : Bool :=
  match linkOf s h with
  | some k => linkDead s k
  | none => false

/-- Why a write of a slot fails, and the first of its lines that it fails on: the link stays down (R231), or the BBD of a line is
out of service (R161). -/
def writeFault (s : State) (h : Nat) : Option (Nat × Nat) :=
  if hTier h ≤ 1 then
    if getF s rGsStatus fGsStatusBbdOut = 0 then none
    else (List.range 132).findSome? fun i => (lineFault s h i).map fun c => (i, c)
  else if slotDead s h then some (0, 6) else none

/-- The failure of such a write. -/
def writeFailure (s : State) (source h : Nat) (who : Nat × Nat × Nat × Nat) (f : Nat × Nat) : Failure :=
  { cause := f.2, source := source, ctx := some who, channel := lineChannel s h f.1, line := f.1, handle := h }

/-- The source of a handover accepts no more operations on the context (R401). -/
def frozen (s : State) (i : Nat) : Bool :=
  match mapGet s.cf.handovers i with
  | some h => h.source && (match h.phase with
      | .frozen | .committed _ => true
      | _ => false)
  | none => false

/-- The moves of a context are held: by a handover that has stopped its changes, but for those that an accepted
operation waits for (R401), at an acceptor that is not the owner (R402), or by a rebuild that has begun (R396). -/
def moveHeld (s : State) (i : Nat) (why : MoveWhy) : Bool :=
  (frozen s i && why != .appendPrefetch)
    || (match mapGet s.cf.handovers i with
      | some h => !h.source
      | none => false)
    || (match mapGet s.cf.rebuilds i with
      | some r => r.started
      | none => false)

/-! ## The end of a move -/

/-- One page of a `RETIRE_SLOT` is done, moved or failed (R284); the last one completes the command. -/
def retireStep (s : State) (r : CmdRef) (fail : Option Nat) : State :=
  match s.pf.retires.find? fun e => e.ref == r with
  | none => s
  | some e =>
    let e := { e with left := e.left - 1, quota := e.quota || decide (fail = some stQuota),
                      check := e.check || (decide (fail ≠ none) && decide (fail ≠ some stQuota)) }
    let rest := removeFirst (fun x => x.ref == r) s.pf.retires
    if e.left = 0 then
      finish (walkEnd? { s with pf := { s.pf with retires := rest } } e.walker) r
        (if e.check then stUncorrectable else if e.quota then stQuota else stOk)
    else { s with pf := { s.pf with retires := e :: rest } }

/-- The slots of a list that are being written and are not homes. -/
def writingSlots (s : State) (hs : List Nat) : List Nat :=
  hs.filter fun h => match mapGet s.pm.slots h with
    | some x => x.use == .writing
    | none => false

/-- A move lets go of what it holds: its slots that are not homes are freed, it waits for nothing, no extent buffer names
it, and its walker ends. -/
def unwindMove (s : State) (id : Nat) (m : Move) : State :=
  let s := untakeSlots s (ctxClass s m.ctx) (writingSlots s m.dst)
  let s := leaveEdit (leaveWalk s (.move id)) (.move id)
  let forget (e : Nat × ExtBuf) : Nat × ExtBuf := (e.1, { e.2 with moves := e.2.moves.filter fun x => x != id })
  walkEnd? { s with tm := { s.tm with buffers := s.tm.buffers.map forget } } m.walker

/-- The park, the reopen or the operation that a move was queued for learns why its page stays (R33, R34, R149). -/
def tellReason (s : State) (m : Move) (st : Nat) : State :=
  match m.why with
  | .parkReopen =>
    let mark (a : CtxAux) : CtxAux := { a with op := a.op.map fun o => { o with stop := o.stop.orElse fun _ => some st } }
    { s with cx := { s.cx with open_ := mapAdj s.cx.open_ m.ctx mark } }
  | .appendPrefetch =>
    let mark (e : Nat × PageOp) : Nat × PageOp :=
      if e.2.covers m.ctx m.layer m.n m.head then (e.1, { e.2 with stop := e.2.stop.orElse fun _ => some st }) else e
    { s with ae := { s.ae with ops := s.ae.ops.map mark } }
  | _ => s

/-- No move makes room for move `id` any more: it has ended, or it is a spill no longer. -/
def dropRoom (s : State) (id : Nat) : State :=
  let free (e : Nat × Move) : Nat × Move := if e.2.for_ = some id then (e.1, { e.2 with for_ := none }) else e
  { s with tm := { s.tm with moves := s.tm.moves.map free } }

/-- A move leaves the mover, and the commands `RETIRE_SLOT` that wait for it learn how it ended (R244, R245, R284). -/
def endMove (s : State) (id : Nat) (fail : Option Nat) : State :=
  match mapGet s.tm.moves id with
  | none => s
  | some m =>
    let s := dropRoom (unwindMove s id m) id
    m.refs.foldl (fun s r => retireStep s r fail) { s with tm := { s.tm with moves := mapDel s.tm.moves id } }

/-- A move ends with its page where it is and no failure; where a `RETIRE_SLOT` waits for it, the page is queued again to move
in its own tier (R284). -/
def stopMove (s : State) (id : Nat) : State :=
  match mapGet s.tm.moves id with
  | none => s
  | some m =>
    if m.refs = [] then endMove s id none
    else
      let s := dropRoom (unwindMove s id m) id
      let o := s.tm.order
      updMove { s with tm := { s.tm with order := o + 1 } } id fun x =>
        { x with why := .retire, order := o, stage := .queued, dst := [], walker := none, for_ := none }

/-- A move is abandoned on a failed check, and its page is not chosen again (R245). -/
def checkMove (s : State) (id : Nat) : State :=
  let s := match mapGet s.tm.moves id with
    | some m =>
      let s := tellReason s m stUncorrectable
      match readPage s 2 m.ctx (ctxBytes s m.ctx) m.layer m.head m.n with
      | .present hs _ _ => barMoves s hs
      | _ => s
    | none => s
  endMove (raise1 s 14 fTmEventMoveCheck) id (some stUncorrectable)

/-- A move is abandoned on a port or drive failure (R245): it stops no park and no reopen (R33, R34). -/
def faultMove (s : State) (id : Nat) : State :=
  let s := match mapGet s.tm.moves id with
    | some m => if m.why = .parkReopen then s else tellReason s m stUncorrectable
    | none => s
  endMove (raise1 s 14 fTmEventMoveFault) id (some stUncorrectable)

/-- Stop the moves of a context that `p` selects (R245). -/
def stopCtxMoves (s : State) (ctx : Nat) (p : Move → Bool) : State :=
  (s.tm.moves.filter fun e => e.2.ctx == ctx && p e.2).foldl (fun s e => stopMove s e.1) s

/-- Every move of a context that is freed ends (R245). -/
def endCtxMoves (s : State) (ctx : Nat) : State :=
  (s.tm.moves.filter fun e => e.2.ctx == ctx).foldl (fun s e => endMove s e.1 (some stAborted)) s

/-- A spill stops (R250), and with it the spill that it made room for. -/
def stopSpill : Nat → State → Nat → State
  | 0, s, _ => s
  | fuel + 1, s, id =>
    match mapGet s.tm.moves id with
    | none => s
    | some m =>
      let s := stopMove (raise1 s 14 fTmEventSpillBlocked) id
      match m.for_ with
      | some x => stopSpill fuel s x
      | none => s

/-- The lowest waiting move that a full queue may drop: none of `RETIRE_SLOT`, which R248 does not order. -/
def lowestMove (s : State) : Option (Nat × Move) :=
  (s.tm.moves.filter fun e => !e.2.runs && e.2.why != .retire).foldl (init := none) fun b e =>
    match b with
    | none => some e
    | some x => if Move.before x.2 e.2 then some e else some x

/-- Queue a move of a page (R248): a waiting move of the page takes the higher priority, and of a full queue the lowest waiting
move is dropped. -/
def queueMove (s : State) (ctx layer n head tier : Nat) (why : MoveWhy) (ref : Option CmdRef) (for_ : Option Nat) : State :=
  let with_ (l : List CmdRef) : List CmdRef := match ref with
    | some r => if l.contains r then l else l ++ [r]
    | none => l
  match moveOf s ctx layer n head with
  | some (id, m) =>
    if m.runs || decide (m.why.prio ≤ why.prio) then updMove s id fun x => { x with refs := with_ x.refs }
    else
      let o := s.tm.order
      updMove { s with tm := { s.tm with order := o + 1 } } id fun x =>
        { x with why := why, tier := tier, order := o, refs := with_ x.refs, for_ := for_.orElse fun _ => x.for_ }
  | none =>
    let m : Move := { ctx := ctx, layer := layer, n := n, head := head, tier := tier, why := why, order := s.tm.order,
                      stage := .queued, dst := [], walker := none, refs := with_ [], for_ := for_ }
    let s := { s with tm := { s.tm with moves := mapPut s.tm.moves (mapFresh s.tm.moves 0) m, order := s.tm.order + 1 } }
    if movesQueued s ≤ 65536 then s
    else
      match lowestMove s with
      | some last => stopMove s last.1
      | none => s

/-! ## Flash positions (R235, R236) -/

/-- Positions of an extent that hold slots. -/
def extentPositions : Nat := 31

/-- An extent buffer with room, on a drive when one is named; a fresh buffer takes the lowest free extent. -/
def bufferFor (s : State) (drive : Option Nat) : Option (Nat × State) :=
  match s.tm.buffers.find? fun e => !e.2.sent && decide (e.2.filled.length < extentPositions)
      && (drive.isNone || drive == some e.2.drive) with
  | some e => some (e.1, s)
  | none =>
    if 8 ≤ s.tm.buffers.length then none
    else
      match (match drive with
        | some d => [d]
        | none => List.range 8).find? fun d => decide (0 < extentsFreeOf s d) with
      | none => none
      | some d =>
        match lowestExtent s d with
        | none => none
        | some e =>
          let k := mapFresh s.tm.buffers 0
          let b : ExtBuf := { drive := d, extent := e, filled := [], moves := [], first := s.time, sent := false }
          some (k, { s with tm := { s.tm with buffers := mapPut s.tm.buffers k b } })

/-- Every buffer is in use, so a flash copy waits for a drive. -/
def buffersBusy (s : State) : Bool :=
  decide (8 ≤ s.tm.buffers.length) && s.tm.buffers.all fun e => e.2.sent || decide (extentPositions ≤ e.2.filled.length)

/-- Put one slot's bytes into an extent buffer, for a move when one is named: the handle it will have. -/
def fillSlot (s : State) (ctx cls : Nat) (id : Option Nat) (drive : Option Nat) (b : Bytes) : Option (Nat × State) :=
  match bufferFor s drive with
  | none => none
  | some (k, s) =>
    match mapGet s.tm.buffers k with
    | none => none
    | some e =>
      let p := e.filled.length
      let h := mkFlash e.drive p e.extent
      let moves := match id with
        | some i => if e.moves.contains i then e.moves else e.moves ++ [i]
        | none => e.moves
      let e := { e with filled := e.filled ++ [(p, b)], moves := moves,
                        first := if p = 0 then s.time else e.first }
      some (h, takeSlot { s with tm := { s.tm with buffers := mapPut s.tm.buffers k e } } h ctx cls)

/-- Put the bytes of slots, each with the drive it must go to, if any, into extent buffers. -/
def fillSlots (s : State) (ctx cls : Nat) (id : Option Nat) : List (Option Nat × Bytes) → Option (List Nat × State)
  | [] => some ([], s)
  | (drive, b) :: bs =>
    match fillSlot s ctx cls id drive b with
    | none => none
    | some (h, s) =>
      match fillSlots s ctx cls id bs with
      | some (hs, s) => some (h :: hs, s)
      | none => none

/-- Free positions that flash can take now. -/
def flashRoom (s : State) : Nat :=
  extentPositions * extentsFree s
    + sumOf (s.tm.buffers.map fun e => if e.2.sent then 0 else extentPositions - e.2.filled.length)

/-! ## Drops (R251) -/

/-- The changes of one page's entries, part by part; a root that fails its check fails them (R67). -/
def pageChanges (s : State) (source ctx : Nat) (d : Bytes) (layer n head : Nat) (f : Nat → Nat → Change) :
    Except Failure (List Change) :=
  match readRun s source ctx d layer with
  | .bad e => .error e
  | .none => .ok []
  | .run log2 base =>
    .ok ((List.range (dParts d)).filterMap fun p =>
      (entryAddr log2 base (entryIndex d n (head * dParts d + p))).map fun a => { f p (entryAt s a) with addr := a })

/-- One edit of one page's entries, part by part (R70). -/
def editPage (s : State) (source ctx layer n head : Nat) (f : Nat → Nat → Change) : EditRes :=
  match pageChanges s source ctx (ctxBytes s ctx) layer n head f with
  | .error e => .bad e
  | .ok cs => edit s source ctx (ctxClass s ctx) cs

def pageGrants (s : State) (hs : List Nat) : List Grant := s.pm.grants.filter fun g => hs.contains g.handle

/-- The node asks the BBD to release the page (step 1 of R79). -/
def askRelease (s : State) (hs : List Nat) : State :=
  let ask (g : Grant) : Grant := if hs.contains g.handle then { g with releasing := true } else g
  { s with pm := { s.pm with grants := s.pm.grants.map ask } }

inductive DropRes where
  | done
  /-- The edit waits (R75), or a bank-owned page is being released (R182). -/
  | waits
  | failed
deriving DecidableEq, Repr

/-- Drop a page (R251): one edit, the flag and the count; `source` is who reads its entries. -/
def dropPage (s : State) (source ctx layer n head : Nat) : DropRes × State :=
  match readCtx s ctx source with
  | .error s => (.failed, s)
  | .ok (d, s) =>
    match readPage s source ctx d layer head n with
    | .present hs owner _ =>
      if moveHeld s ctx .mark then (.waits, s)
      else if owner = 1 then (.waits, askRelease s hs)
      else
        match editPage s source ctx layer n head fun _ e => ⟨0, 0, 2, 0, eValid e⟩ with
        | .done s => (.done, bumpR (raise1 (leaveEdit s (.drop ctx layer n head)) 14 fTmEventDrop) rTmDrops 1)
        | .wait g => (.waits, waitEdit s (.drop ctx layer n head) g)
        | .bad f => (.failed, entryFailed s f)
    | .bad f => (.failed, entryFailed s f)
    | .unsettled => (.waits, s)
    | _ => (.failed, s)

/-- A drop of the tier mover, which takes a walker slot or waits for one (R72). -/
def dropByMover (s : State) (ctx layer n head : Nat) : DropRes × State :=
  let o : WalkOwner := .drop ctx layer n head
  match walkStart s ctx (some layer) o with
  | none => (.waits, waitWalker s o)
  | some (w, s) =>
    let (r, s) := dropPage (leaveWalk s o) 2 ctx layer n head
    (r, walkEnd s w)

/-! ## Drops of `RETIRE_SLOT` (R284) -/

/-- Drop one page of a retirement in mode 2: whether it still waits, and how it failed.  A running move of the page ends
first, and a page that it has taken elsewhere is no longer to be dropped. -/
def dropRetired (s : State) (p : Nat × Nat × Nat × Nat) : Bool × Option Nat × State :=
  let (c, l, n, kv) := p
  match readPage s 4 c (ctxBytes s c) l kv n with
  | .present hs _ _ =>
    if moveLocks s c l n kv then (true, none, s)
    else if !(hs.any (withheld s)) then (false, none, s)
    else
      match dropPage s 4 c l n kv with
      | (.done, s) => (false, none, s)
      | (.waits, s) => (true, none, s)
      | (.failed, s) => (false, some stUncorrectable, s)
  | .bad f => (false, some stUncorrectable, entryFailed s f)
  | .unsettled => (true, none, s)
  | _ => (false, none, s)

/-- Try the drops of one retirement again; the last one that ends completes the command. -/
def pokeRetire (s : State) (r : CmdRef) (ps : List (Nat × Nat × Nat × Nat)) : State :=
  ps.foldl (init := s) fun s p =>
    match dropRetired s p with
    | (true, _, s) => s
    | (false, st, s) =>
      let gone (e : Retire) : Retire := if e.ref == r then { e with drops := e.drops.erase p } else e
      retireStep { s with pf := { s.pf with retires := s.pf.retires.map gone } } r st

/-- Try every waiting drop again: an edit has committed, a page was released, or a handover has ended. -/
def pokeRetires (s : State) : State := s.pf.retires.foldl (fun s e => pokeRetire s e.ref e.drops) s

/-! ## Room for a spill (R250) -/

/-- Slots free in a lower tier. -/
def lowerFree (s : State) (tier : Nat) : Nat := if tier = 1 then cxlFree s else flashRoom s

/-- The quota and the free slots of a lower tier allow `k` slots. -/
def lowerRoom (s : State) (cls tier k : Nat) : Bool := quotaRoom s cls tier k && decide (k ≤ lowerFree s tier)

/-- Slots of a lower tier that are displaced and not yet free (R74). -/
def comingFree (s : State) (tier : Nat) : Nat :=
  (s.pm.deferred.filter fun d => match d.what with
    | .slot h => hQuota h == tier
    | .run _ _ => false).length

/-- The room that a drop has made is not there yet: it comes once the walkers let its slots go (R74, R250). -/
def roomComing (s : State) (cls tier k : Nat) : Bool :=
  quotaRoom s cls tier k && decide (comingFree s tier ≠ 0)
    && (decide (tier = 2) || decide (k ≤ lowerFree s tier + comingFree s tier))

/-- A class's full pages in a quota tier that no move holds, oldest first (R247). -/
def fullIn (s : State) (cls tier : Nat) : List (Nat × PageAt) :=
  (pagesByAge s fun a => a.cls == cls).filter fun e =>
    e.2.valid == dP (ctxBytes s e.1) && pageTier e.2.handles == tier && !(moveLocks s e.1 e.2.layer e.2.n e.2.kv)

inductive Room where
  /-- The next tier has room. -/
  | ready (tier : Nat)
  /-- Room is being made, or an edit waits. -/
  | waits
  /-- The page itself is to be dropped. -/
  | drop
  | stop
deriving DecidableEq, Repr

/-- What a drop made for a spill into tier `t` leaves. -/
def roomAfter (cls t k : Nat) (r : DropRes × State) : Room × State :=
  if r.1 = .failed then (.stop, r.2) else if lowerRoom r.2 cls t k then (.ready t, r.2) else (.waits, r.2)

/-- Make room for the spill of a page homed in `home`, one step (R250). -/
def spillRoom (s : State) (id : Nat) (m : Move) (home : Nat) : Room × State :=
  let d := ctxBytes s m.ctx
  let w := ctxPlan s d m.layer
  let cls := ctxClass s m.ctx
  let k := dParts d
  match plNext w home with
  | none => (if plDropOk w then .drop else .stop, s)
  | some t =>
    if lowerRoom s cls t k then (.ready t, s)
    else if roomComing s cls t k then (.waits, s)
    else if s.tm.moves.any fun e => e.2.for_ == some id then (.waits, s)
    else if (plNext w t).isSome then
      match (fullIn s cls t).filter fun e => mayChoose s e.2.handles with
      | [] => (.stop, s)
      | (c, y) :: _ =>
        let v := ctxPlan s (ctxBytes s c) y.layer
        match plNext v t with
        | some t' =>
          let s := queueMove s c y.layer y.n y.kv t' m.why none (some id)
          (.waits, match moveOf s c y.layer y.n y.kv with
            | some (j, _) => updMove s j fun x => { x with tier := t', for_ := some id }
            | none => s)
        | none => if plDropOk v then roomAfter cls t k (dropByMover s c y.layer y.n y.kv) else (.stop, s)
    else
      match (fullIn s cls t).find? fun e => plDropOk (ctxPlan s (ctxBytes s e.1) e.2.layer) with
      | some (c, y) => roomAfter cls t k (dropByMover s c y.layer y.n y.kv)
      | none => (if plDropOk w then .drop else .stop, s)

/-- Slots of GDDR7 that running spills give up. -/
def runningOut (s : State) (p : Move → List Nat → Bool) : Nat :=
  sumOf (s.tm.moves.map fun e =>
    if e.2.runs && e.2.isSpill && e.2.for_.isNone then
      match readPage s 2 e.2.ctx (ctxBytes s e.2.ctx) e.2.layer e.2.head e.2.n with
      | .present hs _ _ => if pageTier hs = 0 ∧ p e.2 hs = true then hs.length else 0
      | _ => 0
    else 0)

/-- A reason of R47, R48 or R249 holds for a page of a class homed in a pool of GDDR7, beyond what running spills give up. -/
def spillReason (s : State) (cls pool : Nat) : Option MoveWhy :=
  let use := usage s cls 0 - runningOut s fun m _ => ctxClass s m.ctx == cls
  let free := (if pool = 1 then narrowFree s else wideFree s) + runningOut s fun _ hs => hTier (hs.headD 0) == pool
  if quota s cls 0 ≤ use then some .quotaCut
  else if fld (regGet s (rCxSpillMark cls)) 0 32 ≤ use ∨ free < getF s rTmControl fTmControlFreeMark then some .mark
  else none

/-- A spill is still wanted as it starts: it makes room for another, or its reason holds (R47, R48, R249). -/
def spillNeeded (s : State) (m : Move) (hs : List Nat) : Bool :=
  m.for_.isSome || (decide (pageTier hs = 0) && match spillReason s (ctxClass s m.ctx) (hTier (hs.headD 0)) with
    | some why => decide (why.prio ≤ m.why.prio)
    | none => false)

/-! ## Copying (R244) -/

/-- The key of a part of a page. -/
def partKey (d : Bytes) (ctx layer n head part : Nat) : PageKey :=
  ⟨ctx, layer, head, part, firstPos d n, dFmt d⟩

/-- The bytes of one part read through its checks, with the header of a tier-mover write. -/
def copyPart (s : State) (d : Bytes) (m : Move) (part h valid gen : Nat) : Except Failure Bytes :=
  let key := partKey d m.ctx m.layer m.n m.head part
  match readTail s 2 h key valid with
  | .error f => .error f
  | .ok t =>
    match readLines s 2 h t key 0 128 with
    | .error f => .error f
    | .ok b =>
      let hd := putF (putF (tailHeader t) 2 5 1 0) 0x0C 0 32 gen
      .ok (b ++ sealTail (overlay t 0x1E0 hd))

def copyParts (s : State) (d : Bytes) (m : Move) (valid gen : Nat) (part : Nat) : List Nat → Except Failure (List Bytes)
  | [] => .ok []
  | h :: hs =>
    match copyPart s d m part h valid gen with
    | .error f => .error f
    | .ok b =>
      match copyParts s d m valid gen (part + 1) hs with
      | .ok r => .ok (b :: r)
      | .error f => .error f

inductive Alloc where
  | ok (hs : List Nat)
  | quota
  | full
deriving DecidableEq, Repr

/-- Slots of a page in a pool of GDDR7 or in CXL, its quota tested. -/
def takeIn (s : State) (ctx cls k tier : Nat) (narrow : Bool) (prefer : Nat) : Alloc × State :=
  if tier = 0 then
    match takeGddr s ctx cls k narrow prefer with
    | .ok (hs, s) => (.ok hs, s)
    | .error s => (.full, s)
  else
    match takeCxl s ctx cls k with
    | .ok (hs, s) => (.ok hs, s)
    | .error _ => (.full, s)

/-- The same under R45. -/
def allocIn (s : State) (ctx cls k tier : Nat) (narrow : Bool) (prefer : Nat) : Alloc × State :=
  if !(quotaRoom s cls tier k) then (.quota, s) else takeIn s ctx cls k tier narrow prefer

/-- Slots of the own tier and pool of a retiring page (R284). -/
def allocOwn (s : State) (ctx cls k h prefer : Nat) : Alloc × State :=
  if !(quotaRoom s cls (hQuota h) k) then (.quota, s)
  else if hTier h = 0 then
    match takeWide s ctx cls k with
    | .ok (hs, s) => (.ok hs, s)
    | .error _ => (.full, raise1 s 14 fTmEventPoolFull)
  else
    match ((List.range 32).map fun i => (prefer + i) % 32).find? fun d => decide (k ≤ narrowFreeOf s d) with
    | none => (.full, raise1 s 14 fTmEventPoolFull)
    | some d =>
      match takeNarrow s d ctx cls k with
      | .ok (hs, s) => (.ok hs, s)
      | .error _ => (.full, raise1 s 14 fTmEventPoolFull)

/-- Step 3 of R244 for a target in GDDR7 or CXL. -/
def allocMove (s : State) (m : Move) (src : Nat) : Alloc × State :=
  let d := ctxBytes s m.ctx
  let w := ctxPlan s d m.layer
  let prefer := preferDevice m.n (dHeads d) m.head m.layer
  if m.why = .retire then allocOwn s m.ctx (ctxClass s m.ctx) (dParts d) src prefer
  else allocIn s m.ctx (ctxClass s m.ctx) (dParts d) m.tier (plNarrow w) prefer

/-- A move that finds no slot ends (R33, R34, R149, R250, R284). -/
def noSlot (s : State) (id : Nat) (m : Move) : State :=
  if m.isSpill then stopSpill 4 s id
  else if m.why = .retire then endMove s id (some stQuota)
  else stopMove (tellReason (if m.why = .parkReopen || m.why = .appendPrefetch then raiseQuota s else s) m stQuota) id

/-- The link of a move's target stays down (R231). -/
def targetDead (s : State) (m : Move) : Bool := m.dst.any (slotDead s)

/-- A move's target cannot be written since its BBD is out of service: the failure is logged, and the move ends on it (R161,
R245). -/
def failTarget (s : State) (id : Nat) (m : Move) : Option State :=
  (m.dst.findSome? fun h => if hTier h ≤ 1 then (writeFault s h).map fun f => (h, f) else none).map fun x =>
    faultMove (logFailure s (writeFailure s 2 x.1 (m.ctx, m.head, m.layer, firstPos (ctxBytes s m.ctx) m.n) x.2)) id

/-- The slots a drive must read before they are used (R256). -/
def unread (s : State) (hs : List Nat) : List Nat :=
  hs.filter fun h => hQuota h == 2 && mapGet s.tm.staged h != some 0 && mapGet s.tm.staged h != some 2 && !(slotDead s h)

/-! ### The queues of the drives (R228) -/

/-- The commands in queue pair `k` of a drive. -/
def pairOf (s : State) (drive k : Nat) : List NvmeCmd := (mapGet s.tm.nvme (16 * drive + k)).getD []

/-- The commands given to a drive and not yet completed, those that wait for a queue pair among them. -/
def driveCmds (s : State) (drive : Nat) : List NvmeCmd :=
  (List.range 16).flatMap (pairOf s drive) ++ (mapGet s.tm.nvmeWait drive).getD []

/-- A queue pair of a drive holds the command. -/
def driveHas (s : State) (drive : Nat) (c : NvmeCmd) : Bool := (List.range 16).any fun k => (pairOf s drive k).contains c

/-- The queue pair that takes a drive's next command: the one with the fewest, if it has room (log entry 211). -/
def freePair (s : State) (drive : Nat) : Option Nat :=
  (List.range 16).find? fun k => decide ((pairOf s drive k).length < 1024)
    && (List.range 16).all fun j => decide ((pairOf s drive k).length ≤ (pairOf s drive j).length)

/-- The 524,288 bytes of an extent (R235, R236, R238): the encrypted slots, unfilled positions and the last 512 bytes zero. -/
def extentBytes (s : State) (b : ExtBuf) : Bytes :=
  b.filled.foldl (init := zeros (2 ^ 19)) fun x e =>
    overlay x (slotBytes * e.1) (xtsEncrypt (flashKey s) (flashTweak (mkFlash b.drive e.1 b.extent)) (padTo slotBytes e.2))

/-- A command enters a queue pair of its drive: the Read of a slot, in whole logical blocks, the Write of an extent's 128, or
the Flush after it (R228, R235, R244, R256). -/
def enterPair (s : State) (drive k : Nat) (c : NvmeCmd) : State :=
  let s := { s with tm := { s.tm with nvme := mapPut s.tm.nvme (16 * drive + k) (pairOf s drive k ++ [c]) } }
  match c with
  | .read h =>
    emit s (.driveRead drive (128 * fExtent h + slotBytes * fPosn h / 4096)
      (ceilDiv (slotBytes * fPosn h + slotBytes) 4096 - slotBytes * fPosn h / 4096))
  | .write b =>
    match mapGet s.tm.buffers b with
    | some e => emit s (.driveWrite drive (128 * e.extent) (extentBytes s e))
    | none => s
  | .flush _ => emit s (.driveFlush drive)

/-- A drive is given a command, or it waits for a queue pair with room. -/
def giveDrive (s : State) (drive : Nat) (c : NvmeCmd) : State :=
  match freePair s drive with
  | some k => enterPair s drive k c
  | none =>
    { s with tm := { s.tm with nvmeWait := mapPut s.tm.nvmeWait drive ((mapGet s.tm.nvmeWait drive).getD [] ++ [c]) } }

/-- A command of a drive completes: it leaves its queue pair, and the one that has waited longest enters. -/
def leaveDrive (s : State) (drive : Nat) (c : NvmeCmd) : State :=
  let s := { s with tm := { s.tm with
    nvme := s.tm.nvme.map fun (e : Nat × List NvmeCmd) => if e.1 / 16 = drive then (e.1, e.2.erase c) else e } }
  match (mapGet s.tm.nvmeWait drive).getD [], freePair s drive with
  | w :: ws, some k => enterPair { s with tm := { s.tm with nvmeWait := mapPut s.tm.nvmeWait drive ws } } drive k w
  | _, _ => s

/-- A drive is given the Read of a flash slot, unless it has it (R256). -/
def issueRead (s : State) (h : Nat) : State :=
  if (driveCmds s (fDrive h)).contains (.read h) then s else giveDrive s (fDrive h) (.read h)

/-- Every slot of a list that a drive must read first is asked of it. -/
def stageReads (s : State) (hs : List Nat) : State := (unread s hs).foldl issueRead s

/-- The same for a proofread pass, a handover or a rebuild: each Read given is counted (R257, R265). -/
def stageCounted (s : State) (hs : List Nat) : State :=
  let new := (unread s hs).filter fun h => !((driveCmds s (fDrive h)).contains (.read h))
  stageReads (bumpR s rTmStageReads new.length) hs

/-- The slot that the proofread pass reads stays staged until the pass has read it. -/
def passSlot (s : State) (h : Nat) : Bool :=
  match s.pf.pass with
  | some p => p.slot.any fun x => x.1 == h
  | none => false

/-- The slots of parts written, in place. -/
def writeSlots (s : State) : List (Nat × Bytes) → State
  | [] => s
  | (h, b) :: r => writeSlots (slotWrite s h 0 b) r

/-- The bytes of a flash slot read for a use are staged no more. -/
def unstage (s : State) (hs : List Nat) : State :=
  { s with tm := { s.tm with staged := s.tm.staged.filter fun e => passSlot s e.1 || !(hs.contains e.1) } }

/-- The parts of a page go into extent buffers; a compaction keeps each on its own drive (R254), and a move waits while every
buffer is with its drive. -/
def bufferMove (s : State) (id : Nat) (m : Move) (hs : List Nat) (bs : List Bytes) : State :=
  let cls := ctxClass s m.ctx
  let drive (h : Nat) : Option Nat := if m.why = .compact then some (fDrive h) else none
  if !(quotaRoom s cls 2 hs.length) then noSlot s id m
  else
    match fillSlots s m.ctx cls (some id) ((hs.map drive).zip bs) with
    | some (dst, s) => updMove (unstage s hs) id fun x => { x with stage := .buffered, dst := dst }
    | none => if buffersBusy s then updMove s id fun x => { x with stage := .placed } else noSlot s id m

/-- Step 4 of R244: the copy; the operand shows the lines read (R269). It waits while a link it needs is down (R231). -/
def copyMove (s : State) (id : Nat) (reads : Reads) : State :=
  match mapGet s.tm.moves id with
  | none => s
  | some m =>
    let d := ctxBytes s m.ctx
    let wait (s : State) : State := updMove s id fun x => { x with stage := .placed }
    if targetDead s m then faultMove s id
    else
      match readPage s 2 m.ctx d m.layer m.head m.n with
      | .present hs _ valid =>
        if (m.dst ++ hs).any (accessWaits s) then wait s
        else
          let s := takeReads s reads
          match copyParts s d m valid ((dGen d + 1) % 2 ^ 32) 0 hs with
          | .error f => checkMove (unstage (pageFailed s f) hs) id
          | .ok bs =>
            if m.tier = 2 then bufferMove s id m hs bs
            else (failTarget (unstage s hs) id m).getD
              (updMove (writeSlots (unstage s hs) (m.dst.zip bs)) id fun x => { x with stage := .copying })
      | .bad f => checkMove (entryFailed s f) id
      | .unsettled => wait s
      | _ => endMove s id none

/-- The copies that wait for their target go on as far as they can (R231, R236). -/
def pokePlaced (s : State) : State :=
  (s.tm.moves.filter fun e => e.2.stage == .placed).foldl (fun s e => copyMove s e.1 .clean) s

/-- Steps 3 and 4 of R244, once the page is die-owned; the prefetch of an `APPEND` was queued with its slots (R147). -/
def placeMove (s : State) (id : Nat) (reads : Reads) (m : Move) (hs : List Nat) : State :=
  let go (s : State) : State :=
    if (unread s hs).isEmpty then copyMove s id reads
    else updMove (stageReads (takeReads s reads) hs) id fun x => { x with stage := .reading }
  if m.tier = 2 ∨ m.dst ≠ [] then go s
  else
    match allocMove s m (hs.headD 0) with
    | (.ok dst, s) => go (updMove s id fun x => { x with dst := dst })
    | (_, s) => noSlot s id m

/-- The mover starts moves: in Run, and while the node enters Retain until the step that stops the move queue (R264,
Table 16.5). -/
def moverRuns (s : State) : Bool :=
  match s.power.retain with
  | .out => true
  | .entering k => decide (k < 3)
  | _ => false

/-- Moves that have reached their edit still end: in Run, and while the node enters Retain (R264). -/
def moverEnds (s : State) : Bool := !(s.power.retain == .inside || s.power.retain == .leaving)

/-- A spill waits for the slots of a drop made for it (R250). -/
def awaitsRoom (s : State) (m : Move) (home : Nat) : Bool :=
  let d := ctxBytes s m.ctx
  match plNext (ctxPlan s d m.layer) home with
  | some t => !(lowerRoom s (ctxClass s m.ctx) t (dParts d)) && roomComing s (ctxClass s m.ctx) t (dParts d)
  | none => false

/-- A waiting move cannot start yet, so it holds up no other: its edit, its walker, the room it needs, its source's link or an
extent buffer is awaited. -/
def moveBlocked (s : State) (id : Nat) (m : Move) : Bool :=
  let drop (o : EditOwner) : Bool := o == .move id || o == .drop m.ctx m.layer m.n m.head
  (s.pm.editWait.any fun w => drop w.1)
    || (s.pm.walkWait.any fun w => w.1 == .move id || w.1 == .drop m.ctx m.layer m.n m.head)
    || (s.tm.moves.any fun e => e.2.for_ == some id)
    || (decide (m.tier = 2) && buffersBusy s)
    || (match readPage s 2 m.ctx (ctxBytes s m.ctx) m.layer m.head m.n with
      | .present hs _ _ => hs.any (accessWaits s) || (m.isSpill && awaitsRoom s m (pageTier hs))
      | .unsettled => true
      | _ => false)

/-- The move is the next one to start: the first by R248 among those that nothing holds up. -/
def isNext (s : State) (id : Nat) : Bool :=
  match mapGet s.tm.moves id with
  | none => false
  | some m =>
    let stopped (k : Nat) (x : Move) : Bool :=
      x.runs || opLocks s x.ctx x.layer x.n x.head || moveHeld s x.ctx x.why || moveBlocked s k x
    !(stopped id m) && decide (movesRunning s < 256) && s.tm.moves.all fun e => e.1 == id || stopped e.1 e.2 || m.before e.2

/-- The page's walker and lock are taken (step 1 of R244); a bank-owned page is released first (step 2). -/
def lockMove (s : State) (id : Nat) (reads : Reads) (hs : List Nat) (owner : Nat) : State :=
  match mapGet s.tm.moves id with
  | none => s
  | some m =>
    match walkStart s m.ctx (some m.layer) (.move id) with
    | none => waitWalker s (.move id)
    | some (w, s) =>
      let s := updMove s id fun x => { x with walker := some w }
      if owner = 1 then askRelease (updMove s id fun x => { x with stage := .releasing }) hs
      else placeMove s id reads m hs

/-- The context is freed or closing, which ends every move but the prefetch that an accepted `APPEND` needs (R35, R127, R245). -/
def moveClosed (s : State) (m : Move) : Bool :=
  decide (auxState s m.ctx = 0) || (decide (auxState s m.ctx = 5) && m.why != .appendPrefetch)

/-- A spill starts (R250). -/
def startSpill (s : State) (id : Nat) (reads : Reads) (m : Move) (hs : List Nat) (owner : Nat) : State :=
  if !(spillNeeded s m hs) then stopMove s id
  else
    match spillRoom s id m (pageTier hs) with
    | (.ready t, s) =>
      let s := updMove s id fun x => { x with tier := t }
      if t = 2 ∧ buffersBusy s = true then s else lockMove s id reads hs owner
    | (.waits, s) => s
    | (.drop, s) =>
      match dropByMover s m.ctx m.layer m.n m.head with
      | (.done, s) => endMove s id none
      | (.waits, s) => s
      | (.failed, s) => checkMove s id
    | (.stop, s) => stopSpill 4 s id

/-! ## Starting (R248, R252) -/

/-- Room for a prefetch into GDDR7 (R252). -/
def prefetchRoom (s : State) (ctx k : Nat) (narrow : Bool) : Bool :=
  let cls := ctxClass s ctx
  let gap := getF s rTmControl fTmControlPrefetchGap
  let mark := fld (regGet s (rCxSpillMark cls)) 0 32
  let use := usage s cls 0
  decide (use < quota s cls 0) && decide (use < mark - gap) && quotaRoom s cls 0 k
    && decide (getF s rTmControl fTmControlFreeMark < (if narrow then narrowFree s else wideFree s))
    && decide (auxState s ctx ≠ 2 ∧ auxState s ctx ≠ 3)

/-- Where a layer-ahead prefetch of a page goes, when there is room (R252). -/
def prefetchTo (s : State) (ctx : Nat) (d : Bytes) (p : PageAt) : Option Nat :=
  let w := ctxPlan s d p.layer
  ((plTiers w).takeWhile (· ≠ pageTier p.handles)).find? fun t =>
    if t = 0 then prefetchRoom s ctx (dParts d) (plNarrow w) else lowerRoom s (ctxClass s ctx) t (dParts d)

/-- Where a move that is not a spill goes as it starts: a retiring page stays in its own tier (R284), and a layer-ahead
prefetch lifts no page into GDDR7 while its context is parking or parked (R29, R252). -/
def moveTarget (s : State) (d : Bytes) (m : Move) (hs : List Nat) (owner valid : Nat) : Option Nat :=
  let parked := decide (auxState s m.ctx = 2 ∨ auxState s m.ctx = 3)
  if m.why = .retire then some (pageTier hs)
  else
    match (if m.why = .layerAhead ∧ m.tier = 0 ∧ parked = true then
        prefetchTo s m.ctx d ⟨m.n, m.layer, m.head, hs, owner, valid⟩ else some m.tier) with
    | some t => if pageTier hs = t ∧ m.why ≠ .compact then none else some t
    | none => none

/-- MOVE_START for a queued move (R244, R248, R250). -/
def startMove (s : State) (id : Nat) (reads : Reads) : State :=
  match mapGet s.tm.moves id with
  | none => s
  | some m =>
    if moveClosed s m then endMove s id (some stAborted)
    else
      match readCtx s m.ctx 2 with
      | .error s => checkMove s id
      | .ok (d, s) =>
        match readPage s 2 m.ctx d m.layer m.head m.n with
        | .bad f => checkMove (entryFailed s f) id
        | .unsettled => s
        | .present hs owner valid =>
          if hs.any (accessWaits s) then s
          else if m.isSpill then startSpill s id reads m hs owner
          else
            match moveTarget s d m hs owner valid with
            | none => stopMove s id
            | some t =>
              let s := updMove s id fun x => { x with tier := t }
              if t = 2 ∧ buffersBusy s = true then s else lockMove s id reads hs owner
        | _ => endMove s id none

/-! ## The edit of a move (step 5 of R244) -/

/-- The header of a copied slot names the generation of the edit that installs it; a written extent is not rewritten (R235;
log entry 208). -/
def stampGen (gen : Nat) (s : State) (h : Nat) : State :=
  if hQuota h = 2 then s
  else
    let t := slotTail s h
    slotWrite s h 0x4000 (sealTail (overlay t 0x1E0 (putF (tailHeader t) 0x0C 0 32 gen)))

/-- A page of a park or reopen has moved (R33, R34). -/
def countMoved (s : State) (ctx : Nat) : State :=
  let more (a : CtxAux) : CtxAux := { a with op := a.op.map fun o => { o with moved := o.moved + 1 } }
  { s with cx := { s.cx with open_ := mapAdj s.cx.open_ ctx more } }

/-- Count a completed move (Table 08.11). -/
def countMove (s : State) (m : Move) : State :=
  match m.why with
  | .quotaCut | .mark => bumpR s rTmSpills 1
  | .appendPrefetch | .layerAhead => bumpR s rTmPrefetches 1
  | .parkReopen => countMoved s m.ctx
  | _ => s

/-- A page that an `APPEND` had brought to GDDR7 stays there while its context is parking or parked, as under R33 (R149; log
entry 184). -/
def liftedTail (s : State) (m : Move) : State :=
  if m.why = .appendPrefetch ∧ m.tier = 0 ∧ (auxState s m.ctx = 2 ∨ auxState s m.ctx = 3) then
    keepPage s m.ctx (m.layer, m.head, m.n)
  else s

/-- MOVE_COMMIT: one edit installs the new home and defers the old one (R244). -/
def commitMove (s : State) (id : Nat) : State :=
  match mapGet s.tm.moves id with
  | none => s
  | some m =>
    if m.stage ≠ .copying ∧ m.stage ≠ .ready ∨ m.dst = [] ∨ moveHeld s m.ctx m.why = true then s
    else if moveClosed s m then endMove s id (some stAborted)
    else if targetDead s m then faultMove s id
    else if m.dst.any (accessWaits s) then s
    else
      match readCtx s m.ctx 2 with
      | .error s => checkMove s id
      | .ok (d, s) =>
        match readPage s 2 m.ctx d m.layer m.head m.n with
        | .bad f => checkMove (entryFailed s f) id
        | .unsettled => s
        | .present _ _ _ =>
          match failTarget s id m with
          | some s => s
          | none =>
          match editPage (m.dst.foldl (stampGen ((dGen d + 1) % 2 ^ 32)) s) 2 m.ctx m.layer m.n m.head
              fun p e => ⟨0, m.dst.getD p 0, 1, 0, eValid e⟩ with
          | .bad f => checkMove (entryFailed s f) id
          | .wait g => waitEdit s (.move id) g
          | .done s => endMove (liftedTail (countMove s m) m) id none
        | _ => endMove s id none

/-! ## Prefetch -/

/-- A page is homed below its band's home. -/
def belowHome (s : State) (d : Bytes) (p : PageAt) : Bool :=
  decide (plHome (ctxPlan s d p.layer) < pageTier p.handles)

/-- Queue the layer-ahead prefetches of an attend on a layer whose walker meets the slots given (R252). -/
def prefetchAhead (s : State) (ctx layer : Nat) (met : List Nat) : State :=
  let d := ctxBytes s ctx
  let w := ctxPlan s d layer
  if !(met.any fun h => decide (plHome w < hQuota h)) then s
  else
    let near (p : PageAt) : Bool := decide (layer < p.layer ∧ p.layer ≤ layer + plPrefetch w)
    ((pagesOf s ctx).filter fun p => near p && belowHome s d p && mayChoose s p.handles).foldl (init := s) fun s p =>
      match prefetchTo s ctx d p with
      | some t => queueMove s ctx p.layer p.n p.kv t .layerAhead none none
      | none => s

end Sys2Proof.Machine
end

