-- ==== Sys2Proof/Machine/Tiers.lean ====
section
/-!
DEFINITION. Machine/Tiers.lean: the commands of the tier mover and of the tier ports (R225 to R257).
-/

namespace Sys2Proof.Machine

/-- MOVE_START (R244): the next queued move by R248 starts. -/
def execMoveStart (id : Nat) (reads : Reads) (s : State) : Host.Outcome State Fault Refusal :=
  .next (live s fun s => if moverRuns s && isNext s id then pokeRetires (startMove s id reads) else s)

/-- MOVE_COMMIT (R244): moves that have reached their edit end while the node enters Retain (R264). -/
def execMoveCommit (x : MoveRead) (s : State) : Host.Outcome State Fault Refusal :=
  .next (live s fun s => if moverEnds s then pokeRetires (commitMove (takeReads s x.reads) x.id) else s)

/-- The park or reopen of a move has ended (R245). -/
def reasonGone (s : State) (m : Move) : Bool :=
  m.why == .parkReopen && auxState s m.ctx != 3 && (match mapGet s.cx.open_ m.ctx with
    | some a => a.op.isNone
    | none => true)

/-- MOVE_ABANDON (R245): the target's link is down, the context is closing, or the park or reopen has ended. -/
def execMoveAbandon (id : Nat) (fault : Bool) (s : State) : Host.Outcome State Fault Refusal :=
  .next (live s fun s =>
    match mapGet s.tm.moves id with
    | none => s
    | some m =>
      if fault && targetDead s m then pokeRetires (faultMove s id)
      else if moveClosed s m then pokeRetires (endMove s id (some stAborted))
      else if reasonGone s m then pokeRetires (stopMove s id)
      else s)

/-! ## Why spills start -/

/-- A plan entry allows a page homed in GDDR7 to spill: a tier below, or a drop from the home (R250). -/
def spillable (w : Nat) : Bool := decide (plHome w = 0) && (decide (plSpill w ≠ 0) || plDropOk w)

/-- A page's move takes it out of GDDR7, and runs or has a priority of `why` or higher. -/
def leaving (s : State) (why : MoveWhy) (c : Nat) (p : PageAt) : Bool :=
  match moveOf s c p.layer p.n p.kv with
  | some (_, m) => (decide (m.tier ≠ 0) || m.isSpill) && (m.runs || decide (m.why.prio ≤ why.prio))
  | none => false

/-- A page's move is not lower than `why`, or runs. -/
def moving (s : State) (why : MoveWhy) (c : Nat) (p : PageAt) : Bool :=
  match moveOf s c p.layer p.n p.kv with
  | some (_, m) => m.runs || decide (m.why.prio ≤ why.prio)
  | none => false

/-- Queue spills of the pages given, oldest first, while `need` holds of the slots already on their way out. -/
def queueSpills (s : State) (pages : List (Nat × PageAt)) (why : MoveWhy) (need : Nat → Bool) : State :=
  let parts (c : Nat) : Nat := dParts (ctxBytes s c)
  let out := sumOf (pages.map fun e => if leaving s why e.1 e.2 then parts e.1 else 0)
  (pages.foldl (init := (out, s)) fun (out, t) (c, p) =>
    let w := ctxPlan s (ctxBytes s c) p.layer
    if need out && spillable w && mayChoose t p.handles && p.valid == dP (ctxBytes s c) && !(moving t why c p) then
      (out + parts c, queueMove t c p.layer p.n p.kv ((plNext w 0).getD 0) why none none)
    else (out, t)).2

/-- The pages of a class homed in GDDR7, oldest first (R247). -/
def gddrPages (s : State) (p : CtxAux → Bool) : List (Nat × PageAt) :=
  (pagesByAge s p).filter fun e => pageTier e.2.handles == 0

/-- QUOTA_SPILL (R47): until usage is one slot below the quota. -/
def execQuotaSpill (cls : Nat) (s : State) : Host.Outcome State Fault Refusal :=
  .next (live s fun s =>
    queueSpills s (gddrPages s fun a => a.cls == cls) .quotaCut fun out => decide (quota s cls 0 ≤ usage s cls 0 - out))

/-- SPILL_MARK_SPILL (R48): until usage is below the mark. -/
def execSpillMarkSpill (cls : Nat) (s : State) : Host.Outcome State Fault Refusal :=
  .next (live s fun s =>
    queueSpills s (gddrPages s fun a => a.cls == cls) .mark fun out =>
      decide (fld (regGet s (rCxSpillMark cls)) 0 32 ≤ usage s cls 0 - out))

/-- FREE_MARK_SPILL (R249): until the pool's free slots are at the mark. -/
def execFreeMarkSpill (narrow : Bool) (s : State) : Host.Outcome State Fault Refusal :=
  .next (live s fun s =>
    let pool := if narrow then 1 else 0
    let free := if narrow then narrowFree s else wideFree s
    queueSpills s ((gddrPages s fun _ => true).filter fun e => hTier (e.2.handles.headD 0) == pool) .mark fun out =>
      decide (free + out < getF s rTmControl fTmControlFreeMark))

/-- SPILL (R250): the spill of a page, queued when a reason for it holds, makes room for itself, drops the page, or stops; the
last operand shows the lines read (R269). -/
def execSpill (ctx layer n : Nat) (x : HeadRead) (s : State) : Host.Outcome State Fault Refusal :=
  .next (live s fun s =>
    let head := x.head
    let d := ctxBytes s ctx
    if auxState s ctx = 0 ∨ auxState s ctx = 5 ∨ !(ctxGood s ctx) then s
    else
      let s := takeReads s x.reads
      match readPage s 2 ctx d layer head n with
      | .present hs _ valid =>
        let w := ctxPlan s d layer
        let s := match moveOf s ctx layer n head with
          | some _ => s
          | none =>
            match spillReason s (ctxClass s ctx) (hTier (hs.headD 0)) with
            | some why =>
              if valid = dP d ∧ pageTier hs = 0 ∧ spillable w = true ∧ mayChoose s hs = true then
                queueMove s ctx layer n head ((plNext w 0).getD 0) why none none
              else s
            | none => s
        match moveOf s ctx layer n head with
        | some (id, m) =>
          if m.runs || !m.isSpill || opLocks s ctx layer n head then s
          else if !(spillNeeded s m hs) then stopMove s id
          else
            match spillRoom s id m (pageTier hs) with
            | (.ready t, s) => updMove s id fun x => { x with tier := t }
            | (.waits, s) => s
            | (.drop, s) =>
              match dropByMover s ctx layer n head with
              | (.done, s) => endMove s id none
              | (.waits, s) => s
              | (.failed, s) => checkMove s id
            | (.stop, s) => stopSpill 4 s id
        | none => s
      | _ => s)

/-! ## Flash -/

/-- The page that a live flash slot holds, from its header: context, layer, local ordinal, KV head. -/
def flashPage (s : State) (h : Nat) : Option (Nat × Nat × Nat × Nat) :=
  match mapGet s.pm.slots h with
  | some x =>
    if x.use = .home then
      let d := ctxBytes s x.ctx
      let hd := tailHeader (slotTail s h)
      some (x.ctx, hdLayer hd, hdFirst hd / (dP d * dW d), hdKv hd)
    else none
  | none => none

/-- Extents that free up are wanted below this mark (R254). -/
def compactMark (s : State) : Nat := 1024 * getF s rTmControl fTmControlCompactMark

/-- COMPACT (R254): the written extents with the fewest live positions are emptied, as many as the mark wants. -/
def execCompact (drive : Nat) (s : State) : Host.Outcome State Fault Refusal :=
  .next (live s fun s =>
    if !(moverRuns s) || decide (compactMark s ≤ extentsFreeOf s drive) then s
    else
      let sparse := (s.tm.extents.filter fun e => decide (e.1 / 2 ^ 29 = drive ∧ e.2.length < extentPositions))
      let chosen := (sortBy (fun a b => decide (a.2.length ≤ b.2.length)) sparse).take (compactMark s - extentsFreeOf s drive)
      chosen.foldl (init := s) fun s e =>
        let s := if s.tm.compacting.contains e.1 then s
          else { s with tm := { s.tm with compacting := s.tm.compacting ++ [e.1] } }
        e.2.foldl (init := s) fun s p =>
          match flashPage s (mkFlash drive p (e.1 % 2 ^ 29)) with
          | some (c, l, n, kv) =>
            if mayChoose s [mkFlash drive p (e.1 % 2 ^ 29)] then queueMove s c l n kv 2 .compact none none else s
          | none => s)

/-- The Write of a buffer's extent has failed, or its Flush (R245): the buffer is empty again, the moves that filled it are
abandoned, and copies that wait for a buffer go on. -/
def loseBuf (s : State) (k : Nat) (b : ExtBuf) : State :=
  pokePlaced (b.moves.foldl faultMove { s with tm := { s.tm with buffers := mapDel s.tm.buffers k } })

/-- Give a buffer's extent to its drive: a Write of 128 blocks and a Flush (R235, R236, R244).  It waits while the drive's link
is down, and fails once the 10 ms of R231 have passed. -/
def flushBuf (s : State) (k : Nat) : State :=
  match mapGet s.tm.buffers k with
  | some b =>
    if b.sent ∨ b.filled = [] ∨ accessWaits s (mkFlash b.drive 0 b.extent) = true then s
    else if slotDead s (mkFlash b.drive 0 b.extent) then loseBuf s k b
    else
      giveDrive (giveDrive { s with tm := { s.tm with buffers := mapPut s.tm.buffers k { b with sent := true } } }
        b.drive (.write k)) b.drive (.flush k)
  | none => s

/-- EXTENT_FLUSH (R236): the buffer is full, or `FLUSH_TIME` has passed since its first position was filled. -/
def execExtentFlush (buf : Nat) (s : State) : Host.Outcome State Fault Refusal :=
  .next (live s fun s =>
    match mapGet s.tm.buffers buf with
    | some b =>
      if extentPositions ≤ b.filled.length ∨ due s b.first (1024 * getF s rTmControl fTmControlFlushTime) = true then
        flushBuf s buf
      else s
    | none => s)

/-- Every slot of a buffered move lies in a written extent. -/
def dstWritten (s : State) (m : Move) : Bool :=
  decide (m.dst ≠ []) && decide (m.stage = .buffered) && m.dst.all fun h => ((mapGet s.tm.extents (extKey (fDrive h) (fExtent h))).getD []).contains (fPosn h)

/-- The slots of a written buffer that are still allocated are what its extent holds (R235, R238). -/
def storeExtent (s : State) (b : ExtBuf) : State :=
  let h (p : Nat) : Nat := mkFlash b.drive p b.extent
  let kept := b.filled.filter fun e => taken s (h e.1)
  let put (m : NMap Bytes) (e : Nat × Bytes) : NMap Bytes :=
    mapPut m (h e.1) (xtsEncrypt (flashKey s) (flashTweak (h e.1)) (padTo slotBytes e.2))
  let s := { s with tm := { s.tm with flash := kept.foldl put s.tm.flash } }
  if kept = [] then emit s (.driveDealloc b.drive b.extent)
  else { s with tm := { s.tm with extents := mapPut s.tm.extents (extKey b.drive b.extent) (kept.map (·.1)) } }

/-- DRIVE_COMPLETION (R244): the Write and the Flush of an extent end; copies that wait for a buffer go on (R236). -/
def execDriveCompletion (buf : Nat) (ok : Bool) (s : State) : Host.Outcome State Fault Refusal :=
  .next (live s fun s =>
    match mapGet s.tm.buffers buf with
    | none => s
    | some b =>
      if !b.sent || !(driveHas s b.drive (.flush buf)) || accessWaits s (mkFlash b.drive 0 b.extent) then s
      else
        let s := leaveDrive (leaveDrive s b.drive (.write buf)) b.drive (.flush buf)
        if slotDead s (mkFlash b.drive 0 b.extent) then pokeRetires (loseBuf s buf b)
        else if !ok then pokeRetires (loseBuf (raise1 s 15 fTpEventNvmeError) buf b)
        else
          let s := { s with tm := { s.tm with buffers := mapDel s.tm.buffers buf } }
          pokeRetires (pokePlaced (b.moves.foldl (init := storeExtent s b) fun s id =>
            match mapGet s.tm.moves id with
            | some m => if dstWritten s m then updMove s id fun x => { x with stage := .ready } else s
            | none => s)))

/-! ## Tier links -/

/-- The number of a tier link, when there is such a link. -/
def tierLink (port link : Nat) : Option Nat := if port < 2 ∧ link < 4 then some (port * 4 + link) else none

/-- Set or clear a link's trained bits (Tables 08.13 and 08.14). -/
def setTierUp (s : State) (port link : Nat) (up : Bool) : State :=
  setB (setB s (rTpLink port link) fTpLinkUp up) (rTpPort port) ⟨fTpPortLinksUp.lo + link, 1⟩ up

/-- A tier link goes down (R231). -/
def tierDown (s : State) (k : Nat) : State :=
  if getB s (tpLink k) fTpLinkUp then
    let s := setTierUp s (k / 4) (k % 4) false
    raise1 { s with tm := { s.tm with down := mapPut s.tm.down k (s.time, false) } } 15 fTpEventLinkDown
  else s

/-- TIER_LINK_DOWN (R231). -/
def execTierLinkDown (port link : Nat) (s : State) : Host.Outcome State Fault Refusal :=
  .next (live s fun s =>
    match tierLink port link with
    | some k => tierDown s k
    | none => s)

/-- The 10 ms of R231, in cycles of the local counter. -/
def linkWaitCycles : Nat := cyclesNs 10000000

/-- TIER_LINK_TIMEOUT (R231): accesses to the link's slots now fail as line checks do. -/
def execTierLinkTimeout (port link : Nat) (s : State) : Host.Outcome State Fault Refusal :=
  .next (live s fun s =>
    match tierLink port link with
    | some k =>
      match mapGet s.tm.down k with
      | some (t, _) =>
        if due s t linkWaitCycles then
          pokeRetires (pokePlaced { s with tm := { s.tm with down := mapPut s.tm.down k (t, true) } })
        else s
      | none => s
    | none => s)

/-- TIER_LINK_RETRAINED (R231): the accesses that wait go on. -/
def execTierLinkRetrained (port link : Nat) (s : State) : Host.Outcome State Fault Refusal :=
  .next (live s fun s =>
    match tierLink port link with
    | some k =>
      if (mapGet s.tm.down k).isSome then
        pokePlaced (setTierUp { s with tm := { s.tm with down := mapDel s.tm.down k } } port link true)
      else s
    | none => s)

/-- INBOUND_REQUEST (R230): outside the tier mover's window, so refused and counted. -/
def execInboundRequest (port link : Nat) (s : State) : Host.Outcome State Fault Refusal :=
  .next (live s fun s =>
    match tierLink port link with
    | some k => if getB s (tpLink k) fTpLinkUp then emit (raise1 s 15 fTpEventInboundRefused) .unsupported else s
    | none => s)

end Sys2Proof.Machine
end

