-- ==== Sys2Proof/Machine/Contexts.lean ====
section
/-!
DEFINITION. Machine/Contexts.lean: the commands of sequence contexts and shard sets (R22 to R48, R76, R480).
A command that uses the context table before it is ready stays fetched (R480).
-/

namespace Sys2Proof.Machine

/-- The `SOURCE` of a check failure that a context command meets (Table 09.3, log entry 18). -/
def srcHost : Nat := 6

/-- Start a command that uses the context table, or wait for the table (R480). -/
def startCx (s : State) (op : Nat) (c : Cmd) (f : CmdRef → State → State) : State :=
  live s fun s => if tableReady s then startCmd s op c f else if turnOf s c then startZeroing s else s

/-- CX_READY (R480): the zeroing of the context table ends. -/
def execCxReady (s : State) : Host.Outcome State Fault Refusal :=
  .next (live s fun s =>
    if s.cx.zeroing then setB { s with cx := { s.cx with zeroing := false } } rPwStart fPwStartCxReady true else s)

def cmdIndex (c : Cmd) : Nat := bfld c.d 8 0 20

/-! ## Opening -/

/-- The 20 supplied bytes of `CX_OPEN`. -/
def supplied (c : Cmd) : Bytes := slice c.d 0x0C 20

/-- `ROPE_BASE` is finite and greater than 1.0 (Table 02.1). -/
def ropeBaseOk (v : Nat) : Bool := decide (0x3F800000 < v ∧ v < 0x7F800000)

/-- The ranges and rules of R25, R26 and R27 that the supplied fields alone decide. -/
def suppliedOk (d : Bytes) : Bool :=
  decide (dFmt d ≤ 4 ∧ dWidthCode d ≤ 19 ∧ 1 ≤ dLayers d ∧ 1 ≤ dHeads d ∧ dHeads d ≤ 64 ∧ num d 7 1 = 0 ∧
    bfld d 0x0C 10 22 = 0 ∧ bfld d 0x10 22 10 = 0 ∧ dRopeDims d % 2 = 0 ∧ dRopeDims d ≤ dWidth d)
  && (!(dRopeAt d) || decide (dRopeDims d = 0) || ropeBaseOk (dRopeBase d))

/-- The shard-set rules of R27. -/
def suppliedSetOk (s : State) (d : Bytes) : Bool :=
  decide (setWidth s (dSet d) ≠ 0 ∧ dIndex d < setWidth s (dSet d)) && decide (setNode s (dSet d) (dIndex d) = nodeId s)

/-- The regions keep R23, R84, R259 and R282: none of the first three touches the wide reserve. -/
def openRegionsOk (s : State) : Bool :=
  regionsOk s && ((fixedRegions s).take 3).all fun (a, n) => decide (n = 0 ∨ a + n ≤ reserveBase s)

/-- Every supplied field equals the stored one (R31). -/
def sameSupplied (d e : Bytes) : Bool :=
  putF (putF (d.take 20) 0 0 4 0) 0 28 2 0 == putF (putF (e.take 20) 0 0 4 0) 0 28 2 0

/-- The descriptor of a context as `CX_OPEN` leaves it (R25, R26, R32). -/
def openDesc (s : State) (d : Bytes) (root : Nat) : Bytes :=
  let e := padTo 0x7E (d.take 20)
  let e := putF (putF e 0 0 4 1) 0 28 2 (posCode (dFmt d) (dWidth d))
  let e := putF (putF e 0x14 0 11 (setWidth s (dSet d))) 0x14 16 12 (setNode s (dSet d) 0)
  putF e 0x20 0 40 root

def useCtx (s : State) (cls : Nat) : Nat := fld (regGet s (rCxUseCtx cls)) 0 32
def quotaCtx (s : State) (cls : Nat) : Nat := fld (regGet s (rCxQuotaCtx cls)) 0 32

/-- The open itself, with its status: `QUOTA` where it lacks room (R32, R45, R69), `UNCORRECTABLE` where the root block cannot be
written, since its BBD is out of service (R161).  A forwarding record of the index goes (R397). -/
def openCtx (s : State) (i : Nat) (d : Bytes) : Nat × State :=
  if quotaCtx s (dClass d) ≤ useCtx s (dClass d) then (stQuota, raiseQuota s)
  else
    match takeRun s 0 with
    | none => (stQuota, raiseQuota (raise1 s 3 fPmEventPoolEmpty))
    | some (b, t) =>
      let root := poolBase s + 4096 * b
      match blocksOut s b 0 with
      | some a =>
        (stUncorrectable,
          logFailure s { cause := 10, source := srcHost, ctx := some (i, 0, 0, 0), channel := some (place s a).1, handle := a })
      | none =>
        let e := openDesc t d root
        let s := zeroRange t root 4096
        let s := writeEntry s (root + 16 * 255) (mkRootHeader i (dHp e) (dParts e))
        let s := setF s (rCxUseCtx (dClass d)) fCount (useCtx s (dClass d) + 1)
        let aux : CtxAux := { state := 1, cls := dClass d, plan := dPlan d, shardSet := dSet d, op := none, bad := false, kept := [] }
        (stOk, writeCtx { s with cx := { s.cx with open_ := mapPut s.cx.open_ i aux },
                                 cf := { s.cf with forwards := mapDel s.cf.forwards i } } i e)

/-- CX_OPEN (R23, R25 to R27, R30 to R32). -/
def execCxOpen (c : Cmd) (s : State) : Host.Outcome State Fault Refusal :=
  .next (startCx s 0x01 c fun r s =>
    let i := cmdIndex c
    let d := supplied c
    if auxState s i = 1 ∧ ctxGood s i = true ∧ sameSupplied d (ctxBytes s i) = true then finish s r stOk
    else if !(suppliedOk d) || !(suppliedSetOk s d) || !(openRegionsOk s) then finish s r stFormat
    else
      match readCtx s i srcHost with
      | .error s => finish s r stUncorrectable
      | .ok (_, s) =>
        match auxState s i with
        | 0 =>
          let (st, s) := openCtx s i d
          finish s r st
        | 5 => finish s r stNoContext
        | _ => finish s r stFormat)

/-! ## Operations in progress -/

/-- The operation in progress on a context ends with a status, and its moves with it (R30, R33, R34, R245). -/
def endCtxOp (s : State) (i st : Nat) : State :=
  let s := match mapGet s.cx.open_ i with
    | some a =>
      match a.op with
      | some o => setCtxOp (finishAll s o.refs st o.moved) i none
      | none => s
    | none => s
  stopCtxMoves s i fun m => m.why == .parkReopen

/-- The operation in progress on a context must stop with a status (R33, R34). -/
def stopOp (s : State) (i st : Nat) : State :=
  let mark (a : CtxAux) : CtxAux := { a with op := a.op.map fun o => { o with stop := o.stop.orElse fun _ => some st } }
  { s with cx := { s.cx with open_ := mapAdj s.cx.open_ i mark } }

/-- A command joins the operation in progress (R30). -/
def joinOp (s : State) (i : Nat) (r : CmdRef) : State :=
  let join (a : CtxAux) : CtxAux := { a with op := a.op.map fun o => { o with refs := o.refs ++ [r] } }
  { s with cx := { s.cx with open_ := mapAdj s.cx.open_ i join } }

/-- The plan class allows no tier below GDDR7 (R243). -/
def noLower (s : State) (d : Bytes) : Bool :=
  (List.range (dLayers d)).any fun l => decide (plHome (ctxPlan s d l) = 0 ∧ plSpill (ctxPlan s d l) = 0)

/-- Pages that a park moves: homed in GDDR7 in a band with `HOME` 0 (R33). -/
def parkPages (s : State) (i : Nat) (d : Bytes) : List PageAt :=
  (pagesOf s i).filter fun p => decide (pageTier p.handles = 0 ∧ plHome (ctxPlan s d p.layer) = 0)

/-- Pages that a reopen moves: below GDDR7 with plan home GDDR7 (R34). -/
def reopenPages (s : State) (i : Nat) (d : Bytes) : List PageAt :=
  (pagesOf s i).filter fun p => decide (pageTier p.handles ≠ 0 ∧ plHome (ctxPlan s d p.layer) = 0)

/-- The first lower tier of a layer's band (R33). -/
def firstLower (s : State) (d : Bytes) (layer : Nat) : Nat := (plNext (ctxPlan s d layer) 0).getD 1

/-- Queue the moves of a park or reopen; a page that failed its check in an earlier move is not chosen again, so it stops the
operation (R33, R34, R245; log entry 183). -/
def queueOp (s : State) (i : Nat) (tier : PageAt → Nat) (ps : List PageAt) : State :=
  ps.foldl (init := s) fun s p =>
    if mayChoose s p.handles then queueMove s i p.layer p.n p.kv (tier p) .parkReopen none none else stopOp s i stUncorrectable

def queueParks (s : State) (i : Nat) (d : Bytes) (ps : List PageAt) : State := queueOp s i (fun p => firstLower s d p.layer) ps

def queueReopens (s : State) (i : Nat) (ps : List PageAt) : State := queueOp s i (fun _ => 0) ps

/-- CX_PARK (R30, R33). -/
def execCxPark (c : Cmd) (s : State) : Host.Outcome State Fault Refusal :=
  .next (startCx s 0x03 c fun r s =>
    let i := cmdIndex c
    match readCtx s i srcHost with
    | .error s => finish s r stUncorrectable
    | .ok (d, s) =>
      match auxState s i with
      | 0 | 5 => finish s r stNoContext
      | 2 => joinOp s i r
      | 3 => finish s r stOk
      | _ =>
        if noLower s d then finish s r stFormat
        else
          let s := setCtxState (endCtxOp s i stAborted) i 2
          queueParks (setCtxOp s i (some ⟨.park, [r], 0, none⟩)) i d (parkPages s i d))

/-- Slots below GDDR7 whose plan home is GDDR7 (R34). -/
def reopenSlots (s : State) (i : Nat) (d : Bytes) : Nat := (reopenPages s i d).length * dParts d

/-- CX_REOPEN (R30, R34). -/
def execCxReopen (c : Cmd) (s : State) : Host.Outcome State Fault Refusal :=
  .next (startCx s 0x04 c fun r s =>
    let i := cmdIndex c
    match readCtx s i srcHost with
    | .error s => finish s r stUncorrectable
    | .ok (d, s) =>
      match auxState s i with
      | 0 | 5 => finish s r stNoContext
      | 1 => finish s r stOk
      | 4 => joinOp s i r
      | _ =>
        let cls := ctxClass s i
        if quota s cls 0 - usage s cls 0 < reopenSlots s i d then finish (raiseQuota s) r stQuota
        else
          let s := setCtxState (endCtxOp s i stAborted) i 4
          queueReopens (setCtxOp s i (some ⟨.reopen, [r], 0, none⟩)) i (reopenPages s i d))

/-- Some park or reopen move of the context is queued or runs. -/
def opMoves (s : State) (i : Nat) : Bool := s.tm.moves.any fun e => e.2.ctx == i && e.2.why == .parkReopen

/-- End an operation: `done` and `stopped` are the states it leaves (R33, R34). Full pages still to be moved are queued
again (R248). -/
def tryEndOp (s : State) (i : Nat) (kind : CtxOpKind) (done stopped : Nat) (left : List PageAt) (again : State → State) :
    State :=
  match mapGet s.cx.open_ i with
  | some a =>
    match a.op with
    | some o =>
      if o.kind ≠ kind then s
      else
        match o.stop with
        | some st => endCtxOp (setCtxState s i stopped) i st
        | none =>
          if opMoves s i then s
          else if left ≠ [] then again s
          else endCtxOp (setCtxState s i done) i stOk
    | none => s
  | none => s

/-- The pages that a park has still to move: those held under R33 count once they are full. -/
def parkLeft (s : State) (i : Nat) (d : Bytes) : List PageAt :=
  (parkPages s i d).filter fun p => decide (p.valid = dP d) || !((keptPages s i).contains (p.layer, p.kv, p.n))

/-- A running move brings a page of the context into GDDR7. -/
def lifting (s : State) (i : Nat) : Bool :=
  s.tm.moves.any fun e => e.2.ctx == i && e.2.runs && decide (e.2.tier = 0) && !e.2.isSpill && e.2.why != .retire

/-- A park or reopen whose descriptor fails its check stops with `UNCORRECTABLE` (R28, R33, R34). -/
def failCtxOp (s : State) (ctx : Nat) (kind : CtxOpKind) : State := tryEndOp (stopOp s ctx stUncorrectable) ctx kind 1 1 [] id

/-- The context runs an operation of the kind. -/
def runsOp (s : State) (ctx : Nat) (kind : CtxOpKind) : Bool :=
  match mapGet s.cx.open_ ctx with
  | some a => a.op.any fun o => o.kind == kind
  | none => false

/-- PARK_END (R33): tail pages that are not full do not delay it; a parked context's full ones are queued again (R248).  The
operand shows the lines read (R269). -/
def execParkEnd (x : CtxRead) (s : State) : Host.Outcome State Fault Refusal :=
  .next (live s fun s =>
    if auxState s x.ctx ≠ 3 ∧ runsOp s x.ctx .park = false then s
    else
      match readCtx (takeReads s x.reads) x.ctx 2 with
      | .error s => failCtxOp s x.ctx .park
      | .ok (d, s) =>
        let left := parkLeft s x.ctx d
        if auxState s x.ctx = 3 then queueParks s x.ctx d left
        else if lifting s x.ctx then s
        else tryEndOp s x.ctx .park 3 1 left fun s => queueParks s x.ctx d left)

/-- REOPEN_END (R34); the operand shows the lines read (R269). -/
def execReopenEnd (x : CtxRead) (s : State) : Host.Outcome State Fault Refusal :=
  .next (live s fun s =>
    if runsOp s x.ctx .reopen = false then s
    else
      match readCtx (takeReads s x.reads) x.ctx 2 with
      | .error s => failCtxOp s x.ctx .reopen
      | .ok (d, s) =>
        let left := reopenPages s x.ctx d
        tryEndOp s x.ctx .reopen 1 1 left fun s => queueReopens s x.ctx left)

/-! ## Closing -/

/-- Requests accepted against a context and not yet completed, as the node counts them (R35). -/
def inFlight (s : State) (i : Nat) : Nat :=
  (s.ae.reqs.filter fun e => e.2.ctx == i).length + (s.ae.ops.filter fun e => e.2.ctx == i).length

/-- A context passes its close point (R28, R35). A descriptor that fails its check is not written. -/
def closePoint (s : State) (i : Nat) (good : Bool) (refs : List CmdRef) : State :=
  let s := endCtxOp s i stAborted
  let s := if good then setCtxState s i 5
    else { s with cx := { s.cx with open_ := mapAdj s.cx.open_ i fun a => { a with state := 5 } } }
  setCtxOp s i (some ⟨.close, refs, 0, none⟩)

/-- CX_CLOSE (R28, R30, R35). -/
def execCxClose (c : Cmd) (s : State) : Host.Outcome State Fault Refusal :=
  .next (startCx s 0x02 c fun r s =>
    let i := cmdIndex c
    let (good, s) := match readCtx s i srcHost with
      | .error s => (false, s)
      | .ok (_, s) => (true, s)
    match auxState s i with
    | 0 => finish s r (if good then stNoContext else stUncorrectable)
    | 5 => joinOp s i r
    | _ => closePoint s i good [r])

/-- The runs of a context, its root block among them, as block indices. -/
def ctxRuns (s : State) (i : Nat) (d : Bytes) : List Nat :=
  blockOf s (dRoot d) :: (List.range (dLayers d)).filterMap fun l =>
    match readRun s srcHost i d l with
    | .run _ base => some (blockOf s base)
    | _ => none

/-- The handles that a context's map reaches. -/
def reachable (s : State) (i : Nat) (d : Bytes) : List Nat :=
  (List.range (dLayers d)).flatMap fun l =>
    match readRun s srcHost i d l with
    | .run log2 base =>
      (List.range (256 * 2 ^ log2)).filterMap fun k =>
        let e := entryAt s (base + 16 * k)
        if (entryCause s (base + 16 * k) e (entryShape e (dP d))).isNone ∧ eState e = 1 then some (eHandle e) else none
    | _ => []

/-- The slots of a context in a use. -/
def slotsOf (s : State) (i : Nat) (u : SlotUse) : List Nat :=
  (s.pm.slots.filter fun e => e.2.ctx == i && e.2.use == u).map (·.1)

/-- The entries of a context's map that fail their check as its close reads them (R67). -/
def closeFailures (s : State) (i : Nat) (d : Bytes) : List Failure :=
  let runs := (List.range (dLayers d)).map fun l => (l, readRun s srcHost i d l)
  let roots := runs.filterMap fun (_, x) => match x with
    | .bad f => some f
    | _ => none
  match roots.find? fun f => f.handle == dRoot d + 16 * 255 with
  | some f => [f]
  | none =>
    roots ++ runs.flatMap fun (l, x) => match x with
      | .run log2 base =>
        (List.range (256 * 2 ^ log2)).filterMap fun k =>
          let a := base + 16 * k
          let e := entryAt s a
          if e = 0 ∧ (mapGet s.pm.bad a).isNone then none
          else (entryCause s a e (entryShape e (dP d))).map fun c =>
            entryFailure s c srcHost a e (i, k % dHp d / dParts d, l, firstPos d (k / dHp d))
      | _ => []

/-- Free what a context's map reaches, and log the pages that it cannot reach as leaked (R28, R35, R67, R76).  A deferred free of
the slot that a proofread pass is reading waits until that read completes (R279). -/
def freePages (s : State) (i : Nat) (good : Bool) : State :=
  let d := ctxBytes s i
  let cls := ctxClass s i
  let homes := slotsOf s i .home
  let reached := if homes = [] ∨ !good then [] else reachable s i d
  let runs := if good then ctxRuns s i d else []
  let failed := if homes = [] ∨ !good then [] else closeFailures s i d
  let s := failed.foldl entryFailed s
  let (go, stay) := homes.partition fun h => reached.contains h
  let s := go.foldl (fun s h => subUse (freeSlot s h) cls (hQuota h) 1) s
  let s := (s.pm.deferred.filter fun x => x.ctx == i && !(passReads s x.what)).foldl (fun s x => freeOne s x.what) s
  let s := { s with pm := { s.pm with deferred := s.pm.deferred.filter fun x => x.ctx != i || passReads s x.what } }
  let s := runs.foldl freeRun s
  let s := stay.foldl (fun s h => setUse s h .leaked) s
  if stay = [] ∧ good = true then s
  else logFailure s { cause := 9, source := srcHost, ctx := some (i, 0, 0, 0), handle := ctxAddr s i }

/-- Free a context whose in-flight work has ended (R35, R76), its descriptor read once more: the class keeps what a failing one
hides, and its index goes free all the same (R28). -/
def freeCtx (s : State) (i : Nat) : State :=
  let (good, s) := match readCtx s i srcHost with
    | .error s => (false, s)
    | .ok (_, s) => (true, s)
  let cls := ctxClass s i
  let s := endCtxMoves s i
  let s := { s with pm := { s.pm with grants := s.pm.grants.filter fun g => g.ctx != i,
                                      walkers := s.pm.walkers.filter fun w => w.2.ctx != i } }
  let s := freePages s i good
  let s := forgetBad s i
  let s := if good then setF s (rCxUseCtx cls) fCount (useCtx s cls - 1) else s
  { writeMem s (ctxAddr s i) (zeros 128) with
      cx := { s.cx with open_ := mapDel s.cx.open_ i },
      pm := { s.pm with cache := s.pm.cache.filter fun l => l.addr != ctxAddr s i } }

/-- CLOSE_DRAIN_END (R35): a closing context without requests in flight is freed and its closes complete, once its bank-owned
pages are released (R79, R182); the operand shows the lines read (R269). -/
def execCloseDrainEnd (x : CtxRead) (s : State) : Host.Outcome State Fault Refusal :=
  .next (live s fun s =>
    let banked := if ctxGood s x.ctx then (s.pm.grants.filter fun g => g.ctx == x.ctx).map (·.handle) else []
    if auxState s x.ctx ≠ 5 ∨ inFlight s x.ctx ≠ 0 then s
    else if banked ≠ [] then askRelease s banked
    else
      let refs := match mapGet s.cx.open_ x.ctx with
        | some a => (a.op.map (·.refs)).getD []
        | none => []
      closeEnded (finishAll (freeCtx (takeReads s x.reads) x.ctx) refs stOk 0) x.ctx)

/-! ## Query and shard sets -/

/-- CX_QUERY (R24). -/
def execCxQuery (c : Cmd) (hostOk : Bool) (s : State) : Host.Outcome State Fault Refusal :=
  .next (startCx s 0x05 c fun r s =>
    if c.badBuf 128 then finish s r stLength
    else
      match readCtx s (cmdIndex c) srcHost with
      | .error s => finish s r stUncorrectable
      | .ok (d, s) => putHost s r c.host d hostOk fun s => finish s r stOk)

/-- The node IDs of a buffer (R42). -/
def idsOf (b : Bytes) (w : Nat) : List Nat := (List.range w).map fun i => num b (2 * i) 2

/-- CX_SET_SHARDS (R43). -/
def execCxSetShards (c : Cmd) (buf : Option Bytes) (s : State) : Host.Outcome State Fault Refusal :=
  .next (startCmd s 0x06 c fun r s =>
    let set := bfld c.d 8 0 12
    let w := bfld c.d 8 16 11
    let write (b : Bytes) : State :=
      let ids := idsOf b w
      if ids.any (fun v => decide (4096 ≤ v)) || decide (ids.eraseDups.length ≠ ids.length)
          || s.cx.open_.any (fun e => e.2.shardSet == set) then finish s r stFormat
      else finish (writeSet s set ids) r stOk
    if 1024 < w then finish s r stFormat
    else if c.badBuf (2 * w) then finish s r stLength
    else if w = 0 then write []
    else withHost s r buf write)

end Sys2Proof.Machine
end

