-- ==== Sys2Proof/Machine/AttnMsg.lean ====
section
/-!
DEFINITION. Machine/AttnMsg.lean: attention messages: the operation header (R118, R119), replies and their routes (R381),
the tests that no descriptor is needed for and the descriptor stage (R12, R128 to R131), ways for attention (R218).
-/

namespace Sys2Proof.Machine

/-! ## The header (Table 05.1) -/

def msgOp (m : Bytes) : Nat := num m 0 1
def msgMode (m : Bytes) : Nat := bfld m 0 8 2
def msgRequester (m : Bytes) : Nat := bfld m 0 16 12
def msgEpoch (m : Bytes) : Nat := num m 4 4
def msgTag (m : Bytes) : Nat := num m 8 4
def msgCtx (m : Bytes) : Nat := bfld m 0x0C 0 20
def msgLayer (m : Bytes) : Nat := bfld m 0x0C 20 8
def msgJob (m : Bytes) : Nat := bfld m 0x10 0 16
def msgParent (m : Bytes) : Nat := bfld m 0x10 16 12
def msgLen (m : Bytes) : Nat := num m 0x14 4
def msgDest (m : Bytes) : Nat := bfld m 0x18 0 10
def msgBody (m : Bytes) : Bytes := m.drop 32

def opAttend : Nat := 1
def opAppend : Nat := 2
def opRefill : Nat := 3
def opDraft : Nat := 4
def opClause : Nat := 8
def opDone : Nat := 9

def knownOp (m : Bytes) : Bool := [1, 2, 3, 4, 8, 9].contains (msgOp m)

/-- The largest `BODY_LEN` (R118). -/
def bodyMax : Nat := 16777184

/-- The header breaks R118 with `FORMAT`. -/
def headerBad (m : Bytes) : Bool :=
  !(knownOp m)
  || decide (bfld m 0 10 6 ≠ 0 ∨ bfld m 0 28 4 ≠ 0 ∨ bfld m 0x0C 28 4 ≠ 0 ∨ bfld m 0x10 28 4 ≠ 0 ∨
      bfld m 0x18 10 22 ≠ 0 ∨ num m 0x1C 4 ≠ 0)
  || decide (if msgOp m = opAttend then msgMode m = 3 else msgMode m ≠ 0)
  || (decide (msgParent m ≠ 0) && !(decide (msgOp m = opAttend ∧ msgMode m = 2 ∨ msgOp m = opClause)))
  || (decide (msgDest m ≠ 0) && !(decide (msgOp m = opAttend ∧ msgMode m ≠ 1 ∨ msgOp m = opClause)))
  || decide (bodyMax < msgLen m ∨ msgLen m < (msgBody m).length)

/-- The message holds fewer body bytes than it states. -/
def bodyShort (m : Bytes) : Bool := decide ((msgBody m).length < msgLen m)

/-- The six fields that match draft rows and clauses to a request (R119, R126). -/
def sameRequest (a b : Bytes) : Bool :=
  decide (msgRequester a = msgRequester b ∧ msgTag a = msgTag b ∧ msgCtx a = msgCtx b ∧ msgLayer a = msgLayer b ∧
    msgEpoch a = msgEpoch b ∧ msgJob a = msgJob b)

/-- A header of the node's own that answers or copies `m`. -/
def mkMsg (op mode : Nat) (m : Bytes) (parent dest : Nat) (body : Bytes) : Bytes :=
  natLe 4 (at_ 0 8 op + at_ 8 2 mode + at_ 16 12 (msgRequester m)) ++ natLe 4 (msgEpoch m) ++ natLe 4 (msgTag m)
    ++ natLe 4 (at_ 0 20 (msgCtx m) + at_ 20 8 (msgLayer m)) ++ natLe 4 (at_ 0 16 (msgJob m) + at_ 16 12 parent)
    ++ natLe 4 body.length ++ natLe 4 (at_ 0 10 dest) ++ zeros 4 ++ body

/-! ## Replies -/

/-- Who gets the reply (Table 05.1). -/
def replyTo (m : Bytes) : Nat := if msgOp m = opAttend ∧ msgMode m = 2 then msgParent m else msgRequester m

/-- The connection of the route to a node in the bank of a message's epoch (R381). -/
def connTo (s : State) (m : Bytes) (node : Nat) : Option Nat := (routeIn (bankOf s (msgEpoch m)) node).map rtConn

/-- Send a reply whose first byte ends stages; one with no route is discarded (R21, R381). -/
def sendReplyAs (s : State) (conn : Option Nat) (b : Bytes) (stages : List Stage) : State :=
  match conn with
  | some c => sendFor s c 0 b stages
  | none => noRoute s

/-- Send a reply; one with no route is discarded (R381). -/
def sendReply (s : State) (conn : Option Nat) (b : Bytes) : State :=
  sendReplyAs s conn b []

/-- A hint in a `MOVED` refusal: the node to try and the epoch. -/
abbrev Hint := Option (Nat × Nat)

/-- The reply to a refused `ATTEND` (R119, R140), with the shard that refused: this node's index once its descriptor has
been read, and the shard the copy was sent to before that (log entry 30). -/
def refusalClause (s : State) (m : Bytes) (st shard : Nat) (hint : Hint) : Bytes :=
  let bf16 := decide (64 ≤ (msgBody m).length ∧ bfld (msgBody m) 0 2 1 = 1)
  mkMsg opClause 0 m (msgParent m) (msgDest m) (failClause st shard (nodeId s) hint bf16).body

/-- The node's `END_POS` of a context, 0 when it holds none (log entry 19). -/
def endPosOf (s : State) (i : Nat) : Nat :=
  if auxState s i ≠ 0 ∧ ctxGood s i = true then dEnd (ctxBytes s i) else 0

/-- A `DONE` (Table 05.8). -/
def doneMsg (s : State) (m : Bytes) (st rows : Nat) (hint : Hint) (ranges : List DropRange) : Bytes :=
  let (hn, he) := hint.getD (0, 0)
  mkMsg opDone 0 m (msgParent m) 0
    (natLe 4 (at_ 0 8 st + at_ 8 8 ranges.length + (if hint.isSome then 2 ^ 16 else 0)) ++ natLe 4 (endPosOf s (msgCtx m))
      ++ natLe 4 (at_ 0 16 rows + at_ 16 12 hn) ++ natLe 4 he
      ++ ranges.flatMap fun r => natLe 8 (r.first + at_ 32 23 r.count + at_ 55 6 r.head))

/-- The flags that a refusal sets (Tables 02.8 and 05.13). -/
def refusalFlags (s : State) (st : Nat) : State :=
  if st = stStaleEpoch then raise1 s 4 fAeEventStaleRefuse
  else if st = stLimit then raiseLimit s
  else if st = stQuota then raiseQuota s
  else s

/-- Refuse a message as the shard `shard` (R119). -/
def refuseAs (s : State) (m : Bytes) (st shard : Nat) (hint : Hint) : State :=
  let s := refusalFlags s st
  sendReply s (connTo s m (replyTo m))
    (if msgOp m = opAttend then refusalClause s m st shard hint else doneMsg s m st 0 hint [])

/-- Refuse a message before its context's descriptor has been read (R119). -/
def refuseMsg (s : State) (m : Bytes) (st : Nat) (hint : Hint) : State := refuseAs s m st (msgDest m) hint

/-! ## The tests that need no descriptor (R12) -/

/-- The job is fenced at the epoch: unordered counts as later (R391, R496). -/
def jobFenced (s : State) (job epoch : Nat) : Bool :=
  match mapGet s.cf.fences job with
  | some f => !(serialBefore 32 epoch f)
  | none => false

/-- The epoch is current, or previous and open (R128, R384). -/
def epochOk (s : State) (e : Nat) : Bool :=
  composed s && (decide (e = epochNow s) || prevOpen s && decide (e = epochPrev s))

/-- The tests of the first stage, in the order of R12. -/
def stage1 (s : State) (m : Bytes) (format length limit : Bool) : Option Nat :=
  firstRefusal [(jobFenced s (msgJob m) (msgEpoch m), stFenced), (!(epochOk s (msgEpoch m)), stStaleEpoch),
    (headerBad m || format, stFormat), (bodyShort m || length, stLength), (limit, stLimit)]

/-! ## The descriptor stage (R12, R130, R396, R399) -/

/-- A refusal of the descriptor stage, its status and hint, or the descriptor; with the state after the reading. -/
inductive Stage2 where
  | refuse (s : State) (st : Nat) (hint : Hint)
  | served (d : Bytes) (s : State)
deriving Repr

/-- What a context that this node is taking over answers with (R399). -/
def acceptorHint (s : State) (i : Nat) : Hint :=
  match mapGet s.cf.handovers i with
  | some h => if h.source then none else some (h.peer, epochNow s)
  | none => none

def stage2 (s : State) (i source : Nat) : Stage2 :=
  match mapGet s.cf.forwards i with
  | some hint => .refuse s stMoved (some hint)
  | none =>
    match acceptorHint s i with
    | some hint => .refuse s stMoved (some hint)
    | none =>
      match readCtx s i source with
      | .error s => .refuse s stUncorrectable none
      | .ok (d, s) =>
        if auxState s i = 0 ∨ auxState s i = 5 then .refuse s stNoContext none
        else if (mapGet s.cf.rebuilds i).isSome then .refuse s stAborted none
        else .served d s

/-- `IN_FLIGHT` cannot rise (R36). -/
def flightFull (d : Bytes) : Bool := decide (65535 ≤ dInFlight d)

/-- The node accepts a message against its context (R35, Table 02.1). -/
def acceptOn (s : State) (i : Nat) : State :=
  updCtx s i fun d => setDLast (setDInFlight d (dInFlight d + 1)) s.time

/-- A message's work has ended. -/
def releaseOn (s : State) (i : Nat) : State :=
  updCtx s i fun d => setDInFlight d (dInFlight d - 1)

/-- The set's node at a shard, with the current epoch (R132, R146). -/
def shardHint (s : State) (d : Bytes) (shard : Nat) : Hint := some (setNode s (dSet d) shard, epochNow s)

/-! ## Taking a message -/

/-- When a message was received: it waits in the receive path since then, or it comes now. -/
def receivedAt (s : State) (m : Bytes) : Nat := ((s.ae.inbox.find? fun w => w.1 == m).map (·.2)).getD s.time

/-- The message leaves the receive path. -/
def takeMsg (s : State) (m : Bytes) : State :=
  { s with ae := { s.ae with inbox := removeFirst (fun w => w.1 == m) s.ae.inbox } }

/-- The message waits in the receive path. -/
def holdMsg (s : State) (m : Bytes) : State :=
  if s.ae.inbox.any fun w => w.1 == m then s else { s with ae := { s.ae with inbox := s.ae.inbox ++ [(m, s.time)] } }

/-- Request slots held (R131). -/
def slotsHeld (s : State) : Nat := s.ae.reqs.length + s.ae.ops.length

/-- Every request slot is held (R131). -/
def slotsFull (s : State) : Bool := decide (8192 ≤ slotsHeld s)

/-- A message waits for a request slot (R131). -/
def waitSlot (s : State) (m : Bytes) : State :=
  let s := takeMsg s m
  { s with ae := { s.ae with slotWait := s.ae.slotWait ++ [(m, s.time)] } }

/-- What every attention row does first with its message: a short one is discarded (R118), one with an unknown opcode is
answered (R119), one of another row is left alone.  In Retain too the unknown opcode answers `FORMAT`, not `ABORTED`
(log entry 192). -/
def withMsg (s : State) (op : Nat) (m : Bytes) (f : State → State) : State :=
  live s fun s =>
    if m.length < 32 then raise1 (takeMsg s m) 4 fAeEventShortMessage
    else if !(knownOp m) then refuseMsg (takeMsg s m) m ((stage1 s m true false false).getD stFormat) none
    else if msgOp m ≠ op then s
    else f s

/-! ## Ways for attention (R199, R201, R218) -/

/-- Active ACs. -/
def activeAcs (s : State) : Nat := getF s rAcStatus fAcStatusActiveAcs
def reachMask (s : State) (cls : Nat) : Nat := getF s (rAcClassWays cls) fAcClassWaysReach
/-- Ways reserved for attention on each AC. -/
def attnWays (s : State) : Nat := min 16 (getF s rAcControl fAcControlAttnContexts)
def wayFree (s : State) (k : Nat) : Bool := (mapGet s.ac.ways k).isNone

/-- An AC that is not being replaced (R221). -/
def acOpen (s : State) (ac : Nat) : Bool := (mapGet s.lx.supplete ac).isNone

/-- The way that attention takes: a reserved one first, then any, among those the class allows (R218): AC × 16 + way. -/
def attnWay (s : State) (cls : Nat) : Option Nat :=
  let ok (w : Nat) : Bool := decide (fld (reachMask s cls) w 1 = 1)
  let reserved := (List.range 16).filter fun w => decide (16 - attnWays s ≤ w) && ok w
  let other := (List.range 16).filter fun w => decide (w < 16 - attnWays s) && ok w
  let find (ws : List Nat) : Option Nat := ((List.range (activeAcs s)).filter (acOpen s)).findSome? fun a =>
    (ws.find? fun w => wayFree s (16 * a + w)).map fun w => 16 * a + w
  (find reserved).orElse fun _ => find other

def takeWay (s : State) (k : Nat) (u : WayUse) : State := { s with ac := { s.ac with ways := mapPut s.ac.ways k u } }

/-- A new attention context takes a way, which the node zeroes first (R199, R218). -/
def takeAttnWay (s : State) (k id : Nat) : State :=
  let s := takeWay s k (.attention id)
  { s with ac := { s.ac with reach := mapPut s.ac.reach k [] } }

/-- The replacement of an AC ends once no context is left on it: a spare takes its index, and the unit it replaces is
recorded (R221, R455, R457). -/
def suppleteAc (s : State) (ac : Nat) : State :=
  match mapGet s.lx.supplete ac, s.ac.spares with
  | some refs, p :: rest =>
    if s.ac.ways.any fun e => e.1 / 16 == ac then s
    else
      let old := getF s (rAcPhys ac) fAcPhysPhys
      let s := commit { s with ac := { s.ac with spares := rest },
                               tn := { s.tn with failedAcs := s.tn.failedAcs ++ [old] },
                               lx := { s.lx with supplete := mapDel s.lx.supplete ac } } 5
      let s := setF (setF s (rAcPhys ac) fAcPhysPhys p) rAcStatus fAcStatusSparesLeft rest.length
      finishAll s refs stOk 0
  | _, _ => s

/-- A context leaves its way (R199). -/
def dropWay (s : State) (k : Option Nat) : State :=
  match k with
  | some k => suppleteAc { s with ac := { s.ac with ways := mapDel s.ac.ways k } } (k / 16)
  | none => s

/-! ## Permits (R177, R179, R463) -/

/-- The permit cap of a throttle step (Table 16.2). -/
def permitCap (step : Nat) : Nat := [8, 8, 7, 6, 5, 4, 3, 2].getD step 8

/-- The effective permit limit of a BBD; sanitisation under class H has `PERMIT_MAX` whatever the limit holds. -/
def permitLimit (s : State) (b : Nat) : Nat :=
  if s.power.running = some .H then getF s (rBbStatus b) fBbStatusPermitMax
  else min (min (getF s (rBbPermitLimit b) fBbPermitLimitLimit) (getF s (rBbStatus b) fBbStatusPermitMax))
    (permitCap (getF s rPwPower fPwPowerStep))

def Bbd.fresh : Bbd := { queue := [], nextId := 0, store := [], held := [], retrain := none, spares := 2, locks := [] }
def bbdOf (s : State) (b : Nat) : Bbd := (mapGet s.bb.bbd b).getD .fresh
def setBbd (s : State) (b : Nat) (x : Bbd) : State := { s with bb := { s.bb with bbd := mapPut s.bb.bbd b x } }
def updBbd (s : State) (b : Nat) (f : Bbd → Bbd) : State := setBbd s b (f (bbdOf s b))

/-- Commands queued, not yet started (R169). -/
def queuedCmds (x : Bbd) : List BauEntry := x.queue.filter fun e => e.baus.isEmpty
/-- Who sent what waits on a BBD's link. -/
def BbdItem.issuer : BbdItem → Issuer
  | .store i _ _ => i
  | .command c _ => c.issuer
  | .work _ => .dispatch

/-- A BBD's link is up. -/
def linkUp (s : State) (b : Nat) : Bool :=
  bbdUp s b && getB s (rBbStatus b) fBbStatusLinkUp && (match mapGet s.bb.bbd b with
    | some x => x.retrain.isNone
    | none => true)

/-- BAUs may work for the dispatch on a BBD (R150, R180). -/
def bauServes (s : State) (b : Nat) : Bool :=
  getB s rBbControl fBbControlBauAttendEn && linkUp s b && decide (0 < permitLimit s b)

/-- The BBD of a narrow slot. -/
def slotBbd (h : Nat) : Nat := fld h 32 5 / 4

/-- Every part of a page lies in the narrow pool of one BBD (R172, R180). -/
def pageBbd (hs : List Nat) : Option Nat :=
  match hs with
  | [] => none
  | h :: _ => if hs.all fun x => hTier x == 1 && slotBbd x == slotBbd h then some (slotBbd h) else none

end Sys2Proof.Machine
end

