-- ==== Sys2Proof/Machine/Attend.lean ====
section
/-!
DEFINITION. Machine/Attend.lean: `ATTEND`, draft rows, the conjoin tree and the shard's own work (R87 to R115, R118 to
R144, R180, R218 to R220).  The shard's work is done whole when its clause is sent, and the pages are then read as they
stand (log entry 20).
-/

namespace Sys2Proof.Machine

/-! ## The request (Table 05.2) -/

def atQfmt (m : Bytes) : Nat := bfld (msgBody m) 0 0 2
def atBf16 (m : Bytes) : Bool := decide (bfld (msgBody m) 0 2 1 = 1)
def atBit (m : Bytes) (k : Nat) : Bool := decide (bfld (msgBody m) 0 k 1 = 1)
def atCausal (m : Bytes) : Bool := atBit m 3
def atWindowEn (m : Bytes) : Bool := atBit m 4
def atSinkEn (m : Bytes) : Bool := atBit m 5
def atSoftcap (m : Bytes) : Bool := atBit m 6
def atDraft (m : Bytes) : Bool := atBit m 7
def atTolerate (m : Bytes) : Bool := atBit m 8
def atEllipsis (m : Bytes) : Nat := bfld (msgBody m) 0 9 5
def atFirst (m : Bytes) : Nat := bfld (msgBody m) 4 0 6
def atCount (m : Bytes) : Nat := bfld (msgBody m) 4 6 7
def atGroup (m : Bytes) : Nat := bfld (msgBody m) 4 13 7
def atTokens (m : Bytes) : Nat := num (msgBody m) 8 2
def atQpos (m : Bytes) : Nat := num (msgBody m) 0x0C 4
def atScale (m : Bytes) : Nat := num (msgBody m) 0x10 4
def atCap (m : Bytes) : Nat := num (msgBody m) 0x14 4
def atWindow (m : Bytes) : Nat := num (msgBody m) 0x18 4
def atSinks (m : Bytes) : Nat := num (msgBody m) 0x1C 4

/-- R (R121). -/
def atRows (m : Bytes) : Nat := atTokens m * atCount m * atGroup m
/-- Query rows per page (R123), which decide the class (R16). -/
def atPerPage (m : Bytes) : Nat := atTokens m * atGroup m
def atVerify (m : Bytes) : Bool := decide (9 ≤ atPerPage m)
/-- Where the query data begins in the body (R120, R124). -/
def atQoff (m : Bytes) : Nat := 64 + if atDraft m then 64 else 0
def qBytes (m : Bytes) : Nat := if atQfmt m = 0 then 2 else 1

/-- The parent byte of a draft node. -/
def atParent (m : Bytes) (d : Nat) : Nat := num (msgBody m) (64 + d) 1

/-- Depths of the draft nodes below `n` (R95). -/
def draftDepths (m : Bytes) : Nat → List Nat
  | 0 => []
  | n + 1 =>
    let ds := draftDepths m n
    ds ++ [if atParent m n = 0xFF then 0 else ds.getD (atParent m n) 0 + 1]

/-- Query positions by token (R95, R123). -/
def atPositions (m : Bytes) : List Nat :=
  if atDraft m then (draftDepths m (atTokens m)).map (atQpos m + ·)
  else (List.range (atTokens m)).map (atQpos m + ·)

/-- Node `e` is `d` or an ancestor of `d` (R95). -/
def draftSees (m : Bytes) (e : Nat) : Nat → Nat → Bool
  | 0, _ => false
  | fuel + 1, d =>
    decide (e = d) || (decide (atParent m d ≠ 0xFF) && draftSees m e fuel (atParent m d))

/-- σ or an enabled cap breaks R88. -/
def scaleBad (m : Bytes) : Bool :=
  fNeg (atScale m) || !(fFinite (atScale m))
    || (atSoftcap m && (fNeg (atCap m) || !(fFinite (atCap m)) || decide (fAbs (atCap m) = 0)))

/-- The largest position count (R40). -/
def posMax : Nat := 4194304

/-- The fixed part and the parent list break R88, R94, R95, R111, R120 or R121 without the head width. -/
def attendFixedBad (m : Bytes) : Bool :=
  let b := msgBody m
  decide (64 ≤ b.length) &&
    (decide (atQfmt m = 3 ∨ bfld b 0 14 18 ≠ 0 ∨ bfld b 4 20 12 ≠ 0 ∨ bfld b 8 16 16 ≠ 0 ∨
        leNat (slice b 0x20 32) ≠ 0 ∨ 64 < atCount m ∨ 64 < atGroup m ∨ 65535 < atRows m)
      || decide (¬(atEllipsis m = 0 ∨ 8 ≤ atEllipsis m ∧ atEllipsis m ≤ 24))
      || (atWindowEn m && decide (posMax < atWindow m)) || (atSinkEn m && decide (posMax < atSinks m))
      || (!(atCausal m) && (atWindowEn m || atSinkEn m || atDraft m))
      || scaleBad m
      || (atDraft m && (decide (64 < atTokens m) || (decide (128 ≤ b.length) &&
            (List.range (atTokens m)).any fun d => decide (atParent m d ≠ 0xFF ∧ d ≤ atParent m d)))))

/-- `BODY_LEN` is below what the fixed part and the parent list alone require. -/
def attendShort (m : Bytes) : Bool :=
  decide (msgLen m < 64) || decide ((msgBody m).length < 64) || (atDraft m && decide (msgLen m < 128))

/-- Some position named is beyond the sequence (R40, R95, R123). -/
def attendLimit (m : Bytes) : Bool := (atPositions m).any fun p => decide (posMax ≤ p)

/-- The body that the fields require at a head width (R118, R121). -/
def attendLen (m : Bytes) (h : Nat) : Nat := atQoff m + atRows m * h * qBytes m

/-- Row r's query vector (R121). -/
def queryRow (m : Bytes) (h r : Nat) : List Nat :=
  let w := h * qBytes m
  inRow (if atQfmt m = 0 then 0 else atQfmt m + 1) h (slice (msgBody m) (atQoff m + r * w) w)

/-- Some query element is not finite (R88). -/
def queryBad (m : Bytes) (h : Nat) : Bool :=
  (List.range (atRows m)).any fun r => (queryRow m h r).any fun x => !(fFinite x)

/-- The largest clause of the request is too long (R121). -/
def clauseTooBig (m : Bytes) (h : Nat) : Bool :=
  decide (bodyMax < 64 + atRows m * (8 + (if atBf16 m then 2 else 4) * h) + 2040)

/-- The tests that need the descriptor, in the order of R12.  The query elements are tested when the body holds exactly the
bytes its fields require; a shorter one is `LENGTH`, whatever its elements (R88, log entry 194). -/
def attendStage3 (s : State) (m d : Bytes) : Option Nat :=
  let h := dWidth d
  let wrongShard := decide (msgMode m ≠ 1 ∧ msgDest m ≠ dIndex d)
  firstRefusal [
    (decide (dLayers d ≤ msgLayer m ∨ dHeads d < atFirst m + atCount m) || clauseTooBig m h
      || decide (attendLen m h < msgLen m)
      || (decide (msgLen m = attendLen m h) && queryBad m h)
      || decide (msgMode m = 0 ∧ 16 < dW d ∨ msgMode m ≠ 1 ∧ dW d ≤ msgDest m ∨ msgMode m = 1 ∧ dIndex d ≠ 0), stFormat),
    (decide (msgLen m < attendLen m h), stLength),
    ((atVerify m && decide (reachMask s (dClass d) = 0)) || flightFull d, stQuota),
    (wrongShard, stMoved)]

/-- The shard a copy was sent to (Table 05.1), whose index its descriptor bore at acceptance (R132, R136). -/
def reqShard (m : Bytes) : Nat := if msgMode m = 1 then 0 else msgDest m

/-- The head width that the body's length gives: an accepted request has exactly the query bytes of its rows (R121). -/
def reqWidth (m : Bytes) : Nat := (msgLen m - atQoff m) / (atRows m * qBytes m)

/-- Row tiles of the request's work: those of each KV head (R219). -/
def rowTiles (m : Bytes) (h : Nat) : Nat := atCount m * ceilDiv (atPerPage m) (min 128 (228352 / (8 * h + 8)))

/-! ## The conjoin tree (R134) -/

/-- Children of a shard in a set of `w` shards. -/
def childShards (shard w : Nat) : List Nat := ((List.range 8).map fun k => 8 * shard + 1 + k).filter fun c => decide (c < w)

/-- Levels below a shard (R143). -/
def subtreeHeight (w : Nat) : Nat → Nat → Nat
  | 0, _ => 0
  | fuel + 1, shard => if 8 * shard + 1 < w then subtreeHeight w fuel (8 * shard + 1) + 1 else 0

/-- One `CHILD_TIMEOUT` in cycles. -/
def childTimeout (s : State) : Nat := 1024 * getF s rAeControl fAeControlChildTimeout

def updReq (s : State) (id : Nat) (f : Req → Req) : State :=
  { s with ae := { s.ae with reqs := mapAdj s.ae.reqs id f } }

def updChild (s : State) (id shard : Nat) (f : Child → Child) : State :=
  updReq s id fun r => { r with children := r.children.map fun c => if c.shard = shard then f c else c }

/-- A child settled by a failure of its own shard (R119, R143). -/
def settleFail (s : State) (id : Nat) (m : Bytes) (shard node st : Nat) : State :=
  updChild s id shard fun c => { c with settled := some (failClause st shard node none (atBf16 m)).body }

/-- Send a child its copy (R135); a child without a route is settled at once as one that timed out (R143, R381). -/
def sendChild (s : State) (id : Nat) (m : Bytes) (shard node : Nat) (stages : List Stage) : State :=
  match connTo s m node with
  | some c =>
    sendFor (updChild s id shard fun x => { x with conn := some c }) c 0 (mkMsg opAttend 2 m (nodeId s) shard (msgBody m)) stages
  | none => raise1 (noRoute (settleFail s id m shard node stTimeout)) 4 fAeEventChildTimeout

/-- Start one copy to each child (R135): the stage of the fan-out ends when every copy has left (R21). -/
def fanOut (s : State) (id : Nat) (m d : Bytes) (received : Nat) : State :=
  let cs := (childShards (dIndex d) (dW d)).map fun c => (c, setNode s (dSet d) c)
  let kids := cs.map fun (c, n) => ({ shard := c, node := n, start := s.time, resent := false, conn := none, settled := none } : Child)
  let leaving := (cs.filter fun x => (connTo s m x.2).isSome).length
  let f := mapFresh s.ae.fans 0
  let s := updReq s id fun r => { r with children := kids }
  let s := if leaving = 0 then s else { s with ae := { s.ae with fans := mapPut s.ae.fans f (leaving, received) } }
  cs.foldl (fun s (c, n) => sendChild s id m c n [.copy f]) s

/-! ## Draft rows (R96, R125, R126) -/

/-- Bytes of the K and V blocks of a `DRAFT_ROWS` body. -/
def draftLen (b : Bytes) (h : Nat) : Nat := 2 * num b 0 1 * bfld b 0 16 7 * h * inBytes (bfld b 0 8 2)

/-- What a matching `DRAFT_ROWS` makes of its request (R126). -/
def checkDraft (m : Bytes) (h : Nat) (dm : Bytes) : DraftState :=
  let b := msgBody dm
  if b.length < 16 then .failed stLength
  else if num b 0 1 ≠ atTokens m ∨ bfld b 0 10 6 ≠ atFirst m ∨ bfld b 0 16 7 ≠ atCount m ∨ bfld b 0 23 9 ≠ 0 ∨
      leNat (slice b 4 12) ≠ 0 ∨ 16 + draftLen b h < b.length then .failed stFormat
  else if b.length < 16 + draftLen b h then .failed stLength
  else .rows dm

/-- The request awaits or takes draft rows (R125), though it has no row when it addresses no KV head or no query head (log
entry 190). -/
def wantsDraft (m d : Bytes) : Bool := atDraft m && decide (0 < atTokens m ∧ dIndex d = 0)

/-- Match a held `DRAFT_ROWS` at acceptance (R126). -/
def matchDraft (s : State) (id : Nat) (m d : Bytes) : State :=
  if !(wantsDraft m d) then s
  else
    match s.ae.drafts.find? fun x => sameRequest x.msg m with
    | some x =>
      updReq { s with ae := { s.ae with drafts := s.ae.drafts.erase x } } id fun r =>
        { r with draft := checkDraft m (dWidth d) x.msg }
    | none => updReq s id fun r => { r with draft := .waiting }

def discardDraft (s : State) : State := raise1 s 4 fAeEventDraftDiscard

/-- A `DRAFT_ROWS` whose context's descriptor has been read finds its attend, is held, or is discarded (R126). -/
def placeDraft (s : State) (m d : Bytes) : State :=
  if auxState s (msgCtx m) = 0 ∨ auxState s (msgCtx m) = 5 ∨ dIndex d ≠ 0 ∨ 256 ≤ s.ae.drafts.length ∨
      s.ae.drafts.any (fun x => sameRequest x.msg m) = true then discardDraft s
  else
    match s.ae.reqs.find? fun e => e.2.draft == .waiting && sameRequest e.2.msg m with
    | some (id, r) => updReq s id fun x => { x with draft := checkDraft r.msg (dWidth d) m }
    | none => { s with ae := { s.ae with drafts := s.ae.drafts ++ [⟨m, s.time⟩] } }

/-- DRAFT_ROWS (R126); the operand shows the lines of the descriptor's read (R269).  One whose descriptor fails its check is
discarded, since it is never answered (R28, log entry 191). -/
def execDraftRows (x : MsgRead) (s : State) : Host.Outcome State Fault Refusal :=
  .next (withMsg s opDraft x.msg fun s =>
    if headerBad x.msg || bodyShort x.msg || s.power.retain != .out || !(epochOk s (msgEpoch x.msg))
        || jobFenced s (msgJob x.msg) (msgEpoch x.msg) then discardDraft (takeMsg s x.msg)
    else if !(tableReady s) then startZeroing (holdMsg s x.msg)
    else
      match readCtx (takeReads (takeMsg s x.msg) x.reads) (msgCtx x.msg) 0 with
      | .error s => discardDraft s
      | .ok (d, s) => placeDraft s x.msg d)

/-- DRAFT_HOLD_EXPIRY (R126): held draft rows `k` find no attend within one `CHILD_TIMEOUT`. -/
def execDraftHoldExpiry (k : Nat) (s : State) : Host.Outcome State Fault Refusal :=
  .next (live s fun s =>
    match s.ae.drafts[k]? with
    | some x =>
      if due s x.time (childTimeout s) then discardDraft { s with ae := { s.ae with drafts := s.ae.drafts.eraseIdx k } } else s
    | none => s)

/-- DRAFT_WAIT_TIMEOUT (R126). -/
def execDraftWaitTimeout (req : Nat) (s : State) : Host.Outcome State Fault Refusal :=
  .next (live s fun s =>
    match mapGet s.ae.reqs req with
    | some r =>
      if r.draft = .waiting ∧ due s r.accepted (childTimeout s) = true then
        raise1 (updReq s req fun x => { x with draft := .failed stTimeout }) 4 fAeEventChildTimeout
      else s
    | none => s)

/-! ## The shard's own work -/

def scoreCfg (m : Bytes) : ScoreCfg := ⟨atScale m, atSoftcap m, atCap m⟩
def maskCfg (m : Bytes) : MaskCfg :=
  ⟨atCausal m, atWindowEn m, atWindow m, atSinkEn m, atSinks m, if atDraft m then some (atQpos m) else none⟩

/-- A query row of one KV head: its vector, its token's position, its token. -/
structure QRow where
  q   : List Nat
  pos : Nat
  tok : Nat
deriving DecidableEq, Repr

/-- The rows of KV head `k` of the request, in row order. -/
def headRows (m : Bytes) (h k : Nat) : List QRow :=
  let ps := atPositions m
  (List.range (atTokens m)).flatMap fun t =>
    (List.range (atGroup m)).map fun g =>
      ⟨queryRow m h ((t * atCount m + k) * atGroup m + g), ps.getD t 0, t⟩

/-- A row sees some of `valid` positions from `first` on. -/
def seesPage (c : MaskCfg) (r : QRow) (first valid : Nat) : Bool :=
  (List.range valid).any fun i => visible c r.pos (first + i)

/-- A page that some row of a head sees, with its bounds. -/
structure SeenPage where
  n       : Nat
  handles : List Nat
  valid   : Nat
  tails   : List Bytes
  /-- u of each row that sees it. -/
  us      : List (Option Nat)
  kappa   : Nat
deriving DecidableEq, Repr

/-- A head's running result. -/
structure HeadAcc where
  s        : State
  rows     : List FoldRow
  visited  : Nat
  skipped  : Nat
  excluded : Nat
  dropped  : Nat
  ranges   : List DropRange
  pages    : List SeenPage

/-- The work stops with a failure of the shard's own: what the head had met until then (R13, R98), and the status. -/
abbrev Work := Except (HeadAcc × Nat)

/-- Read the tails of a page's parts through their checks, the headers' included where `valid` is given. -/
def readTails (s : State) (source : Nat) (d : Bytes) (ctx layer n head : Nat) (valid : Option Nat) (part : Nat) :
    List Nat → Except Failure (List Bytes)
  | [] => .ok []
  | h :: hs =>
    match readTailBy s source h (partKey d ctx layer n head part) valid with
    | .error f => .error f
    | .ok t =>
      match readTails s source d ctx layer n head valid (part + 1) hs with
      | .ok r => .ok (t :: r)
      | .error f => .error f

/-- The per-channel bounds of a page over all its parts, and whether a gloss holds a NaN. -/
def pageGloss (d : Bytes) (tails : List Bytes) : List (Nat × Nat) × Bool :=
  let gs := (tails.zipIdx).map fun (t, p) => glossBounds (partWidth (dFmt d) (dWidth d) p) (slice t 0x100 224)
  (gs.flatMap (·.1), gs.any (·.2))

/-- Lines read on the slower path (R257). -/
def slowLines (hs : List Nat) (lines : Nat) : Nat := lines * (hs.filter fun h => hQuota h == 1).length

/-- Tail lines read on the slower path where a tail failed: those of the parts before, and of the part that failed as far as the
failing line (R257). -/
def slowTails (hs : List Nat) (f : Failure) : Nat :=
  slowLines (hs.takeWhile fun h => h != f.handle) 4 + (if hQuota f.handle = 1 then min 4 (f.line - 127) else 0)

/-- Lines read on the slower path of a payload whose read failed: those of the parts before, and of the part that failed as
far as the failing line (R257). -/
def slowUntil (hs : List Nat) (f : Failure) : Nat :=
  slowLines (hs.takeWhile fun h => h != f.handle) 128 + (if hQuota f.handle = 1 then min 128 (f.line + 1) else 0)

/-- The BBD whose BAUs compute a page: of a decode-class attend, with all its slots there (R17, R172, R180). -/
def attendBbd (s : State) (m : Bytes) (hs : List Nat) : Option Nat :=
  if atVerify m then none
  else
    match pageBbd hs with
    | some b => if bauServes s b then some b else none
    | none => none

/-- A page that the TEs must compute of a decode-class attend whose class has no ways ends the work with `QUOTA` (R180,
R201).  Verify-class work was placed when it took its ways, and a later change of the mask moves nothing. -/
def noEngine (s : State) (m : Bytes) (cls : Nat) (hs : List Nat) : Bool :=
  !(atVerify m) && decide (reachMask s cls = 0) && (attendBbd s m hs).isNone

/-- The payload of a page that ellipsis skips is read as well, ahead of the decision (R114, R180, R219, R272): by an attention
context, but for a page with a part in CXL, of which it reads the tail alone (R255), and by a BAU that had begun it. -/
def readsAhead (s : State) (m : Bytes) (ran : List (Nat × Nat)) (head n : Nat) (hs : List Nat) : Bool :=
  match attendBbd s m hs with
  | some _ => ran.contains (head, n)
  | none => !(hs.any fun h => hQuota h == 1)

/-- Meet the page at local ordinal `n` (R107, R139): drop, exclude, or read its tails and bounds. -/
def meetPage (m d : Bytes) (ctx head : Nat) (rows : List QRow) (a : HeadAcc) (n : Nat) : Work HeadAcc :=
  let c := maskCfg m
  let first := firstPos d n
  if !(rows.any fun r => seesPage c r first (dP d)) then .ok a
  else match readPage a.s 0 ctx d (msgLayer m) head n with
  | .bad f => .error ({ a with s := entryFailed a.s f }, stUncorrectable)
  | .absent => .ok a
  | .unsettled => .ok a
  | .dropped v =>
    if rows.any fun r => seesPage c r first v then
      .ok { a with dropped := a.dropped + 1, ranges := a.ranges ++ [⟨head, first, v⟩] }
    else .ok a
  | .present hs _ v =>
    let sees := rows.map fun r => seesPage c r first v
    if !(sees.any id) then .ok a
    else if noEngine a.s m (dClass d) hs then .error ({ a with s := raiseQuota a.s }, stQuota)
    else
      match readTails a.s 0 d ctx (msgLayer m) n head (some v) 0 hs with
      | .error f =>
        let s := pageFailedAt (bumpR a.s rTmSlowReads (slowTails hs f)) (attendBbd a.s m hs) f
        if atTolerate m then .ok { a with s := s, excluded := a.excluded + 1 } else .error ({ a with s := s }, stUncorrectable)
      | .ok ts =>
        let s := bumpR a.s rTmSlowReads (slowLines hs 4)
        let (g, nan) := pageGloss d ts
        let us := (rows.zip sees).map fun (r, b) =>
          if b then some (if nan then fInf false else pageBound (scoreCfg m) r.q g) else none
        let k := (us.filterMap id).foldl (fun x y => if fLt x y then y else x) fNegInf
        .ok { a with s := s, pages := a.pages ++ [⟨n, hs, v, ts, us, k⟩] }

/-- Run a step over a list, stopping at a failure. -/
def workAll {α β : Type} (f : α → β → Work α) : α → List β → Work α
  | a, [] => .ok a
  | a, b :: bs =>
    match f a b with
    | .ok x => workAll f x bs
    | .error e => .error e

/-- The payload rows of a page, all its parts joined (R106). -/
def readPayload (s : State) (d : Bytes) (ctx layer head n valid part : Nat) :
    List (Nat × Bytes) → Except Failure (List (List (List Nat × List Nat)))
  | [] => .ok []
  | (h, t) :: r =>
    match readLines s 0 h t (partKey d ctx layer n head part) 0 128 with
    | .error f => .error f
    | .ok b =>
      match readPayload s d ctx layer head n valid (part + 1) r with
      | .ok x => .ok (partRows (dFmt d) (partWidth (dFmt d) (dWidth d) part) valid b :: x)
      | .error f => .error f

/-- Rows that take part in the skip decision: they see the page and are not poisoned (R113). -/
def decides (r : FoldRow) (u : Option Nat) : Bool := u.isSome && !r.rec_.poisoned

/-- The page is skipped (R113).  A page with a NaN gloss or an infinite bound whose seeing rows are all poisoned is skipped as
R113 says, though R58 and R112 have such a page never skipped (log entry 189). -/
def skips (e p : Nat) (rows : List FoldRow) (us : List (Option Nat)) : Bool :=
  decide (e ≠ 0) && (rows.zip us).all fun (r, u) => !(decides r u) || skipOk e p (u.getD 0) r

/-- The rows of a head after a page that ellipsis skips: their budgets (R113). -/
def spendRows (p : Nat) (rows : List FoldRow) (us : List (Option Nat)) : List FoldRow :=
  (rows.zip us).map fun (r, u) =>
    if decides r u then { r with budget := noNan (fAdd .ru (skipTerm p (u.getD 0) r) r.budget) } else r

/-- The rows of a head after a page that is visited (R106, R107). -/
def visitRows (m d : Bytes) (qs : List QRow) (rows : List FoldRow) (pg : SeenPage)
    (parts : List (List (List Nat × List Nat))) : List FoldRow :=
  let kvs := (joinParts parts).zipIdx
  let first := firstPos d pg.n
  (rows.zip (qs.zip pg.us)).map fun (r, q, u) =>
    if u.isNone then r
    else visitRow r (pageClause (scoreCfg m) q.q (dWidth d)
      ((kvs.filter fun e => visible (maskCfg m) q.pos (first + e.2)).map (·.1)))

/-- The payload of a page is read, its lines counted, and a failure logged (R257, R270). -/
def readRows (s : State) (m d : Bytes) (ctx head : Nat) (pg : SeenPage) : State × Option (List (List (List Nat × List Nat))) :=
  match readPayload s d ctx (msgLayer m) head pg.n pg.valid 0 (pg.handles.zip pg.tails) with
  | .error f => (pageFailedAt (bumpR s rTmSlowReads (slowUntil pg.handles f)) (attendBbd s m pg.handles) f, none)
  | .ok parts => (bumpR s rTmSlowReads (slowLines pg.handles 128), some parts)

/-- Visit or skip one page in the visit order (R107, R113, R271, R272). -/
def foldPage (m d : Bytes) (ctx head : Nat) (ran : List (Nat × Nat)) (qs : List QRow) (a : HeadAcc) (pg : SeenPage) : Work HeadAcc :=
  if skips (atEllipsis m) (dP d) a.rows pg.us then
    let s := if readsAhead a.s m ran head pg.n pg.handles then (readRows a.s m d ctx head pg).1 else a.s
    .ok { a with s := s, rows := spendRows (dP d) a.rows pg.us, skipped := a.skipped + 1 }
  else
    match readRows a.s m d ctx head pg with
    | (s, none) =>
      if atTolerate m then .ok { a with s := s, excluded := a.excluded + 1 } else .error ({ a with s := s }, stUncorrectable)
    | (s, some parts) =>
      .ok { a with s := s, rows := visitRows m d qs a.rows pg parts, visited := a.visited + 1 }

/-- Row (d, h) of a block of supplied rows (R125, R145). -/
def suppliedRow (b : Bytes) (off fmt count h row head : Nat) : List Nat :=
  let w := h * inBytes fmt
  inRow fmt h (slice b (off + (row * count + head) * w) w)

/-- The encoded draft rows of KV head `k`: (key, value) by node (R96). -/
def draftKvs (m d dm : Bytes) (k : Nat) : List (List Nat × List Nat) :=
  let b := msgBody dm
  let h := dWidth d
  let fmt := bfld b 0 8 2
  let half := atTokens m * atCount m * h * inBytes fmt
  let ps := atPositions m
  (List.range (atTokens m)).map fun e =>
    (stored (dFmt d) (keyRow d (ps.getD e 0) (suppliedRow b 16 fmt (atCount m) h e k)),
     stored (dFmt d) (suppliedRow b (16 + half) fmt (atCount m) h e k))

/-- Conjoin the draft clause last (R96, R107). -/
def foldDraft (m d : Bytes) (k : Nat) (qs : List QRow) (rows : List FoldRow) (dr : DraftState) : List FoldRow :=
  match dr with
  | .rows dm =>
    let kvs := (draftKvs m d dm k).zipIdx
    let ps := atPositions m
    (rows.zip qs).map fun (r, q) =>
      let seen := kvs.filter fun e => draftSees m e.2 64 q.tok && windowOk (maskCfg m) q.pos (ps.getD e.2 0)
      { r with rec_ := conjoinRow r.rec_ (pageClause (scoreCfg m) q.q (dWidth d) (seen.map (·.1))) }
  | _ => rows

/-- The order of visits (R108). -/
def visitOrder (ps : List SeenPage) : List SeenPage :=
  sortBy (fun a b => fLt b.kappa a.kappa || (decide (fKey a.kappa = fKey b.kappa) && decide (a.n ≤ b.n))) ps

/-- The running result of a KV head before its first page. -/
def HeadAcc.empty (s : State) (d : Bytes) (qs : List QRow) : HeadAcc :=
  { s := s, rows := qs.map fun _ => ⟨emptyRow (dWidth d), 0⟩, visited := 0, skipped := 0, excluded := 0, dropped := 0,
    ranges := [], pages := [] }

/-- The own work over one KV head. -/
def headWork (s : State) (r : Req) (d : Bytes) (k : Nat) : Work HeadAcc :=
  let m := r.msg
  let head := atFirst m + k
  let qs := headRows m (dWidth d) k
  let a := HeadAcc.empty s d qs
  match readRun s 0 r.ctx d (msgLayer m) with
  | .bad f => .error ({ a with s := entryFailed s f }, stUncorrectable)
  | _ =>
    match workAll (meetPage m d r.ctx head qs) a (List.range (runOrdinals s 0 r.ctx d (msgLayer m))) with
    | .error e => .error e
    | .ok a =>
      match workAll (foldPage m d r.ctx head r.ran qs) a (visitOrder a.pages) with
      | .error e => .error e
      | .ok a => .ok { a with rows := foldDraft m d k qs a.rows r.draft }

/-- What the heads of a request have come to: the heads worked on, and the status that stopped the last of them. -/
structure HeadsRes where
  s     : State
  heads : List HeadAcc
  stop  : Option Nat

/-- The heads of a request in turn, until one stops. -/
def headsWork (s : State) (r : Req) (d : Bytes) (k : Nat) : Nat → HeadsRes
  | 0 => ⟨s, [], none⟩
  | n + 1 =>
    match headWork s r d k with
    | .error (a, st) => ⟨a.s, [a], some st⟩
    | .ok a =>
      let w := headsWork a.s r d (k + 1) n
      ⟨w.s, a :: w.heads, w.stop⟩

/-- The rows of a clause in the request's row order (R97, R121). -/
def rowOrder (m : Bytes) (as : List HeadAcc) : List RowRec :=
  (List.range (atTokens m)).flatMap fun t =>
    as.flatMap fun a => ((a.rows.drop (t * atGroup m)).take (atGroup m)).map (·.rec_)

/-- The shard's own failure, or `none` (R126). -/
def draftFailure (dr : DraftState) : Option Nat :=
  match dr with
  | .failed st => some st
  | _ => none

/-- The shard clause of a work: rows only where it was not stopped, and what it met in either case (R13, R98, R107, R139,
R140). -/
def workClause (w : HeadsRes) (m d : Bytes) : Clause :=
  let rows := if w.stop.isSome then [] else rowOrder m w.heads
  let sum (f : HeadAcc → Nat) : Nat := min (2 ^ 32 - 1) (sumOf (w.heads.map f))
  let rs := joinRanges (sortBy rangeBefore (w.heads.flatMap (·.ranges)))
  let st := w.stop.getD (if sum (·.dropped) ≠ 0 then stNeedsRecompute else if sum (·.excluded) ≠ 0 then stOkLossy
    else if rows.all RowRec.empty then stEmpty else stOk)
  { status := st, bf16 := atBf16 m, width := if rows = [] then 0 else dWidth d, rows := rows, visited := sum (·.visited),
    skipped := sum (·.skipped), excluded := sum (·.excluded), dropped := sum (·.dropped),
    done := if countsDone st then 1 else 0, failCount := if countsDone st then 0 else 1,
    fail := none, hint := none, ranges := rs.take 255, cut := decide (255 < rs.length),
    seqEnd := if countsDone st then dEnd d else 0 }

/-- The clause names the shard and the node where its status is a failure (R141). -/
def nameShard (c : Clause) (shard node : Nat) : Clause :=
  { c with fail := if isFailure c.status then some (shard, node) else none }

/-- The shard clause and the state after the work (R13, R98, R107, R140); a request of zero rows does no work (R122). -/
def ownClause (s : State) (r : Req) (d : Bytes) : Clause × State :=
  match draftFailure r.draft with
  | some st => (failClause st (dIndex d) (nodeId s) none (atBf16 r.msg), s)
  | none =>
    let w := if atRows r.msg = 0 then ⟨s, [], none⟩ else headsWork s r d 0 (atCount r.msg)
    (nameShard (workClause w r.msg d) (dIndex d) (nodeId s), w.s)

/-! ## Sending the clause (R109, R143) -/

/-- The pages that a request reads: those that some row of an addressed head may see (R107). -/
def attendLooks (s : State) (r : Req) (d : Bytes) : List PageLook :=
  let m := r.msg
  (List.range (runOrdinals s 0 r.ctx d (msgLayer m))).flatMap fun n =>
    (List.range (atCount m)).flatMap fun k =>
      if !((headRows m (dWidth d) k).any fun q => seesPage (maskCfg m) q (firstPos d n) (dP d)) then []
      else [readPage s 0 r.ctx d (msgLayer m) (atFirst m + k) n]

/-- The slots of those pages; none of a descriptor that fails its check. -/
def attendSlots (s : State) (r : Req) (d : Bytes) : List Nat :=
  if !(descOk d) then []
  else (attendLooks s r d).flatMap fun p => match p with
    | .present hs _ _ => hs
    | _ => []

/-- A page that the request reads is still being written (R498). -/
def attendUnsettled (s : State) (r : Req) (d : Bytes) : Bool :=
  (attendLooks s r d).any fun p => match p with
    | .unsettled => true
    | _ => false

/-! ## The dispatch of decode-class work to the BBDs (R180) -/

/-- The command word of the dispatch (Table 06.3): any BAU; its operands are those of the work. -/
def workWord (w : BauWork) : Bytes := putF (putF (putF (zeros 32) 0 0 8 (if w.bound then 1 else 2)) 0 12 1 1) 0x0C 0 32 w.pages.length

/-- A command of the dispatch enters a BBD's queue (R169). -/
def enterWork (s : State) (b : Nat) (w : BauWork) : State :=
  updBbd s b fun x =>
    { x with nextId := x.nextId + 1, queue := x.queue ++ [⟨x.nextId, ⟨b, .dispatch, workWord w, 0⟩, 0, [], [], 0, none, 0, some w⟩] }

/-- The dispatch sends a BBD a command, which waits on the link behind what it sent before (R168, R169). -/
def sendWork (s : State) (b : Nat) (w : BauWork) : State :=
  let x := bbdOf s b
  if linkUp s b && !(x.held.any fun i => i.issuer == .dispatch) && decide ((queuedCmds x).length < 256) then enterWork s b w
  else updBbd s b fun x => { x with held := x.held ++ [.work w] }

/-- The pages of a KV head that a BBD's BAUs compute: ordinal, BBD and slots (R17, R172, R180). -/
def bauPages (s : State) (r : Req) (d : Bytes) (k : Nat) : List (Nat × Nat × List Nat) :=
  let m := r.msg
  let sees (n v : Nat) : Bool := (headRows m (dWidth d) k).any fun q => seesPage (maskCfg m) q (firstPos d n) v
  (List.range (runOrdinals s 0 r.ctx d (msgLayer m))).filterMap fun n =>
    if !(sees n (dP d)) then none
    else match readPage s 0 r.ctx d (msgLayer m) (atFirst m + k) n with
      | .present hs _ v => if sees n v then (attendBbd s m hs).map fun b => (n, b, hs) else none
      | _ => none

/-- The `GLOSS_BOUND` commands of a KV head: up to 64 pages of one BBD in each (Table 06.4). -/
def boundWorks (id head : Nat) (ps : List (Nat × Nat × List Nat)) : List (Nat × BauWork) :=
  (List.range 8).flatMap fun b =>
    (chunks 64 ps.length ((ps.filter fun p => p.2.1 == b).map fun p => (p.1, p.2.2))).map fun l => (b, ⟨some id, head, true, l⟩)

/-- Phase 1 of the dispatch of a KV head: its bounds are asked for. -/
def planHead (s : State) (id : Nat) (r : Req) (d : Bytes) (k : Nat) : State :=
  let head := atFirst r.msg + k
  let ws := boundWorks id head (bauPages s r d k)
  if ws.isEmpty then s
  else ws.foldl (fun s w => sendWork s w.1 w.2)
    (updReq s id fun r => { r with plans := mapPut r.plans head ⟨ws.length, [], [], []⟩ })

/-- The dispatch of a request's work begins; none of verify class (R16, R180). -/
def planWork (s : State) (id : Nat) : State :=
  match mapGet s.ae.reqs id with
  | none => s
  | some r =>
    let d := ctxBytes s r.ctx
    if r.verify || !(descOk d) then s else (List.range (atCount r.msg)).foldl (fun s k => planHead s id r d k) s

/-- The visits of a head's pages, with the skip decisions that the fold meets (R107, R113). -/
def visitsFrom (m d : Bytes) (ctx head : Nat) (qs : List QRow) (a : HeadAcc) : List SeenPage → List Visit
  | [] => []
  | pg :: r =>
    ⟨pg.n, attendBbd a.s m pg.handles, pg.handles, skips (atEllipsis m) (dP d) a.rows pg.us⟩ ::
      (match foldPage m d ctx head [] qs a pg with
        | .ok a => visitsFrom m d ctx head qs a r
        | .error _ => [])

/-- The visit order of a KV head once its bounds are back (R108, R180); none where the work stops at a page. -/
def visitsOf (s : State) (r : Req) (d : Bytes) (head : Nat) : List Visit :=
  let m := r.msg
  let qs := headRows m (dWidth d) (head - atFirst m)
  match workAll (meetPage m d r.ctx head qs) (HeadAcc.empty s d qs) (List.range (runOrdinals s 0 r.ctx d (msgLayer m))) with
  | .ok a => visitsFrom m d r.ctx head qs a (visitOrder a.pages)
  | .error _ => []

def headPlan (s : State) (id head : Nat) : Option HeadPlan := (mapGet s.ae.reqs id).bind fun r => mapGet r.plans head

def updPlan (s : State) (id head : Nat) (f : HeadPlan → HeadPlan) : State :=
  updReq s id fun r => { r with plans := mapAdj r.plans head f }

/-- A command of the dispatch asks for a page of a request. -/
def BauWork.asks (w : BauWork) (id head n : Nat) : Bool :=
  w.req == some id && w.head == head && !w.bound && w.pages.any fun p => p.1 == n

/-- A BAU has begun the page, or its clause is back. -/
def pageBegun (s : State) (id head b n : Nat) (p : HeadPlan) : Bool :=
  p.back.contains n || (bbdOf s b).queue.any fun e => !e.baus.isEmpty && ((e.work.map fun w => w.asks id head n).getD false)

/-- The commands of the dispatch that `f` names leave a BBD where they have not started (R180). -/
def withdraw (s : State) (b : Nat) (f : BauWork → Bool) : State :=
  updBbd s b fun x =>
    { x with queue := x.queue.filter fun e => !(e.baus.isEmpty && ((e.work.map f).getD false)),
             held := x.held.filter fun i => match i with
               | .work w => !(f w)
               | _ => true }

/-- The fold of a KV head goes on: past a page of the TEs, past one whose clause is back, and past one that it skips, whose
command is withdrawn if it has not started (R180); `n` visits at most. -/
def foldOn (id head : Nat) : Nat → State → State
  | 0, s => s
  | n + 1, s =>
    match headPlan s id head with
    | none => s
    | some p =>
      match p.visits, p.bounds with
      | v :: rest, 0 =>
        match v.bbd with
        | none => foldOn id head n (updPlan s id head fun x => { x with visits := rest })
        | some b =>
          if v.skip then
            let s := if pageBegun s id head b v.n p then updReq s id fun r => { r with ran := r.ran ++ [(head, v.n)] } else s
            let s := withdraw s b fun w => w.asks id head v.n
            foldOn id head n (updPlan s id head fun x => { x with visits := rest, out := x.out.filter (· ≠ v.n) })
          else if p.back.contains v.n || (!(p.out.contains v.n) && !(bauServes s b)) then
            foldOn id head n (updPlan s id head fun x => { x with visits := rest })
          else s
      | _, _ => s

/-- Phase 2 of the dispatch: the page that the fold awaits and up to `AHEAD` beyond it are with the BAUs (R180). -/
def sendAhead (s : State) (id head : Nat) : State :=
  match headPlan s id head with
  | none => s
  | some p =>
    (p.visits.take (getF s rBbControl fBbControlAhead + 1)).foldl (init := s) fun s v =>
      match v.bbd with
      | none => s
      | some b =>
        if p.out.contains v.n || p.back.contains v.n || !(bauServes s b) then s
        else sendWork (updPlan s id head fun x => { x with out := x.out ++ [v.n] }) b ⟨some id, head, false, [(v.n, v.hs)]⟩

/-- The dispatch of a KV head goes on. -/
def advanceHead (s : State) (id head : Nat) : State :=
  match headPlan s id head with
  | none => s
  | some p => sendAhead (foldOn id head p.visits.length s) id head

/-- A command of the dispatch has returned: bounds, after the last of which the visits are in their order; or a page clause, which
is discarded unless it is still awaited (R114, R180). -/
def workReturned (s : State) (w : BauWork) : State :=
  match w.req with
  | none => s
  | some id =>
    match mapGet s.ae.reqs id, headPlan s id w.head with
    | some r, some p =>
      if w.bound then
        let s := updPlan s id w.head fun x => { x with bounds := x.bounds - 1 }
        if p.bounds = 1 then
          advanceHead (updPlan s id w.head fun x => { x with visits := visitsOf s r (ctxBytes s r.ctx) w.head }) id w.head
        else s
      else
        let ns := (w.pages.map (·.1)).filter p.out.contains
        if ns.isEmpty then s
        else advanceHead (updPlan s id w.head fun x =>
          { x with out := x.out.filter fun n => !(ns.contains n), back := x.back ++ ns }) id w.head
    | _, _ => s

/-- What a request has with the BAUs is over: every bound is back, and the fold has reached the last page (R180). -/
def Req.dispatched (r : Req) : Bool := r.plans.all fun p => decide (p.2.bounds = 0) && p.2.visits.isEmpty

/-- What a request asked of a BBD and has not been started. -/
def waitingWork (s : State) (id b : Nat) : List BauWork :=
  ((bbdOf s b).queue.filterMap fun e => if e.baus.isEmpty then e.work else none).filter (fun w => w.req == some id)
    ++ (bbdOf s b).held.filterMap fun i => match i with
      | .work w => if w.req = some id then some w else none
      | _ => none

/-- The pages that a BBD serves no more go to the TEs (R17, R179, R180). -/
def unserve (s : State) (id : Nat) : State :=
  (List.range 8).foldl (init := s) fun s b =>
    if bauServes s b then s
    else (waitingWork s id b).foldl workReturned (withdraw s b fun w => w.req == some id)

/-- A request that ends wants nothing of the BAUs any more (R180). -/
def forgetWork (s : State) (id : Nat) : State :=
  let drop (w : BauWork) : BauWork := if w.req = some id then { w with req := none } else w
  (List.range 8).foldl (init := s) fun s b =>
    if (bbdOf s b).queue.any (fun e => e.work.isSome) || (bbdOf s b).held.any (fun i => i.issuer == .dispatch) then
      updBbd (withdraw s b fun w => w.req == some id) b fun x =>
        { x with queue := x.queue.map fun e => { e with work := e.work.map drop } }
    else s

/-! ## Acceptance (R127, R131) -/

/-- Row tiles of a request that have still to be placed in a way (R218, R219). -/
def waysWanted (r : Req) : Nat := if r.verify && decide (atRows r.msg ≠ 0) then rowTiles r.msg (reqWidth r.msg) - r.ways.length else 0

/-- The work of a request can be done: it holds its walker, and every row tile has its way (R72, R218). -/
def Req.placed (r : Req) : Bool := r.walker.isSome && decide (waysWanted r = 0)

/-- The work of a request has begun: it holds its walker and, of the verify class, a way (R72, R218). -/
def Req.begun (r : Req) : Bool := r.walker.isSome && (!r.verify || !(r.ways.isEmpty))

/-- The first page line is requested: the stage from the message's receipt ends (Table 05.9). -/
def noteIngress (s : State) (id : Nat) : State :=
  match mapGet s.ae.reqs id with
  | some r => if r.begun then noteExcess s rAeExcessIngress 120 r.received else s
  | none => s

/-- The walker of a request starts, or waits (R72); the staging reads it needs are asked for (R256), and the prefetches queued
(R252). -/
def startWalk (s : State) (id : Nat) : State :=
  match mapGet s.ae.reqs id with
  | none => s
  | some r =>
    match walkStart s r.ctx (some (msgLayer r.msg)) (.request id) with
    | some (w, s) =>
      let met := attendSlots s r (ctxBytes s r.ctx)
      let s := stageReads (updReq s id fun x => { x with walker := some w }) met
      noteIngress (planWork (prefetchAhead s r.ctx (msgLayer r.msg) met) id) id
    | none => waitWalker s (.request id)

/-- Up to `k` row tiles of verify-class work take ways (R218). -/
def startWays (s : State) (id cls : Nat) : Nat → State
  | 0 => s
  | k + 1 =>
    match attnWay s cls with
    | some w => startWays (updReq (takeAttnWay s w id) id fun r => { r with ways := r.ways ++ [w] }) id cls k
    | none => s

/-- Accept a copy (R127, R135). -/
def acceptAttend (s : State) (m d : Bytes) (t : Nat) : State :=
  let i := msgCtx m
  let id := mapFresh s.ae.reqs 0
  let r : Req := { msg := m, ctx := i, job := msgJob m, epoch := msgEpoch m, accepted := s.time, received := t,
                   lastChild := none, verify := atVerify m, walker := none, ways := [], draft := .none, children := [],
                   height := subtreeHeight (dW d) 5 (dIndex d), reply := connTo s m (replyTo m) }
  let s := { acceptOn s i with ae := { s.ae with reqs := mapPut s.ae.reqs id r } }
  let s := bumpR s (if atVerify m then rAeVerify else rAeDecode) 1
  let s := matchDraft s id m d
  let s := if msgMode m = 0 then s else fanOut s id m d t
  if atRows m = 0 then s
  else startWalk (if atVerify m then startWays s id (dClass d) (rowTiles m (dWidth d)) else s) id

/-- The checks of an `ATTEND` received at `t` and its acceptance (R12, R127 to R133, R136).  In Retain, and while it is entered,
a message is refused when it is taken, one that has waited for a request slot like a new one; this `ABORTED` ranks ahead of every other refusal, `FENCED` and
`STALE_EPOCH` among them (R156, log entry 192). -/
def takeAttend (s : State) (m : Bytes) (t : Nat) : State :=
  if s.power.retain ≠ .out then refuseMsg (takeMsg s m) m stAborted none
  else if slotsFull s then waitSlot s m
  else
    match stage1 s m (attendFixedBad m) (attendShort m) (attendLimit m) with
    | some st => refuseMsg (takeMsg s m) m st none
    | none =>
      if !(tableReady s) then startZeroing (holdMsg s m)
      else
        let s := takeMsg s m
        match stage2 s (msgCtx m) 0 with
        | .refuse s st hint => refuseMsg s m st hint
        | .served d s =>
          match attendStage3 s m d with
          | some st => refuseAs s m st (dIndex d) (if st = stMoved then shardHint s d (msgDest m) else none)
          | none => acceptAttend s m d t

/-- ATTEND (R127); the operand shows the lines of the descriptor's read (R269). -/
def execAttend (m : Bytes) (reads : Reads) (s : State) : Host.Outcome State Fault Refusal :=
  .next (withMsg s opAttend m fun s => takeAttend (takeReads s reads) m (receivedAt s m))

/-- The way that a waiting row tile takes: a free one; or one that its request holds, where it follows the tile there
(R218; log entry 128). -/
def tileWay (s : State) (r : Req) : Option Nat := (attnWay s (ctxClass s r.ctx)).orElse fun _ => r.ways.head?

/-- ATTN_WAY_GRANT (R218): a tile of the oldest verify-class request that waits and finds a way takes it; its wait is summed. -/
def execAttnWayGrant (s : State) : Host.Outcome State Fault Refusal :=
  .next (live s fun s =>
    match (s.ae.reqs.filter fun e => decide (waysWanted e.2 ≠ 0) && (tileWay s e.2).isSome).foldl (init := none)
        (fun b e => match b with
          | none => some e
          | some x => if elapsed s x.2.accepted < elapsed s e.2.accepted then some e else some x) with
    | some (id, r) =>
      match tileWay s r with
      | some w =>
        let s := updReq (takeAttnWay s w id) id fun r => { r with ways := r.ways ++ [w] }
        let s := bumpR s rAcAttnWait (elapsed s r.accepted)
        if r.ways.isEmpty then noteIngress s id else s
      | none => s
    | none => s)

/-- The own work can be done: it is placed, no link access waits, no page is still being written, flash slots are staged, and no
lock is held. -/
def workReady (s : State) (r : Req) (d : Bytes) : Bool :=
  decide (atRows r.msg = 0) ||
    (r.placed && !(attendUnsettled s r d) &&
      (let all := attendSlots s r d
       let hs := all.filter fun h => hQuota h != 0
       !(hs.any (accessWaits s)) && (unread s hs).isEmpty && !(all.any (slotLocked s))))

/-- Release what a request holds (R72, R131). -/
def endReq (s : State) (id : Nat) : State :=
  match mapGet s.ae.reqs id with
  | none => s
  | some r =>
    let s := leaveWalk (forgetWork { s with ae := { s.ae with reqs := mapDel s.ae.reqs id } } id) (.request id)
    let s := r.ways.foldl (fun s k => dropWay s (some k)) s
    drainCheck (sweepTrees (releaseOn (walkEnd? s r.walker) r.ctx)) (msgJob r.msg)

/-- A child's clause as the merge takes it: one of a failure that names no shard is its own shard's (R119, R141). -/
def childClause (r : Req) (k : Child) (b : Bytes) : Clause :=
  let c := (clauseOfBody b (atRows r.msg) (reqWidth r.msg) (atBf16 r.msg)).getD
    (failClause stInternal k.shard k.node none (atBf16 r.msg))
  if isFailure c.status && c.fail.isNone then { c with fail := some (k.shard, k.node) } else c

/-- The final clause: the own clause first, then the children's in ascending shard order (R109). -/
def foldChildren (r : Req) (own : Clause) : Clause :=
  (sortBy (fun a b => decide (a.shard ≤ b.shard)) r.children).foldl (init := own) fun c k =>
    match k.settled with
    | some b => mergeClause c (childClause r k b)
    | none => c

/-- The stages that a request's clause ends as it leaves: from the clause's last element, formed now, and of its last conjoin
level (Table 05.9; log entry 139). -/
def clauseStages (s : State) (r : Req) : List Stage :=
  .bound rAeExcessEgress 90 s.time :: (match r.lastChild with
    | some t => [.bound rAeExcessConjoin 60 t]
    | none => [])

/-- Send a request's clause and release its slot. -/
def sendClause (s : State) (id : Nat) (r : Req) (shard : Nat) (c : Clause) : State :=
  endReq (sendReplyAs s r.reply (mkMsg opClause 0 r.msg (msgParent r.msg) shard c.body) (clauseStages s r)) id

/-- The source slots of a move that waits for a drive to read them. -/
def readingSources (s : State) (m : Move) : List Nat :=
  if m.stage ≠ .reading then []
  else
    match readPage s 2 m.ctx (ctxBytes s m.ctx) m.layer m.head m.n with
    | .present hs _ _ => hs
    | _ => []

/-- Flash slots that an attend has used are staged no more, but for those that a move still waits for (R256). -/
def attendUnstage (s : State) (hs : List Nat) : State :=
  unstage s (hs.filter fun h => !(s.tm.moves.any fun e => (readingSources s e.2).contains h))

/-- DRIVE_READ_COMPLETION (R256, R269): a drive's Read of a flash slot ends.  The tier mover checks the slot as it came; a Read
that the drive failed, or whose bytes fail a check, is repeated once.  An attend finds the slot staged, and a move goes on once
every part is. -/
def execDriveReadCompletion (handle : Nat) (got : DriveRead) (s : State) : Host.Outcome State Fault Refusal :=
  .next (live s fun s =>
    if !(driveHas s (fDrive handle) (.read handle)) || accessWaits s handle then s
    else
      let forAttend := s.ae.reqs.any fun e => (attendSlots s e.2 (ctxBytes s e.2.ctx)).contains handle
      let old := (mapGet s.tm.staged handle).getD 0
      let s := if forAttend then bumpR s rTmStageReads 1 else s
      let s := if got = .error then raise1 s 15 fTpEventNvmeError else s
      let s := leaveDrive s (fDrive handle) (.read handle)
      let sound := decide (got = .good) && slotSound (slotRead s handle 0 slotBytes)
      let again := !sound && decide (old = 0)
      let s := if sound && decide (old = 1) then refetchOk s 128 else s
      let s := { s with tm := { s.tm with staged := mapPut s.tm.staged handle
                                            (if again then 1 else if got = .error then 2 else 0) } }
      if again then issueRead s handle
      else
        (s.tm.moves.filter fun e => (readingSources s e.2).contains handle).foldl (init := s) fun s e =>
          if (unread s (readingSources s e.2)).isEmpty then copyMove s e.1 .clean else s)

/-- The slots of a request's pages are read: staging reads for those in flash, waits on those that are locked (R184, R256). -/
def awaitPages (s : State) (id : Nat) (r : Req) (d : Bytes) : State :=
  let hs := attendSlots s r d
  waitLocks (if r.walker.isSome then stageReads s hs else s) (.request id) hs

/-- SHARD_CLAUSE_SEND (R143, R180); the operand shows the lines read (R269).  A descriptor that fails its check ends the own work with
`UNCORRECTABLE` (R28). -/
def execShardClauseSend (req : Nat) (reads : Reads) (s : State) : Host.Outcome State Fault Refusal :=
  .next (live s fun s =>
    match mapGet s.ae.reqs req with
    | none => s
    | some r =>
      let shard := reqShard r.msg
      if r.draft = .waiting ∨ r.children.any (fun c => c.settled.isNone) = true then s
      else
        match readCtx (takeReads s reads) r.ctx 0 with
        | .error s => sendClause s req r shard (foldChildren r (failClause stUncorrectable shard (nodeId s) none (atBf16 r.msg)))
        | .ok (d, t) =>
          if !(workReady s r d && r.dispatched) then unserve (awaitPages s req r d) req
          else
            let w := ownClause t r d
            sendClause (attendUnstage w.2 (attendSlots s r d)) req r shard (foldChildren r w.1))

/-- End a request at once with `ABORTED` (R127, Table 13.5). -/
def abortReq (s : State) (id : Nat) : State :=
  match mapGet s.ae.reqs id with
  | none => s
  | some r =>
    let shard := reqShard r.msg
    sendClause s id r shard (failClause stAborted shard (nodeId s) none (atBf16 r.msg))

/-! ## Clauses from children (R119, R141, R143, R144) -/

/-- The body of a child's clause, or the failure it stands for (R119). -/
def childBody (r : Req) (c : Child) (m : Bytes) : Bytes :=
  if headerBad m || bodyShort m || (clauseOfBody (msgBody m) (atRows r.msg) (reqWidth r.msg) (atBf16 r.msg)).isNone then
    (failClause stInternal c.shard c.node none (atBf16 r.msg)).body
  else msgBody m

/-- The hint of a `MOVED` clause. -/
def movedHint (b : Bytes) : Option Nat :=
  if num b 32 1 = stMoved ∧ bfld b 8 12 1 = 1 then some (bfld b 8 0 12) else none

/-- CLAUSE (R119, R144). -/
def execClause (_src : Nat) (m : Bytes) (s : State) : Host.Outcome State Fault Refusal :=
  .next (withMsg s opClause m fun s =>
    let t := receivedAt s m
    let s := takeMsg s m
    match s.ae.reqs.find? fun e => sameRequest e.2.msg m && decide (msgParent m = nodeId s)
        && e.2.children.any fun c => c.shard == msgDest m && c.settled.isNone with
    | none => raise1 s 4 fAeEventLateReply
    | some (id, r) =>
      match r.children.find? fun c => c.shard == msgDest m with
      | none => s
      | some c =>
        let b := childBody r c m
        let settle := updReq (updChild s id c.shard fun x => { x with settled := some b }) id fun x => { x with lastChild := some t }
        match movedHint b with
        | some node =>
          if getB s rAeControl fAeControlForwardEn && !c.resent then
            let s := updChild s id c.shard fun x => { x with node := node, start := s.time, resent := true }
            raise1 (sendChild s id r.msg c.shard node []) 4 fAeEventMovedForward
          else settle
        | none => settle)

/-- DONE (R119): the node awaits none. -/
def execDone (_src : Nat) (m : Bytes) (s : State) : Host.Outcome State Fault Refusal :=
  .next (withMsg s opDone m fun s => raise1 (takeMsg s m) 4 fAeEventLateReply)

/-- CHILD_TIMEOUT (R143). -/
def execChildTimeout (req shard : Nat) (s : State) : Host.Outcome State Fault Refusal :=
  .next (live s fun s =>
    match mapGet s.ae.reqs req with
    | none => s
    | some r =>
      match r.children.find? fun c => c.shard == shard && c.settled.isNone with
      | none => s
      | some c =>
        if due s c.start (r.height * childTimeout s) then
          raise1 (settleFail s req r.msg shard c.node stTimeout) 4 fAeEventChildTimeout
        else s)

end Sys2Proof.Machine
end

