-- ==== Sys2Proof/Machine/Appends.lean ====
section
/-!
DEFINITION. Machine/Appends.lean: `APPEND` and `REFILL` (R40, R41, R52, R145 to R153), ownership flips (R77 to R79, R181,
R182), and the ends of waits on page maps (R72, R75, R147).
-/

namespace Sys2Proof.Machine

/-! ## The operation (Table 05.7) -/

def apPos (m : Bytes) : Nat := num (msgBody m) 0 4
def apRows (m : Bytes) : Nat := bfld (msgBody m) 4 0 9
def apFirst (m : Bytes) : Nat := bfld (msgBody m) 4 16 6
def apCount (m : Bytes) : Nat := bfld (msgBody m) 4 22 7
def apFmt (m : Bytes) : Nat := bfld (msgBody m) 4 29 2

/-- The fixed part breaks Table 05.7 without the descriptor. -/
def appendFixedBad (m : Bytes) : Bool :=
  let b := msgBody m
  decide (16 ≤ b.length) &&
    decide (256 < apRows m ∨ 64 < apCount m ∨ bfld b 4 9 7 ≠ 0 ∨ bfld b 4 31 1 ≠ 0 ∨ num b 8 8 ≠ 0)

def appendShort (m : Bytes) : Bool := decide (msgLen m < 16 ∨ (msgBody m).length < 16)

/-- R40 and R41. -/
def appendLimit (m : Bytes) : Bool := decide (posMax < apPos m + apRows m)

/-- The body that the fields require at a head width (R145). -/
def appendLen (m : Bytes) (h : Nat) : Nat := 16 + 2 * apRows m * apCount m * h * inBytes (apFmt m)

/-- The global page ordinal (R146). -/
def apOrdinal (m d : Bytes) : Nat := apPos m / dP d
/-- The shard that holds it. -/
def apShard (m d : Bytes) : Nat := apOrdinal m d % dW d

/-- The tests that need the descriptor, in the order of R12. -/
def appendStage3 (m d : Bytes) : Option Nat :=
  let h := dWidth d
  firstRefusal [
    (decide (dLayers d ≤ msgLayer m ∨ dHeads d < apFirst m + apCount m ∨ dP d < apPos m % dP d + apRows m ∨
      msgOp m = opRefill ∧ apPos m % dP d ≠ 0 ∨ appendLen m h < msgLen m), stFormat),
    (decide (msgLen m < appendLen m h), stLength), (flightFull d, stQuota),
    (decide (apShard m d ≠ dIndex d), stMoved)]

/-- A key or value row of the operation: row r of addressed head k. -/
def apRow (m : Bytes) (h : Nat) (v : Bool) (r k : Nat) : List Nat :=
  let half := apRows m * apCount m * h * inBytes (apFmt m)
  suppliedRow (msgBody m) (16 + if v then half else 0) (apFmt m) (apCount m) h r k

/-- The part of a row. -/
def partOf (d : Bytes) (part : Nat) (row : List Nat) : List Nat :=
  (row.drop (partBase (dFmt d) part)).take (partWidth (dFmt d) (dWidth d) part)

/-- The encoded bytes of row r of head k in a part, and the key values that the gloss must bound (R58, R89, R90).  The key
rows of a `REFILL` rotate as those of an `APPEND` do (log entry 188). -/
def encRow (m d : Bytes) (k part r : Nat) : Bytes × Bytes × List Nat :=
  let fmt := dFmt d
  let key := partOf d part (keyRow d (apPos m + r) (apRow m (dWidth d) false r k))
  let val := partOf d part (apRow m (dWidth d) true r k)
  (rowEnc fmt key, rowEnc fmt val, stored fmt key)

/-! ## Writing slots -/

/-- The line checks of a payload (R55). -/
def lineChecks (payload : Bytes) : Bytes := (List.range 128).flatMap fun i => natLe 2 (crc16 (slice payload (128 * i) 128))

/-- A part of a page written afresh with `n` rows (R52, R55 to R59, R61). -/
def freshPart (m d : Bytes) (head k layer n gen part : Nat) : Bytes :=
  let rows := (List.range (apRows m)).map (encRow m d k part)
  let payload := padTo 8192 (rows.flatMap (·.1)) ++ padTo 8192 (rows.flatMap (·.2.1))
  let pw := partWidth (dFmt d) (dWidth d) part
  let hd := mkHeader d ⟨msgCtx m, layer, head, part, firstPos d n, dFmt d⟩ (apRows m) gen 0
  payload ++ sealTail (lineChecks payload ++ glossOf pw (rows.map (·.2.2)) ++ hd)

/-- Write encoded rows at row `v` on into a part of a page whose tail passed its checks: payload, line checks, widened gloss,
`VALID`, `AUTHOR` and `TAIL_CRC` (R148, R183). -/
def putRows (s : State) (h fmt pw v : Nat) (rows : List (Bytes × Bytes × List Nat)) (valid author : Nat) (t : Bytes) : State :=
  let rb := rowBytes fmt pw
  let s := slotWrite s h (v * rb) (rows.flatMap (·.1))
  let s := slotWrite s h (8192 + v * rb) (rows.flatMap (·.2.1))
  let lo := v * rb / 128
  let lines := (List.range (ceilDiv ((v + rows.length) * rb) 128 - lo)).flatMap fun i => [lo + i, 64 + lo + i]
  let t := lines.foldl (fun t i => overlay t (2 * i) (natLe 2 (crc16 (slotRead s h (128 * i) 128)))) t
  let t := overlay t 0x100 (widenGloss pw (slice t 0x100 224) (rows.map (·.2.2)))
  let hd := putF (putF (tailHeader t) 8 0 9 valid) 2 5 1 author
  slotWrite s h 0x4000 (sealTail (overlay t 0x1E0 hd))

/-- Write rows `v − q` to `n − 1` of head k into a part of a page whose tail passed its checks (R148, R183). -/
def writeRows (s : State) (m d : Bytes) (k part h v author : Nat) (t : Bytes) : State :=
  let q := apPos m % dP d
  let rows := ((List.range (apRows m)).drop (v - q)).map (encRow m d k part)
  putRows s h (dFmt d) (partWidth (dFmt d) (dWidth d) part) v rows (q + apRows m) author t

/-- Raise `VALID` in the entries of a page, in place (R71); the root that they hang from has been read in the same step. -/
def raiseValid (s : State) (ctx : Nat) (d : Bytes) (layer n head valid : Nat) : State :=
  match pageChanges s 1 ctx d layer n head fun _ e => ⟨0, eHandle e, eState e, eOwner e, valid⟩ with
  | .error _ => s
  | .ok cs => cs.foldl (init := s) fun s c =>
    writeEntry s c.addr (mkEntry c.handle c.state c.owner c.valid (eGen (entryAt s c.addr)))

/-! ## The operation's record -/

def updOp (s : State) (id : Nat) (f : PageOp → PageOp) : State :=
  { s with ae := { s.ae with ops := mapAdj s.ae.ops id f } }

/-- An operation ends: its reply leaves and everything it holds is released (R131, R153). -/
def finishOp (s : State) (id st rows : Nat) (ranges : List DropRange) : State :=
  match mapGet s.ae.ops id with
  | none => s
  | some o =>
    let s := untakeSlots s (ctxClass s o.ctx) (writingSlots s (o.dst ++ o.lift.flatMap (·.2)))
    let s := if st = stOk then bumpR s (if o.refill then rAeRefills else rAeAppends) 1 else refusalFlags s st
    let s := sendReplyAs s o.reply (doneMsg s o.msg st rows none ranges)
      (if o.refill then [] else [.bound rAeExcessAppend 350 o.received])
    let s := leaveEdit (leaveWalk { s with ae := { s.ae with ops := mapDel s.ae.ops id } } (.op id)) (.op id)
    drainCheck (sweepTrees (releaseOn (walkEnd? s o.walker) o.ctx)) o.job

/-- Another operation or a move holds one of the pages (R147, R244). -/
def pageBusy (s : State) (id : Nat) (o : PageOp) : Bool :=
  (List.range (apCount o.msg)).any fun k =>
    let head := apFirst o.msg + k
    moveLocks s o.ctx o.layer o.n head
      || s.ae.ops.any fun e => e.1 != id && (decide (e.1 < id) || e.2.begun) && e.2.covers o.ctx o.layer o.n head

/-- What the map holds for an addressed head. -/
structure HeadView where
  k       : Nat
  head    : Nat
  /-- 0 absent, 1 present, 2 dropped, 3 still being written (R498). -/
  state   : Nat
  handles : List Nat
  owner   : Nat
  valid   : Nat
deriving DecidableEq, Repr

/-- Read the entries of heads `k`, `k + 1`, … (R147). -/
def viewHeads (s : State) (o : PageOp) (d : Bytes) (k : Nat) : Nat → Except Failure (List HeadView)
  | 0 => .ok []
  | c + 1 =>
    let head := apFirst o.msg + k
    match (match readPage s 1 o.ctx d o.layer head o.n with
      | .bad f => Except.error f
      | .absent => .ok (⟨k, head, 0, [], 0, 0⟩ : HeadView)
      | .unsettled => .ok ⟨k, head, 3, [], 0, 0⟩
      | .dropped v => .ok ⟨k, head, 2, [], 0, v⟩
      | .present hs ow v => .ok ⟨k, head, 1, hs, ow, v⟩) with
    | .error f => .error f
    | .ok x =>
      match viewHeads s o d (k + 1) c with
      | .ok r => .ok (x :: r)
      | .error f => .error f

/-- The head has rows to write (R148). -/
def HeadView.needs (x : HeadView) (m d : Bytes) : Bool := decide (x.valid < apPos m % dP d + apRows m)

/-- A BAU writes the rows of this head (R150): the 8 rows of the rule are counted as n, absent rows among them (log entry
219). -/
def byBau (s : State) (m d : Bytes) (x : HeadView) : Bool :=
  decide (apRows m ≤ 8 ∧ dParts d = 1 ∧ x.state = 1) && (match pageBbd x.handles with
    | some b => bauServes s b
    | none => false)

/-- The grant of the page that a slot holds a part of. -/
def grantOf (s : State) (h : Nat) : Option Grant := s.pm.grants.find? fun g => g.parts.contains h
def updGrant (s : State) (h : Nat) (f : Grant → Grant) : State :=
  { s with pm := { s.pm with grants := s.pm.grants.map fun g => if g.parts.contains h then f g else g } }

/-- Entries of a BBD's grant table. -/
def grantMax : Nat := 16384
/-- The grant table of a BBD: the pages granted to it whose release it has not acknowledged (R181). -/
def grantsOf (s : State) (b : Nat) : List Grant :=
  s.pm.grants.filter fun g => slotBbd g.handle == b && g.granted && !g.acked

/-- Ask for the release of the least recently written grant of a full table, one at a time (R182). -/
def releaseOldest (s : State) (b : Nat) : State :=
  if (grantsOf s b).any (·.releasing) then s
  else match (grantsOf s b).foldl (init := (none : Option Grant)) (fun o g =>
      if g.releasing then o
      else match o with
        | none => some g
        | some x => if elapsed s x.lastWrite < elapsed s g.lastWrite then some g else some x) with
  | some g => raise1 (updGrant s g.handle fun x => { x with releasing := true }) (5 + b) fBbEventGrantFull
  | none => s

/-- Step 1 of R78: the edit to bank-owned, with the grant still to be given. -/
inductive FlipRes where
  | done (s : State)
  | waits (s : State)
  | failed (s : State)

def flipToBank (s : State) (ctx layer n head : Nat) (hs : List Nat) (who : EditOwner) : FlipRes :=
  match editPage s 1 ctx layer n head fun _ e => ⟨0, eHandle e, 1, 1, eValid e⟩ with
  | .bad f => .failed (entryFailed s f)
  | .wait g => .waits (waitEdit s who g)
  | .done s =>
    .done (leaveEdit { s with pm := { s.pm with grants := s.pm.grants ++
      [{ parts := hs, handle := hs.headD 0, ctx := ctx, layer := layer, hpart := head, n := n, granted := false,
         releasing := false, acked := false, lastWrite := s.time }] } } who)

/-- The flip of a page for a `REQUANT` waited and may go on: the page is still die-owned, and nothing holds it (R75, R182). -/
def flipAgain (s : State) (ctx layer n head : Nat) : State :=
  match readPage s 1 ctx (ctxBytes s ctx) layer head n with
  | .present hs 0 _ =>
    if moveLocks s ctx layer n head || opLocks s ctx layer n head then s
    else
      match flipToBank s ctx layer n head hs (.requant ctx layer n head) with
      | .done s | .waits s | .failed s => s
  | _ => s

/-- Flip every page that a BAU is to write and that is still die-owned. -/
def flipHeads (s : State) (id : Nat) (o : PageOp) : List HeadView → FlipRes
  | [] => .done s
  | x :: xs =>
    match flipToBank s o.ctx o.layer o.n x.head x.handles (.op id) with
    | .done s => flipHeads s id o xs
    | r => r

/-! ## New pages (R33, R149, R242) -/

/-- The tier of a new page, one per allocation, and whether it is the GDDR7 exception of R33. -/
def newTier (s : State) (o : PageOp) (d : Bytes) : Nat :=
  let w := ctxPlan s d o.layer
  let st := auxState s o.ctx
  if plHome w = 0 ∧ (st = 2 ∨ st = 3) then
    if !o.refill && decide (apRows o.msg ≤ 8 ∧ usage s (ctxClass s o.ctx) 0 < quota s (ctxClass s o.ctx) 0) then 0
    else (plNext w 0).getD 0
  else plHome w

/-- `k` slots of a tier are within the quota that an accepted operation is held to: no cut after its acceptance stops it (R45,
R127). -/
def opQuota (s : State) (o : PageOp) (tier k : Nat) : Bool :=
  let cls := ctxClass s o.ctx
  decide (k = 0 ∨ usage s cls tier + k ≤ max (quota s cls tier) (o.quotas.getD tier 0))

/-- The bytes of the parts of head k, afresh. -/
def freshParts (o : PageOp) (d : Bytes) (k gen : Nat) : List Bytes :=
  (List.range (dParts d)).map (freshPart o.msg d (apFirst o.msg + k) k o.layer o.n gen)

/-- Slots for the heads listed, not yet homes (R147, R152): all of them, or why not.  Those in flash fill an extent buffer now; the
others are written just before their edit, when their link is up (R231). -/
def newPages (s : State) (o : PageOp) (d : Bytes) (gen : Nat) : List Nat → Alloc × State
  | [] => (.ok [], s)
  | k :: ks =>
    let cls := ctxClass s o.ctx
    let tier := newTier s o d
    let one : Alloc × State :=
      if !(opQuota s o tier (dParts d)) then (.quota, s)
      else if tier = 2 then
        match fillSlots s o.ctx cls none ((freshParts o d k gen).map fun b => (none, b)) with
        | some (hs, t) => (.ok hs, t)
        | none => (.full, s)
      else
        takeIn s o.ctx cls (dParts d) tier (plNarrow (ctxPlan s d o.layer))
          (preferDevice o.n (dHeads d) (apFirst o.msg + k) o.layer)
    match one with
    | (.ok hs, t) =>
      match newPages t o d gen ks with
      | (.ok r, t) => (.ok (hs ++ r), t)
      | (e, t) => (e, untakeSlots t cls hs)
    | e => e

/-- The slots outside flash that an operation reserved and cannot write: their link stays down (R231), or a BBD is out of service
(R161). -/
def dstDead (s : State) (dst : List Nat) : Option (Nat × Nat × Nat) :=
  dst.findSome? fun h => if hQuota h = 2 then none else (writeFault s h).map fun f => (h, f)

/-- The failing write of a slot that an operation reserved is logged. -/
def deadSlot (s : State) (o : PageOp) (d : Bytes) (x : Nat × Nat × Nat) : State :=
  logFailure s (writeFailure s 1 x.1 (o.ctx, apFirst o.msg, o.layer, firstPos d o.n) x.2)

/-- A flash slot has been written, or its extent was lost. -/
def flashWritten (s : State) (h : Nat) : Bool :=
  hQuota h != 2 || ((mapGet s.tm.extents (extKey (fDrive h) (fExtent h))).getD []).contains (fPosn h)
def flashPending (s : State) (h : Nat) : Bool :=
  hQuota h == 2 && s.tm.buffers.any fun e => e.2.drive == fDrive h && e.2.extent == fExtent h
def flashLost (s : State) (h : Nat) : Bool := !(flashWritten s h) && !(flashPending s h)

/-! ## The rows of an operation -/

/-- The tails of the pages to be written, through their check (R56, R147, R270), with the BBD whose locked write reads
a failing one (R183). -/
def tailsOf (s : State) (o : PageOp) (d : Bytes) : List HeadView → Except (Failure × Option Nat) (List (HeadView × List Bytes))
  | [] => .ok []
  | x :: xs =>
    match readTails s 1 d o.ctx o.layer o.n x.head none 0 x.handles with
    | .error f => .error (f, if x.owner = 1 then pageBbd x.handles else none)
    | .ok ts =>
      match tailsOf s o d xs with
      | .ok r => .ok ((x, ts) :: r)
      | .error f => .error f

/-- A line of a payload that the rows to be written touch lies in a BBD out of service (R161). -/
def rowsOut (s : State) (o : PageOp) (d : Bytes) (old : List HeadView) : Option Failure :=
  if getF s rGsStatus fGsStatusBbdOut = 0 then none
  else
    old.findSome? fun x => (x.handles.zipIdx).findSome? fun (h, p) =>
      let rb := rowBytes (dFmt d) (partWidth (dFmt d) (dWidth d) p)
      let lo := x.valid * rb / 128
      let lines := (List.range (ceilDiv ((apPos o.msg % dP d + apRows o.msg) * rb) 128 - lo)).flatMap fun i => [lo + i, 64 + lo + i]
      if 1 < hTier h then none
      else
        lines.findSome? fun i => (lineFault s h i).map fun c =>
          writeFailure s 1 h (o.ctx, x.head, o.layer, firstPos d o.n) (i, c)

/-- Write one head's rows (R148, R150). -/
def writeHead (o : PageOp) (d : Bytes) (s : State) (e : HeadView × List Bytes) : State :=
  let x := e.1
  let bank := decide (x.owner = 1)
  let s := ((x.handles.zip e.2).zipIdx).foldl (init := s) fun s ((h, t), p) =>
    writeRows s o.msg d x.k p h x.valid (if bank then 1 else 0) t
  let v := apPos o.msg % dP d + apRows o.msg
  let s := raiseValid s o.ctx d o.layer o.n x.head v
  let s := if bank then updGrant s (x.handles.headD 0) fun g => { g with lastWrite := s.time } else s
  if v = dP d then
    let s := if bank then askRelease s x.handles else s
    let w := ctxPlan s d o.layer
    if (auxState s o.ctx = 2 ∨ auxState s o.ctx = 3) ∧ plHome w = 0 ∧ pageTier x.handles = 0 then
      queueMove s o.ctx o.layer o.n x.head ((plNext w 0).getD 0) .parkReopen none none
    else s
  else s

/-- `END_POS` rises (R150, R152). -/
def raiseEnd (s : State) (ctx v : Nat) : State := updCtx s ctx fun d => setDEnd d (max (dEnd d) v)

/-- The new entries of the heads listed, from the one at place `i` on, at the handles given (R54). -/
def newChanges (s : State) (o : PageOp) (d : Bytes) (dst : List Nat) (i : Nat) : List Nat → Except Failure (List Change)
  | [] => .ok []
  | k :: ks =>
    match pageChanges s 1 o.ctx d o.layer o.n (apFirst o.msg + k) fun p _ =>
        ⟨0, dst.getD (i * dParts d + p) 0, 1, 0, apRows o.msg⟩ with
    | .error f => .error f
    | .ok cs =>
      match newChanges s o d dst (i + 1) ks with
      | .ok r => .ok (cs ++ r)
      | .error f => .error f

/-- The parts of the new pages are written into their slots, but for those in flash, which an extent holds. -/
def writeNew (s : State) (o : PageOp) (d : Bytes) (gen : Nat) (dst ks : List Nat) : State :=
  writeSlots s ((dst.zip (ks.flatMap fun k => freshParts o d k gen)).filter fun e => hQuota e.1 != 2)

/-- The edit that installs the new pages of the heads listed (R147, R152); no head, no edit. -/
def editNew (s : State) (o : PageOp) (d : Bytes) (dst ks : List Nat) : EditRes :=
  if ks = [] then .done s
  else
    match newChanges s o d dst 0 ks with
    | .error f => .bad f
    | .ok cs => edit (writeNew s o d ((dGen d + 1) % 2 ^ 32) dst ks) 1 o.ctx (ctxClass s o.ctx) cs

/-- A page allocated in GDDR7 of a parking or parked context is held there under R33. -/
def heldTail (s : State) (o : PageOp) (head : Nat) : State :=
  if auxState s o.ctx = 2 ∨ auxState s o.ctx = 3 then keepPage s o.ctx (o.layer, head, o.n) else s

/-- The commit of an operation: one edit for the new pages, then the rows of the others (R71, R147, R152). -/
def commitOp (s : State) (id : Nat) (o : PageOp) (dst ks : List Nat) (old : List (HeadView × List Bytes)) : State :=
  let d := ctxBytes s o.ctx
  match editNew s o d dst ks with
  | .bad f => finishOp (entryFailed s f) id stUncorrectable 0 []
  | .wait g => waitEdit (updOp s id fun x => { x with begun := true }) (.op id) g
  | .done s =>
    let s := (ks.filter fun _ => dst.any fun h => hQuota h == 0).foldl (init := s) fun s k => heldTail s o (apFirst o.msg + k)
    let s := old.foldl (writeHead o (ctxBytes s o.ctx)) s
    let s := raiseEnd s o.ctx (apPos o.msg + apRows o.msg)
    let q := apPos o.msg % dP d
    let rows := ks.length * apRows o.msg + sumOf (old.map fun e => q + apRows o.msg - e.1.valid)
    finishOp s id stOk rows []

/-- What an operation's reservation comes to. -/
inductive Reserve where
  /-- Every slot it needs is held, and the layer's run covers them. -/
  | held (s : State) (dst : List Nat)
  /-- A drive, or an edit of the run, must end first. -/
  | waits (s : State)
  /-- It is refused with `QUOTA`. -/
  | full (s : State)
  | failed (s : State)

/-- The highest entry index of the new pages of heads `ks`. -/
def topEntry (o : PageOp) (d : Bytes) (ks : List Nat) : Nat :=
  entryIndex d o.n (dParts d * (apFirst o.msg + maxOf ks) + dParts d - 1)

/-- Grow the layer's run to cover the pages of an operation that holds slots for them (R68). -/
def growOp (s : State) (id : Nat) (o : PageOp) (d : Bytes) (ks dst : List Nat) : Reserve :=
  let s := updOp s id fun x => { x with dst := dst }
  match growRun s 1 o.ctx o.layer (topEntry o d ks) with
  | .bad f => .failed (entryFailed s f)
  | .full s => .full s
  | .wait g => .waits (waitEdit s (.op id) g)
  | .done s => .held s dst

/-- The heads in flash whose prefetch holds no slot yet (R149). -/
def toLift (s : State) (o : PageOp) (flash : List HeadView) : List HeadView :=
  flash.filter fun x => (mapGet o.lift x.head).isNone && match moveOf s o.ctx o.layer o.n x.head with
    | some (_, m) => !m.runs && m.dst.isEmpty
    | none => true

/-- Slots in the plan home for the prefetches of the heads given (R45, R149): whether all were found, and the state with those
found held by the operation. -/
def takeLifts (s : State) (id : Nat) (o : PageOp) (d : Bytes) : List HeadView → Bool × State
  | [] => (true, s)
  | x :: xs =>
    let w := ctxPlan s d o.layer
    if !(opQuota s o (plHome w) (dParts d)) then (false, s)
    else
      match takeIn s o.ctx (ctxClass s o.ctx) (dParts d) (plHome w) (plNarrow w)
          (preferDevice o.n (dHeads d) x.head o.layer) with
      | (.ok hs, s) => takeLifts (updOp s id fun y => { y with lift := mapPut y.lift x.head hs }) id o d xs
      | (_, s) => (false, s)

/-- Reserve every slot that an operation needs, before it changes anything (R12, R147): those of the new pages of the heads `ks`
and of the prefetches of the heads `lifts`; then the run is grown. -/
def reserveOp (s : State) (id : Nat) (o : PageOp) (d : Bytes) (ks : List Nat) (lifts : List HeadView) : Reserve :=
  if ks ≠ [] ∧ o.dst = [] ∧ newTier s o d = 2 ∧ buffersBusy s = true then .waits s
  else
    match (if ks = [] ∨ o.dst ≠ [] then (Alloc.ok o.dst, s) else newPages s o d ((dGen d + 1) % 2 ^ 32) ks) with
    | (.ok dst, s) =>
      match takeLifts (updOp s id fun x => { x with dst := dst }) id o d lifts with
      | (true, s) => if ks = [] then .held s dst else growOp s id o d ks dst
      | (false, s) => .full s
    | (_, s) => .full s

/-- The rows of an operation that holds all it needs are written, or it waits for the locks on the pages (R184). -/
def writeOp (s : State) (id : Nat) (o : PageOp) (d : Bytes) (dst ks : List Nat) (old : List HeadView) : State :=
  let hs := old.flatMap (·.handles)
  if hs.any (slotLocked s) then waitLocks s (.op id) hs
  else
    match (tailsOf s o d old).bind fun ts => (rowsOut s o d old).elim (.ok ts) fun f => .error (f, none) with
    | .error (f, b) => finishOp (pageFailedAt s b f) id stUncorrectable 0 []
    | .ok ts => commitOp s id o dst ks ts

/-- An `APPEND` has its slots, and its pages are in place: ownership is settled, and the rows are written (R149, R150). -/
def ownAndWrite (s : State) (id : Nat) (o : PageOp) (d : Bytes) (dst ks : List Nat) (old : List HeadView) : State :=
  let m := o.msg
  let banked := old.filter fun x => x.owner == 1
  let unfit := banked.filter fun x => !(byBau s m d x)
  let flips := old.filter fun x => x.owner == 0 && byBau s m d x
  if unfit ≠ [] then askRelease (updOp s id fun x => { x with begun := true }) (unfit.flatMap (·.handles))
  else if flips ≠ [] then
    match flipHeads (updOp s id fun x => { x with begun := true }) id o flips with
    | .done s => s
    | .waits s => s
    | .failed s => finishOp s id stUncorrectable 0 []
  else if banked.any fun x => match grantOf s (x.handles.headD 0) with
      | some g => !g.granted || g.releasing
      | none => true then s
  else writeOp s id o d dst ks old

/-- The prefetch of a head is queued with the slots reserved for it (R149); behind a move of `RETIRE_SLOT` it waits. -/
def liftHead (id : Nat) (o : PageOp) (home : Nat) (s : State) (x : HeadView) : State :=
  match (mapGet s.ae.ops id).bind fun y => mapGet y.lift x.head with
  | none => s
  | some hs =>
    let s := queueMove s o.ctx o.layer o.n x.head home .appendPrefetch none none
    match moveOf s o.ctx o.layer o.n x.head with
    | some (j, m) =>
      if m.runs || m.why != .appendPrefetch then s
      else
        updMove (updOp s id fun y => { y with lift := mapDel y.lift x.head }) j fun m => { m with dst := hs, tier := home }
    | none => s

/-- The writes of an operation's new slots wait: a drive has not written them yet, or their link is down (R231, R236). -/
def dstWaits (s : State) (dst : List Nat) : Bool :=
  !(dst.all (flashWritten s)) || dst.any fun h => hQuota h != 2 && accessWaits s h

/-- An `APPEND` that holds its pages and its slots (R149, R236). -/
def placeAppend (s : State) (id : Nat) (o : PageOp) (d : Bytes) (dst ks : List Nat) (old : List HeadView) : State :=
  let flash := old.filter fun x => pageTier x.handles == 2
  if flash ≠ [] then flash.foldl (liftHead id o (plHome (ctxPlan s d o.layer))) s
  else if dst.any (flashLost s) then finishOp s id stUncorrectable 0 []
  else if (dstDead s dst).isSome then finishOp (((dstDead s dst).map (deadSlot s o d)).getD s) id stUncorrectable 0 []
  else if dstWaits s dst || old.any (fun x => x.handles.any (accessWaits s)) then s
  else ownAndWrite s id o d dst ks old

/-- An `APPEND` that holds its pages (R147 to R150): every refusal first, then the dropped heads, then the work.  A dropped
head gives its range and no `FORMAT`, whatever its `VALID` (log entry 193). -/
def runAppend (s : State) (id : Nat) (o : PageOp) (d : Bytes) (vs : List HeadView) : State :=
  let m := o.msg
  let live := vs.filter fun x => x.state != 2
  let todo := live.filter fun x => x.needs m d
  let dropped := vs.filter fun x => x.state == 2
  let ks := (todo.filter fun x => x.state == 0).map (·.k)
  let flash := todo.filter fun x => x.state == 1 && pageTier x.handles == 2
  if live.any fun x => decide (x.valid < apPos m % dP d) then finishOp s id stFormat 0 []
  else
    match reserveOp s id o d ks (toLift s o flash) with
    | .full s => finishOp s id stQuota 0 []
    | .failed s => finishOp s id stUncorrectable 0 []
    | .waits s => s
    | .held t dst =>
      if dropped ≠ [] then
        finishOp s id stNeedsRecompute 0
          (joinRanges (sortBy rangeBefore (dropped.map fun x => ⟨x.head, firstPos d o.n, x.valid⟩)))
      else if flash.any fun x => !(mayChoose s x.handles) then finishOp s id stUncorrectable 0 []
      else placeAppend t id o d dst ks (todo.filter fun x => x.state == 1)

/-- A `REFILL` that holds its pages (R152): its slots first, then the release of the bank-owned pages it replaces. -/
def runRefill (s : State) (id : Nat) (o : PageOp) (d : Bytes) (vs : List HeadView) : State :=
  let ks := vs.map (·.k)
  let banked := vs.filter fun x => x.owner == 1
  if vs.any fun x => decide (apRows o.msg < x.valid) then finishOp s id stFormat 0 []
  else
    match reserveOp s id o d ks [] with
    | .full s => finishOp s id stQuota 0 []
    | .failed s => finishOp s id stUncorrectable 0 []
    | .waits s => s
    | .held s dst =>
      if dst.any (flashLost s) then finishOp s id stUncorrectable 0 []
      else if (dstDead s dst).isSome then finishOp (((dstDead s dst).map (deadSlot s o d)).getD s) id stUncorrectable 0 []
      else if dstWaits s dst then s
      else if banked ≠ [] then askRelease (updOp s id fun x => { x with begun := true }) (banked.flatMap (·.handles))
      else commitOp s id o dst ks []

/-- Go on with an operation as far as it can go. -/
def runOp (s : State) (id : Nat) : State :=
  match mapGet s.ae.ops id with
  | none => s
  | some o =>
    match o.stop with
    | some st => finishOp s id st 0 []
    | none =>
      if o.walker.isNone || pageBusy s id o then s
      else
        match readCtx s o.ctx 1 with
        | .error s => finishOp s id stUncorrectable 0 []
        | .ok (d, s) =>
          match viewHeads s o d 0 (apCount o.msg) with
          | .error f => finishOp (entryFailed s f) id stUncorrectable 0 []
          | .ok vs => if vs.any fun x => x.state == 3 then s else if o.refill then runRefill s id o d vs else runAppend s id o d vs

/-- Go on with every operation that holds its pages. -/
def pokeOps (s : State) : State :=
  (s.ae.ops.filter fun e => e.2.begun).foldl (fun s e => runOp s e.1) s

/-! ## Acceptance -/

/-- The number of the next operation: they run in the order accepted (R147). -/
def nextOp (s : State) : Nat := match s.ae.ops.getLast? with
  | some e => e.1 + 1
  | none => 0

/-- Accept an operation (R127); one of no rows is done at once (R41, R146). -/
def acceptOp (s : State) (m d : Bytes) (t : Nat) : State :=
  let i := msgCtx m
  let refill := decide (msgOp m = opRefill)
  let reply := connTo s m (replyTo m)
  let s := acceptOn s i
  let id := nextOp s
  let o : PageOp := { msg := m, ctx := i, job := msgJob m, layer := msgLayer m, n := apOrdinal m d / dW d, refill := refill,
                      reply := reply, accepted := s.time, received := t, begun := false, stop := none, walker := none, dst := [],
                      lift := [], quotas := (List.range 3).map (quota s (ctxClass s i)) }
  let s := { s with ae := { s.ae with ops := mapPut s.ae.ops id o } }
  if apRows m = 0 ∨ apCount m = 0 then finishOp s id stOk 0 []
  else
    match walkStart s i (some (msgLayer m)) (.op id) with
    | some (w, s) => runOp (updOp s id fun x => { x with walker := some w }) id
    | none => waitWalker s (.op id)

/-- The checks of an `APPEND` or `REFILL` received at `t` and its acceptance (R12, R40, R127 to R131, R146, R156, R401; log entry 192). -/
def takeOp (s : State) (m : Bytes) (t : Nat) : State :=
  if s.power.retain ≠ .out then refuseMsg (takeMsg s m) m stAborted none
  else if slotsFull s then waitSlot s m
  else if frozen s (msgCtx m) then holdMsg s m
  else
    match stage1 s m (appendFixedBad m) (appendShort m) (appendLimit m) with
    | some st => refuseMsg (takeMsg s m) m st none
    | none =>
      if !(tableReady s) then startZeroing (holdMsg s m)
      else
        let s := takeMsg s m
        match stage2 s (msgCtx m) 1 with
        | .refuse s st hint => refuseMsg s m st hint
        | .served d s =>
          match appendStage3 m d with
          | some st => refuseMsg s m st (if st = stMoved then shardHint s d (apShard m d) else none)
          | none => acceptOp s m d t

/-- APPEND (R148); the operand shows the lines read (R269). -/
def execAppend (m : Bytes) (reads : Reads) (s : State) : Host.Outcome State Fault Refusal :=
  .next (withMsg s opAppend m fun s => takeOp (takeReads s reads) m (receivedAt s m))

/-- REFILL (R152); the operand shows the lines read (R269). -/
def execRefill (m : Bytes) (reads : Reads) (s : State) : Host.Outcome State Fault Refusal :=
  .next (withMsg s opRefill m fun s => takeOp (takeReads s reads) m (receivedAt s m))

/-! ## Ends of waits -/

/-- An operation that waits may go on: it was stopped, or it has its walker and no other work holds its pages. -/
def opReady (s : State) (id : Nat) (o : PageOp) : Bool := o.stop.isSome || (o.walker.isSome && !(pageBusy s id o))

/-- PAGE_OP_WAIT_END (R147): the operations that can go on do, in the order accepted.  The lines that they read are those
that their messages showed (R269). -/
def execPageOpWaitEnd (s : State) : Host.Outcome State Fault Refusal :=
  .next (live s fun s =>
    (s.ae.ops.filter fun e => opReady s e.1 e.2).foldl (fun s e => runOp s e.1) s)

/-- ATTN_SLOT_FREE (R131): the message that has waited longest for a request slot is taken; once entry
to Retain has begun it is refused `ABORTED` (log entry 192). -/
def execAttnSlotFree (s : State) : Host.Outcome State Fault Refusal :=
  .next (live s fun s =>
    match s.ae.slotWait with
    | [] => s
    | (m, t) :: rest =>
      if slotsFull s then s
      else
        let s := bumpR { s with ae := { s.ae with slotWait := rest } } rAeWaitSlot (elapsed s t)
        if msgOp m = opAttend then takeAttend s m t else takeOp s m t)

/-- WALKER_SLOT_GRANT (R72). -/
def execWalkerSlotGrant (s : State) : Host.Outcome State Fault Refusal :=
  .next (live s fun s =>
    match s.pm.walkWait with
    | [] => s
    | (o, t) :: rest =>
      if walkerSlots ≤ s.pm.walkers.length then s
      else
        let s := bumpR { s with pm := { s.pm with walkWait := rest } } rPmWaitWalker (elapsed s t)
        match o with
        | .request id => startWalk s id
        | .move id => if moverRuns s && isNext s id then startMove s id .clean else s
        | .op id =>
          match mapGet s.ae.ops id with
          | some x =>
            match walkStart s x.ctx (some x.layer) (.op id) with
            | some (w, s) => runOp (updOp s id fun x => { x with walker := some w }) id
            | none => s
          | none => s
        | .command _ => pokeRetires s
        | .drop _ _ _ _ => s)

/-- The BBD has released a page: the edit to die-owned commits, and the work that waited for it goes on (R79). -/
def releasePage (s : State) (h : Nat) : State :=
  match grantOf s h with
  | none => s
  | some g =>
    let gone (s : State) : State := { s with pm := { s.pm with grants := s.pm.grants.filter fun x => x.handle != g.handle } }
    let mine (m : Move) : Bool := m.covers g.ctx g.layer g.n g.hpart && m.stage == .releasing
    match editPage s 2 g.ctx g.layer g.n g.hpart fun _ e => ⟨0, eHandle e, 1, 0, eValid e⟩ with
    | .wait b => waitEdit s (.flip h) b
    | .bad f =>
      let s := (s.tm.moves.filter fun e => mine e.2).foldl (fun s e => checkMove s e.1) (gone (entryFailed s f))
      let stop (e : Nat × PageOp) : Nat × PageOp :=
        if e.2.begun && e.2.covers g.ctx g.layer g.n g.hpart then (e.1, { e.2 with stop := some stUncorrectable }) else e
      pokeOps { s with ae := { s.ae with ops := s.ae.ops.map stop } }
    | .done s =>
      let s := gone s
      let s := (s.tm.moves.filter fun e => mine e.2).foldl (fun s e => placeMove s e.1 .clean e.2 g.parts) s
      pokeOps s

/-- EDIT_WAIT_END (R75): the edit that has waited longest goes on when it can. -/
def execEditWaitEnd (s : State) : Host.Outcome State Fault Refusal :=
  .next (live s fun s =>
    match s.pm.editWait with
    | [] => s
    | (o, t) :: rest =>
      let u := { s with pm := { s.pm with editWait := rest } }
      let u := match o with
        | .move id => commitMove u id
        | .op id => runOp u id
        | .flip h => releasePage u h
        | .drop c l n k => match moveOf u c l n k with
          | some (id, m) => if m.isSpill && moverRuns u && isNext u id then startMove u id .clean else u
          | none => u
        | .install _ => u
        | .requant c l n k => flipAgain u c l n k
      let u := pokeRetires u
      if u.pm.editWait.any fun w => w.1 == o then s else bumpR u rPmWaitEdit (elapsed s t))

/-- BANK_GRANT (step 3 of R78): the page is granted to its BBD, and the write that waits for it goes on; a full table releases
its least recently written grant first (R182). -/
def execBankGrant (handle : Nat) (s : State) : Host.Outcome State Fault Refusal :=
  .next (live s fun s =>
    match grantOf s handle with
    | some g =>
      if g.granted ∨ g.releasing then s
      else if grantMax ≤ (grantsOf s (slotBbd handle)).length then releaseOldest s (slotBbd handle)
      else pokeOps (updGrant s handle fun x => { x with granted := true, lastWrite := s.time })
    | none => s)

/-- BANK_RELEASE_ACK (steps 3 and 4 of R79): no locked write is in progress on the slot. -/
def execBankReleaseAck (handle : Nat) (s : State) : Host.Outcome State Fault Refusal :=
  .next (live s fun s =>
    match grantOf s handle with
    | some g =>
      if !g.releasing || g.acked || g.parts.any (slotLocked s) then s
      else pokeRetires (releasePage (updGrant s handle fun x => { x with acked := true }) handle)
    | none => s)

end Sys2Proof.Machine
end

