-- ==== Sys2Proof/Machine/Window.lean ====
section
/-!
DEFINITION. Machine/Window.lean: what a host read of the node-memory window returns (R24, R161, R215, R258, R260), at once or
once the slots it meets are no longer locked (R184).
-/

namespace Sys2Proof.Machine

/-- The NPA at an offset of the window. -/
def windowNpa (s : State) (x : Nat) : Nat := 2 ^ 34 * getF s rTmWindow fTmWindowBase + x

/-- The address lies in the context table or the shard-set table (R24). -/
def inTables (s : State) (n : Nat) : Bool :=
  decide (ctxBase s ≤ n ∧ n < ctxBase s + 2 ^ 27) || decide (shardBase s ≤ n ∧ n < shardBase s + shardTableBytes)

/-- The address lies in the loaded resident model (R215). -/
def inModel (s : State) (n : Nat) : Bool :=
  getB s rAcStatus fAcStatusRmLoaded && decide (regGet s rAcRmBase ≤ n ∧ n < regGet s rAcRmBase + regGet s rAcRmSize)

/-- A host access to node memory that fails is logged: an unbacked address (R258), or a BBD out of service (R161). -/
def hostFault (s : State) (n : Nat) : State :=
  if gddrSize ≤ n then logFailure s { cause := 11, source := 6, handle := n }
  else logFailure s { cause := 10, source := 6, handle := n, channel := some (place s n).1 }

/-- The address is backed, by a BBD in service. -/
def reachable? (s : State) (n : Nat) : Bool := decide (n < gddrSize) && bbdUp s (bbdAt s n)

/-- One byte of a host read of the window. -/
def windowByte (s : State) (n : Nat) : Byte :=
  if inTables s n then 0 else if reachable? s n then readByte s n else 0xFF

/-- The first address of a run that fails, outside the tables. -/
def firstBad (s : State) (n len : Nat) : Option Nat :=
  ((List.range len).map (n + ·)).find? fun k => !(inTables s k) && !(reachable? s k)

/-- The failure of a run, when there is one, is logged once for the access. -/
def noteBad (s : State) (n len : Nat) : State :=
  match firstBad s n len with
  | some k => hostFault s k
  | none => s

/-- A host read of the window is answered: the bytes, and the failure it meets. -/
def answerRead (s : State) (r : Nat × Nat) : State :=
  noteBad (emit s (.readData ((List.range r.2).map fun k => windowByte s (r.1 + k)))) r.1 r.2

/-- A host read of a locked slot waits until the lock is released (R184). -/
def holdRead (s : State) (n len : Nat) : State :=
  waitLocks { s with bb := { s.bb with hostReads := s.bb.hostReads ++ [(n, len)] } } (.host n len) (lockedIn s n len)

/-- The host reads that wait for no lock any more are answered, in the order of their arrival. -/
def pokeReads (s : State) : State :=
  let free (r : Nat × Nat) : Bool := (lockedIn s r.1 r.2).isEmpty
  (s.bb.hostReads.filter free).foldl answerRead
    { s with bb := { s.bb with hostReads := s.bb.hostReads.filter fun r => !(free r) } }

end Sys2Proof.Machine
end

