-- ==== Sys2Proof/Machine/Split.lean ====
section
/-!
DEFINITION. Machine/Split.lean: split-write test mode (R275, R276).
-/

namespace Sys2Proof.Machine

/-- The 128 bytes of `PF_TEST_DATA`. -/
def testData (s : State) : Bytes := (List.range 16).flatMap fun k => natLe 8 (regGet s (rPfTestData k))

/-- The node refuses a split write or read (R276). -/
def testRefused (s : State) (t : TestOp) : Bool :=
  !(getB s rPfControl fPfControlTestEn) || handleBad s t.handle || decide (1 < hTier t.handle) || decide (131 < t.line)
    || (decide (128 ≤ t.line) && decide (t.mode ≠ 1)) || s.pm.grants.any fun g => g.parts.contains t.handle

/-- A split write (Table 09.4): the payload, then the line check and `TAIL_CRC`, as the mode selects. -/
def splitWrite (s : State) (t : TestOp) : State :=
  let s := if t.mode = 2 then s else slotWrite s t.handle (128 * t.line) t.data
  if t.mode = 1 then s
  else
    let check := if t.mode = 0 then crc16 t.data else t.check
    slotWrite s t.handle 0x4000 (sealTail (overlay (slotTail s t.handle) (2 * t.line) (natLe 2 check)))

/-- The stored and the recomputed check of a line (R276): `TAIL_CRC` for lines 128 to 131. -/
def slotLineChecks (s : State) (h line : Nat) : Nat × Nat :=
  let t := slotTail s h
  if line < 128 then (num t (2 * line) 2, crc16 (slotRead s h (128 * line) 128)) else (num t 0x1FE 2, tailCrc t)

/-- A test read (R276). -/
def testRead (s : State) (t : TestOp) : State :=
  let b := slotRead s t.handle (128 * t.line) 128
  let c := slotLineChecks s t.handle t.line
  let s := (List.range 16).foldl (fun s k => setR s (rPfTestData k) (num b (8 * k) 8)) s
  setF (setF s rPfTestStatus fPfTestStatusStored c.1) rPfTestStatus fPfTestStatusComputed c.2

/-- The `SOURCE` of a failing split write, which the host asked for (Table 09.3, log entry 18). -/
def srcTest : Nat := 6

/-- Do a test operation, or hold it while its slot is locked (R184, R275); a split write into a BBD out of
service fails, and is logged (R161). -/
def runTest (s : State) (t : TestOp) : State :=
  if slotLocked s t.handle then
    setB (waitLocks { s with pf := { s.pf with test := some t } } .test [t.handle]) rPfStatus fPfStatusTestBusy true
  else
    let s := setB { s with pf := { s.pf with test := none } } rPfStatus fPfStatusTestBusy false
    match writeFault s t.handle with
    | some f =>
      if t.write then
        setF (logFailure s { cause := f.2, source := srcTest, channel := lineChannel s t.handle f.1, line := f.1, handle := t.handle })
          rPfTestStatus fPfTestStatusStatus stUncorrectable
      else setF (testRead s t) rPfTestStatus fPfTestStatusStatus stOk
    | none => setF (if t.write then splitWrite s t else testRead s t) rPfTestStatus fPfTestStatusStatus stOk

/-- Locks were released: the test operation and the host reads that wait for one try again. -/
def pokeTest (s : State) : State :=
  let s := pokeReads s
  match s.pf.test with
  | some t => runTest s t
  | none => s

/-- A write of `PF_TEST_TARGET` with `OP` 1 or 2; none is taken while one is in progress (log entry 27). -/
def startTest (s : State) (op : Nat) : State :=
  let w := regGet s rPfTestTarget
  let f (x : Fld) : Nat := fld w x.lo x.w
  let t : TestOp := { write := decide (op = 1), handle := f fPfTestTargetHandle, line := f fPfTestTargetLine,
                      mode := f fPfTestTargetMode, check := getF s rPfTestCheck fPfTestCheckPfTestCheck, data := testData s }
  if s.pf.test.isSome then s
  else if testRefused s t then setF s rPfTestStatus fPfTestStatusStatus stFormat
  else runTest s t

end Sys2Proof.Machine
end

