-- ==== Sys2Proof/Machine/Threads.lean ====
section
/-!
DEFINITION. Machine/Threads.lean: job descriptors (R210), the ways of the Reach stores as segments (R199), threads and
their tickets (R204, R206), swap slots and save areas (R206 to R209, R213), and the end of a job (R203, R212, R217, R421).
-/

namespace Sys2Proof.Machine

/-! ## Job descriptors (Table 07.8) -/

def jKind (d : Bytes) : Nat := bfld d 0 0 2
def jClass (d : Bytes) : Nat := bfld d 0 2 4
def jClient (d : Bytes) : Nat := bfld d 0 6 12
def jResume (d : Bytes) : Bool := decide (bfld d 0 18 1 = 1)
def jThreads (d : Bytes) : Nat := bfld d 4 0 12
def jImage (d : Bytes) : Nat := bfld d 8 0 40
def jEntry (d : Bytes) : Nat := num d 0x10 4
def jFirstLayer (d : Bytes) : Nat := num d 0x10 1
def jLayers (d : Bytes) : Nat := num d 0x11 1
def jImageBytes (d : Bytes) : Nat := num d 0x14 4
def jArgs (d : Bytes) : Nat := bfld d 0x18 0 40
def jArgBytes (d : Bytes) : Nat := num d 0x20 4
def jSave (d : Bytes) : Nat := bfld d 0x28 0 40
def jSaveBytes (d : Bytes) : Nat := num d 0x30 4
def jTag (d : Bytes) : Nat := num d 0x78 4

/-- The windows of a job: base NPA and bytes. -/
def jWindows (d : Bytes) : List (Nat × Nat) :=
  (List.range 4).map fun i => (bfld d (0x38 + 16 * i) 0 40, 4096 * num d (0x40 + 16 * i) 4)

/-- The bits of a job descriptor that Table 07.8 assigns. -/
def jobBits : List (Nat × Nat × Nat) :=
  [(0, 0, 19), (4, 0, 12), (8, 0, 40), (0x10, 0, 64), (0x18, 0, 40), (0x20, 0, 32), (0x28, 0, 40), (0x30, 0, 32),
   (0x38, 12, 28), (0x40, 0, 32), (0x48, 12, 28), (0x50, 0, 32), (0x58, 12, 28), (0x60, 0, 32), (0x68, 12, 28),
   (0x70, 0, 32), (0x78, 0, 32)]

/-- Every bit of `b` outside the listed ones is zero. -/
def onlyBits (b : Bytes) (bits : List (Nat × Nat × Nat)) : Bool :=
  decide (leNat (bits.foldl (fun b (o, l, w) => putF b o l w 0) b) = 0)

/-- The NPA range [a, a + n) lies in a range of the list. -/
def inRanges (rs : List (Nat × Nat)) (a n : Nat) : Bool := rs.any fun (b, m) => decide (b ≤ a ∧ a + n ≤ b + m)

/-! ## Segments (R199) -/

/-- The bytes of a way; an unlisted byte is 0. -/
def wayStore (s : State) (k : Nat) : List Host.Cell := (mapGet s.ac.reach k).getD []
def setWay (s : State) (k : Nat) (m : List Host.Cell) : State := { s with ac := { s.ac with reach := mapPut s.ac.reach k m } }

/-- Bytes of a segment. -/
def segBytes : Nat := 2 ^ 18

def segRead (m : List Host.Cell) (off : Nat) : Nat → Bytes
  | 0 => []
  | n + 1 => memGet m off :: segRead m (off + 1) n

def segWrite (m : List Host.Cell) (off : Nat) : Bytes → List Host.Cell
  | [] => m
  | b :: bs => segWrite (memPut m off b) (off + 1) bs

/-- The listed bytes of node memory in [a, a + 256 KiB), as a segment. -/
def segFromMem (s : State) (a : Nat) : List Host.Cell :=
  s.mem.foldl (init := []) fun m (k, b) =>
    match npaOfPhys s k with
    | some n => if a ≤ n ∧ n < a + segBytes then memPut m (n - a) b else m
    | none => m

/-- Write a segment to node memory at NPA `a`. -/
def segToMem (s : State) (a : Nat) (m : List Host.Cell) : State :=
  m.foldl (fun s (o, b) => writeByte s (a + o) b) (zeroRange s a segBytes)

/-- Write `n` free bytes at NPA `a`: a record whose layout the spec does not give (log entry 21). -/
def writeFree (s : State) (a n : Nat) : Bytes × State :=
  let b := (List.range n).map fun i => Config.freeByte (s.draws + i)
  (b, writeMem { s with draws := s.draws + n } a b)

/-! ## Jobs and threads -/

def jobAt (s : State) (n : Nat) : Option Job := mapGet s.ac.jobs n
def threadAt (s : State) (n i : Nat) : Option Thread := (jobAt s n).bind fun j => mapGet j.threads i
def updJob (s : State) (n : Nat) (f : Job → Job) : State := { s with ac := { s.ac with jobs := mapAdj s.ac.jobs n f } }
def updThread (s : State) (n i : Nat) (f : Thread → Thread) : State :=
  updJob s n fun j => { j with threads := mapAdj j.threads i f }

/-- An integer register; x0 reads 0. -/
def Thread.getX (t : Thread) (r : Nat) : Nat := if r % 32 = 0 then 0 else ((mapGet t.x (r % 32)).getD 0).toNat
/-- Write an integer register; x0 discards. -/
def Thread.setX (t : Thread) (r v : Nat) : Thread :=
  if r % 32 = 0 then t else { t with x := mapPut t.x (r % 32) (BitVec.ofNat 64 v) }

/-- A thread takes a condition, now. -/
def setCond (s : State) (n i : Nat) (c : Cond) : State := updThread s n i fun t => { t with cond := c, since := s.time }

/-- The way of a resident thread. -/
def Thread.way (t : Thread) : Option Nat :=
  match t.place with
  | .resident ac way _ => some (16 * ac + way)
  | _ => none

/-- Bytes of a swap slot (R206). -/
def swapBytes : Nat := 266240
/-- Slots of the swap pool (R209). -/
def swapSlots (s : State) : Nat := (swapRegion s).2 / swapBytes
/-- Slots reserved by admitted jobs (R209). -/
def slotsReserved (s : State) : List Nat := s.ac.jobs.flatMap fun e => e.2.threads.map fun t => t.2.slot
/-- The segment's copy in a swap slot (R206). -/
def slotSegment (s : State) (k : Nat) : Nat := (swapRegion s).1 + swapBytes * k + 4096
/-- The segment's copy of a thread in a save area (log entry 21). -/
def areaSegment (d : Bytes) (i : Nat) : Nat := jSave d + 4096 + swapBytes * i + 4096

/-- A thread that has not run (R199, R202): its registers are 0 (log entry 6). -/
def Thread.fresh (d : Bytes) (slot time : Nat) : Thread :=
  { cond := .runnable, place := .fresh,
    pc := if jKind d = 0 then 0x10000000 + jEntry d else 2 ^ 32 * jFirstLayer d,
    x := [], f := [], v := [], ctl := ⟨0, 0, 0, 0, 0⟩, tickets := [], await := none, event := none, since := time,
    result := 0, slot := slot }

/-- A thread that the node runs: resident, and running or ready (R206). -/
def Thread.ready (t : Thread) : Bool :=
  t.way.isSome && t.await.isNone && (t.cond == .running || t.cond == .runnable)

/-! ## Tickets (R204) -/

/-- The value of the nth ticket of a job: above every message slot number (log entry 22). -/
def tickVal (n : Nat) : Nat := 2 ^ 32 + n

/-- A thread takes a new ticket: its value. -/
def newTicket (s : State) (n i : Nat) (k : TicketKind) (status : Option Nat) (src dst len : Nat) : Nat × State :=
  match jobAt s n with
  | none => (0, s)
  | some j =>
    let id := tickVal j.nextTick
    let s := updJob s n fun j => { j with nextTick := j.nextTick + 1 }
    (id, updThread s n i fun t => { t with tickets := t.tickets ++ [⟨id, k, status, src, dst, len⟩] })

/-- A ticket of a job. -/
def ticketIn (j : Job) (id : Nat) : Option Ticket :=
  (j.threads.flatMap fun e => e.2.tickets).find? fun t => t.id == id

/-- A ticket completes with a status. -/
def setTicket (s : State) (n i id st : Nat) : State :=
  updThread s n i fun t => { t with tickets := t.tickets.map fun x => if x.id = id then { x with status := some st } else x }

/-- Tickets outstanding. -/
def Thread.open_ (t : Thread) : List Ticket := t.tickets.filter fun x => x.status.isNone
/-- A TE command or a copy is outstanding (R206). -/
def Thread.engines (t : Thread) : Bool := t.open_.any fun x => x.kind != .bau
/-- A wait on this ticket is an external wait (R204). -/
def externalTicket (j : Job) (id : Nat) : Bool :=
  match ticketIn j id with
  | some x => x.kind == .bau
  | none => false
/-- The wait is an external wait (R204); at a step boundary, when a BAU ticket is outstanding. -/
def externalWait (j : Job) (t : Thread) : Await → Bool
  | .ticket id => externalTicket j id
  | .slot _ => true
  | .time _ => true
  | .step => t.open_.any fun x => x.kind == .bau

/-! ## The end of a job -/

def clientField : Fld := ⟨0, 16⟩

/-- The model is unloaded once no `KIND` 1 job remains (R217). -/
def unloadCheck (s : State) : State :=
  match s.ac.unload with
  | none => s
  | some refs =>
    if s.ac.jobs.any fun e => jKind e.2.desc == 1 then s
    else
      let s := setB { s with ac := { s.ac with unload := none } } rAcStatus fAcStatusRmLoaded false
      finishAll (setR (setR s rAcRmBase 0) rAcRmSize 0) refs stOk 0

/-- The ways that threads of a job hold. -/
def waysOfJob (s : State) (n : Nat) : List Nat :=
  s.ac.ways.filterMap fun e => match e.2 with
    | .thread m _ => if m = n then some e.1 else none
    | .attention _ => none

/-- TE commands of a thread leave their queues with the thread. -/
def dropTe (s : State) (p : Nat × Nat → Bool) : State :=
  { s with ac := { s.ac with te := s.ac.te.map fun (e : Nat × List TeEntry) =>
      (e.1, e.2.filter fun x => match x.issuer with
        | some who => !(p who)
        | none => true) } }

/-- The record of an ended job joins the last 4,096 (R421). -/
def recordJob (s : State) (r : JobRec) : State :=
  { s with ac := { s.ac with records := (s.ac.records ++ [r]).drop (s.ac.records.length - 4095) } }

/-- A job ends: its threads stop, its ways and slots are free, its record and completion are made, its client's count
falls, and a pre-emption asked of it ends (R49, R203, R209, R212 to R214, R421). -/
def endJob (s : State) (n status count r0 r1 r2 : Nat) : State :=
  match jobAt s n with
  | none => s
  | some j =>
    let ways := waysOfJob s n
    let s := dropTe { s with ac := { s.ac with jobs := mapDel s.ac.jobs n } } fun w => w.1 == n
    let s := ways.foldl (fun s k => dropWay s (some k)) s
    let c := rCxClientJobs (jClient j.desc)
    let s := setF s c clientField (getF s c clientField - 1)
    let s := complete (recordJob s ⟨n, status, r0, count, r1, r2⟩) ⟨j.ref, status, count, r0, r1, r2, false⟩
    let s := match j.preempt with
      | some p => finishAll s p.refs (if status = stTimeout then stTimeout else stOk) 0
      | none => s
    unloadCheck s

/-- A trap of a thread ends its job (R203). -/
def trapJob (s : State) (n i mcause addr : Nat) : State :=
  match jobAt s n with
  | none => s
  | some _ => endJob (raise1 s 13 fAcEventJobFault) n stAborted i 0 addr mcause

/-- The result byte of thread 0 (R212). -/
def jobResult (j : Job) : Nat :=
  match mapGet j.threads 0 with
  | some t => t.result
  | none => 0

/-! ## Step boundaries and pre-emption (R212, R213) -/

/-- The header of a save area and its register records are written (log entry 21). -/
def writeArea (s : State) (j : Job) : State :=
  let a := jSave j.desc
  let (h, s) := writeFree s a 4096
  let s := j.threads.foldl (fun s e => (writeFree s (areaSegment j.desc e.1 - 4096) 4096).2) s
  { s with ac := { s.ac with saved := mapPut s.ac.saved a ⟨j.desc, h, j.threads, j.nextTick⟩ } }

/-- Every thread is saved or ended: the job completes, or goes back to its save area (R213). -/
def checkPreempt (s : State) (n : Nat) : State :=
  match jobAt s n with
  | none => s
  | some j =>
    if j.threads.all fun e => e.2.cond == .ended then endJob s n stOk 0 (jobResult j) 0 0
    else
      match j.preempt with
      | none => s
      | some p =>
        if !(j.threads.all fun e => e.2.cond == .ended || e.2.cond == .saved) then s
        else
          let s := writeArea s j
          if p.resume then
            let again (t : Thread) : Thread :=
              if t.cond = .saved then { t with cond := .runnable, since := s.time } else t
            let s := updJob s n fun j => { j with preempt := none, threads := j.threads.map fun (e : Nat × Thread) => (e.1, again e.2) }
            finishAll s p.refs stOk 0
          else endJob s n stPreempted 0 0 0 0

/-- A thread at a step boundary: it goes on, or stops and writes its segment to the save area (R212, R213). -/
def boundary (s : State) (n i : Nat) : State :=
  match jobAt s n, threadAt s n i with
  | some j, some t =>
    match (if jKind j.desc = 0 then j.preempt else none), t.way with
    | some _, some k =>
      let s := segToMem s (areaSegment j.desc i) (wayStore s k)
      let s := updThread s n i fun t => { t with cond := .saved, place := .area, await := none, event := none, since := s.time }
      checkPreempt (dropWay s (some k)) n
    | _, _ => updThread s n i fun t => { t with await := none, cond := .running, since := s.time }
  | _, _ => s

/-- A thread ends with a result byte (R212). -/
def endThread (s : State) (n i result : Nat) : State :=
  match threadAt s n i with
  | none => s
  | some t =>
    let s := dropTe s fun w => w == (n, i)
    let s := updThread s n i fun t =>
      { t with cond := .ended, place := .area, await := none, event := none, since := s.time, result := result,
               tickets := t.tickets.filter fun x => x.status.isSome || x.kind == .bau }
    checkPreempt (dropWay s t.way) n

/-! ## Waits (R204, R206, R207) -/

/-- The status an awaited event has brought; none while it is awaited. -/
def awaited (s : State) (j : Job) (t : Thread) : Await → Option Nat
  | .ticket id => (ticketIn j id).bind fun x => x.status
  | .slot k => (mapGet s.ft.recv k).bind fun r => r.status
  | .time u => if u ≤ s.time then some 0 else none
  | .step => if t.open_.isEmpty then some 0 else none

/-- A resident thread takes the status of what it awaited. -/
def takeEvent (s : State) (n i : Nat) (t : Thread) (rd : Nat) (a : Await) (st : Nat) : State :=
  let c : Cond := if t.cond = .blocked then .runnable else .running
  match a with
  | .step => boundary s n i
  | .time _ => updThread s n i fun t => { t with await := none, event := none, cond := c, since := s.time }
  | _ => updThread s n i fun t => { t.setX rd st with await := none, event := none, cond := c, since := s.time }

/-- A message slot whose status a wait has read becomes free (R422). -/
def freeRecv (s : State) (a : Await) : State :=
  match a with
  | .slot k => { s with ft := { s.ft with recv := mapDel s.ft.recv k } }
  | _ => s

/-- Bring a waiting thread up to date: its event has come, or its internal wait has become a block (R206, R207).  What came
while the thread was being saved or was swapped out is recorded once. -/
def settleThread (s : State) (n i : Nat) : State :=
  match jobAt s n, threadAt s n i with
  | some j, some t =>
    match t.await with
    | none => s
    | some (rd, a) =>
      match awaited s j t a with
      | none =>
        if t.cond = .internalWait ∧ externalWait j t a = true ∧ t.engines = false then setCond s n i .blocked else s
      | some st =>
        match t.place with
        | .resident _ _ _ => takeEvent (freeRecv s a) n i t rd a st
        | .saving _ _ => if t.event.isSome then s else updThread (freeRecv s a) n i fun t => { t with event := some st }
        | .swapped =>
          if t.cond = .blocked then
            updThread (freeRecv s a) n i fun t => { t with event := some st, cond := .runnable, since := s.time }
          else s
        | _ => s
  | _, _ => s

/-- A thread begins a wait: at once over when its event has come (R204, R206). -/
def beginWait (s : State) (n i rd : Nat) (a : Await) : State :=
  settleThread (updThread s n i fun t => { t with await := some (rd, a), cond := .internalWait, since := s.time }) n i

end Sys2Proof.Machine
end

