-- ==== Sys2Proof/Machine/Bank.lean ====
section
/-!
DEFINITION. Machine/Bank.lean: the bank buffer dies (R158 to R188): BAU stores and command queues, the checks of a command
(R167, R170 to R174), what each opcode computes and writes (Table 06.4), completions (R176) and permits (R177 to R179).
-/

namespace Sys2Proof.Machine

/-! ## Command words (Table 06.3) -/

def bOp (w : Bytes) : Nat := num w 0 1
def bBau (w : Bytes) : Nat := bfld w 0 8 4
def bAny (w : Bytes) : Bool := decide (bfld w 0 12 1 = 1)
def bSpanLog (w : Bytes) : Nat := bfld w 0 13 2
def bSpan (w : Bytes) : Nat := 2 ^ bSpanLog w
def bOrdered (w : Bytes) : Bool := decide (bfld w 0 15 1 = 1)
def bFlags (w : Bytes) : Nat := num w 2 1
def bTag (w : Bytes) : Nat := num w 4 4
def bArgOff (w : Bytes) : Nat := num w 8 2
def bArgLen (w : Bytes) : Nat := num w 0x0A 2
def bCount (w : Bytes) : Nat := num w 0x0C 4
def bTarget (w : Bytes) : Nat := bfld w 0x10 0 40
def bAux0 (w : Bytes) : Nat := num w 0x18 4
def bAux1 (w : Bytes) : Nat := num w 0x1C 4

def opGloss : Nat := 1
def opAttendPage : Nat := 2
def opAppendRows : Nat := 3
def opRequant : Nat := 4
def opRms : Nat := 5
def opElem : Nat := 6
def opGather : Nat := 7
def opZero : Nat := 8

/-! ## The BBDs -/

/-- Active BAUs of a BBD (R15). -/
def activeBaus (s : State) (b : Nat) : Nat := getF s (rBbStatus b) fBbStatusActiveBaus

/-- Permits held (R177). -/
def permitsHeld (x : Bbd) : Nat := sumOf (x.queue.map fun e => e.baus.length)

/-- The argument block of a command in the store. -/
def argOf (x : Bbd) (w : Bytes) : Bytes := segRead x.store (bArgOff w) (bArgLen w)

/-! ## Operands (Tables 06.5 and 06.6, R173, R174) -/

def rfHandle (r : Bytes) : Nat := bfld r 0 0 40
def rfKey (r : Bytes) : PageKey :=
  { ctx := bfld r 8 0 20, layer := num r 5 1, kv := bfld r 6 0 6, part := bfld r 6 6 3, first := num r 0x0C 4,
    fmt := bfld r 6 9 3 }
def rfValid (r : Bytes) : Nat := bfld r 8 20 9

/-- A page reference breaks its form, or names a page that is not in the BBD (R167, R170). -/
def refBad (s : State) (b : Nat) (r : Bytes) : Bool :=
  decide (bfld r 6 12 4 ≠ 0 ∨ bfld r 8 29 3 ≠ 0 ∨ 4 < (rfKey r).fmt)
    || handleBad s (rfHandle r) || decide (hTier (rfHandle r) ≠ 1 ∨ slotBbd (rfHandle r) ≠ b)

def apRowsOf (a : Bytes) : Nat := bfld a 0 0 4
def apBit (a : Bytes) (k : Nat) : Bool := decide (bfld a 0 k 1 = 1)
/-- Head width H of attend parameters. -/
def apWidth (a : Bytes) : Nat := 32 * (bfld a 0 9 5 + 1)
/-- Attend parameters break their form (Table 06.6). -/
def attendParamsBad (a : Bytes) : Bool :=
  decide (apRowsOf a = 0 ∨ 8 < apRowsOf a ∨ 19 < bfld a 0 9 5 ∨ bfld a 0 14 18 ≠ 0 ∨ num a 0x18 8 ≠ 0)
def apScore (a : Bytes) : ScoreCfg := ⟨num a 4 4, apBit a 7, num a 8 4⟩
def apMask (a : Bytes) : MaskCfg :=
  ⟨apBit a 4, apBit a 5, num a 0x0C 4, apBit a 6, num a 0x10 4, if apBit a 8 then some (num a 0x14 4) else none⟩
/-- Query row `r` of `h` binary32 values. -/
def apQuery (a : Bytes) (h r : Nat) : List Nat := (List.range h).map fun c => num a (32 + 4 * (r * h + c)) 4
/-- The position of query row `r` among `n`. -/
def apPosition (a : Bytes) (n h r : Nat) : Nat := num a (32 + 4 * n * h + 4 * r) 4
/-- Where the page references begin. -/
def apRefs (a : Bytes) : Nat := 32 + apRowsOf a * (4 * apWidth a + 4)
/-- S, from the first page reference. -/
def apParts (a : Bytes) : Nat := partsOf (rfKey (slice a (apRefs a) 16)).fmt (apWidth a)
/-- Page reference `k`. -/
def apRef (a : Bytes) (k : Nat) : Bytes := slice a (apRefs a + 16 * k) 16

/-- An operand descriptor: address, format, elements per vector (R174). -/
structure Opnd where
  addr : Nat
  fmt  : Nat
  ele  : Nat
deriving DecidableEq, Repr

def opndOf (b : Bytes) : Opnd := ⟨bfld b 0 0 40, bfld b 5 0 4, num b 8 4⟩

/-- A narrow NPA of the BBD, 128-byte aligned (R167, R174). -/
def narrowHere (s : State) (b a : Nat) : Bool :=
  decide (a % 128 = 0 ∧ wideSize s ≤ a ∧ a < gddrSize ∧ (a - wideSize s) / narrowShare s / 4 = b)

/-- A run of bytes from a narrow NPA passes the end of its device's share (R174). -/
def passesShare (s : State) (a n : Nat) : Bool :=
  decide (narrowShare s < (a - wideSize s) % narrowShare s + n)

/-- A format of operands whose elements share scales in blocks of 32. -/
def blockFmt (f : Nat) : Bool := decide (f = 4 ∨ f = 5)

/-- An operand descriptor breaks its form; `addr`: its address is used (R174).  A block format needs vectors of whole blocks, a
nonzero multiple of 32 elements (log entry 198). -/
def opndBad (s : State) (b : Nat) (addr : Bool) (x : Bytes) : Bool :=
  let o := opndOf x
  decide (bfld x 5 4 20 ≠ 0 ∨ num x 0x0C 4 ≠ 0 ∨ 6 < o.fmt) || (addr && !(narrowHere s b o.addr))
    || (blockFmt o.fmt && decide (o.ele = 0 ∨ o.ele % 32 ≠ 0))

/-- Bytes of a vector of `n` elements in an operand format. -/
def vecBytes (f n : Nat) : Nat := match f with
  | 0 => 2 * n
  | 1 => 4 * n
  | 4 => n / 2 + n / 32
  | 5 => n / 2 + n / 32
  | _ => n

/-- Elements of `n` in vectors of an operand: block formats lie in vectors of `ELEMS`, others in one run without
filling (log entry 222). -/
def vecLen (o : Opnd) (n : Nat) : Nat := if blockFmt o.fmt then o.ele else n

/-- Bytes of `n` elements of an operand. -/
def opndBytes (o : Opnd) (n : Nat) : Nat := if n = 0 then 0 else n / vecLen o n * vecBytes o.fmt (vecLen o n)

/-- Decode one vector (R87); an INT8 input is its integer, without a scale (log entry 221). -/
def vecDec (f n : Nat) (b : Bytes) : List Nat := match f with
  | 0 => rowDec 0 n b
  | 1 => (List.range n).map fun c => num b (4 * c) 4
  | 2 => rowDec 1 n b
  | 3 => rowDec 2 n b
  | 4 => rowDec 3 n b
  | 5 => rowDec 4 n b
  | _ => (List.range n).map fun c =>
    let v := num b c 1
    fOf (decide (128 ≤ v)) (if 128 ≤ v then 256 - v else v) 0

/-- Encode one vector (R89, R175). -/
def vecEnc (f scale : Nat) (xs : List Nat) : Bytes := match f with
  | 0 => rowEnc 0 xs
  | 1 => xs.flatMap fun x => natLe 4 (fCanon x)
  | 2 => rowEnc 1 xs
  | 3 => rowEnc 2 xs
  | 4 => rowEnc 3 xs
  | 5 => rowEnc 4 xs
  | _ => xs.map fun x => BitVec.ofNat 8 (int8Enc x scale)

/-- Decode `n` elements of an operand from memory. -/
def opndRead (s : State) (o : Opnd) (n : Nat) : List Nat :=
  if n = 0 then []
  else
    let l := vecLen o n
    (List.range (n / l)).flatMap fun k => vecDec o.fmt l (readMem s (o.addr + k * vecBytes o.fmt l) (vecBytes o.fmt l))

/-- Encode elements for an operand. -/
def opndEnc (o : Opnd) (scale : Nat) (xs : List Nat) : Bytes :=
  (chunks (max 1 (vecLen o xs.length)) xs.length xs).flatMap (vecEnc o.fmt scale)

/-- Elements do not fill whole vectors of a block format (log entry 198). -/
def ragged (o : Opnd) (n : Nat) : Bool := blockFmt o.fmt && decide (o.ele ≠ 0 ∧ n % o.ele ≠ 0)

/-! ## Refusals before any work (R15, R167, R170, R174) -/

/-- Operation `op` of `ELEMENTWISE` takes a source b (R175). -/
def elemTwo (op : Nat) : Bool := [0, 1, 5].contains op

/-- `REQUANT` to a page: its argument block goes on with a page reference, which an
`ARG_LEN` of 48 or more tells (Table 06.4, log entry 220). -/
def requantPage (w : Bytes) : Bool := decide (48 ≤ bArgLen w)

/-- Bytes of an append's argument block (Table 06.4): with the rows of the page that it names, whose width its header gives where
that can be read. -/
def appendNeed (s : State) (w a : Bytes) : Nat :=
  let r := slice a 16 16
  if bArgLen w < 32 then 32
  else match readTail s 3 (rfHandle r) (rfKey r) (rfValid r) with
    | .ok t => 32 + 2 * bCount w * (32 * (bfld (tailHeader t) 1 0 5 + 1)) * inBytes (bfld a 8 0 2)
    | .error _ => 32

/-- Bytes of an opcode's argument block (Table 06.4). -/
def argNeed (s : State) (w a : Bytes) : Nat :=
  let op := bOp w
  if op = opGloss then (if bArgLen w < 32 then 32 else
      let n := apRefs a
      if bArgLen w < n + 16 then n + 16 else n + 16 * apParts a * bCount w)
  else if op = opAttendPage then (if bArgLen w < 32 then 32 else
      let n := apRefs a
      if bArgLen w < n + 16 then n + 16 else n + 16 * apParts a)
  else if op = opAppendRows then appendNeed s w a
  else if op = opRequant then 32
  else if op = opRms then 48
  else if op = opElem then (if elemTwo (bFlags w % 16) then 48 else 32)
  else if op = opGather then 16 + 4 * bCount w + (if bFlags w % 2 = 1 then 4 * bCount w else 0)
  else 0

/-- Index `i` of a gather. -/
def gatherIdx (a : Bytes) (i : Nat) : Nat := num a (16 + 4 * i) 4

/-- `FORMAT` refusals that the command word alone decides. -/
def wordBad (s : State) (c : BauCmd) : Bool :=
  let w := c.word
  let op := bOp w
  let n := bCount w
  decide (op = 0 ∨ 8 < op) || decide (num w 3 1 ≠ 0 ∨ bfld w 0x14 8 24 ≠ 0)
    || decide (bFlags w ≠ 0 ∧ op ≠ opElem ∧ op ≠ opGather) || decide (op = opElem ∧ 5 < bFlags w)
    || decide (op = opGather ∧ 3 < bFlags w)
    || decide (op = opGloss ∧ (n = 0 ∨ 64 < n)) || decide (op = opAttendPage ∧ n ≠ 1)
    || decide (op = opAppendRows ∧ (n = 0 ∨ 256 < n))
    || decide ((op = opRequant ∨ op = opElem) ∧ (n = 0 ∨ 2 ^ 24 < n))
    || decide ((op = opRms ∨ op = opGather) ∧ (n = 0 ∨ 4096 < n))
    || decide (bArgOff w % 128 ≠ 0) || decide (bSpanLog w ≠ 0 ∧ op ≠ opRms ∧ op ≠ opGather)
    || (!(bAny w) && decide (activeBaus s c.bbd ≤ bBau w))
    || (match c.issuer with
      | .thread _ _ => decide (bArgOff w < 0x8000) || decide (op = opZero)
      | .dispatch => decide (op = opZero)
      | .lexicon => false)
    || (decide (op = opZero) && decide (bTarget w % 128 / 16 ≠ c.bbd))
    || ((decide (op = opRequant) && !(requantPage w) || decide (op = opGather ∧ bFlags w < 2))
        && !(narrowHere s c.bbd (bTarget w)))

/-- `FORMAT` refusals that the argument block decides, once it is long enough; for a block format see log entry 198.
The ADDR of the destination of a `REQUANT` to a page is not looked at: TARGET names the page (log entry 225). -/
def argBad (s : State) (b : Nat) (w a : Bytes) : Bool :=
  let op := bOp w
  let at16 (k : Nat) : Bytes := slice a (16 * k) 16
  if op = opGloss ∨ op = opAttendPage then
    attendParamsBad a || (List.range (apParts a * (if op = opGloss then bCount w else 1))).any fun k => refBad s b (apRef a k)
  else if op = opAppendRows then
    decide (bfld a 8 4 4 ≠ 0 ∨ num a 9 1 ≠ 0 ∨ bfld a 0x0A 10 6 ≠ 0 ∨ num a 0x0C 4 ≠ 0) || refBad s b (at16 1)
  else if op = opRequant then
    opndBad s b true (at16 0) || ragged (opndOf (at16 0)) (bCount w) || opndBad s b false (at16 1)
      || (if requantPage w then refBad s b (at16 2) else ragged (opndOf (at16 1)) (bCount w))
  else if op = opRms then
    opndBad s b true (at16 0) || opndBad s b true (at16 1) || opndBad s b true (at16 2)
      || decide ((opndOf (at16 0)).ele = 0 ∨ (opndOf (at16 1)).ele ≠ (opndOf (at16 0)).ele
          ∨ (opndOf (at16 2)).ele ≠ (opndOf (at16 0)).ele)
  else if op = opElem then
    let two := elemTwo (bFlags w % 16)
    let ks := if two then [0, 1, 2] else [0, 1]
    ks.any fun k => opndBad s b true (at16 k) || ragged (opndOf (at16 k)) (bCount w)
  else if op = opGather then
    opndBad s b true (at16 0) || (List.range (bCount w)).any fun i => decide (bAux0 w ≤ gatherIdx a i)
  else false

/-- `LENGTH` refusals that the operands decide: one passes the end of its device's share (R174). -/
def operandLong (s : State) (w a : Bytes) : Bool :=
  let op := bOp w
  let at16 (k : Nat) : Opnd := opndOf (slice a (16 * k) 16)
  let long (o : Opnd) (n : Nat) : Bool := passesShare s o.addr (opndBytes o n)
  if op = opRequant then
    long (at16 0) (bCount w) || (!(requantPage w) && passesShare s (bTarget w) (opndBytes (at16 1) (bCount w)))
  else if op = opRms then
    let n := (at16 0).ele
    passesShare s (at16 0).addr (bCount w * vecBytes (at16 0).fmt n) || passesShare s (at16 1).addr (vecBytes (at16 1).fmt n)
      || passesShare s (at16 2).addr (bCount w * vecBytes (at16 2).fmt n)
  else if op = opElem then
    (if elemTwo (bFlags w % 16) then [0, 1, 2] else [0, 1]).any fun k => long (at16 k) (bCount w)
  else if op = opGather then
    passesShare s (at16 0).addr (bAux0 w * vecBytes (at16 0).fmt (at16 0).ele)
      || (decide (bFlags w < 2) && passesShare s (bTarget w) (4 * (at16 0).ele))
  else if op = opZero then decide (2 ^ 23 < bTarget w / 128 + bCount w)
  else false

/-- Why a command is refused before any work, in the order of R12. -/
def bauRefusal (s : State) (c : BauCmd) : Option Nat :=
  let w := c.word
  let fits := decide (bArgOff w + bArgLen w ≤ 65536)
  let a := argOf (bbdOf s c.bbd) w
  let enough := fits && decide (argNeed s w a ≤ bArgLen w)
  firstRefusal [(wordBad s c, stFormat), (enough && argBad s c.bbd w a, stFormat), (!enough, stLength),
                (operandLong s w a, stLength)]

/-! ## What a command does -/

/-- What a command ends with: its status, the failing NPA or the new `VALID`, the result block. -/
structure BauEnd where
  status : Nat
  info   : Nat
  result : Bytes
  s      : State
deriving Repr

/-- A BAU's read failed (R171): the flags, the log with `BANK_DETECT`, and the line's NPA. -/
def bauFailed (s : State) (b : Nat) (f : Failure) : BauEnd :=
  ⟨stUncorrectable, slotNpa s f.handle + 128 * f.line, [], pageFailedAt s (some b) f⟩

/-- Read the tails of the parts `k`, `k + 1`, … of a page. -/
def bauTails (s : State) (a : Bytes) (k : Nat) : Nat → Except Failure (List Bytes)
  | 0 => .ok []
  | n + 1 =>
    let r := apRef a k
    match readTail s 3 (rfHandle r) (rfKey r) (rfValid r) with
    | .error f => .error f
    | .ok t =>
      match bauTails s a (k + 1) n with
      | .ok ts => .ok (t :: ts)
      | .error f => .error f

/-- The bounds of one page for every query row (R112). -/
def bauBounds (a : Bytes) (k : Nat) (ts : List Bytes) : List Nat :=
  let h := apWidth a
  let gs := (ts.zipIdx).map fun (t, i) => glossBounds (partWidth (rfKey (apRef a k)).fmt h i) (slice t 0x100 224)
  (List.range (apRowsOf a)).map fun r =>
    if gs.any (·.2) then fInf false else pageBound (apScore a) (apQuery a h r) (gs.flatMap (·.1))

/-- The bounds of pages `p`, `p + 1`, …, page-major (Table 06.4). -/
def bauGloss (s : State) (b : Nat) (a : Bytes) (p : Nat) : Nat → Except BauEnd Bytes
  | 0 => .ok []
  | n + 1 =>
    match bauTails s a (p * apParts a) (apParts a) with
    | .error f => .error (bauFailed s b f)
    | .ok ts =>
      match bauGloss s b a (p + 1) n with
      | .ok r => .ok ((bauBounds a (p * apParts a) ts).flatMap (natLe 4) ++ r)
      | .error e => .error e

/-- The payload rows of the parts of a page. -/
def bauPayload (s : State) (a : Bytes) (k : Nat) : List Bytes → Except Failure (List (List (List Nat × List Nat)))
  | [] => .ok []
  | t :: ts =>
    let r := apRef a k
    match readLines s 3 (rfHandle r) t (rfKey r) 0 128 with
    | .error f => .error f
    | .ok b =>
      match bauPayload s a (k + 1) ts with
      | .ok x => .ok (partRows (rfKey r).fmt (partWidth (rfKey r).fmt (apWidth a) k) (rfValid r) b :: x)
      | .error f => .error f

/-- The page clause of every query row (R106, R171). -/
def bauAttend (s : State) (b : Nat) (a : Bytes) : BauEnd :=
  match bauTails s a 0 (apParts a) with
  | .error f => bauFailed s b f
  | .ok ts =>
    match bauPayload s a 0 ts with
    | .error f => bauFailed s b f
    | .ok parts =>
      let h := apWidth a
      let kvs := (joinParts parts).zipIdx
      let first := (rfKey (apRef a 0)).first
      let rows := (List.range (apRowsOf a)).map fun r =>
        pageClause (apScore a) (apQuery a h r) h
          ((kvs.filter fun e => visible (apMask a) (apPosition a (apRowsOf a) h r) (first + e.2)).map (·.1))
      ⟨stOk, 0, rows.flatMap (rowBytesOf false), s⟩

/-- The page is granted to the BBD and its release has not begun (R181). -/
def mayWrite (s : State) (h : Nat) : Bool :=
  match grantOf s h with
  | some g => g.granted && !g.releasing
  | none => false

/-- A BAU write refused (R181). -/
def writeRefused (s : State) (b : Nat) : BauEnd := ⟨stMoved, 0, [], raise1 s (5 + b) fBbEventWriteRefused⟩

/-- The node die raises the entry's `VALID` after a locked write, and asks for the page back when it is full (R71, R182,
R183). -/
def wrote (s : State) (h valid : Nat) : State :=
  match grantOf s h with
  | none => s
  | some g =>
    let d := ctxBytes s g.ctx
    let s := if valid = 0 then s else raiseValid s g.ctx d g.layer g.n g.hpart valid
    updGrant s h fun x => { x with lastWrite := s.time, releasing := x.releasing || decide (dP d ≤ valid) }

/-- Row `i` of an append's argument block, encoded: key, value, and the key values that the gloss must bound (R89, R90). -/
def appendRow (w a hd : Bytes) (i : Nat) : Bytes × Bytes × List Nat :=
  let pw := 32 * (bfld hd 1 0 5 + 1)
  let fmt := bfld a 8 0 2
  let len := pw * inBytes fmt
  let rope := apBit (slice a 8 1) 2 && decide (bfld a 0x0A 0 10 ≠ 0)
  let key := inRow fmt pw (slice a (32 + i * len) len)
  let key := if rope then rotate (num a 4 4) (bfld a 0x0A 0 10) (apBit (slice a 8 1) 3) (num a 0 4 + i) key else key
  let val := inRow fmt pw (slice a (32 + (bCount w + i) * len) len)
  (rowEnc (hdFmt hd) key, rowEnc (hdFmt hd) val, stored (hdFmt hd) key)

/-- An append's rows do not fit the page that it names: rotary encoding on a part of several, a position outside the page, rows
past P, or more rotary channels than the width; the spec names no status, `FORMAT` here, and an odd number of rotary channels
is accepted (log entry 197). -/
def appendBad (w a hd : Bytes) (first : Nat) : Bool :=
  let pos := num a 0 4
  let rope := apBit (slice a 8 1) 2 && decide (bfld a 0x0A 0 10 ≠ 0)
  decide (pos < first ∨ posOf (bfld hd 0 3 2) < pos - first + bCount w ∨ (rope = true ∧ bfld hd 2 0 3 ≠ 1) ∨ 4 < hdFmt hd ∨
    32 * (bfld hd 1 0 5 + 1) < bfld a 0x0A 0 10)

/-- The locked write of row `i` of an `APPEND_ROWS` (R173, R183).  A first row beyond the page's `VALID` is written, and `VALID`
raised over the gap: the spec gives such a command no status (log entry 195). -/
def appendOne (s : State) (b : Nat) (w a : Bytes) (i : Nat) : Except BauEnd State :=
  let r := slice a 16 16
  let h := rfHandle r
  let k := rfKey r
  match readTail s 3 h k (rfValid r) with
  | .error f => .error (bauFailed s b f)
  | .ok t =>
    let hd := tailHeader t
    let pw := 32 * (bfld hd 1 0 5 + 1)
    if appendBad w a hd k.first then .error ⟨stFormat, 0, [], s⟩
    else if bArgLen w < 32 + 2 * bCount w * pw * inBytes (bfld a 8 0 2) then .error ⟨stLength, 0, [], s⟩
    else
      let v := num a 0 4 - k.first + i
      .ok (putRows s h (hdFmt hd) pw v [appendRow w a hd i] (max (hdValid hd) (v + 1)) 1 t)

/-- The locked writes of rows `i`, `i + 1`, …, `n` of them. -/
def appendMany (s : State) (b : Nat) (w a : Bytes) (i : Nat) : Nat → Except BauEnd State
  | 0 => .ok s
  | n + 1 =>
    match appendOne s b w a i with
    | .error x => .error x
    | .ok s => appendMany s b w a (i + 1) n

/-- The end of an `APPEND_ROWS`: the rows not yet written are, each in a locked write (R173, R183).  Once the page's release is
asked, or without its grant, only the row whose lock is held is written, and the rest is refused (R79, R181). -/
def bauAppend (s : State) (b : Nat) (e : BauEntry) : BauEnd :=
  let w := e.cmd.word
  let h := rfHandle (slice e.arg 16 16)
  let left := bCount w - e.rows
  let n := if mayWrite s h then left else if e.lock.isSome then min 1 left else 0
  match appendMany s b w e.arg e.rows n with
  | .error x => x
  | .ok s =>
    if n < left then writeRefused s b
    else
      let valid := hdValid (tailHeader (slotTail s h))
      ⟨stOk, valid, [], wrote s h valid⟩

/-- `REQUANT` of a page: every line of the page in one locked write, which finishes though the page's release is asked (R79,
R182, R183). -/
def bauRequantPage (s : State) (b : Nat) (w a : Bytes) (lock : Option Nat) : BauEnd :=
  let r := slice a 32 16
  let h := rfHandle r
  let k := rfKey r
  if lock.isNone then writeRefused s b
  else
    match readTail s 3 h k (rfValid r) with
    | .error f => bauFailed s b f
    | .ok t =>
      let hd := tailHeader t
      let pw := 32 * (bfld hd 1 0 5 + 1)
      let v := rfValid r
      if bCount w ≠ 2 * v * pw then ⟨stFormat, 0, [], s⟩
      else
        let xs := chunks pw (2 * v) (opndRead s (opndOf (slice a 0 16)) (bCount w))
        let fmt := hdFmt hd
        let pay (l : List (List Nat)) : Bytes := padTo 8192 (l.flatMap (rowEnc fmt))
        let payload := pay (xs.take v) ++ pay (xs.drop v)
        let hd := putF (putF hd 8 0 9 v) 2 5 1 1
        let s := slotWrite s h 0 payload
        let s := slotWrite s h 0x4000 (sealTail (lineChecks payload ++ glossOf pw ((xs.take v).map (stored fmt)) ++ hd))
        ⟨stOk, 0, [], wrote s h 0⟩

/-- SiLU (R175). -/
def silu (x : Nat) : Nat :=
  fMul .rn x (fDiv .rn fOne (fAdd .rn fOne (fExp2 .rn (fMul .rn (fNegate x) fL2E))))

/-- GELU in its tanh form, each step RN (R175): the order of the steps and the rounding of √(2/π) and
0.044715 to binary32 are the model's (log entry 223). -/
def gelu (x : Nat) : Nat :=
  let x3 := fMul .rn (fMul .rn x x) x
  let u := fMul .rn 0x3F4C422A (fAdd .rn x (fMul .rn 0x3D372713 x3))
  fMul .rn (fMul .rn 0x3F000000 x) (fAdd .rn fOne (fTanh .rn u))

/-- One element of `ELEMENTWISE` (R175). -/
def elemOp (op aux : Nat) (x y : Nat) : Nat :=
  match op with
  | 0 => fAdd .rn x y
  | 1 => fMul .rn x y
  | 2 => fMul .rn x aux
  | 3 => silu x
  | 4 => gelu x
  | _ => fMul .rn (silu x) y

/-- Share `j` of a list dealt to `k` BAUs. -/
def dealt {α : Type} (k j : Nat) (l : List α) : List α := ((l.zipIdx).filter fun e => e.2 % k == j).map (·.1)

/-- The sum of squares of a vector over k BAUs (R91, R188). -/
def sumSquares (k : Nat) (x : List Nat) : Nat :=
  let gs := (chunks 32 x.length (x.map fun v => fMul .rn v v)).map groupSum
  seqSum ((((List.range k).map fun j => dealt k j gs).filter fun l => !l.isEmpty).map seqSum)

/-- One vector of `RMSNORM` (R175, R188). -/
def rmsVec (k eps : Nat) (x w : List Nat) : List Nat :=
  let n := roundFrac .rn false x.length 1 0
  let r := fRsqrt (fAdd .rn (fDiv .rn (sumSquares k x) n) eps)
  List.zipWith (fun a b => fMul .rn (fMul .rn a r) b) x w

/-- The reduced row of `GATHER_REDUCE` (R175, R188). -/
def gatherRow (k : Nat) (n : Nat) (rows : List (Nat × List Nat)) : List Nat :=
  let part (l : List (Nat × List Nat)) : List Nat :=
    l.foldl (fun acc e => List.zipWith (fun x y => fFma .rn e.1 x y) e.2 acc) (List.replicate n 0)
  let ps := ((List.range k).map fun j => dealt k j rows).filter fun l => !l.isEmpty
  match ps.map part with
  | [] => List.replicate n 0
  | p :: r => r.foldl (fun x y => List.zipWith (fun a b => fAdd .rn a b) x y) p

/-- What a running command does when it completes (Table 06.4).  `GATHER_REDUCE` gives its row in FP32 whatever the format of
its table (log entry 224). -/
def bauEffect (s : State) (b : Nat) (e : BauEntry) : BauEnd :=
  let w := e.cmd.word
  let a := e.arg
  let op := bOp w
  let n := bCount w
  let at16 (k : Nat) : Opnd := opndOf (slice a (16 * k) 16)
  if op = opGloss then
    match bauGloss s b a 0 n with
    | .ok r => ⟨stOk, 0, r, s⟩
    | .error x => x
  else if op = opAttendPage then bauAttend s b a
  else if op = opAppendRows then bauAppend s b e
  else if op = opRequant then
    if requantPage w then bauRequantPage s b w a e.lock
    else ⟨stOk, 0, [], writeMem s (bTarget w) (opndEnc (at16 1) (bAux1 w) (opndRead s (at16 0) n))⟩
  else if op = opRms then
    let l := (at16 0).ele
    let wt := vecDec (at16 1).fmt l (readMem s (at16 1).addr (vecBytes (at16 1).fmt l))
    let vec (v : Nat) : List Nat :=
      vecDec (at16 0).fmt l (readMem s ((at16 0).addr + v * vecBytes (at16 0).fmt l) (vecBytes (at16 0).fmt l))
    let out := (List.range n).flatMap fun v => vecEnc (at16 2).fmt (bAux1 w) (rmsVec (bSpan w) (bAux0 w) (vec v) wt)
    ⟨stOk, 0, [], writeMem s (at16 2).addr out⟩
  else if op = opElem then
    let f := bFlags w % 16
    let x := opndRead s (at16 0) n
    let y := if elemTwo f then opndRead s (at16 1) n else x
    let d := at16 (if elemTwo f then 2 else 1)
    ⟨stOk, 0, [], writeMem s d.addr (opndEnc d (bAux1 w) (List.zipWith (elemOp f (bAux0 w)) x y))⟩
  else if op = opGather then
    let l := (at16 0).ele
    let rb := vecBytes (at16 0).fmt l
    let row (i : Nat) : Nat × List Nat :=
      (if bFlags w % 2 = 1 then num a (16 + 4 * n + 4 * i) 4 else fOne,
       vecDec (at16 0).fmt l (readMem s ((at16 0).addr + gatherIdx a i * rb) rb))
    let out := (gatherRow (bSpan w) l ((List.range n).map row)).flatMap (natLe 4)
    if bFlags w < 2 then ⟨stOk, 0, [], writeMem s (bTarget w) out⟩ else ⟨stOk, 0, out, s⟩
  else
    let lo := 2 ^ 30 * (bTarget w % 128) + 128 * (bTarget w / 128)
    ⟨stOk, 0, [], zeroWhere s fun k => decide (lo ≤ k ∧ k < lo + 128 * n)⟩

/-- MCLK cycles of a span of ACLK cycles: 752 MHz of 940 MHz (R158). -/
def mclk (n : Nat) : Nat := n * 4 / 5

/-! ## Completions (R176) -/

/-- The completion record. -/
def bauRecord (w : Bytes) (status bau info : Nat) : Bytes :=
  natLe 4 (bTag w) ++ [BitVec.ofNat 8 status, BitVec.ofNat 8 (bOp w), BitVec.ofNat 8 bau, 0] ++ natLe 8 info

/-- Write a result block where it lies in the job's windows (R204). -/
def putResult (s : State) (n a : Nat) (r : Bytes) : State :=
  match jobAt s n with
  | some j => (r.zipIdx).foldl (fun s (b, i) => if inRanges (jWindows j.desc) (a + i) 1 then writeByte s (a + i) b else s) s
  | none => s

/-- Return a command's completion record and result block to its issuer (R176, R204). -/
def bauReply (s : State) (c : BauCmd) (ticket status bau info : Nat) (result : Bytes) : State :=
  match c.issuer with
  | .thread n i => setTicket (putResult s n c.result result) n i ticket status
  | _ => emit s (.bauDone c.bbd (bauRecord c.word status bau info) result)

/-! ## Arrival (R168, R169) -/

/-- The half of the store an issuer writes (R168). -/
def inHalf (i : Issuer) (off len : Nat) : Bool :=
  match i with
  | .dispatch => decide (off + len ≤ 0x8000)
  | _ => decide (0x8000 ≤ off ∧ off + len ≤ 0x10000)

/-- The slot a command writes by locked writes (R183). -/
def lockOf (e : BauEntry) : Option Nat :=
  if bOp e.cmd.word = opAppendRows then some (rfHandle (slice e.arg 16 16))
  else if bOp e.cmd.word = opRequant ∧ requantPage e.cmd.word = true then some (rfHandle (slice e.arg 32 16))
  else none

/-- A command word enters a BBD: it is refused, or queued. -/
def enterQueue (s : State) (c : BauCmd) (ticket : Nat) : State :=
  if s.power.retain ≠ .out then bauReply s c ticket stAborted (bBau c.word) 0 []
  else
    match bauRefusal s c with
    | some st => bauReply s c ticket st (bBau c.word) 0 []
    | none =>
      updBbd s c.bbd fun x =>
        { x with nextId := x.nextId + 1,
                 queue := x.queue ++ [⟨x.nextId, c, ticket, [], argOf x c.word, 0, none, 0, none⟩] }

/-- The item at the front of an issuer's order can enter now (R168, R169). -/
def mayEnter (x : Bbd) : BbdItem → Bool
  | .store _ off d =>
    !(x.queue.any fun e => overlaps off d.length (bArgOff e.cmd.word) (bArgLen e.cmd.word))
  | .command _ _ => decide ((queuedCmds x).length < 256)
  | .work _ => decide ((queuedCmds x).length < 256)

/-- Let waiting items enter, in arrival order, each issuer's in its own order (R168, R169). -/
def admitItems (b : Nat) : List BbdItem → List BbdItem → State → State
  | [], kept, s => updBbd s b fun x => { x with held := kept }
  | it :: r, kept, s =>
    if (kept.any fun k => k.issuer == it.issuer) || !(mayEnter (bbdOf s b) it) then admitItems b r (kept ++ [it]) s
    else
      match it with
      | .store i off d =>
        admitItems b r kept
          (if inHalf i off d.length then updBbd s b fun x => { x with store := segWrite x.store off d } else s)
      | .command c t => admitItems b r kept (enterQueue s c t)
      | .work w => admitItems b r kept (enterWork s b w)

/-- The NPA of the first line of the BBD's devices that a command reads or writes. -/
def cmdNpa (s : State) (w a : Bytes) : Nat :=
  let op := bOp w
  if op = opGloss ∨ op = opAttendPage then slotNpa s (rfHandle (slice a (apRefs a) 16))
  else if op = opAppendRows then slotNpa s (rfHandle (slice a 16 16))
  else if op = opRequant ∨ op = opRms ∨ op = opElem ∨ op = opGather then (opndOf (slice a 0 16)).addr
  else bTarget w

/-- A command meets its BBD out of service: its accesses fail, which is logged, and it completes with `UNCORRECTABLE` (R161). -/
def cmdFails (s : State) (bau : Nat) (c : BauCmd) (ticket : Nat) (a : Bytes) : State :=
  let n := cmdNpa s c.word a
  bauReply (logFailure s { cause := 10, source := 3, channel := some (place s n).1, handle := n }) c ticket stUncorrectable bau n []

/-- Every lock of a BBD is released: the time that node-die reads waited on it is summed (R183, R184). -/
def dropLocks (s : State) (b : Nat) : State :=
  let x := bbdOf s b
  let s := bumpR s (rBbLockWait b) (sumOf (x.locks.flatMap fun l => l.2.map fun r => mclk (elapsed s r.2)))
  setBbd s b { x with locks := [] }

/-- The page reference of a page-destination `REQUANT`. -/
def requantRef (e : BauEntry) : Option Bytes :=
  if bOp e.cmd.word = opRequant ∧ requantPage e.cmd.word = true then some (slice e.arg 32 16) else none

/-- A `REQUANT` that leaves its queue has its page flipped no more (R75). -/
def leaveRequant (s : State) (e : BauEntry) : State :=
  match requantRef e with
  | none => s
  | some r =>
    let k := rfKey r
    let d := ctxBytes s k.ctx
    leaveEdit s (.requant k.ctx k.layer (k.first / dP d / dW d) k.kv)

/-- Everything that waits on a BBD fails: it is out of service (R161).  What the dispatch had sent there goes back to it, and the
failure is met where the page is read. -/
def bbdFails (s : State) (b : Nat) : State :=
  let x := bbdOf s b
  let s := updBbd (dropLocks s b) b fun x => { x with queue := [], held := [] }
  let s := x.queue.foldl (fun s e => match e.work with
    | some w => workReturned s w
    | none => cmdFails (leaveRequant s e) (e.baus.headD (bBau e.cmd.word)) e.cmd e.ticket e.arg) (pokeTest s)
  x.held.foldl (fun s it => match it with
    | .command c t => cmdFails s (bBau c.word) c t (argOf x c.word)
    | .work w => workReturned s w
    | .store _ _ _ => s) s

/-- Let the traffic of a BBD go on: it waits while the link retrains, and fails out of service (R161). -/
def pokeBbd (s : State) (b : Nat) : State :=
  if !(bbdUp s b) then bbdFails s b
  else if (bbdOf s b).retrain.isSome then s
  else admitItems b (bbdOf s b).held [] s

/-- A store write or a command word arrives at a BBD (R168). -/
def arrive (s : State) (b : Nat) (it : BbdItem) : State := pokeBbd (updBbd s b fun x => { x with held := x.held ++ [it] }) b

/-! ## Permits and BAUs (R177 to R179, R457) -/

def bauKey (b i : Nat) : Nat := 2 ^ 16 + 16 * b + i

/-- A BAU is idle and takes commands. -/
def bauIdle (s : State) (b i : Nat) : Bool :=
  !((bbdOf s b).queue.any fun e => e.baus.contains i) && (mapGet s.lx.supplete (bauKey b i)).isNone

/-- The BAUs a command would take now: the lowest idle ones, or the one it names and those after it (log entry 9). -/
def bausFor (s : State) (b : Nat) (w : Bytes) : Option (List Nat) :=
  let n := activeBaus s b
  let k := bSpan w
  if bAny w then
    let l := ((List.range n).filter (bauIdle s b)).take k
    if l.length = k then some l else none
  else
    let l := (List.range k).map fun j => (bBau w + j) % n
    if k ≤ n ∧ l.all (bauIdle s b) = true then some l else none

/-- Every earlier command of the same issuer has completed (R169). -/
def orderedOk (x : Bbd) (e : BauEntry) : Bool :=
  !(bOrdered e.cmd.word) || !((x.queue.takeWhile fun y => y.id != e.id).any fun y => y.cmd.issuer == e.cmd.issuer)

/-- The slots of the page that a reference names, as its map holds it: die-owned, all of them in the BBD, that of the reference
in its place. -/
def requantHome (s : State) (b : Nat) (r : Bytes) : Option (List Nat) :=
  let k := rfKey r
  let d := ctxBytes s k.ctx
  let n := k.first / dP d / dW d
  if auxState s k.ctx = 0 ∨ auxState s k.ctx = 5 ∨ ctxGood s k.ctx = false ∨ dLayers d ≤ k.layer ∨ dHeads d ≤ k.kv
      ∨ k.first ≠ firstPos d n then none
  else
    match readPage s 1 k.ctx d k.layer k.kv n with
    | .present hs 0 _ => if pageBbd hs = some b ∧ hs[k.part]? = some (rfHandle r) then some hs else none
    | _ => none

/-- A page-destination `REQUANT` needs its page bank-owned: the node flips a die-owned `PRESENT` page, and the command waits for
the grant (R182).  `error` waits. -/
def flipRequant (s : State) (b : Nat) (e : BauEntry) : Except State State :=
  match requantRef e with
  | none => .ok s
  | some r =>
    match grantOf s (rfHandle r) with
    | some g => if g.granted || g.releasing then .ok s else .error s
    | none =>
      match requantHome s b r with
      | none => .ok s
      | some hs =>
        let k := rfKey r
        let d := ctxBytes s k.ctx
        let n := k.first / dP d / dW d
        if moveLocks s k.ctx k.layer n k.kv || opLocks s k.ctx k.layer n k.kv then .error s
        else
          match flipToBank s k.ctx k.layer n k.kv hs (.requant k.ctx k.layer n k.kv) with
          | .done s => .error s
          | .waits s => .error s
          | .failed s => .ok s

/-- The slot whose lock a command takes when it starts: the page it writes, if that is granted (R181, R183). -/
def lockFor (s : State) (e : BauEntry) : Option Nat := (lockOf e).filter (mayWrite s)

/-- Too few permits are free for the oldest request, which waits for nothing else (R178). -/
def awaitsPermits (s : State) (b : Nat) : Bool :=
  match queuedCmds (bbdOf s b) with
  | [] => false
  | e :: _ =>
    linkUp s b && orderedOk (bbdOf s b) e && !(((lockFor s e).map (slotLocked s)).getD false)
      && decide (permitLimit s b < permitsHeld (bbdOf s b) + bSpan e.cmd.word)

/-- A cycle passes in which the requests of a BBD wait for permits (R178). -/
def countPermits (s : State) : State :=
  let wait (y : BauEntry) : BauEntry := if y.baus.isEmpty then { y with waited := y.waited + 1 } else y
  { s with bb := { s.bb with bbd := s.bb.bbd.map fun (e : Nat × Bbd) =>
    (e.1, if awaitsPermits s e.1 then { e.2 with queue := e.2.queue.map wait } else e.2) } }

/-- A command starts on its BAUs, with its permits and its lock (R177, R178, R183). -/
def startBau (s : State) (b : Nat) (e : BauEntry) (baus : List Nat) : State :=
  let lock := lockFor s e
  let go (y : BauEntry) : BauEntry := if y.id = e.id then { y with baus := baus, lock := lock } else y
  let s := updBbd s b fun x =>
    { x with queue := x.queue.map go, locks := (lock.map fun h => mapPut x.locks h []).getD x.locks }
  bumpR s (rBbPermitWait b) (mclk e.waited)

/-- Grant the oldest request of a BBD its permits and BAUs (R177, R178). -/
def grantOldest (s : State) (b : Nat) : State :=
  match queuedCmds (bbdOf s b) with
  | [] => s
  | e :: _ =>
    if !(linkUp s b) || !(orderedOk (bbdOf s b) e) then s
    else
      match flipRequant s b e with
      | .error s => s
      | .ok s =>
        if ((lockFor s e).map (slotLocked s)).getD false || awaitsPermits s b then s
        else
          match bausFor s b e.cmd.word with
          | none => s
          | some l => startBau s b e l

/-! ## Streams and refreshes (R185, R186) -/

/-- The channels of the lines of a run of node memory; a device's four take its lines in turn (R165). -/
def runChans (s : State) (a n : Nat) : List Nat :=
  (List.range (min 4 (ceilDiv (a % 128 + n) 128))).map fun i => (place s (a + 128 * i)).1

/-- The channels that a command streams (R185): those of the lines of its operands. -/
def streams (s : State) (e : BauEntry) : List Nat :=
  let w := e.cmd.word
  let a := e.arg
  let op := bOp w
  let n := bCount w
  let at16 (k : Nat) : Opnd := opndOf (slice a (16 * k) 16)
  let tail (k : Nat) : List Nat := runChans s (slotNpa s (rfHandle (slice a k 16)) + 0x4000) 512
  let opd (k m : Nat) : List Nat := runChans s (at16 k).addr (opndBytes (at16 k) m)
  let vecs (k m : Nat) : List Nat := runChans s (at16 k).addr (m * vecBytes (at16 k).fmt (at16 k).ele)
  if e.work.isSome then
    (e.work.toList.flatMap fun x => x.pages.flatMap (·.2)).flatMap fun h => runChans s (slotNpa s h + 0x4000) 512
  else if op = opGloss ∨ op = opAttendPage then
    (List.range (apParts a * (if op = opGloss then n else 1))).flatMap fun k => tail (apRefs a + 16 * k)
  else if op = opAppendRows then tail 16
  else if op = opRequant then
    opd 0 n ++ (if requantPage w then tail 32 else runChans s (bTarget w) (opndBytes (at16 1) n))
  else if op = opRms then vecs 0 n ++ vecs 1 1 ++ vecs 2 n
  else if op = opElem then opd 0 n ++ opd 1 n ++ (if elemTwo (bFlags w % 16) then opd 2 n else [])
  else if op = opGather then
    ((List.range n).flatMap fun i =>
      runChans s ((at16 0).addr + gatherIdx a i * vecBytes (at16 0).fmt (at16 0).ele) (vecBytes (at16 0).fmt (at16 0).ele))
      ++ (if bFlags w < 2 then runChans s (bTarget w) (4 * (at16 0).ele) else [])
  else [bTarget w % 128]

def refreshOf (s : State) (c : Nat) : Refresh := (mapGet s.bb.refresh c).getD ⟨0, false⟩
def setRefresh (s : State) (c : Nat) (r : Refresh) : State :=
  { s with bb := { s.bb with refresh := if r = ⟨0, false⟩ then mapDel s.bb.refresh c else mapPut s.bb.refresh c r } }

/-- The running commands that stream a channel. -/
def streamers (s : State) (c : Nat) : List BauEntry :=
  (bbdOf s (c / 16)).queue.filter fun e => !e.baus.isEmpty && (streams s e).contains c

/-- The postponed refreshes of a channel that nothing streams issue at once (R186). -/
def issueRefreshes (s : State) (cs : List Nat) : State :=
  cs.foldl (fun s c => if (streamers s c).isEmpty then setRefresh s c ⟨0, false⟩ else s) s

/-! ## The end of a command -/

/-- The recorded failures of a BBD's BAUs. -/
def failedBausOf (s : State) (b : Nat) : List Nat := (s.tn.failedBaus.filter fun k => k / 32 == b).map (· % 32)

/-- The physical BAUs behind a BBD's indices, and its spares (R14, R15). -/
def bauUnits (s : State) (b : Nat) : List Nat × List Nat := assignUnits 16 [16, 17] (failedBausOf s b)

/-- The replacement of a BAU ends once it runs nothing (R455, R457). -/
def suppleteBau (s : State) (b i : Nat) : State :=
  match mapGet s.lx.supplete (bauKey b i) with
  | none => s
  | some refs =>
    if (bbdOf s b).queue.any fun e => e.baus.contains i then s
    else
      let s := updBbd s b fun x => { x with spares := x.spares - 1 }
      let s := commit { s with tn := { s.tn with failedBaus := s.tn.failedBaus ++ [32 * b + (bauUnits s b).1.getD i i] },
                               lx := { s.lx with supplete := mapDel s.lx.supplete (bauKey b i) } } 5
      finishAll s refs stOk 0

/-- A command lets go of its lock: the time that node-die reads waited on it is summed (step 8 of R183, R184). -/
def dropLock (s : State) (b : Nat) (lock : Option Nat) : State :=
  match lock with
  | none => s
  | some h =>
    let rs := (mapGet (bbdOf s b).locks h).getD []
    let s := bumpR s (rBbLockWait b) (sumOf (rs.map fun r => mclk (elapsed s r.2)))
    updBbd s b fun x => { x with locks := mapDel x.locks h }

/-- A running command completes as `r` says: its record and result, its permits, BAUs and lock, and what waited for them (R168,
R176, R178, R183, R184, R186). -/
def closeBau (s : State) (b : Nat) (e : BauEntry) (r : BauEnd) : State :=
  let cs := streams s e
  let s := updBbd (dropLock r.s b e.lock) b fun x => { x with queue := x.queue.filter fun y => y.id != e.id }
  let s := match e.work with
    | some w => workReturned s w
    | none => bauReply s e.cmd e.ticket r.status (e.baus.headD 0) r.info r.result
  let s := e.baus.foldl (fun s i => suppleteBau s b i) (issueRefreshes s cs)
  let s := pokeTest (pokeBbd s b)
  if e.lock.isSome then pokeOps s else s

/-- A running command completes with its effect; what one of the dispatch computes is taken where the fold reads the page (R180;
log entry 20). -/
def endBau (s : State) (b : Nat) (e : BauEntry) : State :=
  closeBau s b e (if e.work.isSome then ⟨stOk, 0, [], s⟩ else bauEffect s b e)

/-- Change a command in a BBD's queue. -/
def updEntry (s : State) (b id : Nat) (f : BauEntry → BauEntry) : State :=
  updBbd s b fun x => { x with queue := x.queue.map fun y => if y.id = id then f y else y }

/-- The lock of the next row of an `APPEND_ROWS` is taken, while the page is granted and no other command holds it (R181, R183). -/
def takeRowLock (s : State) (b : Nat) (e : BauEntry) : State :=
  match lockFor s e with
  | none => s
  | some h =>
    if bOp e.cmd.word ≠ opAppendRows ∨ e.lock.isSome = true ∨ bCount e.cmd.word ≤ e.rows ∨ slotLocked s h = true then s
    else
      updEntry (updBbd s b fun x => { x with locks := mapPut x.locks h [] }) b e.id fun y => { y with lock := some h }

/-- The row of an `APPEND_ROWS` whose lock is held is written, and the lock released (R183): what waited for it goes on.  A row
that cannot be written ends the command. -/
def endRow (s : State) (b : Nat) (e : BauEntry) : State :=
  if bOp e.cmd.word ≠ opAppendRows ∨ e.lock.isNone = true ∨ bCount e.cmd.word ≤ e.rows then s
  else
    match appendOne s b e.cmd.word e.arg e.rows with
    | .error r => closeBau s b e r
    | .ok s => pokeOps (pokeTest (updEntry (dropLock s b e.lock) b e.id fun y => { y with lock := none, rows := e.rows + 1 }))

/-- Rows of an `APPEND_ROWS` are still to be written, and another command holds the lock of the slot (R183). -/
def rowsWait (s : State) (e : BauEntry) : Bool :=
  decide (bOp e.cmd.word = opAppendRows ∧ e.rows < bCount e.cmd.word) && e.lock.isNone && ((lockFor s e).map (slotLocked s)).getD false

/-- What a BAU reports of its command (R176, R183). -/
def bauReport (s : State) (b : Nat) (e : BauEntry) : BauPhase → State
  | .done => if rowsWait s e then s else endBau s b e
  | .lock => takeRowLock s b e
  | .row => endRow s b e

end Sys2Proof.Machine
end

