-- ==== Sys2Proof/Machine/Te.lean ====
section
/-!
DEFINITION. Machine/Te.lean: tensor engine commands (R193 to R198): what each computes from the issuing context's way, and
the command queues.
-/

namespace Sys2Proof.Machine

/-! ## Command words (Table 07.3) -/

def tOp (w : Bytes) : Nat := num w 0 1
def tA (w : Bytes) : Nat := bfld w 0 8 3
def tB (w : Bytes) : Nat := bfld w 0 11 3
def tClear (w : Bytes) : Bool := decide (bfld w 0 14 1 = 1)
def tOut (w : Bytes) : Nat := bfld w 0 15 2
def tDot (w : Bytes) : Bool := decide (bfld w 0 17 1 = 1)
def tM (w : Bytes) : Nat := num w 4 1
def tN (w : Bytes) : Nat := num w 5 1
def tKg (w : Bytes) : Nat := num w 6 2
def tAOff (w : Bytes) : Nat := bfld w 8 0 18
def tBOff (w : Bytes) : Nat := bfld w 0x0C 0 18
def tCOff (w : Bytes) : Nat := bfld w 0x10 0 18
def tSOff (w : Bytes) : Nat := bfld w 0x14 0 18
def tAux (w : Bytes) : Nat := num w 0x18 4
def tTag (w : Bytes) : Nat := num w 0x1C 4

def opMatmul : Nat := 1
def opScore : Nat := 2
def opFold : Nat := 3
def opBound : Nat := 4
def opConjoin : Nat := 5

/-- A format code: BF16, FP8 E4M3, FP8 E5M2, MXFP4, and T2, K4S of B, INT8 of A. -/
inductive TeFmt where
  | bf16 | e4m3 | e5m2 | mx4 | int8 | t2 | k4s
deriving DecidableEq, Repr

def fmtA (w : Bytes) : Option TeFmt := [TeFmt.bf16, .e4m3, .e5m2, .mx4, .int8][tA w]?
def fmtB (w : Bytes) : Option TeFmt := [TeFmt.bf16, .e4m3, .e5m2, .mx4, .t2, .k4s][tB w]?

def TeFmt.isFp8 : TeFmt → Bool
  | .e4m3 | .e5m2 => true
  | _ => false

/-- The pairs a TE accepts (R194). -/
def pairOk : TeFmt → TeFmt → Bool
  | a, .t2 => a == .int8 || a.isFp8
  | .mx4, .mx4 => true
  | a, b => (a == .bf16 || a.isFp8) && (b == .bf16 || b.isFp8 || b == .k4s)

/-- Bytes of `k` elements (R194). -/
def teBytes (f : TeFmt) (k : Nat) : Nat := match f with
  | .bf16 => 2 * k
  | .mx4 | .k4s => k / 2
  | .t2 => k / 4
  | _ => k

/-- A row padded to a multiple of 128 bytes (R194). -/
def pad128 (n : Nat) : Nat := 128 * ceilDiv n 128

/-- Bytes of the elements of a result format. -/
def outBytes (f : Nat) : Nat := match f with
  | 0 => 4
  | 1 => 2
  | _ => 1

/-- Decode a C operand (R195). -/
def outDec (f v : Nat) : Nat := match f with
  | 0 => v
  | 1 => bf16Dec v
  | 2 => e4m3Dec v
  | _ => e5m2Dec v

/-- Encode a result (R89, R195). -/
def outEnc (f v : Nat) : Bytes := match f with
  | 0 => natLe 4 (fCanon v)
  | 1 => natLe 2 (bf16Enc v)
  | 2 => natLe 1 (e4m3Enc v)
  | _ => natLe 1 (e5m2Enc v)

/-- Element `k` of a packed row; `scale` is the scale byte of its group, 1.0 for MXFP4 (R194, R195). -/
def teElem (f : TeFmt) (row : Bytes) (scale k : Nat) : Nat := match f with
  | .bf16 => bf16Dec (num row (2 * k) 2)
  | .e4m3 => e4m3Dec (num row k 1)
  | .e5m2 => e5m2Dec (num row k 1)
  | .mx4 => mx4Dec (bfld row (k / 2) (4 * (k % 2)) 4) 127
  | .k4s => k4sDec (bfld row (k / 2) (4 * (k % 2)) 4) scale
  | .t2 =>
    match bfld row (k / 4) (2 * (k % 4)) 2 with
    | 1 => fOne
    | 3 => fNegate fOne
    | _ => 0
  | .int8 =>
    let v := num row k 1
    fOf (decide (128 ≤ v)) (if 128 ≤ v then 256 - v else v) 0

/-- A binary32 value that is a whole number, as an integer. -/
def wholeOf (x : Nat) : Int := match fDec x with
  | .fin neg m e => sInt neg (if 0 ≤ e then m * 2 ^ e.toNat else m / 2 ^ (-e).toNat)
  | _ => 0

/-- A value multiplied by 2^e, rounded once (R195). -/
def scaleBy (x : Nat) (e : Int) : Nat := match fDec x with
  | .fin neg m f => roundFrac .rn neg m 1 (f + e)
  | _ => x

/-- The sum of group `g` of a row of A and a row of B, with their scale bytes (R195). -/
def teGroup (fa fb : TeFmt) (ra rb : Bytes) (sa sb g : Nat) : Nat :=
  let xs := (List.range 32).map fun c => teElem fa ra sa (32 * g + c)
  let ys := (List.range 32).map fun c => teElem fb rb sb (32 * g + c)
  if fa = .int8 then
    let t := (List.zipWith (fun x y => wholeOf x * wholeOf y) xs ys).foldl (· + ·) 0
    fOf (decide (t < 0)) t.natAbs 0
  else
    let t := groupSum (List.zipWith (fMul .rn) xs ys)
    if fa = .mx4 then
      if sa = 255 ∨ sb = 255 then fNan else scaleBy t ((sa : Int) + (sb : Int) - 254)
    else t

/-! ## The commands -/

/-- The operands in a way. -/
structure TeView where
  m : List Host.Cell
  w : Bytes

def TeView.get (v : TeView) (off n : Nat) : Bytes := segRead v.m off n

/-- `MATMUL` (R195): the result bytes, row by row. -/
def teMatmul (v : TeView) (fa fb : TeFmt) : Bytes :=
  let w := v.w
  let kg := tKg w
  let la := pad128 (teBytes fa (32 * kg))
  let lb := pad128 (teBytes fb (32 * kg))
  let aScales := if fa = .mx4 then tM w * kg else 0
  let t2 := decide (fb = .t2)
  (List.range (tM w)).flatMap fun m =>
    let ra := v.get (tAOff w + m * la) la
    (List.range (tN w)).flatMap fun n =>
      let rb := v.get (tBOff w + n * lb) lb
      let c := outDec (tOut w) (leNat (v.get (tCOff w + (m * tN w + n) * outBytes (tOut w)) (outBytes (tOut w))))
      let sa (g : Nat) : Nat := if fa = .mx4 then leNat (v.get (tSOff w + m * kg + g) 1) else 0
      let sb (g : Nat) : Nat :=
        if fb = .mx4 ∨ fb = .k4s then leNat (v.get (tSOff w + aScales + n * kg + g) 1) else 0
      let ts := (List.range kg).map fun g => teGroup fa fb ra rb (sa g) (sb g) g
      let fresh := tClear w || t2
      let acc := match ts with
        | [] => if fresh then 0 else c
        | t :: r => r.foldl (fAdd .rn) (if fresh then t else fAdd .rn c t)
      let acc := if t2 then
          let y := fMul .rn (fMul .rn acc (bf16Dec (leNat (v.get (tSOff w + 2 * n) 2)))) (tAux w)
          if tClear w then y else fAdd .rn c y
        else acc
      outEnc (tOut w) acc

/-- The attend parameters of a command (Table 06.6, R197). -/
def teParams (v : TeView) : Bytes := v.get (tSOff v.w) 32
/-- H, the head width (R197). -/
def teWidth (a : Bytes) : Nat := 32 * (bfld a 0 9 5 + 1)
/-- The query position of row `m`. -/
def tePos (v : TeView) (m : Nat) : Nat := leNat (v.get (tSOff v.w + 32 + 4 * m) 4)

/-- The cache format of `B_FMT`; none for T2 (R197). -/
def cacheB (w : Bytes) : Option Nat := [some 0, some 1, some 2, some 3, none, some 4].getD (tB w) none

/-- Query row `m`. -/
def teQuery (v : TeView) (h m : Nat) : List Nat :=
  let l := pad128 (rowBytes (tA v.w) h)
  rowDec (tA v.w) h (v.get (tAOff v.w + m * l) l)

/-- The width of the page part that a `SCORE` reads (R197, Table 03.2): the full width of a part other than the last with
`DOT_ONLY`, else that of the last part, which is the whole head where S = 1 (log entry 24). -/
def scoreWidth (w : Bytes) (f h : Nat) : Nat := if tDot w then partWidth f h 0 else partWidth f h (partsOf f h - 1)

/-- `SCORE` (R91 to R93, R197): column n stands for position n (log entry 24). -/
def teScore (v : TeView) (f h : Nat) : Bytes :=
  let w := v.w
  let a := teParams v
  let cfg : ScoreCfg := ⟨num a 4 4, decide (bfld a 0 7 1 = 1), num a 8 4⟩
  let bit (k : Nat) : Bool := decide (bfld a 0 k 1 = 1)
  let mask : MaskCfg := ⟨bit 4, bit 5, num a 0x0C 4, bit 6, num a 0x10 4, if bit 8 then some (num a 0x14 4) else none⟩
  let rb := rowBytes f h
  let keys := (List.range (tN w)).map fun n => rowDec f h (v.get (tBOff w + n * rb) rb)
  (List.range (tM w)).flatMap fun m =>
    let q := teQuery v h m
    (keys.zipIdx).flatMap fun (k, n) =>
      let ts := (chunks 32 h (List.zipWith (fMul .rn) q k)).map groupSum
      let c := leNat (v.get (tCOff w + 4 * (m * tN w + n)) 4)
      let d := if tClear w then seqSum ts else ts.foldl (fAdd .rn) c
      natLe 4 (if tDot w then d else if visible mask (tePos v m) n then scoreOf cfg d else fNegInf)

/-- Row record `m` at an offset. -/
def teRec (v : TeView) (off h m : Nat) : RowRec := rowOfBytes false h (v.get (off + m * (8 + 4 * h)) (8 + 4 * h))

/-- The bytes of N rows of a head, part after part (R54). -/
def foldBytes (f h n : Nat) : Nat := ((List.range (partsOf f h)).map fun p => n * rowBytes f (partWidth f h p)).sum

/-- Row `n` of N rows of a head that lies part after part, each part's rows as its slot holds them (R54; log entry 24). -/
def foldRow (v : TeView) (f h n : Nat) : List Nat :=
  (List.range (partsOf f h)).flatMap fun p =>
    let rb := rowBytes f (partWidth f h p)
    rowDec f (partWidth f h p)
      (v.get (tBOff v.w + ((List.range p).map fun q => tN v.w * rowBytes f (partWidth f h q)).sum + n * rb) rb)

/-- `FOLD` (R106, R197): over all the head's channels. -/
def teFold (v : TeView) (f h : Nat) : Bytes :=
  let w := v.w
  let vals := (List.range (tN w)).map (foldRow v f h)
  let l := pad128 (4 * tN w)
  (List.range (tM w)).flatMap fun m =>
    let start := if tClear w then emptyRow h else teRec v (tCOff w) h m
    rowBytesOf false ((vals.zipIdx).foldl (fun r e =>
      conjoinRow r (singleton (leNat (v.get (tAOff w + m * l + 4 * e.2) 4)) e.1)) start)

/-- The tails that a `BOUND` reads: one of each part of a head of the format that the first tail's header names (R54, R112;
log entry 24). -/
def boundParts (v : TeView) (h : Nat) : Nat := partsOf (hdFmt (v.get (tBOff v.w + 0x1E0) 32)) h

/-- `BOUND` (R112, R197): over all H channels, the tails of the page's parts one after another. -/
def teBound (v : TeView) (h : Nat) : Bytes :=
  let a := teParams v
  let f := hdFmt (v.get (tBOff v.w + 0x1E0) 32)
  let gs := (List.range (boundParts v h)).map fun p => glossBounds (partWidth f h p) (v.get (tBOff v.w + 512 * p + 0x100) 224)
  let cfg : ScoreCfg := ⟨num a 4 4, decide (bfld a 0 7 1 = 1), num a 8 4⟩
  (List.range (tM v.w)).flatMap fun m =>
    natLe 4 (if gs.any (·.2) then fInf false else pageBound cfg (teQuery v h m) (gs.flatMap (·.1)))

/-- `CONJOIN` (R100): C first. -/
def teConjoin (v : TeView) (h : Nat) : Bytes :=
  (List.range (tM v.w)).flatMap fun m =>
    rowBytesOf false (conjoinRow (if tClear v.w then emptyRow h else teRec v (tCOff v.w) h m) (teRec v (tAOff v.w) h m))

/-! ## Refusals (R193, R194, R196) -/

/-- The command breaks its form. -/
def teBad (v : TeView) : Bool :=
  let w := v.w
  let op := tOp w
  let a := teParams v
  let attn := decide (op = opScore ∨ op = opFold ∨ op = opBound ∨ op = opConjoin)
  decide (op = 0 ∨ 5 < op) || decide (bfld w 0 18 14 ≠ 0) || (fmtA w).isNone || (fmtB w).isNone
    || decide (128 < tM w ∨ 128 < tN w) || (tDot w && decide (op ≠ opScore))
    || ([8, 0x0C, 0x10, 0x14].any fun o => decide (bfld w o 18 14 ≠ 0 ∨ num w o 4 % 128 ≠ 0))
    || decide (tAux w ≠ 0 ∧ ¬(op = opMatmul ∧ fmtB w = some .t2))
    || (decide (op = opMatmul) && match fmtA w, fmtB w with
      | some x, some y => !(pairOk x y)
      | _, _ => true)
    || (attn && decide (bfld a 0 14 18 ≠ 0 ∨ num a 0x18 8 ≠ 0 ∨ 19 < bfld a 0 9 5))
    || decide ((op = opScore ∨ op = opFold ∨ op = opBound) ∧ 32 * tKg w ≠ teWidth a)
    || decide ((op = opScore ∨ op = opBound) ∧ 2 < tA w)
    || (decide (op = opScore ∨ op = opFold) && (cacheB w).isNone)

/-- The operands of a command: offset and bytes. -/
def teOperands (v : TeView) : List (Nat × Nat) :=
  let w := v.w
  let op := tOp w
  let h := teWidth (teParams v)
  let params := (tSOff w, 32 + 4 * tM w)
  let rec_ := tM w * (8 + 4 * h)
  if op = opMatmul then
    match fmtA w, fmtB w with
    | some fa, some fb =>
      let scales := if fb = .t2 then 2 * tN w
        else (if fa = .mx4 then tM w * tKg w else 0) + (if fb = .mx4 ∨ fb = .k4s then tN w * tKg w else 0)
      [(tAOff w, tM w * pad128 (teBytes fa (32 * tKg w))), (tBOff w, tN w * pad128 (teBytes fb (32 * tKg w))),
       (tCOff w, tM w * tN w * outBytes (tOut w)), (tSOff w, scales)]
    | _, _ => []
  else if op = opScore then
    let f := (cacheB w).getD 0
    let pw := scoreWidth w f h
    [(tAOff w, tM w * pad128 (rowBytes (tA w) pw)), (tBOff w, tN w * rowBytes f pw), (tCOff w, 4 * tM w * tN w), params]
  else if op = opFold then
    [(tAOff w, tM w * pad128 (4 * tN w)), (tBOff w, foldBytes ((cacheB w).getD 0) h (tN w)), (tCOff w, rec_), params]
  else if op = opBound then [(tAOff w, tM w * pad128 (rowBytes (tA w) h)), (tBOff w, 512 * boundParts v h), (tCOff w, 4 * tM w), params]
  else [(tAOff w, rec_), (tCOff w, rec_), params]

/-- The result of a command over its way, or why it fails (R196). -/
def teResult (v : TeView) : Except Nat Bytes :=
  let w := v.w
  let op := tOp w
  let h := teWidth (teParams v)
  if teBad v then .error stFormat
  else if (teOperands v).any fun e => decide (segBytes < e.1 + e.2) then .error stLength
  else if op = opMatmul then
    match fmtA w, fmtB w with
    | some fa, some fb => .ok (teMatmul v fa fb)
    | _, _ => .error stFormat
  else if op = opScore then
    let f := (cacheB w).getD 0
    .ok (teScore v f (scoreWidth w f h))
  else if op = opFold then .ok (teFold v ((cacheB w).getD 0) h)
  else if op = opBound then .ok (teBound v h)
  else .ok (teConjoin v h)

/-! ## The queues (R193, R198) -/

def teKey (ac te : Nat) : Nat := 2 * ac + te % 2
def teQueue (s : State) (k : Nat) : List TeEntry := (mapGet s.ac.te k).getD []
def setTeQueue (s : State) (k : Nat) (q : List TeEntry) : State := { s with ac := { s.ac with te := mapPut s.ac.te k q } }
/-- The queue holds 16 (Table 07.1). -/
def teFull (s : State) (k : Nat) : Bool := decide (16 ≤ (teQueue s k).length)
def queueTe (s : State) (e : TeEntry) : State :=
  let k := teKey e.cmd.ac e.cmd.te
  setTeQueue s k (teQueue s k ++ [e])

/-- The command at the head of a TE's queue completes: its result is written, its tag and status are returned, its ticket
completes (R196, R198). -/
def completeTe (s : State) (k : Nat) : State :=
  match teQueue s k with
  | [] => s
  | e :: rest =>
    let way := 16 * e.cmd.ac + e.cmd.way
    let m := wayStore s way
    let s := setTeQueue s k rest
    let (s, st) := match teResult ⟨m, e.cmd.word⟩ with
      | .ok r => (setWay s way (segWrite m (tCOff e.cmd.word) r), stOk)
      | .error st => (s, st)
    let s := emit s (.teDone e.cmd.ac (k % 2) (tTag e.cmd.word) st)
    match e.issuer with
    | some (n, i) => setTicket s n i e.ticket st
    | none => s

end Sys2Proof.Machine
end

