-- ==== Sys2Proof/Machine/Layers.lean ====
section
/-!
DEFINITION. Machine/Layers.lean: copies (R204, R205), layer programs (R216), and bringing every waiting thread up to date
after an event (R204, R206, R207).
-/

namespace Sys2Proof.Machine

/-! ## The address map of a thread (Table 07.5) -/

/-- Where an access of a thread lands: its segment, its image or arguments by NPA, or node memory. -/
inductive Where where
  | segment (off : Nat)
  | image (npa : Nat)
  | args (npa : Nat)
  | node (npa : Nat)
deriving DecidableEq, Repr

/-- The space of the `len` bytes at a thread address; none outside Table 07.5. `extra` are further ranges of node memory. -/
def spaceOf (d : Bytes) (extra : List (Nat × Nat)) (a len : Nat) : Option Where :=
  if a + len ≤ segBytes then some (.segment a)
  else if 0x10000000 ≤ a ∧ a + len ≤ 0x10000000 + jImageBytes d ∧ jKind d = 0 then some (.image (jImage d + (a - 0x10000000)))
  else if 0x20000000 ≤ a ∧ a + len ≤ 0x20000000 + jArgBytes d then some (.args (jArgs d + (a - 0x20000000)))
  else if 2 ^ 40 ≤ a ∧ (inRanges (jWindows d) (a - 2 ^ 40) len || inRanges extra (a - 2 ^ 40) len) = true then some (.node (a - 2 ^ 40))
  else none

/-- The NPA a copy reads outside the segment. -/
def Where.npa : Where → Option Nat
  | .segment _ => none
  | .image a => some a
  | .args a => some a
  | .node a => some a

/-- A copy is one between node memory and the segment that Table 07.5 allows (R204, R205). -/
def copyOk (d : Bytes) (extra : List (Nat × Nat)) (src dst len : Nat) : Bool :=
  match spaceOf d extra src len, spaceOf d extra dst len with
  | some (.segment _), some (.node _) => true
  | some x, some (.segment _) => x.npa.isSome
  | _, _ => false

/-- The unbacked address a copy meets, when there is one (R258). -/
def copyUnbacked (d : Bytes) (extra : List (Nat × Nat)) (src dst len : Nat) : Bool :=
  [src, dst].any fun a => match (spaceOf d extra a len).bind Where.npa with
    | some n => decide (gddrSize < n + len)
    | none => false

/-- A copy that meets an unbacked address is an access fault of its thread: of the load where the segment is its destination,
else of the store (R203, R258). -/
def copyFault (s : State) (n i : Nat) (d : Bytes) (extra : List (Nat × Nat)) (src dst len : Nat) : State :=
  match spaceOf d extra dst len with
  | some (.segment _) => trapJob s n i 5 src
  | _ => trapJob s n i 7 dst

/-- A line that a copy touches lies in a BBD out of service (R161). -/
def rangeOut (s : State) (a len : Nat) : Option Nat :=
  if decide (fld (regGet s rGsStatus) 15 8 = 0) || decide (len = 0) then none
  else (List.range (ceilDiv (a % 128 + len) 128)).findSome? fun i =>
    let n := 128 * (a / 128) + 128 * i
    if bbdUp s (bbdAt s n) then none else some n

/-- A model's region and a job's arguments, which the based addresses of a layer program reach (R216, log entry 25). -/
def basedRanges (s : State) (d : Bytes) : List (Nat × Nat) :=
  if jKind d = 1 then (jArgs d, jArgBytes d) :: modelRegion s else []

/-- Queue a copy: its ticket, at once complete when it moves nothing (R205, R258). -/
def startCopy (s : State) (n i src dst len : Nat) : Nat × State :=
  match jobAt s n with
  | none => (0, s)
  | some j =>
    let st := if len = 0 then some stOk
      else if copyOk j.desc (basedRanges s j.desc) src dst len then none else some stAccess
    newTicket s n i .copy st src dst len

/-- The locked slots that a copy would read (R184). -/
def copyLocks (s : State) (n : Nat) (x : Ticket) : List Nat :=
  match jobAt s n with
  | some j =>
    match (spaceOf j.desc (basedRanges s j.desc) x.src x.len).bind Where.npa with
    | some a => lockedIn s a x.len
    | none => []
  | none => []

/-- A copy moves its bytes (R204, R268). -/
def finishCopy (s : State) (n i : Nat) (x : Ticket) : State :=
  match jobAt s n, (threadAt s n i).bind Thread.way with
  | some j, some k =>
    let e := basedRanges s j.desc
    match spaceOf j.desc e x.src x.len, spaceOf j.desc e x.dst x.len with
    | some a, some b =>
      match ([a, b].filterMap Where.npa).findSome? fun p => rangeOut s p x.len with
      | some p =>
        setTicket (logFailure s { cause := 10, source := 7, channel := some (place s p).1, handle := p }) n i x.id stUncorrectable
      | none =>
        let s := match a, b with
          | .segment o, .node p => writeMem s p (segRead (wayStore s k) o x.len)
          | y, .segment o => setWay s k (segWrite (wayStore s k) o (readMem s (y.npa.getD 0) x.len))
          | _, _ => s
        setTicket s n i x.id stOk
    | _, _ => setTicket s n i x.id stAccess
  | _, _ => s

/-! ## Layer programs (R215, R216) -/

/-- Entry `l` of the model's layer table: first step offset and step count (Table 07.9). -/
def layerEntry (s : State) (l : Nat) : Nat × Nat :=
  let b := regGet s rAcRmBase
  let a := b + leNat (readMem s (b + 8) 4) + 8 * l
  (leNat (readMem s a 4), leNat (readMem s (a + 4) 4))

/-- A step record. -/
def stepAt (s : State) (l k : Nat) : Bytes := readMem s (regGet s rAcRmBase + (layerEntry s l).1 + 64 * k) 64

/-- The address base of a step (R216). -/
def stepBase (s : State) (d r : Bytes) : Nat :=
  match bfld r 0 6 2 with
  | 1 => regGet s rAcRmBase
  | 2 => jArgs d
  | _ => 0

/-- A thread's program counter as layer and step. -/
def pcOf (l k : Nat) : Nat := 2 ^ 32 * l + k

/-- A node-memory address of a copy step is relocated (R216, log entry 25). -/
def relocate (base a : Nat) : Nat := if 2 ^ 40 ≤ a then a + base else a

/-- Issue a step of a layer program: its ticket is recorded, and the thread goes on to the next step; a copy that meets an
unbacked address is a fault (R203, R258). -/
def issueStep (s : State) (n i : Nat) (j : Job) (t : Thread) (r : Bytes) : State :=
  let w := slice r 0x20 32
  let base := stepBase s j.desc r
  match bfld r 0 0 2, t.place with
  | 0, .resident ac way _ =>
    let (id, s) := newTicket s n i .te none 0 0 0
    -- the step names no tensor engine: the first (log entry 25)
    queueTe s ⟨⟨ac, 0, way, w⟩, some (n, i), id⟩
  | 1, _ =>
    let b := bfld r 0 3 3
    let (id, s) := newTicket s n i .bau none 0 0 0
    arrive s b (.command ⟨b, .thread n i, putF w 0x10 0 40 (bTarget w + base), 2 ^ 40⟩ id)
  | 2, _ =>
    let src := relocate base (num w 0 8)
    let dst := relocate base (num w 8 8)
    let len := num w 16 4
    let e := basedRanges s j.desc
    if len ≠ 0 ∧ copyOk j.desc e src dst len = true ∧ copyUnbacked j.desc e src dst len = true then
      copyFault s n i j.desc e src dst len
    else (startCopy s n i src dst len).2
  | _, _ => s

/-- A fault within a step: a ticket that did not end with `OK` (R216). -/
def stepFault (t : Thread) : Bool := t.tickets.any fun x => match x.status with
  | some st => st != stOk
  | none => false

/-- Run the steps of a layer program while the thread need not wait (R216). -/
def layerRun (n i : Nat) : Nat → State → State
  | 0, s => s
  | fuel + 1, s =>
    match jobAt s n, threadAt s n i with
    | some j, some t =>
      if jKind j.desc ≠ 1 then s
      else if stepFault t then
        let (mc, s) := drawFree s 32
        trapJob s n i mc 0
      else if !(t.ready) then s
      else
        let l := t.pc / 2 ^ 32
        let k := t.pc % 2 ^ 32
        let goto (s : State) (pc : Nat) : State := updThread s n i fun t => { t with pc := pc, cond := .running }
        if jFirstLayer j.desc + jLayers j.desc ≤ l then
          if t.open_.isEmpty then endThread s n i 0 else beginWait s n i 0 .step
        else if (layerEntry s l).2 ≤ k then layerRun n i fuel (goto s (pcOf (l + 1) 0))
        else
          let r := stepAt s l k
          if bfld r 0 2 1 = 1 ∧ t.open_.isEmpty = false then beginWait s n i 0 .step
          else if bfld r 0 0 2 = 3 then layerRun n i fuel (goto s (pcOf (l + 1) 0))
          else
            let full := match t.place with
              | .resident ac _ _ => decide (bfld r 0 0 2 = 0) && teFull s (teKey ac 0)
              | _ => false
            if full then s
            else layerRun n i fuel (goto (issueStep s n i j t r) (pcOf l (k + 1)))
    | _, _ => s

/-- More steps than a layer program can issue before it must wait: every layer's count, and one for each layer's end. -/
def layerFuel (s : State) (d : Bytes) : Nat :=
  sumOf ((List.range (jLayers d)).map fun l => (layerEntry s (jFirstLayer d + l)).2 + 2) + 2

/-! ## Bringing threads up to date -/

/-- One thread: its event has come, or its layer program goes on. -/
def pokeThread (s : State) (n i : Nat) : State :=
  let s := settleThread s n i
  match jobAt s n with
  | some j => if jKind j.desc = 1 then layerRun n i (layerFuel s j.desc) s else s
  | none => s

/-- Every thread of every job, in the order of jobs and thread indices. -/
def pokeThreads (s : State) : State :=
  (s.ac.jobs.flatMap fun e => e.2.threads.map fun t => (e.1, t.1)).foldl (fun s x => pokeThread s x.1 x.2) s

end Sys2Proof.Machine
end

