-- ==== Sys2Proof/Machine/BankCmds.lean ====
section
/-!
DEFINITION. Machine/BankCmds.lean: the commands of the bank buffer dies (Table 06.4, R168 to R186) and of their links (R160,
R161).
-/

namespace Sys2Proof.Machine

/-- BAU_STORE_WRITE (R168). -/
def execBauStoreWrite (bbd : Nat) (issuer : Issuer) (off : Nat) (data : Bytes) (s : State) : Host.Outcome State Fault Refusal :=
  .next (live s fun s => if 8 ≤ bbd then s else pokeThreads (arrive s bbd (.store issuer off data)))

/-- A BAU command word arrives at its BBD by the row of opcode `op`; an opcode that no row has is refused by any row
(R168 to R170). -/
def bauRow (op : Nat) (b : BauCmd) (s : State) : State :=
  live s fun s =>
    if 8 ≤ b.bbd ∨ (bOp b.word ≠ op ∧ 1 ≤ bOp b.word ∧ bOp b.word ≤ 8) then s
    else pokeThreads (arrive s b.bbd (.command b 0))

/-- GLOSS_BOUND (R112, R171). -/
def execGlossBound (b : BauCmd) (s : State) : Host.Outcome State Fault Refusal := .next (bauRow opGloss b s)
/-- ATTEND_PAGE (R106, R171). -/
def execAttendPage (b : BauCmd) (s : State) : Host.Outcome State Fault Refusal := .next (bauRow opAttendPage b s)
/-- APPEND_ROWS (R173, R183). -/
def execAppendRows (b : BauCmd) (s : State) : Host.Outcome State Fault Refusal := .next (bauRow opAppendRows b s)
/-- REQUANT (R175, R183). -/
def execRequant (b : BauCmd) (s : State) : Host.Outcome State Fault Refusal := .next (bauRow opRequant b s)
/-- RMSNORM (R175, R188). -/
def execRmsnorm (b : BauCmd) (s : State) : Host.Outcome State Fault Refusal := .next (bauRow opRms b s)
/-- ELEMENTWISE (R175). -/
def execElementwise (b : BauCmd) (s : State) : Host.Outcome State Fault Refusal := .next (bauRow opElem b s)
/-- GATHER_REDUCE (R175, R188). -/
def execGatherReduce (b : BauCmd) (s : State) : Host.Outcome State Fault Refusal := .next (bauRow opGather b s)
/-- ZERO_RANGE (Table 06.4). -/
def execZeroRange (b : BauCmd) (s : State) : Host.Outcome State Fault Refusal := .next (bauRow opZero b s)

/-- PERMIT_GRANT (R178): the arbiter grants at most one request. -/
def execPermitGrant (bbd : Nat) (s : State) : Host.Outcome State Fault Refusal :=
  .next (live s fun s => pokeThreads (pokeBbd (grantOldest s bbd) bbd))

/-- Replays of a BBD's link (R160), each a source of the BBD's health score (Table 13.4). -/
def linkReplays (s : State) (bbd : Nat) : Nat → State
  | 0 => s
  | n + 1 => linkReplays (tally (raise1 s (5 + bbd) fBbEventLinkReplay) (306 + bbd) (4 * 256)) bbd n

/-- BAU_COMPLETION (R176): the command that runs on the BAU completes, or reports a locked write (R183), unless it is paused for refresh (R186); `x.replays`
transfers of the link passed on a replay since the last report. -/
def execBauCompletion (bbd : Nat) (x : BauDone) (s : State) : Host.Outcome State Fault Refusal :=
  .next (live s fun s =>
    let s := if 8 ≤ bbd then s else linkReplays s bbd x.replays
    match (bbdOf s bbd).queue.find? fun e => e.baus.contains x.bau with
    | some e =>
      if !(linkUp s bbd) || (streams s e).any (fun c => (refreshOf s c).paused) then s
      else pokeThreads (bauReport (takeReads s x.reads) bbd e x.phase)
    | none => s)

/-! ## Links (R160, R161) -/

/-- 10 µs in ACLK cycles. -/
def retrainLimit : Nat := 9400

/-- D2D_LINK_RETRAIN (R160, R161): after `f.replays` replays that passed, the 64 of one transfer have failed, and the link
retrains. -/
def execD2dLinkRetrain (f : LinkFault) (s : State) : Host.Outcome State Fault Refusal :=
  .next (live s fun s =>
    if 8 ≤ f.bbd ∨ linkUp s f.bbd = false then s
    else
      let s := raise1 (linkReplays s f.bbd (f.replays + 64)) (5 + f.bbd) fBbEventLinkRetrain
      tally (updBbd s f.bbd fun x => { x with retrain := some s.time }) (306 + f.bbd) (256 * 256))

/-- D2D_RETRAIN_DONE (R161): the retrain completes within 10 µs, and the traffic goes on. -/
def execD2dRetrainDone (bbd : Nat) (s : State) : Host.Outcome State Fault Refusal :=
  .next (live s fun s =>
    match (bbdOf s bbd).retrain with
    | some t => if due s t retrainLimit then s else
      pokeThreads (pokePlaced (pokeBbd (updBbd s bbd fun x => { x with retrain := none }) bbd))
    | none => s)

/-- A BBD leaves service: its link is down, the fault is reported, and what waits for it ends (R161). -/
def bbdOut (s : State) (bbd : Nat) : State :=
  let s := updBbd s bbd fun x => { x with retrain := none }
  let s := setF (setB s (rBbStatus bbd) fBbStatusLinkUp false) rGsStatus ⟨15 + bbd, 1⟩ 1
  pokeBbd (raiseGs s fGsEvent1BbdOut) bbd

/-- BBD_OUT_OF_SERVICE (R161): a retrain has not completed within 10 µs. -/
def execBbdOutOfService (bbd : Nat) (s : State) : Host.Outcome State Fault Refusal :=
  .next (live s fun s =>
    match (bbdOf s bbd).retrain with
    | some t =>
      if !(due s t retrainLimit) then s else pokeThreads (pokePlaced (bbdOut s bbd))
    | none => s)

/-! ## Refresh (R185, R186) -/

/-- REFRESH_DUE (R185): postponed while a BAU command streams the channel, at most four at once; else issued. -/
def execRefreshDue (chan : Nat) (s : State) : Host.Outcome State Fault Refusal :=
  .next (live s fun s =>
    if 128 ≤ chan then s
    else
      let r := refreshOf s chan
      if r.paused then s
      else if (streamers s chan).isEmpty then setRefresh s chan ⟨0, false⟩
      else setRefresh s chan { r with postponed := min 4 (r.postponed + 1) })

/-- REFRESH_PAUSE (R184, R185): with four postponed, the streaming command pauses at its row boundary, never inside a locked
write. -/
def execRefreshPause (chan : Nat) (s : State) : Host.Outcome State Fault Refusal :=
  .next (live s fun s =>
    let r := refreshOf s chan
    if 128 ≤ chan ∨ r.postponed < 4 ∨ r.paused = true ∨ (streamers s chan).isEmpty = true
        ∨ (streamers s chan).any (fun e => e.lock.isSome) = true then s
    else
      let b := chan / 16
      bumpF (raise1 (setRefresh s chan { r with paused := true }) (5 + b) fBbEventRefreshPause)
        (rBbRefreshPause b) fBbRefreshPausePauses 1)

/-- REFRESH_RESUME (R185): every postponed refresh has issued; `cycles` MCLK cycles were paused. -/
def execRefreshResume (chan cycles : Nat) (s : State) : Host.Outcome State Fault Refusal :=
  .next (live s fun s =>
    if (refreshOf s chan).paused then
      bumpF (setRefresh s chan ⟨0, false⟩) (rBbRefreshPause (chan / 16)) fBbRefreshPauseCycles cycles
    else s)

end Sys2Proof.Machine
end

