-- ==== Sys2Proof/Machine/Handover.lean ====
section
/-!
DEFINITION. Machine/Handover.lean: the handover of a context between nodes (R398 to R402).
-/

namespace Sys2Proof.Machine

/-! ## Messages (Table 13.6) -/

def hoType (m : Bytes) : Nat := bfld m 0 0 4
def hoCtx (m : Bytes) : Nat := bfld m 4 0 20
def hoSerial (m : Bytes) : Nat := num m 8 4
def hoStatus (m : Bytes) : Nat := num m 0x10 1
def hoCount (m : Bytes) : Nat := num m 0x14 4
def hoBody (m : Bytes) : Bytes := m.drop 32

/-- A message of the node's own: `src` is the source of the handover. -/
def hoMsg (type ctx serial src status count : Nat) (body : Bytes) : Bytes :=
  natLe 4 type ++ natLe 4 ctx ++ natLe 4 serial ++ natLe 4 src ++ natLe 4 status ++ natLe 4 count ++ zeros 8 ++ body

/-- The header is whole and every reserved bit is zero (R398). -/
def hoShape (m : Bytes) : Bool :=
  decide (32 ≤ m.length ∧
    hoMsg (hoType m) (hoCtx m) (hoSerial m) (bfld m 0x0C 0 12) (hoStatus m) (hoCount m) [] = m.take 32)

/-- Send to the peer on the tree connection that the current bank names (R381, R398). -/
def hoSend (s : State) (peer : Nat) (m : Bytes) : State :=
  match routeIn s.cf.current peer with
  | some r => sendBytes s (rtConn r) 2 m
  | none => noRoute s

/-- What each row of a handover message does first: the message leaves the unit's list, a malformed one with no effect;
one of another row is left alone. -/
def withHo (s : State) (type src : Nat) (m : Bytes) (f : State → State) : State :=
  live s fun s =>
    if hoType m ≠ type then s
    else
      let s := { s with ft := { s.ft with hoIn := s.ft.hoIn.erase (src, m) } }
      if hoShape m then f s else s

/-- The message waits at the unit. -/
def holdHo (s : State) (src : Nat) (m : Bytes) : State :=
  if s.ft.hoIn.contains (src, m) then s else { s with ft := { s.ft with hoIn := s.ft.hoIn ++ [(src, m)] } }

def updHo (s : State) (i : Nat) (f : Handover → Handover) : State :=
  { s with cf := { s.cf with handovers := mapAdj s.cf.handovers i f } }

def dropHo (s : State) (i : Nat) : State :=
  leaveEdit { s with cf := { s.cf with handovers := mapDel s.cf.handovers i } } (.install i)

/-- Handovers a node has room for (R399). -/
def handoverMax : Nat := 64

def hoTimeout (s : State) : Nat := 1024 * getF s rCfHandover fCfHandoverTimeout

/-! ## The source -/

/-- The outcome of a handover of a context is kept, the last 256 of them (R401). -/
def recordOutcome (s : State) (i serial : Nat) (final : Bool) : State :=
  { s with cf := { s.cf with outcomes := (s.cf.outcomes ++ [(i, serial, final)]).drop (s.cf.outcomes.length - 255) } }

/-- The last outcome kept of a handover that a context and a serial name, since serials are per target (R393). -/
def outcomeOf (s : State) (i serial : Nat) : Option Bool :=
  (s.cf.outcomes.reverse.find? fun o => o.1 == i && o.2.1 == serial).map (·.2.2)

/-- The `APPEND` and `REFILL` messages on a context that wait in the receive path are taken (R401). -/
def resumeOps (s : State) (i : Nat) : State :=
  (s.ae.inbox.filter fun m => msgCtx m.1 == i && (msgOp m.1 == opAppend || msgOp m.1 == opRefill)).foldl (fun s m => takeOp s m.1 m.2) s

/-- The source reverts with a status (R401). -/
def hoRevert (s : State) (i st : Nat) : State :=
  match mapGet s.cf.handovers i with
  | none => s
  | some h =>
    if !h.source then s
    else
      let s := recordOutcome (dropHo s i) i h.serial false
      let s := hoSend s h.peer (hoMsg 8 i h.serial (nodeId s) 0 0 [])
      let s := raise1 (resumeOps s i) 55 fCfEventHandoverRevert
      pokeRetires (recDone s (tgtCtx i) st)

/-- The key of a map entry. -/
def entryKey (layer hpart n : Nat) : Nat := 2 ^ 31 * layer + 2 ^ 22 * hpart + n

/-- A map entry to be sent. -/
structure HoEntry where
  layer : Nat
  hpart : Nat
  n     : Nat
  word  : Nat
deriving DecidableEq, Repr

def HoEntry.key (e : HoEntry) : Nat := entryKey e.layer e.hpart e.n

/-- Every `PRESENT` and `DROPPED` entry of a context (R400). -/
def hoEntries (s : State) (i : Nat) : List HoEntry :=
  let d := ctxBytes s i
  (List.range (dLayers d)).flatMap fun l =>
    match readRun s 2 i d l with
    | .run log2 base =>
      (List.range (min (256 * 2 ^ log2) (ceilDiv posMax (dP d * dW d) * dHp d))).filterMap fun k =>
        let e := entryAt s (base + 16 * k)
        if eState e = 1 ∨ eState e = 2 then some ⟨l, k % dHp d, k / dHp d, e⟩ else none
    | _ => []

/-- Entries that have not been sent as they stand (R400). -/
def hoUnsent (s : State) (i : Nat) (h : Handover) : List HoEntry :=
  (hoEntries s i).filter fun e => mapGet h.seen e.key != some (eGen e.word, eValid e.word)

/-- The page of an entry: layer, KV head and local ordinal. -/
def HoEntry.page (d : Bytes) (e : HoEntry) : Nat × Nat × Nat := (e.layer, e.hpart / dParts d, e.n)

/-- The bytes of a page's parts from `part` on through their checks (R400). -/
def hoParts (s : State) (d : Bytes) (i l kv n valid part : Nat) : List Nat → Except Failure (List Bytes)
  | [] => .ok []
  | h :: hs =>
    let key := partKey d i l n kv part
    match readTail s 2 h key valid with
    | .error f => .error f
    | .ok t =>
      match readLines s 2 h t key 0 128 with
      | .error f => .error f
      | .ok b =>
        match hoParts s d i l kv n valid (part + 1) hs with
        | .ok r => .ok ((b ++ t) :: r)
        | .error f => .error f

/-- The 8-byte key of a `PAGE`. -/
def pageKey (e : HoEntry) (state : Nat) : Bytes :=
  natLe 4 (at_ 0 8 e.layer + at_ 8 9 e.hpart + at_ 17 2 state + at_ 19 9 (eValid e.word)) ++ natLe 4 e.n

/-- Send one entry of the page map, in a state and with a slot's bytes, and note how it stood (R400). -/
def sendEntry (i state : Nat) (s : State) (x : HoEntry × Bytes) : State :=
  match mapGet s.cf.handovers i with
  | none => s
  | some h =>
    let e := x.1
    updHo (hoSend s h.peer (hoMsg 4 i h.serial (nodeId s) 0 0 (pageKey e state ++ x.2))) i fun y =>
      { y with seen := mapPut y.seen e.key (eGen e.word, eValid e.word) }

/-- The entries of a page are sent as `DROPPED` (R400). -/
def sendDropped (s : State) (i : Nat) (es : List HoEntry) : State := (es.map fun e => (e, [])).foldl (sendEntry i 2) s

/-- Send one page, part by part: read from its home, or by a staging read from flash.  One that cannot be read is sent as
`DROPPED` and logged; one behind a link that is down, under a lock or still to be staged waits (R184, R231, R256, R400). -/
def sendPage (i : Nat) (d : Bytes) (s : State) (g : Nat × Nat × Nat) : State :=
  let es := (hoEntries s i).filter fun e => e.page d == g
  match readPage s 2 i d g.1 g.2.1 g.2.2 with
  | .absent | .unsettled => s
  | .dropped _ => sendDropped s i es
  | .bad f => sendDropped (entryFailed s f) i es
  | .present hs _ valid =>
    if hs.any (accessWaits s) then s
    else if hs.any (slotLocked s) then waitLocks s (.handover i) hs
    else if unread s hs ≠ [] then stageCounted s hs
    else
      match hoParts s d i g.1 g.2.1 g.2.2 valid 0 hs with
      | .ok bs => unstage ((es.zip bs).foldl (sendEntry i 1) s) hs
      | .error f => unstage (sendDropped (pageFailed s f) i es) hs

/-- Every page with an entry that has not been sent as it stands is sent, its descriptor read first (R28, R400): the state, or
the descriptor's failure logged. -/
def sendEntries (s : State) (i : Nat) : Except State State :=
  match readCtx s i 2 with
  | .error s => .error s
  | .ok (d, s) =>
    match mapGet s.cf.handovers i with
    | none => .ok s
    | some h => .ok ((((hoUnsent s i h).map (HoEntry.page d)).eraseDups).foldl (sendPage i d) s)

/-- The descriptor, `END_POS`, W and the set's nodes that an `OFFER` carries (Table 13.6). -/
def offerBody (s : State) (d : Bytes) : Bytes :=
  let ids := setNodes s (dSet d)
  d.take 20 ++ natLe 4 (dEnd d) ++ natLe 2 ids.length ++ ids.flatMap (natLe 2)

/-- The source sends `OFFER` (R399). -/
def hoStart (s : State) (i serial peer : Nat) : State :=
  let h : Handover := { peer := peer, serial := serial, source := true, phase := .offered, seen := [], reserved := [], taken := [],
                         cls := 0 }
  let s := { s with cf := { s.cf with handovers := mapPut s.cf.handovers i h } }
  hoSend s peer (hoMsg 1 i serial (nodeId s) 0 (hoEntries s i).length (offerBody s (ctxBytes s i)))

/-- The handover in which this node is the source and that a message names. -/
def sourceOf (s : State) (src : Nat) (m : Bytes) : Option Handover :=
  match mapGet s.cf.handovers (hoCtx m) with
  | some h => if h.source ∧ h.peer = src ∧ h.serial = hoSerial m then some h else none
  | none => none

/-- The handover in which this node is the acceptor and that a message names. -/
def acceptorOf (s : State) (src : Nat) (m : Bytes) : Option Handover :=
  match mapGet s.cf.handovers (hoCtx m) with
  | some h => if !h.source ∧ h.peer = src ∧ h.serial = hoSerial m then some h else none
  | none => none

/-- ACCEPT (R400): the source begins to send the pages; the operand shows the lines read (R269). -/
def execAccept (src : Nat) (x : MsgRead) (s : State) : Host.Outcome State Fault Refusal :=
  .next (withHo s 2 src x.msg fun s =>
    let i := hoCtx x.msg
    match sourceOf s src x.msg with
    | some h =>
      if h.phase = .offered then
        match sendEntries (takeReads (updHo s i fun y => { y with phase := .sending }) x.reads) i with
        | .ok s => s
        | .error s => hoRevert s i stUncorrectable
      else s
    | none => s)

/-- REFUSE (R401): the source reverts with the refusal's status. -/
def execRefuse (src : Nat) (m : Bytes) (s : State) : Host.Outcome State Fault Refusal :=
  .next (withHo s 3 src m fun s =>
    if (sourceOf s src m).isSome then hoRevert s (hoCtx m) (knownCode (hoStatus m)) else s)

/-- Every operation accepted on a context has finished. -/
def opsDone (s : State) (i : Nat) : Bool := !(s.ae.ops.any fun e => e.2.ctx == i)

/-- The source sends `COMMIT` and starts its timer; a `TIMEOUT` of 0 reverts at once (R401). -/
def sendCommit (s : State) (i : Nat) (h : Handover) : State :=
  let n := (match mapGet s.cf.handovers i with
    | some x => x.seen.length
    | none => 0)
  let s := updHo s i fun x => { x with phase := .committed s.time }
  let s := hoSend s h.peer (hoMsg 5 i h.serial (nodeId s) 0 n (natLe 4 (dEnd (ctxBytes s i))))
  if hoTimeout s = 0 then hoRevert s i stTimeout else s

/-- An entry has not been sent as it stands. -/
def hoLeft (s : State) (i : Nat) : Bool :=
  match mapGet s.cf.handovers i with
  | some x => !(hoUnsent s i x).isEmpty
  | none => true

/-- COMMIT_SEND (R401): what has changed is sent again; once nothing is left, no further operation is accepted; once the
accepted ones have finished and their pages are sent, `COMMIT` leaves.  The operand shows the lines read (R269). -/
def execCommitSend (x : CtxRead) (s : State) : Host.Outcome State Fault Refusal :=
  .next (live s fun s =>
    let ctx := x.ctx
    match mapGet s.cf.handovers ctx with
    | none => s
    | some h =>
      if !h.source || !(h.phase == .sending || h.phase == .frozen) then s
      else if auxState s ctx = 0 ∨ auxState s ctx = 5 then hoRevert s ctx stAborted
      else
        match sendEntries (takeReads s x.reads) ctx with
        | .error s => hoRevert s ctx stUncorrectable
        | .ok s =>
          if hoLeft s ctx then s
          else
            let s := updHo s ctx fun y => { y with phase := .frozen }
            if opsDone s ctx then sendCommit s ctx h else s)

/-- A forwarding record is written, when one of the 16,384 is free (R397). -/
def putForward (s : State) (i node epoch : Nat) : State :=
  if s.cf.forwards.length < 16384 ∨ (mapGet s.cf.forwards i).isSome then
    { s with cf := { s.cf with forwards := mapPut s.cf.forwards i (node, epoch) } }
  else s

/-- The source gives the context up: forwarding record, close point, `FINAL` (R401). -/
def hoFinal (s : State) (i : Nat) (h : Handover) : State :=
  let s := recordOutcome (dropHo s i) i h.serial true
  let s := closePoint (putForward s i h.peer (epochNow s)) i (ctxGood s i) []
  let s := hoSend (resumeOps s i) h.peer (hoMsg 7 i h.serial (nodeId s) 0 0 [])
  recDone s (tgtCtx i) stOk

/-- The timer of a handover that has sent `COMMIT` has expired. -/
def hoExpired (s : State) (h : Handover) : Bool :=
  match h.phase with
  | .committed t => due s t (hoTimeout s)
  | _ => false

/-- COMMIT_ACK (R401): in time it hands the context over; a late one is answered with `ABANDON`. -/
def execCommitAck (src : Nat) (m : Bytes) (s : State) : Host.Outcome State Fault Refusal :=
  .next (withHo s 6 src m fun s =>
    let i := hoCtx m
    match sourceOf s src m with
    | some h =>
      match h.phase with
      | .committed _ =>
        if hoExpired s h then hoRevert s i stTimeout
        else if auxState s i = 0 ∨ auxState s i = 5 then hoRevert s i stAborted
        else hoFinal s i h
      | _ => s
    | none => hoSend s src (hoMsg 8 i (hoSerial m) (nodeId s) 0 0 []))

/-- HANDOVER_TIMER (R401). -/
def execHandoverTimer (ctx : Nat) (s : State) : Host.Outcome State Fault Refusal :=
  .next (live s fun s =>
    match mapGet s.cf.handovers ctx with
    | some h => if h.source && hoExpired s h then hoRevert s ctx stTimeout else s
    | none => s)

/-- QUERY (R401): the source answers from its outcomes; one still in progress has none yet. -/
def execQuery (src : Nat) (m : Bytes) (s : State) : Host.Outcome State Fault Refusal :=
  .next (withHo s 9 src m fun s =>
    let i := hoCtx m
    if (sourceOf s src m).isSome then s
    else
      hoSend s src (hoMsg (if outcomeOf s i (hoSerial m) = some true then 7 else 8) i (hoSerial m) (nodeId s) 0 0 []))

/-! ## The acceptor -/

def hoReply (s : State) (src type st : Nat) (m : Bytes) : State :=
  hoSend s src (hoMsg type (hoCtx m) (hoSerial m) src st 0 [])

/-- The shard-set entry that an acceptor writes: the offered one with its own ID at `SHARD_INDEX` (R399). -/
def offeredIds (s : State) (m : Bytes) : List Nat :=
  let b := hoBody m
  setAt (idsOf (b.drop 26) (num b 24 2)) (dIndex (b.take 20)) (nodeId s)

/-- The offer breaks R25 to R27, or its set number is in use with other contents (R399). -/
def offerBad (s : State) (m : Bytes) : Bool :=
  let b := hoBody m
  let d := b.take 20
  let w := num b 24 2
  let ids := offeredIds s m
  decide (b.length ≠ 26 + 2 * w ∨ w = 0 ∨ 1024 < w ∨ w ≤ dIndex d) || !(suppliedOk d) || !(openRegionsOk s)
    || ids.any (fun v => decide (4096 ≤ v)) || decide (ids.eraseDups.length ≠ ids.length)
    || (s.cx.open_.any (fun e => e.2.shardSet == dSet d) && decide (setNodes s (dSet d) ≠ ids))

/-- Slots to reserve in a tier: the offered entries in proportion to the layers homed there. -/
def offerShare (s : State) (d : Bytes) (count tier : Nat) : Nat :=
  let k := ((List.range (dLayers d)).filter fun l => plHome (ctxPlan s d l) == tier).length
  ceilDiv (count * k) (dLayers d)

def tierFree (s : State) (tier : Nat) : Nat :=
  if tier = 0 then wideFree s + narrowFree s else lowerFree s tier

/-- Local ordinals that `END_POS` implies at a shard. -/
def ordinalsOf (d : Bytes) : Nat :=
  let pages := ceilDiv (dEnd d) (dP d)
  ceilDiv (pages - min pages (dIndex d)) (dW d)

/-- Grow the runs of the layers below `k` to what `END_POS` implies; `none` where the pool lacks room. -/
def growAll (s : State) (i : Nat) : Nat → Option State
  | 0 => some s
  | l + 1 =>
    match growAll s i l with
    | none => none
    | some s =>
      let d := ctxBytes s i
      if ordinalsOf d = 0 then some s
      else
        match growRun s 2 i l (entryIndex d (ordinalsOf d - 1) (dHp d - 1)) with
        | .done s => some s
        | _ => none

/-- Reserve the slots of an offer (R45, R399). -/
def reserve (s : State) (i cls : Nat) (need : NMap Nat) : Option State :=
  if need.all fun (t, k) => quotaRoom s cls t k && decide (k ≤ tierFree s t) then
    some (updHo (need.foldl (fun s (t, k) => addUse s cls t k) s) i fun h => { h with reserved := need })
  else none

/-- Why an offer fails: the pool of page maps or a quota lacks room, or the root block cannot be written (R161). -/
inductive OfferFail where
  | pool
  | quota
  | lost (s : State)
deriving Repr

/-- The opened context takes the offered end, its layers' runs, and the reservations of its share. -/
def fillOffer (s : State) (src : Nat) (m d : Bytes) : Except OfferFail State :=
  let i := hoCtx m
  let s := updCtx s i fun d => setDEnd d (num (hoBody m) 20 4)
  match growAll s i (dLayers d) with
  | none => .error .pool
  | some s =>
    let h : Handover := { peer := src, serial := hoSerial m, source := false, phase := .accepting, seen := [], reserved := [],
                          taken := [], cls := dClass d }
    let need := (List.range 3).filterMap fun t =>
      let k := offerShare s d (hoCount m) t
      if k = 0 then none else some (t, k)
    match reserve { s with cf := { s.cf with handovers := mapPut s.cf.handovers i h } } i (dClass d) need with
    | some s => .ok s
    | none => .error .quota

/-- What an attempt to open the offered context `i` of descriptor fields `d` gave: its runs and its reservations follow, or
what room lacks is said (R69, R399). -/
def offerOpened (s : State) (src : Nat) (m d : Bytes) (st : Nat) (u : State) : Except OfferFail State :=
  if st = stOk then fillOffer u src m d
  else if st = stUncorrectable then .error (.lost (openCtx s (hoCtx m) d).2)
  else .error (if useCtx s (dClass d) < quotaCtx s (dClass d) then .pool else .quota)

/-- Open the offered context `i` of descriptor fields `d`, in state `u` where its set names its shards. -/
def openOfferIn (s u : State) (src : Nat) (m d : Bytes) : Except OfferFail State :=
  offerOpened s src m d (openCtx u (hoCtx m) d).1 (openCtx u (hoCtx m) d).2

/-- Open the offered context, its runs and its reservations, or say what room lacks (R69, R399). -/
def openOffer (s : State) (src : Nat) (m : Bytes) : Except OfferFail State :=
  openOfferIn s (writeSet s (dSet ((hoBody m).take 20)) (offeredIds s m)) src m ((hoBody m).take 20)

/-- The answer to an offer that fails: a pool allocation sets its flag (R69, R399). -/
def offerFailed (s : State) (src : Nat) (m : Bytes) : OfferFail → State
  | .pool => hoReply (raise1 s 3 fPmEventPoolEmpty) src 3 stQuota m
  | .quota => hoReply s src 3 stQuota m
  | .lost s => hoReply s src 3 stUncorrectable m

/-- OFFER (R399); the operand shows the lines of the descriptor's read (R269). -/
def execOffer (src : Nat) (x : MsgRead) (s : State) : Host.Outcome State Fault Refusal :=
  .next (withHo s 1 src x.msg fun s =>
    let m := x.msg
    if !(tableReady s) then startZeroing (holdHo s src m)
    else if auxState s (hoCtx m) ≠ 0 ∨ (mapGet s.cf.handovers (hoCtx m)).isSome = true ∨ offerBad s m = true then
      hoReply s src 3 stFormat m
    else
      match readCtx (takeReads s x.reads) (hoCtx m) 2 with
      | .error s => hoReply s src 3 stUncorrectable m
      | .ok (_, s) =>
        if handoverMax ≤ s.cf.handovers.length then hoReply s src 3 stQuota m
        else
          match openOffer s src m with
          | .ok s => hoReply s src 2 0 m
          | .error f => offerFailed s src m f)

/-- Slots taken for parts that have not come are freed. -/
def untakeParts (s : State) (i : Nat) (keys : List Nat) : State :=
  match mapGet s.cf.handovers i with
  | none => s
  | some h =>
    updHo (untakeSlots s h.cls (keys.filterMap (mapGet h.taken))) i fun x => { x with taken := keys.foldl mapDel x.taken }

/-- What a handover holds that no entry took is released: its reservations, and the slots of parts that have not come. -/
def releaseReserved (s : State) (h : Handover) : State :=
  h.reserved.foldl (fun s (t, k) => subUse s h.cls t k) (untakeSlots s h.cls (h.taken.map (·.2)))

/-- Reserved slots of a tier are given up to the `n` slots about to be taken. -/
def takeReserved (s : State) (i tier n : Nat) (h : Handover) : State :=
  match mapGet h.reserved tier with
  | some k => updHo (subUse s h.cls tier (min n k)) i fun x => { x with reserved := mapPut x.reserved tier (k - n) }
  | none => s

/-- The slot as the acceptor stores it: `HOME_GEN` of the edit, `AUTHOR` 0, a fresh `TAIL_CRC` (R400). -/
def restamp (b : Bytes) (gen : Nat) : Bytes :=
  let t := slice b 0x4000 0x200
  b.take 0x4000 ++ sealTail (overlay t 0x1E0 (putF (putF (tailHeader t) 2 5 1 0) 0x0C 0 32 gen))

/-- A `PAGE` as received. -/
structure HoPage where
  layer : Nat
  hpart : Nat
  state : Nat
  valid : Nat
  n     : Nat
  slot  : Bytes
deriving DecidableEq, Repr

def hoPage (m : Bytes) : HoPage :=
  let b := hoBody m
  ⟨bfld b 0 0 8, bfld b 0 8 9, bfld b 0 17 2, bfld b 0 19 9, num b 4 4, b.drop 8⟩

/-- A `PAGE` breaks its layout or the context's shape. -/
def pageBad (d : Bytes) (m : Bytes) : Bool :=
  let p := hoPage m
  decide ((hoBody m).length < 8 ∨ bfld (hoBody m) 0 28 4 ≠ 0 ∨ dLayers d ≤ p.layer ∨ dHp d ≤ p.hpart ∨ dP d < p.valid ∨
    ¬(p.state = 1 ∧ p.slot.length = slotBytes ∨ p.state = 2 ∧ p.slot = []) ∨ posMax ≤ dP d * (p.n * dW d + dIndex d))

/-- The other parts of a page, rewritten with it so that all carry one generation (R498). -/
def sameParts (s : State) (d : Bytes) (base log2 : Nat) (p : HoPage) : List Change :=
  let h0 := p.hpart / dParts d * dParts d
  (List.range (dParts d)).filterMap fun k =>
    if h0 + k = p.hpart then none
    else match entryAddr log2 base (entryIndex d p.n (h0 + k)) with
      | none => none
      | some a =>
        let e := entryAt s a
        some ⟨a, eHandle e, eState e, eOwner e, eValid e⟩

inductive PageRes where
  | done (s : State)
  | waits
  /-- The edit waits under R75: `true` for the generation distance. -/
  | stalled (gen : Bool)
  /-- The page-map pool is empty (R69). -/
  | poolEmpty
  /-- No slot is free, with the flags of that (R249). -/
  | full (s : State)
  /-- The page's bytes fail a check, or the quota is used up. -/
  | refuse (st : Nat)
  /-- An entry or the descriptor fails its check (R28, R67). -/
  | bad (f : Failure)
  /-- The slot cannot be written: its link stays down (R231), or its BBD is out of service (R161). -/
  | lost (f : Failure)
deriving Repr

/-- Install a received entry: the run grows when it must, and one edit writes it (R400). -/
def installPage (s : State) (i : Nat) (p : HoPage) (handle : Nat) : PageRes :=
  let d := ctxBytes s i
  match growRun s 2 i p.layer (entryIndex d p.n p.hpart) with
  | .bad f => .bad f
  | .full _ => .poolEmpty
  | .wait g => .stalled g
  | .done s =>
    let d := ctxBytes s i
    match readRun s 2 i d p.layer with
    | .run log2 base =>
      match entryAddr log2 base (entryIndex d p.n p.hpart) with
      | none => .refuse stQuota
      | some a =>
        let s := if p.state = 1 then stampGen ((dGen d + 1) % 2 ^ 32) s handle else s
        match edit s 2 i (ctxClass s i)
            (⟨a, if p.state = 1 then handle else 0, p.state, 0, p.valid⟩ :: sameParts s d base log2 p) with
        | .done s => .done (leaveEdit s (.install i))
        | .wait g => .stalled g
        | .bad f => .bad f
    | .bad f => .bad f
    | .none => .refuse stQuota

/-- The keys of the parts of a received part's page. -/
def HoPage.parts (p : HoPage) (d : Bytes) : List Nat :=
  (List.range (dParts d)).map fun k => entryKey p.layer (p.hpart / dParts d * dParts d + k) p.n

/-- Slots for a received part in GDDR7 or CXL: the one taken for it when another part of its page came, or else one for each
part of the page, in one pool and device (R233). -/
def takePart (s : State) (i : Nat) (d : Bytes) (h : Handover) (p : HoPage) : Alloc × State :=
  let key := entryKey p.layer p.hpart p.n
  match mapGet h.taken key with
  | some x => (.ok [x], updHo s i fun y => { y with taken := mapDel y.taken key })
  | none =>
    let w := ctxPlan s d p.layer
    let keys := p.parts d
    let s := takeReserved s i (plHome w) (keys.filter fun k => (mapGet h.seen k).isNone && (mapGet h.taken k).isNone).length h
    match allocIn (untakeParts s i keys) i (ctxClass s i) (dParts d) (plHome w) (plNarrow w)
        (preferDevice p.n (dHeads d) (p.hpart / dParts d) p.layer) with
    | (.ok hs, s) =>
      let mine := hs.getD (p.hpart % dParts d) 0
      (.ok [mine], updHo s i fun y =>
        { y with taken := ((keys.zip hs).filter fun e => e.1 != key).foldl (fun l e => mapPut l e.1 e.2) y.taken })
    | r => r

/-- A received part goes into an extent buffer (R235, R400). -/
def placeFlash (s : State) (i : Nat) (h : Handover) (p : HoPage) (b : Bytes) : PageRes :=
  let s := if (mapGet h.seen (entryKey p.layer p.hpart p.n)).isSome then s else takeReserved s i 2 1 h
  if buffersBusy s then .waits
  else if !(quotaRoom s (ctxClass s i) 2 1) then .refuse stQuota
  else
    match fillSlot s i (ctxClass s i) none none b with
    | some (x, s) => installPage s i p x
    | none => .refuse stQuota

/-- Place a received page in the tier and pool that its plan names (R231, R242, R400). -/
def placePage (s : State) (i : Nat) (h : Handover) (p : HoPage) : PageRes :=
  let d := ctxBytes s i
  if p.state = 2 then installPage (untakeParts s i [entryKey p.layer p.hpart p.n]) i p 0
  else if !(slotSound p.slot) then .refuse stUncorrectable
  else
    let b := restamp p.slot ((dGen d + 1) % 2 ^ 32)
    if plHome (ctxPlan s d p.layer) = 2 then placeFlash s i h p b
    else
      match takePart s i d h p with
      | (.ok [x], s) =>
        if accessWaits s x then .waits
        else if (writeFault s x).isSome then
          .lost (writeFailure s 2 x (i, p.hpart / dParts d, p.layer, firstPos d p.n) ((writeFault s x).getD (0, 0)))
        else installPage (slotWrite s x 0 b) i p x
      | (.full, s) => .full s
      | _ => .refuse stQuota

/-- What the acceptor answers to a `PAGE`, or the wait of one that cannot be placed yet (R400). -/
def pageAnswer (s : State) (src : Nat) (m : Bytes) (r : PageRes) : State :=
  let i := hoCtx m
  let p := hoPage m
  match r with
  | .done s => updHo s i fun x => { x with seen := mapPut x.seen (entryKey p.layer p.hpart p.n) (0, p.valid) }
  | .waits => holdHo s src m
  | .stalled g => holdHo (waitEdit s (.install i) g) src m
  | .poolEmpty => hoReply (raise1 s 3 fPmEventPoolEmpty) src 3 stQuota m
  | .full s => hoReply s src 3 stQuota m
  | .refuse st => hoReply s src 3 st m
  | .bad f => hoReply (entryFailed s f) src 3 stUncorrectable m
  | .lost f => hoReply (logFailure s f) src 3 stUncorrectable m

/-- PAGE (R400): the acceptor writes the page into a new slot; a later `PAGE` of the same key replaces it. -/
def execPage (src : Nat) (m : Bytes) (s : State) : Host.Outcome State Fault Refusal :=
  .next (withHo s 4 src m fun s =>
    let i := hoCtx m
    match acceptorOf s src m with
    | none => s
    | some h =>
      if h.phase ≠ .accepting then s
      else if auxState s i ≠ 1 then hoReply s src 3 stAborted m
      else
        match readCtx s i 2 with
        | .error s => hoReply s src 3 stUncorrectable m
        | .ok (d, s) =>
          if pageBad d m then hoReply s src 3 stFormat m
          else pageAnswer s src m (placePage s i h (hoPage m)))

/-- The flash slots among the homes of a context. -/
def flashHomes (s : State) (i : Nat) : List Nat := (slotsOf s i .home).filter fun h => hQuota h == 2

/-- COMMIT (R402): with the right count the acceptor is held; slots still on their way to a drive are waited for. -/
def execCommit (src : Nat) (m : Bytes) (s : State) : Host.Outcome State Fault Refusal :=
  .next (withHo s 5 src m fun s =>
    let i := hoCtx m
    match acceptorOf s src m with
    | none => s
    | some h =>
      if h.phase ≠ .accepting then s
      else if auxState s i ≠ 1 then hoReply s src 3 stAborted m
      else if h.seen.length ≠ hoCount m ∨ (hoBody m).length ≠ 4 then hoReply s src 3 stFormat m
      else if (flashHomes s i).any (flashLost s) then hoReply s src 3 stUncorrectable m
      else if !((flashHomes s i).all (flashWritten s)) then holdHo s src m
      else
        match readCtx s i 2 with
        | .error s => hoReply s src 3 stUncorrectable m
        | .ok (_, s) =>
          let s := updCtx s i fun d => setDEnd d (num (hoBody m) 0 4)
          hoReply (updHo s i fun x => { x with phase := .held s.time s.time }) src 6 0 m)

/-- FINAL (R402): a held acceptor becomes the owner. -/
def execFinal (src : Nat) (m : Bytes) (s : State) : Host.Outcome State Fault Refusal :=
  .next (withHo s 7 src m fun s =>
    match acceptorOf s src m with
    | some h =>
      match h.phase with
      | .held _ _ => dropHo (releaseReserved s h) (hoCtx m)
      | _ => s
    | none => s)

/-- The acceptor gives the context up: it closes it as `CX_CLOSE` does (R402). -/
def hoDrop (s : State) (i : Nat) (h : Handover) : State :=
  let s := dropHo (releaseReserved s h) i
  if auxState s i = 0 ∨ auxState s i = 5 then s else closePoint s i (ctxGood s i) []

/-- ABANDON (R402). -/
def execAbandon (src : Nat) (m : Bytes) (s : State) : Host.Outcome State Fault Refusal :=
  .next (withHo s 8 src m fun s =>
    match acceptorOf s src m with
    | some h => hoDrop s (hoCtx m) h
    | none => s)

/-- A tree connection to a node is open. -/
def treeOpen (s : State) (node : Nat) : Bool :=
  match routeIn s.cf.current node with
  | some r =>
    match connOf s (rtConn r) with
    | some k => decide (k.state = 1)
    | none => false
  | none => false

/-- QUERY_TIMER (R402): a held acceptor asks after 2 × `TIMEOUT`, and then every `TIMEOUT`. -/
def execQueryTimer (ctx : Nat) (s : State) : Host.Outcome State Fault Refusal :=
  .next (live s fun s =>
    match mapGet s.cf.handovers ctx with
    | none => s
    | some h =>
      match h.source, h.phase with
      | false, .held t q =>
        if due s t (2 * hoTimeout s) && (decide (q = t) || due s q (hoTimeout s)) && treeOpen s h.peer then
          hoSend (updHo s ctx fun x => { x with phase := .held t s.time }) h.peer (hoMsg 9 ctx h.serial h.peer 0 0 [])
        else s
      | _, _ => s)

end Sys2Proof.Machine
end

