-- ==== Sys2Proof/Machine/Recovery.lean ====
section
/-!
DEFINITION. Machine/Recovery.lean: manager requests (R374 to R377), the recovery commands (R391 to R397) and their form
on the rings (Table 14.4).
-/

namespace Sys2Proof.Machine

/-! ## Manager requests -/

def mgType (b : Bytes) : Nat := num b 0 1
def mgStatus (b : Bytes) : Nat := bfld b 4 16 8
def mgSeq (b : Bytes) : Nat := num b 8 8
def mgSerial (b : Bytes) : Nat := num b 0x10 4
def mgEpoch (b : Bytes) : Nat := num b 0x14 4
def mgBody (b : Bytes) : Bytes := (b.drop 32).take (bfld b 4 0 12)

/-- The header and length keep R375. -/
def mgShape (s : State) (b : Bytes) : Bool :=
  let n := bfld b 4 0 12
  decide (b.length = 64 + n ∧ n ≤ 4032 ∧ bfld b 0 16 12 = nodeId s)
    && decide (mgmtBytes (mgType b) 0 (nodeId s) (mgStatus b) (mgSeq b) (mgSerial b) (mgEpoch b) (mgBody b) = b.take (32 + n))

/-- The owner-set entry whose key a datagram is tagged with (R375). -/
def mgAuth (s : State) (g : Mgmt) : Option (Nat × Manager) :=
  if mgShape s g.body then
    s.tn.managers.find? fun e => e.2.node == g.src && (match e.2.key with
      | some key => mgmtTag key g.src (g.body.take (32 + (mgBody g.body).length)) == g.body.drop (32 + (mgBody g.body).length)
      | none => false)
  else none

def isRecovery (type : Nat) : Bool := decide (0x10 ≤ type ∧ type ≤ 0x15)

/-- The `SERIAL` of a reply (Table 13.1): zero outside the recovery types. -/
def replySerial (b : Bytes) : Nat := if isRecovery (mgType b) then mgSerial b else 0

/-- Request types of Table 13.2. -/
def knownType (type : Nat) : Bool := decide (1 ≤ type ∧ type ≤ 7) || isRecovery type

/-- A route entry keeps Table 13.3. -/
def routeOk (w : Nat) : Bool :=
  decide (fld w 60 4 = 0) &&
    (match rtPath w with
      | 0 => decide (rtHops w = 0 ∧ rtMask w = 0)
      | 1 => decide (rtHops w = 0 ∧ rtMask w ≠ 0)
      | _ => decide (1 ≤ rtHops w ∧ rtMask w = 0))

/-- The route entries of a `ROUTE_SET`, by node. -/
def rsEntries (b : Bytes) : NMap Nat := (List.range (bfld b 0 16 9)).map fun i => (bfld b 0 0 12 + i, num b (4 + 8 * i) 8)

/-- Bytes of a recovery command's body (Table 13.5). -/
def recLen (type : Nat) : Nat := if type = 0x11 ∨ type = 0x14 then 4 else if type = 0x13 then 12 else 8

/-- The body of a recovery command keeps Table 13.5. -/
def recBodyOk (type : Nat) (b : Bytes) : Bool :=
  decide (b.length = recLen type) &&
    (if type = 0x10 ∨ type = 0x11 then decide (bfld b 0 16 16 = 0)
     else if type = 0x12 then decide (bfld b 0 1 31 = 0 ∧ bfld b 4 20 12 = 0 ∧ (bfld b 0 0 1 = 0 → num b 4 4 < 65536))
     else if type = 0x13 then decide (bfld b 0 22 10 = 0 ∧ bfld b 4 12 20 = 0)
     else if type = 0x14 then decide (bfld b 0 20 12 = 0)
     else decide (bfld b 0 20 12 = 0 ∧ bfld b 4 12 20 = 0))

/-- The body of a request keeps its type (Table 13.2). -/
def mgBodyOk (type : Nat) (b : Bytes) : Bool :=
  match type with
  | 1 | 3 | 4 => decide (b = [])
  | 2 => decide (bfld b 0 12 4 = 0 ∧ bfld b 0 25 7 = 0 ∧ 1 ≤ bfld b 0 16 9 ∧ bfld b 0 16 9 ≤ 503 ∧
      b.length = 4 + 8 * bfld b 0 16 9) && (rsEntries b).all fun e => routeOk e.2
  | 5 => decide (b.length = 8 ∧ bfld b 0 18 14 = 0 ∧ bfld b 4 18 14 = 0)
  | 6 => decide (bfld b 0 7 9 = 0 ∧ bfld b 0 0 7 ≤ 64 ∧ b.length = 2 + 2 * bfld b 0 0 7)
      && (idsOf (b.drop 2) (bfld b 0 0 7)).all fun v => decide (v < 4096)
  | 7 => decide (b.length = 4 ∧ bfld b 0 10 6 = 0 ∧ bfld b 0 26 6 = 0 ∧ 1 ≤ bfld b 0 16 10 ∧
      bfld b 0 0 10 + bfld b 0 16 10 ≤ 578)
  | _ => recBodyOk type b

/-- The reply body of a request refused with `FORMAT` (R377, R393). -/
def refusedBody (s : State) (type : Nat) (b : Bytes) : Bytes :=
  if !(isRecovery type) then []
  else natLe 4 0 ++ natLe 4 (if b.length = recLen type then beatOf s (recTarget type b) else serialFloor s)

/-- The reply body of a resend that is not acted on (R376). -/
def idleBody (s : State) (type : Nat) : Bytes := if isRecovery type then natLe 4 0 ++ natLe 4 (serialFloor s) else []

/-- The request leaves the unit's list. -/
def takeMgmt (s : State) (g : Mgmt) : State := { s with ft := { s.ft with mgmtIn := s.ft.mgmtIn.erase g } }
def holdMgmt (s : State) (g : Mgmt) : State :=
  if s.ft.mgmtIn.contains g then s else { s with ft := { s.ft with mgmtIn := s.ft.mgmtIn ++ [g] } }

/-- A copy of the request last accepted (R376). -/
def mgRepeat (s : State) (g : Mgmt) (k : Nat) : State :=
  let b := g.body
  match mapGet s.cf.replies k with
  | some r =>
    let s := { s with cf := { s.cf with replies := mapPut s.cf.replies k { r with port := g.port } } }
    match r.reply with
    | some m => sendMgr s k g.port m
    | none => s
  | none => mgrReply s k (mgSeq b) g.port (mgType b) stAborted (replySerial b) (idleBody s (mgType b))

/-- A request with a `SEQ` not seen before is accepted (R376); the `SEQ` is durable before it is answered (R448). -/
def mgAccept (s : State) (g : Mgmt) (k : Nat) (m : Manager) : State :=
  let s := { s with tn := { s.tn with managers := mapPut s.tn.managers k { m with seq := mgSeq g.body } } }
  commit { s with cf := { s.cf with replies := mapPut s.cf.replies k ⟨mgSeq g.body, none, g.port⟩ } } 1

/-- A request breaks R377. -/
def mgFormat (b : Bytes) : Bool :=
  !(knownType (mgType b)) || decide (mgStatus b ≠ 0) || (decide (mgSerial b ≠ 0) && !(isRecovery (mgType b)))
    || !(mgBodyOk (mgType b) (mgBody b))

/-- What every row of a manager request does first: authentication, replay, the format of the request (R375 to R377), and
the wait for the context table (R480). A request of another row is left alone. -/
def mgmtRow (s : State) (type : Nat) (g : Mgmt) (f : Nat → State → State) : State :=
  live s fun s =>
    let b := g.body
    if knownType (mgType b) && decide (mgType b ≠ type) then s
    else
      let s := takeMgmt s g
      match mgAuth s g with
      | none => raise1 s 55 fCfEventAuthFail
      | some (k, m) =>
        if mgSeq b = 0 ∨ mgSeq b < m.seq then raise1 s 55 fCfEventReplay
        else if mgSeq b = m.seq then mgRepeat s g k
        else if decide (0x13 ≤ type ∧ type ≤ 0x15) && !(tableReady s) then startZeroing (holdMgmt s g)
        else
          let s := mgAccept s g k m
          if mgFormat b then mgrReply s k (mgSeq b) g.port (mgType b) stFormat (replySerial b) (refusedBody s (mgType b) (mgBody b))
          else f k s

/-- Make the reply to an accepted request. -/
def mgAnswer (s : State) (g : Mgmt) (k status : Nat) (body : Bytes) : State :=
  mgrReply s k (mgSeq g.body) g.port (mgType g.body) status 0 body

/-! ## Recovery commands (R393) -/

def setFloor (s : State) (v : Nat) : State := commit { s with tn := { s.tn with floor := v } } 1

/-- The later of two serials (R496). -/
def laterSerial (a b : Nat) : Nat := if serialAfter 32 b a then b else a

/-- A table entry that may be reclaimed: no command in progress, no fence, no forwarding record (R394). -/
def reclaimable (s : State) (e : Nat × RecEntry) : Bool :=
  e.2.status.isSome && (if e.1 < 2 ^ 20 then (mapGet s.cf.fences e.1).isNone
    else if 2 ^ 21 ≤ e.1 then (mapGet s.cf.forwards (e.1 - 2 ^ 21)).isNone else true)

/-- Room for a target, by reclaiming the oldest entry (R394), or `none`. -/
def recRoom (s : State) (t : Nat) : Option State :=
  if (mapGet s.cf.table t).isSome ∨ s.cf.table.length < 4096 then some s
  else
    match (s.cf.table.filter (reclaimable s)).foldl (init := none) (fun b e => match b with
        | none => some e
        | some x => if e.2.order < x.2.order then some e else some x) with
    | none => none
    | some e =>
      some (setFloor { s with cf := { s.cf with table := mapDel s.cf.table e.1 } } (laterSerial (serialFloor s) e.2.serial))

/-- End the command in progress on a target with `ABORTED` (R393). -/
def recAbort (s : State) (t : Nat) : State :=
  match mapGet s.cf.table t with
  | none => s
  | some e =>
    if e.status.isSome then s
    else
      let s := if e.type = 0x15 then hoRevert s (t - 2 ^ 21) stAborted else s
      recDone { s with cf := { s.cf with
        drains := if e.type = 0x11 then s.cf.drains.erase t else s.cf.drains,
        rehomes := if e.type = 0x13 then mapDel s.cf.rehomes (t - 2 ^ 20) else s.cf.rehomes,
        rebuilds := if e.type = 0x14 then mapDel s.cf.rebuilds (t - 2 ^ 21) else s.cf.rebuilds } } t stAborted

/-! ## The commands -/

/-- FENCE: the earlier of two epochs stays in force (R391). -/
def actFence (s : State) (b : Bytes) : State :=
  let j := bfld b 0 0 16
  let f := num b 4 4
  let v := match mapGet s.cf.fences j with
    | some old => if serialBefore 32 f old then f else old
    | none => f
  recDone { s with cf := { s.cf with fences := mapPut s.cf.fences j v } } (tgtJob j) stOk

/-- DRAIN (Table 13.5). -/
def actDrain (s : State) (b : Bytes) : State :=
  let j := bfld b 0 0 16
  let s := (s.ae.reqs.filter fun e => e.2.job == j).foldl (fun s e => abortReq s e.1) s
  let s := (s.ae.ops.filter fun e => e.2.job == j && e.2.dst.isEmpty).foldl (fun s e => finishOp s e.1 stAborted 0 []) s
  let (gone, kept) := s.ae.drafts.partition fun x => msgJob x.msg == j
  let s := gone.foldl (fun s _ => discardDraft s) { s with ae := { s.ae with drafts := kept } }
  drainCheck { s with cf := { s.cf with drains := s.cf.drains ++ [j] } } j

/-- REOPEN (R391, R397). -/
def actReopen (s : State) (b : Bytes) : State :=
  let id := bfld b 4 0 20
  if bfld b 0 0 1 = 0 then recDone { s with cf := { s.cf with fences := mapDel s.cf.fences id } } (tgtJob id) stOk
  else recDone { s with cf := { s.cf with forwards := mapDel s.cf.forwards id } } (tgtCtx id) stOk

/-- Contexts of this node at a shard of a set. -/
def shardContexts (s : State) (set shard : Nat) : List Nat :=
  (s.cx.open_.filter fun e => e.2.shardSet == set && ctxGood s e.1 && dIndex (ctxBytes s e.1) == shard).map (·.1)

/-- Contexts that a `REHOME` closes (R395). -/
def rehomeContexts (s : State) (b : Bytes) : List Nat :=
  if bfld b 4 0 12 = nodeId s then [] else shardContexts s (bfld b 0 0 12) (bfld b 0 12 10)

/-- The tests of `REHOME` (R395). -/
def testRehome (s : State) (b : Bytes) : Option Nat :=
  let set := bfld b 0 0 12
  let shard := bfld b 0 12 10
  let node := bfld b 4 0 12
  let w := setWidth s set
  let new := (rehomeContexts s b).filter fun i => (mapGet s.cf.forwards i).isNone
  firstRefusal [
    (decide (w = 0 ∨ w ≤ shard) || (List.range w).any (fun k => decide (k ≠ shard ∧ setNode s set k = node)), stFormat),
    (decide (16384 < s.cf.forwards.length + new.length), stQuota)]

/-- REHOME (R395). -/
def actRehome (s : State) (b : Bytes) : State :=
  let set := bfld b 0 0 12
  let shard := bfld b 0 12 10
  let node := bfld b 4 0 12
  let ids := rehomeContexts s b
  let s := writeMem s (shardBase s + 2048 * set + 2 * shard) (natLe 2 node)
  let s := if shard = 0 then
      (s.cx.open_.filter fun e => e.2.shardSet == set && ctxGood s e.1).foldl (init := s) fun s e =>
        updCtx s e.1 fun d => putF d 0x14 16 12 node
    else s
  let s := ids.foldl (init := s) fun s i =>
    putForward (if auxState s i = 5 then s else closePoint s i true []) i node (num b 8 4)
  if ids = [] then recDone s (tgtSet set) stOk
  else { s with cf := { s.cf with rehomes := mapPut s.cf.rehomes set ids } }

/-- The tests of `REBUILD_MAP` (R396). -/
def testRebuild (s : State) (i : Nat) : Option Nat × State :=
  match readCtx s i 2 with
  | .error s => (some stUncorrectable, s)
  | .ok (_, s) => (if auxState s i = 0 then some stNoContext else none, s)

def actRebuild (s : State) (i : Nat) : State :=
  { s with cf := { s.cf with rebuilds := mapPut s.cf.rebuilds i ⟨false, [], [], [], 0, 0⟩ } }

/-- The tests of `HANDOVER` (R399), the route first, which needs no descriptor (R12); a context that this node only accepts is not its own to hand over. -/
def testHandover (s : State) (b : Bytes) : Option Nat × State :=
  let i := bfld b 0 0 20
  if (routeIn s.cf.current (bfld b 4 0 12)).isNone then (some stFormat, s)
  else
    match readCtx s i 2 with
    | .error s => (some stUncorrectable, s)
    | .ok (_, s) =>
      (firstRefusal [
        (decide (auxState s i = 0 ∨ auxState s i = 5) || (acceptorHint s i).isSome, stNoContext),
        (decide (handoverMax ≤ s.cf.handovers.length), stQuota)], s)

/-- A command's own tests (R393). -/
def recTest (s : State) (type : Nat) (b : Bytes) : Option Nat × State :=
  if type = 0x13 then (testRehome s b, s)
  else if type = 0x14 then testRebuild s (bfld b 0 0 20)
  else if type = 0x15 then testHandover s b
  else (none, s)

def recAct (s : State) (type serial : Nat) (b : Bytes) : State :=
  if type = 0x10 then actFence s b
  else if type = 0x11 then actDrain s b
  else if type = 0x12 then actReopen s b
  else if type = 0x13 then actRehome s b
  else if type = 0x14 then actRebuild s (bfld b 0 0 20)
  else hoStart s (bfld b 0 0 20) serial (bfld b 4 0 12)

/-- A new command: its tests, room in the table, the end of the one in progress, then its effect (R393, R394). -/
def recNew (s : State) (who : RecIssuer) (type serial : Nat) (b : Bytes) : State :=
  let t := recTarget type b
  match recTest s type b with
  | (some st, s) => recAnswer s who type serial st 0 (beatOf s t)
  | (none, s) =>
    match recRoom s t with
    | none => recAnswer s who type serial stQuota 0 (beatOf s t)
    | some s =>
      let s := recAbort s t
      let e : RecEntry := { serial := serial, type := type, status := none, order := s.cf.order, issuers := [who] }
      recAct { s with cf := { s.cf with table := mapPut s.cf.table t e, order := s.cf.order + 1 } } type serial b

/-- Handle a recovery command by its serial (R393). -/
def recHandle (s : State) (who : RecIssuer) (type serial : Nat) (b : Bytes) : State :=
  let t := recTarget type b
  match mapGet s.cf.table t with
  | some e =>
    if serial = e.serial then
      if type ≠ e.type then recAnswer s who type serial stFormat 0 e.serial
      else match e.status with
        | some st => recAnswer s who type serial st 1 e.serial
        | none => { s with cf := { s.cf with table := mapPut s.cf.table t { e with issuers := e.issuers ++ [who] } } }
    else if serialAfter 32 serial e.serial then recNew s who type serial b
    else recAnswer s who type serial stOk 0 e.serial
  | none =>
    if serialAfter 32 serial (serialFloor s) then recNew s who type serial b
    else recAnswer s who type serial stOk 0 (serialFloor s)

/-- A recovery command as a manager message. -/
def recRow (s : State) (type : Nat) (g : Mgmt) : State :=
  mgmtRow s type g fun k s =>
    recHandle s (.manager k (mgSeq g.body) g.port) type (mgSerial g.body) (mgBody g.body)

/-- FENCE (R391). -/
def execFence (g : Mgmt) (s : State) : Host.Outcome State Fault Refusal := .next (recRow s 0x10 g)

/-- DRAIN (R392). -/
def execDrain (g : Mgmt) (s : State) : Host.Outcome State Fault Refusal := .next (recRow s 0x11 g)

/-- REOPEN (R397). -/
def execReopen (g : Mgmt) (s : State) : Host.Outcome State Fault Refusal := .next (recRow s 0x12 g)

/-- REHOME (R395). -/
def execRehome (g : Mgmt) (s : State) : Host.Outcome State Fault Refusal := .next (recRow s 0x13 g)

/-- REBUILD_MAP (R396). -/
def execRebuildMap (g : Mgmt) (s : State) : Host.Outcome State Fault Refusal := .next (recRow s 0x14 g)

/-- HANDOVER (R399). -/
def execHandover (g : Mgmt) (s : State) : Host.Outcome State Fault Refusal := .next (recRow s 0x15 g)

/-- RECOVERY (R392, R393, Table 14.4): the body and serial of a recovery command in a descriptor. -/
def execRecovery (c : Cmd) (s : State) : Host.Outcome State Fault Refusal :=
  let type := num c.d 8 1
  let b := slice c.d 0x10 12
  let run (r : CmdRef) (s : State) : State :=
    if isRecovery type && recBodyOk type (b.take (recLen type)) && decide (leNat (b.drop (recLen type)) = 0) then
      recHandle s (.ring r) type (num c.d 0x0C 4) (b.take (recLen type))
    else complete s ⟨r, stFormat, 0, 0, 0, cmdBeat s c, false⟩
  .next (if 0x13 ≤ type ∧ type ≤ 0x15 then startCx s 0x30 c run else startCmd s 0x30 c run)

/-! ## Rebuilding a map (R396) -/

/-- Tails read in 1,024 cycles; a paused pass rate does not hold a rebuild back. -/
def rebuildRate (s : State) : Nat :=
  let r := getF s rPfControl fPfControlPassRate
  if r = 0 then 256 else r

def updRebuild (s : State) (i : Nat) (f : Rebuild → Rebuild) : State :=
  { s with cf := { s.cf with rebuilds := mapAdj s.cf.rebuilds i f } }

/-- Step 1: once nothing is in flight, the moves are abandoned and the bank-owned pages released. -/
def rebuildStart (s : State) (i : Nat) : State :=
  if inFlight s i ≠ 0 then s
  else
    let s := endCtxMoves s i
    match (s.pm.grants.filter fun g => g.ctx == i).map (·.handle) with
    | [] => updRebuild s i fun r => { r with started := true, toRead := s.pm.slots.map (·.1), grid := s.time / 1024 }
    | hs => askRelease s hs

/-- The key that a tail names in a context, when the tail holds and is the context's (step 2). -/
def tailKey (s : State) (i : Nat) (h : Nat) : Option (Option Nat × Nat) :=
  let t := slotTail s h
  let hd := tailHeader t
  let d := ctxBytes s i
  if (tailFault s h).isSome ∨ num t 0x1FE 2 ≠ tailCrc t ∨ hdContext hd ≠ i then none
  else
    let n := hdFirst hd / dP d / dW d
    let key := if hdLayer hd < dLayers d ∧ hdKv hd < dHeads d ∧ hdPart hd < dParts d ∧ hdFirst hd = firstPos d n then
        some (entryKey (hdLayer hd) (hdKv hd * dParts d + hdPart hd) n)
      else none
    some (key, num hd 0x0C 4)

/-- One tail is read: the latest `HOME_GEN` of a key wins, and ties go to the lower handle. -/
def rebuildTail (s : State) (i h : Nat) (r : Rebuild) : Rebuild :=
  match tailKey s i h with
  | none => r
  | some (none, _) => { r with losers := r.losers ++ [h] }
  | some (some key, gen) =>
    match mapGet r.kept key with
    | none => { r with kept := mapPut r.kept key (gen, h) }
    | some (g0, h0) =>
      if serialAfter 32 gen g0 || (decide (gen = g0) && decide (h < h0)) then
        { r with kept := mapPut r.kept key (gen, h), losers := r.losers ++ [h0] }
      else { r with losers := r.losers ++ [h] }

/-- A slot found is counted for its context (R45). -/
def adoptSlot (i cls : Nat) (s : State) (h : Nat) : State :=
  match mapGet s.pm.slots h with
  | some x =>
    let s := if x.cls = cls then s else addUse (subUse s x.cls (hQuota h) 1) cls (hQuota h) 1
    { s with pm := { s.pm with slots := mapPut s.pm.slots h ⟨i, cls, .home, false⟩ } }
  | none => s

def dropSlot (s : State) (h : Nat) : State :=
  match mapGet s.pm.slots h with
  | some x => subUse (freeSlot s h) x.cls (hQuota h) 1
  | none => s

/-- Local ordinals of a layer in the new map. -/
def rebuildOrdinals (d : Bytes) (r : Rebuild) (layer : Nat) : Nat :=
  r.kept.foldl (fun n e => if e.1 / 2 ^ 31 = layer then max n (e.1 % 2 ^ 22 + 1) else n) (ordinalsOf d)

/-- The new entry of a key (step 3). -/
def rebuiltEntry (s : State) (d : Bytes) (r : Rebuild) (gen layer k : Nat) : Nat :=
  let n := k / dHp d
  match mapGet r.kept (entryKey layer (k % dHp d) n) with
  | some (_, h) => mkEntry h 1 0 (hdValid (tailHeader (slotTail s h))) gen
  | none =>
    if n < ordinalsOf d then mkEntry 0 2 0 (min (dP d) (dEnd d - firstPos d n)) gen else 0

/-- Build the run of a layer; `none` where the pool lacks room. -/
def rebuildLayer (s : State) (root gen : Nat) (d : Bytes) (r : Rebuild) (layer : Nat) : Option State :=
  let count := rebuildOrdinals d r layer * dHp d
  if count = 0 then some s
  else
    let k := coverLog ((count - 1) / 256 + 1) 18 0
    match takeRun s k with
    | none => none
    | some (b, s) =>
      let base := poolBase s + 4096 * b
      let s := zeroRange s base (4096 * 2 ^ k)
      let s := (List.range count).foldl (init := s) fun s j => writeEntry s (base + 16 * j) (rebuiltEntry s d r gen layer j)
      some (writeEntry s (root + 16 * layer) (mkRootEntry k base gen))

def rebuildLayers (s : State) (root gen : Nat) (d : Bytes) (r : Rebuild) : Nat → Option State
  | 0 => some s
  | l + 1 =>
    match rebuildLayers s root gen d r l with
    | some s => rebuildLayer s root gen d r l
    | none => none

/-- The new root and runs, or `none`. -/
def rebuildMap (s : State) (i : Nat) (d : Bytes) (r : Rebuild) (gen : Nat) : Option (Nat × State) :=
  match takeRun s 0 with
  | none => none
  | some (b, s) =>
    let root := poolBase s + 4096 * b
    let s := writeEntry (zeroRange s root 4096) (root + 16 * 255) (mkRootHeader i (dHp d) (dParts d))
    (rebuildLayers s root gen d r (dLayers d)).map fun s => (root, s)

/-- Entries that become `DROPPED`. -/
def rebuiltDrops (d : Bytes) (r : Rebuild) : Nat :=
  sumOf ((List.range (dLayers d)).map fun l =>
    ((List.range (ordinalsOf d * dHp d)).filter fun k =>
      (mapGet r.kept (entryKey l (k % dHp d) (k / dHp d))).isNone).length)

/-- A rebuild ends with a status. -/
def rebuildDone (s : State) (i st : Nat) : State :=
  recDone { s with cf := { s.cf with rebuilds := mapDel s.cf.rebuilds i } } (tgtCtx i) st

/-- Step 3 and 4 with the descriptor read: the new map replaces the old one, and the context is served again. -/
def rebuildSwap (s : State) (i : Nat) (d : Bytes) (r : Rebuild) : State :=
  let gen := (dGen d + 1) % 2 ^ 32
  let cls := ctxClass s i
  let wins := r.kept.map fun e => e.2.2
  match rebuildMap s i d r gen with
  | none => rebuildDone (raiseQuota (raise1 s 3 fPmEventPoolEmpty)) i stQuota
  | some (root, t) =>
    let t := (ctxRuns s i d).foldl freeRun t
    let t := r.losers.foldl dropSlot t
    let t := ((slotsOf t i .home).filter fun h => !(wins.contains h)).foldl (fun t h => setUse t h .leaked) t
    let t := wins.foldl (adoptSlot i cls) t
    let count (q : Nat) : Nat := (wins.filter fun h => hQuota h == q).length
    let t := updCtx t i fun d =>
      setDGen (setDDropped (setDPages (setDPages (setDPages (putF d 0x20 0 40 root) 0 (count 0)) 1 (count 1)) 2 (count 2))
        (rebuiltDrops d r)) gen
    rebuildDone (forgetBad t i) i stOk

/-- Steps 3 and 4, the descriptor read once more (R28). -/
def rebuildEnd (s : State) (i : Nat) (r : Rebuild) : State :=
  match readCtx s i 2 with
  | .error s => rebuildDone s i stUncorrectable
  | .ok (d, s) => rebuildSwap s i d r

/-- A tail that poison kept from being read shows it on both readings (R227, R269). -/
def poisonedTail (s : State) (h : Nat) : State :=
  if (tailFault s h).any fun x => x.2 == 5 then raise1 (raise1 s 15 fTpEventPoison) 15 fTpEventPoison else s

/-- One tail of a rebuild is read, when its slot is still allocated (R396). -/
def readRebuilt (s : State) (i h : Nat) (r : Rebuild) : Rebuild × State :=
  if taken s h then (rebuildTail s i h r, unstage (poisonedTail s h) [h]) else (r, s)

/-- REBUILD_TAIL_READ (R396): the rebuild goes on by one tail, at its rate; a flash slot is staged first (R256). -/
def execRebuildTailRead (x : CtxRead) (s : State) : Host.Outcome State Fault Refusal :=
  .next (live s fun s =>
    match mapGet s.cf.rebuilds x.ctx with
    | none => s
    | some r =>
      if !r.started then rebuildStart s x.ctx
      else
        let s := takeReads s x.reads
        match r.toRead with
        | [] => rebuildEnd s x.ctx r
        | h :: rest =>
          let used := if s.time / 1024 = r.grid then r.used else 0
          if rebuildRate s ≤ used ∨ accessWaits s h = true then s
          else if taken s h = true ∧ unread s [h] ≠ [] then stageCounted s [h]
          else
            let (r, s) := readRebuilt s x.ctx h { r with toRead := rest, grid := s.time / 1024, used := used + 1 }
            if rest = [] then rebuildEnd s x.ctx r else updRebuild s x.ctx fun _ => r)

end Sys2Proof.Machine
end

