-- ==== Sys2Proof/Machine/Cf.lean ====
section
/-!
DEFINITION. Machine/Cf.lean: the composition and fence unit: routes and epochs (R378 to R384), port fences (R386), the
watch list and heartbeats (R389, R390), health scores (R387, R388).
-/

namespace Sys2Proof.Machine

/-! ## Tree connections (R380) -/

/-- The tree connection of a route to a node, as R321 opens it. -/
def treeConn (s : State) (node w : Nat) : Conn :=
  mkConn (getF s rCfControl fCfControlTreeTc) (rtPath w - 1) (rtHops w) (rtInc w) node (rtPeerConn w) (rtMask w) true

/-- The fields of an open tree connection are those of a route. -/
def sameTree (k : Conn) (node w : Nat) : Bool :=
  decide (k.path = rtPath w - 1 ∧ k.hops = rtHops w ∧ k.inc = rtInc w ∧ k.peer = node ∧ k.peerConn = rtPeerConn w ∧
    k.mask = rtMask w)

/-- A bank names a connection for another node. -/
def otherNode (bank : NMap Nat) (node c : Nat) : Bool :=
  bank.any fun e => e.1 != node && rtPath e.2 != 0 && rtConn e.2 == c

/-- A named entry of a `ROUTE_SET` breaks R380. -/
def routeRefused (s : State) (es : NMap Nat) (node w : Nat) : Bool :=
  let c := rtConn w
  let rest := s.cf.staging.filter fun e => (mapGet es e.1).isNone
  decide (node = nodeId s) || otherNode es node c || otherNode rest node c || otherNode s.cf.current node c
    || otherNode s.cf.previous node c
    || (match connOf s c with
      | none => false
      | some k => !k.tree || !(sameTree k node w || (decide (k.state = 2) && decide (k.inc ≠ rtInc w))))

/-- Every bank that names a connection takes its new route. -/
def renameRoute (w : Nat) (bank : NMap Nat) : NMap Nat :=
  bank.map fun e => if rtPath e.2 ≠ 0 ∧ rtConn e.2 = rtConn w then (e.1, w) else e

/-- One entry is staged, and its connection opened or reopened. -/
def stageRoute (s : State) (e : Nat × Nat) : State :=
  let (node, w) := e
  let s := { s with cf := { s.cf with staging := if w = 0 then mapDel s.cf.staging node else mapPut s.cf.staging node w } }
  if rtPath w = 0 then s
  else
    match connOf s (rtConn w) with
    | none => putConn s (rtConn w) (treeConn s node w)
    | some k =>
      if sameTree k node w then s
      else
        let s := putConn (connShut s (rtConn w)) (rtConn w) (treeConn s node w)
        { s with cf := { s.cf with current := renameRoute w s.cf.current, previous := renameRoute w s.cf.previous,
                                   staging := renameRoute w s.cf.staging } }

/-- ROUTE_SET (R379, R380). -/
def execRouteSet (g : Mgmt) (s : State) : Host.Outcome State Fault Refusal :=
  .next (mgmtRow s 2 g fun k s =>
    let es := rsEntries (mgBody g.body)
    if es.any (fun e => decide (4096 ≤ e.1)) || es.any fun e => decide (rtPath e.2 ≠ 0) && routeRefused s es e.1 e.2 then
      mgAnswer s g k stFormat []
    else sweepTrees (mgAnswer (es.foldl stageRoute s) g k stOk []))

/-! ## Epochs -/

/-- The node takes an epoch: the staging bank becomes current, and the new staging bank is a copy of it (R382). -/
def takeEpoch (s : State) (e : Nat) : State :=
  setF { s with cf := { s.cf with current := s.cf.staging } } rCfEpoch fCfEpochCurrent e

/-- EPOCH_OPEN (R382). -/
def execEpochOpen (g : Mgmt) (s : State) : Host.Outcome State Fault Refusal :=
  .next (mgmtRow s 3 g fun k s =>
    let e := mgEpoch g.body
    if !(composed s) then
      sweepTrees (mgAnswer (setB (takeEpoch { s with cf := { s.cf with previous := [] } } e) rCfStatus fCfStatusComposed true)
        g k stOk [])
    else if e = epochNow s then mgAnswer s g k stOk []
    else if e = (epochNow s + 1) % 2 ^ 32 then
      let s := setF { s with cf := { s.cf with previous := s.cf.current } } rCfEpoch fCfEpochPrevious (epochNow s)
      sweepTrees (mgAnswer (takeEpoch (setB s rCfStatus fCfStatusPrevOpen true) e) g k stOk [])
    else mgAnswer s g k stFormat [])

/-- EPOCH_CLOSE (R383). -/
def execEpochClose (g : Mgmt) (s : State) : Host.Outcome State Fault Refusal :=
  .next (mgmtRow s 4 g fun k s =>
    let e := mgEpoch g.body
    if composed s && decide (e = epochNow s) then mgAnswer s g k stFormat []
    else if prevOpen s && decide (e = epochPrev s) then
      sweepTrees (mgAnswer (setB { s with cf := { s.cf with previous := [] } } rCfStatus fCfStatusPrevOpen false) g k stOk [])
    else mgAnswer s g k stOk [])

/-! ## Fences, status, watch list, scores -/

/-- PORT_FENCE (R386): a fence of the port the request came by waits for its reply to leave. -/
def execPortFence (g : Mgmt) (s : State) : Host.Outcome State Fault Refusal :=
  .next (mgmtRow s 5 g fun k s =>
    let l := bfld (mgBody g.body) 0 0 18
    let e := bfld (mgBody g.body) 4 0 18
    if fld e g.port 1 = 1 then
      mgAnswer { s with cf := { s.cf with fenceWait := some (g.port, l, e) } } g k stOk []
    else mgAnswer (applyFence { s with cf := { s.cf with fenceWait := none } } l e) g k stOk [])

/-- Tree connections in `ERROR`. -/
def treeErrors (s : State) : Nat := (s.ft.conns.filter fun e => e.2.tree && e.2.state == 2).length

/-- `CF_STATUS` as it reads (Table 13.8). -/
def cfStatus (s : State) : Nat :=
  at_ 0 1 (getF s rCfStatus fCfStatusComposed) + at_ 1 13 s.cf.table.length + at_ 14 15 s.cf.forwards.length
    + at_ 29 7 s.cf.handovers.length + at_ 36 15 (treeErrors s) + at_ 51 1 (getF s rCfStatus fCfStatusPrevOpen)

/-- STATUS (Table 13.2). -/
def execStatus (g : Mgmt) (s : State) : Host.Outcome State Fault Refusal :=
  .next (mgmtRow s 1 g fun k s =>
    mgAnswer s g k stOk ([cfStatus s, regGet s rCfEpoch, regGet s rCfPortFence, regGet s rCfSuspect, serialFloor s].flatMap
      (natLe 8)))

/-- The watched nodes by watch index. -/
def watched (s : State) : NMap Nat :=
  (List.range 64).filterMap fun n => if getB s (rCfWatch n) fCfWatchValid then some (n, getF s (rCfWatch n) fCfWatchNode) else none

/-- WATCH_SET (Table 13.2): the new list begins without suspicions, and its periods begin. -/
def execWatchSet (g : Mgmt) (s : State) : Host.Outcome State Fault Refusal :=
  .next (mgmtRow s 6 g fun k s =>
    let b := mgBody g.body
    let n := bfld b 0 0 7
    let s := (List.range 64).foldl (init := s) fun s i =>
      setR s (rCfWatch i) (if i < n then num b (2 + 2 * i) 2 + 2 ^ 12 else 0)
    let s := setR s rCfSuspect 0
    mgAnswer { s with cf := { s.cf with watch := (List.range n).map fun i => (i, ⟨0, false⟩), hbEnd := s.time } } g k stOk [])

/-- SCORES (Table 13.2). -/
def execScores (g : Mgmt) (s : State) : Host.Outcome State Fault Refusal :=
  .next (mgmtRow s 7 g fun k s =>
    let b := mgBody g.body
    mgAnswer s g k stOk ((List.range (bfld b 0 16 10)).flatMap fun i =>
      natLe 2 (getF s (rCfScore (bfld b 0 0 10 + i)) fCfScoreScore)))

/-! ## Heartbeats (R389, R390) -/

/-- The 16 bytes of a heartbeat with a power state. -/
def heartbeat (s : State) (state : Nat) : Bytes :=
  natLe 4 (nodeId s + at_ 12 2 state) ++ natLe 4 (epochNow s) ++ natLe 8 s.cf.hbCount

/-- Send a heartbeat to each watched node with a route in the current bank. -/
def sendHeartbeats (s : State) (state : Nat) : State :=
  let s := { s with cf := { s.cf with hbCount := s.cf.hbCount + 1, hbLast := s.time } }
  (watched s).foldl (init := s) fun s e =>
    match routeIn s.cf.current e.2 with
    | some r =>
      let h : Hdr := { kind := 6, last := 1, service := 3, src := nodeId s, dst := e.2, len := 16 }
      sendDgram s ⟨getF s rCfControl fCfControlHbTc, rtPorts r, e.2, rtHops r, h.bytes ++ heartbeat s state⟩
    | none => s

/-- The power state a heartbeat reports. -/
def hbState (s : State) : Nat :=
  if s.power.retain ≠ .out then 2 else if getF s rPwPower fPwPowerStep = 0 then 0 else 1

def hbPeriod (s : State) : Nat := 1024 * getF s rCfControl fCfControlHbPeriod

/-- HEARTBEAT_SEND (R389); Retain entry has stopped them (R404). -/
def execHeartbeatSend (s : State) : Host.Outcome State Fault Refusal :=
  .next (live s fun s =>
    if composed s && decide (hbPeriod s ≠ 0) && due s s.cf.hbLast (hbPeriod s) && s.power.retain == .out then
      sweepTrees (sendHeartbeats s (hbState s))
    else s)

/-- A suspicion changes: the bit, the flag, the notices (R390). -/
def setSuspect (s : State) (n node : Nat) (b : Bool) : State :=
  let v := if b then 1 else 0
  if fld (regGet s rCfSuspect) n 1 = v then s
  else
    let s := raise1 (setR s rCfSuspect (setFld (regGet s rCfSuspect) n 1 v)) 55 fCfEventSuspect
    noticeManagers (noticeOrLose s 1 0x02 stOk n (node + 2 ^ 12 * v) 0 0) 1 n

/-- HEARTBEAT_RECEIVE (R390): one from a node that is not watched is discarded, and `HB_PERIOD` 0 suspects no node
(Table 13.9). -/
def execHeartbeatReceive (src : Nat) (m : Bytes) (s : State) : Host.Outcome State Fault Refusal :=
  .next (live s fun s =>
    let s := { s with ft := { s.ft with hbIn := s.ft.hbIn.erase (src, m) } }
    if m.length ≠ 16 then s
    else
      ((watched s).filter fun e => e.2 == src).foldl (init := s) fun s e =>
        setSuspect { s with cf := { s.cf with watch := mapPut s.cf.watch e.1 ⟨0, true⟩ } } e.1 e.2
          (decide (bfld m 0 12 2 = 2 ∧ hbPeriod s ≠ 0)))

/-- HEARTBEAT_PERIOD_END (R390). -/
def execHeartbeatPeriodEnd (s : State) : Host.Outcome State Fault Refusal :=
  .next (live s fun s =>
    if decide (hbPeriod s = 0) || !(due s s.cf.hbEnd (hbPeriod s)) then s
    else
      (watched s).foldl (init := { s with cf := { s.cf with hbEnd := s.time } }) fun s e =>
        let w := (mapGet s.cf.watch e.1).getD ⟨0, false⟩
        let missed := if w.heard then 0 else w.missed + 1
        let s := { s with cf := { s.cf with watch := mapPut s.cf.watch e.1 ⟨missed, false⟩ } }
        if getF s rCfControl fCfControlHbMisses < missed then setSuspect s e.1 e.2 true else s)

/-! ## Health scores (R387, R388) -/

/-- Cycles of 1 ms. -/
def msCycles : Nat := 940000

/-- The kind of a scored object: lane, port, BBD, channel, AC (Table 13.4). -/
def scoreKind (i : Nat) : Nat := if i < 288 then 0 else if i < 306 then 1 else if i < 314 then 2 else if i < 442 then 3 else 4

/-- The next score from a score and a period's w. -/
def nextScore (score w : Nat) : Nat := score - score / 16 + w

/-- The day of power-on time, modulo the 64 kept (Table 15.9, record 5). -/
def dayOf (s : State) : Nat := s.tn.seconds / 86400 % 64

/-- The health record keeps the highest score of the day of an AC (Table 15.9, record 5). -/
def noteHealth (s : State) (i v : Nat) : State :=
  let k := 64 * (i - 442) + dayOf s
  if i < 442 ∨ v ≤ (mapGet s.tn.health k).getD 0 then s
  else { s with tn := { s.tn with health := mapPut s.tn.health k v } }

/-- One object's score at the end of a period (R387), and its mark (R388). -/
def formScore (t : NMap Nat) (s : State) (i : Nat) : State :=
  let old := getF s (rCfScore i) fCfScoreScore
  let new := nextScore old (min 4095 ((mapGet t i).getD 0 / 256))
  let mark := getF s (rCfHealthMark (scoreKind i)) fCfHealthMarkMark
  let s := noteHealth (if new = old then s else setR s (rCfScore i) new) i new
  if old < mark ∧ mark ≤ new then
    let s := raise1 (setR s rCfHealthLast (at_ 0 10 i + at_ 32 16 new)) 55 fCfEventHealth
    noticeManagers (noticeOrLose s 0 0x04 stOk i new 0 0) 4 i
  else s

/-- HEALTH_PERIOD (R387); the operand gives, by score index, the counts that only the surroundings supply, in 1/256 units. -/
def execHealthPeriod (extra : List (Nat × Nat)) (s : State) : Host.Outcome State Fault Refusal :=
  .next (live s fun s =>
    if s.time / msCycles = s.cf.healthAt then s
    else
      let t := extra.foldl (fun t (i, k) => mapPut t i ((mapGet t i).getD 0 + k)) s.cf.tally
      sweepTrees ((List.range 578).foldl (formScore t) { s with cf := { s.cf with tally := [], healthAt := s.time / msCycles } }))

end Sys2Proof.Machine
end

