-- ==== Sys2Proof/Machine/MlDsa.lean ====
section
/-!
DEFINITION. Machine/MlDsa.lean: ML-DSA-44 (FIPS 204: R434, R437, R440, R442): key generation from a seed, signing and
verification, with an empty context string.  A polynomial is the list of its 256 coefficients modulo q.
-/

namespace Sys2Proof.Machine

/-! ## Parameters (FIPS 204, section 4) -/

abbrev Poly := List Nat

/-- The modulus q. -/
def dsaQ : Nat := 8380417
/-- γ1 and γ2. -/
def dsaG1 : Nat := 2 ^ 17
def dsaG2 : Nat := 95232
/-- β = τ η. -/
def dsaBeta : Nat := 78
/-- ω, the most hints of a signature. -/
def dsaOmega : Nat := 80
/-- τ, the nonzero coefficients of a challenge. -/
def dsaTau : Nat := 39

/-! ## Arithmetic modulo q -/

def qAdd (a b : Nat) : Nat := (a + b) % dsaQ
def qSub (a b : Nat) : Nat := (a + (dsaQ - b % dsaQ)) % dsaQ
def qMul (a b : Nat) : Nat := a * b % dsaQ
def qNeg (a : Nat) : Nat := qSub 0 a

def polyAdd : Poly → Poly → Poly := List.zipWith qAdd
def polySub : Poly → Poly → Poly := List.zipWith qSub

/-- Eight bits in reverse. -/
def brv8 (m : Nat) : Nat := (List.range 8).foldl (fun v i => 2 * v + m / 2 ^ i % 2) 0

/-- A power of ζ = 1753, a 512th root of unity. -/
def dsaZeta (e : Nat) : Nat := 1753 ^ (e % 512) % dsaQ

/-- NTT of 2^n coefficients, the block m of its level. -/
def nttAt : Nat → Nat → Poly → Poly
  | 0, _, w => w
  | n + 1, m, w =>
    let z := dsaZeta (brv8 m)
    let lo := w.take (2 ^ n)
    let hi := (w.drop (2 ^ n)).map (qMul z)
    nttAt n (2 * m) (polyAdd lo hi) ++ nttAt n (2 * m + 1) (polySub lo hi)

/-- The inverse, without its factor. -/
def invNttAt : Nat → Nat → Poly → Poly
  | 0, _, w => w
  | n + 1, m, w =>
    let z := dsaZeta (512 - brv8 m)
    let lo := invNttAt n (2 * m) (w.take (2 ^ n))
    let hi := invNttAt n (2 * m + 1) (w.drop (2 ^ n))
    polyAdd lo hi ++ (polySub lo hi).map (qMul z)

def ntt (w : Poly) : Poly := nttAt 8 1 w

/-- The factor is the inverse of 256. -/
def invNtt (w : Poly) : Poly := (invNttAt 8 1 w).map (qMul 8347681)

def nttMul : Poly → Poly → Poly := List.zipWith qMul

def zeroPoly : Poly := List.replicate 256 0

/-- The product of a matrix and a vector, both in the NTT domain, back as polynomials. -/
def matVec (a : List (List Poly)) (v : List Poly) : List Poly :=
  a.map fun row => invNtt ((List.zipWith nttMul row v).foldl polyAdd zeroPoly)

/-- A scalar in the NTT domain times a vector in it. -/
def scaleVec (c : Poly) (v : List Poly) : List Poly := v.map fun p => invNtt (nttMul c p)

/-- The centred representative. -/
def centred (x : Nat) : Int := if dsaQ / 2 < x then (x : Int) - dsaQ else x

/-- The infinity norm is below a bound. -/
def normBelow (b : Nat) (v : List Poly) : Bool := v.all fun p => p.all fun x => decide ((centred x).natAbs < b)

/-! ## Rounding -/

/-- `Power2Round` with d = 13. -/
def power2Round (r : Nat) : Nat × Nat :=
  let low := r % 2 ^ 13
  if low ≤ 2 ^ 12 then (r / 2 ^ 13, low) else (r / 2 ^ 13 + 1, qSub low (2 ^ 13))

/-- `Decompose`: the high part, and the low part modulo q. -/
def decompose (r : Nat) : Nat × Nat :=
  let low := r % (2 * dsaG2)
  let (hi, lo) := if low ≤ dsaG2 then (r / (2 * dsaG2), low) else (r / (2 * dsaG2) + 1, qSub low (2 * dsaG2))
  if hi = 44 then (0, qSub lo 1) else (hi, lo)

def highBits (r : Nat) : Nat := (decompose r).1

/-- `UseHint`. -/
def useHint (h r : Nat) : Nat :=
  let (hi, lo) := decompose r
  if h = 0 then hi else if 0 < centred lo then (hi + 1) % 44 else (hi + 43) % 44

/-! ## Encodings -/

/-- Coefficients of `w` bits each, least significant first. -/
def packBits (w : Nat) (p : Poly) : Bytes :=
  natLe (32 * w) (p.foldr (fun x n => x % 2 ^ w + 2 ^ w * n) 0)

def unpackBits (w : Nat) (b : Bytes) : Poly :=
  let n := leNat b
  (List.range 256).map fun i => n / 2 ^ (w * i) % 2 ^ w

/-- The coefficients of z and of the mask: γ1 less a number of 18 bits. -/
def packZ (p : Poly) : Bytes := packBits 18 (p.map (qSub dsaG1))
def unpackZ (b : Bytes) : Poly := (unpackBits 18 b).map (qSub dsaG1)

def packW1 (v : List Poly) : Bytes := v.flatMap (packBits 6)

/-- The places of the hints of a vector, then their running counts. -/
def packHints (v : List Poly) : Bytes :=
  let at_ := v.map fun p => (List.range 256).filter fun j => decide (p.getD j 0 ≠ 0)
  let ends := (List.range 4).map fun i => ((at_.take (i + 1)).map List.length).sum
  padTo dsaOmega (at_.flatten.map (BitVec.ofNat 8)) ++ ends.map (BitVec.ofNat 8)

/-- The hints of a signature, where their encoding is well formed: counts that do not fall, places that rise, and zeros
after them. -/
def unpackHints (b : Bytes) : Option (List Poly) :=
  let places := (b.take dsaOmega).map BitVec.toNat
  let ends := (slice b dsaOmega 4).map BitVec.toNat
  let starts := 0 :: ends
  let rows := (List.range 4).map fun i => (places.take (ends.getD i 0)).drop (starts.getD i 0)
  let last := ends.getD 3 0
  let rising (l : List Nat) : Bool := (l.zip l.tail).all fun e => decide (e.1 < e.2)
  if (List.range 4).all (fun i => decide (starts.getD i 0 ≤ ends.getD i 0 ∧ ends.getD i 0 ≤ dsaOmega)) && rows.all rising
      && (places.drop last).all (· == 0) then
    some (rows.map fun l => (List.range 256).map fun j => if l.contains j then 1 else 0)
  else none

/-! ## Sampling -/

/-- `RejNTTPoly`: coefficients of 23 bits below q, from 298 candidates as FIPS 204 allows. -/
def rejNtt (seed : Bytes) : Poly :=
  let b := shake128 seed 894
  padPoly (((List.range 298).map fun i => num b (3 * i) 3 % 2 ^ 23).filter fun x => decide (x < dsaQ))
where
  padPoly (l : List Nat) : Poly := (l ++ zeroPoly).take 256

/-- `RejBoundedPoly` with η = 2, from 481 bytes as FIPS 204 allows. -/
def rejBounded (seed : Bytes) : Poly :=
  let half := (shake256 seed 481).flatMap fun b => [b.toNat % 16, b.toNat / 16]
  ((((half.filter fun x => decide (x < 15)).map fun x => qSub 2 (x % 5))) ++ zeroPoly).take 256

/-- `ExpandA`: the matrix, in the NTT domain. -/
def expandA (rho : Bytes) : List (List Poly) :=
  (List.range 4).map fun r => (List.range 4).map fun s => rejNtt (rho ++ natLe 1 s ++ natLe 1 r)

/-- `ExpandS`: four polynomials from the index `k`. -/
def expandS (rho : Bytes) (k : Nat) : List Poly := (List.range 4).map fun r => rejBounded (rho ++ natLe 2 (k + r))

/-- `ExpandMask`. -/
def expandMask (rho : Bytes) (k : Nat) : List Poly :=
  (List.range 4).map fun r => unpackZ (shake256 (rho ++ natLe 2 (k + r)) 576)

/-- One coefficient of a challenge: the first byte that is at most i names the place it swaps with. -/
def challengeStep (signs : Nat) (e : Poly × Bytes) (i : Nat) : Poly × Bytes :=
  match e.2.dropWhile fun x => decide (i < x.toNat) with
  | [] => e
  | j :: rest =>
    let v := if signs.testBit (i + dsaTau - 256) then qNeg 1 else 1
    ((e.1.set i (e.1.getD j.toNat 0)).set j.toNat v, rest)

/-- `SampleInBall`, from 221 bytes as FIPS 204 allows. -/
def sampleInBall (seed : Bytes) : Poly :=
  let b := shake256 seed 221
  (((List.range dsaTau).map (· + (256 - dsaTau))).foldl (challengeStep (num b 0 8)) (zeroPoly, b.drop 8)).1

/-! ## Keys (FIPS 204, algorithm 6) -/

structure DsaKey where
  rho : Bytes
  key : Bytes
  s1  : List Poly
  s2  : List Poly
  t1  : List Poly
  t0  : List Poly

/-- The key pair of a 32-byte seed. -/
def dsaKeyGen (xi : Bytes) : DsaKey :=
  let b := shake256 (xi ++ [4, 4]) 128
  let rho := b.take 32
  let s1 := expandS (slice b 32 64) 0
  let s2 := expandS (slice b 32 64) 4
  let t := List.zipWith polyAdd (matVec (expandA rho) (s1.map ntt)) s2
  ⟨rho, b.drop 96, s1, s2, t.map (List.map fun x => (power2Round x).1), t.map (List.map fun x => (power2Round x).2)⟩

/-- The public key, of 1,312 bytes. -/
def dsaPublic (k : DsaKey) : Bytes := k.rho ++ k.t1.flatMap (packBits 10)

/-- The digest μ of a message under a public key, with an empty context string. -/
def dsaDigest (pk m : Bytes) : Bytes := shake256 (shake256 pk 64 ++ [0, 0] ++ m) 64

/-! ## Signing (algorithm 7) -/

/-- One attempt at a signature. -/
def dsaAttempt (k : DsaKey) (a : List (List Poly)) (mu y : Bytes) (kappa : Nat) : Option Bytes :=
  let mask := expandMask y kappa
  let w := matVec a (mask.map ntt)
  let ct := shake256 (mu ++ packW1 (w.map (List.map highBits))) 32
  let c := ntt (sampleInBall ct)
  let z := List.zipWith polyAdd mask (scaleVec c (k.s1.map ntt))
  let r := List.zipWith polySub w (scaleVec c (k.s2.map ntt))
  let ct0 := scaleVec c (k.t0.map ntt)
  let hints := List.zipWith (List.zipWith fun x e => if highBits (qAdd x e) = highBits x then 0 else 1) r ct0
  if normBelow (dsaG1 - dsaBeta) z && normBelow (dsaG2 - dsaBeta) (r.map (List.map fun x => (decompose x).2))
      && normBelow dsaG2 ct0 && decide ((hints.map List.sum).sum ≤ dsaOmega) then
    some (ct ++ z.flatMap packZ ++ packHints hints)
  else none

/-- The first attempt that stands, of 814 as FIPS 204 allows. -/
def dsaTry (k : DsaKey) (a : List (List Poly)) (mu y : Bytes) : Nat → Nat → Bytes
  | 0, _ => []
  | n + 1, kappa =>
    match dsaAttempt k a mu y kappa with
    | some b => b
    | none => dsaTry k a mu y n (kappa + 4)

/-- The signature of a message, of 2,420 bytes, with the randomness `rnd`. -/
def dsaSign (k : DsaKey) (m rnd : Bytes) : Bytes :=
  let mu := dsaDigest (dsaPublic k) m
  dsaTry k (expandA k.rho) mu (shake256 (k.key ++ rnd ++ mu) 64) 814 0

/-! ## Verification (algorithm 8) -/

/-- A signature of a message holds under a public key. -/
def dsaVerify (pk m sig : Bytes) : Bool :=
  match unpackHints (slice sig 2336 84) with
  | none => false
  | some hints =>
    let z := (List.range 4).map fun i => unpackZ (slice sig (32 + 576 * i) 576)
    let t1 := (List.range 4).map fun i => (unpackBits 10 (slice pk (32 + 320 * i) 320)).map (qMul (2 ^ 13))
    let c := ntt (sampleInBall (sig.take 32))
    let w := List.zipWith polySub (matVec (expandA (pk.take 32)) (z.map ntt)) (scaleVec c (t1.map ntt))
    let w1 := List.zipWith (List.zipWith useHint) hints w
    normBelow (dsaG1 - dsaBeta) z && decide (sig.take 32 = shake256 (dsaDigest pk m ++ packW1 w1) 32)

end Sys2Proof.Machine
end

