-- ==== Sys2Proof/Machine/Jobs.lean ====
section
/-!
DEFINITION. Machine/Jobs.lean: the job and model commands (R210 to R217, R420, R421).
-/

namespace Sys2Proof.Machine

/-- A command reads node memory by plain address: an unbacked address or a line of a BBD out of service ends it with
`UNCORRECTABLE`, logged (R161, R258, log entry 26). -/
def withNpa (s : State) (r : CmdRef) (a len : Nat) (f : Bytes → State) : State :=
  if gddrSize < a + len then finish (logFailure s { cause := 11, source := 6, handle := a }) r stUncorrectable
  else
    match rangeOut s a len with
    | some p =>
      finish (logFailure s { cause := 10, source := 6, channel := some (place s p).1, handle := p }) r stUncorrectable
    | none => f (readMem s a len)

def jobOperand (c : Cmd) : Nat := bfld c.d 8 0 40

/-- Test 1 of R211, with the regions of R259 and R282: `KIND` 1 needs a model loaded and before its unload point (R217). -/
def jobFormatBad (s : State) (d : Bytes) : Bool :=
  let sw := swapRegion s
  !(onlyBits d jobBits) || decide (1 < jKind d ∨ 2048 < jThreads d)
    || (decide (jKind d = 1) && (decide (jImage d ≠ 0 ∨ bfld d 0x10 16 16 ≠ 0) || !(getB s rAcStatus fAcStatusRmLoaded)
        || s.ac.unload.isSome || decide (num (readMem s (regGet s rAcRmBase) 64) 4 1 < jFirstLayer d + jLayers d)))
    || (fixedRegions s).any (fun (a, n) => overlaps a n sw.1 sw.2) || decide (sw.2 ≠ 0 ∧ reserveBase s < sw.1 + sw.2)

/-- Test 3 of R211: the save area was written by a job of this shape, and still holds its header (log entry 21). -/
def resumeBad (s : State) (d : Bytes) : Bool :=
  jResume d && match mapGet s.ac.saved (jSave d) with
    | some a =>
      decide (jKind a.desc ≠ jKind d ∨ jThreads a.desc ≠ jThreads d ∨ jImage a.desc ≠ jImage d ∨ jEntry a.desc ≠ jEntry d
        ∨ jImageBytes a.desc ≠ jImageBytes d) || !(readMem s (jSave d) 4096 == a.header)
    | none => true

/-- Test 4 of R211 (R49, R201). -/
def jobNoRoom (s : State) (d : Bytes) : Bool :=
  decide (getF s rCxJobLimit ⟨0, 16⟩ ≤ getF s (rCxClientJobs (jClient d)) clientField ∨ 4096 ≤ s.ac.jobs.length
    ∨ swapSlots s - (slotsReserved s).length < jThreads d ∨ reachMask s (jClass d) = 0)

/-- The lowest `n` swap slots that no job reserves (R209, log entry 9). -/
def freeSlots (s : State) (n : Nat) : List Nat :=
  let used := slotsReserved s
  ((List.range (used.length + n)).filter fun k => !(used.contains k)).take n

/-- The threads of a job at its admission: fresh, or as its save area holds them (R211, R214). -/
def firstThreads (s : State) (d : Bytes) : NMap Thread :=
  let old := if jResume d then (match mapGet s.ac.saved (jSave d) with
    | some a => a.threads
    | none => []) else []
  ((freeSlots s (jThreads d)).zipIdx).map fun (k, i) =>
    match mapGet old i with
    | some t =>
      (i, { t with cond := if t.cond = .ended then .ended else .runnable, place := .area, await := none, event := none,
                   since := s.time, slot := k })
    | none => (i, Thread.fresh d k s.time)

/-- Admit a job (R49, R209, R212). -/
def admitJob (s : State) (r : CmdRef) (n : Nat) (d : Bytes) : State :=
  let tick := if jResume d then (match mapGet s.ac.saved (jSave d) with
    | some a => a.nextTick
    | none => 0) else 0
  let j : Job := { desc := d, ref := r, order := s.ac.order, threads := firstThreads s d, nextTick := tick, preempt := none }
  let s := { s with ac := { s.ac with order := s.ac.order + 1, jobs := mapPut s.ac.jobs n j } }
  let s := bumpF s (rCxClientJobs (jClient d)) clientField 1
  if jThreads d = 0 then endJob s n stOk 0 0 0 0 else s

/-- JOB_SUBMIT (R211, R420). -/
def execJobSubmit (c : Cmd) (s : State) : Host.Outcome State Fault Refusal :=
  .next (startCmd s 0x10 c fun r s =>
    let n := jobOperand c
    if (jobAt s n).isSome then finish s r stFormat
    else withNpa s r n 128 fun d =>
      if jobFormatBad s d then finish s r stFormat
      else if jSaveBytes d ≠ 0 ∧ jSaveBytes d < 4096 + swapBytes * jThreads d then finish s r stLength
      else if resumeBad s d then finish s r stFormat
      else if jobNoRoom s d then finish (raiseQuota s) r stQuota
      else admitJob s r n d)

/-- JOB_PREEMPT (R213, R420). -/
def execJobPreempt (c : Cmd) (s : State) : Host.Outcome State Fault Refusal :=
  .next (startCmd s 0x11 c fun r s =>
    let n := jobOperand c
    match jobAt s n with
    | none => finish s r stOk
    | some j =>
      if jSaveBytes j.desc = 0 then finish s r stFormat
      else
        match j.preempt with
        | some p => updJob s n fun j => { j with preempt := some { p with refs := p.refs ++ [r] } }
        | none => updJob s n fun j => { j with preempt := some ⟨decide (bfld c.d 0x10 0 1 = 1), s.time, [r]⟩ })

/-- The time a pre-emption is given, in cycles (R214). -/
def preemptLimit (s : State) : Nat := 1024 * getF s rAcControl fAcControlPreemptTimeout

/-- PREEMPT_TIMEOUT (R214). -/
def execPreemptTimeout (job : Nat) (s : State) : Host.Outcome State Fault Refusal :=
  .next (live s fun s =>
    match (jobAt s job).bind fun j => j.preempt with
    | some p =>
      if due s p.time (preemptLimit s) then endJob (raise1 s 13 fAcEventPreemptTimeout) job stTimeout 0 0 0 0 else s
    | none => s)

/-- JOB_QUERY (R421). -/
def execJobQuery (c : Cmd) (s : State) : Host.Outcome State Fault Refusal :=
  .next (startCmd s 0x12 c fun r s =>
    let n := jobOperand c
    if (jobAt s n).isSome then completeWith s r stOk 1
    else
      match (s.ac.records.reverse).find? fun x => x.npa == n with
      | some x => complete s ⟨r, stOk, x.count, 2 + 2 ^ 8 * x.status + 2 ^ 16 * x.result, x.r1, x.r2, false⟩
      | none => completeWith s r stOk 0)

/-- The layers of a model whose steps, or whose table, fall outside its image (R215). -/
def modelOutside (s : State) (base : Nat) (h : Bytes) : Bool :=
  let size := num h 0 4
  let table := num h 8 4
  decide (size < table + 8 * num h 4 1) || (List.range (num h 4 1)).any fun l =>
    let a := base + table + 8 * l
    decide (size < leNat (readMem s a 4) + 64 * leNat (readMem s (a + 4) 4))

/-- RM_LOAD (R12, R18, R215, R259): a header that lies past the backed memory cannot be read. -/
def execRmLoad (c : Cmd) (s : State) : Host.Outcome State Fault Refusal :=
  .next (startCmd s 0x13 c fun r s =>
    let base := jobOperand c
    let len := num c.d 0x10 4
    if gddrSize < base + 64 ∧ gddrSize < base + len then finish s r stLength
    else withNpa s r base 64 fun h =>
      let size := num h 0 4
      let regions := swapRegion s :: fixedRegions s
      refuseOr s r
        (firstRefusal [(decide (num h 0x3E 2 ≠ crc16 (h.take 0x3E) ∨ num h 4 1 = 0) || modelOutside s base h
              || regions.any (fun (a, n) => overlaps a n base size), stFormat),
            (decide (gddrSize < base + len ∨ len < size), stLength), (getB s rAcStatus fAcStatusRmLoaded, stQuota)])
        (finish (setB (setR (setR s rAcRmBase base) rAcRmSize size) rAcStatus fAcStatusRmLoaded true) r stOk))

/-- RM_UNLOAD (R217). -/
def execRmUnload (c : Cmd) (s : State) : Host.Outcome State Fault Refusal :=
  .next (startCmd s 0x14 c fun r s =>
    if !(getB s rAcStatus fAcStatusRmLoaded) then finish s r stOk
    else unloadCheck { s with ac := { s.ac with unload := some (s.ac.unload.getD [] ++ [r]) } })

end Sys2Proof.Machine
end

