-- ==== Sys2Proof/Machine/Proof.lean ====
section
/-!
DEFINITION. Machine/Proof.lean: proofread passes (R277 to R280), the log head (R273), and retirement of slots and channels
(R283 to R286).
-/

namespace Sys2Proof.Machine

/-! ## Passes -/

/-- The pass ends (R280). -/
def endPass (s : State) : State :=
  freeDeferred (raise1 (setB { s with pf := { s.pf with pass := none } } rPfStatus fPfStatusPassRunning false) 16 fPfEventPassDone)

/-- A write of `PF_PASS` with `START` (R277): the range bounds are scaled to the cursor of the kind. -/
def startPass (s : State) : State :=
  if s.pf.pass.isSome then s
  else
    let kind := getF s rPfPass fPfPassKind
    let lo := regGet s rPfPassFrom
    let hi := regGet s rPfPassTo
    let s := [rPfPassLines, rPfPassFails, rPfPassFirst, rPfPassLast].foldl (fun s r => setR s r 0) s
    let scale (n : Nat) : Nat := if kind = 1 then 4096 * ceilDiv n 4096 else if kind = 4 then 32 * n else n
    if hi ≤ lo then endPass s
    else
      let p : Pass := { kind := kind, unit := getF s rPfPass fPfPassUnit, cursor := scale lo, stop := scale hi, slot := none,
                        failed := false, grid := s.time / 1024, used := 0 }
      setB { s with pf := { s.pf with pass := some p } } rPfStatus fPfStatusPassRunning true

/-- A write of `PF_PASS` with `ABORT` (R280). -/
def abortPass (s : State) : State := if s.pf.pass.isSome then endPass s else s

/-- Where a slot lies in the range of a pass over slots (Table 09.5). -/
def passPlace (s : State) (p : Pass) (h : Nat) : Option Nat :=
  if p.kind = 0 then (if hTier h ≤ 1 then some (slotNpa s h) else none)
  else if p.kind = 3 then
    (if (hTier h = 2 ∨ hTier h = 3) ∧ hLink h = p.unit then some (fld h 0 34 / 132) else none)
  else if hTier h = 4 ∧ fDrive h = p.unit ∧ (mapGet s.tm.extents (extKey (fDrive h) (fExtent h))).isSome then
    some (32 * fExtent h + fPosn h)
  else none

/-- The next slot of the range: its place and handle. -/
def nextSlot (s : State) (p : Pass) : Option (Nat × Nat × SlotUse) :=
  let all := s.pm.slots.filterMap fun e => (passPlace s p e.1).map fun k => (k, e.1, e.2.use)
  (all.filter fun e => decide (p.cursor ≤ e.1 ∧ e.1 < p.stop) && e.2.2 != .leaked).foldl (init := none) fun b e =>
    match b with
    | none => some e
    | some x => if e.1 < x.1 then some e else some x

def setPass (s : State) (p : Pass) : State := { s with pf := { s.pf with pass := some p } }

/-- Find the slot to read next; a slot that is not yet a home is skipped and counted (R279). -/
def seekSlot : Nat → State → Pass → State × Pass
  | 0, s, p => (s, p)
  | fuel + 1, s, p =>
    match nextSlot s p with
    | none => (s, { p with cursor := p.stop })
    | some (k, h, u) =>
      if u = .writing then seekSlot fuel (bumpF s rPfPassFails fPfPassFailsSkipped 1) { p with cursor := k + 1 }
      else (s, { p with cursor := k + 1, slot := some (h, 0) })

/-- The slot to read: the one in hand, judged by its state when its first line is read, or else the next (R279). -/
def passOn (s : State) (p : Pass) : State × Pass :=
  let seek (s : State) : State × Pass := seekSlot (s.pm.slots.length + 1) s { p with slot := none }
  match p.slot with
  | none => seek s
  | some (h, i) =>
    if i ≠ 0 then (s, p)
    else
      match (mapGet s.pm.slots h).map (·.use) with
      | some SlotUse.home | some SlotUse.deferred => (s, p)
      | some SlotUse.writing => seek (bumpF s rPfPassFails fPfPassFailsSkipped 1)
      | _ => seek s

/-- The failing unit of a pass is counted: `FAILS`, `FIRST` and `LAST`, in log form (R280). -/
def passFail (s : State) (p : Pass) (f : Failure) : State × Pass :=
  let a := f.handle + 2 ^ 40 * f.line
  let s := setR (bumpF s rPfPassFails fPfPassFailsFails 1) rPfPassLast a
  (if p.failed then s else setR s rPfPassFirst a, { p with failed := true })

/-- One line of a slot, checked as stored (Table 09.5): the line check, or `TAIL_CRC` at the tail's last line. -/
def passLine (s : State) (h i : Nat) : Option Failure :=
  let hd := tailHeader (slotTail s h)
  let ctx := match mapGet s.pm.slots h with
    | some x => some (x.ctx, hdKv hd, hdLayer hd, hdFirst hd)
    | none => none
  let base : Failure := { cause := if i < 128 then 0 else 1, source := 5, author := hdAuthor hd, ctx := ctx,
                          channel := lineChannel s h i, line := i, handle := h }
  match lineFault s h i with
  | some c => some { base with cause := c, author := 0 }
  | none =>
    let c := slotLineChecks s h i
    if (128 ≤ i ∧ i < 131) ∨ c.1 = c.2 then none else some { base with stored := c.1, computed := c.2 }

/-- The use of a page-map block: the context whose root it is, or the context, layer and base of the leaf run it lies in. -/
def blockUse (s : State) (a : Nat) : Option (Nat × Option (Nat × Nat)) :=
  s.cx.open_.findSome? fun e =>
    let d := ctxBytes s e.1
    if dRoot d = a then some (e.1, none)
    else
      ((List.range (dLayers d)).findSome? fun l =>
        match readRun s 5 e.1 d l with
        | .run log2 base => if base ≤ a ∧ a < base + 4096 * 2 ^ log2 then some (l, base) else none
        | _ => none).map fun x => (e.1, some x)

/-- One entry of a page-map block (R67): its check, and the content that its table gives it. -/
def passEntry (s : State) (a : Nat) : Option Failure :=
  let e := entryAt s a
  let k := a % 4096 / 16
  let use := blockUse s (4096 * (a / 4096))
  let d := match use with
    | some u => ctxBytes s u.1
    | none => []
  let who : Option (Nat × Nat × Nat × Nat) := match use with
    | some (c, none) => some (c, 0, if k < 255 then k else 0, 0)
    | some (c, some (l, base)) =>
      let i := (a - base) / 16
      some (c, i % max 1 (dHp d) / max 1 (dParts d), l, firstPos d (i / max 1 (dHp d)))
    | none => none
  let shaped := match use with
    | some (_, none) => if k = 255 then rootHeaderShape e else rootShape e
    | some (_, some _) => entryShape e (dP d)
    | none => true
  let base : Failure := { cause := 3, source := 5, ctx := who, channel := some (place s a).1, handle := a,
                          stored := eCrc e, computed := eComputed e }
  let leaf := match use with
    | some (_, some _) => true
    | _ => false
  if !(bbdUp s (bbdAt s a)) then some { base with cause := 10, stored := 0, computed := 0 }
  else if eCrc e ≠ eComputed e ∨ shaped = false then some base
  else if leaf = true ∧ eState e = 1 ∧ handleBad s (eHandle e) = true then some { base with cause := 8, stored := 0, computed := 0 }
  else none

/-- A context descriptor as a pass reads it: past the Map cache, so that only the log and the summary change (R28, R270). -/
def passDesc (s : State) (i : Nat) : Option Failure :=
  let a := ctxAddr s i
  let d := ctxStored s i
  let base : Failure := { cause := 4, source := 5, ctx := some (i, 0, 0, 0), channel := some (place s a).1, handle := a,
                          stored := num d 0x7E 2, computed := crc16 (d.take 0x7E) }
  if !(bbdUp s (bbdAt s a)) then some { base with cause := 10, stored := 0, computed := 0 }
  else if descOk d then none else some base

/-- The allocated page-map blocks, by NPA. -/
def mapBlocks (s : State) : List Nat :=
  s.pm.runs.flatMap fun r => (List.range (2 ^ r.2)).map fun i => poolBase s + 4096 * (r.1 + i)

/-- Line `i` of a slot has been read: after the last, a slot of flash is staged no more (R277). -/
def lineRead (s : State) (h i : Nat) : State :=
  if i = 131 then { s with tm := { s.tm with staged := mapDel s.tm.staged h } } else s

/-- Read one line of the slot in hand: it waits for a lock, for a link that is down (R231), and first for the one staging read
of a flash slot (Table 09.5). -/
def passSlotLine (s : State) (p : Pass) : State × Pass × Bool :=
  match p.slot with
  | none => (s, p, false)
  | some (h, i) =>
    if slotLocked s h then (waitLocks s .pass [h], p, false)
    else if accessWaits s h then (s, p, false)
    else if i = 0 ∧ unread s [h] ≠ [] then (stageCounted s [h], p, false)
    else
      let p' := { p with slot := if i = 131 then none else some (h, i + 1) }
      match passLine s h i with
      | none => (lineRead s h i, p', true)
      | some f =>
        let (s, p') := passFail (logFailure s f) p' f
        (lineRead s h i, p', true)

/-- Read one unit: the state, the pass after it, and whether a unit was read. -/
def passUnit (s : State) (p : Pass) : State × Pass × Bool :=
  if p.kind = 1 then
    match (mapBlocks s).find? fun b => decide (p.cursor < b + 4096 ∧ b < p.stop) with
    | none => (s, { p with cursor := p.stop }, false)
    | some b =>
      let a := max p.cursor b
      let p := { p with cursor := a + 16 }
      match passEntry s a with
      | none => (s, p, true)
      | some f =>
        let (s, p) := passFail (entryFailed s f) p f
        (s, p, true)
  else if p.kind = 2 then
    match s.cx.open_.find? fun e => decide (p.cursor ≤ e.1 ∧ e.1 < p.stop) with
    | none => (s, { p with cursor := p.stop }, false)
    | some e =>
      let p := { p with cursor := e.1 + 1 }
      match passDesc s e.1 with
      | none => (s, p, true)
      | some f =>
        let (s, p) := passFail (logFailure s f) p f
        (s, p, true)
  else
    let (s, p) := passOn s p
    passSlotLine s p

/-- Nothing of the range is left. -/
def passOver (s : State) (p : Pass) : Bool :=
  p.slot.isNone && (decide (p.stop ≤ p.cursor)
    || (if p.kind = 1 then !((mapBlocks s).any fun b => decide (p.cursor < b + 4096 ∧ b < p.stop))
        else if p.kind = 2 then !(s.cx.open_.any fun e => decide (p.cursor ≤ e.1 ∧ e.1 < p.stop))
        else (nextSlot s p).isNone))

/-- PASS_UNIT_READ (R278): the next unit at the pass's rate; a pass is paused at rate 0 and in Retain (R288). -/
def execPassUnitRead (reads : Reads) (s : State) : Host.Outcome State Fault Refusal :=
  .next (live s fun s =>
    match s.pf.pass with
    | none => s
    | some p =>
      let p := if p.grid = s.time / 1024 then p else { p with grid := s.time / 1024, used := 0 }
      if getF s rPfControl fPfControlPassRate ≤ p.used ∨ s.power.retain ≠ .out then s
      else
        let (s, p, read) := passUnit (takeReads s reads) p
        let s := if read then bumpR s rPfPassLines 1 else s
        let s := setPass s (if read then { p with used := p.used + 1 } else p)
        let s := if p.slot.isNone then freeDeferred s else s
        if passOver s p then endPass s else s)

/-! ## The log head -/

/-- A new `PF_LOG_HEAD` is accepted (R273). -/
def headOk (s : State) (v : Nat) : Bool :=
  let head := getF s rPfLogHead fPfLogHeadPfLogHead
  decide ((v + 2 ^ 32 - head) % 2 ^ 32 ≤ (getF s rPfLogTail fPfLogTailPfLogTail + 2 ^ 32 - head) % 2 ^ 32)

/-! ## Retiring slots -/

/-- The granule of a GDDR7 slot's line: channel × 2^18 + channel-local bits [29:12] (R283). -/
def granuleOf (s : State) (h line : Nat) : Nat :=
  let p := place s (slotNpa s h + 128 * line)
  2 ^ 18 * p.1 + p.2 / 4096

/-- Withheld slots of a pool that have no replacement. -/
def reserveShort (s : State) (g : Nat) : Nat :=
  let d := g / 2 ^ 18 / 4
  ((wideWithheld s).length - (wideInService s).length) + ((narrowWithheld s d).length - (narrowInService s d).length)

/-- The slots a retirement withholds: those with a line in a granule, a CXL slot, or every position of an extent. -/
def retiring (s : State) (h line x : Nat) : Bool :=
  if hTier h ≤ 1 then
    decide (hTier x ≤ 1) && withheld { s with tn := { s.tn with granules := [granuleOf s h line] } } x
  else if hTier h = 4 then decide (hTier x = 4 ∧ fDrive x = fDrive h ∧ fExtent x = fExtent h)
  else decide (x = h)

/-- The homes that a retirement leaves retiring. -/
def retiringPages (s : State) (h line : Nat) : List (Nat × PageAt) :=
  s.cx.open_.flatMap fun e =>
    ((pagesOf s e.1).filter fun p => p.handles.any (retiring s h line)).map fun p => (e.1, p)

/-- The slots that a page command may act on: those that a retirement withholds, hold a page, and lie in no page that the maps
name, since an entry or a descriptor fails (R284). -/
def stranded (s : State) (h line : Nat) (ps : List (Nat × PageAt)) : List (Nat × Slot) :=
  s.pm.slots.filter fun e => e.2.use == .home && retiring s h line e.1 && !(ps.any fun p => p.2.handles.contains e.1)

/-- What the entry that a slot's header names says of the page of a handle (R81). -/
inductive HandleLook where
  /-- It is `PRESENT` with the handle, or the slot holds no page. -/
  | here
  /-- It is another's: the status, and the current handle of a page that has moved. -/
  | gone (status hint : Nat)
  /-- The header, the entry or the descriptor fails its check. -/
  | failed
deriving DecidableEq, Repr

/-- Read the header of an allocated slot, and the entry that it names (R56, R57, R81). -/
def lookHandle (s : State) (h ctx : Nat) : HandleLook × State :=
  match readTailBy s 4 h ⟨ctx, 0, 0, 0, 0, 0⟩ none with
  | .error f => (.failed, pageFailed s f)
  | .ok t =>
    let hd := tailHeader t
    let c := hdContext hd
    if auxState s c = 0 then (.gone stNoContext 0, s)
    else
      match readCtx s c 4 with
      | .error s => (.failed, s)
      | .ok (d, s) =>
        let n := hdFirst hd / (dP d * dW d)
        match readEntry s 4 c d (hdLayer hd) n (hdKv hd * dParts d + hdPart hd) with
        | .bad f => (.failed, entryFailed s f)
        | .uncovered => (.gone stNoContext 0, s)
        | .entry _ e =>
          if eState e = 0 then (.gone stNoContext 0, s)
          else if eState e = 2 then (.gone stDropped 0, s)
          else if eHandle e ≠ h then (.gone stMoved (eHandle e), s)
          else
            let k : PageKey := ⟨c, hdLayer hd, hdKv hd, hdPart hd, firstPos d n, dFmt d⟩
            match readTailBy s 4 h k (some (eValid e)) with
            | .ok _ => (.here, s)
            | .error f => (.failed, pageFailed s f)

/-- Modes 1 and 2 (R284): every retiring home is moved in its own tier and pool, or dropped; `failed` says that the named slot's
header failed its check. -/
def actRetire (s : State) (r : CmdRef) (w : Option Nat) (failed : Bool) (mode : Nat) (ps : List (Nat × PageAt)) : State :=
  let done (s : State) : State := finish (walkEnd? s w) r (if failed then stUncorrectable else stOk)
  if mode = 0 ∨ ps = [] then done s
  else if mode = 1 then
    let s := ps.foldl (fun s e => queueMove s e.1 e.2.layer e.2.n e.2.kv (pageTier e.2.handles) .retire (some r) none) s
    let left := (s.tm.moves.filter fun e => e.2.refs.contains r).length
    if left = 0 then done s
    else { s with pf := { s.pf with retires := s.pf.retires ++ [⟨r, left, false, failed, [], w⟩] } }
  else
    let keys := ps.map fun e => (e.1, e.2.layer, e.2.n, e.2.kv)
    pokeRetire { s with pf := { s.pf with retires := s.pf.retires ++ [⟨r, keys.length, false, failed, keys, w⟩] } } r keys

/-- The retirement once the slot is withheld (R284): in modes 1 and 2 a home that no map names cannot be moved or dropped, which its
entry or descriptor shows as the command reads it (R67, R81). -/
def retirePages (s : State) (r : CmdRef) (w : Option Nat) (failed : Bool) (h line mode : Nat) : State :=
  let ps := retiringPages s h line
  let lost := if mode = 0 then [] else stranded s h line ps
  actRetire (lost.foldl (fun s e => (lookHandle s e.1 e.2.ctx).2) s) r w (failed || !lost.isEmpty) mode ps

/-- The context of an allocated slot that may hold a page. -/
def pageSlot (s : State) (h : Nat) : Option Nat :=
  match mapGet s.pm.slots h with
  | some x => if x.use = .writing then none else some x.ctx
  | none => none

/-- Withhold what a handle and line name (R283, R285): the state with the granule or the slot listed. -/
def withhold (s : State) (h line : Nat) : State :=
  if hTier h ≤ 1 then
    let t := commit { s with tn := { s.tn with granules := s.tn.granules ++ [granuleOf s h line] } } 6
    (List.range (reserveShort t (granuleOf s h line) - reserveShort s (granuleOf s h line))).foldl
      (fun u _ => raise1 u 16 fPfEventReserveOut) t
  else
    let k := if hTier h = 4 then mkFlash (fDrive h) 0 (fExtent h) else h
    { s with tm := { s.tm with retired := s.tm.retired ++ [k] } }

/-- What a handle and line name is withheld already, or its list is full: the status. -/
def withheldStatus (s : State) (h line : Nat) : Option Nat :=
  if hTier h ≤ 1 then
    if s.tn.granules.contains (granuleOf s h line) then some stOk
    else if 65536 ≤ s.tn.granules.length then some stQuota else none
  else
    let k := if hTier h = 4 then mkFlash (fDrive h) 0 (fExtent h) else h
    if s.tm.retired.contains k then some stOk else if 4096 ≤ s.tm.retired.length then some stQuota else none

/-- RETIRE_SLOT of a slot that may hold a page, which takes a walker slot to read it by its handle (R72, R81). -/
def retireNamed (s : State) (r : CmdRef) (h line mode ctx : Nat) : State :=
  match walkStart s ctx none (.command h) with
  | none => s
  | some (w, s) =>
    let s := leaveWalk s (.command h)
    match lookHandle s h ctx with
    | (.gone st hint, s) => completeWith (walkEnd s w) r st hint
    | (.here, s) => retirePages (withhold s h line) r (some w) false h line mode
    | (.failed, s) => retirePages (withhold s h line) r (some w) true h line mode

/-- RETIRE_SLOT (R81, R283 to R285). A header that fails its check completes the command with `UNCORRECTABLE` (Table 09.2); the
slot is withheld all the same (log entry 185). -/
def execRetireSlot (c : Cmd) (s : State) : Host.Outcome State Fault Refusal :=
  let h := bfld c.d 8 0 40
  .next (live s fun s =>
    if turnOf s c && (pageSlot s h).isSome && decide (walkerSlots ≤ s.pm.walkers.length) then waitWalker s (.command h)
    else if turnOf s c && (pageSlot s h).isSome && slotLocked s h then waitLocks s (.command h) [h]
    else startCmd s 0x40 c fun r s =>
      let line := num c.d 0x10 1
      let mode := bfld c.d 0x10 8 2
      if 131 < line ∨ mode = 3 ∨ handleBad s h = true then finish s r stFormat
      else
        match withheldStatus s h line with
        | some st => finish s r st
        | none =>
          match pageSlot s h with
          | some ctx => retireNamed s r h line mode ctx
          | none => retirePages (withhold s h line) r none false h line mode)

/-! ## Retiring a channel -/

/-- `PF_CHANNELS`: the remaps in force and the recorded channels that are not yet in force (Table 09.13). -/
def showPending (s : State) : State :=
  let rest := s.tn.channels.filter fun c => !((remaps s).contains c)
  let e (k : Nat) : Nat := match rest[k]? with
    | some c => 128 + c
    | none => 0
  setF s rPfChannels fPfChannelsPending (e 0 + 256 * e 1)

/-- Every recorded channel is remapped from here on, in the order recorded (R286, R287). -/
def loadRemaps (s : State) : State :=
  let e (k : Nat) : Nat := match s.tn.channels[k]? with
    | some c => 128 + c
    | none => 0
  setR s rPfChannels (e 0 + 256 * e 1)

/-- RETIRE_CHANNEL (R286). -/
def execRetireChannel (c : Cmd) (s : State) : Host.Outcome State Fault Refusal :=
  .next (startCmd s 0x41 c fun r s =>
    let ch := bfld c.d 8 0 7
    if s.tn.channels.contains ch then finish s r stOk
    else if 2 ≤ s.tn.channels.length then finish s r stQuota
    else finish (showPending (commit { s with tn := { s.tn with channels := s.tn.channels ++ [ch] } } 6)) r stOk)

end Sys2Proof.Machine
end

