-- ==== Sys2Proof/Machine/Queue.lean ====
section
/-!
DEFINITION. Machine/Queue.lean: the rings of both functions: doorbells (R410, R411), fetches (R412, R415, R416), completion
entries (R409, R413), enabling (R414), and interrupt messages (R425, R426).
-/

namespace Sys2Proof.Machine

/-- The function answers memory requests (R428, R435, R444, R489). -/
def answers (s : State) (fn : Nat) : Bool :=
  powered s && s.power.opened && (decide (fn = 0) || !s.power.f1Closed)

/-- The wake logic answers the host (R474). -/
def wakeLogic (s : State) : Bool := s.power.retain == .inside || s.power.retain == .leaving

def ringMode (s : State) (fn n : Nat) : Nat := getF s (ringState fn n) fQeRingState1State
def cqProducer (s : State) (fn n : Nat) : Nat := getF s (ringIndex fn n) fQeRingIndex1CqProducer
def cqConsumer (s : State) (fn n : Nat) : Nat := getF s (ringIndex fn n) fQeRingIndex1CqConsumer
def sqHead (s : State) (fn n : Nat) : Nat := getF s (ringIndex fn n) fQeRingIndex1SqHead
def sqTail (s : State) (fn n : Nat) : Nat := getF s (ringIndex fn n) fQeRingIndex1SqTail
def reserved (s : State) (fn n : Nat) : Nat := getF s (ringState fn n) fQeRingState1Reserved
def cqBase (s : State) (fn n : Nat) : Nat := regGet s (if fn = 0 then rQeCqBase0 n else rQeCqBase1 n)

/-! ## Doorbells (R410) -/

/-- A doorbell write the node ignores (R410). -/
def doorbellBad (s : State) (fn ring v : Nat) (consumer : Bool) : Bool :=
  let n := ringSize s fn ring
  let old := cqConsumer s fn ring
  decide (n ≤ v ∨ ringMode s fn ring = 0 ∨ ringMode s fn ring = 3)
    || (consumer && decide ((cqProducer s fn ring + n - old) % n < (v + n - old) % n))

/-- A doorbell write takes effect, or sets `DOORBELL_BAD` (R410). -/
def doorbell (s : State) (fn ring v : Nat) (consumer : Bool) : State :=
  if ringsOf fn ≤ ring then s
  else if doorbellBad s fn ring v consumer then raise s fn 1 fQeEvent1DoorbellBad.lo
  else setF s (ringIndex fn ring) (if consumer then fQeRingIndex1CqConsumer else fQeRingIndex1SqTail) v

/-- A 32-bit write at an offset of BAR2's doorbell pages (R410); writes to other offsets of them are ignored. -/
def bar2Write (s : State) (fn off v : Nat) : State :=
  if off % 4096 = 0 then doorbell s fn (off / 4096) v false
  else if off % 4096 = 4 then doorbell s fn (off / 4096) v true
  else s

/-- A doorbell write arrives: the wake logic stores it in Retain (R429, R474). -/
def doorbellRow (s : State) (fn off v : Nat) : State :=
  if !(answers s fn) || s.power.restricted then s
  else if wakeLogic s then { s with power := { s.power with doorbells := s.power.doorbells ++ [(fn, off, v)] } }
  else bar2Write s fn off v

/-- SQ_DOORBELL (R410, R411). -/
def execSqDoorbell (fn ring val : Nat) (s : State) : Host.Outcome State Fault Refusal :=
  .next (doorbellRow s fn (4096 * ring) (val % 2 ^ 32))

/-- CQ_DOORBELL (R410). -/
def execCqDoorbell (fn ring val : Nat) (s : State) : Host.Outcome State Fault Refusal :=
  .next (doorbellRow s fn (4096 * ring + 4) (val % 2 ^ 32))

/-! ## Fetches (R412, R416) -/

/-- Entries of a ring that wait to be written and hold no reservation: its notices. -/
def noticesWaiting (s : State) (fn ring : Nat) : Nat :=
  (s.qe.finished.filter fun c => c.notice && c.ref.fn == fn && c.ref.ring == ring).length

/-- The node fetches the ring's next pending descriptor (R411, R412, R414, R428, R429). -/
def mayFetch (s : State) (fn ring : Nat) : Bool :=
  decide (ring < ringsOf fn) && answers s fn && decide (ringMode s fn ring = 1) && decide (sqHead s fn ring ≠ sqTail s fn ring)
    && decide (noticesWaiting s fn ring < ringFree s fn ring) && s.power.retain == .out

/-- DESCRIPTOR_FETCH (R412, R415, R416). -/
def execDescriptorFetch (fn ring : Nat) (f : Fetch) (s : State) : Host.Outcome State Fault Refusal :=
  .next (live s fun s =>
    if !(mayFetch s fn ring) then s
    else
      match f with
      | .error => raise (setF s (ringState fn ring) fQeRingState1State 3) fn 1 fQeEvent1FetchError.lo
      | .data d =>
        let s := setF s (ringIndex fn ring) fQeRingIndex1SqHead ((sqHead s fn ring + 1) % ringSize s fn ring)
        let s := setF s (ringState fn ring) fQeRingState1Reserved (reserved s fn ring + 1)
        let s := { s with qe := { s.qe with fetched := s.qe.fetched ++ [(s.qe.resets1, ⟨fn, ring, padTo 64 d, .clean⟩)] } }
        sweepUnknown fn ring s.qe.fetched.length s)

/-! ## Completion entries -/

/-- The 32 bytes of an entry (Table 14.3). -/
def cqEntry (s : State) (c : Completion) : Bytes :=
  let fn := c.ref.fn
  let ring := c.ref.ring
  natLe 4 (if c.notice then 0 else c.ref.tag)
    ++ natLe 4 (at_ 0 8 c.status + at_ 8 8 c.ref.op + at_ 16 6 ring + at_ 22 1 (if c.notice then 1 else 0))
    ++ natLe 4 (at_ 0 16 (sqHead s fn ring) + at_ 16 16 c.count) ++ natLe 4 c.r0 ++ natLe 8 c.r1 ++ natLe 4 c.r2
    ++ natLe 4 (at_ 31 1 (getF s (ringState fn ring) fQeRingState1Phase))

/-- A ring that is no longer enabled loses the notices not yet written (R423). -/
def loseNotices (s : State) (fn ring : Nat) : State :=
  let own (c : Completion) : Bool := c.notice && c.ref.fn == fn && c.ref.ring == ring
  (s.qe.finished.filter own).foldl (fun s _ => raise s fn 1 fQeEvent1NoticeLost.lo)
    { s with qe := { s.qe with finished := s.qe.finished.filter fun c => !(own c) } }

/-- A draining ring is disabled once its reservations are used up (R414; log entry 96). -/
def drainedRing (s : State) (fn ring : Nat) : State :=
  if ringMode s fn ring = 2 ∧ reserved s fn ring = 0 then
    loseNotices (setF s (ringState fn ring) fQeRingState1State 0) fn ring
  else s

def coalesceKey (fn ring : Nat) : Nat := 64 * fn + ring

/-- The ring's message is sent (R425). -/
def sendRing (s : State) (fn ring : Nat) : State :=
  sendMsix { s with qe := { s.qe with coalesce := mapDel s.qe.coalesce (coalesceKey fn ring) } } fn
    (getF s (ringCtrl fn ring) fQeRingCtrl1Vector)

/-- An entry was written: a message now, or later with others (R425). -/
def coalesceEntry (s : State) (fn ring : Nat) : State :=
  let limit := getF s (ringCtrl fn ring) fQeRingCtrl1CoalesceCount
  let k : Coalesce := (mapGet s.qe.coalesce (coalesceKey fn ring)).getD ⟨0, s.time⟩
  if limit ≤ k.count + 1 ∨ getF s (ringCtrl fn ring) fQeRingCtrl1CoalesceTime = 0 then sendRing s fn ring
  else { s with qe := { s.qe with coalesce := mapPut s.qe.coalesce (coalesceKey fn ring) { k with count := k.count + 1 } } }

/-- The next entry to be written on a ring. -/
def nextEntry (s : State) (fn ring : Nat) : Option Completion :=
  s.qe.finished.find? fun c => c.ref.fn == fn && c.ref.ring == ring

/-- The producer advances, and the phase changes at each wrap (R413). -/
def advanceProducer (s : State) (fn ring : Nat) : State :=
  let p := (cqProducer s fn ring + 1) % ringSize s fn ring
  let s := setF s (ringIndex fn ring) fQeRingIndex1CqProducer p
  if p = 0 then setF s (ringState fn ring) fQeRingState1Phase (1 - getF s (ringState fn ring) fQeRingState1Phase) else s

/-- COMPLETION_WRITE (R409, R412, R413, R416). -/
def execCompletionWrite (fn ring : Nat) (hostOk : Bool) (s : State) : Host.Outcome State Fault Refusal :=
  .next (live s fun s =>
    match nextEntry s fn ring with
    | none => s
    | some c =>
      if ringMode s fn ring = 0 then s
      else
        let e := cqEntry s c
        let a := cqBase s fn ring + 32 * cqProducer s fn ring
        let s := { s with qe := { s.qe with finished := removeFirst (· == c) s.qe.finished } }
        let s := if c.notice then s else setF s (ringState fn ring) fQeRingState1Reserved (reserved s fn ring - 1)
        let s := advanceProducer s fn ring
        let s := if hostOk then coalesceEntry (emit s (.hostWrite a e)) fn ring else raise s fn 1 fQeEvent1DmaError.lo
        drainedRing s fn ring)

/-! ## Enabling (R414) -/

/-- A write of `QE_RING_CTRL` that leaves the ring's other fields in place (R414). -/
def ringEnable (s : State) (fn n : Nat) (on_ : Bool) : State :=
  let mode := ringMode s fn n
  if on_ then
    if mode = 0 then
      setB (setR (setR { s with qe := { s.qe with coalesce := mapDel s.qe.coalesce (coalesceKey fn n) } } (ringIndex fn n) 0)
        (ringState fn n) (1 + 4)) (ringCtrl fn n) fQeRingCtrl1Enable true
    else s
  else if mode = 0 then s
  else
    drainedRing (setB (setF s (ringState fn n) fQeRingState1State 2) (ringCtrl fn n) fQeRingCtrl1Enable false) fn n

/-! ## Interrupts -/

/-- MSIX_COALESCE_TIMER (R425). -/
def execMsixCoalesceTimer (fn ring : Nat) (s : State) : Host.Outcome State Fault Refusal :=
  .next (live s fun s =>
    match mapGet s.qe.coalesce (coalesceKey fn ring) with
    | some k =>
      if due s k.first (1024 * getF s (ringCtrl fn ring) fQeRingCtrl1CoalesceTime) then sendRing s fn ring else s
    | none => s)

/-- EVENT_HOLDOFF_TIMER (R426). -/
def execEventHoldoffTimer (fn : Nat) (s : State) : Host.Outcome State Fault Refusal :=
  .next (live s fun s =>
    match eventMsg s fn with
    | ⟨some t, true⟩ => if due s t (holdoff s fn) then sendEventNow s fn else s
    | _ => s)

/-! ## The MSI-X tables and pending bits in BAR2 (Table 14.1, R425) -/

/-- A vector is no longer masked: it sends the message that its pending bit holds (R425). -/
def unmaskVector (s : State) (fn vec : Nat) : State :=
  let k := 256 * fn + vec
  let s := if k ∈ s.qe.unmasked then s else { s with qe := { s.qe with unmasked := s.qe.unmasked ++ [k] } }
  if k ∈ s.qe.pba then emit { s with qe := { s.qe with pba := s.qe.pba.erase k } } (msixMsg s fn vec) else s

/-- A dword of a vector's table entry is written: the mask bit of the vector control, or the address or data. -/
def putMsix (s : State) (fn vec d v : Nat) : State :=
  let k := 256 * fn + vec
  if d = 3 then
    if v % 2 = 0 then unmaskVector s fn vec else { s with qe := { s.qe with unmasked := s.qe.unmasked.filter (· != k) } }
  else
    { s with qe := { s.qe with
        msix := if v = 0 then mapDel s.qe.msix (4 * k + d) else mapPut s.qe.msix (4 * k + d) (v % 2 ^ 32) } }

/-- Where a function's MSI-X table and its pending bits begin in BAR2 (Table 14.1). -/
def msixBase (fn : Nat) : Nat := if fn = 0 then 0x8000 else 0x40000
def pbaBase (fn : Nat) : Nat := msixBase fn + 0x1000

/-- The vector, and the dword of its table entry, at an offset of BAR2. -/
def msixAt (fn off : Nat) : Option (Nat × Nat) :=
  let d := (off - msixBase fn) / 4
  if msixBase fn ≤ off ∧ off % 4 = 0 ∧ d < 4 * vectorsOf fn then some (d / 4, d % 4) else none

/-- A dword of BAR2 as it reads: of the table, or of the pending bits; a doorbell page reads zero (R410). -/
def bar2Dword (s : State) (fn off : Nat) : Nat :=
  match msixAt fn off with
  | some (vec, d) => msixDword s fn vec d
  | none =>
    let v := 8 * (off - pbaBase fn)
    if pbaBase fn ≤ off ∧ v < vectorsOf fn then
      sumOf ((List.range 32).map fun i => if 256 * fn + v + i ∈ s.qe.pba then 2 ^ i else 0)
    else 0

/-- A read of BAR2 (R410, R428): all ones while the function is closed, zero in the restricted form (R489). -/
def bar2Read (s : State) (fn off size : Nat) : State :=
  if !(powered s) then s
  else if !s.power.opened then emit s .unsupported
  else if !(answers s fn) then emit s (.readData (List.replicate size 0xFF))
  else if s.power.restricted || decide (size ≠ 4 ∧ size ≠ 8 ∨ off % size ≠ 0) then emit s (.readData (zeros size))
  else emit s (.readData (natLe size (bar2Dword s fn off + 2 ^ 32 * bar2Dword s fn (off + 4))))

/-- A write of BAR2: a doorbell's is of 32 bits (R410); one of a table entry is of one or two dwords. -/
def bar2Access (s : State) (fn off size v : Nat) : State :=
  match msixAt fn off with
  | none => if size = 4 then doorbellRow s fn off (v % 2 ^ 32) else s
  | some (vec, d) =>
    if !(answers s fn) || s.power.restricted || wakeLogic s then s
    else if size = 4 then putMsix s fn vec d (v % 2 ^ 32)
    else if size = 8 ∧ d % 2 = 0 then putMsix (putMsix s fn vec d (v % 2 ^ 32)) fn vec (d + 1) (v / 2 ^ 32 % 2 ^ 32)
    else s

/-- MSIX_UNMASK (R425): the host clears the mask bit of a vector. -/
def execMsixUnmask (fn vec : Nat) (s : State) : Host.Outcome State Fault Refusal :=
  .next (live s fun s => if vectorsOf fn ≤ vec ∨ answers s fn = false then s else unmaskVector s fn vec)

end Sys2Proof.Machine
end

