-- ==== Sys2Proof/Machine/Reset.lean ====
section
/-!
DEFINITION. Machine/Reset.lean: the reset classes (R9, R10, R428, R429, R476 to R480, R494): their ranks, and what each
does to the state behind the registers of every block (Table 17.7).
-/

namespace Sys2Proof.Machine

/-- The rank of a class: C, then W, then H, then N, then F (R479). -/
def RClass.rank : RClass → Nat
  | .C => 5
  | .W => 4
  | .H => 3
  | .N => 2
  | .F => 1

/-- Class C or W. -/
def RClass.cold (c : RClass) : Bool := decide (4 ≤ c.rank)

/-- The code of a class in `GS_STATUS.LAST_CLASS` (Table 17.3). -/
def RClass.code : RClass → Nat
  | .C => 0
  | .W => 1
  | .N => 2
  | .H => 3
  | .F => 4

/-! ## Host queues (R428, R429) -/

/-- Function 1's MSI-X table, masks and pending bits are as before any write (R428). -/
def dropVectors1 (s : State) : State :=
  { s with qe := { s.qe with unmasked := s.qe.unmasked.filter fun k => decide (k < 256),
                             pba := s.qe.pba.filter fun k => decide (k < 256),
                             msix := s.qe.msix.filter fun e => decide (e.1 < 1024) } }

/-- Function 1's queues are emptied; what was not yet started or written goes with them. -/
def dropQueues1 (s : State) : State :=
  { s with qe := { s.qe with
      resets1 := s.qe.resets1 + 1,
      fetched := s.qe.fetched.filter fun e => e.2.fn != 1,
      started := s.qe.started.filter fun r => r.fn != 1,
      finished := s.qe.finished.filter fun c => c.ref.fn != 1,
      coalesce := s.qe.coalesce.filter fun e => decide (e.1 < 64),
      event1 := ⟨none, false⟩ } }

/-- R429; a new tenant sees nothing of the vectors of the one before (R447; log entry 48). -/
def resetQe (c : RClass) (s : State) : State :=
  if c.cold then { s with qe := { Qe.fresh with resets1 := s.qe.resets1 + 1 } }
  else if c = .H then dropVectors1 (dropQueues1 s)
  else dropQueues1 s

/-! ## Commands of Function 0 that a reset ends -/

/-- Recovery commands on a ring that keeps running end with `ABORTED` (R403). -/
def abortRecovery (s : State) : State :=
  s.cf.table.foldl (init := s) fun s e =>
    if e.2.status.isSome then s
    else e.2.issuers.foldl (init := s) fun s w => match w with
      | .ring ref => if ref.fn = 0 then recAnswer s w e.2.type e.2.serial stAborted 1 e.2.serial else s
      | .manager _ _ _ => s

/-- The floor rises to the latest serial of the table (R394). -/
def raiseFloor (s : State) : State :=
  let f := s.cf.table.foldl (fun f e => if serialAfter 32 e.2.serial f then e.2.serial else f) s.tn.floor
  if f = s.tn.floor then s else commit { s with tn := { s.tn with floor := f } } 1

/-! ## The blocks -/

/-- R189, R190. -/
def resetBb (c : RClass) (s : State) : State :=
  let keep (x : Bbd) : Bbd := { Bbd.fresh with spares := x.spares, retrain := x.retrain }
  { s with bb := { bbd := if c.cold then [] else s.bb.bbd.map fun (e : Nat × Bbd) => (e.1, keep e.2), refresh := [], hostReads := [] } }

/-- R222: class H also clears the Reach stores; what was saved in memory is lost where memory is. -/
def resetAc (c : RClass) (s : State) : State :=
  { s with ac := { Ac.fresh with
      reach := if c = .N then s.ac.reach else [],
      saved := if c = .C ∨ c = .H then [] else s.ac.saved,
      spares := s.ac.spares } }

/-- The drives attached now. -/
def drivesAttached (s : State) : List Nat := (List.range 8).filter fun d => (driveLink s d).isSome

/-- R262, R263, R239. -/
def resetTm (c : RClass) (s : State) : State :=
  let s := if c.cold then s else (drivesAttached s).foldl (fun s d => emit s (.driveDeallocAll d)) s
  { s with tm := { Tm.fresh with
      down := if c.cold then [] else s.tm.down,
      keyGen := s.tm.keyGen + 1,
      poison := if c.cold then [] else s.tm.poison,
      nvme := if c.cold then [] else s.tm.nvme.map fun (e : Nat × List NvmeCmd) => (e.1, []) } }

/-- A port discards what it has received and releases the partner (R315, R303); a swap runs on without its command. -/
def quiesce (s : State) (g : Nat) : State :=
  let held := (portOf s g).sent.map (·.1)
  let s := updPort s g fun p => { p with rx := [], swap := p.swap.map fun (w : Swap) => { w with ours := false } }
  if held.isEmpty then s else releaseClasses s g held

/-- R315: fabric ports stay trained; the ring ports lose their neighbours with `RING_ATTACH`. -/
def resetFl (c : RClass) (s : State) : State :=
  if c.cold then { s with fl := [] }
  else
    let s := s.fl.foldl (fun s e => quiesce s e.1) s
    [16, 17].foldl (fun s g => if portState s g = 0 then s else portDown s g 1) s

/-- R371. -/
def resetEs (c : RClass) (s : State) : State :=
  if c.cold then { s with es := .fresh, im := .fresh }
  else { s with es := { Es.fresh with base := s.es.base }, im := .fresh }

/-- R349: the generations survive, through class C by way of their ceilings. -/
def resetFt (c : RClass) (s : State) : State :=
  { s with ft := { Ft.fresh with gens := if c = .C then s.tn.ceilings else s.ft.gens } }

/-- R403; class C sets the local counter to 0 (R452). -/
def resetCf (c : RClass) (s : State) : State :=
  { s with cf := { Cf.fresh with healthAt := if c = .C then 0 else s.time / msCycles } }

/-- R435, R436: a reset of class C or W starts the Lexicon afresh; the flash stays, and a report until class C (R439). -/
def resetLx (c : RClass) (s : State) : State :=
  if c.cold then
    { s with lx := { Lx.fresh with directory := s.lx.directory, areas := s.lx.areas, boot := s.lx.boot,
                                   periodic := if c = .C then 0 else s.lx.periodic,
                                   report := if c = .C then none else s.lx.report } }
  else s

/-- Replacements that waited for a unit to come to rest end (R221, R457). -/
def endSuppletions (s : State) : State :=
  (s.lx.supplete.map (·.1)).foldl (init := s) fun s k =>
    if k < 2 ^ 16 then suppleteAc s k else suppleteBau s ((k - 2 ^ 16) / 16) (k % 16)

/-- Everything that a reset of class C, W, N or H ends and empties, the shard-set table among it (R37, Table 17.7). -/
def resetBlocks (c : RClass) (s : State) : State :=
  let refs := s.pf.retires.map (·.ref)
  let s := if c.cold then s else finishAll (abortRecovery s) refs stAborted 0
  let s := resetQe c (raiseFloor s)
  let s := { s with cx := .fresh, pm := .fresh, ae := .fresh, pf := .fresh }
  let s := resetLx c (resetCf c (resetFt c (resetEs c (resetFl c (resetTm c (resetAc c (resetBb c s)))))))
  if c.cold then s else endSuppletions s

/-- The fields that name a class take their reset values (R9, R494). -/
def resetFields (c : RClass) (s : State) : State := { s with regs := restoreRegs c s.regs }

/-! ## Power-on state -/

/-- Class C: the local counter starts at 0, and nothing has written the memory yet (R452, R189; log entry 5). -/
def resetClock (c : RClass) (s : State) : State := if c = .C then { s with time := 0, mem := [] } else s

/-- The thermal marks and the hysteresis in force stay until the next record is loaded: a trip takes precedence over any
reset (R468). -/
def keepMarks (p q : Power) : Power :=
  { q with throttleDie := p.throttleDie, tripDie := p.tripDie, throttleBbd := p.throttleBbd, tripBbd := p.tripBbd, hyst := p.hyst }

/-- The power block as a class begins: C and W start everything afresh; a tenant handover that was interrupted stays
marked (R446). -/
def resetPower (c : RClass) (s : State) : State :=
  let p := s.power
  if c.cold then
    { s with power := keepMarks p { Power.fresh with running := some c, perst := p.perst, boundary := s.time / msCycles,
                                                     handover := p.handover.map fun (h : HandoverCmd) => { h with refs := [] } } }
  else
    { s with power := { p with running := some c, waiting := p.waiting.erase c, f1Closed := p.f1Closed || decide (c = .H) } }

/-! ## Beginning a reset -/

/-- A reset of class C, W, N or H begins. -/
def beginReset (c : RClass) (s : State) : State :=
  resetPower c (resetClock c (resetFields c (resetBlocks c (releaseRing s))))

/-- A function-level reset of Function 1 begins (R428, steps 1 to 3). -/
def beginF (s : State) : State :=
  let s := (s.qe.finished.filter fun c => c.ref.fn == 1 && !c.notice).foldl (init := s) fun s _ =>
    bumpF s rQeDiscards1 fQeDiscards1QeDiscards 1
  let s := { s with qe := { s.qe with
      resets1 := s.qe.resets1 + 1,
      finished := s.qe.finished.filter fun c => c.ref.fn != 1,
      coalesce := s.qe.coalesce.filter fun e => decide (e.1 < 64),
      event1 := ⟨none, false⟩ } }
  let s := resetFields .F (dropVectors1 s)
  let s := setB s rQeStatus0 fQeStatus0F1Resetting true
  { s with power := { s.power with running := some .F, waiting := s.power.waiting.erase .F, f1Closed := true } }

def begin_ (c : RClass) (s : State) : State := if c = .F then beginF s else beginReset c s

/-- A reset of a class is requested (R479): it supersedes one of lower rank, waits for one of higher rank, restarts a
start-up of its own class, and joins any other. -/
def requestReset (c : RClass) (s : State) : State :=
  match s.power.running with
  | none => begin_ c s
  | some r =>
    if r.rank < c.rank then begin_ c s
    else if c.rank < r.rank then
      if s.power.waiting.contains c then s else { s with power := { s.power with waiting := s.power.waiting ++ [c] } }
    else if c.cold then begin_ c s
    else s

/-- The reset that waits begins once none runs, the highest rank first (R479). -/
def startWaiting (s : State) : State :=
  if s.power.running.isSome then s
  else if s.power.waiting.contains .W then begin_ .W s
  else if s.power.waiting.contains .H then begin_ .H s
  else if s.power.waiting.contains .N then begin_ .N s
  else if s.power.waiting.contains .F then begin_ .F s
  else s

/-- A reset of class N waits or runs (`GS_CONTROL.NODE_BUSY`). -/
def nodeBusy (s : State) : Bool := decide (s.power.running = some .N) || s.power.waiting.contains .N

/-! ## Ending a reset -/

/-- A degraded BBD's permit limit starts at its `PERMIT_MAX` (Table 06.12). -/
def limitPermits (s : State) : State :=
  (List.range 8).foldl (init := s) fun s b =>
    let m := getF s (rBbStatus b) fBbStatusPermitMax
    if m < getF s (rBbPermitLimit b) fBbPermitLimitLimit then setF s (rBbPermitLimit b) fBbPermitLimitLimit m else s

/-- The links out of service before a reset of class N or H are retrained (R190): those of `down` stay out. -/
def retrainLinks (down : List Nat) (s : State) : State :=
  (List.range 8).foldl (init := s) fun s b =>
    if getB s (rBbStatus b) fBbStatusLinkUp then s
    else
      let out := down.contains b
      let s := setF s rGsStatus ⟨fGsStatusBbdOut.lo + b, 1⟩ (if out then 1 else 0)
      if out then s else updBbd (setB s (rBbStatus b) fBbStatusLinkUp true) b fun x => { x with retrain := none }

/-- Function 1 answers again unless a tenant handover has failed since (R444), and its reset state ends (R428, R479). -/
def openF1 (s : State) : State :=
  setB { s with power := { s.power with f1Closed := s.tn.mark } } rQeStatus0 fQeStatus0F1Resetting false

/-- A start-up or reset has ended: `RUNNING`, `LAST_CLASS` and `READY` (Tables 17.3 and 17.4). -/
def announce (c : RClass) (s : State) : State :=
  let s := setF s rGsStatus fGsStatusLastClass c.code
  if c = .F then raise s 1 0 fGsEvent1Ready.lo
  else raiseGs (setB s rGsStatus fGsStatusRunning true) fGsEvent1Ready

/-- The common end of classes N and H: the fields are restored once more, the channels remapped, the links retrained,
the permits limited (R488, R287, R190). -/
def settle (c : RClass) (down : List Nat) (s : State) : State :=
  retrainLinks down (limitPermits (loadRemaps (resetFields c s)))

/-- A list that the port's width fails stays suspended (R362). -/
def recheckGates (s : State) : State :=
  (List.range 18).foldl (fun s g => if portUp s g && !(suspended s g) then checkSuspend s g else s) s

/-- A reset of class N ends (R477, R492). -/
def endN (down : List Nat) (s : State) : State :=
  let s := openF1 (recheckGates (startListening (settle .N down s)))
  announce .N { s with power := { s.power with running := none } }

/-- A reset of class F ends (R428). -/
def endF (s : State) : State :=
  let s := openF1 (resetFields .F s)
  announce .F { s with power := { s.power with running := none } }

/-- FUNCTION_LEVEL_RESET (R428, R479): a configuration request, answered with a retry until the functions open (R435, R478);
the host link rests in Retain. -/
def execFunctionLevelReset (s : State) : Host.Outcome State Fault Refusal :=
  .next (live s fun s =>
    if !s.power.opened then emit s .configRetry else if wakeLogic s then s else requestReset .F s)

end Sys2Proof.Machine
end

