-- ==== Sys2Proof/Machine/Lexicon.lean ====
section
/-!
DEFINITION. Machine/Lexicon.lean: the Lexicon and the Tense block: owner commands (R441 to R444, R451 to R457), reports
and attestation (R439, R440), the measured restart (R431), and the periodic commits (R448 to R450).
-/

namespace Sys2Proof.Machine

/-- Bytes of an ML-DSA-44 public key and of a signature (R434, Table 15.6). -/
def keyBytes : Nat := 1312
def sigBytes : Nat := 2420

def rollback (s : State) (k : Nat) : Nat := (mapGet s.tn.rollback k).getD 0

/-! ## Configuration records (R434, R483) -/

def crSvn (b : Bytes) : Nat := num b 4 4
def crNode (b : Bytes) : Nat := bfld b 8 0 12
def crBifurcation (b : Bytes) (p : Nat) : Nat := bfld b 0x0C (2 * p) 2
def crInterval (b : Bytes) : Nat := num b 0x10 2
def crRefresh (b : Bytes) : Nat := num b 0x12 2
def crCap (b : Bytes) : Nat := bfld b 0x40 0 11
def crMinStep (b : Bytes) : Nat := bfld b 0x40 12 3
def crThrottleDie (b : Bytes) : Nat := num b 0x44 1
def crTripDie (b : Bytes) : Nat := num b 0x45 1
def crThrottleBbd (b : Bytes) : Nat := num b 0x46 1
def crTripBbd (b : Bytes) : Nat := num b 0x47 1
def crHyst (b : Bytes) : Nat := bfld b 0x48 0 4

/-- Fowaest's firmware key (R433). -/
def fowaestKey : Bytes := padTo keyBytes Config.fowaestKey

/-- The key that signs configuration records (R434). -/
def recordKey (s : State) : Bytes := s.tn.ownerKey.getD fowaestKey

/-- A record is valid: its form, its signature, its version and its power fields (R434, R483, step 4 of Table 15.3). -/
def recordValid (s : State) (b : Bytes) : Bool :=
  decide (1024 + sigBytes ≤ b.length ∧ num b 0 4 = 1 ∧ rollback s 1 ≤ crSvn b ∧ crBifurcation b 0 ≠ 3 ∧
    crBifurcation b 1 ≠ 3 ∧ crInterval b ≠ 0 ∧ crRefresh b ≠ 0)
    && decide (600 ≤ crCap b ∧ crCap b ≤ 1650 ∧ crTripDie b ≤ 115 ∧ crTripBbd b ≤ 105 ∧
      crThrottleDie b + 5 ≤ crTripDie b ∧ crThrottleBbd b + 5 ≤ crTripBbd b ∧ crHyst b ≠ 0)
    && dsaVerify (recordKey s) (b.take 1024) (slice b 1024 sigBytes)

/-- The signature that closes an image holds under Fowaest's key (R433). -/
def imageSigned (b : Bytes) : Bool :=
  let n := b.length - sigBytes
  decide (sigBytes ≤ b.length) && dsaVerify fowaestKey (b.take n) (b.drop n)

/-- An image is accepted: its signature holds, and its version is at least rollback counter 0 (step 3 of Table 15.3). -/
def imageValid (s : State) (b : Bytes) : Bool := imageSigned b && decide (rollback s 0 ≤ Config.imageSvn b)

/-! ## Keys (R437) -/

/-- `LX_MEASURE` k. -/
def measureAt (s : State) (k : Nat) : Bytes := (List.range 4).flatMap fun j => natLe 8 (regGet s (rLxMeasure k j))

def pufSeed : Bytes := natLe 32 Config.pufSeed.toNat

/-- The ASCII text `GXF-` and a suffix. -/
def gxf (suffix : Bytes) : Bytes := [0x47, 0x58, 0x46, 0x2D] ++ suffix

/-- The device identity key: its custom string ends in `DEVID`. -/
def deviceKey : DsaKey := dsaKeyGen (kmac256 pufSeed [] (gxf [0x44, 0x45, 0x56, 0x49, 0x44]))

/-- CDI0, from the measurement of the Lexicon firmware; the string ends in `CDI0`. -/
def cdi0 (s : State) : Bytes := kmac256 pufSeed (measureAt s 0) (gxf [0x43, 0x44, 0x49, 0x30])

/-- The layer 1 key; the string ends in `L1`. -/
def layer1Key (s : State) : DsaKey := dsaKeyGen (kmac256 (cdi0 s) [] (gxf [0x4C, 0x31]))

/-- The attestation key, from `LX_MEASURE` 1 to 4; the string ends in `ATT`. -/
def attestKey (s : State) : DsaKey :=
  dsaKeyGen (kmac256 (cdi0 s) ([1, 2, 3, 4].flatMap (measureAt s)) (gxf [0x41, 0x54, 0x54]))

/-! ## Certificates (R437, Table 15.1) -/

/-- An X.509 certificate in DER: what is signed, the algorithm identifier of ML-DSA-44, and the issuer's signature in a bit
string (log entry 10). -/
def certificate (issuer : DsaKey) (body : Bytes) (rnd : Bytes) : Bytes :=
  let b := body ++ [0x30, 0x0B, 0x06, 0x09, 0x60, 0x86, 0x48, 0x01, 0x65, 0x03, 0x04, 0x03, 0x11]
    ++ [0x03, 0x82, 0x09, 0x75, 0x00] ++ padTo sigBytes (dsaSign issuer body rnd)
  [0x30, 0x82, BitVec.ofNat 8 (b.length / 256), BitVec.ofNat 8 b.length] ++ b

/-- The certificate of a key at this start-up, by the issuing layer: 0 the device identity key, 1 the layer 1 key. -/
def certOf (s : State) (layer : Nat) (issuer subject : DsaKey) : Bytes :=
  let body := Config.certBody layer s.lx.boot (dsaPublic subject)
  certificate issuer body (natLe 32 (Config.signRandom s.lx.boot body).toNat)

/-- The layer 1 certificate, signed by the device identity key (step 2 of Table 15.3). -/
def layer1Cert (s : State) : Bytes := certOf s 0 deviceKey (layer1Key s)

/-- The attestation key's certificate, signed by the layer 1 key (R437). -/
def attestCert (s : State) : Bytes := certOf s 1 (layer1Key s) (attestKey s)

/-! ## The boot flash (Table 15.1) -/

/-- Offset and size of the areas of the boot flash: those of `LX_FLASH_WRITE` by target, then the PUF helper data, the
certificate chain and the directory. -/
def flashTable : List (Nat × Nat) :=
  [(0x10000, 0x400000), (0x410000, 0x400000), (0x1000, 0x1000), (0x2000, 0x1000), (0x3000, 0x1000), (0x4000, 0xC000), (0, 0x1000)]

/-- Bytes of a flash area. -/
def areaBytes (t : Nat) : Nat := (flashTable.getD t (0, 0)).2

/-- The numbers of the areas that no command of the owner names. -/
def helperArea : Nat := 4
def chainArea : Nat := 5

/-- The active image slot of the directory. -/
def dirSlot (s : State) : Nat := fld s.lx.directory 32 1

/-- The certificate chain in the flash. -/
def chainOf (s : State) : Bytes := (mapGet s.lx.areas chainArea).getD Config.deviceCert

/-- The bytes of an area: those written, or those the board came with. -/
def areaOf (s : State) (t : Nat) : Bytes :=
  if t = chainArea then chainOf s
  else (mapGet s.lx.areas t).getD (if t = helperArea then Config.pufHelper else if t < 2 then Config.boardImage t else [])

/-- The byte of the boot flash at an offset (R433). -/
def flashByte (s : State) (off : Nat) : Byte :=
  if off < 0x1000 then (natLe 8 s.lx.directory).getD off 0
  else
    match flashTable.findIdx? fun e => decide (e.1 ≤ off ∧ off < e.1 + e.2) with
    | some t => (areaOf s t).getD (off - (flashTable.getD t (0, 0)).1) 0
    | none => 0

/-! ## Reports (R440) -/

/-- `LX_MEASURE` 0 to 7. -/
def measures (s : State) : Bytes := (List.range 8).flatMap (measureAt s)

/-- A report (Table 15.5). -/
def mkReport (s : State) (kind sanitised : Nat) (nonce : Bytes) : Bytes :=
  let b := natLe 1 kind ++ natLe 1 sanitised ++ zeros 2 ++ natLe 4 s.tn.coldStarts ++ natLe 8 s.time ++ padTo 32 nonce
    ++ measures s ++ natLe 4 s.tn.tenant ++ natLe 4 s.tn.handovers ++ natLe 8 (getF s rAcStatus fAcStatusActiveAcs)
  b ++ padTo sigBytes (dsaSign (attestKey s) b (natLe 32 (Config.signRandom s.lx.boot b).toNat))

/-- A report's length (R444). -/
def reportBytes : Nat := 2740

/-! ## Owner commands -/

/-- LX_ENROL (R442). -/
def execLxEnrol (c : Cmd) (buf : Option Bytes) (s : State) : Host.Outcome State Fault Refusal :=
  .next (startCmd s 0x50 c fun r s =>
    refuseOr s r (firstRefusal [(s.tn.ownerKey.isSome, stFormat), (c.badBuf keyBytes, stLength)])
      (withHost s r buf fun b =>
        finish (commit { s with tn := { s.tn with ownerKey := some (padTo keyBytes b) } } 1) r stOk))

/-- LX_TRANSFER (R442): the current owner key signs the new one. -/
def execLxTransfer (c : Cmd) (buf : Option Bytes) (s : State) : Host.Outcome State Fault Refusal :=
  .next (startCmd s 0x51 c fun r s =>
    match s.tn.ownerKey with
    | none => finish s r stFormat
    | some key =>
      refuseOr s r (firstRefusal [(c.badBuf (keyBytes + sigBytes), stLength)])
        (withHost s r buf fun b =>
          let new := padTo keyBytes b
          if dsaVerify key new (slice b keyBytes sigBytes) then
            finish (commit { s with tn := { s.tn with ownerKey := some new } } 1) r stOk
          else finish s r stFormat))

/-- LX_MANAGER_SET (R374, R376). -/
def execLxManagerSet (c : Cmd) (buf : Option Bytes) (s : State) : Host.Outcome State Fault Refusal :=
  .next (startCmd s 0x52 c fun r s =>
    refuseOr s r (firstRefusal [(c.badBuf 32, stLength)])
      (withHost s r buf fun b =>
        let k := bfld c.d 8 0 3
        let m : Manager := ⟨bfld c.d 8 16 12, some (padTo 32 b), 0⟩
        let s := { s with tn := { s.tn with managers := mapPut s.tn.managers k m },
                          cf := { s.cf with replies := mapDel s.cf.replies k } }
        finish (commit s 1) r stOk))

/-- LX_MANAGER_CLEAR (R441). -/
def execLxManagerClear (c : Cmd) (s : State) : Host.Outcome State Fault Refusal :=
  .next (startCmd s 0x53 c fun r s =>
    let k := bfld c.d 8 0 3
    let s := { s with tn := { s.tn with managers := mapDel s.tn.managers k },
                      cf := { s.cf with replies := mapDel s.cf.replies k } }
    finish (commit s 1) r stOk)

/-- LX_HANDOVER (R444, R445): a reset of class H begins, marked in the Tense block (R446), or the command joins one.
While Retain is entered the command waits (Table 16.5). -/
def execLxHandover (c : Cmd) (buf : Option Bytes) (s : State) : Host.Outcome State Fault Refusal :=
  .next (if s.power.retain ≠ .out then s
    else startCmd s 0x54 c fun r s =>
      let tenant := num c.d 8 4
      match s.power.running, s.power.handover with
      | some .H, some h =>
        refuseOr s r (firstRefusal [(decide (h.tenant ≠ tenant), stFormat), (c.badBuf 32, stLength)])
          { s with power := { s.power with handover := some { h with refs := h.refs ++ [r] } } }
      | _, _ =>
        refuseOr s r (firstRefusal [(c.badBuf 32, stLength)])
          (withHost s r buf fun b =>
            requestReset .H (commit { s with power := { s.power with handover := some ⟨[r], tenant, padTo 32 b⟩ },
                                             tn := { s.tn with mark := true } } 2)))

/-- LX_FLASH_WRITE (R443): the area is written and verified, or erased. -/
def execLxFlashWrite (c : Cmd) (buf : Option Bytes) (s : State) : Host.Outcome State Fault Refusal :=
  .next (startCmd s 0x55 c fun r s =>
    let t := bfld c.d 8 0 2
    let busy := if t < 2 then decide (getF s rLxStatus fLxStatusActiveSlot = t)
      else decide (getF s rLxStatus fLxStatusRecordSlot + 2 = t)
    refuseOr s r (firstRefusal [(busy, stFormat), (decide (areaBytes t < c.len) || c.badBuf 0, stLength)])
      (withHost s r buf fun b =>
        let b := padTo c.len b
        let ok := if t < 2 then imageValid s b else recordValid s b
        let s := { s with lx := { s.lx with areas := mapPut s.lx.areas t (if ok then b else []) } }
        finish s r (if ok then stOk else stFormat)))

/-- LX_ROLLBACK (R453). -/
def execLxRollback (c : Cmd) (s : State) : Host.Outcome State Fault Refusal :=
  .next (startCmd s 0x56 c fun r s =>
    let k := bfld c.d 8 0 4
    let v := num c.d 0x0C 4
    let svn := if k = 0 then getF s rIdFirmware fIdFirmwareImageSvn else getF s rIdFirmware fIdFirmwareRecordSvn
    if v < rollback s k ∨ (k ≤ 1 ∧ svn < v) then finish s r stFormat
    else if v = rollback s k then finish s r stOk
    else finish (commit { s with tn := { s.tn with rollback := mapPut s.tn.rollback k v } } 0) r stOk)

/-- A UTC value lies below the previous anchor's of the same cold start (R454). -/
def utcBackward (s : State) (utc : Nat) : Bool :=
  match (s.tn.anchors.filter fun a => a.cycles == s.tn.coldStarts).getLast? with
  | some a => decide (utc < a.utc)
  | none => false

/-- LX_ANCHOR (R454). -/
def execLxAnchor (c : Cmd) (s : State) : Host.Outcome State Fault Refusal :=
  .next (startCmd s 0x57 c fun r s =>
    let utc := num c.d 8 8
    let a : Anchor := ⟨utc, s.time, s.tn.coldStarts, if utcBackward s utc then 1 else 0⟩
    finish (commit { s with tn := { s.tn with anchors := (s.tn.anchors ++ [a]).drop (s.tn.anchors.length - 255) } } 7) r stOk)

/-- Lengths of the Tense records (Table 15.10). -/
def recordBytes (n : Nat) : Nat := [64, 384, 64, 4096, 39168, 71680, 262176, 8192, 4096, 65536].getD n 0

def Anchor.bytes (a : Anchor) : Bytes := natLe 8 a.utc ++ natLe 8 a.localT ++ natLe 4 a.cycles ++ natLe 4 a.flags ++ zeros 8

/-- A Tense record as it is copied (R451): where the spec gives a record's layout no more than its contents, its bytes are
free (log entry 28). -/
def tenseRecord (s : State) (n : Nat) : Bytes × State :=
  let words (k : Nat) (f : Nat → Nat) : Bytes := (List.range k).flatMap fun i => natLe 4 (f i)
  if n = 0 then (words 16 (rollback s), s)
  else if n = 3 then (words 1024 fun i => (mapGet s.tn.histogram i).getD 0, s)
  else if n = 7 then (padTo 8192 (s.tn.anchors.flatMap Anchor.bytes), s)
  else if n = 9 then (words 16384 fun i => (mapGet s.tn.ceilings i).getD 0, s)
  else
    ((List.range (recordBytes n)).map fun i => Config.freeByte (s.draws + i), { s with draws := s.draws + recordBytes n })

/-- A record that has no good copy reads as zeros from then on, record 0 as all ones (R450). -/
def loseRecord (s : State) (n : Nat) : State :=
  let t := s.tn
  let t := match n with
    | 0 => { t with rollback := (List.range 16).map fun k => (k, 2 ^ 32 - 1) }
    | 1 => { t with ownerKey := none, managers := [], floor := 0 }
    | 2 => { t with seconds := 0, coldStarts := 0, thermalCycles := 0, handovers := 0, tenant := 0, mark := false, offCause := 0 }
    | 3 => { t with histogram := [] }
    | 4 => { t with lanes := [] }
    | 5 => { t with failedAcs := [], failedBaus := [], health := [] }
    | 6 => { t with granules := [], channels := [] }
    | 7 => { t with anchors := [] }
    | 8 => { t with commits := [], wear := [], sparesUsed := 0 }
    | _ => { t with ceilings := [] }
  raise0 { s with tn := t } 57 fTnEventRecordLost

/-- LX_TN_READ (R450, R451): `good` says that a copy of the record holds. -/
def execLxTnRead (c : Cmd) (hostOk good : Bool) (s : State) : Host.Outcome State Fault Refusal :=
  .next (startCmd s 0x58 c fun r s =>
    let n := num c.d 8 1
    refuseOr s r (firstRefusal [(decide (9 < n), stFormat), (c.badBuf (recordBytes n), stLength)])
      (if good then
        let (b, s) := tenseRecord s n
        putHost s r c.host b hostOk fun s => completeWith s r stOk (recordBytes n)
      else
        let s := loseRecord s n
        putHost s r c.host (List.replicate (recordBytes n) (if n = 0 then 0xFF else 0)) hostOk fun s =>
          completeWith s r stOk (recordBytes n)))

/-! ## Suppletion on command (R455 to R457) -/

/-- The software index that a physical AC serves. -/
def acIndex (s : State) (phys : Nat) : Option Nat :=
  (List.range (activeAcs s)).find? fun i => getF s (rAcPhys i) fAcPhysPhys == phys

/-- A unit of key `k` is to be replaced: the command joins a replacement in progress, fails for want of a spare, or
begins one. -/
def beginSupplete (s : State) (r : CmdRef) (k left : Nat) : State :=
  match mapGet s.lx.supplete k with
  | some refs => { s with lx := { s.lx with supplete := mapPut s.lx.supplete k (refs ++ [r]) } }
  | none =>
    if left = 0 then finish s r stQuota
    else endSuppletions { s with lx := { s.lx with supplete := mapPut s.lx.supplete k [r] } }

/-- LX_SUPPLETE (R457, R221). -/
def execLxSupplete (c : Cmd) (s : State) : Host.Outcome State Fault Refusal :=
  .next (startCmd s 0x59 c fun r s =>
    let running (p : Nat → Bool) : Nat := (s.lx.supplete.filter fun e => p e.1).length
    if bfld c.d 8 0 1 = 0 then
      match acIndex s (bfld c.d 8 4 8) with
      | none => finish s r stFormat
      | some i => beginSupplete s r i (s.ac.spares.length - running fun k => decide (k < 2 ^ 16))
    else
      let b := bfld c.d 8 4 4
      let i := bfld c.d 8 8 4
      if 8 ≤ b ∨ activeBaus s b ≤ i then finish s r stFormat
      else beginSupplete s r (bauKey b i) ((bbdOf s b).spares - running fun k => decide (2 ^ 16 ≤ k ∧ (k - 2 ^ 16) / 16 = b)))

/-- LX_SET_ACTIVE (R441). -/
def execLxSetActive (c : Cmd) (s : State) : Host.Outcome State Fault Refusal :=
  .next (startCmd s 0x5A c fun r s => finish { s with lx := { s.lx with directory := setFld s.lx.directory 32 1 (bfld c.d 8 0 1) } } r stOk)

/-! ## Measured restarts (R431) -/

/-- Function 0's commands in progress complete with `ABORTED`; what they began goes on without them. -/
def abortOwner (s : State) : State :=
  let mine (r : CmdRef) : Bool := r.fn == 0
  let s := finishAll s (s.qe.started.filter mine) stAborted 0
  let scrub (m : Move) : Move := { m with refs := m.refs.filter fun r => !(mine r) }
  let issuer (w : RecIssuer) : Bool := match w with
    | .ring r => !(mine r)
    | .manager _ _ _ => true
  { s with
    pf := { s.pf with retires := [] },
    tm := { s.tm with moves := s.tm.moves.map fun (e : Nat × Move) => (e.1, scrub e.2) },
    lx := { s.lx with supplete := s.lx.supplete.map fun (e : Nat × List CmdRef) => (e.1, []) },
    power := { s.power with handover := s.power.handover.map fun (h : HandoverCmd) => { h with refs := [] } },
    cf := { s.cf with table := s.cf.table.map fun (e : Nat × RecEntry) =>
      (e.1, { e.2 with issuers := e.2.issuers.filter issuer }) } }

/-- The Lexicon halts (R431). -/
def haltLexicon (s : State) : State :=
  raiseGs (setB (setB s rLxStatus fLxStatusHalted true) rGsStatus fGsStatusLxHalted true) fGsEvent1LxHalt

/-- One second of the local counter. -/
def secondCycles : Nat := 940000000

/-- MEASURED_RESTART (R431): `same` says that the new measurement equals `LX_MEASURE` 0. -/
def execMeasuredRestart (same : Bool) (s : State) : Host.Outcome State Fault Refusal :=
  .next (live s fun s =>
    if lxHalted s then s
    else
      let recent := (s.lx.restarts.filter fun t => decide (elapsed s t < secondCycles)) ++ [s.time]
      let s := raise0 (abortOwner { s with lx := { s.lx with restarts := recent } }) 56 fLxEventRestart
      if same ∧ recent.length < 3 then s else haltLexicon s)

/-! ## Attestation over DOE (R439, R440) -/

/-- A response object: its header and body. -/
def doeObject (code : Nat) (b : Bytes) : Bytes := natLe 1 1 ++ natLe 1 code ++ zeros 2 ++ b

def doeError (st : Nat) : Bytes := doeObject 0x7F (natLe 4 st)

/-- The answer to a request object (Table 15.4). -/
def doeAnswer (s : State) (b : Bytes) : Bytes :=
  let chain := chainOf s
  let code := num b 1 1
  if lxHalted s then doeError stInternal
  else if num b 0 1 ≠ 1 ∨ num b 2 2 ≠ 0 ∨ code = 0 ∨ 3 < code then doeError stFormat
  else if b.length ≠ [4, 12, 36, 4].getD code 4 then doeError stLength
  else if code = 1 then
    if chain.length < num b 4 4 + num b 8 4 then doeError stLength
    else doeObject 0x81 (natLe 4 chain.length ++ slice chain (num b 4 4) (num b 8 4))
  else if code = 2 then doeObject 0x82 (mkReport s 1 0 (slice b 4 32))
  else
    match s.lx.report with
    | some p => doeObject 0x83 p
    | none => doeError stNoContext

/-- A request object arrives at the mailbox of Function 0; one that arrives during a tenant handover is answered after
it (R439). -/
def doeRequest (s : State) (b : Bytes) : State :=
  live s fun s =>
    if !(answers s 0) || (s.power.restricted && !(lxHalted s)) || wakeLogic s || s.lx.doe.isSome then s
    else if s.power.running = some .H then { s with lx := { s.lx with doe := some b } }
    else emit s (.doe (doeAnswer s b))

/-- GET_CHAIN (R439). -/
def execGetChain (body : Bytes) (s : State) : Host.Outcome State Fault Refusal := .next (doeRequest s body)

/-- ATTEST (R439, R440). -/
def execAttest (body : Bytes) (s : State) : Host.Outcome State Fault Refusal := .next (doeRequest s body)

/-- GET_HANDOVER (R439, R444). -/
def execGetHandover (body : Bytes) (s : State) : Host.Outcome State Fault Refusal := .next (doeRequest s body)

/-- DOE_ABORT (R439): the request in progress is discarded with its response. -/
def execDoeAbort (s : State) : Host.Outcome State Fault Refusal :=
  .next (live s fun s => { s with lx := { s.lx with doe := none } })

/-- The request that a tenant handover held is answered. -/
def doeHeld (s : State) : State :=
  match s.lx.doe with
  | some b => emit { s with lx := { s.lx with doe := none } } (.doe (doeAnswer s b))
  | none => s

/-! ## The Tense block (R448 to R450) -/

/-- Power-on seconds since the last periodic commit. -/
def secondsDue (s : State) : Nat := elapsed s s.lx.periodic / secondCycles

/-- The seconds are committed with record 2. -/
def commitSeconds (s : State) : State :=
  commit { s with tn := { s.tn with seconds := s.tn.seconds + secondsDue s },
                  lx := { s.lx with periodic := (s.lx.periodic + secondsDue s * secondCycles) % 2 ^ 64 } } 2

/-- Every second of the period counts in the bin of each sensor's temperature (Table 15.9, record 3). -/
def countTemps (celsius : List Nat) (secs : Nat) (h : NMap Nat) : NMap Nat :=
  (celsius.take 16).zipIdx.foldl (init := h) fun h (t, k) =>
    let b := 64 * k + min 63 (t / 2)
    mapPut h b (min (2 ^ 32 - 1) ((mapGet h b).getD 0 + secs))

/-- Units of record 5: 136 ACs, then 18 BAUs of each BBD. -/
def healthUnits : Nat := 280

/-- The daily score of a BAU, for which the spec gives no sources: a free value (log entry 64). -/
def noteBau (s : State) (u : Nat) : State :=
  let (v, s) := drawFree s 16
  { s with tn := { s.tn with health := mapPut s.tn.health (64 * u + dayOf s) v } }

/-- A day of power-on time has ended: the scores of its BAUs are recorded, the record is committed, and the day `new` begins
afresh in the place of the one 64 days before (record 5). -/
def endDay (new : Nat) (s : State) : State :=
  let s := (List.range 144).foldl (fun s b => noteBau s (136 + b)) s
  commit { s with tn := { s.tn with health := s.tn.health.filter fun (e : Nat × Nat) => decide (e.1 % 64 ≠ new) } } 5

/-- The day that `secs` more seconds of power-on time bring. -/
def dayAfter (s : State) (secs : Nat) : Nat := (s.tn.seconds + secs) / 86400 % 64

/-- TENSE_PERIODIC_COMMIT (R448, R450): every 60 s; the operand names records whose sector fails the read-back of its next
commit, from now on. -/
def execTensePeriodicCommit (failing : List Nat) (celsius : List Nat) (s : State) : Host.Outcome State Fault Refusal :=
  .next (live s fun s =>
    if s.power.running ≠ none ∨ secondsDue s < 60 then s
    else
      let s := { s with tn := { s.tn with
        failing := s.tn.failing ++ failing.eraseDups.filter fun n => decide (n ≤ 9) && !(s.tn.failing.contains n) } }
      let s := if dayAfter s (secondsDue s) = dayOf s then s else endDay (dayAfter s (secondsDue s)) s
      let secs := secondsDue s
      let s := commitSeconds s
      commit { s with tn := { s.tn with histogram := countTemps celsius secs s.tn.histogram } } 3)

end Sys2Proof.Machine
end

