-- ==== Sys2Proof/Machine/Power.lean ====
section
/-!
DEFINITION. Machine/Power.lean: input power, thermal trips and clocks (R459, R461, R468, R471), throttle steps (R464 to
R466), and Retain (R472 to R476, R39, R83, R156, R191, R223, R264, R350, R404).
-/

namespace Sys2Proof.Machine

/-! ## Off -/

/-- The module goes Off: `RING_ATTACH` is released, and everything that stops with the clocks waits for the next start
(R461). -/
def goOff (why : Supply) (s : State) : State :=
  let s := releaseRing s
  let p := s.power
  { s with power := keepMarks p { Power.fresh with supply := why, running := none, perst := p.perst,
                                                   handover := p.handover.map fun (h : HandoverCmd) => { h with refs := [] } } }

/-- A brownout, or an event that acts as one: record 2 is committed with the cause (R449, R461). -/
def brownOut (cause : Nat) (why : Supply) (s : State) : State :=
  let s := commitSeconds s
  goOff why (commit { s with tn := { s.tn with offCause := cause } } 2)

/-- The module starts as at power-on (R459, R477). -/
def powerUp (s : State) : State := beginReset .C s

/-- POWER_ON (R459, R461, R471, R477, R479): a module held Off by a thermal trip, or by an input above 61 V that has not
fallen to 60 V, stays Off. -/
def execPowerOn (s : State) : Host.Outcome State Fault Refusal :=
  .next (if s.power.supply = .tripped ∨ s.power.supply = .overvoltage then s else powerUp s)

/-- WARM_RESET (R476, R477, R479). -/
def execWarmReset (fromPerst : Bool) (s : State) : Host.Outcome State Fault Refusal :=
  let s := if fromPerst then { s with power := { s.power with perst := false } } else s
  .next (if powered s then requestReset .W s else s)

/-- OVERVOLTAGE (R459): above 61 V the module is held Off; back at 60 V or below it starts as at power-on, which takes more than
48 V (R461).  Above the absolute maximum of 64 V the spec says only that the module may be damaged. -/
def execOvervoltage (millivolt : Nat) (s : State) : Host.Outcome State Fault Refusal :=
  if 64000 < millivolt then .fault .damaged
  else if s.power.supply = .tripped then .next s
  else if 61000 < millivolt then .next (if powered s then goOff .overvoltage s else { s with power := { s.power with supply := .overvoltage } })
  else if s.power.supply = .overvoltage ∧ millivolt ≤ 60000 then
    .next (if 48000 < millivolt then powerUp s else { s with power := { s.power with supply := .off } })
  else .next s

/-- BROWNOUT (R461). -/
def execBrownout (s : State) : Host.Outcome State Fault Refusal := .next (if powered s then brownOut 1 .off s else s)

/-- The trip mark of a sensor; 0 before the record is loaded (R467, R468). -/
def tripMark (s : State) (sensor : Nat) : Nat := if sensor < 8 then s.power.tripDie else s.power.tripBbd

/-- The throttle mark of a sensor. -/
def throttleMark (s : State) (sensor : Nat) : Nat := if sensor < 8 then s.power.throttleDie else s.power.throttleBbd

/-- A sensor has reached its trip mark. -/
def overTrip (s : State) (sensor celsius : Nat) : Bool := decide (tripMark s sensor ≠ 0 ∧ tripMark s sensor ≤ celsius)

/-- A thermal trip (R468). -/
def trip (s : State) : State := brownOut 2 .tripped (emit s (.thermtrip true))

/-- THERMAL_TRIP (R468). -/
def execThermalTrip (sensor celsius : Nat) (s : State) : Host.Outcome State Fault Refusal :=
  .next (if powered s ∧ sensor < 16 ∧ overTrip s sensor celsius = true then trip s else s)

/-- CLOCK_LOSS (R471). -/
def execClockLoss (s : State) : Host.Outcome State Fault Refusal := .next (if powered s then brownOut 3 .off s else s)

/-- THERMTRIP_RELEASE (R468): the module may start again. -/
def execThermtripRelease (s : State) : Host.Outcome State Fault Refusal :=
  .next (if s.power.supply = .tripped then
      emit { s with power := { s.power with supply := .off } } (.thermtrip false)
    else s)

/-! ## Throttle steps (R464 to R467) -/

/-- A sub-step and its count of periods below the release threshold, after a period (R464). -/
def subStep (step low rise : Nat) (release : Bool) : Nat × Nat :=
  if rise ≠ 0 then (min 7 (step + rise), 0)
  else if release then (if low + 1 = 8 then (step - 1, 0) else (step, low + 1))
  else (step, 0)

/-- What the cap asks of the cap sub-step: 2 above 1.1 × cap, 1 above the cap. -/
def capRise (watts cap : Nat) : Nat := if 11 * cap < 10 * watts then 2 else if cap < watts then 1 else 0

/-- The hottest sensor minus its throttle mark; before the first record is loaded there is no mark to compare with. -/
def hottest (s : State) (celsius : List Nat) : Int :=
  (celsius.take 16).zipIdx.foldl (init := -1000) fun m (t, k) =>
    if throttleMark s k = 0 then m else max m ((t : Int) - (throttleMark s k : Int))

/-- `PW_TEMP` takes each sensor's reading (R467). -/
def readTemps (celsius : List Nat) (s : State) : State :=
  (celsius.take 16).zipIdx.foldl (init := s) fun s (t, k) =>
    setR s (rPwTemp k) (at_ 0 8 (min 255 t) + at_ 8 8 (max (min 255 t) (getF s (rPwTemp k) fPwTempMax)))

/-- A thermal cycle: the die falls 40 °C below its highest value since the last one (R448). -/
def countCycle (celsius : List Nat) (s : State) : State :=
  let die := maxOf (celsius.take 8)
  if celsius = [] then s
  else if die + 40 ≤ s.tn.peakDie then
    commit { s with tn := { s.tn with thermalCycles := s.tn.thermalCycles + 1, peakDie := die } } 2
  else { s with tn := { s.tn with peakDie := max die s.tn.peakDie } }

/-- The new throttle step at a grid boundary (R464 to R466). -/
def throttle (watts : Nat) (celsius : List Nat) (s : State) : State :=
  let f (x : Fld) : Nat := getF s rPwPower x
  let cap := getF s rPwCap fPwCapWatts
  let t := hottest s celsius
  let c := subStep (f fPwPowerCapStep) s.power.capLow (capRise watts cap) (decide (100 * watts < 95 * cap))
  let h := subStep (f fPwPowerThermStep) s.power.thermLow (if 0 ≤ t then 1 else 0) (decide (t < -(s.power.hyst : Int)))
  let s := bumpR s (rPwStepPeriods (f fPwPowerStep)) 1
  let s := if f fPwPowerCapStep = 7 ∧ cap < watts then raise0 s 58 fPwEventCapUnmet else s
  let s := if f fPwPowerThermStep < h.1 then raise0 s 58 fPwEventThermal else s
  let step := max (max c.1 h.1) (getF s rPwCap fPwCapMinStep)
  let s := setR s rPwPower (at_ 0 11 (min 2047 watts) + at_ 16 3 step + at_ 19 3 c.1 + at_ 22 3 h.1)
  { s with power := { s.power with capLow := c.2, thermLow := h.2 } }

/-- A sensor read at a boundary has reached its trip mark (R468). -/
def anyTrip (s : State) (celsius : List Nat) : Bool := (celsius.take 16).zipIdx.any fun e => overTrip s e.2 e.1

/-- What a boundary of the grid does (R464 to R467, R448). -/
def passBoundary (watts : Nat) (celsius : List Nat) (s : State) : State :=
  countCycle celsius (throttle watts celsius (readTemps celsius { s with power := { s.power with boundary := s.time / msCycles } }))

/-- THROTTLE_BOUNDARY (R464): once at each boundary of the 1 ms grid; a sensor that reaches its trip mark trips the module
(R468). -/
def execThrottleBoundary (watts : Nat) (celsius : List Nat) (s : State) : Host.Outcome State Fault Refusal :=
  .next (live s fun s =>
    if s.time / msCycles = s.power.boundary then s
    else if anyTrip s celsius then trip (passBoundary watts celsius s)
    else passBoundary watts celsius s)

/-! ## Retain: entry (R473, Table 16.5) -/

def setRetain (s : State) (p : RetainPhase) : State := { s with power := { s.power with retain := p } }
def setPwStatus (s : State) (st : Nat) : State := setF s rPwState fPwStateStatus st

/-- Step 1: a heartbeat with power state 2; fetching and new attention work stop with the phase (R404, R429, R156). -/
def startRetain (s : State) : State :=
  setRetain { (if composed s then sendHeartbeats s 2 else s) with
    power := { (if composed s then sendHeartbeats s 2 else s).power with retainWaits := false, runHeld := false } } (.entering 1)

/-- A request for Retain (R473). -/
def requestRetain (s : State) : State :=
  if s.power.running = some .H then { s with power := { s.power with retainWaits := true } }
  else if s.power.retain = .out then startRetain s
  else s

/-- Attention work has drained (R156). -/
def attentionDone (s : State) : Bool := s.ae.reqs.isEmpty && s.ae.ops.isEmpty && s.ae.slotWait.isEmpty

/-- Every thread of a job has ended or is in its save area. -/
def parked (j : Job) : Bool := j.threads.all fun t => t.2.cond == .ended || t.2.place == .area

/-- A thread that waits in the save area stands at the step boundary it was saved at, and need not run to reach one (R213, R223;
log entry 21). -/
def atBoundary (t : Thread) : Thread := if t.place = .area ∧ t.cond = .runnable then { t with cond := .saved } else t

/-- Step 2: jobs with a save area are pre-empted with resume, the others end (R223). -/
def retainJobs (s : State) : State :=
  (s.ac.jobs.map (·.1)).foldl (init := s) fun s n =>
    match jobAt s n with
    | none => s
    | some j =>
      if jSaveBytes j.desc = 0 then endJob s n stAborted 0 0 0 0
      else if j.preempt.isNone && parked j then s
      else
        checkPreempt (updJob s n fun j =>
          { j with preempt := some (j.preempt.getD ⟨true, s.time, []⟩),
                   threads := j.threads.map fun (e : Nat × Thread) => (e.1, atBoundary e.2) }) n

/-- A handover that the node is the source of reverts; one that it accepts and does not hold is refused (R404). -/
def retainHandovers (s : State) : State :=
  s.cf.handovers.foldl (init := s) fun s e =>
    if e.2.source then hoRevert s e.1 stTimeout
    else match e.2.phase with
      | .held _ _ => s
      | _ => hoDrop (hoSend s e.2.peer (hoMsg 3 e.1 e.2.serial e.2.peer stAborted 0 [])) e.1 e.2

/-- Every thread left lies in its job's save area, or has ended (R223). -/
def jobsSaved (s : State) : Bool :=
  s.ac.jobs.all fun e => parked e.2

/-- Step 3: a move that has not reached its edit goes back to the queue, and its new slots are freed (R264). -/
def requeueMove (s : State) (id : Nat) : State :=
  match mapGet s.tm.moves id with
  | none => s
  | some m =>
    if m.stage = .queued ∨ m.stage = .copying ∨ m.stage = .ready then s
    else updMove (unwindMove s id m) id fun m => { m with stage := .queued, dst := [], walker := none }

def retainMoves (s : State) : State :=
  let s := (s.tm.moves.map (·.1)).foldl requeueMove s
  (s.tm.buffers.map (·.1)).foldl flushBuf s

/-- Every edit is done and every buffer is written (R264). -/
def movesDone (s : State) : Bool := s.tm.moves.all (fun e => e.2.stage == .queued) && s.tm.buffers.isEmpty

/-- Every command queue and BAU is idle (R191). -/
def banksIdle (s : State) : Bool := s.bb.bbd.all fun e => e.2.queue.isEmpty && e.2.held.isEmpty

/-- Steps 5 and 6: connections enter `ERROR`, `RING_ATTACH` is released, the ports power down, and the keys and the
measurements are wrapped (R350, R313, R315, R264). -/
def retainSleep (s : State) : State :=
  let s := (s.ft.conns.map (·.1)).foldl (fun s c => connFail s c stAborted) s
  let s := releaseRing s
  let s := (List.range 18).foldl (fun s g => if portState s g = 0 then s else portDown s g 1) s
  let s := { s with tn := { s.tn with retainKeys := true, retainMeasures := true } }
  let s := setPwStatus (setRetain s .inside) stOk
  if s.power.runHeld then setRetain { s with power := { s.power with runHeld := false } } .leaving else s

/-- RETAIN_ENTRY_PROGRESS (R473, Table 16.5): the step in hand has ended, and the next one begins. -/
def execRetainEntryProgress (s : State) : Host.Outcome State Fault Refusal :=
  .next (live s fun s =>
    if s.power.running.isSome then s
    else
      match s.power.retain with
      | .entering 1 => if attentionDone s then setRetain (retainHandovers (retainJobs s)) (.entering 2) else s
      | .entering 2 => if jobsSaved s then setRetain (retainMoves s) (.entering 3) else s
      | .entering 3 => if movesDone s then setRetain { s with tm := { s.tm with linkLow := true } } (.entering 4) else s
      | .entering _ => if banksIdle s then retainSleep s else s
      | _ => s)

/-! ## Retain: exit (R474, R475) -/

/-- A request for Run (R473, R474). -/
def requestRun (s : State) : State :=
  match s.power.retain with
  | .out => setPwStatus s stOk
  | .entering _ => { s with power := { s.power with runHeld := true } }
  | .inside => setRetain s .leaving
  | .leaving => s

/-- A write that includes `PW_STATE.REQUEST` (R473). -/
def requestState (s : State) (v : Nat) : State :=
  if v = 1 then requestRun s else if v = 2 then requestRetain s else setPwStatus s stFormat

/-- WAKE (R474). -/
def execWake (s : State) : Host.Outcome State Fault Refusal :=
  .next (if powered s ∧ s.power.retain = .inside then setRetain s .leaving else s)

/-- The pre-empted jobs are queued again in admission order: their threads have all been runnable since now (R208, R223). -/
def requeueJobs (s : State) : State :=
  let again (t : Thread) : Thread := if t.cond = .runnable then { t with since := s.time } else t
  { s with ac := { s.ac with jobs := s.ac.jobs.map fun (e : Nat × Job) =>
    (e.1, { e.2 with threads := e.2.threads.map fun (x : Nat × Thread) => (x.1, again x.2) }) } }

/-- Steps 4 to 6 of the exit: ways are zeroed, the keys unwrapped, the ports wake and the ring joins (R223, R264, R315,
R371). -/
def wakeBlocks (s : State) : State :=
  let s := { s with ac := { s.ac with ways := [], reach := [], te := [] }, bb := { s.bb with refresh := [] },
                    es := { s.es with credit := [] }, im := { s.im with credit := [], shared := [] },
                    tn := { s.tn with retainKeys := false, retainMeasures := false } }
  let s := (List.range 16).foldl (fun s g => if portDisabled s g then s else wakePort s g) (requeueJobs s)
  startListening s

/-- Step 7: the errors of the tree connections are reported, and the suspicion periods start again (R404). -/
def resumeWatch (s : State) : State :=
  let s := { s with cf := { s.cf with watch := s.cf.watch.map fun (e : Nat × Watch) => (e.1, ⟨0, false⟩),
                                      hbLast := s.time, hbEnd := s.time } }
  (s.ft.conns.filter fun e => e.2.tree && e.2.state == 2).foldl (fun s e => reportTree s e.1) s

/-- The doorbell writes that the wake logic stored act now, in their order (R429, R474). -/
def applyDoorbells (s : State) : State :=
  let ds := s.power.doorbells
  ds.foldl (fun s (fn, off, v) => bar2Write s fn off v) { s with power := { s.power with doorbells := [] } }

/-- The links retrain: those of the BBDs and tier links given fail to (R161, R191, R231, R264). -/
def wakeLinks (bbds tiers : List Nat) (s : State) : State :=
  let s := { s with tm := { s.tm with linkLow := false } }
  let s := (bbds.filter fun b => decide (b < 8) && linkUp s b).foldl bbdOut s
  (tiers.filter fun k => decide (k < 8)).foldl tierDown s

/-- The exit ends (R475). -/
def leaveRetain (bbds tiers : List Nat) (s : State) : State :=
  let s := resumeWatch (wakeBlocks (wakeLinks bbds tiers s))
  let s := pokeThreads (applyDoorbells (setPwStatus (setRetain s .out) stOk))
  raise0 s 58 fPwEventRetainExit

/-- RETAIN_EXIT_END (R475): measurements that differ from those kept start the node as at class W. The operands name the BBDs
and the tier links whose retrain fails. -/
def execRetainExitEnd (x : RetainExit) (s : State) : Host.Outcome State Fault Refusal :=
  .next (if powered s ∧ s.power.retain = .leaving then (if x.same then leaveRetain x.bbds x.tiers s else requestReset .W s) else s)

/-- The state code of `PW_STATE.STATE` (Table 16.10). -/
def pwStateCode (s : State) : Nat :=
  match s.power.retain with
  | .out => if getF s rPwPower fPwPowerStep = 0 then 0 else 1
  | .entering _ => 2
  | .inside => 3
  | .leaving => 4

/-- `PW_STATE` as it reads. -/
def pwStateView (s : State) : Nat := at_ 2 3 (pwStateCode s) + at_ 8 8 (getF s rPwState fPwStateStatus)

end Sys2Proof.Machine
end

