-- ==== Sys2Proof/Machine/Host.lean ====
section
/-!
DEFINITION. Machine/Host.lean: what the host does through BAR0 and BAR4: the view of each register (R7, R486, R488), the
writes with an effect of their own, and the node-memory window (R258, R260, R261, R24, R215).
-/

namespace Sys2Proof.Machine

/-! ## Which registers an access reaches (R485, R486) -/

/-- A register that an access reaches: its offset and its table row. -/
structure Reached where
  off : Nat
  reg : RegGroup
deriving DecidableEq, Repr

/-- A 32-bit or 64-bit access at its natural alignment (R486). -/
def sizeOk (off size : Nat) : Bool := decide ((size = 4 ∨ size = 8) ∧ off % size = 0)

/-- The registers that the bytes [off, off + size) touch, in ascending offset. -/
def reachedBy (off size : Nat) : List Reached :=
  let b := off / 8 * 8
  [b, b + 2, b + 4, b + 6].filterMap fun o =>
    match groupAt o with
    | some g => if o < off + size ∧ off < o + g.width then some ⟨o, g⟩ else none
    | none => none

/-- The block at an offset answers: after a failed start-up only ID and GS do (R489). -/
def blockAnswers (s : State) (off : Nat) : Bool := !s.power.restricted || decide (off / 2 ^ 20 < 2)

/-- A function reads a register (R407). -/
def ownsRead (fn : Nat) : Owner → Bool
  | .both => true
  | .gsControl => true
  | .f0 => decide (fn = 0)
  | .f1 => decide (fn = 1)

/-- A function writes a register (R407, R492). -/
def ownsWrite (fn : Nat) : Owner → Bool
  | .both => true
  | .gsControl => decide (fn = 0)
  | .f0 => decide (fn = 0)
  | .f1 => decide (fn = 1)

/-- The index of an offset in an array of `n` registers. -/
def indexIn (base stride n off : Nat) : Option Nat :=
  if base ≤ off ∧ (off - base) % stride = 0 ∧ (off - base) / stride < n then some ((off - base) / stride) else none

/-! ## Views: fields that mirror the state behind the registers (log entry 8) -/

/-- `CX_STATUS` (Table 02.7). -/
def cxStatus (s : State) : Nat :=
  at_ 0 21 s.cx.open_.length + at_ 21 21 (s.cx.open_.filter fun e => e.2.state == 2 || e.2.state == 3).length
    + at_ 42 1 (if anyOpen s then 1 else 0)

/-- `PM_STATUS` (Table 03.11). -/
def pmStatus (s : State) : Nat :=
  at_ 0 28 (poolFree s) + at_ 28 13 s.pm.walkers.length + at_ 41 17 s.pm.deferred.length
    + at_ 58 1 (if anyOpen s then 1 else 0)

/-- `AE_STATUS` (Table 05.12). -/
def aeStatus (s : State) : Nat := at_ 0 14 (slotsHeld s) + at_ 14 9 s.ae.drafts.length

/-- `BB_STATUS` of a BBD (Table 06.11). -/
def bbStatus (s : State) (b : Nat) : Nat :=
  let w := regGet s (rBbStatus b)
  let put (w : Nat) (f : Fld) (v : Nat) : Nat := setFld w f.lo f.w v
  put (put (put w fBbStatusPermitsHeld (permitsHeld (bbdOf s b))) fBbStatusGrants (grantsOf s b).length)
    fBbStatusQueued (queuedCmds (bbdOf s b)).length

/-- `AC_STATUS` (Table 07.10). -/
def acStatus (s : State) : Nat :=
  let w := regGet s rAcStatus
  setFld (setFld (setFld w 13 12 s.ac.ways.length) 25 13 s.ac.jobs.length) 38 1 (if s.ac.jobs.isEmpty then 0 else 1)

/-- `TM_STATUS` (Table 08.7). -/
def tmStatus (s : State) : Nat :=
  at_ 0 9 (movesRunning s) + at_ 9 17 (movesQueued s) + at_ 26 4 s.tm.buffers.length
    + at_ 30 1 (if anyOpen s then 1 else 0) + at_ 31 1 (getF s rTmStatus fTmStatusPlanLocked)

/-- `FT_STATUS` (Table 11.8). -/
def ftStatus (s : State) : Nat :=
  at_ 0 15 (s.ft.conns.filter fun e => e.2.state == 1).length + at_ 15 17 s.ft.wrs.length
    + at_ 32 13 (s.ft.wrs.filter fun e => e.2.st == .armed).length
    + at_ 45 17 (sumOf (s.ft.conns.map fun e => e.2.reasm.length))

/-- `ES_GATE_STATUS` of a port (Table 12.1): every gate is open while gating is suspended. -/
def gateStatus (s : State) (g : Nat) : Nat :=
  let l := operList s g
  if gatesFree l.1 then at_ 6 8 0xFF
  else
    let (i, m, left) := entryAtPhase l.1 0 (phaseAt l s.time)
    at_ 0 6 i + at_ 6 8 (if suspended s g then 0xFF else Nat.lor m 0x80) + at_ 14 24 left

/-- `CF_MANAGER` of an entry (Table 13.12). -/
def managerView (s : State) (m : Nat) : Nat :=
  match mapGet s.tn.managers m with
  | some x => at_ 0 12 x.node + 2 ^ 12 + (if x.key.isSome then 2 ^ 13 else 0)
  | none => 0

/-- `LX_STATUS` (Table 15.13). -/
def lxStatus (s : State) : Nat :=
  setFld (setFld (regGet s rLxStatus) 0 1 (if s.tn.ownerKey.isSome then 1 else 0)) 3 1
    (if s.power.running = some .H then 1 else 0)

/-- `TN_STATUS` (Table 15.15). -/
def tnStatus (s : State) : Nat := at_ 0 6 s.tn.sparesUsed + at_ 32 32 (maxOf (s.tn.wear.map (·.2)) / 2 ^ 20)

/-- The views of the blocks GS to AC. -/
def viewLow (s : State) (o : Nat) : Nat :=
  if o = rGsControl then at_ 1 1 (if nodeBusy s then 1 else 0)
  else if o = rGsTime then s.time
  else if o = rGsIntPending1 then intPending s 1
  else if o = rGsIntPending0 then intPending s 0
  else if o = rCxStatus then cxStatus s
  else if o = rPmStatus then pmStatus s
  else if o = rAeStatus then aeStatus s
  else if o = rBbWideSize then wideSize s
  else if o = rAcStatus then acStatus s
  else
    match indexIn (rBbStatus 0) 0x100 8 o with
    | some b => bbStatus s b
    | none => regGet s o

/-- The views of the blocks TM to PW. -/
def viewHigh (s : State) (o : Nat) : Nat :=
  if o = rTmStatus then tmStatus s
  else if o = rTmWideFree then wideFree s
  else if o = rTmNarrowFree then narrowFree s
  else if o = rTmCxlFree then cxlFree s
  else if o = rTmExtentsFree then extentsFree s
  else if o = rPfReserveRs then reserveBase s
  else if o = rPfReserveLeft then at_ 0 32 (wideLeft s) + at_ 32 32 (narrowLeft s)
  else if o = rFtStatus then ftStatus s
  else if o = rFtStoreUsed then storeUsed s
  else if o = rCfStatus then cfStatus s
  else if o = rCfSerialFloor then serialFloor s
  else if o = rLxStatus then lxStatus s
  else if o = rTnStatus then tnStatus s
  else if o = rPwState then pwStateView s
  else
    match indexIn (rEsGateStatus 0) 0x800 18 o, indexIn (rCfManager 0) 8 8 o, indexIn (rCfRoute 0) 8 4096 o with
    | some g, _, _ => gateStatus s g
    | _, some m, _ => managerView s m
    | _, _, some n => (mapGet s.cf.current n).getD 0
    | _, _, _ => regGet s o

/-- The current value of the register at an offset. -/
def view (s : State) (o : Nat) : Nat := if o < 0x800000 then viewLow s o else viewHigh s o

/-- The class of reset that discards writes now (R488). -/
def discardClass (s : State) : Option RClass :=
  match s.power.running with
  | some .N => some .N
  | some .H => some .H
  | _ => none

/-- A field that a running reset of class N or H restores (R488). -/
def fieldHeld (s : State) (f : RegField) : Bool :=
  match discardClass s with
  | some c => f.cls.contains c
  | none => false

/-- The reset value of a field; of a degraded BBD's permit limit it is that BBD's `PERMIT_MAX` (Table 06.12). -/
def fieldReset (s : State) (off : Nat) (f : RegField) : Nat :=
  match indexIn (rBbPermitLimit 0) 0x100 8 off with
  | some b => if f.lo = fBbPermitLimitLimit.lo then min f.reset (getF s (rBbStatus b) fBbStatusPermitMax) else f.reset
  | none => f.reset

/-- What a register reads: its fields, with 0 where none lies or a field is write-only (R7), and reset values where a
running reset restores them (R488). -/
def readReg (s : State) (r : Reached) : Nat :=
  let v := view s r.off
  sumOf (r.reg.fields.map fun f =>
    if f.acc = .wo then 0 else if fieldHeld s f then at_ f.lo f.w (fieldReset s r.off f) else at_ f.lo f.w (fld v f.lo f.w))

/-! ## Reads -/

/-- The bytes that a read of supported size returns. -/
def readBytes (s : State) (fn off size : Nat) : Bytes :=
  let w := sumOf ((reachedBy off size).map fun r =>
    if ownsRead fn r.reg.owner && blockAnswers s r.off then readReg s r * 2 ^ (8 * (r.off % 8)) else 0)
  natLe size (w / 2 ^ (8 * (off % 8)))

/-- An access of unsupported size or alignment is noted (R486). -/
def badAccess (s : State) (fn : Nat) : State := raise s fn 0 fGsEvent1BadAccess.lo

/-- The Lexicon carries out Function 0's writes of a register: those of the owner blocks (R432). -/
def byLexicon (r : Reached) : Bool := r.reg.owner == .f0 && decide (2 < r.off / 2 ^ 20)

/-- A block whose registers a tenant handover resets (R432, Table 17.1). -/
def handoverBlock (off : Nat) : Bool := [0xA, 0xB, 0xF, 0x12].contains (off / 2 ^ 20)

/-- A Function 0 access that waits for the end of a tenant handover: a write of a register that the Lexicon holds back (R432),
and every access behind a write held back (R487). -/
def deferred (s : State) (a : Access) : Bool :=
  decide (s.power.running = some .H ∧ a.fn = 0) && ((s.lx.held.any fun x => x.1) ||
    (reachedBy a.off a.size).any fun r => byLexicon r && handoverBlock r.off)

/-- An access is held back. -/
def holdAccess (s : State) (write : Bool) (a : Access) : State :=
  { s with lx := { s.lx with held := s.lx.held ++ [(write, a)] } }

/-- A read is answered, with its one side effect, the clear of `PLAN_LOCKED` (R486, R241). -/
def takeRead (s : State) (a : Access) : State :=
  let s := emit s (.readData (readBytes s a.fn a.off a.size))
  if a.fn = 1 ∧ (reachedBy a.off a.size).any (fun r => r.off == rTmStatus) then setB s rTmStatus fTmStatusPlanLocked false
  else s

/-- A host read of BAR0 (R486 to R489): a read of Function 0 waits until its earlier writes have been applied (R487). -/
def hostRead (s : State) (a : Access) : State :=
  if !(powered s) then s
  else if !s.power.opened then emit s .unsupported
  else if !(answers s a.fn) || wakeLogic s then emit s (.readData (List.replicate a.size 0xFF))
  else if !(blockAnswers s a.off) then emit s (.readData (zeros a.size))
  else if !(sizeOk a.off a.size) then badAccess (emit s (.readData (zeros a.size))) a.fn
  else if decide (s.power.running = some .H ∧ a.fn = 0) && s.lx.held.any (fun x => x.1) then holdAccess s false a
  else takeRead s a

/-! ## How a write changes a register's stored bits (R7) -/

/-- The mask of the bytes [off, off + size) within a register, as bits. -/
def laneMask (r : Reached) (off size : Nat) : Nat :=
  let lo := max off r.off
  let hi := min (off + size) (r.off + r.reg.width)
  (2 ^ (8 * (hi - lo)) - 1) * 2 ^ (8 * (lo - r.off))

/-- The value of an access, moved to a register's own bits. -/
def laneData (r : Reached) (off v : Nat) : Nat :=
  if off ≤ r.off then v / 2 ^ (8 * (r.off - off)) else v * 2 ^ (8 * (off - r.off))

/-- A write at one register: the fields it may change and its bits. -/
structure RegWrite where
  fn   : Nat
  off  : Nat
  /-- The bits written. -/
  mask : Nat
  data : Nat
  /-- The stored value before, and after the RW and RW1C fields have taken the write. -/
  old  : Nat
  new  : Nat
deriving DecidableEq, Repr

/-- The write reaches a field. -/
def RegWrite.touches (w : RegWrite) (f : Fld) : Bool := decide (fld w.mask f.lo f.w ≠ 0)
/-- The write names every bit of a field: a write-only field acts only then (R473). -/
def RegWrite.covers (w : RegWrite) (f : Fld) : Bool := decide (fld w.mask f.lo f.w = 2 ^ f.w - 1)
/-- The value written to a write-only field, 0 where the write leaves it out. -/
def RegWrite.order (w : RegWrite) (f : Fld) : Nat := if w.covers f then fld w.data f.lo f.w else 0
/-- A field after the write. -/
def RegWrite.get (w : RegWrite) (f : Fld) : Nat := fld w.new f.lo f.w
/-- The write with one field ignored: it keeps its value (R497). -/
def RegWrite.keep (w : RegWrite) (f : Fld) : RegWrite := { w with new := setFld w.new f.lo f.w (fld w.old f.lo f.w) }

/-- The stored value after the RW and RW1C fields of a register have taken a write (R7). -/
def merge (fs : List RegField) (old mask data : Nat) : Nat :=
  fs.foldl (init := old) fun v f =>
    let m := fld mask f.lo f.w
    let d := fld data f.lo f.w
    let o := fld old f.lo f.w
    match f.acc with
    | .rw => setFld v f.lo f.w (Nat.lor (Nat.land d m) (Nat.land o (2 ^ f.w - 1 - m)))
    | .w1c => setFld v f.lo f.w (Nat.land o (2 ^ f.w - 1 - Nat.land d m))
    | _ => v

/-- The bits of a write that a running reset of class N or H discards: the fields that name it (R488). -/
def heldMask (s : State) (fs : List RegField) : Nat :=
  sumOf (fs.map fun f => if fieldHeld s f then at_ f.lo f.w (2 ^ f.w - 1) else 0)

/-- The write as a register takes it. -/
def regWrite (s : State) (a : Access) (r : Reached) : RegWrite :=
  let m := laneMask r a.off a.size
  let m := m - Nat.land m (heldMask s r.reg.fields)
  let d := laneData r a.off (a.val.toNat % 2 ^ (8 * a.size))
  { fn := a.fn, off := r.off, mask := m, data := d, old := regGet s r.off, new := merge r.reg.fields (regGet s r.off) m d }

/-- Store a register's word as the write leaves it. -/
def storeReg (s : State) (w : RegWrite) : State := if w.new = w.old then s else setR s w.off w.new

/-! ## GS and QE -/

/-- `GS_CONTROL.NODE_RESET` (R492). -/
def writeGsControl (s : State) (w : RegWrite) : State :=
  if w.order fGsControlNodeReset = 1 then requestReset .N s else s

/-- `GS_INT_ENABLE` of a source (R493): the mask of a source whose event register the function cannot read stays 0; an
enable set while its flag is set requests the event vector. -/
def writeIntEnable (s : State) (fn src : Nat) (w : RegWrite) : State :=
  match eventReg fn src with
  | none => s
  | some e =>
    let s := storeReg s w
    let rising := Nat.land (w.get fGsIntEnable1Mask) (2 ^ 32 - 1 - fld w.old 0 32)
    if Nat.land (regGet s e) rising = 0 then s else requestEvent s fn

/-- `QE_SQ_BASE` and `QE_CQ_BASE` (R414): only while the ring is `DISABLED`. -/
def writeRingBase (s : State) (fn n : Nat) (w : RegWrite) : State := if ringMode s fn n = 0 then storeReg s w else s

/-- `QE_RING_CTRL` (R414): `LOG2` from 4 to 16 and only while the ring is `DISABLED`; then `ENABLE` acts. -/
def writeRingCtrl (s : State) (fn n : Nat) (w : RegWrite) : State :=
  let l := w.get fQeRingCtrl1Log2
  let v := if ringMode s fn n = 0 ∧ 4 ≤ l ∧ l ≤ 16 then w else w.keep fQeRingCtrl1Log2
  let s := storeReg s (v.keep fQeRingCtrl1Enable)
  if w.touches fQeRingCtrl1Enable then ringEnable s fn n (decide (w.get fQeRingCtrl1Enable = 1)) else s

/-- The ring writes of a function's groups. -/
def writeRings (s : State) (fn : Nat) (sq cq ctrl : Nat → Nat) (w : RegWrite) : State :=
  match indexIn (sq 0) 0x40 (ringsOf fn) w.off, indexIn (cq 0) 0x40 (ringsOf fn) w.off,
    indexIn (ctrl 0) 0x40 (ringsOf fn) w.off with
  | some n, _, _ => writeRingBase s fn n w
  | _, some n, _ => writeRingBase s fn n w
  | _, _, some n => writeRingCtrl s fn n w
  | _, _, _ => storeReg s w

def writeGs (s : State) (w : RegWrite) : State :=
  if w.off = rGsControl then writeGsControl s w
  else
    match indexIn (rGsIntEnable1 0) 8 64 w.off, indexIn (rGsIntEnable0 0) 8 64 w.off with
    | some src, _ => writeIntEnable s 1 src w
    | _, some src => writeIntEnable s 0 src w
    | _, _ => storeReg s w

def writeQe (s : State) (w : RegWrite) : State :=
  if w.off < 0x203000 then writeRings s 1 rQeSqBase1 rQeCqBase1 rQeRingCtrl1 w
  else writeRings s 0 rQeSqBase0 rQeCqBase0 rQeRingCtrl0 w

/-! ## CX, PM, BB and AC -/

/-- A register that keeps its value while any context is in a state other than `FREE` (R23, R84, R232). -/
def storeWhenFree (s : State) (w : RegWrite) : State := if anyOpen s then s else storeReg s w

/-- `CX_TABLE_BASE` (R23, R480): the first write after a reset starts the zeroing of the table at the base written. -/
def writeTableBase (s : State) (w : RegWrite) : State :=
  if anyOpen s then s
  else
    let t := { storeReg s w with cx := { (storeReg s w).cx with written := true } }
    if s.cx.written || tableReady s then t else zeroTable t

def writeCx (s : State) (w : RegWrite) : State :=
  if w.off = rCxTableBase then writeTableBase s w
  else if w.off = rCxShardBase then storeWhenFree s w
  else storeReg s w

def writePm (s : State) (w : RegWrite) : State :=
  if w.off = rPmPoolBase ∨ w.off = rPmPoolSize then storeWhenFree s w else storeReg s w

/-- Stripes of the wide reserve under a narrow share (R281). -/
def reserveStripes (share : Nat) : Nat :=
  let wide := wideOf (2 ^ 28 * share)
  (wide - reserveOf wide) / 2 ^ 19

/-- `BB_NARROW_SHARE` (R162, R282). -/
def writeNarrowShare (s : State) (w : RegWrite) : State :=
  let v := w.get fBbNarrowShareShare
  if 16 < v ∨ anyOpen s = true then s
  else if reserveStripes v < 2081 * (remaps s).length then raise1 s 16 fPfEventShareRefused
  else storeReg s w

/-- `BB_PERMIT_LIMIT` (R179). -/
def writePermitLimit (s : State) (b : Nat) (w : RegWrite) : State :=
  let m := getF s (rBbStatus b) fBbStatusPermitMax
  if m < w.get fBbPermitLimitLimit then setF (storeReg s w) w.off fBbPermitLimitLimit m else storeReg s w

def writeBb (s : State) (w : RegWrite) : State :=
  if w.off = rBbNarrowShare then writeNarrowShare s w
  else
    match indexIn (rBbPermitLimit 0) 0x100 8 w.off with
    | some b => writePermitLimit s b w
    | none => storeReg s w

/-- `AC_CONTROL` (Table 07.11): `ATTN_CONTEXTS` above 16 sets 16. -/
def writeAcControl (s : State) (w : RegWrite) : State :=
  let s := storeReg s w
  if 16 < w.get fAcControlAttnContexts then setF s rAcControl fAcControlAttnContexts 16 else s

/-- `AC_SAVE_BASE` and `AC_SAVE_SIZE` keep their values while any job is admitted (R224). -/
def writeAc (s : State) (w : RegWrite) : State :=
  if w.off = rAcSaveBase ∨ w.off = rAcSaveSize then (if s.ac.jobs.isEmpty then storeReg s w else s)
  else if w.off = rAcControl then writeAcControl s w
  else storeReg s w

/-! ## TM and PF -/

/-- `TM_PLAN` (R241). -/
def writePlan (s : State) (cls : Nat) (w : RegWrite) : State :=
  let bad := !(planOk w.new)
  let used := s.cx.open_.any fun e => e.2.plan == cls
  let t := if bad then raise1 s 14 fTmEventPlanRefused else s
  let t := if used then setB t rTmStatus fTmStatusPlanLocked true else t
  if bad || used then t else storeReg t w

def writeTm (s : State) (w : RegWrite) : State :=
  if w.off = rTmSlotBase ∨ w.off = rTmSlotCount then storeWhenFree s w
  else
    match indexIn (rTmPlan 0 0) 8 4096 w.off with
    | some k => writePlan s (k / 16) w
    | none => storeReg s w

/-- `PF_LOG_HEAD` (R273). -/
def writeLogHead (s : State) (w : RegWrite) : State :=
  if headOk s (w.get fPfLogHeadPfLogHead) then storeReg s w else s

/-- `PF_PASS` (R277, R280): a kind that Table 09.5 does not give is ignored with its write; a start while a pass runs is
ignored, and an abort without one. -/
def writePass (s : State) (w : RegWrite) : State :=
  if 4 < w.get fPfPassKind then s
  else
    let running := s.pf.pass.isSome
    let s := storeReg s w
    let s := if w.order fPfPassAbort = 1 then abortPass s else s
    if w.order fPfPassStart = 1 ∧ running = false then startPass s else s

/-- `PF_TEST_TARGET` (R275, R276). -/
def writeTestTarget (s : State) (w : RegWrite) : State :=
  let s := storeReg s w
  let op := w.order fPfTestTargetOp
  if op = 1 ∨ op = 2 then startTest s op else s

def writePf (s : State) (w : RegWrite) : State :=
  if w.off = rPfLogHead then writeLogHead s w
  else if w.off = rPfPass then writePass s w
  else if w.off = rPfTestTarget then writeTestTarget s w
  else storeReg s w

/-! ## FL, ES and IM -/

/-- A logical lane of a port has failed: the physical lane that its markers were found on did not train, failed since, or is
retired. -/
def laneFailed (s : State) (g l : Nat) : Bool :=
  match mapGet (portOf s g).place l with
  | some p => (portOf s g).failedLanes.contains p || !((portOf s g).trained.contains p) || retiredLane s g p
  | none => true

/-- The node sends `SWAP_REQ` for a marker at least 4 ahead (step 1 of R301): `ahead` more than that. -/
def requestSwap (s : State) (g lane ahead : Nat) : State :=
  let block := (markerNow s g + 4 + ahead % 2 ^ 24) % 2 ^ 32
  let s := updPort s g fun p => { p with seq := (p.seq + 1) % 256, swap := some ⟨lane, block, true, false, s.time, true⟩ }
  setB (sendLcf s g (mkSwap s g 2 lane 1 block)) rFlSwap fFlSwapBusy true

/-- A swap begins (R301, R302). A request of the partner for the same lane that came first stands when its node ID is the
lower one; a port whose spare the partner has asked for on another lane refuses (log entry 179). -/
def startSwap (s : State) (ahead : Nat) : State :=
  let g := getF s rFlSwap fFlSwapPort
  let lane := getF s rFlSwap fFlSwapLane
  if getB s (rFlPort g) fFlPortSpareIn || !(portUp s g) then endSwap s stFormat
  else if getF s (rFlPort g) fFlPortWidth = 2 ∧ laneFailed s g lane = true then
    let s := setF (setB s (rFlPort g) fFlPortSpareIn true) (rFlPort g) fFlPortSpareFor lane
    endSwap (retrainPort (retireLane s g (physLane s g lane)) g) stOk
  else
    match (portOf s g).swap with
    | some w =>
      if w.acked = false then requestSwap s g lane ahead
      else if w.lane ≠ lane then endSwap s stFormat
      else if getF s (rFlPort g) fFlPortPartner < nodeId s then
        setB (updPort s g fun p => { p with swap := some { w with ours := true, start := s.time } }) rFlSwap fFlSwapBusy true
      else requestSwap s g lane ahead
    | none => requestSwap s g lane ahead

/-- `FL_SWAP` (Table 10.7): `GO` is ignored while `BUSY`. How far ahead the marker lies is the command's, or free. -/
def writeSwap (s : State) (ahead : Option Nat) (w : RegWrite) : State :=
  let s := storeReg s w
  if w.order fFlSwapGo = 1 ∧ getB s rFlSwap fFlSwapBusy = false then
    match ahead with
    | some b => startSwap s b
    | none =>
      let (b, s) := drawFree s 24
      startSwap s b
  else s

/-- `FL_PORT` (R299): clearing `ENABLE` drops the port; setting it starts training, unless a fence holds the port (R386). -/
def writePort (s : State) (g : Nat) (w : RegWrite) : State :=
  let was := fld w.old fFlPortEnable.lo 1
  let s := storeReg s w
  if w.get fFlPortEnable = was then s
  else if was = 1 then (if portState s g = 0 then s else portDown s g 0)
  else if elecFenced s g then s
  else wakePort s g

/-- Region sizes of a port in KiB, one of them changed. -/
def sizesWith (s : State) (g c size : Nat) : Nat :=
  sumOf ((List.range 8).map fun k => if k = c then size else getF s (classReg g k) fFlPortClassSize)

/-- New marks act at once (R303, R307): a class that is paused is released at or below `LO`, one that is not is paused at
`HI`. -/
def marksChanged (s : State) (g c : Nat) : State :=
  let s := releaseIfLow s g c
  if (mapGet (portOf s g).sent c).isSome then s else pauseIfHigh s g c 0

/-- `FL_PORT_CLASS` (R307): a size changes only while the port is down or disabled; a write that breaks the rule for sizes
and marks is ignored whole. Marks act at once (R303). -/
def writePortClass (s : State) (g c : Nat) (w : RegWrite) : State :=
  let w := if portState s g ≤ 1 then w else w.keep fFlPortClassSize
  let size := w.get fFlPortClassSize
  let limit := if isRing g then 256 else 1024
  if w.get fFlPortClassLo < w.get fFlPortClassHi ∧ w.get fFlPortClassHi ≤ size ∧ sizesWith s g c size ≤ limit then
    marksChanged (storeReg s w) g c
  else s

/-- The class of a `FL_PORT_CLASS` offset: port and class. -/
def portClassAt (off : Nat) : Option (Nat × Nat) :=
  let d := off - rFlPort 0
  let r := d % 0x200
  if rFlPort 0 ≤ off ∧ d / 0x200 < 18 ∧ 0x10 ≤ r ∧ r < 0x50 then some (d / 0x200, (r - 0x10) / 8) else none

def writeFl (s : State) (ahead : Option Nat) (w : RegWrite) : State :=
  if w.off = rFlSwap then writeSwap s ahead w
  else if w.off = rFlRingControl then
    let s := storeReg s w
    if w.get fFlRingControlJoinEn = fld w.old fFlRingControlJoinEn.lo 1 then s else joinChanged s
  else
    match indexIn (rFlPort 0) 0x200 18 w.off, portClassAt w.off with
    | some g, _ => writePort s g w
    | _, some (g, c) => writePortClass s g c w
    | _, _ => storeReg s w

/-- An install of the administrative list (R360, R361). -/
def installGates (s : State) (g : Nat) : State :=
  let new := adminList s g
  let old := operList s g
  if 64 < getF s (rEsPort g) fEsPortAdminLen ∨ windowsFit s g (fullRate g) new.1 = false then
    let s := { s with es := { s.es with pending := mapDel s.es.pending g } }
    raise1 (setB s (rEsPort g) fEsPortPending false) (36 + g) fEsPortEventListRefused
  else
    let start := if gatesFree old.1 then boundaryAfter new s.time else boundaryAfter old s.time
    let s := { s with es := { s.es with pending := mapPut s.es.pending g ⟨new.1, new.2, start⟩ } }
    setB s (rEsPort g) fEsPortPending true

/-- `ES_PORT`: `OVERHEAD` and `ADMIN_LEN`, then `INSTALL` (R360). -/
def writeEsPort (s : State) (g : Nat) (w : RegWrite) : State :=
  let s := storeReg s w
  if w.order fEsPortInstall = 1 then installGates s g else s

/-- `ES_SHAPER` (R356, R357): the credit gained so far is kept under the new rate, and a lower cap clips it; a class that
is not shaped stands at its cap. -/
def writeShaper (s : State) (g c : Nat) (w : RegWrite) : State :=
  let v := shaperCredit s g c
  let s := storeReg s w
  if fld w.old fEsShaperShapeEn.lo 1 = 0 ∨ w.get fEsShaperShapeEn = 0 then
    { s with es := { s.es with credit := mapDel s.es.credit (shaperKey g c) } }
  else setShaperCredit s g c (min v ((65536 * (1024 * shaperCap s g c) : Nat) : Int))

/-- An administrative gate entry: bit 7 of its mask reads 1 (R359). -/
def writeGateEntry (s : State) (w : RegWrite) : State :=
  storeReg s { w with new := setFld w.new 7 1 1 }

def writeEs (s : State) (w : RegWrite) : State :=
  let g := (w.off - rEsPort 0) / 0x800
  let r := (w.off - rEsPort 0) % 0x800
  if r = 0 then writeEsPort s g w
  else if 0x40 ≤ r ∧ r < 0x80 then writeShaper s g ((r - 0x40) / 8) w
  else if 0x400 ≤ r ∧ r < 0x600 then writeGateEntry s w
  else storeReg s w

/-- Every bucket of a profile and class is brought up to date before its rate or cap changes, and clipped to the cap that
follows (R370). -/
def settleProfile (s : State) (p c : Nat) (after : State → State) : State :=
  let own (e : Nat × Credit) : Bool := decide (e.1 ≠ mgmtKey ∧ e.1 % 8 = c) && getF s (rImSource (e.1 / 8)) fImSourceProfile == p
  let v := sharedCredit s p c
  let credit := s.im.credit.map fun e => if own e then (e.1, ⟨bucketCredit s (e.1 / 8) c, s.time⟩) else e
  let t := after s
  let cap : Int := (65536 * (1024 * getF t (rImProfile p c) fImProfileBurst) : Nat)
  let shared := if cap ≤ v then mapDel t.im.shared (bucketKey p c) else mapPut t.im.shared (bucketKey p c) ⟨v, t.time⟩
  { t with im := { t.im with
    credit := credit.map fun e => if own e then (e.1, ⟨min e.2.value cap, e.2.time⟩) else e, shared := shared } }

/-- `IM_PROFILE` (R367): a write that would set `POLICE_EN`, a nonzero `RATE` and a `BURST` below 6 is ignored. -/
def writeProfile (s : State) (w : RegWrite) : State :=
  if w.get fImProfilePoliceEn = 1 ∧ w.get fImProfileRate ≠ 0 ∧ w.get fImProfileBurst < 6 then s
  else
    let d := w.off - rImProfile 0 0
    settleProfile s (d / 0x40) (d % 0x40 / 8) fun s => storeReg s w

/-- `IM_SOURCE` (R370): a source that changes its profile takes its credits with it, clipped to the new caps. -/
def writeSource (s : State) (w : RegWrite) : State :=
  let n := (w.off - rImSource 0) / 4
  let t := storeReg s w
  if w.get fImSourceProfile = getF s (rImSource n) fImSourceProfile then t
  else
    (List.range 7).foldl (init := t) fun t c =>
      let cap : Int := (65536 * (1024 * getF t (profileReg t n c) fImProfileBurst) : Nat)
      setBucket t (bucketKey n c) (min (bucketCredit s n c) cap)

/-- `IM_MGMT` (Table 12.6): a `BURST` below 6 is ignored; the credit gained so far is kept, and a lower cap clips it. -/
def writeMgmt (s : State) (w : RegWrite) : State :=
  let t := storeReg s (if w.get fImMgmtBurst < 6 then w.keep fImMgmtBurst else w)
  setBucket t mgmtKey (min (mgmtCredit s) ((65536 * (1024 * getF t rImMgmt fImMgmtBurst) : Nat) : Int))

def writeIm (s : State) (w : RegWrite) : State :=
  if w.off = rImMgmt then writeMgmt s w
  else if w.off = rImControl then checkDrops (storeReg s w)
  else if rImProfile 0 0 ≤ w.off then writeProfile s w
  else if rImSource 0 ≤ w.off then writeSource s w
  else storeReg s w

/-! ## CF and PW -/

/-- `CF_CONTROL` (Table 13.9): a class of 7 is ignored. -/
def writeCfControl (s : State) (w : RegWrite) : State :=
  let w := if w.get fCfControlHbTc = 7 then w.keep fCfControlHbTc else w
  storeReg s (if w.get fCfControlTreeTc = 7 then w.keep fCfControlTreeTc else w)

def writeCf (s : State) (w : RegWrite) : State := if w.off = rCfControl then writeCfControl s w else storeReg s w

/-- `PW_CAP` (R466): a cap outside 600 to 1,650 is ignored. -/
def writeCap (s : State) (w : RegWrite) : State :=
  let v := w.get fPwCapWatts
  storeReg s (if 600 ≤ v ∧ v ≤ 1650 then w else w.keep fPwCapWatts)

/-- `PW_STATE` (R473): only a write that includes `REQUEST` is a request. -/
def writeState (s : State) (w : RegWrite) : State :=
  if w.covers fPwStateRequest then requestState s (w.order fPwStateRequest) else s

def writePw (s : State) (w : RegWrite) : State :=
  if w.off = rPwState then writeState s w else if w.off = rPwCap then writeCap s w else storeReg s w

/-! ## A write of BAR0 -/

/-- The effect of a write on one register. -/
def applyWrite (block : Option Nat) (s : State) (w : RegWrite) : State :=
  match w.off / 2 ^ 20 with
  | 0x1 => writeGs s w
  | 0x2 => writeQe s w
  | 0x3 => writeCx s w
  | 0x4 => writePm s w
  | 0x6 => writeBb s w
  | 0x7 => writeAc s w
  | 0x8 => writeTm s w
  | 0xA => writePf s w
  | 0xB => writeFl s block w
  | 0xD => writeEs s w
  | 0xE => writeIm s w
  | 0xF => writeCf s w
  | 0x12 => writePw s w
  | _ => storeReg s w

/-- One register takes its part of a write. -/
def writeReached (block : Option Nat) (a : Access) (s : State) (r : Reached) : State :=
  if !(ownsWrite a.fn r.reg.owner) || r.reg.owner == .both then s
  else if byLexicon r && lxHalted s then s
  else
    let w := regWrite s a r
    if w.mask = 0 then s else applyWrite block s w

/-- The write a wake logic takes in Retain: a request for Run (R474). -/
def wakeWrite (s : State) (a : Access) : State :=
  if a.fn = 0 ∧ a.off = rPwState ∧ a.val.toNat % 4 = 1 then requestRun s else s

/-- A write takes its effect on every register that it reaches (R407). -/
def takeWrite (block : Option Nat) (s : State) (a : Access) : State :=
  let rs := reachedBy a.off a.size
  let s := if rs.all fun r => ownsWrite a.fn r.reg.owner then s else raise s a.fn 1 fQeEvent1WriteRefused.lo
  rs.foldl (writeReached block a) s

/-- A host write of BAR0 (R7, R407, R486 to R489, R497). -/
def hostWrite (block : Option Nat) (s : State) (a : Access) : State :=
  if !(answers s a.fn) then s
  else if wakeLogic s then wakeWrite s a
  else if !(blockAnswers s a.off) then s
  else if !(sizeOk a.off a.size) then badAccess s a.fn
  else if deferred s a then holdAccess s true a
  else takeWrite block s a

/-- What a tenant handover held back is carried out in its order as the handover ends; the handover still discards what a write
gives the fields it restores (R432, R487, R488). -/
def takeHeld (s : State) : State :=
  s.lx.held.foldl (fun s x => if x.1 then takeWrite none s x.2 else takeRead s x.2) { s with lx := { s.lx with held := [] } }

/-- A write row that acts only when its access reaches one of the row's registers. -/
def writeRow (p : Nat → Bool) (a : Access) (s : State) : State :=
  if (reachedBy a.off a.size).any fun r => p r.off then hostWrite none s a else s

/-! ## The rows -/

/-- REGISTER_WRITE (R7, R407, R497). -/
def execRegisterWrite (a : Access) (s : State) : Host.Outcome State Fault Refusal := .next (hostWrite none s a)

/-- BAD_SIZE_ACCESS (R486). -/
def execBadSizeAccess (a : Access) (write : Bool) (s : State) : Host.Outcome State Fault Refusal :=
  .next (if sizeOk a.off a.size then s else if write then hostWrite none s a else hostRead s a)

/-- TM_STATUS_READ (R486, R241). -/
def execTmStatusRead (a : Access) (s : State) : Host.Outcome State Fault Refusal :=
  .next (if (reachedBy a.off a.size).any fun r => r.off == rTmStatus then hostRead s a else s)

/-- CX_TABLE_BASE_WRITE (R480). -/
def execCxTableBaseWrite (a : Access) (s : State) : Host.Outcome State Fault Refusal := .next (writeRow (· == rCxTableBase) a s)

/-- BB_NARROW_SHARE_WRITE (R162, R282). -/
def execBbNarrowShareWrite (a : Access) (s : State) : Host.Outcome State Fault Refusal :=
  .next (writeRow (· == rBbNarrowShare) a s)

/-- BB_PERMIT_LIMIT_WRITE (R179). -/
def execBbPermitLimitWrite (a : Access) (s : State) : Host.Outcome State Fault Refusal :=
  .next (writeRow (fun o => (indexIn (rBbPermitLimit 0) 0x100 8 o).isSome) a s)

/-- TM_PLAN_WRITE (R241). -/
def execTmPlanWrite (a : Access) (s : State) : Host.Outcome State Fault Refusal :=
  .next (writeRow (fun o => (indexIn (rTmPlan 0 0) 8 4096 o).isSome) a s)

/-- FL_PORT_ENABLE_WRITE (R299). -/
def execFlPortEnableWrite (a : Access) (s : State) : Host.Outcome State Fault Refusal :=
  .next (writeRow (fun o => (indexIn (rFlPort 0) 0x200 18 o).isSome) a s)

/-- FL_PORT_CLASS_WRITE (R307). -/
def execFlPortClassWrite (a : Access) (s : State) : Host.Outcome State Fault Refusal :=
  .next (writeRow (fun o => (portClassAt o).isSome) a s)

/-- ES_SHAPER_WRITE (R356, R357). -/
def execEsShaperWrite (a : Access) (s : State) : Host.Outcome State Fault Refusal :=
  .next (writeRow (fun o => decide (rEsPort 0 ≤ o ∧ 0x40 ≤ (o - rEsPort 0) % 0x800 ∧ (o - rEsPort 0) % 0x800 < 0x80
    ∧ (o - rEsPort 0) / 0x800 < 18)) a s)

/-- IM_PROFILE_WRITE (R367). -/
def execImProfileWrite (a : Access) (s : State) : Host.Outcome State Fault Refusal :=
  .next (writeRow (fun o => decide (rImProfile 0 0 ≤ o ∧ o < rImProfile 64 0)) a s)

/-- GS_INT_ENABLE_WRITE (R493). -/
def execGsIntEnableWrite (a : Access) (s : State) : Host.Outcome State Fault Refusal :=
  .next (writeRow (fun o => (indexIn (rGsIntEnable1 0) 8 64 o).isSome || (indexIn (rGsIntEnable0 0) 8 64 o).isSome) a s)

/-- PF_LOG_HEAD_WRITE (R273). -/
def execPfLogHeadWrite (a : Access) (s : State) : Host.Outcome State Fault Refusal := .next (writeRow (· == rPfLogHead) a s)

/-- PW_CAP_WRITE (R466). -/
def execPwCapWrite (a : Access) (s : State) : Host.Outcome State Fault Refusal := .next (writeRow (· == rPwCap) a s)

/-- PASS_START (R277). -/
def execPassStart (a : Access) (s : State) : Host.Outcome State Fault Refusal :=
  .next (if a.val.toNat / 64 % 2 = 1 then writeRow (· == rPfPass) a s else s)

/-- PASS_ABORT (R280). -/
def execPassAbort (a : Access) (s : State) : Host.Outcome State Fault Refusal :=
  .next (if a.val.toNat / 128 % 2 = 1 then writeRow (· == rPfPass) a s else s)

/-- The `OP` that a write of `PF_TEST_TARGET` carries. -/
def testOp (a : Access) : Nat :=
  if a.off = rPfTestTarget then fld a.val.toNat fPfTestTargetOp.lo 2 else fld a.val.toNat (fPfTestTargetOp.lo - 32) 2

/-- SPLIT_WRITE (R275). -/
def execSplitWrite (a : Access) (s : State) : Host.Outcome State Fault Refusal :=
  .next (if testOp a = 1 then writeRow (· == rPfTestTarget) a s else s)

/-- TEST_READ (R276). -/
def execTestRead (a : Access) (s : State) : Host.Outcome State Fault Refusal :=
  .next (if testOp a = 2 then writeRow (· == rPfTestTarget) a s else s)

/-- FL_SWAP_GO (R301, R302). -/
def execFlSwapGo (a : Access) (ahead : Nat) (s : State) : Host.Outcome State Fault Refusal :=
  .next (if (reachedBy a.off a.size).any fun r => r.off == rFlSwap then hostWrite (some ahead) s a else s)

/-- GATE_INSTALL (R360, R361). -/
def execGateInstall (a : Access) (s : State) : Host.Outcome State Fault Refusal :=
  .next (writeRow (fun o => (indexIn (rEsPort 0) 0x800 18 o).isSome) a s)

/-- RING_ENABLE_WRITE (R414). -/
def execRingEnableWrite (a : Access) (s : State) : Host.Outcome State Fault Refusal :=
  .next (writeRow (fun o => (indexIn (rQeRingCtrl1 0) 0x40 64 o).isSome || (indexIn (rQeRingCtrl0 0) 0x40 8 o).isSome) a s)

/-- NODE_RESET (R492). -/
def execNodeReset (a : Access) (s : State) : Host.Outcome State Fault Refusal := .next (writeRow (· == rGsControl) a s)

/-- A write of a value of `PW_STATE.REQUEST`. -/
def requestRow (v : Nat) (a : Access) (s : State) : State :=
  if a.off = rPwState ∧ a.val.toNat % 4 = v then hostWrite none s a else s

/-- RETAIN_REQUEST (R473). -/
def execRetainRequest (a : Access) (s : State) : Host.Outcome State Fault Refusal := .next (requestRow 2 a s)

/-- RUN_REQUEST (R473, R474). -/
def execRunRequest (a : Access) (s : State) : Host.Outcome State Fault Refusal := .next (requestRow 1 a s)

/-! ## BAR4 (R24, R215, R258, R260, R261) -/

/-- Function 1's BAR4 reaches node memory. -/
def windowOpen (s : State) : Bool := answers s 1 && !(wakeLogic s) && !s.power.restricted

/-- One byte of a host write of the window. -/
def putWindow (s : State) (n : Nat) (b : Byte) : State :=
  if inTables s n || inModel s n || !(reachable? s n) then s else writeByte s n b

/-- Write bytes from an NPA on. -/
def putWindows (s : State) (n : Nat) : Bytes → State
  | [] => s
  | b :: bs => putWindows (putWindow s n b) (n + 1) bs

/-- A read of the window, which is 16 GiB (R260). -/
def bar4Read (off len : Nat) (s : State) : State :=
  if !(powered s) then s
  else if !s.power.opened then emit s .unsupported
  else if !(windowOpen s) then emit s (.readData (List.replicate len 0xFF))
  else if 2 ^ 34 < off + len then s
  else
    let n := windowNpa s off
    if lockedIn s n len = [] then answerRead s (n, len) else holdRead s n len

/-- BAR4_READ (R260). -/
def execBar4Read (off len : Nat) (s : State) : Host.Outcome State Fault Refusal := .next (bar4Read off len s)

/-- A write of the window (R260, R261): plain bytes; a write into a loaded model is discarded and counted (R215). -/
def bar4Write (off : Nat) (data : Bytes) (s : State) : State :=
  if !(windowOpen s) ∨ 2 ^ 34 < off + data.length then s
  else
    let n := windowNpa s off
    let t := putWindows s n data
    let t := if (List.range data.length).any fun k => inModel s (n + k) && !(inTables s (n + k)) then
        raise1 t 13 fAcEventRmWrite
      else t
    noteBad t n data.length

/-- BAR4_WRITE (R260, R261). -/
def execBar4Write (off : Nat) (data : Bytes) (s : State) : Host.Outcome State Fault Refusal := .next (bar4Write off data s)

/-! ## Any access of the host -/

/-- What the wake logic does with an access (R474). -/
def wakeAccess (h : HostAccess) (s : State) : State :=
  match h with
  | .read fn bar off size =>
    if fn = 0 ∧ bar = 0 ∧ off = rPwState then emit s (.readData (natLe size (pwStateView s)))
    else emit s (.readData (List.replicate size 0xFF))
  | .write fn bar off size val =>
    if bar = 2 then bar2Access s fn off size val.toNat
    else if fn = 0 ∧ bar = 0 ∧ off = rPwState ∧ val.toNat % 4 = 1 then requestRun s
    else s

/-- What the node does with an access (Table 14.1): BAR0, BAR2, and BAR4 of Function 1. -/
def nodeAccess (h : HostAccess) (s : State) : State :=
  match h with
  | .read fn bar off size =>
    if bar = 0 then hostRead s ⟨fn, off, size, 0⟩
    else if bar = 2 then bar2Read s fn off size
    else if bar = 4 ∧ fn = 1 then bar4Read off size s
    else s
  | .write fn bar off size val =>
    if bar = 0 then hostWrite none s ⟨fn, off, size, val⟩
    else if bar = 2 then bar2Access s fn off size val.toNat
    else if bar = 4 ∧ fn = 1 then bar4Write off (natLe size val.toNat) s
    else s

/-- RETAIN_HOST_ACCESS (R474): the wake logic answers in Retain; at other times it is the same access of the host to the node
(log entry 217). -/
def execRetainHostAccess (h : HostAccess) (s : State) : Host.Outcome State Fault Refusal :=
  .next (if powered s && wakeLogic s then wakeAccess h s else nodeAccess h s)

end Sys2Proof.Machine
end

