-- ==== Sys2Proof/Machine/StartUp.lean ====
section
/-!
DEFINITION. Machine/StartUp.lean: the end of a start-up or reset: the trust steps of Table 15.3, self-test and suppletion
(R14, R15, R189, R221, R286), the tier ports (R227 to R229, R234, R262), the opening of the functions (R478, R489), the end
of a tenant handover (R444 to R446), and what a reset held back (R432, R439, R479).
-/

namespace Sys2Proof.Machine

/-! ## Trust steps 1 to 5 -/

/-- A class C start-up reads the cause of the last Off and counts a cold start (R448, R449). -/
def readCause (s : State) : State :=
  commit { setF s rGsStatus fGsStatusCCause s.tn.offCause with
    tn := { s.tn with coldStarts := s.tn.coldStarts + 1, offCause := 0 } } 2

/-- The version of an image slot that verifies: one written by `LX_FLASH_WRITE`, or the one the board came with. -/
def imageIn (s : State) (r : StartReport) (k : Nat) : Option Nat :=
  match mapGet s.lx.areas k with
  | some b => if b ≠ [] ∧ imageValid s b = true then some (Config.imageSvn b) else none
  | none => if r.imageSlot = k ∧ rollback s 0 ≤ r.imageSvn then some r.imageSvn else none

/-- The image that runs: the active slot's, and otherwise the other's (step 3 of Table 15.3). -/
def imageChoice (s : State) (r : StartReport) : Option (Nat × Nat) :=
  let a := dirSlot s
  match imageIn s r a, imageIn s r (1 - a) with
  | some v, _ => some (a, v)
  | none, some v => some (1 - a, v)
  | none, none => none

/-- The valid configuration record in a slot. -/
def recordIn (s : State) (r : StartReport) (k : Nat) : Option Bytes :=
  let b := match mapGet s.lx.areas (2 + k) with
    | some b => b
    | none => if r.recordSlot = k then r.record else []
  if recordValid s b then some b else none

/-- The record in use: the higher version, slot 0 on a tie (step 4 of Table 15.3). -/
def recordChoice (s : State) (r : StartReport) : Option (Nat × Bytes) :=
  match recordIn s r 0, recordIn s r 1 with
  | some a, some b => if crSvn a < crSvn b then some (1, b) else some (0, a)
  | some a, none => some (0, a)
  | none, some b => some (1, b)
  | none, none => none

/-- A digest is placed in `LX_MEASURE` k. -/
def setMeasure (s : State) (k : Nat) (b : Bytes) : State :=
  (List.range 4).foldl (fun s j => setR s (rLxMeasure k j) (num b (8 * j) 8)) s

/-- A component of an image, or a record, is measured (log entry 10). -/
def measured (s : State) (k : Nat) (b : Bytes) : State := setMeasure s k (natLe 32 (Config.measure k b).toNat)

/-- The image that runs. -/
def runImage (s : State) : Bytes := areaOf s (getF s rLxStatus fLxStatusActiveSlot)

/-- Step 3: the image runs and is measured. -/
def loadImage (s : State) (k svn : Nat) : State :=
  let s := if k = dirSlot s then s else raise0 s 56 fLxEventImageFallback
  measured (setF (setF s rLxStatus fLxStatusActiveSlot k) rIdFirmware fIdFirmwareImageSvn svn) 0 (areaOf s k)

/-- Step 4: what the record loads (Tables 15.2 and 16.9). -/
def loadRecord (s : State) (k : Nat) (b : Bytes) : State :=
  let s := setF (setF s rLxStatus fLxStatusRecordSlot k) rIdFirmware fIdFirmwareRecordSvn (crSvn b)
  let s := measured (setF s rCfNodeId fCfNodeIdNodeId (crNode b)) 4 (b.take (1024 + sigBytes))
  let s := [0, 1].foldl (fun s p => setF s (rTpPort p) fTpPortBifurcation (crBifurcation b p)) s
  let s := (List.range 8).foldl (init := s) fun s d =>
    setF (setF s (rBbRefreshTiming d) fBbRefreshTimingIntervalNs (crInterval b)) (rBbRefreshTiming d)
      fBbRefreshTimingRefreshNs (crRefresh b)
  let s := setF (setF s rPwCap fPwCapWatts (crCap b)) rPwCap fPwCapMinStep (crMinStep b)
  { s with power := { s.power with throttleDie := crThrottleDie b, tripDie := crTripDie b,
                                   throttleBbd := crThrottleBbd b, tripBbd := crTripBbd b, hyst := crHyst b } }

/-! ## Self-test and suppletion -/

/-- Units that failed and are not yet recorded. -/
def newFails (known found : List Nat) : List Nat := found.eraseDups.filter fun x => !(known.contains x)

/-- The failures found are recorded (R455). -/
def recordFails (s : State) (r : StartReport) : State :=
  let acs := newFails s.tn.failedAcs (r.failedAcs.filter fun a => decide (a < 136))
  let baus := newFails s.tn.failedBaus
    ((r.failedBaus.filter fun (e : Nat × Nat) => decide (e.1 < 8 ∧ e.2 < 18)).map fun (e : Nat × Nat) => 32 * e.1 + e.2)
  if acs = [] ∧ baus = [] then s
  else commit { s with tn := { s.tn with failedAcs := s.tn.failedAcs ++ acs, failedBaus := s.tn.failedBaus ++ baus } } 5

/-- The ACs in service (R14, R15, R221). -/
def assignAcs (s : State) : State :=
  let p := assignUnits 128 [128, 129, 130, 131, 132, 133, 134, 135] s.tn.failedAcs
  let s := setF (setF s rAcStatus fAcStatusActiveAcs p.1.length) rAcStatus fAcStatusSparesLeft p.2.length
  let s := p.1.zipIdx.foldl (fun s (e : Nat × Nat) => setF s (rAcPhys e.2) fAcPhysPhys e.1) s
  { s with ac := { s.ac with spares := p.2 } }

/-- `PERMIT_MAX` with `a` active BAUs (R177). -/
def permitMax (a : Nat) : Nat := max 1 (a / 2)

/-- The BAUs of a BBD in service (R15, R177, R189). -/
def assignBaus (s : State) (b : Nat) : State :=
  let p := bauUnits s b
  let s := setF (setF s (rBbStatus b) fBbStatusActiveBaus p.1.length) (rBbStatus b) fBbStatusPermitMax (permitMax p.1.length)
  updBbd (setB s (rBbStatus b) fBbStatusLinkUp true) b fun x => { x with spares := p.2.length }

/-- `GS_UNITS` and `GS_STATUS.DEGRADED` (R15, Table 17.3). -/
def reportUnits (s : State) : State :=
  let s := setF s rGsUnits fGsUnitsActiveAcs (activeAcs s)
  let s := (List.range 8).foldl (fun s b => setF s rGsUnits ⟨8 + 5 * b, 5⟩ (activeBaus s b)) s
  setB s rGsStatus fGsStatusDegraded (decide (activeAcs s < 128) || (List.range 8).any fun b => decide (activeBaus s b < 16))

/-- Failing channels are recorded while fewer than two are (R286); those left over. -/
def recordChannels (s : State) (found : List Nat) : State × List Nat :=
  let new := newFails s.tn.channels (found.filter fun c => decide (c < 128))
  let take := new.take (2 - s.tn.channels.length)
  (if take = [] then s else commit { s with tn := { s.tn with channels := s.tn.channels ++ take } } 6,
   new.drop (2 - s.tn.channels.length))

/-! ## Tier ports (R227 to R229, R234, R235) -/

/-- Links of a tier port under a bifurcation (Table 08.13). -/
def linksOf (bifurcation : Nat) : Nat := if bifurcation = 0 then 1 else if bifurcation = 1 then 2 else 4

/-- What attachment has used so far: drives, and CXL bytes of each port. -/
structure TierUse where
  drives : Nat
  cxl0   : Nat
  cxl1   : Nat
deriving DecidableEq, Repr

/-- Why a partner breaks R227, R228 or R229, as `REFUSE_CAUSE` names it (Table 08.14); the least code where several apply
(log entry 182). -/
def refuseCause (u : TierUse) (t : TierLink) : Nat :=
  if t.nvme then
    if !t.first ∨ t.namespaces ≠ 1 ∨ t.block ≠ 4096 ∨ t.metadata ≠ 0 then 4
    else if 8 ≤ u.drives then 5
    else if t.version < 2 then 6
    else if t.second then 7
    else 0
  else if t.switched then 1
  else if !t.type3 then 2
  else if t.logical ≠ 1 then 3
  else 0

/-- Whether a partner is attached, its `REFUSE_CAUSE`, its slots or extents, and what is used after it. An NVMe link below
32 GT/s breaks R228, for which `REFUSE_CAUSE` has no code (log entry 182). -/
def attach (u : TierUse) (t : TierLink) : Bool × Nat × Nat × TierUse :=
  let cause := refuseCause u t
  if cause ≠ 0 then (false, cause, 0, u)
  else if t.nvme then
    if t.rate < 4 then (false, 0, 0, u)
    else (true, 0, min (2 ^ 29) (t.capacity / 2 ^ 19), { u with drives := u.drives + 1 })
  else
    let used := if t.port = 0 then u.cxl0 else u.cxl1
    let c := min t.capacity (2 ^ 41 - used)
    (true, 0, c / slotBytes, if t.port = 0 then { u with cxl0 := used + c } else { u with cxl1 := used + c })

/-- The `WIDTH` code of every link of a port under a bifurcation (R226, Table 08.14). -/
def linkWidth (bifurcation : Nat) : Nat := if bifurcation = 0 then 2 else if bifurcation = 1 then 1 else 0

/-- A trained link's `TP_LINK` word (Table 08.14): 256-byte flits at 64 GT/s alone (R227). -/
def linkWord (t : TierLink) (width drive : Nat) (a : Bool) (cause slots : Nat) : Nat :=
  1 + at_ 1 1 (if t.nvme then 1 else 0) + at_ 2 2 width + at_ 4 3 t.rate + at_ 7 1 (if t.rate = 5 then 1 else 0)
    + at_ 8 1 (if a then 1 else 0) + at_ 9 3 (if a && t.nvme then drive else 0) + at_ 12 4 cause + at_ 32 32 slots

/-- The 16 I/O queue pairs of a drive are created (R228, R262). -/
def createQueues (s : State) (drive : Nat) : State :=
  { s with tm := { s.tm with nvme := (List.range 16).foldl (fun m k => mapPut m (16 * drive + k) []) s.tm.nvme } }

/-- Link `k` = port × 4 + link trains, at a rate that Table 08.14 knows, and attaches its partner; a drive's queues are created
(R228, R262). -/
def trainLink (r : StartReport) (p : State × TierUse) (k : Nat) : State × TierUse :=
  match r.tier.find? fun t => t.port == k / 4 && t.link == k % 4 with
  | none => p
  | some t =>
    let b := getF p.1 (rTpPort t.port) fTpPortBifurcation
    if t.up = false ∨ linksOf b ≤ t.link ∨ t.rate < 3 ∨ 5 < t.rate then p
    else
      let (a, cause, slots, u) := attach p.2 t
      let s := setR p.1 (tpLink k) (linkWord t (linkWidth b) p.2.drives a cause slots)
      let s := if a && t.nvme then createQueues s p.2.drives else s
      (setB s (rTpPort t.port) ⟨fTpPortLinksUp.lo + t.link, 1⟩ true, u)

/-- Every tier link in port and link order; every extent of every drive is deallocated (R262). -/
def trainTiers (s : State) (r : StartReport) : State :=
  let s := ((List.range 8).foldl (trainLink r) (s, ⟨0, 0, 0⟩)).1
  (drivesAttached s).foldl (fun s d => emit s (.driveDeallocAll d)) s

/-! ## Stopping and opening -/

/-- A step failed (R435, Table 17.3). -/
def stopAt (s : State) (cause step : Nat) : State :=
  let s := setF (setF s rGsStatus fGsStatusStopCause cause) rGsStatus fGsStatusTrustStep step
  if cause = 7 ∧ lxHalted s = false then haltLexicon s else s

/-- Step 2: the layer 1 certificate is written into the chain, after the device identity certificate (Table 15.1). -/
def writeChain (s : State) : State :=
  { s with lx := { s.lx with areas := mapPut s.lx.areas chainArea (Config.deviceCert ++ layer1Cert s) } }

/-- Step 5: the attestation key is derived and certified (R437). -/
def writeAttest (s : State) : State := { s with lx := { s.lx with attCert := attestCert s } }

/-- Trust steps 5 and 6, self-test, training and suppletion (Table 16.6). -/
def bringUp (r : StartReport) (s : State) : State :=
  if r.stop = 4 then stopAt s 4 4
  else
    let s := writeAttest (measured (measured (measured s 1 (runImage s)) 2 (runImage s)) 3 (runImage s))
    let (s, left) := recordChannels (recordFails s r) r.failedChan
    if r.stop = 5 ∨ left ≠ [] then stopAt s 5 5
    else if r.stop = 6 then stopAt s 6 5
    else
      let s := (List.range 8).foldl assignBaus (assignAcs s)
      let s := trainTiers (loadRemaps (limitPermits (reportUnits s))) r
      if r.stop ≠ 0 then stopAt s r.stop (min 6 r.step)
      else
        let s := setF s rGsStatus fGsStatusTrustStep 6
        (List.range 16).foldl (fun s g => if portDisabled s g then s else wakePort s g) s

/-- The helper data of the PUF is missing (R438). -/
def noHelper (s : State) : Bool := decide (mapGet s.lx.areas helperArea = some [])

/-- Trust steps 1 to 6 of a start-up of class C or W (Table 15.3): it ends before step 7, or at a failed step. A Tense
record of which no copy holds reads as R450 says. -/
def trustSteps (c : RClass) (r : StartReport) (s : State) : State :=
  let s := (r.lost.filter fun n => decide (n ≤ 9)).foldl loseRecord s
  let s := if c = .C then readCause s else s
  if r.stop = 7 ∧ r.step = 0 then stopAt s 7 0
  else if r.stop = 1 ∨ noHelper s = true then stopAt s 1 0
  else
    let s := { setR s rIdSerial (num (sha3 (dsaPublic deviceKey)) 0 8) with draws := s.draws + 1, lx := { s.lx with boot := s.draws } }
    if r.stop = 7 ∧ r.step < 3 then stopAt s 7 r.step
    else
      match imageChoice s r with
      | none => stopAt s 2 2
      | some (k, svn) =>
        if r.stop = 2 then stopAt s 2 2
        else
          let s := writeChain (loadImage s k svn)
          if r.stop = 7 ∧ r.step = 3 then stopAt s 7 3
          else
            match recordChoice s r with
            | none => stopAt s 3 3
            | some (k, b) => if r.stop = 3 then stopAt s 3 3 else bringUp r (loadRecord s k b)

/-- Every line of every channel that is not remapped reads 0 (R190, step 5 of Table 15.7). -/
def sanitise (s : State) : State :=
  let out := remaps s
  zeroWhere s fun k => !(out.contains (k / 2 ^ 30))

/-- The tenant and the nonce of the handover in progress. -/
def handoverOf (s : State) : HandoverCmd := s.power.handover.getD ⟨[], s.tn.tenant, []⟩

/-- Step 8 of Table 15.7: the tenant is recorded, `HANDOVERS` rises, and the mark goes (R444, R446). -/
def takeTenant (s : State) : State :=
  commit { s with power := { s.power with handover := none },
                  tn := { s.tn with tenant := (handoverOf s).tenant, handovers := s.tn.handovers + 1, mark := false } } 2

/-- The report of kind 2 is signed and kept (R440, R444). -/
def signReport (nonce : Bytes) (s : State) : State :=
  { s with lx := { s.lx with report := some (mkReport s 2 0x1F nonce) } }

/-- `LX_MEASURE` 5 to 7 (R440, step 7 of Table 15.3). -/
def ownMeasures (s : State) : State :=
  let five := match s.tn.ownerKey with
    | some k => sha3 k
    | none => zeros 32
  let owners := s.tn.managers.map fun (e : Nat × Manager) => (e.1, e.2.node, sha3 (e.2.key.getD []))
  setMeasure (setMeasure (setMeasure s 5 five) 6 (sha3 (natLe 4 s.tn.tenant ++ natLe 4 s.tn.handovers))) 7
    (sha3 (Config.ownerList owners))

/-- Trust step 7 opens both functions, after the rest of a tenant handover that was interrupted (R446, R478); the reset of
class C or W has left all but the memory as its steps 3 to 7 do. -/
def openNode (c : RClass) (s : State) : State :=
  let s := if s.tn.mark then signReport (handoverOf s).nonce (ownMeasures (takeTenant (sanitise (raiseFloor s))))
    else ownMeasures s
  let s := setF s rGsStatus fGsStatusTrustStep 7
  let s := { s with power := { s.power with running := none, heldReport := none, opened := true } }
  announce c (startListening s)

/-- The functions open in the restricted form (R489); a reset that waits still begins (R479). -/
def openRestricted (s : State) : State :=
  { s with power := { s.power with running := none, heldReport := none, opened := true, restricted := true } }

/-- The end of a start-up, once `PERST_N` is high (R478, R489); a Lexicon that halts while it waits cannot open it (R431,
Table 17.3). -/
def openUp (c : RClass) (s : State) : State :=
  if getF s rGsStatus fGsStatusStopCause ≠ 0 then openRestricted s
  else if lxHalted s then openRestricted (setF s rGsStatus fGsStatusStopCause 7)
  else openNode c s

/-- A start-up whose Lexicon has halted stops with cause 7 where no other step failed first (R431, Table 17.3). -/
def haltedReport (s : State) (r : StartReport) : StartReport := if lxHalted s ∧ r.stop = 0 then { r with stop := 7 } else r

/-- A start-up of class C or W has done its work; step 7, or the restricted opening, waits for `PERST_N`. -/
def endCold (c : RClass) (r : StartReport) (s : State) : State :=
  let s := trustSteps c (haltedReport s r) s
  if s.power.perst then openUp c s else { s with power := { s.power with heldReport := some r } }

/-! ## The end of a tenant handover -/

/-- A step of the handover failed: Function 1 stays closed until a handover completes (R444); the tenant and the nonce stay for
the start-up that repeats the steps (R446). -/
def failHandover (s : State) : State :=
  let h := handoverOf s
  let s := takeHeld (setB s rQeStatus0 fQeStatus0F1Resetting false)
  finishAll { s with power := { s.power with running := none, handover := some { h with refs := [] } } } h.refs stInternal 0

/-- The handover is complete (steps 3 to 9 of Table 15.7). -/
def endH (r : StartReport) (s : State) : State :=
  if r.stop ≠ 0 then failHandover s
  else
    let h := handoverOf s
    let s := signReport h.nonce (takeTenant (sanitise (settle .H r.linksDown s)))
    let s := takeHeld (openF1 (setB { s with cx := { Cx.fresh with written := true } } rPwStart fPwStartCxReady true))
    let s := finishAll { s with power := { s.power with running := none } } h.refs stOk reportBytes
    announce .H (recheckGates (startListening s))

/-! ## After a reset -/

/-- What waited for the reset to end: a DOE request (R439), a reset of lower rank (R479) and a request for Retain (R473). -/
def afterReset (s : State) : State :=
  if s.power.running.isSome then s
  else
    let s := startWaiting (doeHeld s)
    if s.power.retainWaits && s.power.running.isNone then startRetain s else s

/-- START_UP_END (R477, R492, R428, R444): the start-up or reset that runs ends. -/
def execStartUpEnd (r : StartReport) (s : State) : Host.Outcome State Fault Refusal :=
  .next (if !(powered s) then s
    else match s.power.running with
      | some .C => if s.power.heldReport.isSome then s else afterReset (endCold .C r s)
      | some .W => if s.power.heldReport.isSome then s else afterReset (endCold .W r s)
      | some .H => afterReset (endH r s)
      | some .N => afterReset (endN r.linksDown s)
      | some .F => afterReset (endF s)
      | none => s)

/-- PERST_N_RISE (R478, R489). -/
def execPerstNRise (s : State) : Host.Outcome State Fault Refusal :=
  let s := { s with power := { s.power with perst := true } }
  .next (match s.power.running with
    | some c => if powered s && s.power.heldReport.isSome then afterReset (openUp c s) else s
    | none => s)

end Sys2Proof.Machine
end

