-- ==== Sys2Proof/Machine/Sx.lean ====
section
/-!
DEFINITION. Machine/Sx.lean: tensor engine rows (R193 to R198), the Fowaest instructions of a Syntax core (R203 to R205), and
the swapping of execution contexts (R206 to R209).
-/

namespace Sys2Proof.Machine

/-! ## Tensor engine commands -/

/-- A TE command is queued by the row of opcode `op`; it stalls while the queue holds 16 (R193, R204). -/
def teRow (op : Nat) (t : TeCmd) (s : State) : State :=
  live s fun s =>
    if activeAcs s ≤ t.ac ∨ 16 ≤ t.way ∨ (tOp t.word ≠ op ∧ 1 ≤ tOp t.word ∧ tOp t.word ≤ 5)
        ∨ teFull s (teKey t.ac t.te) = true then s
    else queueTe s ⟨t, none, 0⟩

/-- MATMUL (R195). -/
def execMatmul (t : TeCmd) (s : State) : Host.Outcome State Fault Refusal := .next (teRow opMatmul t s)
/-- SCORE (R197). -/
def execScore (t : TeCmd) (s : State) : Host.Outcome State Fault Refusal := .next (teRow opScore t s)
/-- FOLD (R197). -/
def execFold (t : TeCmd) (s : State) : Host.Outcome State Fault Refusal := .next (teRow opFold t s)
/-- BOUND (R197). -/
def execBound (t : TeCmd) (s : State) : Host.Outcome State Fault Refusal := .next (teRow opBound t s)
/-- CONJOIN (R197). -/
def execConjoin (t : TeCmd) (s : State) : Host.Outcome State Fault Refusal := .next (teRow opConjoin t s)

/-- TE_COMPLETE (R198): the command at the head of the engine's queue completes. -/
def execTeComplete (ac te : Nat) (s : State) : Host.Outcome State Fault Refusal :=
  .next (live s fun s => pokeThreads (completeTe s (teKey ac te)))

/-! ## Fowaest instructions (Table 07.6) -/

def sxRd (o : SxOp) : Nat := fld o.word 7 5
def sxRs1 (o : SxOp) : Nat := fld o.word 15 5
def sxRs2 (o : SxOp) : Nat := fld o.word 20 5
def sxRs3 (o : SxOp) : Nat := fld o.word 27 5

/-- A word of the opcode and funct3 of a row; every funct3 of opcode 0x5B belongs to the row of `sx.copy`. -/
def sxIs (op f3 : Nat) (o : SxOp) : Bool := decide (fld o.word 0 7 = op) && (decide (op = 0x5B) || decide (fld o.word 12 3 = f3))

/-- The encoding raises an illegal-instruction trap (R204): a nonzero funct7 of opcode 0x0B; of opcode 0x5B another funct3 than
0, or nonzero bits [26:25]. -/
def sxIllegal (o : SxOp) : Bool :=
  if fld o.word 0 7 = 0x5B then decide (fld o.word 12 3 ≠ 0 ∨ fld o.word 25 2 ≠ 0) else decide (fld o.word 25 7 ≠ 0)

/-! ## What a thread runs ahead of a Fowaest instruction (R202) -/

/-- An access of a thread to bytes is one that Table 07.5 allows: of `mcause` 1 a fetch, 5 a load, 7 a store (R202, R258). -/
def accessOk (d : Bytes) (mcause a len : Nat) : Bool :=
  match spaceOf d [] a len with
  | some (.segment _) => decide (mcause ≠ 1)
  | some (.image n) => decide (mcause ≠ 7 ∧ n + len ≤ gddrSize)
  | some (.args n) => decide (mcause = 5 ∧ n + len ≤ gddrSize)
  | some (.node n) => decide (mcause ≠ 1 ∧ n + len ≤ gddrSize)
  | none => false

/-- The CSRs that a thread reads (R202): its index, the job's thread count, the job's `TAG`, and the node's local counter. -/
def threadCsr (s : State) (job idx csr : Nat) : Option Nat :=
  match jobAt s job with
  | some j =>
    if csr = 0xCC0 then some idx
    else if csr = 0xCC1 then some (jThreads j.desc)
    else if csr = 0xCC2 then some (jTag j.desc)
    else if csr = 0xC01 then some s.time
    else none
  | none => none

/-- The bytes of a load or a store of a thread, where they lie (R202): an access that Table 07.5 does not allow, one of an
unbacked address and one of a BBD out of service trap (R161, R203, R258; log entry 215). -/
def sxAccess (s : State) (n i mcause a len : Nat) (f : Where → State) : State :=
  match jobAt s n with
  | none => s
  | some j =>
    match spaceOf j.desc [] a len with
    | some w =>
      if accessOk j.desc mcause a len = true then
        match w.npa.bind fun p => rangeOut s p len with
        | some p =>
          trapJob (logFailure s { cause := 10, source := 7, channel := some (place s p).1, handle := p }) n i mcause a
        | none => f w
      else trapJob s n i mcause a
    | none => trapJob s n i mcause a

/-- The value that `len` loaded bytes give a register. -/
def loadValue (b : Bytes) (signed : Bool) : Nat :=
  if signed then ((BitVec.ofNat (8 * b.length) (leNat b)).signExtend 64).toNat else leNat b

/-- The thread's next instruction is 4 bytes on. -/
def sxNext (s : State) (n i : Nat) (f : Thread → Thread) : State := updThread s n i fun t => { f t with pc := t.pc + 4 }

/-- One instruction of a resident thread in way `k`. -/
def sxAct (n i k : Nat) (s : State) (a : SxAct) : State :=
  match a with
  | .setX rd v => sxNext s n i fun t => t.setX rd v
  | .setF rd v => sxNext s n i fun t => { t with f := mapPut t.f (rd % 32) (BitVec.ofNat 64 v) }
  | .setV rd v => sxNext s n i fun t => { t with v := mapPut t.v (rd % 32) (BitVec.ofNat 512 v) }
  | .csr rd c =>
    match threadCsr s n i c with
    | some v => sxNext s n i fun t => t.setX rd v
    | none =>
      let (v, s) := drawFree s 64
      sxNext s n i fun t => t.setX rd v
  | .load rd a len signed =>
    sxAccess s n i 5 a len fun w =>
      sxNext s n i fun t => t.setX rd (loadValue (match w with
        | .segment o => segRead (wayStore s k) o len
        | y => readMem s (y.npa.getD 0) len) signed)
  | .store a d =>
    sxAccess s n i 7 a d.length fun w =>
      sxNext (match w with
        | .segment o => setWay s k (segWrite (wayStore s k) o d)
        | y => writeMem s (y.npa.getD 0) d) n i id
  | .jump p =>
    match jobAt s n with
    | some j => if accessOk j.desc 1 p 4 then updThread s n i fun t => { t with pc := p } else trapJob s n i 1 p
    | none => s

/-- The locked slots that the loads meet (R184). -/
def actLocks (s : State) (j : Job) (l : List SxAct) : List Nat :=
  l.flatMap fun a => match a with
    | .load _ a len _ => match (spaceOf j.desc [] a len).bind Where.npa with
      | some p => lockedIn s p len
      | none => []
    | _ => []

/-- A thread executes the instruction of a row: it is resident, not waiting, and of a program (R206).  What it runs ahead of it
comes first, and while a load of that meets a locked slot the thread waits and runs nothing (R184).  A word of another row is
left alone; one that Table 07.6 does not hold traps (mcause 2, the address of the instruction; log entry 199). -/
def sxRun (s : State) (op f3 : Nat) (o : SxOp) (f : Job → Thread → Nat → State → State) : State :=
  live s fun s =>
    match jobAt s o.job, threadAt s o.job o.idx with
    | some j, some t =>
      match t.way with
      | some k =>
        if jKind j.desc = 0 ∧ t.ready = true ∧ sxIs op f3 o = true then
          if actLocks s j o.acts ≠ [] then waitLocks s (.thread o.job o.idx) (actLocks s j o.acts)
          else
            let s := o.acts.foldl (sxAct o.job o.idx k) s
            match jobAt s o.job, threadAt s o.job o.idx with
            | some j, some t =>
              if sxIllegal o then trapJob s o.job o.idx 2 t.pc
              else f j t k (if t.cond = .running then s else setCond s o.job o.idx .running)
            | _, _ => s
        else s
      | none => s
    | _, _ => s

/-- The instruction is done: a result in rd when there is one, and the next instruction (RV64: 4 bytes on). -/
def sxDone (s : State) (o : SxOp) (v : Option Nat) : State :=
  updThread s o.job o.idx fun t =>
    let t := { t with pc := t.pc + 4 }
    match v with
    | some v => t.setX (sxRd o) v
    | none => t

/-- Bytes of the thread's segment, or the access fault of a load past its end (R202, R203). -/
def sxLoad (s : State) (o : SxOp) (k off n : Nat) (f : Bytes → State) : State :=
  if segBytes < off + n then trapJob s o.job o.idx 5 off else f (segRead (wayStore s k) off n)

/-- SX_TE (R204). -/
def execSxTe (i : SxOp) (s : State) : Host.Outcome State Fault Refusal :=
  .next (sxRun s 0x0B 0 i fun _ t k s =>
    let te := t.getX (sxRs2 i) % 2
    if teFull s (teKey (k / 16) te) then s
    else sxLoad s i k (t.getX (sxRs1 i)) 32 fun w =>
      let (id, s) := newTicket s i.job i.idx .te none 0 0 0
      sxDone (queueTe s ⟨⟨k / 16, te, k % 16, w⟩, some (i.job, i.idx), id⟩) i (some id))

/-- SX_BSTORE (R168, R204). -/
def execSxBstore (i : SxOp) (s : State) : Host.Outcome State Fault Refusal :=
  .next (sxRun s 0x0B 1 i fun _ t k s =>
    let v := t.getX (sxRs2 i)
    sxLoad s i k (t.getX (sxRs1 i)) (fld v 0 16) fun d =>
      pokeThreads (arrive (sxDone s i none) (fld v 61 3) (.store (.thread i.job i.idx) (fld v 32 16) d)))

/-- SX_BAU (R204, R205): a result NPA outside the windows, or unbacked, is an access fault. -/
def execSxBau (i : SxOp) (s : State) : Host.Outcome State Fault Refusal :=
  .next (sxRun s 0x0B 2 i fun j t k s =>
    let v := t.getX (sxRs2 i)
    let a := fld v 0 40
    sxLoad s i k (t.getX (sxRs1 i)) 32 fun w =>
      if !(inRanges (jWindows j.desc) a 1) || decide (gddrSize ≤ a) then trapJob s i.job i.idx 7 (2 ^ 40 + a)
      else
        let (id, s) := newTicket s i.job i.idx .bau none 0 0 0
        pokeThreads (arrive (sxDone s i (some id)) (fld v 61 3) (.command ⟨fld v 61 3, .thread i.job i.idx, w, a⟩ id)))

/-- SX_COPY (R205, R258): a copy that meets an unbacked address is an access fault. -/
def execSxCopy (i : SxOp) (s : State) : Host.Outcome State Fault Refusal :=
  .next (sxRun s 0x5B 0 i fun j t _ s =>
    let src := t.getX (sxRs1 i)
    let dst := t.getX (sxRs2 i)
    let n := t.getX (sxRs3 i)
    let d := j.desc
    if n ≠ 0 ∧ copyOk d [] src dst n = true ∧ copyUnbacked d [] src dst n = true then copyFault s i.job i.idx d [] src dst n
    else
      let (id, s) := startCopy s i.job i.idx src dst n
      pokeThreads (sxDone s i (some id)))

/-- What a wait or poll names: a ticket, or a message slot (R204, log entry 22). -/
def awaitOf (v : Nat) : Await := if 2 ^ 63 ≤ v then .slot (v - 2 ^ 63) else .ticket v

/-- The ticket or the slot exists. -/
def awaitKnown (s : State) (j : Job) : Await → Bool
  | .ticket id => (ticketIn j id).isSome
  | .slot k => (mapGet s.ft.recv k).isSome
  | _ => true

/-- SX_WAIT (R204, R206); the status of what does not exist is free (log entry 11). -/
def execSxWait (i : SxOp) (s : State) : Host.Outcome State Fault Refusal :=
  .next (sxRun s 0x0B 3 i fun j t _ s =>
    let a := awaitOf (t.getX (sxRs1 i))
    if awaitKnown s j a then pokeThreads (beginWait (sxDone s i none) i.job i.idx (sxRd i) a)
    else
      let (v, s) := drawFree s 64
      sxDone s i (some v))

/-- SX_POLL (R204, R422). -/
def execSxPoll (i : SxOp) (s : State) : Host.Outcome State Fault Refusal :=
  .next (sxRun s 0x0B 4 i fun j t _ s =>
    let a := awaitOf (t.getX (sxRs1 i))
    if awaitKnown s j a then
      match awaited s j t a, a with
      | some st, .slot k => sxDone { s with ft := { s.ft with recv := mapDel s.ft.recv k } } i (some st)
      | some st, _ => sxDone s i (some st)
      | none, _ => sxDone s i (some 0xFF)
    else
      let (v, s) := drawFree s 64
      sxDone s i (some v))

/-- SX_SLEEP (R204). -/
def execSxSleep (i : SxOp) (s : State) : Host.Outcome State Fault Refusal :=
  .next (sxRun s 0x0B 5 i fun _ t _ s => beginWait (sxDone s i none) i.job i.idx 0 (.time (t.getX (sxRs1 i))))

/-- SX_STEP (R212, R213). -/
def execSxStep (i : SxOp) (s : State) : Host.Outcome State Fault Refusal :=
  .next (sxRun s 0x0B 6 i fun _ _ _ s => beginWait (sxDone s i none) i.job i.idx 0 .step)

/-- SX_END (R212). -/
def execSxEnd (i : SxOp) (s : State) : Host.Outcome State Fault Refusal :=
  .next (sxRun s 0x0B 7 i fun _ t _ s => pokeThreads (endThread (sxDone s i none) i.job i.idx (t.getX (sxRs1 i) % 256)))

/-- SX_TRAP (R202, R203): a trap of a U-mode instruction; an access fault is one only outside what Table 07.5 allows. -/
def execSxTrap (job idx mcause addr : Nat) (s : State) : Host.Outcome State Fault Refusal :=
  .next (live s fun s =>
    match jobAt s job, threadAt s job idx with
    | some j, some t =>
      if jKind j.desc = 0 ∧ t.ready = true ∧ ¬(mcause ∈ [1, 5, 7] ∧ accessOk j.desc mcause addr 1 = true) then
        trapJob s job idx mcause addr
      else s
    | _, _ => s)

/-- CONTEXT_EVENT (R206, R207): what a thread awaits has come. -/
def execContextEvent (job idx : Nat) (s : State) : Host.Outcome State Fault Refusal :=
  .next (live s fun s => pokeThread s job idx)

/-- SX_COPY_COMPLETE (R204). -/
def execSxCopyComplete (job idx ticket : Nat) (s : State) : Host.Outcome State Fault Refusal :=
  .next (live s fun s =>
    match (threadAt s job idx).bind fun t => t.tickets.find? fun x => x.id == ticket && x.kind == .copy && x.status.isNone with
    | some x =>
      if copyLocks s job x ≠ [] then waitLocks s (.copy job idx ticket) (copyLocks s job x) else pokeThreads (finishCopy s job idx x)
    | none => s)

/-! ## Swapping (R199, R206 to R208) -/

/-- A thread outside the ACs that wants to run. -/
structure Ready where
  job   : Nat
  idx   : Nat
  t     : Thread
  order : Nat
  way   : Nat

/-- The ways of an AC that a job of a class may take: open to the class, not reserved for attention (R199, R218). -/
def jobWays (s : State) (cls : Nat) : List Nat :=
  (List.range 16).filter fun w => decide (w < 16 - attnWays s) && decide (fld (reachMask s cls) w 1 = 1)

/-- The threads that an AC could load, each with the way `pick` gives its class (R208); while the node enters or is in Retain,
only those that have still to reach their step boundary (R223). -/
def wanting (s : State) (pick : Nat → Option Nat) : List Ready :=
  s.ac.jobs.flatMap fun e => e.2.threads.filterMap fun x =>
    let out := match x.2.place with
      | .fresh | .swapped | .area => true
      | _ => false
    if out && x.2.cond == .runnable && (s.power.retain == .out || e.2.preempt.isSome) then
      (pick (jClass e.2.desc)).map fun w => ⟨e.1, x.1, x.2, e.2.order, w⟩
    else none

/-- The thread that has been runnable longest; among equals the earliest job's lowest thread (R208, log entry 9). -/
def longest (s : State) (l : List Ready) : Option Ready :=
  l.foldl (init := none) fun b r =>
    match b with
    | none => some r
    | some x =>
      let ex := elapsed s x.t.since
      let er := elapsed s r.t.since
      if ex < er ∨ ex = er ∧ (r.order < x.order ∨ r.order = x.order ∧ r.idx < x.idx) then some r else some x

/-- SWAP_LOAD (R199, R208): a fresh thread begins in a zeroed way; another's load begins. -/
def execSwapLoad (ac : Nat) (s : State) : Host.Outcome State Fault Refusal :=
  .next (live s fun s =>
    if activeAcs s ≤ ac ∨ acOpen s ac = false then s
    else
      match longest s (wanting s fun cls => (jobWays s cls).find? fun w => wayFree s (16 * ac + w)) with
      | none => s
      | some r =>
        let k := 16 * ac + r.way
        let s := takeWay s k (.thread r.job r.idx)
        match r.t.place with
        | .fresh =>
          pokeThread (updThread (setWay s k []) r.job r.idx fun t => { t with place := .resident ac r.way s.time }) r.job r.idx
        | .area => updThread s r.job r.idx fun t => { t with place := .loading ac r.way true }
        | _ => updThread s r.job r.idx fun t => { t with place := .loading ac r.way false })

/-- The thread that holds a way. -/
def holderOf (s : State) (k : Nat) : Option (Nat × Nat × Thread) :=
  match mapGet s.ac.ways k with
  | some (.thread n i) => (threadAt s n i).map fun t => (n, i, t)
  | _ => none

/-- SWAP_LOAD_DONE (R207, R208): the segment is as it was saved, and the context runs. -/
def execSwapLoadDone (ac way : Nat) (s : State) : Host.Outcome State Fault Refusal :=
  .next (live s fun s =>
    match holderOf s (16 * ac + way) with
    | some (n, i, t) =>
      match t.place, jobAt s n with
      | .loading _ _ area, some j =>
        let k := 16 * ac + way
        let s := setWay s k (segFromMem s (if area then areaSegment j.desc i else slotSegment s t.slot))
        let s := updThread s n i fun t => { t with place := .resident ac way s.time, cond := .running, since := s.time }
        match t.event, t.await, threadAt s n i with
        | some st, some (rd, a), some t => pokeThread (takeEvent s n i t rd a st) n i
        | _, _, _ => pokeThread s n i
      | _, _ => s
    | none => s)

/-- 2 µs in ACLK cycles (R208). -/
def residentMin : Nat := 1880

/-- The victim among the contexts of an AC: blocked longest, resident for 2 µs, in a way that `ok` allows (R208). -/
def victim (s : State) (ac : Nat) (ok : Nat → Bool) (min_ : Nat) : Option (Nat × Nat × Nat × Thread) :=
  ((List.range 16).filterMap fun w =>
      match holderOf s (16 * ac + w) with
      | some (n, i, t) =>
        match t.place with
        | .resident _ _ since =>
          if t.cond = .blocked ∧ min_ ≤ elapsed s since ∧ ok w = true then some (w, n, i, t) else none
        | _ => none
      | none => none).foldl (init := none) fun b x =>
    match b with
    | none => some x
    | some y => if elapsed s y.2.2.2.since < elapsed s x.2.2.2.since then some x else some y

/-- Every context of an AC is a blocked thread (R208). -/
def allBlocked (s : State) (ac : Nat) : Bool :=
  (s.ac.ways.filter fun e => e.1 / 16 == ac).all fun e =>
    match holderOf s e.1 with
    | some (_, _, t) => t.cond == .blocked && t.way.isSome
    | none => false

/-- SWAP_OUT (R208): a runnable context waits for a way of an AC whose contexts are all blocked; or the AC is being replaced
and its blocked contexts leave it (R221). -/
def execSwapOut (ac : Nat) (s : State) : Host.Outcome State Fault Refusal :=
  .next (live s fun s =>
    let save (x : Nat × Nat × Nat × Thread) (s : State) : State :=
      raise1 (updThread s x.2.1 x.2.2.1 fun t => { t with place := .saving ac x.1 }) 13 fAcEventSwapOut
    if activeAcs s ≤ ac then s
    else if acOpen s ac = false then
      match victim s ac (fun _ => true) 0 with
      | some x => save x s
      | none => s
    else if !(allBlocked s ac) then s
    else
      let free (cls : Nat) : Bool := (jobWays s cls).any fun w => wayFree s (16 * ac + w)
      match longest s (wanting s fun cls => if free cls then none else (jobWays s cls).head?) with
      | none => s
      | some r =>
        match jobAt s r.job with
        | none => s
        | some j =>
          match victim s ac (fun w => (jobWays s (jClass j.desc)).contains w) residentMin with
          | some x => save x s
          | none => s)

/-- SWAP_SAVE_DONE (R206, R207): the segment and the register record are in the swap slot; an event that came meanwhile makes
the context runnable. -/
def execSwapSaveDone (ac way : Nat) (s : State) : Host.Outcome State Fault Refusal :=
  .next (live s fun s =>
    match holderOf s (16 * ac + way) with
    | some (n, i, t) =>
      match t.place with
      | .saving _ _ =>
        let k := 16 * ac + way
        let s := segToMem s (slotSegment s t.slot) (wayStore s k)
        let s := (writeFree s (slotSegment s t.slot - 4096) 4096).2
        let s := updThread s n i fun t =>
          { t with place := .swapped, cond := if t.event.isSome then .runnable else .blocked,
                   since := if t.event.isSome then s.time else t.since }
        pokeThread (dropWay s (some k)) n i
      | _ => s
    | none => s)

end Sys2Proof.Machine
end

