-- ==== Sys2Proof/Machine/Transport.lean ====
section
/-!
DEFINITION. Machine/Transport.lean: the commands of the Galxifin transport (R317 to R350).
-/

namespace Sys2Proof.Machine

/-- MSG (R333). -/
def execMsg (port tc : Nat) (s : State) : Host.Outcome State Fault Refusal :=
  .next (takeKind s port tc 0 fun s p => receiveSeq s port tc p)

/-- WRITE (R333, R339). -/
def execWrite (port tc : Nat) (s : State) : Host.Outcome State Fault Refusal :=
  .next (takeKind s port tc 1 fun s p => receiveSeq s port tc p)

/-- READ_REQ (R340). -/
def execReadReq (port tc : Nat) (s : State) : Host.Outcome State Fault Refusal :=
  .next (takeKind s port tc 2 fun s p => receiveSeq s port tc p)

/-- READ_RESP (R333). -/
def execReadResp (port tc : Nat) (s : State) : Host.Outcome State Fault Refusal :=
  .next (takeKind s port tc 3 fun s p => receiveSeq s port tc p)

/-- ACK (R329, R338). -/
def execAck (port tc : Nat) (s : State) : Host.Outcome State Fault Refusal :=
  .next (takeKind s port tc 4 receiveAck)

/-- NAK (R323, R329). -/
def execNak (port tc : Nat) (s : State) : Host.Outcome State Fault Refusal :=
  .next (takeKind s port tc 5 receiveAck)

/-- REPORT (R335, R344). A `REPORT` of no open connection is discarded without a reply (R324). -/
def execReport (port tc : Nat) (s : State) : Host.Outcome State Fault Refusal :=
  .next (takeKind s port tc 7 fun s p => if (connFor s (hdrOf p)).isNone then s else receiveSeq s port tc p)

/-- DGRAM (R348). -/
def execDgram (port tc : Nat) (s : State) : Host.Outcome State Fault Refusal :=
  .next (takeKind s port tc 6 fun s p => receiveDgram s port p)

/-- The transport's time unit: 1,024 ACLK cycles. -/
def unit1024 : Nat := 1024

/-- ACK_TIMER (R327): `ACK_TIME` after the first acceptance not yet acknowledged. -/
def execAckTimer (conn : Nat) (s : State) : Host.Outcome State Fault Refusal :=
  .next (live s fun s =>
    match (connOf s conn).bind (·.ackSince) with
    | some t => if due s t (getF s rFtControl fFtControlAckTime * unit1024) then sendAck s conn else s
    | none => s)

/-- GAP_TIMER (R328): `NAK_TIME` after the gap opened or `RCV_NXT` advanced. -/
def execGapTimer (conn : Nat) (s : State) : Host.Outcome State Fault Refusal :=
  .next (live s fun s =>
    match (connOf s conn).bind (·.gapSince) with
    | some t =>
      if due s t (getF s rFtControl fFtControlNakTime * unit1024) then
        updConn (sendNak s conn) conn fun k => { k with gapSince := some s.time }
      else s
    | none => s)

/-- The retransmit timer of a connection expires (R329). -/
def retxExpire (s : State) (conn : Nat) (k : Conn) : State :=
  if getF s rFtControl fFtControlRetryLimit ≤ k.retries then connError s conn stTimeout
  else goBack (putConn s conn { k with retries := k.retries + 1, retxSince := some s.time }) conn k.sndUna

/-- RETX_TIMER (R329): `RETX_TIME` without progress, 0 acting as 1. -/
def execRetxTimer (conn : Nat) (s : State) : Host.Outcome State Fault Refusal :=
  .next (live s fun s =>
    match connOf s conn with
    | none => s
    | some k =>
      match k.retxSince with
      | some t =>
        if k.state = 1 ∧ due s t (max 1 (getF s rFtControl fFtControlRetxTime) * unit1024) = true then
          retxExpire s conn k
        else s
      | none => s)

/-- PACKET_SPRAY (R325, R348). -/
def execPacketSpray (what : Spray) (s : State) : Host.Outcome State Fault Refusal :=
  .next (live s fun s =>
    match what with
    | .conn c => sprayConn s c
    | .dgram => sprayDgram s)

/-! ## Connections -/

/-- The connection a descriptor names. -/
def Conn.named (d : Bytes) : Nat := bfld d 8 0 14

/-- The context bytes of `CONN_OPEN` break R321. -/
def openBad (s : State) (x : Bytes) (c : Nat) : Bool :=
  let path := bfld x 0 5 2
  let hops := bfld x 0 7 6
  (connOf s c).isSome || decide (bfld x 0 2 3 = 7 ∨ path = 3) || decide (path = 0 ∧ hops ≠ 0 ∨ path ≠ 0 ∧ hops = 0)
    || decide (path = 0 ∧ bfld x 8 0 16 = 0) || decide (bfld x 4 0 12 = nodeId s)
    || decide (bfld x 0 21 11 ≠ 0 ∨ bfld x 4 26 6 ≠ 0 ∨ bfld x 8 16 16 ≠ 0)

/-- CONN_OPEN (R321, R380): a tree connection, in any state, is not Function 1's to open. -/
def execConnOpen (c : Cmd) (s : State) : Host.Outcome State Fault Refusal :=
  .next (startCmd s 0x20 c fun r s =>
    let i := Conn.named c.d
    let x := slice c.d 0x0C 12
    if openBad s x i then finish s r stFormat
    else finish (putConn s i (mkConn (bfld x 0 2 3) (bfld x 0 5 2) (bfld x 0 7 6) (bfld x 0 13 8) (bfld x 4 0 12)
      (bfld x 4 12 14) (bfld x 8 0 16) false)) r stOk)

/-- CONN_CLOSE (R322, R380). -/
def execConnClose (c : Cmd) (s : State) : Host.Outcome State Fault Refusal :=
  .next (startCmd s 0x21 c fun r s =>
    let i := Conn.named c.d
    match connOf s i with
    | none => finish s r stOk
    | some k => if k.tree then finish s r stFormat else finish (connShut s i) r stOk)

/-- CONN_QUERY (Table 14.4). -/
def execConnQuery (c : Cmd) (hostOk : Bool) (s : State) : Host.Outcome State Fault Refusal :=
  .next (startCmd s 0x22 c fun r s =>
    if c.badBuf 32 then finish s r stLength
    else putHost s r c.host (connBytes (connOf s (Conn.named c.d))) hostOk fun s => finish s r stOk)

/-! ## Work requests -/

/-- The work request of `WR_POST`, as 64 bytes. -/
def wrOf (d : Bytes) : Bytes := padTo 64 (slice d 8 48)

/-- A work request breaks R337 with `FORMAT`. -/
def wrBad (s : State) (w : Bytes) : Bool :=
  decide (wOp w = 3 ∨ 2 ≤ wService w ∨ wOp w ≠ 0 ∧ wService w ≠ 0 ∨ wOp w = 2 ∧ wRtrigEn w = true)
    || decide (bfld w 0 7 25 ≠ 0 ∨ bfld w 4 14 18 ≠ 0 ∨ bfld w 8 40 24 ≠ 0 ∨ bfld w 0x18 40 24 ≠ 0 ∨ bfld w 0x20 12 4 ≠ 0
        ∨ bfld w 0x20 28 4 ≠ 0 ∨ bfld w 0x24 12 20 ≠ 0)
    || (match connOf s (wConn w) with
        | some k => k.state != 1
        | none => true)

/-- Armed requests that wait. -/
def armedCount (s : State) : Nat := (s.ft.wrs.filter fun w => w.2.st == .armed).length

/-- WR_POST (R336, R337, R347). -/
def execWrPost (c : Cmd) (s : State) : Host.Outcome State Fault Refusal :=
  .next (startCmd s 0x26 c fun r s =>
    let w := wrOf c.d
    let why := firstRefusal
      [(wrBad s w, stFormat), (decide (msgMax < wLength w ∨ gddrSize < wLocal w + wLength w), stLength),
       (decide (65536 ≤ s.ft.wrs.length) || (wArmed w && decide (4096 ≤ armedCount s)), stQuota)]
    match why with
    | some st => completeWith s r st (wTag w)
    | none =>
      let id := mapFresh s.ft.wrs 0
      let s := { s with ft := { s.ft with
        wrs := mapPut s.ft.wrs id ⟨w, r, wConn w, s.ft.order, .armed⟩, order := s.ft.order + 1 } }
      if wArmed w && !(armedReady s w) then s else sendWr s id)

/-- The armed request that fires next: the ready one posted first (R347). -/
def nextFire (s : State) : Option (Nat × Wr) :=
  (s.ft.wrs.filter fun w => w.2.st == .armed && armedReady s w.2.wr).foldl (init := none) fun best w =>
    match best with
    | none => some w
    | some b => if w.2.order < b.2.order then some w else some b

/-- WR_FIRE (R347): requests that are ready together fire in the order they were posted. -/
def execWrFire (id : Nat) (s : State) : Host.Outcome State Fault Refusal :=
  .next (live s fun s =>
    match nextFire s with
    | none => s
    | some (i, w) =>
      if i ≠ id then s
      else match connOf s w.conn with
        | some k => if k.state = 1 then sendWr s i else endWr s i stAborted
        | none => endWr s i stAborted)

/-! ## Regions -/

/-- The region descriptor of `REGION_REGISTER` (Table 11.6). -/
def regionOf (d : Bytes) : Bytes := slice d 8 32

/-- A region may not be registered (R341). -/
def regionBad (s : State) (d : Bytes) : Bool :=
  let b := rgBase d
  let n := rgLength d
  decide (bfld d 0 40 24 ≠ 0 ∨ bfld d 8 40 24 ≠ 0 ∨ bfld d 0x10 15 17 ≠ 0 ∨ num d 0x14 12 ≠ 0)
    || decide (wideSize s < b + n)
    || (fixedRegions s ++ [swapRegion s, (reserveBase s, wideSize s - reserveBase s)] ++ modelRegion s).any
        fun (a, m) => overlaps b n a m

/-- The lowest free region index: never used, or `REVOKED` (R341, R342; log entry 9). -/
def freeRegion (s : State) : Option Nat :=
  (List.range (min 16384 (s.ft.regions.length + 1))).find? fun i =>
    match mapGet s.ft.regions i with
    | none => true
    | some r => r.st == .revoked

/-- The ceiling of an index is raised before a generation at or beyond it is issued (R349, R448). -/
def raiseCeiling (s : State) (i g : Nat) : State :=
  let c := (mapGet s.tn.ceilings i).getD 0
  if serialBefore 18 g c then s
  else commit { s with tn := { s.tn with ceilings := mapPut s.tn.ceilings i ((c + 1024) % 2 ^ 18) } } 9

/-- REGION_REGISTER (R341, R349). -/
def execRegionRegister (c : Cmd) (s : State) : Host.Outcome State Fault Refusal :=
  .next (startCmd s 0x23 c fun r s =>
    let d := regionOf c.d
    if regionBad s d then finish s r stFormat
    else match freeRegion s with
      | none => finish s r stQuota
      | some i =>
        let g := ((mapGet s.ft.gens i).getD 0 + 1) % 2 ^ 18
        let s := raiseCeiling s i g
        let s := { s with ft := { s.ft with
          gens := mapPut s.ft.gens i g, regions := mapPut s.ft.regions i ⟨d, g, .active, 0, []⟩ } }
        completeWith s r stOk (i + 2 ^ 14 * g))

/-- The region a key names, when its generation agrees. -/
def regionKeyed (s : State) (key : Nat) : Option (Nat × Region) :=
  match mapGet s.ft.regions (fld key 0 14) with
  | some r => if r.gen = fld key 14 18 then some (fld key 0 14, r) else none
  | none => none

/-- REGION_REVOKE (R342): a key of no region of this generation fails with `ACCESS_VIOLATION`, as R339 has it. -/
def execRegionRevoke (c : Cmd) (s : State) : Host.Outcome State Fault Refusal :=
  .next (startCmd s 0x24 c fun r s =>
    match regionKeyed s (num c.d 8 4) with
    | none => finish s r stAccess
    | some (i, g) =>
      match g.st with
      | .revoked => finish s r stOk
      | .revoking =>
        { s with ft := { s.ft with regions := mapPut s.ft.regions i { g with refs := g.refs ++ [r] } } }
      | .active =>
        if g.inFlight = 0 then
          raise1 (finish { s with ft := { s.ft with regions := mapPut s.ft.regions i { g with st := .revoked } } } r stOk)
            35 fFtEventRevokeDone
        else { s with ft := { s.ft with regions := mapPut s.ft.regions i { g with st := .revoking, refs := [r] } } })

/-- REGION_QUERY (Table 14.4): the descriptor, with the state in byte 0x1C. -/
def execRegionQuery (c : Cmd) (hostOk : Bool) (s : State) : Host.Outcome State Fault Refusal :=
  .next (startCmd s 0x25 c fun r s =>
    if c.badBuf 32 then finish s r stLength
    else
      let (d, st) := match regionKeyed s (num c.d 8 4) with
        | none => (zeros 32, 0)
        | some (_, g) => (g.desc, match g.st with
          | .active => 1
          | .revoking => 2
          | .revoked => 3)
      putHost s r c.host (overlay d 0x1C (natLe 1 st)) hostOk fun s => finish s r stOk)

/-! ## Receive slots and counters -/

/-- RECV_POST (R345, R422). -/
def execRecvPost (c : Cmd) (s : State) : Host.Outcome State Fault Refusal :=
  .next (startCmd s 0x27 c fun r s =>
    let i := Conn.named c.d
    let a := bfld c.d 0x10 0 40
    let isOpen := match connOf s i with
      | some k => k.state == 1
      | none => false
    let why := firstRefusal
      [(!isOpen, stFormat), (decide (msgMax < c.len ∨ gddrSize < a + c.len), stLength),
       (decide (65536 ≤ s.ft.recv.length), stQuota)]
    refuseOr s r why (
      let n := mapFresh s.ft.recv 0
      completeWith { s with ft := { s.ft with
        recv := mapPut s.ft.recv n ⟨i, a, c.len, s.ft.order, none, 0⟩, order := s.ft.order + 1 } } r stOk n))

/-- RECV_QUERY (R422): a completed slot is freed once its outcome has been read. -/
def execRecvQuery (c : Cmd) (s : State) : Host.Outcome State Fault Refusal :=
  .next (startCmd s 0x28 c fun r s =>
    let n := bfld c.d 8 0 16
    match mapGet s.ft.recv n with
    | none => completeWith s r stOk 0
    | some x =>
      match x.status with
      | none => completeWith s r stOk 1
      | some st =>
        complete { s with ft := { s.ft with recv := mapDel s.ft.recv n } } ⟨r, stOk, 0, 2 + at_ 8 8 st, 0, x.got, false⟩)

/-- COUNTER_SET (R346). -/
def execCounterSet (c : Cmd) (s : State) : Host.Outcome State Fault Refusal :=
  .next (startCmd s 0x29 c fun r s => finish (setCounter s (bfld c.d 8 0 12) (num c.d 0x0C 4)) r stOk)

end Sys2Proof.Machine
end

