-- ==== Sys2Proof/Machine/Dispatch.lean ====
section
/-!
DEFINITION. Machine/Dispatch.lean: the meaning of each command, one arm per constructor.
-/

namespace Sys2Proof.Machine

def exec (i : Instr) (s : State) : Host.Outcome State Fault Refusal :=
  match i with
  | .registerWrite a => Sys2Proof.Machine.execRegisterWrite a s
  | .badSizeAccess a write => Sys2Proof.Machine.execBadSizeAccess a write s
  | .tmStatusRead a => Sys2Proof.Machine.execTmStatusRead a s
  | .cxTableBaseWrite a => Sys2Proof.Machine.execCxTableBaseWrite a s
  | .cxReady => Sys2Proof.Machine.execCxReady s
  | .bbNarrowShareWrite a => Sys2Proof.Machine.execBbNarrowShareWrite a s
  | .bbPermitLimitWrite a => Sys2Proof.Machine.execBbPermitLimitWrite a s
  | .tmPlanWrite a => Sys2Proof.Machine.execTmPlanWrite a s
  | .flPortEnableWrite a => Sys2Proof.Machine.execFlPortEnableWrite a s
  | .flPortClassWrite a => Sys2Proof.Machine.execFlPortClassWrite a s
  | .esShaperWrite a => Sys2Proof.Machine.execEsShaperWrite a s
  | .imProfileWrite a => Sys2Proof.Machine.execImProfileWrite a s
  | .gsIntEnableWrite a => Sys2Proof.Machine.execGsIntEnableWrite a s
  | .pfLogHeadWrite a => Sys2Proof.Machine.execPfLogHeadWrite a s
  | .pwCapWrite a => Sys2Proof.Machine.execPwCapWrite a s
  | .bar4Write off data => Sys2Proof.Machine.execBar4Write off data s
  | .bar4Read off len => Sys2Proof.Machine.execBar4Read off len s
  | .cxOpen c => Sys2Proof.Machine.execCxOpen c s
  | .cxClose c => Sys2Proof.Machine.execCxClose c s
  | .closeDrainEnd x => Sys2Proof.Machine.execCloseDrainEnd x s
  | .cxPark c => Sys2Proof.Machine.execCxPark c s
  | .cxReopen c => Sys2Proof.Machine.execCxReopen c s
  | .parkEnd x => Sys2Proof.Machine.execParkEnd x s
  | .reopenEnd x => Sys2Proof.Machine.execReopenEnd x s
  | .cxQuery c hostOk => Sys2Proof.Machine.execCxQuery c hostOk s
  | .cxSetShards c buf => Sys2Proof.Machine.execCxSetShards c buf s
  | .walkerSlotGrant => Sys2Proof.Machine.execWalkerSlotGrant s
  | .editWaitEnd => Sys2Proof.Machine.execEditWaitEnd s
  | .bankGrant handle => Sys2Proof.Machine.execBankGrant handle s
  | .bankReleaseAck handle => Sys2Proof.Machine.execBankReleaseAck handle s
  | .attend m reads => Sys2Proof.Machine.execAttend m reads s
  | .draftRows x => Sys2Proof.Machine.execDraftRows x s
  | .draftHoldExpiry k => Sys2Proof.Machine.execDraftHoldExpiry k s
  | .draftWaitTimeout req => Sys2Proof.Machine.execDraftWaitTimeout req s
  | .clause src m => Sys2Proof.Machine.execClause src m s
  | .done src m => Sys2Proof.Machine.execDone src m s
  | .childTimeout req shard => Sys2Proof.Machine.execChildTimeout req shard s
  | .shardClauseSend req reads => Sys2Proof.Machine.execShardClauseSend req reads s
  | .attnSlotFree => Sys2Proof.Machine.execAttnSlotFree s
  | .append m reads => Sys2Proof.Machine.execAppend m reads s
  | .refill m reads => Sys2Proof.Machine.execRefill m reads s
  | .pageOpWaitEnd => Sys2Proof.Machine.execPageOpWaitEnd s
  | .bauStoreWrite bbd issuer off data => Sys2Proof.Machine.execBauStoreWrite bbd issuer off data s
  | .glossBound b => Sys2Proof.Machine.execGlossBound b s
  | .attendPage b => Sys2Proof.Machine.execAttendPage b s
  | .appendRows b => Sys2Proof.Machine.execAppendRows b s
  | .requant b => Sys2Proof.Machine.execRequant b s
  | .rmsnorm b => Sys2Proof.Machine.execRmsnorm b s
  | .elementwise b => Sys2Proof.Machine.execElementwise b s
  | .gatherReduce b => Sys2Proof.Machine.execGatherReduce b s
  | .zeroRange b => Sys2Proof.Machine.execZeroRange b s
  | .permitGrant bbd => Sys2Proof.Machine.execPermitGrant bbd s
  | .bauCompletion bbd x => Sys2Proof.Machine.execBauCompletion bbd x s
  | .d2dLinkRetrain x => Sys2Proof.Machine.execD2dLinkRetrain x s
  | .bbdOutOfService bbd => Sys2Proof.Machine.execBbdOutOfService bbd s
  | .refreshDue chan => Sys2Proof.Machine.execRefreshDue chan s
  | .refreshPause chan => Sys2Proof.Machine.execRefreshPause chan s
  | .refreshResume chan cycles => Sys2Proof.Machine.execRefreshResume chan cycles s
  | .matmul t => Sys2Proof.Machine.execMatmul t s
  | .score t => Sys2Proof.Machine.execScore t s
  | .fold t => Sys2Proof.Machine.execFold t s
  | .bound t => Sys2Proof.Machine.execBound t s
  | .conjoin t => Sys2Proof.Machine.execConjoin t s
  | .teComplete ac te => Sys2Proof.Machine.execTeComplete ac te s
  | .sxTe op => Sys2Proof.Machine.execSxTe op s
  | .sxBstore op => Sys2Proof.Machine.execSxBstore op s
  | .sxBau op => Sys2Proof.Machine.execSxBau op s
  | .sxCopy op => Sys2Proof.Machine.execSxCopy op s
  | .sxWait op => Sys2Proof.Machine.execSxWait op s
  | .sxPoll op => Sys2Proof.Machine.execSxPoll op s
  | .sxSleep op => Sys2Proof.Machine.execSxSleep op s
  | .sxStep op => Sys2Proof.Machine.execSxStep op s
  | .sxEnd op => Sys2Proof.Machine.execSxEnd op s
  | .sxTrap job idx mcause addr => Sys2Proof.Machine.execSxTrap job idx mcause addr s
  | .contextEvent job idx => Sys2Proof.Machine.execContextEvent job idx s
  | .swapOut ac => Sys2Proof.Machine.execSwapOut ac s
  | .swapLoad ac => Sys2Proof.Machine.execSwapLoad ac s
  | .jobSubmit c => Sys2Proof.Machine.execJobSubmit c s
  | .jobPreempt c => Sys2Proof.Machine.execJobPreempt c s
  | .preemptTimeout job => Sys2Proof.Machine.execPreemptTimeout job s
  | .jobQuery c => Sys2Proof.Machine.execJobQuery c s
  | .rmLoad c => Sys2Proof.Machine.execRmLoad c s
  | .rmUnload c => Sys2Proof.Machine.execRmUnload c s
  | .attnWayGrant => Sys2Proof.Machine.execAttnWayGrant s
  | .moveStart id reads => Sys2Proof.Machine.execMoveStart id reads s
  | .moveCommit x => Sys2Proof.Machine.execMoveCommit x s
  | .moveAbandon id fault => Sys2Proof.Machine.execMoveAbandon id fault s
  | .quotaSpill cls => Sys2Proof.Machine.execQuotaSpill cls s
  | .spillMarkSpill cls => Sys2Proof.Machine.execSpillMarkSpill cls s
  | .freeMarkSpill narrow => Sys2Proof.Machine.execFreeMarkSpill narrow s
  | .spill ctx layer n x => Sys2Proof.Machine.execSpill ctx layer n x s
  | .compact drive => Sys2Proof.Machine.execCompact drive s
  | .extentFlush buf => Sys2Proof.Machine.execExtentFlush buf s
  | .driveCompletion buf ok => Sys2Proof.Machine.execDriveCompletion buf ok s
  | .tierLinkDown port link => Sys2Proof.Machine.execTierLinkDown port link s
  | .tierLinkTimeout port link => Sys2Proof.Machine.execTierLinkTimeout port link s
  | .inboundRequest port link => Sys2Proof.Machine.execInboundRequest port link s
  | .passStart a => Sys2Proof.Machine.execPassStart a s
  | .passAbort a => Sys2Proof.Machine.execPassAbort a s
  | .passUnitRead reads => Sys2Proof.Machine.execPassUnitRead reads s
  | .splitWrite a => Sys2Proof.Machine.execSplitWrite a s
  | .testRead a => Sys2Proof.Machine.execTestRead a s
  | .retireSlot c => Sys2Proof.Machine.execRetireSlot c s
  | .retireChannel c => Sys2Proof.Machine.execRetireChannel c s
  | .frameReceive port frame => Sys2Proof.Machine.execFrameReceive port frame s
  | .pauseRepeat port tc => Sys2Proof.Machine.execPauseRepeat port tc s
  | .hello port lcf => Sys2Proof.Machine.execHello port lcf s
  | .helloSend port => Sys2Proof.Machine.execHelloSend port s
  | .pause port lcf => Sys2Proof.Machine.execPause port lcf s
  | .pauseExpiry port tc => Sys2Proof.Machine.execPauseExpiry port tc s
  | .pauseWatchdog port tc => Sys2Proof.Machine.execPauseWatchdog port tc s
  | .swapReq port lcf => Sys2Proof.Machine.execSwapReq port lcf s
  | .swapAck port lcf => Sys2Proof.Machine.execSwapAck port lcf s
  | .flSwapGo a ahead => Sys2Proof.Machine.execFlSwapGo a ahead s
  | .swapMarker port block => Sys2Proof.Machine.execSwapMarker port block s
  | .swapTimeout port => Sys2Proof.Machine.execSwapTimeout port s
  | .portTrained port t => Sys2Proof.Machine.execPortTrained port t s
  | .portTrainRetry port => Sys2Proof.Machine.execPortTrainRetry port s
  | .laneFault port lane => Sys2Proof.Machine.execLaneFault port lane s
  | .fecPeriod port corrected uncorrected => Sys2Proof.Machine.execFecPeriod port corrected uncorrected s
  | .listenDone port => Sys2Proof.Machine.execListenDone port s
  | .listenLimitExpiry port signal => Sys2Proof.Machine.execListenLimitExpiry port signal s
  | .detachLimitExpiry port => Sys2Proof.Machine.execDetachLimitExpiry port s
  | .frameStart port => Sys2Proof.Machine.execFrameStart port s
  | .gateInstall a => Sys2Proof.Machine.execGateInstall a s
  | .gateInstallEffect port => Sys2Proof.Machine.execGateInstallEffect port s
  | .gateEntryChange port => Sys2Proof.Machine.execGateEntryChange port s
  | .connDropPeriod => Sys2Proof.Machine.execConnDropPeriod s
  | .msg port tc => Sys2Proof.Machine.execMsg port tc s
  | .write port tc => Sys2Proof.Machine.execWrite port tc s
  | .readReq port tc => Sys2Proof.Machine.execReadReq port tc s
  | .readResp port tc => Sys2Proof.Machine.execReadResp port tc s
  | .ack port tc => Sys2Proof.Machine.execAck port tc s
  | .nak port tc => Sys2Proof.Machine.execNak port tc s
  | .report port tc => Sys2Proof.Machine.execReport port tc s
  | .dgram port tc => Sys2Proof.Machine.execDgram port tc s
  | .ackTimer conn => Sys2Proof.Machine.execAckTimer conn s
  | .gapTimer conn => Sys2Proof.Machine.execGapTimer conn s
  | .retxTimer conn => Sys2Proof.Machine.execRetxTimer conn s
  | .packetSpray what => Sys2Proof.Machine.execPacketSpray what s
  | .connOpen c => Sys2Proof.Machine.execConnOpen c s
  | .connClose c => Sys2Proof.Machine.execConnClose c s
  | .connQuery c hostOk => Sys2Proof.Machine.execConnQuery c hostOk s
  | .wrPost c => Sys2Proof.Machine.execWrPost c s
  | .wrFire id => Sys2Proof.Machine.execWrFire id s
  | .regionRegister c => Sys2Proof.Machine.execRegionRegister c s
  | .regionRevoke c => Sys2Proof.Machine.execRegionRevoke c s
  | .regionQuery c hostOk => Sys2Proof.Machine.execRegionQuery c hostOk s
  | .recvPost c => Sys2Proof.Machine.execRecvPost c s
  | .recvQuery c => Sys2Proof.Machine.execRecvQuery c s
  | .counterSet c => Sys2Proof.Machine.execCounterSet c s
  | .status g => Sys2Proof.Machine.execStatus g s
  | .routeSet g => Sys2Proof.Machine.execRouteSet g s
  | .epochOpen g => Sys2Proof.Machine.execEpochOpen g s
  | .epochClose g => Sys2Proof.Machine.execEpochClose g s
  | .portFence g => Sys2Proof.Machine.execPortFence g s
  | .watchSet g => Sys2Proof.Machine.execWatchSet g s
  | .scores g => Sys2Proof.Machine.execScores g s
  | .fence g => Sys2Proof.Machine.execFence g s
  | .drain g => Sys2Proof.Machine.execDrain g s
  | .reopen g => Sys2Proof.Machine.execReopen g s
  | .rehome g => Sys2Proof.Machine.execRehome g s
  | .rebuildMap g => Sys2Proof.Machine.execRebuildMap g s
  | .handover g => Sys2Proof.Machine.execHandover g s
  | .recovery c => Sys2Proof.Machine.execRecovery c s
  | .healthPeriod extra => Sys2Proof.Machine.execHealthPeriod extra s
  | .heartbeatSend => Sys2Proof.Machine.execHeartbeatSend s
  | .heartbeatReceive src m => Sys2Proof.Machine.execHeartbeatReceive src m s
  | .heartbeatPeriodEnd => Sys2Proof.Machine.execHeartbeatPeriodEnd s
  | .offer src x => Sys2Proof.Machine.execOffer src x s
  | .accept src x => Sys2Proof.Machine.execAccept src x s
  | .refuse src m => Sys2Proof.Machine.execRefuse src m s
  | .page src m => Sys2Proof.Machine.execPage src m s
  | .commitSend x => Sys2Proof.Machine.execCommitSend x s
  | .commit src m => Sys2Proof.Machine.execCommit src m s
  | .commitAck src m => Sys2Proof.Machine.execCommitAck src m s
  | .final src m => Sys2Proof.Machine.execFinal src m s
  | .abandon src m => Sys2Proof.Machine.execAbandon src m s
  | .query src m => Sys2Proof.Machine.execQuery src m s
  | .handoverTimer ctx => Sys2Proof.Machine.execHandoverTimer ctx s
  | .queryTimer ctx => Sys2Proof.Machine.execQueryTimer ctx s
  | .sqDoorbell fn ring val => Sys2Proof.Machine.execSqDoorbell fn ring val s
  | .cqDoorbell fn ring val => Sys2Proof.Machine.execCqDoorbell fn ring val s
  | .descriptorFetch fn ring f => Sys2Proof.Machine.execDescriptorFetch fn ring f s
  | .completionWrite fn ring hostOk => Sys2Proof.Machine.execCompletionWrite fn ring hostOk s
  | .ringEnableWrite a => Sys2Proof.Machine.execRingEnableWrite a s
  | .msixCoalesceTimer fn ring => Sys2Proof.Machine.execMsixCoalesceTimer fn ring s
  | .eventHoldoffTimer fn => Sys2Proof.Machine.execEventHoldoffTimer fn s
  | .functionLevelReset => Sys2Proof.Machine.execFunctionLevelReset s
  | .lxEnrol c buf => Sys2Proof.Machine.execLxEnrol c buf s
  | .lxTransfer c buf => Sys2Proof.Machine.execLxTransfer c buf s
  | .lxManagerSet c buf => Sys2Proof.Machine.execLxManagerSet c buf s
  | .lxManagerClear c => Sys2Proof.Machine.execLxManagerClear c s
  | .lxHandover c buf => Sys2Proof.Machine.execLxHandover c buf s
  | .lxFlashWrite c buf => Sys2Proof.Machine.execLxFlashWrite c buf s
  | .lxRollback c => Sys2Proof.Machine.execLxRollback c s
  | .lxAnchor c => Sys2Proof.Machine.execLxAnchor c s
  | .lxTnRead c hostOk good => Sys2Proof.Machine.execLxTnRead c hostOk good s
  | .lxSupplete c => Sys2Proof.Machine.execLxSupplete c s
  | .lxSetActive c => Sys2Proof.Machine.execLxSetActive c s
  | .measuredRestart same => Sys2Proof.Machine.execMeasuredRestart same s
  | .getChain body => Sys2Proof.Machine.execGetChain body s
  | .attest body => Sys2Proof.Machine.execAttest body s
  | .getHandover body => Sys2Proof.Machine.execGetHandover body s
  | .doeAbort => Sys2Proof.Machine.execDoeAbort s
  | .tensePeriodicCommit badSector celsius => Sys2Proof.Machine.execTensePeriodicCommit badSector celsius s
  | .powerOn => Sys2Proof.Machine.execPowerOn s
  | .warmReset fromPerst => Sys2Proof.Machine.execWarmReset fromPerst s
  | .nodeReset a => Sys2Proof.Machine.execNodeReset a s
  | .startUpEnd r => Sys2Proof.Machine.execStartUpEnd r s
  | .overvoltage millivolt => Sys2Proof.Machine.execOvervoltage millivolt s
  | .brownout => Sys2Proof.Machine.execBrownout s
  | .thermalTrip sensor celsius => Sys2Proof.Machine.execThermalTrip sensor celsius s
  | .clockLoss => Sys2Proof.Machine.execClockLoss s
  | .throttleBoundary watts celsius => Sys2Proof.Machine.execThrottleBoundary watts celsius s
  | .retainRequest a => Sys2Proof.Machine.execRetainRequest a s
  | .retainEntryProgress => Sys2Proof.Machine.execRetainEntryProgress s
  | .runRequest a => Sys2Proof.Machine.execRunRequest a s
  | .wake => Sys2Proof.Machine.execWake s
  | .retainExitEnd x => Sys2Proof.Machine.execRetainExitEnd x s
  | .retainHostAccess h => Sys2Proof.Machine.execRetainHostAccess h s
  | .perstNRise => Sys2Proof.Machine.execPerstNRise s
  | .tierLinkRetrained port link => Sys2Proof.Machine.execTierLinkRetrained port link s
  | .d2dRetrainDone bbd => Sys2Proof.Machine.execD2dRetrainDone bbd s
  | .thermtripRelease => Sys2Proof.Machine.execThermtripRelease s
  | .sxCopyComplete job idx ticket => Sys2Proof.Machine.execSxCopyComplete job idx ticket s
  | .swapSaveDone ac way => Sys2Proof.Machine.execSwapSaveDone ac way s
  | .swapLoadDone ac way => Sys2Proof.Machine.execSwapLoadDone ac way s
  | .driveReadCompletion handle got => Sys2Proof.Machine.execDriveReadCompletion handle got s
  | .rebuildTailRead x => Sys2Proof.Machine.execRebuildTailRead x s
  | .msixUnmask fn vec => Sys2Proof.Machine.execMsixUnmask fn vec s

end Sys2Proof.Machine
end

