-- ==== Sys2Proof/Machine/Step.lean ====
section
/-!
DEFINITION. Machine/Step.lean: one step of the block: the command at the front of the queue, or a tick of the local
counter when nothing waits (R452; log entries 1 and 2).
-/

namespace Sys2Proof.Machine

/-- The first of several commands put at the front of the queue when the word spells one. -/
def State.withFetchWord (s : State) (nbits w : Nat) : State :=
  match decodeTableWord nbits w with
  | some c => { s with pending := c :: s.pending }
  | none => s

/-- One cycle of ACLK passes: every head frame that was held in it is counted (R364), the local counter counts while the module
is powered (R452), and so does every BAU command that waits for permits (R178). -/
def tick (s : State) : State :=
  if s.power.supply = .on then countPermits { countHolds s with time := (s.time + 1) % 2 ^ 64 } else s

/-- Take the command at the front of the queue, or tick when the queue is empty. -/
def step (s : State) : Host.Outcome State Fault Refusal :=
  match s.pending with
  | c :: rest => exec c { s with pending := rest }
  | [] => .next (tick s)

end Sys2Proof.Machine
end

