-- ==== Sys2Proof/Safety.lean ====
section
/-!
DEFINITION. Safety.lean: what counts as a safe state and a safe command, in the terms the claims use.
-/

namespace Sys2Proof

/-- A command answers a next state. -/
def Completes (c : Instr) (s : Machine.State) : Prop := ∃ t, Machine.exec c s = .next t

/-- A command answers a next state of which `Q` holds. -/
def Yields (c : Instr) (s : Machine.State) (Q : Machine.State → Prop) : Prop := ∃ t, Machine.exec c s = .next t ∧ Q t

namespace Machine

/-- What every state that a step reaches from such a state has: memory in its canonical form (log entry 5), the table
of registers in order, so that equal registers are equal data (log entry 8), and a local counter of 64 bits (R452). -/
def Tidy (s : State) : Prop := Memory.wf s.mem = true ∧ mapWf s.regs = true ∧ s.time < 2 ^ 64

/-! ## Register writes -/

/-- A host write of BAR0 acts on the one register it reaches: the function answers and the wake logic does not stand in for
it (R407, R474), the block answers (R489), the size and alignment are supported (R486), the write is not held back
(R432), the function owns the register, the Lexicon is there when it is the owner's (R431), and some bit of the register
is written that no running reset holds (R7, R488). -/
structure Reaches (s : State) (a : Access) (r : Reached) : Prop where
  answers : answers s a.fn = true
  host    : wakeLogic s = false
  block   : blockAnswers s a.off = true
  size    : sizeOk a.off a.size = true
  now     : deferred s a = false
  only    : reachedBy a.off a.size = [r]
  owner   : ownsWrite a.fn r.reg.owner = true
  single  : r.reg.owner ≠ .both
  lexicon : (byLexicon r && lxHalted s) = false
  bits    : (regWrite s a r).mask ≠ 0

/-- The place of an `ES` register among those of its port. -/
def esAt (off : Nat) : Nat := (off - rEsPort 0) % 0x800

/-- Registers whose writes do more than store, or store a value of their own choice, each by its rule: GS and QE (R414, R492,
R493), CX (R480), BB (R162, R179, R282), TM (R241), PF (R273 to R277, R280), FL (R299, R301, R307, R312), ES (R356, R359, R360), IM
(R367 to R370), PW (R466, R473). -/
def ownEffect (off : Nat) : Bool :=
  [rGsControl, rCxTableBase, rBbNarrowShare, rPfLogHead, rPfPass, rPfTestTarget, rFlSwap, rFlRingControl, rPwState,
    rPwCap].contains off ||
  ([(rGsIntEnable1 0, 8, 64), (rGsIntEnable0 0, 8, 64), (rQeSqBase1 0, 0x40, 64), (rQeCqBase1 0, 0x40, 64),
    (rQeRingCtrl1 0, 0x40, 64), (rQeSqBase0 0, 0x40, 8), (rQeCqBase0 0, 0x40, 8), (rQeRingCtrl0 0, 0x40, 8),
    (rBbPermitLimit 0, 0x100, 8), (rTmPlan 0 0, 8, 4096), (rFlPort 0, 0x200, 18)].any fun x =>
      (indexIn x.1 x.2.1 x.2.2 off).isSome) ||
  (portClassAt off).isSome ||
  decide (off / 2 ^ 20 = 0xD ∧ (esAt off = 0 ∨ 0x40 ≤ esAt off ∧ esAt off < 0x80 ∨ 0x400 ≤ esAt off ∧ esAt off < 0x600)) ||
  decide (off = rImMgmt ∨ off = rImControl ∨ rImSource 0 ≤ off ∧ off / 2 ^ 20 = 0xE)

/-- A write of a register is stored and does nothing else: the register has no effect of its own, and where it is written on a
condition alone, that holds (R23, R84, R224, R232; Tables 07.11 and 13.9). -/
def storesOnly (s : State) (w : RegWrite) : Bool :=
  if [rCxShardBase, rPmPoolBase, rPmPoolSize, rTmSlotBase, rTmSlotCount].contains w.off then !(anyOpen s)
  else if w.off = rAcSaveBase ∨ w.off = rAcSaveSize then s.ac.jobs.isEmpty
  else if w.off = rAcControl then decide (w.get fAcControlAttnContexts ≤ 16)
  else if w.off = rCfControl then decide (w.get fCfControlHbTc ≠ 7 ∧ w.get fCfControlTreeTc ≠ 7)
  else !(ownEffect w.off)

/-! ## Ring commands -/

/-- The reference under which the command of a descriptor runs (R409, R412). -/
def refOf (s : State) (c : Cmd) : CmdRef := ⟨c.fn, c.ring, c.tag, c.opcode, genOf s c⟩

/-- The state in which the command of a descriptor has begun: its descriptor is no longer waiting, and the refetches among its
reads are counted (R269, R412, R415). -/
def begun (s : State) (c : Cmd) : State := takeReads (beginCmd s c).2 c.reads

/-- The command of a descriptor has had its effect `t`: what follows on its ring, when its opcode is not accepted there, is
answered (R418). -/
def swept (c : Cmd) (t : State) : State := sweepUnknown c.fn c.ring t.qe.fetched.length t

/-- The command of a descriptor is executed when it is given: the node die is powered (R472), the descriptor's turn has
come (R408, R415), the Lexicon has not halted when it is the owner's (R431), its function accepts the opcode and no
reserved bit of the descriptor is set (R408, R418), and no function-level reset has overtaken it (R428). -/
structure Runs (s : State) (op : Nat) (c : Cmd) : Prop where
  isAwake  : awake s = true
  turn     : turnOf s c = true
  lexicon  : ¬(c.fn = 0 ∧ lxHalted s = true)
  accept   : op ∈ accepted c.fn
  code     : c.opcode = op
  reserved : c.reservedOk (operandBits op) = true
  current  : c.fn = 1 → genOf s c = s.qe.resets1

/-- Between `s` and `t` the command of a descriptor has completed with this status, `COUNT` and `RESULT0` to `RESULT2`
(R409, Table 14.3): its completion is among those added to the ones that wait to be written. -/
def Answered (s t : State) (c : Cmd) (status count r0 r1 r2 : Nat) : Prop :=
  ∃ l, t.qe.finished = s.qe.finished ++ l ∧ (⟨refOf s c, status, count, r0, r1, r2, false⟩ : Completion) ∈ l

/-- The command of a descriptor completes with this status, `COUNT` and `RESULT0` to `RESULT2`, in a state of which `Q`
holds. -/
def Ends (i : Instr) (s : State) (c : Cmd) (status count r0 r1 r2 : Nat) (Q : State → Prop) : Prop :=
  ∃ t, exec i s = .next t ∧ Answered s t c status count r0 r1 r2 ∧ Q t

/-! ## Threads -/

/-- A thread of a job of `KIND` 0 executes an instruction: it is resident in way `k`, not waiting, and of a program (R206). -/
structure Executes (s : State) (i : SxOp) (j : Job) (t : Thread) (k : Nat) : Prop where
  isAwake : awake s = true
  job     : jobAt s i.job = some j
  thread  : threadAt s i.job i.idx = some t
  way     : t.way = some k
  kind    : jKind j.desc = 0
  ready   : t.ready = true

/-- The word of the instruction is one of Table 07.6, of the row of this opcode and funct3, and raises no illegal-instruction trap
(R204); the thread runs nothing ahead of it. -/
structure Spells (op f3 : Nat) (i : SxOp) : Prop where
  alone : i.acts = []
  code  : sxIs op f3 i = true
  legal : sxIllegal i = false

/-- The thread has executed the instruction: it is running at the next one, in the same way, with the result `v` in rd when
there is one and every other integer register as it was; x0 reads 0 (R202, R204). -/
def Executed (u : State) (i : SxOp) (t : Thread) (v : Option Nat) : Prop :=
  ∃ t', threadAt u i.job i.idx = some t' ∧ t'.pc = t.pc + 4 ∧ t'.place = t.place ∧ t'.cond = .running ∧
    ∀ r, t'.getX r = match v with
      | some v => if r % 32 = 0 then 0 else if r % 32 = sxRd i % 32 then v % 2 ^ 64 else t.getX r
      | none => t.getX r

/-! ## Manager requests -/

/-- The request of a manager is accepted (R375 to R377): it is of this row's type, it is tagged with the key of entry `k` of
the owner set, its `SEQ` has not been seen before, its format is right, and the context table is ready when it needs it. -/
structure Accepted (s : State) (type : Nat) (g : Mgmt) (k : Nat) (m : Manager) : Prop where
  isAwake : awake s = true
  code    : mgType g.body = type
  auth    : mgAuth (takeMgmt s g) g = some (k, m)
  fresh   : m.seq < mgSeq g.body
  table   : 0x13 ≤ type → type ≤ 0x15 → tableReady (takeMgmt s g) = true
  format  : mgFormat g.body = false

/-- The state in which an accepted request acts: it has left the list, and its `SEQ` is recorded (R376, R448). -/
def granted (s : State) (g : Mgmt) (k : Nat) (m : Manager) : State := mgAccept (takeMgmt s g) g k m

/-- The message of a handover is taken: it is of this row's type and well formed (R398). -/
structure Taken (s : State) (type : Nat) (m : Bytes) : Prop where
  isAwake : awake s = true
  code    : hoType m = type
  shape   : hoShape m = true

/-- The state in which a message of a handover acts: it has left the list. -/
def withoutHo (s : State) (src : Nat) (m : Bytes) : State := { s with ft := { s.ft with hoIn := s.ft.hoIn.erase (src, m) } }

/-! ## Frames -/

/-- The parts of the state, one for each of its fields. -/
inductive Part where
  | time | regs | mem | power | qe | cx | pm | ae | bb | ac | tm | pf | fl | es | im | ft | cf | tn | lx | out | draws | pending
deriving DecidableEq, Repr

/-- A part of the state is the same before and after. -/
def Part.same (s t : State) : Part → Prop
  | .time => t.time = s.time
  | .regs => t.regs = s.regs
  | .mem => t.mem = s.mem
  | .power => t.power = s.power
  | .qe => t.qe = s.qe
  | .cx => t.cx = s.cx
  | .pm => t.pm = s.pm
  | .ae => t.ae = s.ae
  | .bb => t.bb = s.bb
  | .ac => t.ac = s.ac
  | .tm => t.tm = s.tm
  | .pf => t.pf = s.pf
  | .fl => t.fl = s.fl
  | .es => t.es = s.es
  | .im => t.im = s.im
  | .ft => t.ft = s.ft
  | .cf => t.cf = s.cf
  | .tn => t.tn = s.tn
  | .lx => t.lx = s.lx
  | .out => t.out = s.out
  | .draws => t.draws = s.draws
  | .pending => t.pending = s.pending

/-- The parts of the state that a command may write; every other is left as it was.  A write of a register may reach every
block, and so may a reset. -/
def touches : Instr → List Part
  | .registerWrite _ | .badSizeAccess _ _ | .cxTableBaseWrite _ | .bbNarrowShareWrite _ | .bbPermitLimitWrite _
  | .tmPlanWrite _ | .flPortEnableWrite _ | .flPortClassWrite _ | .esShaperWrite _ | .imProfileWrite _
  | .gsIntEnableWrite _ | .pfLogHeadWrite _ | .pwCapWrite _ | .passStart _ | .passAbort _ | .splitWrite _
  | .testRead _ | .flSwapGo _ _ | .gateInstall _ | .ringEnableWrite _ | .nodeReset _ | .startUpEnd _
  | .retainRequest _ | .runRequest _ | .retainExitEnd _ | .retainHostAccess _
    => [.time, .regs, .mem, .power, .qe, .cx, .pm, .ae, .bb, .ac, .tm, .pf, .fl, .es, .im, .ft, .cf, .tn, .lx, .out, .draws]
  | .tmStatusRead _ => [.regs, .qe, .lx, .out]
  | .cxReady => [.regs, .cx]
  | .bar4Write _ _ => [.regs, .mem, .qe, .pf, .cf, .out]
  | .bar4Read _ _ => [.regs, .qe, .bb, .pf, .cf, .out]
  | .cxOpen _ | .cxClose _ | .cxPark _ | .cxReopen _ | .parkEnd _ | .reopenEnd _ | .cxQuery _ _
    => [.regs, .mem, .qe, .cx, .pm, .tm, .pf, .cf, .out]
  | .closeDrainEnd _ | .offer _ _ | .page _ _ | .abandon _ _ | .rebuildTailRead _
    => [.regs, .mem, .qe, .cx, .pm, .tm, .pf, .ft, .cf, .out]
  | .cxSetShards _ _ => [.regs, .mem, .qe, .cx, .tm, .cf, .out]
  | .walkerSlotGrant | .editWaitEnd | .bankGrant _ | .bankReleaseAck _ | .append _ _ | .refill _ _ | .pageOpWaitEnd
  | .accept _ _ | .refuse _ _ | .commitSend _ | .commitAck _ _ | .handoverTimer _
    => [.regs, .mem, .qe, .cx, .pm, .ae, .bb, .tm, .pf, .ft, .cf, .out]
  | .attend _ _ | .attnSlotFree => [.regs, .mem, .qe, .cx, .pm, .ae, .bb, .ac, .tm, .pf, .ft, .cf, .out]
  | .draftRows _ => [.regs, .mem, .qe, .cx, .pm, .ae, .tm, .pf, .ft, .cf, .out]
  | .draftHoldExpiry _ | .draftWaitTimeout _ | .childTimeout _ _ => [.regs, .qe, .ae, .out]
  | .clause _ _ | .done _ _ => [.regs, .qe, .ae, .ft, .out]
  | .shardClauseSend _ _ | .fence _ | .drain _ | .reopen _ | .rehome _ | .rebuildMap _ | .handover _ | .recovery _
    => [.regs, .mem, .qe, .cx, .pm, .ae, .bb, .ac, .tm, .pf, .ft, .cf, .tn, .lx, .out]
  | .bauStoreWrite _ _ _ _ | .glossBound _ | .attendPage _ | .appendRows _ | .requant _ | .rmsnorm _ | .elementwise _
  | .gatherReduce _ | .zeroRange _ | .permitGrant _ | .bauCompletion _ _ | .bbdOutOfService _ | .teComplete _ _
  | .sxBstore _ | .sxBau _ | .sxCopy _ | .sxWait _ | .sxEnd _ | .contextEvent _ _ | .swapLoad _ | .d2dRetrainDone _
  | .sxCopyComplete _ _ _ | .swapSaveDone _ _ | .swapLoadDone _ _
    => [.regs, .mem, .qe, .cx, .pm, .ae, .bb, .ac, .tm, .pf, .ft, .cf, .tn, .lx, .out, .draws]
  | .d2dLinkRetrain _ => [.regs, .qe, .bb, .cf, .out]
  | .refreshDue _ => [.bb]
  | .refreshPause _ => [.regs, .qe, .bb, .out]
  | .refreshResume _ _ => [.regs, .bb]
  | .matmul _ | .score _ | .fold _ | .bound _ | .conjoin _ => [.ac]
  | .sxTe _ => [.regs, .mem, .qe, .bb, .ac, .pf, .cf, .tn, .lx, .out, .draws]
  | .sxPoll _ | .sxSleep _ | .sxStep _ => [.regs, .mem, .qe, .bb, .ac, .pf, .ft, .cf, .tn, .lx, .out, .draws]
  | .sxTrap _ _ _ _ | .preemptTimeout _ => [.regs, .qe, .ac, .tn, .lx, .out]
  | .swapOut _ => [.regs, .qe, .ac, .out]
  | .jobSubmit _ => [.regs, .qe, .ac, .tm, .pf, .cf, .tn, .lx, .out]
  | .jobPreempt _ | .rmUnload _ => [.regs, .qe, .ac, .tm, .cf, .out]
  | .jobQuery _ | .connQuery _ _ | .regionQuery _ _ | .counterSet _ => [.regs, .qe, .tm, .cf, .out]
  | .rmLoad _ => [.regs, .qe, .tm, .pf, .cf, .out]
  | .attnWayGrant => [.regs, .ae, .ac]
  | .moveStart _ _ | .moveCommit _ | .moveAbandon _ _ | .spill _ _ _ _ | .extentFlush _ | .driveCompletion _ _
  | .tierLinkTimeout _ _ | .tierLinkRetrained _ _ | .driveReadCompletion _ _
    => [.regs, .mem, .qe, .cx, .pm, .ae, .tm, .pf, .cf, .out]
  | .quotaSpill _ | .spillMarkSpill _ | .freeMarkSpill _ | .compact _ => [.regs, .qe, .pm, .tm, .pf, .out]
  | .tierLinkDown _ _ => [.regs, .qe, .tm, .out]
  | .inboundRequest _ _ | .descriptorFetch _ _ _ | .completionWrite _ _ _ => [.regs, .qe, .out]
  | .passUnitRead _ => [.regs, .qe, .cx, .pm, .bb, .tm, .pf, .cf, .out]
  | .retireSlot _ => [.regs, .mem, .qe, .cx, .pm, .bb, .tm, .pf, .cf, .tn, .out]
  | .retireChannel _ | .lxEnrol _ _ | .lxTransfer _ _ | .lxManagerSet _ _ | .lxManagerClear _ | .lxRollback _
  | .lxAnchor _ => [.regs, .qe, .tm, .cf, .tn, .out]
  | .frameReceive _ _ => [.regs, .qe, .fl, .es, .im, .ft, .cf, .out]
  | .pauseRepeat _ _ | .helloSend _ | .pauseExpiry _ _ => [.fl]
  | .hello _ _ | .pause _ _ | .swapReq _ _ | .swapAck _ _ => [.regs, .qe, .fl, .ft, .cf, .out]
  | .pauseWatchdog _ _ => [.regs, .qe, .fl, .cf, .out]
  | .swapMarker _ _ | .portTrained _ _ => [.regs, .qe, .fl, .tn, .out]
  | .swapTimeout _ | .listenLimitExpiry _ _ | .detachLimitExpiry _ => [.regs, .qe, .fl, .out]
  | .portTrainRetry _ | .gateEntryChange _ => [.regs]
  | .laneFault _ _ | .fecPeriod _ _ _ => [.regs, .qe, .fl, .cf, .tn, .out]
  | .listenDone _ => [.regs, .fl, .out]
  | .frameStart _ => [.regs, .qe, .ae, .fl, .es, .cf, .out]
  | .gateInstallEffect _ => [.regs, .qe, .es, .out]
  | .connDropPeriod => [.im]
  | .msg _ _ | .write _ _ | .readReq _ _ | .readResp _ _ | .report _ _ => [.regs, .mem, .qe, .ae, .fl, .ft, .out]
  | .ack _ _ | .nak _ _ => [.regs, .mem, .qe, .ae, .fl, .ft, .cf, .out]
  | .dgram _ _ => [.regs, .qe, .fl, .ft, .out]
  | .ackTimer _ | .gapTimer _ => [.ft]
  | .retxTimer _ | .heartbeatSend | .heartbeatReceive _ _ | .heartbeatPeriodEnd | .queryTimer _
    => [.regs, .qe, .ft, .cf, .out]
  | .packetSpray _ => [.regs, .bb, .es, .ft, .cf]
  | .connOpen _ | .connClose _ | .wrPost _ | .regionRevoke _ | .recvPost _ | .recvQuery _
    => [.regs, .qe, .tm, .ft, .cf, .out]
  | .wrFire _ => [.regs, .qe, .ft]
  | .regionRegister _ => [.regs, .qe, .tm, .ft, .cf, .tn, .out]
  | .status _ | .routeSet _ | .epochOpen _ | .epochClose _ | .watchSet _ | .scores _
    => [.regs, .mem, .qe, .cx, .ft, .cf, .tn, .out]
  | .portFence _ => [.regs, .mem, .qe, .cx, .fl, .es, .ft, .cf, .tn, .out]
  | .healthPeriod _ => [.regs, .qe, .ft, .cf, .tn, .out]
  | .commit _ _ => [.regs, .mem, .qe, .cx, .pm, .pf, .ft, .cf, .out]
  | .final _ _ => [.regs, .qe, .pm, .tm, .ft, .cf, .out]
  | .query _ _ => [.regs, .qe, .ft, .out]
  | .sqDoorbell _ _ _ | .cqDoorbell _ _ _ => [.regs, .power, .qe, .out]
  | .msixCoalesceTimer _ _ | .eventHoldoffTimer _ | .msixUnmask _ _ => [.qe, .out]
  | .functionLevelReset | .lxHandover _ _ | .powerOn | .warmReset _ | .overvoltage _ | .perstNRise
    => [.time, .regs, .mem, .power, .qe, .cx, .pm, .ae, .bb, .ac, .tm, .pf, .fl, .es, .im, .ft, .cf, .tn, .lx, .out]
  | .lxFlashWrite _ _ | .lxSetActive _ => [.regs, .qe, .tm, .cf, .lx, .out]
  | .lxTnRead _ _ _ => [.regs, .qe, .tm, .cf, .tn, .out, .draws]
  | .lxSupplete _ => [.regs, .qe, .bb, .ac, .tm, .cf, .tn, .lx, .out]
  | .measuredRestart _ => [.regs, .power, .qe, .tm, .pf, .cf, .lx, .out]
  | .getChain _ | .attest _ | .getHandover _ => [.lx, .out]
  | .doeAbort => [.lx]
  | .tensePeriodicCommit _ _ => [.regs, .qe, .tn, .lx, .out, .draws]
  | .brownout | .thermalTrip _ _ | .clockLoss | .throttleBoundary _ _ => [.regs, .power, .qe, .tn, .lx, .out]
  | .retainEntryProgress
    => [.regs, .mem, .power, .qe, .cx, .pm, .ae, .bb, .ac, .tm, .pf, .fl, .ft, .cf, .tn, .lx, .out, .draws]
  | .wake => [.power]
  | .thermtripRelease => [.power, .out]

end Machine

end Sys2Proof
end

