-- ==== Sys2Proof/Certificates/Slice0/Obligations.lean ====
section
/-!
DEFINITION. Obligations.lean: the statements about the model, each from the rules of spec/ that its docstring names.
-/

open Sys2Proof Sys2Proof.Machine

/-! ## The block as a whole -/

/-- A step with a command at the front of the queue is that command's effect on the state with the queue's rest. -/
def Obligations.StepRunsTheFrontCommand : Prop :=
  ∀ (c : Instr) (rest : List Instr) (s : State), s.pending = c :: rest → step s = exec c { s with pending := rest }

/-- With nothing waiting, a step is one tick of a powered module (log entry 1): the hold counter of each class queue
whose head frame is held in that cycle counts one (R364), the local counter counts one cycle, modulo 2^64 (R452), the
requests of a BBD that wait for permits note one more cycle (R178), and nothing else changes. -/
def Obligations.EmptyQueueTicks : Prop :=
  ∀ s : State, s.pending = [] → ∃ t, step s = .next t ∧
    (s.power.supply ≠ .on → t = s) ∧
    (s.power.supply = .on → t = countPermits { countHolds s with time := (s.time + 1) % 2 ^ 64 } ∧
      t.time = (s.time + 1) % 2 ^ 64 ∧
      (∀ o, (∀ g c, o ≠ rEsHoldCycles g c) → regGet t o = regGet s o) ∧
      (∀ b, (bbdOf t b).queue.map (·.cmd) = (bbdOf s b).queue.map (·.cmd)) ∧
      { t with time := s.time, regs := s.regs, bb := s.bb } = s)

/-- The invariant holds right after reset. -/
def Obligations.ResetHasTheInvariant : Prop := Tidy State.reset

/-- Every step keeps the invariant: memory stays in its canonical form, the table of registers in order and the local
counter below 2^64, from whatever state has them. -/
def Obligations.EveryStepKeepsTheInvariant : Prop := ∀ s t : State, Tidy s → step s = .next t → Tidy t

/-- The frame of every command: a part of the state that `touches` does not list for it is as it was, whatever the
operands. -/
def Obligations.CommandsTouchOnlyTheirParts : Prop :=
  ∀ (c : Instr) (s t : State) (p : Part), exec c s = .next t → p ∉ touches c → p.same s t

/-! ## Tensor engines and Syntax cores -/

/-- A tensor engine command joins the queue of its engine, and nothing else changes: each of the five rows queues the
words of its own opcode and of the opcodes that are none (R193, R194). The command at the head of a tensor engine's
queue completes: its result is written to its way, or nothing when it is refused, its tag and status go out, its ticket
completes with the status, and every thread is then brought up to date. -/
def Obligations.TensorCommandsQueueAndComplete : Prop :=
  (∀ (t : TeCmd) (s : State), awake s = true → t.ac < activeAcs s → t.way < 16 → teFull s (teKey t.ac t.te) = false →
    let u := { s with ac := { s.ac with
      te := mapPut s.ac.te (teKey t.ac t.te) (teQueue s (teKey t.ac t.te) ++ [⟨t, none, 0⟩]) } }
    let spells (op : Nat) : Prop := tOp t.word = op ∨ tOp t.word = 0 ∨ 5 < tOp t.word
    (spells opMatmul → exec (.matmul t) s = .next u) ∧ (spells opScore → exec (.score t) s = .next u)
      ∧ (spells opFold → exec (.fold t) s = .next u) ∧ (spells opBound → exec (.bound t) s = .next u)
      ∧ (spells opConjoin → exec (.conjoin t) s = .next u)) ∧
  (∀ (ac te : Nat) (e : TeEntry) (rest : List TeEntry) (s : State), awake s = true → teQueue s (teKey ac te) = e :: rest →
    let way := 16 * e.cmd.ac + e.cmd.way
    let result := teResult ⟨wayStore s way, e.cmd.word⟩
    let st := match result with
      | .ok _ => stOk
      | .error st => st
    ∃ u, exec (.teComplete ac te) s = .next (pokeThreads u) ∧
      (∀ k, teQueue u k = if k = teKey ac te then rest else teQueue s k) ∧
      (∀ k, wayStore u k = match result with
        | .ok r => if k = way then segWrite (wayStore s k) (tCOff e.cmd.word) r else wayStore s k
        | .error _ => wayStore s k) ∧
      u.out = s.out ++ [.teDone e.cmd.ac (te % 2) (tTag e.cmd.word) st] ∧ u.mem = s.mem ∧ u.regs = s.regs ∧
      (∀ n i t, e.issuer = some (n, i) → threadAt s n i = some t →
        threadAt u n i =
          some { t with tickets := t.tickets.map fun x => if x.id = e.ticket then { x with status := some st } else x }) ∧
      (∀ n i, e.issuer ≠ some (n, i) → threadAt u n i = threadAt s n i))

/-- The instructions that give work to an engine: the bytes go from the thread's segment, a ticket comes back in rd, the
thread goes on, and node memory and the registers are as they were (R168, R204, R205). Table 07.6 gives rs2 of `sx.te`
as 0 or 1; of another value the model takes the low bit (log entry 216). -/
def Obligations.EngineInstructionsIssue : Prop :=
  ∀ (i : SxOp) (s : State) (j : Job) (t : Thread) (k : Nat), Executes s i j t k →
    let a := t.getX (sxRs1 i)
    let b := t.getX (sxRs2 i)
    let ticket := tickVal j.nextTick
    (Spells 0x0B 0 i → ∀ te, te = b % 2 → teFull s (teKey (k / 16) te) = false → a + 32 ≤ segBytes →
      ∃ u, exec (.sxTe i) s = .next u ∧ Executed u i t (some ticket) ∧ u.mem = s.mem ∧ u.regs = s.regs ∧
        ∀ q, teQueue u q = if q = teKey (k / 16) te then
          teQueue s q ++ [⟨⟨k / 16, te, k % 16, segRead (wayStore s k) a 32⟩, some (i.job, i.idx), ticket⟩] else teQueue s q) ∧
    (Spells 0x0B 1 i → a + fld b 0 16 ≤ segBytes →
      ∃ u, exec (.sxBstore i) s = .next (pokeThreads (arrive u (fld b 61 3)
          (.store (.thread i.job i.idx) (fld b 32 16) (segRead (wayStore s k) a (fld b 0 16))))) ∧
        Executed u i t none ∧ u.mem = s.mem ∧ u.regs = s.regs ∧ u.bb = s.bb) ∧
    (Spells 0x0B 2 i → a + 32 ≤ segBytes → inRanges (jWindows j.desc) (fld b 0 40) 1 = true → fld b 0 40 < gddrSize →
      ∃ u, exec (.sxBau i) s = .next (pokeThreads (arrive u (fld b 61 3)
          (.command ⟨fld b 61 3, .thread i.job i.idx, segRead (wayStore s k) a 32, fld b 0 40⟩ ticket))) ∧
        Executed u i t (some ticket) ∧ u.mem = s.mem ∧ u.regs = s.regs ∧ u.bb = s.bb) ∧
    (Spells 0x5B 0 i → t.getX (sxRs3 i) = 0 ∨ copyOk j.desc [] a b (t.getX (sxRs3 i)) = false ∨ copyUnbacked j.desc [] a b (t.getX (sxRs3 i)) = false →
      ∃ u, exec (.sxCopy i) s = .next (pokeThreads u) ∧ Executed u i t (some ticket) ∧ u.mem = s.mem ∧ u.regs = s.regs ∧
        ∀ w, threadAt u i.job i.idx = some w → (⟨ticket, .copy,
          if t.getX (sxRs3 i) = 0 then some stOk else if copyOk j.desc [] a b (t.getX (sxRs3 i)) = true then none else some stAccess,
          a, b, t.getX (sxRs3 i)⟩ : Ticket) ∈ w.tickets)

/-- What a thread runs ahead of an instruction of Table 07.6 (R184, R202, R203, R258; log entry 215): while a load of it
meets a locked slot the thread waits and nothing runs; else it runs first, in order, and then the row has the effect it
has alone. A result goes to its register and the next instruction is 4 bytes on; the read-only CSRs give the thread's
index, the job's thread count and its tag; a load and a store reach the segment or the node memory that Table 07.5
allows, another access traps. A wait whose event has not come: the thread waits for it at the next instruction, blocked
when the wait is external and no engine works for it, else in an internal wait (R204, R206, R212). -/
def Obligations.ThreadsRunAheadAndWait : Prop :=
  (∀ (i : SxOp) (s : State) (j : Job) (t : Thread) (k : Nat), Executes s i j t k →
    let n := i.job
    let o : SxOp := { i with acts := [] }
    let ahead := i.acts.foldl (sxAct n i.idx k) s
    let row (r : SxOp → Instr) (op f3 : Nat) : Prop := sxIs op f3 i = true →
      (actLocks s j i.acts ≠ [] → exec (r i) s = .next (waitLocks s (.thread n i.idx) (actLocks s j i.acts))) ∧
      (actLocks s j i.acts = [] → ∀ j' t', Executes ahead o j' t' k → exec (r i) s = exec (r o) ahead)
    let gives (a : SxAct) (t' : Thread) : Prop :=
      threadAt (sxAct n i.idx k s a) n i.idx = some { t' with pc := t.pc + 4 }
    row .sxTe 0x0B 0 ∧ row .sxBstore 0x0B 1 ∧ row .sxBau 0x0B 2 ∧ row .sxWait 0x0B 3 ∧ row .sxPoll 0x0B 4 ∧ row .sxSleep 0x0B 5 ∧
    row .sxStep 0x0B 6 ∧ row .sxEnd 0x0B 7 ∧ row .sxCopy 0x5B 0 ∧
    (∀ rd v, gives (.setX rd v) (t.setX rd v)) ∧ gives (.csr 1 0xCC0) (t.setX 1 i.idx) ∧
    gives (.csr 1 0xCC1) (t.setX 1 (jThreads j.desc)) ∧ gives (.csr 1 0xCC2) (t.setX 1 (jTag j.desc)) ∧
    (∀ rd a len x w, spaceOf j.desc [] a len = some w → accessOk j.desc 5 a len = true →
      (∀ b, w = .segment b → gives (.load rd a len x) (t.setX rd (loadValue (segRead (wayStore s k) b len) x))) ∧
      (∀ p, w.npa = some p → rangeOut s p len = none → gives (.load rd a len x) (t.setX rd (loadValue (readMem s p len) x)))) ∧
    (∀ a d w, spaceOf j.desc [] a d.length = some w → accessOk j.desc 7 a d.length = true →
      (∀ b, w = .segment b → gives (.store a d) t ∧ wayStore (sxAct n i.idx k s (.store a d)) k = segWrite (wayStore s k) b d) ∧
      (∀ p, w.npa = some p → rangeOut s p d.length = none →
        gives (.store a d) t ∧ (sxAct n i.idx k s (.store a d)).mem = (writeMem s p d).mem)) ∧
    (∀ a len, accessOk j.desc 5 a len = false → ∀ rd x, sxAct n i.idx k s (.load rd a len x) = trapJob s n i.idx 5 a) ∧
    (∀ a d, accessOk j.desc 7 a d.length = false → sxAct n i.idx k s (.store a d) = trapJob s n i.idx 7 a) ∧
    (∀ p, accessOk j.desc 1 p 4 = false → sxAct n i.idx k s (.jump p) = trapJob s n i.idx 1 p) ∧
    (∀ p, accessOk j.desc 1 p 4 = true → threadAt (sxAct n i.idx k s (.jump p)) n i.idx = some { t with pc := p })) ∧
  (∀ (i : SxOp) (s : State) (j : Job) (t : Thread) (k : Nat), Executes s i j t k →
    let waits (w : State) (rd : Nat) (a : Await) : Prop :=
      ∃ t', threadAt w i.job i.idx = some t' ∧ t'.await = some (rd, a) ∧ t'.pc = t.pc + 4 ∧ t'.x = t.x ∧
        t'.cond = if externalWait j t a = true ∧ t.engines = false then .blocked else .internalWait
    (Spells 0x0B 3 i → awaitKnown s j (awaitOf (t.getX (sxRs1 i))) = true → awaited s j t (awaitOf (t.getX (sxRs1 i))) = none →
      ∃ w, exec (.sxWait i) s = .next (pokeThreads w) ∧ waits w (sxRd i) (awaitOf (t.getX (sxRs1 i)))) ∧
    (Spells 0x0B 5 i → s.time < t.getX (sxRs1 i) → ∃ w, exec (.sxSleep i) s = .next w ∧ waits w 0 (.time (t.getX (sxRs1 i)))) ∧
    (Spells 0x0B 6 i → t.open_ ≠ [] → ∃ w, exec (.sxStep i) s = .next w ∧ waits w 0 .step))


/-! ## Links, egress and ingress -/

/-- Link control frames on a port that is up, while no reset of class N or H runs (R296, R301, R302, R305, R315): a
`HELLO` records the partner, and a ring neighbour that changed is noticed; a `PAUSE` holds each class it names until its
time has passed; a `SWAP_REQ` is answered with a `SWAP_ACK` and held; a `SWAP_ACK` of the swap in progress marks it
agreed; `HELLO_SEND` queues the node's own. -/
def Obligations.LinkControlFramesAct : Prop :=
  ∀ (p : Nat) (b : Bytes) (s : State), awake s = true → portUp s p = true → discarding s = false →
    (b.length = 64 → bfld b 0 0 4 = 0 →
      ∃ u, exec (.hello p b) s = .next (if isRing p && (portOf s p).heard.any (· ≠ bfld b 0 12 12)
          then noticeManagers (raise1 (raise1 u (17 + p) fFlPortEventNeighbourChange) 55 fCfEventRingChange) 3 p else u) ∧
        getF u (rFlPort p) fFlPortPartner = bfld b 0 12 12 ∧ getB u (rFlPort p) fFlPortPartnerValid = true ∧
        (portOf u p).heard = some (bfld b 0 12 12) ∧ ∀ q, q ≠ p → portOf u q = portOf s q) ∧
    (b.length = 64 → bfld b 0 0 4 = 1 → (∀ c, c < 8 → bfld b 4 c 1 = 1 → num b (8 + 2 * c) 2 ≠ 0) →
      ∃ u, exec (.pause p b) s = .next u ∧ u.regs = s.regs ∧ (∀ q, q ≠ p → portOf u q = portOf s q) ∧
        ∀ c, c < 8 → if bfld b 4 c 1 = 1 then
            (mapGet (portOf u p).paused c).map (·.until_) = some ((s.time + pauseCycles (num b (8 + 2 * c) 2)) % 2 ^ 64)
          else mapGet (portOf u p).paused c = mapGet (portOf s p).paused c) ∧
    (b.length = 64 → bfld b 0 0 4 = 2 → (portOf s p).swap = none →
      ∃ u, exec (.swapReq p b) s = .next u ∧ u.regs = s.regs ∧ (∀ q, q ≠ p → portOf u q = portOf s q) ∧
        (portOf u p).lcf = (portOf s p).lcf ++ [mkSwap s p 3 (bfld b 0x18 0 4) 0 (num b 0x1C 4)] ∧
        (portOf u p).swap = if getB s (rFlPort p) fFlPortSpareIn || isRing p then none
          else some ⟨bfld b 0x18 0 4, num b 0x1C 4, false, true, s.time, decide (bfld b 0x18 4 1 = 1)⟩) ∧
    (b.length = 64 → bfld b 0 0 4 = 3 → ∀ w, (portOf s p).swap = some w → w.ours = true → w.lane = bfld b 0x18 0 4 →
      w.block = num b 0x1C 4 →
      exec (.swapAck p b) s = .next (updPort s p fun x => { x with swap := some { w with acked := true } })) ∧
    exec (.helloSend p) s = .next (updPort s p fun x => { x with lcf := x.lcf ++ [mkLcf s p 0] })

/-- Pause timers (R303, R305, R306): a `PAUSE` is repeated while the fill stays above `LO`; a paused class resumes when
its time has run out; the watchdog reports a class paused for too long, once. The spare lane (R301, R302): once the
named marker has come an agreed swap puts the spare in the place of its lane, whose physical lane is recorded as retired
when both directions move (R301), and else stays in use for what this node sends and keeps its bit of the map (log entry
179, which reads that from `BOTH` of Table 10.3); a swap that was not agreed within 10 µs ends with `TIMEOUT`. -/
def Obligations.PauseTimersAndLaneSwapsEnd : Prop :=
  (∀ (p tc : Nat) (s : State), awake s = true →
    let time := getF s rFlControl fFlControlPauseTime
    let limit := 1024 * getF s rFlControl fFlControlPauseWatchdog
    (∀ t, mapGet (portOf s p).sent tc = some t → time ≠ 0 → regionLo s p tc < regionFill s p tc →
      cyclesNs (16 * time) ≤ elapsed s t →
      exec (.pauseRepeat p tc) s = .next (sendPause (updPort s p fun q => { q with sent := mapPut q.sent tc s.time }) p [tc])) ∧
    (∀ x, mapGet (portOf s p).paused tc = some x → reached s x.until_ = true →
      exec (.pauseExpiry p tc) s = .next (updPort s p fun q =>
        { q with paused := mapDel q.paused tc, stalled := q.stalled.filter (· ≠ tc) })) ∧
    (∀ x, mapGet (portOf s p).paused tc = some x → limit ≠ 0 → limit < elapsed s x.since → (portOf s p).stalled.contains tc = false →
      exec (.pauseWatchdog p tc) s = .next (updPort (tally (raise1 s (17 + p) fFlPortEventPauseStall) (288 + p) (16 * 256)) p
        fun q => { q with stalled := q.stalled ++ [tc] }))) ∧
  (∀ (p block : Nat) (s : State) (w : Swap), awake s = true → p < 16 → w.lane < 16 → (portOf s p).swap = some w →
    (w.acked = true → w.block = block → markerPassed s p block = true →
      let onto := setFld (getF s (rFlPort p) fFlPortLaneMap) (physLane s p 16) 1 1
      ∃ u, exec (.swapMarker p block) s = .next u ∧ (portOf u p).swap = none ∧
        getB u (rFlPort p) fFlPortSpareIn = true ∧ getF u (rFlPort p) fFlPortSpareFor = w.lane ∧
        (w.both = true → retiredLane u p (physLane s p w.lane) = true ∧
          getF u (rFlPort p) fFlPortLaneMap = setFld onto (physLane s p w.lane) 1 0 % 2 ^ 17) ∧
        (w.both = false → u.tn.lanes = s.tn.lanes ∧ getF u (rFlPort p) fFlPortLaneMap = onto % 2 ^ 17) ∧
        (w.ours = true → getB u rFlSwap fFlSwapBusy = false ∧ getF u rFlSwap fFlSwapStatus = stOk)) ∧
    (w.acked = false → 9400 ≤ elapsed s w.start →
      let u := updPort (raise1 s (17 + p) fFlPortEventSwapFail) p fun q => { q with swap := none }
      exec (.swapTimeout p) s = .next (if w.ours = true then endSwap u stTimeout else u)))

/-- Training and faults of a port (R297, R298, R300): a port whose lanes suffice comes up over them; one that is down
trains again after 1 ms; an up port whose partner trains, or that loses a lane in use, retrains, and so does one whose
lane exceeded the limit of uncorrected codewords in a period. Joining and leaving the board ring (R312, R313). -/
def Obligations.PortsTrainJoinAndLeave : Prop :=
  (∀ (p : Nat) (s : State), awake s = true →
    (∀ (t : Training) (a : TrainedAs), portDisabled s p = false → portState s p = 3 ∨ portState s p = 5 →
      trainAs (noteAttempt s p) p t.lanes = some a → a.spare = none →
      ∃ u, exec (.portTrained p t) s = .next (checkSuspend u p) ∧ portState u p = 4 ∧ (portOf u p).trained = t.lanes.map (·.1) ∧
        (portOf u p).since = s.time ∧ (portOf u p).block = t.block % 2 ^ 32) ∧
    (∀ t : Training, portDisabled s p = false → portState s p = 3 ∨ portState s p = 5 → trainAs (noteAttempt s p) p t.lanes = none →
      ∃ u, exec (.portTrained p t) s = .next u ∧ portState u p = 1 ∧ (portOf u p).attempt = s.time ∧
        getF u (rFlPort p) fFlPortLaneMap = 0 ∧ getF u (rFlPort p) fFlPortWidth = 0) ∧
    (portState s p = 1 → portDisabled s p = false → 940000 ≤ elapsed s (portOf s p).attempt →
      (isRing p = false ∨ getB s rFlRingStatus fFlRingStatusAttached = true) →
      exec (.portTrainRetry p) s = .next (setPortState s p 3)) ∧
    (portUp s p = true → exec (.laneFault p none) s = .next (retrainOver s p [])) ∧
    (∀ l, portUp s p = true → laneInUse s p l = true → exec (.laneFault p (some l)) s = .next (retrainOver s p [l])) ∧
    (∀ k u : List Nat, portUp s p = true →
      ∃ v, (∀ o, (∀ l, o ≠ laneReg p l) → regGet v o = regGet s o) ∧ v.fl = s.fl ∧
        exec (.fecPeriod p k u) s = .next (
          let bad := (List.range (lanesOf p)).filter fun l =>
            laneInUse v p l && decide (getF v rFlControl fFlControlUncorrLimit < u.getD l 0)
          if bad = [] then v else retrainOver v p bad))) ∧
  (∀ (p : Nat) (s : State), awake s = true → 16 ≤ p →
    (getB s rFlRingControl fFlRingControlJoinEn = true → portState s p = 2 →
      let heard := setB s rFlRingStatus (if p = 16 then fFlRingStatusListenedE else fFlRingStatusListenedW) true
      exec (.listenDone p) s = .next (attachIfListened heard) ∧
      (1024 * getF s rFlRingControl fFlRingControlListenLimit ≤ elapsed s (portOf s p).since →
        exec (.listenLimitExpiry p false) s = .next (attachIfListened heard) ∧
        exec (.listenLimitExpiry p true) s =
          .next (updPort (raise1 s (17 + p) fFlPortEventRetrain) p fun q => { q with since := s.time }))) ∧
    (getF s rFlRingControl fFlRingControlDetachLimit ≠ 0 → getB s rFlRingStatus fFlRingStatusAttached = true →
      portState s p = 1 ∨ portState s p = 3 ∨ portState s p = 5 →
      1024 * getF s rFlRingControl fFlRingControlDetachLimit < elapsed s (portOf s p).since →
      exec (.detachLimitExpiry p) s = .next (startListening (releaseRing (raise1 s (17 + p) fFlPortEventDetach)))))

/-- A frame arrives at an up port (R294, R295, R303, R308, R386): a bad one is discarded and counted, a link control
frame acts, a fenced port drops what is no management datagram of TC7, and on a fabric port the packet of another node
enters its class region when it is not metered. A port that is free starts its next frame (R354, R355, R386): the oldest
link control frame first, else the head frame of the highest eligible class, else the port idles. -/
def Obligations.FramesArriveAndStart : Prop :=
  (∀ (p : Nat) (f : Bytes) (s : State), awake s = true → portUp s p = true → discarding s = false →
    let tc := bfld f 0 0 3
    let pkt := slice f 8 (f.length - 12)
    (frameOk f = false → exec (.frameReceive p f) s = .next (tally (raise1 s (17 + p) fFlPortEventCrcDrop) (288 + p) (4 * 256))) ∧
    (frameOk f = true → bfld f 0 3 1 = 1 → exec (.frameReceive p f) s = .next (takeLcf s p pkt)) ∧
    (frameOk f = true → bfld f 0 3 1 = 0 → fenceStops s p tc pkt = true →
      exec (.frameReceive p f) s = .next (raise1 s 55 fCfEventFenceDrop)) ∧
    (frameOk f = true → bfld f 0 3 1 = 0 → fenceStops s p tc pkt = false → 16 ≤ p → bfld f 0 4 12 ≠ nodeId s →
      exec (.frameReceive p f) s = .next (forwardFrame s p tc (bfld f 0 4 12) (bfld f 0 16 6) pkt)) ∧
    (frameOk f = true → bfld f 0 3 1 = 0 → fenceStops s p tc pkt = false → p < 16 → (hdrOf pkt).dst ≠ nodeId s →
      exec (.frameReceive p f) s = .next (enterRegion s p ⟨tc, 0, 0, pkt, none, []⟩).2) ∧
    (frameOk f = true → bfld f 0 3 1 = 0 → fenceStops s p tc pkt = false →
      (16 ≤ p ∧ bfld f 0 4 12 = nodeId s ∨ p < 16 ∧ (hdrOf pkt).dst = nodeId s) →
      exec (.frameReceive p f) s = .next (match meter s p tc pkt with
        | (true, u) => (enterRegion u p ⟨tc, 0, 0, pkt, none, []⟩).2
        | (false, u) => u))) ∧
  (∀ (p : Nat) (s : State), awake s = true → portUp s p = true →
    (∀ b rest, (portOf s p).lcf = b :: rest →
      exec (.frameStart p) s = .next (emit (updPort s p fun q => { q with lcf := rest }) (.frame p (mkFrame 7 1 0 0 b)))) ∧
    (∀ c f, (portOf s p).lcf = [] → nextClass s p = some (c, f) →
      exec (.frameStart p) s = .next (if c = 7 then fenceAfter (startFrame s p c f) p f.pkt else startFrame s p c f)) ∧
    ((portOf s p).lcf = [] → nextClass s p = none → exec (.frameStart p) s = .next (emit s (.idle p))))

/-- Gate lists and the meter period (R358, R360 to R362, R369): a pending list is in force from its time, and is
reported; on a port that is up, a list whose windows do not fit its width is suspended, and a port suspended already is
not noticed again (both log entry 204); a suspension ends at a cycle boundary at which every window fits; a new 1 ms
period of the local counter forgets the drops of the last. -/
def Obligations.GateListsTakeEffect : Prop :=
  ∀ (p : Nat) (s : State), awake s = true →
    (∀ ins, mapGet s.es.pending p = some ins → reached s ins.at_ = true →
      let u := raise1 (setB (setOper s p ins) (rEsPort p) fEsPortPending false) (36 + p) fEsPortEventInstalled
      exec (.gateInstallEffect p) s = .next (if portUp s p = false then u
        else if windowsFit u p (portRate u p) ins.entries = true then
        setB u (rEsPort p) fEsPortSuspended false
        else if suspended u p = true then u else checkSuspend u p)) ∧
    (portUp s p = true → suspended s p = true → gatesFree (operList s p).1 = true ∨ phaseAt (operList s p) s.time = 0 →
      windowsFit s p (portRate s p) (operList s p).1 = true →
      ∃ u, exec (.gateEntryChange p) s = .next u ∧ suspended u p = false ∧ u.es = s.es) ∧
    exec .connDropPeriod s = .next (if s.im.period = s.time / 940000 then s
      else { s with im := { s.im with drops := [], period := s.time / 940000 } })




/-! ## Registers and the window -/

/-- A write of BAR0 that acts does what its register says with the bits it names (R7, R497): the RW and RW1C fields take
them; a register whose write is only stored, under the condition its rule gives (R23, R84, R224, R232), then holds them,
and no other register changes; the offset decides which, whatever row names it. -/
def Obligations.RegisterWritesAct : Prop :=
  ∀ (a : Access) (r : Reached) (s : State), Reaches s a r →
    let w := regWrite s a r
    exec (.registerWrite a) s = .next (applyWrite none s w) ∧
    (storesOnly s w = true →
      ∃ t, exec (.registerWrite a) s = .next t ∧
        regGet t r.off = (if w.new = w.old then regGet s r.off else merge r.reg.fields (regGet s r.off) w.mask w.data % 2 ^ 64) ∧
        ∀ o, o ≠ r.off → regGet t o = regGet s o)

/-- Accesses of an unsupported size or alignment (R486): a write changes nothing and a read returns zeros; either is
noted. A read of `TM_STATUS` of Function 1 returns it and clears `PLAN_LOCKED` (R241). -/
def Obligations.ReadsAndBadSizes : Prop :=
  ∀ (a : Access) (s : State), answers s a.fn = true → wakeLogic s = false → blockAnswers s a.off = true →
    (sizeOk a.off a.size = false →
      exec (.badSizeAccess a true) s = .next (badAccess s a.fn) ∧
      exec (.badSizeAccess a false) s = .next (badAccess (emit s (.readData (zeros a.size))) a.fn)) ∧
    (sizeOk a.off a.size = true → a.fn = 1 → (reachedBy a.off a.size).any (fun r => r.off == rTmStatus) = true →
      ∃ t, exec (.tmStatusRead a) s = .next t ∧ t.out = s.out ++ [.readData (readBytes s 1 a.off a.size)] ∧
        getB t rTmStatus fTmStatusPlanLocked = false ∧ ∀ o, o ≠ rTmStatus → regGet t o = regGet s o)

/-- The settings with a condition (R162, R179, R241, R273, R282, R466, R480): each takes the value written where the
rules let it; a permit limit above the maximum becomes the maximum; the first write of `CX_TABLE_BASE` after a reset
starts the zeroing of the table at the base written. -/
def Obligations.GuardedSettingsAreWritten : Prop :=
  ∀ (a : Access) (r : Reached) (s : State), Reaches s a r →
    let w := regWrite s a r
    (r.off = rBbNarrowShare → w.get fBbNarrowShareShare ≤ 16 → anyOpen s = false →
      2081 * (remaps s).length ≤ reserveStripes (w.get fBbNarrowShareShare) →
      exec (.bbNarrowShareWrite a) s = .next (storeReg s w)) ∧
    (∀ b, b < 8 → r.off = rBbPermitLimit b →
      exec (.bbPermitLimitWrite a) s = .next (if w.get fBbPermitLimitLimit ≤ getF s (rBbStatus b) fBbStatusPermitMax then
        storeReg s w else setF (storeReg s w) (rBbPermitLimit b) fBbPermitLimitLimit (getF s (rBbStatus b) fBbStatusPermitMax))) ∧
    (∀ cls k, cls < 256 → k < 16 → r.off = rTmPlan cls k → planOk w.new = true →
      (s.cx.open_.any fun e => e.2.plan == cls) = false → exec (.tmPlanWrite a) s = .next (storeReg s w)) ∧
    (r.off = rPfLogHead → headOk s (w.get fPfLogHeadPfLogHead) = true → exec (.pfLogHeadWrite a) s = .next (storeReg s w)) ∧
    (r.off = rPwCap → 600 ≤ w.get fPwCapWatts → w.get fPwCapWatts ≤ 1650 → exec (.pwCapWrite a) s = .next (storeReg s w)) ∧
    (r.off = rCxTableBase → anyOpen s = false →
      let u := { storeReg s w with cx := { (storeReg s w).cx with written := true } }
      exec (.cxTableBaseWrite a) s = .next (if s.cx.written = true ∨ tableReady s = true then u else zeroTable u))

/-- The settings of the links, the shapers and the meter (R299, R303, R307, R356, R357, R360, R367, R370): a port
enabled wakes and one disabled drops; region sizes and marks that keep their rule act at once; an install takes the
administrative list; a shaper keeps its credit under its new cap; the buckets of a profile keep theirs too and are
clipped (R370), each brought up to date at the rate it had before the profile changes (log entry 83). -/
def Obligations.LinkSettingsAct : Prop :=
  ∀ (a : Access) (r : Reached) (p c : Nat) (s : State), Reaches s a r → p < 18 → c < 8 →
    let w := regWrite s a r
    (r.off = rFlPort p → w.get fFlPortEnable = 1 → fld w.old 3 1 = 0 → elecFenced (storeReg s w) p = false →
      exec (.flPortEnableWrite a) s = .next (wakePort (storeReg s w) p)) ∧
    (r.off = rFlPort p → w.get fFlPortEnable = 0 → fld w.old 3 1 = 1 → portState (storeReg s w) p ≠ 0 →
      exec (.flPortEnableWrite a) s = .next (portDown (storeReg s w) p 0)) ∧
    (r.off = rFlPort p + 0x10 + 8 * c → portState s p ≤ 1 → w.get fFlPortClassLo < w.get fFlPortClassHi →
      w.get fFlPortClassHi ≤ w.get fFlPortClassSize →
      sizesWith s p c (w.get fFlPortClassSize) ≤ (if isRing p then 256 else 1024) →
      exec (.flPortClassWrite a) s = .next (marksChanged (storeReg s w) p c)) ∧
    (r.off = rEsPort p → w.order fEsPortInstall = 1 → exec (.gateInstall a) s = .next (installGates (storeReg s w) p)) ∧
    (r.off = rEsShaper p c → fld w.old fEsShaperShapeEn.lo 1 = 1 → w.get fEsShaperShapeEn = 1 →
      exec (.esShaperWrite a) s = .next (setShaperCredit (storeReg s w) p c
        (min (shaperCredit s p c) ((65536 * (1024 * shaperCap (storeReg s w) p c) : Nat) : Int)))) ∧
    (∀ i, i < 64 → r.off = rImProfile i c →
      (w.get fImProfilePoliceEn = 0 ∨ w.get fImProfileRate = 0 ∨ 6 ≤ w.get fImProfileBurst) →
      exec (.imProfileWrite a) s = .next (settleProfile s i c fun u => storeReg u w))

/-- The registers that give orders (R275 to R277, R280, R301, R302, R414, R473, R474, R492, R493): each order is carried
out with the register as written. -/
def Obligations.OrdersAreCarriedOut : Prop :=
  ∀ (a : Access) (r : Reached) (s : State), Reaches s a r →
    let w := regWrite s a r
    (∀ b, r.off = rFlSwap → w.order fFlSwapGo = 1 → getB (storeReg s w) rFlSwap fFlSwapBusy = false →
      exec (.flSwapGo a b) s = .next (startSwap (storeReg s w) b)) ∧
    (r.off = rPfPass → w.get fPfPassKind ≤ 4 → w.order fPfPassStart = 1 → w.order fPfPassAbort = 0 → s.pf.pass = none →
      a.val.toNat / 64 % 2 = 1 → exec (.passStart a) s = .next (startPass (storeReg s w))) ∧
    (r.off = rPfPass → w.get fPfPassKind ≤ 4 → w.order fPfPassStart = 0 → w.order fPfPassAbort = 1 →
      a.val.toNat / 128 % 2 = 1 → exec (.passAbort a) s = .next (abortPass (storeReg s w))) ∧
    (r.off = rPfTestTarget → w.order fPfTestTargetOp = testOp a →
      (testOp a = 1 → exec (.splitWrite a) s = .next (startTest (storeReg s w) 1)) ∧
      (testOp a = 2 → exec (.testRead a) s = .next (startTest (storeReg s w) 2))) ∧
    (∀ src e, src < 64 → r.off = rGsIntEnable1 src → eventReg 1 src = some e →
      exec (.gsIntEnableWrite a) s = .next (
        if Nat.land (regGet (storeReg s w) e) (Nat.land (w.get fGsIntEnable1Mask) (2 ^ 32 - 1 - fld w.old 0 32)) = 0 then
          storeReg s w else requestEvent (storeReg s w) 1)) ∧
    (∀ n, n < 64 → r.off = rQeRingCtrl1 n → ringMode s 1 n = 0 → 4 ≤ w.get fQeRingCtrl1Log2 → w.get fQeRingCtrl1Log2 ≤ 16 →
      w.touches fQeRingCtrl1Enable = true →
      exec (.ringEnableWrite a) s =
        .next (ringEnable (storeReg s (w.keep fQeRingCtrl1Enable)) 1 n (decide (w.get fQeRingCtrl1Enable = 1)))) ∧
    (r.off = rGsControl → w.order fGsControlNodeReset = 1 → exec (.nodeReset a) s = .next (requestReset .N s)) ∧
    (r.off = rPwState → a.off = rPwState → w.covers fPwStateRequest = true → w.order fPwStateRequest = a.val.toNat % 4 →
      (a.val.toNat % 4 = 2 → exec (.retainRequest a) s = .next (requestRetain s)) ∧
      (a.val.toNat % 4 = 1 → exec (.runRequest a) s = .next (requestRun s)))

/-- The node-memory window (R24, R184, R215, R258, R260): a read returns the bytes of node memory that lie in no table
and are backed, and zeros for the bytes of a table (R24), at once or when no locked slot lies in it any more, and a
write stores the bytes that lie in no table and no loaded model; a failing access of either is logged once (log entry
89). -/
def Obligations.WindowReachesMemory : Prop :=
  ∀ (off : Nat) (data : Bytes) (s : State), windowOpen s = true → off + data.length ≤ 2 ^ 34 →
    let n := windowNpa s off
    (lockedIn s n data.length = [] →
      exec (.bar4Read off data.length) s =
        .next (noteBad (emit s (.readData ((List.range data.length).map fun k =>
          if inTables s (n + k) then 0 else if reachable? s (n + k) then readByte s (n + k) else 0xFF))) n data.length)) ∧
    (lockedIn s n data.length ≠ [] →
      ∃ t, exec (.bar4Read off data.length) s = .next t ∧ t.bb.hostReads = s.bb.hostReads ++ [(n, data.length)] ∧ t.out = s.out) ∧
    ∃ t, exec (.bar4Write off data) s = .next (noteBad t n data.length) ∧ t.mem = (putWindows s n data).mem ∧
      ((∀ k, k < data.length → inModel s (n + k) = false) → t = putWindows s n data) ∧
      (Memory.wf s.mem = true → ∀ b, (∀ k, k < data.length → phys s b ≠ phys s (n + k)) →
        memGet t.mem (phys s b) = memGet s.mem (phys s b))

/-! ## Host queues and interrupts -/

/-- A doorbell write (R410): a tail or a consumer index within the ring is taken, and one that is not sets
`DOORBELL_BAD`; in Retain the wake logic stores the write (R474). -/
def Obligations.DoorbellsAct : Prop :=
  ∀ (fn ring v : Nat) (s : State), answers s fn = true → s.power.restricted = false → ring < ringsOf fn → v < 2 ^ 32 →
    (wakeLogic s = true →
      exec (.sqDoorbell fn ring v) s =
        .next { s with power := { s.power with doorbells := s.power.doorbells ++ [(fn, 4096 * ring, v)] } } ∧
      exec (.cqDoorbell fn ring v) s =
        .next { s with power := { s.power with doorbells := s.power.doorbells ++ [(fn, 4096 * ring + 4, v)] } }) ∧
    (wakeLogic s = false → v < ringSize s fn ring → ringMode s fn ring ≠ 0 → ringMode s fn ring ≠ 3 →
      exec (.sqDoorbell fn ring v) s = .next (setF s (ringIndex fn ring) fQeRingIndex1SqTail v) ∧
      ((v + ringSize s fn ring - cqConsumer s fn ring) % ringSize s fn ring ≤
        (cqProducer s fn ring + ringSize s fn ring - cqConsumer s fn ring) % ringSize s fn ring →
        exec (.cqDoorbell fn ring v) s = .next (setF s (ringIndex fn ring) fQeRingIndex1CqConsumer v))) ∧
    (wakeLogic s = false → ringSize s fn ring ≤ v ∨ ringMode s fn ring = 0 ∨ ringMode s fn ring = 3 →
      exec (.sqDoorbell fn ring v) s = .next (raise s fn 1 fQeEvent1DoorbellBad.lo) ∧
      exec (.cqDoorbell fn ring v) s = .next (raise s fn 1 fQeEvent1DoorbellBad.lo))

/-- Descriptors and completions (R409, R412, R413, R415, R416): a fetch that may happen advances the head, reserves an
entry and holds the descriptor, and one that fails stops the ring; the oldest completion of a ring is written at its
producer, which advances, and its reservation ends; a write that the host refuses sets `DMA_ERROR`, and the producer
advances all the same (log entry 97). -/
def Obligations.RingsMoveEntries : Prop :=
  ∀ (fn ring : Nat) (s : State), awake s = true →
    (∀ d, mayFetch s fn ring = true →
      let u := setF s (ringIndex fn ring) fQeRingIndex1SqHead ((sqHead s fn ring + 1) % ringSize s fn ring)
      let u := setF u (ringState fn ring) fQeRingState1Reserved (reserved u fn ring + 1)
      let u := { u with qe := { s.qe with fetched := s.qe.fetched ++ [(s.qe.resets1, ⟨fn, ring, padTo 64 d, .clean⟩)] } }
      exec (.descriptorFetch fn ring (.data d)) s = .next (sweepUnknown fn ring (s.qe.fetched.length + 1) u)) ∧
    (mayFetch s fn ring = true →
      exec (.descriptorFetch fn ring .error) s =
        .next (raise (setF s (ringState fn ring) fQeRingState1State 3) fn 1 fQeEvent1FetchError.lo)) ∧
    (∀ c, nextEntry s fn ring = some c → c.notice = false → ringMode s fn ring ≠ 0 →
      let u := { s with qe := { s.qe with finished := removeFirst (· == c) s.qe.finished } }
      let u := advanceProducer (setF u (ringState fn ring) fQeRingState1Reserved (reserved s fn ring - 1)) fn ring
      let at_ := cqBase s fn ring + 32 * cqProducer s fn ring
      exec (.completionWrite fn ring true) s =
        .next (drainedRing (coalesceEntry (emit u (.hostWrite at_ (cqEntry s c))) fn ring) fn ring) ∧
      exec (.completionWrite fn ring false) s = .next (drainedRing (raise u fn 1 fQeEvent1DmaError.lo) fn ring))

/-- Interrupt messages (R425, R426): a ring's message is sent when its coalescing time has passed, an event message when
its hold-off has, and an unmasked vector sends the message that its pending bit holds. -/
def Obligations.InterruptsAreSent : Prop :=
  ∀ (fn : Nat) (s : State), awake s = true →
    (∀ ring k, mapGet s.qe.coalesce (coalesceKey fn ring) = some k →
      1024 * getF s (ringCtrl fn ring) fQeRingCtrl1CoalesceTime ≤ elapsed s k.first →
      exec (.msixCoalesceTimer fn ring) s = .next (sendRing s fn ring)) ∧
    (∀ t, eventMsg s fn = ⟨some t, true⟩ → holdoff s fn ≤ elapsed s t →
      exec (.eventHoldoffTimer fn) s = .next (sendEventNow s fn)) ∧
    (∀ vec, vec < vectorsOf fn → answers s fn = true →
      ∃ u, exec (.msixUnmask fn vec) s = .next u ∧ 256 * fn + vec ∈ u.qe.unmasked ∧ u.regs = s.regs ∧
        (256 * fn + vec ∈ s.qe.pba → u.out = s.out ++ [msixMsg s fn vec] ∧ u.qe.pba = s.qe.pba.erase (256 * fn + vec)) ∧
        (256 * fn + vec ∉ s.qe.pba → u.out = s.out ∧ u.qe.pba = s.qe.pba))

/-! ## Power and resets -/

/-- Power-on and the resets (R428, R435, R459, R461, R477, R478, R479): power-on begins class C with the local counter
at 0 and no memory written, also in a module that is on with no start-up running (log entry 66); a warm reset and a
function-level reset begin when none runs; until the functions have opened a function-level reset is answered with a
retry. Start-up and the resets end (R428, R444, R477, R478, R488, R492): each class by its own rules, and then what
waited for it acts; a start-up that has done its work opens the functions when `PERST_N` rises. -/
def Obligations.ResetsBeginAndEnd : Prop :=
  (∀ s : State,
    (s.power.supply ≠ .tripped → s.power.supply ≠ .overvoltage →
      ∃ t, exec .powerOn s = .next t ∧ t.power.running = some .C ∧ t.power.supply = .on ∧ t.power.opened = false ∧ t.time = 0 ∧
        t.mem = [] ∧ t.power.perst = s.power.perst ∧ t.regs = restoreRegs .C (resetBlocks .C (releaseRing s)).regs) ∧
    (powered s = true → s.power.running = none →
      ∃ t, exec (.warmReset true) s = .next t ∧ exec (.warmReset false) { s with power := { s.power with perst := false } } =
          .next t ∧ t.power.running = some .W ∧ t.power.opened = false ∧ t.power.perst = false) ∧
    (awake s = true → s.power.opened = false → exec .functionLevelReset s = .next (emit s .configRetry)) ∧
    (awake s = true → s.power.opened = true → wakeLogic s = false → s.power.running = none →
      ∃ t, exec .functionLevelReset s = .next t ∧ t.power.running = some .F ∧ t.power.f1Closed = true ∧
        t.qe.resets1 = s.qe.resets1 + 1 ∧ (∀ c ∈ t.qe.finished, c.ref.fn ≠ 1) ∧ t.mem = s.mem ∧ t.cx = s.cx)) ∧
  (∀ (r : StartReport) (s : State), powered s = true →
    (s.power.running = some .C → s.power.heldReport = none → exec (.startUpEnd r) s = .next (afterReset (endCold .C r s))) ∧
    (s.power.running = some .W → s.power.heldReport = none → exec (.startUpEnd r) s = .next (afterReset (endCold .W r s))) ∧
    (s.power.running = some .H → exec (.startUpEnd r) s = .next (afterReset (endH r s))) ∧
    (s.power.running = some .N → exec (.startUpEnd r) s = .next (afterReset (endN r.linksDown s))) ∧
    (s.power.running = some .F → exec (.startUpEnd r) s = .next (afterReset (endF s))) ∧
    (∀ c, s.power.running = some c → s.power.heldReport ≠ none →
      exec .perstNRise s = .next (afterReset (openUp c { s with power := { s.power with perst := true } }))))

/-- Input power, trips and clocks (R449, R459, R461, R468, R471): above 61 V, on a brownout, at a trip mark and without
clocks the module goes Off with its cause recorded; back at 60 V or below, and above 48 V, it starts as at power-on; a
trip is released by hand. -/
def Obligations.ModuleGoesOff : Prop :=
  ∀ s : State,
    (∀ mv, 61000 < mv → mv ≤ 64000 → powered s = true →
      ∃ t, exec (.overvoltage mv) s = .next t ∧ t.power.supply = .overvoltage ∧ t.power.running = none ∧ t.mem = s.mem) ∧
    (∀ mv, 48000 < mv → mv ≤ 60000 → s.power.supply = .overvoltage →
      ∃ t, exec (.overvoltage mv) s = .next t ∧ t.power.supply = .on ∧ t.power.running = some .C ∧ t.time = 0) ∧
    (∀ mv, mv ≤ 48000 → s.power.supply = .overvoltage →
      exec (.overvoltage mv) s = .next { s with power := { s.power with supply := .off } }) ∧
    (powered s = true →
      (∃ t, exec .brownout s = .next t ∧ t.power.supply = .off ∧ t.tn.offCause = 1 ∧ t.mem = s.mem) ∧
      (∃ t, exec .clockLoss s = .next t ∧ t.power.supply = .off ∧ t.tn.offCause = 3 ∧ t.mem = s.mem) ∧
      ∀ k c, k < 16 → tripMark s k ≠ 0 → tripMark s k ≤ c →
        ∃ t, exec (.thermalTrip k c) s = .next t ∧ t.power.supply = .tripped ∧ t.tn.offCause = 2 ∧ .thermtrip true ∈ t.out) ∧
    (s.power.supply = .tripped →
      exec .thermtripRelease s = .next (emit { s with power := { s.power with supply := .off } } (.thermtrip false)))

/-- The absolute maximum of the input is 64 V: above it the spec gives no effect but damage (R459; log entry of the
stop). -/
def Obligations.InputAboveTheMaximumStops : Prop :=
  ∀ (mv : Nat) (s : State), 64000 < mv → exec (.overvoltage mv) s = .fault .damaged

/-- Throttle steps (R464 to R468): once at each boundary of the 1 ms grid, `PW_POWER` takes the measured power, the new
step, and the sub-steps that the cap and the hottest sensor ask for; a sensor that the boundary reads at its trip mark
or above holds the module Off. -/
def Obligations.ThrottleFollowsTheGrid : Prop :=
  ∀ (watts : Nat) (celsius : List Nat) (s : State), awake s = true → s.time / msCycles ≠ s.power.boundary →
    let u := readTemps celsius { s with power := { s.power with boundary := s.time / msCycles } }
    let cap := getF u rPwCap fPwCapWatts
    let c := subStep (getF u rPwPower fPwPowerCapStep) s.power.capLow (capRise watts cap) (decide (100 * watts < 95 * cap))
    let h := subStep (getF u rPwPower fPwPowerThermStep) s.power.thermLow (if 0 ≤ hottest s celsius then 1 else 0)
      (decide (hottest s celsius < -(s.power.hyst : Int)))
    ∃ t, t.power.boundary = s.time / msCycles ∧ t.power.capLow = c.2 ∧ t.power.thermLow = h.2 ∧
      regGet t rPwPower = at_ 0 11 (min 2047 watts) + at_ 16 3 (max (max c.1 h.1) (getF u rPwCap fPwCapMinStep)) +
        at_ 19 3 c.1 + at_ 22 3 h.1 ∧
      (anyTrip s celsius = false → exec (.throttleBoundary watts celsius) s = .next t) ∧
      (anyTrip s celsius = true → exec (.throttleBoundary watts celsius) s = .next (brownOut 2 .tripped (emit t (.thermtrip true))))

/-- Retain (R473 to R475): each step of the entry begins when the one before has ended; in Retain the wake logic answers
with `PW_STATE` and all ones elsewhere, stores doorbells and takes a request for Run; `WAKE` begins the exit, and its
end is Run, with the links that did not retrain out of service (R161, R191, R231), or a start as at class W when the
measurements differ. -/
def Obligations.RetainIsEnteredAndLeft : Prop :=
  ∀ s : State, powered s = true →
    (s.power.running = none →
      (s.power.retain = .entering 1 → attentionDone s = true →
        exec .retainEntryProgress s = .next (setRetain (retainHandovers (retainJobs s)) (.entering 2))) ∧
      (s.power.retain = .entering 2 → jobsSaved s = true →
        exec .retainEntryProgress s = .next (setRetain (retainMoves s) (.entering 3))) ∧
      (s.power.retain = .entering 3 → movesDone s = true →
        exec .retainEntryProgress s = .next (setRetain { s with tm := { s.tm with linkLow := true } } (.entering 4))) ∧
      (s.power.retain = .entering 4 → banksIdle s = true → exec .retainEntryProgress s = .next (retainSleep s))) ∧
    (s.power.retain = .inside →
      exec .wake s = .next (setRetain s .leaving) ∧
      (answers s 0 = true →
        (∀ n, exec (.retainHostAccess (.read 0 0 rPwState n)) s = .next (emit s (.readData (natLe n (pwStateView s))))) ∧
        (∀ fn bar off n, ¬(fn = 0 ∧ bar = 0 ∧ off = rPwState) →
          exec (.retainHostAccess (.read fn bar off n)) s = .next (emit s (.readData (List.replicate n 0xFF)))) ∧
        (∀ n (v : Word), v.toNat % 4 = 1 → exec (.retainHostAccess (.write 0 0 rPwState n v)) s = .next (setRetain s .leaving)) ∧
        ∀ fn off (v : Word), msixAt fn off = none →
          exec (.retainHostAccess (.write fn 2 off 4 v)) s = .next (doorbellRow s fn off (v.toNat % 2 ^ 32)))) ∧
    (s.power.retain = .leaving →
      ∀ bbds tiers, exec (.retainExitEnd ⟨true, bbds, tiers⟩) s = .next (leaveRetain bbds tiers s) ∧
        exec (.retainExitEnd ⟨false, bbds, tiers⟩) s = .next (requestReset .W s))


/-! ## Contexts, maps and shard sets -/

/-- `CX_OPEN` on a context that is `OPEN` (R31): `OK` without a change when every supplied field equals the stored one,
and otherwise `FORMAT`, with no more than a fill of the Map cache. -/
def Obligations.RepeatedOpenIsHarmless : Prop :=
  ∀ (c : Cmd) (s : State), tableReady s = true → Runs s 0x01 c → auxState s (cmdIndex c) = 1 → ctxGood s (cmdIndex c) = true →
    bbdUp s (bbdAt s (ctxAddr s (cmdIndex c))) = true →
    let same := sameSupplied (supplied c) (ctxBytes s (cmdIndex c))
    Ends (.cxOpen c) s c (if same = true then stOk else stFormat) 0 0 0 0
      fun t => t.cx = s.cx ∧ { t.pm with cache := s.pm.cache } = s.pm ∧ (same = true → t.pm = s.pm) ∧ t.mem = s.mem ∧
        t.cf = (begun s c).cf

/-- The context commands (R24, R28, R32 to R35, R42, R43, R200): an open of a free index with room opens it; a close of
an open context, a park and a reopen begin; each of them ends at once where the state of the context says so; a query
writes the descriptor to its buffer; a shard set is written whole, or emptied by W = 0, and waits for no table. -/
def Obligations.ContextCommandsAct : Prop :=
  ∀ (c : Cmd) (s : State),
    let i := cmdIndex c
    let u := fillCtx (begun s c) i
    let r := refOf s c
    (tableReady s = true → ctxGood s i = true → bbdUp s (bbdAt s (ctxAddr s i)) = true →
      (Runs s 0x01 c → auxState s i = 0 → suppliedOk (supplied c) = true → suppliedSetOk s (supplied c) = true →
        openRegionsOk s = true →
        exec (.cxOpen c) s = .next (swept c (finish (openCtx u i (supplied c)).2 r (openCtx u i (supplied c)).1))) ∧
      (Runs s 0x02 c → auxState s i = 0 → Ends (.cxClose c) s c stNoContext 0 0 0 0 fun t => t.cx = s.cx ∧ t.mem = s.mem) ∧
      (Runs s 0x02 c → auxState s i ≠ 0 → auxState s i ≠ 5 → exec (.cxClose c) s = .next (swept c (closePoint u i true [r]))) ∧
      (Runs s 0x02 c → auxState s i = 5 → exec (.cxClose c) s = .next (swept c (joinOp u i r))) ∧
      (Runs s 0x03 c → auxState s i = 3 → Ends (.cxPark c) s c stOk 0 0 0 0 fun t => t.cx = s.cx ∧ t.mem = s.mem) ∧
      (Runs s 0x03 c → auxState s i = 1 → noLower u (ctxBytes s i) = false →
        exec (.cxPark c) s = .next (swept c (
          let v := setCtxState (endCtxOp u i stAborted) i 2
          queueParks (setCtxOp v i (some ⟨.park, [r], 0, none⟩)) i (ctxBytes s i) (parkPages v i (ctxBytes s i))))) ∧
      (Runs s 0x04 c → auxState s i = 1 → Ends (.cxReopen c) s c stOk 0 0 0 0 fun t => t.cx = s.cx ∧ t.mem = s.mem) ∧
      (Runs s 0x04 c → auxState s i = 3 →
        reopenSlots u i (ctxBytes s i) ≤ quota u (ctxClass s i) 0 - usage u (ctxClass s i) 0 →
        exec (.cxReopen c) s = .next (swept c (
          let v := setCtxState (endCtxOp u i stAborted) i 4
          queueReopens (setCtxOp v i (some ⟨.reopen, [r], 0, none⟩)) i (reopenPages v i (ctxBytes s i))))) ∧
      (Runs s 0x05 c → c.badBuf 128 = false →
        Ends (.cxQuery c true) s c stOk 0 0 0 0 fun t => t.out = (begun s c).out ++ [.hostWrite c.host (ctxBytes s i)] ∧
          t.cx = s.cx ∧ t.mem = s.mem)) ∧
    let w := bfld c.d 8 16 11
    let set := bfld c.d 8 0 12
    let writes (ids : List Nat) (t : State) : Prop :=
      t.mem = (writeSet (begun s c) set ids).mem ∧ t.cx = (writeSet (begun s c) set ids).cx
    (Runs s 0x06 c → w ≤ 1024 → c.badBuf (2 * w) = false → s.cx.open_.any (fun e => e.2.shardSet == set) = false →
      (∀ b : Bytes, (∀ v ∈ idsOf b w, v < 4096) → (idsOf b w).eraseDups.length = (idsOf b w).length →
        Ends (.cxSetShards c (some b)) s c stOk 0 0 0 0 (writes (idsOf b w))) ∧
      (w = 0 → Ends (.cxSetShards c none) s c stOk 0 0 0 0 (writes [])))

/-- What ends an operation on a context (R33 to R35, R480): the zeroing of the table; a close whose requests are done
has the banks release the pages they own (R79), and then frees the context; a park or a reopen that has no page left to
move is done, and goes on while one is left, and a page that stayed behind while its rows filled is moved out of a
parked context (R33); one whose descriptor fails its check stops (R28). The operand shows the lines read for the
descriptor (R269). -/
def Obligations.ContextOperationsEnd : Prop :=
  ∀ (x : CtxRead) (s : State), awake s = true →
    let i := x.ctx
    (s.cx.zeroing = true → exec .cxReady s = .next (setB { s with cx := { s.cx with zeroing := false } } rPwStart fPwStartCxReady true)) ∧
    (∀ a o, mapGet s.cx.open_ i = some a → a.state = 5 → a.op = some o → inFlight s i = 0 →
      let banked := if ctxGood s i = true then (s.pm.grants.filter fun g => g.ctx == i).map (·.handle) else []
      exec (.closeDrainEnd x) s = .next (if banked = [] then closeEnded (finishAll (freeCtx (takeReads s x.reads) i) o.refs stOk 0) i
        else askRelease s banked)) ∧
    (∀ d u, readCtx (takeReads s x.reads) i 2 = .ok (d, u) →
      (auxState s i = 3 → exec (.parkEnd x) s = .next (queueParks u i d (parkLeft u i d))) ∧
      (∀ a o, mapGet s.cx.open_ i = some a → a.op = some o → o.stop = none → opMoves u i = false →
        let parks := parkLeft u i d
        let reopens := reopenPages u i d
        (o.kind = .park → a.state ≠ 3 → lifting u i = false →
          exec (.parkEnd x) s = .next (if parks = [] then endCtxOp (setCtxState u i 3) i stOk else queueParks u i d parks)) ∧
        (o.kind = .reopen →
          exec (.reopenEnd x) s = .next (if reopens = [] then endCtxOp (setCtxState u i 1) i stOk
            else queueReopens u i reopens)))) ∧
    (∀ u, readCtx (takeReads s x.reads) i 2 = .error u →
      (runsOp s i .park = true → exec (.parkEnd x) s = .next (failCtxOp u i .park)) ∧
      (runsOp s i .reopen = true → exec (.reopenEnd x) s = .next (failCtxOp u i .reopen)))

/-- Walker slots, waits for an edit and bank grants (R72, R75, R78, R79): the longest waiting request takes a free
walker slot and a waiting edit is tried again, each counting how long it waited; a bank grants a page to what waits for
it, once its table has room (R182), and its release frees the page once no lock holds it. -/
def Obligations.MapWaitsEnd : Prop :=
  ∀ s : State, awake s = true →
    (∀ o t rest, s.pm.walkWait = (o, t) :: rest → s.pm.walkers.length < walkerSlots →
      let u := bumpR { s with pm := { s.pm with walkWait := rest } } rPmWaitWalker (elapsed s t)
      (∀ id, o = .request id → exec .walkerSlotGrant s = .next (startWalk u id)) ∧
      (∀ id, o = .move id → moverRuns u = true → isNext u id = true → exec .walkerSlotGrant s = .next (startMove u id .clean)) ∧
      (∀ h, o = .command h → exec .walkerSlotGrant s = .next (pokeRetires u)) ∧
      (∀ id x w v, o = .op id → mapGet s.ae.ops id = some x → walkStart u x.ctx (some x.layer) (.op id) = some (w, v) →
        exec .walkerSlotGrant s = .next (runOp (updOp v id fun x => { x with walker := some w }) id))) ∧
    (∀ o t rest, s.pm.editWait = (o, t) :: rest →
      let v := { s with pm := { s.pm with editWait := rest } }
      let u := pokeRetires (match o with
        | .move id => commitMove v id
        | .op id => runOp v id
        | .flip h => releasePage v h
        | .drop c l n k => match moveOf v c l n k with
          | some (id, m) => if m.isSpill = true ∧ moverRuns v = true ∧ isNext v id = true then startMove v id .clean else v
          | none => v
        | .install _ => v
        | .requant c l n k => flipAgain v c l n k)
      u.pm.editWait.any (fun w => w.1 == o) = false →
      exec .editWaitEnd s = .next (bumpR u rPmWaitEdit (elapsed s t))) ∧
    (∀ h g, grantOf s h = some g →
      (g.granted = false → g.releasing = false →
        exec (.bankGrant h) s = .next (if grantMax ≤ (grantsOf s (slotBbd h)).length then releaseOldest s (slotBbd h)
          else pokeOps (updGrant s h fun x => { x with granted := true, lastWrite := s.time }))) ∧
      (g.releasing = true → g.acked = false → g.parts.any (slotLocked s) = false →
        exec (.bankReleaseAck h) s = .next (pokeRetires (releasePage (updGrant s h fun x => { x with acked := true }) h))))

/-! ## Attention -/

/-- Attention messages (R118, R126, R131, R135, R143, R144, R146): a whole message with its row's opcode is taken by
what it asks for; draft rows wait for their request, or are checked against one that waits, and while 256 are held are
discarded; a clause settles its child of the request, or is sent again to where its shard moved; a message for no
request is late, and a short one is discarded. -/
def Obligations.AttentionMessagesAreTaken : Prop :=
  ∀ (m : Bytes) (n : Reads) (src : Nat) (s : State), awake s = true →
    (m.length < 32 →
      ∀ i ∈ [Instr.attend m n, .draftRows ⟨m, n⟩, .clause src m, .done src m, .append m n, .refill m n],
        exec i s = .next (raise1 (takeMsg s m) 4 fAeEventShortMessage)) ∧
    (32 ≤ m.length → knownOp m = true →
      (msgOp m = opAttend → exec (.attend m n) s = .next (takeAttend (takeReads s n) m (receivedAt s m))) ∧
      (msgOp m = opAppend → exec (.append m n) s = .next (takeOp (takeReads s n) m (receivedAt s m))) ∧
      (msgOp m = opRefill → exec (.refill m n) s = .next (takeOp (takeReads s n) m (receivedAt s m))) ∧
      (msgOp m = opDone → exec (.done src m) s = .next (raise1 (takeMsg s m) 4 fAeEventLateReply)) ∧
      (msgOp m = opDraft → headerBad m = false → bodyShort m = false → s.power.retain = .out → epochOk s (msgEpoch m) = true →
        jobFenced s (msgJob m) (msgEpoch m) = false → tableReady s = true →
        let u := takeReads (takeMsg s m) n
        ∀ d v, readCtx u (msgCtx m) 0 = .ok (d, v) → auxState v (msgCtx m) ≠ 0 → auxState v (msgCtx m) ≠ 5 → dIndex d = 0 →
        v.ae.drafts.any (fun x => sameRequest x.msg m) = false →
        (256 ≤ v.ae.drafts.length → exec (.draftRows ⟨m, n⟩) s = .next (discardDraft v)) ∧
        (∀ id r, (v.ae.reqs.find? fun e => e.2.draft == .waiting && sameRequest e.2.msg m) = some (id, r) → v.ae.drafts.length < 256 →
          exec (.draftRows ⟨m, n⟩) s = .next (updReq v id fun x => { x with draft := checkDraft r.msg (dWidth d) m })) ∧
        ((v.ae.reqs.find? fun e => e.2.draft == .waiting && sameRequest e.2.msg m) = none → v.ae.drafts.length < 256 →
          exec (.draftRows ⟨m, n⟩) s = .next { v with ae := { v.ae with drafts := v.ae.drafts ++ [⟨m, v.time⟩] } })) ∧
      (msgOp m = opClause →
        let u := takeMsg s m
        let wanted := u.ae.reqs.find? fun e => sameRequest e.2.msg m && decide (msgParent m = nodeId u)
          && e.2.children.any fun c => c.shard == msgDest m && c.settled.isNone
        (wanted = none → exec (.clause src m) s = .next (raise1 u 4 fAeEventLateReply)) ∧
        ∀ id r c, wanted = some (id, r) → (r.children.find? fun c => c.shard == msgDest m) = some c →
          let b := childBody r c m
          (movedHint b = none → exec (.clause src m) s = .next (updReq (updChild u id c.shard fun x => { x with settled := some b }) id
            fun x => { x with lastChild := some (receivedAt s m) })) ∧
          (∀ node, movedHint b = some node → getB u rAeControl fAeControlForwardEn = true → c.resent = false →
            exec (.clause src m) s = .next (raise1 (sendChild (updChild u id c.shard fun x =>
              { x with node := node, start := s.time, resent := true }) id r.msg c.shard node []) 4 fAeEventMovedForward))))

/-- What waits in the attention engine ends (R126, R131, R143): a held draft is discarded, a wait for one fails, and a
child without a clause settles as `TIMEOUT`, each after its limit; a message that waited for a request slot is taken
when one is free. The work of a request ends (R28, R138, R143, R147, R180, R184, R218): with its children settled, its
pages read and free of locks, and what it has with the BAUs over, the shard's own clause is formed, folded with theirs
and sent (that the own work is formed whole at this command is log entry 20), while the pages it waits for are asked
for; a shard whose descriptor fails its check ends `UNCORRECTABLE`; every append and refill that is ready goes on, in
the order accepted; and the verify request that waits takes a free way for one of its row tiles, or one that it holds
when none is free (log entry 128), the first ending the stage from the message's receipt (log entry 139). -/
def Obligations.AttentionWaitsAndWorkEnd : Prop :=
  (∀ s : State, awake s = true →
    (∀ k x, s.ae.drafts[k]? = some x → childTimeout s ≤ elapsed s x.time →
      exec (.draftHoldExpiry k) s = .next (discardDraft { s with ae := { s.ae with drafts := s.ae.drafts.eraseIdx k } })) ∧
    (∀ id r, mapGet s.ae.reqs id = some r → r.draft = .waiting → childTimeout s ≤ elapsed s r.accepted →
      exec (.draftWaitTimeout id) s =
        .next (raise1 (updReq s id fun x => { x with draft := .failed stTimeout }) 4 fAeEventChildTimeout)) ∧
    (∀ id r shard c, mapGet s.ae.reqs id = some r →
      (r.children.find? fun c => c.shard == shard && c.settled.isNone) = some c → r.height * childTimeout s ≤ elapsed s c.start →
      exec (.childTimeout id shard) s =
        .next (raise1 (settleFail s id r.msg shard c.node stTimeout) 4 fAeEventChildTimeout)) ∧
    (∀ m t rest, s.ae.slotWait = (m, t) :: rest → slotsFull s = false →
      let u := bumpR { s with ae := { s.ae with slotWait := rest } } rAeWaitSlot (elapsed s t)
      exec .attnSlotFree s = .next (if msgOp m = opAttend then takeAttend u m t else takeOp u m t))) ∧
  (∀ s : State, awake s = true →
    (∀ id r n, mapGet s.ae.reqs id = some r → r.draft ≠ .waiting → r.children.any (fun c => c.settled.isNone) = false →
      let u := takeReads s n
      let shard := reqShard r.msg
      (∀ d t, readCtx u r.ctx 0 = .ok (d, t) → workReady s r d = true → r.dispatched = true →
        exec (.shardClauseSend id n) s = .next (sendClause (attendUnstage (ownClause t r d).2 (attendSlots s r d)) id r shard
          (foldChildren r (ownClause t r d).1))) ∧
      (∀ d t, readCtx u r.ctx 0 = .ok (d, t) → workReady s r d = false ∨ r.dispatched = false →
        exec (.shardClauseSend id n) s = .next (unserve (awaitPages s id r d) id)) ∧
      (∀ v, readCtx u r.ctx 0 = .error v → exec (.shardClauseSend id n) s = .next (sendClause v id r shard
        (foldChildren r (failClause stUncorrectable shard (nodeId v) none (atBf16 r.msg)))))) ∧
    exec .pageOpWaitEnd s = .next ((s.ae.ops.filter fun e => opReady s e.1 e.2).foldl (fun u e => runOp u e.1) s) ∧
    (∀ id r w, (s.ae.reqs.filter fun e => decide (waysWanted e.2 ≠ 0) && (tileWay s e.2).isSome) = [(id, r)] → tileWay s r = some w →
      let u := bumpR (updReq (takeAttnWay s w id) id fun r => { r with ways := r.ways ++ [w] }) rAcAttnWait (elapsed s r.accepted)
      exec .attnWayGrant s = .next (if r.ways.isEmpty then noteIngress u id else u)))

/-! ## Bank buffer dies -/

/-- Words and bytes arrive at a bank buffer die (R168, R169): each of the eight rows gives the die the words of its own
opcode and of the opcodes that are none, and a store write gives it bytes; threads are then brought up to date. -/
def Obligations.BankCommandsArrive : Prop :=
  ∀ (b : BauCmd) (s : State), awake s = true → b.bbd < 8 →
    let u := pokeThreads (arrive s b.bbd (.command b 0))
    let spells (op : Nat) : Prop := bOp b.word = op ∨ bOp b.word = 0 ∨ 8 < bOp b.word
    (spells opGloss → exec (.glossBound b) s = .next u) ∧ (spells opAttendPage → exec (.attendPage b) s = .next u)
      ∧ (spells opAppendRows → exec (.appendRows b) s = .next u) ∧ (spells opRequant → exec (.requant b) s = .next u)
      ∧ (spells opRms → exec (.rmsnorm b) s = .next u) ∧ (spells opElem → exec (.elementwise b) s = .next u)
      ∧ (spells opGather → exec (.gatherReduce b) s = .next u) ∧ (spells opZero → exec (.zeroRange b) s = .next u)
      ∧ ∀ issuer off data, exec (.bauStoreWrite b.bbd issuer off data) s =
          .next (pokeThreads (arrive s b.bbd (.store issuer off data)))

/-- Permits and the end of a command (R160, R176, R178, R182, R183, R186, R269): the oldest queued request of a die
takes all the permits and BAUs it needs at once when enough are free, with the lock of the slot it writes (log entry
113), its wait counted in MCLK cycles as it starts (log entry 112), and stays queued while too few are; what runs on a
BAU completes, or reports a locked write, with what its reads and its link showed, unless its streams are paused for
refresh. -/
def Obligations.BankCommandsRunAndComplete : Prop :=
  ∀ (b : Nat) (s : State), awake s = true →
    (∀ e rest, queuedCmds (bbdOf s b) = e :: rest → linkUp s b = true → orderedOk (bbdOf s b) e = true → requantRef e = none →
      ((lockFor s e).map (slotLocked s)).getD false = false →
      (permitsHeld (bbdOf s b) + bSpan e.cmd.word ≤ permitLimit s b → ∀ l, bausFor s b e.cmd.word = some l →
        let go (y : BauEntry) : BauEntry := if y.id = e.id then { y with baus := l, lock := lockFor s e } else y
        exec (.permitGrant b) s = .next (pokeThreads (pokeBbd (bumpR (updBbd s b fun x => { x with
          queue := x.queue.map go,
          locks := match lockFor s e with
            | some h => mapPut x.locks h []
            | none => x.locks }) (rBbPermitWait b) (mclk e.waited)) b))) ∧
      (permitLimit s b < permitsHeld (bbdOf s b) + bSpan e.cmd.word →
        exec (.permitGrant b) s = .next (pokeThreads (pokeBbd s b)))) ∧
    (∀ bau phase replays reads e, b < 8 → ((bbdOf s b).queue.find? fun e => e.baus.contains bau) = some e →
      let u := linkReplays s b replays
      linkUp u b = true → (streams u e).any (fun c => (refreshOf u c).paused) = false →
      exec (.bauCompletion b ⟨bau, phase, replays, reads⟩) s = .next (pokeThreads (bauReport (takeReads u reads) b e phase)))

/-- Die-to-die links (R160, R161, R387): a transfer that fails the first time and on 64 replays retrains the link, and
each replay and the retrain is noticed and counts for the die's health; traffic waits, and goes on when the retrain ends
within 10 µs; one that does not takes the die out of service, and what waits for it fails. Refresh (R183, R185, R186):
the refresh of a channel that no running command streams issues at once, and one that falls due while a command streams
it is postponed, up to four; then the streams pause, but never inside a locked write, and they resume when the postponed
refreshes have issued, the paused cycles counted. -/
def Obligations.DieLinksRetrainAndChannelsRefresh : Prop :=
  (∀ (b : Nat) (s : State), awake s = true →
    (∀ n, b < 8 → linkUp s b = true →
      exec (.d2dLinkRetrain ⟨b, n⟩) s = .next (tally (updBbd (raise1 (linkReplays s b (n + 64)) (5 + b) fBbEventLinkRetrain) b
        fun x => { x with retrain := some s.time }) (306 + b) (256 * 256))) ∧
    (∀ n, linkReplays s b (n + 1) = linkReplays (tally (raise1 s (5 + b) fBbEventLinkReplay) (306 + b) (4 * 256)) b n) ∧
    (∀ t, (bbdOf s b).retrain = some t → elapsed s t < 9400 →
      exec (.d2dRetrainDone b) s = .next (pokeThreads (pokePlaced (pokeBbd (updBbd s b fun x => { x with retrain := none }) b)))) ∧
    (∀ t, (bbdOf s b).retrain = some t → 9400 ≤ elapsed s t →
      let u := raiseGs (setF (setB (updBbd s b fun x => { x with retrain := none }) (rBbStatus b) fBbStatusLinkUp false)
        rGsStatus ⟨15 + b, 1⟩ 1) fGsEvent1BbdOut
      exec (.bbdOutOfService b) s = .next (pokeThreads (pokePlaced (pokeBbd u b))) ∧
        (b < 8 → bbdUp u b = false ∧ pokeBbd u b = bbdFails u b))) ∧
  (∀ (ch cycles : Nat) (s : State), awake s = true → ch < 128 →
    ((refreshOf s ch).paused = false →
      exec (.refreshDue ch) s = .next (setRefresh s ch ⟨if (streamers s ch).isEmpty = true then 0
        else min 4 ((refreshOf s ch).postponed + 1), false⟩)) ∧
    ((refreshOf s ch).paused = false → 4 ≤ (refreshOf s ch).postponed → (streamers s ch).isEmpty = false →
      (streamers s ch).any (fun e => e.lock.isSome) = false →
      exec (.refreshPause ch) s = .next (bumpF (raise1 (setRefresh s ch ⟨(refreshOf s ch).postponed, true⟩) (5 + ch / 16)
        fBbEventRefreshPause) (rBbRefreshPause (ch / 16)) fBbRefreshPausePauses 1)) ∧
    ((refreshOf s ch).paused = true →
      exec (.refreshResume ch cycles) s =
        .next (bumpF (setRefresh s ch ⟨0, false⟩) (rBbRefreshPause (ch / 16)) fBbRefreshPauseCycles cycles)))


/-! ## Threads and jobs -/

/-- `SX_POLL`, `SX_END`, a trap, and the end of a copy (R202, R203, R204, R212, R422): a poll answers the status of what
it names, or `0xFF` while there is none, and a message slot so read becomes free; the status of what does not exist is
free (log entry 11); a thread ends with a result byte; a trap ends its job, an access fault only outside what Table 07.5
allows; a word of Table 07.6 with another `funct7`, `funct3` or bits [26:25] than the table's traps, whichever row it is
of (that its cause is 2 with the address of the instruction is log entry 199); a copy moves its bytes and its ticket
completes. -/
def Obligations.ThreadsPollAndEnd : Prop :=
  ∀ (i : SxOp) (s : State) (j : Job) (t : Thread) (k : Nat), Executes s i j t k →
    let a := awaitOf (t.getX (sxRs1 i))
    (Spells 0x0B 4 i → awaitKnown s j a = true →
      ∃ u, exec (.sxPoll i) s = .next u ∧ Executed u i t (some ((awaited s j t a).getD 0xFF)) ∧ u.mem = s.mem ∧ u.regs = s.regs ∧
        u.draws = s.draws ∧ u.ft = match awaited s j t a, a with
          | some _, .slot n => { s.ft with recv := mapDel s.ft.recv n }
          | _, _ => s.ft) ∧
    (Spells 0x0B 4 i → awaitKnown s j a = false →
      ∃ u, exec (.sxPoll i) s = .next u ∧ Executed u i t (some (drawFree s 64).1) ∧ u.mem = s.mem ∧ u.regs = s.regs ∧
        u.draws = (drawFree s 64).2.draws ∧ u.ft = s.ft) ∧
    (Spells 0x0B 7 i → ∃ u, exec (.sxEnd i) s = .next (pokeThreads (endThread u i.job i.idx (t.getX (sxRs1 i) % 256))) ∧ Executed u i t none ∧
      u.mem = s.mem ∧ u.regs = s.regs ∧ u.bb = s.bb) ∧
    (sxIllegal i = true → i.acts = [] →
      let traps (row : SxOp → Instr) : Prop :=
        exec (row i) s = .next (endJob (raise1 s 13 fAcEventJobFault) i.job stAborted i.idx 0 t.pc 2)
      (sxIs 0x0B 0 i = true → traps .sxTe) ∧ (sxIs 0x0B 1 i = true → traps .sxBstore) ∧ (sxIs 0x0B 2 i = true → traps .sxBau) ∧
      (sxIs 0x0B 3 i = true → traps .sxWait) ∧ (sxIs 0x0B 4 i = true → traps .sxPoll) ∧
      (sxIs 0x0B 5 i = true → traps .sxSleep) ∧ (sxIs 0x0B 6 i = true → traps .sxStep) ∧
      (sxIs 0x0B 7 i = true → traps .sxEnd) ∧ (sxIs 0x5B 0 i = true → traps .sxCopy)) ∧
    (∀ mcause addr, ¬(mcause ∈ [1, 5, 7] ∧ accessOk j.desc mcause addr 1 = true) → exec (.sxTrap i.job i.idx mcause addr) s =
      .next (endJob (raise1 s 13 fAcEventJobFault) i.job stAborted i.idx 0 addr mcause)) ∧
    ∀ x n, t.tickets.find? (fun x => x.id == n && x.kind == .copy && x.status.isNone) = some x → copyLocks s i.job x = [] →
      let e := basedRanges s j.desc
      (∀ o p, spaceOf j.desc e x.src x.len = some (.segment o) → spaceOf j.desc e x.dst x.len = some (.node p) →
        rangeOut s p x.len = none →
        exec (.sxCopyComplete i.job i.idx n) s =
          .next (pokeThreads (setTicket (writeMem s p (segRead (wayStore s k) o x.len)) i.job i.idx x.id stOk))) ∧
      (∀ y p o, spaceOf j.desc e x.src x.len = some y → y.npa = some p → spaceOf j.desc e x.dst x.len = some (.segment o) →
        rangeOut s p x.len = none →
        exec (.sxCopyComplete i.job i.idx n) s =
          .next (pokeThreads (setTicket (setWay s k (segWrite (wayStore s k) o (readMem s p x.len))) i.job i.idx x.id stOk)))

/-- What a thread awaits has come (R206, R207): a resident thread of a program takes it and goes on; a blocked one in
its swap slot becomes runnable; one that is being saved keeps it; a message slot so read becomes free at once (R422).
The swapping of contexts (R206 to R208, R221, R457): a save begins for the context blocked longest, resident for 2 µs,
when every context of the AC is blocked and a runnable one finds no way (that a way the attention holds is no blocked
context is log entry 107, that the victim lies in a way of the waiting thread's class log entry 108); on an AC that is
being replaced, for a blocked context with no minimum time; its segment and register record go to the swap slot, whose
layout is log entry 21; the thread runnable longest takes a free way, fresh in a zeroed one, and a loaded segment is as
it was saved. -/
def Obligations.ContextsWakeAndSwap : Prop :=
  (∀ (n i : Nat) (s : State) (j : Job) (t : Thread) (rd : Nat) (a : Await) (st : Nat), awake s = true → jobAt s n = some j →
    threadAt s n i = some t → jKind j.desc = 0 → t.await = some (rd, a) → awaited s j t a = some st → a ≠ .step →
    (∀ ac way since, t.place = .resident ac way since → exec (.contextEvent n i) s = .next (takeEvent (freeRecv s a) n i t rd a st)) ∧
    (t.place = .swapped → t.cond = .blocked → exec (.contextEvent n i) s =
      .next (updThread (freeRecv s a) n i fun t => { t with event := some st, cond := .runnable, since := s.time })) ∧
    (∀ ac way, t.place = .saving ac way → t.event = none → exec (.contextEvent n i) s =
      .next (updThread (freeRecv s a) n i fun t => { t with event := some st }))) ∧
  (∀ (ac : Nat) (s : State), awake s = true → ac < activeAcs s →
    let full (cls : Nat) : Option Nat :=
      if (jobWays s cls).any (fun w => wayFree s (16 * ac + w)) = true then none else (jobWays s cls).head?
    (∀ r j w n i t, acOpen s ac = true → allBlocked s ac = true → longest s (wanting s full) = some r →
      jobAt s r.job = some j → victim s ac (fun w => (jobWays s (jClass j.desc)).contains w) residentMin = some (w, n, i, t) →
      exec (.swapOut ac) s = .next (raise1 (updThread s n i fun t => { t with place := .saving ac w }) 13 fAcEventSwapOut)) ∧
    (∀ w n i t, acOpen s ac = false → victim s ac (fun _ => true) 0 = some (w, n, i, t) →
      exec (.swapOut ac) s = .next (raise1 (updThread s n i fun t => { t with place := .saving ac w }) 13 fAcEventSwapOut)) ∧
    (∀ way n i t a w, holderOf s (16 * ac + way) = some (n, i, t) → t.place = .saving a w →
      let u := segToMem s (slotSegment s t.slot) (wayStore s (16 * ac + way))
      let v := (writeFree u (slotSegment u t.slot - 4096) 4096).2
      exec (.swapSaveDone ac way) s = .next (pokeThread (dropWay (updThread v n i fun t =>
        { t with place := .swapped, cond := if t.event.isSome = true then .runnable else .blocked,
                 since := if t.event.isSome = true then v.time else t.since }) (some (16 * ac + way))) n i)) ∧
    (∀ r, acOpen s ac = true → longest s (wanting s fun cls => (jobWays s cls).find? fun w => wayFree s (16 * ac + w)) = some r →
      let u := takeWay s (16 * ac + r.way) (.thread r.job r.idx)
      (r.t.place = .fresh → exec (.swapLoad ac) s = .next (pokeThread (updThread (setWay u (16 * ac + r.way) []) r.job r.idx
        fun t => { t with place := .resident ac r.way u.time }) r.job r.idx)) ∧
      (r.t.place = .area → exec (.swapLoad ac) s =
        .next (updThread u r.job r.idx fun t => { t with place := .loading ac r.way true })) ∧
      (r.t.place = .swapped → exec (.swapLoad ac) s =
        .next (updThread u r.job r.idx fun t => { t with place := .loading ac r.way false }))) ∧
    (∀ way n i t a w area j, holderOf s (16 * ac + way) = some (n, i, t) → t.place = .loading a w area → jobAt s n = some j →
      t.event = none →
      exec (.swapLoadDone ac way) s = .next (pokeThread (updThread (setWay s (16 * ac + way)
        (segFromMem s (if area = true then areaSegment j.desc i else slotSegment s t.slot))) n i fun t =>
          { t with place := .resident ac way s.time, cond := .running, since := s.time }) n i)))

/-- The job commands (R211 to R214, R420, R421): a submitted job that passes the tests of R211 is admitted; a
pre-emption is asked of a job that has a save area, and one too late ends it as `TIMEOUT`; a query answers whether the
job is active, or how it ended. -/
def Obligations.JobCommandsAct : Prop :=
  ∀ (c : Cmd) (s : State),
    let n := jobOperand c
    let u := begun s c
    let d := readMem s n 128
    (Runs s 0x10 c → jobAt s n = none → n + 128 ≤ gddrSize → rangeOut s n 128 = none → jobFormatBad u d = false →
      (jSaveBytes d = 0 ∨ 4096 + swapBytes * jThreads d ≤ jSaveBytes d) → resumeBad u d = false → jobNoRoom u d = false →
      exec (.jobSubmit c) s = .next (swept c (admitJob u (refOf s c) n d))) ∧
    (Runs s 0x11 c → jobAt s n = none → Ends (.jobPreempt c) s c stOk 0 0 0 0 fun t => t.ac = s.ac) ∧
    (∀ j, Runs s 0x11 c → jobAt s n = some j → jSaveBytes j.desc = 0 →
      Ends (.jobPreempt c) s c stFormat 0 0 0 0 fun t => t.ac = s.ac) ∧
    (∀ j, Runs s 0x11 c → jobAt s n = some j → jSaveBytes j.desc ≠ 0 → j.preempt = none →
      exec (.jobPreempt c) s = .next (swept c (updJob u n fun j =>
        { j with preempt := some ⟨decide (bfld c.d 0x10 0 1 = 1), s.time, [refOf s c]⟩ }))) ∧
    (∀ m j p, awake s = true → jobAt s m = some j → j.preempt = some p → preemptLimit s ≤ elapsed s p.time →
      exec (.preemptTimeout m) s = .next (endJob (raise1 s 13 fAcEventPreemptTimeout) m stTimeout 0 0 0 0)) ∧
    (∀ j, Runs s 0x12 c → jobAt s n = some j → Ends (.jobQuery c) s c stOk 0 1 0 0 fun t => t.ac = s.ac) ∧
    (Runs s 0x12 c → jobAt s n = none → (s.ac.records.reverse.find? fun x => x.npa == n) = none →
      Ends (.jobQuery c) s c stOk 0 0 0 0 fun t => t.ac = s.ac) ∧
    (∀ x, Runs s 0x12 c → jobAt s n = none → (s.ac.records.reverse.find? fun x => x.npa == n) = some x →
      Ends (.jobQuery c) s c stOk x.count (2 + 2 ^ 8 * x.status + 2 ^ 16 * x.result) x.r1 x.r2 fun t => t.ac = s.ac)

/-- The model commands (R215, R217): a model is loaded where its header says, when it passes every test; an unload waits
for the jobs of `KIND` 1, and is over at once without any. -/
def Obligations.ModelCommandsAct : Prop :=
  ∀ (c : Cmd) (s : State),
    let base := jobOperand c
    let u := begun s c
    let h := readMem s base 64
    let size := num h 0 4
    (Runs s 0x13 c → base + num c.d 0x10 4 ≤ gddrSize → base + 64 ≤ gddrSize → rangeOut s base 64 = none →
      num h 0x3E 2 = crc16 (h.take 0x3E) → num h 4 1 ≠ 0 → modelOutside u base h = false →
      (swapRegion u :: fixedRegions u).any (fun (a, n) => overlaps a n base size) = false → size ≤ num c.d 0x10 4 →
      getB s rAcStatus fAcStatusRmLoaded = false →
      Ends (.rmLoad c) s c stOk 0 0 0 0 fun t => regGet t rAcRmBase = base ∧ regGet t rAcRmSize = size ∧
        getB t rAcStatus fAcStatusRmLoaded = true ∧ t.mem = s.mem) ∧
    (Runs s 0x14 c → getB s rAcStatus fAcStatusRmLoaded = false → Ends (.rmUnload c) s c stOk 0 0 0 0 fun t => t.ac = s.ac) ∧
    (Runs s 0x14 c → getB s rAcStatus fAcStatusRmLoaded = true → s.ac.jobs.any (fun e => jKind e.2.desc == 1) = true →
      exec (.rmUnload c) s =
        .next (swept c { u with ac := { u.ac with unload := some (s.ac.unload.getD [] ++ [refOf s c]) } })) ∧
    (Runs s 0x14 c → getB s rAcStatus fAcStatusRmLoaded = true → s.ac.jobs.any (fun e => jKind e.2.desc == 1) = false →
      s.ac.unload = none →
      Ends (.rmUnload c) s c stOk 0 0 0 0 fun t => regGet t rAcRmBase = 0 ∧ regGet t rAcRmSize = 0 ∧
        getB t rAcStatus fAcStatusRmLoaded = false ∧ t.mem = s.mem)


/-! ## Memory tiers and proofreading -/

/-- The moves of the tier mover (R35, R244, R245, R248, R252, R264, R284): the next queued move takes its page's walker
and goes on to its slots and its copy, after the release of a page that a bank owns; one edit installs the new home,
defers the old one and counts the move; a move whose target's link is dead, or whose context is freed or closes, is
abandoned, and one whose park or reopen has ended stops. -/
def Obligations.MovesRun : Prop :=
  ∀ (id : Nat) (n : Reads) (s : State) (m : Move), awake s = true → mapGet s.tm.moves id = some m →
    let r := takeReads s n
    (∀ d v hs owner valid t w u, moverRuns s = true → isNext s id = true → moveClosed s m = false →
      readCtx s m.ctx 2 = .ok (d, v) → readPage v 2 m.ctx d m.layer m.head m.n = .present hs owner valid →
      hs.any (accessWaits v) = false → m.isSpill = false → moveTarget v d m hs owner valid = some t →
      (t = 2 → buffersBusy (updMove v id fun x => { x with tier := t }) = false) →
      walkStart (updMove v id fun x => { x with tier := t }) m.ctx (some m.layer) (.move id) = some (w, u) →
      let y := updMove u id fun x => { x with walker := some w }
      (owner = 0 → exec (.moveStart id n) s = .next (pokeRetires (placeMove y id n { m with tier := t } hs))) ∧
      (owner = 1 →
        exec (.moveStart id n) s = .next (pokeRetires (askRelease (updMove y id fun x => { x with stage := .releasing }) hs)))) ∧
    (∀ d v hs owner valid u, moverEnds s = true → (m.stage = .copying ∨ m.stage = .ready) → m.dst ≠ [] →
      moveHeld r m.ctx m.why = false → moveClosed r m = false → targetDead r m = false → m.dst.any (accessWaits r) = false →
      readCtx r m.ctx 2 = .ok (d, v) → readPage v 2 m.ctx d m.layer m.head m.n = .present hs owner valid →
      failTarget v id m = none →
      editPage (m.dst.foldl (stampGen ((dGen d + 1) % 2 ^ 32)) v) 2 m.ctx m.layer m.n m.head
        (fun p e => ⟨0, m.dst.getD p 0, 1, 0, eValid e⟩) = .done u →
      exec (.moveCommit ⟨id, n⟩) s = .next (pokeRetires (endMove (liftedTail (countMove u m) m) id none))) ∧
    (targetDead s m = true → exec (.moveAbandon id true) s = .next (pokeRetires (faultMove s id))) ∧
    (moveClosed s m = true → exec (.moveAbandon id false) s = .next (pokeRetires (endMove s id (some stAborted)))) ∧
    (moveClosed s m = false → reasonGone s m = true → exec (.moveAbandon id false) s = .next (pokeRetires (stopMove s id)))

/-- Why spills start (R47, R48, R249, R250, R254): a quota, a class's mark, the free mark of a pool and the mark of free
extents each queue moves of the oldest pages until what is on its way out is enough; the spill of one page, while its
reason holds, goes to a tier with room, waits for room, drops the page, or stops. -/
def Obligations.SpillsStart : Prop :=
  ∀ (cls : Nat) (s : State), awake s = true →
    (exec (.quotaSpill cls) s = .next (queueSpills s (gddrPages s fun a => a.cls == cls) .quotaCut fun out =>
      decide (quota s cls 0 ≤ usage s cls 0 - out))) ∧
    (exec (.spillMarkSpill cls) s = .next (queueSpills s (gddrPages s fun a => a.cls == cls) .mark fun out =>
      decide (fld (regGet s (rCxSpillMark cls)) 0 32 ≤ usage s cls 0 - out))) ∧
    (exec (.freeMarkSpill false) s = .next (queueSpills s
      ((gddrPages s fun _ => true).filter fun e => hTier (e.2.handles.headD 0) == 0) .mark fun out =>
        decide (wideFree s + out < getF s rTmControl fTmControlFreeMark))) ∧
    (exec (.freeMarkSpill true) s = .next (queueSpills s
      ((gddrPages s fun _ => true).filter fun e => hTier (e.2.handles.headD 0) == 1) .mark fun out =>
        decide (narrowFree s + out < getF s rTmControl fTmControlFreeMark))) ∧
    (∀ ctx layer n head k hs owner valid id m u, auxState s ctx ≠ 0 → auxState s ctx ≠ 5 → ctxGood s ctx = true →
      let r := takeReads s k
      readPage r 2 ctx (ctxBytes s ctx) layer head n = .present hs owner valid → moveOf r ctx layer n head = some (id, m) →
      m.runs = false → m.isSpill = true → opLocks r ctx layer n head = false →
      (spillNeeded r m hs = false → exec (.spill ctx layer n ⟨head, k⟩) s = .next (stopMove r id)) ∧
      (spillNeeded r m hs = true →
      (∀ t, spillRoom r id m (pageTier hs) = (.ready t, u) →
        exec (.spill ctx layer n ⟨head, k⟩) s = .next (updMove u id fun x => { x with tier := t })) ∧
      (spillRoom r id m (pageTier hs) = (.waits, u) → exec (.spill ctx layer n ⟨head, k⟩) s = .next u) ∧
      (∀ v, spillRoom r id m (pageTier hs) = (.drop, u) →
        (dropByMover u ctx layer n head = (.done, v) → exec (.spill ctx layer n ⟨head, k⟩) s = .next (endMove v id none)) ∧
        (dropByMover u ctx layer n head = (.waits, v) → exec (.spill ctx layer n ⟨head, k⟩) s = .next v) ∧
        (dropByMover u ctx layer n head = (.failed, v) → exec (.spill ctx layer n ⟨head, k⟩) s = .next (checkMove v id))) ∧
      (spillRoom r id m (pageTier hs) = (.stop, u) → exec (.spill ctx layer n ⟨head, k⟩) s = .next (stopSpill 4 u id)))) ∧
    (∀ drive x ps, moverRuns s = true → extentsFreeOf s drive < compactMark s →
      (sortBy (fun a b => decide (a.2.length ≤ b.2.length))
        (s.tm.extents.filter fun e => decide (e.1 / 2 ^ 29 = drive ∧ e.2.length < extentPositions))).take
          (compactMark s - extentsFreeOf s drive) = [(x, ps)] →
      s.tm.compacting.contains x = false →
      exec (.compact drive) s = .next (ps.foldl (init := { s with tm := { s.tm with compacting := s.tm.compacting ++ [x] } })
        fun s p => match flashPage s (mkFlash drive p (x % 2 ^ 29)) with
          | some (c, l, n, kv) =>
            if mayChoose s [mkFlash drive p (x % 2 ^ 29)] = true then queueMove s c l n kv 2 .compact none none else s
          | none => s))

/-- The drives (R228, R231, R235, R236, R238, R244, R245, R256, R269): a command given to a drive enters one of its
queue pairs, of 1,024 entries each, or waits while none has room; a full or aged extent buffer is given to its drive as
a Write of its 128 blocks and a Flush; their completion keeps the slots that are still taken and readies the moves whose
slots are all written, or fails the moves of the buffer; a Read whose bytes are sound stages its slot, and one that the
drive failed or whose bytes fail a check is given to the drive once more and then ends, so that the move that waits for
the slot goes on. The tier links (R230, R231): a link that goes down is not up in its registers; accesses fail once it
has been down for 10 ms; a trained link is up again, and in both cases the copies that waited for it go on; and a
request that comes in on a link is refused. -/
def Obligations.DrivesAndTierLinksAct : Prop :=
  (∀ (k : Nat) (s : State), awake s = true →
    (∀ c,
      (∀ j, freePair s k = some j → let u := giveDrive s k c
        j < 16 ∧ (pairOf s k j).length < 1024 ∧ pairOf u k j = pairOf s k j ++ [c] ∧
        ∀ i, i < 16 → i ≠ j → pairOf u k i = pairOf s k i) ∧
      (freePair s k = none → giveDrive s k c = { s with tm := { s.tm with
        nvmeWait := mapPut s.tm.nvmeWait k ((mapGet s.tm.nvmeWait k).getD [] ++ [c]) } })) ∧
    (∀ b, mapGet s.tm.buffers k = some b →
      (b.sent = false → b.filled ≠ [] → accessWaits s (mkFlash b.drive 0 b.extent) = false →
        (extentPositions ≤ b.filled.length ∨ 1024 * getF s rTmControl fTmControlFlushTime ≤ elapsed s b.first) →
        let u := { s with tm := { s.tm with buffers := mapPut s.tm.buffers k { b with sent := true } } }
        exec (.extentFlush k) s = .next (if slotDead s (mkFlash b.drive 0 b.extent) = true then loseBuf s k b
          else giveDrive (giveDrive u b.drive (.write k)) b.drive (.flush k))) ∧
      (b.sent = true → driveHas s b.drive (.flush k) = true → accessWaits s (mkFlash b.drive 0 b.extent) = false →
        let l := leaveDrive (leaveDrive s b.drive (.write k)) b.drive (.flush k)
        slotDead l (mkFlash b.drive 0 b.extent) = false →
        let u := { l with tm := { l.tm with buffers := mapDel l.tm.buffers k } }
        let kept := b.filled.filter fun e => taken u (mkFlash b.drive e.1 b.extent)
        let flash := kept.foldl (fun m e => mapPut m (mkFlash b.drive e.1 b.extent) (xtsEncrypt (flashKey u)
          (flashTweak (mkFlash b.drive e.1 b.extent)) (padTo slotBytes e.2))) u.tm.flash
        let v := { u with tm := { u.tm with flash := flash } }
        exec (.driveCompletion k true) s = .next (pokeRetires (pokePlaced (b.moves.foldl (fun u id => match mapGet u.tm.moves id with
            | some m => if dstWritten u m = true then updMove u id fun x => { x with stage := .ready } else u
            | none => u)
          (if kept = [] then emit v (.driveDealloc b.drive b.extent) else
            { v with tm := { v.tm with extents := mapPut v.tm.extents (extKey b.drive b.extent) (kept.map (·.1)) } })))) ∧
        exec (.driveCompletion k false) s = .next (pokeRetires (loseBuf (raise1 l 15 fTpEventNvmeError) k b)))) ∧
    (driveHas s (fDrive k) (.read k) = true → accessWaits s k = false →
      let again := decide ((mapGet s.tm.staged k).getD 0 ≠ 0)
      let u := if s.ae.reqs.any (fun e => (attendSlots s e.2 (ctxBytes s e.2.ctx)).contains k) then bumpR s rTmStageReads 1 else s
      let left (v : State) : State := leaveDrive v (fDrive k) (.read k)
      let stage (v : State) (n : Nat) : State := { v with tm := { v.tm with staged := mapPut v.tm.staged k n } }
      let ends (v : State) : State :=
        (v.tm.moves.filter fun e => (readingSources v e.2).contains k).foldl (fun v e =>
          if (unread v (readingSources v e.2)).isEmpty then copyMove v e.1 .clean else v) v
      let sound := slotSound (slotRead (left u) k 0 slotBytes)
      (sound = true → exec (.driveReadCompletion k .good) s =
        .next (ends (stage (if (mapGet s.tm.staged k).getD 0 = 1 then refetchOk (left u) 128 else left u) 0))) ∧
      (∀ got, got = .corrupt ∨ got = .good ∧ sound = false → exec (.driveReadCompletion k got) s =
        .next (if again = true then ends (stage (left u) 0) else issueRead (stage (left u) 1) k)) ∧
      exec (.driveReadCompletion k .error) s = .next (
        let v := left (raise1 u 15 fTpEventNvmeError)
        if again = true then ends (stage v 2) else issueRead (stage v 1) k))) ∧
  (∀ (port link k : Nat) (s : State), awake s = true → tierLink port link = some k →
    (getB s (tpLink k) fTpLinkUp = true →
      (let u := setTierUp s port link false
       exec (.tierLinkDown port link) s =
        .next (raise1 { u with tm := { u.tm with down := mapPut s.tm.down k (s.time, false) } } 15 fTpEventLinkDown)) ∧
      exec (.inboundRequest port link) s = .next (emit (raise1 s 15 fTpEventInboundRefused) .unsupported)) ∧
    (∀ t x, mapGet s.tm.down k = some (t, x) → linkWaitCycles ≤ elapsed s t →
      exec (.tierLinkTimeout port link) s =
        .next (pokeRetires (pokePlaced { s with tm := { s.tm with down := mapPut s.tm.down k (t, true) } }))) ∧
    (mapGet s.tm.down k ≠ none → exec (.tierLinkRetrained port link) s =
      .next (pokePlaced (setTierUp { s with tm := { s.tm with down := mapDel s.tm.down k } } port link true))))

/-- Proofreading and retirement (R72, R81, R184, R277, R278, R280, R283, R284, R286): a pass reads its next unit at its
rate (the next entry of a page-map block, the next open descriptor, the next line of a slot), and ends after the last
with `PASS_DONE`; a slot is retired by its granule, its handle or its extent, a slot that may hold a page once its
header has been read with a walker and no lock held, and a channel is recorded; what is retired already stays so. -/
def Obligations.PassesReadAndRetirementsAct : Prop :=
  ∀ (n : Reads) (s : State),
    (∀ p u q read, awake s = true → s.pf.pass = some p → p.grid = s.time / 1024 → p.used < getF s rPfControl fPfControlPassRate →
      s.power.retain = .out → passUnit (takeReads s n) p = (u, q, read) →
      let q := if read = true then { q with used := q.used + 1 } else q
      let v := setPass (if read = true then bumpR u rPfPassLines 1 else u) q
      let w := if q.slot.isNone = true then freeDeferred v else v
      exec (.passUnitRead n) s = .next (if passOver w q = true then freeDeferred (raise1 (setB { w with
        pf := { w.pf with pass := none } } rPfStatus fPfStatusPassRunning false) 16 fPfEventPassDone) else w)) ∧
    (∀ (p : Pass) b, p.kind = 1 → ((mapBlocks s).find? fun b => decide (p.cursor < b + 4096 ∧ b < p.stop)) = some b →
      let a := max p.cursor b
      (passEntry s a = none → passUnit s p = (s, { p with cursor := a + 16 }, true)) ∧
      (∀ f, passEntry s a = some f → (passUnit s p).1 = (passFail (entryFailed s f) { p with cursor := a + 16 } f).1)) ∧
    (∀ (p : Pass) i a, p.kind = 2 → (s.cx.open_.find? fun e => decide (p.cursor ≤ e.1 ∧ e.1 < p.stop)) = some (i, a) →
      (passDesc s i = none → passUnit s p = (s, { p with cursor := i + 1 }, true)) ∧
      (∀ f, passDesc s i = some f → (passUnit s p).1 = (passFail (logFailure s f) { p with cursor := i + 1 } f).1)) ∧
    (∀ c : Cmd, Runs s 0x40 c →
      let h := bfld c.d 8 0 40
      let line := num c.d 0x10 1
      let mode := bfld c.d 0x10 8 2
      let u := begun s c
      (pageSlot s h ≠ none → walkerSlots ≤ s.pm.walkers.length → exec (.retireSlot c) s = .next (waitWalker s (.command h))) ∧
      (pageSlot s h ≠ none → s.pm.walkers.length < walkerSlots → slotLocked s h = true →
        exec (.retireSlot c) s = .next (waitLocks s (.command h) [h])) ∧
      (pageSlot s h = none ∨ s.pm.walkers.length < walkerSlots ∧ slotLocked s h = false →
        line ≤ 131 → mode ≠ 3 → handleBad u h = false →
        (∀ st, withheldStatus u h line = some st → Ends (.retireSlot c) s c st 0 0 0 0 fun t => t.tn = s.tn ∧ t.mem = s.mem) ∧
        (withheldStatus u h line = none →
          (∀ ctx, pageSlot s h = some ctx → exec (.retireSlot c) s = .next (swept c (retireNamed u (refOf s c) h line mode ctx))) ∧
          (pageSlot s h = none → hTier h ≤ 1 →
            let t := commit { u with tn := { u.tn with granules := s.tn.granules ++ [granuleOf u h line] } } 6
            let out := reserveShort t (granuleOf u h line) - reserveShort u (granuleOf u h line)
            exec (.retireSlot c) s = .next (swept c (retirePages ((List.range out).foldl (fun u _ => raise1 u 16 fPfEventReserveOut) t)
              (refOf s c) none false h line mode))) ∧
          (pageSlot s h = none → 2 ≤ hTier h → let k := if hTier h = 4 then mkFlash (fDrive h) 0 (fExtent h) else h
            exec (.retireSlot c) s = .next (swept c (retirePages { u with tm := { u.tm with retired := s.tm.retired ++ [k] } }
              (refOf s c) none false h line mode)))))) ∧
    (∀ c : Cmd, Runs s 0x41 c → let ch := bfld c.d 8 0 7
      (s.tn.channels.contains ch = true → Ends (.retireChannel c) s c stOk 0 0 0 0 fun t => t.tn = s.tn) ∧
      (s.tn.channels.contains ch = false → 2 ≤ s.tn.channels.length →
        Ends (.retireChannel c) s c stQuota 0 0 0 0 fun t => t.tn = s.tn) ∧
      (s.tn.channels.contains ch = false → s.tn.channels.length < 2 →
        exec (.retireChannel c) s = .next (swept c (finish (showPending (commit { begun s c with
          tn := { s.tn with channels := s.tn.channels ++ [ch] } } 6)) (refOf s c) stOk))))


/-! ## Transport -/

/-- Packets arrive (R319, R323, R324, R326, R335, R348): each of the eight rows takes the packet of its kind at the head
of a class's region; a sequenced one goes to its connection, an `ACK` or `NAK` to the sender, a heartbeat or a
management datagram to its unit; a `REPORT` of no open connection is discarded, and so is a packet that breaks R319. -/
def Obligations.PacketsArrive : Prop :=
  ∀ (port tc : Nat) (p : Bytes) (s : State), awake s = true → headPacket s port tc = some p → (hdrOf p).kind < 8 →
    let u := takePacket s port tc
    let row (k : Nat) (i : Instr) (t : State) : Prop := (hdrOf p).kind = k →
      exec i s = .next (if packetOk u tc p = true then t else badPacket u)
    row 0 (.msg port tc) (receiveSeq u port tc p) ∧ row 1 (.write port tc) (receiveSeq u port tc p) ∧
    row 2 (.readReq port tc) (receiveSeq u port tc p) ∧ row 3 (.readResp port tc) (receiveSeq u port tc p) ∧
    row 4 (.ack port tc) (receiveAck u p) ∧ row 5 (.nak port tc) (receiveAck u p) ∧
    row 7 (.report port tc) (if connFor u (hdrOf p) = none then u else receiveSeq u port tc p) ∧
    ((hdrOf p).service = 3 → row 6 (.dgram port tc)
      (bumpR { u with ft := { u.ft with hbIn := u.ft.hbIn ++ [((hdrOf p).src, p.drop 64)] } } rFtDgrams 1)) ∧
    ((hdrOf p).service = 2 → row 6 (.dgram port tc)
      (bumpR { u with ft := { u.ft with mgmtIn := u.ft.mgmtIn ++ [⟨port, (hdrOf p).src, p.drop 64⟩] } } rFtDgrams 1))

/-- The timers and the sending of a connection (R21, R184, R325 to R329, R348): an acknowledgement and a `NAK` are sent
at their times; without progress the connection goes back to the oldest packet, and past the limit it is in error; the
next packet, new or sent again, or the next datagram, is queued on a port that can take it, and a packet whose bytes lie
in a locked slot waits. -/
def Obligations.ConnectionsSendAndTimeOut : Prop :=
  ∀ (c : Nat) (k : Conn) (s : State), awake s = true → connOf s c = some k →
    (∀ t, k.ackSince = some t → getF s rFtControl fFtControlAckTime * 1024 ≤ elapsed s t →
      exec (.ackTimer c) s = .next (updConn s c fun x =>
        { x with ctl := x.ctl ++ [ackPacket s c x 4 0], unacked := 0, ackSince := none })) ∧
    (∀ t, k.gapSince = some t → getF s rFtControl fFtControlNakTime * 1024 ≤ elapsed s t →
      exec (.gapTimer c) s = .next (updConn (updConn s c fun x => { x with
          ctl := x.ctl ++ [ackPacket s c x 5 0], unacked := 0, ackSince := none }) c
        fun x => { x with gapSince := some s.time })) ∧
    (∀ t, k.state = 1 → k.retxSince = some t → max 1 (getF s rFtControl fFtControlRetxTime) * 1024 ≤ elapsed s t →
      (getF s rFtControl fFtControlRetryLimit ≤ k.retries → exec (.retxTimer c) s = .next (connError s c stTimeout)) ∧
      (k.retries < getF s rFtControl fFtControlRetryLimit → exec (.retxTimer c) s =
        .next (goBack (putConn s c { k with retries := k.retries + 1, retxSince := some s.time }) c k.sndUna))) ∧
    (∀ g, k.state = 1 → outPort s k.tc k.ports = some g →
      (∀ p rest, k.ctl = p :: rest →
        exec (.packetSpray (.conn c)) s = .next (putFrame (putConn s c { k with ctl := rest }) g k.tc k.peer k.hops p)) ∧
      (∀ m, k.ctl = [] → k.sndNxt ≠ k.nextPsn → psnSub k.sndNxt k.sndUna < 256 →
        k.tx.find? (fun m => decide (psnSub k.sndNxt m.psn < m.packets)) = some m →
        let i := psnSub k.sndNxt m.psn
        let p := setSrcConn (formPacket s k m i) c
        let next (top : Nat) : State := putConn s c
          { k with sndNxt := psnAdd k.sndNxt 1, sndMax := top, retxSince := some (k.retxSince.getD s.time) }
        (packetLocks s m i ≠ [] → exec (.packetSpray (.conn c)) s = .next (waitLocks s (.packet c) (packetLocks s m i))) ∧
        (packetLocks s m i = [] → serialBefore 24 k.sndNxt k.sndMax = false → exec (.packetSpray (.conn c)) s =
          .next (putFrameFor (next (psnAdd k.sndNxt 1)) g k.tc k.peer k.hops p (packetStages m i false))) ∧
        (packetLocks s m i = [] → serialBefore 24 k.sndNxt k.sndMax = true → exec (.packetSpray (.conn c)) s =
          .next (tally (bumpR (putFrameFor (next k.sndMax) g k.tc k.peer k.hops p (packetStages m i true)) rFtRetxPackets 1)
            (288 + g) 256)))) ∧
    (∀ d g, s.ft.dgrams.find? (fun d => (outPort s d.tc d.mask).isSome) = some d → outPort s d.tc d.mask = some g →
      exec (.packetSpray .dgram) s =
        .next (putFrame { s with ft := { s.ft with dgrams := s.ft.dgrams.erase d } } g d.tc d.dest d.hops d.pkt))

/-- The connection commands (R320 to R322, R380): an open sets the supplied fields and every sequence number to zero; a
close completes the work requests on the connection as `ABORTED` and frees what it held, and of a closed connection
changes nothing; a query writes the 32 bytes of the context to its buffer. -/
def Obligations.ConnectionCommandsAct : Prop :=
  ∀ (c : Cmd) (s : State),
    let i := Conn.named c.d
    let x := slice c.d 0x0C 12
    (Runs s 0x20 c → openBad s x i = false →
      Ends (.connOpen c) s c stOk 0 0 0 0 fun t => t.ft = (putConn s i (mkConn (bfld x 0 2 3) (bfld x 0 5 2) (bfld x 0 7 6)
        (bfld x 0 13 8) (bfld x 4 0 12) (bfld x 4 12 14) (bfld x 8 0 16) false)).ft) ∧
    (Runs s 0x20 c → openBad s x i = true → Ends (.connOpen c) s c stFormat 0 0 0 0 fun t => t.ft = s.ft) ∧
    (Runs s 0x21 c → connOf s i = none → Ends (.connClose c) s c stOk 0 0 0 0 fun t => t.ft = s.ft) ∧
    (∀ k, Runs s 0x21 c → connOf s i = some k → k.tree = false →
      exec (.connClose c) s = .next (swept c (finish (connShut (begun s c) i) (refOf s c) stOk))) ∧
    (Runs s 0x22 c → c.badBuf 32 = false → Ends (.connQuery c true) s c stOk 0 0 0 0 fun t =>
      t.out = s.out ++ [.hostWrite c.host (connBytes (connOf s i))] ∧ t.ft = s.ft)

/-- Work requests (R336, R337, R347): a whole request that finds room waits when it is armed and its counter is short of
the threshold, and is sent otherwise; of the armed requests that are ready the one posted first fires. -/
def Obligations.WorkRequestsAct : Prop :=
  ∀ (c : Cmd) (s : State),
    let w := wrOf c.d
    let u := begun s c
    let id := mapFresh s.ft.wrs 0
    let v := { u with ft := { u.ft with wrs := mapPut s.ft.wrs id ⟨w, refOf s c, wConn w, s.ft.order, .armed⟩, order := s.ft.order + 1 } }
    (Runs s 0x26 c → wrBad s w = false → wLength w ≤ msgMax → wLocal w + wLength w ≤ gddrSize → s.ft.wrs.length < 65536 →
      (wArmed w = true → armedCount s < 4096) →
      exec (.wrPost c) s = .next (swept c (if wArmed w = true ∧ armedReady s w = false then v else sendWr v id))) ∧
    (Runs s 0x26 c → wrBad s w = true → Ends (.wrPost c) s c stFormat 0 (wTag w) 0 0 fun t => t.ft = s.ft) ∧
    (∀ i w k, awake s = true → nextFire s = some (i, w) → connOf s w.conn = some k →
      exec (.wrFire i) s = .next (if k.state = 1 then sendWr s i else endWr s i stAborted))

/-- The region commands (R341, R342, R349): a registration takes the lowest free index (log entry 9) at its next
generation, whose ceiling is raised first; a revocation ends at once without a message in flight, and else waits, and of
a key that names no region of its generation completes `ACCESS_VIOLATION` (log entry 171: R342 is silent); a query
writes the descriptor and the state. Receive slots and counters (R345, R346, R422): a posted slot takes the lowest free
number (log entry 9); a query of a completed slot answers its outcome and frees it; a set counter holds its value. -/
def Obligations.RegionsSlotsAndCountersAct : Prop :=
  (∀ (c : Cmd) (s : State),
    let d := regionOf c.d
    let u := begun s c
    (∀ i, Runs s 0x23 c → regionBad s d = false → freeRegion s = some i →
      let g := ((mapGet s.ft.gens i).getD 0 + 1) % 2 ^ 18
      Ends (.regionRegister c) s c stOk 0 (i + 2 ^ 14 * g) 0 0 fun t => mapGet t.ft.regions i = some ⟨d, g, .active, 0, []⟩ ∧
        mapGet t.ft.gens i = some g) ∧
    (Runs s 0x24 c → regionKeyed s (num c.d 8 4) = none → Ends (.regionRevoke c) s c stAccess 0 0 0 0 fun t => t.ft = s.ft) ∧
    (∀ i g, Runs s 0x24 c → regionKeyed s (num c.d 8 4) = some (i, g) →
      (g.st = .revoked → Ends (.regionRevoke c) s c stOk 0 0 0 0 fun t => t.ft = s.ft) ∧
      (g.st = .active → g.inFlight = 0 → exec (.regionRevoke c) s = .next (swept c (raise1 (finish
        { u with ft := { u.ft with regions := mapPut s.ft.regions i { g with st := .revoked } } } (refOf s c) stOk) 35 fFtEventRevokeDone))) ∧
      (g.st = .active → g.inFlight ≠ 0 → exec (.regionRevoke c) s = .next (swept c
        { u with ft := { u.ft with regions := mapPut s.ft.regions i { g with st := .revoking, refs := [refOf s c] } } })) ∧
      (g.st = .revoking → exec (.regionRevoke c) s = .next (swept c
        { u with ft := { u.ft with regions := mapPut s.ft.regions i { g with refs := g.refs ++ [refOf s c] } } }))) ∧
    (Runs s 0x25 c → c.badBuf 32 = false →
      (regionKeyed s (num c.d 8 4) = none → Ends (.regionQuery c true) s c stOk 0 0 0 0 fun t =>
        t.out = s.out ++ [.hostWrite c.host (zeros 32)] ∧ t.ft = s.ft) ∧
      (∀ i g, regionKeyed s (num c.d 8 4) = some (i, g) → g.st = .active →
        Ends (.regionQuery c true) s c stOk 0 0 0 0 fun t =>
          t.out = s.out ++ [.hostWrite c.host (overlay g.desc 0x1C (natLe 1 1))] ∧ t.ft = s.ft))) ∧
  (∀ (c : Cmd) (s : State),
    let i := Conn.named c.d
    let a := bfld c.d 0x10 0 40
    let m := mapFresh s.ft.recv 0
    let n := bfld c.d 8 0 16
    (∀ k, Runs s 0x27 c → connOf s i = some k → k.state = 1 → c.len ≤ msgMax → a + c.len ≤ gddrSize → s.ft.recv.length < 65536 →
      Ends (.recvPost c) s c stOk 0 m 0 0 fun t => mapGet t.ft.recv m = some ⟨i, a, c.len, s.ft.order, none, 0⟩) ∧
    (Runs s 0x28 c → mapGet s.ft.recv n = none → Ends (.recvQuery c) s c stOk 0 0 0 0 fun t => t.ft = s.ft) ∧
    (∀ x, Runs s 0x28 c → mapGet s.ft.recv n = some x → x.status = none →
      Ends (.recvQuery c) s c stOk 0 1 0 0 fun t => t.ft = s.ft) ∧
    (∀ x st, Runs s 0x28 c → mapGet s.ft.recv n = some x → x.status = some st →
      Ends (.recvQuery c) s c stOk 0 (2 + at_ 8 8 st) 0 x.got fun t => t.ft.recv = mapDel s.ft.recv n) ∧
    (Runs s 0x29 c → Ends (.counterSet c) s c stOk 0 0 0 0 fun t =>
      counterOf t (bfld c.d 8 0 12) = num c.d 0x0C 4 ∧ t.ft = s.ft ∧ t.mem = s.mem))

/-! ## Composition, fencing and recovery -/

/-- The requests of a manager that set the composition (R376 to R383, R386, R388, R390): routes are staged; an epoch is
opened from the staged routes, and the previous one closed; ports are fenced; the status, the watch list and the scores
are answered or set, each with its reply. That the closing of the previous epoch empties its bank is log entry 143, and
that a new watch list begins without suspicions or misses log entry 144. -/
def Obligations.ManagerRequestsAct : Prop :=
  ∀ (g : Mgmt) (s : State) (k : Nat) (m : Manager),
    let u := granted s g k m
    let b := mgBody g.body
    let e := mgEpoch g.body
    (Accepted s 1 g k m → exec (.status g) s = .next (mgAnswer u g k stOk
      ([cfStatus u, regGet u rCfEpoch, regGet u rCfPortFence, regGet u rCfSuspect, serialFloor u].flatMap (natLe 8)))) ∧
    (Accepted s 2 g k m → (rsEntries b).any (fun x => decide (4096 ≤ x.1)) = false →
      (rsEntries b).any (fun x => decide (rtPath x.2 ≠ 0) && routeRefused u (rsEntries b) x.1 x.2) = false →
      exec (.routeSet g) s = .next (sweepTrees (mgAnswer ((rsEntries b).foldl stageRoute u) g k stOk []))) ∧
    (Accepted s 3 g k m →
      (composed u = false → exec (.epochOpen g) s = .next (sweepTrees (mgAnswer (setB (takeEpoch
        { u with cf := { u.cf with previous := [] } } e) rCfStatus fCfStatusComposed true) g k stOk []))) ∧
      (composed u = true → e = epochNow u → exec (.epochOpen g) s = .next (mgAnswer u g k stOk [])) ∧
      (composed u = true → e ≠ epochNow u → e = (epochNow u + 1) % 2 ^ 32 →
        exec (.epochOpen g) s = .next (sweepTrees (mgAnswer (takeEpoch (setB (setF
          { u with cf := { u.cf with previous := u.cf.current } } rCfEpoch fCfEpochPrevious (epochNow u))
            rCfStatus fCfStatusPrevOpen true) e) g k stOk [])))) ∧
    (Accepted s 4 g k m →
      (composed u = true → e = epochNow u → exec (.epochClose g) s = .next (mgAnswer u g k stFormat [])) ∧
      (composed u = true → e ≠ epochNow u → prevOpen u = true → e = epochPrev u →
        exec (.epochClose g) s = .next (sweepTrees (mgAnswer
          (setB { u with cf := { u.cf with previous := [] } } rCfStatus fCfStatusPrevOpen false) g k stOk []))) ∧
      (composed u = true → e ≠ epochNow u → prevOpen u = false → exec (.epochClose g) s = .next (mgAnswer u g k stOk []))) ∧
    (Accepted s 5 g k m → let l := bfld b 0 0 18
      let x := bfld b 4 0 18
      (fld x g.port 1 = 1 →
        exec (.portFence g) s = .next (mgAnswer { u with cf := { u.cf with fenceWait := some (g.port, l, x) } } g k stOk [])) ∧
      (fld x g.port 1 ≠ 1 →
        exec (.portFence g) s = .next (mgAnswer (applyFence { u with cf := { u.cf with fenceWait := none } } l x) g k stOk []))) ∧
    (Accepted s 6 g k m → let n := bfld b 0 0 7
      let v := setR ((List.range 64).foldl (fun s i => setR s (rCfWatch i) (if i < n then num b (2 + 2 * i) 2 + 2 ^ 12 else 0)) u)
        rCfSuspect 0
      exec (.watchSet g) s = .next (mgAnswer { v with
        cf := { v.cf with watch := (List.range n).map fun i => (i, ⟨0, false⟩), hbEnd := v.time } } g k stOk [])) ∧
    (Accepted s 7 g k m → exec (.scores g) s = .next (mgAnswer u g k stOk ((List.range (bfld b 0 16 10)).flatMap fun i =>
      natLe 2 (getF u (rCfScore (bfld b 0 0 10 + i)) fCfScoreScore))))

/-- Heartbeats and health (R387 to R390): a composed node sends heartbeats each period; one that is received clears the
count of misses, and reports Retain as a suspicion, except that `HB_PERIOD` 0 suspects no node (Table 13.9); a period
that ends counts the misses; the scores are formed each 1 ms. -/
def Obligations.HeartbeatsAndHealth : Prop :=
  ∀ s : State, awake s = true →
    (composed s = true → hbPeriod s ≠ 0 → hbPeriod s ≤ elapsed s s.cf.hbLast → s.power.retain = .out →
      exec .heartbeatSend s = .next (sweepTrees (sendHeartbeats s (hbState s)))) ∧
    (∀ src m n node, m.length = 16 → (watched s).filter (fun e => e.2 == src) = [(n, node)] →
      let u := { s with ft := { s.ft with hbIn := s.ft.hbIn.erase (src, m) } }
      exec (.heartbeatReceive src m) s = .next (setSuspect { u with cf := { u.cf with watch := mapPut s.cf.watch n ⟨0, true⟩ } } n node
        (decide (bfld m 0 12 2 = 2 ∧ hbPeriod s ≠ 0)))) ∧
    (∀ n node, hbPeriod s ≠ 0 → hbPeriod s ≤ elapsed s s.cf.hbEnd → watched s = [(n, node)] →
      let w := (mapGet s.cf.watch n).getD ⟨0, false⟩
      let missed := if w.heard = true then 0 else w.missed + 1
      let u := { s with cf := { s.cf with hbEnd := s.time, watch := mapPut s.cf.watch n ⟨missed, false⟩ } }
      exec .heartbeatPeriodEnd s = .next (if getF s rCfControl fCfControlHbMisses < missed then setSuspect u n node true else u)) ∧
    (s.time / 940000 ≠ s.cf.healthAt → exec (.healthPeriod []) s = .next (sweepTrees ((List.range 578).foldl (formScore s.cf.tally)
      { s with cf := { s.cf with tally := [], healthAt := s.time / 940000 } })))

/-- The recovery commands (R392, R393): the six rows of a manager, and the command of a ring, each act by their serial.
A recovery command by its serial (R393, R394): one with the serial of its target's last command joins it, or is answered
as that was; an earlier one is answered without an effect; a later one on a target without a command in progress, new to
the table or with a command that has completed, acts, and is recorded. -/
def Obligations.RecoveryCommandsAct : Prop :=
  (∀ (s : State),
    (∀ (g : Mgmt) (k : Nat) (m : Manager),
      let t (type : Nat) : State :=
        recHandle (granted s g k m) (.manager k (mgSeq g.body) g.port) type (mgSerial g.body) (mgBody g.body)
      (Accepted s 0x10 g k m → exec (.fence g) s = .next (t 0x10)) ∧ (Accepted s 0x11 g k m → exec (.drain g) s = .next (t 0x11)) ∧
      (Accepted s 0x12 g k m → exec (.reopen g) s = .next (t 0x12)) ∧
      (Accepted s 0x13 g k m → exec (.rehome g) s = .next (t 0x13)) ∧
      (Accepted s 0x14 g k m → exec (.rebuildMap g) s = .next (t 0x14)) ∧
      (Accepted s 0x15 g k m → exec (.handover g) s = .next (t 0x15))) ∧
    (∀ c : Cmd, Runs s 0x30 c → let type := num c.d 8 1
      let b := slice c.d 0x10 12
      isRecovery type = true → recBodyOk type (b.take (recLen type)) = true → leNat (b.drop (recLen type)) = 0 →
      (0x13 ≤ type → tableReady s = true) →
      exec (.recovery c) s =
        .next (swept c (recHandle (begun s c) (.ring (refOf s c)) type (num c.d 0x0C 4) (b.take (recLen type)))))) ∧
  (∀ (s : State) (who : RecIssuer) (type serial : Nat) (b : Bytes),
    let t := recTarget type b
    (∀ e st, mapGet s.cf.table t = some e → serial = e.serial → type = e.type → e.status = some st →
      recHandle s who type serial b = recAnswer s who type serial st 1 e.serial) ∧
    (∀ e, mapGet s.cf.table t = some e → serial = e.serial → type = e.type → e.status = none →
      recHandle s who type serial b =
        { s with cf := { s.cf with table := mapPut s.cf.table t { e with issuers := e.issuers ++ [who] } } }) ∧
    (∀ e, mapGet s.cf.table t = some e → serial ≠ e.serial → serialAfter 32 serial e.serial = false →
      recHandle s who type serial b = recAnswer s who type serial stOk 0 e.serial) ∧
    (mapGet s.cf.table t = none → serialAfter 32 serial s.tn.floor = false →
      recHandle s who type serial b = recAnswer s who type serial stOk 0 s.tn.floor) ∧
    (∀ v, recTest s type b = (none, v) →
      let acts : Prop := recHandle s who type serial b = recAct { v with cf := { v.cf with
        table := mapPut v.cf.table t { serial := serial, type := type, status := none, order := v.cf.order, issuers := [who] },
        order := v.cf.order + 1 } } type serial b
      (mapGet s.cf.table t = none → serialAfter 32 serial s.tn.floor = true → s.cf.table.length < 4096 → acts) ∧
      (∀ e st, mapGet s.cf.table t = some e → e.status = some st → serialAfter 32 serial e.serial = true → acts)))

/-- A rebuild (R256, R396): it starts once nothing is in flight and no page is bank-owned; it goes on by one tail at its
rate, a flash slot once a staging read has brought it; after the last tail the new map replaces the old one. -/
def Obligations.RebuildsReadTails : Prop :=
  ∀ (i : Nat) (n : Reads) (s : State) (r : Rebuild), awake s = true → mapGet s.cf.rebuilds i = some r →
    (r.started = false → inFlight s i = 0 → s.tm.moves.any (fun e => e.2.ctx == i) = false →
      s.pm.grants.filter (fun g => g.ctx == i) = [] →
      exec (.rebuildTailRead ⟨i, n⟩) s = .next (updRebuild s i fun r =>
        { r with started := true, toRead := s.pm.slots.map (·.1), grid := s.time / 1024 })) ∧
    (r.started = true → r.toRead = [] → exec (.rebuildTailRead ⟨i, n⟩) s = .next (rebuildEnd (takeReads s n) i r)) ∧
    (∀ h rest, r.started = true → r.toRead = h :: rest → r.grid = s.time / 1024 → r.used < rebuildRate s → accessWaits (takeReads s n) h = false →
      let u := takeReads s n
      let q := rebuildTail u i h { r with toRead := rest, used := r.used + 1 }
      let v := unstage (poisonedTail u h) [h]
      taken u h = true →
      exec (.rebuildTailRead ⟨i, n⟩) s = .next (if unread u [h] ≠ [] then stageCounted u [h]
        else if rest = [] then rebuildEnd v i q else updRebuild v i fun _ => q))

/-! ## Handover -/

/-- The source of a handover (R398 to R401): an acceptance starts the sending of the pages; a refusal, an expired timer
and a context that closes revert it; when every page has been sent as it stands it commits; an acknowledgement in time
gives the context up; a query is answered from the outcomes. The model's choices: a refusal with an unknown code reverts
with `INTERNAL` (log entry 181); an acknowledgement of a handover that is over is answered with `ABANDON` (log entry
154); a context that is freed or closes reverts its handover with `ABORTED` (log entry 218). -/
def Obligations.HandoverSourceActs : Prop :=
  ∀ (src i : Nat) (m : Bytes) (n : Reads) (s : State) (h : Handover),
    let u := withoutHo s src m
    (Taken s 2 m → sourceOf u src m = some h → h.phase = .offered →
      let sent := sendEntries (takeReads (updHo u (hoCtx m) fun x => { x with phase := .sending }) n) (hoCtx m)
      (∀ v, sent = .ok v → exec (.accept src ⟨m, n⟩) s = .next v) ∧
      (∀ v, sent = .error v → exec (.accept src ⟨m, n⟩) s = .next (hoRevert v (hoCtx m) stUncorrectable))) ∧
    (Taken s 3 m → sourceOf u src m = some h → exec (.refuse src m) s = .next (hoRevert u (hoCtx m) (knownCode (hoStatus m)))) ∧
    (awake s = true → mapGet s.cf.handovers i = some h → h.source = true → (h.phase = .sending ∨ h.phase = .frozen) →
      (auxState s i = 0 ∨ auxState s i = 5 → exec (.commitSend ⟨i, n⟩) s = .next (hoRevert s i stAborted)) ∧
      (auxState s i ≠ 0 → auxState s i ≠ 5 →
        (∀ v, sendEntries (takeReads s n) i = .error v → exec (.commitSend ⟨i, n⟩) s = .next (hoRevert v i stUncorrectable)) ∧
        (∀ v, sendEntries (takeReads s n) i = .ok v →
          let w := updHo v i fun x => { x with phase := .frozen }
          exec (.commitSend ⟨i, n⟩) s = .next (if hoLeft v i = true then v else if opsDone w i = true then sendCommit w i h else w)))) ∧
    (Taken s 6 m → sourceOf u src m = none →
      exec (.commitAck src m) s = .next (hoSend u src (hoMsg 8 (hoCtx m) (hoSerial m) (nodeId u) 0 0 []))) ∧
    (∀ t, Taken s 6 m → sourceOf u src m = some h → h.phase = .committed t →
      (hoTimeout s ≤ elapsed s t → exec (.commitAck src m) s = .next (hoRevert u (hoCtx m) stTimeout)) ∧
      (elapsed s t < hoTimeout s → exec (.commitAck src m) s = .next (
        if auxState s (hoCtx m) = 0 ∨ auxState s (hoCtx m) = 5 then hoRevert u (hoCtx m) stAborted else hoFinal u (hoCtx m) h))) ∧
    (∀ t, awake s = true → mapGet s.cf.handovers i = some h → h.source = true → h.phase = .committed t →
      hoTimeout s ≤ elapsed s t → exec (.handoverTimer i) s = .next (hoRevert s i stTimeout)) ∧
    (Taken s 9 m → sourceOf u src m = none →
      let found := s.cf.outcomes.reverse.find? fun o => o.1 == hoCtx m && o.2.1 == hoSerial m
      (∀ o, found = some o → exec (.query src m) s =
        .next (hoSend u src (hoMsg (if o.2.2 = true then 7 else 8) (hoCtx m) (hoSerial m) (nodeId u) 0 0 []))) ∧
      (found = none → exec (.query src m) s =
        .next (hoSend u src (hoMsg 8 (hoCtx m) (hoSerial m) (nodeId u) 0 0 []))))

/-- The acceptor of a handover (R399, R400, R402): an offer it has room for is opened and accepted, and one that the
page-map pool has no room for is noticed (R69); a page is placed; a commit with the right count makes it held; `FINAL`
makes it the owner, and `ABANDON` closes the context; held, it asks after 2 × `TIMEOUT`. -/
def Obligations.HandoverAcceptorActs : Prop :=
  ∀ (src i : Nat) (m : Bytes) (n : Reads) (s : State) (h : Handover),
    let u := withoutHo s src m
    let c := hoCtx m
    (∀ d v, Taken s 1 m → tableReady u = true → auxState u c = 0 → mapGet u.cf.handovers c = none → offerBad u m = false →
      readCtx (takeReads u n) c 2 = .ok (d, v) →
      (64 ≤ v.cf.handovers.length → exec (.offer src ⟨m, n⟩) s = .next (hoReply v src 3 stQuota m)) ∧
      (v.cf.handovers.length < 64 →
        (∀ w, openOffer v src m = .ok w → exec (.offer src ⟨m, n⟩) s = .next (hoReply w src 2 0 m)) ∧
        (openOffer v src m = .error .pool →
          exec (.offer src ⟨m, n⟩) s = .next (hoReply (raise1 v 3 fPmEventPoolEmpty) src 3 stQuota m)) ∧
        (openOffer v src m = .error .quota → exec (.offer src ⟨m, n⟩) s = .next (hoReply v src 3 stQuota m)) ∧
        (∀ w, openOffer v src m = .error (.lost w) → exec (.offer src ⟨m, n⟩) s = .next (hoReply w src 3 stUncorrectable m)))) ∧
    (∀ d r, acceptorOf u src m = some h → h.phase = .accepting → auxState u c = 1 → readCtx u c 2 = .ok (d, r) →
      (∀ v, Taken s 4 m → pageBad d m = false → placePage r c h (hoPage m) = .done v →
        exec (.page src m) s = .next (updHo v c fun x => { x with
          seen := mapPut x.seen (entryKey (hoPage m).layer (hoPage m).hpart (hoPage m).n) (0, (hoPage m).valid) })) ∧
      (Taken s 5 m → h.seen.length = hoCount m → (hoBody m).length = 4 → (flashHomes u c).any (flashLost u) = false →
        (flashHomes u c).all (flashWritten u) = true →
        let v := updCtx r c fun d => setDEnd d (num (hoBody m) 0 4)
        exec (.commit src m) s = .next (hoReply (updHo v c fun x => { x with phase := .held v.time v.time }) src 6 0 m)) ∧
      (Taken s 5 m → h.seen.length ≠ hoCount m → exec (.commit src m) s = .next (hoReply u src 3 stFormat m))) ∧
    (∀ t q, Taken s 7 m → acceptorOf u src m = some h → h.phase = .held t q →
      exec (.final src m) s = .next (dropHo (releaseReserved u h) c)) ∧
    (Taken s 8 m → acceptorOf u src m = some h → exec (.abandon src m) s = .next (hoDrop u c h)) ∧
    (∀ t, awake s = true → mapGet s.cf.handovers i = some h → h.source = false → h.phase = .held t t →
      2 * hoTimeout s ≤ elapsed s t → treeOpen s h.peer = true →
      exec (.queryTimer i) s = .next (hoSend (updHo s i fun x => { x with phase := .held t s.time }) h.peer
        (hoMsg 9 i h.serial h.peer 0 0 [])))


/-! ## The Lexicon and the Tense block -/

/-- The owner's commands (R374, R376, R441 to R444, R453, R454): the first owner key is enrolled, and a later one takes
its place when the key in force has signed it; a manager is set with a fresh `SEQ`, or cleared; an area of the flash
that is not in use is written, or left erased when what was given does not hold; a rollback counter only rises, and not
beyond the version that runs; the oldest of 256 anchors gives way. -/
def Obligations.OwnerCommandsAct : Prop :=
  ∀ (c : Cmd) (b : Bytes) (s : State),
    let r := refOf s c
    let u := begun s c
    (Runs s 0x50 c → s.tn.ownerKey = none → c.badBuf 1312 = false →
      exec (.lxEnrol c (some b)) s =
        .next (swept c (finish (commit { u with tn := { u.tn with ownerKey := some (padTo 1312 b) } } 1) r stOk))) ∧
    (Runs s 0x50 c → s.tn.ownerKey ≠ none → Ends (.lxEnrol c (some b)) s c stFormat 0 0 0 0 fun t => t.tn = s.tn) ∧
    (∀ key, Runs s 0x51 c → s.tn.ownerKey = some key → c.badBuf (1312 + 2420) = false →
      exec (.lxTransfer c (some b)) s = .next (swept c (if dsaVerify key (padTo 1312 b) (slice b 1312 2420) = true then
        finish (commit { u with tn := { u.tn with ownerKey := some (padTo 1312 b) } } 1) r stOk else finish u r stFormat))) ∧
    (Runs s 0x52 c → c.badBuf 32 = false → let k := bfld c.d 8 0 3
      exec (.lxManagerSet c (some b)) s = .next (swept c (finish (commit { u with
        tn := { u.tn with managers := mapPut s.tn.managers k ⟨bfld c.d 8 16 12, some (padTo 32 b), 0⟩ },
        cf := { u.cf with replies := mapDel s.cf.replies k } } 1) r stOk))) ∧
    (Runs s 0x53 c → let k := bfld c.d 8 0 3
      exec (.lxManagerClear c) s = .next (swept c (finish (commit { u with
        tn := { u.tn with managers := mapDel s.tn.managers k },
        cf := { u.cf with replies := mapDel s.cf.replies k } } 1) r stOk))) ∧
    (Runs s 0x55 c → let t := bfld c.d 8 0 2
      (t < 2 → getF s rLxStatus fLxStatusActiveSlot ≠ t) → (2 ≤ t → getF s rLxStatus fLxStatusRecordSlot + 2 ≠ t) →
      c.len ≤ areaBytes t → c.badBuf 0 = false → let x := padTo c.len b
      let ok := if t < 2 then imageValid u x else recordValid u x
      exec (.lxFlashWrite c (some b)) s = .next (swept c (finish { u with
        lx := { u.lx with areas := mapPut s.lx.areas t (if ok = true then x else []) } } r (if ok = true then stOk else stFormat)))) ∧
    (Runs s 0x56 c → let k := bfld c.d 8 0 4
      let v := num c.d 0x0C 4
      let svn := if k = 0 then getF s rIdFirmware fIdFirmwareImageSvn else getF s rIdFirmware fIdFirmwareRecordSvn
      (v < rollback s k ∨ k ≤ 1 ∧ svn < v → Ends (.lxRollback c) s c stFormat 0 0 0 0 fun t => t.tn = s.tn) ∧
      (v = rollback s k → (k ≤ 1 → v ≤ svn) → Ends (.lxRollback c) s c stOk 0 0 0 0 fun t => t.tn = s.tn) ∧
      (rollback s k < v → (k ≤ 1 → v ≤ svn) → Ends (.lxRollback c) s c stOk 0 0 0 0 fun t =>
        t.tn = (commit { s with tn := { s.tn with rollback := mapPut s.tn.rollback k v } } 0).tn)) ∧
    (Runs s 0x57 c → Ends (.lxAnchor c) s c stOk 0 0 0 0 fun t => t.tn.anchors = (s.tn.anchors ++ [(⟨num c.d 8 8, s.time,
      s.tn.coldStarts, if utcBackward s (num c.d 8 8) = true then 1 else 0⟩ : Anchor)]).drop (s.tn.anchors.length - 255)) ∧
    (Runs s 0x5A c → Ends (.lxSetActive c) s c stOk 0 0 0 0 fun t => t.lx = { s.lx with directory := setFld s.lx.directory 32 1 (bfld c.d 8 0 1) })

/-- A tenant handover, a read of a Tense record and a suppletion (R444 to R446, R450, R451, R455, R457): a handover is
marked and begins a reset of class H, or joins the one of its tenant; a record is copied whole; a unit in use is
replaced by a spare when one is left. -/
def Obligations.TenantAndUnitCommandsAct : Prop :=
  ∀ (c : Cmd) (b : Bytes) (s : State),
    let r := refOf s c
    let u := begun s c
    (Runs s 0x54 c → s.power.retain = .out →
      (s.power.running = none → c.badBuf 32 = false → exec (.lxHandover c (some b)) s = .next (swept c (requestReset .H (commit
        { u with power := { u.power with handover := some ⟨[r], num c.d 8 4, padTo 32 b⟩ }, tn := { u.tn with mark := true } } 2)))) ∧
      (∀ h, s.power.running = some .H → s.power.handover = some h →
        (h.tenant = num c.d 8 4 → c.badBuf 32 = false → exec (.lxHandover c (some b)) s =
          .next (swept c { u with power := { u.power with handover := some { h with refs := h.refs ++ [r] } } })) ∧
        (h.tenant ≠ num c.d 8 4 → Ends (.lxHandover c (some b)) s c stFormat 0 0 0 0 fun t => t.power = s.power))) ∧
    (Runs s 0x58 c → let n := num c.d 8 1
      n ≤ 9 → c.badBuf (recordBytes n) = false → let x := tenseRecord u n
      exec (.lxTnRead c true true) s =
        .next (swept c (completeWith (emit x.2 (.hostWrite c.host x.1)) r stOk (recordBytes n)))) ∧
    (Runs s 0x58 c → 9 < num c.d 8 1 → Ends (.lxTnRead c true true) s c stFormat 0 0 0 0 fun t => t.tn = s.tn ∧ t.out = s.out) ∧
    (∀ i, Runs s 0x59 c → bfld c.d 8 0 1 = 0 → acIndex s (bfld c.d 8 4 8) = some i → mapGet s.lx.supplete i = none →
      (s.lx.supplete.filter (fun e => decide (e.1 < 2 ^ 16))).length < s.ac.spares.length →
      exec (.lxSupplete c) s = .next (swept c (endSuppletions
        { u with lx := { u.lx with supplete := mapPut s.lx.supplete i [r] } }))) ∧
    (Runs s 0x59 c → bfld c.d 8 0 1 = 0 → acIndex s (bfld c.d 8 4 8) = none →
      Ends (.lxSupplete c) s c stFormat 0 0 0 0 fun t => t.lx = s.lx ∧ t.ac = s.ac)

/-- The Lexicon itself (R431, R439, R448 to R450): a measured restart ends the owner's commands, and three within a
second or a new measurement halt it; a request to the mailbox is answered, and an abort discards it; every 60 s the
seconds, the temperatures and at the end of a day the health are committed; a record whose sector fails the read-back of
a commit moves to a spare sector while one is left. -/
def Obligations.TheLexiconActs : Prop :=
  ∀ s : State, awake s = true →
    (∀ same, lxHalted s = false → let recent := (s.lx.restarts.filter fun t => decide (elapsed s t < 940000000)) ++ [s.time]
      let u := raise0 (abortOwner { s with lx := { s.lx with restarts := recent } }) 56 fLxEventRestart
      exec (.measuredRestart same) s = .next (if same = true ∧ recent.length < 3 then u else haltLexicon u)) ∧
    (∀ b, answers s 0 = true → (s.power.restricted = true → lxHalted s = true) → wakeLogic s = false → s.lx.doe = none →
      ∀ i ∈ [Instr.getChain b, .attest b, .getHandover b], exec i s = .next (if s.power.running = some .H then
        { s with lx := { s.lx with doe := some b } } else emit s (.doe (doeAnswer s b)))) ∧
    exec .doeAbort s = .next { s with lx := { s.lx with doe := none } } ∧
    (∀ failing celsius, s.power.running = none → 60 ≤ secondsDue s →
      let u := { s with tn := { s.tn with failing :=
        s.tn.failing ++ failing.eraseDups.filter fun n => decide (n ≤ 9) && !(s.tn.failing.contains n) } }
      let v := if dayAfter u (secondsDue u) = dayOf u then u else endDay (dayAfter u (secondsDue u)) u
      let w := commitSeconds v
      exec (.tensePeriodicCommit failing celsius) s =
        .next (commit { w with tn := { w.tn with histogram := countTemps celsius (secondsDue v) w.tn.histogram } } 3)) ∧
    (∀ n, n ≠ 8 → s.tn.failing = [n] →
      (s.tn.sparesUsed < 32 → (commit s n).tn.sparesUsed = s.tn.sparesUsed + 1 ∧ (commit s n).tn.failing = []) ∧
      (32 ≤ s.tn.sparesUsed → (commit s n).tn.sparesUsed = s.tn.sparesUsed ∧ (commit s n).tn.failing = [n]))

/-! ## Rules of the spec -/

/-- A job is named by the NPA of its descriptor (R420): a submission with the NPA of an admitted job fails with `FORMAT`
before any other test, and a pre-emption of an NPA that no admitted job has completes as R213 gives it, with `OK`. -/
def Obligations.JobsAreNamedByTheirNpa : Prop :=
  ∀ (c : Cmd) (s : State),
    (Runs s 0x10 c → jobAt s (bfld c.d 8 0 40) ≠ none → Ends (.jobSubmit c) s c stFormat 0 0 0 0 fun t => t.ac = s.ac ∧ t.mem = s.mem) ∧
    (Runs s 0x11 c → jobAt s (bfld c.d 8 0 40) = none → Ends (.jobPreempt c) s c stOk 0 0 0 0 fun t => t.ac = s.ac ∧ t.mem = s.mem)

/-- A failure like one of the last 16 that were logged is not logged again but counted in `PF_LOG_LOST.REPEAT`; one that
is logged sets `PF_EVENT.CHECK_FAIL`, and is from then on one of the last 16 (R274), while the log is not full (R273).
Either way, a line returned as poison by the read and by its refetch (R269) sets `TP_EVENT.POISON` for each (R227, Table
08.15). -/
def Obligations.RepeatedFailuresAreCounted : Prop :=
  ∀ (f : Failure) (s : State),
    let key := (f.handle, f.line, f.cause)
    let v := if f.cause = 5 then raise1 (raise1 s 15 fTpEventPoison) 15 fTpEventPoison else s
    let full := (getF s rPfLogTail fPfLogTailPfLogTail + 2 ^ 32 - getF s rPfLogHead fPfLogHeadPfLogHead) % 2 ^ 32 = 1024
    (key ∈ s.pf.recent → (logFailure s f).regs = (bumpF v rPfLogLost fPfLogLostRepeat 1).regs ∧ (logFailure s f).pf = s.pf) ∧
    (key ∉ s.pf.recent → ¬full → getB (logFailure s f) rPfEvent fPfEventCheckFail = true ∧
      (logFailure s f).pf.recent = (s.pf.recent ++ [key]).drop (s.pf.recent.length - 15))
end

