-- ==== Sys2Proof/Laws/Crypto.lean ====
section
/-!
SUPPORT. Crypto.lean: the lengths of what the functions of Machine/Crypto.lean answer.
-/

namespace Sys2Proof.Machine

@[simp] theorem lanes_length (f : Nat → Nat → Lane64) : (lanes f).length = 25 := by
  unfold lanes
  rw [List.length_map, List.length_range]

@[simp] theorem keccakRound_length (a : List Lane64) (k : Nat) : (keccakRound a k).length = 25 := by
  have h : (chi (rhoPi (theta a))).length = 25 := lanes_length _
  unfold keccakRound
  split
  · next v rest e => rw [e] at h; exact h
  · next e => rw [e] at h; exact absurd h (by decide)

theorem keccakFold_length (ks : List Nat) : ∀ a : List Lane64, a.length = 25 → (ks.foldl keccakRound a).length = 25 := by
  induction ks with
  | nil => exact fun _ h => h
  | cons k ks ih => exact fun a _ => ih _ (keccakRound_length a k)

@[simp] theorem absorb_length (a : List Lane64) (b : Bytes) : (absorb a b).length = 25 :=
  keccakFold_length _ _ (lanes_length _)

theorem absorbAll_length (rate n : Nat) :
    ∀ (a : List Lane64) (b : Bytes), a.length = 25 → (absorbAll rate n a b).length = 25 := by
  induction n with
  | zero => exact fun _ _ h => h
  | succ n ih => exact fun a b _ => ih _ _ (absorb_length a _)

@[simp] theorem sponge_length (rate suffix : Nat) (m : Bytes) : (sponge rate suffix m).length = 25 :=
  absorbAll_length _ _ _ _ (by simp)

/-- Every digest is 32 bytes. -/
@[simp] theorem keccak256_length (suffix : Nat) (m : Bytes) : (keccak256 suffix m).length = 32 := by
  unfold keccak256
  rw [List.length_flatMap]
  match sponge keccakRate suffix m, sponge_length keccakRate suffix m with
  | a :: b :: c :: d :: _, _ => rfl

/-- Every tag is 32 bytes (R375). -/
@[simp] theorem kmac256_length (key data custom : Bytes) : (kmac256 key data custom).length = 32 := keccak256_length _ _

end Sys2Proof.Machine
end

