-- ==== Sys2Proof/Laws/Keep.lean ====
section
/-!
SUPPORT. Keep.lean: what a step may write, said once. `Keep P s` is `P s`, opaque to the tactics. Where a
property `P` does not depend on a field of the state (`UpQe P`, ...) and survives the six operations that
write registers, memory and the clock (`UpR P`, ...), every operation and every command whose text writes
nothing else keeps `P`: one lemma `keep_<definition>` for each in the files Keep<Part>.lean, with exactly the
premises of what that definition can write. `keep_step` says it of the step. A frame is the case `P t := t.f = s.f`.
-/

set_option linter.unusedVariables false

namespace Sys2Proof.Machine

/-- A property of states, kept opaque so that the lemmas below are applied and never unfolded. -/
def Keep (P : State → Prop) (s : State) : Prop := P s

/-- The property does not depend on `power`. -/
abbrev UpPower (P : State → Prop) : Prop := ∀ s x, P s → P { s with power := x }
/-- The property does not depend on `qe`. -/
abbrev UpQe (P : State → Prop) : Prop := ∀ s x, P s → P { s with qe := x }
/-- The property does not depend on `cx`. -/
abbrev UpCx (P : State → Prop) : Prop := ∀ s x, P s → P { s with cx := x }
/-- The property does not depend on `pm`. -/
abbrev UpPm (P : State → Prop) : Prop := ∀ s x, P s → P { s with pm := x }
/-- The property does not depend on `ae`. -/
abbrev UpAe (P : State → Prop) : Prop := ∀ s x, P s → P { s with ae := x }
/-- The property does not depend on `bb`. -/
abbrev UpBb (P : State → Prop) : Prop := ∀ s x, P s → P { s with bb := x }
/-- The property does not depend on `ac`. -/
abbrev UpAc (P : State → Prop) : Prop := ∀ s x, P s → P { s with ac := x }
/-- The property does not depend on `tm`. -/
abbrev UpTm (P : State → Prop) : Prop := ∀ s x, P s → P { s with tm := x }
/-- The property does not depend on `pf`. -/
abbrev UpPf (P : State → Prop) : Prop := ∀ s x, P s → P { s with pf := x }
/-- The property does not depend on `fl`. -/
abbrev UpFl (P : State → Prop) : Prop := ∀ s x, P s → P { s with fl := x }
/-- The property does not depend on `es`. -/
abbrev UpEs (P : State → Prop) : Prop := ∀ s x, P s → P { s with es := x }
/-- The property does not depend on `im`. -/
abbrev UpIm (P : State → Prop) : Prop := ∀ s x, P s → P { s with im := x }
/-- The property does not depend on `ft`. -/
abbrev UpFt (P : State → Prop) : Prop := ∀ s x, P s → P { s with ft := x }
/-- The property does not depend on `cf`. -/
abbrev UpCf (P : State → Prop) : Prop := ∀ s x, P s → P { s with cf := x }
/-- The property does not depend on `tn`. -/
abbrev UpTn (P : State → Prop) : Prop := ∀ s x, P s → P { s with tn := x }
/-- The property does not depend on `lx`. -/
abbrev UpLx (P : State → Prop) : Prop := ∀ s x, P s → P { s with lx := x }
/-- The property does not depend on `out`. -/
abbrev UpOut (P : State → Prop) : Prop := ∀ s x, P s → P { s with out := x }
/-- The property does not depend on `draws`. -/
abbrev UpDraws (P : State → Prop) : Prop := ∀ s x, P s → P { s with draws := x }
/-- The property does not depend on `pending`. -/
abbrev UpPending (P : State → Prop) : Prop := ∀ s x, P s → P { s with pending := x }
/-- The property survives a register write. -/
abbrev UpR (P : State → Prop) : Prop := ∀ s o v, P s → P (setR s o v)
/-- The property survives the reset of the register fields. -/
abbrev UpRF (P : State → Prop) : Prop := ∀ s c, P s → P (resetFields c s)
/-- The property survives a byte written. -/
abbrev UpW (P : State → Prop) : Prop := ∀ s a v, P s → P (writeByte s a v)
/-- The property survives a range zeroed. -/
abbrev UpZ (P : State → Prop) : Prop := ∀ s p, P s → P (zeroWhere s p)
/-- The property survives the power-on reset of counter and memory. -/
abbrev UpC (P : State → Prop) : Prop := ∀ s c, P s → P (resetClock c s)
/-- The property survives a tick. -/
abbrev UpT (P : State → Prop) : Prop := ∀ s, P s → P (tick s)

variable {P : State → Prop} {s t : State}

theorem keep_setR {o v : Nat} (hR : UpR P) (h : Keep P s) : Keep P (setR s o v) := hR _ _ _ h
theorem keep_resetFields {c : RClass} (hRF : UpRF P) (h : Keep P s) : Keep P (resetFields c s) := hRF _ _ h
theorem keep_writeByte {a : Nat} {v : Byte} (hW : UpW P) (h : Keep P s) : Keep P (writeByte s a v) := hW _ _ _ h
theorem keep_zeroWhere {p : Nat → Bool} (hZ : UpZ P) (h : Keep P s) : Keep P (zeroWhere s p) := hZ _ _ h
theorem keep_resetClock {c : RClass} (hC : UpC P) (h : Keep P s) : Keep P (resetClock c s) := hC _ _ h
theorem keep_tick (hT : UpT P) (h : Keep P s) : Keep P (tick s) := hT _ h
theorem keep_eta (h : Keep P s) : Keep P ⟨s.time, s.regs, s.mem, s.power, s.qe, s.cx, s.pm, s.ae, s.bb, s.ac, s.tm, s.pf, s.fl, s.es, s.im, s.ft, s.cf, s.tn, s.lx, s.out, s.draws, s.pending⟩ := h
theorem keep_up_power {a0 a1 a2 a3 a4 a5 a6 a7 a8 a9 a10 a11 a12 a13 a14 a15 a16 a17 a18 a19 a20 a21 y} (h_power : UpPower P) (h : Keep P ⟨a0, a1, a2, a3, a4, a5, a6, a7, a8, a9, a10, a11, a12, a13, a14, a15, a16, a17, a18, a19, a20, a21⟩) : Keep P ⟨a0, a1, a2, y, a4, a5, a6, a7, a8, a9, a10, a11, a12, a13, a14, a15, a16, a17, a18, a19, a20, a21⟩ := h_power _ _ h
theorem keep_up_qe {a0 a1 a2 a3 a4 a5 a6 a7 a8 a9 a10 a11 a12 a13 a14 a15 a16 a17 a18 a19 a20 a21 y} (h_qe : UpQe P) (h : Keep P ⟨a0, a1, a2, a3, a4, a5, a6, a7, a8, a9, a10, a11, a12, a13, a14, a15, a16, a17, a18, a19, a20, a21⟩) : Keep P ⟨a0, a1, a2, a3, y, a5, a6, a7, a8, a9, a10, a11, a12, a13, a14, a15, a16, a17, a18, a19, a20, a21⟩ := h_qe _ _ h
theorem keep_up_cx {a0 a1 a2 a3 a4 a5 a6 a7 a8 a9 a10 a11 a12 a13 a14 a15 a16 a17 a18 a19 a20 a21 y} (h_cx : UpCx P) (h : Keep P ⟨a0, a1, a2, a3, a4, a5, a6, a7, a8, a9, a10, a11, a12, a13, a14, a15, a16, a17, a18, a19, a20, a21⟩) : Keep P ⟨a0, a1, a2, a3, a4, y, a6, a7, a8, a9, a10, a11, a12, a13, a14, a15, a16, a17, a18, a19, a20, a21⟩ := h_cx _ _ h
theorem keep_up_pm {a0 a1 a2 a3 a4 a5 a6 a7 a8 a9 a10 a11 a12 a13 a14 a15 a16 a17 a18 a19 a20 a21 y} (h_pm : UpPm P) (h : Keep P ⟨a0, a1, a2, a3, a4, a5, a6, a7, a8, a9, a10, a11, a12, a13, a14, a15, a16, a17, a18, a19, a20, a21⟩) : Keep P ⟨a0, a1, a2, a3, a4, a5, y, a7, a8, a9, a10, a11, a12, a13, a14, a15, a16, a17, a18, a19, a20, a21⟩ := h_pm _ _ h
theorem keep_up_ae {a0 a1 a2 a3 a4 a5 a6 a7 a8 a9 a10 a11 a12 a13 a14 a15 a16 a17 a18 a19 a20 a21 y} (h_ae : UpAe P) (h : Keep P ⟨a0, a1, a2, a3, a4, a5, a6, a7, a8, a9, a10, a11, a12, a13, a14, a15, a16, a17, a18, a19, a20, a21⟩) : Keep P ⟨a0, a1, a2, a3, a4, a5, a6, y, a8, a9, a10, a11, a12, a13, a14, a15, a16, a17, a18, a19, a20, a21⟩ := h_ae _ _ h
theorem keep_up_bb {a0 a1 a2 a3 a4 a5 a6 a7 a8 a9 a10 a11 a12 a13 a14 a15 a16 a17 a18 a19 a20 a21 y} (h_bb : UpBb P) (h : Keep P ⟨a0, a1, a2, a3, a4, a5, a6, a7, a8, a9, a10, a11, a12, a13, a14, a15, a16, a17, a18, a19, a20, a21⟩) : Keep P ⟨a0, a1, a2, a3, a4, a5, a6, a7, y, a9, a10, a11, a12, a13, a14, a15, a16, a17, a18, a19, a20, a21⟩ := h_bb _ _ h
theorem keep_up_ac {a0 a1 a2 a3 a4 a5 a6 a7 a8 a9 a10 a11 a12 a13 a14 a15 a16 a17 a18 a19 a20 a21 y} (h_ac : UpAc P) (h : Keep P ⟨a0, a1, a2, a3, a4, a5, a6, a7, a8, a9, a10, a11, a12, a13, a14, a15, a16, a17, a18, a19, a20, a21⟩) : Keep P ⟨a0, a1, a2, a3, a4, a5, a6, a7, a8, y, a10, a11, a12, a13, a14, a15, a16, a17, a18, a19, a20, a21⟩ := h_ac _ _ h
theorem keep_up_tm {a0 a1 a2 a3 a4 a5 a6 a7 a8 a9 a10 a11 a12 a13 a14 a15 a16 a17 a18 a19 a20 a21 y} (h_tm : UpTm P) (h : Keep P ⟨a0, a1, a2, a3, a4, a5, a6, a7, a8, a9, a10, a11, a12, a13, a14, a15, a16, a17, a18, a19, a20, a21⟩) : Keep P ⟨a0, a1, a2, a3, a4, a5, a6, a7, a8, a9, y, a11, a12, a13, a14, a15, a16, a17, a18, a19, a20, a21⟩ := h_tm _ _ h
theorem keep_up_pf {a0 a1 a2 a3 a4 a5 a6 a7 a8 a9 a10 a11 a12 a13 a14 a15 a16 a17 a18 a19 a20 a21 y} (h_pf : UpPf P) (h : Keep P ⟨a0, a1, a2, a3, a4, a5, a6, a7, a8, a9, a10, a11, a12, a13, a14, a15, a16, a17, a18, a19, a20, a21⟩) : Keep P ⟨a0, a1, a2, a3, a4, a5, a6, a7, a8, a9, a10, y, a12, a13, a14, a15, a16, a17, a18, a19, a20, a21⟩ := h_pf _ _ h
theorem keep_up_fl {a0 a1 a2 a3 a4 a5 a6 a7 a8 a9 a10 a11 a12 a13 a14 a15 a16 a17 a18 a19 a20 a21 y} (h_fl : UpFl P) (h : Keep P ⟨a0, a1, a2, a3, a4, a5, a6, a7, a8, a9, a10, a11, a12, a13, a14, a15, a16, a17, a18, a19, a20, a21⟩) : Keep P ⟨a0, a1, a2, a3, a4, a5, a6, a7, a8, a9, a10, a11, y, a13, a14, a15, a16, a17, a18, a19, a20, a21⟩ := h_fl _ _ h
theorem keep_up_es {a0 a1 a2 a3 a4 a5 a6 a7 a8 a9 a10 a11 a12 a13 a14 a15 a16 a17 a18 a19 a20 a21 y} (h_es : UpEs P) (h : Keep P ⟨a0, a1, a2, a3, a4, a5, a6, a7, a8, a9, a10, a11, a12, a13, a14, a15, a16, a17, a18, a19, a20, a21⟩) : Keep P ⟨a0, a1, a2, a3, a4, a5, a6, a7, a8, a9, a10, a11, a12, y, a14, a15, a16, a17, a18, a19, a20, a21⟩ := h_es _ _ h
theorem keep_up_im {a0 a1 a2 a3 a4 a5 a6 a7 a8 a9 a10 a11 a12 a13 a14 a15 a16 a17 a18 a19 a20 a21 y} (h_im : UpIm P) (h : Keep P ⟨a0, a1, a2, a3, a4, a5, a6, a7, a8, a9, a10, a11, a12, a13, a14, a15, a16, a17, a18, a19, a20, a21⟩) : Keep P ⟨a0, a1, a2, a3, a4, a5, a6, a7, a8, a9, a10, a11, a12, a13, y, a15, a16, a17, a18, a19, a20, a21⟩ := h_im _ _ h
theorem keep_up_ft {a0 a1 a2 a3 a4 a5 a6 a7 a8 a9 a10 a11 a12 a13 a14 a15 a16 a17 a18 a19 a20 a21 y} (h_ft : UpFt P) (h : Keep P ⟨a0, a1, a2, a3, a4, a5, a6, a7, a8, a9, a10, a11, a12, a13, a14, a15, a16, a17, a18, a19, a20, a21⟩) : Keep P ⟨a0, a1, a2, a3, a4, a5, a6, a7, a8, a9, a10, a11, a12, a13, a14, y, a16, a17, a18, a19, a20, a21⟩ := h_ft _ _ h
theorem keep_up_cf {a0 a1 a2 a3 a4 a5 a6 a7 a8 a9 a10 a11 a12 a13 a14 a15 a16 a17 a18 a19 a20 a21 y} (h_cf : UpCf P) (h : Keep P ⟨a0, a1, a2, a3, a4, a5, a6, a7, a8, a9, a10, a11, a12, a13, a14, a15, a16, a17, a18, a19, a20, a21⟩) : Keep P ⟨a0, a1, a2, a3, a4, a5, a6, a7, a8, a9, a10, a11, a12, a13, a14, a15, y, a17, a18, a19, a20, a21⟩ := h_cf _ _ h
theorem keep_up_tn {a0 a1 a2 a3 a4 a5 a6 a7 a8 a9 a10 a11 a12 a13 a14 a15 a16 a17 a18 a19 a20 a21 y} (h_tn : UpTn P) (h : Keep P ⟨a0, a1, a2, a3, a4, a5, a6, a7, a8, a9, a10, a11, a12, a13, a14, a15, a16, a17, a18, a19, a20, a21⟩) : Keep P ⟨a0, a1, a2, a3, a4, a5, a6, a7, a8, a9, a10, a11, a12, a13, a14, a15, a16, y, a18, a19, a20, a21⟩ := h_tn _ _ h
theorem keep_up_lx {a0 a1 a2 a3 a4 a5 a6 a7 a8 a9 a10 a11 a12 a13 a14 a15 a16 a17 a18 a19 a20 a21 y} (h_lx : UpLx P) (h : Keep P ⟨a0, a1, a2, a3, a4, a5, a6, a7, a8, a9, a10, a11, a12, a13, a14, a15, a16, a17, a18, a19, a20, a21⟩) : Keep P ⟨a0, a1, a2, a3, a4, a5, a6, a7, a8, a9, a10, a11, a12, a13, a14, a15, a16, a17, y, a19, a20, a21⟩ := h_lx _ _ h
theorem keep_up_out {a0 a1 a2 a3 a4 a5 a6 a7 a8 a9 a10 a11 a12 a13 a14 a15 a16 a17 a18 a19 a20 a21 y} (h_out : UpOut P) (h : Keep P ⟨a0, a1, a2, a3, a4, a5, a6, a7, a8, a9, a10, a11, a12, a13, a14, a15, a16, a17, a18, a19, a20, a21⟩) : Keep P ⟨a0, a1, a2, a3, a4, a5, a6, a7, a8, a9, a10, a11, a12, a13, a14, a15, a16, a17, a18, y, a20, a21⟩ := h_out _ _ h
theorem keep_up_draws {a0 a1 a2 a3 a4 a5 a6 a7 a8 a9 a10 a11 a12 a13 a14 a15 a16 a17 a18 a19 a20 a21 y} (h_draws : UpDraws P) (h : Keep P ⟨a0, a1, a2, a3, a4, a5, a6, a7, a8, a9, a10, a11, a12, a13, a14, a15, a16, a17, a18, a19, a20, a21⟩) : Keep P ⟨a0, a1, a2, a3, a4, a5, a6, a7, a8, a9, a10, a11, a12, a13, a14, a15, a16, a17, a18, a19, y, a21⟩ := h_draws _ _ h
theorem keep_up_pending {a0 a1 a2 a3 a4 a5 a6 a7 a8 a9 a10 a11 a12 a13 a14 a15 a16 a17 a18 a19 a20 a21 y} (h_pending : UpPending P) (h : Keep P ⟨a0, a1, a2, a3, a4, a5, a6, a7, a8, a9, a10, a11, a12, a13, a14, a15, a16, a17, a18, a19, a20, a21⟩) : Keep P ⟨a0, a1, a2, a3, a4, a5, a6, a7, a8, a9, a10, a11, a12, a13, a14, a15, a16, a17, a18, a19, a20, y⟩ := h_pending _ _ h

theorem keep_foldl {α : Type} {f : State → α → State} {l : List α} (hf : ∀ s x, Keep P s → Keep P (f s x)) (h : Keep P s) :
    Keep P (l.foldl f s) := by
  induction l generalizing s with
  | nil => exact h
  | cons x l ih => exact ih (hf _ _ h)

theorem keep_cut {P : State → Prop} {s t : State} (h : Keep P s) (f : Keep P s → Keep P t) : Keep P t := f h
end Sys2Proof.Machine

namespace Sys2Proof.Machine
section
variable (P : State → Prop)
def KeepP {α : Type} (r : α × State) : Prop := Keep P r.2
def KeepPP {α β : Type} (r : α × β × State) : Prop := Keep P r.2.2
def KeepQ {α : Type} (r : State × α) : Prop := Keep P r.1
def KeepOpt (r : Option State) : Prop := ∀ t, r = some t → Keep P t
def KeepOptP {α : Type} (r : Option (α × State)) : Prop := ∀ x t, r = some (x, t) → Keep P t
def KeepExP {ε α : Type} (r : Except ε (α × State)) : Prop := ∀ x t, r = .ok (x, t) → Keep P t
def KeepExS {α : Type} (r : Except State (α × State)) : Prop := (∀ x t, r = .ok (x, t) → Keep P t) ∧ ∀ t, r = .error t → Keep P t
def KeepErr {α : Type} (r : Except State α) : Prop := ∀ t, r = .error t → Keep P t
def KeepEdit (r : EditRes) : Prop := ∀ t, r = .done t → Keep P t
def KeepGrow (r : GrowRes) : Prop := (∀ t, r = .done t → Keep P t) ∧ ∀ t, r = .full t → Keep P t
def KeepBau (r : BauEnd) : Prop := Keep P r.s
def KeepBauE {α : Type} (r : Except BauEnd α) : Prop := ∀ x, r = .error x → KeepBau P x
def KeepAcc (r : HeadAcc) : Prop := Keep P r.s
def KeepWork (r : Work HeadAcc) : Prop := (∀ x, r = .ok x → KeepAcc P x) ∧ ∀ x n, r = .error (x, n) → KeepAcc P x
def KeepHeads (r : HeadsRes) : Prop := Keep P r.s
def KeepOut (r : Host.Outcome State Fault Refusal) : Prop := ∀ t, r = .next t → Keep P t
end
variable {P : State → Prop} {t : State}
theorem keepP_mk {α : Type} {a : α} (h : Keep P t) : KeepP P (a, t) := h
theorem keepP_eq {α : Type} {a : α} {r : α × State} (h : KeepP P r) (e : r = (a, t)) : Keep P t := by subst e; exact h
theorem keepP_snd {α : Type} {r : α × State} (h : KeepP P r) : Keep P r.2 := h
theorem keepPP_mk {α β : Type} {a : α} {c : β} (h : Keep P t) : KeepPP P (a, c, t) := h
theorem keepPP_eq {α β : Type} {a : α} {c : β} {r : α × β × State} (h : KeepPP P r) (e : r = (a, c, t)) : Keep P t := by subst e; exact h
theorem keepQ_mk {α : Type} {a : α} (h : Keep P t) : KeepQ P (t, a) := h
theorem keepQ_eq {α : Type} {a : α} {r : State × α} (h : KeepQ P r) (e : r = (t, a)) : Keep P t := by subst e; exact h
theorem keepQ_fst {α : Type} {r : State × α} (h : KeepQ P r) : Keep P r.1 := h
theorem keepOpt_some (h : Keep P t) : KeepOpt P (some t) := by intro u e; cases e; exact h
theorem keepOpt_none : KeepOpt P none := by intro u e; cases e
theorem keepOpt_eq {r : Option State} (h : KeepOpt P r) (e : r = some t) : Keep P t := h _ e
theorem keepOptP_some {α : Type} {a : α} (h : Keep P t) : KeepOptP P (some (a, t)) := by intro u v e; cases e; exact h
theorem keepOptP_none {α : Type} : KeepOptP P (none : Option (α × State)) := by intro u v e; cases e
theorem keepOptP_eq {α : Type} {a : α} {r : Option (α × State)} (h : KeepOptP P r) (e : r = some (a, t)) : Keep P t := h _ _ e
theorem keepExP_ok {ε α : Type} {a : α} (h : Keep P t) : KeepExP P (.ok (a, t) : Except ε (α × State)) := by intro u v e; cases e; exact h
theorem keepExP_error {ε α : Type} {x : ε} : KeepExP P (.error x : Except ε (α × State)) := by intro u v e; cases e
theorem keepExP_eq {ε α : Type} {a : α} {r : Except ε (α × State)} (h : KeepExP P r) (e : r = .ok (a, t)) : Keep P t := h _ _ e
theorem keepExS_ok {α : Type} {a : α} (h : Keep P t) : KeepExS P (.ok (a, t)) := ⟨(by intro u v e; cases e; exact h), by intro u e; cases e⟩
theorem keepExS_error {α : Type} (h : Keep P t) : KeepExS P (.error t : Except State (α × State)) := ⟨(by intro u v e; cases e), by intro u e; cases e; exact h⟩
theorem keepExS_eq {α : Type} {a : α} {r : Except State (α × State)} (h : KeepExS P r) (e : r = .ok (a, t)) : Keep P t := h.1 _ _ e
theorem keepExS_err {α : Type} {r : Except State (α × State)} (h : KeepExS P r) (e : r = .error t) : Keep P t := h.2 _ e
theorem keepErr_ok {α : Type} {a : α} : KeepErr P (.ok a) := by intro u e; cases e
theorem keepErr_error {α : Type} (h : Keep P t) : KeepErr P (.error t : Except State α) := by intro u e; cases e; exact h
theorem keepErr_eq {α : Type} {r : Except State α} (h : KeepErr P r) (e : r = .error t) : Keep P t := h _ e
theorem keepEdit_done (h : Keep P t) : KeepEdit P (.done t) := by intro u e; cases e; exact h
theorem keepEdit_wait {g : Bool} : KeepEdit P (.wait g) := by intro u e; cases e
theorem keepEdit_bad {f : Failure} : KeepEdit P (.bad f) := by intro u e; cases e
theorem keepEdit_eq {r : EditRes} (h : KeepEdit P r) (e : r = .done t) : Keep P t := h _ e
theorem keepGrow_done (h : Keep P t) : KeepGrow P (.done t) := ⟨(by intro u e; cases e; exact h), by intro u e; cases e⟩
theorem keepGrow_full (h : Keep P t) : KeepGrow P (.full t) := ⟨(by intro u e; cases e), by intro u e; cases e; exact h⟩
theorem keepGrow_wait {g : Bool} : KeepGrow P (.wait g) := ⟨(by intro u e; cases e), by intro u e; cases e⟩
theorem keepGrow_bad {f : Failure} : KeepGrow P (.bad f) := ⟨(by intro u e; cases e), by intro u e; cases e⟩
theorem keepGrow_eq {r : GrowRes} (h : KeepGrow P r) (e : r = .done t) : Keep P t := h.1 _ e
theorem keepGrow_eqf {r : GrowRes} (h : KeepGrow P r) (e : r = .full t) : Keep P t := h.2 _ e
theorem keepBau_mk {x i : Nat} {l : Bytes} (h : Keep P t) : KeepBau P ⟨x, i, l, t⟩ := h
theorem keepBau_s {r : BauEnd} (h : KeepBau P r) : Keep P r.s := h
theorem keepBauE_ok {α : Type} {a : α} : KeepBauE P (.ok a) := by intro u e; cases e
theorem keepBauE_error {α : Type} {x : BauEnd} (h : KeepBau P x) : KeepBauE P (.error x : Except BauEnd α) := by intro u e; cases e; exact h
theorem keepBauE_eq {α : Type} {x : BauEnd} {r : Except BauEnd α} (h : KeepBauE P r) (e : r = .error x) : KeepBau P x := h _ e
theorem keepAcc_mk {p1 p2 p3 p4 p5 p6 p7} (h : Keep P t) : KeepAcc P ⟨t, p1, p2, p3, p4, p5, p6, p7⟩ := h
theorem keepAcc_s {a : HeadAcc} (h : KeepAcc P a) : Keep P a.s := h
theorem keepWork_ok {a : HeadAcc} (h : KeepAcc P a) : KeepWork P (.ok a) := ⟨(by intro u e; cases e; exact h), by intro u v e; cases e⟩
theorem keepWork_error {a : HeadAcc} {n : Nat} (h : KeepAcc P a) : KeepWork P (.error (a, n)) := ⟨(by intro u e; cases e), by intro u v e; cases e; exact h⟩
theorem keepWork_errorp {x : HeadAcc × Nat} (h : KeepAcc P x.1) : KeepWork P (.error x) := ⟨(by intro u e; cases e), by intro u v e; cases e; exact h⟩
theorem keepWork_eq {a : HeadAcc} {r : Work HeadAcc} (h : KeepWork P r) (e : r = .ok a) : KeepAcc P a := h.1 _ e
theorem keepWork_err {a : HeadAcc} {n : Nat} {r : Work HeadAcc} (h : KeepWork P r) (e : r = .error (a, n)) : KeepAcc P a := h.2 _ _ e
theorem keepWork_errp {x : HeadAcc × Nat} {r : Work HeadAcc} (h : KeepWork P r) (e : r = .error x) : KeepAcc P x.1 := h.2 _ _ e
theorem keepHeads_mk {l : List HeadAcc} {o : Option Nat} (h : Keep P t) : KeepHeads P ⟨t, l, o⟩ := h
theorem keepHeads_s {r : HeadsRes} (h : KeepHeads P r) : Keep P r.s := h
theorem keepOut_next (h : Keep P t) : KeepOut P (.next t) := by intro u e; cases e; exact h
theorem keepOut_fault {f : Fault} : KeepOut P (.fault f) := by intro u e; cases e
theorem keepWork_all {β : Type} {f : HeadAcc → β → Work HeadAcc} {l : List β} {a : HeadAcc}
    (hf : ∀ a x, KeepAcc P a → KeepWork P (f a x)) (h : KeepAcc P a) : KeepWork P (workAll f a l) := by
  induction l generalizing a with
  | nil => exact keepWork_ok h
  | cons x l ih =>
    rw [workAll]
    split
    · exact ih (keepWork_eq (hf _ _ h) (by assumption))
    · exact keepWork_errorp (keepWork_errp (hf _ _ h) (by assumption))
end Sys2Proof.Machine
namespace Sys2Proof.Machine
theorem keep_cutA {P : State → Prop} {s : State} {p : Prop} (h : Keep P s) (f : Keep P s → p) : p := f h
end Sys2Proof.Machine

namespace Sys2Proof.Machine
section
variable (P : State → Prop)
def KeepFlip (r : FlipRes) : Prop := (∀ t, r = .done t → Keep P t) ∧ (∀ t, r = .waits t → Keep P t) ∧ ∀ t, r = .failed t → Keep P t
def KeepStage (r : Stage2) : Prop := (∀ t st h, r = .refuse t st h → Keep P t) ∧ ∀ d t, r = .served d t → Keep P t
def KeepPage (r : PageRes) : Prop := (∀ t, r = .done t → Keep P t) ∧ ∀ t, r = .full t → Keep P t
def KeepReserve (r : Reserve) : Prop := (∀ t x, r = .held t x → Keep P t) ∧ (∀ t, r = .waits t → Keep P t) ∧ (∀ t, r = .full t → Keep P t) ∧ ∀ t, r = .failed t → Keep P t
def KeepEE (r : Except State State) : Prop := (∀ t, r = .ok t → Keep P t) ∧ ∀ t, r = .error t → Keep P t
def KeepOF (x : OfferFail) : Prop := ∀ t, x = .lost t → Keep P t
def KeepExO (r : Except OfferFail State) : Prop := (∀ t, r = .ok t → Keep P t) ∧ ∀ x, r = .error x → KeepOF P x
def KeepBauS (r : Except BauEnd State) : Prop := (∀ t, r = .ok t → Keep P t) ∧ ∀ x, r = .error x → KeepBau P x
end
variable {P : State → Prop} {t : State}
theorem keepFlip_done (h : Keep P t) : KeepFlip P (.done t) := ⟨fun u e => (by cases e; exact h), fun u e => (by cases e), fun u e => (by cases e)⟩
theorem keepFlip_waits (h : Keep P t) : KeepFlip P (.waits t) := ⟨fun u e => (by cases e), fun u e => (by cases e; exact h), fun u e => (by cases e)⟩
theorem keepFlip_failed (h : Keep P t) : KeepFlip P (.failed t) := ⟨fun u e => (by cases e), fun u e => (by cases e), fun u e => (by cases e; exact h)⟩
theorem keepFlip_eqd {r : FlipRes} (h : KeepFlip P r) (e : r = .done t) : Keep P t := h.1 _ e
theorem keepFlip_eqw {r : FlipRes} (h : KeepFlip P r) (e : r = .waits t) : Keep P t := h.2.1 _ e
theorem keepFlip_eqf {r : FlipRes} (h : KeepFlip P r) (e : r = .failed t) : Keep P t := h.2.2 _ e
theorem keepStage_refuse {st : Nat} {x : Hint} (h : Keep P t) : KeepStage P (.refuse t st x) := ⟨fun u _ _ e => (by cases e; exact h), fun _ u e => (by cases e)⟩
theorem keepStage_served {d : Bytes} (h : Keep P t) : KeepStage P (.served d t) := ⟨fun u _ _ e => (by cases e), fun _ u e => (by cases e; exact h)⟩
theorem keepStage_eq {st : Nat} {x : Hint} {r : Stage2} (h : KeepStage P r) (e : r = .refuse t st x) : Keep P t := h.1 _ _ _ e
theorem keepStage_eqs {d : Bytes} {r : Stage2} (h : KeepStage P r) (e : r = .served d t) : Keep P t := h.2 _ _ e
theorem keepPage_done (h : Keep P t) : KeepPage P (.done t) := ⟨fun u e => (by cases e; exact h), fun u e => (by cases e)⟩
theorem keepPage_full (h : Keep P t) : KeepPage P (.full t) := ⟨fun u e => (by cases e), fun u e => (by cases e; exact h)⟩
theorem keepPage_bad {f : Failure} : KeepPage P (.bad f) := ⟨fun u e => (by cases e), fun u e => (by cases e)⟩
theorem keepPage_lost {f : Failure} : KeepPage P (.lost f) := ⟨fun u e => (by cases e), fun u e => (by cases e)⟩
theorem keepPage_waits : KeepPage P .waits := ⟨fun u e => (by cases e), fun u e => (by cases e)⟩
theorem keepPage_stalled {g : Bool} : KeepPage P (.stalled g) := ⟨fun u e => (by cases e), fun u e => (by cases e)⟩
theorem keepPage_poolEmpty : KeepPage P .poolEmpty := ⟨fun u e => (by cases e), fun u e => (by cases e)⟩
theorem keepReserve_held {x : List Nat} (h : Keep P t) : KeepReserve P (.held t x) := ⟨fun u v e => (by cases e; exact h), fun u e => (by cases e), fun u e => (by cases e), fun u e => (by cases e)⟩
theorem keepReserve_waits (h : Keep P t) : KeepReserve P (.waits t) := ⟨fun u v e => (by cases e), fun u e => (by cases e; exact h), fun u e => (by cases e), fun u e => (by cases e)⟩
theorem keepReserve_full (h : Keep P t) : KeepReserve P (.full t) := ⟨fun u v e => (by cases e), fun u e => (by cases e), fun u e => (by cases e; exact h), fun u e => (by cases e)⟩
theorem keepReserve_failed (h : Keep P t) : KeepReserve P (.failed t) := ⟨fun u v e => (by cases e), fun u e => (by cases e), fun u e => (by cases e), fun u e => (by cases e; exact h)⟩
theorem keepReserve_eqh {x : List Nat} {r : Reserve} (h : KeepReserve P r) (e : r = .held t x) : Keep P t := h.1 _ _ e
theorem keepReserve_eqw {r : Reserve} (h : KeepReserve P r) (e : r = .waits t) : Keep P t := h.2.1 _ e
theorem keepReserve_equ {r : Reserve} (h : KeepReserve P r) (e : r = .full t) : Keep P t := h.2.2.1 _ e
theorem keepReserve_eqf {r : Reserve} (h : KeepReserve P r) (e : r = .failed t) : Keep P t := h.2.2.2 _ e
theorem keepEE_ok (h : Keep P t) : KeepEE P (.ok t) := ⟨fun u e => (by cases e; exact h), fun u e => (by cases e)⟩
theorem keepEE_error (h : Keep P t) : KeepEE P (.error t) := ⟨fun u e => (by cases e), fun u e => (by cases e; exact h)⟩
theorem keepEE_eq {r : Except State State} (h : KeepEE P r) (e : r = .ok t) : Keep P t := h.1 _ e
theorem keepEE_err {r : Except State State} (h : KeepEE P r) (e : r = .error t) : Keep P t := h.2 _ e
theorem keepOF_lost (h : Keep P t) : KeepOF P (.lost t) := fun u e => by cases e; exact h
theorem keepOF_pool : KeepOF P .pool := fun u e => by cases e
theorem keepOF_quota : KeepOF P .quota := fun u e => by cases e
theorem keepOF_eq {x : OfferFail} (h : KeepOF P x) (e : x = .lost t) : Keep P t := h _ e
theorem keepExO_error {x : OfferFail} (h : KeepOF P x) : KeepExO P (.error x) := ⟨fun u e => (by cases e), fun u e => (by cases e; exact h)⟩
theorem keepExO_err {x : OfferFail} {r : Except OfferFail State} (h : KeepExO P r) (e : r = .error x) : KeepOF P x := h.2 _ e
theorem keepExO_ok (h : Keep P t) : KeepExO P (.ok t) := ⟨fun u e => (by cases e; exact h), fun u e => (by cases e)⟩
theorem keepExO_eq {r : Except OfferFail State} (h : KeepExO P r) (e : r = .ok t) : Keep P t := h.1 _ e
theorem keepBauS_ok (h : Keep P t) : KeepBauS P (.ok t) := ⟨fun u e => (by cases e; exact h), fun u e => (by cases e)⟩
theorem keepBauS_error {x : BauEnd} (h : KeepBau P x) : KeepBauS P (.error x) := ⟨fun u e => (by cases e), fun u e => (by cases e; exact h)⟩
theorem keepBauS_eq {r : Except BauEnd State} (h : KeepBauS P r) (e : r = .ok t) : Keep P t := h.1 _ e
theorem keepBauS_err {x : BauEnd} {r : Except BauEnd State} (h : KeepBauS P r) (e : r = .error x) : KeepBau P x := h.2 _ e
theorem keepPage_refuse {st : Nat} : KeepPage P (.refuse st) := ⟨fun u e => (by cases e), fun u e => (by cases e)⟩
theorem keepPage_eq {r : PageRes} (h : KeepPage P r) (e : r = .done t) : Keep P t := h.1 _ e
theorem keepPage_eqf {r : PageRes} (h : KeepPage P r) (e : r = .full t) : Keep P t := h.2 _ e
theorem keep_getD {r : Option State} {s : State} (h : KeepOpt P r) (hs : Keep P s) : Keep P (r.getD s) := by
  cases r with
  | none => exact hs
  | some u => exact h _ rfl
theorem keepOpt_mapv {α : Type} {r : Option α} {f : α → State} (hf : ∀ x, Keep P (f x)) : KeepOpt P (r.map f) := by
  intro u e
  cases r with
  | none => cases e
  | some s => cases e; exact hf _
theorem keepOpt_map {r : Option State} {f : State → State} (h : KeepOpt P r) (hf : ∀ s, Keep P s → Keep P (f s)) : KeepOpt P (r.map f) := by
  intro u e
  cases r with
  | none => cases e
  | some s => cases e; exact hf _ (h _ rfl)
theorem keepOptP_map {α : Type} {r : Option State} {f : State → α × State} (h : KeepOpt P r) (hf : ∀ s, Keep P s → KeepP P (f s)) : KeepOptP P (r.map f) := by
  intro u v e
  cases r with
  | none => cases e
  | some s => have := hf _ (h _ rfl); simp only [Option.map_some, Option.some.injEq] at e; rw [e] at this; exact this
theorem keepP_foldl {α β : Type} {f : α × State → β → α × State} {l : List β} {p : α × State} (hf : ∀ s x, KeepP P s → KeepP P (f s x))
    (h : KeepP P p) : KeepP P (l.foldl f p) := by
  induction l generalizing p with
  | nil => exact h
  | cons x l ih => exact ih (hf _ _ h)
theorem keepQ_foldl {α β : Type} {f : State × α → β → State × α} {l : List β} {p : State × α} (hf : ∀ s x, KeepQ P s → KeepQ P (f s x))
    (h : KeepQ P p) : KeepQ P (l.foldl f p) := by
  induction l generalizing p with
  | nil => exact h
  | cons x l ih => exact ih (hf _ _ h)
theorem keepExP_okp {ε α : Type} {a : α × State} (h : Keep P a.2) : KeepExP P (.ok a : Except ε (α × State)) := by intro u v e; cases e; exact h
theorem keepExS_okp {α : Type} {a : α × State} (h : Keep P a.2) : KeepExS P (.ok a) := ⟨by intro u v e; cases e; exact h, by intro u e; cases e⟩
theorem keepExP_eqp {ε α : Type} {a : α × State} {r : Except ε (α × State)} (h : KeepExP P r) (e : r = .ok a) : Keep P a.2 := h _ _ e
end Sys2Proof.Machine

namespace Sys2Proof.Machine
theorem keep_cutP {P : State → Prop} {α : Type} {s : α × State} {p : Prop} (h : KeepP P s) (f : KeepP P s → p) : p := f h
end Sys2Proof.Machine
end

