-- ==== Sys2Proof/Laws/KeepOps.lean ====
section
/-!
SUPPORT. KeepOps.lean: what the definitions of Machine/Regs.lean, Machine/Flags.lean, Machine/Ops.lean, Machine/Operands.lean, Machine/Slots.lean, Machine/Maps.lean, Machine/Links.lean, Machine/Rings.lean, Machine/Packets.lean keep (see Keep.lean).
-/

set_option linter.unusedTactic false
set_option linter.unreachableTactic false
set_option linter.unusedVariables false
set_option linter.tactic.unusedName false
set_option maxRecDepth 20000

namespace Sys2Proof.Machine

variable {P : State → Prop} {s : State}

/-! ### Machine/Regs.lean -/


theorem keep_setF {a2 : Nat} {a3 : Fld} {a4 : Nat} (hR : UpR P) (h : Keep P s) : Keep P (setF s a2 a3 a4) := by
  unfold setF
  repeat' first
    | with_reducible assumption
    | with_reducible refine keep_setR hR ?_

theorem keep_setB {a2 : Nat} {a3 : Fld} {a4 : Bool} (hR : UpR P) (h : Keep P s) : Keep P (setB s a2 a3 a4) := by
  unfold setB
  repeat' first
    | with_reducible assumption
    | with_reducible refine keep_setF hR ?_

theorem keep_bumpF {a2 : Nat} {a3 : Fld} {a4 : Nat} (hR : UpR P) (h : Keep P s) : Keep P (bumpF s a2 a3 a4) := by
  unfold bumpF
  repeat' first
    | with_reducible assumption
    | with_reducible refine keep_setF hR ?_

theorem keep_bumpR {a2 : Nat} {a3 : Nat} (hR : UpR P) (h : Keep P s) : Keep P (bumpR s a2 a3) := by
  unfold bumpR
  repeat' first
    | with_reducible assumption
    | with_reducible refine keep_setR hR ?_

theorem keep_drawFree {a2 : Nat} (h_draws : UpDraws P) (h : Keep P s) : KeepP P (drawFree s a2) := by
  unfold drawFree
  repeat' first
    | with_reducible assumption
    | fail_if_no_progress with_reducible refine keep_up_draws h_draws (keep_eta ?_)
    | with_reducible refine keepP_mk ?_

theorem keep_emit {a2 : Out} (h_out : UpOut P) (h : Keep P s) : Keep P (emit s a2) := by
  unfold emit
  repeat' first
    | with_reducible assumption
    | fail_if_no_progress with_reducible refine keep_up_out h_out (keep_eta ?_)

theorem keep_live {a2 : State → State} (h : Keep P s) (ha2 : ∀ x0, Keep P x0 → Keep P (a2 x0)) : Keep P (live s a2) := by
  unfold live
  repeat' first
    | with_reducible assumption
    | with_reducible apply ha2
    | split

/-! ### Machine/Flags.lean -/


theorem keep_sendMsix {a2 : Nat} {a3 : Nat} (h_qe : UpQe P) (h_out : UpOut P) (h : Keep P s) : Keep P (sendMsix s a2 a3) := by
  unfold sendMsix
  repeat' first
    | with_reducible assumption
    | with_reducible refine keep_emit h_out ?_
    | fail_if_no_progress with_reducible refine keep_up_qe h_qe (keep_eta ?_)
    | split

theorem keep_setEventMsg {a2 : Nat} {a3 : EventMsg} (h_qe : UpQe P) (h : Keep P s) : Keep P (setEventMsg s a2 a3) := by
  unfold setEventMsg
  repeat' first
    | with_reducible assumption
    | fail_if_no_progress with_reducible refine keep_up_qe h_qe (keep_eta ?_)
    | split

theorem keep_sendEventNow {a2 : Nat} (h_qe : UpQe P) (h_out : UpOut P) (h : Keep P s) : Keep P (sendEventNow s a2) := by
  unfold sendEventNow
  repeat' first
    | with_reducible assumption
    | with_reducible refine keep_setEventMsg h_qe ?_
    | with_reducible refine keep_sendMsix h_qe h_out ?_

theorem keep_requestEvent {a2 : Nat} (h_qe : UpQe P) (h_out : UpOut P) (h : Keep P s) : Keep P (requestEvent s a2) := by
  unfold requestEvent
  repeat' first
    | with_reducible assumption
    | with_reducible refine keep_sendEventNow h_qe h_out ?_
    | with_reducible refine keep_setEventMsg h_qe ?_
    | split

theorem keep_raise {a2 : Nat} {a3 : Nat} {a4 : Nat} (h_qe : UpQe P) (h_out : UpOut P) (hR : UpR P) (h : Keep P s) : Keep P (raise s a2 a3 a4) := by
  unfold raise
  repeat' first
    | with_reducible assumption
    | with_reducible refine keep_requestEvent h_qe h_out ?_
    | with_reducible refine keep_bumpF hR ?_
    | with_reducible refine keep_setF hR ?_
    | (extract_lets -underBinder -merge -useContext +onlyGivenNames x; with_reducible refine keep_cut (s := x) ?_ ?_; (on_goal 1 => unfold x); (on_goal 2 => (clear_value x; intro _)))
    | split

theorem keep_raise1 {a2 : Nat} {a3 : Fld} (h_qe : UpQe P) (h_out : UpOut P) (hR : UpR P) (h : Keep P s) : Keep P (raise1 s a2 a3) := by
  unfold raise1
  repeat' first
    | with_reducible assumption
    | with_reducible refine keep_raise h_qe h_out hR ?_

theorem keep_raise0 {a2 : Nat} {a3 : Fld} (h_qe : UpQe P) (h_out : UpOut P) (hR : UpR P) (h : Keep P s) : Keep P (raise0 s a2 a3) := by
  unfold raise0
  repeat' first
    | with_reducible assumption
    | with_reducible refine keep_raise h_qe h_out hR ?_

theorem keep_raiseGs {a2 : Fld} (h_qe : UpQe P) (h_out : UpOut P) (hR : UpR P) (h : Keep P s) : Keep P (raiseGs s a2) := by
  unfold raiseGs
  repeat' first
    | with_reducible assumption
    | with_reducible refine keep_raise h_qe h_out hR ?_

/-! ### Machine/Ops.lean -/


theorem keep_writeMem {a2 : Nat} {a3 : Bytes} (hW : UpW P) (h : Keep P s) : Keep P (writeMem s a2 a3) := by
  induction a3 generalizing s a2 with
  | nil =>
    rw [writeMem]
    repeat' first
      | with_reducible assumption
      | with_reducible apply ih
      | with_reducible refine keep_writeByte hW ?_
  | cons _ _ ih =>
    rw [writeMem]
    repeat' first
      | with_reducible assumption
      | with_reducible apply ih
      | with_reducible refine keep_writeByte hW ?_

theorem keep_zeroRange {a2 : Nat} {a3 : Nat} (hZ : UpZ P) (h : Keep P s) : Keep P (zeroRange s a2 a3) := by
  unfold zeroRange
  repeat' first
    | with_reducible assumption
    | with_reducible refine keep_zeroWhere hZ ?_

theorem keep_writeLogWords {a2 : Nat} {a3 : List Nat} (hR : UpR P) (h : Keep P s) : Keep P (writeLogWords s a2 a3) := by
  unfold writeLogWords
  repeat' first
    | with_reducible assumption
    | with_reducible refine keep_setR hR ?_
    | with_reducible refine keep_foldl (fun _ _ _ => ?_) ?_

theorem keep_tally {a2 : Nat} {a3 : Nat} (h_cf : UpCf P) (h : Keep P s) : Keep P (tally s a2 a3) := by
  unfold tally
  repeat' first
    | with_reducible assumption
    | fail_if_no_progress with_reducible refine keep_up_cf h_cf (keep_eta ?_)

theorem keep_logFailure {a2 : Failure} (h_qe : UpQe P) (h_pf : UpPf P) (h_cf : UpCf P) (h_out : UpOut P) (hR : UpR P) (h : Keep P s) : Keep P (logFailure s a2) := by
  unfold logFailure
  repeat' first
    | with_reducible assumption
    | with_reducible refine keep_tally h_cf ?_
    | with_reducible refine keep_writeLogWords hR ?_
    | with_reducible refine keep_raise1 h_qe h_out hR ?_
    | with_reducible refine keep_bumpF hR ?_
    | with_reducible refine keep_setF hR ?_
    | fail_if_no_progress with_reducible refine keep_up_pf h_pf (keep_eta ?_)
    | (extract_lets -underBinder -merge -useContext +onlyGivenNames x; with_reducible refine keep_cut (s := x) ?_ ?_; (on_goal 1 => unfold x); (on_goal 2 => (clear_value x; intro _)))
    | (extract_lets -underBinder -merge -useContext +onlyGivenNames x; clear_value x)
    | split

theorem keep_refetchOk {a2 : Nat} (h_qe : UpQe P) (h_cf : UpCf P) (h_out : UpOut P) (hR : UpR P) (h : Keep P s) : Keep P (refetchOk s a2) := by
  unfold refetchOk
  repeat' first
    | with_reducible assumption
    | with_reducible refine keep_tally h_cf ?_
    | with_reducible refine keep_raise1 h_qe h_out hR ?_
    | with_reducible refine keep_bumpR hR ?_
    | (extract_lets -underBinder -merge -useContext +onlyGivenNames x; with_reducible refine keep_cut (s := x) ?_ ?_; (on_goal 1 => unfold x); (on_goal 2 => (clear_value x; intro _)))
    | split

theorem keep_takeReads {a2 : Reads} (h_qe : UpQe P) (h_tm : UpTm P) (h_cf : UpCf P) (h_out : UpOut P) (hR : UpR P) (h : Keep P s) : Keep P (takeReads s a2) := by
  unfold takeReads
  repeat' first
    | with_reducible assumption
    | with_reducible refine keep_refetchOk h_qe h_cf h_out hR ?_
    | fail_if_no_progress with_reducible refine keep_up_tm h_tm (keep_eta ?_)
    | with_reducible refine keep_foldl (fun _ _ _ => ?_) ?_

theorem keep_spareSector {a2 : Nat} (h_qe : UpQe P) (h_tn : UpTn P) (h_out : UpOut P) (hR : UpR P) (h : Keep P s) : Keep P (spareSector s a2) := by
  unfold spareSector
  repeat' first
    | with_reducible assumption
    | with_reducible refine keep_raise0 h_qe h_out hR ?_
    | fail_if_no_progress with_reducible refine keep_up_tn h_tn (keep_eta ?_)
    | split

theorem keep_writeSector {a2 : Nat} (h_qe : UpQe P) (h_tn : UpTn P) (h_out : UpOut P) (hR : UpR P) (h : Keep P s) : Keep P (writeSector s a2) := by
  unfold writeSector
  repeat' first
    | with_reducible assumption
    | with_reducible refine keep_spareSector h_qe h_tn h_out hR ?_
    | fail_if_no_progress with_reducible refine keep_up_tn h_tn (keep_eta ?_)
    | (extract_lets -underBinder -merge -useContext +onlyGivenNames x; with_reducible refine keep_cut (s := x) ?_ ?_; (on_goal 1 => unfold x); (on_goal 2 => (clear_value x; intro _)))
    | (extract_lets -underBinder -merge -useContext +onlyGivenNames x; clear_value x)
    | split

theorem keep_commit {a2 : Nat} (h_qe : UpQe P) (h_tn : UpTn P) (h_out : UpOut P) (hR : UpR P) (h : Keep P s) : Keep P (commit s a2) := by
  unfold commit
  repeat' first
    | with_reducible assumption
    | with_reducible refine keep_writeSector h_qe h_tn h_out hR ?_

theorem keep_complete {a2 : Completion} (h_qe : UpQe P) (hR : UpR P) (h : Keep P s) : Keep P (complete s a2) := by
  unfold complete
  repeat' first
    | with_reducible assumption
    | with_reducible refine keep_bumpF hR ?_
    | fail_if_no_progress with_reducible refine keep_up_qe h_qe (keep_eta ?_)
    | (extract_lets -underBinder -merge -useContext +onlyGivenNames x; with_reducible refine keep_cut (s := x) ?_ ?_; (on_goal 1 => unfold x); (on_goal 2 => (clear_value x; intro _)))
    | (extract_lets -underBinder -merge -useContext +onlyGivenNames x; clear_value x)
    | split

theorem keep_completeWith {a2 : CmdRef} {a3 : Nat} {a4 : Nat} (h_qe : UpQe P) (hR : UpR P) (h : Keep P s) : Keep P (completeWith s a2 a3 a4) := by
  unfold completeWith
  repeat' first
    | with_reducible assumption
    | with_reducible refine keep_complete h_qe hR ?_

theorem keep_finish {a2 : CmdRef} {a3 : Nat} (h_qe : UpQe P) (hR : UpR P) (h : Keep P s) : Keep P (finish s a2 a3) := by
  unfold finish
  repeat' first
    | with_reducible assumption
    | with_reducible refine keep_complete h_qe hR ?_

theorem keep_finishAll {a2 : List CmdRef} {a3 : Nat} {a4 : Nat} (h_qe : UpQe P) (hR : UpR P) (h : Keep P s) : Keep P (finishAll s a2 a3 a4) := by
  unfold finishAll
  repeat' first
    | with_reducible assumption
    | with_reducible refine keep_completeWith h_qe hR ?_
    | with_reducible refine keep_foldl (fun _ _ _ => ?_) ?_

theorem keep_notice {a2 : Nat} {a3 : Nat} {a4 : Nat} {a5 : Nat} {a6 : Nat} {a7 : Nat} {a8 : Nat} (h_qe : UpQe P) (h : Keep P s) : KeepP P (notice s a2 a3 a4 a5 a6 a7 a8) := by
  unfold notice
  repeat' first
    | with_reducible assumption
    | fail_if_no_progress with_reducible refine keep_up_qe h_qe (keep_eta ?_)
    | (extract_lets -underBinder -merge -useContext +onlyGivenNames x; clear_value x)
    | split
    | with_reducible refine keepP_mk ?_

theorem keep_noticeOrLose {a2 : Nat} {a3 : Nat} {a4 : Nat} {a5 : Nat} {a6 : Nat} {a7 : Nat} {a8 : Nat} (h_qe : UpQe P) (h_out : UpOut P) (hR : UpR P) (h : Keep P s) : Keep P (noticeOrLose s a2 a3 a4 a5 a6 a7 a8) := by
  unfold noticeOrLose
  repeat' first
    | with_reducible assumption
    | with_reducible refine keepP_eq (keep_notice h_qe ?_) (by assumption)
    | with_reducible refine keep_raise h_qe h_out hR ?_
    | split

theorem keep_raiseQuota  (h_qe : UpQe P) (h_out : UpOut P) (hR : UpR P) (h : Keep P s) : Keep P (raiseQuota s) := by
  unfold raiseQuota
  repeat' first
    | with_reducible assumption
    | with_reducible refine keep_raise1 h_qe h_out hR ?_

theorem keep_raiseLimit  (h_qe : UpQe P) (h_out : UpOut P) (hR : UpR P) (h : Keep P s) : Keep P (raiseLimit s) := by
  unfold raiseLimit
  repeat' first
    | with_reducible assumption
    | with_reducible refine keep_raise1 h_qe h_out hR ?_

/-! ### Machine/Operands.lean -/


theorem keep_slotWrite {a2 : Nat} {a3 : Nat} {a4 : Bytes} (h_tm : UpTm P) (hW : UpW P) (h : Keep P s) : Keep P (slotWrite s a2 a3 a4) := by
  unfold slotWrite
  repeat' first
    | with_reducible assumption
    | with_reducible refine keep_writeMem hW ?_
    | fail_if_no_progress with_reducible refine keep_up_tm h_tm (keep_eta ?_)
    | (extract_lets -underBinder -merge -useContext +onlyGivenNames x; clear_value x)
    | split

/-! ### Machine/Slots.lean -/


theorem keep_addUse {a2 : Nat} {a3 : Nat} {a4 : Nat} (hR : UpR P) (h : Keep P s) : Keep P (addUse s a2 a3 a4) := by
  unfold addUse
  repeat' first
    | with_reducible assumption
    | with_reducible refine keep_setF hR ?_

theorem keep_subUse {a2 : Nat} {a3 : Nat} {a4 : Nat} (hR : UpR P) (h : Keep P s) : Keep P (subUse s a2 a3 a4) := by
  unfold subUse
  repeat' first
    | with_reducible assumption
    | with_reducible refine keep_setF hR ?_

theorem keep_takeSlot {a2 : Nat} {a3 : Nat} {a4 : Nat} (h_pm : UpPm P) (hR : UpR P) (h : Keep P s) : Keep P (takeSlot s a2 a3 a4) := by
  unfold takeSlot
  repeat' first
    | with_reducible assumption
    | with_reducible refine keep_addUse hR ?_
    | fail_if_no_progress with_reducible refine keep_up_pm h_pm (keep_eta ?_)

theorem keep_andTake {a1 : Option Nat} {a2 : Nat → Except AllocFail (List Nat × State)} (ha2 : ∀ x0, KeepExP P (a2 x0)) : KeepExP P (andTake a1 a2) := by
  unfold andTake
  repeat' first
    | with_reducible refine keepExP_eq (ha2 _) (by assumption)
    | with_reducible refine keepExP_ok ?_
    | with_reducible exact keepExP_error
    | split

theorem keep_takeWide {a2 : Nat} {a3 : Nat} {a4 : Nat} (h_pm : UpPm P) (hR : UpR P) (h : Keep P s) : KeepExP P (takeWide s a2 a3 a4) := by
  induction a4 generalizing s a2 a3 with
  | zero =>
    rw [takeWide]
    repeat' first
      | with_reducible assumption
      | with_reducible apply ih
      | with_reducible refine keepExP_ok ?_
      | with_reducible refine keep_andTake ?_
      | with_reducible refine keep_takeSlot h_pm hR ?_
      | with_reducible intro _
  | succ _ ih =>
    rw [takeWide]
    repeat' first
      | with_reducible assumption
      | with_reducible apply ih
      | with_reducible refine keepExP_ok ?_
      | with_reducible refine keep_andTake ?_
      | with_reducible refine keep_takeSlot h_pm hR ?_
      | with_reducible intro _

theorem keep_takeNarrow {a2 : Nat} {a3 : Nat} {a4 : Nat} {a5 : Nat} (h_pm : UpPm P) (hR : UpR P) (h : Keep P s) : KeepExP P (takeNarrow s a2 a3 a4 a5) := by
  induction a5 generalizing s a2 a3 a4 with
  | zero =>
    rw [takeNarrow]
    repeat' first
      | with_reducible assumption
      | with_reducible apply ih
      | with_reducible refine keepExP_ok ?_
      | with_reducible refine keep_andTake ?_
      | with_reducible refine keep_takeSlot h_pm hR ?_
      | with_reducible intro _
  | succ _ ih =>
    rw [takeNarrow]
    repeat' first
      | with_reducible assumption
      | with_reducible apply ih
      | with_reducible refine keepExP_ok ?_
      | with_reducible refine keep_andTake ?_
      | with_reducible refine keep_takeSlot h_pm hR ?_
      | with_reducible intro _

theorem keep_takeCxl {a2 : Nat} {a3 : Nat} {a4 : Nat} (h_pm : UpPm P) (hR : UpR P) (h : Keep P s) : KeepExP P (takeCxl s a2 a3 a4) := by
  induction a4 generalizing s a2 a3 with
  | zero =>
    rw [takeCxl]
    repeat' first
      | with_reducible assumption
      | with_reducible apply ih
      | with_reducible refine keepExP_ok ?_
      | with_reducible refine keep_andTake ?_
      | with_reducible refine keep_takeSlot h_pm hR ?_
      | with_reducible intro _
  | succ _ ih =>
    rw [takeCxl]
    repeat' first
      | with_reducible assumption
      | with_reducible apply ih
      | with_reducible refine keepExP_ok ?_
      | with_reducible refine keep_andTake ?_
      | with_reducible refine keep_takeSlot h_pm hR ?_
      | with_reducible intro _

theorem keep_takeGddr {a2 : Nat} {a3 : Nat} {a4 : Nat} {a5 : Bool} {a6 : Nat} (h_qe : UpQe P) (h_pm : UpPm P) (h_out : UpOut P) (hR : UpR P) (h : Keep P s) : KeepExS P (takeGddr s a2 a3 a4 a5 a6) := by
  unfold takeGddr
  repeat' first
    | with_reducible assumption
    | with_reducible refine keepExS_ok ?_
    | with_reducible refine keepExS_error ?_
    | with_reducible refine keepExP_eq (keep_takeNarrow h_pm hR ?_) (by assumption)
    | with_reducible refine keepExP_eq (keep_takeWide h_pm hR ?_) (by assumption)
    | with_reducible refine keep_raise1 h_qe h_out hR ?_
    | (extract_lets -underBinder -merge -useContext +onlyGivenNames x; have := (fun (_ : _ → _) => trivial) x; unfold x; clear this x; beta_reduce)
    | split

theorem keep_freeFlash {a2 : Nat} (h_qe : UpQe P) (h_tm : UpTm P) (h_out : UpOut P) (hR : UpR P) (h : Keep P s) : Keep P (freeFlash s a2) := by
  unfold freeFlash
  repeat' first
    | with_reducible assumption
    | with_reducible refine keep_raise1 h_qe h_out hR ?_
    | with_reducible refine keep_emit h_out ?_
    | fail_if_no_progress with_reducible refine keep_up_tm h_tm (keep_eta ?_)
    | (extract_lets -underBinder -merge -useContext +onlyGivenNames x; with_reducible refine keep_cut (s := x) ?_ ?_; (on_goal 1 => unfold x); (on_goal 2 => (clear_value x; intro _)))
    | (extract_lets -underBinder -merge -useContext +onlyGivenNames x; clear_value x)
    | split

theorem keep_freeSlot {a2 : Nat} (h_qe : UpQe P) (h_pm : UpPm P) (h_tm : UpTm P) (h_out : UpOut P) (hR : UpR P) (h : Keep P s) : Keep P (freeSlot s a2) := by
  unfold freeSlot
  repeat' first
    | with_reducible assumption
    | with_reducible refine keep_freeFlash h_qe h_tm h_out hR ?_
    | fail_if_no_progress with_reducible refine keep_up_pm h_pm (keep_eta ?_)
    | fail_if_no_progress with_reducible refine keep_up_tm h_tm (keep_eta ?_)
    | (extract_lets -underBinder -merge -useContext +onlyGivenNames x; with_reducible refine keep_cut (s := x) ?_ ?_; (on_goal 1 => unfold x); (on_goal 2 => (clear_value x; intro _)))
    | (extract_lets -underBinder -merge -useContext +onlyGivenNames x; clear_value x)
    | split

theorem keep_untakeSlots {a2 : Nat} {a3 : List Nat} (h_qe : UpQe P) (h_pm : UpPm P) (h_tm : UpTm P) (h_out : UpOut P) (hR : UpR P) (h : Keep P s) : Keep P (untakeSlots s a2 a3) := by
  unfold untakeSlots
  repeat' first
    | with_reducible assumption
    | with_reducible refine keep_freeSlot h_qe h_pm h_tm h_out hR ?_
    | with_reducible refine keep_subUse hR ?_
    | with_reducible refine keep_foldl (fun _ _ _ => ?_) ?_

theorem keep_barMoves {a2 : List Nat} (h_pm : UpPm P) (h : Keep P s) : Keep P (barMoves s a2) := by
  unfold barMoves
  repeat' first
    | with_reducible assumption
    | fail_if_no_progress with_reducible refine keep_up_pm h_pm (keep_eta ?_)

theorem keep_setUse {a2 : Nat} {a3 : SlotUse} (h_pm : UpPm P) (h : Keep P s) : Keep P (setUse s a2 a3) := by
  unfold setUse
  repeat' first
    | with_reducible assumption
    | fail_if_no_progress with_reducible refine keep_up_pm h_pm (keep_eta ?_)

theorem keep_takeRun {a2 : Nat} (h_pm : UpPm P) (h : Keep P s) : KeepOptP P (takeRun s a2) := by
  unfold takeRun
  repeat' first
    | with_reducible assumption
    | with_reducible refine keepOptP_some ?_
    | with_reducible exact keepOptP_none
    | fail_if_no_progress with_reducible refine keep_up_pm h_pm (keep_eta ?_)
    | (extract_lets -underBinder -merge -useContext +onlyGivenNames x; clear_value x)
    | split

theorem keep_freeRun {a2 : Nat} (h_pm : UpPm P) (h : Keep P s) : Keep P (freeRun s a2) := by
  unfold freeRun
  repeat' first
    | with_reducible assumption
    | fail_if_no_progress with_reducible refine keep_up_pm h_pm (keep_eta ?_)

/-! ### Machine/Maps.lean -/


theorem keep_fillLine {a2 : Nat} {a3 : Nat} {a4 : Bytes} (h_pm : UpPm P) (h : Keep P s) : Keep P (fillLine s a2 a3 a4) := by
  unfold fillLine
  repeat' first
    | with_reducible assumption
    | fail_if_no_progress with_reducible refine keep_up_pm h_pm (keep_eta ?_)
    | (extract_lets -underBinder -merge -useContext +onlyGivenNames x; clear_value x)
    | split

theorem keep_fillCtx {a2 : Nat} (h_pm : UpPm P) (h : Keep P s) : Keep P (fillCtx s a2) := by
  unfold fillCtx
  repeat' first
    | with_reducible assumption
    | with_reducible refine keep_fillLine h_pm ?_
    | split

theorem keep_writeCtx {a2 : Nat} {a3 : Bytes} (h_pm : UpPm P) (hW : UpW P) (h : Keep P s) : Keep P (writeCtx s a2 a3) := by
  unfold writeCtx
  repeat' first
    | with_reducible assumption
    | with_reducible refine keep_writeMem hW ?_
    | fail_if_no_progress with_reducible refine keep_up_pm h_pm (keep_eta ?_)

theorem keep_updCtx {a2 : Nat} {a3 : Bytes → Bytes} (h_pm : UpPm P) (hW : UpW P) (h : Keep P s) : Keep P (updCtx s a2 a3) := by
  unfold updCtx
  repeat' first
    | with_reducible assumption
    | with_reducible refine keep_writeCtx h_pm hW ?_
    | split

theorem keep_markCtx {a2 : Nat} (h_cx : UpCx P) (h : Keep P s) : Keep P (markCtx s a2) := by
  unfold markCtx
  repeat' first
    | with_reducible assumption
    | fail_if_no_progress with_reducible refine keep_up_cx h_cx (keep_eta ?_)

theorem keep_descFailed {a2 : Nat} {a3 : Failure} (h_qe : UpQe P) (h_cx : UpCx P) (h_pf : UpPf P) (h_cf : UpCf P) (h_out : UpOut P) (hR : UpR P) (h : Keep P s) : Keep P (descFailed s a2 a3) := by
  unfold descFailed
  repeat' first
    | with_reducible assumption
    | with_reducible refine keep_markCtx h_cx ?_
    | with_reducible refine keep_logFailure h_qe h_pf h_cf h_out hR ?_
    | with_reducible refine keep_raise1 h_qe h_out hR ?_
    | split

theorem keep_readCtx {a2 : Nat} {a3 : Nat} (h_qe : UpQe P) (h_cx : UpCx P) (h_pm : UpPm P) (h_pf : UpPf P) (h_cf : UpCf P) (h_out : UpOut P) (hR : UpR P) (h : Keep P s) : KeepExS P (readCtx s a2 a3) := by
  unfold readCtx
  repeat' first
    | with_reducible assumption
    | with_reducible refine keepExS_ok ?_
    | with_reducible refine keepExS_error ?_
    | with_reducible refine keep_descFailed h_qe h_cx h_pf h_cf h_out hR ?_
    | with_reducible refine keep_fillCtx h_pm ?_
    | split

theorem keep_setCtxState {a2 : Nat} {a3 : Nat} (h_cx : UpCx P) (h_pm : UpPm P) (hW : UpW P) (h : Keep P s) : Keep P (setCtxState s a2 a3) := by
  unfold setCtxState
  repeat' first
    | with_reducible assumption
    | with_reducible refine keep_updCtx h_pm hW ?_
    | fail_if_no_progress with_reducible refine keep_up_cx h_cx (keep_eta ?_)

theorem keep_keepPage {a2 : Nat} {a3 : Nat × Nat × Nat} (h_cx : UpCx P) (h : Keep P s) : Keep P (keepPage s a2 a3) := by
  unfold keepPage
  repeat' first
    | with_reducible assumption
    | fail_if_no_progress with_reducible refine keep_up_cx h_cx (keep_eta ?_)

theorem keep_setCtxOp {a2 : Nat} {a3 : Option CtxOp} (h_cx : UpCx P) (h : Keep P s) : Keep P (setCtxOp s a2 a3) := by
  unfold setCtxOp
  repeat' first
    | with_reducible assumption
    | fail_if_no_progress with_reducible refine keep_up_cx h_cx (keep_eta ?_)

theorem keep_zeroTable  (h_cx : UpCx P) (hZ : UpZ P) (h : Keep P s) : Keep P (zeroTable s) := by
  unfold zeroTable
  repeat' first
    | with_reducible assumption
    | with_reducible refine keep_zeroRange hZ ?_
    | fail_if_no_progress with_reducible refine keep_up_cx h_cx (keep_eta ?_)

theorem keep_startZeroing  (h_cx : UpCx P) (hZ : UpZ P) (h : Keep P s) : Keep P (startZeroing s) := by
  unfold startZeroing
  repeat' first
    | with_reducible assumption
    | with_reducible refine keep_zeroTable h_cx hZ ?_
    | split

theorem keep_writeSet {a2 : Nat} {a3 : List Nat} (h_cx : UpCx P) (hW : UpW P) (h : Keep P s) : Keep P (writeSet s a2 a3) := by
  unfold writeSet
  repeat' first
    | with_reducible assumption
    | with_reducible refine keep_writeMem hW ?_
    | fail_if_no_progress with_reducible refine keep_up_cx h_cx (keep_eta ?_)

theorem keep_waitLocks {a2 : LockReader} {a3 : List Nat} (h_bb : UpBb P) (h : Keep P s) : Keep P (waitLocks s a2 a3) := by
  unfold waitLocks
  repeat' first
    | with_reducible assumption
    | fail_if_no_progress with_reducible refine keep_up_bb h_bb (keep_eta ?_)

theorem keep_freeOne {a2 : FreeWhat} (h_qe : UpQe P) (h_pm : UpPm P) (h_tm : UpTm P) (h_out : UpOut P) (hR : UpR P) (h : Keep P s) : Keep P (freeOne s a2) := by
  unfold freeOne
  repeat' first
    | with_reducible assumption
    | with_reducible refine keep_freeRun h_pm ?_
    | with_reducible refine keep_freeSlot h_qe h_pm h_tm h_out hR ?_
    | split

theorem keep_freeDeferred  (h_qe : UpQe P) (h_pm : UpPm P) (h_tm : UpTm P) (h_out : UpOut P) (hR : UpR P) (h : Keep P s) : Keep P (freeDeferred s) := by
  unfold freeDeferred
  repeat' first
    | with_reducible assumption
    | with_reducible refine keep_freeOne h_qe h_pm h_tm h_out hR ?_
    | fail_if_no_progress with_reducible refine keep_up_pm h_pm (keep_eta ?_)
    | with_reducible refine keep_foldl (fun _ _ _ => ?_) ?_

theorem keep_walkEnd {a2 : Nat} (h_qe : UpQe P) (h_pm : UpPm P) (h_tm : UpTm P) (h_out : UpOut P) (hR : UpR P) (h : Keep P s) : Keep P (walkEnd s a2) := by
  unfold walkEnd
  repeat' first
    | with_reducible assumption
    | with_reducible refine keep_freeDeferred h_qe h_pm h_tm h_out hR ?_
    | fail_if_no_progress with_reducible refine keep_up_pm h_pm (keep_eta ?_)

theorem keep_walkEndQ {a2 : Option Nat} (h_qe : UpQe P) (h_pm : UpPm P) (h_tm : UpTm P) (h_out : UpOut P) (hR : UpR P) (h : Keep P s) : Keep P (walkEnd? s a2) := by
  unfold walkEnd?
  repeat' first
    | with_reducible assumption
    | with_reducible refine keep_walkEnd h_qe h_pm h_tm h_out hR ?_
    | split

theorem keep_waitWalker {a2 : WalkOwner} (h_pm : UpPm P) (h : Keep P s) : Keep P (waitWalker s a2) := by
  unfold waitWalker
  repeat' first
    | with_reducible assumption
    | fail_if_no_progress with_reducible refine keep_up_pm h_pm (keep_eta ?_)
    | split

theorem keep_leaveWalk {a2 : WalkOwner} (h_pm : UpPm P) (hR : UpR P) (h : Keep P s) : Keep P (leaveWalk s a2) := by
  unfold leaveWalk
  repeat' first
    | with_reducible assumption
    | with_reducible refine keep_bumpR hR ?_
    | fail_if_no_progress with_reducible refine keep_up_pm h_pm (keep_eta ?_)
    | with_reducible refine keep_foldl (fun _ _ _ => ?_) ?_

theorem keep_leaveEdit {a2 : EditOwner} (h_pm : UpPm P) (hR : UpR P) (h : Keep P s) : Keep P (leaveEdit s a2) := by
  unfold leaveEdit
  repeat' first
    | with_reducible assumption
    | with_reducible refine keep_bumpR hR ?_
    | fail_if_no_progress with_reducible refine keep_up_pm h_pm (keep_eta ?_)
    | with_reducible refine keep_foldl (fun _ _ _ => ?_) ?_

theorem keep_writeEntry {a2 : Nat} {a3 : Nat} (hW : UpW P) (h : Keep P s) : Keep P (writeEntry s a2 a3) := by
  unfold writeEntry
  repeat' first
    | with_reducible assumption
    | with_reducible refine keep_writeMem hW ?_

theorem keep_markEntry {a2 : Failure} (h_pm : UpPm P) (h : Keep P s) : Keep P (markEntry s a2) := by
  unfold markEntry
  repeat' first
    | with_reducible assumption
    | fail_if_no_progress with_reducible refine keep_up_pm h_pm (keep_eta ?_)
    | split

theorem keep_forgetBad {a2 : Nat} (h_pm : UpPm P) (h : Keep P s) : Keep P (forgetBad s a2) := by
  unfold forgetBad
  repeat' first
    | with_reducible assumption
    | fail_if_no_progress with_reducible refine keep_up_pm h_pm (keep_eta ?_)

theorem keep_moveBad {a2 : Nat} {a3 : Nat} {a4 : Nat} (h_pm : UpPm P) (h : Keep P s) : Keep P (moveBad s a2 a3 a4) := by
  unfold moveBad
  repeat' first
    | with_reducible assumption
    | fail_if_no_progress with_reducible refine keep_up_pm h_pm (keep_eta ?_)
    | with_reducible refine keep_foldl (fun _ _ _ => ?_) ?_

theorem keep_fillWalk {a2 : Nat} {a3 : Bytes} {a4 : Option Nat} (h_pm : UpPm P) (h : Keep P s) : Keep P (fillWalk s a2 a3 a4) := by
  unfold fillWalk
  repeat' first
    | with_reducible assumption
    | with_reducible refine keep_fillLine h_pm ?_
    | with_reducible refine keep_foldl (fun _ _ _ => ?_) ?_
    | (extract_lets -underBinder -merge -useContext +onlyGivenNames x; with_reducible refine keep_cut (s := x) ?_ ?_; (on_goal 1 => unfold x); (on_goal 2 => (clear_value x; intro _)))
    | split

theorem keep_walkStart {a2 : Nat} {a3 : Option Nat} {a4 : WalkOwner} (h_pm : UpPm P) (h : Keep P s) : KeepOptP P (walkStart s a2 a3 a4) := by
  unfold walkStart
  repeat' first
    | with_reducible assumption
    | with_reducible refine keepOptP_some ?_
    | with_reducible exact keepOptP_none
    | with_reducible refine keep_fillWalk h_pm ?_
    | fail_if_no_progress with_reducible refine keep_up_pm h_pm (keep_eta ?_)
    | (extract_lets -underBinder -merge -useContext +onlyGivenNames x; with_reducible refine keep_cutA (P := P) (s := x) ?_ ?_; (on_goal 1 => unfold x); (on_goal 2 => (clear_value x; intro _)))
    | (extract_lets -underBinder -merge -useContext +onlyGivenNames x; clear_value x)
    | split

theorem keep_entryFailed {a2 : Failure} (h_qe : UpQe P) (h_cx : UpCx P) (h_pm : UpPm P) (h_pf : UpPf P) (h_cf : UpCf P) (h_out : UpOut P) (hR : UpR P) (h : Keep P s) : Keep P (entryFailed s a2) := by
  unfold entryFailed
  repeat' first
    | with_reducible assumption
    | with_reducible refine keep_markEntry h_pm ?_
    | with_reducible refine keep_descFailed h_qe h_cx h_pf h_cf h_out hR ?_
    | with_reducible refine keep_logFailure h_qe h_pf h_cf h_out hR ?_
    | with_reducible refine keep_raise1 h_qe h_out hR ?_
    | split

theorem keep_writeChange {a1 : Nat} {a2 : Nat} {a3 : Nat} {a5 : Change} (h_pm : UpPm P) (hR : UpR P) (hW : UpW P) (h : Keep P s) : Keep P (writeChange a1 a2 a3 s a5) := by
  unfold writeChange
  repeat' first
    | with_reducible assumption
    | with_reducible refine keep_writeEntry hW ?_
    | with_reducible refine keep_updCtx h_pm hW ?_
    | with_reducible refine keep_setUse h_pm ?_
    | with_reducible refine keep_subUse hR ?_
    | fail_if_no_progress with_reducible refine keep_up_pm h_pm (keep_eta ?_)
    | (extract_lets -underBinder -merge -useContext +onlyGivenNames x; with_reducible refine keep_cut (s := x) ?_ ?_; (on_goal 1 => unfold x); (on_goal 2 => (clear_value x; intro _)))
    | (extract_lets -underBinder -merge -useContext +onlyGivenNames x; clear_value x)
    | fail_if_no_progress extract_lets -underBinder -merge -useContext +onlyGivenNames x
    | split

theorem keep_edit {a2 : Nat} {a3 : Nat} {a4 : Nat} {a5 : List Change} (h_qe : UpQe P) (h_pm : UpPm P) (h_tm : UpTm P) (h_out : UpOut P) (hR : UpR P) (hW : UpW P) (h : Keep P s) : KeepEdit P (edit s a2 a3 a4 a5) := by
  unfold edit
  repeat' first
    | with_reducible assumption
    | with_reducible refine keepEdit_done ?_
    | with_reducible exact keepEdit_wait
    | with_reducible exact keepEdit_bad
    | with_reducible refine keep_writeChange h_pm hR hW ?_
    | with_reducible refine keep_freeDeferred h_qe h_pm h_tm h_out hR ?_
    | with_reducible refine keep_updCtx h_pm hW ?_
    | with_reducible refine keep_foldl (fun _ _ _ => ?_) ?_
    | (extract_lets -underBinder -merge -useContext +onlyGivenNames x; clear_value x)
    | split

theorem keep_editStalled {a2 : Bool} (h_qe : UpQe P) (h_out : UpOut P) (hR : UpR P) (h : Keep P s) : Keep P (editStalled s a2) := by
  unfold editStalled
  repeat' first
    | with_reducible assumption
    | with_reducible refine keep_raise1 h_qe h_out hR ?_
    | split

theorem keep_waitEdit {a2 : EditOwner} {a3 : Bool} (h_qe : UpQe P) (h_pm : UpPm P) (h_out : UpOut P) (hR : UpR P) (h : Keep P s) : Keep P (waitEdit s a2 a3) := by
  unfold waitEdit
  repeat' first
    | with_reducible assumption
    | with_reducible refine keep_editStalled h_qe h_out hR ?_
    | fail_if_no_progress with_reducible refine keep_up_pm h_pm (keep_eta ?_)
    | (extract_lets -underBinder -merge -useContext +onlyGivenNames x; with_reducible refine keep_cut (s := x) ?_ ?_; (on_goal 1 => unfold x); (on_goal 2 => (clear_value x; intro _)))
    | (extract_lets -underBinder -merge -useContext +onlyGivenNames x; clear_value x)
    | split

theorem keep_writeRun {a2 : Nat} {a3 : Nat} {a4 : Nat} {a5 : Option (Nat × Nat)} {a6 : Nat} {a7 : Nat} {a8 : Nat} (h_qe : UpQe P) (h_pm : UpPm P) (h_tm : UpTm P) (h_out : UpOut P) (hR : UpR P) (hW : UpW P) (hZ : UpZ P) (h : Keep P s) : Keep P (writeRun s a2 a3 a4 a5 a6 a7 a8) := by
  unfold writeRun
  repeat' first
    | with_reducible assumption
    | with_reducible refine keep_moveBad h_pm ?_
    | with_reducible refine keep_writeEntry hW ?_
    | with_reducible refine keep_freeDeferred h_qe h_pm h_tm h_out hR ?_
    | with_reducible refine keep_updCtx h_pm hW ?_
    | with_reducible refine keep_zeroRange hZ ?_
    | with_reducible refine keep_writeMem hW ?_
    | fail_if_no_progress with_reducible refine keep_up_pm h_pm (keep_eta ?_)
    | split

theorem keep_growFrom {a2 : Nat} {a3 : Nat} {a4 : Nat} {a5 : Nat} {a6 : Bytes} {a7 : Option (Nat × Nat)} (h_qe : UpQe P) (h_pm : UpPm P) (h_tm : UpTm P) (h_out : UpOut P) (hR : UpR P) (hW : UpW P) (hZ : UpZ P) (h : Keep P s) : KeepGrow P (growFrom s a2 a3 a4 a5 a6 a7) := by
  unfold growFrom
  repeat' first
    | with_reducible assumption
    | with_reducible refine keepGrow_done ?_
    | with_reducible refine keepGrow_full ?_
    | with_reducible exact keepGrow_wait
    | with_reducible exact keepGrow_bad
    | with_reducible refine keep_writeRun h_qe h_pm h_tm h_out hR hW hZ ?_
    | with_reducible refine keepOptP_eq (keep_takeRun h_pm ?_) (by assumption)
    | with_reducible refine keep_raise1 h_qe h_out hR ?_
    | (extract_lets -underBinder -merge -useContext +onlyGivenNames x; clear_value x)
    | split

theorem keep_growRun {a2 : Nat} {a3 : Nat} {a4 : Nat} {a5 : Nat} (h_qe : UpQe P) (h_pm : UpPm P) (h_tm : UpTm P) (h_out : UpOut P) (hR : UpR P) (hW : UpW P) (hZ : UpZ P) (h : Keep P s) : KeepGrow P (growRun s a2 a3 a4 a5) := by
  unfold growRun
  repeat' first
    | with_reducible assumption
    | with_reducible refine keepGrow_done ?_
    | with_reducible exact keepGrow_bad
    | with_reducible refine keep_growFrom h_qe h_pm h_tm h_out hR hW hZ ?_
    | (extract_lets -underBinder -merge -useContext +onlyGivenNames x; clear_value x)
    | split

theorem keep_pageFailed {a2 : Failure} (h_qe : UpQe P) (h_pf : UpPf P) (h_cf : UpCf P) (h_out : UpOut P) (hR : UpR P) (h : Keep P s) : Keep P (pageFailed s a2) := by
  unfold pageFailed
  repeat' first
    | with_reducible assumption
    | with_reducible refine keep_logFailure h_qe h_pf h_cf h_out hR ?_
    | with_reducible refine keep_raise1 h_qe h_out hR ?_
    | split

theorem keep_pageFailedAt {a2 : Option Nat} {a3 : Failure} (h_qe : UpQe P) (h_pf : UpPf P) (h_cf : UpCf P) (h_out : UpOut P) (hR : UpR P) (h : Keep P s) : Keep P (pageFailedAt s a2 a3) := by
  unfold pageFailedAt
  repeat' first
    | with_reducible assumption
    | with_reducible refine keep_pageFailed h_qe h_pf h_cf h_out hR ?_
    | with_reducible refine keep_tally h_cf ?_
    | with_reducible refine keep_raise1 h_qe h_out hR ?_
    | split

/-! ### Machine/Links.lean -/


theorem keep_setPort {a2 : Nat} {a3 : Port} (h_fl : UpFl P) (h : Keep P s) : Keep P (setPort s a2 a3) := by
  unfold setPort
  repeat' first
    | with_reducible assumption
    | fail_if_no_progress with_reducible refine keep_up_fl h_fl (keep_eta ?_)

theorem keep_updPort {a2 : Nat} {a3 : Port → Port} (h_fl : UpFl P) (h : Keep P s) : Keep P (updPort s a2 a3) := by
  unfold updPort
  repeat' first
    | with_reducible assumption
    | with_reducible refine keep_setPort h_fl ?_

theorem keep_setPortState {a2 : Nat} {a3 : Nat} (hR : UpR P) (h : Keep P s) : Keep P (setPortState s a2 a3) := by
  unfold setPortState
  repeat' first
    | with_reducible assumption
    | with_reducible refine keep_setF hR ?_

theorem keep_sendLcf {a2 : Nat} {a3 : Bytes} (h_fl : UpFl P) (h : Keep P s) : Keep P (sendLcf s a2 a3) := by
  unfold sendLcf
  repeat' first
    | with_reducible assumption
    | with_reducible refine keep_updPort h_fl ?_
    | split

theorem keep_sendPause {a2 : Nat} {a3 : List Nat} (h_fl : UpFl P) (h : Keep P s) : Keep P (sendPause s a2 a3) := by
  unfold sendPause
  repeat' first
    | with_reducible assumption
    | with_reducible refine keep_sendLcf h_fl ?_
    | with_reducible refine keep_updPort h_fl ?_
    | (extract_lets -underBinder -merge -useContext +onlyGivenNames x; clear_value x)
    | split

theorem keep_pauseIfHigh {a2 : Nat} {a3 : Nat} {a4 : Nat} (h_fl : UpFl P) (h : Keep P s) : Keep P (pauseIfHigh s a2 a3 a4) := by
  unfold pauseIfHigh
  repeat' first
    | with_reducible assumption
    | with_reducible refine keep_sendPause h_fl ?_
    | with_reducible refine keep_updPort h_fl ?_
    | split

theorem keep_releaseClasses {a2 : Nat} {a3 : List Nat} (h_fl : UpFl P) (h : Keep P s) : Keep P (releaseClasses s a2 a3) := by
  unfold releaseClasses
  repeat' first
    | with_reducible assumption
    | with_reducible refine keep_sendPause h_fl ?_
    | with_reducible refine keep_updPort h_fl ?_
    | (extract_lets -underBinder -merge -useContext +onlyGivenNames x; with_reducible refine keep_cut (s := x) ?_ ?_; (on_goal 1 => unfold x); (on_goal 2 => (clear_value x; intro _)))
    | split

theorem keep_releaseIfLow {a2 : Nat} {a3 : Nat} (h_fl : UpFl P) (h : Keep P s) : Keep P (releaseIfLow s a2 a3) := by
  unfold releaseIfLow
  repeat' first
    | with_reducible assumption
    | with_reducible refine keep_releaseClasses h_fl ?_
    | split

theorem keep_enterRegion {a2 : Nat} {a3 : Frame} (h_qe : UpQe P) (h_fl : UpFl P) (h_out : UpOut P) (hR : UpR P) (h : Keep P s) : KeepP P (enterRegion s a2 a3) := by
  unfold enterRegion
  repeat' first
    | with_reducible assumption
    | with_reducible refine keep_pauseIfHigh h_fl ?_
    | with_reducible refine keep_updPort h_fl ?_
    | with_reducible refine keep_raise1 h_qe h_out hR ?_
    | split
    | with_reducible refine keepP_mk ?_

theorem keep_leaveRegion {a2 : Nat} {a3 : Nat} {a4 : Frame → Bool} (h_fl : UpFl P) (h : Keep P s) : Keep P (leaveRegion s a2 a3 a4) := by
  unfold leaveRegion
  repeat' first
    | with_reducible assumption
    | with_reducible refine keep_releaseIfLow h_fl ?_
    | with_reducible refine keep_updPort h_fl ?_

theorem keep_takePacket {a2 : Nat} {a3 : Nat} (h_fl : UpFl P) (h : Keep P s) : Keep P (takePacket s a2 a3) := by
  unfold takePacket
  repeat' first
    | with_reducible assumption
    | with_reducible refine keep_leaveRegion h_fl ?_

theorem keep_setQueue {a2 : Nat} {a3 : Nat} {a4 : List Frame} (h_es : UpEs P) (h : Keep P s) : Keep P (setQueue s a2 a3 a4) := by
  unfold setQueue
  repeat' first
    | with_reducible assumption
    | fail_if_no_progress with_reducible refine keep_up_es h_es (keep_eta ?_)

theorem keep_enqueue {a2 : Nat} {a3 : Frame} (h_es : UpEs P) (h : Keep P s) : Keep P (enqueue s a2 a3) := by
  unfold enqueue
  repeat' first
    | with_reducible assumption
    | with_reducible refine keep_setQueue h_es ?_

theorem keep_setShaperCredit {a2 : Nat} {a3 : Nat} {a4 : ℤ} (h_es : UpEs P) (h : Keep P s) : Keep P (setShaperCredit s a2 a3 a4) := by
  unfold setShaperCredit
  repeat' first
    | with_reducible assumption
    | fail_if_no_progress with_reducible refine keep_up_es h_es (keep_eta ?_)

theorem keep_checkSuspend {a2 : Nat} (h_qe : UpQe P) (h_out : UpOut P) (hR : UpR P) (h : Keep P s) : Keep P (checkSuspend s a2) := by
  unfold checkSuspend
  repeat' first
    | with_reducible assumption
    | with_reducible refine keep_raise1 h_qe h_out hR ?_
    | with_reducible refine keep_setB hR ?_
    | split

theorem keep_countHold {a2 : Nat} {a3 : Nat} (hR : UpR P) (h : Keep P s) : Keep P (countHold s a2 a3) := by
  unfold countHold
  repeat' first
    | with_reducible assumption
    | with_reducible refine keep_bumpR hR ?_
    | split

theorem keep_countHolds  (hR : UpR P) (h : Keep P s) : Keep P (countHolds s) := by
  unfold countHolds
  repeat' first
    | with_reducible assumption
    | with_reducible refine keep_countHold hR ?_
    | with_reducible refine keep_foldl (fun _ _ _ => ?_) ?_

theorem keep_noteExcess {a2 : Nat} {a3 : Nat} {a4 : Nat} (hR : UpR P) (h : Keep P s) : Keep P (noteExcess s a2 a3 a4) := by
  unfold noteExcess
  repeat' first
    | with_reducible assumption
    | with_reducible refine keep_bumpF hR ?_
    | with_reducible refine keep_setF hR ?_
    | (extract_lets -underBinder -merge -useContext +onlyGivenNames x; clear_value x)
    | split

theorem keep_endStage {a2 : Stage} (h_ae : UpAe P) (hR : UpR P) (h : Keep P s) : Keep P (endStage s a2) := by
  unfold endStage
  repeat' first
    | with_reducible assumption
    | with_reducible refine keep_noteExcess hR ?_
    | fail_if_no_progress with_reducible refine keep_up_ae h_ae (keep_eta ?_)
    | split

theorem keep_startFrame {a2 : Nat} {a3 : Nat} {a4 : Frame} (h_ae : UpAe P) (h_fl : UpFl P) (h_es : UpEs P) (h_out : UpOut P) (hR : UpR P) (h : Keep P s) : Keep P (startFrame s a2 a3 a4) := by
  unfold startFrame
  repeat' first
    | with_reducible assumption
    | with_reducible refine keep_endStage h_ae hR ?_
    | with_reducible refine keep_setShaperCredit h_es ?_
    | with_reducible refine keep_setQueue h_es ?_
    | with_reducible refine keep_leaveRegion h_fl ?_
    | with_reducible refine keep_emit h_out ?_
    | with_reducible refine keep_foldl (fun _ _ _ => ?_) ?_
    | split

theorem keep_setBucket {a2 : Nat} {a3 : ℤ} (h_im : UpIm P) (h : Keep P s) : Keep P (setBucket s a2 a3) := by
  unfold setBucket
  repeat' first
    | with_reducible assumption
    | fail_if_no_progress with_reducible refine keep_up_im h_im (keep_eta ?_)

theorem keep_meterSource {a2 : Nat} {a3 : Nat} {a4 : Nat} (h_qe : UpQe P) (h_im : UpIm P) (h_out : UpOut P) (hR : UpR P) (h : Keep P s) : KeepP P (meterSource s a2 a3 a4) := by
  unfold meterSource
  repeat' first
    | with_reducible assumption
    | with_reducible refine keep_setBucket h_im ?_
    | with_reducible refine keep_raise1 h_qe h_out hR ?_
    | with_reducible refine keep_bumpR hR ?_
    | (extract_lets -underBinder -merge -useContext +onlyGivenNames x; clear_value x)
    | split
    | with_reducible refine keepP_mk ?_

theorem keep_meterMgmt {a2 : Nat} (h_qe : UpQe P) (h_im : UpIm P) (h_out : UpOut P) (hR : UpR P) (h : Keep P s) : KeepP P (meterMgmt s a2) := by
  unfold meterMgmt
  repeat' first
    | with_reducible assumption
    | with_reducible refine keep_setBucket h_im ?_
    | with_reducible refine keep_raise1 h_qe h_out hR ?_
    | with_reducible refine keep_bumpR hR ?_
    | (extract_lets -underBinder -merge -useContext +onlyGivenNames x; clear_value x)
    | split
    | with_reducible refine keepP_mk ?_

theorem keep_dropSwap {a2 : Nat} (h_qe : UpQe P) (h_fl : UpFl P) (h_out : UpOut P) (hR : UpR P) (h : Keep P s) : Keep P (dropSwap s a2) := by
  unfold dropSwap
  repeat' first
    | with_reducible assumption
    | with_reducible refine keep_updPort h_fl ?_
    | with_reducible refine keep_raise1 h_qe h_out hR ?_
    | with_reducible refine keep_setB hR ?_
    | with_reducible refine keep_setF hR ?_
    | split

theorem keep_portDown {a2 : Nat} {a3 : Nat} (h_qe : UpQe P) (h_fl : UpFl P) (h_out : UpOut P) (hR : UpR P) (h : Keep P s) : Keep P (portDown s a2 a3) := by
  unfold portDown
  repeat' first
    | with_reducible assumption
    | with_reducible refine keep_dropSwap h_qe h_fl h_out hR ?_
    | with_reducible refine keep_setPortState hR ?_
    | with_reducible refine keep_updPort h_fl ?_
    | with_reducible refine keep_setB hR ?_
    | with_reducible refine keep_setF hR ?_

theorem keep_retrainPort {a2 : Nat} (h_qe : UpQe P) (h_fl : UpFl P) (h_cf : UpCf P) (h_out : UpOut P) (hR : UpR P) (h : Keep P s) : Keep P (retrainPort s a2) := by
  unfold retrainPort
  repeat' first
    | with_reducible assumption
    | with_reducible refine keep_dropSwap h_qe h_fl h_out hR ?_
    | with_reducible refine keep_setPortState hR ?_
    | with_reducible refine keep_updPort h_fl ?_
    | with_reducible refine keep_tally h_cf ?_
    | with_reducible refine keep_raise1 h_qe h_out hR ?_
    | with_reducible refine keep_setR hR ?_

theorem keep_releaseRing  (h_out : UpOut P) (hR : UpR P) (h : Keep P s) : Keep P (releaseRing s) := by
  unfold releaseRing
  repeat' first
    | with_reducible assumption
    | with_reducible refine keep_emit h_out ?_
    | with_reducible refine keep_setR hR ?_
    | split

theorem keep_startListening  (h_qe : UpQe P) (h_fl : UpFl P) (h_out : UpOut P) (hR : UpR P) (h : Keep P s) : Keep P (startListening s) := by
  unfold startListening
  repeat' first
    | with_reducible assumption
    | with_reducible refine keep_portDown h_qe h_fl h_out hR ?_
    | with_reducible refine keep_foldl (fun _ _ _ => ?_) ?_
    | split

theorem keep_joinChanged  (h_qe : UpQe P) (h_fl : UpFl P) (h_out : UpOut P) (hR : UpR P) (h : Keep P s) : Keep P (joinChanged s) := by
  unfold joinChanged
  repeat' first
    | with_reducible assumption
    | with_reducible refine keep_startListening h_qe h_fl h_out hR ?_
    | with_reducible refine keep_releaseRing h_out hR ?_
    | with_reducible refine keep_portDown h_qe h_fl h_out hR ?_
    | with_reducible refine keep_foldl (fun _ _ _ => ?_) ?_
    | split

theorem keep_wakePort {a2 : Nat} (h_fl : UpFl P) (hR : UpR P) (h : Keep P s) : Keep P (wakePort s a2) := by
  unfold wakePort
  repeat' first
    | with_reducible assumption
    | with_reducible refine keep_setPortState hR ?_
    | with_reducible refine keep_updPort h_fl ?_

theorem keep_dropQueued {a2 : Nat} (h_fl : UpFl P) (h_es : UpEs P) (h : Keep P s) : Keep P (dropQueued s a2) := by
  unfold dropQueued
  repeat' first
    | with_reducible assumption
    | with_reducible refine keep_setQueue h_es ?_
    | with_reducible refine keep_leaveRegion h_fl ?_
    | with_reducible refine keep_foldl (fun _ _ _ => ?_) ?_
    | split

theorem keep_applyFence {a2 : Nat} {a3 : Nat} (h_qe : UpQe P) (h_fl : UpFl P) (h_es : UpEs P) (h_out : UpOut P) (hR : UpR P) (h : Keep P s) : Keep P (applyFence s a2 a3) := by
  unfold applyFence
  repeat' first
    | with_reducible assumption
    | with_reducible refine keep_dropQueued h_fl h_es ?_
    | with_reducible refine keep_wakePort h_fl hR ?_
    | with_reducible refine keep_portDown h_qe h_fl h_out hR ?_
    | with_reducible refine keep_setF hR ?_
    | with_reducible refine keep_foldl (fun _ _ _ => ?_) ?_
    | (extract_lets -underBinder -merge -useContext +onlyGivenNames x; with_reducible refine keep_cut (s := x) ?_ ?_; (on_goal 1 => unfold x); (on_goal 2 => (clear_value x; intro _)))
    | split

/-! ### Machine/Rings.lean -/


theorem keep_beginCmd {a2 : Cmd} (h_qe : UpQe P) (h : Keep P s) : KeepP P (beginCmd s a2) := by
  unfold beginCmd
  repeat' first
    | with_reducible assumption
    | fail_if_no_progress with_reducible refine keep_up_qe h_qe (keep_eta ?_)
    | (extract_lets -underBinder -merge -useContext +onlyGivenNames x; clear_value x)
    | with_reducible refine keepP_mk ?_

theorem keep_sweepUnknown {a1 : Nat} {a2 : Nat} {a3 : Nat} (h_qe : UpQe P) (hR : UpR P) (h : Keep P s) : Keep P (sweepUnknown a1 a2 a3 s) := by
  induction a3 generalizing s a1 a2 with
  | zero =>
    rw [sweepUnknown]
    repeat' first
      | with_reducible assumption
      | with_reducible apply ih
      | with_reducible refine keepP_snd (keep_beginCmd h_qe ?_)
      | with_reducible refine keep_finish h_qe hR ?_
      | split
  | succ _ ih =>
    rw [sweepUnknown]
    repeat' first
      | with_reducible assumption
      | with_reducible apply ih
      | with_reducible refine keepP_snd (keep_beginCmd h_qe ?_)
      | with_reducible refine keep_finish h_qe hR ?_
      | split

theorem keep_startCmd {a2 : Nat} {a3 : Cmd} {a4 : CmdRef → State → State} (h_qe : UpQe P) (h_tm : UpTm P) (h_cf : UpCf P) (h_out : UpOut P) (hR : UpR P) (h : Keep P s) (ha4 : ∀ x0 x1, Keep P x1 → Keep P (a4 x0 x1)) : Keep P (startCmd s a2 a3 a4) := by
  unfold startCmd
  repeat' first
    | with_reducible assumption
    | with_reducible apply ha4
    | with_reducible refine keep_sweepUnknown h_qe hR ?_
    | with_reducible refine keepP_eq (keep_beginCmd h_qe ?_) (by assumption)
    | with_reducible refine keep_finish h_qe hR ?_
    | with_reducible refine keep_complete h_qe hR ?_
    | with_reducible refine keep_takeReads h_qe h_tm h_cf h_out hR ?_
    | with_reducible refine keep_live ?_ ?_
    | split
    | with_reducible intro _

theorem keep_putHost {a2 : CmdRef} {a3 : Nat} {a4 : Bytes} {a5 : Bool} {a6 : State → State} (h_qe : UpQe P) (h_out : UpOut P) (hR : UpR P) (h : Keep P s) (ha6 : ∀ x0, Keep P x0 → Keep P (a6 x0)) : Keep P (putHost s a2 a3 a4 a5 a6) := by
  unfold putHost
  repeat' first
    | with_reducible assumption
    | with_reducible apply ha6
    | with_reducible refine keep_finish h_qe hR ?_
    | with_reducible refine keep_raise h_qe h_out hR ?_
    | with_reducible refine keep_emit h_out ?_
    | split

theorem keep_withHost {a2 : CmdRef} {a3 : Option Bytes} {a4 : Bytes → State} (h_qe : UpQe P) (h_out : UpOut P) (hR : UpR P) (h : Keep P s) (ha4 : ∀ x0, Keep P (a4 x0)) : Keep P (withHost s a2 a3 a4) := by
  unfold withHost
  repeat' first
    | with_reducible assumption
    | with_reducible apply ha4
    | with_reducible refine keep_finish h_qe hR ?_
    | with_reducible refine keep_raise h_qe h_out hR ?_
    | split

theorem keep_refuseOr {a2 : CmdRef} {a3 : Option Nat} {a4 : State} (h_qe : UpQe P) (hR : UpR P) (h : Keep P s) (ha4 : Keep P a4) : Keep P (refuseOr s a2 a3 a4) := by
  unfold refuseOr
  repeat' first
    | with_reducible assumption
    | with_reducible refine keep_finish h_qe hR ?_
    | split

/-! ### Machine/Packets.lean -/


theorem keep_countSent {a2 : Bytes} (hR : UpR P) (h : Keep P s) : Keep P (countSent s a2) := by
  unfold countSent
  repeat' first
    | with_reducible assumption
    | with_reducible refine keep_bumpR hR ?_
    | (extract_lets -underBinder -merge -useContext +onlyGivenNames x; with_reducible refine keep_cut (s := x) ?_ ?_; (on_goal 1 => unfold x); (on_goal 2 => (clear_value x; intro _)))
    | split

theorem keep_putFrameFor {a2 : Nat} {a3 : Nat} {a4 : Nat} {a5 : Nat} {a6 : Bytes} {a7 : List Stage} (h_es : UpEs P) (hR : UpR P) (h : Keep P s) : Keep P (putFrameFor s a2 a3 a4 a5 a6 a7) := by
  unfold putFrameFor
  repeat' first
    | with_reducible assumption
    | with_reducible refine keep_countSent hR ?_
    | with_reducible refine keep_enqueue h_es ?_

theorem keep_putFrame {a2 : Nat} {a3 : Nat} {a4 : Nat} {a5 : Nat} {a6 : Bytes} (h_es : UpEs P) (hR : UpR P) (h : Keep P s) : Keep P (putFrame s a2 a3 a4 a5 a6) := by
  unfold putFrame
  repeat' first
    | with_reducible assumption
    | with_reducible refine keep_putFrameFor h_es hR ?_

theorem keep_sendDgram {a2 : DgramOut} (h_ft : UpFt P) (h : Keep P s) : Keep P (sendDgram s a2) := by
  unfold sendDgram
  repeat' first
    | with_reducible assumption
    | fail_if_no_progress with_reducible refine keep_up_ft h_ft (keep_eta ?_)

theorem keep_sprayDgram  (h_es : UpEs P) (h_ft : UpFt P) (hR : UpR P) (h : Keep P s) : Keep P (sprayDgram s) := by
  unfold sprayDgram
  repeat' first
    | with_reducible assumption
    | with_reducible refine keep_putFrame h_es hR ?_
    | fail_if_no_progress with_reducible refine keep_up_ft h_ft (keep_eta ?_)
    | split

theorem keep_noRoute  (h_qe : UpQe P) (h_out : UpOut P) (hR : UpR P) (h : Keep P s) : Keep P (noRoute s) := by
  unfold noRoute
  repeat' first
    | with_reducible assumption
    | with_reducible refine keep_raise1 h_qe h_out hR ?_

theorem keep_noticeManagers {a2 : Nat} {a3 : Nat} (h_ft : UpFt P) (h_cf : UpCf P) (h : Keep P s) : Keep P (noticeManagers s a2 a3) := by
  unfold noticeManagers
  repeat' first
    | with_reducible assumption
    | with_reducible refine keep_sendDgram h_ft ?_
    | fail_if_no_progress with_reducible refine keep_up_cf h_cf (keep_eta ?_)
    | with_reducible refine keep_foldl (fun _ _ _ => ?_) ?_
    | split

end Sys2Proof.Machine
end

