-- ==== Sys2Proof/Laws/KeepConns.lean ====
section
/-!
SUPPORT. KeepConns.lean: what the definitions of Machine/Conns.lean, Machine/LinkCmds.lean, Machine/Recov.lean keep (see Keep.lean).
-/

set_option linter.unusedTactic false
set_option linter.unreachableTactic false
set_option linter.unusedVariables false
set_option linter.tactic.unusedName false
set_option maxRecDepth 20000

namespace Sys2Proof.Machine

variable {P : State → Prop} {s : State}

/-! ### Machine/Conns.lean -/


theorem keep_putConn {a2 : Nat} {a3 : Conn} (h_ft : UpFt P) (h : Keep P s) : Keep P (putConn s a2 a3) := by
  unfold putConn
  repeat' first
    | with_reducible assumption
    | fail_if_no_progress with_reducible refine keep_up_ft h_ft (keep_eta ?_)

theorem keep_updConn {a2 : Nat} {a3 : Conn → Conn} (h_ft : UpFt P) (h : Keep P s) : Keep P (updConn s a2 a3) := by
  unfold updConn
  repeat' first
    | with_reducible assumption
    | fail_if_no_progress with_reducible refine keep_up_ft h_ft (keep_eta ?_)

theorem keep_sendOn {a2 : Nat} {a3 : TxMsg} (h_ft : UpFt P) (h : Keep P s) : Keep P (sendOn s a2 a3) := by
  unfold sendOn
  repeat' first
    | with_reducible assumption
    | with_reducible refine keep_updConn h_ft ?_

theorem keep_reportOn {a2 : Nat} {a3 : TxMsg} (h_ft : UpFt P) (h : Keep P s) : Keep P (reportOn s a2 a3) := by
  unfold reportOn
  repeat' first
    | with_reducible assumption
    | with_reducible refine keep_updConn h_ft ?_

theorem keep_sendFor {a2 : Nat} {a3 : Nat} {a4 : Bytes} {a5 : List Stage} (h_ft : UpFt P) (h : Keep P s) : Keep P (sendFor s a2 a3 a4 a5) := by
  unfold sendFor
  repeat' first
    | with_reducible assumption
    | with_reducible refine keep_sendOn h_ft ?_

theorem keep_sendBytes {a2 : Nat} {a3 : Nat} {a4 : Bytes} (h_ft : UpFt P) (h : Keep P s) : Keep P (sendBytes s a2 a3 a4) := by
  unfold sendBytes
  repeat' first
    | with_reducible assumption
    | with_reducible refine keep_sendFor h_ft ?_

theorem keep_sendAck {a2 : Nat} (h_ft : UpFt P) (h : Keep P s) : Keep P (sendAck s a2) := by
  unfold sendAck
  repeat' first
    | with_reducible assumption
    | with_reducible refine keep_updConn h_ft ?_

theorem keep_sendNak {a2 : Nat} (h_ft : UpFt P) (h : Keep P s) : Keep P (sendNak s a2) := by
  unfold sendNak
  repeat' first
    | with_reducible assumption
    | with_reducible refine keep_updConn h_ft ?_

theorem keep_sprayConn {a2 : Nat} (h_bb : UpBb P) (h_es : UpEs P) (h_ft : UpFt P) (h_cf : UpCf P) (hR : UpR P) (h : Keep P s) : Keep P (sprayConn s a2) := by
  unfold sprayConn
  repeat' first
    | with_reducible assumption
    | with_reducible refine keep_putConn h_ft ?_
    | with_reducible refine keep_putFrame h_es hR ?_
    | with_reducible refine keep_putFrameFor h_es hR ?_
    | with_reducible refine keep_waitLocks h_bb ?_
    | with_reducible refine keep_tally h_cf ?_
    | with_reducible refine keep_bumpR hR ?_
    | (extract_lets -underBinder -merge -useContext +onlyGivenNames x; with_reducible refine keep_cut (s := x) ?_ ?_; (on_goal 1 => unfold x); (on_goal 2 => (clear_value x; intro _)))
    | (extract_lets -underBinder -merge -useContext +onlyGivenNames x; clear_value x)
    | split

theorem keep_setCounter {a2 : Nat} {a3 : Nat} (hR : UpR P) (h : Keep P s) : Keep P (setCounter s a2 a3) := by
  unfold setCounter
  repeat' first
    | with_reducible assumption
    | with_reducible refine keep_setF hR ?_

theorem keep_bumpCounter {a2 : Nat} (hR : UpR P) (h : Keep P s) : Keep P (bumpCounter s a2) := by
  unfold bumpCounter
  repeat' first
    | with_reducible assumption
    | with_reducible refine keep_setCounter hR ?_

theorem keep_endWr {a2 : Nat} {a3 : Nat} (h_qe : UpQe P) (h_ft : UpFt P) (hR : UpR P) (h : Keep P s) : Keep P (endWr s a2 a3) := by
  unfold endWr
  repeat' first
    | with_reducible assumption
    | with_reducible refine keep_bumpCounter hR ?_
    | with_reducible refine keep_completeWith h_qe hR ?_
    | fail_if_no_progress with_reducible refine keep_up_ft h_ft (keep_eta ?_)
    | (extract_lets -underBinder -merge -useContext +onlyGivenNames x; clear_value x)
    | split

theorem keep_sendWr {a2 : Nat} (h_ft : UpFt P) (h : Keep P s) : Keep P (sendWr s a2) := by
  unfold sendWr
  repeat' first
    | with_reducible assumption
    | with_reducible refine keep_sendOn h_ft ?_
    | fail_if_no_progress with_reducible refine keep_up_ft h_ft (keep_eta ?_)
    | split

theorem keep_regionDone {a2 : Option Nat} (h_qe : UpQe P) (h_ft : UpFt P) (h_out : UpOut P) (hR : UpR P) (h : Keep P s) : Keep P (regionDone s a2) := by
  unfold regionDone
  repeat' first
    | with_reducible assumption
    | with_reducible refine keep_finishAll h_qe hR ?_
    | with_reducible refine keep_raise1 h_qe h_out hR ?_
    | fail_if_no_progress with_reducible refine keep_up_ft h_ft (keep_eta ?_)
    | (extract_lets -underBinder -merge -useContext +onlyGivenNames x; with_reducible refine keep_cut (s := x) ?_ ?_; (on_goal 1 => unfold x); (on_goal 2 => (clear_value x; intro _)))
    | (extract_lets -underBinder -merge -useContext +onlyGivenNames x; clear_value x)
    | fail_if_no_progress extract_lets -underBinder -merge -useContext +onlyGivenNames x
    | split

theorem keep_regionAdd {a2 : Nat} (h_ft : UpFt P) (h : Keep P s) : Keep P (regionAdd s a2) := by
  unfold regionAdd
  repeat' first
    | with_reducible assumption
    | fail_if_no_progress with_reducible refine keep_up_ft h_ft (keep_eta ?_)

theorem keep_recordViol {a2 : Nat} {a3 : Nat} {a4 : Nat} {a5 : Nat} {a6 : Nat} {a7 : Nat} (h_qe : UpQe P) (h_out : UpOut P) (hR : UpR P) (h : Keep P s) : Keep P (recordViol s a2 a3 a4 a5 a6 a7) := by
  unfold recordViol
  repeat' first
    | with_reducible assumption
    | with_reducible refine keep_raise1 h_qe h_out hR ?_
    | with_reducible refine keep_setR hR ?_

theorem keep_failMsg {a2 : Nat} {a3 : Nat} {a4 : Nat} (h_qe : UpQe P) (h_ft : UpFt P) (h_out : UpOut P) (hR : UpR P) (h : Keep P s) : Keep P (failMsg s a2 a3 a4) := by
  unfold failMsg
  repeat' first
    | with_reducible assumption
    | with_reducible refine keep_recordViol h_qe h_out hR ?_
    | with_reducible refine keep_reportOn h_ft ?_
    | with_reducible refine keep_updConn h_ft ?_
    | with_reducible refine keep_noticeOrLose h_qe h_out hR ?_
    | split

theorem keep_dropMessages {a2 : Nat} (h_qe : UpQe P) (h_ft : UpFt P) (h_out : UpOut P) (hR : UpR P) (h : Keep P s) : Keep P (dropMessages s a2) := by
  unfold dropMessages
  repeat' first
    | with_reducible assumption
    | with_reducible refine keep_regionDone h_qe h_ft h_out hR ?_
    | with_reducible refine keep_putConn h_ft ?_
    | with_reducible refine keep_foldl (fun _ _ _ => ?_) ?_
    | split

theorem keep_connFail {a2 : Nat} {a3 : Nat} (h_qe : UpQe P) (h_ft : UpFt P) (h_out : UpOut P) (hR : UpR P) (h : Keep P s) : Keep P (connFail s a2 a3) := by
  unfold connFail
  repeat' first
    | with_reducible assumption
    | with_reducible refine keep_dropMessages h_qe h_ft h_out hR ?_
    | with_reducible refine keep_endWr h_qe h_ft hR ?_
    | with_reducible refine keep_putConn h_ft ?_
    | with_reducible refine keep_raise1 h_qe h_out hR ?_
    | with_reducible refine keep_foldl (fun _ _ _ => ?_) ?_
    | (extract_lets -underBinder -merge -useContext +onlyGivenNames x; with_reducible refine keep_cut (s := x) ?_ ?_; (on_goal 1 => unfold x); (on_goal 2 => (clear_value x; intro _)))
    | split

theorem keep_reportTree {a2 : Nat} (h_qe : UpQe P) (h_ft : UpFt P) (h_cf : UpCf P) (h_out : UpOut P) (hR : UpR P) (h : Keep P s) : Keep P (reportTree s a2) := by
  unfold reportTree
  repeat' first
    | with_reducible assumption
    | with_reducible refine keep_noticeManagers h_ft h_cf ?_
    | with_reducible refine keep_raise1 h_qe h_out hR ?_

theorem keep_connError {a2 : Nat} {a3 : Nat} (h_qe : UpQe P) (h_ft : UpFt P) (h_cf : UpCf P) (h_out : UpOut P) (hR : UpR P) (h : Keep P s) : Keep P (connError s a2 a3) := by
  unfold connError
  repeat' first
    | with_reducible assumption
    | with_reducible refine keep_reportTree h_qe h_ft h_cf h_out hR ?_
    | with_reducible refine keep_connFail h_qe h_ft h_out hR ?_
    | split

theorem keep_connShut {a2 : Nat} (h_qe : UpQe P) (h_ft : UpFt P) (h_out : UpOut P) (hR : UpR P) (h : Keep P s) : Keep P (connShut s a2) := by
  unfold connShut
  repeat' first
    | with_reducible assumption
    | with_reducible refine keep_dropMessages h_qe h_ft h_out hR ?_
    | with_reducible refine keep_endWr h_qe h_ft hR ?_
    | fail_if_no_progress with_reducible refine keep_up_ft h_ft (keep_eta ?_)
    | with_reducible refine keep_foldl (fun _ _ _ => ?_) ?_

theorem keep_sweepTrees  (h_qe : UpQe P) (h_ft : UpFt P) (h_out : UpOut P) (hR : UpR P) (h : Keep P s) : Keep P (sweepTrees s) := by
  unfold sweepTrees
  repeat' first
    | with_reducible assumption
    | with_reducible refine keep_connShut h_qe h_ft h_out hR ?_
    | with_reducible refine keep_foldl (fun _ _ _ => ?_) ?_

theorem keep_writeSkipping {a2 : List (Nat × Nat)} {a3 : Nat} {a4 : Bytes} (hW : UpW P) (h : Keep P s) : Keep P (writeSkipping s a2 a3 a4) := by
  induction a4 generalizing s a2 a3 with
  | nil =>
    rw [writeSkipping]
    repeat' first
      | with_reducible assumption
      | with_reducible apply ih
      | with_reducible refine keep_writeByte hW ?_
      | split
  | cons _ _ ih =>
    rw [writeSkipping]
    repeat' first
      | with_reducible assumption
      | with_reducible apply ih
      | with_reducible refine keep_writeByte hW ?_
      | split

theorem keep_placeBytes {a2 : Nat} {a3 : Nat} {a4 : Nat} {a5 : Bytes} (h_ft : UpFt P) (hW : UpW P) (h : Keep P s) : Keep P (placeBytes s a2 a3 a4 a5) := by
  unfold placeBytes
  repeat' first
    | with_reducible assumption
    | with_reducible refine keep_writeSkipping hW ?_
    | with_reducible refine keep_updConn h_ft ?_
    | split

theorem keep_placeOrHold {a2 : Nat} {a3 : Nat} {a4 : Nat} {a5 : Bytes} (h_ft : UpFt P) (hW : UpW P) (h : Keep P s) : KeepOpt P (placeOrHold s a2 a3 a4 a5) := by
  unfold placeOrHold
  repeat' first
    | with_reducible assumption
    | with_reducible refine keepOpt_some ?_
    | with_reducible exact keepOpt_none
    | with_reducible refine keep_placeBytes h_ft hW ?_
    | with_reducible refine keep_updConn h_ft ?_
    | (extract_lets -underBinder -merge -useContext +onlyGivenNames x; clear_value x)
    | split

theorem keep_releaseHeld {a2 : Nat} (h_ft : UpFt P) (hW : UpW P) (h : Keep P s) : Keep P (releaseHeld s a2) := by
  unfold releaseHeld
  repeat' first
    | with_reducible assumption
    | with_reducible refine keep_placeBytes h_ft hW ?_
    | with_reducible refine keep_updConn h_ft ?_
    | with_reducible refine keep_foldl (fun _ _ _ => ?_) ?_
    | split

theorem keep_claimSlot {a2 : Nat} {a3 : Nat} (h_qe : UpQe P) (h_ft : UpFt P) (h_out : UpOut P) (hR : UpR P) (hW : UpW P) (h : Keep P s) : Keep P (claimSlot s a2 a3) := by
  unfold claimSlot
  repeat' first
    | with_reducible assumption
    | with_reducible refine keep_failMsg h_qe h_ft h_out hR ?_
    | with_reducible refine keep_updConn h_ft ?_
    | with_reducible refine keep_writeMem hW ?_
    | with_reducible refine keep_foldl (fun _ _ _ => ?_) ?_
    | (extract_lets -underBinder -merge -useContext +onlyGivenNames x; with_reducible refine keep_cut (s := x) ?_ ?_; (on_goal 1 => unfold x); (on_goal 2 => (clear_value x; intro _)))
    | split

theorem keep_deliverTo {a2 : Nat} {a3 : Conn} {a4 : Reasm} (h_qe : UpQe P) (h_ae : UpAe P) (h_ft : UpFt P) (h_out : UpOut P) (hR : UpR P) (h : Keep P s) : Keep P (deliverTo s a2 a3 a4) := by
  unfold deliverTo
  repeat' first
    | with_reducible assumption
    | with_reducible refine keep_regionDone h_qe h_ft h_out hR ?_
    | with_reducible refine keep_endWr h_qe h_ft hR ?_
    | with_reducible refine keep_bumpCounter hR ?_
    | fail_if_no_progress with_reducible refine keep_up_ae h_ae (keep_eta ?_)
    | fail_if_no_progress with_reducible refine keep_up_ft h_ft (keep_eta ?_)
    | (extract_lets -underBinder -merge -useContext +onlyGivenNames x; with_reducible refine keep_cut (s := x) ?_ ?_; (on_goal 1 => unfold x); (on_goal 2 => (clear_value x; intro _)))
    | (extract_lets -underBinder -merge -useContext +onlyGivenNames x; clear_value x)
    | split

theorem keep_serveRead {a2 : Nat} {a3 : Nat} {a4 : Conn} {a5 : Reasm} (h_qe : UpQe P) (h_ft : UpFt P) (h_out : UpOut P) (hR : UpR P) (h : Keep P s) : Keep P (serveRead s a2 a3 a4 a5) := by
  unfold serveRead
  repeat' first
    | with_reducible assumption
    | with_reducible refine keep_failMsg h_qe h_ft h_out hR ?_
    | with_reducible refine keep_regionAdd h_ft ?_
    | with_reducible refine keep_sendOn h_ft ?_
    | split

theorem keep_deliverLoop {a1 : Nat} {a2 : Nat} {a3 : Bool} (h_qe : UpQe P) (h_ae : UpAe P) (h_ft : UpFt P) (h_out : UpOut P) (hR : UpR P) (hW : UpW P) (h : Keep P s) : KeepP P (deliverLoop a1 a2 a3 s) := by
  induction a2 generalizing s a1 a3 with
  | zero =>
    rw [deliverLoop]
    repeat' first
      | with_reducible assumption
      | with_reducible apply ih
      | with_reducible refine keep_serveRead h_qe h_ft h_out hR ?_
      | with_reducible refine keep_deliverTo h_qe h_ae h_ft h_out hR ?_
      | with_reducible refine keep_claimSlot h_qe h_ft h_out hR hW ?_
      | with_reducible refine keep_releaseHeld h_ft hW ?_
      | with_reducible refine keep_updConn h_ft ?_
      | (extract_lets -underBinder -merge -useContext +onlyGivenNames x; with_reducible refine keep_cutA (P := P) (s := x) ?_ ?_; (on_goal 1 => unfold x); (on_goal 2 => (clear_value x; intro _)))
      | (extract_lets -underBinder -merge -useContext +onlyGivenNames x; clear_value x)
      | split
      | with_reducible refine keepP_mk ?_
  | succ _ ih =>
    rw [deliverLoop]
    repeat' first
      | with_reducible assumption
      | with_reducible apply ih
      | with_reducible refine keep_serveRead h_qe h_ft h_out hR ?_
      | with_reducible refine keep_deliverTo h_qe h_ae h_ft h_out hR ?_
      | with_reducible refine keep_claimSlot h_qe h_ft h_out hR hW ?_
      | with_reducible refine keep_releaseHeld h_ft hW ?_
      | with_reducible refine keep_updConn h_ft ?_
      | (extract_lets -underBinder -merge -useContext +onlyGivenNames x; with_reducible refine keep_cutA (P := P) (s := x) ?_ ?_; (on_goal 1 => unfold x); (on_goal 2 => (clear_value x; intro _)))
      | (extract_lets -underBinder -merge -useContext +onlyGivenNames x; clear_value x)
      | split
      | with_reducible refine keepP_mk ?_

theorem keep_tryDeliver {a2 : Nat} (h_qe : UpQe P) (h_ae : UpAe P) (h_ft : UpFt P) (h_out : UpOut P) (hR : UpR P) (hW : UpW P) (h : Keep P s) : KeepP P (tryDeliver s a2) := by
  unfold tryDeliver
  repeat' first
    | with_reducible assumption
    | with_reducible refine keep_deliverLoop h_qe h_ae h_ft h_out hR hW ?_

theorem keep_trimTx {a2 : Nat} (h_qe : UpQe P) (h_ft : UpFt P) (h_out : UpOut P) (hR : UpR P) (h : Keep P s) : Keep P (trimTx s a2) := by
  unfold trimTx
  repeat' first
    | with_reducible assumption
    | with_reducible refine keep_regionDone h_qe h_ft h_out hR ?_
    | with_reducible refine keep_putConn h_ft ?_
    | with_reducible refine keep_foldl (fun _ _ _ => ?_) ?_
    | split

theorem keep_peerDelivered {a2 : Nat} {a3 : Nat} (h_qe : UpQe P) (h_ft : UpFt P) (hR : UpR P) (h : Keep P s) : Keep P (peerDelivered s a2 a3) := by
  unfold peerDelivered
  repeat' first
    | with_reducible assumption
    | with_reducible refine keep_endWr h_qe h_ft hR ?_
    | with_reducible refine keep_foldl (fun _ _ _ => ?_) ?_

theorem keep_senderAck {a2 : Nat} {a3 : Nat} {a4 : Nat} (h_qe : UpQe P) (h_ae : UpAe P) (h_ft : UpFt P) (h_out : UpOut P) (hR : UpR P) (hW : UpW P) (h : Keep P s) : Keep P (senderAck s a2 a3 a4) := by
  unfold senderAck
  repeat' first
    | with_reducible assumption
    | with_reducible refine keepP_snd (by assumption)
    | with_reducible refine keep_peerDelivered h_qe h_ft hR ?_
    | with_reducible refine keep_trimTx h_qe h_ft h_out hR ?_
    | with_reducible refine keep_tryDeliver h_qe h_ae h_ft h_out hR hW ?_
    | with_reducible refine keep_sweepTrees h_qe h_ft h_out hR ?_
    | with_reducible refine keep_sendAck h_ft ?_
    | with_reducible refine keep_putConn h_ft ?_
    | (extract_lets -underBinder -merge -useContext +onlyGivenNames x; with_reducible refine keep_cut (s := x) ?_ ?_; (on_goal 1 => unfold x); (on_goal 2 => (clear_value x; intro _)))
    | (extract_lets -underBinder -merge -useContext +onlyGivenNames x; with_reducible refine keep_cutP (P := P) (s := x) ?_ ?_; (on_goal 1 => unfold x); (on_goal 2 => (clear_value x; intro _)))
    | (extract_lets -underBinder -merge -useContext +onlyGivenNames x; clear_value x)
    | split

theorem keep_goBack {a2 : Nat} {a3 : Nat} (h_qe : UpQe P) (h_ft : UpFt P) (h_out : UpOut P) (hR : UpR P) (h : Keep P s) : Keep P (goBack s a2 a3) := by
  unfold goBack
  repeat' first
    | with_reducible assumption
    | with_reducible refine keep_putConn h_ft ?_
    | with_reducible refine keep_raise1 h_qe h_out hR ?_
    | (extract_lets -underBinder -merge -useContext +onlyGivenNames x; clear_value x)
    | split

theorem keep_nakUnknown {a2 : Nat} {a3 : Nat} {a4 : Hdr} (h_ft : UpFt P) (h : Keep P s) : Keep P (nakUnknown s a2 a3 a4) := by
  unfold nakUnknown
  repeat' first
    | with_reducible assumption
    | with_reducible refine keep_sendDgram h_ft ?_

theorem keep_openReasm {a2 : Nat} {a3 : Conn} {a4 : Hdr} (h_qe : UpQe P) (h_ft : UpFt P) (h_out : UpOut P) (hR : UpR P) (h : Keep P s) : Keep P (openReasm s a2 a3 a4) := by
  unfold openReasm
  repeat' first
    | with_reducible assumption
    | with_reducible refine keep_failMsg h_qe h_ft h_out hR ?_
    | with_reducible refine keep_regionAdd h_ft ?_
    | with_reducible refine keep_updConn h_ft ?_
    | (extract_lets -underBinder -merge -useContext +onlyGivenNames x; with_reducible refine keep_cut (s := x) ?_ ?_; (on_goal 1 => unfold x); (on_goal 2 => (clear_value x; intro _)))
    | split

theorem keep_takeReport {a2 : Nat} {a3 : Conn} {a4 : Hdr} (h_qe : UpQe P) (h_ft : UpFt P) (h_out : UpOut P) (hR : UpR P) (h : Keep P s) : Keep P (takeReport s a2 a3 a4) := by
  unfold takeReport
  repeat' first
    | with_reducible assumption
    | with_reducible refine keep_recordViol h_qe h_out hR ?_
    | with_reducible refine keep_endWr h_qe h_ft hR ?_
    | (extract_lets -underBinder -merge -useContext +onlyGivenNames x; clear_value x)
    | split

theorem keep_acceptPacket {a2 : Nat} {a3 : Conn} {a4 : Hdr} {a5 : Bytes} (h_qe : UpQe P) (h_ft : UpFt P) (h_out : UpOut P) (hR : UpR P) (hW : UpW P) (h : Keep P s) : KeepOpt P (acceptPacket s a2 a3 a4 a5) := by
  unfold acceptPacket
  repeat' first
    | with_reducible assumption
    | with_reducible refine keepOpt_some ?_
    | with_reducible exact keepOpt_none
    | with_reducible refine keep_takeReport h_qe h_ft h_out hR ?_
    | with_reducible refine keep_openReasm h_qe h_ft h_out hR ?_
    | with_reducible refine keep_claimSlot h_qe h_ft h_out hR hW ?_
    | with_reducible refine keep_placeOrHold h_ft hW ?_
    | with_reducible refine keep_updConn h_ft ?_
    | with_reducible refine keep_writeMem hW ?_
    | (extract_lets -underBinder -merge -useContext +onlyGivenNames x; with_reducible refine keep_cutA (P := P) (s := x) ?_ ?_; (on_goal 1 => unfold x); (on_goal 2 => (clear_value x; intro _)))
    | (extract_lets -underBinder -merge -useContext +onlyGivenNames x; have := (fun (_ : _ → _) => trivial) x; unfold x; clear this x; beta_reduce)
    | (extract_lets -underBinder -merge -useContext +onlyGivenNames x; clear_value x)
    | split
    | with_reducible refine keepOpt_map ?_ (fun _ _ => ?_)

theorem keep_advance {a2 : Nat} {a3 : Nat} (h_ft : UpFt P) (hR : UpR P) (h : Keep P s) : Keep P (advance s a2 a3) := by
  unfold advance
  repeat' first
    | with_reducible assumption
    | with_reducible refine keep_sendNak h_ft ?_
    | with_reducible refine keep_putConn h_ft ?_
    | with_reducible refine keep_bumpR hR ?_
    | (extract_lets -underBinder -merge -useContext +onlyGivenNames x; with_reducible refine keep_cut (s := x) ?_ ?_; (on_goal 1 => unfold x); (on_goal 2 => (clear_value x; intro _)))
    | (extract_lets -underBinder -merge -useContext +onlyGivenNames x; clear_value x)
    | split

theorem keep_maybeAck {a2 : Nat} {a3 : Bool} (h_ft : UpFt P) (h : Keep P s) : Keep P (maybeAck s a2 a3) := by
  unfold maybeAck
  repeat' first
    | with_reducible assumption
    | with_reducible refine keep_sendAck h_ft ?_
    | split

theorem keep_badPacket  (h_qe : UpQe P) (h_out : UpOut P) (hR : UpR P) (h : Keep P s) : Keep P (badPacket s) := by
  unfold badPacket
  repeat' first
    | with_reducible assumption
    | with_reducible refine keep_raise1 h_qe h_out hR ?_

theorem keep_receiveSeq {a2 : Nat} {a3 : Nat} {a4 : Bytes} (h_qe : UpQe P) (h_ae : UpAe P) (h_ft : UpFt P) (h_out : UpOut P) (hR : UpR P) (hW : UpW P) (h : Keep P s) : Keep P (receiveSeq s a2 a3 a4) := by
  unfold receiveSeq
  repeat' first
    | with_reducible assumption
    | with_reducible refine keep_badPacket h_qe h_out hR ?_
    | with_reducible refine keep_maybeAck h_ft ?_
    | with_reducible refine keep_advance h_ft hR ?_
    | with_reducible refine keepOpt_eq (keep_acceptPacket h_qe h_ft h_out hR hW ?_) (by assumption)
    | with_reducible refine keep_nakUnknown h_ft ?_
    | with_reducible refine keep_senderAck h_qe h_ae h_ft h_out hR hW ?_
    | with_reducible refine keepP_snd (keep_tryDeliver h_qe h_ae h_ft h_out hR hW ?_)
    | with_reducible refine keep_sendAck h_ft ?_
    | with_reducible refine keep_raise1 h_qe h_out hR ?_
    | with_reducible refine keep_bumpR hR ?_
    | (extract_lets -underBinder -merge -useContext +onlyGivenNames x; with_reducible refine keep_cut (s := x) ?_ ?_; (on_goal 1 => unfold x); (on_goal 2 => (clear_value x; intro _)))
    | (extract_lets -underBinder -merge -useContext +onlyGivenNames x; clear_value x)
    | split

theorem keep_receiveAck {a2 : Bytes} (h_qe : UpQe P) (h_ae : UpAe P) (h_ft : UpFt P) (h_cf : UpCf P) (h_out : UpOut P) (hR : UpR P) (hW : UpW P) (h : Keep P s) : Keep P (receiveAck s a2) := by
  unfold receiveAck
  repeat' first
    | with_reducible assumption
    | with_reducible refine keep_goBack h_qe h_ft h_out hR ?_
    | with_reducible refine keep_senderAck h_qe h_ae h_ft h_out hR hW ?_
    | with_reducible refine keep_connError h_qe h_ft h_cf h_out hR ?_
    | (extract_lets -underBinder -merge -useContext +onlyGivenNames x; with_reducible refine keep_cut (s := x) ?_ ?_; (on_goal 1 => unfold x); (on_goal 2 => (clear_value x; intro _)))
    | (extract_lets -underBinder -merge -useContext +onlyGivenNames x; clear_value x)
    | split

theorem keep_hostDgram {a2 : Hdr} {a3 : Bytes} (h_qe : UpQe P) (h_out : UpOut P) (hR : UpR P) (h : Keep P s) : Keep P (hostDgram s a2 a3) := by
  unfold hostDgram
  repeat' first
    | with_reducible assumption
    | with_reducible refine keepP_eq (keep_notice h_qe ?_) (by assumption)
    | with_reducible refine keep_raise1 h_qe h_out hR ?_
    | with_reducible refine keep_emit h_out ?_
    | with_reducible refine keep_bumpR hR ?_
    | (extract_lets -underBinder -merge -useContext +onlyGivenNames x; clear_value x)
    | split

theorem keep_receiveDgram {a2 : Nat} {a3 : Bytes} (h_qe : UpQe P) (h_ft : UpFt P) (h_out : UpOut P) (hR : UpR P) (h : Keep P s) : Keep P (receiveDgram s a2 a3) := by
  unfold receiveDgram
  repeat' first
    | with_reducible assumption
    | with_reducible refine keep_hostDgram h_qe h_out hR ?_
    | with_reducible refine keep_bumpR hR ?_
    | fail_if_no_progress with_reducible refine keep_up_ft h_ft (keep_eta ?_)
    | (extract_lets -underBinder -merge -useContext +onlyGivenNames x; clear_value x)
    | split

theorem keep_takeKind {a2 : Nat} {a3 : Nat} {a4 : Nat} {a5 : State → Bytes → State} (h_qe : UpQe P) (h_fl : UpFl P) (h_out : UpOut P) (hR : UpR P) (h : Keep P s) (ha5 : ∀ x0 x1, Keep P x0 → Keep P (a5 x0 x1)) : Keep P (takeKind s a2 a3 a4 a5) := by
  unfold takeKind
  repeat' first
    | with_reducible assumption
    | with_reducible apply ha5
    | with_reducible refine keep_badPacket h_qe h_out hR ?_
    | with_reducible refine keep_takePacket h_fl ?_
    | with_reducible refine keep_live ?_ ?_
    | (extract_lets -underBinder -merge -useContext +onlyGivenNames x; with_reducible refine keep_cut (s := x) ?_ ?_; (on_goal 1 => unfold x); (on_goal 2 => (clear_value x; intro _)))
    | split
    | with_reducible intro _

/-! ### Machine/LinkCmds.lean -/


theorem keep_putHist {a2 : Nat} {a3 : Nat} {a4 : LaneHist} (h_qe : UpQe P) (h_tn : UpTn P) (h_out : UpOut P) (hR : UpR P) (h : Keep P s) : Keep P (putHist s a2 a3 a4) := by
  unfold putHist
  repeat' first
    | with_reducible assumption
    | with_reducible refine keep_commit h_qe h_tn h_out hR ?_
    | fail_if_no_progress with_reducible refine keep_up_tn h_tn (keep_eta ?_)

theorem keep_noteRetrain {a2 : Nat} {a3 : Nat} (h_qe : UpQe P) (h_tn : UpTn P) (h_out : UpOut P) (hR : UpR P) (h : Keep P s) : Keep P (noteRetrain s a2 a3) := by
  unfold noteRetrain
  repeat' first
    | with_reducible assumption
    | with_reducible refine keep_putHist h_qe h_tn h_out hR ?_

theorem keep_retireLane {a2 : Nat} {a3 : Nat} (h_qe : UpQe P) (h_tn : UpTn P) (h_out : UpOut P) (hR : UpR P) (h : Keep P s) : Keep P (retireLane s a2 a3) := by
  unfold retireLane
  repeat' first
    | with_reducible assumption
    | with_reducible refine keep_putHist h_qe h_tn h_out hR ?_

theorem keep_retrainOver {a2 : Nat} {a3 : List Nat} (h_qe : UpQe P) (h_fl : UpFl P) (h_cf : UpCf P) (h_tn : UpTn P) (h_out : UpOut P) (hR : UpR P) (h : Keep P s) : Keep P (retrainOver s a2 a3) := by
  unfold retrainOver
  repeat' first
    | with_reducible assumption
    | with_reducible refine keep_noteRetrain h_qe h_tn h_out hR ?_
    | with_reducible refine keep_retrainPort h_qe h_fl h_cf h_out hR ?_
    | with_reducible refine keep_updPort h_fl ?_
    | with_reducible refine keep_tally h_cf ?_
    | with_reducible refine keep_foldl (fun _ _ _ => ?_) ?_

theorem keep_execLaneFault {a1 : Nat} {a2 : Option Nat} (h_qe : UpQe P) (h_fl : UpFl P) (h_cf : UpCf P) (h_tn : UpTn P) (h_out : UpOut P) (hR : UpR P) (h : Keep P s) : KeepOut P (execLaneFault a1 a2 s) := by
  unfold execLaneFault
  repeat' first
    | with_reducible assumption
    | with_reducible refine keepOut_next ?_
    | with_reducible refine keep_retrainOver h_qe h_fl h_cf h_tn h_out hR ?_
    | with_reducible refine keep_live ?_ ?_
    | split
    | with_reducible intro _

theorem keep_execFecPeriod {a1 : Nat} {a2 : List Nat} {a3 : List Nat} (h_qe : UpQe P) (h_fl : UpFl P) (h_cf : UpCf P) (h_tn : UpTn P) (h_out : UpOut P) (hR : UpR P) (h : Keep P s) : KeepOut P (execFecPeriod a1 a2 a3 s) := by
  unfold execFecPeriod
  repeat' first
    | with_reducible assumption
    | with_reducible refine keepOut_next ?_
    | with_reducible refine keep_retrainOver h_qe h_fl h_cf h_tn h_out hR ?_
    | with_reducible refine keep_tally h_cf ?_
    | with_reducible refine keep_live ?_ ?_
    | with_reducible refine keep_bumpF hR ?_
    | with_reducible refine keep_foldl (fun _ _ _ => ?_) ?_
    | (extract_lets -underBinder -merge -useContext +onlyGivenNames x; with_reducible refine keep_cut (s := x) ?_ ?_; (on_goal 1 => unfold x); (on_goal 2 => (clear_value x; intro _)))
    | (extract_lets -underBinder -merge -useContext +onlyGivenNames x; clear_value x)
    | split
    | with_reducible intro _

theorem keep_noteAttempt {a2 : Nat} (h_fl : UpFl P) (hR : UpR P) (h : Keep P s) : Keep P (noteAttempt s a2) := by
  unfold noteAttempt
  repeat' first
    | with_reducible assumption
    | with_reducible refine keep_updPort h_fl ?_
    | with_reducible refine keep_setB hR ?_
    | (extract_lets -underBinder -merge -useContext +onlyGivenNames x; with_reducible refine keep_cut (s := x) ?_ ?_; (on_goal 1 => unfold x); (on_goal 2 => (clear_value x; intro _)))
    | split

theorem keep_execPortTrained {a1 : Nat} {a2 : Training} (h_qe : UpQe P) (h_fl : UpFl P) (h_tn : UpTn P) (h_out : UpOut P) (hR : UpR P) (h : Keep P s) : KeepOut P (execPortTrained a1 a2 s) := by
  unfold execPortTrained
  repeat' first
    | with_reducible assumption
    | with_reducible refine keepOut_next ?_
    | with_reducible refine keep_noteAttempt h_fl hR ?_
    | with_reducible refine keep_retireLane h_qe h_tn h_out hR ?_
    | with_reducible refine keep_checkSuspend h_qe h_out hR ?_
    | with_reducible refine keep_setPortState hR ?_
    | with_reducible refine keep_updPort h_fl ?_
    | with_reducible refine keep_live ?_ ?_
    | with_reducible refine keep_setB hR ?_
    | with_reducible refine keep_setF hR ?_
    | (extract_lets -underBinder -merge -useContext +onlyGivenNames x; with_reducible refine keep_cut (s := x) ?_ ?_; (on_goal 1 => unfold x); (on_goal 2 => (clear_value x; intro _)))
    | fail_if_no_progress extract_lets -underBinder -merge -useContext +onlyGivenNames x
    | split
    | with_reducible intro _

theorem keep_execPortTrainRetry {a1 : Nat} (hR : UpR P) (h : Keep P s) : KeepOut P (execPortTrainRetry a1 s) := by
  unfold execPortTrainRetry
  repeat' first
    | with_reducible assumption
    | with_reducible refine keepOut_next ?_
    | with_reducible refine keep_setPortState hR ?_
    | with_reducible refine keep_live ?_ ?_
    | split
    | with_reducible intro _

theorem keep_attachIfListened  (h_fl : UpFl P) (h_out : UpOut P) (hR : UpR P) (h : Keep P s) : Keep P (attachIfListened s) := by
  unfold attachIfListened
  repeat' first
    | with_reducible assumption
    | with_reducible refine keep_setPortState hR ?_
    | with_reducible refine keep_updPort h_fl ?_
    | with_reducible refine keep_emit h_out ?_
    | with_reducible refine keep_setB hR ?_
    | with_reducible refine keep_foldl (fun _ _ _ => ?_) ?_
    | (extract_lets -underBinder -merge -useContext +onlyGivenNames x; with_reducible refine keep_cut (s := x) ?_ ?_; (on_goal 1 => unfold x); (on_goal 2 => (clear_value x; intro _)))
    | split

theorem keep_listened {a2 : Nat} (h_fl : UpFl P) (h_out : UpOut P) (hR : UpR P) (h : Keep P s) : Keep P (listened s a2) := by
  unfold listened
  repeat' first
    | with_reducible assumption
    | with_reducible refine keep_attachIfListened h_fl h_out hR ?_
    | with_reducible refine keep_setB hR ?_
    | split

theorem keep_execListenDone {a1 : Nat} (h_fl : UpFl P) (h_out : UpOut P) (hR : UpR P) (h : Keep P s) : KeepOut P (execListenDone a1 s) := by
  unfold execListenDone
  repeat' first
    | with_reducible assumption
    | with_reducible refine keepOut_next ?_
    | with_reducible refine keep_listened h_fl h_out hR ?_
    | with_reducible refine keep_live ?_ ?_
    | split
    | with_reducible intro _

theorem keep_execListenLimitExpiry {a1 : Nat} {a2 : Bool} (h_qe : UpQe P) (h_fl : UpFl P) (h_out : UpOut P) (hR : UpR P) (h : Keep P s) : KeepOut P (execListenLimitExpiry a1 a2 s) := by
  unfold execListenLimitExpiry
  repeat' first
    | with_reducible assumption
    | with_reducible refine keepOut_next ?_
    | with_reducible refine keep_listened h_fl h_out hR ?_
    | with_reducible refine keep_updPort h_fl ?_
    | with_reducible refine keep_raise1 h_qe h_out hR ?_
    | with_reducible refine keep_live ?_ ?_
    | (extract_lets -underBinder -merge -useContext +onlyGivenNames x; clear_value x)
    | split
    | with_reducible intro _

theorem keep_execDetachLimitExpiry {a1 : Nat} (h_qe : UpQe P) (h_fl : UpFl P) (h_out : UpOut P) (hR : UpR P) (h : Keep P s) : KeepOut P (execDetachLimitExpiry a1 s) := by
  unfold execDetachLimitExpiry
  repeat' first
    | with_reducible assumption
    | with_reducible refine keepOut_next ?_
    | with_reducible refine keep_startListening h_qe h_fl h_out hR ?_
    | with_reducible refine keep_releaseRing h_out hR ?_
    | with_reducible refine keep_raise1 h_qe h_out hR ?_
    | with_reducible refine keep_live ?_ ?_
    | (extract_lets -underBinder -merge -useContext +onlyGivenNames x; clear_value x)
    | split
    | with_reducible intro _

theorem keep_takeHello {a2 : Nat} {a3 : Bytes} (h_qe : UpQe P) (h_fl : UpFl P) (h_ft : UpFt P) (h_cf : UpCf P) (h_out : UpOut P) (hR : UpR P) (h : Keep P s) : Keep P (takeHello s a2 a3) := by
  unfold takeHello
  repeat' first
    | with_reducible assumption
    | with_reducible refine keep_noticeManagers h_ft h_cf ?_
    | with_reducible refine keep_updPort h_fl ?_
    | with_reducible refine keep_raise1 h_qe h_out hR ?_
    | with_reducible refine keep_setB hR ?_
    | with_reducible refine keep_setF hR ?_
    | (extract_lets -underBinder -merge -useContext +onlyGivenNames x; with_reducible refine keep_cut (s := x) ?_ ?_; (on_goal 1 => unfold x); (on_goal 2 => (clear_value x; intro _)))
    | (extract_lets -underBinder -merge -useContext +onlyGivenNames x; clear_value x)
    | split

theorem keep_takePause {a2 : Nat} {a3 : Bytes} (h_fl : UpFl P) (h : Keep P s) : Keep P (takePause s a2 a3) := by
  unfold takePause
  repeat' first
    | with_reducible assumption
    | with_reducible refine keep_updPort h_fl ?_
    | with_reducible refine keep_foldl (fun _ _ _ => ?_) ?_
    | (extract_lets -underBinder -merge -useContext +onlyGivenNames x; clear_value x)
    | split

theorem keep_takeSwapReq {a2 : Nat} {a3 : Bytes} (h_fl : UpFl P) (h : Keep P s) : Keep P (takeSwapReq s a2 a3) := by
  unfold takeSwapReq
  repeat' first
    | with_reducible assumption
    | with_reducible refine keep_sendLcf h_fl ?_
    | with_reducible refine keep_updPort h_fl ?_
    | (extract_lets -underBinder -merge -useContext +onlyGivenNames x; with_reducible refine keep_cut (s := x) ?_ ?_; (on_goal 1 => unfold x); (on_goal 2 => (clear_value x; intro _)))
    | (extract_lets -underBinder -merge -useContext +onlyGivenNames x; clear_value x)
    | split

theorem keep_takeSwapAck {a2 : Nat} {a3 : Bytes} (h_fl : UpFl P) (h : Keep P s) : Keep P (takeSwapAck s a2 a3) := by
  unfold takeSwapAck
  repeat' first
    | with_reducible assumption
    | with_reducible refine keep_updPort h_fl ?_
    | split

theorem keep_takeLcf {a2 : Nat} {a3 : Bytes} (h_qe : UpQe P) (h_fl : UpFl P) (h_ft : UpFt P) (h_cf : UpCf P) (h_out : UpOut P) (hR : UpR P) (h : Keep P s) : Keep P (takeLcf s a2 a3) := by
  unfold takeLcf
  repeat' first
    | with_reducible assumption
    | with_reducible refine keep_takeSwapAck h_fl ?_
    | with_reducible refine keep_takeSwapReq h_fl ?_
    | with_reducible refine keep_takePause h_fl ?_
    | with_reducible refine keep_takeHello h_qe h_fl h_ft h_cf h_out hR ?_
    | with_reducible refine keep_raise1 h_qe h_out hR ?_
    | split

theorem keep_lcfRow {a2 : Nat} {a3 : Nat} {a4 : Bytes} (h_qe : UpQe P) (h_fl : UpFl P) (h_ft : UpFt P) (h_cf : UpCf P) (h_out : UpOut P) (hR : UpR P) (h : Keep P s) : Keep P (lcfRow s a2 a3 a4) := by
  unfold lcfRow
  repeat' first
    | with_reducible assumption
    | with_reducible refine keep_takeLcf h_qe h_fl h_ft h_cf h_out hR ?_
    | with_reducible refine keep_live ?_ ?_
    | split
    | with_reducible intro _

theorem keep_execHello {a1 : Nat} {a2 : Bytes} (h_qe : UpQe P) (h_fl : UpFl P) (h_ft : UpFt P) (h_cf : UpCf P) (h_out : UpOut P) (hR : UpR P) (h : Keep P s) : KeepOut P (execHello a1 a2 s) := by
  unfold execHello
  repeat' first
    | with_reducible assumption
    | with_reducible refine keepOut_next ?_
    | with_reducible refine keep_lcfRow h_qe h_fl h_ft h_cf h_out hR ?_

theorem keep_execPause {a1 : Nat} {a2 : Bytes} (h_qe : UpQe P) (h_fl : UpFl P) (h_ft : UpFt P) (h_cf : UpCf P) (h_out : UpOut P) (hR : UpR P) (h : Keep P s) : KeepOut P (execPause a1 a2 s) := by
  unfold execPause
  repeat' first
    | with_reducible assumption
    | with_reducible refine keepOut_next ?_
    | with_reducible refine keep_lcfRow h_qe h_fl h_ft h_cf h_out hR ?_

theorem keep_execSwapReq {a1 : Nat} {a2 : Bytes} (h_qe : UpQe P) (h_fl : UpFl P) (h_ft : UpFt P) (h_cf : UpCf P) (h_out : UpOut P) (hR : UpR P) (h : Keep P s) : KeepOut P (execSwapReq a1 a2 s) := by
  unfold execSwapReq
  repeat' first
    | with_reducible assumption
    | with_reducible refine keepOut_next ?_
    | with_reducible refine keep_lcfRow h_qe h_fl h_ft h_cf h_out hR ?_

theorem keep_execSwapAck {a1 : Nat} {a2 : Bytes} (h_qe : UpQe P) (h_fl : UpFl P) (h_ft : UpFt P) (h_cf : UpCf P) (h_out : UpOut P) (hR : UpR P) (h : Keep P s) : KeepOut P (execSwapAck a1 a2 s) := by
  unfold execSwapAck
  repeat' first
    | with_reducible assumption
    | with_reducible refine keepOut_next ?_
    | with_reducible refine keep_lcfRow h_qe h_fl h_ft h_cf h_out hR ?_

theorem keep_execHelloSend {a1 : Nat} (h_fl : UpFl P) (h : Keep P s) : KeepOut P (execHelloSend a1 s) := by
  unfold execHelloSend
  repeat' first
    | with_reducible assumption
    | with_reducible refine keepOut_next ?_
    | with_reducible refine keep_sendLcf h_fl ?_
    | with_reducible refine keep_live ?_ ?_
    | with_reducible intro _

theorem keep_execPauseRepeat {a1 : Nat} {a2 : Nat} (h_fl : UpFl P) (h : Keep P s) : KeepOut P (execPauseRepeat a1 a2 s) := by
  unfold execPauseRepeat
  repeat' first
    | with_reducible assumption
    | with_reducible refine keepOut_next ?_
    | with_reducible refine keep_sendPause h_fl ?_
    | with_reducible refine keep_updPort h_fl ?_
    | with_reducible refine keep_live ?_ ?_
    | (extract_lets -underBinder -merge -useContext +onlyGivenNames x; clear_value x)
    | split
    | with_reducible intro _

theorem keep_execPauseExpiry {a1 : Nat} {a2 : Nat} (h_fl : UpFl P) (h : Keep P s) : KeepOut P (execPauseExpiry a1 a2 s) := by
  unfold execPauseExpiry
  repeat' first
    | with_reducible assumption
    | with_reducible refine keepOut_next ?_
    | with_reducible refine keep_updPort h_fl ?_
    | with_reducible refine keep_live ?_ ?_
    | split
    | with_reducible intro _

theorem keep_execPauseWatchdog {a1 : Nat} {a2 : Nat} (h_qe : UpQe P) (h_fl : UpFl P) (h_cf : UpCf P) (h_out : UpOut P) (hR : UpR P) (h : Keep P s) : KeepOut P (execPauseWatchdog a1 a2 s) := by
  unfold execPauseWatchdog
  repeat' first
    | with_reducible assumption
    | with_reducible refine keepOut_next ?_
    | with_reducible refine keep_updPort h_fl ?_
    | with_reducible refine keep_tally h_cf ?_
    | with_reducible refine keep_raise1 h_qe h_out hR ?_
    | with_reducible refine keep_live ?_ ?_
    | (extract_lets -underBinder -merge -useContext +onlyGivenNames x; with_reducible refine keep_cut (s := x) ?_ ?_; (on_goal 1 => unfold x); (on_goal 2 => (clear_value x; intro _)))
    | (extract_lets -underBinder -merge -useContext +onlyGivenNames x; clear_value x)
    | split
    | with_reducible intro _

theorem keep_endSwap {a2 : Nat} (hR : UpR P) (h : Keep P s) : Keep P (endSwap s a2) := by
  unfold endSwap
  repeat' first
    | with_reducible assumption
    | with_reducible refine keep_setB hR ?_
    | with_reducible refine keep_setF hR ?_

theorem keep_execSwapMarker {a1 : Nat} {a2 : Nat} (h_qe : UpQe P) (h_fl : UpFl P) (h_tn : UpTn P) (h_out : UpOut P) (hR : UpR P) (h : Keep P s) : KeepOut P (execSwapMarker a1 a2 s) := by
  unfold execSwapMarker
  repeat' first
    | with_reducible assumption
    | with_reducible refine keepOut_next ?_
    | with_reducible refine keep_endSwap hR ?_
    | with_reducible refine keep_retireLane h_qe h_tn h_out hR ?_
    | with_reducible refine keep_updPort h_fl ?_
    | with_reducible refine keep_live ?_ ?_
    | with_reducible refine keep_setB hR ?_
    | with_reducible refine keep_setF hR ?_
    | split
    | with_reducible intro _

theorem keep_execSwapTimeout {a1 : Nat} (h_qe : UpQe P) (h_fl : UpFl P) (h_out : UpOut P) (hR : UpR P) (h : Keep P s) : KeepOut P (execSwapTimeout a1 s) := by
  unfold execSwapTimeout
  repeat' first
    | with_reducible assumption
    | with_reducible refine keepOut_next ?_
    | with_reducible refine keep_endSwap hR ?_
    | with_reducible refine keep_updPort h_fl ?_
    | with_reducible refine keep_raise1 h_qe h_out hR ?_
    | with_reducible refine keep_live ?_ ?_
    | split
    | with_reducible intro _

theorem keep_checkDrops  (h_qe : UpQe P) (h_ft : UpFt P) (h_cf : UpCf P) (h_out : UpOut P) (hR : UpR P) (h : Keep P s) : Keep P (checkDrops s) := by
  unfold checkDrops
  repeat' first
    | with_reducible assumption
    | with_reducible refine keep_connError h_qe h_ft h_cf h_out hR ?_
    | with_reducible refine keep_raise1 h_qe h_out hR ?_
    | with_reducible refine keep_foldl (fun _ _ _ => ?_) ?_
    | split

theorem keep_meterDrop {a2 : Hdr} (h_qe : UpQe P) (h_im : UpIm P) (h_ft : UpFt P) (h_cf : UpCf P) (h_out : UpOut P) (hR : UpR P) (h : Keep P s) : Keep P (meterDrop s a2) := by
  unfold meterDrop
  repeat' first
    | with_reducible assumption
    | with_reducible refine keep_checkDrops h_qe h_ft h_cf h_out hR ?_
    | fail_if_no_progress with_reducible refine keep_up_im h_im (keep_eta ?_)
    | (extract_lets -underBinder -merge -useContext +onlyGivenNames x; clear_value x)
    | split

theorem keep_meter {a2 : Nat} {a3 : Nat} {a4 : Bytes} (h_qe : UpQe P) (h_im : UpIm P) (h_ft : UpFt P) (h_cf : UpCf P) (h_out : UpOut P) (hR : UpR P) (h : Keep P s) : KeepP P (meter s a2 a3 a4) := by
  unfold meter
  repeat' first
    | with_reducible assumption
    | with_reducible refine keep_meterDrop h_qe h_im h_ft h_cf h_out hR ?_
    | with_reducible refine keep_meterMgmt h_qe h_im h_out hR ?_
    | with_reducible refine keepP_eq (keep_meterSource h_qe h_im h_out hR ?_) (by assumption)
    | (extract_lets -underBinder -merge -useContext +onlyGivenNames x; clear_value x)
    | split
    | with_reducible refine keepP_mk ?_

theorem keep_forwardFrame {a2 : Nat} {a3 : Nat} {a4 : Nat} {a5 : Nat} {a6 : Bytes} (h_qe : UpQe P) (h_fl : UpFl P) (h_es : UpEs P) (h_out : UpOut P) (hR : UpR P) (h : Keep P s) : Keep P (forwardFrame s a2 a3 a4 a5 a6) := by
  unfold forwardFrame
  repeat' first
    | with_reducible assumption
    | with_reducible refine keep_enqueue h_es ?_
    | with_reducible refine keepP_eq (keep_enterRegion h_qe h_fl h_out hR ?_) (by assumption)
    | with_reducible refine keep_raise1 h_qe h_out hR ?_
    | (extract_lets -underBinder -merge -useContext +onlyGivenNames x; clear_value x)
    | split

theorem keep_takeFrame {a2 : Nat} {a3 : Bytes} (h_qe : UpQe P) (h_fl : UpFl P) (h_es : UpEs P) (h_im : UpIm P) (h_ft : UpFt P) (h_cf : UpCf P) (h_out : UpOut P) (hR : UpR P) (h : Keep P s) : Keep P (takeFrame s a2 a3) := by
  unfold takeFrame
  repeat' first
    | with_reducible assumption
    | with_reducible refine keep_forwardFrame h_qe h_fl h_es h_out hR ?_
    | with_reducible refine keep_meter h_qe h_im h_ft h_cf h_out hR ?_
    | with_reducible refine keep_takeLcf h_qe h_fl h_ft h_cf h_out hR ?_
    | with_reducible refine keepP_snd (keep_enterRegion h_qe h_fl h_out hR ?_)
    | with_reducible refine keep_tally h_cf ?_
    | with_reducible refine keep_raise1 h_qe h_out hR ?_
    | (extract_lets -underBinder -merge -useContext +onlyGivenNames x; clear_value x)
    | split
    | with_reducible refine keepP_eq ?_ (by assumption)
    | with_reducible refine keepP_mk ?_

theorem keep_execFrameReceive {a1 : Nat} {a2 : Bytes} (h_qe : UpQe P) (h_fl : UpFl P) (h_es : UpEs P) (h_im : UpIm P) (h_ft : UpFt P) (h_cf : UpCf P) (h_out : UpOut P) (hR : UpR P) (h : Keep P s) : KeepOut P (execFrameReceive a1 a2 s) := by
  unfold execFrameReceive
  repeat' first
    | with_reducible assumption
    | with_reducible refine keepOut_next ?_
    | with_reducible refine keep_takeFrame h_qe h_fl h_es h_im h_ft h_cf h_out hR ?_
    | with_reducible refine keep_live ?_ ?_
    | split
    | with_reducible intro _

theorem keep_fenceAfter {a2 : Nat} {a3 : Bytes} (h_qe : UpQe P) (h_fl : UpFl P) (h_es : UpEs P) (h_cf : UpCf P) (h_out : UpOut P) (hR : UpR P) (h : Keep P s) : Keep P (fenceAfter s a2 a3) := by
  unfold fenceAfter
  repeat' first
    | with_reducible assumption
    | with_reducible refine keep_applyFence h_qe h_fl h_es h_out hR ?_
    | fail_if_no_progress with_reducible refine keep_up_cf h_cf (keep_eta ?_)
    | split

theorem keep_execFrameStart {a1 : Nat} (h_qe : UpQe P) (h_ae : UpAe P) (h_fl : UpFl P) (h_es : UpEs P) (h_cf : UpCf P) (h_out : UpOut P) (hR : UpR P) (h : Keep P s) : KeepOut P (execFrameStart a1 s) := by
  unfold execFrameStart
  repeat' first
    | with_reducible assumption
    | with_reducible refine keepOut_next ?_
    | with_reducible refine keep_fenceAfter h_qe h_fl h_es h_cf h_out hR ?_
    | with_reducible refine keep_startFrame h_ae h_fl h_es h_out hR ?_
    | with_reducible refine keep_updPort h_fl ?_
    | with_reducible refine keep_live ?_ ?_
    | with_reducible refine keep_emit h_out ?_
    | split
    | with_reducible intro _

theorem keep_execConnDropPeriod  (h_im : UpIm P) (h : Keep P s) : KeepOut P (execConnDropPeriod s) := by
  unfold execConnDropPeriod
  repeat' first
    | with_reducible assumption
    | with_reducible refine keepOut_next ?_
    | with_reducible refine keep_live ?_ ?_
    | fail_if_no_progress with_reducible refine keep_up_im h_im (keep_eta ?_)
    | split
    | with_reducible intro _

theorem keep_setOper {a2 : Nat} {a3 : Install} (h_es : UpEs P) (hR : UpR P) (h : Keep P s) : Keep P (setOper s a2 a3) := by
  unfold setOper
  repeat' first
    | with_reducible assumption
    | with_reducible refine keep_setF hR ?_
    | fail_if_no_progress with_reducible refine keep_up_es h_es (keep_eta ?_)
    | with_reducible refine keep_foldl (fun _ _ _ => ?_) ?_

theorem keep_execGateInstallEffect {a1 : Nat} (h_qe : UpQe P) (h_es : UpEs P) (h_out : UpOut P) (hR : UpR P) (h : Keep P s) : KeepOut P (execGateInstallEffect a1 s) := by
  unfold execGateInstallEffect
  repeat' first
    | with_reducible assumption
    | with_reducible refine keepOut_next ?_
    | with_reducible refine keep_setOper h_es hR ?_
    | with_reducible refine keep_checkSuspend h_qe h_out hR ?_
    | with_reducible refine keep_raise1 h_qe h_out hR ?_
    | with_reducible refine keep_live ?_ ?_
    | with_reducible refine keep_setB hR ?_
    | (extract_lets -underBinder -merge -useContext +onlyGivenNames x; with_reducible refine keep_cut (s := x) ?_ ?_; (on_goal 1 => unfold x); (on_goal 2 => (clear_value x; intro _)))
    | split
    | with_reducible intro _

theorem keep_execGateEntryChange {a1 : Nat} (hR : UpR P) (h : Keep P s) : KeepOut P (execGateEntryChange a1 s) := by
  unfold execGateEntryChange
  repeat' first
    | with_reducible assumption
    | with_reducible refine keepOut_next ?_
    | with_reducible refine keep_live ?_ ?_
    | with_reducible refine keep_setB hR ?_
    | (extract_lets -underBinder -merge -useContext +onlyGivenNames x; clear_value x)
    | split
    | with_reducible intro _

/-! ### Machine/Recov.lean -/


theorem keep_sendMgr {a2 : Nat} {a3 : Nat} {a4 : Bytes} (h_ft : UpFt P) (h : Keep P s) : Keep P (sendMgr s a2 a3 a4) := by
  unfold sendMgr
  repeat' first
    | with_reducible assumption
    | with_reducible refine keep_sendDgram h_ft ?_
    | split

theorem keep_mgrReply {a2 : Nat} {a3 : Nat} {a4 : Nat} {a5 : Nat} {a6 : Nat} {a7 : Nat} {a8 : Bytes} (h_ft : UpFt P) (h_cf : UpCf P) (h : Keep P s) : Keep P (mgrReply s a2 a3 a4 a5 a6 a7 a8) := by
  unfold mgrReply
  repeat' first
    | with_reducible assumption
    | with_reducible refine keep_sendMgr h_ft ?_
    | fail_if_no_progress with_reducible refine keep_up_cf h_cf (keep_eta ?_)
    | (extract_lets -underBinder -merge -useContext +onlyGivenNames x; clear_value x)
    | split

theorem keep_recAnswer {a2 : RecIssuer} {a3 : Nat} {a4 : Nat} {a5 : Nat} {a6 : Nat} {a7 : Nat} (h_qe : UpQe P) (h_ft : UpFt P) (h_cf : UpCf P) (hR : UpR P) (h : Keep P s) : Keep P (recAnswer s a2 a3 a4 a5 a6 a7) := by
  unfold recAnswer
  repeat' first
    | with_reducible assumption
    | with_reducible refine keep_mgrReply h_ft h_cf ?_
    | with_reducible refine keep_complete h_qe hR ?_
    | split

theorem keep_recDone {a2 : Nat} {a3 : Nat} (h_qe : UpQe P) (h_ft : UpFt P) (h_cf : UpCf P) (hR : UpR P) (h : Keep P s) : Keep P (recDone s a2 a3) := by
  unfold recDone
  repeat' first
    | with_reducible assumption
    | with_reducible refine keep_recAnswer h_qe h_ft h_cf hR ?_
    | fail_if_no_progress with_reducible refine keep_up_cf h_cf (keep_eta ?_)
    | with_reducible refine keep_foldl (fun _ _ _ => ?_) ?_
    | (extract_lets -underBinder -merge -useContext +onlyGivenNames x; with_reducible refine keep_cut (s := x) ?_ ?_; (on_goal 1 => unfold x); (on_goal 2 => (clear_value x; intro _)))
    | (extract_lets -underBinder -merge -useContext +onlyGivenNames x; clear_value x)
    | split

theorem keep_drainCheck {a2 : Nat} (h_qe : UpQe P) (h_ft : UpFt P) (h_cf : UpCf P) (hR : UpR P) (h : Keep P s) : Keep P (drainCheck s a2) := by
  unfold drainCheck
  repeat' first
    | with_reducible assumption
    | with_reducible refine keep_recDone h_qe h_ft h_cf hR ?_
    | fail_if_no_progress with_reducible refine keep_up_cf h_cf (keep_eta ?_)
    | split

theorem keep_closeEnded {a2 : Nat} (h_qe : UpQe P) (h_ft : UpFt P) (h_cf : UpCf P) (hR : UpR P) (h : Keep P s) : Keep P (closeEnded s a2) := by
  unfold closeEnded
  repeat' first
    | with_reducible assumption
    | with_reducible refine keep_recDone h_qe h_ft h_cf hR ?_
    | fail_if_no_progress with_reducible refine keep_up_cf h_cf (keep_eta ?_)
    | with_reducible refine keep_foldl (fun _ _ _ => ?_) ?_
    | (extract_lets -underBinder -merge -useContext +onlyGivenNames x; clear_value x)
    | split

end Sys2Proof.Machine
end

