-- ==== Sys2Proof/Laws/KeepMoves.lean ====
section
/-!
SUPPORT. KeepMoves.lean: what the definitions of Machine/Moves.lean, Machine/Tiers.lean, Machine/Contexts.lean keep (see Keep.lean).
-/

set_option linter.unusedTactic false
set_option linter.unreachableTactic false
set_option linter.unusedVariables false
set_option linter.tactic.unusedName false
set_option maxRecDepth 20000

namespace Sys2Proof.Machine

variable {P : State → Prop} {s : State}

/-! ### Machine/Moves.lean -/


theorem keep_updMove {a2 : Nat} {a3 : Move → Move} (h_tm : UpTm P) (h : Keep P s) : Keep P (updMove s a2 a3) := by
  unfold updMove
  repeat' first
    | with_reducible assumption
    | fail_if_no_progress with_reducible refine keep_up_tm h_tm (keep_eta ?_)

theorem keep_retireStep {a2 : CmdRef} {a3 : Option Nat} (h_qe : UpQe P) (h_pm : UpPm P) (h_tm : UpTm P) (h_pf : UpPf P) (h_out : UpOut P) (hR : UpR P) (h : Keep P s) : Keep P (retireStep s a2 a3) := by
  unfold retireStep
  repeat' first
    | with_reducible assumption
    | with_reducible refine keep_walkEndQ h_qe h_pm h_tm h_out hR ?_
    | with_reducible refine keep_finish h_qe hR ?_
    | fail_if_no_progress with_reducible refine keep_up_pf h_pf (keep_eta ?_)
    | (extract_lets -underBinder -merge -useContext +onlyGivenNames x; clear_value x)
    | fail_if_no_progress extract_lets -underBinder -merge -useContext +onlyGivenNames x
    | split

theorem keep_unwindMove {a2 : Nat} {a3 : Move} (h_qe : UpQe P) (h_pm : UpPm P) (h_tm : UpTm P) (h_out : UpOut P) (hR : UpR P) (h : Keep P s) : Keep P (unwindMove s a2 a3) := by
  unfold unwindMove
  repeat' first
    | with_reducible assumption
    | with_reducible refine keep_leaveEdit h_pm hR ?_
    | with_reducible refine keep_leaveWalk h_pm hR ?_
    | with_reducible refine keep_walkEndQ h_qe h_pm h_tm h_out hR ?_
    | with_reducible refine keep_untakeSlots h_qe h_pm h_tm h_out hR ?_
    | fail_if_no_progress with_reducible refine keep_up_tm h_tm (keep_eta ?_)

theorem keep_tellReason {a2 : Move} {a3 : Nat} (h_cx : UpCx P) (h_ae : UpAe P) (h : Keep P s) : Keep P (tellReason s a2 a3) := by
  unfold tellReason
  repeat' first
    | with_reducible assumption
    | fail_if_no_progress with_reducible refine keep_up_cx h_cx (keep_eta ?_)
    | fail_if_no_progress with_reducible refine keep_up_ae h_ae (keep_eta ?_)
    | split

theorem keep_dropRoom {a2 : Nat} (h_tm : UpTm P) (h : Keep P s) : Keep P (dropRoom s a2) := by
  unfold dropRoom
  repeat' first
    | with_reducible assumption
    | fail_if_no_progress with_reducible refine keep_up_tm h_tm (keep_eta ?_)

theorem keep_endMove {a2 : Nat} {a3 : Option Nat} (h_qe : UpQe P) (h_pm : UpPm P) (h_tm : UpTm P) (h_pf : UpPf P) (h_out : UpOut P) (hR : UpR P) (h : Keep P s) : Keep P (endMove s a2 a3) := by
  unfold endMove
  repeat' first
    | with_reducible assumption
    | with_reducible refine keep_dropRoom h_tm ?_
    | with_reducible refine keep_unwindMove h_qe h_pm h_tm h_out hR ?_
    | with_reducible refine keep_retireStep h_qe h_pm h_tm h_pf h_out hR ?_
    | fail_if_no_progress with_reducible refine keep_up_tm h_tm (keep_eta ?_)
    | with_reducible refine keep_foldl (fun _ _ _ => ?_) ?_
    | split

theorem keep_stopMove {a2 : Nat} (h_qe : UpQe P) (h_pm : UpPm P) (h_tm : UpTm P) (h_pf : UpPf P) (h_out : UpOut P) (hR : UpR P) (h : Keep P s) : Keep P (stopMove s a2) := by
  unfold stopMove
  repeat' first
    | with_reducible assumption
    | with_reducible refine keep_endMove h_qe h_pm h_tm h_pf h_out hR ?_
    | with_reducible refine keep_dropRoom h_tm ?_
    | with_reducible refine keep_unwindMove h_qe h_pm h_tm h_out hR ?_
    | with_reducible refine keep_updMove h_tm ?_
    | fail_if_no_progress with_reducible refine keep_up_tm h_tm (keep_eta ?_)
    | (extract_lets -underBinder -merge -useContext +onlyGivenNames x; with_reducible refine keep_cut (s := x) ?_ ?_; (on_goal 1 => unfold x); (on_goal 2 => (clear_value x; intro _)))
    | (extract_lets -underBinder -merge -useContext +onlyGivenNames x; clear_value x)
    | split

theorem keep_checkMove {a2 : Nat} (h_qe : UpQe P) (h_cx : UpCx P) (h_pm : UpPm P) (h_ae : UpAe P) (h_tm : UpTm P) (h_pf : UpPf P) (h_out : UpOut P) (hR : UpR P) (h : Keep P s) : Keep P (checkMove s a2) := by
  unfold checkMove
  repeat' first
    | with_reducible assumption
    | with_reducible refine keep_endMove h_qe h_pm h_tm h_pf h_out hR ?_
    | with_reducible refine keep_tellReason h_cx h_ae ?_
    | with_reducible refine keep_barMoves h_pm ?_
    | with_reducible refine keep_raise1 h_qe h_out hR ?_
    | (extract_lets -underBinder -merge -useContext +onlyGivenNames x; with_reducible refine keep_cut (s := x) ?_ ?_; (on_goal 1 => unfold x); (on_goal 2 => (clear_value x; intro _)))
    | split

theorem keep_faultMove {a2 : Nat} (h_qe : UpQe P) (h_cx : UpCx P) (h_pm : UpPm P) (h_ae : UpAe P) (h_tm : UpTm P) (h_pf : UpPf P) (h_out : UpOut P) (hR : UpR P) (h : Keep P s) : Keep P (faultMove s a2) := by
  unfold faultMove
  repeat' first
    | with_reducible assumption
    | with_reducible refine keep_endMove h_qe h_pm h_tm h_pf h_out hR ?_
    | with_reducible refine keep_tellReason h_cx h_ae ?_
    | with_reducible refine keep_raise1 h_qe h_out hR ?_
    | split

theorem keep_stopCtxMoves {a2 : Nat} {a3 : Move → Bool} (h_qe : UpQe P) (h_pm : UpPm P) (h_tm : UpTm P) (h_pf : UpPf P) (h_out : UpOut P) (hR : UpR P) (h : Keep P s) : Keep P (stopCtxMoves s a2 a3) := by
  unfold stopCtxMoves
  repeat' first
    | with_reducible assumption
    | with_reducible refine keep_stopMove h_qe h_pm h_tm h_pf h_out hR ?_
    | with_reducible refine keep_foldl (fun _ _ _ => ?_) ?_

theorem keep_endCtxMoves {a2 : Nat} (h_qe : UpQe P) (h_pm : UpPm P) (h_tm : UpTm P) (h_pf : UpPf P) (h_out : UpOut P) (hR : UpR P) (h : Keep P s) : Keep P (endCtxMoves s a2) := by
  unfold endCtxMoves
  repeat' first
    | with_reducible assumption
    | with_reducible refine keep_endMove h_qe h_pm h_tm h_pf h_out hR ?_
    | with_reducible refine keep_foldl (fun _ _ _ => ?_) ?_

theorem keep_stopSpill {a1 : Nat} {a3 : Nat} (h_qe : UpQe P) (h_pm : UpPm P) (h_tm : UpTm P) (h_pf : UpPf P) (h_out : UpOut P) (hR : UpR P) (h : Keep P s) : Keep P (stopSpill a1 s a3) := by
  induction a1 generalizing s a3 with
  | zero =>
    rw [stopSpill]
    repeat' first
      | with_reducible assumption
      | with_reducible apply ih
      | with_reducible refine keep_stopMove h_qe h_pm h_tm h_pf h_out hR ?_
      | with_reducible refine keep_raise1 h_qe h_out hR ?_
      | (extract_lets -underBinder -merge -useContext +onlyGivenNames x; with_reducible refine keep_cut (s := x) ?_ ?_; (on_goal 1 => unfold x); (on_goal 2 => (clear_value x; intro _)))
      | split
  | succ _ ih =>
    rw [stopSpill]
    repeat' first
      | with_reducible assumption
      | with_reducible apply ih
      | with_reducible refine keep_stopMove h_qe h_pm h_tm h_pf h_out hR ?_
      | with_reducible refine keep_raise1 h_qe h_out hR ?_
      | (extract_lets -underBinder -merge -useContext +onlyGivenNames x; with_reducible refine keep_cut (s := x) ?_ ?_; (on_goal 1 => unfold x); (on_goal 2 => (clear_value x; intro _)))
      | split

theorem keep_queueMove {a2 : Nat} {a3 : Nat} {a4 : Nat} {a5 : Nat} {a6 : Nat} {a7 : MoveWhy} {a8 : Option CmdRef} {a9 : Option Nat} (h_qe : UpQe P) (h_pm : UpPm P) (h_tm : UpTm P) (h_pf : UpPf P) (h_out : UpOut P) (hR : UpR P) (h : Keep P s) : Keep P (queueMove s a2 a3 a4 a5 a6 a7 a8 a9) := by
  unfold queueMove
  repeat' first
    | with_reducible assumption
    | with_reducible refine keep_stopMove h_qe h_pm h_tm h_pf h_out hR ?_
    | with_reducible refine keep_updMove h_tm ?_
    | fail_if_no_progress with_reducible refine keep_up_tm h_tm (keep_eta ?_)
    | (extract_lets -underBinder -merge -useContext +onlyGivenNames x; with_reducible refine keep_cut (s := x) ?_ ?_; (on_goal 1 => unfold x); (on_goal 2 => (clear_value x; intro _)))
    | (extract_lets -underBinder -merge -useContext +onlyGivenNames x; have := (fun (_ : _ → _) => trivial) x; unfold x; clear this x; beta_reduce)
    | (extract_lets -underBinder -merge -useContext +onlyGivenNames x; clear_value x)
    | split

theorem keep_bufferFor {a2 : Option Nat} (h_tm : UpTm P) (h : Keep P s) : KeepOptP P (bufferFor s a2) := by
  unfold bufferFor
  repeat' first
    | with_reducible assumption
    | with_reducible refine keepOptP_some ?_
    | with_reducible exact keepOptP_none
    | fail_if_no_progress with_reducible refine keep_up_tm h_tm (keep_eta ?_)
    | split

theorem keep_fillSlot {a2 : Nat} {a3 : Nat} {a4 : Option Nat} {a5 : Option Nat} {a6 : Bytes} (h_pm : UpPm P) (h_tm : UpTm P) (hR : UpR P) (h : Keep P s) : KeepOptP P (fillSlot s a2 a3 a4 a5 a6) := by
  unfold fillSlot
  repeat' first
    | with_reducible assumption
    | with_reducible refine keepOptP_some ?_
    | with_reducible exact keepOptP_none
    | with_reducible refine keepOptP_eq (keep_bufferFor h_tm ?_) (by assumption)
    | with_reducible refine keep_takeSlot h_pm hR ?_
    | fail_if_no_progress with_reducible refine keep_up_tm h_tm (keep_eta ?_)
    | split

theorem keep_fillSlots {a2 : Nat} {a3 : Nat} {a4 : Option Nat} {a5 : List (Option Nat × Bytes)} (h_pm : UpPm P) (h_tm : UpTm P) (hR : UpR P) (h : Keep P s) : KeepOptP P (fillSlots s a2 a3 a4 a5) := by
  induction a5 generalizing s a2 a3 a4 with
  | nil =>
    rw [fillSlots]
    repeat' first
      | with_reducible assumption
      | with_reducible refine keepOptP_eq (ih ?_) (by assumption)
      | with_reducible refine keepOptP_some ?_
      | with_reducible exact keepOptP_none
      | with_reducible refine keepOptP_eq (keep_fillSlot h_pm h_tm hR ?_) (by assumption)
      | split
  | cons _ _ ih =>
    rw [fillSlots]
    repeat' first
      | with_reducible assumption
      | with_reducible refine keepOptP_eq (ih ?_) (by assumption)
      | with_reducible refine keepOptP_some ?_
      | with_reducible exact keepOptP_none
      | with_reducible refine keepOptP_eq (keep_fillSlot h_pm h_tm hR ?_) (by assumption)
      | split

theorem keep_editPage {a2 : Nat} {a3 : Nat} {a4 : Nat} {a5 : Nat} {a6 : Nat} {a7 : Nat → Nat → Change} (h_qe : UpQe P) (h_pm : UpPm P) (h_tm : UpTm P) (h_out : UpOut P) (hR : UpR P) (hW : UpW P) (h : Keep P s) : KeepEdit P (editPage s a2 a3 a4 a5 a6 a7) := by
  unfold editPage
  repeat' first
    | with_reducible assumption
    | with_reducible exact keepEdit_bad
    | with_reducible refine keep_edit h_qe h_pm h_tm h_out hR hW ?_
    | split

theorem keep_askRelease {a2 : List Nat} (h_pm : UpPm P) (h : Keep P s) : Keep P (askRelease s a2) := by
  unfold askRelease
  repeat' first
    | with_reducible assumption
    | fail_if_no_progress with_reducible refine keep_up_pm h_pm (keep_eta ?_)

theorem keep_dropPage {a2 : Nat} {a3 : Nat} {a4 : Nat} {a5 : Nat} {a6 : Nat} (h_qe : UpQe P) (h_cx : UpCx P) (h_pm : UpPm P) (h_tm : UpTm P) (h_pf : UpPf P) (h_cf : UpCf P) (h_out : UpOut P) (hR : UpR P) (hW : UpW P) (h : Keep P s) : KeepP P (dropPage s a2 a3 a4 a5 a6) := by
  unfold dropPage
  repeat' first
    | with_reducible assumption
    | with_reducible refine keep_askRelease h_pm ?_
    | with_reducible refine keepEdit_eq (keep_editPage h_qe h_pm h_tm h_out hR hW ?_) (by assumption)
    | with_reducible refine keep_waitEdit h_qe h_pm h_out hR ?_
    | with_reducible refine keep_entryFailed h_qe h_cx h_pm h_pf h_cf h_out hR ?_
    | with_reducible refine keep_leaveEdit h_pm hR ?_
    | with_reducible refine keepExS_eq (keep_readCtx h_qe h_cx h_pm h_pf h_cf h_out hR ?_) (by assumption)
    | with_reducible refine keepExS_err (keep_readCtx h_qe h_cx h_pm h_pf h_cf h_out hR ?_) (by assumption)
    | with_reducible refine keep_raise1 h_qe h_out hR ?_
    | with_reducible refine keep_bumpR hR ?_
    | split
    | with_reducible refine keepP_mk ?_

theorem keep_dropByMover {a2 : Nat} {a3 : Nat} {a4 : Nat} {a5 : Nat} (h_qe : UpQe P) (h_cx : UpCx P) (h_pm : UpPm P) (h_tm : UpTm P) (h_pf : UpPf P) (h_cf : UpCf P) (h_out : UpOut P) (hR : UpR P) (hW : UpW P) (h : Keep P s) : KeepP P (dropByMover s a2 a3 a4 a5) := by
  unfold dropByMover
  repeat' first
    | with_reducible assumption
    | with_reducible refine keepP_eq (keep_dropPage h_qe h_cx h_pm h_tm h_pf h_cf h_out hR hW ?_) (by assumption)
    | with_reducible refine keepOptP_eq (keep_walkStart h_pm ?_) (by assumption)
    | with_reducible refine keep_leaveWalk h_pm hR ?_
    | with_reducible refine keep_waitWalker h_pm ?_
    | with_reducible refine keep_walkEnd h_qe h_pm h_tm h_out hR ?_
    | (extract_lets -underBinder -merge -useContext +onlyGivenNames x; clear_value x)
    | split
    | with_reducible refine keepP_mk ?_

theorem keep_dropRetired {a2 : Nat × Nat × Nat × Nat} (h_qe : UpQe P) (h_cx : UpCx P) (h_pm : UpPm P) (h_tm : UpTm P) (h_pf : UpPf P) (h_cf : UpCf P) (h_out : UpOut P) (hR : UpR P) (hW : UpW P) (h : Keep P s) : KeepPP P (dropRetired s a2) := by
  unfold dropRetired
  repeat' first
    | with_reducible assumption
    | with_reducible refine keepP_eq (keep_dropPage h_qe h_cx h_pm h_tm h_pf h_cf h_out hR hW ?_) (by assumption)
    | with_reducible refine keep_entryFailed h_qe h_cx h_pm h_pf h_cf h_out hR ?_
    | split
    | with_reducible refine keepPP_mk ?_

theorem keep_pokeRetire {a2 : CmdRef} {a3 : List (Nat × Nat × Nat × Nat)} (h_qe : UpQe P) (h_cx : UpCx P) (h_pm : UpPm P) (h_tm : UpTm P) (h_pf : UpPf P) (h_cf : UpCf P) (h_out : UpOut P) (hR : UpR P) (hW : UpW P) (h : Keep P s) : Keep P (pokeRetire s a2 a3) := by
  unfold pokeRetire
  repeat' first
    | with_reducible assumption
    | with_reducible refine keepPP_eq (keep_dropRetired h_qe h_cx h_pm h_tm h_pf h_cf h_out hR hW ?_) (by assumption)
    | with_reducible refine keep_retireStep h_qe h_pm h_tm h_pf h_out hR ?_
    | fail_if_no_progress with_reducible refine keep_up_pf h_pf (keep_eta ?_)
    | with_reducible refine keep_foldl (fun _ _ _ => ?_) ?_
    | split

theorem keep_pokeRetires  (h_qe : UpQe P) (h_cx : UpCx P) (h_pm : UpPm P) (h_tm : UpTm P) (h_pf : UpPf P) (h_cf : UpCf P) (h_out : UpOut P) (hR : UpR P) (hW : UpW P) (h : Keep P s) : Keep P (pokeRetires s) := by
  unfold pokeRetires
  repeat' first
    | with_reducible assumption
    | with_reducible refine keep_pokeRetire h_qe h_cx h_pm h_tm h_pf h_cf h_out hR hW ?_
    | with_reducible refine keep_foldl (fun _ _ _ => ?_) ?_

theorem keep_roomAfter {a1 : Nat} {a2 : Nat} {a3 : Nat} {a4 : DropRes × State} (h : KeepP P a4) : KeepP P (roomAfter a1 a2 a3 a4) := by
  unfold roomAfter
  repeat' first
    | with_reducible refine keepP_snd (by assumption)
    | split
    | with_reducible refine keepP_mk ?_

theorem keep_spillRoom {a2 : Nat} {a3 : Move} {a4 : Nat} (h_qe : UpQe P) (h_cx : UpCx P) (h_pm : UpPm P) (h_tm : UpTm P) (h_pf : UpPf P) (h_cf : UpCf P) (h_out : UpOut P) (hR : UpR P) (hW : UpW P) (h : Keep P s) : KeepP P (spillRoom s a2 a3 a4) := by
  unfold spillRoom
  repeat' first
    | with_reducible assumption
    | with_reducible refine keep_roomAfter ?_
    | with_reducible refine keep_dropByMover h_qe h_cx h_pm h_tm h_pf h_cf h_out hR hW ?_
    | with_reducible refine keep_queueMove h_qe h_pm h_tm h_pf h_out hR ?_
    | with_reducible refine keep_updMove h_tm ?_
    | (extract_lets -underBinder -merge -useContext +onlyGivenNames x; with_reducible refine keep_cutA (P := P) (s := x) ?_ ?_; (on_goal 1 => unfold x); (on_goal 2 => (clear_value x; intro _)))
    | (extract_lets -underBinder -merge -useContext +onlyGivenNames x; clear_value x)
    | split
    | with_reducible refine keepP_mk ?_

theorem keep_takeIn {a2 : Nat} {a3 : Nat} {a4 : Nat} {a5 : Nat} {a6 : Bool} {a7 : Nat} (h_qe : UpQe P) (h_pm : UpPm P) (h_out : UpOut P) (hR : UpR P) (h : Keep P s) : KeepP P (takeIn s a2 a3 a4 a5 a6 a7) := by
  unfold takeIn
  repeat' first
    | with_reducible assumption
    | with_reducible refine keepExS_eq (keep_takeGddr h_qe h_pm h_out hR ?_) (by assumption)
    | with_reducible refine keepExS_err (keep_takeGddr h_qe h_pm h_out hR ?_) (by assumption)
    | with_reducible refine keepExP_eq (keep_takeCxl h_pm hR ?_) (by assumption)
    | split
    | with_reducible refine keepP_mk ?_

theorem keep_allocIn {a2 : Nat} {a3 : Nat} {a4 : Nat} {a5 : Nat} {a6 : Bool} {a7 : Nat} (h_qe : UpQe P) (h_pm : UpPm P) (h_out : UpOut P) (hR : UpR P) (h : Keep P s) : KeepP P (allocIn s a2 a3 a4 a5 a6 a7) := by
  unfold allocIn
  repeat' first
    | with_reducible assumption
    | with_reducible refine keep_takeIn h_qe h_pm h_out hR ?_
    | split
    | with_reducible refine keepP_mk ?_

theorem keep_allocOwn {a2 : Nat} {a3 : Nat} {a4 : Nat} {a5 : Nat} {a6 : Nat} (h_qe : UpQe P) (h_pm : UpPm P) (h_out : UpOut P) (hR : UpR P) (h : Keep P s) : KeepP P (allocOwn s a2 a3 a4 a5 a6) := by
  unfold allocOwn
  repeat' first
    | with_reducible assumption
    | with_reducible refine keepExP_eq (keep_takeNarrow h_pm hR ?_) (by assumption)
    | with_reducible refine keepExP_eq (keep_takeWide h_pm hR ?_) (by assumption)
    | with_reducible refine keep_raise1 h_qe h_out hR ?_
    | split
    | with_reducible refine keepP_mk ?_

theorem keep_allocMove {a2 : Move} {a3 : Nat} (h_qe : UpQe P) (h_pm : UpPm P) (h_out : UpOut P) (hR : UpR P) (h : Keep P s) : KeepP P (allocMove s a2 a3) := by
  unfold allocMove
  repeat' first
    | with_reducible assumption
    | with_reducible refine keep_allocOwn h_qe h_pm h_out hR ?_
    | with_reducible refine keep_allocIn h_qe h_pm h_out hR ?_
    | (extract_lets -underBinder -merge -useContext +onlyGivenNames x; clear_value x)
    | split

theorem keep_noSlot {a2 : Nat} {a3 : Move} (h_qe : UpQe P) (h_cx : UpCx P) (h_pm : UpPm P) (h_ae : UpAe P) (h_tm : UpTm P) (h_pf : UpPf P) (h_out : UpOut P) (hR : UpR P) (h : Keep P s) : Keep P (noSlot s a2 a3) := by
  unfold noSlot
  repeat' first
    | with_reducible assumption
    | with_reducible refine keep_stopSpill h_qe h_pm h_tm h_pf h_out hR ?_
    | with_reducible refine keep_stopMove h_qe h_pm h_tm h_pf h_out hR ?_
    | with_reducible refine keep_endMove h_qe h_pm h_tm h_pf h_out hR ?_
    | with_reducible refine keep_tellReason h_cx h_ae ?_
    | with_reducible refine keep_raiseQuota h_qe h_out hR ?_
    | split

theorem keep_failTarget {a2 : Nat} {a3 : Move} (h_qe : UpQe P) (h_cx : UpCx P) (h_pm : UpPm P) (h_ae : UpAe P) (h_tm : UpTm P) (h_pf : UpPf P) (h_cf : UpCf P) (h_out : UpOut P) (hR : UpR P) (h : Keep P s) : KeepOpt P (failTarget s a2 a3) := by
  unfold failTarget
  repeat' first
    | with_reducible assumption
    | with_reducible refine keep_faultMove h_qe h_cx h_pm h_ae h_tm h_pf h_out hR ?_
    | with_reducible refine keep_logFailure h_qe h_pf h_cf h_out hR ?_
    | with_reducible refine keepOpt_mapv (fun _ => ?_)

theorem keep_enterPair {a2 : Nat} {a3 : Nat} {a4 : NvmeCmd} (h_tm : UpTm P) (h_out : UpOut P) (h : Keep P s) : Keep P (enterPair s a2 a3 a4) := by
  unfold enterPair
  repeat' first
    | with_reducible assumption
    | with_reducible refine keep_emit h_out ?_
    | fail_if_no_progress with_reducible refine keep_up_tm h_tm (keep_eta ?_)
    | (extract_lets -underBinder -merge -useContext +onlyGivenNames x; with_reducible refine keep_cut (s := x) ?_ ?_; (on_goal 1 => unfold x); (on_goal 2 => (clear_value x; intro _)))
    | (extract_lets -underBinder -merge -useContext +onlyGivenNames x; clear_value x)
    | split

theorem keep_giveDrive {a2 : Nat} {a3 : NvmeCmd} (h_tm : UpTm P) (h_out : UpOut P) (h : Keep P s) : Keep P (giveDrive s a2 a3) := by
  unfold giveDrive
  repeat' first
    | with_reducible assumption
    | with_reducible refine keep_enterPair h_tm h_out ?_
    | fail_if_no_progress with_reducible refine keep_up_tm h_tm (keep_eta ?_)
    | split

theorem keep_leaveDrive {a2 : Nat} {a3 : NvmeCmd} (h_tm : UpTm P) (h_out : UpOut P) (h : Keep P s) : Keep P (leaveDrive s a2 a3) := by
  unfold leaveDrive
  repeat' first
    | with_reducible assumption
    | with_reducible refine keep_enterPair h_tm h_out ?_
    | fail_if_no_progress with_reducible refine keep_up_tm h_tm (keep_eta ?_)
    | (extract_lets -underBinder -merge -useContext +onlyGivenNames x; with_reducible refine keep_cut (s := x) ?_ ?_; (on_goal 1 => unfold x); (on_goal 2 => (clear_value x; intro _)))
    | (extract_lets -underBinder -merge -useContext +onlyGivenNames x; clear_value x)
    | split

theorem keep_issueRead {a2 : Nat} (h_tm : UpTm P) (h_out : UpOut P) (h : Keep P s) : Keep P (issueRead s a2) := by
  unfold issueRead
  repeat' first
    | with_reducible assumption
    | with_reducible refine keep_giveDrive h_tm h_out ?_
    | split

theorem keep_stageReads {a2 : List Nat} (h_tm : UpTm P) (h_out : UpOut P) (h : Keep P s) : Keep P (stageReads s a2) := by
  unfold stageReads
  repeat' first
    | with_reducible assumption
    | with_reducible refine keep_issueRead h_tm h_out ?_
    | with_reducible refine keep_foldl (fun _ _ _ => ?_) ?_

theorem keep_stageCounted {a2 : List Nat} (h_tm : UpTm P) (h_out : UpOut P) (hR : UpR P) (h : Keep P s) : Keep P (stageCounted s a2) := by
  unfold stageCounted
  repeat' first
    | with_reducible assumption
    | with_reducible refine keep_stageReads h_tm h_out ?_
    | with_reducible refine keep_bumpR hR ?_

theorem keep_writeSlots {a2 : List (Nat × Bytes)} (h_tm : UpTm P) (hW : UpW P) (h : Keep P s) : Keep P (writeSlots s a2) := by
  induction a2 generalizing s with
  | nil =>
    rw [writeSlots]
    repeat' first
      | with_reducible assumption
      | with_reducible apply ih
      | with_reducible refine keep_slotWrite h_tm hW ?_
  | cons _ _ ih =>
    rw [writeSlots]
    repeat' first
      | with_reducible assumption
      | with_reducible apply ih
      | with_reducible refine keep_slotWrite h_tm hW ?_

theorem keep_unstage {a2 : List Nat} (h_tm : UpTm P) (h : Keep P s) : Keep P (unstage s a2) := by
  unfold unstage
  repeat' first
    | with_reducible assumption
    | fail_if_no_progress with_reducible refine keep_up_tm h_tm (keep_eta ?_)

theorem keep_bufferMove {a2 : Nat} {a3 : Move} {a4 : List Nat} {a5 : List Bytes} (h_qe : UpQe P) (h_cx : UpCx P) (h_pm : UpPm P) (h_ae : UpAe P) (h_tm : UpTm P) (h_pf : UpPf P) (h_out : UpOut P) (hR : UpR P) (h : Keep P s) : Keep P (bufferMove s a2 a3 a4 a5) := by
  unfold bufferMove
  repeat' first
    | with_reducible assumption
    | with_reducible refine keep_unstage h_tm ?_
    | with_reducible refine keep_noSlot h_qe h_cx h_pm h_ae h_tm h_pf h_out hR ?_
    | with_reducible refine keepOptP_eq (keep_fillSlots h_pm h_tm hR ?_) (by assumption)
    | with_reducible refine keep_updMove h_tm ?_
    | (extract_lets -underBinder -merge -useContext +onlyGivenNames x; have := (fun (_ : _ → _) => trivial) x; unfold x; clear this x; beta_reduce)
    | (extract_lets -underBinder -merge -useContext +onlyGivenNames x; clear_value x)
    | split

theorem keep_copyMove {a2 : Nat} {a3 : Reads} (h_qe : UpQe P) (h_cx : UpCx P) (h_pm : UpPm P) (h_ae : UpAe P) (h_tm : UpTm P) (h_pf : UpPf P) (h_cf : UpCf P) (h_out : UpOut P) (hR : UpR P) (hW : UpW P) (h : Keep P s) : Keep P (copyMove s a2 a3) := by
  unfold copyMove
  repeat' first
    | with_reducible assumption
    | with_reducible refine keep_bufferMove h_qe h_cx h_pm h_ae h_tm h_pf h_out hR ?_
    | with_reducible refine keep_unstage h_tm ?_
    | with_reducible refine keep_writeSlots h_tm hW ?_
    | with_reducible refine keep_failTarget h_qe h_cx h_pm h_ae h_tm h_pf h_cf h_out hR ?_
    | with_reducible refine keep_faultMove h_qe h_cx h_pm h_ae h_tm h_pf h_out hR ?_
    | with_reducible refine keep_checkMove h_qe h_cx h_pm h_ae h_tm h_pf h_out hR ?_
    | with_reducible refine keep_endMove h_qe h_pm h_tm h_pf h_out hR ?_
    | with_reducible refine keep_updMove h_tm ?_
    | with_reducible refine keep_pageFailed h_qe h_pf h_cf h_out hR ?_
    | with_reducible refine keep_entryFailed h_qe h_cx h_pm h_pf h_cf h_out hR ?_
    | with_reducible refine keep_takeReads h_qe h_tm h_cf h_out hR ?_
    | (extract_lets -underBinder -merge -useContext +onlyGivenNames x; with_reducible refine keep_cut (s := x) ?_ ?_; (on_goal 1 => unfold x); (on_goal 2 => (clear_value x; intro _)))
    | (extract_lets -underBinder -merge -useContext +onlyGivenNames x; have := (fun (_ : _ → _) => trivial) x; unfold x; clear this x; beta_reduce)
    | (extract_lets -underBinder -merge -useContext +onlyGivenNames x; clear_value x)
    | split
    | with_reducible refine keep_getD ?_ ?_

theorem keep_pokePlaced  (h_qe : UpQe P) (h_cx : UpCx P) (h_pm : UpPm P) (h_ae : UpAe P) (h_tm : UpTm P) (h_pf : UpPf P) (h_cf : UpCf P) (h_out : UpOut P) (hR : UpR P) (hW : UpW P) (h : Keep P s) : Keep P (pokePlaced s) := by
  unfold pokePlaced
  repeat' first
    | with_reducible assumption
    | with_reducible refine keep_copyMove h_qe h_cx h_pm h_ae h_tm h_pf h_cf h_out hR hW ?_
    | with_reducible refine keep_foldl (fun _ _ _ => ?_) ?_

theorem keep_placeMove {a2 : Nat} {a3 : Reads} {a4 : Move} {a5 : List Nat} (h_qe : UpQe P) (h_cx : UpCx P) (h_pm : UpPm P) (h_ae : UpAe P) (h_tm : UpTm P) (h_pf : UpPf P) (h_cf : UpCf P) (h_out : UpOut P) (hR : UpR P) (hW : UpW P) (h : Keep P s) : Keep P (placeMove s a2 a3 a4 a5) := by
  unfold placeMove
  repeat' first
    | with_reducible assumption
    | with_reducible refine keep_copyMove h_qe h_cx h_pm h_ae h_tm h_pf h_cf h_out hR hW ?_
    | with_reducible refine keep_stageReads h_tm h_out ?_
    | with_reducible refine keep_noSlot h_qe h_cx h_pm h_ae h_tm h_pf h_out hR ?_
    | with_reducible refine keepP_eq (keep_allocMove h_qe h_pm h_out hR ?_) (by assumption)
    | with_reducible refine keep_updMove h_tm ?_
    | with_reducible refine keep_takeReads h_qe h_tm h_cf h_out hR ?_
    | (extract_lets -underBinder -merge -useContext +onlyGivenNames x; have := (fun (_ : _ → _) => trivial) x; unfold x; clear this x; beta_reduce)
    | split

theorem keep_lockMove {a2 : Nat} {a3 : Reads} {a4 : List Nat} {a5 : Nat} (h_qe : UpQe P) (h_cx : UpCx P) (h_pm : UpPm P) (h_ae : UpAe P) (h_tm : UpTm P) (h_pf : UpPf P) (h_cf : UpCf P) (h_out : UpOut P) (hR : UpR P) (hW : UpW P) (h : Keep P s) : Keep P (lockMove s a2 a3 a4 a5) := by
  unfold lockMove
  repeat' first
    | with_reducible assumption
    | with_reducible refine keep_placeMove h_qe h_cx h_pm h_ae h_tm h_pf h_cf h_out hR hW ?_
    | with_reducible refine keep_askRelease h_pm ?_
    | with_reducible refine keep_updMove h_tm ?_
    | with_reducible refine keepOptP_eq (keep_walkStart h_pm ?_) (by assumption)
    | with_reducible refine keep_waitWalker h_pm ?_
    | (extract_lets -underBinder -merge -useContext +onlyGivenNames x; with_reducible refine keep_cut (s := x) ?_ ?_; (on_goal 1 => unfold x); (on_goal 2 => (clear_value x; intro _)))
    | split

theorem keep_startSpill {a2 : Nat} {a3 : Reads} {a4 : Move} {a5 : List Nat} {a6 : Nat} (h_qe : UpQe P) (h_cx : UpCx P) (h_pm : UpPm P) (h_ae : UpAe P) (h_tm : UpTm P) (h_pf : UpPf P) (h_cf : UpCf P) (h_out : UpOut P) (hR : UpR P) (hW : UpW P) (h : Keep P s) : Keep P (startSpill s a2 a3 a4 a5 a6) := by
  unfold startSpill
  repeat' first
    | with_reducible assumption
    | with_reducible refine keep_lockMove h_qe h_cx h_pm h_ae h_tm h_pf h_cf h_out hR hW ?_
    | with_reducible refine keepP_eq (keep_spillRoom h_qe h_cx h_pm h_tm h_pf h_cf h_out hR hW ?_) (by assumption)
    | with_reducible refine keepP_eq (keep_dropByMover h_qe h_cx h_pm h_tm h_pf h_cf h_out hR hW ?_) (by assumption)
    | with_reducible refine keep_stopSpill h_qe h_pm h_tm h_pf h_out hR ?_
    | with_reducible refine keep_checkMove h_qe h_cx h_pm h_ae h_tm h_pf h_out hR ?_
    | with_reducible refine keep_stopMove h_qe h_pm h_tm h_pf h_out hR ?_
    | with_reducible refine keep_endMove h_qe h_pm h_tm h_pf h_out hR ?_
    | with_reducible refine keep_updMove h_tm ?_
    | (extract_lets -underBinder -merge -useContext +onlyGivenNames x; with_reducible refine keep_cut (s := x) ?_ ?_; (on_goal 1 => unfold x); (on_goal 2 => (clear_value x; intro _)))
    | split

theorem keep_startMove {a2 : Nat} {a3 : Reads} (h_qe : UpQe P) (h_cx : UpCx P) (h_pm : UpPm P) (h_ae : UpAe P) (h_tm : UpTm P) (h_pf : UpPf P) (h_cf : UpCf P) (h_out : UpOut P) (hR : UpR P) (hW : UpW P) (h : Keep P s) : Keep P (startMove s a2 a3) := by
  unfold startMove
  repeat' first
    | with_reducible assumption
    | with_reducible refine keep_startSpill h_qe h_cx h_pm h_ae h_tm h_pf h_cf h_out hR hW ?_
    | with_reducible refine keep_lockMove h_qe h_cx h_pm h_ae h_tm h_pf h_cf h_out hR hW ?_
    | with_reducible refine keep_checkMove h_qe h_cx h_pm h_ae h_tm h_pf h_out hR ?_
    | with_reducible refine keep_stopMove h_qe h_pm h_tm h_pf h_out hR ?_
    | with_reducible refine keep_endMove h_qe h_pm h_tm h_pf h_out hR ?_
    | with_reducible refine keep_updMove h_tm ?_
    | with_reducible refine keep_entryFailed h_qe h_cx h_pm h_pf h_cf h_out hR ?_
    | with_reducible refine keepExS_eq (keep_readCtx h_qe h_cx h_pm h_pf h_cf h_out hR ?_) (by assumption)
    | with_reducible refine keepExS_err (keep_readCtx h_qe h_cx h_pm h_pf h_cf h_out hR ?_) (by assumption)
    | (extract_lets -underBinder -merge -useContext +onlyGivenNames x; with_reducible refine keep_cut (s := x) ?_ ?_; (on_goal 1 => unfold x); (on_goal 2 => (clear_value x; intro _)))
    | split

theorem keep_stampGen {a1 : Nat} {a3 : Nat} (h_tm : UpTm P) (hW : UpW P) (h : Keep P s) : Keep P (stampGen a1 s a3) := by
  unfold stampGen
  repeat' first
    | with_reducible assumption
    | with_reducible refine keep_slotWrite h_tm hW ?_
    | (extract_lets -underBinder -merge -useContext +onlyGivenNames x; clear_value x)
    | split

theorem keep_countMoved {a2 : Nat} (h_cx : UpCx P) (h : Keep P s) : Keep P (countMoved s a2) := by
  unfold countMoved
  repeat' first
    | with_reducible assumption
    | fail_if_no_progress with_reducible refine keep_up_cx h_cx (keep_eta ?_)

theorem keep_countMove {a2 : Move} (h_cx : UpCx P) (hR : UpR P) (h : Keep P s) : Keep P (countMove s a2) := by
  unfold countMove
  repeat' first
    | with_reducible assumption
    | with_reducible refine keep_countMoved h_cx ?_
    | with_reducible refine keep_bumpR hR ?_
    | split

theorem keep_liftedTail {a2 : Move} (h_cx : UpCx P) (h : Keep P s) : Keep P (liftedTail s a2) := by
  unfold liftedTail
  repeat' first
    | with_reducible assumption
    | with_reducible refine keep_keepPage h_cx ?_
    | split

theorem keep_commitMove {a2 : Nat} (h_qe : UpQe P) (h_cx : UpCx P) (h_pm : UpPm P) (h_ae : UpAe P) (h_tm : UpTm P) (h_pf : UpPf P) (h_cf : UpCf P) (h_out : UpOut P) (hR : UpR P) (hW : UpW P) (h : Keep P s) : Keep P (commitMove s a2) := by
  unfold commitMove
  repeat' first
    | with_reducible assumption
    | with_reducible refine keep_liftedTail h_cx ?_
    | with_reducible refine keep_countMove h_cx hR ?_
    | with_reducible refine keep_stampGen h_tm hW ?_
    | with_reducible refine keepOpt_eq (keep_failTarget h_qe h_cx h_pm h_ae h_tm h_pf h_cf h_out hR ?_) (by assumption)
    | with_reducible refine keepEdit_eq (keep_editPage h_qe h_pm h_tm h_out hR hW ?_) (by assumption)
    | with_reducible refine keep_faultMove h_qe h_cx h_pm h_ae h_tm h_pf h_out hR ?_
    | with_reducible refine keep_checkMove h_qe h_cx h_pm h_ae h_tm h_pf h_out hR ?_
    | with_reducible refine keep_endMove h_qe h_pm h_tm h_pf h_out hR ?_
    | with_reducible refine keep_waitEdit h_qe h_pm h_out hR ?_
    | with_reducible refine keep_entryFailed h_qe h_cx h_pm h_pf h_cf h_out hR ?_
    | with_reducible refine keepExS_eq (keep_readCtx h_qe h_cx h_pm h_pf h_cf h_out hR ?_) (by assumption)
    | with_reducible refine keepExS_err (keep_readCtx h_qe h_cx h_pm h_pf h_cf h_out hR ?_) (by assumption)
    | with_reducible refine keep_foldl (fun _ _ _ => ?_) ?_
    | split

theorem keep_prefetchAhead {a2 : Nat} {a3 : Nat} {a4 : List Nat} (h_qe : UpQe P) (h_pm : UpPm P) (h_tm : UpTm P) (h_pf : UpPf P) (h_out : UpOut P) (hR : UpR P) (h : Keep P s) : Keep P (prefetchAhead s a2 a3 a4) := by
  unfold prefetchAhead
  repeat' first
    | with_reducible assumption
    | with_reducible refine keep_queueMove h_qe h_pm h_tm h_pf h_out hR ?_
    | with_reducible refine keep_foldl (fun _ _ _ => ?_) ?_
    | (extract_lets -underBinder -merge -useContext +onlyGivenNames x; have := (fun (_ : _ → _) => trivial) x; unfold x; clear this x; beta_reduce)
    | (extract_lets -underBinder -merge -useContext +onlyGivenNames x; clear_value x)
    | split

/-! ### Machine/Tiers.lean -/


theorem keep_execMoveStart {a1 : Nat} {a2 : Reads} (h_qe : UpQe P) (h_cx : UpCx P) (h_pm : UpPm P) (h_ae : UpAe P) (h_tm : UpTm P) (h_pf : UpPf P) (h_cf : UpCf P) (h_out : UpOut P) (hR : UpR P) (hW : UpW P) (h : Keep P s) : KeepOut P (execMoveStart a1 a2 s) := by
  unfold execMoveStart
  repeat' first
    | with_reducible assumption
    | with_reducible refine keepOut_next ?_
    | with_reducible refine keep_startMove h_qe h_cx h_pm h_ae h_tm h_pf h_cf h_out hR hW ?_
    | with_reducible refine keep_pokeRetires h_qe h_cx h_pm h_tm h_pf h_cf h_out hR hW ?_
    | with_reducible refine keep_live ?_ ?_
    | split
    | with_reducible intro _

theorem keep_execMoveCommit {a1 : MoveRead} (h_qe : UpQe P) (h_cx : UpCx P) (h_pm : UpPm P) (h_ae : UpAe P) (h_tm : UpTm P) (h_pf : UpPf P) (h_cf : UpCf P) (h_out : UpOut P) (hR : UpR P) (hW : UpW P) (h : Keep P s) : KeepOut P (execMoveCommit a1 s) := by
  unfold execMoveCommit
  repeat' first
    | with_reducible assumption
    | with_reducible refine keepOut_next ?_
    | with_reducible refine keep_commitMove h_qe h_cx h_pm h_ae h_tm h_pf h_cf h_out hR hW ?_
    | with_reducible refine keep_pokeRetires h_qe h_cx h_pm h_tm h_pf h_cf h_out hR hW ?_
    | with_reducible refine keep_takeReads h_qe h_tm h_cf h_out hR ?_
    | with_reducible refine keep_live ?_ ?_
    | split
    | with_reducible intro _

theorem keep_execMoveAbandon {a1 : Nat} {a2 : Bool} (h_qe : UpQe P) (h_cx : UpCx P) (h_pm : UpPm P) (h_ae : UpAe P) (h_tm : UpTm P) (h_pf : UpPf P) (h_cf : UpCf P) (h_out : UpOut P) (hR : UpR P) (hW : UpW P) (h : Keep P s) : KeepOut P (execMoveAbandon a1 a2 s) := by
  unfold execMoveAbandon
  repeat' first
    | with_reducible assumption
    | with_reducible refine keepOut_next ?_
    | with_reducible refine keep_pokeRetires h_qe h_cx h_pm h_tm h_pf h_cf h_out hR hW ?_
    | with_reducible refine keep_faultMove h_qe h_cx h_pm h_ae h_tm h_pf h_out hR ?_
    | with_reducible refine keep_stopMove h_qe h_pm h_tm h_pf h_out hR ?_
    | with_reducible refine keep_endMove h_qe h_pm h_tm h_pf h_out hR ?_
    | with_reducible refine keep_live ?_ ?_
    | split
    | with_reducible intro _

theorem keep_queueSpills {a2 : List (Nat × PageAt)} {a3 : MoveWhy} {a4 : Nat → Bool} (h_qe : UpQe P) (h_pm : UpPm P) (h_tm : UpTm P) (h_pf : UpPf P) (h_out : UpOut P) (hR : UpR P) (h : Keep P s) : Keep P (queueSpills s a2 a3 a4) := by
  refine keepP_snd (keepP_foldl ?_ h)
  rintro ⟨n, t⟩ ⟨c, p⟩ ht
  dsimp only
  split
  · exact keepP_mk (keep_queueMove h_qe h_pm h_tm h_pf h_out hR ht)
  · exact ht

theorem keep_execQuotaSpill {a1 : Nat} (h_qe : UpQe P) (h_pm : UpPm P) (h_tm : UpTm P) (h_pf : UpPf P) (h_out : UpOut P) (hR : UpR P) (h : Keep P s) : KeepOut P (execQuotaSpill a1 s) := by
  unfold execQuotaSpill
  repeat' first
    | with_reducible assumption
    | with_reducible refine keepOut_next ?_
    | with_reducible refine keep_queueSpills h_qe h_pm h_tm h_pf h_out hR ?_
    | with_reducible refine keep_live ?_ ?_
    | with_reducible intro _

theorem keep_execSpillMarkSpill {a1 : Nat} (h_qe : UpQe P) (h_pm : UpPm P) (h_tm : UpTm P) (h_pf : UpPf P) (h_out : UpOut P) (hR : UpR P) (h : Keep P s) : KeepOut P (execSpillMarkSpill a1 s) := by
  unfold execSpillMarkSpill
  repeat' first
    | with_reducible assumption
    | with_reducible refine keepOut_next ?_
    | with_reducible refine keep_queueSpills h_qe h_pm h_tm h_pf h_out hR ?_
    | with_reducible refine keep_live ?_ ?_
    | with_reducible intro _

theorem keep_execFreeMarkSpill {a1 : Bool} (h_qe : UpQe P) (h_pm : UpPm P) (h_tm : UpTm P) (h_pf : UpPf P) (h_out : UpOut P) (hR : UpR P) (h : Keep P s) : KeepOut P (execFreeMarkSpill a1 s) := by
  unfold execFreeMarkSpill
  repeat' first
    | with_reducible assumption
    | with_reducible refine keepOut_next ?_
    | with_reducible refine keep_queueSpills h_qe h_pm h_tm h_pf h_out hR ?_
    | with_reducible refine keep_live ?_ ?_
    | split
    | with_reducible intro _

theorem keep_execSpill {a1 : Nat} {a2 : Nat} {a3 : Nat} {a4 : HeadRead} (h_qe : UpQe P) (h_cx : UpCx P) (h_pm : UpPm P) (h_ae : UpAe P) (h_tm : UpTm P) (h_pf : UpPf P) (h_cf : UpCf P) (h_out : UpOut P) (hR : UpR P) (hW : UpW P) (h : Keep P s) : KeepOut P (execSpill a1 a2 a3 a4 s) := by
  unfold execSpill
  repeat' first
    | with_reducible assumption
    | with_reducible refine keepOut_next ?_
    | with_reducible refine keepP_eq (keep_spillRoom h_qe h_cx h_pm h_tm h_pf h_cf h_out hR hW ?_) (by assumption)
    | with_reducible refine keepP_eq (keep_dropByMover h_qe h_cx h_pm h_tm h_pf h_cf h_out hR hW ?_) (by assumption)
    | with_reducible refine keep_queueMove h_qe h_pm h_tm h_pf h_out hR ?_
    | with_reducible refine keep_stopSpill h_qe h_pm h_tm h_pf h_out hR ?_
    | with_reducible refine keep_checkMove h_qe h_cx h_pm h_ae h_tm h_pf h_out hR ?_
    | with_reducible refine keep_stopMove h_qe h_pm h_tm h_pf h_out hR ?_
    | with_reducible refine keep_endMove h_qe h_pm h_tm h_pf h_out hR ?_
    | with_reducible refine keep_updMove h_tm ?_
    | with_reducible refine keep_takeReads h_qe h_tm h_cf h_out hR ?_
    | with_reducible refine keep_live ?_ ?_
    | (extract_lets -underBinder -merge -useContext +onlyGivenNames x; with_reducible refine keep_cut (s := x) ?_ ?_; (on_goal 1 => unfold x); (on_goal 2 => (clear_value x; intro _)))
    | (extract_lets -underBinder -merge -useContext +onlyGivenNames x; clear_value x)
    | split
    | with_reducible intro _

theorem keep_execCompact {a1 : Nat} (h_qe : UpQe P) (h_pm : UpPm P) (h_tm : UpTm P) (h_pf : UpPf P) (h_out : UpOut P) (hR : UpR P) (h : Keep P s) : KeepOut P (execCompact a1 s) := by
  unfold execCompact
  repeat' first
    | with_reducible assumption
    | with_reducible refine keepOut_next ?_
    | with_reducible refine keep_queueMove h_qe h_pm h_tm h_pf h_out hR ?_
    | with_reducible refine keep_live ?_ ?_
    | fail_if_no_progress with_reducible refine keep_up_tm h_tm (keep_eta ?_)
    | with_reducible refine keep_foldl (fun _ _ _ => ?_) ?_
    | (extract_lets -underBinder -merge -useContext +onlyGivenNames x; clear_value x)
    | split
    | with_reducible intro _

theorem keep_loseBuf {a2 : Nat} {a3 : ExtBuf} (h_qe : UpQe P) (h_cx : UpCx P) (h_pm : UpPm P) (h_ae : UpAe P) (h_tm : UpTm P) (h_pf : UpPf P) (h_cf : UpCf P) (h_out : UpOut P) (hR : UpR P) (hW : UpW P) (h : Keep P s) : Keep P (loseBuf s a2 a3) := by
  unfold loseBuf
  repeat' first
    | with_reducible assumption
    | with_reducible refine keep_pokePlaced h_qe h_cx h_pm h_ae h_tm h_pf h_cf h_out hR hW ?_
    | with_reducible refine keep_faultMove h_qe h_cx h_pm h_ae h_tm h_pf h_out hR ?_
    | fail_if_no_progress with_reducible refine keep_up_tm h_tm (keep_eta ?_)
    | with_reducible refine keep_foldl (fun _ _ _ => ?_) ?_

theorem keep_flushBuf {a2 : Nat} (h_qe : UpQe P) (h_cx : UpCx P) (h_pm : UpPm P) (h_ae : UpAe P) (h_tm : UpTm P) (h_pf : UpPf P) (h_cf : UpCf P) (h_out : UpOut P) (hR : UpR P) (hW : UpW P) (h : Keep P s) : Keep P (flushBuf s a2) := by
  unfold flushBuf
  repeat' first
    | with_reducible assumption
    | with_reducible refine keep_loseBuf h_qe h_cx h_pm h_ae h_tm h_pf h_cf h_out hR hW ?_
    | with_reducible refine keep_giveDrive h_tm h_out ?_
    | fail_if_no_progress with_reducible refine keep_up_tm h_tm (keep_eta ?_)
    | split

theorem keep_execExtentFlush {a1 : Nat} (h_qe : UpQe P) (h_cx : UpCx P) (h_pm : UpPm P) (h_ae : UpAe P) (h_tm : UpTm P) (h_pf : UpPf P) (h_cf : UpCf P) (h_out : UpOut P) (hR : UpR P) (hW : UpW P) (h : Keep P s) : KeepOut P (execExtentFlush a1 s) := by
  unfold execExtentFlush
  repeat' first
    | with_reducible assumption
    | with_reducible refine keepOut_next ?_
    | with_reducible refine keep_flushBuf h_qe h_cx h_pm h_ae h_tm h_pf h_cf h_out hR hW ?_
    | with_reducible refine keep_live ?_ ?_
    | split
    | with_reducible intro _

theorem keep_storeExtent {a2 : ExtBuf} (h_tm : UpTm P) (h_out : UpOut P) (h : Keep P s) : Keep P (storeExtent s a2) := by
  unfold storeExtent
  repeat' first
    | with_reducible assumption
    | with_reducible refine keep_emit h_out ?_
    | fail_if_no_progress with_reducible refine keep_up_tm h_tm (keep_eta ?_)
    | (extract_lets -underBinder -merge -useContext +onlyGivenNames x; with_reducible refine keep_cut (s := x) ?_ ?_; (on_goal 1 => unfold x); (on_goal 2 => (clear_value x; intro _)))
    | (extract_lets -underBinder -merge -useContext +onlyGivenNames x; have := (fun (_ : _ → _) => trivial) x; unfold x; clear this x; beta_reduce)
    | (extract_lets -underBinder -merge -useContext +onlyGivenNames x; clear_value x)
    | split

theorem keep_execDriveCompletion {a1 : Nat} {a2 : Bool} (h_qe : UpQe P) (h_cx : UpCx P) (h_pm : UpPm P) (h_ae : UpAe P) (h_tm : UpTm P) (h_pf : UpPf P) (h_cf : UpCf P) (h_out : UpOut P) (hR : UpR P) (hW : UpW P) (h : Keep P s) : KeepOut P (execDriveCompletion a1 a2 s) := by
  unfold execDriveCompletion
  repeat' first
    | with_reducible assumption
    | with_reducible refine keepOut_next ?_
    | with_reducible refine keep_storeExtent h_tm h_out ?_
    | with_reducible refine keep_loseBuf h_qe h_cx h_pm h_ae h_tm h_pf h_cf h_out hR hW ?_
    | with_reducible refine keep_pokePlaced h_qe h_cx h_pm h_ae h_tm h_pf h_cf h_out hR hW ?_
    | with_reducible refine keep_leaveDrive h_tm h_out ?_
    | with_reducible refine keep_pokeRetires h_qe h_cx h_pm h_tm h_pf h_cf h_out hR hW ?_
    | with_reducible refine keep_updMove h_tm ?_
    | with_reducible refine keep_raise1 h_qe h_out hR ?_
    | with_reducible refine keep_live ?_ ?_
    | fail_if_no_progress with_reducible refine keep_up_tm h_tm (keep_eta ?_)
    | with_reducible refine keep_foldl (fun _ _ _ => ?_) ?_
    | (extract_lets -underBinder -merge -useContext +onlyGivenNames x; with_reducible refine keep_cut (s := x) ?_ ?_; (on_goal 1 => unfold x); (on_goal 2 => (clear_value x; intro _)))
    | (extract_lets -underBinder -merge -useContext +onlyGivenNames x; clear_value x)
    | split
    | with_reducible intro _

theorem keep_setTierUp {a2 : Nat} {a3 : Nat} {a4 : Bool} (hR : UpR P) (h : Keep P s) : Keep P (setTierUp s a2 a3 a4) := by
  unfold setTierUp
  repeat' first
    | with_reducible assumption
    | with_reducible refine keep_setB hR ?_

theorem keep_tierDown {a2 : Nat} (h_qe : UpQe P) (h_tm : UpTm P) (h_out : UpOut P) (hR : UpR P) (h : Keep P s) : Keep P (tierDown s a2) := by
  unfold tierDown
  repeat' first
    | with_reducible assumption
    | with_reducible refine keep_setTierUp hR ?_
    | with_reducible refine keep_raise1 h_qe h_out hR ?_
    | fail_if_no_progress with_reducible refine keep_up_tm h_tm (keep_eta ?_)
    | (extract_lets -underBinder -merge -useContext +onlyGivenNames x; with_reducible refine keep_cut (s := x) ?_ ?_; (on_goal 1 => unfold x); (on_goal 2 => (clear_value x; intro _)))
    | (extract_lets -underBinder -merge -useContext +onlyGivenNames x; clear_value x)
    | split

theorem keep_execTierLinkDown {a1 : Nat} {a2 : Nat} (h_qe : UpQe P) (h_tm : UpTm P) (h_out : UpOut P) (hR : UpR P) (h : Keep P s) : KeepOut P (execTierLinkDown a1 a2 s) := by
  unfold execTierLinkDown
  repeat' first
    | with_reducible assumption
    | with_reducible refine keepOut_next ?_
    | with_reducible refine keep_tierDown h_qe h_tm h_out hR ?_
    | with_reducible refine keep_live ?_ ?_
    | split
    | with_reducible intro _

theorem keep_execTierLinkTimeout {a1 : Nat} {a2 : Nat} (h_qe : UpQe P) (h_cx : UpCx P) (h_pm : UpPm P) (h_ae : UpAe P) (h_tm : UpTm P) (h_pf : UpPf P) (h_cf : UpCf P) (h_out : UpOut P) (hR : UpR P) (hW : UpW P) (h : Keep P s) : KeepOut P (execTierLinkTimeout a1 a2 s) := by
  unfold execTierLinkTimeout
  repeat' first
    | with_reducible assumption
    | with_reducible refine keepOut_next ?_
    | with_reducible refine keep_pokePlaced h_qe h_cx h_pm h_ae h_tm h_pf h_cf h_out hR hW ?_
    | with_reducible refine keep_pokeRetires h_qe h_cx h_pm h_tm h_pf h_cf h_out hR hW ?_
    | with_reducible refine keep_live ?_ ?_
    | fail_if_no_progress with_reducible refine keep_up_tm h_tm (keep_eta ?_)
    | split
    | with_reducible intro _

theorem keep_execTierLinkRetrained {a1 : Nat} {a2 : Nat} (h_qe : UpQe P) (h_cx : UpCx P) (h_pm : UpPm P) (h_ae : UpAe P) (h_tm : UpTm P) (h_pf : UpPf P) (h_cf : UpCf P) (h_out : UpOut P) (hR : UpR P) (hW : UpW P) (h : Keep P s) : KeepOut P (execTierLinkRetrained a1 a2 s) := by
  unfold execTierLinkRetrained
  repeat' first
    | with_reducible assumption
    | with_reducible refine keepOut_next ?_
    | with_reducible refine keep_setTierUp hR ?_
    | with_reducible refine keep_pokePlaced h_qe h_cx h_pm h_ae h_tm h_pf h_cf h_out hR hW ?_
    | with_reducible refine keep_live ?_ ?_
    | fail_if_no_progress with_reducible refine keep_up_tm h_tm (keep_eta ?_)
    | split
    | with_reducible intro _

theorem keep_execInboundRequest {a1 : Nat} {a2 : Nat} (h_qe : UpQe P) (h_out : UpOut P) (hR : UpR P) (h : Keep P s) : KeepOut P (execInboundRequest a1 a2 s) := by
  unfold execInboundRequest
  repeat' first
    | with_reducible assumption
    | with_reducible refine keepOut_next ?_
    | with_reducible refine keep_raise1 h_qe h_out hR ?_
    | with_reducible refine keep_live ?_ ?_
    | with_reducible refine keep_emit h_out ?_
    | split
    | with_reducible intro _

/-! ### Machine/Contexts.lean -/


theorem keep_startCx {a2 : Nat} {a3 : Cmd} {a4 : CmdRef → State → State} (h_qe : UpQe P) (h_cx : UpCx P) (h_tm : UpTm P) (h_cf : UpCf P) (h_out : UpOut P) (hR : UpR P) (hZ : UpZ P) (h : Keep P s) (ha4 : ∀ x0 x1, Keep P x1 → Keep P (a4 x0 x1)) : Keep P (startCx s a2 a3 a4) := by
  unfold startCx
  repeat' first
    | with_reducible assumption
    | with_reducible refine keep_startCmd h_qe h_tm h_cf h_out hR ?_ ?_
    | with_reducible refine keep_startZeroing h_cx hZ ?_
    | with_reducible refine keep_live ?_ ?_
    | split
    | with_reducible intro _

theorem keep_execCxReady  (h_cx : UpCx P) (hR : UpR P) (h : Keep P s) : KeepOut P (execCxReady s) := by
  unfold execCxReady
  repeat' first
    | with_reducible assumption
    | with_reducible refine keepOut_next ?_
    | with_reducible refine keep_live ?_ ?_
    | with_reducible refine keep_setB hR ?_
    | fail_if_no_progress with_reducible refine keep_up_cx h_cx (keep_eta ?_)
    | split
    | with_reducible intro _

theorem keep_openCtx {a2 : Nat} {a3 : Bytes} (h_qe : UpQe P) (h_cx : UpCx P) (h_pm : UpPm P) (h_pf : UpPf P) (h_cf : UpCf P) (h_out : UpOut P) (hR : UpR P) (hW : UpW P) (hZ : UpZ P) (h : Keep P s) : KeepP P (openCtx s a2 a3) := by
  unfold openCtx
  repeat' first
    | with_reducible assumption
    | with_reducible refine keep_writeEntry hW ?_
    | with_reducible refine keep_writeCtx h_pm hW ?_
    | with_reducible refine keepOptP_eq (keep_takeRun h_pm ?_) (by assumption)
    | with_reducible refine keep_raiseQuota h_qe h_out hR ?_
    | with_reducible refine keep_logFailure h_qe h_pf h_cf h_out hR ?_
    | with_reducible refine keep_zeroRange hZ ?_
    | with_reducible refine keep_raise1 h_qe h_out hR ?_
    | with_reducible refine keep_setF hR ?_
    | fail_if_no_progress with_reducible refine keep_up_cx h_cx (keep_up_cf h_cf (keep_eta ?_))
    | (extract_lets -underBinder -merge -useContext +onlyGivenNames x; with_reducible refine keep_cutA (P := P) (s := x) ?_ ?_; (on_goal 1 => unfold x); (on_goal 2 => (clear_value x; intro _)))
    | (extract_lets -underBinder -merge -useContext +onlyGivenNames x; clear_value x)
    | split
    | with_reducible refine keepP_mk ?_

theorem keep_execCxOpen {a1 : Cmd} (h_qe : UpQe P) (h_cx : UpCx P) (h_pm : UpPm P) (h_tm : UpTm P) (h_pf : UpPf P) (h_cf : UpCf P) (h_out : UpOut P) (hR : UpR P) (hW : UpW P) (hZ : UpZ P) (h : Keep P s) : KeepOut P (execCxOpen a1 s) := by
  unfold execCxOpen
  repeat' first
    | with_reducible assumption
    | with_reducible refine keepOut_next ?_
    | with_reducible refine keepP_snd (keep_openCtx h_qe h_cx h_pm h_pf h_cf h_out hR hW hZ ?_)
    | with_reducible refine keep_startCx h_qe h_cx h_tm h_cf h_out hR hZ ?_ ?_
    | with_reducible refine keepExS_eq (keep_readCtx h_qe h_cx h_pm h_pf h_cf h_out hR ?_) (by assumption)
    | with_reducible refine keepExS_err (keep_readCtx h_qe h_cx h_pm h_pf h_cf h_out hR ?_) (by assumption)
    | with_reducible refine keep_finish h_qe hR ?_
    | (extract_lets -underBinder -merge -useContext +onlyGivenNames x; clear_value x)
    | split
    | with_reducible intro _

theorem keep_endCtxOp {a2 : Nat} {a3 : Nat} (h_qe : UpQe P) (h_cx : UpCx P) (h_pm : UpPm P) (h_tm : UpTm P) (h_pf : UpPf P) (h_out : UpOut P) (hR : UpR P) (h : Keep P s) : Keep P (endCtxOp s a2 a3) := by
  unfold endCtxOp
  repeat' first
    | with_reducible assumption
    | with_reducible refine keep_stopCtxMoves h_qe h_pm h_tm h_pf h_out hR ?_
    | with_reducible refine keep_setCtxOp h_cx ?_
    | with_reducible refine keep_finishAll h_qe hR ?_
    | split

theorem keep_stopOp {a2 : Nat} {a3 : Nat} (h_cx : UpCx P) (h : Keep P s) : Keep P (stopOp s a2 a3) := by
  unfold stopOp
  repeat' first
    | with_reducible assumption
    | fail_if_no_progress with_reducible refine keep_up_cx h_cx (keep_eta ?_)

theorem keep_joinOp {a2 : Nat} {a3 : CmdRef} (h_cx : UpCx P) (h : Keep P s) : Keep P (joinOp s a2 a3) := by
  unfold joinOp
  repeat' first
    | with_reducible assumption
    | fail_if_no_progress with_reducible refine keep_up_cx h_cx (keep_eta ?_)

theorem keep_queueOp {a2 : Nat} {a3 : PageAt → Nat} {a4 : List PageAt} (h_qe : UpQe P) (h_cx : UpCx P) (h_pm : UpPm P) (h_tm : UpTm P) (h_pf : UpPf P) (h_out : UpOut P) (hR : UpR P) (h : Keep P s) : Keep P (queueOp s a2 a3 a4) := by
  unfold queueOp
  repeat' first
    | with_reducible assumption
    | with_reducible refine keep_stopOp h_cx ?_
    | with_reducible refine keep_queueMove h_qe h_pm h_tm h_pf h_out hR ?_
    | with_reducible refine keep_foldl (fun _ _ _ => ?_) ?_
    | split

theorem keep_queueParks {a2 : Nat} {a3 : Bytes} {a4 : List PageAt} (h_qe : UpQe P) (h_cx : UpCx P) (h_pm : UpPm P) (h_tm : UpTm P) (h_pf : UpPf P) (h_out : UpOut P) (hR : UpR P) (h : Keep P s) : Keep P (queueParks s a2 a3 a4) := by
  unfold queueParks
  repeat' first
    | with_reducible assumption
    | with_reducible refine keep_queueOp h_qe h_cx h_pm h_tm h_pf h_out hR ?_

theorem keep_queueReopens {a2 : Nat} {a3 : List PageAt} (h_qe : UpQe P) (h_cx : UpCx P) (h_pm : UpPm P) (h_tm : UpTm P) (h_pf : UpPf P) (h_out : UpOut P) (hR : UpR P) (h : Keep P s) : Keep P (queueReopens s a2 a3) := by
  unfold queueReopens
  repeat' first
    | with_reducible assumption
    | with_reducible refine keep_queueOp h_qe h_cx h_pm h_tm h_pf h_out hR ?_

theorem keep_execCxPark {a1 : Cmd} (h_qe : UpQe P) (h_cx : UpCx P) (h_pm : UpPm P) (h_tm : UpTm P) (h_pf : UpPf P) (h_cf : UpCf P) (h_out : UpOut P) (hR : UpR P) (hW : UpW P) (hZ : UpZ P) (h : Keep P s) : KeepOut P (execCxPark a1 s) := by
  unfold execCxPark
  repeat' first
    | with_reducible assumption
    | with_reducible refine keepOut_next ?_
    | with_reducible refine keep_queueParks h_qe h_cx h_pm h_tm h_pf h_out hR ?_
    | with_reducible refine keep_joinOp h_cx ?_
    | with_reducible refine keep_endCtxOp h_qe h_cx h_pm h_tm h_pf h_out hR ?_
    | with_reducible refine keep_startCx h_qe h_cx h_tm h_cf h_out hR hZ ?_ ?_
    | with_reducible refine keep_setCtxOp h_cx ?_
    | with_reducible refine keep_setCtxState h_cx h_pm hW ?_
    | with_reducible refine keepExS_eq (keep_readCtx h_qe h_cx h_pm h_pf h_cf h_out hR ?_) (by assumption)
    | with_reducible refine keepExS_err (keep_readCtx h_qe h_cx h_pm h_pf h_cf h_out hR ?_) (by assumption)
    | with_reducible refine keep_finish h_qe hR ?_
    | (extract_lets -underBinder -merge -useContext +onlyGivenNames x; with_reducible refine keep_cut (s := x) ?_ ?_; (on_goal 1 => unfold x); (on_goal 2 => (clear_value x; intro _)))
    | (extract_lets -underBinder -merge -useContext +onlyGivenNames x; clear_value x)
    | split
    | with_reducible intro _

theorem keep_execCxReopen {a1 : Cmd} (h_qe : UpQe P) (h_cx : UpCx P) (h_pm : UpPm P) (h_tm : UpTm P) (h_pf : UpPf P) (h_cf : UpCf P) (h_out : UpOut P) (hR : UpR P) (hW : UpW P) (hZ : UpZ P) (h : Keep P s) : KeepOut P (execCxReopen a1 s) := by
  unfold execCxReopen
  repeat' first
    | with_reducible assumption
    | with_reducible refine keepOut_next ?_
    | with_reducible refine keep_queueReopens h_qe h_cx h_pm h_tm h_pf h_out hR ?_
    | with_reducible refine keep_joinOp h_cx ?_
    | with_reducible refine keep_endCtxOp h_qe h_cx h_pm h_tm h_pf h_out hR ?_
    | with_reducible refine keep_startCx h_qe h_cx h_tm h_cf h_out hR hZ ?_ ?_
    | with_reducible refine keep_setCtxOp h_cx ?_
    | with_reducible refine keep_setCtxState h_cx h_pm hW ?_
    | with_reducible refine keepExS_eq (keep_readCtx h_qe h_cx h_pm h_pf h_cf h_out hR ?_) (by assumption)
    | with_reducible refine keepExS_err (keep_readCtx h_qe h_cx h_pm h_pf h_cf h_out hR ?_) (by assumption)
    | with_reducible refine keep_raiseQuota h_qe h_out hR ?_
    | with_reducible refine keep_finish h_qe hR ?_
    | (extract_lets -underBinder -merge -useContext +onlyGivenNames x; with_reducible refine keep_cut (s := x) ?_ ?_; (on_goal 1 => unfold x); (on_goal 2 => (clear_value x; intro _)))
    | (extract_lets -underBinder -merge -useContext +onlyGivenNames x; clear_value x)
    | split
    | with_reducible intro _

theorem keep_tryEndOp {a2 : Nat} {a3 : CtxOpKind} {a4 : Nat} {a5 : Nat} {a6 : List PageAt} {a7 : State → State} (h_qe : UpQe P) (h_cx : UpCx P) (h_pm : UpPm P) (h_tm : UpTm P) (h_pf : UpPf P) (h_out : UpOut P) (hR : UpR P) (hW : UpW P) (h : Keep P s) (ha7 : ∀ x0, Keep P x0 → Keep P (a7 x0)) : Keep P (tryEndOp s a2 a3 a4 a5 a6 a7) := by
  unfold tryEndOp
  repeat' first
    | with_reducible assumption
    | with_reducible apply ha7
    | with_reducible refine keep_endCtxOp h_qe h_cx h_pm h_tm h_pf h_out hR ?_
    | with_reducible refine keep_setCtxState h_cx h_pm hW ?_
    | split

theorem keep_failCtxOp {a2 : Nat} {a3 : CtxOpKind} (h_qe : UpQe P) (h_cx : UpCx P) (h_pm : UpPm P) (h_tm : UpTm P) (h_pf : UpPf P) (h_out : UpOut P) (hR : UpR P) (hW : UpW P) (h : Keep P s) : Keep P (failCtxOp s a2 a3) := by
  unfold failCtxOp
  repeat' first
    | with_reducible assumption
    | with_reducible refine keep_tryEndOp h_qe h_cx h_pm h_tm h_pf h_out hR hW ?_ ?_
    | with_reducible refine keep_stopOp h_cx ?_
    | with_reducible intro _
    | (show Keep P _; assumption)

theorem keep_execParkEnd {a1 : CtxRead} (h_qe : UpQe P) (h_cx : UpCx P) (h_pm : UpPm P) (h_tm : UpTm P) (h_pf : UpPf P) (h_cf : UpCf P) (h_out : UpOut P) (hR : UpR P) (hW : UpW P) (h : Keep P s) : KeepOut P (execParkEnd a1 s) := by
  unfold execParkEnd
  repeat' first
    | with_reducible assumption
    | with_reducible refine keepOut_next ?_
    | with_reducible refine keep_failCtxOp h_qe h_cx h_pm h_tm h_pf h_out hR hW ?_
    | with_reducible refine keep_tryEndOp h_qe h_cx h_pm h_tm h_pf h_out hR hW ?_ ?_
    | with_reducible refine keep_queueParks h_qe h_cx h_pm h_tm h_pf h_out hR ?_
    | with_reducible refine keepExS_eq (keep_readCtx h_qe h_cx h_pm h_pf h_cf h_out hR ?_) (by assumption)
    | with_reducible refine keepExS_err (keep_readCtx h_qe h_cx h_pm h_pf h_cf h_out hR ?_) (by assumption)
    | with_reducible refine keep_takeReads h_qe h_tm h_cf h_out hR ?_
    | with_reducible refine keep_live ?_ ?_
    | split
    | with_reducible intro _

theorem keep_execReopenEnd {a1 : CtxRead} (h_qe : UpQe P) (h_cx : UpCx P) (h_pm : UpPm P) (h_tm : UpTm P) (h_pf : UpPf P) (h_cf : UpCf P) (h_out : UpOut P) (hR : UpR P) (hW : UpW P) (h : Keep P s) : KeepOut P (execReopenEnd a1 s) := by
  unfold execReopenEnd
  repeat' first
    | with_reducible assumption
    | with_reducible refine keepOut_next ?_
    | with_reducible refine keep_failCtxOp h_qe h_cx h_pm h_tm h_pf h_out hR hW ?_
    | with_reducible refine keep_tryEndOp h_qe h_cx h_pm h_tm h_pf h_out hR hW ?_ ?_
    | with_reducible refine keep_queueReopens h_qe h_cx h_pm h_tm h_pf h_out hR ?_
    | with_reducible refine keepExS_eq (keep_readCtx h_qe h_cx h_pm h_pf h_cf h_out hR ?_) (by assumption)
    | with_reducible refine keepExS_err (keep_readCtx h_qe h_cx h_pm h_pf h_cf h_out hR ?_) (by assumption)
    | with_reducible refine keep_takeReads h_qe h_tm h_cf h_out hR ?_
    | with_reducible refine keep_live ?_ ?_
    | split
    | with_reducible intro _

theorem keep_closePoint {a2 : Nat} {a3 : Bool} {a4 : List CmdRef} (h_qe : UpQe P) (h_cx : UpCx P) (h_pm : UpPm P) (h_tm : UpTm P) (h_pf : UpPf P) (h_out : UpOut P) (hR : UpR P) (hW : UpW P) (h : Keep P s) : Keep P (closePoint s a2 a3 a4) := by
  unfold closePoint
  repeat' first
    | with_reducible assumption
    | with_reducible refine keep_endCtxOp h_qe h_cx h_pm h_tm h_pf h_out hR ?_
    | with_reducible refine keep_setCtxOp h_cx ?_
    | with_reducible refine keep_setCtxState h_cx h_pm hW ?_
    | fail_if_no_progress with_reducible refine keep_up_cx h_cx (keep_eta ?_)
    | (extract_lets -underBinder -merge -useContext +onlyGivenNames x; clear_value x)
    | split

theorem keep_execCxClose {a1 : Cmd} (h_qe : UpQe P) (h_cx : UpCx P) (h_pm : UpPm P) (h_tm : UpTm P) (h_pf : UpPf P) (h_cf : UpCf P) (h_out : UpOut P) (hR : UpR P) (hW : UpW P) (hZ : UpZ P) (h : Keep P s) : KeepOut P (execCxClose a1 s) := by
  unfold execCxClose
  repeat' first
    | with_reducible assumption
    | with_reducible refine keepOut_next ?_
    | with_reducible refine keep_closePoint h_qe h_cx h_pm h_tm h_pf h_out hR hW ?_
    | with_reducible refine keep_joinOp h_cx ?_
    | with_reducible refine keep_startCx h_qe h_cx h_tm h_cf h_out hR hZ ?_ ?_
    | with_reducible refine keepExS_eq (keep_readCtx h_qe h_cx h_pm h_pf h_cf h_out hR ?_) (by assumption)
    | with_reducible refine keepExS_err (keep_readCtx h_qe h_cx h_pm h_pf h_cf h_out hR ?_) (by assumption)
    | with_reducible refine keep_finish h_qe hR ?_
    | (extract_lets -underBinder -merge -useContext +onlyGivenNames x; clear_value x)
    | split
    | with_reducible intro _
    | with_reducible refine keepP_eq ?_ (by assumption)
    | with_reducible refine keepP_mk ?_

theorem keep_freePages {a2 : Nat} {a3 : Bool} (h_qe : UpQe P) (h_cx : UpCx P) (h_pm : UpPm P) (h_tm : UpTm P) (h_pf : UpPf P) (h_cf : UpCf P) (h_out : UpOut P) (hR : UpR P) (h : Keep P s) : Keep P (freePages s a2 a3) := by
  unfold freePages
  repeat' first
    | with_reducible assumption
    | with_reducible refine keep_entryFailed h_qe h_cx h_pm h_pf h_cf h_out hR ?_
    | with_reducible refine keep_freeOne h_qe h_pm h_tm h_out hR ?_
    | with_reducible refine keep_freeRun h_pm ?_
    | with_reducible refine keep_setUse h_pm ?_
    | with_reducible refine keep_freeSlot h_qe h_pm h_tm h_out hR ?_
    | with_reducible refine keep_subUse hR ?_
    | with_reducible refine keep_logFailure h_qe h_pf h_cf h_out hR ?_
    | fail_if_no_progress with_reducible refine keep_up_pm h_pm (keep_eta ?_)
    | with_reducible refine keep_foldl (fun _ _ _ => ?_) ?_
    | (extract_lets -underBinder -merge -useContext +onlyGivenNames x; with_reducible refine keep_cut (s := x) ?_ ?_; (on_goal 1 => unfold x); (on_goal 2 => (clear_value x; intro _)))
    | (extract_lets -underBinder -merge -useContext +onlyGivenNames x; clear_value x)
    | split

theorem keep_freeCtx {a2 : Nat} (h_qe : UpQe P) (h_cx : UpCx P) (h_pm : UpPm P) (h_tm : UpTm P) (h_pf : UpPf P) (h_cf : UpCf P) (h_out : UpOut P) (hR : UpR P) (hW : UpW P) (h : Keep P s) : Keep P (freeCtx s a2) := by
  unfold freeCtx
  repeat' first
    | with_reducible assumption
    | with_reducible refine keep_freePages h_qe h_cx h_pm h_tm h_pf h_cf h_out hR ?_
    | with_reducible refine keep_endCtxMoves h_qe h_pm h_tm h_pf h_out hR ?_
    | with_reducible refine keep_forgetBad h_pm ?_
    | with_reducible refine keepExS_eq (keep_readCtx h_qe h_cx h_pm h_pf h_cf h_out hR ?_) (by assumption)
    | with_reducible refine keepExS_err (keep_readCtx h_qe h_cx h_pm h_pf h_cf h_out hR ?_) (by assumption)
    | with_reducible refine keep_writeMem hW ?_
    | with_reducible refine keep_setF hR ?_
    | fail_if_no_progress with_reducible refine keep_up_pm h_pm (keep_eta ?_)
    | fail_if_no_progress with_reducible refine keep_up_cx h_cx (keep_up_pm h_pm (keep_eta ?_))
    | (extract_lets -underBinder -merge -useContext +onlyGivenNames x; clear_value x)
    | split

theorem keep_execCloseDrainEnd {a1 : CtxRead} (h_qe : UpQe P) (h_cx : UpCx P) (h_pm : UpPm P) (h_tm : UpTm P) (h_pf : UpPf P) (h_ft : UpFt P) (h_cf : UpCf P) (h_out : UpOut P) (hR : UpR P) (hW : UpW P) (h : Keep P s) : KeepOut P (execCloseDrainEnd a1 s) := by
  unfold execCloseDrainEnd
  repeat' first
    | with_reducible assumption
    | with_reducible refine keepOut_next ?_
    | with_reducible refine keep_freeCtx h_qe h_cx h_pm h_tm h_pf h_cf h_out hR hW ?_
    | with_reducible refine keep_askRelease h_pm ?_
    | with_reducible refine keep_closeEnded h_qe h_ft h_cf hR ?_
    | with_reducible refine keep_finishAll h_qe hR ?_
    | with_reducible refine keep_takeReads h_qe h_tm h_cf h_out hR ?_
    | with_reducible refine keep_live ?_ ?_
    | (extract_lets -underBinder -merge -useContext +onlyGivenNames x; clear_value x)
    | split
    | with_reducible intro _

theorem keep_execCxQuery {a1 : Cmd} {a2 : Bool} (h_qe : UpQe P) (h_cx : UpCx P) (h_pm : UpPm P) (h_tm : UpTm P) (h_pf : UpPf P) (h_cf : UpCf P) (h_out : UpOut P) (hR : UpR P) (hZ : UpZ P) (h : Keep P s) : KeepOut P (execCxQuery a1 a2 s) := by
  unfold execCxQuery
  repeat' first
    | with_reducible assumption
    | with_reducible refine keepOut_next ?_
    | with_reducible refine keep_startCx h_qe h_cx h_tm h_cf h_out hR hZ ?_ ?_
    | with_reducible refine keep_putHost h_qe h_out hR ?_ ?_
    | with_reducible refine keepExS_eq (keep_readCtx h_qe h_cx h_pm h_pf h_cf h_out hR ?_) (by assumption)
    | with_reducible refine keepExS_err (keep_readCtx h_qe h_cx h_pm h_pf h_cf h_out hR ?_) (by assumption)
    | with_reducible refine keep_finish h_qe hR ?_
    | split
    | with_reducible intro _

theorem keep_execCxSetShards {a1 : Cmd} {a2 : Option Bytes} (h_qe : UpQe P) (h_cx : UpCx P) (h_tm : UpTm P) (h_cf : UpCf P) (h_out : UpOut P) (hR : UpR P) (hW : UpW P) (h : Keep P s) : KeepOut P (execCxSetShards a1 a2 s) := by
  unfold execCxSetShards
  repeat' first
    | with_reducible assumption
    | with_reducible refine keepOut_next ?_
    | with_reducible refine keep_withHost h_qe h_out hR ?_ ?_
    | with_reducible refine keep_startCmd h_qe h_tm h_cf h_out hR ?_ ?_
    | with_reducible refine keep_writeSet h_cx hW ?_
    | with_reducible refine keep_finish h_qe hR ?_
    | (extract_lets -underBinder -merge -useContext +onlyGivenNames x; have := (fun (_ : _ → _) => trivial) x; unfold x; clear this x; beta_reduce)
    | (extract_lets -underBinder -merge -useContext +onlyGivenNames x; clear_value x)
    | split
    | with_reducible intro _

end Sys2Proof.Machine
end

