-- ==== Sys2Proof/Laws/KeepAttend.lean ====
section
/-!
SUPPORT. KeepAttend.lean: what the definitions of Machine/AttnMsg.lean, Machine/Attend.lean, Machine/Appends.lean, Machine/Threads.lean, Machine/Window.lean, Machine/Split.lean keep (see Keep.lean).
-/

set_option linter.unusedTactic false
set_option linter.unreachableTactic false
set_option linter.unusedVariables false
set_option linter.tactic.unusedName false
set_option maxRecDepth 20000

namespace Sys2Proof.Machine

variable {P : State → Prop} {s : State}

/-! ### Machine/AttnMsg.lean -/


theorem keep_sendReplyAs {a2 : Option Nat} {a3 : Bytes} {a4 : List Stage} (h_qe : UpQe P) (h_ft : UpFt P) (h_out : UpOut P) (hR : UpR P) (h : Keep P s) : Keep P (sendReplyAs s a2 a3 a4) := by
  unfold sendReplyAs
  repeat' first
    | with_reducible assumption
    | with_reducible refine keep_sendFor h_ft ?_
    | with_reducible refine keep_noRoute h_qe h_out hR ?_
    | split

theorem keep_sendReply {a2 : Option Nat} {a3 : Bytes} (h_qe : UpQe P) (h_ft : UpFt P) (h_out : UpOut P) (hR : UpR P) (h : Keep P s) : Keep P (sendReply s a2 a3) := by
  unfold sendReply
  repeat' first
    | with_reducible assumption
    | with_reducible refine keep_sendReplyAs h_qe h_ft h_out hR ?_

theorem keep_refusalFlags {a2 : Nat} (h_qe : UpQe P) (h_out : UpOut P) (hR : UpR P) (h : Keep P s) : Keep P (refusalFlags s a2) := by
  unfold refusalFlags
  repeat' first
    | with_reducible assumption
    | with_reducible refine keep_raiseLimit h_qe h_out hR ?_
    | with_reducible refine keep_raiseQuota h_qe h_out hR ?_
    | with_reducible refine keep_raise1 h_qe h_out hR ?_
    | split

theorem keep_refuseAs {a2 : Bytes} {a3 : Nat} {a4 : Nat} {a5 : Hint} (h_qe : UpQe P) (h_ft : UpFt P) (h_out : UpOut P) (hR : UpR P) (h : Keep P s) : Keep P (refuseAs s a2 a3 a4 a5) := by
  unfold refuseAs
  repeat' first
    | with_reducible assumption
    | with_reducible refine keep_refusalFlags h_qe h_out hR ?_
    | with_reducible refine keep_sendReply h_qe h_ft h_out hR ?_

theorem keep_refuseMsg {a2 : Bytes} {a3 : Nat} {a4 : Hint} (h_qe : UpQe P) (h_ft : UpFt P) (h_out : UpOut P) (hR : UpR P) (h : Keep P s) : Keep P (refuseMsg s a2 a3 a4) := by
  unfold refuseMsg
  repeat' first
    | with_reducible assumption
    | with_reducible refine keep_refuseAs h_qe h_ft h_out hR ?_

theorem keep_stage2 {a2 : Nat} {a3 : Nat} (h_qe : UpQe P) (h_cx : UpCx P) (h_pm : UpPm P) (h_pf : UpPf P) (h_cf : UpCf P) (h_out : UpOut P) (hR : UpR P) (h : Keep P s) : KeepStage P (stage2 s a2 a3) := by
  unfold stage2
  repeat' first
    | with_reducible assumption
    | with_reducible refine keepStage_refuse ?_
    | with_reducible refine keepStage_served ?_
    | with_reducible refine keepExS_eq (keep_readCtx h_qe h_cx h_pm h_pf h_cf h_out hR ?_) (by assumption)
    | with_reducible refine keepExS_err (keep_readCtx h_qe h_cx h_pm h_pf h_cf h_out hR ?_) (by assumption)
    | split

theorem keep_acceptOn {a2 : Nat} (h_pm : UpPm P) (hW : UpW P) (h : Keep P s) : Keep P (acceptOn s a2) := by
  unfold acceptOn
  repeat' first
    | with_reducible assumption
    | with_reducible refine keep_updCtx h_pm hW ?_

theorem keep_releaseOn {a2 : Nat} (h_pm : UpPm P) (hW : UpW P) (h : Keep P s) : Keep P (releaseOn s a2) := by
  unfold releaseOn
  repeat' first
    | with_reducible assumption
    | with_reducible refine keep_updCtx h_pm hW ?_

theorem keep_takeMsg {a2 : Bytes} (h_ae : UpAe P) (h : Keep P s) : Keep P (takeMsg s a2) := by
  unfold takeMsg
  repeat' first
    | with_reducible assumption
    | fail_if_no_progress with_reducible refine keep_up_ae h_ae (keep_eta ?_)

theorem keep_holdMsg {a2 : Bytes} (h_ae : UpAe P) (h : Keep P s) : Keep P (holdMsg s a2) := by
  unfold holdMsg
  repeat' first
    | with_reducible assumption
    | fail_if_no_progress with_reducible refine keep_up_ae h_ae (keep_eta ?_)
    | split

theorem keep_waitSlot {a2 : Bytes} (h_ae : UpAe P) (h : Keep P s) : Keep P (waitSlot s a2) := by
  unfold waitSlot
  repeat' first
    | with_reducible assumption
    | with_reducible refine keep_takeMsg h_ae ?_
    | fail_if_no_progress with_reducible refine keep_up_ae h_ae (keep_eta ?_)

theorem keep_withMsg {a2 : Nat} {a3 : Bytes} {a4 : State → State} (h_qe : UpQe P) (h_ae : UpAe P) (h_ft : UpFt P) (h_out : UpOut P) (hR : UpR P) (h : Keep P s) (ha4 : ∀ x0, Keep P x0 → Keep P (a4 x0)) : Keep P (withMsg s a2 a3 a4) := by
  unfold withMsg
  repeat' first
    | with_reducible assumption
    | with_reducible refine keep_takeMsg h_ae ?_
    | with_reducible refine keep_refuseMsg h_qe h_ft h_out hR ?_
    | with_reducible refine keep_raise1 h_qe h_out hR ?_
    | with_reducible refine keep_live ?_ ?_
    | split
    | with_reducible intro _

theorem keep_takeWay {a2 : Nat} {a3 : WayUse} (h_ac : UpAc P) (h : Keep P s) : Keep P (takeWay s a2 a3) := by
  unfold takeWay
  repeat' first
    | with_reducible assumption
    | fail_if_no_progress with_reducible refine keep_up_ac h_ac (keep_eta ?_)

theorem keep_takeAttnWay {a2 : Nat} {a3 : Nat} (h_ac : UpAc P) (h : Keep P s) : Keep P (takeAttnWay s a2 a3) := by
  unfold takeAttnWay
  repeat' first
    | with_reducible assumption
    | with_reducible refine keep_takeWay h_ac ?_
    | fail_if_no_progress with_reducible refine keep_up_ac h_ac (keep_eta ?_)

theorem keep_suppleteAc {a2 : Nat} (h_qe : UpQe P) (h_ac : UpAc P) (h_tn : UpTn P) (h_lx : UpLx P) (h_out : UpOut P) (hR : UpR P) (h : Keep P s) : Keep P (suppleteAc s a2) := by
  unfold suppleteAc
  repeat' first
    | with_reducible assumption
    | with_reducible refine keep_finishAll h_qe hR ?_
    | with_reducible refine keep_commit h_qe h_tn h_out hR ?_
    | with_reducible refine keep_setF hR ?_
    | fail_if_no_progress with_reducible refine keep_up_ac h_ac (keep_up_tn h_tn (keep_up_lx h_lx (keep_eta ?_)))
    | (extract_lets -underBinder -merge -useContext +onlyGivenNames x; with_reducible refine keep_cut (s := x) ?_ ?_; (on_goal 1 => unfold x); (on_goal 2 => (clear_value x; intro _)))
    | (extract_lets -underBinder -merge -useContext +onlyGivenNames x; clear_value x)
    | split

theorem keep_dropWay {a2 : Option Nat} (h_qe : UpQe P) (h_ac : UpAc P) (h_tn : UpTn P) (h_lx : UpLx P) (h_out : UpOut P) (hR : UpR P) (h : Keep P s) : Keep P (dropWay s a2) := by
  unfold dropWay
  repeat' first
    | with_reducible assumption
    | with_reducible refine keep_suppleteAc h_qe h_ac h_tn h_lx h_out hR ?_
    | fail_if_no_progress with_reducible refine keep_up_ac h_ac (keep_eta ?_)
    | split

theorem keep_setBbd {a2 : Nat} {a3 : Bbd} (h_bb : UpBb P) (h : Keep P s) : Keep P (setBbd s a2 a3) := by
  unfold setBbd
  repeat' first
    | with_reducible assumption
    | fail_if_no_progress with_reducible refine keep_up_bb h_bb (keep_eta ?_)

theorem keep_updBbd {a2 : Nat} {a3 : Bbd → Bbd} (h_bb : UpBb P) (h : Keep P s) : Keep P (updBbd s a2 a3) := by
  unfold updBbd
  repeat' first
    | with_reducible assumption
    | with_reducible refine keep_setBbd h_bb ?_

/-! ### Machine/Attend.lean -/


theorem keep_updReq {a2 : Nat} {a3 : Req → Req} (h_ae : UpAe P) (h : Keep P s) : Keep P (updReq s a2 a3) := by
  unfold updReq
  repeat' first
    | with_reducible assumption
    | fail_if_no_progress with_reducible refine keep_up_ae h_ae (keep_eta ?_)

theorem keep_updChild {a2 : Nat} {a3 : Nat} {a4 : Child → Child} (h_ae : UpAe P) (h : Keep P s) : Keep P (updChild s a2 a3 a4) := by
  unfold updChild
  repeat' first
    | with_reducible assumption
    | with_reducible refine keep_updReq h_ae ?_

theorem keep_settleFail {a2 : Nat} {a3 : Bytes} {a4 : Nat} {a5 : Nat} {a6 : Nat} (h_ae : UpAe P) (h : Keep P s) : Keep P (settleFail s a2 a3 a4 a5 a6) := by
  unfold settleFail
  repeat' first
    | with_reducible assumption
    | with_reducible refine keep_updChild h_ae ?_

theorem keep_sendChild {a2 : Nat} {a3 : Bytes} {a4 : Nat} {a5 : Nat} {a6 : List Stage} (h_qe : UpQe P) (h_ae : UpAe P) (h_ft : UpFt P) (h_out : UpOut P) (hR : UpR P) (h : Keep P s) : Keep P (sendChild s a2 a3 a4 a5 a6) := by
  unfold sendChild
  repeat' first
    | with_reducible assumption
    | with_reducible refine keep_settleFail h_ae ?_
    | with_reducible refine keep_updChild h_ae ?_
    | with_reducible refine keep_sendFor h_ft ?_
    | with_reducible refine keep_noRoute h_qe h_out hR ?_
    | with_reducible refine keep_raise1 h_qe h_out hR ?_
    | split

theorem keep_fanOut {a2 : Nat} {a3 : Bytes} {a4 : Bytes} {a5 : Nat} (h_qe : UpQe P) (h_ae : UpAe P) (h_ft : UpFt P) (h_out : UpOut P) (hR : UpR P) (h : Keep P s) : Keep P (fanOut s a2 a3 a4 a5) := by
  unfold fanOut
  repeat' first
    | with_reducible assumption
    | with_reducible refine keep_sendChild h_qe h_ae h_ft h_out hR ?_
    | with_reducible refine keep_updReq h_ae ?_
    | fail_if_no_progress with_reducible refine keep_up_ae h_ae (keep_eta ?_)
    | with_reducible refine keep_foldl (fun _ _ _ => ?_) ?_
    | (extract_lets -underBinder -merge -useContext +onlyGivenNames x; clear_value x)
    | split

theorem keep_matchDraft {a2 : Nat} {a3 : Bytes} {a4 : Bytes} (h_ae : UpAe P) (h : Keep P s) : Keep P (matchDraft s a2 a3 a4) := by
  unfold matchDraft
  repeat' first
    | with_reducible assumption
    | with_reducible refine keep_updReq h_ae ?_
    | fail_if_no_progress with_reducible refine keep_up_ae h_ae (keep_eta ?_)
    | split

theorem keep_discardDraft  (h_qe : UpQe P) (h_out : UpOut P) (hR : UpR P) (h : Keep P s) : Keep P (discardDraft s) := by
  unfold discardDraft
  repeat' first
    | with_reducible assumption
    | with_reducible refine keep_raise1 h_qe h_out hR ?_

theorem keep_placeDraft {a2 : Bytes} {a3 : Bytes} (h_qe : UpQe P) (h_ae : UpAe P) (h_out : UpOut P) (hR : UpR P) (h : Keep P s) : Keep P (placeDraft s a2 a3) := by
  unfold placeDraft
  repeat' first
    | with_reducible assumption
    | with_reducible refine keep_discardDraft h_qe h_out hR ?_
    | with_reducible refine keep_updReq h_ae ?_
    | fail_if_no_progress with_reducible refine keep_up_ae h_ae (keep_eta ?_)
    | split

theorem keep_execDraftRows {a1 : MsgRead} (h_qe : UpQe P) (h_cx : UpCx P) (h_pm : UpPm P) (h_ae : UpAe P) (h_tm : UpTm P) (h_pf : UpPf P) (h_ft : UpFt P) (h_cf : UpCf P) (h_out : UpOut P) (hR : UpR P) (hZ : UpZ P) (h : Keep P s) : KeepOut P (execDraftRows a1 s) := by
  unfold execDraftRows
  repeat' first
    | with_reducible assumption
    | with_reducible refine keepOut_next ?_
    | with_reducible refine keep_placeDraft h_qe h_ae h_out hR ?_
    | with_reducible refine keep_discardDraft h_qe h_out hR ?_
    | with_reducible refine keep_withMsg h_qe h_ae h_ft h_out hR ?_ ?_
    | with_reducible refine keep_holdMsg h_ae ?_
    | with_reducible refine keep_takeMsg h_ae ?_
    | with_reducible refine keep_startZeroing h_cx hZ ?_
    | with_reducible refine keepExS_eq (keep_readCtx h_qe h_cx h_pm h_pf h_cf h_out hR ?_) (by assumption)
    | with_reducible refine keepExS_err (keep_readCtx h_qe h_cx h_pm h_pf h_cf h_out hR ?_) (by assumption)
    | with_reducible refine keep_takeReads h_qe h_tm h_cf h_out hR ?_
    | split
    | with_reducible intro _

theorem keep_execDraftHoldExpiry {a1 : Nat} (h_qe : UpQe P) (h_ae : UpAe P) (h_out : UpOut P) (hR : UpR P) (h : Keep P s) : KeepOut P (execDraftHoldExpiry a1 s) := by
  unfold execDraftHoldExpiry
  repeat' first
    | with_reducible assumption
    | with_reducible refine keepOut_next ?_
    | with_reducible refine keep_discardDraft h_qe h_out hR ?_
    | with_reducible refine keep_live ?_ ?_
    | fail_if_no_progress with_reducible refine keep_up_ae h_ae (keep_eta ?_)
    | split
    | with_reducible intro _

theorem keep_execDraftWaitTimeout {a1 : Nat} (h_qe : UpQe P) (h_ae : UpAe P) (h_out : UpOut P) (hR : UpR P) (h : Keep P s) : KeepOut P (execDraftWaitTimeout a1 s) := by
  unfold execDraftWaitTimeout
  repeat' first
    | with_reducible assumption
    | with_reducible refine keepOut_next ?_
    | with_reducible refine keep_updReq h_ae ?_
    | with_reducible refine keep_raise1 h_qe h_out hR ?_
    | with_reducible refine keep_live ?_ ?_
    | split
    | with_reducible intro _

theorem keep_meetPage {a1 : Bytes} {a2 : Bytes} {a3 : Nat} {a4 : Nat} {a5 : List QRow} {a6 : HeadAcc} {a7 : Nat} (h_qe : UpQe P) (h_cx : UpCx P) (h_pm : UpPm P) (h_pf : UpPf P) (h_cf : UpCf P) (h_out : UpOut P) (hR : UpR P) (h : KeepAcc P a6) : KeepWork P (meetPage a1 a2 a3 a4 a5 a6 a7) := by
  unfold meetPage
  repeat' first
    | with_reducible assumption
    | with_reducible refine keepWork_ok ?_
    | with_reducible refine keepWork_error ?_
    | with_reducible refine keepAcc_mk ?_
    | with_reducible refine keep_pageFailedAt h_qe h_pf h_cf h_out hR ?_
    | with_reducible refine keep_entryFailed h_qe h_cx h_pm h_pf h_cf h_out hR ?_
    | with_reducible refine keep_raiseQuota h_qe h_out hR ?_
    | with_reducible refine keep_bumpR hR ?_
    | with_reducible refine keepAcc_s (by assumption)
    | (extract_lets -underBinder -merge -useContext +onlyGivenNames x; with_reducible refine keep_cutA (P := P) (s := x) ?_ ?_; (on_goal 1 => unfold x); (on_goal 2 => (clear_value x; intro _)))
    | (extract_lets -underBinder -merge -useContext +onlyGivenNames x; clear_value x)
    | split

theorem keep_readRows {a2 : Bytes} {a3 : Bytes} {a4 : Nat} {a5 : Nat} {a6 : SeenPage} (h_qe : UpQe P) (h_pf : UpPf P) (h_cf : UpCf P) (h_out : UpOut P) (hR : UpR P) (h : Keep P s) : KeepQ P (readRows s a2 a3 a4 a5 a6) := by
  unfold readRows
  repeat' first
    | with_reducible assumption
    | with_reducible refine keep_pageFailedAt h_qe h_pf h_cf h_out hR ?_
    | with_reducible refine keep_bumpR hR ?_
    | split
    | with_reducible refine keepQ_mk ?_

theorem keep_foldPage {a1 : Bytes} {a2 : Bytes} {a3 : Nat} {a4 : Nat} {a5 : List (Nat × Nat)} {a6 : List QRow} {a7 : HeadAcc} {a8 : SeenPage} (h_qe : UpQe P) (h_pf : UpPf P) (h_cf : UpCf P) (h_out : UpOut P) (hR : UpR P) (h : KeepAcc P a7) : KeepWork P (foldPage a1 a2 a3 a4 a5 a6 a7 a8) := by
  unfold foldPage
  repeat' first
    | with_reducible assumption
    | with_reducible refine keepWork_ok ?_
    | with_reducible refine keepWork_error ?_
    | with_reducible refine keepAcc_mk ?_
    | with_reducible refine keepQ_fst (keep_readRows h_qe h_pf h_cf h_out hR ?_)
    | with_reducible refine keepQ_eq (keep_readRows h_qe h_pf h_cf h_out hR ?_) (by assumption)
    | with_reducible refine keepAcc_s (by assumption)
    | (extract_lets -underBinder -merge -useContext +onlyGivenNames x; with_reducible refine keep_cutA (P := P) (s := x) ?_ ?_; (on_goal 1 => unfold x); (on_goal 2 => (clear_value x; intro _)))
    | split

theorem keep_HeadAcc_empty {a2 : Bytes} {a3 : List QRow} (h : Keep P s) : KeepAcc P (HeadAcc.empty s a2 a3) := by
  unfold HeadAcc.empty
  repeat' first
    | with_reducible assumption
    | with_reducible refine keepAcc_mk ?_

theorem keep_headWork {a2 : Req} {a3 : Bytes} {a4 : Nat} (h_qe : UpQe P) (h_cx : UpCx P) (h_pm : UpPm P) (h_pf : UpPf P) (h_cf : UpCf P) (h_out : UpOut P) (hR : UpR P) (h : Keep P s) : KeepWork P (headWork s a2 a3 a4) := by
  unfold headWork
  extract_lets m head qs a
  split
  · exact keepWork_error (keepAcc_mk (keep_entryFailed h_qe h_cx h_pm h_pf h_cf h_out hR h))
  · split
    · exact keepWork_errorp (keepWork_errp (keepWork_all (fun _ _ ha => keep_meetPage h_qe h_cx h_pm h_pf h_cf h_out hR ha) (keepAcc_mk h)) (by assumption))
    · have h1 := keepWork_eq (keepWork_all (fun _ _ ha => keep_meetPage h_qe h_cx h_pm h_pf h_cf h_out hR ha) (keepAcc_mk h)) (by assumption)
      split
      · exact keepWork_errorp (keepWork_errp (keepWork_all (fun _ _ ha => keep_foldPage h_qe h_pf h_cf h_out hR ha) h1) (by assumption))
      · have h2 := keepWork_eq (keepWork_all (fun _ _ ha => keep_foldPage h_qe h_pf h_cf h_out hR ha) h1) (by assumption)
        exact keepWork_ok (keepAcc_mk (keepAcc_s h2))

theorem keep_headsWork {a2 : Req} {a3 : Bytes} {a4 : Nat} {a5 : Nat} (h_qe : UpQe P) (h_cx : UpCx P) (h_pm : UpPm P) (h_pf : UpPf P) (h_cf : UpCf P) (h_out : UpOut P) (hR : UpR P) (h : Keep P s) : KeepHeads P (headsWork s a2 a3 a4 a5) := by
  induction a5 generalizing s a4 with
  | zero => exact keepHeads_mk h
  | succ n ih =>
    rw [headsWork]
    split
    · exact keepHeads_mk (keepAcc_s (keepWork_err (keep_headWork h_qe h_cx h_pm h_pf h_cf h_out hR h) (by assumption)))
    · exact keepHeads_mk (keepHeads_s (ih (keepAcc_s (keepWork_eq (keep_headWork h_qe h_cx h_pm h_pf h_cf h_out hR h) (by assumption)))))

theorem keep_ownClause {a2 : Req} {a3 : Bytes} (h_qe : UpQe P) (h_cx : UpCx P) (h_pm : UpPm P) (h_pf : UpPf P) (h_cf : UpCf P) (h_out : UpOut P) (hR : UpR P) (h : Keep P s) : KeepP P (ownClause s a2 a3) := by
  unfold ownClause
  split
  · exact keepP_mk h
  · dsimp only
    refine keepP_mk ?_
    split
    · exact h
    · exact keepHeads_s (keep_headsWork h_qe h_cx h_pm h_pf h_cf h_out hR h)

theorem keep_enterWork {a2 : Nat} {a3 : BauWork} (h_bb : UpBb P) (h : Keep P s) : Keep P (enterWork s a2 a3) := by
  unfold enterWork
  repeat' first
    | with_reducible assumption
    | with_reducible refine keep_updBbd h_bb ?_

theorem keep_sendWork {a2 : Nat} {a3 : BauWork} (h_bb : UpBb P) (h : Keep P s) : Keep P (sendWork s a2 a3) := by
  unfold sendWork
  repeat' first
    | with_reducible assumption
    | with_reducible refine keep_enterWork h_bb ?_
    | with_reducible refine keep_updBbd h_bb ?_
    | (extract_lets -underBinder -merge -useContext +onlyGivenNames x; clear_value x)
    | split

theorem keep_planHead {a2 : Nat} {a3 : Req} {a4 : Bytes} {a5 : Nat} (h_ae : UpAe P) (h_bb : UpBb P) (h : Keep P s) : Keep P (planHead s a2 a3 a4 a5) := by
  unfold planHead
  repeat' first
    | with_reducible assumption
    | with_reducible refine keep_sendWork h_bb ?_
    | with_reducible refine keep_updReq h_ae ?_
    | with_reducible refine keep_foldl (fun _ _ _ => ?_) ?_
    | (extract_lets -underBinder -merge -useContext +onlyGivenNames x; clear_value x)
    | split

theorem keep_planWork {a2 : Nat} (h_ae : UpAe P) (h_bb : UpBb P) (h : Keep P s) : Keep P (planWork s a2) := by
  unfold planWork
  repeat' first
    | with_reducible assumption
    | with_reducible refine keep_planHead h_ae h_bb ?_
    | with_reducible refine keep_foldl (fun _ _ _ => ?_) ?_
    | (extract_lets -underBinder -merge -useContext +onlyGivenNames x; clear_value x)
    | split

theorem keep_updPlan {a2 : Nat} {a3 : Nat} {a4 : HeadPlan → HeadPlan} (h_ae : UpAe P) (h : Keep P s) : Keep P (updPlan s a2 a3 a4) := by
  unfold updPlan
  repeat' first
    | with_reducible assumption
    | with_reducible refine keep_updReq h_ae ?_

theorem keep_withdraw {a2 : Nat} {a3 : BauWork → Bool} (h_bb : UpBb P) (h : Keep P s) : Keep P (withdraw s a2 a3) := by
  unfold withdraw
  repeat' first
    | with_reducible assumption
    | with_reducible refine keep_updBbd h_bb ?_

theorem keep_foldOn {a1 : Nat} {a2 : Nat} {a3 : Nat} (h_ae : UpAe P) (h_bb : UpBb P) (h : Keep P s) : Keep P (foldOn a1 a2 a3 s) := by
  induction a3 generalizing s a1 a2 with
  | zero =>
    rw [foldOn]
    repeat' first
      | with_reducible assumption
      | with_reducible apply ih
      | with_reducible refine keep_withdraw h_bb ?_
      | with_reducible refine keep_updPlan h_ae ?_
      | with_reducible refine keep_updReq h_ae ?_
      | (extract_lets -underBinder -merge -useContext +onlyGivenNames x; with_reducible refine keep_cut (s := x) ?_ ?_; (on_goal 1 => unfold x); (on_goal 2 => (clear_value x; intro _)))
      | split
  | succ _ ih =>
    rw [foldOn]
    repeat' first
      | with_reducible assumption
      | with_reducible apply ih
      | with_reducible refine keep_withdraw h_bb ?_
      | with_reducible refine keep_updPlan h_ae ?_
      | with_reducible refine keep_updReq h_ae ?_
      | (extract_lets -underBinder -merge -useContext +onlyGivenNames x; with_reducible refine keep_cut (s := x) ?_ ?_; (on_goal 1 => unfold x); (on_goal 2 => (clear_value x; intro _)))
      | split

theorem keep_sendAhead {a2 : Nat} {a3 : Nat} (h_ae : UpAe P) (h_bb : UpBb P) (h : Keep P s) : Keep P (sendAhead s a2 a3) := by
  unfold sendAhead
  repeat' first
    | with_reducible assumption
    | with_reducible refine keep_updPlan h_ae ?_
    | with_reducible refine keep_sendWork h_bb ?_
    | with_reducible refine keep_foldl (fun _ _ _ => ?_) ?_
    | split

theorem keep_advanceHead {a2 : Nat} {a3 : Nat} (h_ae : UpAe P) (h_bb : UpBb P) (h : Keep P s) : Keep P (advanceHead s a2 a3) := by
  unfold advanceHead
  repeat' first
    | with_reducible assumption
    | with_reducible refine keep_sendAhead h_ae h_bb ?_
    | with_reducible refine keep_foldOn h_ae h_bb ?_
    | split

theorem keep_workReturned {a2 : BauWork} (h_qe : UpQe P) (h_cx : UpCx P) (h_pm : UpPm P) (h_ae : UpAe P) (h_bb : UpBb P) (h_pf : UpPf P) (h_cf : UpCf P) (h_out : UpOut P) (hR : UpR P) (h : Keep P s) : Keep P (workReturned s a2) := by
  unfold workReturned
  repeat' first
    | with_reducible assumption
    | with_reducible refine keep_advanceHead h_ae h_bb ?_
    | with_reducible refine keep_updPlan h_ae ?_
    | (extract_lets -underBinder -merge -useContext +onlyGivenNames x; with_reducible refine keep_cut (s := x) ?_ ?_; (on_goal 1 => unfold x); (on_goal 2 => (clear_value x; intro _)))
    | (extract_lets -underBinder -merge -useContext +onlyGivenNames x; clear_value x)
    | split

theorem keep_unserve {a2 : Nat} (h_qe : UpQe P) (h_cx : UpCx P) (h_pm : UpPm P) (h_ae : UpAe P) (h_bb : UpBb P) (h_pf : UpPf P) (h_cf : UpCf P) (h_out : UpOut P) (hR : UpR P) (h : Keep P s) : Keep P (unserve s a2) := by
  unfold unserve
  repeat' first
    | with_reducible assumption
    | with_reducible refine keep_workReturned h_qe h_cx h_pm h_ae h_bb h_pf h_cf h_out hR ?_
    | with_reducible refine keep_withdraw h_bb ?_
    | with_reducible refine keep_foldl (fun _ _ _ => ?_) ?_
    | split

theorem keep_forgetWork {a2 : Nat} (h_bb : UpBb P) (h : Keep P s) : Keep P (forgetWork s a2) := by
  unfold forgetWork
  repeat' first
    | with_reducible assumption
    | with_reducible refine keep_withdraw h_bb ?_
    | with_reducible refine keep_updBbd h_bb ?_
    | with_reducible refine keep_foldl (fun _ _ _ => ?_) ?_
    | split

theorem keep_noteIngress {a2 : Nat} (hR : UpR P) (h : Keep P s) : Keep P (noteIngress s a2) := by
  unfold noteIngress
  repeat' first
    | with_reducible assumption
    | with_reducible refine keep_noteExcess hR ?_
    | split

theorem keep_startWalk {a2 : Nat} (h_qe : UpQe P) (h_pm : UpPm P) (h_ae : UpAe P) (h_bb : UpBb P) (h_tm : UpTm P) (h_pf : UpPf P) (h_out : UpOut P) (hR : UpR P) (h : Keep P s) : Keep P (startWalk s a2) := by
  unfold startWalk
  repeat' first
    | with_reducible assumption
    | with_reducible refine keep_noteIngress hR ?_
    | with_reducible refine keep_planWork h_ae h_bb ?_
    | with_reducible refine keep_updReq h_ae ?_
    | with_reducible refine keep_prefetchAhead h_qe h_pm h_tm h_pf h_out hR ?_
    | with_reducible refine keep_stageReads h_tm h_out ?_
    | with_reducible refine keepOptP_eq (keep_walkStart h_pm ?_) (by assumption)
    | with_reducible refine keep_waitWalker h_pm ?_
    | split

theorem keep_startWays {a2 : Nat} {a3 : Nat} {a4 : Nat} (h_ae : UpAe P) (h_ac : UpAc P) (h : Keep P s) : Keep P (startWays s a2 a3 a4) := by
  induction a4 generalizing s a2 a3 with
  | zero =>
    rw [startWays]
    repeat' first
      | with_reducible assumption
      | with_reducible apply ih
      | with_reducible refine keep_updReq h_ae ?_
      | with_reducible refine keep_takeAttnWay h_ac ?_
      | split
  | succ _ ih =>
    rw [startWays]
    repeat' first
      | with_reducible assumption
      | with_reducible apply ih
      | with_reducible refine keep_updReq h_ae ?_
      | with_reducible refine keep_takeAttnWay h_ac ?_
      | split

theorem keep_acceptAttend {a2 : Bytes} {a3 : Bytes} {a4 : Nat} (h_qe : UpQe P) (h_pm : UpPm P) (h_ae : UpAe P) (h_bb : UpBb P) (h_ac : UpAc P) (h_tm : UpTm P) (h_pf : UpPf P) (h_ft : UpFt P) (h_out : UpOut P) (hR : UpR P) (hW : UpW P) (h : Keep P s) : Keep P (acceptAttend s a2 a3 a4) := by
  unfold acceptAttend
  repeat' first
    | with_reducible assumption
    | with_reducible refine keep_startWays h_ae h_ac ?_
    | with_reducible refine keep_startWalk h_qe h_pm h_ae h_bb h_tm h_pf h_out hR ?_
    | with_reducible refine keep_matchDraft h_ae ?_
    | with_reducible refine keep_fanOut h_qe h_ae h_ft h_out hR ?_
    | with_reducible refine keep_acceptOn h_pm hW ?_
    | with_reducible refine keep_bumpR hR ?_
    | fail_if_no_progress with_reducible refine keep_up_ae h_ae (keep_eta ?_)
    | (extract_lets -underBinder -merge -useContext +onlyGivenNames x; with_reducible refine keep_cut (s := x) ?_ ?_; (on_goal 1 => unfold x); (on_goal 2 => (clear_value x; intro _)))
    | (extract_lets -underBinder -merge -useContext +onlyGivenNames x; clear_value x)
    | split

theorem keep_takeAttend {a2 : Bytes} {a3 : Nat} (h_qe : UpQe P) (h_cx : UpCx P) (h_pm : UpPm P) (h_ae : UpAe P) (h_bb : UpBb P) (h_ac : UpAc P) (h_tm : UpTm P) (h_pf : UpPf P) (h_ft : UpFt P) (h_cf : UpCf P) (h_out : UpOut P) (hR : UpR P) (hW : UpW P) (hZ : UpZ P) (h : Keep P s) : Keep P (takeAttend s a2 a3) := by
  unfold takeAttend
  repeat' first
    | with_reducible assumption
    | with_reducible refine keep_acceptAttend h_qe h_pm h_ae h_bb h_ac h_tm h_pf h_ft h_out hR hW ?_
    | with_reducible refine keep_waitSlot h_ae ?_
    | with_reducible refine keep_holdMsg h_ae ?_
    | with_reducible refine keep_takeMsg h_ae ?_
    | with_reducible refine keepStage_eq (keep_stage2 h_qe h_cx h_pm h_pf h_cf h_out hR ?_) (by assumption)
    | with_reducible refine keepStage_eqs (keep_stage2 h_qe h_cx h_pm h_pf h_cf h_out hR ?_) (by assumption)
    | with_reducible refine keep_refuseMsg h_qe h_ft h_out hR ?_
    | with_reducible refine keep_refuseAs h_qe h_ft h_out hR ?_
    | with_reducible refine keep_startZeroing h_cx hZ ?_
    | (extract_lets -underBinder -merge -useContext +onlyGivenNames x; with_reducible refine keep_cut (s := x) ?_ ?_; (on_goal 1 => unfold x); (on_goal 2 => (clear_value x; intro _)))
    | split

theorem keep_execAttend {a1 : Bytes} {a2 : Reads} (h_qe : UpQe P) (h_cx : UpCx P) (h_pm : UpPm P) (h_ae : UpAe P) (h_bb : UpBb P) (h_ac : UpAc P) (h_tm : UpTm P) (h_pf : UpPf P) (h_ft : UpFt P) (h_cf : UpCf P) (h_out : UpOut P) (hR : UpR P) (hW : UpW P) (hZ : UpZ P) (h : Keep P s) : KeepOut P (execAttend a1 a2 s) := by
  unfold execAttend
  repeat' first
    | with_reducible assumption
    | with_reducible refine keepOut_next ?_
    | with_reducible refine keep_takeAttend h_qe h_cx h_pm h_ae h_bb h_ac h_tm h_pf h_ft h_cf h_out hR hW hZ ?_
    | with_reducible refine keep_withMsg h_qe h_ae h_ft h_out hR ?_ ?_
    | with_reducible refine keep_takeReads h_qe h_tm h_cf h_out hR ?_
    | with_reducible intro _

theorem keep_execAttnWayGrant  (h_ae : UpAe P) (h_ac : UpAc P) (hR : UpR P) (h : Keep P s) : KeepOut P (execAttnWayGrant s) := by
  unfold execAttnWayGrant
  repeat' first
    | with_reducible assumption
    | with_reducible refine keepOut_next ?_
    | with_reducible refine keep_noteIngress hR ?_
    | with_reducible refine keep_updReq h_ae ?_
    | with_reducible refine keep_takeAttnWay h_ac ?_
    | with_reducible refine keep_live ?_ ?_
    | with_reducible refine keep_bumpR hR ?_
    | split
    | with_reducible intro _

theorem keep_endReq {a2 : Nat} (h_qe : UpQe P) (h_pm : UpPm P) (h_ae : UpAe P) (h_bb : UpBb P) (h_ac : UpAc P) (h_tm : UpTm P) (h_ft : UpFt P) (h_cf : UpCf P) (h_tn : UpTn P) (h_lx : UpLx P) (h_out : UpOut P) (hR : UpR P) (hW : UpW P) (h : Keep P s) : Keep P (endReq s a2) := by
  unfold endReq
  repeat' first
    | with_reducible assumption
    | with_reducible refine keep_forgetWork h_bb ?_
    | with_reducible refine keep_dropWay h_qe h_ac h_tn h_lx h_out hR ?_
    | with_reducible refine keep_releaseOn h_pm hW ?_
    | with_reducible refine keep_drainCheck h_qe h_ft h_cf hR ?_
    | with_reducible refine keep_sweepTrees h_qe h_ft h_out hR ?_
    | with_reducible refine keep_leaveWalk h_pm hR ?_
    | with_reducible refine keep_walkEndQ h_qe h_pm h_tm h_out hR ?_
    | fail_if_no_progress with_reducible refine keep_up_ae h_ae (keep_eta ?_)
    | with_reducible refine keep_foldl (fun _ _ _ => ?_) ?_
    | split

theorem keep_sendClause {a2 : Nat} {a3 : Req} {a4 : Nat} {a5 : Clause} (h_qe : UpQe P) (h_pm : UpPm P) (h_ae : UpAe P) (h_bb : UpBb P) (h_ac : UpAc P) (h_tm : UpTm P) (h_ft : UpFt P) (h_cf : UpCf P) (h_tn : UpTn P) (h_lx : UpLx P) (h_out : UpOut P) (hR : UpR P) (hW : UpW P) (h : Keep P s) : Keep P (sendClause s a2 a3 a4 a5) := by
  unfold sendClause
  repeat' first
    | with_reducible assumption
    | with_reducible refine keep_endReq h_qe h_pm h_ae h_bb h_ac h_tm h_ft h_cf h_tn h_lx h_out hR hW ?_
    | with_reducible refine keep_sendReplyAs h_qe h_ft h_out hR ?_

theorem keep_attendUnstage {a2 : List Nat} (h_tm : UpTm P) (h : Keep P s) : Keep P (attendUnstage s a2) := by
  unfold attendUnstage
  repeat' first
    | with_reducible assumption
    | with_reducible refine keep_unstage h_tm ?_

theorem keep_execDriveReadCompletion {a1 : Nat} {a2 : DriveRead} (h_qe : UpQe P) (h_cx : UpCx P) (h_pm : UpPm P) (h_ae : UpAe P) (h_tm : UpTm P) (h_pf : UpPf P) (h_cf : UpCf P) (h_out : UpOut P) (hR : UpR P) (hW : UpW P) (h : Keep P s) : KeepOut P (execDriveReadCompletion a1 a2 s) := by
  unfold execDriveReadCompletion
  repeat' first
    | with_reducible assumption
    | with_reducible refine keepOut_next ?_
    | with_reducible refine keep_copyMove h_qe h_cx h_pm h_ae h_tm h_pf h_cf h_out hR hW ?_
    | with_reducible refine keep_issueRead h_tm h_out ?_
    | with_reducible refine keep_leaveDrive h_tm h_out ?_
    | with_reducible refine keep_refetchOk h_qe h_cf h_out hR ?_
    | with_reducible refine keep_raise1 h_qe h_out hR ?_
    | with_reducible refine keep_live ?_ ?_
    | with_reducible refine keep_bumpR hR ?_
    | fail_if_no_progress with_reducible refine keep_up_tm h_tm (keep_eta ?_)
    | with_reducible refine keep_foldl (fun _ _ _ => ?_) ?_
    | (extract_lets -underBinder -merge -useContext +onlyGivenNames x; with_reducible refine keep_cut (s := x) ?_ ?_; (on_goal 1 => unfold x); (on_goal 2 => (clear_value x; intro _)))
    | (extract_lets -underBinder -merge -useContext +onlyGivenNames x; clear_value x)
    | split
    | with_reducible intro _

theorem keep_awaitPages {a2 : Nat} {a3 : Req} {a4 : Bytes} (h_bb : UpBb P) (h_tm : UpTm P) (h_out : UpOut P) (h : Keep P s) : Keep P (awaitPages s a2 a3 a4) := by
  unfold awaitPages
  repeat' first
    | with_reducible assumption
    | with_reducible refine keep_stageReads h_tm h_out ?_
    | with_reducible refine keep_waitLocks h_bb ?_
    | split

theorem keep_execShardClauseSend {a1 : Nat} {a2 : Reads} (h_qe : UpQe P) (h_cx : UpCx P) (h_pm : UpPm P) (h_ae : UpAe P) (h_bb : UpBb P) (h_ac : UpAc P) (h_tm : UpTm P) (h_pf : UpPf P) (h_ft : UpFt P) (h_cf : UpCf P) (h_tn : UpTn P) (h_lx : UpLx P) (h_out : UpOut P) (hR : UpR P) (hW : UpW P) (h : Keep P s) : KeepOut P (execShardClauseSend a1 a2 s) := by
  unfold execShardClauseSend
  repeat' first
    | with_reducible assumption
    | with_reducible refine keepOut_next ?_
    | with_reducible refine keep_awaitPages h_bb h_tm h_out ?_
    | with_reducible refine keep_attendUnstage h_tm ?_
    | with_reducible refine keep_sendClause h_qe h_pm h_ae h_bb h_ac h_tm h_ft h_cf h_tn h_lx h_out hR hW ?_
    | with_reducible refine keep_unserve h_qe h_cx h_pm h_ae h_bb h_pf h_cf h_out hR ?_
    | with_reducible refine keepP_snd (keep_ownClause h_qe h_cx h_pm h_pf h_cf h_out hR ?_)
    | with_reducible refine keepExS_eq (keep_readCtx h_qe h_cx h_pm h_pf h_cf h_out hR ?_) (by assumption)
    | with_reducible refine keepExS_err (keep_readCtx h_qe h_cx h_pm h_pf h_cf h_out hR ?_) (by assumption)
    | with_reducible refine keep_takeReads h_qe h_tm h_cf h_out hR ?_
    | with_reducible refine keep_live ?_ ?_
    | split
    | with_reducible intro _

theorem keep_abortReq {a2 : Nat} (h_qe : UpQe P) (h_pm : UpPm P) (h_ae : UpAe P) (h_bb : UpBb P) (h_ac : UpAc P) (h_tm : UpTm P) (h_ft : UpFt P) (h_cf : UpCf P) (h_tn : UpTn P) (h_lx : UpLx P) (h_out : UpOut P) (hR : UpR P) (hW : UpW P) (h : Keep P s) : Keep P (abortReq s a2) := by
  unfold abortReq
  repeat' first
    | with_reducible assumption
    | with_reducible refine keep_sendClause h_qe h_pm h_ae h_bb h_ac h_tm h_ft h_cf h_tn h_lx h_out hR hW ?_
    | split

theorem keep_execClause {a1 : Nat} {a2 : Bytes} (h_qe : UpQe P) (h_ae : UpAe P) (h_ft : UpFt P) (h_out : UpOut P) (hR : UpR P) (h : Keep P s) : KeepOut P (execClause a1 a2 s) := by
  unfold execClause
  repeat' first
    | with_reducible assumption
    | with_reducible refine keepOut_next ?_
    | with_reducible refine keep_sendChild h_qe h_ae h_ft h_out hR ?_
    | with_reducible refine keep_updChild h_ae ?_
    | with_reducible refine keep_updReq h_ae ?_
    | with_reducible refine keep_withMsg h_qe h_ae h_ft h_out hR ?_ ?_
    | with_reducible refine keep_takeMsg h_ae ?_
    | with_reducible refine keep_raise1 h_qe h_out hR ?_
    | (extract_lets -underBinder -merge -useContext +onlyGivenNames x; with_reducible refine keep_cut (s := x) ?_ ?_; (on_goal 1 => unfold x); (on_goal 2 => (clear_value x; intro _)))
    | (extract_lets -underBinder -merge -useContext +onlyGivenNames x; clear_value x)
    | split
    | with_reducible intro _

theorem keep_execDone {a1 : Nat} {a2 : Bytes} (h_qe : UpQe P) (h_ae : UpAe P) (h_ft : UpFt P) (h_out : UpOut P) (hR : UpR P) (h : Keep P s) : KeepOut P (execDone a1 a2 s) := by
  unfold execDone
  repeat' first
    | with_reducible assumption
    | with_reducible refine keepOut_next ?_
    | with_reducible refine keep_withMsg h_qe h_ae h_ft h_out hR ?_ ?_
    | with_reducible refine keep_takeMsg h_ae ?_
    | with_reducible refine keep_raise1 h_qe h_out hR ?_
    | with_reducible intro _

theorem keep_execChildTimeout {a1 : Nat} {a2 : Nat} (h_qe : UpQe P) (h_ae : UpAe P) (h_out : UpOut P) (hR : UpR P) (h : Keep P s) : KeepOut P (execChildTimeout a1 a2 s) := by
  unfold execChildTimeout
  repeat' first
    | with_reducible assumption
    | with_reducible refine keepOut_next ?_
    | with_reducible refine keep_settleFail h_ae ?_
    | with_reducible refine keep_raise1 h_qe h_out hR ?_
    | with_reducible refine keep_live ?_ ?_
    | split
    | with_reducible intro _

/-! ### Machine/Appends.lean -/


theorem keep_putRows {a2 : Nat} {a3 : Nat} {a4 : Nat} {a5 : Nat} {a6 : List (Bytes × Bytes × List Nat)} {a7 : Nat} {a8 : Nat} {a9 : Bytes} (h_tm : UpTm P) (hW : UpW P) (h : Keep P s) : Keep P (putRows s a2 a3 a4 a5 a6 a7 a8 a9) := by
  unfold putRows
  repeat' first
    | with_reducible assumption
    | with_reducible refine keep_slotWrite h_tm hW ?_

theorem keep_writeRows {a2 : Bytes} {a3 : Bytes} {a4 : Nat} {a5 : Nat} {a6 : Nat} {a7 : Nat} {a8 : Nat} {a9 : Bytes} (h_tm : UpTm P) (hW : UpW P) (h : Keep P s) : Keep P (writeRows s a2 a3 a4 a5 a6 a7 a8 a9) := by
  unfold writeRows
  repeat' first
    | with_reducible assumption
    | with_reducible refine keep_putRows h_tm hW ?_

theorem keep_raiseValid {a2 : Nat} {a3 : Bytes} {a4 : Nat} {a5 : Nat} {a6 : Nat} {a7 : Nat} (hW : UpW P) (h : Keep P s) : Keep P (raiseValid s a2 a3 a4 a5 a6 a7) := by
  unfold raiseValid
  repeat' first
    | with_reducible assumption
    | with_reducible refine keep_writeEntry hW ?_
    | with_reducible refine keep_foldl (fun _ _ _ => ?_) ?_
    | split

theorem keep_updOp {a2 : Nat} {a3 : PageOp → PageOp} (h_ae : UpAe P) (h : Keep P s) : Keep P (updOp s a2 a3) := by
  unfold updOp
  repeat' first
    | with_reducible assumption
    | fail_if_no_progress with_reducible refine keep_up_ae h_ae (keep_eta ?_)

theorem keep_finishOp {a2 : Nat} {a3 : Nat} {a4 : Nat} {a5 : List DropRange} (h_qe : UpQe P) (h_pm : UpPm P) (h_ae : UpAe P) (h_tm : UpTm P) (h_ft : UpFt P) (h_cf : UpCf P) (h_out : UpOut P) (hR : UpR P) (hW : UpW P) (h : Keep P s) : Keep P (finishOp s a2 a3 a4 a5) := by
  unfold finishOp
  repeat' first
    | with_reducible assumption
    | with_reducible refine keep_releaseOn h_pm hW ?_
    | with_reducible refine keep_refusalFlags h_qe h_out hR ?_
    | with_reducible refine keep_sendReplyAs h_qe h_ft h_out hR ?_
    | with_reducible refine keep_drainCheck h_qe h_ft h_cf hR ?_
    | with_reducible refine keep_sweepTrees h_qe h_ft h_out hR ?_
    | with_reducible refine keep_leaveEdit h_pm hR ?_
    | with_reducible refine keep_leaveWalk h_pm hR ?_
    | with_reducible refine keep_walkEndQ h_qe h_pm h_tm h_out hR ?_
    | with_reducible refine keep_untakeSlots h_qe h_pm h_tm h_out hR ?_
    | with_reducible refine keep_bumpR hR ?_
    | fail_if_no_progress with_reducible refine keep_up_ae h_ae (keep_eta ?_)
    | split

theorem keep_updGrant {a2 : Nat} {a3 : Grant → Grant} (h_pm : UpPm P) (h : Keep P s) : Keep P (updGrant s a2 a3) := by
  unfold updGrant
  repeat' first
    | with_reducible assumption
    | fail_if_no_progress with_reducible refine keep_up_pm h_pm (keep_eta ?_)

theorem keep_releaseOldest {a2 : Nat} (h_qe : UpQe P) (h_pm : UpPm P) (h_out : UpOut P) (hR : UpR P) (h : Keep P s) : Keep P (releaseOldest s a2) := by
  unfold releaseOldest
  repeat' first
    | with_reducible assumption
    | with_reducible refine keep_updGrant h_pm ?_
    | with_reducible refine keep_raise1 h_qe h_out hR ?_
    | split

theorem keep_flipToBank {a2 : Nat} {a3 : Nat} {a4 : Nat} {a5 : Nat} {a6 : List Nat} {a7 : EditOwner} (h_qe : UpQe P) (h_cx : UpCx P) (h_pm : UpPm P) (h_tm : UpTm P) (h_pf : UpPf P) (h_cf : UpCf P) (h_out : UpOut P) (hR : UpR P) (hW : UpW P) (h : Keep P s) : KeepFlip P (flipToBank s a2 a3 a4 a5 a6 a7) := by
  unfold flipToBank
  repeat' first
    | with_reducible assumption
    | with_reducible refine keepFlip_done ?_
    | with_reducible refine keepFlip_waits ?_
    | with_reducible refine keepFlip_failed ?_
    | with_reducible refine keepEdit_eq (keep_editPage h_qe h_pm h_tm h_out hR hW ?_) (by assumption)
    | with_reducible refine keep_waitEdit h_qe h_pm h_out hR ?_
    | with_reducible refine keep_entryFailed h_qe h_cx h_pm h_pf h_cf h_out hR ?_
    | with_reducible refine keep_leaveEdit h_pm hR ?_
    | fail_if_no_progress with_reducible refine keep_up_pm h_pm (keep_eta ?_)
    | split

theorem keep_flipAgain {a2 : Nat} {a3 : Nat} {a4 : Nat} {a5 : Nat} (h_qe : UpQe P) (h_cx : UpCx P) (h_pm : UpPm P) (h_tm : UpTm P) (h_pf : UpPf P) (h_cf : UpCf P) (h_out : UpOut P) (hR : UpR P) (hW : UpW P) (h : Keep P s) : Keep P (flipAgain s a2 a3 a4 a5) := by
  unfold flipAgain
  repeat' first
    | with_reducible assumption
    | with_reducible refine keepFlip_eqd (keep_flipToBank h_qe h_cx h_pm h_tm h_pf h_cf h_out hR hW ?_) (by assumption)
    | with_reducible refine keepFlip_eqw (keep_flipToBank h_qe h_cx h_pm h_tm h_pf h_cf h_out hR hW ?_) (by assumption)
    | with_reducible refine keepFlip_eqf (keep_flipToBank h_qe h_cx h_pm h_tm h_pf h_cf h_out hR hW ?_) (by assumption)
    | split

theorem keep_flipHeads {a2 : Nat} {a3 : PageOp} {a4 : List HeadView} (h_qe : UpQe P) (h_cx : UpCx P) (h_pm : UpPm P) (h_tm : UpTm P) (h_pf : UpPf P) (h_cf : UpCf P) (h_out : UpOut P) (hR : UpR P) (hW : UpW P) (h : Keep P s) : KeepFlip P (flipHeads s a2 a3 a4) := by
  induction a4 generalizing s a2 a3 with
  | nil =>
    rw [flipHeads]
    repeat' first
      | with_reducible assumption
      | with_reducible apply ih
      | with_reducible refine keepFlip_done ?_
      | with_reducible refine keep_flipToBank h_qe h_cx h_pm h_tm h_pf h_cf h_out hR hW ?_
      | with_reducible refine keepFlip_eqd (keep_flipToBank h_qe h_cx h_pm h_tm h_pf h_cf h_out hR hW ?_) (by assumption)
      | split
  | cons _ _ ih =>
    rw [flipHeads]
    repeat' first
      | with_reducible assumption
      | with_reducible apply ih
      | with_reducible refine keepFlip_done ?_
      | with_reducible refine keep_flipToBank h_qe h_cx h_pm h_tm h_pf h_cf h_out hR hW ?_
      | with_reducible refine keepFlip_eqd (keep_flipToBank h_qe h_cx h_pm h_tm h_pf h_cf h_out hR hW ?_) (by assumption)
      | split

theorem keep_newPages {a2 : PageOp} {a3 : Bytes} {a4 : Nat} {a5 : List Nat} (h_qe : UpQe P) (h_pm : UpPm P) (h_tm : UpTm P) (h_out : UpOut P) (hR : UpR P) (h : Keep P s) : KeepP P (newPages s a2 a3 a4 a5) := by
  induction a5 generalizing s a2 a3 a4 with
  | nil =>
    rw [newPages]
    repeat' first
      | with_reducible assumption
      | with_reducible refine keepP_eq (ih ?_) (by assumption)
      | with_reducible refine keep_takeIn h_qe h_pm h_out hR ?_
      | with_reducible refine keepOptP_eq (keep_fillSlots h_pm h_tm hR ?_) (by assumption)
      | with_reducible refine keep_untakeSlots h_qe h_pm h_tm h_out hR ?_
      | split
      | with_reducible refine keepP_mk ?_
      | with_reducible refine keepP_eq ?_ (by assumption)
  | cons _ _ ih =>
    rw [newPages]
    repeat' first
      | with_reducible assumption
      | with_reducible refine keepP_eq (ih ?_) (by assumption)
      | with_reducible refine keep_takeIn h_qe h_pm h_out hR ?_
      | with_reducible refine keepOptP_eq (keep_fillSlots h_pm h_tm hR ?_) (by assumption)
      | with_reducible refine keep_untakeSlots h_qe h_pm h_tm h_out hR ?_
      | split
      | with_reducible refine keepP_mk ?_
      | with_reducible refine keepP_eq ?_ (by assumption)

theorem keep_deadSlot {a2 : PageOp} {a3 : Bytes} {a4 : Nat × Nat × Nat} (h_qe : UpQe P) (h_pf : UpPf P) (h_cf : UpCf P) (h_out : UpOut P) (hR : UpR P) (h : Keep P s) : Keep P (deadSlot s a2 a3 a4) := by
  unfold deadSlot
  repeat' first
    | with_reducible assumption
    | with_reducible refine keep_logFailure h_qe h_pf h_cf h_out hR ?_

theorem keep_writeHead {a1 : PageOp} {a2 : Bytes} {a4 : HeadView × List Bytes} (h_qe : UpQe P) (h_pm : UpPm P) (h_tm : UpTm P) (h_pf : UpPf P) (h_out : UpOut P) (hR : UpR P) (hW : UpW P) (h : Keep P s) : Keep P (writeHead a1 a2 s a4) := by
  unfold writeHead
  repeat' first
    | with_reducible assumption
    | with_reducible refine keep_updGrant h_pm ?_
    | with_reducible refine keep_raiseValid hW ?_
    | with_reducible refine keep_writeRows h_tm hW ?_
    | with_reducible refine keep_askRelease h_pm ?_
    | with_reducible refine keep_queueMove h_qe h_pm h_tm h_pf h_out hR ?_
    | with_reducible refine keep_foldl (fun _ _ _ => ?_) ?_
    | (extract_lets -underBinder -merge -useContext +onlyGivenNames x; with_reducible refine keep_cut (s := x) ?_ ?_; (on_goal 1 => unfold x); (on_goal 2 => (clear_value x; intro _)))
    | (extract_lets -underBinder -merge -useContext +onlyGivenNames x; clear_value x)
    | split

theorem keep_raiseEnd {a2 : Nat} {a3 : Nat} (h_pm : UpPm P) (hW : UpW P) (h : Keep P s) : Keep P (raiseEnd s a2 a3) := by
  unfold raiseEnd
  repeat' first
    | with_reducible assumption
    | with_reducible refine keep_updCtx h_pm hW ?_

theorem keep_writeNew {a2 : PageOp} {a3 : Bytes} {a4 : Nat} {a5 : List Nat} {a6 : List Nat} (h_tm : UpTm P) (hW : UpW P) (h : Keep P s) : Keep P (writeNew s a2 a3 a4 a5 a6) := by
  unfold writeNew
  repeat' first
    | with_reducible assumption
    | with_reducible refine keep_writeSlots h_tm hW ?_

theorem keep_editNew {a2 : PageOp} {a3 : Bytes} {a4 : List Nat} {a5 : List Nat} (h_qe : UpQe P) (h_pm : UpPm P) (h_tm : UpTm P) (h_out : UpOut P) (hR : UpR P) (hW : UpW P) (h : Keep P s) : KeepEdit P (editNew s a2 a3 a4 a5) := by
  unfold editNew
  repeat' first
    | with_reducible assumption
    | with_reducible refine keepEdit_done ?_
    | with_reducible exact keepEdit_bad
    | with_reducible refine keep_writeNew h_tm hW ?_
    | with_reducible refine keep_edit h_qe h_pm h_tm h_out hR hW ?_
    | split

theorem keep_heldTail {a2 : PageOp} {a3 : Nat} (h_cx : UpCx P) (h : Keep P s) : Keep P (heldTail s a2 a3) := by
  unfold heldTail
  repeat' first
    | with_reducible assumption
    | with_reducible refine keep_keepPage h_cx ?_
    | split

theorem keep_commitOp {a2 : Nat} {a3 : PageOp} {a4 : List Nat} {a5 : List Nat} {a6 : List (HeadView × List Bytes)} (h_qe : UpQe P) (h_cx : UpCx P) (h_pm : UpPm P) (h_ae : UpAe P) (h_tm : UpTm P) (h_pf : UpPf P) (h_ft : UpFt P) (h_cf : UpCf P) (h_out : UpOut P) (hR : UpR P) (hW : UpW P) (h : Keep P s) : Keep P (commitOp s a2 a3 a4 a5 a6) := by
  unfold commitOp
  repeat' first
    | with_reducible assumption
    | with_reducible refine keep_heldTail h_cx ?_
    | with_reducible refine keepEdit_eq (keep_editNew h_qe h_pm h_tm h_out hR hW ?_) (by assumption)
    | with_reducible refine keep_raiseEnd h_pm hW ?_
    | with_reducible refine keep_writeHead h_qe h_pm h_tm h_pf h_out hR hW ?_
    | with_reducible refine keep_finishOp h_qe h_pm h_ae h_tm h_ft h_cf h_out hR hW ?_
    | with_reducible refine keep_updOp h_ae ?_
    | with_reducible refine keep_waitEdit h_qe h_pm h_out hR ?_
    | with_reducible refine keep_entryFailed h_qe h_cx h_pm h_pf h_cf h_out hR ?_
    | with_reducible refine keep_foldl (fun _ _ _ => ?_) ?_
    | (extract_lets -underBinder -merge -useContext +onlyGivenNames x; clear_value x)
    | split

theorem keep_growOp {a2 : Nat} {a3 : PageOp} {a4 : Bytes} {a5 : List Nat} {a6 : List Nat} (h_qe : UpQe P) (h_cx : UpCx P) (h_pm : UpPm P) (h_ae : UpAe P) (h_tm : UpTm P) (h_pf : UpPf P) (h_cf : UpCf P) (h_out : UpOut P) (hR : UpR P) (hW : UpW P) (hZ : UpZ P) (h : Keep P s) : KeepReserve P (growOp s a2 a3 a4 a5 a6) := by
  unfold growOp
  repeat' first
    | with_reducible assumption
    | with_reducible refine keepReserve_held ?_
    | with_reducible refine keepReserve_waits ?_
    | with_reducible refine keepReserve_full ?_
    | with_reducible refine keepReserve_failed ?_
    | with_reducible refine keep_updOp h_ae ?_
    | with_reducible refine keepGrow_eq (keep_growRun h_qe h_pm h_tm h_out hR hW hZ ?_) (by assumption)
    | with_reducible refine keepGrow_eqf (keep_growRun h_qe h_pm h_tm h_out hR hW hZ ?_) (by assumption)
    | with_reducible refine keep_waitEdit h_qe h_pm h_out hR ?_
    | with_reducible refine keep_entryFailed h_qe h_cx h_pm h_pf h_cf h_out hR ?_
    | (extract_lets -underBinder -merge -useContext +onlyGivenNames x; with_reducible refine keep_cutA (P := P) (s := x) ?_ ?_; (on_goal 1 => unfold x); (on_goal 2 => (clear_value x; intro _)))
    | split

theorem keep_takeLifts {a2 : Nat} {a3 : PageOp} {a4 : Bytes} {a5 : List HeadView} (h_qe : UpQe P) (h_pm : UpPm P) (h_ae : UpAe P) (h_out : UpOut P) (hR : UpR P) (h : Keep P s) : KeepP P (takeLifts s a2 a3 a4 a5) := by
  induction a5 generalizing s a2 a3 a4 with
  | nil =>
    rw [takeLifts]
    repeat' first
      | with_reducible assumption
      | with_reducible apply ih
      | with_reducible refine keep_updOp h_ae ?_
      | with_reducible refine keepP_eq (keep_takeIn h_qe h_pm h_out hR ?_) (by assumption)
      | split
      | with_reducible refine keepP_mk ?_
  | cons _ _ ih =>
    rw [takeLifts]
    repeat' first
      | with_reducible assumption
      | with_reducible apply ih
      | with_reducible refine keep_updOp h_ae ?_
      | with_reducible refine keepP_eq (keep_takeIn h_qe h_pm h_out hR ?_) (by assumption)
      | split
      | with_reducible refine keepP_mk ?_

theorem keep_reserveOp {a2 : Nat} {a3 : PageOp} {a4 : Bytes} {a5 : List Nat} {a6 : List HeadView} (h_qe : UpQe P) (h_cx : UpCx P) (h_pm : UpPm P) (h_ae : UpAe P) (h_tm : UpTm P) (h_pf : UpPf P) (h_cf : UpCf P) (h_out : UpOut P) (hR : UpR P) (hW : UpW P) (hZ : UpZ P) (h : Keep P s) : KeepReserve P (reserveOp s a2 a3 a4 a5 a6) := by
  unfold reserveOp
  repeat' first
    | with_reducible assumption
    | with_reducible refine keepReserve_held ?_
    | with_reducible refine keepReserve_waits ?_
    | with_reducible refine keepReserve_full ?_
    | with_reducible refine keepP_eq (keep_takeLifts h_qe h_pm h_ae h_out hR ?_) (by assumption)
    | with_reducible refine keep_growOp h_qe h_cx h_pm h_ae h_tm h_pf h_cf h_out hR hW hZ ?_
    | with_reducible refine keep_newPages h_qe h_pm h_tm h_out hR ?_
    | with_reducible refine keep_updOp h_ae ?_
    | split
    | with_reducible refine keepP_eq ?_ (by assumption)
    | with_reducible refine keepP_mk ?_

theorem keep_writeOp {a2 : Nat} {a3 : PageOp} {a4 : Bytes} {a5 : List Nat} {a6 : List Nat} {a7 : List HeadView} (h_qe : UpQe P) (h_cx : UpCx P) (h_pm : UpPm P) (h_ae : UpAe P) (h_bb : UpBb P) (h_tm : UpTm P) (h_pf : UpPf P) (h_ft : UpFt P) (h_cf : UpCf P) (h_out : UpOut P) (hR : UpR P) (hW : UpW P) (h : Keep P s) : Keep P (writeOp s a2 a3 a4 a5 a6 a7) := by
  unfold writeOp
  repeat' first
    | with_reducible assumption
    | with_reducible refine keep_commitOp h_qe h_cx h_pm h_ae h_tm h_pf h_ft h_cf h_out hR hW ?_
    | with_reducible refine keep_finishOp h_qe h_pm h_ae h_tm h_ft h_cf h_out hR hW ?_
    | with_reducible refine keep_pageFailedAt h_qe h_pf h_cf h_out hR ?_
    | with_reducible refine keep_waitLocks h_bb ?_
    | (extract_lets -underBinder -merge -useContext +onlyGivenNames x; clear_value x)
    | split

theorem keep_ownAndWrite {a2 : Nat} {a3 : PageOp} {a4 : Bytes} {a5 : List Nat} {a6 : List Nat} {a7 : List HeadView} (h_qe : UpQe P) (h_cx : UpCx P) (h_pm : UpPm P) (h_ae : UpAe P) (h_bb : UpBb P) (h_tm : UpTm P) (h_pf : UpPf P) (h_ft : UpFt P) (h_cf : UpCf P) (h_out : UpOut P) (hR : UpR P) (hW : UpW P) (h : Keep P s) : Keep P (ownAndWrite s a2 a3 a4 a5 a6 a7) := by
  unfold ownAndWrite
  repeat' first
    | with_reducible assumption
    | with_reducible refine keep_writeOp h_qe h_cx h_pm h_ae h_bb h_tm h_pf h_ft h_cf h_out hR hW ?_
    | with_reducible refine keepFlip_eqd (keep_flipHeads h_qe h_cx h_pm h_tm h_pf h_cf h_out hR hW ?_) (by assumption)
    | with_reducible refine keepFlip_eqw (keep_flipHeads h_qe h_cx h_pm h_tm h_pf h_cf h_out hR hW ?_) (by assumption)
    | with_reducible refine keepFlip_eqf (keep_flipHeads h_qe h_cx h_pm h_tm h_pf h_cf h_out hR hW ?_) (by assumption)
    | with_reducible refine keep_finishOp h_qe h_pm h_ae h_tm h_ft h_cf h_out hR hW ?_
    | with_reducible refine keep_updOp h_ae ?_
    | with_reducible refine keep_askRelease h_pm ?_
    | (extract_lets -underBinder -merge -useContext +onlyGivenNames x; clear_value x)
    | split

theorem keep_liftHead {a1 : Nat} {a2 : PageOp} {a3 : Nat} {a5 : HeadView} (h_qe : UpQe P) (h_pm : UpPm P) (h_ae : UpAe P) (h_tm : UpTm P) (h_pf : UpPf P) (h_out : UpOut P) (hR : UpR P) (h : Keep P s) : Keep P (liftHead a1 a2 a3 s a5) := by
  unfold liftHead
  repeat' first
    | with_reducible assumption
    | with_reducible refine keep_updOp h_ae ?_
    | with_reducible refine keep_queueMove h_qe h_pm h_tm h_pf h_out hR ?_
    | with_reducible refine keep_updMove h_tm ?_
    | (extract_lets -underBinder -merge -useContext +onlyGivenNames x; with_reducible refine keep_cut (s := x) ?_ ?_; (on_goal 1 => unfold x); (on_goal 2 => (clear_value x; intro _)))
    | split

theorem keep_placeAppend {a2 : Nat} {a3 : PageOp} {a4 : Bytes} {a5 : List Nat} {a6 : List Nat} {a7 : List HeadView} (h_qe : UpQe P) (h_cx : UpCx P) (h_pm : UpPm P) (h_ae : UpAe P) (h_bb : UpBb P) (h_tm : UpTm P) (h_pf : UpPf P) (h_ft : UpFt P) (h_cf : UpCf P) (h_out : UpOut P) (hR : UpR P) (hW : UpW P) (h : Keep P s) : Keep P (placeAppend s a2 a3 a4 a5 a6 a7) := by
  unfold placeAppend
  repeat' first
    | with_reducible assumption
    | with_reducible refine keep_liftHead h_qe h_pm h_ae h_tm h_pf h_out hR ?_
    | with_reducible refine keep_ownAndWrite h_qe h_cx h_pm h_ae h_bb h_tm h_pf h_ft h_cf h_out hR hW ?_
    | with_reducible refine keep_deadSlot h_qe h_pf h_cf h_out hR ?_
    | with_reducible refine keep_finishOp h_qe h_pm h_ae h_tm h_ft h_cf h_out hR hW ?_
    | with_reducible refine keep_foldl (fun _ _ _ => ?_) ?_
    | (extract_lets -underBinder -merge -useContext +onlyGivenNames x; clear_value x)
    | split
    | with_reducible refine keep_getD ?_ ?_
    | with_reducible refine keepOpt_mapv (fun _ => ?_)

theorem keep_runAppend {a2 : Nat} {a3 : PageOp} {a4 : Bytes} {a5 : List HeadView} (h_qe : UpQe P) (h_cx : UpCx P) (h_pm : UpPm P) (h_ae : UpAe P) (h_bb : UpBb P) (h_tm : UpTm P) (h_pf : UpPf P) (h_ft : UpFt P) (h_cf : UpCf P) (h_out : UpOut P) (hR : UpR P) (hW : UpW P) (hZ : UpZ P) (h : Keep P s) : Keep P (runAppend s a2 a3 a4 a5) := by
  unfold runAppend
  repeat' first
    | with_reducible assumption
    | with_reducible refine keep_placeAppend h_qe h_cx h_pm h_ae h_bb h_tm h_pf h_ft h_cf h_out hR hW ?_
    | with_reducible refine keepReserve_eqh (keep_reserveOp h_qe h_cx h_pm h_ae h_tm h_pf h_cf h_out hR hW hZ ?_) (by assumption)
    | with_reducible refine keepReserve_eqw (keep_reserveOp h_qe h_cx h_pm h_ae h_tm h_pf h_cf h_out hR hW hZ ?_) (by assumption)
    | with_reducible refine keepReserve_equ (keep_reserveOp h_qe h_cx h_pm h_ae h_tm h_pf h_cf h_out hR hW hZ ?_) (by assumption)
    | with_reducible refine keepReserve_eqf (keep_reserveOp h_qe h_cx h_pm h_ae h_tm h_pf h_cf h_out hR hW hZ ?_) (by assumption)
    | with_reducible refine keep_finishOp h_qe h_pm h_ae h_tm h_ft h_cf h_out hR hW ?_
    | (extract_lets -underBinder -merge -useContext +onlyGivenNames x; clear_value x)
    | split

theorem keep_runRefill {a2 : Nat} {a3 : PageOp} {a4 : Bytes} {a5 : List HeadView} (h_qe : UpQe P) (h_cx : UpCx P) (h_pm : UpPm P) (h_ae : UpAe P) (h_tm : UpTm P) (h_pf : UpPf P) (h_ft : UpFt P) (h_cf : UpCf P) (h_out : UpOut P) (hR : UpR P) (hW : UpW P) (hZ : UpZ P) (h : Keep P s) : Keep P (runRefill s a2 a3 a4 a5) := by
  unfold runRefill
  repeat' first
    | with_reducible assumption
    | with_reducible refine keepReserve_eqh (keep_reserveOp h_qe h_cx h_pm h_ae h_tm h_pf h_cf h_out hR hW hZ ?_) (by assumption)
    | with_reducible refine keepReserve_eqw (keep_reserveOp h_qe h_cx h_pm h_ae h_tm h_pf h_cf h_out hR hW hZ ?_) (by assumption)
    | with_reducible refine keepReserve_equ (keep_reserveOp h_qe h_cx h_pm h_ae h_tm h_pf h_cf h_out hR hW hZ ?_) (by assumption)
    | with_reducible refine keepReserve_eqf (keep_reserveOp h_qe h_cx h_pm h_ae h_tm h_pf h_cf h_out hR hW hZ ?_) (by assumption)
    | with_reducible refine keep_commitOp h_qe h_cx h_pm h_ae h_tm h_pf h_ft h_cf h_out hR hW ?_
    | with_reducible refine keep_deadSlot h_qe h_pf h_cf h_out hR ?_
    | with_reducible refine keep_finishOp h_qe h_pm h_ae h_tm h_ft h_cf h_out hR hW ?_
    | with_reducible refine keep_updOp h_ae ?_
    | with_reducible refine keep_askRelease h_pm ?_
    | (extract_lets -underBinder -merge -useContext +onlyGivenNames x; clear_value x)
    | split
    | with_reducible refine keep_getD ?_ ?_
    | with_reducible refine keepOpt_mapv (fun _ => ?_)

theorem keep_runOp {a2 : Nat} (h_qe : UpQe P) (h_cx : UpCx P) (h_pm : UpPm P) (h_ae : UpAe P) (h_bb : UpBb P) (h_tm : UpTm P) (h_pf : UpPf P) (h_ft : UpFt P) (h_cf : UpCf P) (h_out : UpOut P) (hR : UpR P) (hW : UpW P) (hZ : UpZ P) (h : Keep P s) : Keep P (runOp s a2) := by
  unfold runOp
  repeat' first
    | with_reducible assumption
    | with_reducible refine keep_runRefill h_qe h_cx h_pm h_ae h_tm h_pf h_ft h_cf h_out hR hW hZ ?_
    | with_reducible refine keep_runAppend h_qe h_cx h_pm h_ae h_bb h_tm h_pf h_ft h_cf h_out hR hW hZ ?_
    | with_reducible refine keep_finishOp h_qe h_pm h_ae h_tm h_ft h_cf h_out hR hW ?_
    | with_reducible refine keep_entryFailed h_qe h_cx h_pm h_pf h_cf h_out hR ?_
    | with_reducible refine keepExS_eq (keep_readCtx h_qe h_cx h_pm h_pf h_cf h_out hR ?_) (by assumption)
    | with_reducible refine keepExS_err (keep_readCtx h_qe h_cx h_pm h_pf h_cf h_out hR ?_) (by assumption)
    | split

theorem keep_pokeOps  (h_qe : UpQe P) (h_cx : UpCx P) (h_pm : UpPm P) (h_ae : UpAe P) (h_bb : UpBb P) (h_tm : UpTm P) (h_pf : UpPf P) (h_ft : UpFt P) (h_cf : UpCf P) (h_out : UpOut P) (hR : UpR P) (hW : UpW P) (hZ : UpZ P) (h : Keep P s) : Keep P (pokeOps s) := by
  unfold pokeOps
  repeat' first
    | with_reducible assumption
    | with_reducible refine keep_runOp h_qe h_cx h_pm h_ae h_bb h_tm h_pf h_ft h_cf h_out hR hW hZ ?_
    | with_reducible refine keep_foldl (fun _ _ _ => ?_) ?_

theorem keep_acceptOp {a2 : Bytes} {a3 : Bytes} {a4 : Nat} (h_qe : UpQe P) (h_cx : UpCx P) (h_pm : UpPm P) (h_ae : UpAe P) (h_bb : UpBb P) (h_tm : UpTm P) (h_pf : UpPf P) (h_ft : UpFt P) (h_cf : UpCf P) (h_out : UpOut P) (hR : UpR P) (hW : UpW P) (hZ : UpZ P) (h : Keep P s) : Keep P (acceptOp s a2 a3 a4) := by
  unfold acceptOp
  repeat' first
    | with_reducible assumption
    | with_reducible refine keep_runOp h_qe h_cx h_pm h_ae h_bb h_tm h_pf h_ft h_cf h_out hR hW hZ ?_
    | with_reducible refine keep_finishOp h_qe h_pm h_ae h_tm h_ft h_cf h_out hR hW ?_
    | with_reducible refine keep_updOp h_ae ?_
    | with_reducible refine keep_acceptOn h_pm hW ?_
    | with_reducible refine keepOptP_eq (keep_walkStart h_pm ?_) (by assumption)
    | with_reducible refine keep_waitWalker h_pm ?_
    | fail_if_no_progress with_reducible refine keep_up_ae h_ae (keep_eta ?_)
    | (extract_lets -underBinder -merge -useContext +onlyGivenNames x; with_reducible refine keep_cut (s := x) ?_ ?_; (on_goal 1 => unfold x); (on_goal 2 => (clear_value x; intro _)))
    | (extract_lets -underBinder -merge -useContext +onlyGivenNames x; clear_value x)
    | split

theorem keep_takeOp {a2 : Bytes} {a3 : Nat} (h_qe : UpQe P) (h_cx : UpCx P) (h_pm : UpPm P) (h_ae : UpAe P) (h_bb : UpBb P) (h_tm : UpTm P) (h_pf : UpPf P) (h_ft : UpFt P) (h_cf : UpCf P) (h_out : UpOut P) (hR : UpR P) (hW : UpW P) (hZ : UpZ P) (h : Keep P s) : Keep P (takeOp s a2 a3) := by
  unfold takeOp
  repeat' first
    | with_reducible assumption
    | with_reducible refine keep_acceptOp h_qe h_cx h_pm h_ae h_bb h_tm h_pf h_ft h_cf h_out hR hW hZ ?_
    | with_reducible refine keep_waitSlot h_ae ?_
    | with_reducible refine keep_holdMsg h_ae ?_
    | with_reducible refine keep_takeMsg h_ae ?_
    | with_reducible refine keepStage_eq (keep_stage2 h_qe h_cx h_pm h_pf h_cf h_out hR ?_) (by assumption)
    | with_reducible refine keepStage_eqs (keep_stage2 h_qe h_cx h_pm h_pf h_cf h_out hR ?_) (by assumption)
    | with_reducible refine keep_refuseMsg h_qe h_ft h_out hR ?_
    | with_reducible refine keep_startZeroing h_cx hZ ?_
    | (extract_lets -underBinder -merge -useContext +onlyGivenNames x; with_reducible refine keep_cut (s := x) ?_ ?_; (on_goal 1 => unfold x); (on_goal 2 => (clear_value x; intro _)))
    | split

theorem keep_execAppend {a1 : Bytes} {a2 : Reads} (h_qe : UpQe P) (h_cx : UpCx P) (h_pm : UpPm P) (h_ae : UpAe P) (h_bb : UpBb P) (h_tm : UpTm P) (h_pf : UpPf P) (h_ft : UpFt P) (h_cf : UpCf P) (h_out : UpOut P) (hR : UpR P) (hW : UpW P) (hZ : UpZ P) (h : Keep P s) : KeepOut P (execAppend a1 a2 s) := by
  unfold execAppend
  repeat' first
    | with_reducible assumption
    | with_reducible refine keepOut_next ?_
    | with_reducible refine keep_takeOp h_qe h_cx h_pm h_ae h_bb h_tm h_pf h_ft h_cf h_out hR hW hZ ?_
    | with_reducible refine keep_withMsg h_qe h_ae h_ft h_out hR ?_ ?_
    | with_reducible refine keep_takeReads h_qe h_tm h_cf h_out hR ?_
    | with_reducible intro _

theorem keep_execRefill {a1 : Bytes} {a2 : Reads} (h_qe : UpQe P) (h_cx : UpCx P) (h_pm : UpPm P) (h_ae : UpAe P) (h_bb : UpBb P) (h_tm : UpTm P) (h_pf : UpPf P) (h_ft : UpFt P) (h_cf : UpCf P) (h_out : UpOut P) (hR : UpR P) (hW : UpW P) (hZ : UpZ P) (h : Keep P s) : KeepOut P (execRefill a1 a2 s) := by
  unfold execRefill
  repeat' first
    | with_reducible assumption
    | with_reducible refine keepOut_next ?_
    | with_reducible refine keep_takeOp h_qe h_cx h_pm h_ae h_bb h_tm h_pf h_ft h_cf h_out hR hW hZ ?_
    | with_reducible refine keep_withMsg h_qe h_ae h_ft h_out hR ?_ ?_
    | with_reducible refine keep_takeReads h_qe h_tm h_cf h_out hR ?_
    | with_reducible intro _

theorem keep_execPageOpWaitEnd  (h_qe : UpQe P) (h_cx : UpCx P) (h_pm : UpPm P) (h_ae : UpAe P) (h_bb : UpBb P) (h_tm : UpTm P) (h_pf : UpPf P) (h_ft : UpFt P) (h_cf : UpCf P) (h_out : UpOut P) (hR : UpR P) (hW : UpW P) (hZ : UpZ P) (h : Keep P s) : KeepOut P (execPageOpWaitEnd s) := by
  unfold execPageOpWaitEnd
  repeat' first
    | with_reducible assumption
    | with_reducible refine keepOut_next ?_
    | with_reducible refine keep_runOp h_qe h_cx h_pm h_ae h_bb h_tm h_pf h_ft h_cf h_out hR hW hZ ?_
    | with_reducible refine keep_live ?_ ?_
    | with_reducible refine keep_foldl (fun _ _ _ => ?_) ?_
    | with_reducible intro _

theorem keep_execAttnSlotFree  (h_qe : UpQe P) (h_cx : UpCx P) (h_pm : UpPm P) (h_ae : UpAe P) (h_bb : UpBb P) (h_ac : UpAc P) (h_tm : UpTm P) (h_pf : UpPf P) (h_ft : UpFt P) (h_cf : UpCf P) (h_out : UpOut P) (hR : UpR P) (hW : UpW P) (hZ : UpZ P) (h : Keep P s) : KeepOut P (execAttnSlotFree s) := by
  unfold execAttnSlotFree
  repeat' first
    | with_reducible assumption
    | with_reducible refine keepOut_next ?_
    | with_reducible refine keep_takeOp h_qe h_cx h_pm h_ae h_bb h_tm h_pf h_ft h_cf h_out hR hW hZ ?_
    | with_reducible refine keep_takeAttend h_qe h_cx h_pm h_ae h_bb h_ac h_tm h_pf h_ft h_cf h_out hR hW hZ ?_
    | with_reducible refine keep_live ?_ ?_
    | with_reducible refine keep_bumpR hR ?_
    | fail_if_no_progress with_reducible refine keep_up_ae h_ae (keep_eta ?_)
    | split
    | with_reducible intro _

theorem keep_execWalkerSlotGrant  (h_qe : UpQe P) (h_cx : UpCx P) (h_pm : UpPm P) (h_ae : UpAe P) (h_bb : UpBb P) (h_tm : UpTm P) (h_pf : UpPf P) (h_ft : UpFt P) (h_cf : UpCf P) (h_out : UpOut P) (hR : UpR P) (hW : UpW P) (hZ : UpZ P) (h : Keep P s) : KeepOut P (execWalkerSlotGrant s) := by
  unfold execWalkerSlotGrant
  repeat' first
    | with_reducible assumption
    | with_reducible refine keepOut_next ?_
    | with_reducible refine keep_runOp h_qe h_cx h_pm h_ae h_bb h_tm h_pf h_ft h_cf h_out hR hW hZ ?_
    | with_reducible refine keep_updOp h_ae ?_
    | with_reducible refine keep_startWalk h_qe h_pm h_ae h_bb h_tm h_pf h_out hR ?_
    | with_reducible refine keep_startMove h_qe h_cx h_pm h_ae h_tm h_pf h_cf h_out hR hW ?_
    | with_reducible refine keep_pokeRetires h_qe h_cx h_pm h_tm h_pf h_cf h_out hR hW ?_
    | with_reducible refine keepOptP_eq (keep_walkStart h_pm ?_) (by assumption)
    | with_reducible refine keep_live ?_ ?_
    | with_reducible refine keep_bumpR hR ?_
    | fail_if_no_progress with_reducible refine keep_up_pm h_pm (keep_eta ?_)
    | (extract_lets -underBinder -merge -useContext +onlyGivenNames x; with_reducible refine keep_cut (s := x) ?_ ?_; (on_goal 1 => unfold x); (on_goal 2 => (clear_value x; intro _)))
    | (extract_lets -underBinder -merge -useContext +onlyGivenNames x; clear_value x)
    | split
    | with_reducible intro _

theorem keep_releasePage {a2 : Nat} (h_qe : UpQe P) (h_cx : UpCx P) (h_pm : UpPm P) (h_ae : UpAe P) (h_bb : UpBb P) (h_tm : UpTm P) (h_pf : UpPf P) (h_ft : UpFt P) (h_cf : UpCf P) (h_out : UpOut P) (hR : UpR P) (hW : UpW P) (hZ : UpZ P) (h : Keep P s) : Keep P (releasePage s a2) := by
  unfold releasePage
  repeat' first
    | with_reducible assumption
    | with_reducible refine keep_pokeOps h_qe h_cx h_pm h_ae h_bb h_tm h_pf h_ft h_cf h_out hR hW hZ ?_
    | with_reducible refine keep_placeMove h_qe h_cx h_pm h_ae h_tm h_pf h_cf h_out hR hW ?_
    | with_reducible refine keepEdit_eq (keep_editPage h_qe h_pm h_tm h_out hR hW ?_) (by assumption)
    | with_reducible refine keep_checkMove h_qe h_cx h_pm h_ae h_tm h_pf h_out hR ?_
    | with_reducible refine keep_waitEdit h_qe h_pm h_out hR ?_
    | with_reducible refine keep_entryFailed h_qe h_cx h_pm h_pf h_cf h_out hR ?_
    | fail_if_no_progress with_reducible refine keep_up_pm h_pm (keep_eta ?_)
    | fail_if_no_progress with_reducible refine keep_up_ae h_ae (keep_eta ?_)
    | with_reducible refine keep_foldl (fun _ _ _ => ?_) ?_
    | (extract_lets -underBinder -merge -useContext +onlyGivenNames x; have := (fun (_ : _ → _) => trivial) x; unfold x; clear this x; beta_reduce)
    | split

theorem keep_execEditWaitEnd  (h_qe : UpQe P) (h_cx : UpCx P) (h_pm : UpPm P) (h_ae : UpAe P) (h_bb : UpBb P) (h_tm : UpTm P) (h_pf : UpPf P) (h_ft : UpFt P) (h_cf : UpCf P) (h_out : UpOut P) (hR : UpR P) (hW : UpW P) (hZ : UpZ P) (h : Keep P s) : KeepOut P (execEditWaitEnd s) := by
  unfold execEditWaitEnd
  repeat' first
    | with_reducible assumption
    | with_reducible refine keepOut_next ?_
    | with_reducible refine keep_releasePage h_qe h_cx h_pm h_ae h_bb h_tm h_pf h_ft h_cf h_out hR hW hZ ?_
    | with_reducible refine keep_runOp h_qe h_cx h_pm h_ae h_bb h_tm h_pf h_ft h_cf h_out hR hW hZ ?_
    | with_reducible refine keep_flipAgain h_qe h_cx h_pm h_tm h_pf h_cf h_out hR hW ?_
    | with_reducible refine keep_commitMove h_qe h_cx h_pm h_ae h_tm h_pf h_cf h_out hR hW ?_
    | with_reducible refine keep_startMove h_qe h_cx h_pm h_ae h_tm h_pf h_cf h_out hR hW ?_
    | with_reducible refine keep_pokeRetires h_qe h_cx h_pm h_tm h_pf h_cf h_out hR hW ?_
    | with_reducible refine keep_live ?_ ?_
    | with_reducible refine keep_bumpR hR ?_
    | fail_if_no_progress with_reducible refine keep_up_pm h_pm (keep_eta ?_)
    | (extract_lets -underBinder -merge -useContext +onlyGivenNames x; with_reducible refine keep_cut (s := x) ?_ ?_; (on_goal 1 => unfold x); (on_goal 2 => (clear_value x; intro _)))
    | (extract_lets -underBinder -merge -useContext +onlyGivenNames x; clear_value x)
    | split
    | with_reducible intro _

theorem keep_execBankGrant {a1 : Nat} (h_qe : UpQe P) (h_cx : UpCx P) (h_pm : UpPm P) (h_ae : UpAe P) (h_bb : UpBb P) (h_tm : UpTm P) (h_pf : UpPf P) (h_ft : UpFt P) (h_cf : UpCf P) (h_out : UpOut P) (hR : UpR P) (hW : UpW P) (hZ : UpZ P) (h : Keep P s) : KeepOut P (execBankGrant a1 s) := by
  unfold execBankGrant
  repeat' first
    | with_reducible assumption
    | with_reducible refine keepOut_next ?_
    | with_reducible refine keep_pokeOps h_qe h_cx h_pm h_ae h_bb h_tm h_pf h_ft h_cf h_out hR hW hZ ?_
    | with_reducible refine keep_releaseOldest h_qe h_pm h_out hR ?_
    | with_reducible refine keep_updGrant h_pm ?_
    | with_reducible refine keep_live ?_ ?_
    | split
    | with_reducible intro _

theorem keep_execBankReleaseAck {a1 : Nat} (h_qe : UpQe P) (h_cx : UpCx P) (h_pm : UpPm P) (h_ae : UpAe P) (h_bb : UpBb P) (h_tm : UpTm P) (h_pf : UpPf P) (h_ft : UpFt P) (h_cf : UpCf P) (h_out : UpOut P) (hR : UpR P) (hW : UpW P) (hZ : UpZ P) (h : Keep P s) : KeepOut P (execBankReleaseAck a1 s) := by
  unfold execBankReleaseAck
  repeat' first
    | with_reducible assumption
    | with_reducible refine keepOut_next ?_
    | with_reducible refine keep_releasePage h_qe h_cx h_pm h_ae h_bb h_tm h_pf h_ft h_cf h_out hR hW hZ ?_
    | with_reducible refine keep_updGrant h_pm ?_
    | with_reducible refine keep_pokeRetires h_qe h_cx h_pm h_tm h_pf h_cf h_out hR hW ?_
    | with_reducible refine keep_live ?_ ?_
    | split
    | with_reducible intro _

/-! ### Machine/Threads.lean -/


theorem keep_setWay {a2 : Nat} {a3 : List Host.Cell} (h_ac : UpAc P) (h : Keep P s) : Keep P (setWay s a2 a3) := by
  unfold setWay
  repeat' first
    | with_reducible assumption
    | fail_if_no_progress with_reducible refine keep_up_ac h_ac (keep_eta ?_)

theorem keep_segToMem {a2 : Nat} {a3 : List Host.Cell} (hW : UpW P) (hZ : UpZ P) (h : Keep P s) : Keep P (segToMem s a2 a3) := by
  unfold segToMem
  repeat' first
    | with_reducible assumption
    | with_reducible refine keep_zeroRange hZ ?_
    | with_reducible refine keep_writeByte hW ?_
    | with_reducible refine keep_foldl (fun _ _ _ => ?_) ?_

theorem keep_writeFree {a2 : Nat} {a3 : Nat} (h_draws : UpDraws P) (hW : UpW P) (h : Keep P s) : KeepP P (writeFree s a2 a3) := by
  unfold writeFree
  repeat' first
    | with_reducible assumption
    | with_reducible refine keep_writeMem hW ?_
    | fail_if_no_progress with_reducible refine keep_up_draws h_draws (keep_eta ?_)
    | (extract_lets -underBinder -merge -useContext +onlyGivenNames x; clear_value x)
    | with_reducible refine keepP_mk ?_

theorem keep_updJob {a2 : Nat} {a3 : Job → Job} (h_ac : UpAc P) (h : Keep P s) : Keep P (updJob s a2 a3) := by
  unfold updJob
  repeat' first
    | with_reducible assumption
    | fail_if_no_progress with_reducible refine keep_up_ac h_ac (keep_eta ?_)

theorem keep_updThread {a2 : Nat} {a3 : Nat} {a4 : Thread → Thread} (h_ac : UpAc P) (h : Keep P s) : Keep P (updThread s a2 a3 a4) := by
  unfold updThread
  repeat' first
    | with_reducible assumption
    | with_reducible refine keep_updJob h_ac ?_

theorem keep_setCond {a2 : Nat} {a3 : Nat} {a4 : Cond} (h_ac : UpAc P) (h : Keep P s) : Keep P (setCond s a2 a3 a4) := by
  unfold setCond
  repeat' first
    | with_reducible assumption
    | with_reducible refine keep_updThread h_ac ?_

theorem keep_newTicket {a2 : Nat} {a3 : Nat} {a4 : TicketKind} {a5 : Option Nat} {a6 : Nat} {a7 : Nat} {a8 : Nat} (h_ac : UpAc P) (h : Keep P s) : KeepP P (newTicket s a2 a3 a4 a5 a6 a7 a8) := by
  unfold newTicket
  repeat' first
    | with_reducible assumption
    | with_reducible refine keep_updThread h_ac ?_
    | with_reducible refine keep_updJob h_ac ?_
    | (extract_lets -underBinder -merge -useContext +onlyGivenNames x; with_reducible refine keep_cutA (P := P) (s := x) ?_ ?_; (on_goal 1 => unfold x); (on_goal 2 => (clear_value x; intro _)))
    | (extract_lets -underBinder -merge -useContext +onlyGivenNames x; clear_value x)
    | split
    | with_reducible refine keepP_mk ?_

theorem keep_setTicket {a2 : Nat} {a3 : Nat} {a4 : Nat} {a5 : Nat} (h_ac : UpAc P) (h : Keep P s) : Keep P (setTicket s a2 a3 a4 a5) := by
  unfold setTicket
  repeat' first
    | with_reducible assumption
    | with_reducible refine keep_updThread h_ac ?_

theorem keep_unloadCheck  (h_qe : UpQe P) (h_ac : UpAc P) (hR : UpR P) (h : Keep P s) : Keep P (unloadCheck s) := by
  unfold unloadCheck
  repeat' first
    | with_reducible assumption
    | with_reducible refine keep_finishAll h_qe hR ?_
    | with_reducible refine keep_setB hR ?_
    | with_reducible refine keep_setR hR ?_
    | fail_if_no_progress with_reducible refine keep_up_ac h_ac (keep_eta ?_)
    | (extract_lets -underBinder -merge -useContext +onlyGivenNames x; with_reducible refine keep_cut (s := x) ?_ ?_; (on_goal 1 => unfold x); (on_goal 2 => (clear_value x; intro _)))
    | (extract_lets -underBinder -merge -useContext +onlyGivenNames x; clear_value x)
    | split

theorem keep_dropTe {a2 : Nat × Nat → Bool} (h_ac : UpAc P) (h : Keep P s) : Keep P (dropTe s a2) := by
  unfold dropTe
  repeat' first
    | with_reducible assumption
    | fail_if_no_progress with_reducible refine keep_up_ac h_ac (keep_eta ?_)

theorem keep_recordJob {a2 : JobRec} (h_ac : UpAc P) (h : Keep P s) : Keep P (recordJob s a2) := by
  unfold recordJob
  repeat' first
    | with_reducible assumption
    | fail_if_no_progress with_reducible refine keep_up_ac h_ac (keep_eta ?_)

theorem keep_endJob {a2 : Nat} {a3 : Nat} {a4 : Nat} {a5 : Nat} {a6 : Nat} {a7 : Nat} (h_qe : UpQe P) (h_ac : UpAc P) (h_tn : UpTn P) (h_lx : UpLx P) (h_out : UpOut P) (hR : UpR P) (h : Keep P s) : Keep P (endJob s a2 a3 a4 a5 a6 a7) := by
  unfold endJob
  repeat' first
    | with_reducible assumption
    | with_reducible refine keep_recordJob h_ac ?_
    | with_reducible refine keep_dropTe h_ac ?_
    | with_reducible refine keep_unloadCheck h_qe h_ac hR ?_
    | with_reducible refine keep_dropWay h_qe h_ac h_tn h_lx h_out hR ?_
    | with_reducible refine keep_finishAll h_qe hR ?_
    | with_reducible refine keep_complete h_qe hR ?_
    | with_reducible refine keep_setF hR ?_
    | fail_if_no_progress with_reducible refine keep_up_ac h_ac (keep_eta ?_)
    | with_reducible refine keep_foldl (fun _ _ _ => ?_) ?_
    | split

theorem keep_trapJob {a2 : Nat} {a3 : Nat} {a4 : Nat} {a5 : Nat} (h_qe : UpQe P) (h_ac : UpAc P) (h_tn : UpTn P) (h_lx : UpLx P) (h_out : UpOut P) (hR : UpR P) (h : Keep P s) : Keep P (trapJob s a2 a3 a4 a5) := by
  unfold trapJob
  repeat' first
    | with_reducible assumption
    | with_reducible refine keep_endJob h_qe h_ac h_tn h_lx h_out hR ?_
    | with_reducible refine keep_raise1 h_qe h_out hR ?_
    | split

theorem keep_writeArea {a2 : Job} (h_ac : UpAc P) (h_draws : UpDraws P) (hW : UpW P) (h : Keep P s) : Keep P (writeArea s a2) := by
  unfold writeArea
  repeat' first
    | with_reducible assumption
    | with_reducible refine keepP_snd (keep_writeFree h_draws hW ?_)
    | fail_if_no_progress with_reducible refine keep_up_ac h_ac (keep_eta ?_)
    | with_reducible refine keep_foldl (fun _ _ _ => ?_) ?_

theorem keep_checkPreempt {a2 : Nat} (h_qe : UpQe P) (h_ac : UpAc P) (h_tn : UpTn P) (h_lx : UpLx P) (h_out : UpOut P) (h_draws : UpDraws P) (hR : UpR P) (hW : UpW P) (h : Keep P s) : Keep P (checkPreempt s a2) := by
  unfold checkPreempt
  repeat' first
    | with_reducible assumption
    | with_reducible refine keep_writeArea h_ac h_draws hW ?_
    | with_reducible refine keep_endJob h_qe h_ac h_tn h_lx h_out hR ?_
    | with_reducible refine keep_updJob h_ac ?_
    | with_reducible refine keep_finishAll h_qe hR ?_
    | (extract_lets -underBinder -merge -useContext +onlyGivenNames x; with_reducible refine keep_cut (s := x) ?_ ?_; (on_goal 1 => unfold x); (on_goal 2 => (clear_value x; intro _)))
    | (extract_lets -underBinder -merge -useContext +onlyGivenNames x; have := (fun (_ : _ → _) => trivial) x; unfold x; clear this x; beta_reduce)
    | split

theorem keep_boundary {a2 : Nat} {a3 : Nat} (h_qe : UpQe P) (h_ac : UpAc P) (h_tn : UpTn P) (h_lx : UpLx P) (h_out : UpOut P) (h_draws : UpDraws P) (hR : UpR P) (hW : UpW P) (hZ : UpZ P) (h : Keep P s) : Keep P (boundary s a2 a3) := by
  unfold boundary
  repeat' first
    | with_reducible assumption
    | with_reducible refine keep_checkPreempt h_qe h_ac h_tn h_lx h_out h_draws hR hW ?_
    | with_reducible refine keep_updThread h_ac ?_
    | with_reducible refine keep_segToMem hW hZ ?_
    | with_reducible refine keep_dropWay h_qe h_ac h_tn h_lx h_out hR ?_
    | split

theorem keep_endThread {a2 : Nat} {a3 : Nat} {a4 : Nat} (h_qe : UpQe P) (h_ac : UpAc P) (h_tn : UpTn P) (h_lx : UpLx P) (h_out : UpOut P) (h_draws : UpDraws P) (hR : UpR P) (hW : UpW P) (h : Keep P s) : Keep P (endThread s a2 a3 a4) := by
  unfold endThread
  repeat' first
    | with_reducible assumption
    | with_reducible refine keep_checkPreempt h_qe h_ac h_tn h_lx h_out h_draws hR hW ?_
    | with_reducible refine keep_dropTe h_ac ?_
    | with_reducible refine keep_updThread h_ac ?_
    | with_reducible refine keep_dropWay h_qe h_ac h_tn h_lx h_out hR ?_
    | split

theorem keep_takeEvent {a2 : Nat} {a3 : Nat} {a4 : Thread} {a5 : Nat} {a6 : Await} {a7 : Nat} (h_qe : UpQe P) (h_ac : UpAc P) (h_tn : UpTn P) (h_lx : UpLx P) (h_out : UpOut P) (h_draws : UpDraws P) (hR : UpR P) (hW : UpW P) (hZ : UpZ P) (h : Keep P s) : Keep P (takeEvent s a2 a3 a4 a5 a6 a7) := by
  unfold takeEvent
  repeat' first
    | with_reducible assumption
    | with_reducible refine keep_boundary h_qe h_ac h_tn h_lx h_out h_draws hR hW hZ ?_
    | with_reducible refine keep_updThread h_ac ?_
    | (extract_lets -underBinder -merge -useContext +onlyGivenNames x; clear_value x)
    | split

theorem keep_freeRecv {a2 : Await} (h_ft : UpFt P) (h : Keep P s) : Keep P (freeRecv s a2) := by
  unfold freeRecv
  repeat' first
    | with_reducible assumption
    | fail_if_no_progress with_reducible refine keep_up_ft h_ft (keep_eta ?_)
    | split

theorem keep_settleThread {a2 : Nat} {a3 : Nat} (h_qe : UpQe P) (h_ac : UpAc P) (h_ft : UpFt P) (h_tn : UpTn P) (h_lx : UpLx P) (h_out : UpOut P) (h_draws : UpDraws P) (hR : UpR P) (hW : UpW P) (hZ : UpZ P) (h : Keep P s) : Keep P (settleThread s a2 a3) := by
  unfold settleThread
  repeat' first
    | with_reducible assumption
    | with_reducible refine keep_freeRecv h_ft ?_
    | with_reducible refine keep_takeEvent h_qe h_ac h_tn h_lx h_out h_draws hR hW hZ ?_
    | with_reducible refine keep_setCond h_ac ?_
    | with_reducible refine keep_updThread h_ac ?_
    | split

theorem keep_beginWait {a2 : Nat} {a3 : Nat} {a4 : Nat} {a5 : Await} (h_qe : UpQe P) (h_ac : UpAc P) (h_ft : UpFt P) (h_tn : UpTn P) (h_lx : UpLx P) (h_out : UpOut P) (h_draws : UpDraws P) (hR : UpR P) (hW : UpW P) (hZ : UpZ P) (h : Keep P s) : Keep P (beginWait s a2 a3 a4 a5) := by
  unfold beginWait
  repeat' first
    | with_reducible assumption
    | with_reducible refine keep_settleThread h_qe h_ac h_ft h_tn h_lx h_out h_draws hR hW hZ ?_
    | with_reducible refine keep_updThread h_ac ?_

/-! ### Machine/Window.lean -/


theorem keep_hostFault {a2 : Nat} (h_qe : UpQe P) (h_pf : UpPf P) (h_cf : UpCf P) (h_out : UpOut P) (hR : UpR P) (h : Keep P s) : Keep P (hostFault s a2) := by
  unfold hostFault
  repeat' first
    | with_reducible assumption
    | with_reducible refine keep_logFailure h_qe h_pf h_cf h_out hR ?_
    | split

theorem keep_noteBad {a2 : Nat} {a3 : Nat} (h_qe : UpQe P) (h_pf : UpPf P) (h_cf : UpCf P) (h_out : UpOut P) (hR : UpR P) (h : Keep P s) : Keep P (noteBad s a2 a3) := by
  unfold noteBad
  repeat' first
    | with_reducible assumption
    | with_reducible refine keep_hostFault h_qe h_pf h_cf h_out hR ?_
    | split

theorem keep_answerRead {a2 : Nat × Nat} (h_qe : UpQe P) (h_pf : UpPf P) (h_cf : UpCf P) (h_out : UpOut P) (hR : UpR P) (h : Keep P s) : Keep P (answerRead s a2) := by
  unfold answerRead
  repeat' first
    | with_reducible assumption
    | with_reducible refine keep_noteBad h_qe h_pf h_cf h_out hR ?_
    | with_reducible refine keep_emit h_out ?_

theorem keep_holdRead {a2 : Nat} {a3 : Nat} (h_bb : UpBb P) (h : Keep P s) : Keep P (holdRead s a2 a3) := by
  unfold holdRead
  repeat' first
    | with_reducible assumption
    | with_reducible refine keep_waitLocks h_bb ?_
    | fail_if_no_progress with_reducible refine keep_up_bb h_bb (keep_eta ?_)

theorem keep_pokeReads  (h_qe : UpQe P) (h_bb : UpBb P) (h_pf : UpPf P) (h_cf : UpCf P) (h_out : UpOut P) (hR : UpR P) (h : Keep P s) : Keep P (pokeReads s) := by
  unfold pokeReads
  repeat' first
    | with_reducible assumption
    | with_reducible refine keep_answerRead h_qe h_pf h_cf h_out hR ?_
    | fail_if_no_progress with_reducible refine keep_up_bb h_bb (keep_eta ?_)
    | with_reducible refine keep_foldl (fun _ _ _ => ?_) ?_

/-! ### Machine/Split.lean -/


theorem keep_splitWrite {a2 : TestOp} (h_tm : UpTm P) (hW : UpW P) (h : Keep P s) : Keep P (splitWrite s a2) := by
  unfold splitWrite
  repeat' first
    | with_reducible assumption
    | with_reducible refine keep_slotWrite h_tm hW ?_
    | (extract_lets -underBinder -merge -useContext +onlyGivenNames x; with_reducible refine keep_cut (s := x) ?_ ?_; (on_goal 1 => unfold x); (on_goal 2 => (clear_value x; intro _)))
    | (extract_lets -underBinder -merge -useContext +onlyGivenNames x; clear_value x)
    | split

theorem keep_testRead {a2 : TestOp} (hR : UpR P) (h : Keep P s) : Keep P (testRead s a2) := by
  unfold testRead
  repeat' first
    | with_reducible assumption
    | with_reducible refine keep_setF hR ?_
    | with_reducible refine keep_setR hR ?_
    | with_reducible refine keep_foldl (fun _ _ _ => ?_) ?_

theorem keep_runTest {a2 : TestOp} (h_qe : UpQe P) (h_bb : UpBb P) (h_tm : UpTm P) (h_pf : UpPf P) (h_cf : UpCf P) (h_out : UpOut P) (hR : UpR P) (hW : UpW P) (h : Keep P s) : Keep P (runTest s a2) := by
  unfold runTest
  repeat' first
    | with_reducible assumption
    | with_reducible refine keep_testRead hR ?_
    | with_reducible refine keep_splitWrite h_tm hW ?_
    | with_reducible refine keep_waitLocks h_bb ?_
    | with_reducible refine keep_logFailure h_qe h_pf h_cf h_out hR ?_
    | with_reducible refine keep_setB hR ?_
    | with_reducible refine keep_setF hR ?_
    | fail_if_no_progress with_reducible refine keep_up_pf h_pf (keep_eta ?_)
    | (extract_lets -underBinder -merge -useContext +onlyGivenNames x; with_reducible refine keep_cut (s := x) ?_ ?_; (on_goal 1 => unfold x); (on_goal 2 => (clear_value x; intro _)))
    | (extract_lets -underBinder -merge -useContext +onlyGivenNames x; clear_value x)
    | split

theorem keep_pokeTest  (h_qe : UpQe P) (h_bb : UpBb P) (h_tm : UpTm P) (h_pf : UpPf P) (h_cf : UpCf P) (h_out : UpOut P) (hR : UpR P) (hW : UpW P) (h : Keep P s) : Keep P (pokeTest s) := by
  unfold pokeTest
  repeat' first
    | with_reducible assumption
    | with_reducible refine keep_runTest h_qe h_bb h_tm h_pf h_cf h_out hR hW ?_
    | with_reducible refine keep_pokeReads h_qe h_bb h_pf h_cf h_out hR ?_
    | (extract_lets -underBinder -merge -useContext +onlyGivenNames x; with_reducible refine keep_cut (s := x) ?_ ?_; (on_goal 1 => unfold x); (on_goal 2 => (clear_value x; intro _)))
    | split

theorem keep_startTest {a2 : Nat} (h_qe : UpQe P) (h_bb : UpBb P) (h_tm : UpTm P) (h_pf : UpPf P) (h_cf : UpCf P) (h_out : UpOut P) (hR : UpR P) (hW : UpW P) (h : Keep P s) : Keep P (startTest s a2) := by
  unfold startTest
  repeat' first
    | with_reducible assumption
    | with_reducible refine keep_runTest h_qe h_bb h_tm h_pf h_cf h_out hR hW ?_
    | with_reducible refine keep_setF hR ?_
    | (extract_lets -underBinder -merge -useContext +onlyGivenNames x; have := (fun (_ : _ → _) => trivial) x; unfold x; clear this x; beta_reduce)
    | (extract_lets -underBinder -merge -useContext +onlyGivenNames x; clear_value x)
    | split

end Sys2Proof.Machine
end

