-- ==== Sys2Proof/Laws/KeepBank.lean ====
section
/-!
SUPPORT. KeepBank.lean: what the definitions of Machine/Bank.lean, Machine/Te.lean, Machine/Layers.lean, Machine/BankCmds.lean keep (see Keep.lean).
-/

set_option linter.unusedTactic false
set_option linter.unreachableTactic false
set_option linter.unusedVariables false
set_option linter.tactic.unusedName false
set_option maxRecDepth 20000

namespace Sys2Proof.Machine

variable {P : State → Prop} {s : State}

/-! ### Machine/Bank.lean -/


theorem keep_bauFailed {a2 : Nat} {a3 : Failure} (h_qe : UpQe P) (h_pf : UpPf P) (h_cf : UpCf P) (h_out : UpOut P) (hR : UpR P) (h : Keep P s) : KeepBau P (bauFailed s a2 a3) := by
  unfold bauFailed
  repeat' first
    | with_reducible assumption
    | with_reducible refine keepBau_mk ?_
    | with_reducible refine keep_pageFailedAt h_qe h_pf h_cf h_out hR ?_

theorem keep_bauGloss {a2 : Nat} {a3 : Bytes} {a4 : Nat} {a5 : Nat} (h_qe : UpQe P) (h_pf : UpPf P) (h_cf : UpCf P) (h_out : UpOut P) (hR : UpR P) (h : Keep P s) : KeepBauE P (bauGloss s a2 a3 a4 a5) := by
  induction a5 generalizing s a2 a3 a4 with
  | zero =>
    rw [bauGloss]
    repeat' first
      | with_reducible assumption
      | with_reducible refine keepBauE_eq (ih ?_) (by assumption)
      | with_reducible exact keepBauE_ok
      | with_reducible refine keepBauE_error ?_
      | with_reducible refine keep_bauFailed h_qe h_pf h_cf h_out hR ?_
      | split
  | succ _ ih =>
    rw [bauGloss]
    repeat' first
      | with_reducible assumption
      | with_reducible refine keepBauE_eq (ih ?_) (by assumption)
      | with_reducible exact keepBauE_ok
      | with_reducible refine keepBauE_error ?_
      | with_reducible refine keep_bauFailed h_qe h_pf h_cf h_out hR ?_
      | split

theorem keep_bauAttend {a2 : Nat} {a3 : Bytes} (h_qe : UpQe P) (h_pf : UpPf P) (h_cf : UpCf P) (h_out : UpOut P) (hR : UpR P) (h : Keep P s) : KeepBau P (bauAttend s a2 a3) := by
  unfold bauAttend
  repeat' first
    | with_reducible assumption
    | with_reducible refine keepBau_mk ?_
    | with_reducible refine keepBau_s (keep_bauFailed h_qe h_pf h_cf h_out hR ?_)
    | split

theorem keep_writeRefused {a2 : Nat} (h_qe : UpQe P) (h_out : UpOut P) (hR : UpR P) (h : Keep P s) : KeepBau P (writeRefused s a2) := by
  unfold writeRefused
  repeat' first
    | with_reducible assumption
    | with_reducible refine keepBau_mk ?_
    | with_reducible refine keep_raise1 h_qe h_out hR ?_

theorem keep_wrote {a2 : Nat} {a3 : Nat} (h_pm : UpPm P) (hW : UpW P) (h : Keep P s) : Keep P (wrote s a2 a3) := by
  unfold wrote
  repeat' first
    | with_reducible assumption
    | with_reducible refine keep_updGrant h_pm ?_
    | with_reducible refine keep_raiseValid hW ?_
    | split

theorem keep_appendOne {a2 : Nat} {a3 : Bytes} {a4 : Bytes} {a5 : Nat} (h_qe : UpQe P) (h_tm : UpTm P) (h_pf : UpPf P) (h_cf : UpCf P) (h_out : UpOut P) (hR : UpR P) (hW : UpW P) (h : Keep P s) : KeepBauS P (appendOne s a2 a3 a4 a5) := by
  unfold appendOne
  repeat' first
    | with_reducible assumption
    | with_reducible refine keepBauS_ok ?_
    | with_reducible refine keepBauS_error ?_
    | with_reducible refine keep_bauFailed h_qe h_pf h_cf h_out hR ?_
    | with_reducible refine keep_putRows h_tm hW ?_
    | (extract_lets -underBinder -merge -useContext +onlyGivenNames x; clear_value x)
    | split
    | with_reducible refine keepBau_mk ?_

theorem keep_appendMany {a2 : Nat} {a3 : Bytes} {a4 : Bytes} {a5 : Nat} {a6 : Nat} (h_qe : UpQe P) (h_tm : UpTm P) (h_pf : UpPf P) (h_cf : UpCf P) (h_out : UpOut P) (hR : UpR P) (hW : UpW P) (h : Keep P s) : KeepBauS P (appendMany s a2 a3 a4 a5 a6) := by
  induction a6 generalizing s a2 a3 a4 a5 with
  | zero =>
    rw [appendMany]
    repeat' first
      | with_reducible assumption
      | with_reducible apply ih
      | with_reducible refine keepBauS_ok ?_
      | with_reducible refine keepBauS_error ?_
      | with_reducible refine keepBauS_eq (keep_appendOne h_qe h_tm h_pf h_cf h_out hR hW ?_) (by assumption)
      | with_reducible refine keepBauS_err (keep_appendOne h_qe h_tm h_pf h_cf h_out hR hW ?_) (by assumption)
      | split
  | succ _ ih =>
    rw [appendMany]
    repeat' first
      | with_reducible assumption
      | with_reducible apply ih
      | with_reducible refine keepBauS_ok ?_
      | with_reducible refine keepBauS_error ?_
      | with_reducible refine keepBauS_eq (keep_appendOne h_qe h_tm h_pf h_cf h_out hR hW ?_) (by assumption)
      | with_reducible refine keepBauS_err (keep_appendOne h_qe h_tm h_pf h_cf h_out hR hW ?_) (by assumption)
      | split

theorem keep_bauAppend {a2 : Nat} {a3 : BauEntry} (h_qe : UpQe P) (h_pm : UpPm P) (h_tm : UpTm P) (h_pf : UpPf P) (h_cf : UpCf P) (h_out : UpOut P) (hR : UpR P) (hW : UpW P) (h : Keep P s) : KeepBau P (bauAppend s a2 a3) := by
  unfold bauAppend
  extract_lets w h' left n
  have hm := keep_appendMany h_qe h_tm h_pf h_cf h_out hR hW (a2 := a2) (a3 := w) (a4 := a3.arg) (a5 := a3.rows) (a6 := n) h
  split
  · exact keepBauS_err hm (by assumption)
  · have h2 := keepBauS_eq hm (by assumption)
    split
    · exact keep_writeRefused h_qe h_out hR h2
    · extract_lets v
      exact keepBau_mk (keep_wrote h_pm hW h2)

theorem keep_bauRequantPage {a2 : Nat} {a3 : Bytes} {a4 : Bytes} {a5 : Option Nat} (h_qe : UpQe P) (h_pm : UpPm P) (h_tm : UpTm P) (h_pf : UpPf P) (h_cf : UpCf P) (h_out : UpOut P) (hR : UpR P) (hW : UpW P) (h : Keep P s) : KeepBau P (bauRequantPage s a2 a3 a4 a5) := by
  unfold bauRequantPage
  repeat' first
    | with_reducible assumption
    | with_reducible refine keepBau_mk ?_
    | with_reducible refine keep_wrote h_pm hW ?_
    | with_reducible refine keepBau_s (keep_writeRefused h_qe h_out hR ?_)
    | with_reducible refine keepBau_s (keep_bauFailed h_qe h_pf h_cf h_out hR ?_)
    | with_reducible refine keep_slotWrite h_tm hW ?_
    | (extract_lets -underBinder -merge -useContext +onlyGivenNames x; with_reducible refine keep_cut (s := x) ?_ ?_; (on_goal 1 => unfold x); (on_goal 2 => (clear_value x; intro _)))
    | (extract_lets -underBinder -merge -useContext +onlyGivenNames x; have := (fun (_ : _ → _) => trivial) x; unfold x; clear this x; beta_reduce)
    | (extract_lets -underBinder -merge -useContext +onlyGivenNames x; clear_value x)
    | split

theorem keep_bauEffect {a2 : Nat} {a3 : BauEntry} (h_qe : UpQe P) (h_pm : UpPm P) (h_tm : UpTm P) (h_pf : UpPf P) (h_cf : UpCf P) (h_out : UpOut P) (hR : UpR P) (hW : UpW P) (hZ : UpZ P) (h : Keep P s) : KeepBau P (bauEffect s a2 a3) := by
  unfold bauEffect
  extract_lets w a op n at16
  split
  · split
    · exact keepBau_mk h
    · exact keepBauE_eq (keep_bauGloss h_qe h_pf h_cf h_out hR h) (by assumption)
  · split
    · exact keep_bauAttend h_qe h_pf h_cf h_out hR h
    · split
      · exact keep_bauAppend h_qe h_pm h_tm h_pf h_cf h_out hR hW h
      · split
        · split
          · exact keep_bauRequantPage h_qe h_pm h_tm h_pf h_cf h_out hR hW h
          · exact keepBau_mk (keep_writeMem hW h)
        · split
          · exact keepBau_mk (keep_writeMem hW h)
          · split
            · exact keepBau_mk (keep_writeMem hW h)
            · split
              · split
                · exact keepBau_mk (keep_writeMem hW h)
                · exact keepBau_mk h
              · exact keepBau_mk (keep_zeroWhere hZ h)

theorem keep_putResult {a2 : Nat} {a3 : Nat} {a4 : Bytes} (hW : UpW P) (h : Keep P s) : Keep P (putResult s a2 a3 a4) := by
  unfold putResult
  repeat' first
    | with_reducible assumption
    | with_reducible refine keep_writeByte hW ?_
    | with_reducible refine keep_foldl (fun _ _ _ => ?_) ?_
    | split

theorem keep_bauReply {a2 : BauCmd} {a3 : Nat} {a4 : Nat} {a5 : Nat} {a6 : Nat} {a7 : Bytes} (h_ac : UpAc P) (h_out : UpOut P) (hW : UpW P) (h : Keep P s) : Keep P (bauReply s a2 a3 a4 a5 a6 a7) := by
  unfold bauReply
  repeat' first
    | with_reducible assumption
    | with_reducible refine keep_putResult hW ?_
    | with_reducible refine keep_setTicket h_ac ?_
    | with_reducible refine keep_emit h_out ?_
    | split

theorem keep_enterQueue {a2 : BauCmd} {a3 : Nat} (h_bb : UpBb P) (h_ac : UpAc P) (h_out : UpOut P) (hW : UpW P) (h : Keep P s) : Keep P (enterQueue s a2 a3) := by
  unfold enterQueue
  repeat' first
    | with_reducible assumption
    | with_reducible refine keep_bauReply h_ac h_out hW ?_
    | with_reducible refine keep_updBbd h_bb ?_
    | split

theorem keep_admitItems {a1 : Nat} {a2 : List BbdItem} {a3 : List BbdItem} (h_bb : UpBb P) (h_ac : UpAc P) (h_out : UpOut P) (hW : UpW P) (h : Keep P s) : Keep P (admitItems a1 a2 a3 s) := by
  induction a2 generalizing s a3 with
  | nil => unfold admitItems; exact keep_updBbd h_bb h
  | cons it r ih =>
    unfold admitItems
    split
    · exact ih h
    · split
      · refine ih ?_
        split
        · exact keep_updBbd h_bb h
        · exact h
      · exact ih (keep_enterQueue h_bb h_ac h_out hW h)
      · exact ih (keep_enterWork h_bb h)

theorem keep_cmdFails {a2 : Nat} {a3 : BauCmd} {a4 : Nat} {a5 : Bytes} (h_qe : UpQe P) (h_ac : UpAc P) (h_pf : UpPf P) (h_cf : UpCf P) (h_out : UpOut P) (hR : UpR P) (hW : UpW P) (h : Keep P s) : Keep P (cmdFails s a2 a3 a4 a5) := by
  unfold cmdFails
  repeat' first
    | with_reducible assumption
    | with_reducible refine keep_bauReply h_ac h_out hW ?_
    | with_reducible refine keep_logFailure h_qe h_pf h_cf h_out hR ?_

theorem keep_dropLocks {a2 : Nat} (h_bb : UpBb P) (hR : UpR P) (h : Keep P s) : Keep P (dropLocks s a2) := by
  unfold dropLocks
  repeat' first
    | with_reducible assumption
    | with_reducible refine keep_setBbd h_bb ?_
    | with_reducible refine keep_bumpR hR ?_

theorem keep_leaveRequant {a2 : BauEntry} (h_pm : UpPm P) (hR : UpR P) (h : Keep P s) : Keep P (leaveRequant s a2) := by
  unfold leaveRequant
  repeat' first
    | with_reducible assumption
    | with_reducible refine keep_leaveEdit h_pm hR ?_
    | split

theorem keep_bbdFails {a2 : Nat} (h_qe : UpQe P) (h_cx : UpCx P) (h_pm : UpPm P) (h_ae : UpAe P) (h_bb : UpBb P) (h_ac : UpAc P) (h_tm : UpTm P) (h_pf : UpPf P) (h_cf : UpCf P) (h_out : UpOut P) (hR : UpR P) (hW : UpW P) (h : Keep P s) : Keep P (bbdFails s a2) := by
  unfold bbdFails
  repeat' first
    | with_reducible assumption
    | with_reducible refine keep_leaveRequant h_pm hR ?_
    | with_reducible refine keep_dropLocks h_bb hR ?_
    | with_reducible refine keep_cmdFails h_qe h_ac h_pf h_cf h_out hR hW ?_
    | with_reducible refine keep_pokeTest h_qe h_bb h_tm h_pf h_cf h_out hR hW ?_
    | with_reducible refine keep_workReturned h_qe h_cx h_pm h_ae h_bb h_pf h_cf h_out hR ?_
    | with_reducible refine keep_updBbd h_bb ?_
    | with_reducible refine keep_foldl (fun _ _ _ => ?_) ?_
    | split

theorem keep_pokeBbd {a2 : Nat} (h_qe : UpQe P) (h_cx : UpCx P) (h_pm : UpPm P) (h_ae : UpAe P) (h_bb : UpBb P) (h_ac : UpAc P) (h_tm : UpTm P) (h_pf : UpPf P) (h_cf : UpCf P) (h_out : UpOut P) (hR : UpR P) (hW : UpW P) (h : Keep P s) : Keep P (pokeBbd s a2) := by
  unfold pokeBbd
  repeat' first
    | with_reducible assumption
    | with_reducible refine keep_bbdFails h_qe h_cx h_pm h_ae h_bb h_ac h_tm h_pf h_cf h_out hR hW ?_
    | with_reducible refine keep_admitItems h_bb h_ac h_out hW ?_
    | split

theorem keep_arrive {a2 : Nat} {a3 : BbdItem} (h_qe : UpQe P) (h_cx : UpCx P) (h_pm : UpPm P) (h_ae : UpAe P) (h_bb : UpBb P) (h_ac : UpAc P) (h_tm : UpTm P) (h_pf : UpPf P) (h_cf : UpCf P) (h_out : UpOut P) (hR : UpR P) (hW : UpW P) (h : Keep P s) : Keep P (arrive s a2 a3) := by
  unfold arrive
  repeat' first
    | with_reducible assumption
    | with_reducible refine keep_pokeBbd h_qe h_cx h_pm h_ae h_bb h_ac h_tm h_pf h_cf h_out hR hW ?_
    | with_reducible refine keep_updBbd h_bb ?_

theorem keep_flipRequant {a2 : Nat} {a3 : BauEntry} (h_qe : UpQe P) (h_cx : UpCx P) (h_pm : UpPm P) (h_tm : UpTm P) (h_pf : UpPf P) (h_cf : UpCf P) (h_out : UpOut P) (hR : UpR P) (hW : UpW P) (h : Keep P s) : KeepEE P (flipRequant s a2 a3) := by
  unfold flipRequant
  repeat' first
    | with_reducible assumption
    | with_reducible refine keepEE_ok ?_
    | with_reducible refine keepEE_error ?_
    | with_reducible refine keepFlip_eqd (keep_flipToBank h_qe h_cx h_pm h_tm h_pf h_cf h_out hR hW ?_) (by assumption)
    | with_reducible refine keepFlip_eqw (keep_flipToBank h_qe h_cx h_pm h_tm h_pf h_cf h_out hR hW ?_) (by assumption)
    | with_reducible refine keepFlip_eqf (keep_flipToBank h_qe h_cx h_pm h_tm h_pf h_cf h_out hR hW ?_) (by assumption)
    | (extract_lets -underBinder -merge -useContext +onlyGivenNames x; clear_value x)
    | split

theorem keep_countPermits  (h_bb : UpBb P) (h : Keep P s) : Keep P (countPermits s) := by
  unfold countPermits
  repeat' first
    | with_reducible assumption
    | fail_if_no_progress with_reducible refine keep_up_bb h_bb (keep_eta ?_)

theorem keep_startBau {a2 : Nat} {a3 : BauEntry} {a4 : List Nat} (h_bb : UpBb P) (hR : UpR P) (h : Keep P s) : Keep P (startBau s a2 a3 a4) := by
  unfold startBau
  repeat' first
    | with_reducible assumption
    | with_reducible refine keep_updBbd h_bb ?_
    | with_reducible refine keep_bumpR hR ?_

theorem keep_grantOldest {a2 : Nat} (h_qe : UpQe P) (h_cx : UpCx P) (h_pm : UpPm P) (h_bb : UpBb P) (h_tm : UpTm P) (h_pf : UpPf P) (h_cf : UpCf P) (h_out : UpOut P) (hR : UpR P) (hW : UpW P) (h : Keep P s) : Keep P (grantOldest s a2) := by
  unfold grantOldest
  repeat' first
    | with_reducible assumption
    | with_reducible refine keep_startBau h_bb hR ?_
    | with_reducible refine keepEE_eq (keep_flipRequant h_qe h_cx h_pm h_tm h_pf h_cf h_out hR hW ?_) (by assumption)
    | with_reducible refine keepEE_err (keep_flipRequant h_qe h_cx h_pm h_tm h_pf h_cf h_out hR hW ?_) (by assumption)
    | split

theorem keep_setRefresh {a2 : Nat} {a3 : Refresh} (h_bb : UpBb P) (h : Keep P s) : Keep P (setRefresh s a2 a3) := by
  unfold setRefresh
  repeat' first
    | with_reducible assumption
    | fail_if_no_progress with_reducible refine keep_up_bb h_bb (keep_eta ?_)

theorem keep_issueRefreshes {a2 : List Nat} (h_bb : UpBb P) (h : Keep P s) : Keep P (issueRefreshes s a2) := by
  unfold issueRefreshes
  repeat' first
    | with_reducible assumption
    | with_reducible refine keep_setRefresh h_bb ?_
    | with_reducible refine keep_foldl (fun _ _ _ => ?_) ?_
    | split

theorem keep_suppleteBau {a2 : Nat} {a3 : Nat} (h_qe : UpQe P) (h_bb : UpBb P) (h_tn : UpTn P) (h_lx : UpLx P) (h_out : UpOut P) (hR : UpR P) (h : Keep P s) : Keep P (suppleteBau s a2 a3) := by
  unfold suppleteBau
  repeat' first
    | with_reducible assumption
    | with_reducible refine keep_updBbd h_bb ?_
    | with_reducible refine keep_finishAll h_qe hR ?_
    | with_reducible refine keep_commit h_qe h_tn h_out hR ?_
    | fail_if_no_progress with_reducible refine keep_up_tn h_tn (keep_up_lx h_lx (keep_eta ?_))
    | (extract_lets -underBinder -merge -useContext +onlyGivenNames x; with_reducible refine keep_cut (s := x) ?_ ?_; (on_goal 1 => unfold x); (on_goal 2 => (clear_value x; intro _)))
    | (extract_lets -underBinder -merge -useContext +onlyGivenNames x; clear_value x)
    | split

theorem keep_dropLock {a2 : Nat} {a3 : Option Nat} (h_bb : UpBb P) (hR : UpR P) (h : Keep P s) : Keep P (dropLock s a2 a3) := by
  unfold dropLock
  repeat' first
    | with_reducible assumption
    | with_reducible refine keep_updBbd h_bb ?_
    | with_reducible refine keep_bumpR hR ?_
    | split

theorem keep_closeBau {a2 : Nat} {a3 : BauEntry} {a4 : BauEnd} (h_qe : UpQe P) (h_cx : UpCx P) (h_pm : UpPm P) (h_ae : UpAe P) (h_bb : UpBb P) (h_ac : UpAc P) (h_tm : UpTm P) (h_pf : UpPf P) (h_ft : UpFt P) (h_cf : UpCf P) (h_tn : UpTn P) (h_lx : UpLx P) (h_out : UpOut P) (hR : UpR P) (hW : UpW P) (hZ : UpZ P) (h : Keep P s) (ha4 : KeepBau P a4) : Keep P (closeBau s a2 a3 a4) := by
  unfold closeBau
  extract_lets cs s1 s2 s3 s4
  have h1 : Keep P s1 := keep_updBbd h_bb (keep_dropLock h_bb hR (keepBau_s ha4))
  have h2 : Keep P s2 := by
    unfold s2
    split
    · exact keep_workReturned h_qe h_cx h_pm h_ae h_bb h_pf h_cf h_out hR h1
    · exact keep_bauReply h_ac h_out hW h1
  have h3 : Keep P s3 := keep_foldl (fun _ _ hs => keep_suppleteBau h_qe h_bb h_tn h_lx h_out hR hs) (keep_issueRefreshes h_bb h2)
  have h4 : Keep P s4 := keep_pokeTest h_qe h_bb h_tm h_pf h_cf h_out hR hW (keep_pokeBbd h_qe h_cx h_pm h_ae h_bb h_ac h_tm h_pf h_cf h_out hR hW h3)
  split
  · exact keep_pokeOps h_qe h_cx h_pm h_ae h_bb h_tm h_pf h_ft h_cf h_out hR hW hZ h4
  · exact h4

theorem keep_endBau {a2 : Nat} {a3 : BauEntry} (h_qe : UpQe P) (h_cx : UpCx P) (h_pm : UpPm P) (h_ae : UpAe P) (h_bb : UpBb P) (h_ac : UpAc P) (h_tm : UpTm P) (h_pf : UpPf P) (h_ft : UpFt P) (h_cf : UpCf P) (h_tn : UpTn P) (h_lx : UpLx P) (h_out : UpOut P) (hR : UpR P) (hW : UpW P) (hZ : UpZ P) (h : Keep P s) : Keep P (endBau s a2 a3) := by
  unfold endBau
  refine keep_closeBau h_qe h_cx h_pm h_ae h_bb h_ac h_tm h_pf h_ft h_cf h_tn h_lx h_out hR hW hZ h ?_
  split
  · exact keepBau_mk h
  · exact keep_bauEffect h_qe h_pm h_tm h_pf h_cf h_out hR hW hZ h

theorem keep_updEntry {a2 : Nat} {a3 : Nat} {a4 : BauEntry → BauEntry} (h_bb : UpBb P) (h : Keep P s) : Keep P (updEntry s a2 a3 a4) := by
  unfold updEntry
  repeat' first
    | with_reducible assumption
    | with_reducible refine keep_updBbd h_bb ?_

theorem keep_takeRowLock {a2 : Nat} {a3 : BauEntry} (h_bb : UpBb P) (h : Keep P s) : Keep P (takeRowLock s a2 a3) := by
  unfold takeRowLock
  repeat' first
    | with_reducible assumption
    | with_reducible refine keep_updEntry h_bb ?_
    | with_reducible refine keep_updBbd h_bb ?_
    | split

theorem keep_endRow {a2 : Nat} {a3 : BauEntry} (h_qe : UpQe P) (h_cx : UpCx P) (h_pm : UpPm P) (h_ae : UpAe P) (h_bb : UpBb P) (h_ac : UpAc P) (h_tm : UpTm P) (h_pf : UpPf P) (h_ft : UpFt P) (h_cf : UpCf P) (h_tn : UpTn P) (h_lx : UpLx P) (h_out : UpOut P) (hR : UpR P) (hW : UpW P) (hZ : UpZ P) (h : Keep P s) : Keep P (endRow s a2 a3) := by
  unfold endRow
  repeat' first
    | with_reducible assumption
    | with_reducible refine keep_updEntry h_bb ?_
    | with_reducible refine keep_closeBau h_qe h_cx h_pm h_ae h_bb h_ac h_tm h_pf h_ft h_cf h_tn h_lx h_out hR hW hZ ?_ ?_
    | with_reducible refine keep_dropLock h_bb hR ?_
    | with_reducible refine keepBauS_eq (keep_appendOne h_qe h_tm h_pf h_cf h_out hR hW ?_) (by assumption)
    | with_reducible refine keepBauS_err (keep_appendOne h_qe h_tm h_pf h_cf h_out hR hW ?_) (by assumption)
    | with_reducible refine keep_pokeTest h_qe h_bb h_tm h_pf h_cf h_out hR hW ?_
    | with_reducible refine keep_pokeOps h_qe h_cx h_pm h_ae h_bb h_tm h_pf h_ft h_cf h_out hR hW hZ ?_
    | split

theorem keep_bauReport {a2 : Nat} {a3 : BauEntry} {a4 : BauPhase} (h_qe : UpQe P) (h_cx : UpCx P) (h_pm : UpPm P) (h_ae : UpAe P) (h_bb : UpBb P) (h_ac : UpAc P) (h_tm : UpTm P) (h_pf : UpPf P) (h_ft : UpFt P) (h_cf : UpCf P) (h_tn : UpTn P) (h_lx : UpLx P) (h_out : UpOut P) (hR : UpR P) (hW : UpW P) (hZ : UpZ P) (h : Keep P s) : Keep P (bauReport s a2 a3 a4) := by
  unfold bauReport
  repeat' first
    | with_reducible assumption
    | with_reducible refine keep_endRow h_qe h_cx h_pm h_ae h_bb h_ac h_tm h_pf h_ft h_cf h_tn h_lx h_out hR hW hZ ?_
    | with_reducible refine keep_takeRowLock h_bb ?_
    | with_reducible refine keep_endBau h_qe h_cx h_pm h_ae h_bb h_ac h_tm h_pf h_ft h_cf h_tn h_lx h_out hR hW hZ ?_
    | split

/-! ### Machine/Te.lean -/


theorem keep_setTeQueue {a2 : Nat} {a3 : List TeEntry} (h_ac : UpAc P) (h : Keep P s) : Keep P (setTeQueue s a2 a3) := by
  unfold setTeQueue
  repeat' first
    | with_reducible assumption
    | fail_if_no_progress with_reducible refine keep_up_ac h_ac (keep_eta ?_)

theorem keep_queueTe {a2 : TeEntry} (h_ac : UpAc P) (h : Keep P s) : Keep P (queueTe s a2) := by
  unfold queueTe
  repeat' first
    | with_reducible assumption
    | with_reducible refine keep_setTeQueue h_ac ?_

theorem keep_completeTe {a2 : Nat} (h_ac : UpAc P) (h_out : UpOut P) (h : Keep P s) : Keep P (completeTe s a2) := by
  unfold completeTe
  split
  · exact h
  · rename_i e rest _
    extract_lets way m s1
    have h1 : Keep P s1 := keep_setTeQueue h_ac h
    clear_value s1 m
    split
    rename_i s2 st he
    have h2 : Keep P s2 := by
      refine keepQ_eq ?_ he
      split
      · exact keep_setWay h_ac h1
      · exact h1
    extract_lets s3
    have h3 : Keep P s3 := keep_emit h_out h2
    clear_value s3
    split
    · exact keep_setTicket h_ac h3
    · exact h3

/-! ### Machine/Layers.lean -/


theorem keep_copyFault {a2 : Nat} {a3 : Nat} {a4 : Bytes} {a5 : List (Nat × Nat)} {a6 : Nat} {a7 : Nat} {a8 : Nat} (h_qe : UpQe P) (h_ac : UpAc P) (h_tn : UpTn P) (h_lx : UpLx P) (h_out : UpOut P) (hR : UpR P) (h : Keep P s) : Keep P (copyFault s a2 a3 a4 a5 a6 a7 a8) := by
  unfold copyFault
  repeat' first
    | with_reducible assumption
    | with_reducible refine keep_trapJob h_qe h_ac h_tn h_lx h_out hR ?_
    | split

theorem keep_startCopy {a2 : Nat} {a3 : Nat} {a4 : Nat} {a5 : Nat} {a6 : Nat} (h_ac : UpAc P) (h : Keep P s) : KeepP P (startCopy s a2 a3 a4 a5 a6) := by
  unfold startCopy
  repeat' first
    | with_reducible assumption
    | with_reducible refine keep_newTicket h_ac ?_
    | split
    | with_reducible refine keepP_mk ?_

theorem keep_finishCopy {a2 : Nat} {a3 : Nat} {a4 : Ticket} (h_qe : UpQe P) (h_ac : UpAc P) (h_pf : UpPf P) (h_cf : UpCf P) (h_out : UpOut P) (hR : UpR P) (hW : UpW P) (h : Keep P s) : Keep P (finishCopy s a2 a3 a4) := by
  unfold finishCopy
  repeat' first
    | with_reducible assumption
    | with_reducible refine keep_setTicket h_ac ?_
    | with_reducible refine keep_setWay h_ac ?_
    | with_reducible refine keep_logFailure h_qe h_pf h_cf h_out hR ?_
    | with_reducible refine keep_writeMem hW ?_
    | (extract_lets -underBinder -merge -useContext +onlyGivenNames x; clear_value x)
    | split

theorem keep_issueStep {a2 : Nat} {a3 : Nat} {a4 : Job} {a5 : Thread} {a6 : Bytes} (h_qe : UpQe P) (h_cx : UpCx P) (h_pm : UpPm P) (h_ae : UpAe P) (h_bb : UpBb P) (h_ac : UpAc P) (h_tm : UpTm P) (h_pf : UpPf P) (h_cf : UpCf P) (h_tn : UpTn P) (h_lx : UpLx P) (h_out : UpOut P) (hR : UpR P) (hW : UpW P) (h : Keep P s) : Keep P (issueStep s a2 a3 a4 a5 a6) := by
  unfold issueStep
  repeat' first
    | with_reducible assumption
    | with_reducible refine keepP_snd (keep_startCopy h_ac ?_)
    | with_reducible refine keep_copyFault h_qe h_ac h_tn h_lx h_out hR ?_
    | with_reducible refine keep_queueTe h_ac ?_
    | with_reducible refine keep_arrive h_qe h_cx h_pm h_ae h_bb h_ac h_tm h_pf h_cf h_out hR hW ?_
    | with_reducible refine keepP_snd (keep_newTicket h_ac ?_)
    | (extract_lets -underBinder -merge -useContext +onlyGivenNames x; clear_value x)
    | split

theorem keep_layerRun {a1 : Nat} {a2 : Nat} {a3 : Nat} (h_qe : UpQe P) (h_cx : UpCx P) (h_pm : UpPm P) (h_ae : UpAe P) (h_bb : UpBb P) (h_ac : UpAc P) (h_tm : UpTm P) (h_pf : UpPf P) (h_ft : UpFt P) (h_cf : UpCf P) (h_tn : UpTn P) (h_lx : UpLx P) (h_out : UpOut P) (h_draws : UpDraws P) (hR : UpR P) (hW : UpW P) (hZ : UpZ P) (h : Keep P s) : Keep P (layerRun a1 a2 a3 s) := by
  induction a3 generalizing s a1 a2 with
  | zero =>
    rw [layerRun]
    repeat' first
      | with_reducible assumption
      | with_reducible apply ih
      | with_reducible refine keep_issueStep h_qe h_cx h_pm h_ae h_bb h_ac h_tm h_pf h_cf h_tn h_lx h_out hR hW ?_
      | with_reducible refine keep_beginWait h_qe h_ac h_ft h_tn h_lx h_out h_draws hR hW hZ ?_
      | with_reducible refine keep_endThread h_qe h_ac h_tn h_lx h_out h_draws hR hW ?_
      | with_reducible refine keep_trapJob h_qe h_ac h_tn h_lx h_out hR ?_
      | with_reducible refine keep_updThread h_ac ?_
      | with_reducible refine keepP_snd (keep_drawFree h_draws ?_)
      | (extract_lets -underBinder -merge -useContext +onlyGivenNames x; have := (fun (_ : _ → _) => trivial) x; unfold x; clear this x; beta_reduce)
      | (extract_lets -underBinder -merge -useContext +onlyGivenNames x; clear_value x)
      | split
  | succ _ ih =>
    rw [layerRun]
    repeat' first
      | with_reducible assumption
      | with_reducible apply ih
      | with_reducible refine keep_issueStep h_qe h_cx h_pm h_ae h_bb h_ac h_tm h_pf h_cf h_tn h_lx h_out hR hW ?_
      | with_reducible refine keep_beginWait h_qe h_ac h_ft h_tn h_lx h_out h_draws hR hW hZ ?_
      | with_reducible refine keep_endThread h_qe h_ac h_tn h_lx h_out h_draws hR hW ?_
      | with_reducible refine keep_trapJob h_qe h_ac h_tn h_lx h_out hR ?_
      | with_reducible refine keep_updThread h_ac ?_
      | with_reducible refine keepP_snd (keep_drawFree h_draws ?_)
      | (extract_lets -underBinder -merge -useContext +onlyGivenNames x; have := (fun (_ : _ → _) => trivial) x; unfold x; clear this x; beta_reduce)
      | (extract_lets -underBinder -merge -useContext +onlyGivenNames x; clear_value x)
      | split

theorem keep_pokeThread {a2 : Nat} {a3 : Nat} (h_qe : UpQe P) (h_cx : UpCx P) (h_pm : UpPm P) (h_ae : UpAe P) (h_bb : UpBb P) (h_ac : UpAc P) (h_tm : UpTm P) (h_pf : UpPf P) (h_ft : UpFt P) (h_cf : UpCf P) (h_tn : UpTn P) (h_lx : UpLx P) (h_out : UpOut P) (h_draws : UpDraws P) (hR : UpR P) (hW : UpW P) (hZ : UpZ P) (h : Keep P s) : Keep P (pokeThread s a2 a3) := by
  unfold pokeThread
  repeat' first
    | with_reducible assumption
    | with_reducible refine keep_layerRun h_qe h_cx h_pm h_ae h_bb h_ac h_tm h_pf h_ft h_cf h_tn h_lx h_out h_draws hR hW hZ ?_
    | with_reducible refine keep_settleThread h_qe h_ac h_ft h_tn h_lx h_out h_draws hR hW hZ ?_
    | (extract_lets -underBinder -merge -useContext +onlyGivenNames x; with_reducible refine keep_cut (s := x) ?_ ?_; (on_goal 1 => unfold x); (on_goal 2 => (clear_value x; intro _)))
    | split

theorem keep_pokeThreads  (h_qe : UpQe P) (h_cx : UpCx P) (h_pm : UpPm P) (h_ae : UpAe P) (h_bb : UpBb P) (h_ac : UpAc P) (h_tm : UpTm P) (h_pf : UpPf P) (h_ft : UpFt P) (h_cf : UpCf P) (h_tn : UpTn P) (h_lx : UpLx P) (h_out : UpOut P) (h_draws : UpDraws P) (hR : UpR P) (hW : UpW P) (hZ : UpZ P) (h : Keep P s) : Keep P (pokeThreads s) := by
  unfold pokeThreads
  repeat' first
    | with_reducible assumption
    | with_reducible refine keep_pokeThread h_qe h_cx h_pm h_ae h_bb h_ac h_tm h_pf h_ft h_cf h_tn h_lx h_out h_draws hR hW hZ ?_
    | with_reducible refine keep_foldl (fun _ _ _ => ?_) ?_

/-! ### Machine/BankCmds.lean -/


theorem keep_execBauStoreWrite {a1 : Nat} {a2 : Issuer} {a3 : Nat} {a4 : Bytes} (h_qe : UpQe P) (h_cx : UpCx P) (h_pm : UpPm P) (h_ae : UpAe P) (h_bb : UpBb P) (h_ac : UpAc P) (h_tm : UpTm P) (h_pf : UpPf P) (h_ft : UpFt P) (h_cf : UpCf P) (h_tn : UpTn P) (h_lx : UpLx P) (h_out : UpOut P) (h_draws : UpDraws P) (hR : UpR P) (hW : UpW P) (hZ : UpZ P) (h : Keep P s) : KeepOut P (execBauStoreWrite a1 a2 a3 a4 s) := by
  unfold execBauStoreWrite
  repeat' first
    | with_reducible assumption
    | with_reducible refine keepOut_next ?_
    | with_reducible refine keep_pokeThreads h_qe h_cx h_pm h_ae h_bb h_ac h_tm h_pf h_ft h_cf h_tn h_lx h_out h_draws hR hW hZ ?_
    | with_reducible refine keep_arrive h_qe h_cx h_pm h_ae h_bb h_ac h_tm h_pf h_cf h_out hR hW ?_
    | with_reducible refine keep_live ?_ ?_
    | split
    | with_reducible intro _

theorem keep_bauRow {a1 : Nat} {a2 : BauCmd} (h_qe : UpQe P) (h_cx : UpCx P) (h_pm : UpPm P) (h_ae : UpAe P) (h_bb : UpBb P) (h_ac : UpAc P) (h_tm : UpTm P) (h_pf : UpPf P) (h_ft : UpFt P) (h_cf : UpCf P) (h_tn : UpTn P) (h_lx : UpLx P) (h_out : UpOut P) (h_draws : UpDraws P) (hR : UpR P) (hW : UpW P) (hZ : UpZ P) (h : Keep P s) : Keep P (bauRow a1 a2 s) := by
  unfold bauRow
  repeat' first
    | with_reducible assumption
    | with_reducible refine keep_pokeThreads h_qe h_cx h_pm h_ae h_bb h_ac h_tm h_pf h_ft h_cf h_tn h_lx h_out h_draws hR hW hZ ?_
    | with_reducible refine keep_arrive h_qe h_cx h_pm h_ae h_bb h_ac h_tm h_pf h_cf h_out hR hW ?_
    | with_reducible refine keep_live ?_ ?_
    | split
    | with_reducible intro _

theorem keep_execGlossBound {a1 : BauCmd} (h_qe : UpQe P) (h_cx : UpCx P) (h_pm : UpPm P) (h_ae : UpAe P) (h_bb : UpBb P) (h_ac : UpAc P) (h_tm : UpTm P) (h_pf : UpPf P) (h_ft : UpFt P) (h_cf : UpCf P) (h_tn : UpTn P) (h_lx : UpLx P) (h_out : UpOut P) (h_draws : UpDraws P) (hR : UpR P) (hW : UpW P) (hZ : UpZ P) (h : Keep P s) : KeepOut P (execGlossBound a1 s) := by
  unfold execGlossBound
  repeat' first
    | with_reducible assumption
    | with_reducible refine keepOut_next ?_
    | with_reducible refine keep_bauRow h_qe h_cx h_pm h_ae h_bb h_ac h_tm h_pf h_ft h_cf h_tn h_lx h_out h_draws hR hW hZ ?_

theorem keep_execAttendPage {a1 : BauCmd} (h_qe : UpQe P) (h_cx : UpCx P) (h_pm : UpPm P) (h_ae : UpAe P) (h_bb : UpBb P) (h_ac : UpAc P) (h_tm : UpTm P) (h_pf : UpPf P) (h_ft : UpFt P) (h_cf : UpCf P) (h_tn : UpTn P) (h_lx : UpLx P) (h_out : UpOut P) (h_draws : UpDraws P) (hR : UpR P) (hW : UpW P) (hZ : UpZ P) (h : Keep P s) : KeepOut P (execAttendPage a1 s) := by
  unfold execAttendPage
  repeat' first
    | with_reducible assumption
    | with_reducible refine keepOut_next ?_
    | with_reducible refine keep_bauRow h_qe h_cx h_pm h_ae h_bb h_ac h_tm h_pf h_ft h_cf h_tn h_lx h_out h_draws hR hW hZ ?_

theorem keep_execAppendRows {a1 : BauCmd} (h_qe : UpQe P) (h_cx : UpCx P) (h_pm : UpPm P) (h_ae : UpAe P) (h_bb : UpBb P) (h_ac : UpAc P) (h_tm : UpTm P) (h_pf : UpPf P) (h_ft : UpFt P) (h_cf : UpCf P) (h_tn : UpTn P) (h_lx : UpLx P) (h_out : UpOut P) (h_draws : UpDraws P) (hR : UpR P) (hW : UpW P) (hZ : UpZ P) (h : Keep P s) : KeepOut P (execAppendRows a1 s) := by
  unfold execAppendRows
  repeat' first
    | with_reducible assumption
    | with_reducible refine keepOut_next ?_
    | with_reducible refine keep_bauRow h_qe h_cx h_pm h_ae h_bb h_ac h_tm h_pf h_ft h_cf h_tn h_lx h_out h_draws hR hW hZ ?_

theorem keep_execRequant {a1 : BauCmd} (h_qe : UpQe P) (h_cx : UpCx P) (h_pm : UpPm P) (h_ae : UpAe P) (h_bb : UpBb P) (h_ac : UpAc P) (h_tm : UpTm P) (h_pf : UpPf P) (h_ft : UpFt P) (h_cf : UpCf P) (h_tn : UpTn P) (h_lx : UpLx P) (h_out : UpOut P) (h_draws : UpDraws P) (hR : UpR P) (hW : UpW P) (hZ : UpZ P) (h : Keep P s) : KeepOut P (execRequant a1 s) := by
  unfold execRequant
  repeat' first
    | with_reducible assumption
    | with_reducible refine keepOut_next ?_
    | with_reducible refine keep_bauRow h_qe h_cx h_pm h_ae h_bb h_ac h_tm h_pf h_ft h_cf h_tn h_lx h_out h_draws hR hW hZ ?_

theorem keep_execRmsnorm {a1 : BauCmd} (h_qe : UpQe P) (h_cx : UpCx P) (h_pm : UpPm P) (h_ae : UpAe P) (h_bb : UpBb P) (h_ac : UpAc P) (h_tm : UpTm P) (h_pf : UpPf P) (h_ft : UpFt P) (h_cf : UpCf P) (h_tn : UpTn P) (h_lx : UpLx P) (h_out : UpOut P) (h_draws : UpDraws P) (hR : UpR P) (hW : UpW P) (hZ : UpZ P) (h : Keep P s) : KeepOut P (execRmsnorm a1 s) := by
  unfold execRmsnorm
  repeat' first
    | with_reducible assumption
    | with_reducible refine keepOut_next ?_
    | with_reducible refine keep_bauRow h_qe h_cx h_pm h_ae h_bb h_ac h_tm h_pf h_ft h_cf h_tn h_lx h_out h_draws hR hW hZ ?_

theorem keep_execElementwise {a1 : BauCmd} (h_qe : UpQe P) (h_cx : UpCx P) (h_pm : UpPm P) (h_ae : UpAe P) (h_bb : UpBb P) (h_ac : UpAc P) (h_tm : UpTm P) (h_pf : UpPf P) (h_ft : UpFt P) (h_cf : UpCf P) (h_tn : UpTn P) (h_lx : UpLx P) (h_out : UpOut P) (h_draws : UpDraws P) (hR : UpR P) (hW : UpW P) (hZ : UpZ P) (h : Keep P s) : KeepOut P (execElementwise a1 s) := by
  unfold execElementwise
  repeat' first
    | with_reducible assumption
    | with_reducible refine keepOut_next ?_
    | with_reducible refine keep_bauRow h_qe h_cx h_pm h_ae h_bb h_ac h_tm h_pf h_ft h_cf h_tn h_lx h_out h_draws hR hW hZ ?_

theorem keep_execGatherReduce {a1 : BauCmd} (h_qe : UpQe P) (h_cx : UpCx P) (h_pm : UpPm P) (h_ae : UpAe P) (h_bb : UpBb P) (h_ac : UpAc P) (h_tm : UpTm P) (h_pf : UpPf P) (h_ft : UpFt P) (h_cf : UpCf P) (h_tn : UpTn P) (h_lx : UpLx P) (h_out : UpOut P) (h_draws : UpDraws P) (hR : UpR P) (hW : UpW P) (hZ : UpZ P) (h : Keep P s) : KeepOut P (execGatherReduce a1 s) := by
  unfold execGatherReduce
  repeat' first
    | with_reducible assumption
    | with_reducible refine keepOut_next ?_
    | with_reducible refine keep_bauRow h_qe h_cx h_pm h_ae h_bb h_ac h_tm h_pf h_ft h_cf h_tn h_lx h_out h_draws hR hW hZ ?_

theorem keep_execZeroRange {a1 : BauCmd} (h_qe : UpQe P) (h_cx : UpCx P) (h_pm : UpPm P) (h_ae : UpAe P) (h_bb : UpBb P) (h_ac : UpAc P) (h_tm : UpTm P) (h_pf : UpPf P) (h_ft : UpFt P) (h_cf : UpCf P) (h_tn : UpTn P) (h_lx : UpLx P) (h_out : UpOut P) (h_draws : UpDraws P) (hR : UpR P) (hW : UpW P) (hZ : UpZ P) (h : Keep P s) : KeepOut P (execZeroRange a1 s) := by
  unfold execZeroRange
  repeat' first
    | with_reducible assumption
    | with_reducible refine keepOut_next ?_
    | with_reducible refine keep_bauRow h_qe h_cx h_pm h_ae h_bb h_ac h_tm h_pf h_ft h_cf h_tn h_lx h_out h_draws hR hW hZ ?_

theorem keep_execPermitGrant {a1 : Nat} (h_qe : UpQe P) (h_cx : UpCx P) (h_pm : UpPm P) (h_ae : UpAe P) (h_bb : UpBb P) (h_ac : UpAc P) (h_tm : UpTm P) (h_pf : UpPf P) (h_ft : UpFt P) (h_cf : UpCf P) (h_tn : UpTn P) (h_lx : UpLx P) (h_out : UpOut P) (h_draws : UpDraws P) (hR : UpR P) (hW : UpW P) (hZ : UpZ P) (h : Keep P s) : KeepOut P (execPermitGrant a1 s) := by
  unfold execPermitGrant
  repeat' first
    | with_reducible assumption
    | with_reducible refine keepOut_next ?_
    | with_reducible refine keep_pokeThreads h_qe h_cx h_pm h_ae h_bb h_ac h_tm h_pf h_ft h_cf h_tn h_lx h_out h_draws hR hW hZ ?_
    | with_reducible refine keep_grantOldest h_qe h_cx h_pm h_bb h_tm h_pf h_cf h_out hR hW ?_
    | with_reducible refine keep_pokeBbd h_qe h_cx h_pm h_ae h_bb h_ac h_tm h_pf h_cf h_out hR hW ?_
    | with_reducible refine keep_live ?_ ?_
    | with_reducible intro _

theorem keep_linkReplays {a2 : Nat} {a3 : Nat} (h_qe : UpQe P) (h_cf : UpCf P) (h_out : UpOut P) (hR : UpR P) (h : Keep P s) : Keep P (linkReplays s a2 a3) := by
  induction a3 generalizing s a2 with
  | zero =>
    rw [linkReplays]
    repeat' first
      | with_reducible assumption
      | with_reducible apply ih
      | with_reducible refine keep_tally h_cf ?_
      | with_reducible refine keep_raise1 h_qe h_out hR ?_
  | succ _ ih =>
    rw [linkReplays]
    repeat' first
      | with_reducible assumption
      | with_reducible apply ih
      | with_reducible refine keep_tally h_cf ?_
      | with_reducible refine keep_raise1 h_qe h_out hR ?_

theorem keep_execBauCompletion {a1 : Nat} {a2 : BauDone} (h_qe : UpQe P) (h_cx : UpCx P) (h_pm : UpPm P) (h_ae : UpAe P) (h_bb : UpBb P) (h_ac : UpAc P) (h_tm : UpTm P) (h_pf : UpPf P) (h_ft : UpFt P) (h_cf : UpCf P) (h_tn : UpTn P) (h_lx : UpLx P) (h_out : UpOut P) (h_draws : UpDraws P) (hR : UpR P) (hW : UpW P) (hZ : UpZ P) (h : Keep P s) : KeepOut P (execBauCompletion a1 a2 s) := by
  unfold execBauCompletion
  repeat' first
    | with_reducible assumption
    | with_reducible refine keepOut_next ?_
    | with_reducible refine keep_linkReplays h_qe h_cf h_out hR ?_
    | with_reducible refine keep_pokeThreads h_qe h_cx h_pm h_ae h_bb h_ac h_tm h_pf h_ft h_cf h_tn h_lx h_out h_draws hR hW hZ ?_
    | with_reducible refine keep_bauReport h_qe h_cx h_pm h_ae h_bb h_ac h_tm h_pf h_ft h_cf h_tn h_lx h_out hR hW hZ ?_
    | with_reducible refine keep_takeReads h_qe h_tm h_cf h_out hR ?_
    | with_reducible refine keep_live ?_ ?_
    | (extract_lets -underBinder -merge -useContext +onlyGivenNames x; with_reducible refine keep_cut (s := x) ?_ ?_; (on_goal 1 => unfold x); (on_goal 2 => (clear_value x; intro _)))
    | split
    | with_reducible intro _

theorem keep_execD2dLinkRetrain {a1 : LinkFault} (h_qe : UpQe P) (h_bb : UpBb P) (h_cf : UpCf P) (h_out : UpOut P) (hR : UpR P) (h : Keep P s) : KeepOut P (execD2dLinkRetrain a1 s) := by
  unfold execD2dLinkRetrain
  repeat' first
    | with_reducible assumption
    | with_reducible refine keepOut_next ?_
    | with_reducible refine keep_linkReplays h_qe h_cf h_out hR ?_
    | with_reducible refine keep_updBbd h_bb ?_
    | with_reducible refine keep_tally h_cf ?_
    | with_reducible refine keep_raise1 h_qe h_out hR ?_
    | with_reducible refine keep_live ?_ ?_
    | split
    | with_reducible intro _

theorem keep_execD2dRetrainDone {a1 : Nat} (h_qe : UpQe P) (h_cx : UpCx P) (h_pm : UpPm P) (h_ae : UpAe P) (h_bb : UpBb P) (h_ac : UpAc P) (h_tm : UpTm P) (h_pf : UpPf P) (h_ft : UpFt P) (h_cf : UpCf P) (h_tn : UpTn P) (h_lx : UpLx P) (h_out : UpOut P) (h_draws : UpDraws P) (hR : UpR P) (hW : UpW P) (hZ : UpZ P) (h : Keep P s) : KeepOut P (execD2dRetrainDone a1 s) := by
  unfold execD2dRetrainDone
  repeat' first
    | with_reducible assumption
    | with_reducible refine keepOut_next ?_
    | with_reducible refine keep_pokeThreads h_qe h_cx h_pm h_ae h_bb h_ac h_tm h_pf h_ft h_cf h_tn h_lx h_out h_draws hR hW hZ ?_
    | with_reducible refine keep_pokeBbd h_qe h_cx h_pm h_ae h_bb h_ac h_tm h_pf h_cf h_out hR hW ?_
    | with_reducible refine keep_updBbd h_bb ?_
    | with_reducible refine keep_pokePlaced h_qe h_cx h_pm h_ae h_tm h_pf h_cf h_out hR hW ?_
    | with_reducible refine keep_live ?_ ?_
    | split
    | with_reducible intro _

theorem keep_bbdOut {a2 : Nat} (h_qe : UpQe P) (h_cx : UpCx P) (h_pm : UpPm P) (h_ae : UpAe P) (h_bb : UpBb P) (h_ac : UpAc P) (h_tm : UpTm P) (h_pf : UpPf P) (h_cf : UpCf P) (h_out : UpOut P) (hR : UpR P) (hW : UpW P) (h : Keep P s) : Keep P (bbdOut s a2) := by
  unfold bbdOut
  repeat' first
    | with_reducible assumption
    | with_reducible refine keep_pokeBbd h_qe h_cx h_pm h_ae h_bb h_ac h_tm h_pf h_cf h_out hR hW ?_
    | with_reducible refine keep_updBbd h_bb ?_
    | with_reducible refine keep_raiseGs h_qe h_out hR ?_
    | with_reducible refine keep_setB hR ?_
    | with_reducible refine keep_setF hR ?_

theorem keep_execBbdOutOfService {a1 : Nat} (h_qe : UpQe P) (h_cx : UpCx P) (h_pm : UpPm P) (h_ae : UpAe P) (h_bb : UpBb P) (h_ac : UpAc P) (h_tm : UpTm P) (h_pf : UpPf P) (h_ft : UpFt P) (h_cf : UpCf P) (h_tn : UpTn P) (h_lx : UpLx P) (h_out : UpOut P) (h_draws : UpDraws P) (hR : UpR P) (hW : UpW P) (hZ : UpZ P) (h : Keep P s) : KeepOut P (execBbdOutOfService a1 s) := by
  unfold execBbdOutOfService
  repeat' first
    | with_reducible assumption
    | with_reducible refine keepOut_next ?_
    | with_reducible refine keep_bbdOut h_qe h_cx h_pm h_ae h_bb h_ac h_tm h_pf h_cf h_out hR hW ?_
    | with_reducible refine keep_pokeThreads h_qe h_cx h_pm h_ae h_bb h_ac h_tm h_pf h_ft h_cf h_tn h_lx h_out h_draws hR hW hZ ?_
    | with_reducible refine keep_pokePlaced h_qe h_cx h_pm h_ae h_tm h_pf h_cf h_out hR hW ?_
    | with_reducible refine keep_live ?_ ?_
    | split
    | with_reducible intro _

theorem keep_execRefreshDue {a1 : Nat} (h_bb : UpBb P) (h : Keep P s) : KeepOut P (execRefreshDue a1 s) := by
  unfold execRefreshDue
  repeat' first
    | with_reducible assumption
    | with_reducible refine keepOut_next ?_
    | with_reducible refine keep_setRefresh h_bb ?_
    | with_reducible refine keep_live ?_ ?_
    | (extract_lets -underBinder -merge -useContext +onlyGivenNames x; clear_value x)
    | split
    | with_reducible intro _

theorem keep_execRefreshPause {a1 : Nat} (h_qe : UpQe P) (h_bb : UpBb P) (h_out : UpOut P) (hR : UpR P) (h : Keep P s) : KeepOut P (execRefreshPause a1 s) := by
  unfold execRefreshPause
  repeat' first
    | with_reducible assumption
    | with_reducible refine keepOut_next ?_
    | with_reducible refine keep_setRefresh h_bb ?_
    | with_reducible refine keep_raise1 h_qe h_out hR ?_
    | with_reducible refine keep_live ?_ ?_
    | with_reducible refine keep_bumpF hR ?_
    | (extract_lets -underBinder -merge -useContext +onlyGivenNames x; clear_value x)
    | split
    | with_reducible intro _

theorem keep_execRefreshResume {a1 : Nat} {a2 : Nat} (h_bb : UpBb P) (hR : UpR P) (h : Keep P s) : KeepOut P (execRefreshResume a1 a2 s) := by
  unfold execRefreshResume
  repeat' first
    | with_reducible assumption
    | with_reducible refine keepOut_next ?_
    | with_reducible refine keep_setRefresh h_bb ?_
    | with_reducible refine keep_live ?_ ?_
    | with_reducible refine keep_bumpF hR ?_
    | split
    | with_reducible intro _

end Sys2Proof.Machine
end

