-- ==== Sys2Proof/Laws/KeepRecovery.lean ====
section
/-!
SUPPORT. KeepRecovery.lean: what the definitions of Machine/Handover.lean, Machine/Recovery.lean, Machine/Cf.lean, Machine/Proof.lean, Machine/Queue.lean, Machine/Jobs.lean keep (see Keep.lean).
-/

set_option linter.unusedTactic false
set_option linter.unreachableTactic false
set_option linter.unusedVariables false
set_option linter.tactic.unusedName false
set_option maxRecDepth 20000

namespace Sys2Proof.Machine

variable {P : State → Prop} {s : State}

/-! ### Machine/Handover.lean -/


theorem keep_hoSend {a2 : Nat} {a3 : Bytes} (h_qe : UpQe P) (h_ft : UpFt P) (h_out : UpOut P) (hR : UpR P) (h : Keep P s) : Keep P (hoSend s a2 a3) := by
  unfold hoSend
  repeat' first
    | with_reducible assumption
    | with_reducible refine keep_sendBytes h_ft ?_
    | with_reducible refine keep_noRoute h_qe h_out hR ?_
    | split

theorem keep_withHo {a2 : Nat} {a3 : Nat} {a4 : Bytes} {a5 : State → State} (h_ft : UpFt P) (h : Keep P s) (ha5 : ∀ x0, Keep P x0 → Keep P (a5 x0)) : Keep P (withHo s a2 a3 a4 a5) := by
  unfold withHo
  repeat' first
    | with_reducible assumption
    | with_reducible apply ha5
    | with_reducible refine keep_live ?_ ?_
    | fail_if_no_progress with_reducible refine keep_up_ft h_ft (keep_eta ?_)
    | split
    | with_reducible intro _

theorem keep_holdHo {a2 : Nat} {a3 : Bytes} (h_ft : UpFt P) (h : Keep P s) : Keep P (holdHo s a2 a3) := by
  unfold holdHo
  repeat' first
    | with_reducible assumption
    | fail_if_no_progress with_reducible refine keep_up_ft h_ft (keep_eta ?_)
    | split

theorem keep_updHo {a2 : Nat} {a3 : Handover → Handover} (h_cf : UpCf P) (h : Keep P s) : Keep P (updHo s a2 a3) := by
  unfold updHo
  repeat' first
    | with_reducible assumption
    | fail_if_no_progress with_reducible refine keep_up_cf h_cf (keep_eta ?_)

theorem keep_dropHo {a2 : Nat} (h_pm : UpPm P) (h_cf : UpCf P) (hR : UpR P) (h : Keep P s) : Keep P (dropHo s a2) := by
  unfold dropHo
  repeat' first
    | with_reducible assumption
    | with_reducible refine keep_leaveEdit h_pm hR ?_
    | fail_if_no_progress with_reducible refine keep_up_cf h_cf (keep_eta ?_)

theorem keep_recordOutcome {a2 : Nat} {a3 : Nat} {a4 : Bool} (h_cf : UpCf P) (h : Keep P s) : Keep P (recordOutcome s a2 a3 a4) := by
  unfold recordOutcome
  repeat' first
    | with_reducible assumption
    | fail_if_no_progress with_reducible refine keep_up_cf h_cf (keep_eta ?_)

theorem keep_resumeOps {a2 : Nat} (h_qe : UpQe P) (h_cx : UpCx P) (h_pm : UpPm P) (h_ae : UpAe P) (h_bb : UpBb P) (h_tm : UpTm P) (h_pf : UpPf P) (h_ft : UpFt P) (h_cf : UpCf P) (h_out : UpOut P) (hR : UpR P) (hW : UpW P) (hZ : UpZ P) (h : Keep P s) : Keep P (resumeOps s a2) := by
  unfold resumeOps
  repeat' first
    | with_reducible assumption
    | with_reducible refine keep_takeOp h_qe h_cx h_pm h_ae h_bb h_tm h_pf h_ft h_cf h_out hR hW hZ ?_
    | with_reducible refine keep_foldl (fun _ _ _ => ?_) ?_

theorem keep_hoRevert {a2 : Nat} {a3 : Nat} (h_qe : UpQe P) (h_cx : UpCx P) (h_pm : UpPm P) (h_ae : UpAe P) (h_bb : UpBb P) (h_tm : UpTm P) (h_pf : UpPf P) (h_ft : UpFt P) (h_cf : UpCf P) (h_out : UpOut P) (hR : UpR P) (hW : UpW P) (hZ : UpZ P) (h : Keep P s) : Keep P (hoRevert s a2 a3) := by
  unfold hoRevert
  repeat' first
    | with_reducible assumption
    | with_reducible refine keep_resumeOps h_qe h_cx h_pm h_ae h_bb h_tm h_pf h_ft h_cf h_out hR hW hZ ?_
    | with_reducible refine keep_recordOutcome h_cf ?_
    | with_reducible refine keep_dropHo h_pm h_cf hR ?_
    | with_reducible refine keep_hoSend h_qe h_ft h_out hR ?_
    | with_reducible refine keep_pokeRetires h_qe h_cx h_pm h_tm h_pf h_cf h_out hR hW ?_
    | with_reducible refine keep_recDone h_qe h_ft h_cf hR ?_
    | with_reducible refine keep_raise1 h_qe h_out hR ?_
    | (extract_lets -underBinder -merge -useContext +onlyGivenNames x; with_reducible refine keep_cut (s := x) ?_ ?_; (on_goal 1 => unfold x); (on_goal 2 => (clear_value x; intro _)))
    | split

theorem keep_sendEntry {a1 : Nat} {a2 : Nat} {a4 : HoEntry × Bytes} (h_qe : UpQe P) (h_ft : UpFt P) (h_cf : UpCf P) (h_out : UpOut P) (hR : UpR P) (h : Keep P s) : Keep P (sendEntry a1 a2 s a4) := by
  unfold sendEntry
  repeat' first
    | with_reducible assumption
    | with_reducible refine keep_updHo h_cf ?_
    | with_reducible refine keep_hoSend h_qe h_ft h_out hR ?_
    | split

theorem keep_sendDropped {a2 : Nat} {a3 : List HoEntry} (h_qe : UpQe P) (h_ft : UpFt P) (h_cf : UpCf P) (h_out : UpOut P) (hR : UpR P) (h : Keep P s) : Keep P (sendDropped s a2 a3) := by
  unfold sendDropped
  repeat' first
    | with_reducible assumption
    | with_reducible refine keep_sendEntry h_qe h_ft h_cf h_out hR ?_
    | with_reducible refine keep_foldl (fun _ _ _ => ?_) ?_

theorem keep_sendPage {a1 : Nat} {a2 : Bytes} {a4 : Nat × Nat × Nat} (h_qe : UpQe P) (h_cx : UpCx P) (h_pm : UpPm P) (h_bb : UpBb P) (h_tm : UpTm P) (h_pf : UpPf P) (h_ft : UpFt P) (h_cf : UpCf P) (h_out : UpOut P) (hR : UpR P) (h : Keep P s) : Keep P (sendPage a1 a2 s a4) := by
  unfold sendPage
  repeat' first
    | with_reducible assumption
    | with_reducible refine keep_sendDropped h_qe h_ft h_cf h_out hR ?_
    | with_reducible refine keep_sendEntry h_qe h_ft h_cf h_out hR ?_
    | with_reducible refine keep_unstage h_tm ?_
    | with_reducible refine keep_stageCounted h_tm h_out hR ?_
    | with_reducible refine keep_pageFailed h_qe h_pf h_cf h_out hR ?_
    | with_reducible refine keep_entryFailed h_qe h_cx h_pm h_pf h_cf h_out hR ?_
    | with_reducible refine keep_waitLocks h_bb ?_
    | with_reducible refine keep_foldl (fun _ _ _ => ?_) ?_
    | (extract_lets -underBinder -merge -useContext +onlyGivenNames x; clear_value x)
    | split

theorem keep_sendEntries {a2 : Nat} (h_qe : UpQe P) (h_cx : UpCx P) (h_pm : UpPm P) (h_bb : UpBb P) (h_tm : UpTm P) (h_pf : UpPf P) (h_ft : UpFt P) (h_cf : UpCf P) (h_out : UpOut P) (hR : UpR P) (h : Keep P s) : KeepEE P (sendEntries s a2) := by
  unfold sendEntries
  repeat' first
    | with_reducible assumption
    | with_reducible refine keepEE_ok ?_
    | with_reducible refine keepEE_error ?_
    | with_reducible refine keep_sendPage h_qe h_cx h_pm h_bb h_tm h_pf h_ft h_cf h_out hR ?_
    | with_reducible refine keepExS_eq (keep_readCtx h_qe h_cx h_pm h_pf h_cf h_out hR ?_) (by assumption)
    | with_reducible refine keepExS_err (keep_readCtx h_qe h_cx h_pm h_pf h_cf h_out hR ?_) (by assumption)
    | with_reducible refine keep_foldl (fun _ _ _ => ?_) ?_
    | split

theorem keep_hoStart {a2 : Nat} {a3 : Nat} {a4 : Nat} (h_qe : UpQe P) (h_ft : UpFt P) (h_cf : UpCf P) (h_out : UpOut P) (hR : UpR P) (h : Keep P s) : Keep P (hoStart s a2 a3 a4) := by
  unfold hoStart
  repeat' first
    | with_reducible assumption
    | with_reducible refine keep_hoSend h_qe h_ft h_out hR ?_
    | fail_if_no_progress with_reducible refine keep_up_cf h_cf (keep_eta ?_)

theorem keep_execAccept {a1 : Nat} {a2 : MsgRead} (h_qe : UpQe P) (h_cx : UpCx P) (h_pm : UpPm P) (h_ae : UpAe P) (h_bb : UpBb P) (h_tm : UpTm P) (h_pf : UpPf P) (h_ft : UpFt P) (h_cf : UpCf P) (h_out : UpOut P) (hR : UpR P) (hW : UpW P) (hZ : UpZ P) (h : Keep P s) : KeepOut P (execAccept a1 a2 s) := by
  unfold execAccept
  repeat' first
    | with_reducible assumption
    | with_reducible refine keepOut_next ?_
    | with_reducible refine keepEE_eq (keep_sendEntries h_qe h_cx h_pm h_bb h_tm h_pf h_ft h_cf h_out hR ?_) (by assumption)
    | with_reducible refine keepEE_err (keep_sendEntries h_qe h_cx h_pm h_bb h_tm h_pf h_ft h_cf h_out hR ?_) (by assumption)
    | with_reducible refine keep_hoRevert h_qe h_cx h_pm h_ae h_bb h_tm h_pf h_ft h_cf h_out hR hW hZ ?_
    | with_reducible refine keep_updHo h_cf ?_
    | with_reducible refine keep_withHo h_ft ?_ ?_
    | with_reducible refine keep_takeReads h_qe h_tm h_cf h_out hR ?_
    | (extract_lets -underBinder -merge -useContext +onlyGivenNames x; clear_value x)
    | split
    | with_reducible intro _

theorem keep_execRefuse {a1 : Nat} {a2 : Bytes} (h_qe : UpQe P) (h_cx : UpCx P) (h_pm : UpPm P) (h_ae : UpAe P) (h_bb : UpBb P) (h_tm : UpTm P) (h_pf : UpPf P) (h_ft : UpFt P) (h_cf : UpCf P) (h_out : UpOut P) (hR : UpR P) (hW : UpW P) (hZ : UpZ P) (h : Keep P s) : KeepOut P (execRefuse a1 a2 s) := by
  unfold execRefuse
  repeat' first
    | with_reducible assumption
    | with_reducible refine keepOut_next ?_
    | with_reducible refine keep_hoRevert h_qe h_cx h_pm h_ae h_bb h_tm h_pf h_ft h_cf h_out hR hW hZ ?_
    | with_reducible refine keep_withHo h_ft ?_ ?_
    | split
    | with_reducible intro _

theorem keep_sendCommit {a2 : Nat} {a3 : Handover} (h_qe : UpQe P) (h_cx : UpCx P) (h_pm : UpPm P) (h_ae : UpAe P) (h_bb : UpBb P) (h_tm : UpTm P) (h_pf : UpPf P) (h_ft : UpFt P) (h_cf : UpCf P) (h_out : UpOut P) (hR : UpR P) (hW : UpW P) (hZ : UpZ P) (h : Keep P s) : Keep P (sendCommit s a2 a3) := by
  unfold sendCommit
  repeat' first
    | with_reducible assumption
    | with_reducible refine keep_hoRevert h_qe h_cx h_pm h_ae h_bb h_tm h_pf h_ft h_cf h_out hR hW hZ ?_
    | with_reducible refine keep_updHo h_cf ?_
    | with_reducible refine keep_hoSend h_qe h_ft h_out hR ?_
    | (extract_lets -underBinder -merge -useContext +onlyGivenNames x; with_reducible refine keep_cut (s := x) ?_ ?_; (on_goal 1 => unfold x); (on_goal 2 => (clear_value x; intro _)))
    | (extract_lets -underBinder -merge -useContext +onlyGivenNames x; clear_value x)
    | split

theorem keep_execCommitSend {a1 : CtxRead} (h_qe : UpQe P) (h_cx : UpCx P) (h_pm : UpPm P) (h_ae : UpAe P) (h_bb : UpBb P) (h_tm : UpTm P) (h_pf : UpPf P) (h_ft : UpFt P) (h_cf : UpCf P) (h_out : UpOut P) (hR : UpR P) (hW : UpW P) (hZ : UpZ P) (h : Keep P s) : KeepOut P (execCommitSend a1 s) := by
  unfold execCommitSend
  repeat' first
    | with_reducible assumption
    | with_reducible refine keepOut_next ?_
    | with_reducible refine keep_sendCommit h_qe h_cx h_pm h_ae h_bb h_tm h_pf h_ft h_cf h_out hR hW hZ ?_
    | with_reducible refine keepEE_eq (keep_sendEntries h_qe h_cx h_pm h_bb h_tm h_pf h_ft h_cf h_out hR ?_) (by assumption)
    | with_reducible refine keepEE_err (keep_sendEntries h_qe h_cx h_pm h_bb h_tm h_pf h_ft h_cf h_out hR ?_) (by assumption)
    | with_reducible refine keep_hoRevert h_qe h_cx h_pm h_ae h_bb h_tm h_pf h_ft h_cf h_out hR hW hZ ?_
    | with_reducible refine keep_updHo h_cf ?_
    | with_reducible refine keep_takeReads h_qe h_tm h_cf h_out hR ?_
    | with_reducible refine keep_live ?_ ?_
    | (extract_lets -underBinder -merge -useContext +onlyGivenNames x; with_reducible refine keep_cut (s := x) ?_ ?_; (on_goal 1 => unfold x); (on_goal 2 => (clear_value x; intro _)))
    | (extract_lets -underBinder -merge -useContext +onlyGivenNames x; clear_value x)
    | split
    | with_reducible intro _

theorem keep_putForward {a2 : Nat} {a3 : Nat} {a4 : Nat} (h_cf : UpCf P) (h : Keep P s) : Keep P (putForward s a2 a3 a4) := by
  unfold putForward
  repeat' first
    | with_reducible assumption
    | fail_if_no_progress with_reducible refine keep_up_cf h_cf (keep_eta ?_)
    | split

theorem keep_hoFinal {a2 : Nat} {a3 : Handover} (h_qe : UpQe P) (h_cx : UpCx P) (h_pm : UpPm P) (h_ae : UpAe P) (h_bb : UpBb P) (h_tm : UpTm P) (h_pf : UpPf P) (h_ft : UpFt P) (h_cf : UpCf P) (h_out : UpOut P) (hR : UpR P) (hW : UpW P) (hZ : UpZ P) (h : Keep P s) : Keep P (hoFinal s a2 a3) := by
  unfold hoFinal
  repeat' first
    | with_reducible assumption
    | with_reducible refine keep_putForward h_cf ?_
    | with_reducible refine keep_resumeOps h_qe h_cx h_pm h_ae h_bb h_tm h_pf h_ft h_cf h_out hR hW hZ ?_
    | with_reducible refine keep_recordOutcome h_cf ?_
    | with_reducible refine keep_dropHo h_pm h_cf hR ?_
    | with_reducible refine keep_hoSend h_qe h_ft h_out hR ?_
    | with_reducible refine keep_closePoint h_qe h_cx h_pm h_tm h_pf h_out hR hW ?_
    | with_reducible refine keep_recDone h_qe h_ft h_cf hR ?_

theorem keep_execCommitAck {a1 : Nat} {a2 : Bytes} (h_qe : UpQe P) (h_cx : UpCx P) (h_pm : UpPm P) (h_ae : UpAe P) (h_bb : UpBb P) (h_tm : UpTm P) (h_pf : UpPf P) (h_ft : UpFt P) (h_cf : UpCf P) (h_out : UpOut P) (hR : UpR P) (hW : UpW P) (hZ : UpZ P) (h : Keep P s) : KeepOut P (execCommitAck a1 a2 s) := by
  unfold execCommitAck
  repeat' first
    | with_reducible assumption
    | with_reducible refine keepOut_next ?_
    | with_reducible refine keep_hoFinal h_qe h_cx h_pm h_ae h_bb h_tm h_pf h_ft h_cf h_out hR hW hZ ?_
    | with_reducible refine keep_hoRevert h_qe h_cx h_pm h_ae h_bb h_tm h_pf h_ft h_cf h_out hR hW hZ ?_
    | with_reducible refine keep_withHo h_ft ?_ ?_
    | with_reducible refine keep_hoSend h_qe h_ft h_out hR ?_
    | (extract_lets -underBinder -merge -useContext +onlyGivenNames x; clear_value x)
    | split
    | with_reducible intro _

theorem keep_execHandoverTimer {a1 : Nat} (h_qe : UpQe P) (h_cx : UpCx P) (h_pm : UpPm P) (h_ae : UpAe P) (h_bb : UpBb P) (h_tm : UpTm P) (h_pf : UpPf P) (h_ft : UpFt P) (h_cf : UpCf P) (h_out : UpOut P) (hR : UpR P) (hW : UpW P) (hZ : UpZ P) (h : Keep P s) : KeepOut P (execHandoverTimer a1 s) := by
  unfold execHandoverTimer
  repeat' first
    | with_reducible assumption
    | with_reducible refine keepOut_next ?_
    | with_reducible refine keep_hoRevert h_qe h_cx h_pm h_ae h_bb h_tm h_pf h_ft h_cf h_out hR hW hZ ?_
    | with_reducible refine keep_live ?_ ?_
    | split
    | with_reducible intro _

theorem keep_execQuery {a1 : Nat} {a2 : Bytes} (h_qe : UpQe P) (h_ft : UpFt P) (h_out : UpOut P) (hR : UpR P) (h : Keep P s) : KeepOut P (execQuery a1 a2 s) := by
  unfold execQuery
  repeat' first
    | with_reducible assumption
    | with_reducible refine keepOut_next ?_
    | with_reducible refine keep_withHo h_ft ?_ ?_
    | with_reducible refine keep_hoSend h_qe h_ft h_out hR ?_
    | split
    | with_reducible intro _

theorem keep_hoReply {a2 : Nat} {a3 : Nat} {a4 : Nat} {a5 : Bytes} (h_qe : UpQe P) (h_ft : UpFt P) (h_out : UpOut P) (hR : UpR P) (h : Keep P s) : Keep P (hoReply s a2 a3 a4 a5) := by
  unfold hoReply
  repeat' first
    | with_reducible assumption
    | with_reducible refine keep_hoSend h_qe h_ft h_out hR ?_

theorem keep_growAll {a2 : Nat} {a3 : Nat} (h_qe : UpQe P) (h_pm : UpPm P) (h_tm : UpTm P) (h_out : UpOut P) (hR : UpR P) (hW : UpW P) (hZ : UpZ P) (h : Keep P s) : KeepOpt P (growAll s a2 a3) := by
  induction a3 generalizing s a2 with
  | zero =>
    rw [growAll]
    repeat' first
      | with_reducible assumption
      | with_reducible refine keepOpt_eq (ih ?_) (by assumption)
      | with_reducible refine keepOpt_some ?_
      | with_reducible exact keepOpt_none
      | with_reducible refine keepGrow_eq (keep_growRun h_qe h_pm h_tm h_out hR hW hZ ?_) (by assumption)
      | (extract_lets -underBinder -merge -useContext +onlyGivenNames x; clear_value x)
      | split
  | succ _ ih =>
    rw [growAll]
    repeat' first
      | with_reducible assumption
      | with_reducible refine keepOpt_eq (ih ?_) (by assumption)
      | with_reducible refine keepOpt_some ?_
      | with_reducible exact keepOpt_none
      | with_reducible refine keepGrow_eq (keep_growRun h_qe h_pm h_tm h_out hR hW hZ ?_) (by assumption)
      | (extract_lets -underBinder -merge -useContext +onlyGivenNames x; clear_value x)
      | split

theorem keep_reserve {a2 : Nat} {a3 : Nat} {a4 : NMap Nat} (h_cf : UpCf P) (hR : UpR P) (h : Keep P s) : KeepOpt P (reserve s a2 a3 a4) := by
  unfold reserve
  repeat' first
    | with_reducible assumption
    | with_reducible refine keepOpt_some ?_
    | with_reducible exact keepOpt_none
    | with_reducible refine keep_updHo h_cf ?_
    | with_reducible refine keep_addUse hR ?_
    | with_reducible refine keep_foldl (fun _ _ _ => ?_) ?_
    | split

theorem keep_fillOffer {a2 : Nat} {a3 : Bytes} {a4 : Bytes} (h_qe : UpQe P) (h_pm : UpPm P) (h_tm : UpTm P) (h_cf : UpCf P) (h_out : UpOut P) (hR : UpR P) (hW : UpW P) (hZ : UpZ P) (h : Keep P s) : KeepExO P (fillOffer s a2 a3 a4) := by
  unfold fillOffer
  repeat' first
    | with_reducible assumption
    | with_reducible refine keepExO_ok ?_
    | with_reducible refine keepExO_error ?_
    | with_reducible exact keepOF_pool
    | with_reducible exact keepOF_quota
    | with_reducible refine keepOpt_eq (keep_reserve h_cf hR ?_) (by assumption)
    | with_reducible refine keepOpt_eq (keep_growAll h_qe h_pm h_tm h_out hR hW hZ ?_) (by assumption)
    | with_reducible refine keep_updCtx h_pm hW ?_
    | fail_if_no_progress with_reducible refine keep_up_cf h_cf (keep_eta ?_)
    | (extract_lets -underBinder -merge -useContext +onlyGivenNames x; with_reducible refine keep_cutA (P := P) (s := x) ?_ ?_; (on_goal 1 => unfold x); (on_goal 2 => (clear_value x; intro _)))
    | (extract_lets -underBinder -merge -useContext +onlyGivenNames x; clear_value x)
    | split

theorem keep_offerOpened {a2 : Nat} {a3 : Bytes} {a4 : Bytes} {a5 : Nat} {a6 : State} (h_qe : UpQe P) (h_cx : UpCx P) (h_pm : UpPm P) (h_tm : UpTm P) (h_pf : UpPf P) (h_cf : UpCf P) (h_out : UpOut P) (hR : UpR P) (hW : UpW P) (hZ : UpZ P) (h : Keep P s) (ha6 : Keep P a6) : KeepExO P (offerOpened s a2 a3 a4 a5 a6) := by
  unfold offerOpened
  repeat' first
    | with_reducible assumption
    | with_reducible refine keepExO_error ?_
    | with_reducible refine keepOF_lost ?_
    | with_reducible exact keepOF_pool
    | with_reducible exact keepOF_quota
    | with_reducible refine keep_fillOffer h_qe h_pm h_tm h_cf h_out hR hW hZ ?_
    | with_reducible refine keepP_snd (keep_openCtx h_qe h_cx h_pm h_pf h_cf h_out hR hW hZ ?_)
    | split

theorem keep_openOfferIn {a2 : State} {a3 : Nat} {a4 : Bytes} {a5 : Bytes} (h_qe : UpQe P) (h_cx : UpCx P) (h_pm : UpPm P) (h_tm : UpTm P) (h_pf : UpPf P) (h_cf : UpCf P) (h_out : UpOut P) (hR : UpR P) (hW : UpW P) (hZ : UpZ P) (h : Keep P s) (ha2 : Keep P a2) : KeepExO P (openOfferIn s a2 a3 a4 a5) := by
  unfold openOfferIn
  repeat' first
    | with_reducible assumption
    | with_reducible refine keep_offerOpened h_qe h_cx h_pm h_tm h_pf h_cf h_out hR hW hZ ?_ ?_
    | with_reducible refine keepP_snd (keep_openCtx h_qe h_cx h_pm h_pf h_cf h_out hR hW hZ ?_)

theorem keep_openOffer {a2 : Nat} {a3 : Bytes} (h_qe : UpQe P) (h_cx : UpCx P) (h_pm : UpPm P) (h_tm : UpTm P) (h_pf : UpPf P) (h_cf : UpCf P) (h_out : UpOut P) (hR : UpR P) (hW : UpW P) (hZ : UpZ P) (h : Keep P s) : KeepExO P (openOffer s a2 a3) := by
  unfold openOffer
  repeat' first
    | with_reducible assumption
    | with_reducible refine keep_openOfferIn h_qe h_cx h_pm h_tm h_pf h_cf h_out hR hW hZ ?_ ?_
    | with_reducible refine keep_writeSet h_cx hW ?_

theorem keep_offerFailed {a2 : Nat} {a3 : Bytes} {a4 : OfferFail} (h_qe : UpQe P) (h_ft : UpFt P) (h_out : UpOut P) (hR : UpR P) (h : Keep P s) (ha4 : KeepOF P a4) : Keep P (offerFailed s a2 a3 a4) := by
  unfold offerFailed
  repeat' first
    | with_reducible assumption
    | with_reducible refine keep_hoReply h_qe h_ft h_out hR ?_
    | with_reducible refine keep_raise1 h_qe h_out hR ?_
    | split
    | with_reducible exact keepOF_eq (by assumption) rfl

theorem keep_execOffer {a1 : Nat} {a2 : MsgRead} (h_qe : UpQe P) (h_cx : UpCx P) (h_pm : UpPm P) (h_tm : UpTm P) (h_pf : UpPf P) (h_ft : UpFt P) (h_cf : UpCf P) (h_out : UpOut P) (hR : UpR P) (hW : UpW P) (hZ : UpZ P) (h : Keep P s) : KeepOut P (execOffer a1 a2 s) := by
  unfold execOffer
  repeat' first
    | with_reducible assumption
    | with_reducible refine keepOut_next ?_
    | with_reducible refine keep_offerFailed h_qe h_ft h_out hR ?_ ?_
    | with_reducible refine keepExO_eq (keep_openOffer h_qe h_cx h_pm h_tm h_pf h_cf h_out hR hW hZ ?_) (by assumption)
    | with_reducible refine keepExO_err (keep_openOffer h_qe h_cx h_pm h_tm h_pf h_cf h_out hR hW hZ ?_) (by assumption)
    | with_reducible refine keep_hoReply h_qe h_ft h_out hR ?_
    | with_reducible refine keep_holdHo h_ft ?_
    | with_reducible refine keep_withHo h_ft ?_ ?_
    | with_reducible refine keep_startZeroing h_cx hZ ?_
    | with_reducible refine keepExS_eq (keep_readCtx h_qe h_cx h_pm h_pf h_cf h_out hR ?_) (by assumption)
    | with_reducible refine keepExS_err (keep_readCtx h_qe h_cx h_pm h_pf h_cf h_out hR ?_) (by assumption)
    | with_reducible refine keep_takeReads h_qe h_tm h_cf h_out hR ?_
    | (extract_lets -underBinder -merge -useContext +onlyGivenNames x; clear_value x)
    | split
    | with_reducible intro _

theorem keep_untakeParts {a2 : Nat} {a3 : List Nat} (h_qe : UpQe P) (h_pm : UpPm P) (h_tm : UpTm P) (h_cf : UpCf P) (h_out : UpOut P) (hR : UpR P) (h : Keep P s) : Keep P (untakeParts s a2 a3) := by
  unfold untakeParts
  repeat' first
    | with_reducible assumption
    | with_reducible refine keep_updHo h_cf ?_
    | with_reducible refine keep_untakeSlots h_qe h_pm h_tm h_out hR ?_
    | split

theorem keep_releaseReserved {a2 : Handover} (h_qe : UpQe P) (h_pm : UpPm P) (h_tm : UpTm P) (h_out : UpOut P) (hR : UpR P) (h : Keep P s) : Keep P (releaseReserved s a2) := by
  unfold releaseReserved
  repeat' first
    | with_reducible assumption
    | with_reducible refine keep_untakeSlots h_qe h_pm h_tm h_out hR ?_
    | with_reducible refine keep_subUse hR ?_
    | with_reducible refine keep_foldl (fun _ _ _ => ?_) ?_

theorem keep_takeReserved {a2 : Nat} {a3 : Nat} {a4 : Nat} {a5 : Handover} (h_cf : UpCf P) (hR : UpR P) (h : Keep P s) : Keep P (takeReserved s a2 a3 a4 a5) := by
  unfold takeReserved
  repeat' first
    | with_reducible assumption
    | with_reducible refine keep_updHo h_cf ?_
    | with_reducible refine keep_subUse hR ?_
    | split

theorem keep_installPage {a2 : Nat} {a3 : HoPage} {a4 : Nat} (h_qe : UpQe P) (h_pm : UpPm P) (h_tm : UpTm P) (h_out : UpOut P) (hR : UpR P) (hW : UpW P) (hZ : UpZ P) (h : Keep P s) : KeepPage P (installPage s a2 a3 a4) := by
  unfold installPage
  repeat' first
    | with_reducible assumption
    | with_reducible refine keepPage_done ?_
    | with_reducible exact keepPage_stalled
    | with_reducible exact keepPage_poolEmpty
    | with_reducible exact keepPage_refuse
    | with_reducible exact keepPage_bad
    | with_reducible refine keep_stampGen h_tm hW ?_
    | with_reducible refine keepGrow_eq (keep_growRun h_qe h_pm h_tm h_out hR hW hZ ?_) (by assumption)
    | with_reducible refine keepEdit_eq (keep_edit h_qe h_pm h_tm h_out hR hW ?_) (by assumption)
    | with_reducible refine keep_leaveEdit h_pm hR ?_
    | (extract_lets -underBinder -merge -useContext +onlyGivenNames x; with_reducible refine keep_cutA (P := P) (s := x) ?_ ?_; (on_goal 1 => unfold x); (on_goal 2 => (clear_value x; intro _)))
    | (extract_lets -underBinder -merge -useContext +onlyGivenNames x; clear_value x)
    | split

theorem keep_takePart {a2 : Nat} {a3 : Bytes} {a4 : Handover} {a5 : HoPage} (h_qe : UpQe P) (h_pm : UpPm P) (h_tm : UpTm P) (h_cf : UpCf P) (h_out : UpOut P) (hR : UpR P) (h : Keep P s) : KeepP P (takePart s a2 a3 a4 a5) := by
  unfold takePart
  repeat' first
    | with_reducible assumption
    | with_reducible refine keep_takeReserved h_cf hR ?_
    | with_reducible refine keep_untakeParts h_qe h_pm h_tm h_cf h_out hR ?_
    | with_reducible refine keep_updHo h_cf ?_
    | with_reducible refine keep_allocIn h_qe h_pm h_out hR ?_
    | with_reducible refine keepP_eq (keep_allocIn h_qe h_pm h_out hR ?_) (by assumption)
    | (extract_lets -underBinder -merge -useContext +onlyGivenNames x; with_reducible refine keep_cutA (P := P) (s := x) ?_ ?_; (on_goal 1 => unfold x); (on_goal 2 => (clear_value x; intro _)))
    | (extract_lets -underBinder -merge -useContext +onlyGivenNames x; clear_value x)
    | split
    | with_reducible refine keepP_mk ?_

theorem keep_placeFlash {a2 : Nat} {a3 : Handover} {a4 : HoPage} {a5 : Bytes} (h_qe : UpQe P) (h_pm : UpPm P) (h_tm : UpTm P) (h_cf : UpCf P) (h_out : UpOut P) (hR : UpR P) (hW : UpW P) (hZ : UpZ P) (h : Keep P s) : KeepPage P (placeFlash s a2 a3 a4 a5) := by
  unfold placeFlash
  repeat' first
    | with_reducible assumption
    | with_reducible exact keepPage_waits
    | with_reducible exact keepPage_refuse
    | with_reducible refine keep_installPage h_qe h_pm h_tm h_out hR hW hZ ?_
    | with_reducible refine keep_takeReserved h_cf hR ?_
    | with_reducible refine keepOptP_eq (keep_fillSlot h_pm h_tm hR ?_) (by assumption)
    | (extract_lets -underBinder -merge -useContext +onlyGivenNames x; with_reducible refine keep_cutA (P := P) (s := x) ?_ ?_; (on_goal 1 => unfold x); (on_goal 2 => (clear_value x; intro _)))
    | split

theorem keep_placePage {a2 : Nat} {a3 : Handover} {a4 : HoPage} (h_qe : UpQe P) (h_pm : UpPm P) (h_tm : UpTm P) (h_cf : UpCf P) (h_out : UpOut P) (hR : UpR P) (hW : UpW P) (hZ : UpZ P) (h : Keep P s) : KeepPage P (placePage s a2 a3 a4) := by
  unfold placePage
  repeat' first
    | with_reducible assumption
    | with_reducible exact keepPage_waits
    | with_reducible exact keepPage_refuse
    | with_reducible refine keepPage_full ?_
    | with_reducible exact keepPage_lost
    | with_reducible refine keep_placeFlash h_qe h_pm h_tm h_cf h_out hR hW hZ ?_
    | with_reducible refine keepP_eq (keep_takePart h_qe h_pm h_tm h_cf h_out hR ?_) (by assumption)
    | with_reducible refine keep_installPage h_qe h_pm h_tm h_out hR hW hZ ?_
    | with_reducible refine keep_untakeParts h_qe h_pm h_tm h_cf h_out hR ?_
    | with_reducible refine keep_slotWrite h_tm hW ?_
    | (extract_lets -underBinder -merge -useContext +onlyGivenNames x; clear_value x)
    | split

theorem keep_pageAnswer {a2 : Nat} {a3 : Bytes} {a4 : PageRes} (h_qe : UpQe P) (h_cx : UpCx P) (h_pm : UpPm P) (h_pf : UpPf P) (h_ft : UpFt P) (h_cf : UpCf P) (h_out : UpOut P) (hR : UpR P) (h : Keep P s) (ha4 : KeepPage P a4) : Keep P (pageAnswer s a2 a3 a4) := by
  unfold pageAnswer
  repeat' first
    | with_reducible assumption
    | with_reducible refine keep_hoReply h_qe h_ft h_out hR ?_
    | with_reducible refine keep_updHo h_cf ?_
    | with_reducible refine keep_holdHo h_ft ?_
    | with_reducible refine keep_waitEdit h_qe h_pm h_out hR ?_
    | with_reducible refine keep_entryFailed h_qe h_cx h_pm h_pf h_cf h_out hR ?_
    | with_reducible refine keep_logFailure h_qe h_pf h_cf h_out hR ?_
    | with_reducible refine keep_raise1 h_qe h_out hR ?_
    | (extract_lets -underBinder -merge -useContext +onlyGivenNames x; clear_value x)
    | split
    | with_reducible refine keepPage_eq (by assumption) rfl
    | with_reducible refine keepPage_eqf (by assumption) rfl

theorem keep_execPage {a1 : Nat} {a2 : Bytes} (h_qe : UpQe P) (h_cx : UpCx P) (h_pm : UpPm P) (h_tm : UpTm P) (h_pf : UpPf P) (h_ft : UpFt P) (h_cf : UpCf P) (h_out : UpOut P) (hR : UpR P) (hW : UpW P) (hZ : UpZ P) (h : Keep P s) : KeepOut P (execPage a1 a2 s) := by
  unfold execPage
  repeat' first
    | with_reducible assumption
    | with_reducible refine keepOut_next ?_
    | with_reducible refine keep_pageAnswer h_qe h_cx h_pm h_pf h_ft h_cf h_out hR ?_ ?_
    | with_reducible refine keep_placePage h_qe h_pm h_tm h_cf h_out hR hW hZ ?_
    | with_reducible refine keep_hoReply h_qe h_ft h_out hR ?_
    | with_reducible refine keep_withHo h_ft ?_ ?_
    | with_reducible refine keepExS_eq (keep_readCtx h_qe h_cx h_pm h_pf h_cf h_out hR ?_) (by assumption)
    | with_reducible refine keepExS_err (keep_readCtx h_qe h_cx h_pm h_pf h_cf h_out hR ?_) (by assumption)
    | (extract_lets -underBinder -merge -useContext +onlyGivenNames x; clear_value x)
    | split
    | with_reducible intro _

theorem keep_execCommit {a1 : Nat} {a2 : Bytes} (h_qe : UpQe P) (h_cx : UpCx P) (h_pm : UpPm P) (h_pf : UpPf P) (h_ft : UpFt P) (h_cf : UpCf P) (h_out : UpOut P) (hR : UpR P) (hW : UpW P) (h : Keep P s) : KeepOut P (execCommit a1 a2 s) := by
  unfold execCommit
  repeat' first
    | with_reducible assumption
    | with_reducible refine keepOut_next ?_
    | with_reducible refine keep_hoReply h_qe h_ft h_out hR ?_
    | with_reducible refine keep_updHo h_cf ?_
    | with_reducible refine keep_holdHo h_ft ?_
    | with_reducible refine keep_withHo h_ft ?_ ?_
    | with_reducible refine keepExS_eq (keep_readCtx h_qe h_cx h_pm h_pf h_cf h_out hR ?_) (by assumption)
    | with_reducible refine keepExS_err (keep_readCtx h_qe h_cx h_pm h_pf h_cf h_out hR ?_) (by assumption)
    | with_reducible refine keep_updCtx h_pm hW ?_
    | (extract_lets -underBinder -merge -useContext +onlyGivenNames x; clear_value x)
    | split
    | with_reducible intro _

theorem keep_execFinal {a1 : Nat} {a2 : Bytes} (h_qe : UpQe P) (h_pm : UpPm P) (h_tm : UpTm P) (h_ft : UpFt P) (h_cf : UpCf P) (h_out : UpOut P) (hR : UpR P) (h : Keep P s) : KeepOut P (execFinal a1 a2 s) := by
  unfold execFinal
  repeat' first
    | with_reducible assumption
    | with_reducible refine keepOut_next ?_
    | with_reducible refine keep_releaseReserved h_qe h_pm h_tm h_out hR ?_
    | with_reducible refine keep_dropHo h_pm h_cf hR ?_
    | with_reducible refine keep_withHo h_ft ?_ ?_
    | split
    | with_reducible intro _

theorem keep_hoDrop {a2 : Nat} {a3 : Handover} (h_qe : UpQe P) (h_cx : UpCx P) (h_pm : UpPm P) (h_tm : UpTm P) (h_pf : UpPf P) (h_cf : UpCf P) (h_out : UpOut P) (hR : UpR P) (hW : UpW P) (h : Keep P s) : Keep P (hoDrop s a2 a3) := by
  unfold hoDrop
  repeat' first
    | with_reducible assumption
    | with_reducible refine keep_releaseReserved h_qe h_pm h_tm h_out hR ?_
    | with_reducible refine keep_dropHo h_pm h_cf hR ?_
    | with_reducible refine keep_closePoint h_qe h_cx h_pm h_tm h_pf h_out hR hW ?_
    | (extract_lets -underBinder -merge -useContext +onlyGivenNames x; with_reducible refine keep_cut (s := x) ?_ ?_; (on_goal 1 => unfold x); (on_goal 2 => (clear_value x; intro _)))
    | split

theorem keep_execAbandon {a1 : Nat} {a2 : Bytes} (h_qe : UpQe P) (h_cx : UpCx P) (h_pm : UpPm P) (h_tm : UpTm P) (h_pf : UpPf P) (h_ft : UpFt P) (h_cf : UpCf P) (h_out : UpOut P) (hR : UpR P) (hW : UpW P) (h : Keep P s) : KeepOut P (execAbandon a1 a2 s) := by
  unfold execAbandon
  repeat' first
    | with_reducible assumption
    | with_reducible refine keepOut_next ?_
    | with_reducible refine keep_hoDrop h_qe h_cx h_pm h_tm h_pf h_cf h_out hR hW ?_
    | with_reducible refine keep_withHo h_ft ?_ ?_
    | split
    | with_reducible intro _

theorem keep_execQueryTimer {a1 : Nat} (h_qe : UpQe P) (h_ft : UpFt P) (h_cf : UpCf P) (h_out : UpOut P) (hR : UpR P) (h : Keep P s) : KeepOut P (execQueryTimer a1 s) := by
  unfold execQueryTimer
  repeat' first
    | with_reducible assumption
    | with_reducible refine keepOut_next ?_
    | with_reducible refine keep_updHo h_cf ?_
    | with_reducible refine keep_hoSend h_qe h_ft h_out hR ?_
    | with_reducible refine keep_live ?_ ?_
    | split
    | with_reducible intro _

/-! ### Machine/Recovery.lean -/


theorem keep_takeMgmt {a2 : Mgmt} (h_ft : UpFt P) (h : Keep P s) : Keep P (takeMgmt s a2) := by
  unfold takeMgmt
  repeat' first
    | with_reducible assumption
    | fail_if_no_progress with_reducible refine keep_up_ft h_ft (keep_eta ?_)

theorem keep_holdMgmt {a2 : Mgmt} (h_ft : UpFt P) (h : Keep P s) : Keep P (holdMgmt s a2) := by
  unfold holdMgmt
  repeat' first
    | with_reducible assumption
    | fail_if_no_progress with_reducible refine keep_up_ft h_ft (keep_eta ?_)
    | split

theorem keep_mgRepeat {a2 : Mgmt} {a3 : Nat} (h_ft : UpFt P) (h_cf : UpCf P) (h : Keep P s) : Keep P (mgRepeat s a2 a3) := by
  unfold mgRepeat
  repeat' first
    | with_reducible assumption
    | with_reducible refine keep_mgrReply h_ft h_cf ?_
    | with_reducible refine keep_sendMgr h_ft ?_
    | fail_if_no_progress with_reducible refine keep_up_cf h_cf (keep_eta ?_)
    | (extract_lets -underBinder -merge -useContext +onlyGivenNames x; with_reducible refine keep_cut (s := x) ?_ ?_; (on_goal 1 => unfold x); (on_goal 2 => (clear_value x; intro _)))
    | (extract_lets -underBinder -merge -useContext +onlyGivenNames x; clear_value x)
    | split

theorem keep_mgAccept {a2 : Mgmt} {a3 : Nat} {a4 : Manager} (h_qe : UpQe P) (h_cf : UpCf P) (h_tn : UpTn P) (h_out : UpOut P) (hR : UpR P) (h : Keep P s) : Keep P (mgAccept s a2 a3 a4) := by
  unfold mgAccept
  repeat' first
    | with_reducible assumption
    | with_reducible refine keep_commit h_qe h_tn h_out hR ?_
    | fail_if_no_progress with_reducible refine keep_up_cf h_cf (keep_eta ?_)
    | fail_if_no_progress with_reducible refine keep_up_tn h_tn (keep_eta ?_)

theorem keep_mgmtRow {a2 : Nat} {a3 : Mgmt} {a4 : Nat → State → State} (h_qe : UpQe P) (h_cx : UpCx P) (h_ft : UpFt P) (h_cf : UpCf P) (h_tn : UpTn P) (h_out : UpOut P) (hR : UpR P) (hZ : UpZ P) (h : Keep P s) (ha4 : ∀ x0 x1, Keep P x1 → Keep P (a4 x0 x1)) : Keep P (mgmtRow s a2 a3 a4) := by
  unfold mgmtRow
  repeat' first
    | with_reducible assumption
    | with_reducible apply ha4
    | with_reducible refine keep_mgAccept h_qe h_cf h_tn h_out hR ?_
    | with_reducible refine keep_mgRepeat h_ft h_cf ?_
    | with_reducible refine keep_holdMgmt h_ft ?_
    | with_reducible refine keep_takeMgmt h_ft ?_
    | with_reducible refine keep_mgrReply h_ft h_cf ?_
    | with_reducible refine keep_startZeroing h_cx hZ ?_
    | with_reducible refine keep_raise1 h_qe h_out hR ?_
    | with_reducible refine keep_live ?_ ?_
    | (extract_lets -underBinder -merge -useContext +onlyGivenNames x; with_reducible refine keep_cut (s := x) ?_ ?_; (on_goal 1 => unfold x); (on_goal 2 => (clear_value x; intro _)))
    | (extract_lets -underBinder -merge -useContext +onlyGivenNames x; clear_value x)
    | split
    | with_reducible intro _

theorem keep_mgAnswer {a2 : Mgmt} {a3 : Nat} {a4 : Nat} {a5 : Bytes} (h_ft : UpFt P) (h_cf : UpCf P) (h : Keep P s) : Keep P (mgAnswer s a2 a3 a4 a5) := by
  unfold mgAnswer
  repeat' first
    | with_reducible assumption
    | with_reducible refine keep_mgrReply h_ft h_cf ?_

theorem keep_setFloor {a2 : Nat} (h_qe : UpQe P) (h_tn : UpTn P) (h_out : UpOut P) (hR : UpR P) (h : Keep P s) : Keep P (setFloor s a2) := by
  unfold setFloor
  repeat' first
    | with_reducible assumption
    | with_reducible refine keep_commit h_qe h_tn h_out hR ?_
    | fail_if_no_progress with_reducible refine keep_up_tn h_tn (keep_eta ?_)

theorem keep_recRoom {a2 : Nat} (h_qe : UpQe P) (h_cf : UpCf P) (h_tn : UpTn P) (h_out : UpOut P) (hR : UpR P) (h : Keep P s) : KeepOpt P (recRoom s a2) := by
  unfold recRoom
  repeat' first
    | with_reducible assumption
    | with_reducible refine keepOpt_some ?_
    | with_reducible exact keepOpt_none
    | with_reducible refine keep_setFloor h_qe h_tn h_out hR ?_
    | fail_if_no_progress with_reducible refine keep_up_cf h_cf (keep_eta ?_)
    | split

theorem keep_recAbort {a2 : Nat} (h_qe : UpQe P) (h_cx : UpCx P) (h_pm : UpPm P) (h_ae : UpAe P) (h_bb : UpBb P) (h_tm : UpTm P) (h_pf : UpPf P) (h_ft : UpFt P) (h_cf : UpCf P) (h_out : UpOut P) (hR : UpR P) (hW : UpW P) (hZ : UpZ P) (h : Keep P s) : Keep P (recAbort s a2) := by
  unfold recAbort
  repeat' first
    | with_reducible assumption
    | with_reducible refine keep_hoRevert h_qe h_cx h_pm h_ae h_bb h_tm h_pf h_ft h_cf h_out hR hW hZ ?_
    | with_reducible refine keep_recDone h_qe h_ft h_cf hR ?_
    | fail_if_no_progress with_reducible refine keep_up_cf h_cf (keep_eta ?_)
    | (extract_lets -underBinder -merge -useContext +onlyGivenNames x; with_reducible refine keep_cut (s := x) ?_ ?_; (on_goal 1 => unfold x); (on_goal 2 => (clear_value x; intro _)))
    | (extract_lets -underBinder -merge -useContext +onlyGivenNames x; clear_value x)
    | split

theorem keep_actFence {a2 : Bytes} (h_qe : UpQe P) (h_ft : UpFt P) (h_cf : UpCf P) (hR : UpR P) (h : Keep P s) : Keep P (actFence s a2) := by
  unfold actFence
  repeat' first
    | with_reducible assumption
    | with_reducible refine keep_recDone h_qe h_ft h_cf hR ?_
    | fail_if_no_progress with_reducible refine keep_up_cf h_cf (keep_eta ?_)

theorem keep_actDrain {a2 : Bytes} (h_qe : UpQe P) (h_pm : UpPm P) (h_ae : UpAe P) (h_bb : UpBb P) (h_ac : UpAc P) (h_tm : UpTm P) (h_ft : UpFt P) (h_cf : UpCf P) (h_tn : UpTn P) (h_lx : UpLx P) (h_out : UpOut P) (hR : UpR P) (hW : UpW P) (h : Keep P s) : Keep P (actDrain s a2) := by
  unfold actDrain
  repeat' first
    | with_reducible assumption
    | with_reducible refine keep_finishOp h_qe h_pm h_ae h_tm h_ft h_cf h_out hR hW ?_
    | with_reducible refine keep_abortReq h_qe h_pm h_ae h_bb h_ac h_tm h_ft h_cf h_tn h_lx h_out hR hW ?_
    | with_reducible refine keep_discardDraft h_qe h_out hR ?_
    | with_reducible refine keep_drainCheck h_qe h_ft h_cf hR ?_
    | fail_if_no_progress with_reducible refine keep_up_ae h_ae (keep_eta ?_)
    | fail_if_no_progress with_reducible refine keep_up_cf h_cf (keep_eta ?_)
    | with_reducible refine keep_foldl (fun _ _ _ => ?_) ?_

theorem keep_actReopen {a2 : Bytes} (h_qe : UpQe P) (h_ft : UpFt P) (h_cf : UpCf P) (hR : UpR P) (h : Keep P s) : Keep P (actReopen s a2) := by
  unfold actReopen
  repeat' first
    | with_reducible assumption
    | with_reducible refine keep_recDone h_qe h_ft h_cf hR ?_
    | fail_if_no_progress with_reducible refine keep_up_cf h_cf (keep_eta ?_)
    | (extract_lets -underBinder -merge -useContext +onlyGivenNames x; clear_value x)
    | split

theorem keep_actRehome {a2 : Bytes} (h_qe : UpQe P) (h_cx : UpCx P) (h_pm : UpPm P) (h_tm : UpTm P) (h_pf : UpPf P) (h_ft : UpFt P) (h_cf : UpCf P) (h_out : UpOut P) (hR : UpR P) (hW : UpW P) (h : Keep P s) : Keep P (actRehome s a2) := by
  unfold actRehome
  extract_lets set shard node ids s1 s2 s3
  have h1 : Keep P s1 := keep_writeMem hW h
  have h2 : Keep P s2 := by
    unfold s2
    split
    · exact keep_foldl (fun _ _ h => keep_updCtx h_pm hW h) h1
    · exact h1
  have h3 : Keep P s3 := by
    refine keep_foldl (fun _ _ h => keep_putForward h_cf ?_) h2
    split
    · exact h
    · exact keep_closePoint h_qe h_cx h_pm h_tm h_pf h_out hR hW h
  clear_value s3
  split
  · exact keep_recDone h_qe h_ft h_cf hR h3
  · exact keep_up_cf h_cf (keep_eta h3)

theorem keep_testRebuild {a2 : Nat} (h_qe : UpQe P) (h_cx : UpCx P) (h_pm : UpPm P) (h_pf : UpPf P) (h_cf : UpCf P) (h_out : UpOut P) (hR : UpR P) (h : Keep P s) : KeepP P (testRebuild s a2) := by
  unfold testRebuild
  repeat' first
    | with_reducible assumption
    | with_reducible refine keepExS_eq (keep_readCtx h_qe h_cx h_pm h_pf h_cf h_out hR ?_) (by assumption)
    | with_reducible refine keepExS_err (keep_readCtx h_qe h_cx h_pm h_pf h_cf h_out hR ?_) (by assumption)
    | split
    | with_reducible refine keepP_mk ?_

theorem keep_actRebuild {a2 : Nat} (h_cf : UpCf P) (h : Keep P s) : Keep P (actRebuild s a2) := by
  unfold actRebuild
  repeat' first
    | with_reducible assumption
    | fail_if_no_progress with_reducible refine keep_up_cf h_cf (keep_eta ?_)

theorem keep_testHandover {a2 : Bytes} (h_qe : UpQe P) (h_cx : UpCx P) (h_pm : UpPm P) (h_pf : UpPf P) (h_cf : UpCf P) (h_out : UpOut P) (hR : UpR P) (h : Keep P s) : KeepP P (testHandover s a2) := by
  unfold testHandover
  repeat' first
    | with_reducible assumption
    | with_reducible refine keepExS_eq (keep_readCtx h_qe h_cx h_pm h_pf h_cf h_out hR ?_) (by assumption)
    | with_reducible refine keepExS_err (keep_readCtx h_qe h_cx h_pm h_pf h_cf h_out hR ?_) (by assumption)
    | (extract_lets -underBinder -merge -useContext +onlyGivenNames x; clear_value x)
    | split
    | with_reducible refine keepP_mk ?_

theorem keep_recTest {a2 : Nat} {a3 : Bytes} (h_qe : UpQe P) (h_cx : UpCx P) (h_pm : UpPm P) (h_pf : UpPf P) (h_cf : UpCf P) (h_out : UpOut P) (hR : UpR P) (h : Keep P s) : KeepP P (recTest s a2 a3) := by
  unfold recTest
  repeat' first
    | with_reducible assumption
    | with_reducible refine keep_testHandover h_qe h_cx h_pm h_pf h_cf h_out hR ?_
    | with_reducible refine keep_testRebuild h_qe h_cx h_pm h_pf h_cf h_out hR ?_
    | split
    | with_reducible refine keepP_mk ?_

theorem keep_recAct {a2 : Nat} {a3 : Nat} {a4 : Bytes} (h_qe : UpQe P) (h_cx : UpCx P) (h_pm : UpPm P) (h_ae : UpAe P) (h_bb : UpBb P) (h_ac : UpAc P) (h_tm : UpTm P) (h_pf : UpPf P) (h_ft : UpFt P) (h_cf : UpCf P) (h_tn : UpTn P) (h_lx : UpLx P) (h_out : UpOut P) (hR : UpR P) (hW : UpW P) (h : Keep P s) : Keep P (recAct s a2 a3 a4) := by
  unfold recAct
  repeat' first
    | with_reducible assumption
    | with_reducible refine keep_actRebuild h_cf ?_
    | with_reducible refine keep_actRehome h_qe h_cx h_pm h_tm h_pf h_ft h_cf h_out hR hW ?_
    | with_reducible refine keep_actReopen h_qe h_ft h_cf hR ?_
    | with_reducible refine keep_actDrain h_qe h_pm h_ae h_bb h_ac h_tm h_ft h_cf h_tn h_lx h_out hR hW ?_
    | with_reducible refine keep_actFence h_qe h_ft h_cf hR ?_
    | with_reducible refine keep_hoStart h_qe h_ft h_cf h_out hR ?_
    | split

theorem keep_recNew {a2 : RecIssuer} {a3 : Nat} {a4 : Nat} {a5 : Bytes} (h_qe : UpQe P) (h_cx : UpCx P) (h_pm : UpPm P) (h_ae : UpAe P) (h_bb : UpBb P) (h_ac : UpAc P) (h_tm : UpTm P) (h_pf : UpPf P) (h_ft : UpFt P) (h_cf : UpCf P) (h_tn : UpTn P) (h_lx : UpLx P) (h_out : UpOut P) (hR : UpR P) (hW : UpW P) (hZ : UpZ P) (h : Keep P s) : Keep P (recNew s a2 a3 a4 a5) := by
  unfold recNew
  repeat' first
    | with_reducible assumption
    | with_reducible refine keep_recAct h_qe h_cx h_pm h_ae h_bb h_ac h_tm h_pf h_ft h_cf h_tn h_lx h_out hR hW ?_
    | with_reducible refine keepP_eq (keep_recTest h_qe h_cx h_pm h_pf h_cf h_out hR ?_) (by assumption)
    | with_reducible refine keep_recAbort h_qe h_cx h_pm h_ae h_bb h_tm h_pf h_ft h_cf h_out hR hW hZ ?_
    | with_reducible refine keepOpt_eq (keep_recRoom h_qe h_cf h_tn h_out hR ?_) (by assumption)
    | with_reducible refine keep_recAnswer h_qe h_ft h_cf hR ?_
    | fail_if_no_progress with_reducible refine keep_up_cf h_cf (keep_eta ?_)
    | (extract_lets -underBinder -merge -useContext +onlyGivenNames x; clear_value x)
    | split

theorem keep_recHandle {a2 : RecIssuer} {a3 : Nat} {a4 : Nat} {a5 : Bytes} (h_qe : UpQe P) (h_cx : UpCx P) (h_pm : UpPm P) (h_ae : UpAe P) (h_bb : UpBb P) (h_ac : UpAc P) (h_tm : UpTm P) (h_pf : UpPf P) (h_ft : UpFt P) (h_cf : UpCf P) (h_tn : UpTn P) (h_lx : UpLx P) (h_out : UpOut P) (hR : UpR P) (hW : UpW P) (hZ : UpZ P) (h : Keep P s) : Keep P (recHandle s a2 a3 a4 a5) := by
  unfold recHandle
  repeat' first
    | with_reducible assumption
    | with_reducible refine keep_recNew h_qe h_cx h_pm h_ae h_bb h_ac h_tm h_pf h_ft h_cf h_tn h_lx h_out hR hW hZ ?_
    | with_reducible refine keep_recAnswer h_qe h_ft h_cf hR ?_
    | fail_if_no_progress with_reducible refine keep_up_cf h_cf (keep_eta ?_)
    | (extract_lets -underBinder -merge -useContext +onlyGivenNames x; clear_value x)
    | split

theorem keep_recRow {a2 : Nat} {a3 : Mgmt} (h_qe : UpQe P) (h_cx : UpCx P) (h_pm : UpPm P) (h_ae : UpAe P) (h_bb : UpBb P) (h_ac : UpAc P) (h_tm : UpTm P) (h_pf : UpPf P) (h_ft : UpFt P) (h_cf : UpCf P) (h_tn : UpTn P) (h_lx : UpLx P) (h_out : UpOut P) (hR : UpR P) (hW : UpW P) (hZ : UpZ P) (h : Keep P s) : Keep P (recRow s a2 a3) := by
  unfold recRow
  repeat' first
    | with_reducible assumption
    | with_reducible refine keep_recHandle h_qe h_cx h_pm h_ae h_bb h_ac h_tm h_pf h_ft h_cf h_tn h_lx h_out hR hW hZ ?_
    | with_reducible refine keep_mgmtRow h_qe h_cx h_ft h_cf h_tn h_out hR hZ ?_ ?_
    | with_reducible intro _

theorem keep_execFence {a1 : Mgmt} (h_qe : UpQe P) (h_cx : UpCx P) (h_pm : UpPm P) (h_ae : UpAe P) (h_bb : UpBb P) (h_ac : UpAc P) (h_tm : UpTm P) (h_pf : UpPf P) (h_ft : UpFt P) (h_cf : UpCf P) (h_tn : UpTn P) (h_lx : UpLx P) (h_out : UpOut P) (hR : UpR P) (hW : UpW P) (hZ : UpZ P) (h : Keep P s) : KeepOut P (execFence a1 s) := by
  unfold execFence
  repeat' first
    | with_reducible assumption
    | with_reducible refine keepOut_next ?_
    | with_reducible refine keep_recRow h_qe h_cx h_pm h_ae h_bb h_ac h_tm h_pf h_ft h_cf h_tn h_lx h_out hR hW hZ ?_

theorem keep_execDrain {a1 : Mgmt} (h_qe : UpQe P) (h_cx : UpCx P) (h_pm : UpPm P) (h_ae : UpAe P) (h_bb : UpBb P) (h_ac : UpAc P) (h_tm : UpTm P) (h_pf : UpPf P) (h_ft : UpFt P) (h_cf : UpCf P) (h_tn : UpTn P) (h_lx : UpLx P) (h_out : UpOut P) (hR : UpR P) (hW : UpW P) (hZ : UpZ P) (h : Keep P s) : KeepOut P (execDrain a1 s) := by
  unfold execDrain
  repeat' first
    | with_reducible assumption
    | with_reducible refine keepOut_next ?_
    | with_reducible refine keep_recRow h_qe h_cx h_pm h_ae h_bb h_ac h_tm h_pf h_ft h_cf h_tn h_lx h_out hR hW hZ ?_

theorem keep_execReopen {a1 : Mgmt} (h_qe : UpQe P) (h_cx : UpCx P) (h_pm : UpPm P) (h_ae : UpAe P) (h_bb : UpBb P) (h_ac : UpAc P) (h_tm : UpTm P) (h_pf : UpPf P) (h_ft : UpFt P) (h_cf : UpCf P) (h_tn : UpTn P) (h_lx : UpLx P) (h_out : UpOut P) (hR : UpR P) (hW : UpW P) (hZ : UpZ P) (h : Keep P s) : KeepOut P (execReopen a1 s) := by
  unfold execReopen
  repeat' first
    | with_reducible assumption
    | with_reducible refine keepOut_next ?_
    | with_reducible refine keep_recRow h_qe h_cx h_pm h_ae h_bb h_ac h_tm h_pf h_ft h_cf h_tn h_lx h_out hR hW hZ ?_

theorem keep_execRehome {a1 : Mgmt} (h_qe : UpQe P) (h_cx : UpCx P) (h_pm : UpPm P) (h_ae : UpAe P) (h_bb : UpBb P) (h_ac : UpAc P) (h_tm : UpTm P) (h_pf : UpPf P) (h_ft : UpFt P) (h_cf : UpCf P) (h_tn : UpTn P) (h_lx : UpLx P) (h_out : UpOut P) (hR : UpR P) (hW : UpW P) (hZ : UpZ P) (h : Keep P s) : KeepOut P (execRehome a1 s) := by
  unfold execRehome
  repeat' first
    | with_reducible assumption
    | with_reducible refine keepOut_next ?_
    | with_reducible refine keep_recRow h_qe h_cx h_pm h_ae h_bb h_ac h_tm h_pf h_ft h_cf h_tn h_lx h_out hR hW hZ ?_

theorem keep_execRebuildMap {a1 : Mgmt} (h_qe : UpQe P) (h_cx : UpCx P) (h_pm : UpPm P) (h_ae : UpAe P) (h_bb : UpBb P) (h_ac : UpAc P) (h_tm : UpTm P) (h_pf : UpPf P) (h_ft : UpFt P) (h_cf : UpCf P) (h_tn : UpTn P) (h_lx : UpLx P) (h_out : UpOut P) (hR : UpR P) (hW : UpW P) (hZ : UpZ P) (h : Keep P s) : KeepOut P (execRebuildMap a1 s) := by
  unfold execRebuildMap
  repeat' first
    | with_reducible assumption
    | with_reducible refine keepOut_next ?_
    | with_reducible refine keep_recRow h_qe h_cx h_pm h_ae h_bb h_ac h_tm h_pf h_ft h_cf h_tn h_lx h_out hR hW hZ ?_

theorem keep_execHandover {a1 : Mgmt} (h_qe : UpQe P) (h_cx : UpCx P) (h_pm : UpPm P) (h_ae : UpAe P) (h_bb : UpBb P) (h_ac : UpAc P) (h_tm : UpTm P) (h_pf : UpPf P) (h_ft : UpFt P) (h_cf : UpCf P) (h_tn : UpTn P) (h_lx : UpLx P) (h_out : UpOut P) (hR : UpR P) (hW : UpW P) (hZ : UpZ P) (h : Keep P s) : KeepOut P (execHandover a1 s) := by
  unfold execHandover
  repeat' first
    | with_reducible assumption
    | with_reducible refine keepOut_next ?_
    | with_reducible refine keep_recRow h_qe h_cx h_pm h_ae h_bb h_ac h_tm h_pf h_ft h_cf h_tn h_lx h_out hR hW hZ ?_

theorem keep_execRecovery {a1 : Cmd} (h_qe : UpQe P) (h_cx : UpCx P) (h_pm : UpPm P) (h_ae : UpAe P) (h_bb : UpBb P) (h_ac : UpAc P) (h_tm : UpTm P) (h_pf : UpPf P) (h_ft : UpFt P) (h_cf : UpCf P) (h_tn : UpTn P) (h_lx : UpLx P) (h_out : UpOut P) (hR : UpR P) (hW : UpW P) (hZ : UpZ P) (h : Keep P s) : KeepOut P (execRecovery a1 s) := by
  unfold execRecovery
  repeat' first
    | with_reducible assumption
    | with_reducible refine keepOut_next ?_
    | with_reducible refine keep_recHandle h_qe h_cx h_pm h_ae h_bb h_ac h_tm h_pf h_ft h_cf h_tn h_lx h_out hR hW hZ ?_
    | with_reducible refine keep_startCx h_qe h_cx h_tm h_cf h_out hR hZ ?_ ?_
    | with_reducible refine keep_startCmd h_qe h_tm h_cf h_out hR ?_ ?_
    | with_reducible refine keep_complete h_qe hR ?_
    | split
    | with_reducible intro _

theorem keep_updRebuild {a2 : Nat} {a3 : Rebuild → Rebuild} (h_cf : UpCf P) (h : Keep P s) : Keep P (updRebuild s a2 a3) := by
  unfold updRebuild
  repeat' first
    | with_reducible assumption
    | fail_if_no_progress with_reducible refine keep_up_cf h_cf (keep_eta ?_)

theorem keep_rebuildStart {a2 : Nat} (h_qe : UpQe P) (h_pm : UpPm P) (h_tm : UpTm P) (h_pf : UpPf P) (h_cf : UpCf P) (h_out : UpOut P) (hR : UpR P) (h : Keep P s) : Keep P (rebuildStart s a2) := by
  unfold rebuildStart
  repeat' first
    | with_reducible assumption
    | with_reducible refine keep_updRebuild h_cf ?_
    | with_reducible refine keep_askRelease h_pm ?_
    | with_reducible refine keep_endCtxMoves h_qe h_pm h_tm h_pf h_out hR ?_
    | (extract_lets -underBinder -merge -useContext +onlyGivenNames x; with_reducible refine keep_cut (s := x) ?_ ?_; (on_goal 1 => unfold x); (on_goal 2 => (clear_value x; intro _)))
    | split

theorem keep_adoptSlot {a1 : Nat} {a2 : Nat} {a4 : Nat} (h_pm : UpPm P) (hR : UpR P) (h : Keep P s) : Keep P (adoptSlot a1 a2 s a4) := by
  unfold adoptSlot
  repeat' first
    | with_reducible assumption
    | with_reducible refine keep_subUse hR ?_
    | with_reducible refine keep_addUse hR ?_
    | fail_if_no_progress with_reducible refine keep_up_pm h_pm (keep_eta ?_)
    | split

theorem keep_dropSlot {a2 : Nat} (h_qe : UpQe P) (h_pm : UpPm P) (h_tm : UpTm P) (h_out : UpOut P) (hR : UpR P) (h : Keep P s) : Keep P (dropSlot s a2) := by
  unfold dropSlot
  repeat' first
    | with_reducible assumption
    | with_reducible refine keep_freeSlot h_qe h_pm h_tm h_out hR ?_
    | with_reducible refine keep_subUse hR ?_
    | split

theorem keep_rebuildLayer {a2 : Nat} {a3 : Nat} {a4 : Bytes} {a5 : Rebuild} {a6 : Nat} (h_pm : UpPm P) (hW : UpW P) (hZ : UpZ P) (h : Keep P s) : KeepOpt P (rebuildLayer s a2 a3 a4 a5 a6) := by
  unfold rebuildLayer
  repeat' first
    | with_reducible assumption
    | with_reducible refine keepOpt_some ?_
    | with_reducible exact keepOpt_none
    | with_reducible refine keep_writeEntry hW ?_
    | with_reducible refine keepOptP_eq (keep_takeRun h_pm ?_) (by assumption)
    | with_reducible refine keep_zeroRange hZ ?_
    | with_reducible refine keep_foldl (fun _ _ _ => ?_) ?_
    | (extract_lets -underBinder -merge -useContext +onlyGivenNames x; clear_value x)
    | split

theorem keep_rebuildLayers {a2 : Nat} {a3 : Nat} {a4 : Bytes} {a5 : Rebuild} {a6 : Nat} (h_pm : UpPm P) (hW : UpW P) (hZ : UpZ P) (h : Keep P s) : KeepOpt P (rebuildLayers s a2 a3 a4 a5 a6) := by
  induction a6 generalizing s a2 a3 a4 a5 with
  | zero =>
    rw [rebuildLayers]
    repeat' first
      | with_reducible assumption
      | with_reducible refine keepOpt_eq (ih ?_) (by assumption)
      | with_reducible refine keepOpt_some ?_
      | with_reducible exact keepOpt_none
      | with_reducible refine keep_rebuildLayer h_pm hW hZ ?_
      | split
  | succ _ ih =>
    rw [rebuildLayers]
    repeat' first
      | with_reducible assumption
      | with_reducible refine keepOpt_eq (ih ?_) (by assumption)
      | with_reducible refine keepOpt_some ?_
      | with_reducible exact keepOpt_none
      | with_reducible refine keep_rebuildLayer h_pm hW hZ ?_
      | split

theorem keep_rebuildMap {a2 : Nat} {a3 : Bytes} {a4 : Rebuild} {a5 : Nat} (h_pm : UpPm P) (hW : UpW P) (hZ : UpZ P) (h : Keep P s) : KeepOptP P (rebuildMap s a2 a3 a4 a5) := by
  unfold rebuildMap
  repeat' first
    | with_reducible assumption
    | with_reducible exact keepOptP_none
    | with_reducible refine keep_rebuildLayers h_pm hW hZ ?_
    | with_reducible refine keep_writeEntry hW ?_
    | with_reducible refine keepOptP_eq (keep_takeRun h_pm ?_) (by assumption)
    | with_reducible refine keep_zeroRange hZ ?_
    | (extract_lets -underBinder -merge -useContext +onlyGivenNames x; with_reducible refine keep_cutA (P := P) (s := x) ?_ ?_; (on_goal 1 => unfold x); (on_goal 2 => (clear_value x; intro _)))
    | (extract_lets -underBinder -merge -useContext +onlyGivenNames x; clear_value x)
    | split
    | with_reducible refine keepP_mk ?_
    | with_reducible refine keepOptP_map ?_ (fun _ _ => ?_)

theorem keep_rebuildDone {a2 : Nat} {a3 : Nat} (h_qe : UpQe P) (h_ft : UpFt P) (h_cf : UpCf P) (hR : UpR P) (h : Keep P s) : Keep P (rebuildDone s a2 a3) := by
  unfold rebuildDone
  repeat' first
    | with_reducible assumption
    | with_reducible refine keep_recDone h_qe h_ft h_cf hR ?_
    | fail_if_no_progress with_reducible refine keep_up_cf h_cf (keep_eta ?_)

theorem keep_rebuildSwap {a2 : Nat} {a3 : Bytes} {a4 : Rebuild} (h_qe : UpQe P) (h_pm : UpPm P) (h_tm : UpTm P) (h_ft : UpFt P) (h_cf : UpCf P) (h_out : UpOut P) (hR : UpR P) (hW : UpW P) (hZ : UpZ P) (h : Keep P s) : Keep P (rebuildSwap s a2 a3 a4) := by
  unfold rebuildSwap
  repeat' first
    | with_reducible assumption
    | with_reducible refine keep_rebuildDone h_qe h_ft h_cf hR ?_
    | with_reducible refine keepOptP_eq (keep_rebuildMap h_pm hW hZ ?_) (by assumption)
    | with_reducible refine keep_dropSlot h_qe h_pm h_tm h_out hR ?_
    | with_reducible refine keep_adoptSlot h_pm hR ?_
    | with_reducible refine keep_forgetBad h_pm ?_
    | with_reducible refine keep_updCtx h_pm hW ?_
    | with_reducible refine keep_freeRun h_pm ?_
    | with_reducible refine keep_setUse h_pm ?_
    | with_reducible refine keep_raiseQuota h_qe h_out hR ?_
    | with_reducible refine keep_raise1 h_qe h_out hR ?_
    | with_reducible refine keep_foldl (fun _ _ _ => ?_) ?_
    | (extract_lets -underBinder -merge -useContext +onlyGivenNames x; clear_value x)
    | split

theorem keep_rebuildEnd {a2 : Nat} {a3 : Rebuild} (h_qe : UpQe P) (h_cx : UpCx P) (h_pm : UpPm P) (h_tm : UpTm P) (h_pf : UpPf P) (h_ft : UpFt P) (h_cf : UpCf P) (h_out : UpOut P) (hR : UpR P) (hW : UpW P) (hZ : UpZ P) (h : Keep P s) : Keep P (rebuildEnd s a2 a3) := by
  unfold rebuildEnd
  repeat' first
    | with_reducible assumption
    | with_reducible refine keep_rebuildSwap h_qe h_pm h_tm h_ft h_cf h_out hR hW hZ ?_
    | with_reducible refine keep_rebuildDone h_qe h_ft h_cf hR ?_
    | with_reducible refine keepExS_eq (keep_readCtx h_qe h_cx h_pm h_pf h_cf h_out hR ?_) (by assumption)
    | with_reducible refine keepExS_err (keep_readCtx h_qe h_cx h_pm h_pf h_cf h_out hR ?_) (by assumption)
    | split

theorem keep_poisonedTail {a2 : Nat} (h_qe : UpQe P) (h_out : UpOut P) (hR : UpR P) (h : Keep P s) : Keep P (poisonedTail s a2) := by
  unfold poisonedTail
  repeat' first
    | with_reducible assumption
    | with_reducible refine keep_raise1 h_qe h_out hR ?_
    | split

theorem keep_readRebuilt {a2 : Nat} {a3 : Nat} {a4 : Rebuild} (h_qe : UpQe P) (h_tm : UpTm P) (h_out : UpOut P) (hR : UpR P) (h : Keep P s) : KeepP P (readRebuilt s a2 a3 a4) := by
  unfold readRebuilt
  repeat' first
    | with_reducible assumption
    | with_reducible refine keep_poisonedTail h_qe h_out hR ?_
    | with_reducible refine keep_unstage h_tm ?_
    | split
    | with_reducible refine keepP_mk ?_

theorem keep_execRebuildTailRead {a1 : CtxRead} (h_qe : UpQe P) (h_cx : UpCx P) (h_pm : UpPm P) (h_tm : UpTm P) (h_pf : UpPf P) (h_ft : UpFt P) (h_cf : UpCf P) (h_out : UpOut P) (hR : UpR P) (hW : UpW P) (hZ : UpZ P) (h : Keep P s) : KeepOut P (execRebuildTailRead a1 s) := by
  unfold execRebuildTailRead
  repeat' first
    | with_reducible assumption
    | with_reducible refine keepOut_next ?_
    | with_reducible refine keepP_snd (keep_readRebuilt h_qe h_tm h_out hR ?_)
    | with_reducible refine keep_rebuildEnd h_qe h_cx h_pm h_tm h_pf h_ft h_cf h_out hR hW hZ ?_
    | with_reducible refine keep_rebuildStart h_qe h_pm h_tm h_pf h_cf h_out hR ?_
    | with_reducible refine keep_updRebuild h_cf ?_
    | with_reducible refine keep_stageCounted h_tm h_out hR ?_
    | with_reducible refine keep_takeReads h_qe h_tm h_cf h_out hR ?_
    | with_reducible refine keep_live ?_ ?_
    | (extract_lets -underBinder -merge -useContext +onlyGivenNames x; with_reducible refine keep_cut (s := x) ?_ ?_; (on_goal 1 => unfold x); (on_goal 2 => (clear_value x; intro _)))
    | (extract_lets -underBinder -merge -useContext +onlyGivenNames x; clear_value x)
    | split
    | with_reducible intro _

/-! ### Machine/Cf.lean -/


theorem keep_stageRoute {a2 : Nat × Nat} (h_qe : UpQe P) (h_ft : UpFt P) (h_cf : UpCf P) (h_out : UpOut P) (hR : UpR P) (h : Keep P s) : Keep P (stageRoute s a2) := by
  unfold stageRoute
  repeat' first
    | with_reducible assumption
    | with_reducible refine keep_connShut h_qe h_ft h_out hR ?_
    | with_reducible refine keep_putConn h_ft ?_
    | fail_if_no_progress with_reducible refine keep_up_cf h_cf (keep_eta ?_)
    | (extract_lets -underBinder -merge -useContext +onlyGivenNames x; with_reducible refine keep_cut (s := x) ?_ ?_; (on_goal 1 => unfold x); (on_goal 2 => (clear_value x; intro _)))
    | (extract_lets -underBinder -merge -useContext +onlyGivenNames x; clear_value x)
    | split

theorem keep_execRouteSet {a1 : Mgmt} (h_qe : UpQe P) (h_cx : UpCx P) (h_ft : UpFt P) (h_cf : UpCf P) (h_tn : UpTn P) (h_out : UpOut P) (hR : UpR P) (hZ : UpZ P) (h : Keep P s) : KeepOut P (execRouteSet a1 s) := by
  unfold execRouteSet
  repeat' first
    | with_reducible assumption
    | with_reducible refine keepOut_next ?_
    | with_reducible refine keep_stageRoute h_qe h_ft h_cf h_out hR ?_
    | with_reducible refine keep_mgAnswer h_ft h_cf ?_
    | with_reducible refine keep_mgmtRow h_qe h_cx h_ft h_cf h_tn h_out hR hZ ?_ ?_
    | with_reducible refine keep_sweepTrees h_qe h_ft h_out hR ?_
    | with_reducible refine keep_foldl (fun _ _ _ => ?_) ?_
    | (extract_lets -underBinder -merge -useContext +onlyGivenNames x; clear_value x)
    | split
    | with_reducible intro _

theorem keep_takeEpoch {a2 : Nat} (h_cf : UpCf P) (hR : UpR P) (h : Keep P s) : Keep P (takeEpoch s a2) := by
  unfold takeEpoch
  repeat' first
    | with_reducible assumption
    | with_reducible refine keep_setF hR ?_
    | fail_if_no_progress with_reducible refine keep_up_cf h_cf (keep_eta ?_)

theorem keep_execEpochOpen {a1 : Mgmt} (h_qe : UpQe P) (h_cx : UpCx P) (h_ft : UpFt P) (h_cf : UpCf P) (h_tn : UpTn P) (h_out : UpOut P) (hR : UpR P) (hZ : UpZ P) (h : Keep P s) : KeepOut P (execEpochOpen a1 s) := by
  unfold execEpochOpen
  repeat' first
    | with_reducible assumption
    | with_reducible refine keepOut_next ?_
    | with_reducible refine keep_takeEpoch h_cf hR ?_
    | with_reducible refine keep_mgAnswer h_ft h_cf ?_
    | with_reducible refine keep_mgmtRow h_qe h_cx h_ft h_cf h_tn h_out hR hZ ?_ ?_
    | with_reducible refine keep_sweepTrees h_qe h_ft h_out hR ?_
    | with_reducible refine keep_setB hR ?_
    | with_reducible refine keep_setF hR ?_
    | fail_if_no_progress with_reducible refine keep_up_cf h_cf (keep_eta ?_)
    | (extract_lets -underBinder -merge -useContext +onlyGivenNames x; with_reducible refine keep_cut (s := x) ?_ ?_; (on_goal 1 => unfold x); (on_goal 2 => (clear_value x; intro _)))
    | (extract_lets -underBinder -merge -useContext +onlyGivenNames x; clear_value x)
    | split
    | with_reducible intro _

theorem keep_execEpochClose {a1 : Mgmt} (h_qe : UpQe P) (h_cx : UpCx P) (h_ft : UpFt P) (h_cf : UpCf P) (h_tn : UpTn P) (h_out : UpOut P) (hR : UpR P) (hZ : UpZ P) (h : Keep P s) : KeepOut P (execEpochClose a1 s) := by
  unfold execEpochClose
  repeat' first
    | with_reducible assumption
    | with_reducible refine keepOut_next ?_
    | with_reducible refine keep_mgAnswer h_ft h_cf ?_
    | with_reducible refine keep_mgmtRow h_qe h_cx h_ft h_cf h_tn h_out hR hZ ?_ ?_
    | with_reducible refine keep_sweepTrees h_qe h_ft h_out hR ?_
    | with_reducible refine keep_setB hR ?_
    | fail_if_no_progress with_reducible refine keep_up_cf h_cf (keep_eta ?_)
    | (extract_lets -underBinder -merge -useContext +onlyGivenNames x; clear_value x)
    | split
    | with_reducible intro _

theorem keep_execPortFence {a1 : Mgmt} (h_qe : UpQe P) (h_cx : UpCx P) (h_fl : UpFl P) (h_es : UpEs P) (h_ft : UpFt P) (h_cf : UpCf P) (h_tn : UpTn P) (h_out : UpOut P) (hR : UpR P) (hZ : UpZ P) (h : Keep P s) : KeepOut P (execPortFence a1 s) := by
  unfold execPortFence
  repeat' first
    | with_reducible assumption
    | with_reducible refine keepOut_next ?_
    | with_reducible refine keep_mgAnswer h_ft h_cf ?_
    | with_reducible refine keep_mgmtRow h_qe h_cx h_ft h_cf h_tn h_out hR hZ ?_ ?_
    | with_reducible refine keep_applyFence h_qe h_fl h_es h_out hR ?_
    | fail_if_no_progress with_reducible refine keep_up_cf h_cf (keep_eta ?_)
    | (extract_lets -underBinder -merge -useContext +onlyGivenNames x; clear_value x)
    | split
    | with_reducible intro _

theorem keep_execStatus {a1 : Mgmt} (h_qe : UpQe P) (h_cx : UpCx P) (h_ft : UpFt P) (h_cf : UpCf P) (h_tn : UpTn P) (h_out : UpOut P) (hR : UpR P) (hZ : UpZ P) (h : Keep P s) : KeepOut P (execStatus a1 s) := by
  unfold execStatus
  repeat' first
    | with_reducible assumption
    | with_reducible refine keepOut_next ?_
    | with_reducible refine keep_mgAnswer h_ft h_cf ?_
    | with_reducible refine keep_mgmtRow h_qe h_cx h_ft h_cf h_tn h_out hR hZ ?_ ?_
    | with_reducible intro _

theorem keep_execWatchSet {a1 : Mgmt} (h_qe : UpQe P) (h_cx : UpCx P) (h_ft : UpFt P) (h_cf : UpCf P) (h_tn : UpTn P) (h_out : UpOut P) (hR : UpR P) (hZ : UpZ P) (h : Keep P s) : KeepOut P (execWatchSet a1 s) := by
  unfold execWatchSet
  repeat' first
    | with_reducible assumption
    | with_reducible refine keepOut_next ?_
    | with_reducible refine keep_mgAnswer h_ft h_cf ?_
    | with_reducible refine keep_mgmtRow h_qe h_cx h_ft h_cf h_tn h_out hR hZ ?_ ?_
    | with_reducible refine keep_setR hR ?_
    | fail_if_no_progress with_reducible refine keep_up_cf h_cf (keep_eta ?_)
    | with_reducible refine keep_foldl (fun _ _ _ => ?_) ?_
    | with_reducible intro _

theorem keep_execScores {a1 : Mgmt} (h_qe : UpQe P) (h_cx : UpCx P) (h_ft : UpFt P) (h_cf : UpCf P) (h_tn : UpTn P) (h_out : UpOut P) (hR : UpR P) (hZ : UpZ P) (h : Keep P s) : KeepOut P (execScores a1 s) := by
  unfold execScores
  repeat' first
    | with_reducible assumption
    | with_reducible refine keepOut_next ?_
    | with_reducible refine keep_mgAnswer h_ft h_cf ?_
    | with_reducible refine keep_mgmtRow h_qe h_cx h_ft h_cf h_tn h_out hR hZ ?_ ?_
    | with_reducible intro _

theorem keep_sendHeartbeats {a2 : Nat} (h_ft : UpFt P) (h_cf : UpCf P) (h : Keep P s) : Keep P (sendHeartbeats s a2) := by
  unfold sendHeartbeats
  repeat' first
    | with_reducible assumption
    | with_reducible refine keep_sendDgram h_ft ?_
    | fail_if_no_progress with_reducible refine keep_up_cf h_cf (keep_eta ?_)
    | with_reducible refine keep_foldl (fun _ _ _ => ?_) ?_
    | split

theorem keep_execHeartbeatSend  (h_qe : UpQe P) (h_ft : UpFt P) (h_cf : UpCf P) (h_out : UpOut P) (hR : UpR P) (h : Keep P s) : KeepOut P (execHeartbeatSend s) := by
  unfold execHeartbeatSend
  repeat' first
    | with_reducible assumption
    | with_reducible refine keepOut_next ?_
    | with_reducible refine keep_sendHeartbeats h_ft h_cf ?_
    | with_reducible refine keep_sweepTrees h_qe h_ft h_out hR ?_
    | with_reducible refine keep_live ?_ ?_
    | split
    | with_reducible intro _

theorem keep_setSuspect {a2 : Nat} {a3 : Nat} {a4 : Bool} (h_qe : UpQe P) (h_ft : UpFt P) (h_cf : UpCf P) (h_out : UpOut P) (hR : UpR P) (h : Keep P s) : Keep P (setSuspect s a2 a3 a4) := by
  unfold setSuspect
  repeat' first
    | with_reducible assumption
    | with_reducible refine keep_noticeManagers h_ft h_cf ?_
    | with_reducible refine keep_noticeOrLose h_qe h_out hR ?_
    | with_reducible refine keep_raise1 h_qe h_out hR ?_
    | with_reducible refine keep_setR hR ?_
    | (extract_lets -underBinder -merge -useContext +onlyGivenNames x; with_reducible refine keep_cut (s := x) ?_ ?_; (on_goal 1 => unfold x); (on_goal 2 => (clear_value x; intro _)))
    | (extract_lets -underBinder -merge -useContext +onlyGivenNames x; clear_value x)
    | split

theorem keep_execHeartbeatReceive {a1 : Nat} {a2 : Bytes} (h_qe : UpQe P) (h_ft : UpFt P) (h_cf : UpCf P) (h_out : UpOut P) (hR : UpR P) (h : Keep P s) : KeepOut P (execHeartbeatReceive a1 a2 s) := by
  unfold execHeartbeatReceive
  repeat' first
    | with_reducible assumption
    | with_reducible refine keepOut_next ?_
    | with_reducible refine keep_setSuspect h_qe h_ft h_cf h_out hR ?_
    | with_reducible refine keep_live ?_ ?_
    | fail_if_no_progress with_reducible refine keep_up_ft h_ft (keep_eta ?_)
    | fail_if_no_progress with_reducible refine keep_up_cf h_cf (keep_eta ?_)
    | with_reducible refine keep_foldl (fun _ _ _ => ?_) ?_
    | split
    | with_reducible intro _

theorem keep_execHeartbeatPeriodEnd  (h_qe : UpQe P) (h_ft : UpFt P) (h_cf : UpCf P) (h_out : UpOut P) (hR : UpR P) (h : Keep P s) : KeepOut P (execHeartbeatPeriodEnd s) := by
  unfold execHeartbeatPeriodEnd
  repeat' first
    | with_reducible assumption
    | with_reducible refine keepOut_next ?_
    | with_reducible refine keep_setSuspect h_qe h_ft h_cf h_out hR ?_
    | with_reducible refine keep_live ?_ ?_
    | fail_if_no_progress with_reducible refine keep_up_cf h_cf (keep_eta ?_)
    | with_reducible refine keep_foldl (fun _ _ _ => ?_) ?_
    | (extract_lets -underBinder -merge -useContext +onlyGivenNames x; with_reducible refine keep_cut (s := x) ?_ ?_; (on_goal 1 => unfold x); (on_goal 2 => (clear_value x; intro _)))
    | (extract_lets -underBinder -merge -useContext +onlyGivenNames x; clear_value x)
    | split
    | with_reducible intro _

theorem keep_noteHealth {a2 : Nat} {a3 : Nat} (h_tn : UpTn P) (h : Keep P s) : Keep P (noteHealth s a2 a3) := by
  unfold noteHealth
  repeat' first
    | with_reducible assumption
    | fail_if_no_progress with_reducible refine keep_up_tn h_tn (keep_eta ?_)
    | (extract_lets -underBinder -merge -useContext +onlyGivenNames x; clear_value x)
    | split

theorem keep_formScore {a1 : NMap Nat} {a3 : Nat} (h_qe : UpQe P) (h_ft : UpFt P) (h_cf : UpCf P) (h_tn : UpTn P) (h_out : UpOut P) (hR : UpR P) (h : Keep P s) : Keep P (formScore a1 s a3) := by
  unfold formScore
  extract_lets old new mark s1 s2
  have h1 : Keep P s1 := by
    refine keep_noteHealth h_tn ?_
    split
    · exact h
    · exact keep_setR hR h
  split
  · exact keep_noticeManagers h_ft h_cf (keep_noticeOrLose h_qe h_out hR (keep_raise1 h_qe h_out hR (keep_setR hR h1)))
  · exact h1

theorem keep_execHealthPeriod {a1 : List (Nat × Nat)} (h_qe : UpQe P) (h_ft : UpFt P) (h_cf : UpCf P) (h_tn : UpTn P) (h_out : UpOut P) (hR : UpR P) (h : Keep P s) : KeepOut P (execHealthPeriod a1 s) := by
  unfold execHealthPeriod
  repeat' first
    | with_reducible assumption
    | with_reducible refine keepOut_next ?_
    | with_reducible refine keep_formScore h_qe h_ft h_cf h_tn h_out hR ?_
    | with_reducible refine keep_sweepTrees h_qe h_ft h_out hR ?_
    | with_reducible refine keep_live ?_ ?_
    | fail_if_no_progress with_reducible refine keep_up_cf h_cf (keep_eta ?_)
    | with_reducible refine keep_foldl (fun _ _ _ => ?_) ?_
    | split
    | with_reducible intro _

/-! ### Machine/Proof.lean -/


theorem keep_endPass  (h_qe : UpQe P) (h_pm : UpPm P) (h_tm : UpTm P) (h_pf : UpPf P) (h_out : UpOut P) (hR : UpR P) (h : Keep P s) : Keep P (endPass s) := by
  unfold endPass
  repeat' first
    | with_reducible assumption
    | with_reducible refine keep_freeDeferred h_qe h_pm h_tm h_out hR ?_
    | with_reducible refine keep_raise1 h_qe h_out hR ?_
    | with_reducible refine keep_setB hR ?_
    | fail_if_no_progress with_reducible refine keep_up_pf h_pf (keep_eta ?_)

theorem keep_startPass  (h_qe : UpQe P) (h_pm : UpPm P) (h_tm : UpTm P) (h_pf : UpPf P) (h_out : UpOut P) (hR : UpR P) (h : Keep P s) : Keep P (startPass s) := by
  unfold startPass
  repeat' first
    | with_reducible assumption
    | with_reducible refine keep_endPass h_qe h_pm h_tm h_pf h_out hR ?_
    | with_reducible refine keep_setB hR ?_
    | with_reducible refine keep_setR hR ?_
    | fail_if_no_progress with_reducible refine keep_up_pf h_pf (keep_eta ?_)
    | with_reducible refine keep_foldl (fun _ _ _ => ?_) ?_
    | (extract_lets -underBinder -merge -useContext +onlyGivenNames x; with_reducible refine keep_cut (s := x) ?_ ?_; (on_goal 1 => unfold x); (on_goal 2 => (clear_value x; intro _)))
    | (extract_lets -underBinder -merge -useContext +onlyGivenNames x; have := (fun (_ : _ → _) => trivial) x; unfold x; clear this x; beta_reduce)
    | (extract_lets -underBinder -merge -useContext +onlyGivenNames x; clear_value x)
    | split

theorem keep_abortPass  (h_qe : UpQe P) (h_pm : UpPm P) (h_tm : UpTm P) (h_pf : UpPf P) (h_out : UpOut P) (hR : UpR P) (h : Keep P s) : Keep P (abortPass s) := by
  unfold abortPass
  repeat' first
    | with_reducible assumption
    | with_reducible refine keep_endPass h_qe h_pm h_tm h_pf h_out hR ?_
    | split

theorem keep_setPass {a2 : Pass} (h_pf : UpPf P) (h : Keep P s) : Keep P (setPass s a2) := by
  unfold setPass
  repeat' first
    | with_reducible assumption
    | fail_if_no_progress with_reducible refine keep_up_pf h_pf (keep_eta ?_)

theorem keep_seekSlot {a1 : Nat} {a3 : Pass} (hR : UpR P) (h : Keep P s) : KeepQ P (seekSlot a1 s a3) := by
  induction a1 generalizing s a3 with
  | zero =>
    rw [seekSlot]
    repeat' first
      | with_reducible assumption
      | with_reducible apply ih
      | with_reducible refine keep_bumpF hR ?_
      | split
      | with_reducible refine keepQ_mk ?_
  | succ _ ih =>
    rw [seekSlot]
    repeat' first
      | with_reducible assumption
      | with_reducible apply ih
      | with_reducible refine keep_bumpF hR ?_
      | split
      | with_reducible refine keepQ_mk ?_

theorem keep_passOn {a2 : Pass} (hR : UpR P) (h : Keep P s) : KeepQ P (passOn s a2) := by
  unfold passOn
  repeat' first
    | with_reducible assumption
    | with_reducible refine keep_seekSlot hR ?_
    | with_reducible refine keep_bumpF hR ?_
    | (extract_lets -underBinder -merge -useContext +onlyGivenNames x; have := (fun (_ : _ → _) => trivial) x; unfold x; clear this x; beta_reduce)
    | split
    | with_reducible refine keepQ_mk ?_

theorem keep_passFail {a2 : Pass} {a3 : Failure} (hR : UpR P) (h : Keep P s) : KeepQ P (passFail s a2 a3) := by
  unfold passFail
  repeat' first
    | with_reducible assumption
    | with_reducible refine keep_bumpF hR ?_
    | with_reducible refine keep_setR hR ?_
    | (extract_lets -underBinder -merge -useContext +onlyGivenNames x; with_reducible refine keep_cutA (P := P) (s := x) ?_ ?_; (on_goal 1 => unfold x); (on_goal 2 => (clear_value x; intro _)))
    | (extract_lets -underBinder -merge -useContext +onlyGivenNames x; clear_value x)
    | split
    | with_reducible refine keepQ_mk ?_

theorem keep_lineRead {a2 : Nat} {a3 : Nat} (h_tm : UpTm P) (h : Keep P s) : Keep P (lineRead s a2 a3) := by
  unfold lineRead
  repeat' first
    | with_reducible assumption
    | fail_if_no_progress with_reducible refine keep_up_tm h_tm (keep_eta ?_)
    | split

theorem keep_passSlotLine {a2 : Pass} (h_qe : UpQe P) (h_bb : UpBb P) (h_tm : UpTm P) (h_pf : UpPf P) (h_cf : UpCf P) (h_out : UpOut P) (hR : UpR P) (h : Keep P s) : KeepQ P (passSlotLine s a2) := by
  unfold passSlotLine
  repeat' first
    | with_reducible assumption
    | with_reducible refine keep_lineRead h_tm ?_
    | with_reducible refine keepQ_eq (keep_passFail hR ?_) (by assumption)
    | with_reducible refine keep_stageCounted h_tm h_out hR ?_
    | with_reducible refine keep_waitLocks h_bb ?_
    | with_reducible refine keep_logFailure h_qe h_pf h_cf h_out hR ?_
    | (extract_lets -underBinder -merge -useContext +onlyGivenNames x; clear_value x)
    | split
    | with_reducible refine keepQ_mk ?_

theorem keep_passUnit {a2 : Pass} (h_qe : UpQe P) (h_cx : UpCx P) (h_pm : UpPm P) (h_bb : UpBb P) (h_tm : UpTm P) (h_pf : UpPf P) (h_cf : UpCf P) (h_out : UpOut P) (hR : UpR P) (h : Keep P s) : KeepQ P (passUnit s a2) := by
  unfold passUnit
  repeat' first
    | with_reducible assumption
    | with_reducible refine keep_passSlotLine h_qe h_bb h_tm h_pf h_cf h_out hR ?_
    | with_reducible refine keepQ_eq (keep_passFail hR ?_) (by assumption)
    | with_reducible refine keepQ_fst (keep_passOn hR ?_)
    | with_reducible refine keep_entryFailed h_qe h_cx h_pm h_pf h_cf h_out hR ?_
    | with_reducible refine keep_logFailure h_qe h_pf h_cf h_out hR ?_
    | (extract_lets -underBinder -merge -useContext +onlyGivenNames x; clear_value x)
    | split
    | with_reducible refine keepQ_mk ?_

theorem keep_execPassUnitRead {a1 : Reads} (h_qe : UpQe P) (h_cx : UpCx P) (h_pm : UpPm P) (h_bb : UpBb P) (h_tm : UpTm P) (h_pf : UpPf P) (h_cf : UpCf P) (h_out : UpOut P) (hR : UpR P) (h : Keep P s) : KeepOut P (execPassUnitRead a1 s) := by
  unfold execPassUnitRead
  repeat' first
    | with_reducible assumption
    | with_reducible refine keepOut_next ?_
    | with_reducible refine keepQ_eq (keep_passUnit h_qe h_cx h_pm h_bb h_tm h_pf h_cf h_out hR ?_) (by assumption)
    | with_reducible refine keep_setPass h_pf ?_
    | with_reducible refine keep_endPass h_qe h_pm h_tm h_pf h_out hR ?_
    | with_reducible refine keep_freeDeferred h_qe h_pm h_tm h_out hR ?_
    | with_reducible refine keep_takeReads h_qe h_tm h_cf h_out hR ?_
    | with_reducible refine keep_live ?_ ?_
    | with_reducible refine keep_bumpR hR ?_
    | (extract_lets -underBinder -merge -useContext +onlyGivenNames x; with_reducible refine keep_cut (s := x) ?_ ?_; (on_goal 1 => unfold x); (on_goal 2 => (clear_value x; intro _)))
    | (extract_lets -underBinder -merge -useContext +onlyGivenNames x; clear_value x)
    | split
    | with_reducible intro _

theorem keep_lookHandle {a2 : Nat} {a3 : Nat} (h_qe : UpQe P) (h_cx : UpCx P) (h_pm : UpPm P) (h_pf : UpPf P) (h_cf : UpCf P) (h_out : UpOut P) (hR : UpR P) (h : Keep P s) : KeepP P (lookHandle s a2 a3) := by
  unfold lookHandle
  repeat' first
    | with_reducible assumption
    | with_reducible refine keep_pageFailed h_qe h_pf h_cf h_out hR ?_
    | with_reducible refine keep_entryFailed h_qe h_cx h_pm h_pf h_cf h_out hR ?_
    | with_reducible refine keepExS_eq (keep_readCtx h_qe h_cx h_pm h_pf h_cf h_out hR ?_) (by assumption)
    | with_reducible refine keepExS_err (keep_readCtx h_qe h_cx h_pm h_pf h_cf h_out hR ?_) (by assumption)
    | (extract_lets -underBinder -merge -useContext +onlyGivenNames x; clear_value x)
    | split
    | with_reducible refine keepP_mk ?_

theorem keep_actRetire {a2 : CmdRef} {a3 : Option Nat} {a4 : Bool} {a5 : Nat} {a6 : List (Nat × PageAt)} (h_qe : UpQe P) (h_cx : UpCx P) (h_pm : UpPm P) (h_tm : UpTm P) (h_pf : UpPf P) (h_cf : UpCf P) (h_out : UpOut P) (hR : UpR P) (hW : UpW P) (h : Keep P s) : Keep P (actRetire s a2 a3 a4 a5 a6) := by
  unfold actRetire
  repeat' first
    | with_reducible assumption
    | with_reducible refine keep_pokeRetire h_qe h_cx h_pm h_tm h_pf h_cf h_out hR hW ?_
    | with_reducible refine keep_queueMove h_qe h_pm h_tm h_pf h_out hR ?_
    | with_reducible refine keep_walkEndQ h_qe h_pm h_tm h_out hR ?_
    | with_reducible refine keep_finish h_qe hR ?_
    | fail_if_no_progress with_reducible refine keep_up_pf h_pf (keep_eta ?_)
    | with_reducible refine keep_foldl (fun _ _ _ => ?_) ?_
    | (extract_lets -underBinder -merge -useContext +onlyGivenNames x; with_reducible refine keep_cut (s := x) ?_ ?_; (on_goal 1 => unfold x); (on_goal 2 => (clear_value x; intro _)))
    | (extract_lets -underBinder -merge -useContext +onlyGivenNames x; have := (fun (_ : _ → _) => trivial) x; unfold x; clear this x; beta_reduce)
    | (extract_lets -underBinder -merge -useContext +onlyGivenNames x; clear_value x)
    | split

theorem keep_retirePages {a2 : CmdRef} {a3 : Option Nat} {a4 : Bool} {a5 : Nat} {a6 : Nat} {a7 : Nat} (h_qe : UpQe P) (h_cx : UpCx P) (h_pm : UpPm P) (h_tm : UpTm P) (h_pf : UpPf P) (h_cf : UpCf P) (h_tn : UpTn P) (h_out : UpOut P) (hR : UpR P) (hW : UpW P) (h : Keep P s) : Keep P (retirePages s a2 a3 a4 a5 a6 a7) := by
  unfold retirePages
  repeat' first
    | with_reducible assumption
    | with_reducible refine keep_actRetire h_qe h_cx h_pm h_tm h_pf h_cf h_out hR hW ?_
    | with_reducible refine keepP_snd (keep_lookHandle h_qe h_cx h_pm h_pf h_cf h_out hR ?_)
    | with_reducible refine keep_foldl (fun _ _ _ => ?_) ?_

theorem keep_withhold {a2 : Nat} {a3 : Nat} (h_qe : UpQe P) (h_tm : UpTm P) (h_tn : UpTn P) (h_out : UpOut P) (hR : UpR P) (h : Keep P s) : Keep P (withhold s a2 a3) := by
  unfold withhold
  repeat' first
    | with_reducible assumption
    | with_reducible refine keep_commit h_qe h_tn h_out hR ?_
    | with_reducible refine keep_raise1 h_qe h_out hR ?_
    | fail_if_no_progress with_reducible refine keep_up_tm h_tm (keep_eta ?_)
    | fail_if_no_progress with_reducible refine keep_up_tn h_tn (keep_eta ?_)
    | with_reducible refine keep_foldl (fun _ _ _ => ?_) ?_
    | (extract_lets -underBinder -merge -useContext +onlyGivenNames x; with_reducible refine keep_cut (s := x) ?_ ?_; (on_goal 1 => unfold x); (on_goal 2 => (clear_value x; intro _)))
    | (extract_lets -underBinder -merge -useContext +onlyGivenNames x; clear_value x)
    | split

theorem keep_retireNamed {a2 : CmdRef} {a3 : Nat} {a4 : Nat} {a5 : Nat} {a6 : Nat} (h_qe : UpQe P) (h_cx : UpCx P) (h_pm : UpPm P) (h_tm : UpTm P) (h_pf : UpPf P) (h_cf : UpCf P) (h_tn : UpTn P) (h_out : UpOut P) (hR : UpR P) (hW : UpW P) (h : Keep P s) : Keep P (retireNamed s a2 a3 a4 a5 a6) := by
  unfold retireNamed
  repeat' first
    | with_reducible assumption
    | with_reducible refine keep_withhold h_qe h_tm h_tn h_out hR ?_
    | with_reducible refine keep_retirePages h_qe h_cx h_pm h_tm h_pf h_cf h_tn h_out hR hW ?_
    | with_reducible refine keepP_eq (keep_lookHandle h_qe h_cx h_pm h_pf h_cf h_out hR ?_) (by assumption)
    | with_reducible refine keepOptP_eq (keep_walkStart h_pm ?_) (by assumption)
    | with_reducible refine keep_leaveWalk h_pm hR ?_
    | with_reducible refine keep_walkEnd h_qe h_pm h_tm h_out hR ?_
    | with_reducible refine keep_completeWith h_qe hR ?_
    | (extract_lets -underBinder -merge -useContext +onlyGivenNames x; with_reducible refine keep_cut (s := x) ?_ ?_; (on_goal 1 => unfold x); (on_goal 2 => (clear_value x; intro _)))
    | split

theorem keep_execRetireSlot {a1 : Cmd} (h_qe : UpQe P) (h_cx : UpCx P) (h_pm : UpPm P) (h_bb : UpBb P) (h_tm : UpTm P) (h_pf : UpPf P) (h_cf : UpCf P) (h_tn : UpTn P) (h_out : UpOut P) (hR : UpR P) (hW : UpW P) (h : Keep P s) : KeepOut P (execRetireSlot a1 s) := by
  unfold execRetireSlot
  repeat' first
    | with_reducible assumption
    | with_reducible refine keepOut_next ?_
    | with_reducible refine keep_retireNamed h_qe h_cx h_pm h_tm h_pf h_cf h_tn h_out hR hW ?_
    | with_reducible refine keep_withhold h_qe h_tm h_tn h_out hR ?_
    | with_reducible refine keep_retirePages h_qe h_cx h_pm h_tm h_pf h_cf h_tn h_out hR hW ?_
    | with_reducible refine keep_startCmd h_qe h_tm h_cf h_out hR ?_ ?_
    | with_reducible refine keep_waitWalker h_pm ?_
    | with_reducible refine keep_waitLocks h_bb ?_
    | with_reducible refine keep_finish h_qe hR ?_
    | with_reducible refine keep_live ?_ ?_
    | (extract_lets -underBinder -merge -useContext +onlyGivenNames x; clear_value x)
    | split
    | with_reducible intro _

theorem keep_showPending  (hR : UpR P) (h : Keep P s) : Keep P (showPending s) := by
  unfold showPending
  repeat' first
    | with_reducible assumption
    | with_reducible refine keep_setF hR ?_

theorem keep_loadRemaps  (hR : UpR P) (h : Keep P s) : Keep P (loadRemaps s) := by
  unfold loadRemaps
  repeat' first
    | with_reducible assumption
    | with_reducible refine keep_setR hR ?_

theorem keep_execRetireChannel {a1 : Cmd} (h_qe : UpQe P) (h_tm : UpTm P) (h_cf : UpCf P) (h_tn : UpTn P) (h_out : UpOut P) (hR : UpR P) (h : Keep P s) : KeepOut P (execRetireChannel a1 s) := by
  unfold execRetireChannel
  repeat' first
    | with_reducible assumption
    | with_reducible refine keepOut_next ?_
    | with_reducible refine keep_showPending hR ?_
    | with_reducible refine keep_startCmd h_qe h_tm h_cf h_out hR ?_ ?_
    | with_reducible refine keep_finish h_qe hR ?_
    | with_reducible refine keep_commit h_qe h_tn h_out hR ?_
    | fail_if_no_progress with_reducible refine keep_up_tn h_tn (keep_eta ?_)
    | (extract_lets -underBinder -merge -useContext +onlyGivenNames x; clear_value x)
    | split
    | with_reducible intro _

/-! ### Machine/Queue.lean -/


theorem keep_doorbell {a2 : Nat} {a3 : Nat} {a4 : Nat} {a5 : Bool} (h_qe : UpQe P) (h_out : UpOut P) (hR : UpR P) (h : Keep P s) : Keep P (doorbell s a2 a3 a4 a5) := by
  unfold doorbell
  repeat' first
    | with_reducible assumption
    | with_reducible refine keep_raise h_qe h_out hR ?_
    | with_reducible refine keep_setF hR ?_
    | split

theorem keep_bar2Write {a2 : Nat} {a3 : Nat} {a4 : Nat} (h_qe : UpQe P) (h_out : UpOut P) (hR : UpR P) (h : Keep P s) : Keep P (bar2Write s a2 a3 a4) := by
  unfold bar2Write
  repeat' first
    | with_reducible assumption
    | with_reducible refine keep_doorbell h_qe h_out hR ?_
    | split

theorem keep_doorbellRow {a2 : Nat} {a3 : Nat} {a4 : Nat} (h_power : UpPower P) (h_qe : UpQe P) (h_out : UpOut P) (hR : UpR P) (h : Keep P s) : Keep P (doorbellRow s a2 a3 a4) := by
  unfold doorbellRow
  repeat' first
    | with_reducible assumption
    | with_reducible refine keep_bar2Write h_qe h_out hR ?_
    | fail_if_no_progress with_reducible refine keep_up_power h_power (keep_eta ?_)
    | split

theorem keep_execSqDoorbell {a1 : Nat} {a2 : Nat} {a3 : Nat} (h_power : UpPower P) (h_qe : UpQe P) (h_out : UpOut P) (hR : UpR P) (h : Keep P s) : KeepOut P (execSqDoorbell a1 a2 a3 s) := by
  unfold execSqDoorbell
  repeat' first
    | with_reducible assumption
    | with_reducible refine keepOut_next ?_
    | with_reducible refine keep_doorbellRow h_power h_qe h_out hR ?_

theorem keep_execCqDoorbell {a1 : Nat} {a2 : Nat} {a3 : Nat} (h_power : UpPower P) (h_qe : UpQe P) (h_out : UpOut P) (hR : UpR P) (h : Keep P s) : KeepOut P (execCqDoorbell a1 a2 a3 s) := by
  unfold execCqDoorbell
  repeat' first
    | with_reducible assumption
    | with_reducible refine keepOut_next ?_
    | with_reducible refine keep_doorbellRow h_power h_qe h_out hR ?_

theorem keep_execDescriptorFetch {a1 : Nat} {a2 : Nat} {a3 : Fetch} (h_qe : UpQe P) (h_out : UpOut P) (hR : UpR P) (h : Keep P s) : KeepOut P (execDescriptorFetch a1 a2 a3 s) := by
  unfold execDescriptorFetch
  repeat' first
    | with_reducible assumption
    | with_reducible refine keepOut_next ?_
    | with_reducible refine keep_sweepUnknown h_qe hR ?_
    | with_reducible refine keep_raise h_qe h_out hR ?_
    | with_reducible refine keep_live ?_ ?_
    | with_reducible refine keep_setF hR ?_
    | fail_if_no_progress with_reducible refine keep_up_qe h_qe (keep_eta ?_)
    | split
    | with_reducible intro _

theorem keep_loseNotices {a2 : Nat} {a3 : Nat} (h_qe : UpQe P) (h_out : UpOut P) (hR : UpR P) (h : Keep P s) : Keep P (loseNotices s a2 a3) := by
  unfold loseNotices
  repeat' first
    | with_reducible assumption
    | with_reducible refine keep_raise h_qe h_out hR ?_
    | fail_if_no_progress with_reducible refine keep_up_qe h_qe (keep_eta ?_)
    | with_reducible refine keep_foldl (fun _ _ _ => ?_) ?_

theorem keep_drainedRing {a2 : Nat} {a3 : Nat} (h_qe : UpQe P) (h_out : UpOut P) (hR : UpR P) (h : Keep P s) : Keep P (drainedRing s a2 a3) := by
  unfold drainedRing
  repeat' first
    | with_reducible assumption
    | with_reducible refine keep_loseNotices h_qe h_out hR ?_
    | with_reducible refine keep_setF hR ?_
    | split

theorem keep_sendRing {a2 : Nat} {a3 : Nat} (h_qe : UpQe P) (h_out : UpOut P) (h : Keep P s) : Keep P (sendRing s a2 a3) := by
  unfold sendRing
  repeat' first
    | with_reducible assumption
    | with_reducible refine keep_sendMsix h_qe h_out ?_
    | fail_if_no_progress with_reducible refine keep_up_qe h_qe (keep_eta ?_)

theorem keep_coalesceEntry {a2 : Nat} {a3 : Nat} (h_qe : UpQe P) (h_out : UpOut P) (h : Keep P s) : Keep P (coalesceEntry s a2 a3) := by
  unfold coalesceEntry
  repeat' first
    | with_reducible assumption
    | with_reducible refine keep_sendRing h_qe h_out ?_
    | fail_if_no_progress with_reducible refine keep_up_qe h_qe (keep_eta ?_)
    | (extract_lets -underBinder -merge -useContext +onlyGivenNames x; clear_value x)
    | split

theorem keep_advanceProducer {a2 : Nat} {a3 : Nat} (hR : UpR P) (h : Keep P s) : Keep P (advanceProducer s a2 a3) := by
  unfold advanceProducer
  repeat' first
    | with_reducible assumption
    | with_reducible refine keep_setF hR ?_
    | (extract_lets -underBinder -merge -useContext +onlyGivenNames x; with_reducible refine keep_cut (s := x) ?_ ?_; (on_goal 1 => unfold x); (on_goal 2 => (clear_value x; intro _)))
    | (extract_lets -underBinder -merge -useContext +onlyGivenNames x; clear_value x)
    | split

theorem keep_execCompletionWrite {a1 : Nat} {a2 : Nat} {a3 : Bool} (h_qe : UpQe P) (h_out : UpOut P) (hR : UpR P) (h : Keep P s) : KeepOut P (execCompletionWrite a1 a2 a3 s) := by
  unfold execCompletionWrite
  repeat' first
    | with_reducible assumption
    | with_reducible refine keepOut_next ?_
    | with_reducible refine keep_advanceProducer hR ?_
    | with_reducible refine keep_coalesceEntry h_qe h_out ?_
    | with_reducible refine keep_drainedRing h_qe h_out hR ?_
    | with_reducible refine keep_raise h_qe h_out hR ?_
    | with_reducible refine keep_live ?_ ?_
    | with_reducible refine keep_emit h_out ?_
    | with_reducible refine keep_setF hR ?_
    | fail_if_no_progress with_reducible refine keep_up_qe h_qe (keep_eta ?_)
    | split
    | with_reducible intro _

theorem keep_ringEnable {a2 : Nat} {a3 : Nat} {a4 : Bool} (h_qe : UpQe P) (h_out : UpOut P) (hR : UpR P) (h : Keep P s) : Keep P (ringEnable s a2 a3 a4) := by
  unfold ringEnable
  repeat' first
    | with_reducible assumption
    | with_reducible refine keep_drainedRing h_qe h_out hR ?_
    | with_reducible refine keep_setB hR ?_
    | with_reducible refine keep_setF hR ?_
    | with_reducible refine keep_setR hR ?_
    | fail_if_no_progress with_reducible refine keep_up_qe h_qe (keep_eta ?_)
    | (extract_lets -underBinder -merge -useContext +onlyGivenNames x; clear_value x)
    | split

theorem keep_execMsixCoalesceTimer {a1 : Nat} {a2 : Nat} (h_qe : UpQe P) (h_out : UpOut P) (h : Keep P s) : KeepOut P (execMsixCoalesceTimer a1 a2 s) := by
  unfold execMsixCoalesceTimer
  repeat' first
    | with_reducible assumption
    | with_reducible refine keepOut_next ?_
    | with_reducible refine keep_sendRing h_qe h_out ?_
    | with_reducible refine keep_live ?_ ?_
    | split
    | with_reducible intro _

theorem keep_execEventHoldoffTimer {a1 : Nat} (h_qe : UpQe P) (h_out : UpOut P) (h : Keep P s) : KeepOut P (execEventHoldoffTimer a1 s) := by
  unfold execEventHoldoffTimer
  repeat' first
    | with_reducible assumption
    | with_reducible refine keepOut_next ?_
    | with_reducible refine keep_sendEventNow h_qe h_out ?_
    | with_reducible refine keep_live ?_ ?_
    | split
    | with_reducible intro _

theorem keep_unmaskVector {a2 : Nat} {a3 : Nat} (h_qe : UpQe P) (h_out : UpOut P) (h : Keep P s) : Keep P (unmaskVector s a2 a3) := by
  unfold unmaskVector
  repeat' first
    | with_reducible assumption
    | with_reducible refine keep_emit h_out ?_
    | fail_if_no_progress with_reducible refine keep_up_qe h_qe (keep_eta ?_)
    | (extract_lets -underBinder -merge -useContext +onlyGivenNames x; with_reducible refine keep_cut (s := x) ?_ ?_; (on_goal 1 => unfold x); (on_goal 2 => (clear_value x; intro _)))
    | (extract_lets -underBinder -merge -useContext +onlyGivenNames x; clear_value x)
    | split

theorem keep_putMsix {a2 : Nat} {a3 : Nat} {a4 : Nat} {a5 : Nat} (h_qe : UpQe P) (h_out : UpOut P) (h : Keep P s) : Keep P (putMsix s a2 a3 a4 a5) := by
  unfold putMsix
  repeat' first
    | with_reducible assumption
    | with_reducible refine keep_unmaskVector h_qe h_out ?_
    | fail_if_no_progress with_reducible refine keep_up_qe h_qe (keep_eta ?_)
    | (extract_lets -underBinder -merge -useContext +onlyGivenNames x; clear_value x)
    | split

theorem keep_bar2Read {a2 : Nat} {a3 : Nat} {a4 : Nat} (h_out : UpOut P) (h : Keep P s) : Keep P (bar2Read s a2 a3 a4) := by
  unfold bar2Read
  repeat' first
    | with_reducible assumption
    | with_reducible refine keep_emit h_out ?_
    | split

theorem keep_bar2Access {a2 : Nat} {a3 : Nat} {a4 : Nat} {a5 : Nat} (h_power : UpPower P) (h_qe : UpQe P) (h_out : UpOut P) (hR : UpR P) (h : Keep P s) : Keep P (bar2Access s a2 a3 a4 a5) := by
  unfold bar2Access
  repeat' first
    | with_reducible assumption
    | with_reducible refine keep_putMsix h_qe h_out ?_
    | with_reducible refine keep_doorbellRow h_power h_qe h_out hR ?_
    | split

theorem keep_execMsixUnmask {a1 : Nat} {a2 : Nat} (h_qe : UpQe P) (h_out : UpOut P) (h : Keep P s) : KeepOut P (execMsixUnmask a1 a2 s) := by
  unfold execMsixUnmask
  repeat' first
    | with_reducible assumption
    | with_reducible refine keepOut_next ?_
    | with_reducible refine keep_unmaskVector h_qe h_out ?_
    | with_reducible refine keep_live ?_ ?_
    | split
    | with_reducible intro _

/-! ### Machine/Jobs.lean -/


theorem keep_withNpa {a2 : CmdRef} {a3 : Nat} {a4 : Nat} {a5 : Bytes → State} (h_qe : UpQe P) (h_pf : UpPf P) (h_cf : UpCf P) (h_out : UpOut P) (hR : UpR P) (h : Keep P s) (ha5 : ∀ x0, Keep P (a5 x0)) : Keep P (withNpa s a2 a3 a4 a5) := by
  unfold withNpa
  repeat' first
    | with_reducible assumption
    | with_reducible apply ha5
    | with_reducible refine keep_finish h_qe hR ?_
    | with_reducible refine keep_logFailure h_qe h_pf h_cf h_out hR ?_
    | split

theorem keep_admitJob {a2 : CmdRef} {a3 : Nat} {a4 : Bytes} (h_qe : UpQe P) (h_ac : UpAc P) (h_tn : UpTn P) (h_lx : UpLx P) (h_out : UpOut P) (hR : UpR P) (h : Keep P s) : Keep P (admitJob s a2 a3 a4) := by
  unfold admitJob
  repeat' first
    | with_reducible assumption
    | with_reducible refine keep_endJob h_qe h_ac h_tn h_lx h_out hR ?_
    | with_reducible refine keep_bumpF hR ?_
    | fail_if_no_progress with_reducible refine keep_up_ac h_ac (keep_eta ?_)
    | (extract_lets -underBinder -merge -useContext +onlyGivenNames x; with_reducible refine keep_cut (s := x) ?_ ?_; (on_goal 1 => unfold x); (on_goal 2 => (clear_value x; intro _)))
    | (extract_lets -underBinder -merge -useContext +onlyGivenNames x; clear_value x)
    | split

theorem keep_execJobSubmit {a1 : Cmd} (h_qe : UpQe P) (h_ac : UpAc P) (h_tm : UpTm P) (h_pf : UpPf P) (h_cf : UpCf P) (h_tn : UpTn P) (h_lx : UpLx P) (h_out : UpOut P) (hR : UpR P) (h : Keep P s) : KeepOut P (execJobSubmit a1 s) := by
  unfold execJobSubmit
  repeat' first
    | with_reducible assumption
    | with_reducible refine keepOut_next ?_
    | with_reducible refine keep_admitJob h_qe h_ac h_tn h_lx h_out hR ?_
    | with_reducible refine keep_withNpa h_qe h_pf h_cf h_out hR ?_ ?_
    | with_reducible refine keep_startCmd h_qe h_tm h_cf h_out hR ?_ ?_
    | with_reducible refine keep_raiseQuota h_qe h_out hR ?_
    | with_reducible refine keep_finish h_qe hR ?_
    | (extract_lets -underBinder -merge -useContext +onlyGivenNames x; clear_value x)
    | split
    | with_reducible intro _

theorem keep_execJobPreempt {a1 : Cmd} (h_qe : UpQe P) (h_ac : UpAc P) (h_tm : UpTm P) (h_cf : UpCf P) (h_out : UpOut P) (hR : UpR P) (h : Keep P s) : KeepOut P (execJobPreempt a1 s) := by
  unfold execJobPreempt
  repeat' first
    | with_reducible assumption
    | with_reducible refine keepOut_next ?_
    | with_reducible refine keep_updJob h_ac ?_
    | with_reducible refine keep_startCmd h_qe h_tm h_cf h_out hR ?_ ?_
    | with_reducible refine keep_finish h_qe hR ?_
    | (extract_lets -underBinder -merge -useContext +onlyGivenNames x; clear_value x)
    | split
    | with_reducible intro _

theorem keep_execPreemptTimeout {a1 : Nat} (h_qe : UpQe P) (h_ac : UpAc P) (h_tn : UpTn P) (h_lx : UpLx P) (h_out : UpOut P) (hR : UpR P) (h : Keep P s) : KeepOut P (execPreemptTimeout a1 s) := by
  unfold execPreemptTimeout
  repeat' first
    | with_reducible assumption
    | with_reducible refine keepOut_next ?_
    | with_reducible refine keep_endJob h_qe h_ac h_tn h_lx h_out hR ?_
    | with_reducible refine keep_raise1 h_qe h_out hR ?_
    | with_reducible refine keep_live ?_ ?_
    | split
    | with_reducible intro _

theorem keep_execJobQuery {a1 : Cmd} (h_qe : UpQe P) (h_tm : UpTm P) (h_cf : UpCf P) (h_out : UpOut P) (hR : UpR P) (h : Keep P s) : KeepOut P (execJobQuery a1 s) := by
  unfold execJobQuery
  repeat' first
    | with_reducible assumption
    | with_reducible refine keepOut_next ?_
    | with_reducible refine keep_startCmd h_qe h_tm h_cf h_out hR ?_ ?_
    | with_reducible refine keep_completeWith h_qe hR ?_
    | with_reducible refine keep_complete h_qe hR ?_
    | (extract_lets -underBinder -merge -useContext +onlyGivenNames x; clear_value x)
    | split
    | with_reducible intro _

theorem keep_execRmLoad {a1 : Cmd} (h_qe : UpQe P) (h_tm : UpTm P) (h_pf : UpPf P) (h_cf : UpCf P) (h_out : UpOut P) (hR : UpR P) (h : Keep P s) : KeepOut P (execRmLoad a1 s) := by
  unfold execRmLoad
  repeat' first
    | with_reducible assumption
    | with_reducible refine keepOut_next ?_
    | with_reducible refine keep_withNpa h_qe h_pf h_cf h_out hR ?_ ?_
    | with_reducible refine keep_refuseOr h_qe hR ?_ ?_
    | with_reducible refine keep_startCmd h_qe h_tm h_cf h_out hR ?_ ?_
    | with_reducible refine keep_finish h_qe hR ?_
    | with_reducible refine keep_setB hR ?_
    | with_reducible refine keep_setR hR ?_
    | (extract_lets -underBinder -merge -useContext +onlyGivenNames x; clear_value x)
    | split
    | with_reducible intro _

theorem keep_execRmUnload {a1 : Cmd} (h_qe : UpQe P) (h_ac : UpAc P) (h_tm : UpTm P) (h_cf : UpCf P) (h_out : UpOut P) (hR : UpR P) (h : Keep P s) : KeepOut P (execRmUnload a1 s) := by
  unfold execRmUnload
  repeat' first
    | with_reducible assumption
    | with_reducible refine keepOut_next ?_
    | with_reducible refine keep_unloadCheck h_qe h_ac hR ?_
    | with_reducible refine keep_startCmd h_qe h_tm h_cf h_out hR ?_ ?_
    | with_reducible refine keep_finish h_qe hR ?_
    | fail_if_no_progress with_reducible refine keep_up_ac h_ac (keep_eta ?_)
    | split
    | with_reducible intro _

end Sys2Proof.Machine
end

