-- ==== Sys2Proof/Laws/KeepReset.lean ====
section
/-!
SUPPORT. KeepReset.lean: what the definitions of Machine/Reset.lean, Machine/Lexicon.lean, Machine/Power.lean keep (see Keep.lean).
-/

set_option linter.unusedTactic false
set_option linter.unreachableTactic false
set_option linter.unusedVariables false
set_option linter.tactic.unusedName false
set_option maxRecDepth 20000

namespace Sys2Proof.Machine

variable {P : State → Prop} {s : State}

/-! ### Machine/Reset.lean -/


theorem keep_dropVectors1  (h_qe : UpQe P) (h : Keep P s) : Keep P (dropVectors1 s) := by
  unfold dropVectors1
  repeat' first
    | with_reducible assumption
    | fail_if_no_progress with_reducible refine keep_up_qe h_qe (keep_eta ?_)

theorem keep_dropQueues1  (h_qe : UpQe P) (h : Keep P s) : Keep P (dropQueues1 s) := by
  unfold dropQueues1
  repeat' first
    | with_reducible assumption
    | fail_if_no_progress with_reducible refine keep_up_qe h_qe (keep_eta ?_)

theorem keep_resetQe {a1 : RClass} (h_qe : UpQe P) (h : Keep P s) : Keep P (resetQe a1 s) := by
  unfold resetQe
  repeat' first
    | with_reducible assumption
    | with_reducible refine keep_dropQueues1 h_qe ?_
    | with_reducible refine keep_dropVectors1 h_qe ?_
    | fail_if_no_progress with_reducible refine keep_up_qe h_qe (keep_eta ?_)
    | split

theorem keep_abortRecovery  (h_qe : UpQe P) (h_ft : UpFt P) (h_cf : UpCf P) (hR : UpR P) (h : Keep P s) : Keep P (abortRecovery s) := by
  unfold abortRecovery
  repeat' first
    | with_reducible assumption
    | with_reducible refine keep_recAnswer h_qe h_ft h_cf hR ?_
    | with_reducible refine keep_foldl (fun _ _ _ => ?_) ?_
    | split

theorem keep_raiseFloor  (h_qe : UpQe P) (h_tn : UpTn P) (h_out : UpOut P) (hR : UpR P) (h : Keep P s) : Keep P (raiseFloor s) := by
  unfold raiseFloor
  repeat' first
    | with_reducible assumption
    | with_reducible refine keep_commit h_qe h_tn h_out hR ?_
    | fail_if_no_progress with_reducible refine keep_up_tn h_tn (keep_eta ?_)
    | (extract_lets -underBinder -merge -useContext +onlyGivenNames x; clear_value x)
    | split

theorem keep_resetBb {a1 : RClass} (h_bb : UpBb P) (h : Keep P s) : Keep P (resetBb a1 s) := by
  unfold resetBb
  repeat' first
    | with_reducible assumption
    | fail_if_no_progress with_reducible refine keep_up_bb h_bb (keep_eta ?_)

theorem keep_resetAc {a1 : RClass} (h_ac : UpAc P) (h : Keep P s) : Keep P (resetAc a1 s) := by
  unfold resetAc
  repeat' first
    | with_reducible assumption
    | fail_if_no_progress with_reducible refine keep_up_ac h_ac (keep_eta ?_)

theorem keep_resetTm {a1 : RClass} (h_tm : UpTm P) (h_out : UpOut P) (h : Keep P s) : Keep P (resetTm a1 s) := by
  unfold resetTm
  repeat' first
    | with_reducible assumption
    | with_reducible refine keep_emit h_out ?_
    | fail_if_no_progress with_reducible refine keep_up_tm h_tm (keep_eta ?_)
    | with_reducible refine keep_foldl (fun _ _ _ => ?_) ?_
    | split

theorem keep_quiesce {a2 : Nat} (h_fl : UpFl P) (h : Keep P s) : Keep P (quiesce s a2) := by
  unfold quiesce
  repeat' first
    | with_reducible assumption
    | with_reducible refine keep_releaseClasses h_fl ?_
    | with_reducible refine keep_updPort h_fl ?_
    | (extract_lets -underBinder -merge -useContext +onlyGivenNames x; with_reducible refine keep_cut (s := x) ?_ ?_; (on_goal 1 => unfold x); (on_goal 2 => (clear_value x; intro _)))
    | (extract_lets -underBinder -merge -useContext +onlyGivenNames x; clear_value x)
    | split

theorem keep_resetFl {a1 : RClass} (h_qe : UpQe P) (h_fl : UpFl P) (h_out : UpOut P) (hR : UpR P) (h : Keep P s) : Keep P (resetFl a1 s) := by
  unfold resetFl
  repeat' first
    | with_reducible assumption
    | with_reducible refine keep_quiesce h_fl ?_
    | with_reducible refine keep_portDown h_qe h_fl h_out hR ?_
    | fail_if_no_progress with_reducible refine keep_up_fl h_fl (keep_eta ?_)
    | with_reducible refine keep_foldl (fun _ _ _ => ?_) ?_
    | (extract_lets -underBinder -merge -useContext +onlyGivenNames x; with_reducible refine keep_cut (s := x) ?_ ?_; (on_goal 1 => unfold x); (on_goal 2 => (clear_value x; intro _)))
    | split

theorem keep_resetEs {a1 : RClass} (h_es : UpEs P) (h_im : UpIm P) (h : Keep P s) : Keep P (resetEs a1 s) := by
  unfold resetEs
  repeat' first
    | with_reducible assumption
    | fail_if_no_progress with_reducible refine keep_up_es h_es (keep_up_im h_im (keep_eta ?_))
    | split

theorem keep_resetFt {a1 : RClass} (h_ft : UpFt P) (h : Keep P s) : Keep P (resetFt a1 s) := by
  unfold resetFt
  repeat' first
    | with_reducible assumption
    | fail_if_no_progress with_reducible refine keep_up_ft h_ft (keep_eta ?_)

theorem keep_resetCf {a1 : RClass} (h_cf : UpCf P) (h : Keep P s) : Keep P (resetCf a1 s) := by
  unfold resetCf
  repeat' first
    | with_reducible assumption
    | fail_if_no_progress with_reducible refine keep_up_cf h_cf (keep_eta ?_)

theorem keep_resetLx {a1 : RClass} (h_lx : UpLx P) (h : Keep P s) : Keep P (resetLx a1 s) := by
  unfold resetLx
  repeat' first
    | with_reducible assumption
    | fail_if_no_progress with_reducible refine keep_up_lx h_lx (keep_eta ?_)
    | split

theorem keep_endSuppletions  (h_qe : UpQe P) (h_bb : UpBb P) (h_ac : UpAc P) (h_tn : UpTn P) (h_lx : UpLx P) (h_out : UpOut P) (hR : UpR P) (h : Keep P s) : Keep P (endSuppletions s) := by
  unfold endSuppletions
  repeat' first
    | with_reducible assumption
    | with_reducible refine keep_suppleteBau h_qe h_bb h_tn h_lx h_out hR ?_
    | with_reducible refine keep_suppleteAc h_qe h_ac h_tn h_lx h_out hR ?_
    | with_reducible refine keep_foldl (fun _ _ _ => ?_) ?_
    | split

theorem keep_resetBlocks {a1 : RClass} (h_qe : UpQe P) (h_cx : UpCx P) (h_pm : UpPm P) (h_ae : UpAe P) (h_bb : UpBb P) (h_ac : UpAc P) (h_tm : UpTm P) (h_pf : UpPf P) (h_fl : UpFl P) (h_es : UpEs P) (h_im : UpIm P) (h_ft : UpFt P) (h_cf : UpCf P) (h_tn : UpTn P) (h_lx : UpLx P) (h_out : UpOut P) (hR : UpR P) (h : Keep P s) : Keep P (resetBlocks a1 s) := by
  unfold resetBlocks
  repeat' first
    | with_reducible assumption
    | with_reducible refine keep_endSuppletions h_qe h_bb h_ac h_tn h_lx h_out hR ?_
    | with_reducible refine keep_resetLx h_lx ?_
    | with_reducible refine keep_resetCf h_cf ?_
    | with_reducible refine keep_resetFt h_ft ?_
    | with_reducible refine keep_resetEs h_es h_im ?_
    | with_reducible refine keep_resetFl h_qe h_fl h_out hR ?_
    | with_reducible refine keep_resetTm h_tm h_out ?_
    | with_reducible refine keep_resetAc h_ac ?_
    | with_reducible refine keep_resetBb h_bb ?_
    | with_reducible refine keep_raiseFloor h_qe h_tn h_out hR ?_
    | with_reducible refine keep_abortRecovery h_qe h_ft h_cf hR ?_
    | with_reducible refine keep_resetQe h_qe ?_
    | with_reducible refine keep_finishAll h_qe hR ?_
    | fail_if_no_progress with_reducible refine keep_up_cx h_cx (keep_up_pm h_pm (keep_up_ae h_ae (keep_up_pf h_pf (keep_eta ?_))))
    | (extract_lets -underBinder -merge -useContext +onlyGivenNames x; with_reducible refine keep_cut (s := x) ?_ ?_; (on_goal 1 => unfold x); (on_goal 2 => (clear_value x; intro _)))
    | (extract_lets -underBinder -merge -useContext +onlyGivenNames x; clear_value x)
    | split

theorem keep_resetPower {a1 : RClass} (h_power : UpPower P) (h : Keep P s) : Keep P (resetPower a1 s) := by
  unfold resetPower
  repeat' first
    | with_reducible assumption
    | fail_if_no_progress with_reducible refine keep_up_power h_power (keep_eta ?_)
    | (extract_lets -underBinder -merge -useContext +onlyGivenNames x; clear_value x)
    | split

theorem keep_beginReset {a1 : RClass} (h_power : UpPower P) (h_qe : UpQe P) (h_cx : UpCx P) (h_pm : UpPm P) (h_ae : UpAe P) (h_bb : UpBb P) (h_ac : UpAc P) (h_tm : UpTm P) (h_pf : UpPf P) (h_fl : UpFl P) (h_es : UpEs P) (h_im : UpIm P) (h_ft : UpFt P) (h_cf : UpCf P) (h_tn : UpTn P) (h_lx : UpLx P) (h_out : UpOut P) (hR : UpR P) (hRF : UpRF P) (hC : UpC P) (h : Keep P s) : Keep P (beginReset a1 s) := by
  unfold beginReset
  repeat' first
    | with_reducible assumption
    | with_reducible refine keep_resetPower h_power ?_
    | with_reducible refine keep_resetClock hC ?_
    | with_reducible refine keep_resetFields hRF ?_
    | with_reducible refine keep_resetBlocks h_qe h_cx h_pm h_ae h_bb h_ac h_tm h_pf h_fl h_es h_im h_ft h_cf h_tn h_lx h_out hR ?_
    | with_reducible refine keep_releaseRing h_out hR ?_

theorem keep_beginF  (h_power : UpPower P) (h_qe : UpQe P) (hR : UpR P) (hRF : UpRF P) (h : Keep P s) : Keep P (beginF s) := by
  unfold beginF
  repeat' first
    | with_reducible assumption
    | with_reducible refine keep_resetFields hRF ?_
    | with_reducible refine keep_dropVectors1 h_qe ?_
    | with_reducible refine keep_bumpF hR ?_
    | with_reducible refine keep_setB hR ?_
    | fail_if_no_progress with_reducible refine keep_up_power h_power (keep_eta ?_)
    | fail_if_no_progress with_reducible refine keep_up_qe h_qe (keep_eta ?_)
    | with_reducible refine keep_foldl (fun _ _ _ => ?_) ?_

theorem keep_begin_ {a1 : RClass} (h_power : UpPower P) (h_qe : UpQe P) (h_cx : UpCx P) (h_pm : UpPm P) (h_ae : UpAe P) (h_bb : UpBb P) (h_ac : UpAc P) (h_tm : UpTm P) (h_pf : UpPf P) (h_fl : UpFl P) (h_es : UpEs P) (h_im : UpIm P) (h_ft : UpFt P) (h_cf : UpCf P) (h_tn : UpTn P) (h_lx : UpLx P) (h_out : UpOut P) (hR : UpR P) (hRF : UpRF P) (hC : UpC P) (h : Keep P s) : Keep P (begin_ a1 s) := by
  unfold begin_
  repeat' first
    | with_reducible assumption
    | with_reducible refine keep_beginF h_power h_qe hR hRF ?_
    | with_reducible refine keep_beginReset h_power h_qe h_cx h_pm h_ae h_bb h_ac h_tm h_pf h_fl h_es h_im h_ft h_cf h_tn h_lx h_out hR hRF hC ?_
    | split

theorem keep_requestReset {a1 : RClass} (h_power : UpPower P) (h_qe : UpQe P) (h_cx : UpCx P) (h_pm : UpPm P) (h_ae : UpAe P) (h_bb : UpBb P) (h_ac : UpAc P) (h_tm : UpTm P) (h_pf : UpPf P) (h_fl : UpFl P) (h_es : UpEs P) (h_im : UpIm P) (h_ft : UpFt P) (h_cf : UpCf P) (h_tn : UpTn P) (h_lx : UpLx P) (h_out : UpOut P) (hR : UpR P) (hRF : UpRF P) (hC : UpC P) (h : Keep P s) : Keep P (requestReset a1 s) := by
  unfold requestReset
  repeat' first
    | with_reducible assumption
    | with_reducible refine keep_begin_ h_power h_qe h_cx h_pm h_ae h_bb h_ac h_tm h_pf h_fl h_es h_im h_ft h_cf h_tn h_lx h_out hR hRF hC ?_
    | fail_if_no_progress with_reducible refine keep_up_power h_power (keep_eta ?_)
    | split

theorem keep_startWaiting  (h_power : UpPower P) (h_qe : UpQe P) (h_cx : UpCx P) (h_pm : UpPm P) (h_ae : UpAe P) (h_bb : UpBb P) (h_ac : UpAc P) (h_tm : UpTm P) (h_pf : UpPf P) (h_fl : UpFl P) (h_es : UpEs P) (h_im : UpIm P) (h_ft : UpFt P) (h_cf : UpCf P) (h_tn : UpTn P) (h_lx : UpLx P) (h_out : UpOut P) (hR : UpR P) (hRF : UpRF P) (hC : UpC P) (h : Keep P s) : Keep P (startWaiting s) := by
  unfold startWaiting
  repeat' first
    | with_reducible assumption
    | with_reducible refine keep_begin_ h_power h_qe h_cx h_pm h_ae h_bb h_ac h_tm h_pf h_fl h_es h_im h_ft h_cf h_tn h_lx h_out hR hRF hC ?_
    | split

theorem keep_limitPermits  (hR : UpR P) (h : Keep P s) : Keep P (limitPermits s) := by
  unfold limitPermits
  repeat' first
    | with_reducible assumption
    | with_reducible refine keep_setF hR ?_
    | with_reducible refine keep_foldl (fun _ _ _ => ?_) ?_
    | (extract_lets -underBinder -merge -useContext +onlyGivenNames x; clear_value x)
    | split

theorem keep_retrainLinks {a1 : List Nat} (h_bb : UpBb P) (hR : UpR P) (h : Keep P s) : Keep P (retrainLinks a1 s) := by
  unfold retrainLinks
  repeat' first
    | with_reducible assumption
    | with_reducible refine keep_updBbd h_bb ?_
    | with_reducible refine keep_setB hR ?_
    | with_reducible refine keep_setF hR ?_
    | with_reducible refine keep_foldl (fun _ _ _ => ?_) ?_
    | (extract_lets -underBinder -merge -useContext +onlyGivenNames x; with_reducible refine keep_cut (s := x) ?_ ?_; (on_goal 1 => unfold x); (on_goal 2 => (clear_value x; intro _)))
    | (extract_lets -underBinder -merge -useContext +onlyGivenNames x; clear_value x)
    | split

theorem keep_openF1  (h_power : UpPower P) (hR : UpR P) (h : Keep P s) : Keep P (openF1 s) := by
  unfold openF1
  repeat' first
    | with_reducible assumption
    | with_reducible refine keep_setB hR ?_
    | fail_if_no_progress with_reducible refine keep_up_power h_power (keep_eta ?_)

theorem keep_announce {a1 : RClass} (h_qe : UpQe P) (h_out : UpOut P) (hR : UpR P) (h : Keep P s) : Keep P (announce a1 s) := by
  unfold announce
  repeat' first
    | with_reducible assumption
    | with_reducible refine keep_raiseGs h_qe h_out hR ?_
    | with_reducible refine keep_raise h_qe h_out hR ?_
    | with_reducible refine keep_setB hR ?_
    | with_reducible refine keep_setF hR ?_
    | (extract_lets -underBinder -merge -useContext +onlyGivenNames x; with_reducible refine keep_cut (s := x) ?_ ?_; (on_goal 1 => unfold x); (on_goal 2 => (clear_value x; intro _)))
    | split

theorem keep_settle {a1 : RClass} {a2 : List Nat} (h_bb : UpBb P) (hR : UpR P) (hRF : UpRF P) (h : Keep P s) : Keep P (settle a1 a2 s) := by
  unfold settle
  repeat' first
    | with_reducible assumption
    | with_reducible refine keep_retrainLinks h_bb hR ?_
    | with_reducible refine keep_limitPermits hR ?_
    | with_reducible refine keep_resetFields hRF ?_
    | with_reducible refine keep_loadRemaps hR ?_

theorem keep_recheckGates  (h_qe : UpQe P) (h_out : UpOut P) (hR : UpR P) (h : Keep P s) : Keep P (recheckGates s) := by
  unfold recheckGates
  repeat' first
    | with_reducible assumption
    | with_reducible refine keep_checkSuspend h_qe h_out hR ?_
    | with_reducible refine keep_foldl (fun _ _ _ => ?_) ?_
    | split

theorem keep_endN {a1 : List Nat} (h_power : UpPower P) (h_qe : UpQe P) (h_bb : UpBb P) (h_fl : UpFl P) (h_out : UpOut P) (hR : UpR P) (hRF : UpRF P) (h : Keep P s) : Keep P (endN a1 s) := by
  unfold endN
  repeat' first
    | with_reducible assumption
    | with_reducible refine keep_recheckGates h_qe h_out hR ?_
    | with_reducible refine keep_settle h_bb hR hRF ?_
    | with_reducible refine keep_announce h_qe h_out hR ?_
    | with_reducible refine keep_openF1 h_power hR ?_
    | with_reducible refine keep_startListening h_qe h_fl h_out hR ?_
    | fail_if_no_progress with_reducible refine keep_up_power h_power (keep_eta ?_)

theorem keep_endF  (h_power : UpPower P) (h_qe : UpQe P) (h_out : UpOut P) (hR : UpR P) (hRF : UpRF P) (h : Keep P s) : Keep P (endF s) := by
  unfold endF
  repeat' first
    | with_reducible assumption
    | with_reducible refine keep_announce h_qe h_out hR ?_
    | with_reducible refine keep_openF1 h_power hR ?_
    | with_reducible refine keep_resetFields hRF ?_
    | fail_if_no_progress with_reducible refine keep_up_power h_power (keep_eta ?_)

theorem keep_execFunctionLevelReset  (h_power : UpPower P) (h_qe : UpQe P) (h_cx : UpCx P) (h_pm : UpPm P) (h_ae : UpAe P) (h_bb : UpBb P) (h_ac : UpAc P) (h_tm : UpTm P) (h_pf : UpPf P) (h_fl : UpFl P) (h_es : UpEs P) (h_im : UpIm P) (h_ft : UpFt P) (h_cf : UpCf P) (h_tn : UpTn P) (h_lx : UpLx P) (h_out : UpOut P) (hR : UpR P) (hRF : UpRF P) (hC : UpC P) (h : Keep P s) : KeepOut P (execFunctionLevelReset s) := by
  unfold execFunctionLevelReset
  repeat' first
    | with_reducible assumption
    | with_reducible refine keepOut_next ?_
    | with_reducible refine keep_requestReset h_power h_qe h_cx h_pm h_ae h_bb h_ac h_tm h_pf h_fl h_es h_im h_ft h_cf h_tn h_lx h_out hR hRF hC ?_
    | with_reducible refine keep_live ?_ ?_
    | with_reducible refine keep_emit h_out ?_
    | split
    | with_reducible intro _

/-! ### Machine/Lexicon.lean -/


theorem keep_execLxEnrol {a1 : Cmd} {a2 : Option Bytes} (h_qe : UpQe P) (h_tm : UpTm P) (h_cf : UpCf P) (h_tn : UpTn P) (h_out : UpOut P) (hR : UpR P) (h : Keep P s) : KeepOut P (execLxEnrol a1 a2 s) := by
  unfold execLxEnrol
  repeat' first
    | with_reducible assumption
    | with_reducible refine keepOut_next ?_
    | with_reducible refine keep_refuseOr h_qe hR ?_ ?_
    | with_reducible refine keep_withHost h_qe h_out hR ?_ ?_
    | with_reducible refine keep_startCmd h_qe h_tm h_cf h_out hR ?_ ?_
    | with_reducible refine keep_finish h_qe hR ?_
    | with_reducible refine keep_commit h_qe h_tn h_out hR ?_
    | fail_if_no_progress with_reducible refine keep_up_tn h_tn (keep_eta ?_)
    | with_reducible intro _

theorem keep_execLxTransfer {a1 : Cmd} {a2 : Option Bytes} (h_qe : UpQe P) (h_tm : UpTm P) (h_cf : UpCf P) (h_tn : UpTn P) (h_out : UpOut P) (hR : UpR P) (h : Keep P s) : KeepOut P (execLxTransfer a1 a2 s) := by
  unfold execLxTransfer
  repeat' first
    | with_reducible assumption
    | with_reducible refine keepOut_next ?_
    | with_reducible refine keep_refuseOr h_qe hR ?_ ?_
    | with_reducible refine keep_withHost h_qe h_out hR ?_ ?_
    | with_reducible refine keep_startCmd h_qe h_tm h_cf h_out hR ?_ ?_
    | with_reducible refine keep_finish h_qe hR ?_
    | with_reducible refine keep_commit h_qe h_tn h_out hR ?_
    | fail_if_no_progress with_reducible refine keep_up_tn h_tn (keep_eta ?_)
    | (extract_lets -underBinder -merge -useContext +onlyGivenNames x; clear_value x)
    | split
    | with_reducible intro _

theorem keep_execLxManagerSet {a1 : Cmd} {a2 : Option Bytes} (h_qe : UpQe P) (h_tm : UpTm P) (h_cf : UpCf P) (h_tn : UpTn P) (h_out : UpOut P) (hR : UpR P) (h : Keep P s) : KeepOut P (execLxManagerSet a1 a2 s) := by
  unfold execLxManagerSet
  repeat' first
    | with_reducible assumption
    | with_reducible refine keepOut_next ?_
    | with_reducible refine keep_refuseOr h_qe hR ?_ ?_
    | with_reducible refine keep_withHost h_qe h_out hR ?_ ?_
    | with_reducible refine keep_startCmd h_qe h_tm h_cf h_out hR ?_ ?_
    | with_reducible refine keep_finish h_qe hR ?_
    | with_reducible refine keep_commit h_qe h_tn h_out hR ?_
    | fail_if_no_progress with_reducible refine keep_up_cf h_cf (keep_up_tn h_tn (keep_eta ?_))
    | with_reducible intro _

theorem keep_execLxManagerClear {a1 : Cmd} (h_qe : UpQe P) (h_tm : UpTm P) (h_cf : UpCf P) (h_tn : UpTn P) (h_out : UpOut P) (hR : UpR P) (h : Keep P s) : KeepOut P (execLxManagerClear a1 s) := by
  unfold execLxManagerClear
  repeat' first
    | with_reducible assumption
    | with_reducible refine keepOut_next ?_
    | with_reducible refine keep_startCmd h_qe h_tm h_cf h_out hR ?_ ?_
    | with_reducible refine keep_finish h_qe hR ?_
    | with_reducible refine keep_commit h_qe h_tn h_out hR ?_
    | fail_if_no_progress with_reducible refine keep_up_cf h_cf (keep_up_tn h_tn (keep_eta ?_))
    | with_reducible intro _

theorem keep_execLxHandover {a1 : Cmd} {a2 : Option Bytes} (h_power : UpPower P) (h_qe : UpQe P) (h_cx : UpCx P) (h_pm : UpPm P) (h_ae : UpAe P) (h_bb : UpBb P) (h_ac : UpAc P) (h_tm : UpTm P) (h_pf : UpPf P) (h_fl : UpFl P) (h_es : UpEs P) (h_im : UpIm P) (h_ft : UpFt P) (h_cf : UpCf P) (h_tn : UpTn P) (h_lx : UpLx P) (h_out : UpOut P) (hR : UpR P) (hRF : UpRF P) (hC : UpC P) (h : Keep P s) : KeepOut P (execLxHandover a1 a2 s) := by
  unfold execLxHandover
  repeat' first
    | with_reducible assumption
    | with_reducible refine keepOut_next ?_
    | with_reducible refine keep_requestReset h_power h_qe h_cx h_pm h_ae h_bb h_ac h_tm h_pf h_fl h_es h_im h_ft h_cf h_tn h_lx h_out hR hRF hC ?_
    | with_reducible refine keep_refuseOr h_qe hR ?_ ?_
    | with_reducible refine keep_withHost h_qe h_out hR ?_ ?_
    | with_reducible refine keep_startCmd h_qe h_tm h_cf h_out hR ?_ ?_
    | with_reducible refine keep_commit h_qe h_tn h_out hR ?_
    | fail_if_no_progress with_reducible refine keep_up_power h_power (keep_eta ?_)
    | fail_if_no_progress with_reducible refine keep_up_power h_power (keep_up_tn h_tn (keep_eta ?_))
    | split
    | with_reducible intro _

theorem keep_execLxFlashWrite {a1 : Cmd} {a2 : Option Bytes} (h_qe : UpQe P) (h_tm : UpTm P) (h_cf : UpCf P) (h_lx : UpLx P) (h_out : UpOut P) (hR : UpR P) (h : Keep P s) : KeepOut P (execLxFlashWrite a1 a2 s) := by
  unfold execLxFlashWrite
  repeat' first
    | with_reducible assumption
    | with_reducible refine keepOut_next ?_
    | with_reducible refine keep_refuseOr h_qe hR ?_ ?_
    | with_reducible refine keep_withHost h_qe h_out hR ?_ ?_
    | with_reducible refine keep_startCmd h_qe h_tm h_cf h_out hR ?_ ?_
    | with_reducible refine keep_finish h_qe hR ?_
    | fail_if_no_progress with_reducible refine keep_up_lx h_lx (keep_eta ?_)
    | split
    | with_reducible intro _

theorem keep_execLxRollback {a1 : Cmd} (h_qe : UpQe P) (h_tm : UpTm P) (h_cf : UpCf P) (h_tn : UpTn P) (h_out : UpOut P) (hR : UpR P) (h : Keep P s) : KeepOut P (execLxRollback a1 s) := by
  unfold execLxRollback
  repeat' first
    | with_reducible assumption
    | with_reducible refine keepOut_next ?_
    | with_reducible refine keep_startCmd h_qe h_tm h_cf h_out hR ?_ ?_
    | with_reducible refine keep_finish h_qe hR ?_
    | with_reducible refine keep_commit h_qe h_tn h_out hR ?_
    | fail_if_no_progress with_reducible refine keep_up_tn h_tn (keep_eta ?_)
    | (extract_lets -underBinder -merge -useContext +onlyGivenNames x; clear_value x)
    | split
    | with_reducible intro _

theorem keep_execLxAnchor {a1 : Cmd} (h_qe : UpQe P) (h_tm : UpTm P) (h_cf : UpCf P) (h_tn : UpTn P) (h_out : UpOut P) (hR : UpR P) (h : Keep P s) : KeepOut P (execLxAnchor a1 s) := by
  unfold execLxAnchor
  repeat' first
    | with_reducible assumption
    | with_reducible refine keepOut_next ?_
    | with_reducible refine keep_startCmd h_qe h_tm h_cf h_out hR ?_ ?_
    | with_reducible refine keep_finish h_qe hR ?_
    | with_reducible refine keep_commit h_qe h_tn h_out hR ?_
    | fail_if_no_progress with_reducible refine keep_up_tn h_tn (keep_eta ?_)
    | with_reducible intro _

theorem keep_tenseRecord {a2 : Nat} (h_draws : UpDraws P) (h : Keep P s) : KeepP P (tenseRecord s a2) := by
  unfold tenseRecord
  repeat' first
    | with_reducible assumption
    | fail_if_no_progress with_reducible refine keep_up_draws h_draws (keep_eta ?_)
    | (extract_lets -underBinder -merge -useContext +onlyGivenNames x; have := (fun (_ : _ → _) => trivial) x; unfold x; clear this x; beta_reduce)
    | split
    | with_reducible refine keepP_mk ?_

theorem keep_loseRecord {a2 : Nat} (h_qe : UpQe P) (h_tn : UpTn P) (h_out : UpOut P) (hR : UpR P) (h : Keep P s) : Keep P (loseRecord s a2) := by
  unfold loseRecord
  repeat' first
    | with_reducible assumption
    | with_reducible refine keep_raise0 h_qe h_out hR ?_
    | fail_if_no_progress with_reducible refine keep_up_tn h_tn (keep_eta ?_)

theorem keep_execLxTnRead {a1 : Cmd} {a2 : Bool} {a3 : Bool} (h_qe : UpQe P) (h_tm : UpTm P) (h_cf : UpCf P) (h_tn : UpTn P) (h_out : UpOut P) (h_draws : UpDraws P) (hR : UpR P) (h : Keep P s) : KeepOut P (execLxTnRead a1 a2 a3 s) := by
  unfold execLxTnRead
  repeat' first
    | with_reducible assumption
    | with_reducible refine keepOut_next ?_
    | with_reducible refine keep_loseRecord h_qe h_tn h_out hR ?_
    | with_reducible refine keepP_snd (keep_tenseRecord h_draws ?_)
    | with_reducible refine keep_refuseOr h_qe hR ?_ ?_
    | with_reducible refine keep_putHost h_qe h_out hR ?_ ?_
    | with_reducible refine keep_startCmd h_qe h_tm h_cf h_out hR ?_ ?_
    | with_reducible refine keep_completeWith h_qe hR ?_
    | split
    | with_reducible intro _

theorem keep_beginSupplete {a2 : CmdRef} {a3 : Nat} {a4 : Nat} (h_qe : UpQe P) (h_bb : UpBb P) (h_ac : UpAc P) (h_tn : UpTn P) (h_lx : UpLx P) (h_out : UpOut P) (hR : UpR P) (h : Keep P s) : Keep P (beginSupplete s a2 a3 a4) := by
  unfold beginSupplete
  repeat' first
    | with_reducible assumption
    | with_reducible refine keep_endSuppletions h_qe h_bb h_ac h_tn h_lx h_out hR ?_
    | with_reducible refine keep_finish h_qe hR ?_
    | fail_if_no_progress with_reducible refine keep_up_lx h_lx (keep_eta ?_)
    | split

theorem keep_execLxSupplete {a1 : Cmd} (h_qe : UpQe P) (h_bb : UpBb P) (h_ac : UpAc P) (h_tm : UpTm P) (h_cf : UpCf P) (h_tn : UpTn P) (h_lx : UpLx P) (h_out : UpOut P) (hR : UpR P) (h : Keep P s) : KeepOut P (execLxSupplete a1 s) := by
  unfold execLxSupplete
  repeat' first
    | with_reducible assumption
    | with_reducible refine keepOut_next ?_
    | with_reducible refine keep_beginSupplete h_qe h_bb h_ac h_tn h_lx h_out hR ?_
    | with_reducible refine keep_startCmd h_qe h_tm h_cf h_out hR ?_ ?_
    | with_reducible refine keep_finish h_qe hR ?_
    | (extract_lets -underBinder -merge -useContext +onlyGivenNames x; have := (fun (_ : _ → _) => trivial) x; unfold x; clear this x; beta_reduce)
    | (extract_lets -underBinder -merge -useContext +onlyGivenNames x; clear_value x)
    | split
    | with_reducible intro _

theorem keep_execLxSetActive {a1 : Cmd} (h_qe : UpQe P) (h_tm : UpTm P) (h_cf : UpCf P) (h_lx : UpLx P) (h_out : UpOut P) (hR : UpR P) (h : Keep P s) : KeepOut P (execLxSetActive a1 s) := by
  unfold execLxSetActive
  repeat' first
    | with_reducible assumption
    | with_reducible refine keepOut_next ?_
    | with_reducible refine keep_startCmd h_qe h_tm h_cf h_out hR ?_ ?_
    | with_reducible refine keep_finish h_qe hR ?_
    | fail_if_no_progress with_reducible refine keep_up_lx h_lx (keep_eta ?_)
    | with_reducible intro _

theorem keep_abortOwner  (h_power : UpPower P) (h_qe : UpQe P) (h_tm : UpTm P) (h_pf : UpPf P) (h_cf : UpCf P) (h_lx : UpLx P) (hR : UpR P) (h : Keep P s) : Keep P (abortOwner s) := by
  unfold abortOwner
  repeat' first
    | with_reducible assumption
    | with_reducible refine keep_finishAll h_qe hR ?_
    | fail_if_no_progress with_reducible refine keep_up_power h_power (keep_up_tm h_tm (keep_up_pf h_pf (keep_up_cf h_cf (keep_up_lx h_lx (keep_eta ?_)))))

theorem keep_haltLexicon  (h_qe : UpQe P) (h_out : UpOut P) (hR : UpR P) (h : Keep P s) : Keep P (haltLexicon s) := by
  unfold haltLexicon
  repeat' first
    | with_reducible assumption
    | with_reducible refine keep_raiseGs h_qe h_out hR ?_
    | with_reducible refine keep_setB hR ?_

theorem keep_execMeasuredRestart {a1 : Bool} (h_power : UpPower P) (h_qe : UpQe P) (h_tm : UpTm P) (h_pf : UpPf P) (h_cf : UpCf P) (h_lx : UpLx P) (h_out : UpOut P) (hR : UpR P) (h : Keep P s) : KeepOut P (execMeasuredRestart a1 s) := by
  unfold execMeasuredRestart
  repeat' first
    | with_reducible assumption
    | with_reducible refine keepOut_next ?_
    | with_reducible refine keep_haltLexicon h_qe h_out hR ?_
    | with_reducible refine keep_abortOwner h_power h_qe h_tm h_pf h_cf h_lx hR ?_
    | with_reducible refine keep_raise0 h_qe h_out hR ?_
    | with_reducible refine keep_live ?_ ?_
    | fail_if_no_progress with_reducible refine keep_up_lx h_lx (keep_eta ?_)
    | (extract_lets -underBinder -merge -useContext +onlyGivenNames x; with_reducible refine keep_cut (s := x) ?_ ?_; (on_goal 1 => unfold x); (on_goal 2 => (clear_value x; intro _)))
    | (extract_lets -underBinder -merge -useContext +onlyGivenNames x; clear_value x)
    | split
    | with_reducible intro _

theorem keep_doeRequest {a2 : Bytes} (h_lx : UpLx P) (h_out : UpOut P) (h : Keep P s) : Keep P (doeRequest s a2) := by
  unfold doeRequest
  repeat' first
    | with_reducible assumption
    | with_reducible refine keep_live ?_ ?_
    | with_reducible refine keep_emit h_out ?_
    | fail_if_no_progress with_reducible refine keep_up_lx h_lx (keep_eta ?_)
    | split
    | with_reducible intro _

theorem keep_execGetChain {a1 : Bytes} (h_lx : UpLx P) (h_out : UpOut P) (h : Keep P s) : KeepOut P (execGetChain a1 s) := by
  unfold execGetChain
  repeat' first
    | with_reducible assumption
    | with_reducible refine keepOut_next ?_
    | with_reducible refine keep_doeRequest h_lx h_out ?_

theorem keep_execAttest {a1 : Bytes} (h_lx : UpLx P) (h_out : UpOut P) (h : Keep P s) : KeepOut P (execAttest a1 s) := by
  unfold execAttest
  repeat' first
    | with_reducible assumption
    | with_reducible refine keepOut_next ?_
    | with_reducible refine keep_doeRequest h_lx h_out ?_

theorem keep_execGetHandover {a1 : Bytes} (h_lx : UpLx P) (h_out : UpOut P) (h : Keep P s) : KeepOut P (execGetHandover a1 s) := by
  unfold execGetHandover
  repeat' first
    | with_reducible assumption
    | with_reducible refine keepOut_next ?_
    | with_reducible refine keep_doeRequest h_lx h_out ?_

theorem keep_execDoeAbort  (h_lx : UpLx P) (h : Keep P s) : KeepOut P (execDoeAbort s) := by
  unfold execDoeAbort
  repeat' first
    | with_reducible assumption
    | with_reducible refine keepOut_next ?_
    | with_reducible refine keep_live ?_ ?_
    | fail_if_no_progress with_reducible refine keep_up_lx h_lx (keep_eta ?_)
    | with_reducible intro _

theorem keep_doeHeld  (h_lx : UpLx P) (h_out : UpOut P) (h : Keep P s) : Keep P (doeHeld s) := by
  unfold doeHeld
  repeat' first
    | with_reducible assumption
    | with_reducible refine keep_emit h_out ?_
    | fail_if_no_progress with_reducible refine keep_up_lx h_lx (keep_eta ?_)
    | split

theorem keep_commitSeconds  (h_qe : UpQe P) (h_tn : UpTn P) (h_lx : UpLx P) (h_out : UpOut P) (hR : UpR P) (h : Keep P s) : Keep P (commitSeconds s) := by
  unfold commitSeconds
  repeat' first
    | with_reducible assumption
    | with_reducible refine keep_commit h_qe h_tn h_out hR ?_
    | fail_if_no_progress with_reducible refine keep_up_tn h_tn (keep_up_lx h_lx (keep_eta ?_))

theorem keep_noteBau {a2 : Nat} (h_tn : UpTn P) (h_draws : UpDraws P) (h : Keep P s) : Keep P (noteBau s a2) := by
  unfold noteBau
  repeat' first
    | with_reducible assumption
    | with_reducible refine keepP_snd (keep_drawFree h_draws ?_)
    | fail_if_no_progress with_reducible refine keep_up_tn h_tn (keep_eta ?_)

theorem keep_endDay {a1 : Nat} (h_qe : UpQe P) (h_tn : UpTn P) (h_out : UpOut P) (h_draws : UpDraws P) (hR : UpR P) (h : Keep P s) : Keep P (endDay a1 s) := by
  unfold endDay
  repeat' first
    | with_reducible assumption
    | with_reducible refine keep_noteBau h_tn h_draws ?_
    | with_reducible refine keep_commit h_qe h_tn h_out hR ?_
    | fail_if_no_progress with_reducible refine keep_up_tn h_tn (keep_eta ?_)
    | with_reducible refine keep_foldl (fun _ _ _ => ?_) ?_

theorem keep_execTensePeriodicCommit {a1 : List Nat} {a2 : List Nat} (h_qe : UpQe P) (h_tn : UpTn P) (h_lx : UpLx P) (h_out : UpOut P) (h_draws : UpDraws P) (hR : UpR P) (h : Keep P s) : KeepOut P (execTensePeriodicCommit a1 a2 s) := by
  unfold execTensePeriodicCommit
  repeat' first
    | with_reducible assumption
    | with_reducible refine keepOut_next ?_
    | with_reducible refine keep_endDay h_qe h_tn h_out h_draws hR ?_
    | with_reducible refine keep_commitSeconds h_qe h_tn h_lx h_out hR ?_
    | with_reducible refine keep_commit h_qe h_tn h_out hR ?_
    | with_reducible refine keep_live ?_ ?_
    | fail_if_no_progress with_reducible refine keep_up_tn h_tn (keep_eta ?_)
    | fail_if_no_progress extract_lets -underBinder -merge -useContext +onlyGivenNames x
    | split
    | with_reducible intro _

/-! ### Machine/Power.lean -/


theorem keep_goOff {a1 : Supply} (h_power : UpPower P) (h_out : UpOut P) (hR : UpR P) (h : Keep P s) : Keep P (goOff a1 s) := by
  unfold goOff
  repeat' first
    | with_reducible assumption
    | with_reducible refine keep_releaseRing h_out hR ?_
    | fail_if_no_progress with_reducible refine keep_up_power h_power (keep_eta ?_)

theorem keep_brownOut {a1 : Nat} {a2 : Supply} (h_power : UpPower P) (h_qe : UpQe P) (h_tn : UpTn P) (h_lx : UpLx P) (h_out : UpOut P) (hR : UpR P) (h : Keep P s) : Keep P (brownOut a1 a2 s) := by
  unfold brownOut
  repeat' first
    | with_reducible assumption
    | with_reducible refine keep_goOff h_power h_out hR ?_
    | with_reducible refine keep_commitSeconds h_qe h_tn h_lx h_out hR ?_
    | with_reducible refine keep_commit h_qe h_tn h_out hR ?_
    | fail_if_no_progress with_reducible refine keep_up_tn h_tn (keep_eta ?_)

theorem keep_powerUp  (h_power : UpPower P) (h_qe : UpQe P) (h_cx : UpCx P) (h_pm : UpPm P) (h_ae : UpAe P) (h_bb : UpBb P) (h_ac : UpAc P) (h_tm : UpTm P) (h_pf : UpPf P) (h_fl : UpFl P) (h_es : UpEs P) (h_im : UpIm P) (h_ft : UpFt P) (h_cf : UpCf P) (h_tn : UpTn P) (h_lx : UpLx P) (h_out : UpOut P) (hR : UpR P) (hRF : UpRF P) (hC : UpC P) (h : Keep P s) : Keep P (powerUp s) := by
  unfold powerUp
  repeat' first
    | with_reducible assumption
    | with_reducible refine keep_beginReset h_power h_qe h_cx h_pm h_ae h_bb h_ac h_tm h_pf h_fl h_es h_im h_ft h_cf h_tn h_lx h_out hR hRF hC ?_

theorem keep_execPowerOn  (h_power : UpPower P) (h_qe : UpQe P) (h_cx : UpCx P) (h_pm : UpPm P) (h_ae : UpAe P) (h_bb : UpBb P) (h_ac : UpAc P) (h_tm : UpTm P) (h_pf : UpPf P) (h_fl : UpFl P) (h_es : UpEs P) (h_im : UpIm P) (h_ft : UpFt P) (h_cf : UpCf P) (h_tn : UpTn P) (h_lx : UpLx P) (h_out : UpOut P) (hR : UpR P) (hRF : UpRF P) (hC : UpC P) (h : Keep P s) : KeepOut P (execPowerOn s) := by
  unfold execPowerOn
  repeat' first
    | with_reducible assumption
    | with_reducible refine keepOut_next ?_
    | with_reducible refine keep_powerUp h_power h_qe h_cx h_pm h_ae h_bb h_ac h_tm h_pf h_fl h_es h_im h_ft h_cf h_tn h_lx h_out hR hRF hC ?_
    | split

theorem keep_execWarmReset {a1 : Bool} (h_power : UpPower P) (h_qe : UpQe P) (h_cx : UpCx P) (h_pm : UpPm P) (h_ae : UpAe P) (h_bb : UpBb P) (h_ac : UpAc P) (h_tm : UpTm P) (h_pf : UpPf P) (h_fl : UpFl P) (h_es : UpEs P) (h_im : UpIm P) (h_ft : UpFt P) (h_cf : UpCf P) (h_tn : UpTn P) (h_lx : UpLx P) (h_out : UpOut P) (hR : UpR P) (hRF : UpRF P) (hC : UpC P) (h : Keep P s) : KeepOut P (execWarmReset a1 s) := by
  unfold execWarmReset
  repeat' first
    | with_reducible assumption
    | with_reducible refine keepOut_next ?_
    | with_reducible refine keep_requestReset h_power h_qe h_cx h_pm h_ae h_bb h_ac h_tm h_pf h_fl h_es h_im h_ft h_cf h_tn h_lx h_out hR hRF hC ?_
    | fail_if_no_progress with_reducible refine keep_up_power h_power (keep_eta ?_)
    | fail_if_no_progress extract_lets -underBinder -merge -useContext +onlyGivenNames x
    | split

theorem keep_execOvervoltage {a1 : Nat} (h_power : UpPower P) (h_qe : UpQe P) (h_cx : UpCx P) (h_pm : UpPm P) (h_ae : UpAe P) (h_bb : UpBb P) (h_ac : UpAc P) (h_tm : UpTm P) (h_pf : UpPf P) (h_fl : UpFl P) (h_es : UpEs P) (h_im : UpIm P) (h_ft : UpFt P) (h_cf : UpCf P) (h_tn : UpTn P) (h_lx : UpLx P) (h_out : UpOut P) (hR : UpR P) (hRF : UpRF P) (hC : UpC P) (h : Keep P s) : KeepOut P (execOvervoltage a1 s) := by
  unfold execOvervoltage
  repeat' first
    | with_reducible assumption
    | with_reducible refine keepOut_next ?_
    | with_reducible exact keepOut_fault
    | with_reducible refine keep_powerUp h_power h_qe h_cx h_pm h_ae h_bb h_ac h_tm h_pf h_fl h_es h_im h_ft h_cf h_tn h_lx h_out hR hRF hC ?_
    | with_reducible refine keep_goOff h_power h_out hR ?_
    | fail_if_no_progress with_reducible refine keep_up_power h_power (keep_eta ?_)
    | split

theorem keep_execBrownout  (h_power : UpPower P) (h_qe : UpQe P) (h_tn : UpTn P) (h_lx : UpLx P) (h_out : UpOut P) (hR : UpR P) (h : Keep P s) : KeepOut P (execBrownout s) := by
  unfold execBrownout
  repeat' first
    | with_reducible assumption
    | with_reducible refine keepOut_next ?_
    | with_reducible refine keep_brownOut h_power h_qe h_tn h_lx h_out hR ?_
    | split

theorem keep_trip  (h_power : UpPower P) (h_qe : UpQe P) (h_tn : UpTn P) (h_lx : UpLx P) (h_out : UpOut P) (hR : UpR P) (h : Keep P s) : Keep P (trip s) := by
  unfold trip
  repeat' first
    | with_reducible assumption
    | with_reducible refine keep_brownOut h_power h_qe h_tn h_lx h_out hR ?_
    | with_reducible refine keep_emit h_out ?_

theorem keep_execThermalTrip {a1 : Nat} {a2 : Nat} (h_power : UpPower P) (h_qe : UpQe P) (h_tn : UpTn P) (h_lx : UpLx P) (h_out : UpOut P) (hR : UpR P) (h : Keep P s) : KeepOut P (execThermalTrip a1 a2 s) := by
  unfold execThermalTrip
  repeat' first
    | with_reducible assumption
    | with_reducible refine keepOut_next ?_
    | with_reducible refine keep_trip h_power h_qe h_tn h_lx h_out hR ?_
    | split

theorem keep_execClockLoss  (h_power : UpPower P) (h_qe : UpQe P) (h_tn : UpTn P) (h_lx : UpLx P) (h_out : UpOut P) (hR : UpR P) (h : Keep P s) : KeepOut P (execClockLoss s) := by
  unfold execClockLoss
  repeat' first
    | with_reducible assumption
    | with_reducible refine keepOut_next ?_
    | with_reducible refine keep_brownOut h_power h_qe h_tn h_lx h_out hR ?_
    | split

theorem keep_execThermtripRelease  (h_power : UpPower P) (h_out : UpOut P) (h : Keep P s) : KeepOut P (execThermtripRelease s) := by
  unfold execThermtripRelease
  repeat' first
    | with_reducible assumption
    | with_reducible refine keepOut_next ?_
    | with_reducible refine keep_emit h_out ?_
    | fail_if_no_progress with_reducible refine keep_up_power h_power (keep_eta ?_)
    | split

theorem keep_readTemps {a1 : List Nat} (hR : UpR P) (h : Keep P s) : Keep P (readTemps a1 s) := by
  unfold readTemps
  repeat' first
    | with_reducible assumption
    | with_reducible refine keep_setR hR ?_
    | with_reducible refine keep_foldl (fun _ _ _ => ?_) ?_

theorem keep_countCycle {a1 : List Nat} (h_qe : UpQe P) (h_tn : UpTn P) (h_out : UpOut P) (hR : UpR P) (h : Keep P s) : Keep P (countCycle a1 s) := by
  unfold countCycle
  repeat' first
    | with_reducible assumption
    | with_reducible refine keep_commit h_qe h_tn h_out hR ?_
    | fail_if_no_progress with_reducible refine keep_up_tn h_tn (keep_eta ?_)
    | (extract_lets -underBinder -merge -useContext +onlyGivenNames x; clear_value x)
    | split

theorem keep_throttle {a1 : Nat} {a2 : List Nat} (h_power : UpPower P) (h_qe : UpQe P) (h_out : UpOut P) (hR : UpR P) (h : Keep P s) : Keep P (throttle a1 a2 s) := by
  unfold throttle
  repeat' first
    | with_reducible assumption
    | with_reducible refine keep_raise0 h_qe h_out hR ?_
    | with_reducible refine keep_bumpR hR ?_
    | with_reducible refine keep_setR hR ?_
    | fail_if_no_progress with_reducible refine keep_up_power h_power (keep_eta ?_)
    | split

theorem keep_passBoundary {a1 : Nat} {a2 : List Nat} (h_power : UpPower P) (h_qe : UpQe P) (h_tn : UpTn P) (h_out : UpOut P) (hR : UpR P) (h : Keep P s) : Keep P (passBoundary a1 a2 s) := by
  unfold passBoundary
  repeat' first
    | with_reducible assumption
    | with_reducible refine keep_throttle h_power h_qe h_out hR ?_
    | with_reducible refine keep_countCycle h_qe h_tn h_out hR ?_
    | with_reducible refine keep_readTemps hR ?_
    | fail_if_no_progress with_reducible refine keep_up_power h_power (keep_eta ?_)

theorem keep_execThrottleBoundary {a1 : Nat} {a2 : List Nat} (h_power : UpPower P) (h_qe : UpQe P) (h_tn : UpTn P) (h_lx : UpLx P) (h_out : UpOut P) (hR : UpR P) (h : Keep P s) : KeepOut P (execThrottleBoundary a1 a2 s) := by
  unfold execThrottleBoundary
  repeat' first
    | with_reducible assumption
    | with_reducible refine keepOut_next ?_
    | with_reducible refine keep_passBoundary h_power h_qe h_tn h_out hR ?_
    | with_reducible refine keep_trip h_power h_qe h_tn h_lx h_out hR ?_
    | with_reducible refine keep_live ?_ ?_
    | split
    | with_reducible intro _

theorem keep_setRetain {a2 : RetainPhase} (h_power : UpPower P) (h : Keep P s) : Keep P (setRetain s a2) := by
  unfold setRetain
  repeat' first
    | with_reducible assumption
    | fail_if_no_progress with_reducible refine keep_up_power h_power (keep_eta ?_)

theorem keep_setPwStatus {a2 : Nat} (hR : UpR P) (h : Keep P s) : Keep P (setPwStatus s a2) := by
  unfold setPwStatus
  repeat' first
    | with_reducible assumption
    | with_reducible refine keep_setF hR ?_

theorem keep_startRetain  (h_power : UpPower P) (h_ft : UpFt P) (h_cf : UpCf P) (h : Keep P s) : Keep P (startRetain s) := by
  unfold startRetain
  repeat' first
    | with_reducible assumption
    | with_reducible refine keep_setRetain h_power ?_
    | with_reducible refine keep_sendHeartbeats h_ft h_cf ?_
    | fail_if_no_progress with_reducible refine keep_up_power h_power (keep_eta ?_)
    | split

theorem keep_requestRetain  (h_power : UpPower P) (h_ft : UpFt P) (h_cf : UpCf P) (h : Keep P s) : Keep P (requestRetain s) := by
  unfold requestRetain
  repeat' first
    | with_reducible assumption
    | with_reducible refine keep_startRetain h_power h_ft h_cf ?_
    | fail_if_no_progress with_reducible refine keep_up_power h_power (keep_eta ?_)
    | split

theorem keep_retainJobs  (h_qe : UpQe P) (h_ac : UpAc P) (h_tn : UpTn P) (h_lx : UpLx P) (h_out : UpOut P) (h_draws : UpDraws P) (hR : UpR P) (hW : UpW P) (h : Keep P s) : Keep P (retainJobs s) := by
  unfold retainJobs
  repeat' first
    | with_reducible assumption
    | with_reducible refine keep_checkPreempt h_qe h_ac h_tn h_lx h_out h_draws hR hW ?_
    | with_reducible refine keep_endJob h_qe h_ac h_tn h_lx h_out hR ?_
    | with_reducible refine keep_updJob h_ac ?_
    | with_reducible refine keep_foldl (fun _ _ _ => ?_) ?_
    | split

theorem keep_retainHandovers  (h_qe : UpQe P) (h_cx : UpCx P) (h_pm : UpPm P) (h_ae : UpAe P) (h_bb : UpBb P) (h_tm : UpTm P) (h_pf : UpPf P) (h_ft : UpFt P) (h_cf : UpCf P) (h_out : UpOut P) (hR : UpR P) (hW : UpW P) (hZ : UpZ P) (h : Keep P s) : Keep P (retainHandovers s) := by
  unfold retainHandovers
  repeat' first
    | with_reducible assumption
    | with_reducible refine keep_hoDrop h_qe h_cx h_pm h_tm h_pf h_cf h_out hR hW ?_
    | with_reducible refine keep_hoRevert h_qe h_cx h_pm h_ae h_bb h_tm h_pf h_ft h_cf h_out hR hW hZ ?_
    | with_reducible refine keep_hoSend h_qe h_ft h_out hR ?_
    | with_reducible refine keep_foldl (fun _ _ _ => ?_) ?_
    | split

theorem keep_requeueMove {a2 : Nat} (h_qe : UpQe P) (h_pm : UpPm P) (h_tm : UpTm P) (h_out : UpOut P) (hR : UpR P) (h : Keep P s) : Keep P (requeueMove s a2) := by
  unfold requeueMove
  repeat' first
    | with_reducible assumption
    | with_reducible refine keep_unwindMove h_qe h_pm h_tm h_out hR ?_
    | with_reducible refine keep_updMove h_tm ?_
    | split

theorem keep_retainMoves  (h_qe : UpQe P) (h_cx : UpCx P) (h_pm : UpPm P) (h_ae : UpAe P) (h_tm : UpTm P) (h_pf : UpPf P) (h_cf : UpCf P) (h_out : UpOut P) (hR : UpR P) (hW : UpW P) (h : Keep P s) : Keep P (retainMoves s) := by
  unfold retainMoves
  repeat' first
    | with_reducible assumption
    | with_reducible refine keep_requeueMove h_qe h_pm h_tm h_out hR ?_
    | with_reducible refine keep_flushBuf h_qe h_cx h_pm h_ae h_tm h_pf h_cf h_out hR hW ?_
    | with_reducible refine keep_foldl (fun _ _ _ => ?_) ?_

theorem keep_retainSleep  (h_power : UpPower P) (h_qe : UpQe P) (h_fl : UpFl P) (h_ft : UpFt P) (h_tn : UpTn P) (h_out : UpOut P) (hR : UpR P) (h : Keep P s) : Keep P (retainSleep s) := by
  unfold retainSleep
  extract_lets s1 s2 s3 tn0 s4 s5
  have h1 : Keep P s1 := keep_foldl (fun _ _ h => keep_connFail h_qe h_ft h_out hR h) h
  have h2 : Keep P s2 := keep_releaseRing h_out hR h1
  have h3 : Keep P s3 := by
    refine keep_foldl (fun _ _ h => ?_) h2
    split
    · exact h
    · exact keep_portDown h_qe h_fl h_out hR h
  have h4 : Keep P s4 := keep_up_tn h_tn (keep_eta h3)
  have h5 : Keep P s5 := keep_setPwStatus hR (keep_setRetain h_power h4)
  clear_value s5
  split
  · exact keep_setRetain h_power (keep_up_power h_power (keep_eta h5))
  · exact h5

theorem keep_execRetainEntryProgress  (h_power : UpPower P) (h_qe : UpQe P) (h_cx : UpCx P) (h_pm : UpPm P) (h_ae : UpAe P) (h_bb : UpBb P) (h_ac : UpAc P) (h_tm : UpTm P) (h_pf : UpPf P) (h_fl : UpFl P) (h_ft : UpFt P) (h_cf : UpCf P) (h_tn : UpTn P) (h_lx : UpLx P) (h_out : UpOut P) (h_draws : UpDraws P) (hR : UpR P) (hW : UpW P) (hZ : UpZ P) (h : Keep P s) : KeepOut P (execRetainEntryProgress s) := by
  unfold execRetainEntryProgress
  repeat' first
    | with_reducible assumption
    | with_reducible refine keepOut_next ?_
    | with_reducible refine keep_retainSleep h_power h_qe h_fl h_ft h_tn h_out hR ?_
    | with_reducible refine keep_retainMoves h_qe h_cx h_pm h_ae h_tm h_pf h_cf h_out hR hW ?_
    | with_reducible refine keep_retainHandovers h_qe h_cx h_pm h_ae h_bb h_tm h_pf h_ft h_cf h_out hR hW hZ ?_
    | with_reducible refine keep_retainJobs h_qe h_ac h_tn h_lx h_out h_draws hR hW ?_
    | with_reducible refine keep_setRetain h_power ?_
    | with_reducible refine keep_live ?_ ?_
    | fail_if_no_progress with_reducible refine keep_up_tm h_tm (keep_eta ?_)
    | split
    | with_reducible intro _

theorem keep_requestRun  (h_power : UpPower P) (hR : UpR P) (h : Keep P s) : Keep P (requestRun s) := by
  unfold requestRun
  repeat' first
    | with_reducible assumption
    | with_reducible refine keep_setPwStatus hR ?_
    | with_reducible refine keep_setRetain h_power ?_
    | fail_if_no_progress with_reducible refine keep_up_power h_power (keep_eta ?_)
    | split

theorem keep_requestState {a2 : Nat} (h_power : UpPower P) (h_ft : UpFt P) (h_cf : UpCf P) (hR : UpR P) (h : Keep P s) : Keep P (requestState s a2) := by
  unfold requestState
  repeat' first
    | with_reducible assumption
    | with_reducible refine keep_requestRun h_power hR ?_
    | with_reducible refine keep_requestRetain h_power h_ft h_cf ?_
    | with_reducible refine keep_setPwStatus hR ?_
    | split

theorem keep_execWake  (h_power : UpPower P) (h : Keep P s) : KeepOut P (execWake s) := by
  unfold execWake
  repeat' first
    | with_reducible assumption
    | with_reducible refine keepOut_next ?_
    | with_reducible refine keep_setRetain h_power ?_
    | split

theorem keep_requeueJobs  (h_ac : UpAc P) (h : Keep P s) : Keep P (requeueJobs s) := by
  unfold requeueJobs
  repeat' first
    | with_reducible assumption
    | fail_if_no_progress with_reducible refine keep_up_ac h_ac (keep_eta ?_)

theorem keep_wakeBlocks  (h_qe : UpQe P) (h_bb : UpBb P) (h_ac : UpAc P) (h_fl : UpFl P) (h_es : UpEs P) (h_im : UpIm P) (h_tn : UpTn P) (h_out : UpOut P) (hR : UpR P) (h : Keep P s) : Keep P (wakeBlocks s) := by
  unfold wakeBlocks
  repeat' first
    | with_reducible assumption
    | with_reducible refine keep_requeueJobs h_ac ?_
    | with_reducible refine keep_wakePort h_fl hR ?_
    | with_reducible refine keep_startListening h_qe h_fl h_out hR ?_
    | fail_if_no_progress with_reducible refine keep_up_bb h_bb (keep_up_ac h_ac (keep_up_es h_es (keep_up_im h_im (keep_up_tn h_tn (keep_eta ?_)))))
    | with_reducible refine keep_foldl (fun _ _ _ => ?_) ?_
    | split

theorem keep_resumeWatch  (h_qe : UpQe P) (h_ft : UpFt P) (h_cf : UpCf P) (h_out : UpOut P) (hR : UpR P) (h : Keep P s) : Keep P (resumeWatch s) := by
  unfold resumeWatch
  repeat' first
    | with_reducible assumption
    | with_reducible refine keep_reportTree h_qe h_ft h_cf h_out hR ?_
    | fail_if_no_progress with_reducible refine keep_up_cf h_cf (keep_eta ?_)
    | with_reducible refine keep_foldl (fun _ _ _ => ?_) ?_

theorem keep_applyDoorbells  (h_power : UpPower P) (h_qe : UpQe P) (h_out : UpOut P) (hR : UpR P) (h : Keep P s) : Keep P (applyDoorbells s) := by
  unfold applyDoorbells
  repeat' first
    | with_reducible assumption
    | with_reducible refine keep_bar2Write h_qe h_out hR ?_
    | fail_if_no_progress with_reducible refine keep_up_power h_power (keep_eta ?_)
    | with_reducible refine keep_foldl (fun _ _ _ => ?_) ?_

theorem keep_wakeLinks {a1 : List Nat} {a2 : List Nat} (h_qe : UpQe P) (h_cx : UpCx P) (h_pm : UpPm P) (h_ae : UpAe P) (h_bb : UpBb P) (h_ac : UpAc P) (h_tm : UpTm P) (h_pf : UpPf P) (h_cf : UpCf P) (h_out : UpOut P) (hR : UpR P) (hW : UpW P) (h : Keep P s) : Keep P (wakeLinks a1 a2 s) := by
  unfold wakeLinks
  repeat' first
    | with_reducible assumption
    | with_reducible refine keep_bbdOut h_qe h_cx h_pm h_ae h_bb h_ac h_tm h_pf h_cf h_out hR hW ?_
    | with_reducible refine keep_tierDown h_qe h_tm h_out hR ?_
    | fail_if_no_progress with_reducible refine keep_up_tm h_tm (keep_eta ?_)
    | with_reducible refine keep_foldl (fun _ _ _ => ?_) ?_

theorem keep_leaveRetain {a1 : List Nat} {a2 : List Nat} (h_power : UpPower P) (h_qe : UpQe P) (h_cx : UpCx P) (h_pm : UpPm P) (h_ae : UpAe P) (h_bb : UpBb P) (h_ac : UpAc P) (h_tm : UpTm P) (h_pf : UpPf P) (h_fl : UpFl P) (h_es : UpEs P) (h_im : UpIm P) (h_ft : UpFt P) (h_cf : UpCf P) (h_tn : UpTn P) (h_lx : UpLx P) (h_out : UpOut P) (h_draws : UpDraws P) (hR : UpR P) (hW : UpW P) (hZ : UpZ P) (h : Keep P s) : Keep P (leaveRetain a1 a2 s) := by
  unfold leaveRetain
  repeat' first
    | with_reducible assumption
    | with_reducible refine keep_wakeLinks h_qe h_cx h_pm h_ae h_bb h_ac h_tm h_pf h_cf h_out hR hW ?_
    | with_reducible refine keep_applyDoorbells h_power h_qe h_out hR ?_
    | with_reducible refine keep_resumeWatch h_qe h_ft h_cf h_out hR ?_
    | with_reducible refine keep_wakeBlocks h_qe h_bb h_ac h_fl h_es h_im h_tn h_out hR ?_
    | with_reducible refine keep_setPwStatus hR ?_
    | with_reducible refine keep_setRetain h_power ?_
    | with_reducible refine keep_pokeThreads h_qe h_cx h_pm h_ae h_bb h_ac h_tm h_pf h_ft h_cf h_tn h_lx h_out h_draws hR hW hZ ?_
    | with_reducible refine keep_raise0 h_qe h_out hR ?_

theorem keep_execRetainExitEnd {a1 : RetainExit} (h_power : UpPower P) (h_qe : UpQe P) (h_cx : UpCx P) (h_pm : UpPm P) (h_ae : UpAe P) (h_bb : UpBb P) (h_ac : UpAc P) (h_tm : UpTm P) (h_pf : UpPf P) (h_fl : UpFl P) (h_es : UpEs P) (h_im : UpIm P) (h_ft : UpFt P) (h_cf : UpCf P) (h_tn : UpTn P) (h_lx : UpLx P) (h_out : UpOut P) (h_draws : UpDraws P) (hR : UpR P) (hRF : UpRF P) (hW : UpW P) (hZ : UpZ P) (hC : UpC P) (h : Keep P s) : KeepOut P (execRetainExitEnd a1 s) := by
  unfold execRetainExitEnd
  repeat' first
    | with_reducible assumption
    | with_reducible refine keepOut_next ?_
    | with_reducible refine keep_leaveRetain h_power h_qe h_cx h_pm h_ae h_bb h_ac h_tm h_pf h_fl h_es h_im h_ft h_cf h_tn h_lx h_out h_draws hR hW hZ ?_
    | with_reducible refine keep_requestReset h_power h_qe h_cx h_pm h_ae h_bb h_ac h_tm h_pf h_fl h_es h_im h_ft h_cf h_tn h_lx h_out hR hRF hC ?_
    | split

end Sys2Proof.Machine
end

