-- ==== Sys2Proof/Laws/KeepHost.lean ====
section
/-!
SUPPORT. KeepHost.lean: what the definitions of Machine/Host.lean, Machine/StartUp.lean, Machine/Sx.lean, Machine/Transport.lean keep (see Keep.lean).
-/

set_option linter.unusedTactic false
set_option linter.unreachableTactic false
set_option linter.unusedVariables false
set_option linter.tactic.unusedName false
set_option maxRecDepth 20000

namespace Sys2Proof.Machine

variable {P : State → Prop} {s : State}

/-! ### Machine/Host.lean -/


theorem keep_badAccess {a2 : Nat} (h_qe : UpQe P) (h_out : UpOut P) (hR : UpR P) (h : Keep P s) : Keep P (badAccess s a2) := by
  unfold badAccess
  repeat' first
    | with_reducible assumption
    | with_reducible refine keep_raise h_qe h_out hR ?_

theorem keep_holdAccess {a2 : Bool} {a3 : Access} (h_lx : UpLx P) (h : Keep P s) : Keep P (holdAccess s a2 a3) := by
  unfold holdAccess
  repeat' first
    | with_reducible assumption
    | fail_if_no_progress with_reducible refine keep_up_lx h_lx (keep_eta ?_)

theorem keep_takeRead {a2 : Access} (h_out : UpOut P) (hR : UpR P) (h : Keep P s) : Keep P (takeRead s a2) := by
  unfold takeRead
  repeat' first
    | with_reducible assumption
    | with_reducible refine keep_emit h_out ?_
    | with_reducible refine keep_setB hR ?_
    | (extract_lets -underBinder -merge -useContext +onlyGivenNames x; with_reducible refine keep_cut (s := x) ?_ ?_; (on_goal 1 => unfold x); (on_goal 2 => (clear_value x; intro _)))
    | split

theorem keep_hostRead {a2 : Access} (h_qe : UpQe P) (h_lx : UpLx P) (h_out : UpOut P) (hR : UpR P) (h : Keep P s) : Keep P (hostRead s a2) := by
  unfold hostRead
  repeat' first
    | with_reducible assumption
    | with_reducible refine keep_takeRead h_out hR ?_
    | with_reducible refine keep_holdAccess h_lx ?_
    | with_reducible refine keep_badAccess h_qe h_out hR ?_
    | with_reducible refine keep_emit h_out ?_
    | split

theorem keep_storeReg {a2 : RegWrite} (hR : UpR P) (h : Keep P s) : Keep P (storeReg s a2) := by
  unfold storeReg
  repeat' first
    | with_reducible assumption
    | with_reducible refine keep_setR hR ?_
    | split

theorem keep_writeGsControl {a2 : RegWrite} (h_power : UpPower P) (h_qe : UpQe P) (h_cx : UpCx P) (h_pm : UpPm P) (h_ae : UpAe P) (h_bb : UpBb P) (h_ac : UpAc P) (h_tm : UpTm P) (h_pf : UpPf P) (h_fl : UpFl P) (h_es : UpEs P) (h_im : UpIm P) (h_ft : UpFt P) (h_cf : UpCf P) (h_tn : UpTn P) (h_lx : UpLx P) (h_out : UpOut P) (hR : UpR P) (hRF : UpRF P) (hC : UpC P) (h : Keep P s) : Keep P (writeGsControl s a2) := by
  unfold writeGsControl
  repeat' first
    | with_reducible assumption
    | with_reducible refine keep_requestReset h_power h_qe h_cx h_pm h_ae h_bb h_ac h_tm h_pf h_fl h_es h_im h_ft h_cf h_tn h_lx h_out hR hRF hC ?_
    | split

theorem keep_writeIntEnable {a2 : Nat} {a3 : Nat} {a4 : RegWrite} (h_qe : UpQe P) (h_out : UpOut P) (hR : UpR P) (h : Keep P s) : Keep P (writeIntEnable s a2 a3 a4) := by
  unfold writeIntEnable
  repeat' first
    | with_reducible assumption
    | with_reducible refine keep_storeReg hR ?_
    | with_reducible refine keep_requestEvent h_qe h_out ?_
    | (extract_lets -underBinder -merge -useContext +onlyGivenNames x; with_reducible refine keep_cut (s := x) ?_ ?_; (on_goal 1 => unfold x); (on_goal 2 => (clear_value x; intro _)))
    | (extract_lets -underBinder -merge -useContext +onlyGivenNames x; clear_value x)
    | split

theorem keep_writeRingBase {a2 : Nat} {a3 : Nat} {a4 : RegWrite} (hR : UpR P) (h : Keep P s) : Keep P (writeRingBase s a2 a3 a4) := by
  unfold writeRingBase
  repeat' first
    | with_reducible assumption
    | with_reducible refine keep_storeReg hR ?_
    | split

theorem keep_writeRingCtrl {a2 : Nat} {a3 : Nat} {a4 : RegWrite} (h_qe : UpQe P) (h_out : UpOut P) (hR : UpR P) (h : Keep P s) : Keep P (writeRingCtrl s a2 a3 a4) := by
  unfold writeRingCtrl
  repeat' first
    | with_reducible assumption
    | with_reducible refine keep_storeReg hR ?_
    | with_reducible refine keep_ringEnable h_qe h_out hR ?_
    | (extract_lets -underBinder -merge -useContext +onlyGivenNames x; with_reducible refine keep_cut (s := x) ?_ ?_; (on_goal 1 => unfold x); (on_goal 2 => (clear_value x; intro _)))
    | (extract_lets -underBinder -merge -useContext +onlyGivenNames x; clear_value x)
    | split

theorem keep_writeRings {a2 : Nat} {a3 : Nat → Nat} {a4 : Nat → Nat} {a5 : Nat → Nat} {a6 : RegWrite} (h_qe : UpQe P) (h_out : UpOut P) (hR : UpR P) (h : Keep P s) : Keep P (writeRings s a2 a3 a4 a5 a6) := by
  unfold writeRings
  repeat' first
    | with_reducible assumption
    | with_reducible refine keep_writeRingCtrl h_qe h_out hR ?_
    | with_reducible refine keep_writeRingBase hR ?_
    | with_reducible refine keep_storeReg hR ?_
    | split

theorem keep_writeGs {a2 : RegWrite} (h_power : UpPower P) (h_qe : UpQe P) (h_cx : UpCx P) (h_pm : UpPm P) (h_ae : UpAe P) (h_bb : UpBb P) (h_ac : UpAc P) (h_tm : UpTm P) (h_pf : UpPf P) (h_fl : UpFl P) (h_es : UpEs P) (h_im : UpIm P) (h_ft : UpFt P) (h_cf : UpCf P) (h_tn : UpTn P) (h_lx : UpLx P) (h_out : UpOut P) (hR : UpR P) (hRF : UpRF P) (hC : UpC P) (h : Keep P s) : Keep P (writeGs s a2) := by
  unfold writeGs
  repeat' first
    | with_reducible assumption
    | with_reducible refine keep_writeIntEnable h_qe h_out hR ?_
    | with_reducible refine keep_writeGsControl h_power h_qe h_cx h_pm h_ae h_bb h_ac h_tm h_pf h_fl h_es h_im h_ft h_cf h_tn h_lx h_out hR hRF hC ?_
    | with_reducible refine keep_storeReg hR ?_
    | split

theorem keep_writeQe {a2 : RegWrite} (h_qe : UpQe P) (h_out : UpOut P) (hR : UpR P) (h : Keep P s) : Keep P (writeQe s a2) := by
  unfold writeQe
  repeat' first
    | with_reducible assumption
    | with_reducible refine keep_writeRings h_qe h_out hR ?_
    | split

theorem keep_storeWhenFree {a2 : RegWrite} (hR : UpR P) (h : Keep P s) : Keep P (storeWhenFree s a2) := by
  unfold storeWhenFree
  repeat' first
    | with_reducible assumption
    | with_reducible refine keep_storeReg hR ?_
    | split

theorem keep_writeTableBase {a2 : RegWrite} (h_cx : UpCx P) (hR : UpR P) (hZ : UpZ P) (h : Keep P s) : Keep P (writeTableBase s a2) := by
  unfold writeTableBase
  repeat' first
    | with_reducible assumption
    | with_reducible refine keep_storeReg hR ?_
    | with_reducible refine keep_zeroTable h_cx hZ ?_
    | fail_if_no_progress with_reducible refine keep_up_cx h_cx (keep_eta ?_)
    | (extract_lets -underBinder -merge -useContext +onlyGivenNames x; with_reducible refine keep_cut (s := x) ?_ ?_; (on_goal 1 => unfold x); (on_goal 2 => (clear_value x; intro _)))
    | (extract_lets -underBinder -merge -useContext +onlyGivenNames x; clear_value x)
    | split

theorem keep_writeCx {a2 : RegWrite} (h_cx : UpCx P) (hR : UpR P) (hZ : UpZ P) (h : Keep P s) : Keep P (writeCx s a2) := by
  unfold writeCx
  repeat' first
    | with_reducible assumption
    | with_reducible refine keep_writeTableBase h_cx hR hZ ?_
    | with_reducible refine keep_storeWhenFree hR ?_
    | with_reducible refine keep_storeReg hR ?_
    | split

theorem keep_writePm {a2 : RegWrite} (hR : UpR P) (h : Keep P s) : Keep P (writePm s a2) := by
  unfold writePm
  repeat' first
    | with_reducible assumption
    | with_reducible refine keep_storeWhenFree hR ?_
    | with_reducible refine keep_storeReg hR ?_
    | split

theorem keep_writeNarrowShare {a2 : RegWrite} (h_qe : UpQe P) (h_out : UpOut P) (hR : UpR P) (h : Keep P s) : Keep P (writeNarrowShare s a2) := by
  unfold writeNarrowShare
  repeat' first
    | with_reducible assumption
    | with_reducible refine keep_storeReg hR ?_
    | with_reducible refine keep_raise1 h_qe h_out hR ?_
    | (extract_lets -underBinder -merge -useContext +onlyGivenNames x; clear_value x)
    | split

theorem keep_writePermitLimit {a2 : Nat} {a3 : RegWrite} (hR : UpR P) (h : Keep P s) : Keep P (writePermitLimit s a2 a3) := by
  unfold writePermitLimit
  repeat' first
    | with_reducible assumption
    | with_reducible refine keep_storeReg hR ?_
    | with_reducible refine keep_setF hR ?_
    | (extract_lets -underBinder -merge -useContext +onlyGivenNames x; clear_value x)
    | split

theorem keep_writeBb {a2 : RegWrite} (h_qe : UpQe P) (h_out : UpOut P) (hR : UpR P) (h : Keep P s) : Keep P (writeBb s a2) := by
  unfold writeBb
  repeat' first
    | with_reducible assumption
    | with_reducible refine keep_writePermitLimit hR ?_
    | with_reducible refine keep_writeNarrowShare h_qe h_out hR ?_
    | with_reducible refine keep_storeReg hR ?_
    | split

theorem keep_writeAcControl {a2 : RegWrite} (hR : UpR P) (h : Keep P s) : Keep P (writeAcControl s a2) := by
  unfold writeAcControl
  repeat' first
    | with_reducible assumption
    | with_reducible refine keep_storeReg hR ?_
    | with_reducible refine keep_setF hR ?_
    | (extract_lets -underBinder -merge -useContext +onlyGivenNames x; with_reducible refine keep_cut (s := x) ?_ ?_; (on_goal 1 => unfold x); (on_goal 2 => (clear_value x; intro _)))
    | split

theorem keep_writeAc {a2 : RegWrite} (hR : UpR P) (h : Keep P s) : Keep P (writeAc s a2) := by
  unfold writeAc
  repeat' first
    | with_reducible assumption
    | with_reducible refine keep_writeAcControl hR ?_
    | with_reducible refine keep_storeReg hR ?_
    | split

theorem keep_writePlan {a2 : Nat} {a3 : RegWrite} (h_qe : UpQe P) (h_out : UpOut P) (hR : UpR P) (h : Keep P s) : Keep P (writePlan s a2 a3) := by
  unfold writePlan
  repeat' first
    | with_reducible assumption
    | with_reducible refine keep_storeReg hR ?_
    | with_reducible refine keep_raise1 h_qe h_out hR ?_
    | with_reducible refine keep_setB hR ?_
    | (extract_lets -underBinder -merge -useContext +onlyGivenNames x; with_reducible refine keep_cut (s := x) ?_ ?_; (on_goal 1 => unfold x); (on_goal 2 => (clear_value x; intro _)))
    | (extract_lets -underBinder -merge -useContext +onlyGivenNames x; clear_value x)
    | split

theorem keep_writeTm {a2 : RegWrite} (h_qe : UpQe P) (h_out : UpOut P) (hR : UpR P) (h : Keep P s) : Keep P (writeTm s a2) := by
  unfold writeTm
  repeat' first
    | with_reducible assumption
    | with_reducible refine keep_writePlan h_qe h_out hR ?_
    | with_reducible refine keep_storeWhenFree hR ?_
    | with_reducible refine keep_storeReg hR ?_
    | split

theorem keep_writeLogHead {a2 : RegWrite} (hR : UpR P) (h : Keep P s) : Keep P (writeLogHead s a2) := by
  unfold writeLogHead
  repeat' first
    | with_reducible assumption
    | with_reducible refine keep_storeReg hR ?_
    | split

theorem keep_writePass {a2 : RegWrite} (h_qe : UpQe P) (h_pm : UpPm P) (h_tm : UpTm P) (h_pf : UpPf P) (h_out : UpOut P) (hR : UpR P) (h : Keep P s) : Keep P (writePass s a2) := by
  unfold writePass
  repeat' first
    | with_reducible assumption
    | with_reducible refine keep_storeReg hR ?_
    | with_reducible refine keep_abortPass h_qe h_pm h_tm h_pf h_out hR ?_
    | with_reducible refine keep_startPass h_qe h_pm h_tm h_pf h_out hR ?_
    | (extract_lets -underBinder -merge -useContext +onlyGivenNames x; with_reducible refine keep_cut (s := x) ?_ ?_; (on_goal 1 => unfold x); (on_goal 2 => (clear_value x; intro _)))
    | (extract_lets -underBinder -merge -useContext +onlyGivenNames x; clear_value x)
    | split

theorem keep_writeTestTarget {a2 : RegWrite} (h_qe : UpQe P) (h_bb : UpBb P) (h_tm : UpTm P) (h_pf : UpPf P) (h_cf : UpCf P) (h_out : UpOut P) (hR : UpR P) (hW : UpW P) (h : Keep P s) : Keep P (writeTestTarget s a2) := by
  unfold writeTestTarget
  repeat' first
    | with_reducible assumption
    | with_reducible refine keep_storeReg hR ?_
    | with_reducible refine keep_startTest h_qe h_bb h_tm h_pf h_cf h_out hR hW ?_
    | (extract_lets -underBinder -merge -useContext +onlyGivenNames x; with_reducible refine keep_cut (s := x) ?_ ?_; (on_goal 1 => unfold x); (on_goal 2 => (clear_value x; intro _)))
    | (extract_lets -underBinder -merge -useContext +onlyGivenNames x; clear_value x)
    | split

theorem keep_writePf {a2 : RegWrite} (h_qe : UpQe P) (h_pm : UpPm P) (h_bb : UpBb P) (h_tm : UpTm P) (h_pf : UpPf P) (h_cf : UpCf P) (h_out : UpOut P) (hR : UpR P) (hW : UpW P) (h : Keep P s) : Keep P (writePf s a2) := by
  unfold writePf
  repeat' first
    | with_reducible assumption
    | with_reducible refine keep_writeTestTarget h_qe h_bb h_tm h_pf h_cf h_out hR hW ?_
    | with_reducible refine keep_writePass h_qe h_pm h_tm h_pf h_out hR ?_
    | with_reducible refine keep_writeLogHead hR ?_
    | with_reducible refine keep_storeReg hR ?_
    | split

theorem keep_requestSwap {a2 : Nat} {a3 : Nat} {a4 : Nat} (h_fl : UpFl P) (hR : UpR P) (h : Keep P s) : Keep P (requestSwap s a2 a3 a4) := by
  unfold requestSwap
  repeat' first
    | with_reducible assumption
    | with_reducible refine keep_sendLcf h_fl ?_
    | with_reducible refine keep_updPort h_fl ?_
    | with_reducible refine keep_setB hR ?_

theorem keep_startSwap {a2 : Nat} (h_qe : UpQe P) (h_fl : UpFl P) (h_cf : UpCf P) (h_tn : UpTn P) (h_out : UpOut P) (hR : UpR P) (h : Keep P s) : Keep P (startSwap s a2) := by
  unfold startSwap
  repeat' first
    | with_reducible assumption
    | with_reducible refine keep_requestSwap h_fl hR ?_
    | with_reducible refine keep_endSwap hR ?_
    | with_reducible refine keep_retireLane h_qe h_tn h_out hR ?_
    | with_reducible refine keep_retrainPort h_qe h_fl h_cf h_out hR ?_
    | with_reducible refine keep_updPort h_fl ?_
    | with_reducible refine keep_setB hR ?_
    | with_reducible refine keep_setF hR ?_
    | (extract_lets -underBinder -merge -useContext +onlyGivenNames x; with_reducible refine keep_cut (s := x) ?_ ?_; (on_goal 1 => unfold x); (on_goal 2 => (clear_value x; intro _)))
    | (extract_lets -underBinder -merge -useContext +onlyGivenNames x; clear_value x)
    | split

theorem keep_writeSwap {a2 : Option Nat} {a3 : RegWrite} (h_qe : UpQe P) (h_fl : UpFl P) (h_cf : UpCf P) (h_tn : UpTn P) (h_out : UpOut P) (h_draws : UpDraws P) (hR : UpR P) (h : Keep P s) : Keep P (writeSwap s a2 a3) := by
  unfold writeSwap
  repeat' first
    | with_reducible assumption
    | with_reducible refine keep_startSwap h_qe h_fl h_cf h_tn h_out hR ?_
    | with_reducible refine keep_storeReg hR ?_
    | with_reducible refine keepP_snd (keep_drawFree h_draws ?_)
    | (extract_lets -underBinder -merge -useContext +onlyGivenNames x; with_reducible refine keep_cut (s := x) ?_ ?_; (on_goal 1 => unfold x); (on_goal 2 => (clear_value x; intro _)))
    | split

theorem keep_writePort {a2 : Nat} {a3 : RegWrite} (h_qe : UpQe P) (h_fl : UpFl P) (h_out : UpOut P) (hR : UpR P) (h : Keep P s) : Keep P (writePort s a2 a3) := by
  unfold writePort
  repeat' first
    | with_reducible assumption
    | with_reducible refine keep_storeReg hR ?_
    | with_reducible refine keep_wakePort h_fl hR ?_
    | with_reducible refine keep_portDown h_qe h_fl h_out hR ?_
    | (extract_lets -underBinder -merge -useContext +onlyGivenNames x; with_reducible refine keep_cut (s := x) ?_ ?_; (on_goal 1 => unfold x); (on_goal 2 => (clear_value x; intro _)))
    | (extract_lets -underBinder -merge -useContext +onlyGivenNames x; clear_value x)
    | split

theorem keep_marksChanged {a2 : Nat} {a3 : Nat} (h_fl : UpFl P) (h : Keep P s) : Keep P (marksChanged s a2 a3) := by
  unfold marksChanged
  repeat' first
    | with_reducible assumption
    | with_reducible refine keep_releaseIfLow h_fl ?_
    | with_reducible refine keep_pauseIfHigh h_fl ?_
    | (extract_lets -underBinder -merge -useContext +onlyGivenNames x; with_reducible refine keep_cut (s := x) ?_ ?_; (on_goal 1 => unfold x); (on_goal 2 => (clear_value x; intro _)))
    | split

theorem keep_writePortClass {a2 : Nat} {a3 : Nat} {a4 : RegWrite} (h_fl : UpFl P) (hR : UpR P) (h : Keep P s) : Keep P (writePortClass s a2 a3 a4) := by
  unfold writePortClass
  repeat' first
    | with_reducible assumption
    | with_reducible refine keep_marksChanged h_fl ?_
    | with_reducible refine keep_storeReg hR ?_
    | (extract_lets -underBinder -merge -useContext +onlyGivenNames x; clear_value x)
    | split

theorem keep_writeFl {a2 : Option Nat} {a3 : RegWrite} (h_qe : UpQe P) (h_fl : UpFl P) (h_cf : UpCf P) (h_tn : UpTn P) (h_out : UpOut P) (h_draws : UpDraws P) (hR : UpR P) (h : Keep P s) : Keep P (writeFl s a2 a3) := by
  unfold writeFl
  repeat' first
    | with_reducible assumption
    | with_reducible refine keep_writePortClass h_fl hR ?_
    | with_reducible refine keep_writePort h_qe h_fl h_out hR ?_
    | with_reducible refine keep_writeSwap h_qe h_fl h_cf h_tn h_out h_draws hR ?_
    | with_reducible refine keep_storeReg hR ?_
    | with_reducible refine keep_joinChanged h_qe h_fl h_out hR ?_
    | (extract_lets -underBinder -merge -useContext +onlyGivenNames x; with_reducible refine keep_cut (s := x) ?_ ?_; (on_goal 1 => unfold x); (on_goal 2 => (clear_value x; intro _)))
    | split

theorem keep_installGates {a2 : Nat} (h_qe : UpQe P) (h_es : UpEs P) (h_out : UpOut P) (hR : UpR P) (h : Keep P s) : Keep P (installGates s a2) := by
  unfold installGates
  repeat' first
    | with_reducible assumption
    | with_reducible refine keep_raise1 h_qe h_out hR ?_
    | with_reducible refine keep_setB hR ?_
    | fail_if_no_progress with_reducible refine keep_up_es h_es (keep_eta ?_)
    | (extract_lets -underBinder -merge -useContext +onlyGivenNames x; with_reducible refine keep_cut (s := x) ?_ ?_; (on_goal 1 => unfold x); (on_goal 2 => (clear_value x; intro _)))
    | (extract_lets -underBinder -merge -useContext +onlyGivenNames x; clear_value x)
    | split

theorem keep_writeEsPort {a2 : Nat} {a3 : RegWrite} (h_qe : UpQe P) (h_es : UpEs P) (h_out : UpOut P) (hR : UpR P) (h : Keep P s) : Keep P (writeEsPort s a2 a3) := by
  unfold writeEsPort
  repeat' first
    | with_reducible assumption
    | with_reducible refine keep_installGates h_qe h_es h_out hR ?_
    | with_reducible refine keep_storeReg hR ?_
    | (extract_lets -underBinder -merge -useContext +onlyGivenNames x; with_reducible refine keep_cut (s := x) ?_ ?_; (on_goal 1 => unfold x); (on_goal 2 => (clear_value x; intro _)))
    | split

theorem keep_writeShaper {a2 : Nat} {a3 : Nat} {a4 : RegWrite} (h_es : UpEs P) (hR : UpR P) (h : Keep P s) : Keep P (writeShaper s a2 a3 a4) := by
  unfold writeShaper
  repeat' first
    | with_reducible assumption
    | with_reducible refine keep_storeReg hR ?_
    | with_reducible refine keep_setShaperCredit h_es ?_
    | fail_if_no_progress with_reducible refine keep_up_es h_es (keep_eta ?_)
    | (extract_lets -underBinder -merge -useContext +onlyGivenNames x; with_reducible refine keep_cut (s := x) ?_ ?_; (on_goal 1 => unfold x); (on_goal 2 => (clear_value x; intro _)))
    | (extract_lets -underBinder -merge -useContext +onlyGivenNames x; clear_value x)
    | split

theorem keep_writeGateEntry {a2 : RegWrite} (hR : UpR P) (h : Keep P s) : Keep P (writeGateEntry s a2) := by
  unfold writeGateEntry
  repeat' first
    | with_reducible assumption
    | with_reducible refine keep_storeReg hR ?_

theorem keep_writeEs {a2 : RegWrite} (h_qe : UpQe P) (h_es : UpEs P) (h_out : UpOut P) (hR : UpR P) (h : Keep P s) : Keep P (writeEs s a2) := by
  unfold writeEs
  repeat' first
    | with_reducible assumption
    | with_reducible refine keep_writeGateEntry hR ?_
    | with_reducible refine keep_writeShaper h_es hR ?_
    | with_reducible refine keep_writeEsPort h_qe h_es h_out hR ?_
    | with_reducible refine keep_storeReg hR ?_
    | (extract_lets -underBinder -merge -useContext +onlyGivenNames x; clear_value x)
    | split

theorem keep_settleProfile {a2 : Nat} {a3 : Nat} {a4 : State → State} (h_im : UpIm P) (h : Keep P s) (ha4 : ∀ x0, Keep P x0 → Keep P (a4 x0)) : Keep P (settleProfile s a2 a3 a4) := by
  unfold settleProfile
  repeat' first
    | with_reducible assumption
    | with_reducible apply ha4
    | fail_if_no_progress with_reducible refine keep_up_im h_im (keep_eta ?_)

theorem keep_writeProfile {a2 : RegWrite} (h_im : UpIm P) (hR : UpR P) (h : Keep P s) : Keep P (writeProfile s a2) := by
  unfold writeProfile
  repeat' first
    | with_reducible assumption
    | with_reducible refine keep_settleProfile h_im ?_ ?_
    | with_reducible refine keep_storeReg hR ?_
    | (extract_lets -underBinder -merge -useContext +onlyGivenNames x; clear_value x)
    | split
    | with_reducible intro _

theorem keep_writeSource {a2 : RegWrite} (h_im : UpIm P) (hR : UpR P) (h : Keep P s) : Keep P (writeSource s a2) := by
  unfold writeSource
  repeat' first
    | with_reducible assumption
    | with_reducible refine keep_storeReg hR ?_
    | with_reducible refine keep_setBucket h_im ?_
    | with_reducible refine keep_foldl (fun _ _ _ => ?_) ?_
    | (extract_lets -underBinder -merge -useContext +onlyGivenNames x; with_reducible refine keep_cut (s := x) ?_ ?_; (on_goal 1 => unfold x); (on_goal 2 => (clear_value x; intro _)))
    | (extract_lets -underBinder -merge -useContext +onlyGivenNames x; clear_value x)
    | split

theorem keep_writeMgmt {a2 : RegWrite} (h_im : UpIm P) (hR : UpR P) (h : Keep P s) : Keep P (writeMgmt s a2) := by
  unfold writeMgmt
  repeat' first
    | with_reducible assumption
    | with_reducible refine keep_storeReg hR ?_
    | with_reducible refine keep_setBucket h_im ?_

theorem keep_writeIm {a2 : RegWrite} (h_qe : UpQe P) (h_im : UpIm P) (h_ft : UpFt P) (h_cf : UpCf P) (h_out : UpOut P) (hR : UpR P) (h : Keep P s) : Keep P (writeIm s a2) := by
  unfold writeIm
  repeat' first
    | with_reducible assumption
    | with_reducible refine keep_writeMgmt h_im hR ?_
    | with_reducible refine keep_writeSource h_im hR ?_
    | with_reducible refine keep_writeProfile h_im hR ?_
    | with_reducible refine keep_storeReg hR ?_
    | with_reducible refine keep_checkDrops h_qe h_ft h_cf h_out hR ?_
    | split

theorem keep_writeCfControl {a2 : RegWrite} (hR : UpR P) (h : Keep P s) : Keep P (writeCfControl s a2) := by
  unfold writeCfControl
  repeat' first
    | with_reducible assumption
    | with_reducible refine keep_storeReg hR ?_

theorem keep_writeCf {a2 : RegWrite} (hR : UpR P) (h : Keep P s) : Keep P (writeCf s a2) := by
  unfold writeCf
  repeat' first
    | with_reducible assumption
    | with_reducible refine keep_writeCfControl hR ?_
    | with_reducible refine keep_storeReg hR ?_
    | split

theorem keep_writeCap {a2 : RegWrite} (hR : UpR P) (h : Keep P s) : Keep P (writeCap s a2) := by
  unfold writeCap
  repeat' first
    | with_reducible assumption
    | with_reducible refine keep_storeReg hR ?_

theorem keep_writeState {a2 : RegWrite} (h_power : UpPower P) (h_ft : UpFt P) (h_cf : UpCf P) (hR : UpR P) (h : Keep P s) : Keep P (writeState s a2) := by
  unfold writeState
  repeat' first
    | with_reducible assumption
    | with_reducible refine keep_requestState h_power h_ft h_cf hR ?_
    | split

theorem keep_writePw {a2 : RegWrite} (h_power : UpPower P) (h_ft : UpFt P) (h_cf : UpCf P) (hR : UpR P) (h : Keep P s) : Keep P (writePw s a2) := by
  unfold writePw
  repeat' first
    | with_reducible assumption
    | with_reducible refine keep_writeState h_power h_ft h_cf hR ?_
    | with_reducible refine keep_writeCap hR ?_
    | with_reducible refine keep_storeReg hR ?_
    | split

theorem keep_applyWrite {a1 : Option Nat} {a3 : RegWrite} (h_power : UpPower P) (h_qe : UpQe P) (h_cx : UpCx P) (h_pm : UpPm P) (h_ae : UpAe P) (h_bb : UpBb P) (h_ac : UpAc P) (h_tm : UpTm P) (h_pf : UpPf P) (h_fl : UpFl P) (h_es : UpEs P) (h_im : UpIm P) (h_ft : UpFt P) (h_cf : UpCf P) (h_tn : UpTn P) (h_lx : UpLx P) (h_out : UpOut P) (h_draws : UpDraws P) (hR : UpR P) (hRF : UpRF P) (hW : UpW P) (hZ : UpZ P) (hC : UpC P) (h : Keep P s) : Keep P (applyWrite a1 s a3) := by
  unfold applyWrite
  repeat' first
    | with_reducible assumption
    | with_reducible refine keep_writePw h_power h_ft h_cf hR ?_
    | with_reducible refine keep_writeCf hR ?_
    | with_reducible refine keep_writeIm h_qe h_im h_ft h_cf h_out hR ?_
    | with_reducible refine keep_writeEs h_qe h_es h_out hR ?_
    | with_reducible refine keep_writeFl h_qe h_fl h_cf h_tn h_out h_draws hR ?_
    | with_reducible refine keep_writePf h_qe h_pm h_bb h_tm h_pf h_cf h_out hR hW ?_
    | with_reducible refine keep_writeTm h_qe h_out hR ?_
    | with_reducible refine keep_writeAc hR ?_
    | with_reducible refine keep_writeBb h_qe h_out hR ?_
    | with_reducible refine keep_writePm hR ?_
    | with_reducible refine keep_writeCx h_cx hR hZ ?_
    | with_reducible refine keep_writeQe h_qe h_out hR ?_
    | with_reducible refine keep_writeGs h_power h_qe h_cx h_pm h_ae h_bb h_ac h_tm h_pf h_fl h_es h_im h_ft h_cf h_tn h_lx h_out hR hRF hC ?_
    | with_reducible refine keep_storeReg hR ?_
    | split

theorem keep_writeReached {a1 : Option Nat} {a2 : Access} {a4 : Reached} (h_power : UpPower P) (h_qe : UpQe P) (h_cx : UpCx P) (h_pm : UpPm P) (h_ae : UpAe P) (h_bb : UpBb P) (h_ac : UpAc P) (h_tm : UpTm P) (h_pf : UpPf P) (h_fl : UpFl P) (h_es : UpEs P) (h_im : UpIm P) (h_ft : UpFt P) (h_cf : UpCf P) (h_tn : UpTn P) (h_lx : UpLx P) (h_out : UpOut P) (h_draws : UpDraws P) (hR : UpR P) (hRF : UpRF P) (hW : UpW P) (hZ : UpZ P) (hC : UpC P) (h : Keep P s) : Keep P (writeReached a1 a2 s a4) := by
  unfold writeReached
  repeat' first
    | with_reducible assumption
    | with_reducible refine keep_applyWrite h_power h_qe h_cx h_pm h_ae h_bb h_ac h_tm h_pf h_fl h_es h_im h_ft h_cf h_tn h_lx h_out h_draws hR hRF hW hZ hC ?_
    | (extract_lets -underBinder -merge -useContext +onlyGivenNames x; clear_value x)
    | split

theorem keep_wakeWrite {a2 : Access} (h_power : UpPower P) (hR : UpR P) (h : Keep P s) : Keep P (wakeWrite s a2) := by
  unfold wakeWrite
  repeat' first
    | with_reducible assumption
    | with_reducible refine keep_requestRun h_power hR ?_
    | split

theorem keep_takeWrite {a1 : Option Nat} {a3 : Access} (h_power : UpPower P) (h_qe : UpQe P) (h_cx : UpCx P) (h_pm : UpPm P) (h_ae : UpAe P) (h_bb : UpBb P) (h_ac : UpAc P) (h_tm : UpTm P) (h_pf : UpPf P) (h_fl : UpFl P) (h_es : UpEs P) (h_im : UpIm P) (h_ft : UpFt P) (h_cf : UpCf P) (h_tn : UpTn P) (h_lx : UpLx P) (h_out : UpOut P) (h_draws : UpDraws P) (hR : UpR P) (hRF : UpRF P) (hW : UpW P) (hZ : UpZ P) (hC : UpC P) (h : Keep P s) : Keep P (takeWrite a1 s a3) := by
  unfold takeWrite
  repeat' first
    | with_reducible assumption
    | with_reducible refine keep_writeReached h_power h_qe h_cx h_pm h_ae h_bb h_ac h_tm h_pf h_fl h_es h_im h_ft h_cf h_tn h_lx h_out h_draws hR hRF hW hZ hC ?_
    | with_reducible refine keep_raise h_qe h_out hR ?_
    | with_reducible refine keep_foldl (fun _ _ _ => ?_) ?_
    | split

theorem keep_hostWrite {a1 : Option Nat} {a3 : Access} (h_power : UpPower P) (h_qe : UpQe P) (h_cx : UpCx P) (h_pm : UpPm P) (h_ae : UpAe P) (h_bb : UpBb P) (h_ac : UpAc P) (h_tm : UpTm P) (h_pf : UpPf P) (h_fl : UpFl P) (h_es : UpEs P) (h_im : UpIm P) (h_ft : UpFt P) (h_cf : UpCf P) (h_tn : UpTn P) (h_lx : UpLx P) (h_out : UpOut P) (h_draws : UpDraws P) (hR : UpR P) (hRF : UpRF P) (hW : UpW P) (hZ : UpZ P) (hC : UpC P) (h : Keep P s) : Keep P (hostWrite a1 s a3) := by
  unfold hostWrite
  repeat' first
    | with_reducible assumption
    | with_reducible refine keep_takeWrite h_power h_qe h_cx h_pm h_ae h_bb h_ac h_tm h_pf h_fl h_es h_im h_ft h_cf h_tn h_lx h_out h_draws hR hRF hW hZ hC ?_
    | with_reducible refine keep_wakeWrite h_power hR ?_
    | with_reducible refine keep_holdAccess h_lx ?_
    | with_reducible refine keep_badAccess h_qe h_out hR ?_
    | split

theorem keep_takeHeld  (h_power : UpPower P) (h_qe : UpQe P) (h_cx : UpCx P) (h_pm : UpPm P) (h_ae : UpAe P) (h_bb : UpBb P) (h_ac : UpAc P) (h_tm : UpTm P) (h_pf : UpPf P) (h_fl : UpFl P) (h_es : UpEs P) (h_im : UpIm P) (h_ft : UpFt P) (h_cf : UpCf P) (h_tn : UpTn P) (h_lx : UpLx P) (h_out : UpOut P) (h_draws : UpDraws P) (hR : UpR P) (hRF : UpRF P) (hW : UpW P) (hZ : UpZ P) (hC : UpC P) (h : Keep P s) : Keep P (takeHeld s) := by
  unfold takeHeld
  repeat' first
    | with_reducible assumption
    | with_reducible refine keep_takeWrite h_power h_qe h_cx h_pm h_ae h_bb h_ac h_tm h_pf h_fl h_es h_im h_ft h_cf h_tn h_lx h_out h_draws hR hRF hW hZ hC ?_
    | with_reducible refine keep_takeRead h_out hR ?_
    | fail_if_no_progress with_reducible refine keep_up_lx h_lx (keep_eta ?_)
    | with_reducible refine keep_foldl (fun _ _ _ => ?_) ?_
    | split

theorem keep_writeRow {a1 : Nat → Bool} {a2 : Access} (h_power : UpPower P) (h_qe : UpQe P) (h_cx : UpCx P) (h_pm : UpPm P) (h_ae : UpAe P) (h_bb : UpBb P) (h_ac : UpAc P) (h_tm : UpTm P) (h_pf : UpPf P) (h_fl : UpFl P) (h_es : UpEs P) (h_im : UpIm P) (h_ft : UpFt P) (h_cf : UpCf P) (h_tn : UpTn P) (h_lx : UpLx P) (h_out : UpOut P) (h_draws : UpDraws P) (hR : UpR P) (hRF : UpRF P) (hW : UpW P) (hZ : UpZ P) (hC : UpC P) (h : Keep P s) : Keep P (writeRow a1 a2 s) := by
  unfold writeRow
  repeat' first
    | with_reducible assumption
    | with_reducible refine keep_hostWrite h_power h_qe h_cx h_pm h_ae h_bb h_ac h_tm h_pf h_fl h_es h_im h_ft h_cf h_tn h_lx h_out h_draws hR hRF hW hZ hC ?_
    | split

theorem keep_execRegisterWrite {a1 : Access} (h_power : UpPower P) (h_qe : UpQe P) (h_cx : UpCx P) (h_pm : UpPm P) (h_ae : UpAe P) (h_bb : UpBb P) (h_ac : UpAc P) (h_tm : UpTm P) (h_pf : UpPf P) (h_fl : UpFl P) (h_es : UpEs P) (h_im : UpIm P) (h_ft : UpFt P) (h_cf : UpCf P) (h_tn : UpTn P) (h_lx : UpLx P) (h_out : UpOut P) (h_draws : UpDraws P) (hR : UpR P) (hRF : UpRF P) (hW : UpW P) (hZ : UpZ P) (hC : UpC P) (h : Keep P s) : KeepOut P (execRegisterWrite a1 s) := by
  unfold execRegisterWrite
  repeat' first
    | with_reducible assumption
    | with_reducible refine keepOut_next ?_
    | with_reducible refine keep_hostWrite h_power h_qe h_cx h_pm h_ae h_bb h_ac h_tm h_pf h_fl h_es h_im h_ft h_cf h_tn h_lx h_out h_draws hR hRF hW hZ hC ?_

theorem keep_execBadSizeAccess {a1 : Access} {a2 : Bool} (h_power : UpPower P) (h_qe : UpQe P) (h_cx : UpCx P) (h_pm : UpPm P) (h_ae : UpAe P) (h_bb : UpBb P) (h_ac : UpAc P) (h_tm : UpTm P) (h_pf : UpPf P) (h_fl : UpFl P) (h_es : UpEs P) (h_im : UpIm P) (h_ft : UpFt P) (h_cf : UpCf P) (h_tn : UpTn P) (h_lx : UpLx P) (h_out : UpOut P) (h_draws : UpDraws P) (hR : UpR P) (hRF : UpRF P) (hW : UpW P) (hZ : UpZ P) (hC : UpC P) (h : Keep P s) : KeepOut P (execBadSizeAccess a1 a2 s) := by
  unfold execBadSizeAccess
  repeat' first
    | with_reducible assumption
    | with_reducible refine keepOut_next ?_
    | with_reducible refine keep_hostWrite h_power h_qe h_cx h_pm h_ae h_bb h_ac h_tm h_pf h_fl h_es h_im h_ft h_cf h_tn h_lx h_out h_draws hR hRF hW hZ hC ?_
    | with_reducible refine keep_hostRead h_qe h_lx h_out hR ?_
    | split

theorem keep_execTmStatusRead {a1 : Access} (h_qe : UpQe P) (h_lx : UpLx P) (h_out : UpOut P) (hR : UpR P) (h : Keep P s) : KeepOut P (execTmStatusRead a1 s) := by
  unfold execTmStatusRead
  repeat' first
    | with_reducible assumption
    | with_reducible refine keepOut_next ?_
    | with_reducible refine keep_hostRead h_qe h_lx h_out hR ?_
    | split

theorem keep_execCxTableBaseWrite {a1 : Access} (h_power : UpPower P) (h_qe : UpQe P) (h_cx : UpCx P) (h_pm : UpPm P) (h_ae : UpAe P) (h_bb : UpBb P) (h_ac : UpAc P) (h_tm : UpTm P) (h_pf : UpPf P) (h_fl : UpFl P) (h_es : UpEs P) (h_im : UpIm P) (h_ft : UpFt P) (h_cf : UpCf P) (h_tn : UpTn P) (h_lx : UpLx P) (h_out : UpOut P) (h_draws : UpDraws P) (hR : UpR P) (hRF : UpRF P) (hW : UpW P) (hZ : UpZ P) (hC : UpC P) (h : Keep P s) : KeepOut P (execCxTableBaseWrite a1 s) := by
  unfold execCxTableBaseWrite
  repeat' first
    | with_reducible assumption
    | with_reducible refine keepOut_next ?_
    | with_reducible refine keep_writeRow h_power h_qe h_cx h_pm h_ae h_bb h_ac h_tm h_pf h_fl h_es h_im h_ft h_cf h_tn h_lx h_out h_draws hR hRF hW hZ hC ?_

theorem keep_execBbNarrowShareWrite {a1 : Access} (h_power : UpPower P) (h_qe : UpQe P) (h_cx : UpCx P) (h_pm : UpPm P) (h_ae : UpAe P) (h_bb : UpBb P) (h_ac : UpAc P) (h_tm : UpTm P) (h_pf : UpPf P) (h_fl : UpFl P) (h_es : UpEs P) (h_im : UpIm P) (h_ft : UpFt P) (h_cf : UpCf P) (h_tn : UpTn P) (h_lx : UpLx P) (h_out : UpOut P) (h_draws : UpDraws P) (hR : UpR P) (hRF : UpRF P) (hW : UpW P) (hZ : UpZ P) (hC : UpC P) (h : Keep P s) : KeepOut P (execBbNarrowShareWrite a1 s) := by
  unfold execBbNarrowShareWrite
  repeat' first
    | with_reducible assumption
    | with_reducible refine keepOut_next ?_
    | with_reducible refine keep_writeRow h_power h_qe h_cx h_pm h_ae h_bb h_ac h_tm h_pf h_fl h_es h_im h_ft h_cf h_tn h_lx h_out h_draws hR hRF hW hZ hC ?_

theorem keep_execBbPermitLimitWrite {a1 : Access} (h_power : UpPower P) (h_qe : UpQe P) (h_cx : UpCx P) (h_pm : UpPm P) (h_ae : UpAe P) (h_bb : UpBb P) (h_ac : UpAc P) (h_tm : UpTm P) (h_pf : UpPf P) (h_fl : UpFl P) (h_es : UpEs P) (h_im : UpIm P) (h_ft : UpFt P) (h_cf : UpCf P) (h_tn : UpTn P) (h_lx : UpLx P) (h_out : UpOut P) (h_draws : UpDraws P) (hR : UpR P) (hRF : UpRF P) (hW : UpW P) (hZ : UpZ P) (hC : UpC P) (h : Keep P s) : KeepOut P (execBbPermitLimitWrite a1 s) := by
  unfold execBbPermitLimitWrite
  repeat' first
    | with_reducible assumption
    | with_reducible refine keepOut_next ?_
    | with_reducible refine keep_writeRow h_power h_qe h_cx h_pm h_ae h_bb h_ac h_tm h_pf h_fl h_es h_im h_ft h_cf h_tn h_lx h_out h_draws hR hRF hW hZ hC ?_

theorem keep_execTmPlanWrite {a1 : Access} (h_power : UpPower P) (h_qe : UpQe P) (h_cx : UpCx P) (h_pm : UpPm P) (h_ae : UpAe P) (h_bb : UpBb P) (h_ac : UpAc P) (h_tm : UpTm P) (h_pf : UpPf P) (h_fl : UpFl P) (h_es : UpEs P) (h_im : UpIm P) (h_ft : UpFt P) (h_cf : UpCf P) (h_tn : UpTn P) (h_lx : UpLx P) (h_out : UpOut P) (h_draws : UpDraws P) (hR : UpR P) (hRF : UpRF P) (hW : UpW P) (hZ : UpZ P) (hC : UpC P) (h : Keep P s) : KeepOut P (execTmPlanWrite a1 s) := by
  unfold execTmPlanWrite
  repeat' first
    | with_reducible assumption
    | with_reducible refine keepOut_next ?_
    | with_reducible refine keep_writeRow h_power h_qe h_cx h_pm h_ae h_bb h_ac h_tm h_pf h_fl h_es h_im h_ft h_cf h_tn h_lx h_out h_draws hR hRF hW hZ hC ?_

theorem keep_execFlPortEnableWrite {a1 : Access} (h_power : UpPower P) (h_qe : UpQe P) (h_cx : UpCx P) (h_pm : UpPm P) (h_ae : UpAe P) (h_bb : UpBb P) (h_ac : UpAc P) (h_tm : UpTm P) (h_pf : UpPf P) (h_fl : UpFl P) (h_es : UpEs P) (h_im : UpIm P) (h_ft : UpFt P) (h_cf : UpCf P) (h_tn : UpTn P) (h_lx : UpLx P) (h_out : UpOut P) (h_draws : UpDraws P) (hR : UpR P) (hRF : UpRF P) (hW : UpW P) (hZ : UpZ P) (hC : UpC P) (h : Keep P s) : KeepOut P (execFlPortEnableWrite a1 s) := by
  unfold execFlPortEnableWrite
  repeat' first
    | with_reducible assumption
    | with_reducible refine keepOut_next ?_
    | with_reducible refine keep_writeRow h_power h_qe h_cx h_pm h_ae h_bb h_ac h_tm h_pf h_fl h_es h_im h_ft h_cf h_tn h_lx h_out h_draws hR hRF hW hZ hC ?_

theorem keep_execFlPortClassWrite {a1 : Access} (h_power : UpPower P) (h_qe : UpQe P) (h_cx : UpCx P) (h_pm : UpPm P) (h_ae : UpAe P) (h_bb : UpBb P) (h_ac : UpAc P) (h_tm : UpTm P) (h_pf : UpPf P) (h_fl : UpFl P) (h_es : UpEs P) (h_im : UpIm P) (h_ft : UpFt P) (h_cf : UpCf P) (h_tn : UpTn P) (h_lx : UpLx P) (h_out : UpOut P) (h_draws : UpDraws P) (hR : UpR P) (hRF : UpRF P) (hW : UpW P) (hZ : UpZ P) (hC : UpC P) (h : Keep P s) : KeepOut P (execFlPortClassWrite a1 s) := by
  unfold execFlPortClassWrite
  repeat' first
    | with_reducible assumption
    | with_reducible refine keepOut_next ?_
    | with_reducible refine keep_writeRow h_power h_qe h_cx h_pm h_ae h_bb h_ac h_tm h_pf h_fl h_es h_im h_ft h_cf h_tn h_lx h_out h_draws hR hRF hW hZ hC ?_

theorem keep_execEsShaperWrite {a1 : Access} (h_power : UpPower P) (h_qe : UpQe P) (h_cx : UpCx P) (h_pm : UpPm P) (h_ae : UpAe P) (h_bb : UpBb P) (h_ac : UpAc P) (h_tm : UpTm P) (h_pf : UpPf P) (h_fl : UpFl P) (h_es : UpEs P) (h_im : UpIm P) (h_ft : UpFt P) (h_cf : UpCf P) (h_tn : UpTn P) (h_lx : UpLx P) (h_out : UpOut P) (h_draws : UpDraws P) (hR : UpR P) (hRF : UpRF P) (hW : UpW P) (hZ : UpZ P) (hC : UpC P) (h : Keep P s) : KeepOut P (execEsShaperWrite a1 s) := by
  unfold execEsShaperWrite
  repeat' first
    | with_reducible assumption
    | with_reducible refine keepOut_next ?_
    | with_reducible refine keep_writeRow h_power h_qe h_cx h_pm h_ae h_bb h_ac h_tm h_pf h_fl h_es h_im h_ft h_cf h_tn h_lx h_out h_draws hR hRF hW hZ hC ?_

theorem keep_execImProfileWrite {a1 : Access} (h_power : UpPower P) (h_qe : UpQe P) (h_cx : UpCx P) (h_pm : UpPm P) (h_ae : UpAe P) (h_bb : UpBb P) (h_ac : UpAc P) (h_tm : UpTm P) (h_pf : UpPf P) (h_fl : UpFl P) (h_es : UpEs P) (h_im : UpIm P) (h_ft : UpFt P) (h_cf : UpCf P) (h_tn : UpTn P) (h_lx : UpLx P) (h_out : UpOut P) (h_draws : UpDraws P) (hR : UpR P) (hRF : UpRF P) (hW : UpW P) (hZ : UpZ P) (hC : UpC P) (h : Keep P s) : KeepOut P (execImProfileWrite a1 s) := by
  unfold execImProfileWrite
  repeat' first
    | with_reducible assumption
    | with_reducible refine keepOut_next ?_
    | with_reducible refine keep_writeRow h_power h_qe h_cx h_pm h_ae h_bb h_ac h_tm h_pf h_fl h_es h_im h_ft h_cf h_tn h_lx h_out h_draws hR hRF hW hZ hC ?_

theorem keep_execGsIntEnableWrite {a1 : Access} (h_power : UpPower P) (h_qe : UpQe P) (h_cx : UpCx P) (h_pm : UpPm P) (h_ae : UpAe P) (h_bb : UpBb P) (h_ac : UpAc P) (h_tm : UpTm P) (h_pf : UpPf P) (h_fl : UpFl P) (h_es : UpEs P) (h_im : UpIm P) (h_ft : UpFt P) (h_cf : UpCf P) (h_tn : UpTn P) (h_lx : UpLx P) (h_out : UpOut P) (h_draws : UpDraws P) (hR : UpR P) (hRF : UpRF P) (hW : UpW P) (hZ : UpZ P) (hC : UpC P) (h : Keep P s) : KeepOut P (execGsIntEnableWrite a1 s) := by
  unfold execGsIntEnableWrite
  repeat' first
    | with_reducible assumption
    | with_reducible refine keepOut_next ?_
    | with_reducible refine keep_writeRow h_power h_qe h_cx h_pm h_ae h_bb h_ac h_tm h_pf h_fl h_es h_im h_ft h_cf h_tn h_lx h_out h_draws hR hRF hW hZ hC ?_

theorem keep_execPfLogHeadWrite {a1 : Access} (h_power : UpPower P) (h_qe : UpQe P) (h_cx : UpCx P) (h_pm : UpPm P) (h_ae : UpAe P) (h_bb : UpBb P) (h_ac : UpAc P) (h_tm : UpTm P) (h_pf : UpPf P) (h_fl : UpFl P) (h_es : UpEs P) (h_im : UpIm P) (h_ft : UpFt P) (h_cf : UpCf P) (h_tn : UpTn P) (h_lx : UpLx P) (h_out : UpOut P) (h_draws : UpDraws P) (hR : UpR P) (hRF : UpRF P) (hW : UpW P) (hZ : UpZ P) (hC : UpC P) (h : Keep P s) : KeepOut P (execPfLogHeadWrite a1 s) := by
  unfold execPfLogHeadWrite
  repeat' first
    | with_reducible assumption
    | with_reducible refine keepOut_next ?_
    | with_reducible refine keep_writeRow h_power h_qe h_cx h_pm h_ae h_bb h_ac h_tm h_pf h_fl h_es h_im h_ft h_cf h_tn h_lx h_out h_draws hR hRF hW hZ hC ?_

theorem keep_execPwCapWrite {a1 : Access} (h_power : UpPower P) (h_qe : UpQe P) (h_cx : UpCx P) (h_pm : UpPm P) (h_ae : UpAe P) (h_bb : UpBb P) (h_ac : UpAc P) (h_tm : UpTm P) (h_pf : UpPf P) (h_fl : UpFl P) (h_es : UpEs P) (h_im : UpIm P) (h_ft : UpFt P) (h_cf : UpCf P) (h_tn : UpTn P) (h_lx : UpLx P) (h_out : UpOut P) (h_draws : UpDraws P) (hR : UpR P) (hRF : UpRF P) (hW : UpW P) (hZ : UpZ P) (hC : UpC P) (h : Keep P s) : KeepOut P (execPwCapWrite a1 s) := by
  unfold execPwCapWrite
  repeat' first
    | with_reducible assumption
    | with_reducible refine keepOut_next ?_
    | with_reducible refine keep_writeRow h_power h_qe h_cx h_pm h_ae h_bb h_ac h_tm h_pf h_fl h_es h_im h_ft h_cf h_tn h_lx h_out h_draws hR hRF hW hZ hC ?_

theorem keep_execPassStart {a1 : Access} (h_power : UpPower P) (h_qe : UpQe P) (h_cx : UpCx P) (h_pm : UpPm P) (h_ae : UpAe P) (h_bb : UpBb P) (h_ac : UpAc P) (h_tm : UpTm P) (h_pf : UpPf P) (h_fl : UpFl P) (h_es : UpEs P) (h_im : UpIm P) (h_ft : UpFt P) (h_cf : UpCf P) (h_tn : UpTn P) (h_lx : UpLx P) (h_out : UpOut P) (h_draws : UpDraws P) (hR : UpR P) (hRF : UpRF P) (hW : UpW P) (hZ : UpZ P) (hC : UpC P) (h : Keep P s) : KeepOut P (execPassStart a1 s) := by
  unfold execPassStart
  repeat' first
    | with_reducible assumption
    | with_reducible refine keepOut_next ?_
    | with_reducible refine keep_writeRow h_power h_qe h_cx h_pm h_ae h_bb h_ac h_tm h_pf h_fl h_es h_im h_ft h_cf h_tn h_lx h_out h_draws hR hRF hW hZ hC ?_
    | split

theorem keep_execPassAbort {a1 : Access} (h_power : UpPower P) (h_qe : UpQe P) (h_cx : UpCx P) (h_pm : UpPm P) (h_ae : UpAe P) (h_bb : UpBb P) (h_ac : UpAc P) (h_tm : UpTm P) (h_pf : UpPf P) (h_fl : UpFl P) (h_es : UpEs P) (h_im : UpIm P) (h_ft : UpFt P) (h_cf : UpCf P) (h_tn : UpTn P) (h_lx : UpLx P) (h_out : UpOut P) (h_draws : UpDraws P) (hR : UpR P) (hRF : UpRF P) (hW : UpW P) (hZ : UpZ P) (hC : UpC P) (h : Keep P s) : KeepOut P (execPassAbort a1 s) := by
  unfold execPassAbort
  repeat' first
    | with_reducible assumption
    | with_reducible refine keepOut_next ?_
    | with_reducible refine keep_writeRow h_power h_qe h_cx h_pm h_ae h_bb h_ac h_tm h_pf h_fl h_es h_im h_ft h_cf h_tn h_lx h_out h_draws hR hRF hW hZ hC ?_
    | split

theorem keep_execSplitWrite {a1 : Access} (h_power : UpPower P) (h_qe : UpQe P) (h_cx : UpCx P) (h_pm : UpPm P) (h_ae : UpAe P) (h_bb : UpBb P) (h_ac : UpAc P) (h_tm : UpTm P) (h_pf : UpPf P) (h_fl : UpFl P) (h_es : UpEs P) (h_im : UpIm P) (h_ft : UpFt P) (h_cf : UpCf P) (h_tn : UpTn P) (h_lx : UpLx P) (h_out : UpOut P) (h_draws : UpDraws P) (hR : UpR P) (hRF : UpRF P) (hW : UpW P) (hZ : UpZ P) (hC : UpC P) (h : Keep P s) : KeepOut P (execSplitWrite a1 s) := by
  unfold execSplitWrite
  repeat' first
    | with_reducible assumption
    | with_reducible refine keepOut_next ?_
    | with_reducible refine keep_writeRow h_power h_qe h_cx h_pm h_ae h_bb h_ac h_tm h_pf h_fl h_es h_im h_ft h_cf h_tn h_lx h_out h_draws hR hRF hW hZ hC ?_
    | split

theorem keep_execTestRead {a1 : Access} (h_power : UpPower P) (h_qe : UpQe P) (h_cx : UpCx P) (h_pm : UpPm P) (h_ae : UpAe P) (h_bb : UpBb P) (h_ac : UpAc P) (h_tm : UpTm P) (h_pf : UpPf P) (h_fl : UpFl P) (h_es : UpEs P) (h_im : UpIm P) (h_ft : UpFt P) (h_cf : UpCf P) (h_tn : UpTn P) (h_lx : UpLx P) (h_out : UpOut P) (h_draws : UpDraws P) (hR : UpR P) (hRF : UpRF P) (hW : UpW P) (hZ : UpZ P) (hC : UpC P) (h : Keep P s) : KeepOut P (execTestRead a1 s) := by
  unfold execTestRead
  repeat' first
    | with_reducible assumption
    | with_reducible refine keepOut_next ?_
    | with_reducible refine keep_writeRow h_power h_qe h_cx h_pm h_ae h_bb h_ac h_tm h_pf h_fl h_es h_im h_ft h_cf h_tn h_lx h_out h_draws hR hRF hW hZ hC ?_
    | split

theorem keep_execFlSwapGo {a1 : Access} {a2 : Nat} (h_power : UpPower P) (h_qe : UpQe P) (h_cx : UpCx P) (h_pm : UpPm P) (h_ae : UpAe P) (h_bb : UpBb P) (h_ac : UpAc P) (h_tm : UpTm P) (h_pf : UpPf P) (h_fl : UpFl P) (h_es : UpEs P) (h_im : UpIm P) (h_ft : UpFt P) (h_cf : UpCf P) (h_tn : UpTn P) (h_lx : UpLx P) (h_out : UpOut P) (h_draws : UpDraws P) (hR : UpR P) (hRF : UpRF P) (hW : UpW P) (hZ : UpZ P) (hC : UpC P) (h : Keep P s) : KeepOut P (execFlSwapGo a1 a2 s) := by
  unfold execFlSwapGo
  repeat' first
    | with_reducible assumption
    | with_reducible refine keepOut_next ?_
    | with_reducible refine keep_hostWrite h_power h_qe h_cx h_pm h_ae h_bb h_ac h_tm h_pf h_fl h_es h_im h_ft h_cf h_tn h_lx h_out h_draws hR hRF hW hZ hC ?_
    | split

theorem keep_execGateInstall {a1 : Access} (h_power : UpPower P) (h_qe : UpQe P) (h_cx : UpCx P) (h_pm : UpPm P) (h_ae : UpAe P) (h_bb : UpBb P) (h_ac : UpAc P) (h_tm : UpTm P) (h_pf : UpPf P) (h_fl : UpFl P) (h_es : UpEs P) (h_im : UpIm P) (h_ft : UpFt P) (h_cf : UpCf P) (h_tn : UpTn P) (h_lx : UpLx P) (h_out : UpOut P) (h_draws : UpDraws P) (hR : UpR P) (hRF : UpRF P) (hW : UpW P) (hZ : UpZ P) (hC : UpC P) (h : Keep P s) : KeepOut P (execGateInstall a1 s) := by
  unfold execGateInstall
  repeat' first
    | with_reducible assumption
    | with_reducible refine keepOut_next ?_
    | with_reducible refine keep_writeRow h_power h_qe h_cx h_pm h_ae h_bb h_ac h_tm h_pf h_fl h_es h_im h_ft h_cf h_tn h_lx h_out h_draws hR hRF hW hZ hC ?_

theorem keep_execRingEnableWrite {a1 : Access} (h_power : UpPower P) (h_qe : UpQe P) (h_cx : UpCx P) (h_pm : UpPm P) (h_ae : UpAe P) (h_bb : UpBb P) (h_ac : UpAc P) (h_tm : UpTm P) (h_pf : UpPf P) (h_fl : UpFl P) (h_es : UpEs P) (h_im : UpIm P) (h_ft : UpFt P) (h_cf : UpCf P) (h_tn : UpTn P) (h_lx : UpLx P) (h_out : UpOut P) (h_draws : UpDraws P) (hR : UpR P) (hRF : UpRF P) (hW : UpW P) (hZ : UpZ P) (hC : UpC P) (h : Keep P s) : KeepOut P (execRingEnableWrite a1 s) := by
  unfold execRingEnableWrite
  repeat' first
    | with_reducible assumption
    | with_reducible refine keepOut_next ?_
    | with_reducible refine keep_writeRow h_power h_qe h_cx h_pm h_ae h_bb h_ac h_tm h_pf h_fl h_es h_im h_ft h_cf h_tn h_lx h_out h_draws hR hRF hW hZ hC ?_

theorem keep_execNodeReset {a1 : Access} (h_power : UpPower P) (h_qe : UpQe P) (h_cx : UpCx P) (h_pm : UpPm P) (h_ae : UpAe P) (h_bb : UpBb P) (h_ac : UpAc P) (h_tm : UpTm P) (h_pf : UpPf P) (h_fl : UpFl P) (h_es : UpEs P) (h_im : UpIm P) (h_ft : UpFt P) (h_cf : UpCf P) (h_tn : UpTn P) (h_lx : UpLx P) (h_out : UpOut P) (h_draws : UpDraws P) (hR : UpR P) (hRF : UpRF P) (hW : UpW P) (hZ : UpZ P) (hC : UpC P) (h : Keep P s) : KeepOut P (execNodeReset a1 s) := by
  unfold execNodeReset
  repeat' first
    | with_reducible assumption
    | with_reducible refine keepOut_next ?_
    | with_reducible refine keep_writeRow h_power h_qe h_cx h_pm h_ae h_bb h_ac h_tm h_pf h_fl h_es h_im h_ft h_cf h_tn h_lx h_out h_draws hR hRF hW hZ hC ?_

theorem keep_requestRow {a1 : Nat} {a2 : Access} (h_power : UpPower P) (h_qe : UpQe P) (h_cx : UpCx P) (h_pm : UpPm P) (h_ae : UpAe P) (h_bb : UpBb P) (h_ac : UpAc P) (h_tm : UpTm P) (h_pf : UpPf P) (h_fl : UpFl P) (h_es : UpEs P) (h_im : UpIm P) (h_ft : UpFt P) (h_cf : UpCf P) (h_tn : UpTn P) (h_lx : UpLx P) (h_out : UpOut P) (h_draws : UpDraws P) (hR : UpR P) (hRF : UpRF P) (hW : UpW P) (hZ : UpZ P) (hC : UpC P) (h : Keep P s) : Keep P (requestRow a1 a2 s) := by
  unfold requestRow
  repeat' first
    | with_reducible assumption
    | with_reducible refine keep_hostWrite h_power h_qe h_cx h_pm h_ae h_bb h_ac h_tm h_pf h_fl h_es h_im h_ft h_cf h_tn h_lx h_out h_draws hR hRF hW hZ hC ?_
    | split

theorem keep_execRetainRequest {a1 : Access} (h_power : UpPower P) (h_qe : UpQe P) (h_cx : UpCx P) (h_pm : UpPm P) (h_ae : UpAe P) (h_bb : UpBb P) (h_ac : UpAc P) (h_tm : UpTm P) (h_pf : UpPf P) (h_fl : UpFl P) (h_es : UpEs P) (h_im : UpIm P) (h_ft : UpFt P) (h_cf : UpCf P) (h_tn : UpTn P) (h_lx : UpLx P) (h_out : UpOut P) (h_draws : UpDraws P) (hR : UpR P) (hRF : UpRF P) (hW : UpW P) (hZ : UpZ P) (hC : UpC P) (h : Keep P s) : KeepOut P (execRetainRequest a1 s) := by
  unfold execRetainRequest
  repeat' first
    | with_reducible assumption
    | with_reducible refine keepOut_next ?_
    | with_reducible refine keep_requestRow h_power h_qe h_cx h_pm h_ae h_bb h_ac h_tm h_pf h_fl h_es h_im h_ft h_cf h_tn h_lx h_out h_draws hR hRF hW hZ hC ?_

theorem keep_execRunRequest {a1 : Access} (h_power : UpPower P) (h_qe : UpQe P) (h_cx : UpCx P) (h_pm : UpPm P) (h_ae : UpAe P) (h_bb : UpBb P) (h_ac : UpAc P) (h_tm : UpTm P) (h_pf : UpPf P) (h_fl : UpFl P) (h_es : UpEs P) (h_im : UpIm P) (h_ft : UpFt P) (h_cf : UpCf P) (h_tn : UpTn P) (h_lx : UpLx P) (h_out : UpOut P) (h_draws : UpDraws P) (hR : UpR P) (hRF : UpRF P) (hW : UpW P) (hZ : UpZ P) (hC : UpC P) (h : Keep P s) : KeepOut P (execRunRequest a1 s) := by
  unfold execRunRequest
  repeat' first
    | with_reducible assumption
    | with_reducible refine keepOut_next ?_
    | with_reducible refine keep_requestRow h_power h_qe h_cx h_pm h_ae h_bb h_ac h_tm h_pf h_fl h_es h_im h_ft h_cf h_tn h_lx h_out h_draws hR hRF hW hZ hC ?_

theorem keep_putWindow {a2 : Nat} {a3 : Byte} (hW : UpW P) (h : Keep P s) : Keep P (putWindow s a2 a3) := by
  unfold putWindow
  repeat' first
    | with_reducible assumption
    | with_reducible refine keep_writeByte hW ?_
    | split

theorem keep_putWindows {a2 : Nat} {a3 : Bytes} (hW : UpW P) (h : Keep P s) : Keep P (putWindows s a2 a3) := by
  induction a3 generalizing s a2 with
  | nil =>
    rw [putWindows]
    repeat' first
      | with_reducible assumption
      | with_reducible apply ih
      | with_reducible refine keep_putWindow hW ?_
  | cons _ _ ih =>
    rw [putWindows]
    repeat' first
      | with_reducible assumption
      | with_reducible apply ih
      | with_reducible refine keep_putWindow hW ?_

theorem keep_bar4Read {a1 : Nat} {a2 : Nat} (h_qe : UpQe P) (h_bb : UpBb P) (h_pf : UpPf P) (h_cf : UpCf P) (h_out : UpOut P) (hR : UpR P) (h : Keep P s) : Keep P (bar4Read a1 a2 s) := by
  unfold bar4Read
  repeat' first
    | with_reducible assumption
    | with_reducible refine keep_holdRead h_bb ?_
    | with_reducible refine keep_answerRead h_qe h_pf h_cf h_out hR ?_
    | with_reducible refine keep_emit h_out ?_
    | (extract_lets -underBinder -merge -useContext +onlyGivenNames x; clear_value x)
    | split

theorem keep_execBar4Read {a1 : Nat} {a2 : Nat} (h_qe : UpQe P) (h_bb : UpBb P) (h_pf : UpPf P) (h_cf : UpCf P) (h_out : UpOut P) (hR : UpR P) (h : Keep P s) : KeepOut P (execBar4Read a1 a2 s) := by
  unfold execBar4Read
  repeat' first
    | with_reducible assumption
    | with_reducible refine keepOut_next ?_
    | with_reducible refine keep_bar4Read h_qe h_bb h_pf h_cf h_out hR ?_

theorem keep_bar4Write {a1 : Nat} {a2 : Bytes} (h_qe : UpQe P) (h_pf : UpPf P) (h_cf : UpCf P) (h_out : UpOut P) (hR : UpR P) (hW : UpW P) (h : Keep P s) : Keep P (bar4Write a1 a2 s) := by
  unfold bar4Write
  repeat' first
    | with_reducible assumption
    | with_reducible refine keep_putWindows hW ?_
    | with_reducible refine keep_noteBad h_qe h_pf h_cf h_out hR ?_
    | with_reducible refine keep_raise1 h_qe h_out hR ?_
    | (extract_lets -underBinder -merge -useContext +onlyGivenNames x; with_reducible refine keep_cut (s := x) ?_ ?_; (on_goal 1 => unfold x); (on_goal 2 => (clear_value x; intro _)))
    | (extract_lets -underBinder -merge -useContext +onlyGivenNames x; clear_value x)
    | split

theorem keep_execBar4Write {a1 : Nat} {a2 : Bytes} (h_qe : UpQe P) (h_pf : UpPf P) (h_cf : UpCf P) (h_out : UpOut P) (hR : UpR P) (hW : UpW P) (h : Keep P s) : KeepOut P (execBar4Write a1 a2 s) := by
  unfold execBar4Write
  repeat' first
    | with_reducible assumption
    | with_reducible refine keepOut_next ?_
    | with_reducible refine keep_bar4Write h_qe h_pf h_cf h_out hR hW ?_

theorem keep_wakeAccess {a1 : HostAccess} (h_power : UpPower P) (h_qe : UpQe P) (h_out : UpOut P) (hR : UpR P) (h : Keep P s) : Keep P (wakeAccess a1 s) := by
  unfold wakeAccess
  repeat' first
    | with_reducible assumption
    | with_reducible refine keep_requestRun h_power hR ?_
    | with_reducible refine keep_bar2Access h_power h_qe h_out hR ?_
    | with_reducible refine keep_emit h_out ?_
    | split

theorem keep_nodeAccess {a1 : HostAccess} (h_power : UpPower P) (h_qe : UpQe P) (h_cx : UpCx P) (h_pm : UpPm P) (h_ae : UpAe P) (h_bb : UpBb P) (h_ac : UpAc P) (h_tm : UpTm P) (h_pf : UpPf P) (h_fl : UpFl P) (h_es : UpEs P) (h_im : UpIm P) (h_ft : UpFt P) (h_cf : UpCf P) (h_tn : UpTn P) (h_lx : UpLx P) (h_out : UpOut P) (h_draws : UpDraws P) (hR : UpR P) (hRF : UpRF P) (hW : UpW P) (hZ : UpZ P) (hC : UpC P) (h : Keep P s) : Keep P (nodeAccess a1 s) := by
  unfold nodeAccess
  repeat' first
    | with_reducible assumption
    | with_reducible refine keep_bar4Write h_qe h_pf h_cf h_out hR hW ?_
    | with_reducible refine keep_bar4Read h_qe h_bb h_pf h_cf h_out hR ?_
    | with_reducible refine keep_hostWrite h_power h_qe h_cx h_pm h_ae h_bb h_ac h_tm h_pf h_fl h_es h_im h_ft h_cf h_tn h_lx h_out h_draws hR hRF hW hZ hC ?_
    | with_reducible refine keep_hostRead h_qe h_lx h_out hR ?_
    | with_reducible refine keep_bar2Access h_power h_qe h_out hR ?_
    | with_reducible refine keep_bar2Read h_out ?_
    | split

theorem keep_execRetainHostAccess {a1 : HostAccess} (h_power : UpPower P) (h_qe : UpQe P) (h_cx : UpCx P) (h_pm : UpPm P) (h_ae : UpAe P) (h_bb : UpBb P) (h_ac : UpAc P) (h_tm : UpTm P) (h_pf : UpPf P) (h_fl : UpFl P) (h_es : UpEs P) (h_im : UpIm P) (h_ft : UpFt P) (h_cf : UpCf P) (h_tn : UpTn P) (h_lx : UpLx P) (h_out : UpOut P) (h_draws : UpDraws P) (hR : UpR P) (hRF : UpRF P) (hW : UpW P) (hZ : UpZ P) (hC : UpC P) (h : Keep P s) : KeepOut P (execRetainHostAccess a1 s) := by
  unfold execRetainHostAccess
  repeat' first
    | with_reducible assumption
    | with_reducible refine keepOut_next ?_
    | with_reducible refine keep_nodeAccess h_power h_qe h_cx h_pm h_ae h_bb h_ac h_tm h_pf h_fl h_es h_im h_ft h_cf h_tn h_lx h_out h_draws hR hRF hW hZ hC ?_
    | with_reducible refine keep_wakeAccess h_power h_qe h_out hR ?_
    | split

/-! ### Machine/StartUp.lean -/


theorem keep_readCause  (h_qe : UpQe P) (h_tn : UpTn P) (h_out : UpOut P) (hR : UpR P) (h : Keep P s) : Keep P (readCause s) := by
  unfold readCause
  repeat' first
    | with_reducible assumption
    | with_reducible refine keep_commit h_qe h_tn h_out hR ?_
    | with_reducible refine keep_setF hR ?_
    | fail_if_no_progress with_reducible refine keep_up_tn h_tn (keep_eta ?_)

theorem keep_setMeasure {a2 : Nat} {a3 : Bytes} (hR : UpR P) (h : Keep P s) : Keep P (setMeasure s a2 a3) := by
  unfold setMeasure
  repeat' first
    | with_reducible assumption
    | with_reducible refine keep_setR hR ?_
    | with_reducible refine keep_foldl (fun _ _ _ => ?_) ?_

theorem keep_measured {a2 : Nat} {a3 : Bytes} (hR : UpR P) (h : Keep P s) : Keep P (measured s a2 a3) := by
  unfold measured
  repeat' first
    | with_reducible assumption
    | with_reducible refine keep_setMeasure hR ?_

theorem keep_loadImage {a2 : Nat} {a3 : Nat} (h_qe : UpQe P) (h_out : UpOut P) (hR : UpR P) (h : Keep P s) : Keep P (loadImage s a2 a3) := by
  unfold loadImage
  repeat' first
    | with_reducible assumption
    | with_reducible refine keep_measured hR ?_
    | with_reducible refine keep_raise0 h_qe h_out hR ?_
    | with_reducible refine keep_setF hR ?_
    | split

theorem keep_loadRecord {a2 : Nat} {a3 : Bytes} (h_power : UpPower P) (hR : UpR P) (h : Keep P s) : Keep P (loadRecord s a2 a3) := by
  unfold loadRecord
  repeat' first
    | with_reducible assumption
    | with_reducible refine keep_measured hR ?_
    | with_reducible refine keep_setF hR ?_
    | fail_if_no_progress with_reducible refine keep_up_power h_power (keep_eta ?_)
    | with_reducible refine keep_foldl (fun _ _ _ => ?_) ?_

theorem keep_recordFails {a2 : StartReport} (h_qe : UpQe P) (h_tn : UpTn P) (h_out : UpOut P) (hR : UpR P) (h : Keep P s) : Keep P (recordFails s a2) := by
  unfold recordFails
  repeat' first
    | with_reducible assumption
    | with_reducible refine keep_commit h_qe h_tn h_out hR ?_
    | fail_if_no_progress with_reducible refine keep_up_tn h_tn (keep_eta ?_)
    | (extract_lets -underBinder -merge -useContext +onlyGivenNames x; clear_value x)
    | split

theorem keep_assignAcs  (h_ac : UpAc P) (hR : UpR P) (h : Keep P s) : Keep P (assignAcs s) := by
  unfold assignAcs
  repeat' first
    | with_reducible assumption
    | with_reducible refine keep_setF hR ?_
    | fail_if_no_progress with_reducible refine keep_up_ac h_ac (keep_eta ?_)
    | with_reducible refine keep_foldl (fun _ _ _ => ?_) ?_

theorem keep_assignBaus {a2 : Nat} (h_bb : UpBb P) (hR : UpR P) (h : Keep P s) : Keep P (assignBaus s a2) := by
  unfold assignBaus
  repeat' first
    | with_reducible assumption
    | with_reducible refine keep_updBbd h_bb ?_
    | with_reducible refine keep_setB hR ?_
    | with_reducible refine keep_setF hR ?_

theorem keep_reportUnits  (hR : UpR P) (h : Keep P s) : Keep P (reportUnits s) := by
  unfold reportUnits
  repeat' first
    | with_reducible assumption
    | with_reducible refine keep_setB hR ?_
    | with_reducible refine keep_setF hR ?_
    | with_reducible refine keep_foldl (fun _ _ _ => ?_) ?_

theorem keep_recordChannels {a2 : List Nat} (h_qe : UpQe P) (h_tn : UpTn P) (h_out : UpOut P) (hR : UpR P) (h : Keep P s) : KeepQ P (recordChannels s a2) := by
  unfold recordChannels
  repeat' first
    | with_reducible assumption
    | with_reducible refine keep_commit h_qe h_tn h_out hR ?_
    | fail_if_no_progress with_reducible refine keep_up_tn h_tn (keep_eta ?_)
    | (extract_lets -underBinder -merge -useContext +onlyGivenNames x; clear_value x)
    | split
    | with_reducible refine keepQ_mk ?_

theorem keep_createQueues {a2 : Nat} (h_tm : UpTm P) (h : Keep P s) : Keep P (createQueues s a2) := by
  unfold createQueues
  repeat' first
    | with_reducible assumption
    | fail_if_no_progress with_reducible refine keep_up_tm h_tm (keep_eta ?_)

theorem keep_trainLink {a1 : StartReport} {a2 : State × TierUse} {a3 : Nat} (h_tm : UpTm P) (hR : UpR P) (h : KeepQ P a2) : KeepQ P (trainLink a1 a2 a3) := by
  have h : Keep P a2.1 := h
  unfold trainLink
  split
  · exact h
  · extract_lets b
    split
    · exact h
    · split
      extract_lets s1 s2
      refine keepQ_mk (keep_setB hR ?_)
      have h1 : Keep P s1 := keep_setR hR h
      show Keep P (if _ then _ else _)
      split
      · exact keep_up_tm h_tm (keep_eta h1)
      · exact h1

theorem keep_trainTiers {a2 : StartReport} (h_tm : UpTm P) (h_out : UpOut P) (hR : UpR P) (h : Keep P s) : Keep P (trainTiers s a2) := by
  unfold trainTiers
  refine keep_foldl (fun _ _ h => keep_emit h_out h) (keepQ_fst (keepQ_foldl ?_ (keepQ_mk h)))
  intro p k hp
  exact keep_trainLink h_tm hR hp

theorem keep_stopAt {a2 : Nat} {a3 : Nat} (h_qe : UpQe P) (h_out : UpOut P) (hR : UpR P) (h : Keep P s) : Keep P (stopAt s a2 a3) := by
  unfold stopAt
  repeat' first
    | with_reducible assumption
    | with_reducible refine keep_haltLexicon h_qe h_out hR ?_
    | with_reducible refine keep_setF hR ?_
    | (extract_lets -underBinder -merge -useContext +onlyGivenNames x; with_reducible refine keep_cut (s := x) ?_ ?_; (on_goal 1 => unfold x); (on_goal 2 => (clear_value x; intro _)))
    | split

theorem keep_writeChain  (h_lx : UpLx P) (h : Keep P s) : Keep P (writeChain s) := by
  unfold writeChain
  repeat' first
    | with_reducible assumption
    | fail_if_no_progress with_reducible refine keep_up_lx h_lx (keep_eta ?_)

theorem keep_writeAttest  (h_lx : UpLx P) (h : Keep P s) : Keep P (writeAttest s) := by
  unfold writeAttest
  repeat' first
    | with_reducible assumption
    | fail_if_no_progress with_reducible refine keep_up_lx h_lx (keep_eta ?_)

theorem keep_bringUp {a1 : StartReport} (h_qe : UpQe P) (h_bb : UpBb P) (h_ac : UpAc P) (h_tm : UpTm P) (h_fl : UpFl P) (h_tn : UpTn P) (h_lx : UpLx P) (h_out : UpOut P) (hR : UpR P) (h : Keep P s) : Keep P (bringUp a1 s) := by
  unfold bringUp
  repeat' first
    | with_reducible assumption
    | with_reducible refine keep_writeAttest h_lx ?_
    | with_reducible refine keep_stopAt h_qe h_out hR ?_
    | with_reducible refine keep_trainTiers h_tm h_out hR ?_
    | with_reducible refine keepQ_eq (keep_recordChannels h_qe h_tn h_out hR ?_) (by assumption)
    | with_reducible refine keep_reportUnits hR ?_
    | with_reducible refine keep_assignBaus h_bb hR ?_
    | with_reducible refine keep_assignAcs h_ac hR ?_
    | with_reducible refine keep_recordFails h_qe h_tn h_out hR ?_
    | with_reducible refine keep_measured hR ?_
    | with_reducible refine keep_limitPermits hR ?_
    | with_reducible refine keep_loadRemaps hR ?_
    | with_reducible refine keep_wakePort h_fl hR ?_
    | with_reducible refine keep_setF hR ?_
    | with_reducible refine keep_foldl (fun _ _ _ => ?_) ?_
    | (extract_lets -underBinder -merge -useContext +onlyGivenNames x; with_reducible refine keep_cut (s := x) ?_ ?_; (on_goal 1 => unfold x); (on_goal 2 => (clear_value x; intro _)))
    | split

theorem keep_trustSteps {a1 : RClass} {a2 : StartReport} (h_power : UpPower P) (h_qe : UpQe P) (h_bb : UpBb P) (h_ac : UpAc P) (h_tm : UpTm P) (h_fl : UpFl P) (h_tn : UpTn P) (h_lx : UpLx P) (h_out : UpOut P) (h_draws : UpDraws P) (hR : UpR P) (h : Keep P s) : Keep P (trustSteps a1 a2 s) := by
  unfold trustSteps
  repeat' first
    | with_reducible assumption
    | with_reducible refine keep_bringUp h_qe h_bb h_ac h_tm h_fl h_tn h_lx h_out hR ?_
    | with_reducible refine keep_writeChain h_lx ?_
    | with_reducible refine keep_stopAt h_qe h_out hR ?_
    | with_reducible refine keep_loadRecord h_power hR ?_
    | with_reducible refine keep_loadImage h_qe h_out hR ?_
    | with_reducible refine keep_readCause h_qe h_tn h_out hR ?_
    | with_reducible refine keep_loseRecord h_qe h_tn h_out hR ?_
    | with_reducible refine keep_setR hR ?_
    | fail_if_no_progress with_reducible refine keep_up_lx h_lx (keep_up_draws h_draws (keep_eta ?_))
    | with_reducible refine keep_foldl (fun _ _ _ => ?_) ?_
    | (extract_lets -underBinder -merge -useContext +onlyGivenNames x; with_reducible refine keep_cut (s := x) ?_ ?_; (on_goal 1 => unfold x); (on_goal 2 => (clear_value x; intro _)))
    | (extract_lets -underBinder -merge -useContext +onlyGivenNames x; clear_value x)
    | split

theorem keep_sanitise  (hZ : UpZ P) (h : Keep P s) : Keep P (sanitise s) := by
  unfold sanitise
  repeat' first
    | with_reducible assumption
    | with_reducible refine keep_zeroWhere hZ ?_

theorem keep_takeTenant  (h_power : UpPower P) (h_qe : UpQe P) (h_tn : UpTn P) (h_out : UpOut P) (hR : UpR P) (h : Keep P s) : Keep P (takeTenant s) := by
  unfold takeTenant
  repeat' first
    | with_reducible assumption
    | with_reducible refine keep_commit h_qe h_tn h_out hR ?_
    | fail_if_no_progress with_reducible refine keep_up_power h_power (keep_up_tn h_tn (keep_eta ?_))

theorem keep_signReport {a1 : Bytes} (h_lx : UpLx P) (h : Keep P s) : Keep P (signReport a1 s) := by
  unfold signReport
  repeat' first
    | with_reducible assumption
    | fail_if_no_progress with_reducible refine keep_up_lx h_lx (keep_eta ?_)

theorem keep_ownMeasures  (hR : UpR P) (h : Keep P s) : Keep P (ownMeasures s) := by
  unfold ownMeasures
  repeat' first
    | with_reducible assumption
    | with_reducible refine keep_setMeasure hR ?_

theorem keep_openNode {a1 : RClass} (h_power : UpPower P) (h_qe : UpQe P) (h_fl : UpFl P) (h_tn : UpTn P) (h_lx : UpLx P) (h_out : UpOut P) (hR : UpR P) (hZ : UpZ P) (h : Keep P s) : Keep P (openNode a1 s) := by
  unfold openNode
  repeat' first
    | with_reducible assumption
    | with_reducible refine keep_ownMeasures hR ?_
    | with_reducible refine keep_signReport h_lx ?_
    | with_reducible refine keep_takeTenant h_power h_qe h_tn h_out hR ?_
    | with_reducible refine keep_sanitise hZ ?_
    | with_reducible refine keep_announce h_qe h_out hR ?_
    | with_reducible refine keep_raiseFloor h_qe h_tn h_out hR ?_
    | with_reducible refine keep_startListening h_qe h_fl h_out hR ?_
    | with_reducible refine keep_setF hR ?_
    | fail_if_no_progress with_reducible refine keep_up_power h_power (keep_eta ?_)
    | split

theorem keep_openRestricted  (h_power : UpPower P) (h : Keep P s) : Keep P (openRestricted s) := by
  unfold openRestricted
  repeat' first
    | with_reducible assumption
    | fail_if_no_progress with_reducible refine keep_up_power h_power (keep_eta ?_)

theorem keep_openUp {a1 : RClass} (h_power : UpPower P) (h_qe : UpQe P) (h_fl : UpFl P) (h_tn : UpTn P) (h_lx : UpLx P) (h_out : UpOut P) (hR : UpR P) (hZ : UpZ P) (h : Keep P s) : Keep P (openUp a1 s) := by
  unfold openUp
  repeat' first
    | with_reducible assumption
    | with_reducible refine keep_openRestricted h_power ?_
    | with_reducible refine keep_openNode h_power h_qe h_fl h_tn h_lx h_out hR hZ ?_
    | with_reducible refine keep_setF hR ?_
    | split

theorem keep_endCold {a1 : RClass} {a2 : StartReport} (h_power : UpPower P) (h_qe : UpQe P) (h_bb : UpBb P) (h_ac : UpAc P) (h_tm : UpTm P) (h_fl : UpFl P) (h_tn : UpTn P) (h_lx : UpLx P) (h_out : UpOut P) (h_draws : UpDraws P) (hR : UpR P) (hZ : UpZ P) (h : Keep P s) : Keep P (endCold a1 a2 s) := by
  unfold endCold
  repeat' first
    | with_reducible assumption
    | with_reducible refine keep_openUp h_power h_qe h_fl h_tn h_lx h_out hR hZ ?_
    | with_reducible refine keep_trustSteps h_power h_qe h_bb h_ac h_tm h_fl h_tn h_lx h_out h_draws hR ?_
    | fail_if_no_progress with_reducible refine keep_up_power h_power (keep_eta ?_)
    | (extract_lets -underBinder -merge -useContext +onlyGivenNames x; with_reducible refine keep_cut (s := x) ?_ ?_; (on_goal 1 => unfold x); (on_goal 2 => (clear_value x; intro _)))
    | (extract_lets -underBinder -merge -useContext +onlyGivenNames x; clear_value x)
    | split

theorem keep_failHandover  (h_power : UpPower P) (h_qe : UpQe P) (h_cx : UpCx P) (h_pm : UpPm P) (h_ae : UpAe P) (h_bb : UpBb P) (h_ac : UpAc P) (h_tm : UpTm P) (h_pf : UpPf P) (h_fl : UpFl P) (h_es : UpEs P) (h_im : UpIm P) (h_ft : UpFt P) (h_cf : UpCf P) (h_tn : UpTn P) (h_lx : UpLx P) (h_out : UpOut P) (h_draws : UpDraws P) (hR : UpR P) (hRF : UpRF P) (hW : UpW P) (hZ : UpZ P) (hC : UpC P) (h : Keep P s) : Keep P (failHandover s) := by
  unfold failHandover
  repeat' first
    | with_reducible assumption
    | with_reducible refine keep_takeHeld h_power h_qe h_cx h_pm h_ae h_bb h_ac h_tm h_pf h_fl h_es h_im h_ft h_cf h_tn h_lx h_out h_draws hR hRF hW hZ hC ?_
    | with_reducible refine keep_finishAll h_qe hR ?_
    | with_reducible refine keep_setB hR ?_
    | fail_if_no_progress with_reducible refine keep_up_power h_power (keep_eta ?_)

theorem keep_endH {a1 : StartReport} (h_power : UpPower P) (h_qe : UpQe P) (h_cx : UpCx P) (h_pm : UpPm P) (h_ae : UpAe P) (h_bb : UpBb P) (h_ac : UpAc P) (h_tm : UpTm P) (h_pf : UpPf P) (h_fl : UpFl P) (h_es : UpEs P) (h_im : UpIm P) (h_ft : UpFt P) (h_cf : UpCf P) (h_tn : UpTn P) (h_lx : UpLx P) (h_out : UpOut P) (h_draws : UpDraws P) (hR : UpR P) (hRF : UpRF P) (hW : UpW P) (hZ : UpZ P) (hC : UpC P) (h : Keep P s) : Keep P (endH a1 s) := by
  unfold endH
  repeat' first
    | with_reducible assumption
    | with_reducible refine keep_failHandover h_power h_qe h_cx h_pm h_ae h_bb h_ac h_tm h_pf h_fl h_es h_im h_ft h_cf h_tn h_lx h_out h_draws hR hRF hW hZ hC ?_
    | with_reducible refine keep_signReport h_lx ?_
    | with_reducible refine keep_takeTenant h_power h_qe h_tn h_out hR ?_
    | with_reducible refine keep_sanitise hZ ?_
    | with_reducible refine keep_takeHeld h_power h_qe h_cx h_pm h_ae h_bb h_ac h_tm h_pf h_fl h_es h_im h_ft h_cf h_tn h_lx h_out h_draws hR hRF hW hZ hC ?_
    | with_reducible refine keep_recheckGates h_qe h_out hR ?_
    | with_reducible refine keep_settle h_bb hR hRF ?_
    | with_reducible refine keep_announce h_qe h_out hR ?_
    | with_reducible refine keep_openF1 h_power hR ?_
    | with_reducible refine keep_startListening h_qe h_fl h_out hR ?_
    | with_reducible refine keep_finishAll h_qe hR ?_
    | with_reducible refine keep_setB hR ?_
    | fail_if_no_progress with_reducible refine keep_up_power h_power (keep_eta ?_)
    | fail_if_no_progress with_reducible refine keep_up_cx h_cx (keep_eta ?_)
    | (extract_lets -underBinder -merge -useContext +onlyGivenNames x; with_reducible refine keep_cut (s := x) ?_ ?_; (on_goal 1 => unfold x); (on_goal 2 => (clear_value x; intro _)))
    | (extract_lets -underBinder -merge -useContext +onlyGivenNames x; clear_value x)
    | split

theorem keep_afterReset  (h_power : UpPower P) (h_qe : UpQe P) (h_cx : UpCx P) (h_pm : UpPm P) (h_ae : UpAe P) (h_bb : UpBb P) (h_ac : UpAc P) (h_tm : UpTm P) (h_pf : UpPf P) (h_fl : UpFl P) (h_es : UpEs P) (h_im : UpIm P) (h_ft : UpFt P) (h_cf : UpCf P) (h_tn : UpTn P) (h_lx : UpLx P) (h_out : UpOut P) (hR : UpR P) (hRF : UpRF P) (hC : UpC P) (h : Keep P s) : Keep P (afterReset s) := by
  unfold afterReset
  repeat' first
    | with_reducible assumption
    | with_reducible refine keep_startRetain h_power h_ft h_cf ?_
    | with_reducible refine keep_doeHeld h_lx h_out ?_
    | with_reducible refine keep_startWaiting h_power h_qe h_cx h_pm h_ae h_bb h_ac h_tm h_pf h_fl h_es h_im h_ft h_cf h_tn h_lx h_out hR hRF hC ?_
    | (extract_lets -underBinder -merge -useContext +onlyGivenNames x; with_reducible refine keep_cut (s := x) ?_ ?_; (on_goal 1 => unfold x); (on_goal 2 => (clear_value x; intro _)))
    | split

theorem keep_execStartUpEnd {a1 : StartReport} (h_power : UpPower P) (h_qe : UpQe P) (h_cx : UpCx P) (h_pm : UpPm P) (h_ae : UpAe P) (h_bb : UpBb P) (h_ac : UpAc P) (h_tm : UpTm P) (h_pf : UpPf P) (h_fl : UpFl P) (h_es : UpEs P) (h_im : UpIm P) (h_ft : UpFt P) (h_cf : UpCf P) (h_tn : UpTn P) (h_lx : UpLx P) (h_out : UpOut P) (h_draws : UpDraws P) (hR : UpR P) (hRF : UpRF P) (hW : UpW P) (hZ : UpZ P) (hC : UpC P) (h : Keep P s) : KeepOut P (execStartUpEnd a1 s) := by
  unfold execStartUpEnd
  repeat' first
    | with_reducible assumption
    | with_reducible refine keepOut_next ?_
    | with_reducible refine keep_afterReset h_power h_qe h_cx h_pm h_ae h_bb h_ac h_tm h_pf h_fl h_es h_im h_ft h_cf h_tn h_lx h_out hR hRF hC ?_
    | with_reducible refine keep_endH h_power h_qe h_cx h_pm h_ae h_bb h_ac h_tm h_pf h_fl h_es h_im h_ft h_cf h_tn h_lx h_out h_draws hR hRF hW hZ hC ?_
    | with_reducible refine keep_endCold h_power h_qe h_bb h_ac h_tm h_fl h_tn h_lx h_out h_draws hR hZ ?_
    | with_reducible refine keep_endF h_power h_qe h_out hR hRF ?_
    | with_reducible refine keep_endN h_power h_qe h_bb h_fl h_out hR hRF ?_
    | split

theorem keep_execPerstNRise  (h_power : UpPower P) (h_qe : UpQe P) (h_cx : UpCx P) (h_pm : UpPm P) (h_ae : UpAe P) (h_bb : UpBb P) (h_ac : UpAc P) (h_tm : UpTm P) (h_pf : UpPf P) (h_fl : UpFl P) (h_es : UpEs P) (h_im : UpIm P) (h_ft : UpFt P) (h_cf : UpCf P) (h_tn : UpTn P) (h_lx : UpLx P) (h_out : UpOut P) (hR : UpR P) (hRF : UpRF P) (hZ : UpZ P) (hC : UpC P) (h : Keep P s) : KeepOut P (execPerstNRise s) := by
  unfold execPerstNRise
  repeat' first
    | with_reducible assumption
    | with_reducible refine keepOut_next ?_
    | with_reducible refine keep_afterReset h_power h_qe h_cx h_pm h_ae h_bb h_ac h_tm h_pf h_fl h_es h_im h_ft h_cf h_tn h_lx h_out hR hRF hC ?_
    | with_reducible refine keep_openUp h_power h_qe h_fl h_tn h_lx h_out hR hZ ?_
    | fail_if_no_progress with_reducible refine keep_up_power h_power (keep_eta ?_)
    | (extract_lets -underBinder -merge -useContext +onlyGivenNames x; clear_value x)
    | fail_if_no_progress extract_lets -underBinder -merge -useContext +onlyGivenNames x
    | split

/-! ### Machine/Sx.lean -/


theorem keep_teRow {a1 : Nat} {a2 : TeCmd} (h_ac : UpAc P) (h : Keep P s) : Keep P (teRow a1 a2 s) := by
  unfold teRow
  repeat' first
    | with_reducible assumption
    | with_reducible refine keep_queueTe h_ac ?_
    | with_reducible refine keep_live ?_ ?_
    | split
    | with_reducible intro _

theorem keep_execMatmul {a1 : TeCmd} (h_ac : UpAc P) (h : Keep P s) : KeepOut P (execMatmul a1 s) := by
  unfold execMatmul
  repeat' first
    | with_reducible assumption
    | with_reducible refine keepOut_next ?_
    | with_reducible refine keep_teRow h_ac ?_

theorem keep_execScore {a1 : TeCmd} (h_ac : UpAc P) (h : Keep P s) : KeepOut P (execScore a1 s) := by
  unfold execScore
  repeat' first
    | with_reducible assumption
    | with_reducible refine keepOut_next ?_
    | with_reducible refine keep_teRow h_ac ?_

theorem keep_execFold {a1 : TeCmd} (h_ac : UpAc P) (h : Keep P s) : KeepOut P (execFold a1 s) := by
  unfold execFold
  repeat' first
    | with_reducible assumption
    | with_reducible refine keepOut_next ?_
    | with_reducible refine keep_teRow h_ac ?_

theorem keep_execBound {a1 : TeCmd} (h_ac : UpAc P) (h : Keep P s) : KeepOut P (execBound a1 s) := by
  unfold execBound
  repeat' first
    | with_reducible assumption
    | with_reducible refine keepOut_next ?_
    | with_reducible refine keep_teRow h_ac ?_

theorem keep_execConjoin {a1 : TeCmd} (h_ac : UpAc P) (h : Keep P s) : KeepOut P (execConjoin a1 s) := by
  unfold execConjoin
  repeat' first
    | with_reducible assumption
    | with_reducible refine keepOut_next ?_
    | with_reducible refine keep_teRow h_ac ?_

theorem keep_execTeComplete {a1 : Nat} {a2 : Nat} (h_qe : UpQe P) (h_cx : UpCx P) (h_pm : UpPm P) (h_ae : UpAe P) (h_bb : UpBb P) (h_ac : UpAc P) (h_tm : UpTm P) (h_pf : UpPf P) (h_ft : UpFt P) (h_cf : UpCf P) (h_tn : UpTn P) (h_lx : UpLx P) (h_out : UpOut P) (h_draws : UpDraws P) (hR : UpR P) (hW : UpW P) (hZ : UpZ P) (h : Keep P s) : KeepOut P (execTeComplete a1 a2 s) := by
  unfold execTeComplete
  repeat' first
    | with_reducible assumption
    | with_reducible refine keepOut_next ?_
    | with_reducible refine keep_pokeThreads h_qe h_cx h_pm h_ae h_bb h_ac h_tm h_pf h_ft h_cf h_tn h_lx h_out h_draws hR hW hZ ?_
    | with_reducible refine keep_completeTe h_ac h_out ?_
    | with_reducible refine keep_live ?_ ?_
    | with_reducible intro _

theorem keep_sxAccess {a2 : Nat} {a3 : Nat} {a4 : Nat} {a5 : Nat} {a6 : Nat} {a7 : Where → State} (h_qe : UpQe P) (h_ac : UpAc P) (h_pf : UpPf P) (h_cf : UpCf P) (h_tn : UpTn P) (h_lx : UpLx P) (h_out : UpOut P) (hR : UpR P) (h : Keep P s) (ha7 : ∀ x0, Keep P (a7 x0)) : Keep P (sxAccess s a2 a3 a4 a5 a6 a7) := by
  unfold sxAccess
  repeat' first
    | with_reducible assumption
    | with_reducible apply ha7
    | with_reducible refine keep_trapJob h_qe h_ac h_tn h_lx h_out hR ?_
    | with_reducible refine keep_logFailure h_qe h_pf h_cf h_out hR ?_
    | split

theorem keep_sxNext {a2 : Nat} {a3 : Nat} {a4 : Thread → Thread} (h_ac : UpAc P) (h : Keep P s) : Keep P (sxNext s a2 a3 a4) := by
  unfold sxNext
  repeat' first
    | with_reducible assumption
    | with_reducible refine keep_updThread h_ac ?_

theorem keep_sxAct {a1 : Nat} {a2 : Nat} {a3 : Nat} {a5 : SxAct} (h_qe : UpQe P) (h_ac : UpAc P) (h_pf : UpPf P) (h_cf : UpCf P) (h_tn : UpTn P) (h_lx : UpLx P) (h_out : UpOut P) (h_draws : UpDraws P) (hR : UpR P) (hW : UpW P) (h : Keep P s) : Keep P (sxAct a1 a2 a3 s a5) := by
  unfold sxAct
  repeat' first
    | with_reducible assumption
    | with_reducible refine keep_sxNext h_ac ?_
    | with_reducible refine keep_sxAccess h_qe h_ac h_pf h_cf h_tn h_lx h_out hR ?_ ?_
    | with_reducible refine keep_trapJob h_qe h_ac h_tn h_lx h_out hR ?_
    | with_reducible refine keep_updThread h_ac ?_
    | with_reducible refine keep_setWay h_ac ?_
    | with_reducible refine keep_writeMem hW ?_
    | with_reducible refine keepP_snd (keep_drawFree h_draws ?_)
    | split
    | with_reducible intro _

theorem keep_sxRun {a2 : Nat} {a3 : Nat} {a4 : SxOp} {a5 : Job → Thread → Nat → State → State} (h_qe : UpQe P) (h_bb : UpBb P) (h_ac : UpAc P) (h_pf : UpPf P) (h_cf : UpCf P) (h_tn : UpTn P) (h_lx : UpLx P) (h_out : UpOut P) (h_draws : UpDraws P) (hR : UpR P) (hW : UpW P) (h : Keep P s) (ha5 : ∀ x0 x1 x2 x3, Keep P x3 → Keep P (a5 x0 x1 x2 x3)) : Keep P (sxRun s a2 a3 a4 a5) := by
  unfold sxRun
  repeat' first
    | with_reducible assumption
    | with_reducible apply ha5
    | with_reducible refine keep_sxAct h_qe h_ac h_pf h_cf h_tn h_lx h_out h_draws hR hW ?_
    | with_reducible refine keep_trapJob h_qe h_ac h_tn h_lx h_out hR ?_
    | with_reducible refine keep_setCond h_ac ?_
    | with_reducible refine keep_waitLocks h_bb ?_
    | with_reducible refine keep_live ?_ ?_
    | with_reducible refine keep_foldl (fun _ _ _ => ?_) ?_
    | (extract_lets -underBinder -merge -useContext +onlyGivenNames x; with_reducible refine keep_cut (s := x) ?_ ?_; (on_goal 1 => unfold x); (on_goal 2 => (clear_value x; intro _)))
    | split
    | with_reducible intro _

theorem keep_sxDone {a2 : SxOp} {a3 : Option Nat} (h_ac : UpAc P) (h : Keep P s) : Keep P (sxDone s a2 a3) := by
  unfold sxDone
  repeat' first
    | with_reducible assumption
    | with_reducible refine keep_updThread h_ac ?_

theorem keep_sxLoad {a2 : SxOp} {a3 : Nat} {a4 : Nat} {a5 : Nat} {a6 : Bytes → State} (h_qe : UpQe P) (h_ac : UpAc P) (h_tn : UpTn P) (h_lx : UpLx P) (h_out : UpOut P) (hR : UpR P) (h : Keep P s) (ha6 : ∀ x0, Keep P (a6 x0)) : Keep P (sxLoad s a2 a3 a4 a5 a6) := by
  unfold sxLoad
  repeat' first
    | with_reducible assumption
    | with_reducible apply ha6
    | with_reducible refine keep_trapJob h_qe h_ac h_tn h_lx h_out hR ?_
    | split

theorem keep_execSxTe {a1 : SxOp} (h_qe : UpQe P) (h_bb : UpBb P) (h_ac : UpAc P) (h_pf : UpPf P) (h_cf : UpCf P) (h_tn : UpTn P) (h_lx : UpLx P) (h_out : UpOut P) (h_draws : UpDraws P) (hR : UpR P) (hW : UpW P) (h : Keep P s) : KeepOut P (execSxTe a1 s) := by
  unfold execSxTe
  repeat' first
    | with_reducible assumption
    | with_reducible refine keepOut_next ?_
    | with_reducible refine keep_sxLoad h_qe h_ac h_tn h_lx h_out hR ?_ ?_
    | with_reducible refine keep_sxDone h_ac ?_
    | with_reducible refine keep_sxRun h_qe h_bb h_ac h_pf h_cf h_tn h_lx h_out h_draws hR hW ?_ ?_
    | with_reducible refine keep_queueTe h_ac ?_
    | with_reducible refine keepP_eq (keep_newTicket h_ac ?_) (by assumption)
    | (extract_lets -underBinder -merge -useContext +onlyGivenNames x; clear_value x)
    | split
    | with_reducible intro _

theorem keep_execSxBstore {a1 : SxOp} (h_qe : UpQe P) (h_cx : UpCx P) (h_pm : UpPm P) (h_ae : UpAe P) (h_bb : UpBb P) (h_ac : UpAc P) (h_tm : UpTm P) (h_pf : UpPf P) (h_ft : UpFt P) (h_cf : UpCf P) (h_tn : UpTn P) (h_lx : UpLx P) (h_out : UpOut P) (h_draws : UpDraws P) (hR : UpR P) (hW : UpW P) (hZ : UpZ P) (h : Keep P s) : KeepOut P (execSxBstore a1 s) := by
  unfold execSxBstore
  repeat' first
    | with_reducible assumption
    | with_reducible refine keepOut_next ?_
    | with_reducible refine keep_sxLoad h_qe h_ac h_tn h_lx h_out hR ?_ ?_
    | with_reducible refine keep_sxDone h_ac ?_
    | with_reducible refine keep_sxRun h_qe h_bb h_ac h_pf h_cf h_tn h_lx h_out h_draws hR hW ?_ ?_
    | with_reducible refine keep_pokeThreads h_qe h_cx h_pm h_ae h_bb h_ac h_tm h_pf h_ft h_cf h_tn h_lx h_out h_draws hR hW hZ ?_
    | with_reducible refine keep_arrive h_qe h_cx h_pm h_ae h_bb h_ac h_tm h_pf h_cf h_out hR hW ?_
    | with_reducible intro _

theorem keep_execSxBau {a1 : SxOp} (h_qe : UpQe P) (h_cx : UpCx P) (h_pm : UpPm P) (h_ae : UpAe P) (h_bb : UpBb P) (h_ac : UpAc P) (h_tm : UpTm P) (h_pf : UpPf P) (h_ft : UpFt P) (h_cf : UpCf P) (h_tn : UpTn P) (h_lx : UpLx P) (h_out : UpOut P) (h_draws : UpDraws P) (hR : UpR P) (hW : UpW P) (hZ : UpZ P) (h : Keep P s) : KeepOut P (execSxBau a1 s) := by
  unfold execSxBau
  repeat' first
    | with_reducible assumption
    | with_reducible refine keepOut_next ?_
    | with_reducible refine keep_sxLoad h_qe h_ac h_tn h_lx h_out hR ?_ ?_
    | with_reducible refine keep_sxDone h_ac ?_
    | with_reducible refine keep_sxRun h_qe h_bb h_ac h_pf h_cf h_tn h_lx h_out h_draws hR hW ?_ ?_
    | with_reducible refine keep_pokeThreads h_qe h_cx h_pm h_ae h_bb h_ac h_tm h_pf h_ft h_cf h_tn h_lx h_out h_draws hR hW hZ ?_
    | with_reducible refine keep_arrive h_qe h_cx h_pm h_ae h_bb h_ac h_tm h_pf h_cf h_out hR hW ?_
    | with_reducible refine keep_trapJob h_qe h_ac h_tn h_lx h_out hR ?_
    | with_reducible refine keepP_eq (keep_newTicket h_ac ?_) (by assumption)
    | split
    | with_reducible intro _

theorem keep_execSxCopy {a1 : SxOp} (h_qe : UpQe P) (h_cx : UpCx P) (h_pm : UpPm P) (h_ae : UpAe P) (h_bb : UpBb P) (h_ac : UpAc P) (h_tm : UpTm P) (h_pf : UpPf P) (h_ft : UpFt P) (h_cf : UpCf P) (h_tn : UpTn P) (h_lx : UpLx P) (h_out : UpOut P) (h_draws : UpDraws P) (hR : UpR P) (hW : UpW P) (hZ : UpZ P) (h : Keep P s) : KeepOut P (execSxCopy a1 s) := by
  unfold execSxCopy
  repeat' first
    | with_reducible assumption
    | with_reducible refine keepOut_next ?_
    | with_reducible refine keep_sxDone h_ac ?_
    | with_reducible refine keep_sxRun h_qe h_bb h_ac h_pf h_cf h_tn h_lx h_out h_draws hR hW ?_ ?_
    | with_reducible refine keep_pokeThreads h_qe h_cx h_pm h_ae h_bb h_ac h_tm h_pf h_ft h_cf h_tn h_lx h_out h_draws hR hW hZ ?_
    | with_reducible refine keepP_snd (keep_startCopy h_ac ?_)
    | with_reducible refine keep_copyFault h_qe h_ac h_tn h_lx h_out hR ?_
    | (extract_lets -underBinder -merge -useContext +onlyGivenNames x; clear_value x)
    | split
    | with_reducible intro _

theorem keep_execSxWait {a1 : SxOp} (h_qe : UpQe P) (h_cx : UpCx P) (h_pm : UpPm P) (h_ae : UpAe P) (h_bb : UpBb P) (h_ac : UpAc P) (h_tm : UpTm P) (h_pf : UpPf P) (h_ft : UpFt P) (h_cf : UpCf P) (h_tn : UpTn P) (h_lx : UpLx P) (h_out : UpOut P) (h_draws : UpDraws P) (hR : UpR P) (hW : UpW P) (hZ : UpZ P) (h : Keep P s) : KeepOut P (execSxWait a1 s) := by
  unfold execSxWait
  repeat' first
    | with_reducible assumption
    | with_reducible refine keepOut_next ?_
    | with_reducible refine keep_sxDone h_ac ?_
    | with_reducible refine keep_sxRun h_qe h_bb h_ac h_pf h_cf h_tn h_lx h_out h_draws hR hW ?_ ?_
    | with_reducible refine keep_pokeThreads h_qe h_cx h_pm h_ae h_bb h_ac h_tm h_pf h_ft h_cf h_tn h_lx h_out h_draws hR hW hZ ?_
    | with_reducible refine keep_beginWait h_qe h_ac h_ft h_tn h_lx h_out h_draws hR hW hZ ?_
    | with_reducible refine keepP_eq (keep_drawFree h_draws ?_) (by assumption)
    | (extract_lets -underBinder -merge -useContext +onlyGivenNames x; clear_value x)
    | split
    | with_reducible intro _

theorem keep_execSxPoll {a1 : SxOp} (h_qe : UpQe P) (h_bb : UpBb P) (h_ac : UpAc P) (h_pf : UpPf P) (h_ft : UpFt P) (h_cf : UpCf P) (h_tn : UpTn P) (h_lx : UpLx P) (h_out : UpOut P) (h_draws : UpDraws P) (hR : UpR P) (hW : UpW P) (h : Keep P s) : KeepOut P (execSxPoll a1 s) := by
  unfold execSxPoll
  repeat' first
    | with_reducible assumption
    | with_reducible refine keepOut_next ?_
    | with_reducible refine keep_sxDone h_ac ?_
    | with_reducible refine keep_sxRun h_qe h_bb h_ac h_pf h_cf h_tn h_lx h_out h_draws hR hW ?_ ?_
    | with_reducible refine keepP_eq (keep_drawFree h_draws ?_) (by assumption)
    | fail_if_no_progress with_reducible refine keep_up_ft h_ft (keep_eta ?_)
    | (extract_lets -underBinder -merge -useContext +onlyGivenNames x; clear_value x)
    | split
    | with_reducible intro _

theorem keep_execSxSleep {a1 : SxOp} (h_qe : UpQe P) (h_bb : UpBb P) (h_ac : UpAc P) (h_pf : UpPf P) (h_ft : UpFt P) (h_cf : UpCf P) (h_tn : UpTn P) (h_lx : UpLx P) (h_out : UpOut P) (h_draws : UpDraws P) (hR : UpR P) (hW : UpW P) (hZ : UpZ P) (h : Keep P s) : KeepOut P (execSxSleep a1 s) := by
  unfold execSxSleep
  repeat' first
    | with_reducible assumption
    | with_reducible refine keepOut_next ?_
    | with_reducible refine keep_sxDone h_ac ?_
    | with_reducible refine keep_sxRun h_qe h_bb h_ac h_pf h_cf h_tn h_lx h_out h_draws hR hW ?_ ?_
    | with_reducible refine keep_beginWait h_qe h_ac h_ft h_tn h_lx h_out h_draws hR hW hZ ?_
    | with_reducible intro _

theorem keep_execSxStep {a1 : SxOp} (h_qe : UpQe P) (h_bb : UpBb P) (h_ac : UpAc P) (h_pf : UpPf P) (h_ft : UpFt P) (h_cf : UpCf P) (h_tn : UpTn P) (h_lx : UpLx P) (h_out : UpOut P) (h_draws : UpDraws P) (hR : UpR P) (hW : UpW P) (hZ : UpZ P) (h : Keep P s) : KeepOut P (execSxStep a1 s) := by
  unfold execSxStep
  repeat' first
    | with_reducible assumption
    | with_reducible refine keepOut_next ?_
    | with_reducible refine keep_sxDone h_ac ?_
    | with_reducible refine keep_sxRun h_qe h_bb h_ac h_pf h_cf h_tn h_lx h_out h_draws hR hW ?_ ?_
    | with_reducible refine keep_beginWait h_qe h_ac h_ft h_tn h_lx h_out h_draws hR hW hZ ?_
    | with_reducible intro _

theorem keep_execSxEnd {a1 : SxOp} (h_qe : UpQe P) (h_cx : UpCx P) (h_pm : UpPm P) (h_ae : UpAe P) (h_bb : UpBb P) (h_ac : UpAc P) (h_tm : UpTm P) (h_pf : UpPf P) (h_ft : UpFt P) (h_cf : UpCf P) (h_tn : UpTn P) (h_lx : UpLx P) (h_out : UpOut P) (h_draws : UpDraws P) (hR : UpR P) (hW : UpW P) (hZ : UpZ P) (h : Keep P s) : KeepOut P (execSxEnd a1 s) := by
  unfold execSxEnd
  repeat' first
    | with_reducible assumption
    | with_reducible refine keepOut_next ?_
    | with_reducible refine keep_sxDone h_ac ?_
    | with_reducible refine keep_sxRun h_qe h_bb h_ac h_pf h_cf h_tn h_lx h_out h_draws hR hW ?_ ?_
    | with_reducible refine keep_pokeThreads h_qe h_cx h_pm h_ae h_bb h_ac h_tm h_pf h_ft h_cf h_tn h_lx h_out h_draws hR hW hZ ?_
    | with_reducible refine keep_endThread h_qe h_ac h_tn h_lx h_out h_draws hR hW ?_
    | with_reducible intro _

theorem keep_execSxTrap {a1 : Nat} {a2 : Nat} {a3 : Nat} {a4 : Nat} (h_qe : UpQe P) (h_ac : UpAc P) (h_tn : UpTn P) (h_lx : UpLx P) (h_out : UpOut P) (hR : UpR P) (h : Keep P s) : KeepOut P (execSxTrap a1 a2 a3 a4 s) := by
  unfold execSxTrap
  repeat' first
    | with_reducible assumption
    | with_reducible refine keepOut_next ?_
    | with_reducible refine keep_trapJob h_qe h_ac h_tn h_lx h_out hR ?_
    | with_reducible refine keep_live ?_ ?_
    | split
    | with_reducible intro _

theorem keep_execContextEvent {a1 : Nat} {a2 : Nat} (h_qe : UpQe P) (h_cx : UpCx P) (h_pm : UpPm P) (h_ae : UpAe P) (h_bb : UpBb P) (h_ac : UpAc P) (h_tm : UpTm P) (h_pf : UpPf P) (h_ft : UpFt P) (h_cf : UpCf P) (h_tn : UpTn P) (h_lx : UpLx P) (h_out : UpOut P) (h_draws : UpDraws P) (hR : UpR P) (hW : UpW P) (hZ : UpZ P) (h : Keep P s) : KeepOut P (execContextEvent a1 a2 s) := by
  unfold execContextEvent
  repeat' first
    | with_reducible assumption
    | with_reducible refine keepOut_next ?_
    | with_reducible refine keep_pokeThread h_qe h_cx h_pm h_ae h_bb h_ac h_tm h_pf h_ft h_cf h_tn h_lx h_out h_draws hR hW hZ ?_
    | with_reducible refine keep_live ?_ ?_
    | with_reducible intro _

theorem keep_execSxCopyComplete {a1 : Nat} {a2 : Nat} {a3 : Nat} (h_qe : UpQe P) (h_cx : UpCx P) (h_pm : UpPm P) (h_ae : UpAe P) (h_bb : UpBb P) (h_ac : UpAc P) (h_tm : UpTm P) (h_pf : UpPf P) (h_ft : UpFt P) (h_cf : UpCf P) (h_tn : UpTn P) (h_lx : UpLx P) (h_out : UpOut P) (h_draws : UpDraws P) (hR : UpR P) (hW : UpW P) (hZ : UpZ P) (h : Keep P s) : KeepOut P (execSxCopyComplete a1 a2 a3 s) := by
  unfold execSxCopyComplete
  repeat' first
    | with_reducible assumption
    | with_reducible refine keepOut_next ?_
    | with_reducible refine keep_pokeThreads h_qe h_cx h_pm h_ae h_bb h_ac h_tm h_pf h_ft h_cf h_tn h_lx h_out h_draws hR hW hZ ?_
    | with_reducible refine keep_finishCopy h_qe h_ac h_pf h_cf h_out hR hW ?_
    | with_reducible refine keep_waitLocks h_bb ?_
    | with_reducible refine keep_live ?_ ?_
    | split
    | with_reducible intro _

theorem keep_execSwapLoad {a1 : Nat} (h_qe : UpQe P) (h_cx : UpCx P) (h_pm : UpPm P) (h_ae : UpAe P) (h_bb : UpBb P) (h_ac : UpAc P) (h_tm : UpTm P) (h_pf : UpPf P) (h_ft : UpFt P) (h_cf : UpCf P) (h_tn : UpTn P) (h_lx : UpLx P) (h_out : UpOut P) (h_draws : UpDraws P) (hR : UpR P) (hW : UpW P) (hZ : UpZ P) (h : Keep P s) : KeepOut P (execSwapLoad a1 s) := by
  unfold execSwapLoad
  repeat' first
    | with_reducible assumption
    | with_reducible refine keepOut_next ?_
    | with_reducible refine keep_pokeThread h_qe h_cx h_pm h_ae h_bb h_ac h_tm h_pf h_ft h_cf h_tn h_lx h_out h_draws hR hW hZ ?_
    | with_reducible refine keep_updThread h_ac ?_
    | with_reducible refine keep_setWay h_ac ?_
    | with_reducible refine keep_takeWay h_ac ?_
    | with_reducible refine keep_live ?_ ?_
    | split
    | with_reducible intro _

theorem keep_execSwapLoadDone {a1 : Nat} {a2 : Nat} (h_qe : UpQe P) (h_cx : UpCx P) (h_pm : UpPm P) (h_ae : UpAe P) (h_bb : UpBb P) (h_ac : UpAc P) (h_tm : UpTm P) (h_pf : UpPf P) (h_ft : UpFt P) (h_cf : UpCf P) (h_tn : UpTn P) (h_lx : UpLx P) (h_out : UpOut P) (h_draws : UpDraws P) (hR : UpR P) (hW : UpW P) (hZ : UpZ P) (h : Keep P s) : KeepOut P (execSwapLoadDone a1 a2 s) := by
  unfold execSwapLoadDone
  repeat' first
    | with_reducible assumption
    | with_reducible refine keepOut_next ?_
    | with_reducible refine keep_pokeThread h_qe h_cx h_pm h_ae h_bb h_ac h_tm h_pf h_ft h_cf h_tn h_lx h_out h_draws hR hW hZ ?_
    | with_reducible refine keep_takeEvent h_qe h_ac h_tn h_lx h_out h_draws hR hW hZ ?_
    | with_reducible refine keep_updThread h_ac ?_
    | with_reducible refine keep_setWay h_ac ?_
    | with_reducible refine keep_live ?_ ?_
    | (extract_lets -underBinder -merge -useContext +onlyGivenNames x; with_reducible refine keep_cut (s := x) ?_ ?_; (on_goal 1 => unfold x); (on_goal 2 => (clear_value x; intro _)))
    | (extract_lets -underBinder -merge -useContext +onlyGivenNames x; clear_value x)
    | split
    | with_reducible intro _

theorem keep_execSwapOut {a1 : Nat} (h_qe : UpQe P) (h_ac : UpAc P) (h_out : UpOut P) (hR : UpR P) (h : Keep P s) : KeepOut P (execSwapOut a1 s) := by
  unfold execSwapOut
  repeat' first
    | with_reducible assumption
    | with_reducible refine keepOut_next ?_
    | with_reducible refine keep_updThread h_ac ?_
    | with_reducible refine keep_raise1 h_qe h_out hR ?_
    | with_reducible refine keep_live ?_ ?_
    | (extract_lets -underBinder -merge -useContext +onlyGivenNames x; have := (fun (_ : _ → _) => trivial) x; unfold x; clear this x; beta_reduce)
    | split
    | with_reducible intro _

theorem keep_execSwapSaveDone {a1 : Nat} {a2 : Nat} (h_qe : UpQe P) (h_cx : UpCx P) (h_pm : UpPm P) (h_ae : UpAe P) (h_bb : UpBb P) (h_ac : UpAc P) (h_tm : UpTm P) (h_pf : UpPf P) (h_ft : UpFt P) (h_cf : UpCf P) (h_tn : UpTn P) (h_lx : UpLx P) (h_out : UpOut P) (h_draws : UpDraws P) (hR : UpR P) (hW : UpW P) (hZ : UpZ P) (h : Keep P s) : KeepOut P (execSwapSaveDone a1 a2 s) := by
  unfold execSwapSaveDone
  repeat' first
    | with_reducible assumption
    | with_reducible refine keepOut_next ?_
    | with_reducible refine keep_pokeThread h_qe h_cx h_pm h_ae h_bb h_ac h_tm h_pf h_ft h_cf h_tn h_lx h_out h_draws hR hW hZ ?_
    | with_reducible refine keep_updThread h_ac ?_
    | with_reducible refine keepP_snd (keep_writeFree h_draws hW ?_)
    | with_reducible refine keep_segToMem hW hZ ?_
    | with_reducible refine keep_dropWay h_qe h_ac h_tn h_lx h_out hR ?_
    | with_reducible refine keep_live ?_ ?_
    | split
    | with_reducible intro _

/-! ### Machine/Transport.lean -/


theorem keep_execMsg {a1 : Nat} {a2 : Nat} (h_qe : UpQe P) (h_ae : UpAe P) (h_fl : UpFl P) (h_ft : UpFt P) (h_out : UpOut P) (hR : UpR P) (hW : UpW P) (h : Keep P s) : KeepOut P (execMsg a1 a2 s) := by
  unfold execMsg
  repeat' first
    | with_reducible assumption
    | with_reducible refine keepOut_next ?_
    | with_reducible refine keep_takeKind h_qe h_fl h_out hR ?_ ?_
    | with_reducible refine keep_receiveSeq h_qe h_ae h_ft h_out hR hW ?_
    | with_reducible intro _

theorem keep_execWrite {a1 : Nat} {a2 : Nat} (h_qe : UpQe P) (h_ae : UpAe P) (h_fl : UpFl P) (h_ft : UpFt P) (h_out : UpOut P) (hR : UpR P) (hW : UpW P) (h : Keep P s) : KeepOut P (execWrite a1 a2 s) := by
  unfold execWrite
  repeat' first
    | with_reducible assumption
    | with_reducible refine keepOut_next ?_
    | with_reducible refine keep_takeKind h_qe h_fl h_out hR ?_ ?_
    | with_reducible refine keep_receiveSeq h_qe h_ae h_ft h_out hR hW ?_
    | with_reducible intro _

theorem keep_execReadReq {a1 : Nat} {a2 : Nat} (h_qe : UpQe P) (h_ae : UpAe P) (h_fl : UpFl P) (h_ft : UpFt P) (h_out : UpOut P) (hR : UpR P) (hW : UpW P) (h : Keep P s) : KeepOut P (execReadReq a1 a2 s) := by
  unfold execReadReq
  repeat' first
    | with_reducible assumption
    | with_reducible refine keepOut_next ?_
    | with_reducible refine keep_takeKind h_qe h_fl h_out hR ?_ ?_
    | with_reducible refine keep_receiveSeq h_qe h_ae h_ft h_out hR hW ?_
    | with_reducible intro _

theorem keep_execReadResp {a1 : Nat} {a2 : Nat} (h_qe : UpQe P) (h_ae : UpAe P) (h_fl : UpFl P) (h_ft : UpFt P) (h_out : UpOut P) (hR : UpR P) (hW : UpW P) (h : Keep P s) : KeepOut P (execReadResp a1 a2 s) := by
  unfold execReadResp
  repeat' first
    | with_reducible assumption
    | with_reducible refine keepOut_next ?_
    | with_reducible refine keep_takeKind h_qe h_fl h_out hR ?_ ?_
    | with_reducible refine keep_receiveSeq h_qe h_ae h_ft h_out hR hW ?_
    | with_reducible intro _

theorem keep_execAck {a1 : Nat} {a2 : Nat} (h_qe : UpQe P) (h_ae : UpAe P) (h_fl : UpFl P) (h_ft : UpFt P) (h_cf : UpCf P) (h_out : UpOut P) (hR : UpR P) (hW : UpW P) (h : Keep P s) : KeepOut P (execAck a1 a2 s) := by
  unfold execAck
  repeat' first
    | with_reducible assumption
    | with_reducible refine keepOut_next ?_
    | with_reducible refine keep_takeKind h_qe h_fl h_out hR ?_ ?_
    | with_reducible refine keep_receiveAck h_qe h_ae h_ft h_cf h_out hR hW ?_
    | with_reducible intro _

theorem keep_execNak {a1 : Nat} {a2 : Nat} (h_qe : UpQe P) (h_ae : UpAe P) (h_fl : UpFl P) (h_ft : UpFt P) (h_cf : UpCf P) (h_out : UpOut P) (hR : UpR P) (hW : UpW P) (h : Keep P s) : KeepOut P (execNak a1 a2 s) := by
  unfold execNak
  repeat' first
    | with_reducible assumption
    | with_reducible refine keepOut_next ?_
    | with_reducible refine keep_takeKind h_qe h_fl h_out hR ?_ ?_
    | with_reducible refine keep_receiveAck h_qe h_ae h_ft h_cf h_out hR hW ?_
    | with_reducible intro _

theorem keep_execReport {a1 : Nat} {a2 : Nat} (h_qe : UpQe P) (h_ae : UpAe P) (h_fl : UpFl P) (h_ft : UpFt P) (h_out : UpOut P) (hR : UpR P) (hW : UpW P) (h : Keep P s) : KeepOut P (execReport a1 a2 s) := by
  unfold execReport
  repeat' first
    | with_reducible assumption
    | with_reducible refine keepOut_next ?_
    | with_reducible refine keep_takeKind h_qe h_fl h_out hR ?_ ?_
    | with_reducible refine keep_receiveSeq h_qe h_ae h_ft h_out hR hW ?_
    | split
    | with_reducible intro _

theorem keep_execDgram {a1 : Nat} {a2 : Nat} (h_qe : UpQe P) (h_fl : UpFl P) (h_ft : UpFt P) (h_out : UpOut P) (hR : UpR P) (h : Keep P s) : KeepOut P (execDgram a1 a2 s) := by
  unfold execDgram
  repeat' first
    | with_reducible assumption
    | with_reducible refine keepOut_next ?_
    | with_reducible refine keep_takeKind h_qe h_fl h_out hR ?_ ?_
    | with_reducible refine keep_receiveDgram h_qe h_ft h_out hR ?_
    | with_reducible intro _

theorem keep_execAckTimer {a1 : Nat} (h_ft : UpFt P) (h : Keep P s) : KeepOut P (execAckTimer a1 s) := by
  unfold execAckTimer
  repeat' first
    | with_reducible assumption
    | with_reducible refine keepOut_next ?_
    | with_reducible refine keep_sendAck h_ft ?_
    | with_reducible refine keep_live ?_ ?_
    | split
    | with_reducible intro _

theorem keep_execGapTimer {a1 : Nat} (h_ft : UpFt P) (h : Keep P s) : KeepOut P (execGapTimer a1 s) := by
  unfold execGapTimer
  repeat' first
    | with_reducible assumption
    | with_reducible refine keepOut_next ?_
    | with_reducible refine keep_sendNak h_ft ?_
    | with_reducible refine keep_updConn h_ft ?_
    | with_reducible refine keep_live ?_ ?_
    | split
    | with_reducible intro _

theorem keep_retxExpire {a2 : Nat} {a3 : Conn} (h_qe : UpQe P) (h_ft : UpFt P) (h_cf : UpCf P) (h_out : UpOut P) (hR : UpR P) (h : Keep P s) : Keep P (retxExpire s a2 a3) := by
  unfold retxExpire
  repeat' first
    | with_reducible assumption
    | with_reducible refine keep_goBack h_qe h_ft h_out hR ?_
    | with_reducible refine keep_connError h_qe h_ft h_cf h_out hR ?_
    | with_reducible refine keep_putConn h_ft ?_
    | split

theorem keep_execRetxTimer {a1 : Nat} (h_qe : UpQe P) (h_ft : UpFt P) (h_cf : UpCf P) (h_out : UpOut P) (hR : UpR P) (h : Keep P s) : KeepOut P (execRetxTimer a1 s) := by
  unfold execRetxTimer
  repeat' first
    | with_reducible assumption
    | with_reducible refine keepOut_next ?_
    | with_reducible refine keep_retxExpire h_qe h_ft h_cf h_out hR ?_
    | with_reducible refine keep_live ?_ ?_
    | split
    | with_reducible intro _

theorem keep_execPacketSpray {a1 : Spray} (h_bb : UpBb P) (h_es : UpEs P) (h_ft : UpFt P) (h_cf : UpCf P) (hR : UpR P) (h : Keep P s) : KeepOut P (execPacketSpray a1 s) := by
  unfold execPacketSpray
  repeat' first
    | with_reducible assumption
    | with_reducible refine keepOut_next ?_
    | with_reducible refine keep_sprayConn h_bb h_es h_ft h_cf hR ?_
    | with_reducible refine keep_sprayDgram h_es h_ft hR ?_
    | with_reducible refine keep_live ?_ ?_
    | split
    | with_reducible intro _

theorem keep_execConnOpen {a1 : Cmd} (h_qe : UpQe P) (h_tm : UpTm P) (h_ft : UpFt P) (h_cf : UpCf P) (h_out : UpOut P) (hR : UpR P) (h : Keep P s) : KeepOut P (execConnOpen a1 s) := by
  unfold execConnOpen
  repeat' first
    | with_reducible assumption
    | with_reducible refine keepOut_next ?_
    | with_reducible refine keep_putConn h_ft ?_
    | with_reducible refine keep_startCmd h_qe h_tm h_cf h_out hR ?_ ?_
    | with_reducible refine keep_finish h_qe hR ?_
    | (extract_lets -underBinder -merge -useContext +onlyGivenNames x; clear_value x)
    | split
    | with_reducible intro _

theorem keep_execConnClose {a1 : Cmd} (h_qe : UpQe P) (h_tm : UpTm P) (h_ft : UpFt P) (h_cf : UpCf P) (h_out : UpOut P) (hR : UpR P) (h : Keep P s) : KeepOut P (execConnClose a1 s) := by
  unfold execConnClose
  repeat' first
    | with_reducible assumption
    | with_reducible refine keepOut_next ?_
    | with_reducible refine keep_connShut h_qe h_ft h_out hR ?_
    | with_reducible refine keep_startCmd h_qe h_tm h_cf h_out hR ?_ ?_
    | with_reducible refine keep_finish h_qe hR ?_
    | (extract_lets -underBinder -merge -useContext +onlyGivenNames x; clear_value x)
    | split
    | with_reducible intro _

theorem keep_execConnQuery {a1 : Cmd} {a2 : Bool} (h_qe : UpQe P) (h_tm : UpTm P) (h_cf : UpCf P) (h_out : UpOut P) (hR : UpR P) (h : Keep P s) : KeepOut P (execConnQuery a1 a2 s) := by
  unfold execConnQuery
  repeat' first
    | with_reducible assumption
    | with_reducible refine keepOut_next ?_
    | with_reducible refine keep_putHost h_qe h_out hR ?_ ?_
    | with_reducible refine keep_startCmd h_qe h_tm h_cf h_out hR ?_ ?_
    | with_reducible refine keep_finish h_qe hR ?_
    | split
    | with_reducible intro _

theorem keep_execWrPost {a1 : Cmd} (h_qe : UpQe P) (h_tm : UpTm P) (h_ft : UpFt P) (h_cf : UpCf P) (h_out : UpOut P) (hR : UpR P) (h : Keep P s) : KeepOut P (execWrPost a1 s) := by
  unfold execWrPost
  repeat' first
    | with_reducible assumption
    | with_reducible refine keepOut_next ?_
    | with_reducible refine keep_sendWr h_ft ?_
    | with_reducible refine keep_startCmd h_qe h_tm h_cf h_out hR ?_ ?_
    | with_reducible refine keep_completeWith h_qe hR ?_
    | fail_if_no_progress with_reducible refine keep_up_ft h_ft (keep_eta ?_)
    | (extract_lets -underBinder -merge -useContext +onlyGivenNames x; with_reducible refine keep_cut (s := x) ?_ ?_; (on_goal 1 => unfold x); (on_goal 2 => (clear_value x; intro _)))
    | (extract_lets -underBinder -merge -useContext +onlyGivenNames x; clear_value x)
    | split
    | with_reducible intro _

theorem keep_execWrFire {a1 : Nat} (h_qe : UpQe P) (h_ft : UpFt P) (hR : UpR P) (h : Keep P s) : KeepOut P (execWrFire a1 s) := by
  unfold execWrFire
  repeat' first
    | with_reducible assumption
    | with_reducible refine keepOut_next ?_
    | with_reducible refine keep_sendWr h_ft ?_
    | with_reducible refine keep_endWr h_qe h_ft hR ?_
    | with_reducible refine keep_live ?_ ?_
    | split
    | with_reducible intro _

theorem keep_raiseCeiling {a2 : Nat} {a3 : Nat} (h_qe : UpQe P) (h_tn : UpTn P) (h_out : UpOut P) (hR : UpR P) (h : Keep P s) : Keep P (raiseCeiling s a2 a3) := by
  unfold raiseCeiling
  repeat' first
    | with_reducible assumption
    | with_reducible refine keep_commit h_qe h_tn h_out hR ?_
    | fail_if_no_progress with_reducible refine keep_up_tn h_tn (keep_eta ?_)
    | (extract_lets -underBinder -merge -useContext +onlyGivenNames x; clear_value x)
    | split

theorem keep_execRegionRegister {a1 : Cmd} (h_qe : UpQe P) (h_tm : UpTm P) (h_ft : UpFt P) (h_cf : UpCf P) (h_tn : UpTn P) (h_out : UpOut P) (hR : UpR P) (h : Keep P s) : KeepOut P (execRegionRegister a1 s) := by
  unfold execRegionRegister
  repeat' first
    | with_reducible assumption
    | with_reducible refine keepOut_next ?_
    | with_reducible refine keep_raiseCeiling h_qe h_tn h_out hR ?_
    | with_reducible refine keep_startCmd h_qe h_tm h_cf h_out hR ?_ ?_
    | with_reducible refine keep_finish h_qe hR ?_
    | with_reducible refine keep_completeWith h_qe hR ?_
    | fail_if_no_progress with_reducible refine keep_up_ft h_ft (keep_eta ?_)
    | (extract_lets -underBinder -merge -useContext +onlyGivenNames x; with_reducible refine keep_cut (s := x) ?_ ?_; (on_goal 1 => unfold x); (on_goal 2 => (clear_value x; intro _)))
    | (extract_lets -underBinder -merge -useContext +onlyGivenNames x; clear_value x)
    | split
    | with_reducible intro _

theorem keep_execRegionRevoke {a1 : Cmd} (h_qe : UpQe P) (h_tm : UpTm P) (h_ft : UpFt P) (h_cf : UpCf P) (h_out : UpOut P) (hR : UpR P) (h : Keep P s) : KeepOut P (execRegionRevoke a1 s) := by
  unfold execRegionRevoke
  repeat' first
    | with_reducible assumption
    | with_reducible refine keepOut_next ?_
    | with_reducible refine keep_startCmd h_qe h_tm h_cf h_out hR ?_ ?_
    | with_reducible refine keep_finish h_qe hR ?_
    | with_reducible refine keep_raise1 h_qe h_out hR ?_
    | fail_if_no_progress with_reducible refine keep_up_ft h_ft (keep_eta ?_)
    | split
    | with_reducible intro _

theorem keep_execRegionQuery {a1 : Cmd} {a2 : Bool} (h_qe : UpQe P) (h_tm : UpTm P) (h_cf : UpCf P) (h_out : UpOut P) (hR : UpR P) (h : Keep P s) : KeepOut P (execRegionQuery a1 a2 s) := by
  unfold execRegionQuery
  repeat' first
    | with_reducible assumption
    | with_reducible refine keepOut_next ?_
    | with_reducible refine keep_putHost h_qe h_out hR ?_ ?_
    | with_reducible refine keep_startCmd h_qe h_tm h_cf h_out hR ?_ ?_
    | with_reducible refine keep_finish h_qe hR ?_
    | split
    | with_reducible intro _

theorem keep_execRecvPost {a1 : Cmd} (h_qe : UpQe P) (h_tm : UpTm P) (h_ft : UpFt P) (h_cf : UpCf P) (h_out : UpOut P) (hR : UpR P) (h : Keep P s) : KeepOut P (execRecvPost a1 s) := by
  unfold execRecvPost
  repeat' first
    | with_reducible assumption
    | with_reducible refine keepOut_next ?_
    | with_reducible refine keep_refuseOr h_qe hR ?_ ?_
    | with_reducible refine keep_startCmd h_qe h_tm h_cf h_out hR ?_ ?_
    | with_reducible refine keep_completeWith h_qe hR ?_
    | fail_if_no_progress with_reducible refine keep_up_ft h_ft (keep_eta ?_)
    | with_reducible intro _

theorem keep_execRecvQuery {a1 : Cmd} (h_qe : UpQe P) (h_tm : UpTm P) (h_ft : UpFt P) (h_cf : UpCf P) (h_out : UpOut P) (hR : UpR P) (h : Keep P s) : KeepOut P (execRecvQuery a1 s) := by
  unfold execRecvQuery
  repeat' first
    | with_reducible assumption
    | with_reducible refine keepOut_next ?_
    | with_reducible refine keep_startCmd h_qe h_tm h_cf h_out hR ?_ ?_
    | with_reducible refine keep_completeWith h_qe hR ?_
    | with_reducible refine keep_complete h_qe hR ?_
    | fail_if_no_progress with_reducible refine keep_up_ft h_ft (keep_eta ?_)
    | (extract_lets -underBinder -merge -useContext +onlyGivenNames x; clear_value x)
    | split
    | with_reducible intro _

theorem keep_execCounterSet {a1 : Cmd} (h_qe : UpQe P) (h_tm : UpTm P) (h_cf : UpCf P) (h_out : UpOut P) (hR : UpR P) (h : Keep P s) : KeepOut P (execCounterSet a1 s) := by
  unfold execCounterSet
  repeat' first
    | with_reducible assumption
    | with_reducible refine keepOut_next ?_
    | with_reducible refine keep_setCounter hR ?_
    | with_reducible refine keep_startCmd h_qe h_tm h_cf h_out hR ?_ ?_
    | with_reducible refine keep_finish h_qe hR ?_
    | with_reducible intro _

end Sys2Proof.Machine
end

