-- ==== Sys2Proof/Laws/KeepExec.lean ====
section
/-!
SUPPORT. KeepExec.lean: what the definitions of Machine/Dispatch.lean, Machine/Step.lean keep (see Keep.lean).
-/

set_option linter.unusedTactic false
set_option linter.unreachableTactic false
set_option linter.unusedVariables false
set_option linter.tactic.unusedName false
set_option maxRecDepth 20000

namespace Sys2Proof.Machine

variable {P : State → Prop} {s : State}

/-! ### Machine/Dispatch.lean -/


theorem keep_exec {a1 : Instr} (h_power : UpPower P) (h_qe : UpQe P) (h_cx : UpCx P) (h_pm : UpPm P) (h_ae : UpAe P) (h_bb : UpBb P) (h_ac : UpAc P) (h_tm : UpTm P) (h_pf : UpPf P) (h_fl : UpFl P) (h_es : UpEs P) (h_im : UpIm P) (h_ft : UpFt P) (h_cf : UpCf P) (h_tn : UpTn P) (h_lx : UpLx P) (h_out : UpOut P) (h_draws : UpDraws P) (hR : UpR P) (hRF : UpRF P) (hW : UpW P) (hZ : UpZ P) (hC : UpC P) (h : Keep P s) : KeepOut P (exec a1 s) := by
  cases a1 with
  | registerWrite x1 => exact keep_execRegisterWrite (a1 := x1) h_power h_qe h_cx h_pm h_ae h_bb h_ac h_tm h_pf h_fl h_es h_im h_ft h_cf h_tn h_lx h_out h_draws hR hRF hW hZ hC h
  | badSizeAccess x1 x2 => exact keep_execBadSizeAccess (a1 := x1) (a2 := x2) h_power h_qe h_cx h_pm h_ae h_bb h_ac h_tm h_pf h_fl h_es h_im h_ft h_cf h_tn h_lx h_out h_draws hR hRF hW hZ hC h
  | tmStatusRead x1 => exact keep_execTmStatusRead (a1 := x1) h_qe h_lx h_out hR h
  | cxTableBaseWrite x1 => exact keep_execCxTableBaseWrite (a1 := x1) h_power h_qe h_cx h_pm h_ae h_bb h_ac h_tm h_pf h_fl h_es h_im h_ft h_cf h_tn h_lx h_out h_draws hR hRF hW hZ hC h
  | cxReady => exact keep_execCxReady h_cx hR h
  | bbNarrowShareWrite x1 => exact keep_execBbNarrowShareWrite (a1 := x1) h_power h_qe h_cx h_pm h_ae h_bb h_ac h_tm h_pf h_fl h_es h_im h_ft h_cf h_tn h_lx h_out h_draws hR hRF hW hZ hC h
  | bbPermitLimitWrite x1 => exact keep_execBbPermitLimitWrite (a1 := x1) h_power h_qe h_cx h_pm h_ae h_bb h_ac h_tm h_pf h_fl h_es h_im h_ft h_cf h_tn h_lx h_out h_draws hR hRF hW hZ hC h
  | tmPlanWrite x1 => exact keep_execTmPlanWrite (a1 := x1) h_power h_qe h_cx h_pm h_ae h_bb h_ac h_tm h_pf h_fl h_es h_im h_ft h_cf h_tn h_lx h_out h_draws hR hRF hW hZ hC h
  | flPortEnableWrite x1 => exact keep_execFlPortEnableWrite (a1 := x1) h_power h_qe h_cx h_pm h_ae h_bb h_ac h_tm h_pf h_fl h_es h_im h_ft h_cf h_tn h_lx h_out h_draws hR hRF hW hZ hC h
  | flPortClassWrite x1 => exact keep_execFlPortClassWrite (a1 := x1) h_power h_qe h_cx h_pm h_ae h_bb h_ac h_tm h_pf h_fl h_es h_im h_ft h_cf h_tn h_lx h_out h_draws hR hRF hW hZ hC h
  | esShaperWrite x1 => exact keep_execEsShaperWrite (a1 := x1) h_power h_qe h_cx h_pm h_ae h_bb h_ac h_tm h_pf h_fl h_es h_im h_ft h_cf h_tn h_lx h_out h_draws hR hRF hW hZ hC h
  | imProfileWrite x1 => exact keep_execImProfileWrite (a1 := x1) h_power h_qe h_cx h_pm h_ae h_bb h_ac h_tm h_pf h_fl h_es h_im h_ft h_cf h_tn h_lx h_out h_draws hR hRF hW hZ hC h
  | gsIntEnableWrite x1 => exact keep_execGsIntEnableWrite (a1 := x1) h_power h_qe h_cx h_pm h_ae h_bb h_ac h_tm h_pf h_fl h_es h_im h_ft h_cf h_tn h_lx h_out h_draws hR hRF hW hZ hC h
  | pfLogHeadWrite x1 => exact keep_execPfLogHeadWrite (a1 := x1) h_power h_qe h_cx h_pm h_ae h_bb h_ac h_tm h_pf h_fl h_es h_im h_ft h_cf h_tn h_lx h_out h_draws hR hRF hW hZ hC h
  | pwCapWrite x1 => exact keep_execPwCapWrite (a1 := x1) h_power h_qe h_cx h_pm h_ae h_bb h_ac h_tm h_pf h_fl h_es h_im h_ft h_cf h_tn h_lx h_out h_draws hR hRF hW hZ hC h
  | bar4Write x1 x2 => exact keep_execBar4Write (a1 := x1) (a2 := x2) h_qe h_pf h_cf h_out hR hW h
  | bar4Read x1 x2 => exact keep_execBar4Read (a1 := x1) (a2 := x2) h_qe h_bb h_pf h_cf h_out hR h
  | cxOpen x1 => exact keep_execCxOpen (a1 := x1) h_qe h_cx h_pm h_tm h_pf h_cf h_out hR hW hZ h
  | cxClose x1 => exact keep_execCxClose (a1 := x1) h_qe h_cx h_pm h_tm h_pf h_cf h_out hR hW hZ h
  | closeDrainEnd x1 => exact keep_execCloseDrainEnd (a1 := x1) h_qe h_cx h_pm h_tm h_pf h_ft h_cf h_out hR hW h
  | cxPark x1 => exact keep_execCxPark (a1 := x1) h_qe h_cx h_pm h_tm h_pf h_cf h_out hR hW hZ h
  | cxReopen x1 => exact keep_execCxReopen (a1 := x1) h_qe h_cx h_pm h_tm h_pf h_cf h_out hR hW hZ h
  | parkEnd x1 => exact keep_execParkEnd (a1 := x1) h_qe h_cx h_pm h_tm h_pf h_cf h_out hR hW h
  | reopenEnd x1 => exact keep_execReopenEnd (a1 := x1) h_qe h_cx h_pm h_tm h_pf h_cf h_out hR hW h
  | cxQuery x1 x2 => exact keep_execCxQuery (a1 := x1) (a2 := x2) h_qe h_cx h_pm h_tm h_pf h_cf h_out hR hZ h
  | cxSetShards x1 x2 => exact keep_execCxSetShards (a1 := x1) (a2 := x2) h_qe h_cx h_tm h_cf h_out hR hW h
  | walkerSlotGrant => exact keep_execWalkerSlotGrant h_qe h_cx h_pm h_ae h_bb h_tm h_pf h_ft h_cf h_out hR hW hZ h
  | editWaitEnd => exact keep_execEditWaitEnd h_qe h_cx h_pm h_ae h_bb h_tm h_pf h_ft h_cf h_out hR hW hZ h
  | bankGrant x1 => exact keep_execBankGrant (a1 := x1) h_qe h_cx h_pm h_ae h_bb h_tm h_pf h_ft h_cf h_out hR hW hZ h
  | bankReleaseAck x1 => exact keep_execBankReleaseAck (a1 := x1) h_qe h_cx h_pm h_ae h_bb h_tm h_pf h_ft h_cf h_out hR hW hZ h
  | attend x1 x2 => exact keep_execAttend (a1 := x1) (a2 := x2) h_qe h_cx h_pm h_ae h_bb h_ac h_tm h_pf h_ft h_cf h_out hR hW hZ h
  | draftRows x1 => exact keep_execDraftRows (a1 := x1) h_qe h_cx h_pm h_ae h_tm h_pf h_ft h_cf h_out hR hZ h
  | draftHoldExpiry x1 => exact keep_execDraftHoldExpiry (a1 := x1) h_qe h_ae h_out hR h
  | draftWaitTimeout x1 => exact keep_execDraftWaitTimeout (a1 := x1) h_qe h_ae h_out hR h
  | clause x1 x2 => exact keep_execClause (a1 := x1) (a2 := x2) h_qe h_ae h_ft h_out hR h
  | done x1 x2 => exact keep_execDone (a1 := x1) (a2 := x2) h_qe h_ae h_ft h_out hR h
  | childTimeout x1 x2 => exact keep_execChildTimeout (a1 := x1) (a2 := x2) h_qe h_ae h_out hR h
  | shardClauseSend x1 x2 => exact keep_execShardClauseSend (a1 := x1) (a2 := x2) h_qe h_cx h_pm h_ae h_bb h_ac h_tm h_pf h_ft h_cf h_tn h_lx h_out hR hW h
  | attnSlotFree => exact keep_execAttnSlotFree h_qe h_cx h_pm h_ae h_bb h_ac h_tm h_pf h_ft h_cf h_out hR hW hZ h
  | append x1 x2 => exact keep_execAppend (a1 := x1) (a2 := x2) h_qe h_cx h_pm h_ae h_bb h_tm h_pf h_ft h_cf h_out hR hW hZ h
  | refill x1 x2 => exact keep_execRefill (a1 := x1) (a2 := x2) h_qe h_cx h_pm h_ae h_bb h_tm h_pf h_ft h_cf h_out hR hW hZ h
  | pageOpWaitEnd => exact keep_execPageOpWaitEnd h_qe h_cx h_pm h_ae h_bb h_tm h_pf h_ft h_cf h_out hR hW hZ h
  | bauStoreWrite x1 x2 x3 x4 => exact keep_execBauStoreWrite (a1 := x1) (a2 := x2) (a3 := x3) (a4 := x4) h_qe h_cx h_pm h_ae h_bb h_ac h_tm h_pf h_ft h_cf h_tn h_lx h_out h_draws hR hW hZ h
  | glossBound x1 => exact keep_execGlossBound (a1 := x1) h_qe h_cx h_pm h_ae h_bb h_ac h_tm h_pf h_ft h_cf h_tn h_lx h_out h_draws hR hW hZ h
  | attendPage x1 => exact keep_execAttendPage (a1 := x1) h_qe h_cx h_pm h_ae h_bb h_ac h_tm h_pf h_ft h_cf h_tn h_lx h_out h_draws hR hW hZ h
  | appendRows x1 => exact keep_execAppendRows (a1 := x1) h_qe h_cx h_pm h_ae h_bb h_ac h_tm h_pf h_ft h_cf h_tn h_lx h_out h_draws hR hW hZ h
  | requant x1 => exact keep_execRequant (a1 := x1) h_qe h_cx h_pm h_ae h_bb h_ac h_tm h_pf h_ft h_cf h_tn h_lx h_out h_draws hR hW hZ h
  | rmsnorm x1 => exact keep_execRmsnorm (a1 := x1) h_qe h_cx h_pm h_ae h_bb h_ac h_tm h_pf h_ft h_cf h_tn h_lx h_out h_draws hR hW hZ h
  | elementwise x1 => exact keep_execElementwise (a1 := x1) h_qe h_cx h_pm h_ae h_bb h_ac h_tm h_pf h_ft h_cf h_tn h_lx h_out h_draws hR hW hZ h
  | gatherReduce x1 => exact keep_execGatherReduce (a1 := x1) h_qe h_cx h_pm h_ae h_bb h_ac h_tm h_pf h_ft h_cf h_tn h_lx h_out h_draws hR hW hZ h
  | zeroRange x1 => exact keep_execZeroRange (a1 := x1) h_qe h_cx h_pm h_ae h_bb h_ac h_tm h_pf h_ft h_cf h_tn h_lx h_out h_draws hR hW hZ h
  | permitGrant x1 => exact keep_execPermitGrant (a1 := x1) h_qe h_cx h_pm h_ae h_bb h_ac h_tm h_pf h_ft h_cf h_tn h_lx h_out h_draws hR hW hZ h
  | bauCompletion x1 x2 => exact keep_execBauCompletion (a1 := x1) (a2 := x2) h_qe h_cx h_pm h_ae h_bb h_ac h_tm h_pf h_ft h_cf h_tn h_lx h_out h_draws hR hW hZ h
  | d2dLinkRetrain x1 => exact keep_execD2dLinkRetrain (a1 := x1) h_qe h_bb h_cf h_out hR h
  | bbdOutOfService x1 => exact keep_execBbdOutOfService (a1 := x1) h_qe h_cx h_pm h_ae h_bb h_ac h_tm h_pf h_ft h_cf h_tn h_lx h_out h_draws hR hW hZ h
  | refreshDue x1 => exact keep_execRefreshDue (a1 := x1) h_bb h
  | refreshPause x1 => exact keep_execRefreshPause (a1 := x1) h_qe h_bb h_out hR h
  | refreshResume x1 x2 => exact keep_execRefreshResume (a1 := x1) (a2 := x2) h_bb hR h
  | matmul x1 => exact keep_execMatmul (a1 := x1) h_ac h
  | score x1 => exact keep_execScore (a1 := x1) h_ac h
  | fold x1 => exact keep_execFold (a1 := x1) h_ac h
  | bound x1 => exact keep_execBound (a1 := x1) h_ac h
  | conjoin x1 => exact keep_execConjoin (a1 := x1) h_ac h
  | teComplete x1 x2 => exact keep_execTeComplete (a1 := x1) (a2 := x2) h_qe h_cx h_pm h_ae h_bb h_ac h_tm h_pf h_ft h_cf h_tn h_lx h_out h_draws hR hW hZ h
  | sxTe x1 => exact keep_execSxTe (a1 := x1) h_qe h_bb h_ac h_pf h_cf h_tn h_lx h_out h_draws hR hW h
  | sxBstore x1 => exact keep_execSxBstore (a1 := x1) h_qe h_cx h_pm h_ae h_bb h_ac h_tm h_pf h_ft h_cf h_tn h_lx h_out h_draws hR hW hZ h
  | sxBau x1 => exact keep_execSxBau (a1 := x1) h_qe h_cx h_pm h_ae h_bb h_ac h_tm h_pf h_ft h_cf h_tn h_lx h_out h_draws hR hW hZ h
  | sxCopy x1 => exact keep_execSxCopy (a1 := x1) h_qe h_cx h_pm h_ae h_bb h_ac h_tm h_pf h_ft h_cf h_tn h_lx h_out h_draws hR hW hZ h
  | sxWait x1 => exact keep_execSxWait (a1 := x1) h_qe h_cx h_pm h_ae h_bb h_ac h_tm h_pf h_ft h_cf h_tn h_lx h_out h_draws hR hW hZ h
  | sxPoll x1 => exact keep_execSxPoll (a1 := x1) h_qe h_bb h_ac h_pf h_ft h_cf h_tn h_lx h_out h_draws hR hW h
  | sxSleep x1 => exact keep_execSxSleep (a1 := x1) h_qe h_bb h_ac h_pf h_ft h_cf h_tn h_lx h_out h_draws hR hW hZ h
  | sxStep x1 => exact keep_execSxStep (a1 := x1) h_qe h_bb h_ac h_pf h_ft h_cf h_tn h_lx h_out h_draws hR hW hZ h
  | sxEnd x1 => exact keep_execSxEnd (a1 := x1) h_qe h_cx h_pm h_ae h_bb h_ac h_tm h_pf h_ft h_cf h_tn h_lx h_out h_draws hR hW hZ h
  | sxTrap x1 x2 x3 x4 => exact keep_execSxTrap (a1 := x1) (a2 := x2) (a3 := x3) (a4 := x4) h_qe h_ac h_tn h_lx h_out hR h
  | contextEvent x1 x2 => exact keep_execContextEvent (a1 := x1) (a2 := x2) h_qe h_cx h_pm h_ae h_bb h_ac h_tm h_pf h_ft h_cf h_tn h_lx h_out h_draws hR hW hZ h
  | swapOut x1 => exact keep_execSwapOut (a1 := x1) h_qe h_ac h_out hR h
  | swapLoad x1 => exact keep_execSwapLoad (a1 := x1) h_qe h_cx h_pm h_ae h_bb h_ac h_tm h_pf h_ft h_cf h_tn h_lx h_out h_draws hR hW hZ h
  | jobSubmit x1 => exact keep_execJobSubmit (a1 := x1) h_qe h_ac h_tm h_pf h_cf h_tn h_lx h_out hR h
  | jobPreempt x1 => exact keep_execJobPreempt (a1 := x1) h_qe h_ac h_tm h_cf h_out hR h
  | preemptTimeout x1 => exact keep_execPreemptTimeout (a1 := x1) h_qe h_ac h_tn h_lx h_out hR h
  | jobQuery x1 => exact keep_execJobQuery (a1 := x1) h_qe h_tm h_cf h_out hR h
  | rmLoad x1 => exact keep_execRmLoad (a1 := x1) h_qe h_tm h_pf h_cf h_out hR h
  | rmUnload x1 => exact keep_execRmUnload (a1 := x1) h_qe h_ac h_tm h_cf h_out hR h
  | attnWayGrant => exact keep_execAttnWayGrant h_ae h_ac hR h
  | moveStart x1 x2 => exact keep_execMoveStart (a1 := x1) (a2 := x2) h_qe h_cx h_pm h_ae h_tm h_pf h_cf h_out hR hW h
  | moveCommit x1 => exact keep_execMoveCommit (a1 := x1) h_qe h_cx h_pm h_ae h_tm h_pf h_cf h_out hR hW h
  | moveAbandon x1 x2 => exact keep_execMoveAbandon (a1 := x1) (a2 := x2) h_qe h_cx h_pm h_ae h_tm h_pf h_cf h_out hR hW h
  | quotaSpill x1 => exact keep_execQuotaSpill (a1 := x1) h_qe h_pm h_tm h_pf h_out hR h
  | spillMarkSpill x1 => exact keep_execSpillMarkSpill (a1 := x1) h_qe h_pm h_tm h_pf h_out hR h
  | freeMarkSpill x1 => exact keep_execFreeMarkSpill (a1 := x1) h_qe h_pm h_tm h_pf h_out hR h
  | spill x1 x2 x3 x4 => exact keep_execSpill (a1 := x1) (a2 := x2) (a3 := x3) (a4 := x4) h_qe h_cx h_pm h_ae h_tm h_pf h_cf h_out hR hW h
  | compact x1 => exact keep_execCompact (a1 := x1) h_qe h_pm h_tm h_pf h_out hR h
  | extentFlush x1 => exact keep_execExtentFlush (a1 := x1) h_qe h_cx h_pm h_ae h_tm h_pf h_cf h_out hR hW h
  | driveCompletion x1 x2 => exact keep_execDriveCompletion (a1 := x1) (a2 := x2) h_qe h_cx h_pm h_ae h_tm h_pf h_cf h_out hR hW h
  | tierLinkDown x1 x2 => exact keep_execTierLinkDown (a1 := x1) (a2 := x2) h_qe h_tm h_out hR h
  | tierLinkTimeout x1 x2 => exact keep_execTierLinkTimeout (a1 := x1) (a2 := x2) h_qe h_cx h_pm h_ae h_tm h_pf h_cf h_out hR hW h
  | inboundRequest x1 x2 => exact keep_execInboundRequest (a1 := x1) (a2 := x2) h_qe h_out hR h
  | passStart x1 => exact keep_execPassStart (a1 := x1) h_power h_qe h_cx h_pm h_ae h_bb h_ac h_tm h_pf h_fl h_es h_im h_ft h_cf h_tn h_lx h_out h_draws hR hRF hW hZ hC h
  | passAbort x1 => exact keep_execPassAbort (a1 := x1) h_power h_qe h_cx h_pm h_ae h_bb h_ac h_tm h_pf h_fl h_es h_im h_ft h_cf h_tn h_lx h_out h_draws hR hRF hW hZ hC h
  | passUnitRead x1 => exact keep_execPassUnitRead (a1 := x1) h_qe h_cx h_pm h_bb h_tm h_pf h_cf h_out hR h
  | splitWrite x1 => exact keep_execSplitWrite (a1 := x1) h_power h_qe h_cx h_pm h_ae h_bb h_ac h_tm h_pf h_fl h_es h_im h_ft h_cf h_tn h_lx h_out h_draws hR hRF hW hZ hC h
  | testRead x1 => exact keep_execTestRead (a1 := x1) h_power h_qe h_cx h_pm h_ae h_bb h_ac h_tm h_pf h_fl h_es h_im h_ft h_cf h_tn h_lx h_out h_draws hR hRF hW hZ hC h
  | retireSlot x1 => exact keep_execRetireSlot (a1 := x1) h_qe h_cx h_pm h_bb h_tm h_pf h_cf h_tn h_out hR hW h
  | retireChannel x1 => exact keep_execRetireChannel (a1 := x1) h_qe h_tm h_cf h_tn h_out hR h
  | frameReceive x1 x2 => exact keep_execFrameReceive (a1 := x1) (a2 := x2) h_qe h_fl h_es h_im h_ft h_cf h_out hR h
  | pauseRepeat x1 x2 => exact keep_execPauseRepeat (a1 := x1) (a2 := x2) h_fl h
  | hello x1 x2 => exact keep_execHello (a1 := x1) (a2 := x2) h_qe h_fl h_ft h_cf h_out hR h
  | helloSend x1 => exact keep_execHelloSend (a1 := x1) h_fl h
  | pause x1 x2 => exact keep_execPause (a1 := x1) (a2 := x2) h_qe h_fl h_ft h_cf h_out hR h
  | pauseExpiry x1 x2 => exact keep_execPauseExpiry (a1 := x1) (a2 := x2) h_fl h
  | pauseWatchdog x1 x2 => exact keep_execPauseWatchdog (a1 := x1) (a2 := x2) h_qe h_fl h_cf h_out hR h
  | swapReq x1 x2 => exact keep_execSwapReq (a1 := x1) (a2 := x2) h_qe h_fl h_ft h_cf h_out hR h
  | swapAck x1 x2 => exact keep_execSwapAck (a1 := x1) (a2 := x2) h_qe h_fl h_ft h_cf h_out hR h
  | flSwapGo x1 x2 => exact keep_execFlSwapGo (a1 := x1) (a2 := x2) h_power h_qe h_cx h_pm h_ae h_bb h_ac h_tm h_pf h_fl h_es h_im h_ft h_cf h_tn h_lx h_out h_draws hR hRF hW hZ hC h
  | swapMarker x1 x2 => exact keep_execSwapMarker (a1 := x1) (a2 := x2) h_qe h_fl h_tn h_out hR h
  | swapTimeout x1 => exact keep_execSwapTimeout (a1 := x1) h_qe h_fl h_out hR h
  | portTrained x1 x2 => exact keep_execPortTrained (a1 := x1) (a2 := x2) h_qe h_fl h_tn h_out hR h
  | portTrainRetry x1 => exact keep_execPortTrainRetry (a1 := x1) hR h
  | laneFault x1 x2 => exact keep_execLaneFault (a1 := x1) (a2 := x2) h_qe h_fl h_cf h_tn h_out hR h
  | fecPeriod x1 x2 x3 => exact keep_execFecPeriod (a1 := x1) (a2 := x2) (a3 := x3) h_qe h_fl h_cf h_tn h_out hR h
  | listenDone x1 => exact keep_execListenDone (a1 := x1) h_fl h_out hR h
  | listenLimitExpiry x1 x2 => exact keep_execListenLimitExpiry (a1 := x1) (a2 := x2) h_qe h_fl h_out hR h
  | detachLimitExpiry x1 => exact keep_execDetachLimitExpiry (a1 := x1) h_qe h_fl h_out hR h
  | frameStart x1 => exact keep_execFrameStart (a1 := x1) h_qe h_ae h_fl h_es h_cf h_out hR h
  | gateInstall x1 => exact keep_execGateInstall (a1 := x1) h_power h_qe h_cx h_pm h_ae h_bb h_ac h_tm h_pf h_fl h_es h_im h_ft h_cf h_tn h_lx h_out h_draws hR hRF hW hZ hC h
  | gateInstallEffect x1 => exact keep_execGateInstallEffect (a1 := x1) h_qe h_es h_out hR h
  | gateEntryChange x1 => exact keep_execGateEntryChange (a1 := x1) hR h
  | connDropPeriod => exact keep_execConnDropPeriod h_im h
  | msg x1 x2 => exact keep_execMsg (a1 := x1) (a2 := x2) h_qe h_ae h_fl h_ft h_out hR hW h
  | write x1 x2 => exact keep_execWrite (a1 := x1) (a2 := x2) h_qe h_ae h_fl h_ft h_out hR hW h
  | readReq x1 x2 => exact keep_execReadReq (a1 := x1) (a2 := x2) h_qe h_ae h_fl h_ft h_out hR hW h
  | readResp x1 x2 => exact keep_execReadResp (a1 := x1) (a2 := x2) h_qe h_ae h_fl h_ft h_out hR hW h
  | ack x1 x2 => exact keep_execAck (a1 := x1) (a2 := x2) h_qe h_ae h_fl h_ft h_cf h_out hR hW h
  | nak x1 x2 => exact keep_execNak (a1 := x1) (a2 := x2) h_qe h_ae h_fl h_ft h_cf h_out hR hW h
  | report x1 x2 => exact keep_execReport (a1 := x1) (a2 := x2) h_qe h_ae h_fl h_ft h_out hR hW h
  | dgram x1 x2 => exact keep_execDgram (a1 := x1) (a2 := x2) h_qe h_fl h_ft h_out hR h
  | ackTimer x1 => exact keep_execAckTimer (a1 := x1) h_ft h
  | gapTimer x1 => exact keep_execGapTimer (a1 := x1) h_ft h
  | retxTimer x1 => exact keep_execRetxTimer (a1 := x1) h_qe h_ft h_cf h_out hR h
  | packetSpray x1 => exact keep_execPacketSpray (a1 := x1) h_bb h_es h_ft h_cf hR h
  | connOpen x1 => exact keep_execConnOpen (a1 := x1) h_qe h_tm h_ft h_cf h_out hR h
  | connClose x1 => exact keep_execConnClose (a1 := x1) h_qe h_tm h_ft h_cf h_out hR h
  | connQuery x1 x2 => exact keep_execConnQuery (a1 := x1) (a2 := x2) h_qe h_tm h_cf h_out hR h
  | wrPost x1 => exact keep_execWrPost (a1 := x1) h_qe h_tm h_ft h_cf h_out hR h
  | wrFire x1 => exact keep_execWrFire (a1 := x1) h_qe h_ft hR h
  | regionRegister x1 => exact keep_execRegionRegister (a1 := x1) h_qe h_tm h_ft h_cf h_tn h_out hR h
  | regionRevoke x1 => exact keep_execRegionRevoke (a1 := x1) h_qe h_tm h_ft h_cf h_out hR h
  | regionQuery x1 x2 => exact keep_execRegionQuery (a1 := x1) (a2 := x2) h_qe h_tm h_cf h_out hR h
  | recvPost x1 => exact keep_execRecvPost (a1 := x1) h_qe h_tm h_ft h_cf h_out hR h
  | recvQuery x1 => exact keep_execRecvQuery (a1 := x1) h_qe h_tm h_ft h_cf h_out hR h
  | counterSet x1 => exact keep_execCounterSet (a1 := x1) h_qe h_tm h_cf h_out hR h
  | status x1 => exact keep_execStatus (a1 := x1) h_qe h_cx h_ft h_cf h_tn h_out hR hZ h
  | routeSet x1 => exact keep_execRouteSet (a1 := x1) h_qe h_cx h_ft h_cf h_tn h_out hR hZ h
  | epochOpen x1 => exact keep_execEpochOpen (a1 := x1) h_qe h_cx h_ft h_cf h_tn h_out hR hZ h
  | epochClose x1 => exact keep_execEpochClose (a1 := x1) h_qe h_cx h_ft h_cf h_tn h_out hR hZ h
  | portFence x1 => exact keep_execPortFence (a1 := x1) h_qe h_cx h_fl h_es h_ft h_cf h_tn h_out hR hZ h
  | watchSet x1 => exact keep_execWatchSet (a1 := x1) h_qe h_cx h_ft h_cf h_tn h_out hR hZ h
  | scores x1 => exact keep_execScores (a1 := x1) h_qe h_cx h_ft h_cf h_tn h_out hR hZ h
  | fence x1 => exact keep_execFence (a1 := x1) h_qe h_cx h_pm h_ae h_bb h_ac h_tm h_pf h_ft h_cf h_tn h_lx h_out hR hW hZ h
  | drain x1 => exact keep_execDrain (a1 := x1) h_qe h_cx h_pm h_ae h_bb h_ac h_tm h_pf h_ft h_cf h_tn h_lx h_out hR hW hZ h
  | reopen x1 => exact keep_execReopen (a1 := x1) h_qe h_cx h_pm h_ae h_bb h_ac h_tm h_pf h_ft h_cf h_tn h_lx h_out hR hW hZ h
  | rehome x1 => exact keep_execRehome (a1 := x1) h_qe h_cx h_pm h_ae h_bb h_ac h_tm h_pf h_ft h_cf h_tn h_lx h_out hR hW hZ h
  | rebuildMap x1 => exact keep_execRebuildMap (a1 := x1) h_qe h_cx h_pm h_ae h_bb h_ac h_tm h_pf h_ft h_cf h_tn h_lx h_out hR hW hZ h
  | handover x1 => exact keep_execHandover (a1 := x1) h_qe h_cx h_pm h_ae h_bb h_ac h_tm h_pf h_ft h_cf h_tn h_lx h_out hR hW hZ h
  | recovery x1 => exact keep_execRecovery (a1 := x1) h_qe h_cx h_pm h_ae h_bb h_ac h_tm h_pf h_ft h_cf h_tn h_lx h_out hR hW hZ h
  | healthPeriod x1 => exact keep_execHealthPeriod (a1 := x1) h_qe h_ft h_cf h_tn h_out hR h
  | heartbeatSend => exact keep_execHeartbeatSend h_qe h_ft h_cf h_out hR h
  | heartbeatReceive x1 x2 => exact keep_execHeartbeatReceive (a1 := x1) (a2 := x2) h_qe h_ft h_cf h_out hR h
  | heartbeatPeriodEnd => exact keep_execHeartbeatPeriodEnd h_qe h_ft h_cf h_out hR h
  | offer x1 x2 => exact keep_execOffer (a1 := x1) (a2 := x2) h_qe h_cx h_pm h_tm h_pf h_ft h_cf h_out hR hW hZ h
  | accept x1 x2 => exact keep_execAccept (a1 := x1) (a2 := x2) h_qe h_cx h_pm h_ae h_bb h_tm h_pf h_ft h_cf h_out hR hW hZ h
  | refuse x1 x2 => exact keep_execRefuse (a1 := x1) (a2 := x2) h_qe h_cx h_pm h_ae h_bb h_tm h_pf h_ft h_cf h_out hR hW hZ h
  | page x1 x2 => exact keep_execPage (a1 := x1) (a2 := x2) h_qe h_cx h_pm h_tm h_pf h_ft h_cf h_out hR hW hZ h
  | commitSend x1 => exact keep_execCommitSend (a1 := x1) h_qe h_cx h_pm h_ae h_bb h_tm h_pf h_ft h_cf h_out hR hW hZ h
  | commit x1 x2 => exact keep_execCommit (a1 := x1) (a2 := x2) h_qe h_cx h_pm h_pf h_ft h_cf h_out hR hW h
  | commitAck x1 x2 => exact keep_execCommitAck (a1 := x1) (a2 := x2) h_qe h_cx h_pm h_ae h_bb h_tm h_pf h_ft h_cf h_out hR hW hZ h
  | final x1 x2 => exact keep_execFinal (a1 := x1) (a2 := x2) h_qe h_pm h_tm h_ft h_cf h_out hR h
  | abandon x1 x2 => exact keep_execAbandon (a1 := x1) (a2 := x2) h_qe h_cx h_pm h_tm h_pf h_ft h_cf h_out hR hW h
  | query x1 x2 => exact keep_execQuery (a1 := x1) (a2 := x2) h_qe h_ft h_out hR h
  | handoverTimer x1 => exact keep_execHandoverTimer (a1 := x1) h_qe h_cx h_pm h_ae h_bb h_tm h_pf h_ft h_cf h_out hR hW hZ h
  | queryTimer x1 => exact keep_execQueryTimer (a1 := x1) h_qe h_ft h_cf h_out hR h
  | sqDoorbell x1 x2 x3 => exact keep_execSqDoorbell (a1 := x1) (a2 := x2) (a3 := x3) h_power h_qe h_out hR h
  | cqDoorbell x1 x2 x3 => exact keep_execCqDoorbell (a1 := x1) (a2 := x2) (a3 := x3) h_power h_qe h_out hR h
  | descriptorFetch x1 x2 x3 => exact keep_execDescriptorFetch (a1 := x1) (a2 := x2) (a3 := x3) h_qe h_out hR h
  | completionWrite x1 x2 x3 => exact keep_execCompletionWrite (a1 := x1) (a2 := x2) (a3 := x3) h_qe h_out hR h
  | ringEnableWrite x1 => exact keep_execRingEnableWrite (a1 := x1) h_power h_qe h_cx h_pm h_ae h_bb h_ac h_tm h_pf h_fl h_es h_im h_ft h_cf h_tn h_lx h_out h_draws hR hRF hW hZ hC h
  | msixCoalesceTimer x1 x2 => exact keep_execMsixCoalesceTimer (a1 := x1) (a2 := x2) h_qe h_out h
  | eventHoldoffTimer x1 => exact keep_execEventHoldoffTimer (a1 := x1) h_qe h_out h
  | functionLevelReset => exact keep_execFunctionLevelReset h_power h_qe h_cx h_pm h_ae h_bb h_ac h_tm h_pf h_fl h_es h_im h_ft h_cf h_tn h_lx h_out hR hRF hC h
  | lxEnrol x1 x2 => exact keep_execLxEnrol (a1 := x1) (a2 := x2) h_qe h_tm h_cf h_tn h_out hR h
  | lxTransfer x1 x2 => exact keep_execLxTransfer (a1 := x1) (a2 := x2) h_qe h_tm h_cf h_tn h_out hR h
  | lxManagerSet x1 x2 => exact keep_execLxManagerSet (a1 := x1) (a2 := x2) h_qe h_tm h_cf h_tn h_out hR h
  | lxManagerClear x1 => exact keep_execLxManagerClear (a1 := x1) h_qe h_tm h_cf h_tn h_out hR h
  | lxHandover x1 x2 => exact keep_execLxHandover (a1 := x1) (a2 := x2) h_power h_qe h_cx h_pm h_ae h_bb h_ac h_tm h_pf h_fl h_es h_im h_ft h_cf h_tn h_lx h_out hR hRF hC h
  | lxFlashWrite x1 x2 => exact keep_execLxFlashWrite (a1 := x1) (a2 := x2) h_qe h_tm h_cf h_lx h_out hR h
  | lxRollback x1 => exact keep_execLxRollback (a1 := x1) h_qe h_tm h_cf h_tn h_out hR h
  | lxAnchor x1 => exact keep_execLxAnchor (a1 := x1) h_qe h_tm h_cf h_tn h_out hR h
  | lxTnRead x1 x2 x3 => exact keep_execLxTnRead (a1 := x1) (a2 := x2) (a3 := x3) h_qe h_tm h_cf h_tn h_out h_draws hR h
  | lxSupplete x1 => exact keep_execLxSupplete (a1 := x1) h_qe h_bb h_ac h_tm h_cf h_tn h_lx h_out hR h
  | lxSetActive x1 => exact keep_execLxSetActive (a1 := x1) h_qe h_tm h_cf h_lx h_out hR h
  | measuredRestart x1 => exact keep_execMeasuredRestart (a1 := x1) h_power h_qe h_tm h_pf h_cf h_lx h_out hR h
  | getChain x1 => exact keep_execGetChain (a1 := x1) h_lx h_out h
  | attest x1 => exact keep_execAttest (a1 := x1) h_lx h_out h
  | getHandover x1 => exact keep_execGetHandover (a1 := x1) h_lx h_out h
  | doeAbort => exact keep_execDoeAbort h_lx h
  | tensePeriodicCommit x1 x2 => exact keep_execTensePeriodicCommit (a1 := x1) (a2 := x2) h_qe h_tn h_lx h_out h_draws hR h
  | powerOn => exact keep_execPowerOn h_power h_qe h_cx h_pm h_ae h_bb h_ac h_tm h_pf h_fl h_es h_im h_ft h_cf h_tn h_lx h_out hR hRF hC h
  | warmReset x1 => exact keep_execWarmReset (a1 := x1) h_power h_qe h_cx h_pm h_ae h_bb h_ac h_tm h_pf h_fl h_es h_im h_ft h_cf h_tn h_lx h_out hR hRF hC h
  | nodeReset x1 => exact keep_execNodeReset (a1 := x1) h_power h_qe h_cx h_pm h_ae h_bb h_ac h_tm h_pf h_fl h_es h_im h_ft h_cf h_tn h_lx h_out h_draws hR hRF hW hZ hC h
  | startUpEnd x1 => exact keep_execStartUpEnd (a1 := x1) h_power h_qe h_cx h_pm h_ae h_bb h_ac h_tm h_pf h_fl h_es h_im h_ft h_cf h_tn h_lx h_out h_draws hR hRF hW hZ hC h
  | overvoltage x1 => exact keep_execOvervoltage (a1 := x1) h_power h_qe h_cx h_pm h_ae h_bb h_ac h_tm h_pf h_fl h_es h_im h_ft h_cf h_tn h_lx h_out hR hRF hC h
  | brownout => exact keep_execBrownout h_power h_qe h_tn h_lx h_out hR h
  | thermalTrip x1 x2 => exact keep_execThermalTrip (a1 := x1) (a2 := x2) h_power h_qe h_tn h_lx h_out hR h
  | clockLoss => exact keep_execClockLoss h_power h_qe h_tn h_lx h_out hR h
  | throttleBoundary x1 x2 => exact keep_execThrottleBoundary (a1 := x1) (a2 := x2) h_power h_qe h_tn h_lx h_out hR h
  | retainRequest x1 => exact keep_execRetainRequest (a1 := x1) h_power h_qe h_cx h_pm h_ae h_bb h_ac h_tm h_pf h_fl h_es h_im h_ft h_cf h_tn h_lx h_out h_draws hR hRF hW hZ hC h
  | retainEntryProgress => exact keep_execRetainEntryProgress h_power h_qe h_cx h_pm h_ae h_bb h_ac h_tm h_pf h_fl h_ft h_cf h_tn h_lx h_out h_draws hR hW hZ h
  | runRequest x1 => exact keep_execRunRequest (a1 := x1) h_power h_qe h_cx h_pm h_ae h_bb h_ac h_tm h_pf h_fl h_es h_im h_ft h_cf h_tn h_lx h_out h_draws hR hRF hW hZ hC h
  | wake => exact keep_execWake h_power h
  | retainExitEnd x1 => exact keep_execRetainExitEnd (a1 := x1) h_power h_qe h_cx h_pm h_ae h_bb h_ac h_tm h_pf h_fl h_es h_im h_ft h_cf h_tn h_lx h_out h_draws hR hRF hW hZ hC h
  | retainHostAccess x1 => exact keep_execRetainHostAccess (a1 := x1) h_power h_qe h_cx h_pm h_ae h_bb h_ac h_tm h_pf h_fl h_es h_im h_ft h_cf h_tn h_lx h_out h_draws hR hRF hW hZ hC h
  | perstNRise => exact keep_execPerstNRise h_power h_qe h_cx h_pm h_ae h_bb h_ac h_tm h_pf h_fl h_es h_im h_ft h_cf h_tn h_lx h_out hR hRF hZ hC h
  | tierLinkRetrained x1 x2 => exact keep_execTierLinkRetrained (a1 := x1) (a2 := x2) h_qe h_cx h_pm h_ae h_tm h_pf h_cf h_out hR hW h
  | d2dRetrainDone x1 => exact keep_execD2dRetrainDone (a1 := x1) h_qe h_cx h_pm h_ae h_bb h_ac h_tm h_pf h_ft h_cf h_tn h_lx h_out h_draws hR hW hZ h
  | thermtripRelease => exact keep_execThermtripRelease h_power h_out h
  | sxCopyComplete x1 x2 x3 => exact keep_execSxCopyComplete (a1 := x1) (a2 := x2) (a3 := x3) h_qe h_cx h_pm h_ae h_bb h_ac h_tm h_pf h_ft h_cf h_tn h_lx h_out h_draws hR hW hZ h
  | swapSaveDone x1 x2 => exact keep_execSwapSaveDone (a1 := x1) (a2 := x2) h_qe h_cx h_pm h_ae h_bb h_ac h_tm h_pf h_ft h_cf h_tn h_lx h_out h_draws hR hW hZ h
  | swapLoadDone x1 x2 => exact keep_execSwapLoadDone (a1 := x1) (a2 := x2) h_qe h_cx h_pm h_ae h_bb h_ac h_tm h_pf h_ft h_cf h_tn h_lx h_out h_draws hR hW hZ h
  | driveReadCompletion x1 x2 => exact keep_execDriveReadCompletion (a1 := x1) (a2 := x2) h_qe h_cx h_pm h_ae h_tm h_pf h_cf h_out hR hW h
  | rebuildTailRead x1 => exact keep_execRebuildTailRead (a1 := x1) h_qe h_cx h_pm h_tm h_pf h_ft h_cf h_out hR hW hZ h
  | msixUnmask x1 x2 => exact keep_execMsixUnmask (a1 := x1) (a2 := x2) h_qe h_out h

/-! ### Machine/Step.lean -/


theorem keep_State_withFetchWord {a2 : Nat} {a3 : Nat} (h_pending : UpPending P) (h : Keep P s) : Keep P (State.withFetchWord s a2 a3) := by
  unfold State.withFetchWord
  repeat' first
    | with_reducible assumption
    | fail_if_no_progress with_reducible refine keep_up_pending h_pending (keep_eta ?_)
    | split

theorem keep_step  (h_power : UpPower P) (h_qe : UpQe P) (h_cx : UpCx P) (h_pm : UpPm P) (h_ae : UpAe P) (h_bb : UpBb P) (h_ac : UpAc P) (h_tm : UpTm P) (h_pf : UpPf P) (h_fl : UpFl P) (h_es : UpEs P) (h_im : UpIm P) (h_ft : UpFt P) (h_cf : UpCf P) (h_tn : UpTn P) (h_lx : UpLx P) (h_out : UpOut P) (h_draws : UpDraws P) (h_pending : UpPending P) (hR : UpR P) (hRF : UpRF P) (hW : UpW P) (hZ : UpZ P) (hC : UpC P) (hT : UpT P) (h : Keep P s) : KeepOut P (step s) := by
  unfold step
  repeat' first
    | with_reducible assumption
    | with_reducible refine keepOut_next ?_
    | with_reducible refine keep_tick hT ?_
    | with_reducible refine keep_exec h_power h_qe h_cx h_pm h_ae h_bb h_ac h_tm h_pf h_fl h_es h_im h_ft h_cf h_tn h_lx h_out h_draws hR hRF hW hZ hC ?_
    | fail_if_no_progress with_reducible refine keep_up_pending h_pending (keep_eta ?_)
    | split

end Sys2Proof.Machine
end

