-- ==== Sys2Proof/Laws/Regs.lean ====
section
/-!
SUPPORT. Regs.lean: sparse tables, bit fields, and the register file: what a read gives after a write.
-/

namespace Sys2Proof.Machine

/-! ## Sparse tables -/

theorem mapGet_put_same {α : Type} (m : NMap α) (k : Nat) (v : α) : mapGet (mapPut m k v) k = some v := by
  induction m with
  | nil => simp [mapPut, mapGet]
  | cons p m ih =>
    obtain ⟨j, w⟩ := p
    simp only [mapPut]
    split
    · simp [mapGet]
    · split
      · simp [mapGet]
      · rw [mapGet, if_neg (by assumption), if_neg (by omega)]; exact ih

theorem mapGet_put_ne {α : Type} (m : NMap α) {k j : Nat} (v : α) (h : j ≠ k) : mapGet (mapPut m k v) j = mapGet m j := by
  induction m with
  | nil =>
    simp only [mapPut, mapGet]
    rw [if_neg (by omega)]
    split <;> rfl
  | cons p m ih =>
    obtain ⟨i, w⟩ := p
    simp only [mapPut]
    split
    · rw [mapGet, if_neg (by omega)]
      split
      · rw [mapGet, if_neg (by omega), if_pos (by omega)]
      · rfl
    · split
      · subst i
        simp only [mapGet, show ¬k = j by omega, if_false]
      · rw [mapGet, mapGet, ih]

theorem mapGet_put {α : Type} (m : NMap α) (k j : Nat) (v : α) :
    mapGet (mapPut m k v) j = if j = k then some v else mapGet m j := by
  split
  · subst j; exact mapGet_put_same m k v
  · exact mapGet_put_ne m v (by assumption)

/-- Putting keeps the order of the keys. -/
theorem mapWf_put {α : Type} (m : NMap α) (k : Nat) (v : α) (h : mapWf m = true) : mapWf (mapPut m k v) = true := by
  induction m with
  | nil => rfl
  | cons p m ih =>
    obtain ⟨j, w⟩ := p
    cases m with
    | nil => simp only [mapPut]; grind [mapWf, mapPut]
    | cons q m => obtain ⟨i, u⟩ := q; simp only [mapPut] at *; grind [mapWf, mapPut]

/-- So does changing values under their keys. -/
theorem mapWf_map {α : Type} (m : NMap α) (f : Nat × α → Nat × α) (hf : ∀ p, (f p).1 = p.1) (h : mapWf m = true) :
    mapWf (m.map f) = true := by
  induction m with
  | nil => rfl
  | cons p m ih =>
    cases m with
    | nil => rfl
    | cons q m =>
      have h1 := hf p; have h2 := hf q
      simp only [List.map_cons, mapWf, Bool.and_eq_true, decide_eq_true_eq] at *
      exact ⟨by omega, ih h.2⟩

/-! ## Bit fields -/

theorem fld_lt (n lo w : Nat) : fld n lo w < 2 ^ w := Nat.mod_lt _ (by positivity)

/-- A word with a field written: the bits below, the field, the bits above. -/
theorem setFld_eq (n lo w v : Nat) :
    setFld n lo w v = n % 2 ^ lo + 2 ^ lo * (v % 2 ^ w + 2 ^ w * (n / 2 ^ lo / 2 ^ w)) := by
  have e1 := Nat.div_add_mod n (2 ^ lo)
  have e2 := Nat.div_add_mod (n / 2 ^ lo) (2 ^ w)
  unfold setFld fld at_
  generalize n / 2 ^ lo % 2 ^ w = a at *
  generalize n / 2 ^ lo / 2 ^ w = b at *
  generalize n % 2 ^ lo = c at *
  rw [← e2, Nat.mul_add] at e1
  rw [Nat.mul_add]
  omega

theorem fld_setFld_same (n lo w v : Nat) : fld (setFld n lo w v) lo w = v % 2 ^ w := by
  have hc : n % 2 ^ lo < 2 ^ lo := Nat.mod_lt _ (by positivity)
  rw [setFld_eq, fld, Nat.add_mul_div_left _ _ (by positivity), Nat.div_eq_of_lt hc, Nat.zero_add,
    Nat.add_mul_mod_self_left, Nat.mod_mod]

/-- A field is as it was when another, below or above it, is written. -/
theorem fld_setFld_other (n lo w v lo' w' : Nat) (h : lo' + w' ≤ lo ∨ lo + w ≤ lo') :
    fld (setFld n lo w v) lo' w' = fld n lo' w' := by
  have hc : n % 2 ^ lo < 2 ^ lo := Nat.mod_lt _ (by positivity)
  rw [setFld_eq]
  unfold fld
  rcases h with h | h
  · obtain ⟨k, rfl⟩ := Nat.exists_eq_add_of_le h
    conv => rhs; rw [← Nat.div_add_mod n (2 ^ (lo' + w' + k))]
    have e : ∀ x, (2 : Nat) ^ (lo' + w' + k) * x = 2 ^ lo' * (2 ^ w' * (2 ^ k * x)) := by
      intro x; rw [pow_add, pow_add, Nat.mul_assoc, Nat.mul_assoc]
    rw [e, e, Nat.add_mul_div_left _ _ (by positivity), Nat.add_mul_mod_self_left,
      Nat.add_comm (2 ^ lo' * _), Nat.add_mul_div_left _ _ (by positivity), Nat.add_mul_mod_self_left]
  · obtain ⟨k, rfl⟩ := Nat.exists_eq_add_of_le h
    have hv : v % 2 ^ w < 2 ^ w := Nat.mod_lt _ (by positivity)
    have e : (n % 2 ^ lo + 2 ^ lo * (v % 2 ^ w + 2 ^ w * (n / 2 ^ lo / 2 ^ w))) / 2 ^ (lo + w + k) = n / 2 ^ (lo + w + k) := by
      rw [pow_add, pow_add, ← Nat.div_div_eq_div_mul, ← Nat.div_div_eq_div_mul, Nat.add_mul_div_left _ _ (by positivity),
        Nat.div_eq_of_lt hc, Nat.zero_add, Nat.add_mul_div_left _ _ (by positivity), Nat.div_eq_of_lt hv, Nat.zero_add,
        Nat.div_div_eq_div_mul, Nat.div_div_eq_div_mul, ← Nat.mul_assoc]
    rw [e]

/-! ## The register file -/

theorem regGet_setR_same (s : State) (o v : Nat) : regGet (setR s o v) o = v % 2 ^ 64 := by
  simp [regGet, setR, mapGet_put_same]

theorem regGet_setR_ne (s : State) {o p : Nat} (v : Nat) (h : p ≠ o) : regGet (setR s o v) p = regGet s p := by
  simp only [regGet, setR, mapGet_put_ne _ _ h]

theorem regGet_setF_ne (s : State) {o p : Nat} (f : Fld) (v : Nat) (h : p ≠ o) : regGet (setF s o f v) p = regGet s p :=
  regGet_setR_ne s _ h

theorem getF_setF_ne (s : State) {o p : Nat} (f g : Fld) (v : Nat) (h : p ≠ o) : getF (setF s o f v) p g = getF s p g := by
  rw [getF, regGet_setF_ne s f v h, getF]

theorem fld_mod64 (n lo w : Nat) (h : lo + w ≤ 64) : fld (n % 2 ^ 64) lo w = fld n lo w := by
  unfold fld
  obtain ⟨k, hk⟩ := Nat.exists_eq_add_of_le h
  conv => rhs; rw [← Nat.div_add_mod n (2 ^ 64)]
  generalize n % 2 ^ 64 = r
  rw [hk, pow_add, pow_add, Nat.mul_assoc, Nat.mul_assoc, Nat.add_comm, Nat.add_mul_div_left _ _ (by positivity),
    Nat.add_mul_mod_self_left]

theorem getF_setF_same (s : State) (o : Nat) (f : Fld) (v : Nat) (h : f.lo + f.w ≤ 64) :
    getF (setF s o f v) o f = v % 2 ^ f.w := by
  rw [getF, setF, regGet_setR_same, fld_mod64 _ _ _ h, fld_setFld_same]

/-- Another field of the same register. -/
theorem getF_setF_other (s : State) (o : Nat) (f g : Fld) (v : Nat) (hg : g.lo + g.w ≤ 64)
    (h : g.lo + g.w ≤ f.lo ∨ f.lo + f.w ≤ g.lo) : getF (setF s o f v) o g = getF s o g := by
  rw [getF, setF, regGet_setR_same, fld_mod64 _ _ _ hg, fld_setFld_other _ _ _ _ _ _ h, getF]

theorem getB_setB_same (s : State) (o : Nat) (f : Fld) (b : Bool) (h : f.lo + f.w ≤ 64) (hw : f.w ≠ 0) :
    getB (setB s o f b) o f = b := by
  have h2 : 2 ≤ 2 ^ f.w := by
    calc 2 = 2 ^ 1 := rfl
      _ ≤ 2 ^ f.w := Nat.pow_le_pow_right (by omega) (by omega)
  rw [getB, setB, getF_setF_same s o f _ h]
  cases b
  · simp
  · simp only [if_true]; rw [Nat.mod_eq_of_lt (by omega)]; rfl

theorem getB_setB_ne (s : State) {o p : Nat} (f g : Fld) (b : Bool) (h : p ≠ o) : getB (setB s o f b) p g = getB s p g := by
  rw [getB, setB, getF_setF_ne s f g _ h, getB]

end Sys2Proof.Machine
end

