-- ==== Sys2Proof/Laws/Memory.lean ====
section
/-!
SUPPORT. Memory.lean: GDDR7 as canonical data: what a read gives after a write, and that the canonical form is kept.
-/

namespace Sys2Proof.Machine

theorem memWf_mono {m : List Host.Cell} {i j : Nat} (h : memWfFrom j m = true) (hij : i ≤ j) : memWfFrom i m = true := by
  cases m with
  | nil => rfl
  | cons p m =>
    obtain ⟨k, v⟩ := p
    simp only [memWfFrom, Bool.and_eq_true, decide_eq_true_eq] at *
    exact ⟨⟨by omega, h.1.2⟩, h.2⟩

theorem memWf_put (m : List Host.Cell) (lo k : Nat) (v : Byte) (h : memWfFrom lo m = true) (hk : lo ≤ k) :
    memWfFrom lo (memPut m k v) = true := by
  induction m generalizing lo with
  | nil => simp only [memPut]; split <;> simp_all [memWfFrom]
  | cons p m ih =>
    obtain ⟨j, w⟩ := p
    simp only [memWfFrom, Bool.and_eq_true, decide_eq_true_eq] at h
    obtain ⟨⟨h1, h2⟩, h3⟩ := h
    simp only [memPut]
    split
    · split <;> simp_all [memWfFrom]
    · split
      · split
        · exact memWf_mono h3 (by omega)
        · subst_vars; simp_all [memWfFrom]
      · have := ih (j + 1) h3 (by omega)
        simp_all [memWfFrom]

theorem memWf_filter (m : List Host.Cell) (lo : Nat) (p : Host.Cell → Bool) (h : memWfFrom lo m = true) :
    memWfFrom lo (m.filter p) = true := by
  induction m generalizing lo with
  | nil => rfl
  | cons c m ih =>
    obtain ⟨j, w⟩ := c
    simp only [memWfFrom, Bool.and_eq_true, decide_eq_true_eq] at h
    have := ih _ h.2
    simp only [List.filter_cons]
    split
    · simp_all [memWfFrom]
    · exact memWf_mono this (by omega)

/-- Every listed place is at or above the lower bound. -/
theorem memGet_below {m : List Host.Cell} {lo k : Nat} (h : memWfFrom lo m = true) (hk : k < lo) : memGet m k = 0 := by
  cases m with
  | nil => rfl
  | cons p m =>
    obtain ⟨j, b⟩ := p
    simp only [memWfFrom, Bool.and_eq_true, decide_eq_true_eq] at h
    rw [memGet, if_neg (by omega), if_pos (by omega)]

theorem memGet_put_same (m : List Host.Cell) (lo k : Nat) (v : Byte) (h : memWfFrom lo m = true) :
    memGet (memPut m k v) k = v := by
  induction m generalizing lo with
  | nil => simp only [memPut]; split <;> simp_all [memGet]
  | cons p m ih =>
    obtain ⟨j, b⟩ := p
    simp only [memWfFrom, Bool.and_eq_true, decide_eq_true_eq] at h
    simp only [memPut]
    split
    · split
      · subst v; rw [memGet, if_neg (by omega), if_pos (by omega)]
      · simp [memGet]
    · split
      · split
        · subst v; subst j; exact memGet_below h.2 (by omega)
        · simp [memGet]
      · rw [memGet, if_neg (by omega), if_neg (by omega)]; exact ih _ h.2

theorem memGet_put_ne (m : List Host.Cell) (lo : Nat) {k j : Nat} (v : Byte) (h : memWfFrom lo m = true) (hj : j ≠ k) :
    memGet (memPut m k v) j = memGet m j := by
  induction m generalizing lo with
  | nil =>
    simp only [memPut]
    split
    · rfl
    · simp only [memGet, show ¬k = j by omega, if_false]; split <;> rfl
  | cons p m ih =>
    obtain ⟨i, b⟩ := p
    simp only [memWfFrom, Bool.and_eq_true, decide_eq_true_eq] at h
    simp only [memPut]
    split
    · split
      · rfl
      · rw [memGet, if_neg (by omega)]
        split
        · rw [memGet, if_neg (by omega), if_pos (by omega)]
        · rfl
    · split
      · subst i
        split
        · by_cases hk : j < k
          · rw [memGet_below h.2 (by omega), memGet, if_neg (by omega), if_pos hk]
          · rw [memGet, if_neg (by omega), if_neg hk]
        · simp only [memGet, show ¬k = j by omega, if_false]
      · rw [memGet, memGet, ih _ h.2]

/-- A byte written reads back: both addresses are taken through the same place. -/
theorem readByte_writeByte_same (s : State) (a : Nat) (v : Byte) (h : Memory.wf s.mem = true) (ha : a < gddrSize) :
    readByte (writeByte s a v) a = v := by
  simp only [writeByte, if_pos ha, readByte]
  exact memGet_put_same _ 0 _ _ h

/-- An address that goes to another place reads as before. -/
theorem readByte_writeByte_other (s : State) (a b : Nat) (v : Byte) (h : Memory.wf s.mem = true)
    (hp : phys s b ≠ phys s a) : readByte (writeByte s a v) b = readByte s b := by
  unfold writeByte
  split
  · simp only [readByte]
    split
    · exact memGet_put_ne _ 0 _ h hp
    · rfl
  · rfl

/-! ## What each of the operations that write registers, memory and the clock keeps -/

theorem tidy_setR : UpR Tidy := fun _ _ _ h => ⟨h.1, mapWf_put _ _ _ h.2.1, h.2.2⟩

theorem tidy_resetFields : UpRF Tidy := by
  intro s c h
  refine ⟨h.1, mapWf_map _ _ ?_ h.2.1, h.2.2⟩
  rintro ⟨o, w⟩
  dsimp only
  split <;> rfl

theorem tidy_writeByte : UpW Tidy := by
  intro s a v h
  unfold writeByte
  split
  · exact ⟨memWf_put _ _ _ _ h.1 (Nat.zero_le _), h.2⟩
  · exact h

theorem tidy_zeroWhere : UpZ Tidy := fun _ _ h => ⟨memWf_filter _ _ _ h.1, h.2⟩

theorem tidy_resetClock : UpC Tidy := by
  intro s c h
  unfold resetClock
  split
  · exact ⟨rfl, h.2.1, by simp⟩
  · exact h

theorem tidy_tick : UpT Tidy := by
  intro s h
  unfold tick
  split
  · have h1 : Tidy (countHolds s) := keep_countHolds tidy_setR h
    exact keep_countPermits (P := Tidy) (s := { countHolds s with time := (s.time + 1) % 2 ^ 64 }) (fun _ _ h => h) ⟨h1.1, h1.2.1, Nat.mod_lt _ (by positivity)⟩
  · exact h

end Sys2Proof.Machine
end

