-- ==== Sys2Proof/Laws/State.lean ====
section
/-!
SUPPORT. State.lean: what each shared update leaves alone, one lemma per field and update.
-/

set_option linter.unusedVariables false

namespace Sys2Proof.Machine

variable {s : State}

/-! `setR` -/

@[simp] theorem setR_time {a2 : Nat} {a3 : Nat} : (setR s a2 a3).time = s.time := rfl
@[simp] theorem setR_mem {a2 : Nat} {a3 : Nat} : (setR s a2 a3).mem = s.mem := rfl
@[simp] theorem setR_power {a2 : Nat} {a3 : Nat} : (setR s a2 a3).power = s.power := rfl
@[simp] theorem setR_qe {a2 : Nat} {a3 : Nat} : (setR s a2 a3).qe = s.qe := rfl
@[simp] theorem setR_cx {a2 : Nat} {a3 : Nat} : (setR s a2 a3).cx = s.cx := rfl
@[simp] theorem setR_pm {a2 : Nat} {a3 : Nat} : (setR s a2 a3).pm = s.pm := rfl
@[simp] theorem setR_ae {a2 : Nat} {a3 : Nat} : (setR s a2 a3).ae = s.ae := rfl
@[simp] theorem setR_bb {a2 : Nat} {a3 : Nat} : (setR s a2 a3).bb = s.bb := rfl
@[simp] theorem setR_ac {a2 : Nat} {a3 : Nat} : (setR s a2 a3).ac = s.ac := rfl
@[simp] theorem setR_tm {a2 : Nat} {a3 : Nat} : (setR s a2 a3).tm = s.tm := rfl
@[simp] theorem setR_pf {a2 : Nat} {a3 : Nat} : (setR s a2 a3).pf = s.pf := rfl
@[simp] theorem setR_fl {a2 : Nat} {a3 : Nat} : (setR s a2 a3).fl = s.fl := rfl
@[simp] theorem setR_es {a2 : Nat} {a3 : Nat} : (setR s a2 a3).es = s.es := rfl
@[simp] theorem setR_im {a2 : Nat} {a3 : Nat} : (setR s a2 a3).im = s.im := rfl
@[simp] theorem setR_ft {a2 : Nat} {a3 : Nat} : (setR s a2 a3).ft = s.ft := rfl
@[simp] theorem setR_cf {a2 : Nat} {a3 : Nat} : (setR s a2 a3).cf = s.cf := rfl
@[simp] theorem setR_tn {a2 : Nat} {a3 : Nat} : (setR s a2 a3).tn = s.tn := rfl
@[simp] theorem setR_lx {a2 : Nat} {a3 : Nat} : (setR s a2 a3).lx = s.lx := rfl
@[simp] theorem setR_out {a2 : Nat} {a3 : Nat} : (setR s a2 a3).out = s.out := rfl
@[simp] theorem setR_draws {a2 : Nat} {a3 : Nat} : (setR s a2 a3).draws = s.draws := rfl
@[simp] theorem setR_pending {a2 : Nat} {a3 : Nat} : (setR s a2 a3).pending = s.pending := rfl

/-! `setF` -/

@[simp] theorem setF_time {a2 : Nat} {a3 : Fld} {a4 : Nat} : (setF s a2 a3 a4).time = s.time := rfl
@[simp] theorem setF_mem {a2 : Nat} {a3 : Fld} {a4 : Nat} : (setF s a2 a3 a4).mem = s.mem := rfl
@[simp] theorem setF_power {a2 : Nat} {a3 : Fld} {a4 : Nat} : (setF s a2 a3 a4).power = s.power := rfl
@[simp] theorem setF_qe {a2 : Nat} {a3 : Fld} {a4 : Nat} : (setF s a2 a3 a4).qe = s.qe := rfl
@[simp] theorem setF_cx {a2 : Nat} {a3 : Fld} {a4 : Nat} : (setF s a2 a3 a4).cx = s.cx := rfl
@[simp] theorem setF_pm {a2 : Nat} {a3 : Fld} {a4 : Nat} : (setF s a2 a3 a4).pm = s.pm := rfl
@[simp] theorem setF_ae {a2 : Nat} {a3 : Fld} {a4 : Nat} : (setF s a2 a3 a4).ae = s.ae := rfl
@[simp] theorem setF_bb {a2 : Nat} {a3 : Fld} {a4 : Nat} : (setF s a2 a3 a4).bb = s.bb := rfl
@[simp] theorem setF_ac {a2 : Nat} {a3 : Fld} {a4 : Nat} : (setF s a2 a3 a4).ac = s.ac := rfl
@[simp] theorem setF_tm {a2 : Nat} {a3 : Fld} {a4 : Nat} : (setF s a2 a3 a4).tm = s.tm := rfl
@[simp] theorem setF_pf {a2 : Nat} {a3 : Fld} {a4 : Nat} : (setF s a2 a3 a4).pf = s.pf := rfl
@[simp] theorem setF_fl {a2 : Nat} {a3 : Fld} {a4 : Nat} : (setF s a2 a3 a4).fl = s.fl := rfl
@[simp] theorem setF_es {a2 : Nat} {a3 : Fld} {a4 : Nat} : (setF s a2 a3 a4).es = s.es := rfl
@[simp] theorem setF_im {a2 : Nat} {a3 : Fld} {a4 : Nat} : (setF s a2 a3 a4).im = s.im := rfl
@[simp] theorem setF_ft {a2 : Nat} {a3 : Fld} {a4 : Nat} : (setF s a2 a3 a4).ft = s.ft := rfl
@[simp] theorem setF_cf {a2 : Nat} {a3 : Fld} {a4 : Nat} : (setF s a2 a3 a4).cf = s.cf := rfl
@[simp] theorem setF_tn {a2 : Nat} {a3 : Fld} {a4 : Nat} : (setF s a2 a3 a4).tn = s.tn := rfl
@[simp] theorem setF_lx {a2 : Nat} {a3 : Fld} {a4 : Nat} : (setF s a2 a3 a4).lx = s.lx := rfl
@[simp] theorem setF_out {a2 : Nat} {a3 : Fld} {a4 : Nat} : (setF s a2 a3 a4).out = s.out := rfl
@[simp] theorem setF_draws {a2 : Nat} {a3 : Fld} {a4 : Nat} : (setF s a2 a3 a4).draws = s.draws := rfl
@[simp] theorem setF_pending {a2 : Nat} {a3 : Fld} {a4 : Nat} : (setF s a2 a3 a4).pending = s.pending := rfl

/-! `setB` -/

@[simp] theorem setB_time {a2 : Nat} {a3 : Fld} {a4 : Bool} : (setB s a2 a3 a4).time = s.time := rfl
@[simp] theorem setB_mem {a2 : Nat} {a3 : Fld} {a4 : Bool} : (setB s a2 a3 a4).mem = s.mem := rfl
@[simp] theorem setB_power {a2 : Nat} {a3 : Fld} {a4 : Bool} : (setB s a2 a3 a4).power = s.power := rfl
@[simp] theorem setB_qe {a2 : Nat} {a3 : Fld} {a4 : Bool} : (setB s a2 a3 a4).qe = s.qe := rfl
@[simp] theorem setB_cx {a2 : Nat} {a3 : Fld} {a4 : Bool} : (setB s a2 a3 a4).cx = s.cx := rfl
@[simp] theorem setB_pm {a2 : Nat} {a3 : Fld} {a4 : Bool} : (setB s a2 a3 a4).pm = s.pm := rfl
@[simp] theorem setB_ae {a2 : Nat} {a3 : Fld} {a4 : Bool} : (setB s a2 a3 a4).ae = s.ae := rfl
@[simp] theorem setB_bb {a2 : Nat} {a3 : Fld} {a4 : Bool} : (setB s a2 a3 a4).bb = s.bb := rfl
@[simp] theorem setB_ac {a2 : Nat} {a3 : Fld} {a4 : Bool} : (setB s a2 a3 a4).ac = s.ac := rfl
@[simp] theorem setB_tm {a2 : Nat} {a3 : Fld} {a4 : Bool} : (setB s a2 a3 a4).tm = s.tm := rfl
@[simp] theorem setB_pf {a2 : Nat} {a3 : Fld} {a4 : Bool} : (setB s a2 a3 a4).pf = s.pf := rfl
@[simp] theorem setB_fl {a2 : Nat} {a3 : Fld} {a4 : Bool} : (setB s a2 a3 a4).fl = s.fl := rfl
@[simp] theorem setB_es {a2 : Nat} {a3 : Fld} {a4 : Bool} : (setB s a2 a3 a4).es = s.es := rfl
@[simp] theorem setB_im {a2 : Nat} {a3 : Fld} {a4 : Bool} : (setB s a2 a3 a4).im = s.im := rfl
@[simp] theorem setB_ft {a2 : Nat} {a3 : Fld} {a4 : Bool} : (setB s a2 a3 a4).ft = s.ft := rfl
@[simp] theorem setB_cf {a2 : Nat} {a3 : Fld} {a4 : Bool} : (setB s a2 a3 a4).cf = s.cf := rfl
@[simp] theorem setB_tn {a2 : Nat} {a3 : Fld} {a4 : Bool} : (setB s a2 a3 a4).tn = s.tn := rfl
@[simp] theorem setB_lx {a2 : Nat} {a3 : Fld} {a4 : Bool} : (setB s a2 a3 a4).lx = s.lx := rfl
@[simp] theorem setB_out {a2 : Nat} {a3 : Fld} {a4 : Bool} : (setB s a2 a3 a4).out = s.out := rfl
@[simp] theorem setB_draws {a2 : Nat} {a3 : Fld} {a4 : Bool} : (setB s a2 a3 a4).draws = s.draws := rfl
@[simp] theorem setB_pending {a2 : Nat} {a3 : Fld} {a4 : Bool} : (setB s a2 a3 a4).pending = s.pending := rfl

/-! `bumpF` -/

@[simp] theorem bumpF_time {a2 : Nat} {a3 : Fld} {a4 : Nat} : (bumpF s a2 a3 a4).time = s.time := rfl
@[simp] theorem bumpF_mem {a2 : Nat} {a3 : Fld} {a4 : Nat} : (bumpF s a2 a3 a4).mem = s.mem := rfl
@[simp] theorem bumpF_power {a2 : Nat} {a3 : Fld} {a4 : Nat} : (bumpF s a2 a3 a4).power = s.power := rfl
@[simp] theorem bumpF_qe {a2 : Nat} {a3 : Fld} {a4 : Nat} : (bumpF s a2 a3 a4).qe = s.qe := rfl
@[simp] theorem bumpF_cx {a2 : Nat} {a3 : Fld} {a4 : Nat} : (bumpF s a2 a3 a4).cx = s.cx := rfl
@[simp] theorem bumpF_pm {a2 : Nat} {a3 : Fld} {a4 : Nat} : (bumpF s a2 a3 a4).pm = s.pm := rfl
@[simp] theorem bumpF_ae {a2 : Nat} {a3 : Fld} {a4 : Nat} : (bumpF s a2 a3 a4).ae = s.ae := rfl
@[simp] theorem bumpF_bb {a2 : Nat} {a3 : Fld} {a4 : Nat} : (bumpF s a2 a3 a4).bb = s.bb := rfl
@[simp] theorem bumpF_ac {a2 : Nat} {a3 : Fld} {a4 : Nat} : (bumpF s a2 a3 a4).ac = s.ac := rfl
@[simp] theorem bumpF_tm {a2 : Nat} {a3 : Fld} {a4 : Nat} : (bumpF s a2 a3 a4).tm = s.tm := rfl
@[simp] theorem bumpF_pf {a2 : Nat} {a3 : Fld} {a4 : Nat} : (bumpF s a2 a3 a4).pf = s.pf := rfl
@[simp] theorem bumpF_fl {a2 : Nat} {a3 : Fld} {a4 : Nat} : (bumpF s a2 a3 a4).fl = s.fl := rfl
@[simp] theorem bumpF_es {a2 : Nat} {a3 : Fld} {a4 : Nat} : (bumpF s a2 a3 a4).es = s.es := rfl
@[simp] theorem bumpF_im {a2 : Nat} {a3 : Fld} {a4 : Nat} : (bumpF s a2 a3 a4).im = s.im := rfl
@[simp] theorem bumpF_ft {a2 : Nat} {a3 : Fld} {a4 : Nat} : (bumpF s a2 a3 a4).ft = s.ft := rfl
@[simp] theorem bumpF_cf {a2 : Nat} {a3 : Fld} {a4 : Nat} : (bumpF s a2 a3 a4).cf = s.cf := rfl
@[simp] theorem bumpF_tn {a2 : Nat} {a3 : Fld} {a4 : Nat} : (bumpF s a2 a3 a4).tn = s.tn := rfl
@[simp] theorem bumpF_lx {a2 : Nat} {a3 : Fld} {a4 : Nat} : (bumpF s a2 a3 a4).lx = s.lx := rfl
@[simp] theorem bumpF_out {a2 : Nat} {a3 : Fld} {a4 : Nat} : (bumpF s a2 a3 a4).out = s.out := rfl
@[simp] theorem bumpF_draws {a2 : Nat} {a3 : Fld} {a4 : Nat} : (bumpF s a2 a3 a4).draws = s.draws := rfl
@[simp] theorem bumpF_pending {a2 : Nat} {a3 : Fld} {a4 : Nat} : (bumpF s a2 a3 a4).pending = s.pending := rfl

/-! `bumpR` -/

@[simp] theorem bumpR_time {a2 : Nat} {a3 : Nat} : (bumpR s a2 a3).time = s.time := rfl
@[simp] theorem bumpR_mem {a2 : Nat} {a3 : Nat} : (bumpR s a2 a3).mem = s.mem := rfl
@[simp] theorem bumpR_power {a2 : Nat} {a3 : Nat} : (bumpR s a2 a3).power = s.power := rfl
@[simp] theorem bumpR_qe {a2 : Nat} {a3 : Nat} : (bumpR s a2 a3).qe = s.qe := rfl
@[simp] theorem bumpR_cx {a2 : Nat} {a3 : Nat} : (bumpR s a2 a3).cx = s.cx := rfl
@[simp] theorem bumpR_pm {a2 : Nat} {a3 : Nat} : (bumpR s a2 a3).pm = s.pm := rfl
@[simp] theorem bumpR_ae {a2 : Nat} {a3 : Nat} : (bumpR s a2 a3).ae = s.ae := rfl
@[simp] theorem bumpR_bb {a2 : Nat} {a3 : Nat} : (bumpR s a2 a3).bb = s.bb := rfl
@[simp] theorem bumpR_ac {a2 : Nat} {a3 : Nat} : (bumpR s a2 a3).ac = s.ac := rfl
@[simp] theorem bumpR_tm {a2 : Nat} {a3 : Nat} : (bumpR s a2 a3).tm = s.tm := rfl
@[simp] theorem bumpR_pf {a2 : Nat} {a3 : Nat} : (bumpR s a2 a3).pf = s.pf := rfl
@[simp] theorem bumpR_fl {a2 : Nat} {a3 : Nat} : (bumpR s a2 a3).fl = s.fl := rfl
@[simp] theorem bumpR_es {a2 : Nat} {a3 : Nat} : (bumpR s a2 a3).es = s.es := rfl
@[simp] theorem bumpR_im {a2 : Nat} {a3 : Nat} : (bumpR s a2 a3).im = s.im := rfl
@[simp] theorem bumpR_ft {a2 : Nat} {a3 : Nat} : (bumpR s a2 a3).ft = s.ft := rfl
@[simp] theorem bumpR_cf {a2 : Nat} {a3 : Nat} : (bumpR s a2 a3).cf = s.cf := rfl
@[simp] theorem bumpR_tn {a2 : Nat} {a3 : Nat} : (bumpR s a2 a3).tn = s.tn := rfl
@[simp] theorem bumpR_lx {a2 : Nat} {a3 : Nat} : (bumpR s a2 a3).lx = s.lx := rfl
@[simp] theorem bumpR_out {a2 : Nat} {a3 : Nat} : (bumpR s a2 a3).out = s.out := rfl
@[simp] theorem bumpR_draws {a2 : Nat} {a3 : Nat} : (bumpR s a2 a3).draws = s.draws := rfl
@[simp] theorem bumpR_pending {a2 : Nat} {a3 : Nat} : (bumpR s a2 a3).pending = s.pending := rfl

/-! `emit` -/

@[simp] theorem emit_time {a2 : Out} : (emit s a2).time = s.time := rfl
@[simp] theorem emit_regs {a2 : Out} : (emit s a2).regs = s.regs := rfl
@[simp] theorem emit_mem {a2 : Out} : (emit s a2).mem = s.mem := rfl
@[simp] theorem emit_power {a2 : Out} : (emit s a2).power = s.power := rfl
@[simp] theorem emit_qe {a2 : Out} : (emit s a2).qe = s.qe := rfl
@[simp] theorem emit_cx {a2 : Out} : (emit s a2).cx = s.cx := rfl
@[simp] theorem emit_pm {a2 : Out} : (emit s a2).pm = s.pm := rfl
@[simp] theorem emit_ae {a2 : Out} : (emit s a2).ae = s.ae := rfl
@[simp] theorem emit_bb {a2 : Out} : (emit s a2).bb = s.bb := rfl
@[simp] theorem emit_ac {a2 : Out} : (emit s a2).ac = s.ac := rfl
@[simp] theorem emit_tm {a2 : Out} : (emit s a2).tm = s.tm := rfl
@[simp] theorem emit_pf {a2 : Out} : (emit s a2).pf = s.pf := rfl
@[simp] theorem emit_fl {a2 : Out} : (emit s a2).fl = s.fl := rfl
@[simp] theorem emit_es {a2 : Out} : (emit s a2).es = s.es := rfl
@[simp] theorem emit_im {a2 : Out} : (emit s a2).im = s.im := rfl
@[simp] theorem emit_ft {a2 : Out} : (emit s a2).ft = s.ft := rfl
@[simp] theorem emit_cf {a2 : Out} : (emit s a2).cf = s.cf := rfl
@[simp] theorem emit_tn {a2 : Out} : (emit s a2).tn = s.tn := rfl
@[simp] theorem emit_lx {a2 : Out} : (emit s a2).lx = s.lx := rfl
@[simp] theorem emit_draws {a2 : Out} : (emit s a2).draws = s.draws := rfl
@[simp] theorem emit_pending {a2 : Out} : (emit s a2).pending = s.pending := rfl

/-! `commit` -/

@[simp] theorem commit_time {a2 : Nat} : (commit s a2).time = s.time :=
  keep_commit (P := fun t => t.time = s.time) (h_qe := fun _ _ h => h) (h_tn := fun _ _ h => h) (h_out := fun _ _ h => h) (hR := fun _ _ _ h => h) rfl
@[simp] theorem commit_mem {a2 : Nat} : (commit s a2).mem = s.mem :=
  keep_commit (P := fun t => t.mem = s.mem) (h_qe := fun _ _ h => h) (h_tn := fun _ _ h => h) (h_out := fun _ _ h => h) (hR := fun _ _ _ h => h) rfl
@[simp] theorem commit_power {a2 : Nat} : (commit s a2).power = s.power :=
  keep_commit (P := fun t => t.power = s.power) (h_qe := fun _ _ h => h) (h_tn := fun _ _ h => h) (h_out := fun _ _ h => h) (hR := fun _ _ _ h => h) rfl
@[simp] theorem commit_cx {a2 : Nat} : (commit s a2).cx = s.cx :=
  keep_commit (P := fun t => t.cx = s.cx) (h_qe := fun _ _ h => h) (h_tn := fun _ _ h => h) (h_out := fun _ _ h => h) (hR := fun _ _ _ h => h) rfl
@[simp] theorem commit_pm {a2 : Nat} : (commit s a2).pm = s.pm :=
  keep_commit (P := fun t => t.pm = s.pm) (h_qe := fun _ _ h => h) (h_tn := fun _ _ h => h) (h_out := fun _ _ h => h) (hR := fun _ _ _ h => h) rfl
@[simp] theorem commit_ae {a2 : Nat} : (commit s a2).ae = s.ae :=
  keep_commit (P := fun t => t.ae = s.ae) (h_qe := fun _ _ h => h) (h_tn := fun _ _ h => h) (h_out := fun _ _ h => h) (hR := fun _ _ _ h => h) rfl
@[simp] theorem commit_bb {a2 : Nat} : (commit s a2).bb = s.bb :=
  keep_commit (P := fun t => t.bb = s.bb) (h_qe := fun _ _ h => h) (h_tn := fun _ _ h => h) (h_out := fun _ _ h => h) (hR := fun _ _ _ h => h) rfl
@[simp] theorem commit_ac {a2 : Nat} : (commit s a2).ac = s.ac :=
  keep_commit (P := fun t => t.ac = s.ac) (h_qe := fun _ _ h => h) (h_tn := fun _ _ h => h) (h_out := fun _ _ h => h) (hR := fun _ _ _ h => h) rfl
@[simp] theorem commit_tm {a2 : Nat} : (commit s a2).tm = s.tm :=
  keep_commit (P := fun t => t.tm = s.tm) (h_qe := fun _ _ h => h) (h_tn := fun _ _ h => h) (h_out := fun _ _ h => h) (hR := fun _ _ _ h => h) rfl
@[simp] theorem commit_pf {a2 : Nat} : (commit s a2).pf = s.pf :=
  keep_commit (P := fun t => t.pf = s.pf) (h_qe := fun _ _ h => h) (h_tn := fun _ _ h => h) (h_out := fun _ _ h => h) (hR := fun _ _ _ h => h) rfl
@[simp] theorem commit_fl {a2 : Nat} : (commit s a2).fl = s.fl :=
  keep_commit (P := fun t => t.fl = s.fl) (h_qe := fun _ _ h => h) (h_tn := fun _ _ h => h) (h_out := fun _ _ h => h) (hR := fun _ _ _ h => h) rfl
@[simp] theorem commit_es {a2 : Nat} : (commit s a2).es = s.es :=
  keep_commit (P := fun t => t.es = s.es) (h_qe := fun _ _ h => h) (h_tn := fun _ _ h => h) (h_out := fun _ _ h => h) (hR := fun _ _ _ h => h) rfl
@[simp] theorem commit_im {a2 : Nat} : (commit s a2).im = s.im :=
  keep_commit (P := fun t => t.im = s.im) (h_qe := fun _ _ h => h) (h_tn := fun _ _ h => h) (h_out := fun _ _ h => h) (hR := fun _ _ _ h => h) rfl
@[simp] theorem commit_ft {a2 : Nat} : (commit s a2).ft = s.ft :=
  keep_commit (P := fun t => t.ft = s.ft) (h_qe := fun _ _ h => h) (h_tn := fun _ _ h => h) (h_out := fun _ _ h => h) (hR := fun _ _ _ h => h) rfl
@[simp] theorem commit_cf {a2 : Nat} : (commit s a2).cf = s.cf :=
  keep_commit (P := fun t => t.cf = s.cf) (h_qe := fun _ _ h => h) (h_tn := fun _ _ h => h) (h_out := fun _ _ h => h) (hR := fun _ _ _ h => h) rfl
@[simp] theorem commit_lx {a2 : Nat} : (commit s a2).lx = s.lx :=
  keep_commit (P := fun t => t.lx = s.lx) (h_qe := fun _ _ h => h) (h_tn := fun _ _ h => h) (h_out := fun _ _ h => h) (hR := fun _ _ _ h => h) rfl
@[simp] theorem commit_draws {a2 : Nat} : (commit s a2).draws = s.draws :=
  keep_commit (P := fun t => t.draws = s.draws) (h_qe := fun _ _ h => h) (h_tn := fun _ _ h => h) (h_out := fun _ _ h => h) (hR := fun _ _ _ h => h) rfl
@[simp] theorem commit_pending {a2 : Nat} : (commit s a2).pending = s.pending :=
  keep_commit (P := fun t => t.pending = s.pending) (h_qe := fun _ _ h => h) (h_tn := fun _ _ h => h) (h_out := fun _ _ h => h) (hR := fun _ _ _ h => h) rfl

/-! `tally` -/

@[simp] theorem tally_time {a2 : Nat} {a3 : Nat} : (tally s a2 a3).time = s.time := rfl
@[simp] theorem tally_regs {a2 : Nat} {a3 : Nat} : (tally s a2 a3).regs = s.regs := rfl
@[simp] theorem tally_mem {a2 : Nat} {a3 : Nat} : (tally s a2 a3).mem = s.mem := rfl
@[simp] theorem tally_power {a2 : Nat} {a3 : Nat} : (tally s a2 a3).power = s.power := rfl
@[simp] theorem tally_qe {a2 : Nat} {a3 : Nat} : (tally s a2 a3).qe = s.qe := rfl
@[simp] theorem tally_cx {a2 : Nat} {a3 : Nat} : (tally s a2 a3).cx = s.cx := rfl
@[simp] theorem tally_pm {a2 : Nat} {a3 : Nat} : (tally s a2 a3).pm = s.pm := rfl
@[simp] theorem tally_ae {a2 : Nat} {a3 : Nat} : (tally s a2 a3).ae = s.ae := rfl
@[simp] theorem tally_bb {a2 : Nat} {a3 : Nat} : (tally s a2 a3).bb = s.bb := rfl
@[simp] theorem tally_ac {a2 : Nat} {a3 : Nat} : (tally s a2 a3).ac = s.ac := rfl
@[simp] theorem tally_tm {a2 : Nat} {a3 : Nat} : (tally s a2 a3).tm = s.tm := rfl
@[simp] theorem tally_pf {a2 : Nat} {a3 : Nat} : (tally s a2 a3).pf = s.pf := rfl
@[simp] theorem tally_fl {a2 : Nat} {a3 : Nat} : (tally s a2 a3).fl = s.fl := rfl
@[simp] theorem tally_es {a2 : Nat} {a3 : Nat} : (tally s a2 a3).es = s.es := rfl
@[simp] theorem tally_im {a2 : Nat} {a3 : Nat} : (tally s a2 a3).im = s.im := rfl
@[simp] theorem tally_ft {a2 : Nat} {a3 : Nat} : (tally s a2 a3).ft = s.ft := rfl
@[simp] theorem tally_tn {a2 : Nat} {a3 : Nat} : (tally s a2 a3).tn = s.tn := rfl
@[simp] theorem tally_lx {a2 : Nat} {a3 : Nat} : (tally s a2 a3).lx = s.lx := rfl
@[simp] theorem tally_out {a2 : Nat} {a3 : Nat} : (tally s a2 a3).out = s.out := rfl
@[simp] theorem tally_draws {a2 : Nat} {a3 : Nat} : (tally s a2 a3).draws = s.draws := rfl
@[simp] theorem tally_pending {a2 : Nat} {a3 : Nat} : (tally s a2 a3).pending = s.pending := rfl

/-! `raise` -/

@[simp] theorem raise_time {a2 : Nat} {a3 : Nat} {a4 : Nat} : (raise s a2 a3 a4).time = s.time :=
  keep_raise (P := fun t => t.time = s.time) (h_qe := fun _ _ h => h) (h_out := fun _ _ h => h) (hR := fun _ _ _ h => h) rfl
@[simp] theorem raise_mem {a2 : Nat} {a3 : Nat} {a4 : Nat} : (raise s a2 a3 a4).mem = s.mem :=
  keep_raise (P := fun t => t.mem = s.mem) (h_qe := fun _ _ h => h) (h_out := fun _ _ h => h) (hR := fun _ _ _ h => h) rfl
@[simp] theorem raise_power {a2 : Nat} {a3 : Nat} {a4 : Nat} : (raise s a2 a3 a4).power = s.power :=
  keep_raise (P := fun t => t.power = s.power) (h_qe := fun _ _ h => h) (h_out := fun _ _ h => h) (hR := fun _ _ _ h => h) rfl
@[simp] theorem raise_cx {a2 : Nat} {a3 : Nat} {a4 : Nat} : (raise s a2 a3 a4).cx = s.cx :=
  keep_raise (P := fun t => t.cx = s.cx) (h_qe := fun _ _ h => h) (h_out := fun _ _ h => h) (hR := fun _ _ _ h => h) rfl
@[simp] theorem raise_pm {a2 : Nat} {a3 : Nat} {a4 : Nat} : (raise s a2 a3 a4).pm = s.pm :=
  keep_raise (P := fun t => t.pm = s.pm) (h_qe := fun _ _ h => h) (h_out := fun _ _ h => h) (hR := fun _ _ _ h => h) rfl
@[simp] theorem raise_ae {a2 : Nat} {a3 : Nat} {a4 : Nat} : (raise s a2 a3 a4).ae = s.ae :=
  keep_raise (P := fun t => t.ae = s.ae) (h_qe := fun _ _ h => h) (h_out := fun _ _ h => h) (hR := fun _ _ _ h => h) rfl
@[simp] theorem raise_bb {a2 : Nat} {a3 : Nat} {a4 : Nat} : (raise s a2 a3 a4).bb = s.bb :=
  keep_raise (P := fun t => t.bb = s.bb) (h_qe := fun _ _ h => h) (h_out := fun _ _ h => h) (hR := fun _ _ _ h => h) rfl
@[simp] theorem raise_ac {a2 : Nat} {a3 : Nat} {a4 : Nat} : (raise s a2 a3 a4).ac = s.ac :=
  keep_raise (P := fun t => t.ac = s.ac) (h_qe := fun _ _ h => h) (h_out := fun _ _ h => h) (hR := fun _ _ _ h => h) rfl
@[simp] theorem raise_tm {a2 : Nat} {a3 : Nat} {a4 : Nat} : (raise s a2 a3 a4).tm = s.tm :=
  keep_raise (P := fun t => t.tm = s.tm) (h_qe := fun _ _ h => h) (h_out := fun _ _ h => h) (hR := fun _ _ _ h => h) rfl
@[simp] theorem raise_pf {a2 : Nat} {a3 : Nat} {a4 : Nat} : (raise s a2 a3 a4).pf = s.pf :=
  keep_raise (P := fun t => t.pf = s.pf) (h_qe := fun _ _ h => h) (h_out := fun _ _ h => h) (hR := fun _ _ _ h => h) rfl
@[simp] theorem raise_fl {a2 : Nat} {a3 : Nat} {a4 : Nat} : (raise s a2 a3 a4).fl = s.fl :=
  keep_raise (P := fun t => t.fl = s.fl) (h_qe := fun _ _ h => h) (h_out := fun _ _ h => h) (hR := fun _ _ _ h => h) rfl
@[simp] theorem raise_es {a2 : Nat} {a3 : Nat} {a4 : Nat} : (raise s a2 a3 a4).es = s.es :=
  keep_raise (P := fun t => t.es = s.es) (h_qe := fun _ _ h => h) (h_out := fun _ _ h => h) (hR := fun _ _ _ h => h) rfl
@[simp] theorem raise_im {a2 : Nat} {a3 : Nat} {a4 : Nat} : (raise s a2 a3 a4).im = s.im :=
  keep_raise (P := fun t => t.im = s.im) (h_qe := fun _ _ h => h) (h_out := fun _ _ h => h) (hR := fun _ _ _ h => h) rfl
@[simp] theorem raise_ft {a2 : Nat} {a3 : Nat} {a4 : Nat} : (raise s a2 a3 a4).ft = s.ft :=
  keep_raise (P := fun t => t.ft = s.ft) (h_qe := fun _ _ h => h) (h_out := fun _ _ h => h) (hR := fun _ _ _ h => h) rfl
@[simp] theorem raise_cf {a2 : Nat} {a3 : Nat} {a4 : Nat} : (raise s a2 a3 a4).cf = s.cf :=
  keep_raise (P := fun t => t.cf = s.cf) (h_qe := fun _ _ h => h) (h_out := fun _ _ h => h) (hR := fun _ _ _ h => h) rfl
@[simp] theorem raise_tn {a2 : Nat} {a3 : Nat} {a4 : Nat} : (raise s a2 a3 a4).tn = s.tn :=
  keep_raise (P := fun t => t.tn = s.tn) (h_qe := fun _ _ h => h) (h_out := fun _ _ h => h) (hR := fun _ _ _ h => h) rfl
@[simp] theorem raise_lx {a2 : Nat} {a3 : Nat} {a4 : Nat} : (raise s a2 a3 a4).lx = s.lx :=
  keep_raise (P := fun t => t.lx = s.lx) (h_qe := fun _ _ h => h) (h_out := fun _ _ h => h) (hR := fun _ _ _ h => h) rfl
@[simp] theorem raise_draws {a2 : Nat} {a3 : Nat} {a4 : Nat} : (raise s a2 a3 a4).draws = s.draws :=
  keep_raise (P := fun t => t.draws = s.draws) (h_qe := fun _ _ h => h) (h_out := fun _ _ h => h) (hR := fun _ _ _ h => h) rfl
@[simp] theorem raise_pending {a2 : Nat} {a3 : Nat} {a4 : Nat} : (raise s a2 a3 a4).pending = s.pending :=
  keep_raise (P := fun t => t.pending = s.pending) (h_qe := fun _ _ h => h) (h_out := fun _ _ h => h) (hR := fun _ _ _ h => h) rfl

/-! `raise1` -/

@[simp] theorem raise1_time {a2 : Nat} {a3 : Fld} : (raise1 s a2 a3).time = s.time :=
  keep_raise1 (P := fun t => t.time = s.time) (h_qe := fun _ _ h => h) (h_out := fun _ _ h => h) (hR := fun _ _ _ h => h) rfl
@[simp] theorem raise1_mem {a2 : Nat} {a3 : Fld} : (raise1 s a2 a3).mem = s.mem :=
  keep_raise1 (P := fun t => t.mem = s.mem) (h_qe := fun _ _ h => h) (h_out := fun _ _ h => h) (hR := fun _ _ _ h => h) rfl
@[simp] theorem raise1_power {a2 : Nat} {a3 : Fld} : (raise1 s a2 a3).power = s.power :=
  keep_raise1 (P := fun t => t.power = s.power) (h_qe := fun _ _ h => h) (h_out := fun _ _ h => h) (hR := fun _ _ _ h => h) rfl
@[simp] theorem raise1_cx {a2 : Nat} {a3 : Fld} : (raise1 s a2 a3).cx = s.cx :=
  keep_raise1 (P := fun t => t.cx = s.cx) (h_qe := fun _ _ h => h) (h_out := fun _ _ h => h) (hR := fun _ _ _ h => h) rfl
@[simp] theorem raise1_pm {a2 : Nat} {a3 : Fld} : (raise1 s a2 a3).pm = s.pm :=
  keep_raise1 (P := fun t => t.pm = s.pm) (h_qe := fun _ _ h => h) (h_out := fun _ _ h => h) (hR := fun _ _ _ h => h) rfl
@[simp] theorem raise1_ae {a2 : Nat} {a3 : Fld} : (raise1 s a2 a3).ae = s.ae :=
  keep_raise1 (P := fun t => t.ae = s.ae) (h_qe := fun _ _ h => h) (h_out := fun _ _ h => h) (hR := fun _ _ _ h => h) rfl
@[simp] theorem raise1_bb {a2 : Nat} {a3 : Fld} : (raise1 s a2 a3).bb = s.bb :=
  keep_raise1 (P := fun t => t.bb = s.bb) (h_qe := fun _ _ h => h) (h_out := fun _ _ h => h) (hR := fun _ _ _ h => h) rfl
@[simp] theorem raise1_ac {a2 : Nat} {a3 : Fld} : (raise1 s a2 a3).ac = s.ac :=
  keep_raise1 (P := fun t => t.ac = s.ac) (h_qe := fun _ _ h => h) (h_out := fun _ _ h => h) (hR := fun _ _ _ h => h) rfl
@[simp] theorem raise1_tm {a2 : Nat} {a3 : Fld} : (raise1 s a2 a3).tm = s.tm :=
  keep_raise1 (P := fun t => t.tm = s.tm) (h_qe := fun _ _ h => h) (h_out := fun _ _ h => h) (hR := fun _ _ _ h => h) rfl
@[simp] theorem raise1_pf {a2 : Nat} {a3 : Fld} : (raise1 s a2 a3).pf = s.pf :=
  keep_raise1 (P := fun t => t.pf = s.pf) (h_qe := fun _ _ h => h) (h_out := fun _ _ h => h) (hR := fun _ _ _ h => h) rfl
@[simp] theorem raise1_fl {a2 : Nat} {a3 : Fld} : (raise1 s a2 a3).fl = s.fl :=
  keep_raise1 (P := fun t => t.fl = s.fl) (h_qe := fun _ _ h => h) (h_out := fun _ _ h => h) (hR := fun _ _ _ h => h) rfl
@[simp] theorem raise1_es {a2 : Nat} {a3 : Fld} : (raise1 s a2 a3).es = s.es :=
  keep_raise1 (P := fun t => t.es = s.es) (h_qe := fun _ _ h => h) (h_out := fun _ _ h => h) (hR := fun _ _ _ h => h) rfl
@[simp] theorem raise1_im {a2 : Nat} {a3 : Fld} : (raise1 s a2 a3).im = s.im :=
  keep_raise1 (P := fun t => t.im = s.im) (h_qe := fun _ _ h => h) (h_out := fun _ _ h => h) (hR := fun _ _ _ h => h) rfl
@[simp] theorem raise1_ft {a2 : Nat} {a3 : Fld} : (raise1 s a2 a3).ft = s.ft :=
  keep_raise1 (P := fun t => t.ft = s.ft) (h_qe := fun _ _ h => h) (h_out := fun _ _ h => h) (hR := fun _ _ _ h => h) rfl
@[simp] theorem raise1_cf {a2 : Nat} {a3 : Fld} : (raise1 s a2 a3).cf = s.cf :=
  keep_raise1 (P := fun t => t.cf = s.cf) (h_qe := fun _ _ h => h) (h_out := fun _ _ h => h) (hR := fun _ _ _ h => h) rfl
@[simp] theorem raise1_tn {a2 : Nat} {a3 : Fld} : (raise1 s a2 a3).tn = s.tn :=
  keep_raise1 (P := fun t => t.tn = s.tn) (h_qe := fun _ _ h => h) (h_out := fun _ _ h => h) (hR := fun _ _ _ h => h) rfl
@[simp] theorem raise1_lx {a2 : Nat} {a3 : Fld} : (raise1 s a2 a3).lx = s.lx :=
  keep_raise1 (P := fun t => t.lx = s.lx) (h_qe := fun _ _ h => h) (h_out := fun _ _ h => h) (hR := fun _ _ _ h => h) rfl
@[simp] theorem raise1_draws {a2 : Nat} {a3 : Fld} : (raise1 s a2 a3).draws = s.draws :=
  keep_raise1 (P := fun t => t.draws = s.draws) (h_qe := fun _ _ h => h) (h_out := fun _ _ h => h) (hR := fun _ _ _ h => h) rfl
@[simp] theorem raise1_pending {a2 : Nat} {a3 : Fld} : (raise1 s a2 a3).pending = s.pending :=
  keep_raise1 (P := fun t => t.pending = s.pending) (h_qe := fun _ _ h => h) (h_out := fun _ _ h => h) (hR := fun _ _ _ h => h) rfl

/-! `raise0` -/

@[simp] theorem raise0_time {a2 : Nat} {a3 : Fld} : (raise0 s a2 a3).time = s.time :=
  keep_raise0 (P := fun t => t.time = s.time) (h_qe := fun _ _ h => h) (h_out := fun _ _ h => h) (hR := fun _ _ _ h => h) rfl
@[simp] theorem raise0_mem {a2 : Nat} {a3 : Fld} : (raise0 s a2 a3).mem = s.mem :=
  keep_raise0 (P := fun t => t.mem = s.mem) (h_qe := fun _ _ h => h) (h_out := fun _ _ h => h) (hR := fun _ _ _ h => h) rfl
@[simp] theorem raise0_power {a2 : Nat} {a3 : Fld} : (raise0 s a2 a3).power = s.power :=
  keep_raise0 (P := fun t => t.power = s.power) (h_qe := fun _ _ h => h) (h_out := fun _ _ h => h) (hR := fun _ _ _ h => h) rfl
@[simp] theorem raise0_cx {a2 : Nat} {a3 : Fld} : (raise0 s a2 a3).cx = s.cx :=
  keep_raise0 (P := fun t => t.cx = s.cx) (h_qe := fun _ _ h => h) (h_out := fun _ _ h => h) (hR := fun _ _ _ h => h) rfl
@[simp] theorem raise0_pm {a2 : Nat} {a3 : Fld} : (raise0 s a2 a3).pm = s.pm :=
  keep_raise0 (P := fun t => t.pm = s.pm) (h_qe := fun _ _ h => h) (h_out := fun _ _ h => h) (hR := fun _ _ _ h => h) rfl
@[simp] theorem raise0_ae {a2 : Nat} {a3 : Fld} : (raise0 s a2 a3).ae = s.ae :=
  keep_raise0 (P := fun t => t.ae = s.ae) (h_qe := fun _ _ h => h) (h_out := fun _ _ h => h) (hR := fun _ _ _ h => h) rfl
@[simp] theorem raise0_bb {a2 : Nat} {a3 : Fld} : (raise0 s a2 a3).bb = s.bb :=
  keep_raise0 (P := fun t => t.bb = s.bb) (h_qe := fun _ _ h => h) (h_out := fun _ _ h => h) (hR := fun _ _ _ h => h) rfl
@[simp] theorem raise0_ac {a2 : Nat} {a3 : Fld} : (raise0 s a2 a3).ac = s.ac :=
  keep_raise0 (P := fun t => t.ac = s.ac) (h_qe := fun _ _ h => h) (h_out := fun _ _ h => h) (hR := fun _ _ _ h => h) rfl
@[simp] theorem raise0_tm {a2 : Nat} {a3 : Fld} : (raise0 s a2 a3).tm = s.tm :=
  keep_raise0 (P := fun t => t.tm = s.tm) (h_qe := fun _ _ h => h) (h_out := fun _ _ h => h) (hR := fun _ _ _ h => h) rfl
@[simp] theorem raise0_pf {a2 : Nat} {a3 : Fld} : (raise0 s a2 a3).pf = s.pf :=
  keep_raise0 (P := fun t => t.pf = s.pf) (h_qe := fun _ _ h => h) (h_out := fun _ _ h => h) (hR := fun _ _ _ h => h) rfl
@[simp] theorem raise0_fl {a2 : Nat} {a3 : Fld} : (raise0 s a2 a3).fl = s.fl :=
  keep_raise0 (P := fun t => t.fl = s.fl) (h_qe := fun _ _ h => h) (h_out := fun _ _ h => h) (hR := fun _ _ _ h => h) rfl
@[simp] theorem raise0_es {a2 : Nat} {a3 : Fld} : (raise0 s a2 a3).es = s.es :=
  keep_raise0 (P := fun t => t.es = s.es) (h_qe := fun _ _ h => h) (h_out := fun _ _ h => h) (hR := fun _ _ _ h => h) rfl
@[simp] theorem raise0_im {a2 : Nat} {a3 : Fld} : (raise0 s a2 a3).im = s.im :=
  keep_raise0 (P := fun t => t.im = s.im) (h_qe := fun _ _ h => h) (h_out := fun _ _ h => h) (hR := fun _ _ _ h => h) rfl
@[simp] theorem raise0_ft {a2 : Nat} {a3 : Fld} : (raise0 s a2 a3).ft = s.ft :=
  keep_raise0 (P := fun t => t.ft = s.ft) (h_qe := fun _ _ h => h) (h_out := fun _ _ h => h) (hR := fun _ _ _ h => h) rfl
@[simp] theorem raise0_cf {a2 : Nat} {a3 : Fld} : (raise0 s a2 a3).cf = s.cf :=
  keep_raise0 (P := fun t => t.cf = s.cf) (h_qe := fun _ _ h => h) (h_out := fun _ _ h => h) (hR := fun _ _ _ h => h) rfl
@[simp] theorem raise0_tn {a2 : Nat} {a3 : Fld} : (raise0 s a2 a3).tn = s.tn :=
  keep_raise0 (P := fun t => t.tn = s.tn) (h_qe := fun _ _ h => h) (h_out := fun _ _ h => h) (hR := fun _ _ _ h => h) rfl
@[simp] theorem raise0_lx {a2 : Nat} {a3 : Fld} : (raise0 s a2 a3).lx = s.lx :=
  keep_raise0 (P := fun t => t.lx = s.lx) (h_qe := fun _ _ h => h) (h_out := fun _ _ h => h) (hR := fun _ _ _ h => h) rfl
@[simp] theorem raise0_draws {a2 : Nat} {a3 : Fld} : (raise0 s a2 a3).draws = s.draws :=
  keep_raise0 (P := fun t => t.draws = s.draws) (h_qe := fun _ _ h => h) (h_out := fun _ _ h => h) (hR := fun _ _ _ h => h) rfl
@[simp] theorem raise0_pending {a2 : Nat} {a3 : Fld} : (raise0 s a2 a3).pending = s.pending :=
  keep_raise0 (P := fun t => t.pending = s.pending) (h_qe := fun _ _ h => h) (h_out := fun _ _ h => h) (hR := fun _ _ _ h => h) rfl

/-! `raiseGs` -/

@[simp] theorem raiseGs_time {a2 : Fld} : (raiseGs s a2).time = s.time :=
  keep_raiseGs (P := fun t => t.time = s.time) (h_qe := fun _ _ h => h) (h_out := fun _ _ h => h) (hR := fun _ _ _ h => h) rfl
@[simp] theorem raiseGs_mem {a2 : Fld} : (raiseGs s a2).mem = s.mem :=
  keep_raiseGs (P := fun t => t.mem = s.mem) (h_qe := fun _ _ h => h) (h_out := fun _ _ h => h) (hR := fun _ _ _ h => h) rfl
@[simp] theorem raiseGs_power {a2 : Fld} : (raiseGs s a2).power = s.power :=
  keep_raiseGs (P := fun t => t.power = s.power) (h_qe := fun _ _ h => h) (h_out := fun _ _ h => h) (hR := fun _ _ _ h => h) rfl
@[simp] theorem raiseGs_cx {a2 : Fld} : (raiseGs s a2).cx = s.cx :=
  keep_raiseGs (P := fun t => t.cx = s.cx) (h_qe := fun _ _ h => h) (h_out := fun _ _ h => h) (hR := fun _ _ _ h => h) rfl
@[simp] theorem raiseGs_pm {a2 : Fld} : (raiseGs s a2).pm = s.pm :=
  keep_raiseGs (P := fun t => t.pm = s.pm) (h_qe := fun _ _ h => h) (h_out := fun _ _ h => h) (hR := fun _ _ _ h => h) rfl
@[simp] theorem raiseGs_ae {a2 : Fld} : (raiseGs s a2).ae = s.ae :=
  keep_raiseGs (P := fun t => t.ae = s.ae) (h_qe := fun _ _ h => h) (h_out := fun _ _ h => h) (hR := fun _ _ _ h => h) rfl
@[simp] theorem raiseGs_bb {a2 : Fld} : (raiseGs s a2).bb = s.bb :=
  keep_raiseGs (P := fun t => t.bb = s.bb) (h_qe := fun _ _ h => h) (h_out := fun _ _ h => h) (hR := fun _ _ _ h => h) rfl
@[simp] theorem raiseGs_ac {a2 : Fld} : (raiseGs s a2).ac = s.ac :=
  keep_raiseGs (P := fun t => t.ac = s.ac) (h_qe := fun _ _ h => h) (h_out := fun _ _ h => h) (hR := fun _ _ _ h => h) rfl
@[simp] theorem raiseGs_tm {a2 : Fld} : (raiseGs s a2).tm = s.tm :=
  keep_raiseGs (P := fun t => t.tm = s.tm) (h_qe := fun _ _ h => h) (h_out := fun _ _ h => h) (hR := fun _ _ _ h => h) rfl
@[simp] theorem raiseGs_pf {a2 : Fld} : (raiseGs s a2).pf = s.pf :=
  keep_raiseGs (P := fun t => t.pf = s.pf) (h_qe := fun _ _ h => h) (h_out := fun _ _ h => h) (hR := fun _ _ _ h => h) rfl
@[simp] theorem raiseGs_fl {a2 : Fld} : (raiseGs s a2).fl = s.fl :=
  keep_raiseGs (P := fun t => t.fl = s.fl) (h_qe := fun _ _ h => h) (h_out := fun _ _ h => h) (hR := fun _ _ _ h => h) rfl
@[simp] theorem raiseGs_es {a2 : Fld} : (raiseGs s a2).es = s.es :=
  keep_raiseGs (P := fun t => t.es = s.es) (h_qe := fun _ _ h => h) (h_out := fun _ _ h => h) (hR := fun _ _ _ h => h) rfl
@[simp] theorem raiseGs_im {a2 : Fld} : (raiseGs s a2).im = s.im :=
  keep_raiseGs (P := fun t => t.im = s.im) (h_qe := fun _ _ h => h) (h_out := fun _ _ h => h) (hR := fun _ _ _ h => h) rfl
@[simp] theorem raiseGs_ft {a2 : Fld} : (raiseGs s a2).ft = s.ft :=
  keep_raiseGs (P := fun t => t.ft = s.ft) (h_qe := fun _ _ h => h) (h_out := fun _ _ h => h) (hR := fun _ _ _ h => h) rfl
@[simp] theorem raiseGs_cf {a2 : Fld} : (raiseGs s a2).cf = s.cf :=
  keep_raiseGs (P := fun t => t.cf = s.cf) (h_qe := fun _ _ h => h) (h_out := fun _ _ h => h) (hR := fun _ _ _ h => h) rfl
@[simp] theorem raiseGs_tn {a2 : Fld} : (raiseGs s a2).tn = s.tn :=
  keep_raiseGs (P := fun t => t.tn = s.tn) (h_qe := fun _ _ h => h) (h_out := fun _ _ h => h) (hR := fun _ _ _ h => h) rfl
@[simp] theorem raiseGs_lx {a2 : Fld} : (raiseGs s a2).lx = s.lx :=
  keep_raiseGs (P := fun t => t.lx = s.lx) (h_qe := fun _ _ h => h) (h_out := fun _ _ h => h) (hR := fun _ _ _ h => h) rfl
@[simp] theorem raiseGs_draws {a2 : Fld} : (raiseGs s a2).draws = s.draws :=
  keep_raiseGs (P := fun t => t.draws = s.draws) (h_qe := fun _ _ h => h) (h_out := fun _ _ h => h) (hR := fun _ _ _ h => h) rfl
@[simp] theorem raiseGs_pending {a2 : Fld} : (raiseGs s a2).pending = s.pending :=
  keep_raiseGs (P := fun t => t.pending = s.pending) (h_qe := fun _ _ h => h) (h_out := fun _ _ h => h) (hR := fun _ _ _ h => h) rfl

/-! `raiseQuota` -/

@[simp] theorem raiseQuota_time  : (raiseQuota s).time = s.time :=
  keep_raiseQuota (P := fun t => t.time = s.time) (h_qe := fun _ _ h => h) (h_out := fun _ _ h => h) (hR := fun _ _ _ h => h) rfl
@[simp] theorem raiseQuota_mem  : (raiseQuota s).mem = s.mem :=
  keep_raiseQuota (P := fun t => t.mem = s.mem) (h_qe := fun _ _ h => h) (h_out := fun _ _ h => h) (hR := fun _ _ _ h => h) rfl
@[simp] theorem raiseQuota_power  : (raiseQuota s).power = s.power :=
  keep_raiseQuota (P := fun t => t.power = s.power) (h_qe := fun _ _ h => h) (h_out := fun _ _ h => h) (hR := fun _ _ _ h => h) rfl
@[simp] theorem raiseQuota_cx  : (raiseQuota s).cx = s.cx :=
  keep_raiseQuota (P := fun t => t.cx = s.cx) (h_qe := fun _ _ h => h) (h_out := fun _ _ h => h) (hR := fun _ _ _ h => h) rfl
@[simp] theorem raiseQuota_pm  : (raiseQuota s).pm = s.pm :=
  keep_raiseQuota (P := fun t => t.pm = s.pm) (h_qe := fun _ _ h => h) (h_out := fun _ _ h => h) (hR := fun _ _ _ h => h) rfl
@[simp] theorem raiseQuota_ae  : (raiseQuota s).ae = s.ae :=
  keep_raiseQuota (P := fun t => t.ae = s.ae) (h_qe := fun _ _ h => h) (h_out := fun _ _ h => h) (hR := fun _ _ _ h => h) rfl
@[simp] theorem raiseQuota_bb  : (raiseQuota s).bb = s.bb :=
  keep_raiseQuota (P := fun t => t.bb = s.bb) (h_qe := fun _ _ h => h) (h_out := fun _ _ h => h) (hR := fun _ _ _ h => h) rfl
@[simp] theorem raiseQuota_ac  : (raiseQuota s).ac = s.ac :=
  keep_raiseQuota (P := fun t => t.ac = s.ac) (h_qe := fun _ _ h => h) (h_out := fun _ _ h => h) (hR := fun _ _ _ h => h) rfl
@[simp] theorem raiseQuota_tm  : (raiseQuota s).tm = s.tm :=
  keep_raiseQuota (P := fun t => t.tm = s.tm) (h_qe := fun _ _ h => h) (h_out := fun _ _ h => h) (hR := fun _ _ _ h => h) rfl
@[simp] theorem raiseQuota_pf  : (raiseQuota s).pf = s.pf :=
  keep_raiseQuota (P := fun t => t.pf = s.pf) (h_qe := fun _ _ h => h) (h_out := fun _ _ h => h) (hR := fun _ _ _ h => h) rfl
@[simp] theorem raiseQuota_fl  : (raiseQuota s).fl = s.fl :=
  keep_raiseQuota (P := fun t => t.fl = s.fl) (h_qe := fun _ _ h => h) (h_out := fun _ _ h => h) (hR := fun _ _ _ h => h) rfl
@[simp] theorem raiseQuota_es  : (raiseQuota s).es = s.es :=
  keep_raiseQuota (P := fun t => t.es = s.es) (h_qe := fun _ _ h => h) (h_out := fun _ _ h => h) (hR := fun _ _ _ h => h) rfl
@[simp] theorem raiseQuota_im  : (raiseQuota s).im = s.im :=
  keep_raiseQuota (P := fun t => t.im = s.im) (h_qe := fun _ _ h => h) (h_out := fun _ _ h => h) (hR := fun _ _ _ h => h) rfl
@[simp] theorem raiseQuota_ft  : (raiseQuota s).ft = s.ft :=
  keep_raiseQuota (P := fun t => t.ft = s.ft) (h_qe := fun _ _ h => h) (h_out := fun _ _ h => h) (hR := fun _ _ _ h => h) rfl
@[simp] theorem raiseQuota_cf  : (raiseQuota s).cf = s.cf :=
  keep_raiseQuota (P := fun t => t.cf = s.cf) (h_qe := fun _ _ h => h) (h_out := fun _ _ h => h) (hR := fun _ _ _ h => h) rfl
@[simp] theorem raiseQuota_tn  : (raiseQuota s).tn = s.tn :=
  keep_raiseQuota (P := fun t => t.tn = s.tn) (h_qe := fun _ _ h => h) (h_out := fun _ _ h => h) (hR := fun _ _ _ h => h) rfl
@[simp] theorem raiseQuota_lx  : (raiseQuota s).lx = s.lx :=
  keep_raiseQuota (P := fun t => t.lx = s.lx) (h_qe := fun _ _ h => h) (h_out := fun _ _ h => h) (hR := fun _ _ _ h => h) rfl
@[simp] theorem raiseQuota_draws  : (raiseQuota s).draws = s.draws :=
  keep_raiseQuota (P := fun t => t.draws = s.draws) (h_qe := fun _ _ h => h) (h_out := fun _ _ h => h) (hR := fun _ _ _ h => h) rfl
@[simp] theorem raiseQuota_pending  : (raiseQuota s).pending = s.pending :=
  keep_raiseQuota (P := fun t => t.pending = s.pending) (h_qe := fun _ _ h => h) (h_out := fun _ _ h => h) (hR := fun _ _ _ h => h) rfl

/-! `logFailure` -/

@[simp] theorem logFailure_time {a2 : Failure} : (logFailure s a2).time = s.time :=
  keep_logFailure (P := fun t => t.time = s.time) (h_qe := fun _ _ h => h) (h_pf := fun _ _ h => h) (h_cf := fun _ _ h => h) (h_out := fun _ _ h => h) (hR := fun _ _ _ h => h) rfl
@[simp] theorem logFailure_mem {a2 : Failure} : (logFailure s a2).mem = s.mem :=
  keep_logFailure (P := fun t => t.mem = s.mem) (h_qe := fun _ _ h => h) (h_pf := fun _ _ h => h) (h_cf := fun _ _ h => h) (h_out := fun _ _ h => h) (hR := fun _ _ _ h => h) rfl
@[simp] theorem logFailure_power {a2 : Failure} : (logFailure s a2).power = s.power :=
  keep_logFailure (P := fun t => t.power = s.power) (h_qe := fun _ _ h => h) (h_pf := fun _ _ h => h) (h_cf := fun _ _ h => h) (h_out := fun _ _ h => h) (hR := fun _ _ _ h => h) rfl
@[simp] theorem logFailure_cx {a2 : Failure} : (logFailure s a2).cx = s.cx :=
  keep_logFailure (P := fun t => t.cx = s.cx) (h_qe := fun _ _ h => h) (h_pf := fun _ _ h => h) (h_cf := fun _ _ h => h) (h_out := fun _ _ h => h) (hR := fun _ _ _ h => h) rfl
@[simp] theorem logFailure_pm {a2 : Failure} : (logFailure s a2).pm = s.pm :=
  keep_logFailure (P := fun t => t.pm = s.pm) (h_qe := fun _ _ h => h) (h_pf := fun _ _ h => h) (h_cf := fun _ _ h => h) (h_out := fun _ _ h => h) (hR := fun _ _ _ h => h) rfl
@[simp] theorem logFailure_ae {a2 : Failure} : (logFailure s a2).ae = s.ae :=
  keep_logFailure (P := fun t => t.ae = s.ae) (h_qe := fun _ _ h => h) (h_pf := fun _ _ h => h) (h_cf := fun _ _ h => h) (h_out := fun _ _ h => h) (hR := fun _ _ _ h => h) rfl
@[simp] theorem logFailure_bb {a2 : Failure} : (logFailure s a2).bb = s.bb :=
  keep_logFailure (P := fun t => t.bb = s.bb) (h_qe := fun _ _ h => h) (h_pf := fun _ _ h => h) (h_cf := fun _ _ h => h) (h_out := fun _ _ h => h) (hR := fun _ _ _ h => h) rfl
@[simp] theorem logFailure_ac {a2 : Failure} : (logFailure s a2).ac = s.ac :=
  keep_logFailure (P := fun t => t.ac = s.ac) (h_qe := fun _ _ h => h) (h_pf := fun _ _ h => h) (h_cf := fun _ _ h => h) (h_out := fun _ _ h => h) (hR := fun _ _ _ h => h) rfl
@[simp] theorem logFailure_tm {a2 : Failure} : (logFailure s a2).tm = s.tm :=
  keep_logFailure (P := fun t => t.tm = s.tm) (h_qe := fun _ _ h => h) (h_pf := fun _ _ h => h) (h_cf := fun _ _ h => h) (h_out := fun _ _ h => h) (hR := fun _ _ _ h => h) rfl
@[simp] theorem logFailure_fl {a2 : Failure} : (logFailure s a2).fl = s.fl :=
  keep_logFailure (P := fun t => t.fl = s.fl) (h_qe := fun _ _ h => h) (h_pf := fun _ _ h => h) (h_cf := fun _ _ h => h) (h_out := fun _ _ h => h) (hR := fun _ _ _ h => h) rfl
@[simp] theorem logFailure_es {a2 : Failure} : (logFailure s a2).es = s.es :=
  keep_logFailure (P := fun t => t.es = s.es) (h_qe := fun _ _ h => h) (h_pf := fun _ _ h => h) (h_cf := fun _ _ h => h) (h_out := fun _ _ h => h) (hR := fun _ _ _ h => h) rfl
@[simp] theorem logFailure_im {a2 : Failure} : (logFailure s a2).im = s.im :=
  keep_logFailure (P := fun t => t.im = s.im) (h_qe := fun _ _ h => h) (h_pf := fun _ _ h => h) (h_cf := fun _ _ h => h) (h_out := fun _ _ h => h) (hR := fun _ _ _ h => h) rfl
@[simp] theorem logFailure_ft {a2 : Failure} : (logFailure s a2).ft = s.ft :=
  keep_logFailure (P := fun t => t.ft = s.ft) (h_qe := fun _ _ h => h) (h_pf := fun _ _ h => h) (h_cf := fun _ _ h => h) (h_out := fun _ _ h => h) (hR := fun _ _ _ h => h) rfl
@[simp] theorem logFailure_tn {a2 : Failure} : (logFailure s a2).tn = s.tn :=
  keep_logFailure (P := fun t => t.tn = s.tn) (h_qe := fun _ _ h => h) (h_pf := fun _ _ h => h) (h_cf := fun _ _ h => h) (h_out := fun _ _ h => h) (hR := fun _ _ _ h => h) rfl
@[simp] theorem logFailure_lx {a2 : Failure} : (logFailure s a2).lx = s.lx :=
  keep_logFailure (P := fun t => t.lx = s.lx) (h_qe := fun _ _ h => h) (h_pf := fun _ _ h => h) (h_cf := fun _ _ h => h) (h_out := fun _ _ h => h) (hR := fun _ _ _ h => h) rfl
@[simp] theorem logFailure_draws {a2 : Failure} : (logFailure s a2).draws = s.draws :=
  keep_logFailure (P := fun t => t.draws = s.draws) (h_qe := fun _ _ h => h) (h_pf := fun _ _ h => h) (h_cf := fun _ _ h => h) (h_out := fun _ _ h => h) (hR := fun _ _ _ h => h) rfl
@[simp] theorem logFailure_pending {a2 : Failure} : (logFailure s a2).pending = s.pending :=
  keep_logFailure (P := fun t => t.pending = s.pending) (h_qe := fun _ _ h => h) (h_pf := fun _ _ h => h) (h_cf := fun _ _ h => h) (h_out := fun _ _ h => h) (hR := fun _ _ _ h => h) rfl

/-! `complete` -/

@[simp] theorem complete_time {a2 : Completion} : (complete s a2).time = s.time :=
  keep_complete (P := fun t => t.time = s.time) (h_qe := fun _ _ h => h) (hR := fun _ _ _ h => h) rfl
@[simp] theorem complete_mem {a2 : Completion} : (complete s a2).mem = s.mem :=
  keep_complete (P := fun t => t.mem = s.mem) (h_qe := fun _ _ h => h) (hR := fun _ _ _ h => h) rfl
@[simp] theorem complete_power {a2 : Completion} : (complete s a2).power = s.power :=
  keep_complete (P := fun t => t.power = s.power) (h_qe := fun _ _ h => h) (hR := fun _ _ _ h => h) rfl
@[simp] theorem complete_cx {a2 : Completion} : (complete s a2).cx = s.cx :=
  keep_complete (P := fun t => t.cx = s.cx) (h_qe := fun _ _ h => h) (hR := fun _ _ _ h => h) rfl
@[simp] theorem complete_pm {a2 : Completion} : (complete s a2).pm = s.pm :=
  keep_complete (P := fun t => t.pm = s.pm) (h_qe := fun _ _ h => h) (hR := fun _ _ _ h => h) rfl
@[simp] theorem complete_ae {a2 : Completion} : (complete s a2).ae = s.ae :=
  keep_complete (P := fun t => t.ae = s.ae) (h_qe := fun _ _ h => h) (hR := fun _ _ _ h => h) rfl
@[simp] theorem complete_bb {a2 : Completion} : (complete s a2).bb = s.bb :=
  keep_complete (P := fun t => t.bb = s.bb) (h_qe := fun _ _ h => h) (hR := fun _ _ _ h => h) rfl
@[simp] theorem complete_ac {a2 : Completion} : (complete s a2).ac = s.ac :=
  keep_complete (P := fun t => t.ac = s.ac) (h_qe := fun _ _ h => h) (hR := fun _ _ _ h => h) rfl
@[simp] theorem complete_tm {a2 : Completion} : (complete s a2).tm = s.tm :=
  keep_complete (P := fun t => t.tm = s.tm) (h_qe := fun _ _ h => h) (hR := fun _ _ _ h => h) rfl
@[simp] theorem complete_pf {a2 : Completion} : (complete s a2).pf = s.pf :=
  keep_complete (P := fun t => t.pf = s.pf) (h_qe := fun _ _ h => h) (hR := fun _ _ _ h => h) rfl
@[simp] theorem complete_fl {a2 : Completion} : (complete s a2).fl = s.fl :=
  keep_complete (P := fun t => t.fl = s.fl) (h_qe := fun _ _ h => h) (hR := fun _ _ _ h => h) rfl
@[simp] theorem complete_es {a2 : Completion} : (complete s a2).es = s.es :=
  keep_complete (P := fun t => t.es = s.es) (h_qe := fun _ _ h => h) (hR := fun _ _ _ h => h) rfl
@[simp] theorem complete_im {a2 : Completion} : (complete s a2).im = s.im :=
  keep_complete (P := fun t => t.im = s.im) (h_qe := fun _ _ h => h) (hR := fun _ _ _ h => h) rfl
@[simp] theorem complete_ft {a2 : Completion} : (complete s a2).ft = s.ft :=
  keep_complete (P := fun t => t.ft = s.ft) (h_qe := fun _ _ h => h) (hR := fun _ _ _ h => h) rfl
@[simp] theorem complete_cf {a2 : Completion} : (complete s a2).cf = s.cf :=
  keep_complete (P := fun t => t.cf = s.cf) (h_qe := fun _ _ h => h) (hR := fun _ _ _ h => h) rfl
@[simp] theorem complete_tn {a2 : Completion} : (complete s a2).tn = s.tn :=
  keep_complete (P := fun t => t.tn = s.tn) (h_qe := fun _ _ h => h) (hR := fun _ _ _ h => h) rfl
@[simp] theorem complete_lx {a2 : Completion} : (complete s a2).lx = s.lx :=
  keep_complete (P := fun t => t.lx = s.lx) (h_qe := fun _ _ h => h) (hR := fun _ _ _ h => h) rfl
@[simp] theorem complete_out {a2 : Completion} : (complete s a2).out = s.out :=
  keep_complete (P := fun t => t.out = s.out) (h_qe := fun _ _ h => h) (hR := fun _ _ _ h => h) rfl
@[simp] theorem complete_draws {a2 : Completion} : (complete s a2).draws = s.draws :=
  keep_complete (P := fun t => t.draws = s.draws) (h_qe := fun _ _ h => h) (hR := fun _ _ _ h => h) rfl
@[simp] theorem complete_pending {a2 : Completion} : (complete s a2).pending = s.pending :=
  keep_complete (P := fun t => t.pending = s.pending) (h_qe := fun _ _ h => h) (hR := fun _ _ _ h => h) rfl

/-! `finish` -/

@[simp] theorem finish_time {a2 : CmdRef} {a3 : Nat} : (finish s a2 a3).time = s.time :=
  keep_finish (P := fun t => t.time = s.time) (h_qe := fun _ _ h => h) (hR := fun _ _ _ h => h) rfl
@[simp] theorem finish_mem {a2 : CmdRef} {a3 : Nat} : (finish s a2 a3).mem = s.mem :=
  keep_finish (P := fun t => t.mem = s.mem) (h_qe := fun _ _ h => h) (hR := fun _ _ _ h => h) rfl
@[simp] theorem finish_power {a2 : CmdRef} {a3 : Nat} : (finish s a2 a3).power = s.power :=
  keep_finish (P := fun t => t.power = s.power) (h_qe := fun _ _ h => h) (hR := fun _ _ _ h => h) rfl
@[simp] theorem finish_cx {a2 : CmdRef} {a3 : Nat} : (finish s a2 a3).cx = s.cx :=
  keep_finish (P := fun t => t.cx = s.cx) (h_qe := fun _ _ h => h) (hR := fun _ _ _ h => h) rfl
@[simp] theorem finish_pm {a2 : CmdRef} {a3 : Nat} : (finish s a2 a3).pm = s.pm :=
  keep_finish (P := fun t => t.pm = s.pm) (h_qe := fun _ _ h => h) (hR := fun _ _ _ h => h) rfl
@[simp] theorem finish_ae {a2 : CmdRef} {a3 : Nat} : (finish s a2 a3).ae = s.ae :=
  keep_finish (P := fun t => t.ae = s.ae) (h_qe := fun _ _ h => h) (hR := fun _ _ _ h => h) rfl
@[simp] theorem finish_bb {a2 : CmdRef} {a3 : Nat} : (finish s a2 a3).bb = s.bb :=
  keep_finish (P := fun t => t.bb = s.bb) (h_qe := fun _ _ h => h) (hR := fun _ _ _ h => h) rfl
@[simp] theorem finish_ac {a2 : CmdRef} {a3 : Nat} : (finish s a2 a3).ac = s.ac :=
  keep_finish (P := fun t => t.ac = s.ac) (h_qe := fun _ _ h => h) (hR := fun _ _ _ h => h) rfl
@[simp] theorem finish_tm {a2 : CmdRef} {a3 : Nat} : (finish s a2 a3).tm = s.tm :=
  keep_finish (P := fun t => t.tm = s.tm) (h_qe := fun _ _ h => h) (hR := fun _ _ _ h => h) rfl
@[simp] theorem finish_pf {a2 : CmdRef} {a3 : Nat} : (finish s a2 a3).pf = s.pf :=
  keep_finish (P := fun t => t.pf = s.pf) (h_qe := fun _ _ h => h) (hR := fun _ _ _ h => h) rfl
@[simp] theorem finish_fl {a2 : CmdRef} {a3 : Nat} : (finish s a2 a3).fl = s.fl :=
  keep_finish (P := fun t => t.fl = s.fl) (h_qe := fun _ _ h => h) (hR := fun _ _ _ h => h) rfl
@[simp] theorem finish_es {a2 : CmdRef} {a3 : Nat} : (finish s a2 a3).es = s.es :=
  keep_finish (P := fun t => t.es = s.es) (h_qe := fun _ _ h => h) (hR := fun _ _ _ h => h) rfl
@[simp] theorem finish_im {a2 : CmdRef} {a3 : Nat} : (finish s a2 a3).im = s.im :=
  keep_finish (P := fun t => t.im = s.im) (h_qe := fun _ _ h => h) (hR := fun _ _ _ h => h) rfl
@[simp] theorem finish_ft {a2 : CmdRef} {a3 : Nat} : (finish s a2 a3).ft = s.ft :=
  keep_finish (P := fun t => t.ft = s.ft) (h_qe := fun _ _ h => h) (hR := fun _ _ _ h => h) rfl
@[simp] theorem finish_cf {a2 : CmdRef} {a3 : Nat} : (finish s a2 a3).cf = s.cf :=
  keep_finish (P := fun t => t.cf = s.cf) (h_qe := fun _ _ h => h) (hR := fun _ _ _ h => h) rfl
@[simp] theorem finish_tn {a2 : CmdRef} {a3 : Nat} : (finish s a2 a3).tn = s.tn :=
  keep_finish (P := fun t => t.tn = s.tn) (h_qe := fun _ _ h => h) (hR := fun _ _ _ h => h) rfl
@[simp] theorem finish_lx {a2 : CmdRef} {a3 : Nat} : (finish s a2 a3).lx = s.lx :=
  keep_finish (P := fun t => t.lx = s.lx) (h_qe := fun _ _ h => h) (hR := fun _ _ _ h => h) rfl
@[simp] theorem finish_out {a2 : CmdRef} {a3 : Nat} : (finish s a2 a3).out = s.out :=
  keep_finish (P := fun t => t.out = s.out) (h_qe := fun _ _ h => h) (hR := fun _ _ _ h => h) rfl
@[simp] theorem finish_draws {a2 : CmdRef} {a3 : Nat} : (finish s a2 a3).draws = s.draws :=
  keep_finish (P := fun t => t.draws = s.draws) (h_qe := fun _ _ h => h) (hR := fun _ _ _ h => h) rfl
@[simp] theorem finish_pending {a2 : CmdRef} {a3 : Nat} : (finish s a2 a3).pending = s.pending :=
  keep_finish (P := fun t => t.pending = s.pending) (h_qe := fun _ _ h => h) (hR := fun _ _ _ h => h) rfl

/-! `completeWith` -/

@[simp] theorem completeWith_time {a2 : CmdRef} {a3 : Nat} {a4 : Nat} : (completeWith s a2 a3 a4).time = s.time :=
  keep_completeWith (P := fun t => t.time = s.time) (h_qe := fun _ _ h => h) (hR := fun _ _ _ h => h) rfl
@[simp] theorem completeWith_mem {a2 : CmdRef} {a3 : Nat} {a4 : Nat} : (completeWith s a2 a3 a4).mem = s.mem :=
  keep_completeWith (P := fun t => t.mem = s.mem) (h_qe := fun _ _ h => h) (hR := fun _ _ _ h => h) rfl
@[simp] theorem completeWith_power {a2 : CmdRef} {a3 : Nat} {a4 : Nat} : (completeWith s a2 a3 a4).power = s.power :=
  keep_completeWith (P := fun t => t.power = s.power) (h_qe := fun _ _ h => h) (hR := fun _ _ _ h => h) rfl
@[simp] theorem completeWith_cx {a2 : CmdRef} {a3 : Nat} {a4 : Nat} : (completeWith s a2 a3 a4).cx = s.cx :=
  keep_completeWith (P := fun t => t.cx = s.cx) (h_qe := fun _ _ h => h) (hR := fun _ _ _ h => h) rfl
@[simp] theorem completeWith_pm {a2 : CmdRef} {a3 : Nat} {a4 : Nat} : (completeWith s a2 a3 a4).pm = s.pm :=
  keep_completeWith (P := fun t => t.pm = s.pm) (h_qe := fun _ _ h => h) (hR := fun _ _ _ h => h) rfl
@[simp] theorem completeWith_ae {a2 : CmdRef} {a3 : Nat} {a4 : Nat} : (completeWith s a2 a3 a4).ae = s.ae :=
  keep_completeWith (P := fun t => t.ae = s.ae) (h_qe := fun _ _ h => h) (hR := fun _ _ _ h => h) rfl
@[simp] theorem completeWith_bb {a2 : CmdRef} {a3 : Nat} {a4 : Nat} : (completeWith s a2 a3 a4).bb = s.bb :=
  keep_completeWith (P := fun t => t.bb = s.bb) (h_qe := fun _ _ h => h) (hR := fun _ _ _ h => h) rfl
@[simp] theorem completeWith_ac {a2 : CmdRef} {a3 : Nat} {a4 : Nat} : (completeWith s a2 a3 a4).ac = s.ac :=
  keep_completeWith (P := fun t => t.ac = s.ac) (h_qe := fun _ _ h => h) (hR := fun _ _ _ h => h) rfl
@[simp] theorem completeWith_tm {a2 : CmdRef} {a3 : Nat} {a4 : Nat} : (completeWith s a2 a3 a4).tm = s.tm :=
  keep_completeWith (P := fun t => t.tm = s.tm) (h_qe := fun _ _ h => h) (hR := fun _ _ _ h => h) rfl
@[simp] theorem completeWith_pf {a2 : CmdRef} {a3 : Nat} {a4 : Nat} : (completeWith s a2 a3 a4).pf = s.pf :=
  keep_completeWith (P := fun t => t.pf = s.pf) (h_qe := fun _ _ h => h) (hR := fun _ _ _ h => h) rfl
@[simp] theorem completeWith_fl {a2 : CmdRef} {a3 : Nat} {a4 : Nat} : (completeWith s a2 a3 a4).fl = s.fl :=
  keep_completeWith (P := fun t => t.fl = s.fl) (h_qe := fun _ _ h => h) (hR := fun _ _ _ h => h) rfl
@[simp] theorem completeWith_es {a2 : CmdRef} {a3 : Nat} {a4 : Nat} : (completeWith s a2 a3 a4).es = s.es :=
  keep_completeWith (P := fun t => t.es = s.es) (h_qe := fun _ _ h => h) (hR := fun _ _ _ h => h) rfl
@[simp] theorem completeWith_im {a2 : CmdRef} {a3 : Nat} {a4 : Nat} : (completeWith s a2 a3 a4).im = s.im :=
  keep_completeWith (P := fun t => t.im = s.im) (h_qe := fun _ _ h => h) (hR := fun _ _ _ h => h) rfl
@[simp] theorem completeWith_ft {a2 : CmdRef} {a3 : Nat} {a4 : Nat} : (completeWith s a2 a3 a4).ft = s.ft :=
  keep_completeWith (P := fun t => t.ft = s.ft) (h_qe := fun _ _ h => h) (hR := fun _ _ _ h => h) rfl
@[simp] theorem completeWith_cf {a2 : CmdRef} {a3 : Nat} {a4 : Nat} : (completeWith s a2 a3 a4).cf = s.cf :=
  keep_completeWith (P := fun t => t.cf = s.cf) (h_qe := fun _ _ h => h) (hR := fun _ _ _ h => h) rfl
@[simp] theorem completeWith_tn {a2 : CmdRef} {a3 : Nat} {a4 : Nat} : (completeWith s a2 a3 a4).tn = s.tn :=
  keep_completeWith (P := fun t => t.tn = s.tn) (h_qe := fun _ _ h => h) (hR := fun _ _ _ h => h) rfl
@[simp] theorem completeWith_lx {a2 : CmdRef} {a3 : Nat} {a4 : Nat} : (completeWith s a2 a3 a4).lx = s.lx :=
  keep_completeWith (P := fun t => t.lx = s.lx) (h_qe := fun _ _ h => h) (hR := fun _ _ _ h => h) rfl
@[simp] theorem completeWith_out {a2 : CmdRef} {a3 : Nat} {a4 : Nat} : (completeWith s a2 a3 a4).out = s.out :=
  keep_completeWith (P := fun t => t.out = s.out) (h_qe := fun _ _ h => h) (hR := fun _ _ _ h => h) rfl
@[simp] theorem completeWith_draws {a2 : CmdRef} {a3 : Nat} {a4 : Nat} : (completeWith s a2 a3 a4).draws = s.draws :=
  keep_completeWith (P := fun t => t.draws = s.draws) (h_qe := fun _ _ h => h) (hR := fun _ _ _ h => h) rfl
@[simp] theorem completeWith_pending {a2 : CmdRef} {a3 : Nat} {a4 : Nat} : (completeWith s a2 a3 a4).pending = s.pending :=
  keep_completeWith (P := fun t => t.pending = s.pending) (h_qe := fun _ _ h => h) (hR := fun _ _ _ h => h) rfl

/-! `sweepUnknown` -/

@[simp] theorem sweepUnknown_time {a1 : Nat} {a2 : Nat} {a3 : Nat} : (sweepUnknown a1 a2 a3 s).time = s.time :=
  keep_sweepUnknown (P := fun t => t.time = s.time) (h_qe := fun _ _ h => h) (hR := fun _ _ _ h => h) rfl
@[simp] theorem sweepUnknown_mem {a1 : Nat} {a2 : Nat} {a3 : Nat} : (sweepUnknown a1 a2 a3 s).mem = s.mem :=
  keep_sweepUnknown (P := fun t => t.mem = s.mem) (h_qe := fun _ _ h => h) (hR := fun _ _ _ h => h) rfl
@[simp] theorem sweepUnknown_power {a1 : Nat} {a2 : Nat} {a3 : Nat} : (sweepUnknown a1 a2 a3 s).power = s.power :=
  keep_sweepUnknown (P := fun t => t.power = s.power) (h_qe := fun _ _ h => h) (hR := fun _ _ _ h => h) rfl
@[simp] theorem sweepUnknown_cx {a1 : Nat} {a2 : Nat} {a3 : Nat} : (sweepUnknown a1 a2 a3 s).cx = s.cx :=
  keep_sweepUnknown (P := fun t => t.cx = s.cx) (h_qe := fun _ _ h => h) (hR := fun _ _ _ h => h) rfl
@[simp] theorem sweepUnknown_pm {a1 : Nat} {a2 : Nat} {a3 : Nat} : (sweepUnknown a1 a2 a3 s).pm = s.pm :=
  keep_sweepUnknown (P := fun t => t.pm = s.pm) (h_qe := fun _ _ h => h) (hR := fun _ _ _ h => h) rfl
@[simp] theorem sweepUnknown_ae {a1 : Nat} {a2 : Nat} {a3 : Nat} : (sweepUnknown a1 a2 a3 s).ae = s.ae :=
  keep_sweepUnknown (P := fun t => t.ae = s.ae) (h_qe := fun _ _ h => h) (hR := fun _ _ _ h => h) rfl
@[simp] theorem sweepUnknown_bb {a1 : Nat} {a2 : Nat} {a3 : Nat} : (sweepUnknown a1 a2 a3 s).bb = s.bb :=
  keep_sweepUnknown (P := fun t => t.bb = s.bb) (h_qe := fun _ _ h => h) (hR := fun _ _ _ h => h) rfl
@[simp] theorem sweepUnknown_ac {a1 : Nat} {a2 : Nat} {a3 : Nat} : (sweepUnknown a1 a2 a3 s).ac = s.ac :=
  keep_sweepUnknown (P := fun t => t.ac = s.ac) (h_qe := fun _ _ h => h) (hR := fun _ _ _ h => h) rfl
@[simp] theorem sweepUnknown_tm {a1 : Nat} {a2 : Nat} {a3 : Nat} : (sweepUnknown a1 a2 a3 s).tm = s.tm :=
  keep_sweepUnknown (P := fun t => t.tm = s.tm) (h_qe := fun _ _ h => h) (hR := fun _ _ _ h => h) rfl
@[simp] theorem sweepUnknown_pf {a1 : Nat} {a2 : Nat} {a3 : Nat} : (sweepUnknown a1 a2 a3 s).pf = s.pf :=
  keep_sweepUnknown (P := fun t => t.pf = s.pf) (h_qe := fun _ _ h => h) (hR := fun _ _ _ h => h) rfl
@[simp] theorem sweepUnknown_fl {a1 : Nat} {a2 : Nat} {a3 : Nat} : (sweepUnknown a1 a2 a3 s).fl = s.fl :=
  keep_sweepUnknown (P := fun t => t.fl = s.fl) (h_qe := fun _ _ h => h) (hR := fun _ _ _ h => h) rfl
@[simp] theorem sweepUnknown_es {a1 : Nat} {a2 : Nat} {a3 : Nat} : (sweepUnknown a1 a2 a3 s).es = s.es :=
  keep_sweepUnknown (P := fun t => t.es = s.es) (h_qe := fun _ _ h => h) (hR := fun _ _ _ h => h) rfl
@[simp] theorem sweepUnknown_im {a1 : Nat} {a2 : Nat} {a3 : Nat} : (sweepUnknown a1 a2 a3 s).im = s.im :=
  keep_sweepUnknown (P := fun t => t.im = s.im) (h_qe := fun _ _ h => h) (hR := fun _ _ _ h => h) rfl
@[simp] theorem sweepUnknown_ft {a1 : Nat} {a2 : Nat} {a3 : Nat} : (sweepUnknown a1 a2 a3 s).ft = s.ft :=
  keep_sweepUnknown (P := fun t => t.ft = s.ft) (h_qe := fun _ _ h => h) (hR := fun _ _ _ h => h) rfl
@[simp] theorem sweepUnknown_cf {a1 : Nat} {a2 : Nat} {a3 : Nat} : (sweepUnknown a1 a2 a3 s).cf = s.cf :=
  keep_sweepUnknown (P := fun t => t.cf = s.cf) (h_qe := fun _ _ h => h) (hR := fun _ _ _ h => h) rfl
@[simp] theorem sweepUnknown_tn {a1 : Nat} {a2 : Nat} {a3 : Nat} : (sweepUnknown a1 a2 a3 s).tn = s.tn :=
  keep_sweepUnknown (P := fun t => t.tn = s.tn) (h_qe := fun _ _ h => h) (hR := fun _ _ _ h => h) rfl
@[simp] theorem sweepUnknown_lx {a1 : Nat} {a2 : Nat} {a3 : Nat} : (sweepUnknown a1 a2 a3 s).lx = s.lx :=
  keep_sweepUnknown (P := fun t => t.lx = s.lx) (h_qe := fun _ _ h => h) (hR := fun _ _ _ h => h) rfl
@[simp] theorem sweepUnknown_out {a1 : Nat} {a2 : Nat} {a3 : Nat} : (sweepUnknown a1 a2 a3 s).out = s.out :=
  keep_sweepUnknown (P := fun t => t.out = s.out) (h_qe := fun _ _ h => h) (hR := fun _ _ _ h => h) rfl
@[simp] theorem sweepUnknown_draws {a1 : Nat} {a2 : Nat} {a3 : Nat} : (sweepUnknown a1 a2 a3 s).draws = s.draws :=
  keep_sweepUnknown (P := fun t => t.draws = s.draws) (h_qe := fun _ _ h => h) (hR := fun _ _ _ h => h) rfl
@[simp] theorem sweepUnknown_pending {a1 : Nat} {a2 : Nat} {a3 : Nat} : (sweepUnknown a1 a2 a3 s).pending = s.pending :=
  keep_sweepUnknown (P := fun t => t.pending = s.pending) (h_qe := fun _ _ h => h) (hR := fun _ _ _ h => h) rfl

/-! `refetchOk` -/

@[simp] theorem refetchOk_time {a2 : Nat} : (refetchOk s a2).time = s.time :=
  keep_refetchOk (P := fun t => t.time = s.time) (h_qe := fun _ _ h => h) (h_cf := fun _ _ h => h) (h_out := fun _ _ h => h) (hR := fun _ _ _ h => h) rfl
@[simp] theorem refetchOk_mem {a2 : Nat} : (refetchOk s a2).mem = s.mem :=
  keep_refetchOk (P := fun t => t.mem = s.mem) (h_qe := fun _ _ h => h) (h_cf := fun _ _ h => h) (h_out := fun _ _ h => h) (hR := fun _ _ _ h => h) rfl
@[simp] theorem refetchOk_power {a2 : Nat} : (refetchOk s a2).power = s.power :=
  keep_refetchOk (P := fun t => t.power = s.power) (h_qe := fun _ _ h => h) (h_cf := fun _ _ h => h) (h_out := fun _ _ h => h) (hR := fun _ _ _ h => h) rfl
@[simp] theorem refetchOk_cx {a2 : Nat} : (refetchOk s a2).cx = s.cx :=
  keep_refetchOk (P := fun t => t.cx = s.cx) (h_qe := fun _ _ h => h) (h_cf := fun _ _ h => h) (h_out := fun _ _ h => h) (hR := fun _ _ _ h => h) rfl
@[simp] theorem refetchOk_pm {a2 : Nat} : (refetchOk s a2).pm = s.pm :=
  keep_refetchOk (P := fun t => t.pm = s.pm) (h_qe := fun _ _ h => h) (h_cf := fun _ _ h => h) (h_out := fun _ _ h => h) (hR := fun _ _ _ h => h) rfl
@[simp] theorem refetchOk_ae {a2 : Nat} : (refetchOk s a2).ae = s.ae :=
  keep_refetchOk (P := fun t => t.ae = s.ae) (h_qe := fun _ _ h => h) (h_cf := fun _ _ h => h) (h_out := fun _ _ h => h) (hR := fun _ _ _ h => h) rfl
@[simp] theorem refetchOk_bb {a2 : Nat} : (refetchOk s a2).bb = s.bb :=
  keep_refetchOk (P := fun t => t.bb = s.bb) (h_qe := fun _ _ h => h) (h_cf := fun _ _ h => h) (h_out := fun _ _ h => h) (hR := fun _ _ _ h => h) rfl
@[simp] theorem refetchOk_ac {a2 : Nat} : (refetchOk s a2).ac = s.ac :=
  keep_refetchOk (P := fun t => t.ac = s.ac) (h_qe := fun _ _ h => h) (h_cf := fun _ _ h => h) (h_out := fun _ _ h => h) (hR := fun _ _ _ h => h) rfl
@[simp] theorem refetchOk_tm {a2 : Nat} : (refetchOk s a2).tm = s.tm :=
  keep_refetchOk (P := fun t => t.tm = s.tm) (h_qe := fun _ _ h => h) (h_cf := fun _ _ h => h) (h_out := fun _ _ h => h) (hR := fun _ _ _ h => h) rfl
@[simp] theorem refetchOk_pf {a2 : Nat} : (refetchOk s a2).pf = s.pf :=
  keep_refetchOk (P := fun t => t.pf = s.pf) (h_qe := fun _ _ h => h) (h_cf := fun _ _ h => h) (h_out := fun _ _ h => h) (hR := fun _ _ _ h => h) rfl
@[simp] theorem refetchOk_fl {a2 : Nat} : (refetchOk s a2).fl = s.fl :=
  keep_refetchOk (P := fun t => t.fl = s.fl) (h_qe := fun _ _ h => h) (h_cf := fun _ _ h => h) (h_out := fun _ _ h => h) (hR := fun _ _ _ h => h) rfl
@[simp] theorem refetchOk_es {a2 : Nat} : (refetchOk s a2).es = s.es :=
  keep_refetchOk (P := fun t => t.es = s.es) (h_qe := fun _ _ h => h) (h_cf := fun _ _ h => h) (h_out := fun _ _ h => h) (hR := fun _ _ _ h => h) rfl
@[simp] theorem refetchOk_im {a2 : Nat} : (refetchOk s a2).im = s.im :=
  keep_refetchOk (P := fun t => t.im = s.im) (h_qe := fun _ _ h => h) (h_cf := fun _ _ h => h) (h_out := fun _ _ h => h) (hR := fun _ _ _ h => h) rfl
@[simp] theorem refetchOk_ft {a2 : Nat} : (refetchOk s a2).ft = s.ft :=
  keep_refetchOk (P := fun t => t.ft = s.ft) (h_qe := fun _ _ h => h) (h_cf := fun _ _ h => h) (h_out := fun _ _ h => h) (hR := fun _ _ _ h => h) rfl
@[simp] theorem refetchOk_tn {a2 : Nat} : (refetchOk s a2).tn = s.tn :=
  keep_refetchOk (P := fun t => t.tn = s.tn) (h_qe := fun _ _ h => h) (h_cf := fun _ _ h => h) (h_out := fun _ _ h => h) (hR := fun _ _ _ h => h) rfl
@[simp] theorem refetchOk_lx {a2 : Nat} : (refetchOk s a2).lx = s.lx :=
  keep_refetchOk (P := fun t => t.lx = s.lx) (h_qe := fun _ _ h => h) (h_cf := fun _ _ h => h) (h_out := fun _ _ h => h) (hR := fun _ _ _ h => h) rfl
@[simp] theorem refetchOk_draws {a2 : Nat} : (refetchOk s a2).draws = s.draws :=
  keep_refetchOk (P := fun t => t.draws = s.draws) (h_qe := fun _ _ h => h) (h_cf := fun _ _ h => h) (h_out := fun _ _ h => h) (hR := fun _ _ _ h => h) rfl
@[simp] theorem refetchOk_pending {a2 : Nat} : (refetchOk s a2).pending = s.pending :=
  keep_refetchOk (P := fun t => t.pending = s.pending) (h_qe := fun _ _ h => h) (h_cf := fun _ _ h => h) (h_out := fun _ _ h => h) (hR := fun _ _ _ h => h) rfl

/-! `takeReads` -/

@[simp] theorem takeReads_time {a2 : Reads} : (takeReads s a2).time = s.time :=
  keep_takeReads (P := fun t => t.time = s.time) (h_qe := fun _ _ h => h) (h_tm := fun _ _ h => h) (h_cf := fun _ _ h => h) (h_out := fun _ _ h => h) (hR := fun _ _ _ h => h) rfl
@[simp] theorem takeReads_mem {a2 : Reads} : (takeReads s a2).mem = s.mem :=
  keep_takeReads (P := fun t => t.mem = s.mem) (h_qe := fun _ _ h => h) (h_tm := fun _ _ h => h) (h_cf := fun _ _ h => h) (h_out := fun _ _ h => h) (hR := fun _ _ _ h => h) rfl
@[simp] theorem takeReads_power {a2 : Reads} : (takeReads s a2).power = s.power :=
  keep_takeReads (P := fun t => t.power = s.power) (h_qe := fun _ _ h => h) (h_tm := fun _ _ h => h) (h_cf := fun _ _ h => h) (h_out := fun _ _ h => h) (hR := fun _ _ _ h => h) rfl
@[simp] theorem takeReads_cx {a2 : Reads} : (takeReads s a2).cx = s.cx :=
  keep_takeReads (P := fun t => t.cx = s.cx) (h_qe := fun _ _ h => h) (h_tm := fun _ _ h => h) (h_cf := fun _ _ h => h) (h_out := fun _ _ h => h) (hR := fun _ _ _ h => h) rfl
@[simp] theorem takeReads_pm {a2 : Reads} : (takeReads s a2).pm = s.pm :=
  keep_takeReads (P := fun t => t.pm = s.pm) (h_qe := fun _ _ h => h) (h_tm := fun _ _ h => h) (h_cf := fun _ _ h => h) (h_out := fun _ _ h => h) (hR := fun _ _ _ h => h) rfl
@[simp] theorem takeReads_ae {a2 : Reads} : (takeReads s a2).ae = s.ae :=
  keep_takeReads (P := fun t => t.ae = s.ae) (h_qe := fun _ _ h => h) (h_tm := fun _ _ h => h) (h_cf := fun _ _ h => h) (h_out := fun _ _ h => h) (hR := fun _ _ _ h => h) rfl
@[simp] theorem takeReads_bb {a2 : Reads} : (takeReads s a2).bb = s.bb :=
  keep_takeReads (P := fun t => t.bb = s.bb) (h_qe := fun _ _ h => h) (h_tm := fun _ _ h => h) (h_cf := fun _ _ h => h) (h_out := fun _ _ h => h) (hR := fun _ _ _ h => h) rfl
@[simp] theorem takeReads_ac {a2 : Reads} : (takeReads s a2).ac = s.ac :=
  keep_takeReads (P := fun t => t.ac = s.ac) (h_qe := fun _ _ h => h) (h_tm := fun _ _ h => h) (h_cf := fun _ _ h => h) (h_out := fun _ _ h => h) (hR := fun _ _ _ h => h) rfl
@[simp] theorem takeReads_pf {a2 : Reads} : (takeReads s a2).pf = s.pf :=
  keep_takeReads (P := fun t => t.pf = s.pf) (h_qe := fun _ _ h => h) (h_tm := fun _ _ h => h) (h_cf := fun _ _ h => h) (h_out := fun _ _ h => h) (hR := fun _ _ _ h => h) rfl
@[simp] theorem takeReads_fl {a2 : Reads} : (takeReads s a2).fl = s.fl :=
  keep_takeReads (P := fun t => t.fl = s.fl) (h_qe := fun _ _ h => h) (h_tm := fun _ _ h => h) (h_cf := fun _ _ h => h) (h_out := fun _ _ h => h) (hR := fun _ _ _ h => h) rfl
@[simp] theorem takeReads_es {a2 : Reads} : (takeReads s a2).es = s.es :=
  keep_takeReads (P := fun t => t.es = s.es) (h_qe := fun _ _ h => h) (h_tm := fun _ _ h => h) (h_cf := fun _ _ h => h) (h_out := fun _ _ h => h) (hR := fun _ _ _ h => h) rfl
@[simp] theorem takeReads_im {a2 : Reads} : (takeReads s a2).im = s.im :=
  keep_takeReads (P := fun t => t.im = s.im) (h_qe := fun _ _ h => h) (h_tm := fun _ _ h => h) (h_cf := fun _ _ h => h) (h_out := fun _ _ h => h) (hR := fun _ _ _ h => h) rfl
@[simp] theorem takeReads_ft {a2 : Reads} : (takeReads s a2).ft = s.ft :=
  keep_takeReads (P := fun t => t.ft = s.ft) (h_qe := fun _ _ h => h) (h_tm := fun _ _ h => h) (h_cf := fun _ _ h => h) (h_out := fun _ _ h => h) (hR := fun _ _ _ h => h) rfl
@[simp] theorem takeReads_tn {a2 : Reads} : (takeReads s a2).tn = s.tn :=
  keep_takeReads (P := fun t => t.tn = s.tn) (h_qe := fun _ _ h => h) (h_tm := fun _ _ h => h) (h_cf := fun _ _ h => h) (h_out := fun _ _ h => h) (hR := fun _ _ _ h => h) rfl
@[simp] theorem takeReads_lx {a2 : Reads} : (takeReads s a2).lx = s.lx :=
  keep_takeReads (P := fun t => t.lx = s.lx) (h_qe := fun _ _ h => h) (h_tm := fun _ _ h => h) (h_cf := fun _ _ h => h) (h_out := fun _ _ h => h) (hR := fun _ _ _ h => h) rfl
@[simp] theorem takeReads_draws {a2 : Reads} : (takeReads s a2).draws = s.draws :=
  keep_takeReads (P := fun t => t.draws = s.draws) (h_qe := fun _ _ h => h) (h_tm := fun _ _ h => h) (h_cf := fun _ _ h => h) (h_out := fun _ _ h => h) (hR := fun _ _ _ h => h) rfl
@[simp] theorem takeReads_pending {a2 : Reads} : (takeReads s a2).pending = s.pending :=
  keep_takeReads (P := fun t => t.pending = s.pending) (h_qe := fun _ _ h => h) (h_tm := fun _ _ h => h) (h_cf := fun _ _ h => h) (h_out := fun _ _ h => h) (hR := fun _ _ _ h => h) rfl

end Sys2Proof.Machine
end

