-- ==== Sys2Proof/Laws/Rings.lean ====
section
/-!
SUPPORT. Rings.lean: how a ring command runs and completes, said once for every opcode.
-/

namespace Sys2Proof.Machine

variable {s t u : State} {c : Cmd} {op : Nat}

@[simp] theorem refOf_fn : (refOf s c).fn = c.fn := rfl
@[simp] theorem refOf_gen : (refOf s c).gen = genOf s c := rfl

/-- A read of the register file depends on the table alone. -/
theorem regGet_congr {s t : State} (h : t.regs = s.regs) (o : Nat) : regGet t o = regGet s o := by simp only [regGet, h]

theorem getF_congr {s t : State} (h : t.regs = s.regs) (o : Nat) (f : Fld) : getF t o f = getF s o f := by
  simp only [getF, regGet, h]

/-! ## Flags and reads leave the completions alone -/

/-- No completion is added, and no reset of Function 1 begins. -/
def Quiet (s u : State) : Prop := u.qe.resets1 = s.qe.resets1 ∧ u.qe.finished = s.qe.finished

theorem Quiet.trans {s t u : State} (h : Quiet s t) (k : Quiet t u) : Quiet s u := ⟨k.1.trans h.1, k.2.trans h.2⟩

theorem quiet_setEventMsg (s : State) (fn : Nat) (m : EventMsg) : Quiet s (setEventMsg s fn m) := by
  unfold setEventMsg
  split <;> exact ⟨rfl, rfl⟩

theorem quiet_sendMsix (s : State) (fn v : Nat) : Quiet s (sendMsix s fn v) := by
  unfold sendMsix
  repeat' split
  all_goals exact ⟨rfl, rfl⟩

theorem quiet_sendEventNow (s : State) (fn : Nat) : Quiet s (sendEventNow s fn) :=
  (quiet_sendMsix s _ _).trans (quiet_setEventMsg _ _ _)

theorem quiet_requestEvent (s : State) (fn : Nat) : Quiet s (requestEvent s fn) := by
  unfold requestEvent
  split
  · exact quiet_sendEventNow s fn
  · split
    · exact quiet_sendEventNow s fn
    · exact quiet_setEventMsg s _ _

theorem quiet_raise (s : State) (fn src bit : Nat) : Quiet s (raise s fn src bit) := by
  unfold raise
  split
  · exact ⟨rfl, rfl⟩
  · dsimp only
    split
    · exact quiet_requestEvent _ fn
    · exact ⟨rfl, rfl⟩

theorem quiet_refetchOk (s : State) (k : Nat) : Quiet s (refetchOk s k) := by
  unfold refetchOk
  dsimp only
  split
  · exact ⟨rfl, rfl⟩
  · split
    · exact quiet_raise _ _ _ _
    · exact ⟨rfl, rfl⟩

theorem quiet_takeReads (s : State) (r : Reads) : Quiet s (takeReads s r) := by
  have H : ∀ (l : List Nat) (s : State), Quiet s (l.foldl refetchOk s) := by
    intro l
    induction l with
    | nil => exact fun _ => ⟨rfl, rfl⟩
    | cons k l ih => exact fun s => (quiet_refetchOk s k).trans (ih _)
  exact H _ _

@[simp] theorem begun_resets1 : (begun s c).qe.resets1 = s.qe.resets1 := (quiet_takeReads (beginCmd s c).2 c.reads).1
@[simp] theorem begun_finished : (begun s c).qe.finished = s.qe.finished := (quiet_takeReads (beginCmd s c).2 c.reads).2

/-- What a passed refetch writes among the registers: its count, and the flag and the counter of a poisoned line (R227, R269). -/
def readRegs : List Nat := [rPfRefetchOk, rTpEvent, rTpEventCount fTpEventPoison.lo]

theorem setEventMsg_regs (s : State) (fn : Nat) (m : EventMsg) : (setEventMsg s fn m).regs = s.regs := by
  unfold setEventMsg
  split <;> rfl

theorem requestEvent_regs (s : State) (fn : Nat) : (requestEvent s fn).regs = s.regs := by
  have H : ∀ s : State, (sendEventNow s fn).regs = s.regs := by
    intro s
    unfold sendEventNow
    rw [setEventMsg_regs]
    unfold sendMsix
    repeat' split
    all_goals rfl
  unfold requestEvent
  split
  · exact H s
  · split
    · exact H s
    · exact setEventMsg_regs s _ _

/-- A flag is set in its register and its counter, and in no other (R8). -/
theorem raise_regGet (s : State) (fn src bit : Nat) {o : Nat} (h : eventReg fn src ≠ some o) (k : o ≠ counterReg fn src bit) :
    regGet (raise s fn src bit) o = regGet s o := by
  unfold raise
  split
  · rfl
  · rename_i r e
    have hr : o ≠ r := fun he => h (he ▸ e)
    dsimp only
    split
    · rw [regGet_congr (requestEvent_regs _ fn), bumpF, regGet_setF_ne _ _ _ k, regGet_setF_ne _ _ _ hr]
    · rw [bumpF, regGet_setF_ne _ _ _ k, regGet_setF_ne _ _ _ hr]

/-- No register but those of the refetches changes (R269). -/
theorem takeReads_regGet (s : State) (r : Reads) {o : Nat} (h : o ∉ readRegs) : regGet (takeReads s r) o = regGet s o := by
  simp only [readRegs, List.mem_cons, List.not_mem_nil, or_false, not_or] at h
  obtain ⟨h1, h2, h3⟩ := h
  have H : ∀ (l : List Nat) (s : State), regGet (l.foldl refetchOk s) o = regGet s o := by
    intro l
    induction l with
    | nil => exact fun _ => rfl
    | cons k l ih =>
      intro s
      rw [List.foldl_cons, ih]
      unfold refetchOk
      dsimp only
      split
      · exact regGet_setR_ne s _ h1
      · split
        · rw [raise1, raise_regGet _ 1 15 _ (by rw [show eventReg 1 15 = some rTpEvent from rfl]; exact fun e => h2 (Option.some.inj e).symm) h3]
          exact regGet_setR_ne s _ h1
        · exact regGet_setR_ne s _ h1
  exact H _ _

theorem begun_regGet {o : Nat} (h : o ∉ readRegs) : regGet (begun s c) o = regGet s o := takeReads_regGet _ _ h
theorem begun_getF {o : Nat} (f : Fld) (h : o ∉ readRegs) : getF (begun s c) o f = getF s o f := by
  rw [getF, begun_regGet h, getF]
theorem begun_getB {o : Nat} (f : Fld) (h : o ∉ readRegs) : getB (begun s c) o f = getB s o f := by
  rw [getB, begun_getF f h, getB]

/-- A completion is added to those that wait, or its reset discards it and only counts it (R409, R428). -/
theorem complete_finished (s : State) (x : Completion) :
    (complete s x).qe.finished = s.qe.finished ++ (if x.ref.fn = 1 ∧ x.ref.gen ≠ s.qe.resets1 then [] else [x]) := by
  unfold complete
  dsimp only
  split
  · rw [List.append_nil]; rfl
  · rfl

@[simp] theorem complete_resets1 (s : State) (x : Completion) : (complete s x).qe.resets1 = s.qe.resets1 := by
  unfold complete
  dsimp only
  split <;> simp

/-- No register but the count of discarded completions changes. -/
theorem complete_regGet (s : State) (x : Completion) {o : Nat} (h : o ≠ rQeDiscards1) : regGet (complete s x) o = regGet s o := by
  unfold complete
  dsimp only
  split
  · rw [bumpF, regGet_setF_ne _ _ _ h]; rfl
  · rfl

theorem finish_regGet (s : State) (r : CmdRef) (st : Nat) {o : Nat} (h : o ≠ rQeDiscards1) :
    regGet (finish s r st) o = regGet s o := complete_regGet s _ h

/-! ## Completions only join those that wait -/

/-- Completions are only added, and no reset of Function 1 begins. -/
def Grows (s u : State) : Prop := u.qe.resets1 = s.qe.resets1 ∧ ∃ l, u.qe.finished = s.qe.finished ++ l

theorem Grows.refl (s : State) : Grows s s := ⟨rfl, [], by simp⟩

theorem Grows.trans {s t u : State} (h : Grows s t) (k : Grows t u) : Grows s u := by
  obtain ⟨h1, l, h2⟩ := h
  obtain ⟨k1, m, k2⟩ := k
  exact ⟨k1.trans h1, l ++ m, by rw [k2, h2, List.append_assoc]⟩

theorem Grows.of_qe {s u : State} (h : u.qe = s.qe) : Grows s u := ⟨by rw [h], [], by rw [h]; simp⟩

theorem grows_complete (s : State) (x : Completion) : Grows s (complete s x) := ⟨complete_resets1 s x, _, complete_finished s x⟩

theorem grows_finish (s : State) (r : CmdRef) (st : Nat) : Grows s (finish s r st) := grows_complete s _

theorem grows_finishAll (s : State) (rs : List CmdRef) (st r0 : Nat) : Grows s (finishAll s rs st r0) := by
  unfold finishAll
  induction rs generalizing s with
  | nil => exact .refl s
  | cons r rs ih => exact (grows_complete s _).trans (ih _)

theorem Quiet.grows {s u : State} (h : Quiet s u) : Grows s u := ⟨h.1, [], by rw [h.2, List.append_nil]⟩

theorem grows_raise (s : State) (fn src bit : Nat) : Grows s (raise s fn src bit) := (quiet_raise s fn src bit).grows

theorem grows_raise1 (s : State) (src : Nat) (f : Fld) : Grows s (raise1 s src f) := grows_raise s _ _ _
theorem grows_raise0 (s : State) (src : Nat) (f : Fld) : Grows s (raise0 s src f) := grows_raise s _ _ _
theorem grows_raiseGs (s : State) (f : Fld) : Grows s (raiseGs s f) := (grows_raise s _ _ _).trans (grows_raise _ _ _ _)

/-- Descriptors of unknown opcodes that are answered on the way leave the completions that wait. -/
theorem sweepUnknown_finished (fn ring k : Nat) (s : State) :
    ∃ l, (sweepUnknown fn ring k s).qe.finished = s.qe.finished ++ l := by
  induction k generalizing s with
  | zero => exact ⟨[], by simp [sweepUnknown]⟩
  | succ k ih =>
    rw [sweepUnknown]
    split
    · exact ⟨[], by simp⟩
    · split
      · exact ⟨[], by simp⟩
      · dsimp only
        obtain ⟨l, hl⟩ := ih (finish (beginCmd s _).2 (beginCmd s _).1 _)
        rw [hl, finish, complete_finished, List.append_assoc]
        exact ⟨_, rfl⟩

theorem grows_sweepUnknown (fn ring k : Nat) (s : State) : Grows s (sweepUnknown fn ring k s) := by
  refine ⟨?_, sweepUnknown_finished fn ring k s⟩
  induction k generalizing s with
  | zero => rfl
  | succ k ih =>
    rw [sweepUnknown]
    split
    · rfl
    · split
      · rfl
      · dsimp only
        exact (ih _).trans (complete_resets1 _ _)

theorem sweepUnknown_regGet (fn ring k : Nat) (s : State) {o : Nat} (h : o ≠ rQeDiscards1) :
    regGet (sweepUnknown fn ring k s) o = regGet s o := by
  induction k generalizing s with
  | zero => rfl
  | succ k ih =>
    rw [sweepUnknown]
    split
    · rfl
    · split
      · rfl
      · dsimp only
        rw [ih, finish_regGet _ _ _ h]; rfl

/-- A command that runs: its effect from the state in which it has begun, then the answers to unknown opcodes behind it. -/
theorem startCmd_runs (h : Runs s op c) (f : CmdRef → State → State) :
    startCmd s op c f = sweepUnknown c.fn c.ring (f (refOf s c) (begun s c)).qe.fetched.length (f (refOf s c) (begun s c)) := by
  obtain ⟨h1, h2, h3, h4, h5, h6, -⟩ := h
  rw [startCmd, live, if_pos h1, h2]
  simp only [Bool.not_true, Bool.false_eq_true, if_false]
  have h3' : ¬(c.fn = 0 ∧ lxHalted (beginCmd s c).2 = true) := h3
  have h4' : ((accepted c.fn).contains op) = true := by simpa using h4
  rw [if_neg h3', h4', h5, h6]
  simp only [Bool.not_true, bne_self_eq_false, Bool.or_self, Bool.false_eq_true, if_false]
  rfl

/-- What follows of a command that ends by completing: the completion waits, every field but the queue engine's and the
register table is that of the state it completed in, and so is every register but the count of discarded completions. -/
theorem startCmd_complete (h : Runs s op c) {f : CmdRef → State → State} {st n r0 r1 r2 : Nat}
    (hf : f (refOf s c) (begun s c) = complete u ⟨refOf s c, st, n, r0, r1, r2, false⟩)
    (hg : Grows s u) : Answered s (startCmd s op c f) c st n r0 r1 r2 := by
  obtain ⟨hr, l, hl⟩ := hg
  rw [startCmd_runs h, hf]
  obtain ⟨k, hk⟩ := sweepUnknown_finished c.fn c.ring (complete u ⟨refOf s c, st, n, r0, r1, r2, false⟩).qe.fetched.length
    (complete u ⟨refOf s c, st, n, r0, r1, r2, false⟩)
  rw [complete_finished, hl] at hk
  refine ⟨_, hk.trans (by rw [List.append_assoc, List.append_assoc]), ?_⟩
  have : ¬(c.fn = 1 ∧ genOf s c ≠ u.qe.resets1) := by
    rintro ⟨h1, h2⟩
    exact h2 ((h.current h1).trans hr.symm)
  simp [this]

end Sys2Proof.Machine
end

