-- ==== Sys2Proof/Laws/Threads.lean ====
section
/-!
SUPPORT. Threads.lean: what reading a job, a thread, a queue or a segment gives after an update.
-/

namespace Sys2Proof.Machine

theorem mapGet_adj {α : Type} (m : NMap α) (k j : Nat) (f : α → α) :
    mapGet (mapAdj m k f) j = if j = k then (mapGet m k).map f else mapGet m j := by
  unfold mapAdj
  split
  · rename_i v h
    rw [mapGet_put]
    split
    · rw [h]; rfl
    · rfl
  · rename_i h
    split
    · subst j; rw [h]; rfl
    · rfl

variable {s : State}

theorem jobAt_updJob (n m : Nat) (f : Job → Job) : jobAt (updJob s n f) m = if m = n then (jobAt s n).map f else jobAt s m :=
  mapGet_adj _ _ _ _

theorem threadAt_updThread_same (n i : Nat) (f : Thread → Thread) :
    threadAt (updThread s n i f) n i = (threadAt s n i).map f := by
  unfold threadAt updThread
  rw [jobAt_updJob, if_pos rfl]
  cases jobAt s n with
  | none => rfl
  | some j => simp [mapGet_adj]

theorem threadAt_updThread_ne (n i m k : Nat) (f : Thread → Thread) (h : ¬(m = n ∧ k = i)) :
    threadAt (updThread s n i f) m k = threadAt s m k := by
  unfold threadAt updThread
  rw [jobAt_updJob]
  split
  · subst m
    cases jobAt s n with
    | none => rfl
    | some j => simp [mapGet_adj, show k ≠ i by omega]
  · rfl

theorem jobAt_updThread_desc (n i m : Nat) (f : Thread → Thread) :
    (jobAt (updThread s n i f) m).map (·.desc) = (jobAt s m).map (·.desc) := by
  unfold updThread
  rw [jobAt_updJob]
  split
  · subst m
    cases jobAt s n <;> rfl
  · rfl

theorem getX_setX (t : Thread) (r q v : Nat) :
    (t.setX r v).getX q = if q % 32 = 0 then 0 else if q % 32 = r % 32 then v % 2 ^ 64 else t.getX q := by
  unfold Thread.getX Thread.setX
  split
  · rfl
  · split
    · rw [if_neg (by omega)]
    · dsimp only
      rw [mapGet_put]
      split <;> simp

@[simp] theorem setX_pc (t : Thread) (r v : Nat) : (t.setX r v).pc = t.pc := by unfold Thread.setX; split <;> rfl
@[simp] theorem setX_place (t : Thread) (r v : Nat) : (t.setX r v).place = t.place := by unfold Thread.setX; split <;> rfl
@[simp] theorem setX_cond (t : Thread) (r v : Nat) : (t.setX r v).cond = t.cond := by unfold Thread.setX; split <;> rfl
@[simp] theorem setX_tickets (t : Thread) (r v : Nat) : (t.setX r v).tickets = t.tickets := by unfold Thread.setX; split <;> rfl

theorem teQueue_setTeQueue (k j : Nat) (q : List TeEntry) :
    teQueue (setTeQueue s k q) j = if j = k then q else teQueue s j := by
  unfold teQueue setTeQueue
  rw [mapGet_put]
  split <;> rfl

theorem wayStore_setWay (k j : Nat) (m : List Host.Cell) : wayStore (setWay s k m) j = if j = k then m else wayStore s j := by
  unfold wayStore setWay
  rw [mapGet_put]
  split <;> rfl

@[simp] theorem teQueue_updThread (n i k : Nat) (f : Thread → Thread) : teQueue (updThread s n i f) k = teQueue s k := rfl
@[simp] theorem teQueue_updJob (n k : Nat) (f : Job → Job) : teQueue (updJob s n f) k = teQueue s k := rfl
@[simp] theorem teQueue_setCond (n i k : Nat) (c : Cond) : teQueue (setCond s n i c) k = teQueue s k := rfl
@[simp] theorem wayStore_updThread (n i k : Nat) (f : Thread → Thread) : wayStore (updThread s n i f) k = wayStore s k := rfl
@[simp] theorem wayStore_setCond (n i k : Nat) (c : Cond) : wayStore (setCond s n i c) k = wayStore s k := rfl
@[simp] theorem threadAt_setTeQueue (n i k : Nat) (q : List TeEntry) : threadAt (setTeQueue s k q) n i = threadAt s n i := rfl
@[simp] theorem threadAt_setWay (n i k : Nat) (m : List Host.Cell) : threadAt (setWay s k m) n i = threadAt s n i := rfl
@[simp] theorem jobAt_setTeQueue (n k : Nat) (q : List TeEntry) : jobAt (setTeQueue s k q) n = jobAt s n := rfl

end Sys2Proof.Machine
end

