-- ==== Sys2Proof/WellFormed.lean ====
section
/-!
DEFINITION. WellFormed.lean: what a command's operands satisfy by their type in the spec: a descriptor is 64 bytes
(R408), a BAU or TE command word 32 (R169, R193), a link control frame 64 (R296), a port is 0 to 17 (R290) and so on.
`exec` is defined on every term; an ill-formed command is none that the spec's senders can form.
-/

namespace Sys2Proof

/-- A function number is 0 or 1 (R406). -/
def Access.wf (a : Access) : Bool := decide (a.fn < 2) && decide (a.off < 0x2000000)

/-- A descriptor is 64 bytes of a ring that its function has (R406, R408). -/
def Cmd.wf (c : Cmd) : Bool :=
  decide (c.d.length = 64) && (if c.fn = 0 then decide (c.ring < 8) else decide (c.fn = 1 ∧ c.ring < 64))

/-- A BAU command word is 32 bytes and goes to one of eight BBDs (R168). -/
def BauCmd.wf (b : BauCmd) : Bool := decide (b.word.length = 32) && decide (b.bbd < 8)

/-- A TE command word is 32 bytes, for one of two TEs and one of 16 ways (R193, Table 07.1). -/
def TeCmd.wf (t : TeCmd) : Bool :=
  decide (t.word.length = 32) && decide (t.ac < 128) && decide (t.te < 2) && decide (t.way < 16)

/-- Register numbers, register values and thread addresses are of RV64GCV with VLEN 512 (R202). -/
def SxAct.wf : SxAct → Bool
  | .setX rd v | .setF rd v => decide (rd < 32 ∧ v < 2 ^ 64)
  | .setV rd v => decide (rd < 32 ∧ v < 2 ^ 512)
  | .csr rd c => decide (rd < 32 ∧ c < 4096)
  | .load rd a len _ => decide (rd < 32 ∧ a < 2 ^ 64 ∧ len ∈ [1, 2, 4, 8])
  | .store a d => decide (a < 2 ^ 64 ∧ d.length ≤ 64)
  | .jump p => decide (p < 2 ^ 64)

/-- The word of a Syntax core instruction is 32 bits (R204). -/
def SxOp.wf (i : SxOp) : Bool := decide (i.word < 2 ^ 32) && i.acts.all SxAct.wf

/-- A ring of a function (R406). -/
def ringWf (fn ring : Nat) : Bool := if fn = 0 then decide (ring < 8) else decide (fn = 1 ∧ ring < 64)

/-- The operands of a command are of the widths the spec gives them. -/
def Instr.wf : Instr → Bool
  | .registerWrite a | .tmStatusRead a | .cxTableBaseWrite a | .bbNarrowShareWrite a | .bbPermitLimitWrite a
  | .tmPlanWrite a | .flPortEnableWrite a | .flPortClassWrite a | .esShaperWrite a | .imProfileWrite a
  | .gsIntEnableWrite a | .pfLogHeadWrite a | .pwCapWrite a | .passStart a | .passAbort a | .splitWrite a
  | .testRead a | .flSwapGo a _ | .gateInstall a | .ringEnableWrite a | .nodeReset a | .retainRequest a
  | .runRequest a | .badSizeAccess a _ => a.wf
  | .cxOpen c | .cxClose c | .cxPark c | .cxReopen c | .cxQuery c _ | .cxSetShards c _ | .jobSubmit c | .jobPreempt c
  | .jobQuery c | .rmLoad c | .rmUnload c | .retireSlot c | .retireChannel c | .connOpen c | .connClose c
  | .connQuery c _ | .wrPost c | .regionRegister c | .regionRevoke c | .regionQuery c _ | .recvPost c | .recvQuery c
  | .counterSet c | .recovery c | .lxEnrol c _ | .lxTransfer c _ | .lxManagerSet c _ | .lxManagerClear c
  | .lxHandover c _ | .lxFlashWrite c _ | .lxRollback c | .lxAnchor c | .lxTnRead c _ _ | .lxSupplete c
  | .lxSetActive c => c.wf
  | .glossBound b | .attendPage b | .appendRows b | .requant b | .rmsnorm b | .elementwise b | .gatherReduce b
  | .zeroRange b => b.wf
  | .matmul t | .score t | .fold t | .bound t | .conjoin t => t.wf
  | .sxTe i | .sxBstore i | .sxBau i | .sxCopy i | .sxWait i | .sxPoll i | .sxSleep i | .sxStep i | .sxEnd i => i.wf
  | .hello p l | .pause p l | .swapReq p l | .swapAck p l => decide (p < 18) && decide (l.length = 64)
  | .frameReceive p _ | .helloSend p | .swapTimeout p | .portTrained p _ | .portTrainRetry p | .laneFault p _
  | .fecPeriod p _ _ | .listenDone p | .listenLimitExpiry p _ | .detachLimitExpiry p | .frameStart p
  | .gateInstallEffect p | .gateEntryChange p | .swapMarker p _ => decide (p < 18)
  | .pauseRepeat p t | .pauseExpiry p t | .pauseWatchdog p t | .msg p t | .write p t | .readReq p t | .readResp p t
  | .ack p t | .nak p t | .report p t | .dgram p t => decide (p < 18) && decide (t < 8)
  | .sqDoorbell f r _ | .cqDoorbell f r _ | .descriptorFetch f r _ | .completionWrite f r _
  | .msixCoalesceTimer f r => ringWf f r
  | .refreshDue c | .refreshPause c | .refreshResume c _ => decide (c < 128)
  | .permitGrant b | .bauCompletion b _ | .bbdOutOfService b | .d2dRetrainDone b
  | .bauStoreWrite b _ _ _ => decide (b < 8)
  | .d2dLinkRetrain f => decide (f.bbd < 8)
  | _ => true

end Sys2Proof
end

