-- ==== Sys2Proof/Tests/Slice0.lean ====
section
/-!
SUPPORT. Slice0.lean: an ill-formed term for each check of WellFormed.lean, and a witness for the hypotheses of each statement.
-/

open Sys2Proof Sys2Proof.Machine

/-! ## WellFormed refuses -/

theorem test_wf_access_function : (Instr.registerWrite ⟨2, 0, 8, 0⟩).wf = false := by decide
theorem test_wf_access_offset : (Instr.registerWrite ⟨1, 0x2000000, 8, 0⟩).wf = false := by decide
theorem test_wf_access_good : (Instr.registerWrite ⟨1, 0x1FFFFF8, 8, 0⟩).wf = true := by decide
theorem test_wf_descriptor_length : (Instr.cxClose ⟨1, 0, List.replicate 63 0, .clean⟩).wf = false := by decide
theorem test_wf_descriptor_ring0 : (Instr.lxRollback ⟨0, 8, List.replicate 64 0, .clean⟩).wf = false := by decide
theorem test_wf_descriptor_ring1 : (Instr.cxClose ⟨1, 64, List.replicate 64 0, .clean⟩).wf = false := by decide
theorem test_wf_descriptor_function : (Instr.cxClose ⟨2, 0, List.replicate 64 0, .clean⟩).wf = false := by decide
theorem test_wf_descriptor_good : (Instr.cxClose ⟨1, 63, List.replicate 64 0, .clean⟩).wf = true := by decide
theorem test_wf_bau_word : (Instr.zeroRange ⟨0, .thread 0 0, List.replicate 31 0, 0⟩).wf = false := by decide
theorem test_wf_bau_bbd : (Instr.zeroRange ⟨8, .thread 0 0, List.replicate 32 0, 0⟩).wf = false := by decide
theorem test_wf_te_word : (Instr.matmul ⟨0, 0, 0, []⟩).wf = false := by decide
theorem test_wf_te_ac : (Instr.matmul ⟨128, 0, 0, List.replicate 32 0⟩).wf = false := by decide
theorem test_wf_te_engine : (Instr.matmul ⟨0, 2, 0, List.replicate 32 0⟩).wf = false := by decide
theorem test_wf_te_way : (Instr.matmul ⟨0, 0, 16, List.replicate 32 0⟩).wf = false := by decide
theorem test_wf_sx_word : (Instr.sxTe ⟨0, 0, 2 ^ 32, []⟩).wf = false := by decide
theorem test_wf_sx_good : (Instr.sxTe ⟨0, 0, 2 ^ 32 - 1, [.load 31 (2 ^ 64 - 1) 8 true]⟩).wf = true := by decide
theorem test_wf_sx_register : (Instr.sxTe ⟨0, 0, 0, [.setX 32 0]⟩).wf = false := by decide
theorem test_wf_sx_value : (Instr.sxTe ⟨0, 0, 0, [.setF 0 (2 ^ 64)]⟩).wf = false := by decide
theorem test_wf_sx_vector : (Instr.sxTe ⟨0, 0, 0, [.setV 0 (2 ^ 512)]⟩).wf = false := by decide +kernel
theorem test_wf_sx_csr : (Instr.sxTe ⟨0, 0, 0, [.csr 0 4096]⟩).wf = false := by decide
theorem test_wf_sx_load : (Instr.sxTe ⟨0, 0, 0, [.load 0 0 3 false]⟩).wf = false := by decide
theorem test_wf_sx_store : (Instr.sxTe ⟨0, 0, 0, [.store 0 (List.replicate 65 0)]⟩).wf = false := by decide
theorem test_wf_sx_jump : (Instr.sxTe ⟨0, 0, 0, [.jump (2 ^ 64)]⟩).wf = false := by decide
theorem test_wf_ring : (Instr.completionWrite 0 8 true).wf = false := by decide
theorem test_wf_lcf_port : (Instr.hello 18 (List.replicate 64 0)).wf = false := by decide
theorem test_wf_lcf_length : (Instr.hello 0 (List.replicate 63 0)).wf = false := by decide
theorem test_wf_port : (Instr.frameStart 18).wf = false := by decide
theorem test_wf_class : (Instr.msg 0 8).wf = false := by decide
theorem test_wf_channel : (Instr.refreshDue 128).wf = false := by decide
theorem test_wf_bbd : (Instr.permitGrant 8).wf = false := by decide

namespace Sys2Proof.Tests

set_option Elab.async false

/-! ## States and commands that the witnesses use -/

/-- A powered node whose start-up has ended. -/
def base : State := { State.reset with power := { Power.fresh with running := none, opened := true } }

/-- `base` with fields of registers set. -/
def withFields (s : State) (l : List (Nat × Fld × Nat)) : State := l.foldl (fun s (o, f, v) => setF s o f v) s

/-- A port in the up state. -/
def portIsUp (s : State) (p : Nat) : State := setPortState s p 4

/-- `b` bytes with fields put: offset, bit, width, value. -/
def bytesOf (b : Nat) (l : List (Nat × Nat × Nat × Nat)) : Bytes := l.foldl (fun b (o, lo, w, v) => putF b o lo w v) (zeros b)

/-! ## Witnesses: the block as a whole -/

theorem witness_StepRunsTheFrontCommand :
    ({ base with pending := [.clockLoss, .wake] } : State).pending = .clockLoss :: [.wake] := by decide +kernel

theorem witness_EmptyQueueTicks : State.reset.pending = [] := by decide +kernel

theorem witness_EveryStepKeepsTheInvariant : Tidy base ∧ ∃ t, step base = .next t :=
  ⟨⟨by decide +kernel, by decide +kernel, by decide +kernel⟩, _, rfl⟩

theorem witness_CommandsTouchOnlyTheirParts : (∃ t, exec .wake base = .next t) ∧ Part.mem ∉ touches .wake :=
  ⟨⟨_, rfl⟩, by decide +kernel⟩

/-! ## Witnesses: tensor engines and Syntax cores -/

/-- A tensor engine command of way 15 of the last core. -/
def teCommand (op : Nat) : TeCmd := ⟨127, 1, 15, bytesOf 32 [(0, 0, 8, op)]⟩

theorem witness_TensorCommandsQueueAndComplete_queue :
    awake base = true ∧ (teCommand 1).ac < activeAcs base ∧ (teCommand 1).way < 16 ∧ teFull base (teKey 127 1) = false
      ∧ tOp (teCommand 0).word = 0 ∧ tOp (teCommand opMatmul).word = opMatmul ∧ tOp (teCommand opScore).word = opScore
      ∧ tOp (teCommand opFold).word = opFold ∧ tOp (teCommand opBound).word = opBound
      ∧ tOp (teCommand opConjoin).word = opConjoin ∧ 5 < tOp (teCommand 6).word := by decide +kernel

/-- A thread of way 0 of core 0 with these registers and one open ticket. -/
def sxThread (xs : NMap Word) : Thread :=
  { cond := .running, place := .resident 0 0 0, pc := 0x1000, x := xs, f := [], v := [], ctl := ⟨0, 0, 0, 0, 0⟩,
    tickets := [⟨2 ^ 32, .bau, none, 0, 0, 0⟩], await := none, event := none, since := 0, result := 0, slot := 0 }

/-- Its job, of `KIND` 0 and one window of 4 KiB at address 0. -/
def sxJob (xs : NMap Word) : Job :=
  { desc := bytesOf 128 [(0x40, 0, 32, 1)], ref := ⟨1, 0, 0, 0, 0⟩, order := 0, threads := [(0, sxThread xs)], nextTick := 1,
    preempt := none }

/-- A node with that thread, a tensor engine command of it and a posted receive. -/
def sxState (xs : NMap Word) : State :=
  { base with
    ac := { base.ac with
      jobs := [(0, sxJob xs)], ways := [(0, .thread 0 0)], te := [(0, [⟨⟨0, 0, 0, bytesOf 32 [(0, 0, 8, 1)]⟩, some (0, 0), 2 ^ 32⟩])] }
    ft := { base.ft with recv := [(65535, ⟨0, 0, 64, 0, none, 0⟩)] } }

theorem witness_TensorCommandsQueueAndComplete_complete :
    awake (sxState []) = true ∧ teQueue (sxState []) (teKey 0 0) = [⟨⟨0, 0, 0, bytesOf 32 [(0, 0, 8, 1)]⟩, some (0, 0), 2 ^ 32⟩]
      ∧ threadAt (sxState []) 0 0 = some (sxThread []) := by decide +kernel

theorem sxKind : jKind (bytesOf 128 [(0x40, 0, 32, 1)]) = 0 := by decide +kernel

/-- The word of an instruction of row (op, f3) with rd 5, rs1 1, rs2 2, rs3 3 (Table 07.6). -/
def sxWord (op f3 : Nat) : SxOp :=
  ⟨0, 0, op + 5 * 2 ^ 7 + f3 * 2 ^ 12 + 2 ^ 15 + 2 * 2 ^ 20 + (if op = 0x5B then 3 * 2 ^ 27 else 0), []⟩

theorem executes_sxState (xs : NMap Word) (w : Nat) : Executes (sxState xs) ⟨0, 0, w, []⟩ (sxJob xs) (sxThread xs) 0 :=
  ⟨rfl, rfl, rfl, rfl, sxKind, rfl⟩

theorem spells_sxWord : Spells 0x0B 0 (sxWord 0x0B 0) ∧ Spells 0x0B 1 (sxWord 0x0B 1) ∧ Spells 0x0B 2 (sxWord 0x0B 2) ∧
    Spells 0x5B 0 (sxWord 0x5B 0) ∧ Spells 0x0B 3 (sxWord 0x0B 3) ∧ Spells 0x0B 5 (sxWord 0x0B 5) ∧
    Spells 0x0B 6 (sxWord 0x0B 6) := by
  refine ⟨⟨rfl, ?_, ?_⟩, ⟨rfl, ?_, ?_⟩, ⟨rfl, ?_, ?_⟩, ⟨rfl, ?_, ?_⟩, ⟨rfl, ?_, ?_⟩, ⟨rfl, ?_, ?_⟩, ⟨rfl, ?_, ?_⟩⟩ <;>
    decide +kernel

theorem sxRegs_sxWord : sxRd (sxWord 0x0B 0) = 5 ∧ sxRs1 (sxWord 0x5B 0) = 1 ∧ sxRs2 (sxWord 0x5B 0) = 2 ∧
    sxRs3 (sxWord 0x5B 0) = 3 := by decide +kernel

theorem witness_EngineInstructionsIssue :
    (∀ xs w, Executes (sxState xs) ⟨0, 0, w, []⟩ (sxJob xs) (sxThread xs) 0) ∧
      (Spells 0x0B 0 (sxWord 0x0B 0) ∧ Spells 0x0B 1 (sxWord 0x0B 1) ∧ Spells 0x0B 2 (sxWord 0x0B 2) ∧
        Spells 0x5B 0 (sxWord 0x5B 0)) ∧
      (let xs : NMap Word := [(1, 0x3FFE0), (2, 1)]
       1 = (sxThread xs).getX 2 % 2 ∧ teFull (sxState xs) (teKey 0 1) = false ∧ (sxThread xs).getX 1 + 32 ≤ segBytes) ∧
      (let xs : NMap Word := [(1, 0x3FFC0), (2, 64)]
       (sxThread xs).getX 1 + fld ((sxThread xs).getX 2) 0 16 ≤ segBytes) ∧
      (let xs : NMap Word := [(1, 0x3FFE0), (2, 4095)]
       (sxThread xs).getX 1 + 32 ≤ segBytes ∧ inRanges (jWindows (sxJob xs).desc) (fld ((sxThread xs).getX 2) 0 40) 1 = true ∧
         fld ((sxThread xs).getX 2) 0 40 < gddrSize) ∧
      (let xs : NMap Word := [(3, 0)]
       (sxThread xs).getX 3 = 0) ∧
      (let xs : NMap Word := [(1, 0), (2, 64), (3, 64)]
       copyUnbacked (sxJob xs).desc [] 0 64 ((sxThread xs).getX 3) = false) :=
  ⟨executes_sxState, ⟨spells_sxWord.1, spells_sxWord.2.1, spells_sxWord.2.2.1, spells_sxWord.2.2.2.1⟩, by decide +kernel⟩

theorem witness_ThreadsRunAheadAndWait_wait :
    (∀ xs w, Executes (sxState xs) ⟨0, 0, w, []⟩ (sxJob xs) (sxThread xs) 0) ∧
      (Spells 0x0B 3 (sxWord 0x0B 3) ∧ Spells 0x0B 5 (sxWord 0x0B 5) ∧ Spells 0x0B 6 (sxWord 0x0B 6)) ∧
      (let xs : NMap Word := [(1, 2 ^ 63 + 65535)]
       awaitKnown (sxState xs) (sxJob xs) (awaitOf ((sxThread xs).getX 1)) = true ∧
         awaited (sxState xs) (sxJob xs) (sxThread xs) (awaitOf ((sxThread xs).getX 1)) = none) ∧
      (let xs : NMap Word := [(1, 0x100000000)]
       awaitKnown (sxState xs) (sxJob xs) (awaitOf ((sxThread xs).getX 1)) = true ∧
         awaited (sxState xs) (sxJob xs) (sxThread xs) (awaitOf ((sxThread xs).getX 1)) = none) ∧
      (let xs : NMap Word := [(1, 1)]
       (sxState xs).time < (sxThread xs).getX 1) ∧
      (sxThread []).open_ ≠ [] :=
  ⟨executes_sxState, spells_sxWord.2.2.2.2, by decide +kernel⟩

/-- A `SX_SLEEP` ahead of which the thread sets a register, reads a CSR, stores to its segment and its window, and loads. -/
def sxAhead : SxOp :=
  ⟨0, 0, (sxWord 0x0B 5).word, [.setX 1 7, .csr 2 0xCC1, .store 0 [0x12], .store (2 ^ 40) [0x34], .load 3 0 1 true]⟩

/-- The state after what runs ahead. -/
def aheadState : State := sxAhead.acts.foldl (sxAct 0 0 0) (sxState [])

theorem witness_ThreadsRunAheadAndWait_ahead :
    let d := (sxJob []).desc
    Executes (sxState []) sxAhead (sxJob []) (sxThread []) 0 ∧ sxIs 0x0B 5 sxAhead = true ∧
      actLocks (sxState []) (sxJob []) sxAhead.acts = [] ∧
      (∃ j t, Executes aheadState { sxAhead with acts := [] } j t 0 ∧ t.getX 1 = 7 ∧ t.getX 3 = 0x12) ∧
      (spaceOf d [] 0 1 = some (.segment 0) ∧ accessOk d 5 0 1 = true ∧ accessOk d 7 0 1 = true) ∧
      (spaceOf d [] (2 ^ 40 + 4095) 1 = some (.node 4095) ∧ accessOk d 5 (2 ^ 40 + 4095) 1 = true ∧
        rangeOut (sxState []) 4095 1 = none) ∧
      accessOk d 5 (2 ^ 40 + 4096) 1 = false ∧ accessOk d 7 (2 ^ 40 + 4096) 1 = false ∧ accessOk d 1 0 4 = false := by
  refine ⟨⟨rfl, rfl, rfl, rfl, sxKind, rfl⟩, by decide +kernel, by decide +kernel, ?_, by decide +kernel⟩
  exact ⟨(jobAt aheadState 0).getD (sxJob []), (threadAt aheadState 0 0).getD (sxThread []),
    ⟨by decide +kernel, by decide +kernel, by decide +kernel, by decide +kernel, by decide +kernel, by decide +kernel⟩,
    by decide +kernel, by decide +kernel⟩

/-- A load ahead meets a slot that a command holds locked. -/
theorem witness_ThreadsRunAheadAndWait_locked :
    let s : State := { sxState [] with bb := { base.bb with bbd := [(0, { Bbd.fresh with locks := [(0, [])] })] } }
    actLocks s (sxJob []) [.load 3 (2 ^ 40) 8 false] ≠ [] := by decide +kernel

/-! ## Witnesses: links, egress and ingress -/

/-- A port that is up, with what it holds, at a time. -/
def linkState (p : Nat) (q : Port) (l : List (Nat × Fld × Nat)) : State :=
  withFields { portIsUp base p with time := 2 ^ 40, fl := [(p, q)] } l

/-- A link control frame of a type, with fields. -/
def linkFrame (type : Nat) (l : List (Nat × Nat × Nat × Nat)) : Bytes := bytesOf 64 ((0, 0, 4, type) :: l)

theorem witness_LinkControlFramesAct :
    awake (portIsUp base 17) = true ∧ portUp (portIsUp base 17) 17 = true ∧
      ((linkFrame 0 []).length = 64 ∧ bfld (linkFrame 0 []) 0 0 4 = 0) ∧
      (let b := linkFrame 1 [(4, 7, 1, 1), (22, 0, 16, 65535)]
       b.length = 64 ∧ bfld b 0 0 4 = 1 ∧ bfld b 4 7 1 = 1 ∧ ∀ c, c < 8 → bfld b 4 c 1 = 1 → num b (8 + 2 * c) 2 ≠ 0) ∧
      ((linkFrame 2 []).length = 64 ∧ bfld (linkFrame 2 []) 0 0 4 = 2 ∧ (portOf (portIsUp base 17) 17).swap = none) ∧
      (let b := linkFrame 3 [(0x18, 0, 4, 15), (0x1C, 0, 32, 9)]
       let w : Swap := ⟨15, 9, true, false, 0, false⟩
       let s := linkState 15 { Port.fresh with swap := some w } []
       awake s = true ∧ portUp s 15 = true ∧ b.length = 64 ∧ bfld b 0 0 4 = 3 ∧ (portOf s 15).swap = some w ∧ w.ours = true
         ∧ w.lane = bfld b 0x18 0 4 ∧ w.block = num b 0x1C 4) := by decide +kernel

theorem witness_PauseTimersAndLaneSwapsEnd :
    (let s := linkState 17 { Port.fresh with rx := [(6, [⟨6, 0, 0, zeros 64, none, []⟩])], sent := [(6, 0)] }
       [(rFlControl, fFlControlPauseTime, 1), (classReg 17 6, fFlPortClassLo, 0)]
     awake s = true ∧ mapGet (portOf s 17).sent 6 = some 0 ∧ getF s rFlControl fFlControlPauseTime ≠ 0
       ∧ regionLo s 17 6 < regionFill s 17 6 ∧ cyclesNs (16 * getF s rFlControl fFlControlPauseTime) ≤ elapsed s 0) ∧
    (let s := linkState 0 { Port.fresh with paused := [(7, ⟨2 ^ 40, 0⟩)] } []
     awake s = true ∧ mapGet (portOf s 0).paused 7 = some ⟨2 ^ 40, 0⟩ ∧ reached s (2 ^ 40) = true) ∧
    (let s := linkState 0 { Port.fresh with paused := [(7, ⟨2 ^ 40, 0⟩)] } [(rFlControl, fFlControlPauseWatchdog, 1)]
     awake s = true ∧ mapGet (portOf s 0).paused 7 = some ⟨2 ^ 40, 0⟩ ∧ 1024 * getF s rFlControl fFlControlPauseWatchdog ≠ 0
       ∧ 1024 * getF s rFlControl fFlControlPauseWatchdog < elapsed s 0 ∧ (portOf s 0).stalled.contains 7 = false) ∧
    (let at_ (w : Swap) : State := linkState 15 { Port.fresh with swap := some w, block := 9, aligned := 2 ^ 40 } []
     let agreed (w : Swap) : Prop := awake (at_ w) = true ∧ w.lane < 16 ∧ (portOf (at_ w) 15).swap = some w ∧ w.acked = true ∧
       w.block = 9 ∧ markerPassed (at_ w) 15 9 = true
     agreed ⟨15, 9, true, true, 0, true⟩ ∧ agreed ⟨0, 9, false, true, 0, false⟩) ∧
    (let w : Swap := ⟨0, 9, true, false, 2 ^ 40 - 9400, true⟩
     let s := linkState 0 { Port.fresh with swap := some w } []
     awake s = true ∧ (portOf s 0).swap = some w ∧ w.ours = true ∧ w.acked = false ∧ 9400 ≤ elapsed s w.start) := by decide +kernel

theorem witness_PortsTrainJoinAndLeave :
    (let s := linkState 15 .fresh [(rFlPort 15, fFlPortEnable, 1), (rFlPort 15, fFlPortState, 3)]
     awake s = true ∧ portDisabled s 15 = false ∧ portState s 15 = 3
       ∧ (∃ a, trainAs (noteAttempt s 15) 15 ((List.range 16).map fun l => (l, l)) = some a ∧ a.spare = none)
       ∧ trainAs (noteAttempt s 15) 15 [] = none) ∧
    (let s := linkState 17 { Port.fresh with attempt := 2 ^ 40 - 940000 }
       [(rFlPort 17, fFlPortEnable, 1), (rFlPort 17, fFlPortState, 1), (rFlRingStatus, fFlRingStatusAttached, 1)]
     awake s = true ∧ portState s 17 = 1 ∧ portDisabled s 17 = false ∧ 940000 ≤ elapsed s (portOf s 17).attempt
       ∧ getB s rFlRingStatus fFlRingStatusAttached = true) ∧
    (let s := linkState 15 .fresh [(rFlPort 15, fFlPortLaneMap, 2 ^ 15)]
     awake s = true ∧ portUp s 15 = true ∧ laneInUse s 15 15 = true) ∧
    (let s := linkState 16 .fresh [(rFlPort 16, fFlPortState, 2), (rFlRingControl, fFlRingControlJoinEn, 1)]
     awake s = true ∧ getB s rFlRingControl fFlRingControlJoinEn = true ∧ portState s 16 = 2
       ∧ 1024 * getF s rFlRingControl fFlRingControlListenLimit ≤ elapsed s (portOf s 16).since) ∧
    (let s := linkState 17 .fresh [(rFlPort 17, fFlPortState, 1), (rFlRingControl, fFlRingControlDetachLimit, 1),
       (rFlRingStatus, fFlRingStatusAttached, 1)]
     awake s = true ∧ getF s rFlRingControl fFlRingControlDetachLimit ≠ 0 ∧ getB s rFlRingStatus fFlRingStatusAttached = true
       ∧ portState s 17 = 1 ∧ 1024 * getF s rFlRingControl fFlRingControlDetachLimit < elapsed s (portOf s 17).since) := by
  decide +kernel

/-- A packet of 64 bytes for another node. -/
def foreignPacket : Bytes := bytesOf 64 [(4, 0, 12, 4095)]

/-- A frame for its packet's class. -/
def pktOf (f : Bytes) : Bytes := slice f 8 (f.length - 12)

theorem witness_FramesArriveAndStart :
    (let s := linkState 17 .fresh [(rCfPortFence, fCfPortFenceLogical, 0)]
     let fenced := linkState 17 .fresh [(rCfPortFence, fCfPortFenceLogical, 2 ^ 17)]
     awake s = true ∧ portUp s 17 = true ∧ discarding s = false ∧ frameOk [] = false
       ∧ (let f := mkFrame 7 1 0 0 (zeros 64)
          frameOk f = true ∧ bfld f 0 3 1 = 1)
       ∧ (let f := mkFrame 6 0 0 0 (zeros 64)
          awake fenced = true ∧ portUp fenced 17 = true ∧ discarding fenced = false ∧ frameOk f = true ∧ bfld f 0 3 1 = 0
            ∧ fenceStops fenced 17 (bfld f 0 0 3) (pktOf f) = true)
       ∧ (let f := mkFrame 6 0 4095 63 (zeros 64)
          frameOk f = true ∧ bfld f 0 3 1 = 0 ∧ fenceStops s 17 (bfld f 0 0 3) (pktOf f) = false ∧ 16 ≤ 17
            ∧ bfld f 0 4 12 ≠ nodeId s)
       ∧ (let f := mkFrame 7 0 (nodeId s) 0 (zeros 64)
          frameOk f = true ∧ bfld f 0 3 1 = 0 ∧ fenceStops s 17 (bfld f 0 0 3) (pktOf f) = false ∧ 16 ≤ 17
            ∧ bfld f 0 4 12 = nodeId s)) ∧
    (let s := linkState 15 .fresh [(rCfPortFence, fCfPortFenceLogical, 0)]
     awake s = true ∧ portUp s 15 = true ∧ discarding s = false
       ∧ (let f := mkFrame 0 0 0 0 foreignPacket
          frameOk f = true ∧ bfld f 0 3 1 = 0 ∧ fenceStops s 15 (bfld f 0 0 3) (pktOf f) = false ∧ (hdrOf (pktOf f)).dst ≠ nodeId s)
       ∧ (let f := mkFrame 7 0 0 0 (zeros 64)
          frameOk f = true ∧ bfld f 0 3 1 = 0 ∧ fenceStops s 15 (bfld f 0 0 3) (pktOf f) = false
            ∧ (hdrOf (pktOf f)).dst = nodeId s)) ∧
    (let s := linkState 17 { Port.fresh with lcf := [linkFrame 0 []] } []
     awake s = true ∧ portUp s 17 = true ∧ (portOf s 17).lcf = [linkFrame 0 []]) ∧
    (let s := enqueue (linkState 17 .fresh [(rCfPortFence, fCfPortFenceLogical, 0)]) 17 ⟨7, 0, 0, zeros 64, none, []⟩
     awake s = true ∧ portUp s 17 = true ∧ (portOf s 17).lcf = [] ∧ nextClass s 17 = some (7, ⟨7, 0, 0, zeros 64, none, []⟩)) ∧
    (let s := linkState 17 .fresh []
     awake s = true ∧ portUp s 17 = true ∧ (portOf s 17).lcf = [] ∧ nextClass s 17 = none) := by decide +kernel

theorem witness_GateListsTakeEffect :
    (let s : State := { base with es := { base.es with pending := [(17, ⟨[(0xFF, 65536)], 0, 0⟩)] } }
     awake s = true ∧ mapGet s.es.pending 17 = some ⟨[(0xFF, 65536)], 0, 0⟩ ∧ reached s 0 = true) ∧
    (let s := linkState 0 .fresh [(rEsPort 0, fEsPortSuspended, 1)]
     awake s = true ∧ portUp s 0 = true ∧ suspended s 0 = true ∧ gatesFree (operList s 0).1 = true
       ∧ windowsFit s 0 (portRate s 0) (operList s 0).1 = true) := by decide +kernel

/-! ## Witnesses: registers and the window -/

/-- The register that an access reaches first. -/
def target (a : Access) : Reached := (reachedBy a.off a.size).headD ⟨0, ⟨"", 0, 0, 0, 0, 0, 0, .both, []⟩⟩

/-- A write of 8 bytes by a function: the register and its fields. -/
def writeOf (fn off : Nat) (l : List (Fld × Nat)) : Access :=
  ⟨fn, off, 8, BitVec.ofNat 64 (l.foldl (fun v (f, x) => setFld v f.lo f.w x) 0)⟩

theorem reaches_of {s : State} {a : Access} {r : Reached}
    (h : answers s a.fn = true ∧ wakeLogic s = false ∧ blockAnswers s a.off = true ∧ sizeOk a.off a.size = true
      ∧ deferred s a = false ∧ reachedBy a.off a.size = [r] ∧ ownsWrite a.fn r.reg.owner = true ∧ r.reg.owner ≠ .both
      ∧ (byLexicon r && lxHalted s) = false ∧ (regWrite s a r).mask ≠ 0) : Reaches s a r := by
  obtain ⟨h1, h2, h3, h4, h5, h6, h7, h8, h9, h10⟩ := h
  exact ⟨h1, h2, h3, h4, h5, h6, h7, h8, h9, h10⟩

theorem writes_of {Q : State → Access → Reached → Prop} (s : State) (a : Access)
    (h : answers s a.fn = true ∧ wakeLogic s = false ∧ blockAnswers s a.off = true ∧ sizeOk a.off a.size = true
      ∧ deferred s a = false ∧ reachedBy a.off a.size = [target a] ∧ ownsWrite a.fn (target a).reg.owner = true
      ∧ (target a).reg.owner ≠ .both ∧ (byLexicon (target a) && lxHalted s) = false ∧ (regWrite s a (target a)).mask ≠ 0)
    (q : Q s a (target a)) : ∃ s a r, Reaches s a r ∧ Q s a r := ⟨s, a, target a, reaches_of h, q⟩

theorem witness_RegisterWritesAct :
    (∃ s a r, Reaches s a r ∧ r.off = rTmControl ∧ storesOnly s (regWrite s a r) = true) ∧
    (∃ s a r, Reaches s a r ∧ r.off = rBbControl ∧ storesOnly s (regWrite s a r) = true) ∧
    (∃ s a r, Reaches s a r ∧ r.off = rFtControl ∧ storesOnly s (regWrite s a r) = true) ∧
    (∃ s a r, Reaches s a r ∧ r.off = rCfControl ∧ storesOnly s (regWrite s a r) = true) ∧
    (∃ s a r, Reaches s a r ∧ r.off = rCxShardBase ∧ storesOnly s (regWrite s a r) = true) ∧
    (∃ s a r, Reaches s a r ∧ r.off = rAcSaveBase ∧ storesOnly s (regWrite s a r) = true) ∧
    (∃ s a r, Reaches s a r ∧ r.off = rAcControl ∧ (regWrite s a r).get fAcControlAttnContexts = 16
      ∧ storesOnly s (regWrite s a r) = true) := by
  refine ⟨?_, ?_, ?_, ?_, ?_, ?_, ?_⟩
  · exact writes_of base (writeOf 1 rTmControl []) (by decide +kernel) (by decide +kernel)
  · exact writes_of base (writeOf 1 rBbControl []) (by decide +kernel) (by decide +kernel)
  · exact writes_of base (writeOf 1 rFtControl []) (by decide +kernel) (by decide +kernel)
  · exact writes_of base (writeOf 0 rCfControl []) (by decide +kernel) (by decide +kernel)
  · exact writes_of base (writeOf 1 rCxShardBase []) (by decide +kernel) (by decide +kernel)
  · exact writes_of base (writeOf 1 rAcSaveBase []) (by decide +kernel) (by decide +kernel)
  · exact writes_of base (writeOf 1 rAcControl [(fAcControlAttnContexts, 16)]) (by decide +kernel) (by decide +kernel)

theorem witness_ReadsAndBadSizes :
    answers base 1 = true ∧ wakeLogic base = false ∧ blockAnswers base rTmStatus = true ∧ sizeOk (rTmStatus + 4) 8 = false
      ∧ sizeOk rTmStatus 2 = false ∧ sizeOk (rTmStatus + 4) 4 = true
      ∧ (reachedBy (rTmStatus + 4) 4).any (fun r => r.off == rTmStatus) = true := by decide +kernel

theorem witness_GuardedSettingsAreWritten :
    (∃ s a r, Reaches s a r ∧ r.off = rBbNarrowShare ∧ (regWrite s a r).get fBbNarrowShareShare = 16 ∧ anyOpen s = false
      ∧ 2081 * (remaps s).length ≤ reserveStripes ((regWrite s a r).get fBbNarrowShareShare)) ∧
    (∃ s a r, Reaches s a r ∧ r.off = rBbPermitLimit 7) ∧
    (∃ s a r, Reaches s a r ∧ r.off = rTmPlan 255 15 ∧ planOk (regWrite s a r).new = true
      ∧ (s.cx.open_.any fun e => e.2.plan == 255) = false) ∧
    (∃ s a r, Reaches s a r ∧ r.off = rPfLogHead ∧ headOk s ((regWrite s a r).get fPfLogHeadPfLogHead) = true) ∧
    (∃ s a r, Reaches s a r ∧ r.off = rPwCap ∧ (regWrite s a r).get fPwCapWatts = 600) ∧
    (∃ s a r, Reaches s a r ∧ r.off = rPwCap ∧ (regWrite s a r).get fPwCapWatts = 1650) ∧
    (∃ s a r, Reaches s a r ∧ r.off = rCxTableBase ∧ anyOpen s = false) := by
  refine ⟨?_, ?_, ?_, ?_, ?_, ?_, ?_⟩
  · exact writes_of base (writeOf 1 rBbNarrowShare [(fBbNarrowShareShare, 16)]) (by decide +kernel) (by decide +kernel)
  · exact writes_of base (writeOf 1 (rBbPermitLimit 7) []) (by decide +kernel) (by decide +kernel)
  · exact writes_of base (writeOf 1 (rTmPlan 255 15) []) (by decide +kernel) (by decide +kernel)
  · exact writes_of base (writeOf 1 rPfLogHead []) (by decide +kernel) (by decide +kernel)
  · exact writes_of base (writeOf 0 rPwCap [(fPwCapWatts, 600)]) (by decide +kernel) (by decide +kernel)
  · exact writes_of base (writeOf 0 rPwCap [(fPwCapWatts, 1650)]) (by decide +kernel) (by decide +kernel)
  · exact writes_of base (writeOf 1 rCxTableBase []) (by decide +kernel) (by decide +kernel)

theorem witness_LinkSettingsAct :
    (∃ s a r, Reaches s a r ∧ r.off = rFlPort 17 ∧ (regWrite s a r).get fFlPortEnable = 1 ∧ fld (regWrite s a r).old 3 1 = 0
      ∧ elecFenced (storeReg s (regWrite s a r)) 17 = false) ∧
    (∃ s a r, Reaches s a r ∧ r.off = rFlPort 17 ∧ (regWrite s a r).get fFlPortEnable = 0 ∧ fld (regWrite s a r).old 3 1 = 1
      ∧ portState (storeReg s (regWrite s a r)) 17 ≠ 0) ∧
    (∃ s a r, Reaches s a r ∧ r.off = rFlPort 17 + 0x10 + 8 * 7 ∧ portState s 17 ≤ 1
      ∧ (regWrite s a r).get fFlPortClassLo < (regWrite s a r).get fFlPortClassHi
      ∧ (regWrite s a r).get fFlPortClassHi ≤ (regWrite s a r).get fFlPortClassSize
      ∧ sizesWith s 17 7 ((regWrite s a r).get fFlPortClassSize) ≤ (if isRing 17 then 256 else 1024)) ∧
    (∃ s a r, Reaches s a r ∧ r.off = rEsPort 17 ∧ (regWrite s a r).order fEsPortInstall = 1) ∧
    (∃ s a r, Reaches s a r ∧ r.off = rEsShaper 17 7 ∧ fld (regWrite s a r).old fEsShaperShapeEn.lo 1 = 1
      ∧ (regWrite s a r).get fEsShaperShapeEn = 1) ∧
    (∃ s a r, Reaches s a r ∧ r.off = rImProfile 63 6 ∧ (regWrite s a r).get fImProfilePoliceEn = 0) ∧
    (∃ s a r, Reaches s a r ∧ r.off = rImProfile 63 6 ∧ 6 ≤ (regWrite s a r).get fImProfileBurst) := by
  refine ⟨?_, ?_, ?_, ?_, ?_, ?_, ?_⟩
  · exact writes_of (withFields base [(rFlPort 17, fFlPortEnable, 0), (rCfPortFence, fCfPortFenceElectrical, 0)]) (writeOf 1 (rFlPort 17) [(fFlPortEnable, 1)]) (by decide +kernel) (by decide +kernel)
  · exact writes_of (withFields base [(rFlPort 17, fFlPortEnable, 1), (rFlPort 17, fFlPortState, 4)]) (writeOf 1 (rFlPort 17) [(fFlPortEnable, 0)]) (by decide +kernel) (by decide +kernel)
  · exact writes_of (withFields base [(rFlPort 17, fFlPortState, 1)]) (writeOf 1 (rFlPort 17 + 0x10 + 8 * 7) [(fFlPortClassLo, 1), (fFlPortClassHi, 2), (fFlPortClassSize, 2)]) (by decide +kernel) (by decide +kernel)
  · exact writes_of base (writeOf 1 (rEsPort 17) [(fEsPortInstall, 1)]) (by decide +kernel) (by decide +kernel)
  · exact writes_of (withFields base [(rEsShaper 17 7, fEsShaperShapeEn, 1)]) (writeOf 1 (rEsShaper 17 7) [(fEsShaperShapeEn, 1)]) (by decide +kernel) (by decide +kernel)
  · exact writes_of base (writeOf 1 (rImProfile 63 6) []) (by decide +kernel) (by decide +kernel)
  · exact writes_of base (writeOf 1 (rImProfile 63 6) [(fImProfilePoliceEn, 1), (fImProfileRate, 1), (fImProfileBurst, 6)]) (by decide +kernel) (by decide +kernel)

theorem witness_OrdersAreCarriedOut :
    (∃ s a r, Reaches s a r ∧ r.off = rFlSwap ∧ (regWrite s a r).order fFlSwapGo = 1
      ∧ getB (storeReg s (regWrite s a r)) rFlSwap fFlSwapBusy = false) ∧
    (∃ s a r, Reaches s a r ∧ r.off = rPfPass ∧ (regWrite s a r).get fPfPassKind = 4 ∧ (regWrite s a r).order fPfPassStart = 1
      ∧ (regWrite s a r).order fPfPassAbort = 0 ∧ s.pf.pass = none ∧ a.val.toNat / 64 % 2 = 1) ∧
    (∃ s a r, Reaches s a r ∧ r.off = rPfPass ∧ (regWrite s a r).get fPfPassKind ≤ 4 ∧ (regWrite s a r).order fPfPassStart = 0
      ∧ (regWrite s a r).order fPfPassAbort = 1 ∧ a.val.toNat / 128 % 2 = 1) ∧
    (∃ s a r, Reaches s a r ∧ r.off = rPfTestTarget ∧ (regWrite s a r).order fPfTestTargetOp = testOp a ∧ testOp a = 1) ∧
    (∃ s a r, Reaches s a r ∧ r.off = rPfTestTarget ∧ (regWrite s a r).order fPfTestTargetOp = testOp a ∧ testOp a = 2) ∧
    (∃ s a r, Reaches s a r ∧ r.off = rGsIntEnable1 55 ∧ eventReg 1 55 = some rCfEvent) ∧
    (∃ s a r, Reaches s a r ∧ r.off = rQeRingCtrl1 63 ∧ ringMode s 1 63 = 0 ∧ (regWrite s a r).get fQeRingCtrl1Log2 = 16
      ∧ (regWrite s a r).touches fQeRingCtrl1Enable = true) ∧
    (∃ s a r, Reaches s a r ∧ r.off = rGsControl ∧ (regWrite s a r).order fGsControlNodeReset = 1) ∧
    (∃ s a r, Reaches s a r ∧ r.off = rPwState ∧ a.off = rPwState ∧ (regWrite s a r).covers fPwStateRequest = true
      ∧ (regWrite s a r).order fPwStateRequest = a.val.toNat % 4 ∧ a.val.toNat % 4 = 2) ∧
    (∃ s a r, Reaches s a r ∧ r.off = rPwState ∧ a.off = rPwState ∧ (regWrite s a r).covers fPwStateRequest = true
      ∧ (regWrite s a r).order fPwStateRequest = a.val.toNat % 4 ∧ a.val.toNat % 4 = 1) := by
  refine ⟨?_, ?_, ?_, ?_, ?_, ?_, ?_, ?_, ?_, ?_⟩
  · exact writes_of base (writeOf 0 rFlSwap [(fFlSwapGo, 1)]) (by decide +kernel) (by decide +kernel)
  · exact writes_of base (writeOf 1 rPfPass [(fPfPassKind, 4), (fPfPassStart, 1)]) (by decide +kernel) (by decide +kernel)
  · exact writes_of base (writeOf 1 rPfPass [(fPfPassAbort, 1)]) (by decide +kernel) (by decide +kernel)
  · exact writes_of base (writeOf 1 rPfTestTarget [(fPfTestTargetOp, 1)]) (by decide +kernel) (by decide +kernel)
  · exact writes_of base (writeOf 1 rPfTestTarget [(fPfTestTargetOp, 2)]) (by decide +kernel) (by decide +kernel)
  · exact writes_of base (writeOf 1 (rGsIntEnable1 55) []) (by decide +kernel) (by decide +kernel)
  · exact writes_of base (writeOf 1 (rQeRingCtrl1 63) [(fQeRingCtrl1Log2, 16)]) (by decide +kernel) (by decide +kernel)
  · exact writes_of base (writeOf 0 rGsControl [(fGsControlNodeReset, 1)]) (by decide +kernel) (by decide +kernel)
  · exact writes_of base (writeOf 0 rPwState [(fPwStateRequest, 2)]) (by decide +kernel) (by decide +kernel)
  · exact writes_of base (writeOf 0 rPwState [(fPwStateRequest, 1)]) (by decide +kernel) (by decide +kernel)

/-- A BAU holds the lock of slot 0. -/
def lockedNode : State := { base with bb := { base.bb with bbd := [(0, { Bbd.fresh with locks := [(0, [])] })] } }

theorem witness_WindowReachesMemory :
    windowOpen base = true ∧ (2 ^ 34 - 2) + ([1, 2] : Bytes).length ≤ 2 ^ 34
      ∧ lockedIn base (windowNpa base (2 ^ 34 - 2)) 2 = []
      ∧ (let x := slotNpa lockedNode 0 - windowNpa lockedNode 0
         windowOpen lockedNode = true ∧ x + ([1, 2] : Bytes).length ≤ 2 ^ 34 ∧ lockedIn lockedNode (windowNpa lockedNode x) 2 ≠ [])
      ∧ (∀ k, k < 2 → inModel base (windowNpa base (2 ^ 34 - 2) + k) = false) ∧ Memory.wf base.mem = true := by decide +kernel

/-! ## Witnesses: host queues, power and resets -/

/-- The last ring of Function 1, enabled with 65,536 entries and one descriptor to fetch. -/
def ringNode : State :=
  withFields base [(ringCtrl 1 63, fQeRingCtrl1Log2, 16), (ringState 1 63, fQeRingState1State, 1),
    (ringIndex 1 63, fQeRingIndex1SqTail, 1)]

/-- A completion of that ring. -/
def ringEntry : Completion := ⟨⟨1, 63, 0, 0, 0⟩, 0, 0, 0, 0, 0, false⟩

theorem witness_DoorbellsAct :
    answers ringNode 1 = true ∧ ringNode.power.restricted = false ∧ 63 < ringsOf 1 ∧ wakeLogic ringNode = false
      ∧ 65535 < ringSize ringNode 1 63 ∧ ringMode ringNode 1 63 ≠ 0 ∧ ringMode ringNode 1 63 ≠ 3
      ∧ (0 + ringSize ringNode 1 63 - cqConsumer ringNode 1 63) % ringSize ringNode 1 63 ≤
        (cqProducer ringNode 1 63 + ringSize ringNode 1 63 - cqConsumer ringNode 1 63) % ringSize ringNode 1 63
      ∧ ringSize ringNode 1 63 ≤ 65536 ∧ ringMode base 1 63 = 0
      ∧ wakeLogic { base with power := { base.power with retain := .inside } } = true := by decide +kernel

theorem witness_RingsMoveEntries :
    awake ringNode = true ∧ mayFetch ringNode 1 63 = true
      ∧ nextEntry { ringNode with qe := { ringNode.qe with finished := [ringEntry] } } 1 63 = some ringEntry
      ∧ ringEntry.notice = false ∧ ringMode ringNode 1 63 ≠ 0 := by decide +kernel

theorem witness_InterruptsAreSent :
    let s : State := { base with time := 2 ^ 40, qe := { base.qe with coalesce := [(coalesceKey 1 63, ⟨1, 0⟩)], event1 := ⟨some 0, true⟩, pba := [511] } }
    awake s = true ∧ mapGet s.qe.coalesce (coalesceKey 1 63) = some ⟨1, 0⟩
      ∧ 1024 * getF s (ringCtrl 1 63) fQeRingCtrl1CoalesceTime ≤ elapsed s 0
      ∧ eventMsg s 1 = ⟨some 0, true⟩ ∧ holdoff s 1 ≤ elapsed s 0
      ∧ 255 < vectorsOf 1 ∧ answers s 1 = true ∧ 256 * 1 + 255 ∈ s.qe.pba ∧ 256 * 1 + 254 ∉ s.qe.pba := by decide +kernel

/-- `base` with its power block changed. -/
def withPower (f : Power → Power) : State := { base with power := f base.power }

/-- A start-up in which nothing failed. -/
def goodReport : StartReport := ⟨0, 7, [], [], [], [], [], 0, 0, 0, [], []⟩

theorem witness_ResetsBeginAndEnd :
    base.power.supply ≠ .tripped ∧ base.power.supply ≠ .overvoltage ∧ base.power.opened = true ∧ powered base = true ∧ base.power.running = none ∧ awake base = true ∧ wakeLogic base = false
      ∧ (let s := withPower fun p => { p with opened := false }
         awake s = true ∧ s.power.opened = false)
      ∧ (∀ c ∈ [RClass.C, .W, .H, .N, .F], let s := withPower fun p => { p with running := some c }
          powered s = true ∧ s.power.running = some c ∧ s.power.heldReport = none)
      ∧ (∀ c ∈ [RClass.C, .W], let s := withPower fun p => { p with running := some c, heldReport := some goodReport }
          powered s = true ∧ s.power.running = some c ∧ s.power.heldReport ≠ none) := by decide +kernel

theorem witness_ModuleGoesOff :
    powered base = true ∧ (let s := withPower fun p => { p with tripDie := 100 }
       powered s = true ∧ tripMark s 0 ≠ 0 ∧ tripMark s 0 ≤ 100)
      ∧ (let s := withPower fun p => { p with tripBbd := 1 }
       powered s = true ∧ 15 < 16 ∧ tripMark s 15 ≠ 0 ∧ tripMark s 15 ≤ 1)
      ∧ (withPower fun p => { p with supply := .overvoltage }).power.supply = .overvoltage
      ∧ (withPower fun p => { p with supply := .tripped }).power.supply = .tripped := by decide +kernel

theorem witness_InputAboveTheMaximumStops : 64000 < 64001 := by decide

theorem witness_ThrottleFollowsTheGrid :
    let s : State := { base with time := msCycles }
    let hot : State := { withPower fun p => { p with tripDie := 1 } with time := msCycles }
    awake s = true ∧ s.time / msCycles ≠ s.power.boundary ∧ anyTrip s [] = false
      ∧ awake hot = true ∧ hot.time / msCycles ≠ hot.power.boundary ∧ anyTrip hot [1] = true := by decide +kernel

theorem witness_RetainIsEnteredAndLeft :
    (∀ k ∈ [1, 2, 3, 4], let s := withPower fun p => { p with retain := .entering k }
      powered s = true ∧ s.power.running = none ∧ s.power.retain = .entering k)
    ∧ attentionDone (withPower fun p => { p with retain := .entering 1 }) = true
    ∧ jobsSaved (withPower fun p => { p with retain := .entering 2 }) = true
    ∧ movesDone (withPower fun p => { p with retain := .entering 3 }) = true
    ∧ banksIdle (withPower fun p => { p with retain := .entering 4 }) = true
    ∧ (let s := withPower fun p => { p with retain := .inside }
       powered s = true ∧ s.power.retain = .inside ∧ answers s 0 = true ∧ msixAt 1 0 = none)
    ∧ (let s := withPower fun p => { p with retain := .leaving }
       powered s = true ∧ s.power.retain = .leaving) := by decide +kernel

/-! ## Witnesses: contexts and maps -/

/-- A descriptor of the last ring of Function 1, or of Function 0's ring 7. -/
def ringCmd (fn op : Nat) (l : List (Nat × Nat × Nat × Nat)) : Cmd := ⟨fn, if fn = 0 then 7 else 63, bytesOf 64 ((0, 0, 8, op) :: l), .clean⟩

theorem runs_with {Q : State → Cmd → Prop} {op : Nat} (s : State) (c : Cmd)
    (h : awake s = true ∧ turnOf s c = true ∧ ¬(c.fn = 0 ∧ lxHalted s = true) ∧ op ∈ accepted c.fn ∧ c.opcode = op
      ∧ c.reservedOk (operandBits op) = true ∧ (c.fn = 1 → genOf s c = s.qe.resets1)) (q : Q s c) :
    ∃ s c, Runs s op c ∧ Q s c := by
  obtain ⟨h1, h2, h3, h4, h5, h6, h7⟩ := h
  exact ⟨s, c, ⟨h1, h2, h3, h4, h5, h6, h7⟩, q⟩

/-- The regions of the wide pool apart from each other, and the context table zeroed. -/
def tableNode : State :=
  { base with
    regs := [(rGsStatus, 0), (rCxShardBase, 0x8000000), (rCxQuotaCtx 0, 1), (rPmPoolBase, 0x10000000), (rPmPoolSize, 1),
      (rBbNarrowShare, 0), (rTmPlan 0 0, 0xFE0010), (rPfChannels, 0), (rPwStart, 1)] }

/-- The same with shard set 0 of this node alone: the count of the set's nodes, and its first node 0. -/
def setNode0 : State := { tableNode with mem := [(19328466944, 1)], cx := { tableNode.cx with sets := [0] } }

/-- The 20 supplied bytes of an open of one layer and one head, as fields of a descriptor at 0x0C. -/
def openFields : List (Nat × Nat × Nat × Nat) := [(0x10, 0, 8, 1), (0x11, 0, 8, 1)]

/-- The last context in a state, perhaps with an operation, with the descriptor that an open with `openFields` leaves. -/
def ctxNode (st : Nat) (op : Option CtxOp) : State :=
  { tableNode with
    cx := { base.cx with open_ := [(2 ^ 20 - 1, ⟨st, 0, 0, 0, op, false, []⟩)], sets := [0] }
    mem := [(1074790272, 1), (1074790275, 0x20), (1074790276, 1), (1074790277, 1), (1074790292, 1), (1074790307, 0x10),
      (1074790398, 124), (1074790399, 125), (19328466944, 1)] }

/-- A command on the last context. -/
def ctxCmd (op : Nat) (l : List (Nat × Nat × Nat × Nat)) : Cmd := ringCmd 1 op ((8, 0, 20, 2 ^ 20 - 1) :: l)

theorem witness_RepeatedOpenIsHarmless :
    (∃ s c, Runs s 0x01 c ∧ tableReady s = true ∧ auxState s (cmdIndex c) = 1 ∧ ctxGood s (cmdIndex c) = true
      ∧ bbdUp s (bbdAt s (ctxAddr s (cmdIndex c))) = true ∧ sameSupplied (supplied c) (ctxBytes s (cmdIndex c)) = true) ∧
    (∃ s c, Runs s 0x01 c ∧ tableReady s = true ∧ auxState s (cmdIndex c) = 1 ∧ ctxGood s (cmdIndex c) = true
      ∧ bbdUp s (bbdAt s (ctxAddr s (cmdIndex c))) = true ∧ sameSupplied (supplied c) (ctxBytes s (cmdIndex c)) = false) := by
  constructor
  · exact runs_with (ctxNode 1 none) (ctxCmd 0x01 openFields) (by decide +kernel) (by decide +kernel)
  · exact runs_with (ctxNode 1 none) (ctxCmd 0x01 []) (by decide +kernel) (by decide +kernel)

theorem witness_ContextCommandsAct :
    (∃ s c, Runs s 0x01 c ∧ tableReady s = true ∧ auxState s (cmdIndex c) = 0 ∧ suppliedOk (supplied c) = true
      ∧ suppliedSetOk s (supplied c) = true ∧ openRegionsOk s = true ∧ ctxGood s (cmdIndex c) = true
      ∧ bbdUp s (bbdAt s (ctxAddr s (cmdIndex c))) = true) ∧
    (∀ st ∈ [0, 1, 3, 5], let s := ctxNode st none
      tableReady s = true ∧ ctxGood s (2 ^ 20 - 1) = true ∧ bbdUp s (bbdAt s (ctxAddr s (2 ^ 20 - 1))) = true
        ∧ auxState s (2 ^ 20 - 1) = st) ∧
    (∃ s c, Runs s 0x02 c ∧ s = ctxNode 0 none ∧ cmdIndex c = 2 ^ 20 - 1) ∧
    (∃ s c, Runs s 0x02 c ∧ s = ctxNode 1 none ∧ cmdIndex c = 2 ^ 20 - 1) ∧
    (∃ s c, Runs s 0x02 c ∧ s = ctxNode 5 none ∧ cmdIndex c = 2 ^ 20 - 1) ∧
    (∃ s c, Runs s 0x03 c ∧ s = ctxNode 3 none ∧ cmdIndex c = 2 ^ 20 - 1) ∧
    (∃ s c, Runs s 0x03 c ∧ s = ctxNode 1 none ∧ cmdIndex c = 2 ^ 20 - 1 ∧ noLower (fillCtx (begun s c) (cmdIndex c)) (ctxBytes s (cmdIndex c)) = false) ∧
    (∃ s c, Runs s 0x04 c ∧ s = ctxNode 1 none ∧ cmdIndex c = 2 ^ 20 - 1) ∧
    (∃ s c, Runs s 0x04 c ∧ s = ctxNode 3 none ∧ cmdIndex c = 2 ^ 20 - 1
      ∧ reopenSlots (fillCtx (begun s c) (cmdIndex c)) (cmdIndex c) (ctxBytes s (cmdIndex c)) ≤
        quota (fillCtx (begun s c) (cmdIndex c)) (ctxClass s (cmdIndex c)) 0 - usage (fillCtx (begun s c) (cmdIndex c)) (ctxClass s (cmdIndex c)) 0) ∧
    (∃ s c, Runs s 0x05 c ∧ s = ctxNode 1 none ∧ cmdIndex c = 2 ^ 20 - 1 ∧ c.badBuf 128 = false) ∧
    (∃ s c, Runs s 0x06 c ∧ tableReady s = false ∧ bfld c.d 8 16 11 = 0 ∧ c.badBuf (2 * bfld c.d 8 16 11) = false
      ∧ s.cx.open_.any (fun e => e.2.shardSet == bfld c.d 8 0 12) = false) ∧
    (∃ s c, Runs s 0x06 c ∧ bfld c.d 8 16 11 = 2 ∧ c.badBuf (2 * bfld c.d 8 16 11) = false
      ∧ s.cx.open_.any (fun e => e.2.shardSet == bfld c.d 8 0 12) = false) ∧
    ((∀ v ∈ idsOf [0xFF, 0x0F, 0, 0] 2, v < 4096) ∧ (idsOf [0xFF, 0x0F, 0, 0] 2).eraseDups.length = 2
      ∧ (idsOf [0xFF, 0x0F, 0, 0] 2).length = 2) := by
  refine ⟨?_, by decide +kernel, ?_, ?_, ?_, ?_, ?_, ?_, ?_, ?_, ?_, ?_, by decide +kernel⟩
  · exact runs_with setNode0 (ctxCmd 0x01 openFields) (by decide +kernel) (by decide +kernel)
  · exact runs_with (ctxNode 0 none) (ctxCmd 0x02 []) (by decide +kernel) (by decide +kernel)
  · exact runs_with (ctxNode 1 none) (ctxCmd 0x02 []) (by decide +kernel) (by decide +kernel)
  · exact runs_with (ctxNode 5 none) (ctxCmd 0x02 []) (by decide +kernel) (by decide +kernel)
  · exact runs_with (ctxNode 3 none) (ctxCmd 0x03 []) (by decide +kernel) (by decide +kernel)
  · exact runs_with (ctxNode 1 none) (ctxCmd 0x03 []) (by decide +kernel) (by decide +kernel)
  · exact runs_with (ctxNode 1 none) (ctxCmd 0x04 []) (by decide +kernel) (by decide +kernel)
  · exact runs_with (ctxNode 3 none) (ctxCmd 0x04 []) (by decide +kernel) (by decide +kernel)
  · exact runs_with (ctxNode 1 none) (ctxCmd 0x05 [(0x18, 0, 32, 128)]) (by decide +kernel) (by decide +kernel)
  · exact runs_with (withFields tableNode [(rPwStart, fPwStartCxReady, 0)]) (ringCmd 1 0x06 [(8, 0, 12, 4095)]) (by decide +kernel)
      (by decide +kernel)
  · exact runs_with tableNode (ringCmd 1 0x06 [(8, 0, 12, 4095), (8, 16, 11, 2), (0x18, 0, 32, 4)]) (by decide +kernel)
      (by decide +kernel)

theorem readCtx_good {s : State} {i src : Nat} (h : descFault s i src = none) :
    readCtx s i src = .ok (ctxBytes s i, fillCtx s i) := by
  unfold readCtx; rw [h]

theorem readCtx_fails {s : State} {i src : Nat} (h : (descFault s i src).isSome = true) : ∃ v, readCtx s i src = .error v := by
  unfold readCtx
  split
  · exact ⟨_, rfl⟩
  · rename_i e; rw [e] at h; cases h

theorem witness_ContextOperationsEnd :
    (let s : State := { base with cx := { base.cx with zeroing := true } }
     awake s = true ∧ s.cx.zeroing = true) ∧
    (let s := ctxNode 5 (some ⟨.close, [], 0, none⟩)
     awake s = true ∧ mapGet s.cx.open_ (2 ^ 20 - 1) = some ⟨5, 0, 0, 0, some ⟨.close, [], 0, none⟩, false, []⟩
       ∧ inFlight s (2 ^ 20 - 1) = 0) := by decide +kernel

theorem witness_ContextOperationsEnd_read :
    (let s := ctxNode 3 none
     let u := takeReads s Reads.clean
     awake s = true ∧ auxState s (2 ^ 20 - 1) = 3
       ∧ readCtx u (2 ^ 20 - 1) 2 = .ok (ctxBytes u (2 ^ 20 - 1), fillCtx u (2 ^ 20 - 1))) ∧
    (∀ k ∈ [CtxOpKind.park, .reopen], let s := ctxNode 2 (some ⟨k, [], 0, none⟩)
     let u := takeReads s Reads.clean
     awake s = true ∧ mapGet s.cx.open_ (2 ^ 20 - 1) = some ⟨2, 0, 0, 0, some ⟨k, [], 0, none⟩, false, []⟩
       ∧ readCtx u (2 ^ 20 - 1) 2 = .ok (ctxBytes u (2 ^ 20 - 1), fillCtx u (2 ^ 20 - 1))
       ∧ opMoves (fillCtx u (2 ^ 20 - 1)) (2 ^ 20 - 1) = false ∧ lifting (fillCtx u (2 ^ 20 - 1)) (2 ^ 20 - 1) = false) := by
  refine ⟨⟨by decide +kernel, by decide +kernel, readCtx_good (by decide +kernel)⟩, fun k hk => ?_⟩
  simp only [List.mem_cons, List.not_mem_nil, or_false] at hk
  obtain rfl | rfl := hk <;>
    exact ⟨by decide +kernel, by decide +kernel, readCtx_good (by decide +kernel), by decide +kernel, by decide +kernel⟩

theorem witness_ContextOperationsEnd_fails :
    ∀ k ∈ [CtxOpKind.park, .reopen], let s : State := { ctxNode 2 (some ⟨k, [], 0, none⟩) with mem := [(1074790272, 1)] }
      awake s = true ∧ runsOp s (2 ^ 20 - 1) k = true ∧ ∃ u, readCtx (takeReads s Reads.clean) (2 ^ 20 - 1) 2 = .error u := by
  intro k hk
  simp only [List.mem_cons, List.not_mem_nil, or_false] at hk
  obtain rfl | rfl := hk <;> exact ⟨by decide +kernel, by decide +kernel, readCtx_fails (by decide +kernel)⟩

/-- A move of a page of context 0 that waits in the queue. -/
def queuedMove : Move := ⟨0, 0, 0, 0, 1, .mark, 0, .queued, [], none, [], none⟩

/-- An operation of context 0 that waits. -/
def waitingOp (dst : List Nat) (walker : Option Nat) : PageOp := ⟨bytesOf 32 [(0, 0, 8, 2)], 0, 0, 0, 0, false, none, 0, 0, false, none, walker, dst, [], []⟩

/-- `tableNode` with its map state changed. -/
def withPm (f : Pm → Pm) : State := { tableNode with pm := f tableNode.pm }

theorem witness_MapWaitsEnd :
    (let s := withPm fun p => { p with walkWait := [(.request 0, 0)] }
     awake s = true ∧ s.pm.walkWait = [(.request 0, 0)] ∧ s.pm.walkers.length < walkerSlots) ∧
    (let s := withPm fun p => { p with walkWait := [(.move 0, 0)] }
     let s : State := { s with tm := { s.tm with moves := [(0, queuedMove)] } }
     let u := bumpR { s with pm := { s.pm with walkWait := [] } } rPmWaitWalker (elapsed s 0)
     awake s = true ∧ s.pm.walkWait = [(.move 0, 0)] ∧ s.pm.walkers.length < walkerSlots ∧ moverRuns u = true ∧ isNext u 0 = true) ∧
    (let s := withPm fun p => { p with walkWait := [(.command 7, 0)] }
     awake s = true ∧ s.pm.walkWait = [(.command 7, 0)] ∧ s.pm.walkers.length < walkerSlots) ∧
    (let s := withPm fun p => { p with walkWait := [(.op 0, 0)] }
     let s : State := { s with ae := { s.ae with ops := [(0, waitingOp [] none)] } }
     let u := bumpR { s with pm := { s.pm with walkWait := [] } } rPmWaitWalker (elapsed s 0)
     awake s = true ∧ s.pm.walkWait = [(.op 0, 0)] ∧ s.pm.walkers.length < walkerSlots
       ∧ mapGet s.ae.ops 0 = some (waitingOp [] none) ∧ (walkStart u 0 (some 0) (.op 0)).isSome = true) ∧
    (let s := withPm fun p => { p with editWait := [(.flip 0, 0)] }
     let v : State := { s with pm := { s.pm with editWait := [] } }
     awake s = true ∧ s.pm.editWait = [(.flip 0, 0)]
       ∧ (pokeRetires (releasePage v 0)).pm.editWait.any (fun w => w.1 == .flip 0) = false) ∧
    (let s := withPm fun p => { p with editWait := [(.drop 0 0 0 0, 0)] }
     let v : State := { s with pm := { s.pm with editWait := [] } }
     awake s = true ∧ s.pm.editWait = [(.drop 0 0 0 0, 0)] ∧ moveOf v 0 0 0 0 = none
       ∧ (pokeRetires v).pm.editWait.any (fun w => w.1 == .drop 0 0 0 0) = false) ∧
    (let s := withPm fun p => { p with editWait := [(.requant 0 0 0 0, 0)] }
     let v : State := { s with pm := { s.pm with editWait := [] } }
     awake s = true ∧ s.pm.editWait = [(.requant 0 0 0 0, 0)]
       ∧ (pokeRetires (flipAgain v 0 0 0 0)).pm.editWait.any (fun w => w.1 == .requant 0 0 0 0) = false) ∧
    (let g : Grant := ⟨[2 ^ 37], 2 ^ 37, 0, 0, 0, 0, false, false, false, 0⟩
     let s := withPm fun p => { p with grants := [g] }
     awake s = true ∧ grantOf s (2 ^ 37) = some g ∧ g.granted = false ∧ g.releasing = false) ∧
    (let g : Grant := ⟨[2 ^ 37], 2 ^ 37, 0, 0, 0, 0, true, true, false, 0⟩
     let s := withPm fun p => { p with grants := [g] }
     awake s = true ∧ grantOf s (2 ^ 37) = some g ∧ g.releasing = true ∧ g.acked = false ∧ g.parts.any (slotLocked s) = false) := by decide +kernel

/-! ## Witnesses: attention -/

/-- A message of 32 bytes with an opcode and a body. -/
def attnMsg (op : Nat) (body : Bytes) : Bytes := mkMsg op 0 (zeros 32) 0 0 body

/-- A request of context 0 for one row of one head. -/
def oneRow : Bytes := attnMsg 1 (bytesOf 64 [(4, 6, 7, 1), (4, 13, 7, 1), (8, 0, 16, 1)])

/-- Draft rows of another request: tag 1. -/
def otherRow : Bytes := bytesOf 32 [(0, 0, 8, 4), (4, 0, 8, 255), (8, 0, 8, 255), (16, 0, 8, 255)]

/-- An accepted request with its draft rows and children. -/
def openReq (m : Bytes) (verify : Bool) (draft : DraftState) (cs : List Child) : Req :=
  ⟨m, 0, 0, 0, 0, 0, none, verify, none, [], draft, cs, 1, none, [], []⟩

/-- A child that has not settled, at shard 0 of node 5. -/
def openChild : Child := ⟨0, 5, 0, false, none, none⟩

/-- A composed node with context 0 open, at a time, with these requests. -/
def attnNode (rs : NMap Req) : State :=
  { tableNode with
    time := 2 ^ 40
    regs := mapPut (mapPut tableNode.regs rCfStatus (BitVec.ofNat 64 (at_ fCfStatusComposed.lo 1 1))) rAeControl
      (BitVec.ofNat 64 (at_ fAeControlForwardEn.lo 1 1))
    cx := { base.cx with open_ := [(0, ⟨1, 0, 0, 0, none, false, []⟩)] }
    ae := { base.ae with reqs := rs } }

/-- A clause `MOVED` with a hint to node 7. -/
def movedClause : Bytes := attnMsg 8 (failClause stMoved 0 5 (some (7, 0)) false).body

/-- The state in which draft rows have been taken and the descriptor read. -/
def draftState (s : State) (m : Bytes) : State := fillCtx (takeReads (takeMsg s m) Reads.clean) (msgCtx m)

theorem witness_AttentionMessagesAreTaken :
    awake (attnNode []) = true ∧ (zeros 31).length < 32 ∧
      (∀ op ∈ [1, 2, 3, 4, 8, 9], 32 ≤ (attnMsg op []).length ∧ knownOp (attnMsg op []) = true ∧ msgOp (attnMsg op []) = op) ∧
      (let m := attnMsg 4 []
       let s := attnNode []
       headerBad m = false ∧ bodyShort m = false ∧ s.power.retain = .out ∧ epochOk s (msgEpoch m) = true
         ∧ jobFenced s (msgJob m) (msgEpoch m) = false ∧ tableReady s = true ∧ auxState (draftState s m) (msgCtx m) = 1
         ∧ descFault (takeReads (takeMsg s m) Reads.clean) (msgCtx m) 0 = none
         ∧ dIndex (ctxBytes (takeReads (takeMsg s m) Reads.clean) (msgCtx m)) = 0 ∧ (draftState s m).ae.drafts.any (fun x => sameRequest x.msg m) = false
         ∧ ((draftState s m).ae.reqs.find? fun e => e.2.draft == .waiting && sameRequest e.2.msg m) = none
         ∧ (draftState s m).ae.drafts.length < 256) ∧
      (let m := attnMsg 4 []
       let s : State := { attnNode [] with ae := { base.ae with drafts := List.replicate 256 ⟨otherRow, 0⟩ } }
       epochOk s (msgEpoch m) = true ∧ jobFenced s (msgJob m) (msgEpoch m) = false ∧ tableReady s = true
         ∧ auxState (draftState s m) (msgCtx m) = 1
         ∧ descFault (takeReads (takeMsg s m) Reads.clean) (msgCtx m) 0 = none
         ∧ dIndex (ctxBytes (takeReads (takeMsg s m) Reads.clean) (msgCtx m)) = 0 ∧ 256 ≤ (draftState s m).ae.drafts.length
         ∧ (draftState s m).ae.drafts.any (fun x => sameRequest x.msg m) = false) ∧
      (let m := attnMsg 4 []
       let r := openReq oneRow false .waiting []
       let s := attnNode [(0, r)]
       epochOk s (msgEpoch m) = true ∧ jobFenced s (msgJob m) (msgEpoch m) = false ∧ tableReady s = true
         ∧ auxState (draftState s m) (msgCtx m) = 1 ∧ dIndex (ctxBytes (takeReads (takeMsg s m) Reads.clean) (msgCtx m)) = 0
         ∧ descFault (takeReads (takeMsg s m) Reads.clean) (msgCtx m) 0 = none
         ∧ (draftState s m).ae.drafts.any (fun x => sameRequest x.msg m) = false ∧ (draftState s m).ae.drafts.length < 256
         ∧ ((draftState s m).ae.reqs.find? fun e => e.2.draft == .waiting && sameRequest e.2.msg m) = some (0, r)) ∧
      (let m := attnMsg 8 []
       ((takeMsg (attnNode []) m).ae.reqs.find? fun e => sameRequest e.2.msg m
         && decide (msgParent m = nodeId (takeMsg (attnNode []) m))
         && e.2.children.any fun c => c.shard == msgDest m && c.settled.isNone) = none) ∧
      (let m := movedClause
       let r := openReq oneRow false .none [openChild]
       let s := attnNode [(0, r)]
       let u := takeMsg s m
       32 ≤ m.length ∧ knownOp m = true ∧ msgOp m = opClause
         ∧ (u.ae.reqs.find? fun e => sameRequest e.2.msg m && decide (msgParent m = nodeId u)
           && e.2.children.any fun c => c.shard == msgDest m && c.settled.isNone) = some (0, r)
         ∧ (r.children.find? fun c => c.shard == msgDest m) = some openChild
         ∧ movedHint (childBody r openChild m) = some 7 ∧ getB u rAeControl fAeControlForwardEn = true
         ∧ openChild.resent = false ∧ movedHint (childBody r openChild (attnMsg 8 [])) = none) := by decide +kernel

theorem witness_AttentionWaitsAndWorkEnd :
    (let s : State := { attnNode [] with ae := { base.ae with drafts := [⟨attnMsg 4 [], 0⟩] } }
     awake s = true ∧ s.ae.drafts[0]? = some ⟨attnMsg 4 [], 0⟩ ∧ childTimeout s ≤ elapsed s 0) ∧
    (let r := openReq oneRow false .waiting [openChild]
     let s := attnNode [(0, r)]
     awake s = true ∧ mapGet s.ae.reqs 0 = some r ∧ r.draft = .waiting ∧ childTimeout s ≤ elapsed s r.accepted
       ∧ (r.children.find? fun c => c.shard == 0 && c.settled.isNone) = some openChild
       ∧ r.height * childTimeout s ≤ elapsed s openChild.start) ∧
    (let s : State := { attnNode [] with ae := { base.ae with slotWait := [(attnMsg 1 [], 0)] } }
     awake s = true ∧ s.ae.slotWait = [(attnMsg 1 [], 0)] ∧ slotsFull s = false) ∧
    (let r := openReq (attnMsg 1 []) false .none []
     let s := attnNode [(0, r)]
     awake s = true ∧ mapGet s.ae.reqs 0 = some r ∧ r.draft ≠ .waiting ∧ r.children.any (fun c => c.settled.isNone) = false
       ∧ r.dispatched = true ∧ descFault (takeReads s Reads.clean) r.ctx 0 = none ∧ workReady s r (ctxBytes s r.ctx) = true) ∧
    (let r := openReq oneRow false .none []
     let s := attnNode [(0, r)]
     awake s = true ∧ mapGet s.ae.reqs 0 = some r ∧ r.draft ≠ .waiting ∧ r.children.any (fun c => c.settled.isNone) = false
       ∧ descFault (takeReads s Reads.clean) r.ctx 0 = none ∧ workReady s r (ctxBytes s r.ctx) = false) ∧
    (let r := { openReq (attnMsg 1 []) false .none [] with plans := [(0, ⟨1, [], [], []⟩)] }
     let s := attnNode [(0, r)]
     mapGet s.ae.reqs 0 = some r ∧ r.draft ≠ .waiting ∧ r.children.any (fun c => c.settled.isNone) = false
       ∧ descFault (takeReads s Reads.clean) r.ctx 0 = none ∧ r.dispatched = false) ∧
    (let r := openReq oneRow false .none []
     let s : State := { attnNode [(0, r)] with mem := [(ctxAddr (attnNode []) 0 + 4, 1)] }
     awake s = true ∧ mapGet s.ae.reqs 0 = some r ∧ r.draft ≠ .waiting ∧ r.children.any (fun c => c.settled.isNone) = false
       ∧ (descFault (takeReads s Reads.clean) r.ctx 0).isSome = true) ∧
    (let r := openReq oneRow true .none []
     let s := attnNode [(0, r)]
     awake s = true ∧ (s.ae.reqs.filter fun e => decide (waysWanted e.2 ≠ 0) && (tileWay s e.2).isSome) = [(0, r)]
       ∧ (tileWay s r).isSome = true) := by decide +kernel

/-! ## Witnesses: bank buffer dies -/

/-- A command of the dispatch on the last die that spells an opcode, with a target. -/
def bankCmd (op target : Nat) : BauCmd := ⟨7, .dispatch, bytesOf 32 [(0, 0, 8, op), (0x0C, 0, 32, 1), (0x10, 0, 40, target)], 0⟩

/-- It runs on BAU 0 of that die. -/
def runningCmd (op target : Nat) : BauEntry := ⟨0, bankCmd op target, 0, [0], [], 0, none, 0, none⟩

/-- A node whose last die is in a state, at a time. -/
def bankNode (x : Bbd) : State := { withFields tableNode [(rBbStatus 7, fBbStatusLinkUp, 1)] with time := 10000, bb := { base.bb with bbd := [(7, x)] } }

theorem witness_BankCommandsArrive :
    awake base = true ∧ (bankCmd 0 0).bbd < 8 ∧ bOp (bankCmd 0 0).word = 0 ∧ 8 < bOp (bankCmd 9 0).word
      ∧ bOp (bankCmd opGloss 0).word = opGloss ∧ bOp (bankCmd opAttendPage 0).word = opAttendPage
      ∧ bOp (bankCmd opAppendRows 0).word = opAppendRows ∧ bOp (bankCmd opRequant 0).word = opRequant
      ∧ bOp (bankCmd opRms 0).word = opRms ∧ bOp (bankCmd opElem 0).word = opElem
      ∧ bOp (bankCmd opGather 0).word = opGather ∧ bOp (bankCmd opZero 0).word = opZero := by decide +kernel

/-- A queued `ZERO_RANGE` of one BAU. -/
def queuedZero : BauEntry := { runningCmd opZero 127 with baus := [], waited := 3 }

theorem witness_BankCommandsRunAndComplete :
    (let s := bankNode { Bbd.fresh with queue := [queuedZero] }
     let free (s : State) : Prop := awake s = true ∧ queuedCmds (bbdOf s 7) = [queuedZero] ∧ linkUp s 7 = true
       ∧ orderedOk (bbdOf s 7) queuedZero = true ∧ requantRef queuedZero = none
       ∧ ((lockFor s queuedZero).map (slotLocked s)).getD false = false
     free s ∧ permitsHeld (bbdOf s 7) + bSpan queuedZero.cmd.word ≤ permitLimit s 7 ∧ (bausFor s 7 queuedZero.cmd.word).isSome = true
       ∧ (let none := setF s (rBbPermitLimit 7) fBbPermitLimitLimit 0
          free none ∧ permitLimit none 7 < permitsHeld (bbdOf none 7) + bSpan queuedZero.cmd.word)) ∧
    (let s := bankNode { Bbd.fresh with queue := [runningCmd opZero 127] }
     awake s = true ∧ 7 < 8 ∧ ((bbdOf s 7).queue.find? fun e => e.baus.contains 0) = some (runningCmd opZero 127)
       ∧ (∀ n < 2, linkUp (linkReplays s 7 n) 7 = true
         ∧ (streams (linkReplays s 7 n) (runningCmd opZero 127)).any (fun c => (refreshOf (linkReplays s 7 n) c).paused) = false)) := by
  decide +kernel

theorem witness_DieLinksRetrainAndChannelsRefresh :
    (let s := bankNode .fresh
     awake s = true ∧ 7 < 8 ∧ linkUp s 7 = true ∧ (refreshOf s 127).paused = false ∧ (streamers s 127).isEmpty = true) ∧
    (let s := bankNode { Bbd.fresh with retrain := some 601 }
     awake s = true ∧ (bbdOf s 7).retrain = some 601 ∧ elapsed s 601 < 9400) ∧
    (let s := bankNode { Bbd.fresh with retrain := some 600 }
     awake s = true ∧ (bbdOf s 7).retrain = some 600 ∧ 9400 ≤ elapsed s 600) ∧
    (let s := bankNode { Bbd.fresh with queue := [runningCmd opZero 127] }
     let s : State := { s with bb := { s.bb with refresh := [(127, ⟨4, false⟩)] } }
     awake s = true ∧ 127 < 128 ∧ (refreshOf s 127).paused = false ∧ 4 ≤ (refreshOf s 127).postponed
       ∧ (streamers s 127).isEmpty = false ∧ (streamers s 127).any (fun e => e.lock.isSome) = false) ∧
    (let s : State := { base with bb := { base.bb with refresh := [(127, ⟨4, true⟩)] } }
     awake s = true ∧ 127 < 128 ∧ (refreshOf s 127).paused = true) := by decide +kernel

/-! ## Witnesses: threads and jobs -/

/-- A node with a thread of a job. -/
def threadNode (t : Thread) (desc : Bytes) : State :=
  { base with
    time := 2 ^ 40
    ac := { base.ac with jobs := [(0, { sxJob [] with desc := desc, threads := [(0, t)] })], ways := [(0, .thread 0 0)] } }

/-- The descriptor of `sxJob`. -/
def jobDesc : Bytes := bytesOf 128 [(0x40, 0, 32, 1)]

/-- A thread with an outstanding copy of 64 bytes. -/
def copying (src dst : Nat) : Thread := { sxThread [] with tickets := [⟨2 ^ 32, .copy, none, src, dst, 64⟩] }

theorem executes_threadNode (t : Thread) (h : t.way = some 0) (r : t.ready = true) (i : SxOp) (k : i.job = 0 ∧ i.idx = 0) :
    Executes (threadNode t jobDesc) i { sxJob [] with desc := jobDesc, threads := [(0, t)] } t 0 := by
  obtain ⟨job, idx, word, acts⟩ := i
  obtain ⟨rfl, rfl⟩ := k
  exact ⟨rfl, rfl, rfl, h, sxKind, r⟩

/-- The word of `sxWord` with funct7 127, or with bits [26:25] 3 for `sx.copy`. -/
def oddWord (op f3 : Nat) : SxOp := ⟨0, 0, (sxWord op f3).word + (if op = 0x5B then 3 * 2 ^ 25 else 127 * 2 ^ 25), []⟩

theorem spells_poll_end : Spells 0x0B 4 (sxWord 0x0B 4) ∧ Spells 0x0B 7 (sxWord 0x0B 7) := by
  refine ⟨⟨rfl, ?_, ?_⟩, ⟨rfl, ?_, ?_⟩⟩ <;> decide +kernel

theorem witness_ThreadsPollAndEnd :
    (∀ xs w, Executes (sxState xs) ⟨0, 0, w, []⟩ (sxJob xs) (sxThread xs) 0) ∧
      (Spells 0x0B 4 (sxWord 0x0B 4) ∧ Spells 0x0B 7 (sxWord 0x0B 7)) ∧
      ((∀ f3 < 8, sxIllegal (oddWord 0x0B f3) = true ∧ (oddWord 0x0B f3).acts = [] ∧ sxIs 0x0B f3 (oddWord 0x0B f3) = true) ∧
        sxIllegal (oddWord 0x5B 0) = true ∧ sxIs 0x5B 0 (oddWord 0x5B 0) = true ∧
        sxIllegal (sxWord 0x5B 7) = true ∧ sxIs 0x5B 0 (sxWord 0x5B 7) = true) ∧
      (let xs : NMap Word := [(1, 2 ^ 63 + 65535)]
       awaitKnown (sxState xs) (sxJob xs) (awaitOf ((sxThread xs).getX 1)) = true ∧
         awaitKnown (sxState xs) (sxJob xs) (awaitOf ((sxThread xs).getX 2)) = false) ∧
      ((5 ∈ [1, 5, 7] ∧ accessOk jobDesc 5 segBytes 1 = false) ∧ (2 ∉ [1, 5, 7])) ∧
      (∀ src dst i, i.job = 0 ∧ i.idx = 0 → Executes (threadNode (copying src dst) jobDesc) i
        { sxJob [] with desc := jobDesc, threads := [(0, copying src dst)] } (copying src dst) 0) ∧
      (let t := copying (segBytes - 64) (2 ^ 40 + 4032)
       let s := threadNode t jobDesc
       let x : Ticket := ⟨2 ^ 32, .copy, none, segBytes - 64, 2 ^ 40 + 4032, 64⟩
       t.tickets.find? (fun x => x.id == 2 ^ 32 && x.kind == .copy && x.status.isNone) = some x ∧ copyLocks s 0 x = []
         ∧ spaceOf jobDesc (basedRanges s jobDesc) (segBytes - 64) 64 = some (.segment (segBytes - 64))
         ∧ spaceOf jobDesc (basedRanges s jobDesc) (2 ^ 40 + 4032) 64 = some (.node 4032) ∧ rangeOut s 4032 64 = none) ∧
      (let t := copying (2 ^ 40 + 4032) (segBytes - 64)
       let s := threadNode t jobDesc
       let x : Ticket := ⟨2 ^ 32, .copy, none, 2 ^ 40 + 4032, segBytes - 64, 64⟩
       t.tickets.find? (fun x => x.id == 2 ^ 32 && x.kind == .copy && x.status.isNone) = some x ∧ copyLocks s 0 x = []
         ∧ (Where.node 4032).npa = some 4032) :=
  ⟨executes_sxState, spells_poll_end, by decide +kernel, by decide +kernel, by decide +kernel,
    fun _ _ i k => executes_threadNode _ rfl rfl i k, by decide +kernel, by decide +kernel⟩

theorem witness_ContextsWakeAndSwap_wake :
    ∀ p ∈ [Place.resident 0 0 0, .swapped, .saving 0 0],
      let t : Thread := { sxThread [] with place := p, cond := .blocked, await := some (5, .time 0) }
      let s := threadNode t jobDesc
      let j : Job := { sxJob [] with desc := jobDesc, threads := [(0, t)] }
      awake s = true ∧ jobAt s 0 = some j ∧ threadAt s 0 0 = some t ∧ jKind j.desc = 0 ∧ t.await = some (5, .time 0)
        ∧ awaited s j t (.time 0) = some 0 ∧ t.place = p ∧ t.cond = .blocked ∧ t.event = none := by decide +kernel

/-- Core 0 with every way held by a blocked thread of job 0, and a runnable thread of job 1 at a place. -/
def fullCore (p : Place) (ways : NMap WayUse) : State :=
  let s := withFields base [(rAcClassWays 0, fAcClassWaysReach, 0xFFFF)]
  { s with
    time := 2 ^ 40
    ac := { base.ac with
      jobs := [(0, { sxJob [] with desc := jobDesc, threads := (List.range 16).map fun w =>
          (w, { sxThread [] with place := .resident 0 w 0, cond := .blocked }) }),
        (128, { sxJob [] with desc := jobDesc, threads := [(0, { sxThread [] with place := p, cond := .runnable })] })]
      ways := ways } }

/-- All sixteen ways are held. -/
def allWays : NMap WayUse := (List.range 16).map fun w => (w, .thread 0 w)

theorem witness_ContextsWakeAndSwap_swap :
    (let s := fullCore .fresh allWays
     let full (cls : Nat) : Option Nat :=
       if (jobWays s cls).any (fun w => wayFree s (16 * 0 + w)) = true then none else (jobWays s cls).head?
     awake s = true ∧ 0 < activeAcs s ∧ acOpen s 0 = true ∧ allBlocked s 0 = true
       ∧ (longest s (wanting s full)).map (·.job) = some 128 ∧ jobAt s 128 = some { sxJob [] with desc := jobDesc, threads := [(0, { sxThread [] with place := .fresh, cond := .runnable })] }
       ∧ (victim s 0 (fun w => (jobWays s 0).contains w) residentMin).isSome = true) ∧
    (let s := fullCore .fresh allWays
     let s : State := { s with lx := { s.lx with supplete := [(0, [])] } }
     awake s = true ∧ 0 < activeAcs s ∧ acOpen s 0 = false ∧ (victim s 0 (fun _ => true) 0).isSome = true) ∧
    (let t : Thread := { sxThread [] with place := .saving 0 0 }
     let s := threadNode t jobDesc
     awake s = true ∧ 0 < activeAcs s ∧ holderOf s 0 = some (0, 0, t) ∧ t.place = .saving 0 0) ∧
    (∀ p ∈ [Place.fresh, .area, .swapped], let s := fullCore p []
     awake s = true ∧ 0 < activeAcs s ∧ acOpen s 0 = true
       ∧ (longest s (wanting s fun cls => (jobWays s cls).find? fun w => wayFree s (16 * 0 + w))).map (·.t.place) = some p) ∧
    (∀ area ∈ [true, false], let t : Thread := { sxThread [] with place := .loading 0 0 area }
     let s := threadNode t jobDesc
     awake s = true ∧ 0 < activeAcs s ∧ holderOf s 0 = some (0, 0, t) ∧ t.place = .loading 0 0 area
       ∧ jobAt s 0 = some { sxJob [] with desc := jobDesc, threads := [(0, t)] } ∧ t.event = none) := by decide +kernel

/-- A node with a swap pool of one slot, room for one job, and a job descriptor of one thread at NPA 0. -/
def jobNode : State :=
  { tableNode with
    regs := mapPut (mapPut (mapPut tableNode.regs rCxJobLimit 1) rAcSaveBase 0x20000000) rAcSaveSize 65
    mem := [(4, 1)] }

/-- A node with a job at the last place of GDDR7. -/
def withJob (desc : Bytes) (p : Option Preempt) : State :=
  { base with time := 2 ^ 40, ac := { base.ac with jobs := [(2 ^ 37 - 128, { sxJob [] with desc := desc, preempt := p })] } }

/-- A job descriptor with a save area. -/
def saveDesc : Bytes := bytesOf 128 [(0x30, 0, 32, 4096 + swapBytes)]

/-- A job command on an NPA. -/
def jobCmd (op n : Nat) : Cmd := ringCmd 1 op [(8, 0, 40, n)]

theorem witness_JobCommandsAct :
    (∃ s c, Runs s 0x10 c ∧ jobAt s (jobOperand c) = none ∧ jobOperand c + 128 ≤ gddrSize ∧ rangeOut s (jobOperand c) 128 = none
      ∧ jobFormatBad (begun s c) (readMem s (jobOperand c) 128) = false ∧ jSaveBytes (readMem s (jobOperand c) 128) = 0
      ∧ resumeBad (begun s c) (readMem s (jobOperand c) 128) = false
      ∧ jobNoRoom (begun s c) (readMem s (jobOperand c) 128) = false) ∧
    (∃ s c, Runs s 0x11 c ∧ jobAt s (jobOperand c) = none) ∧
    (∃ s c, Runs s 0x11 c ∧ (jobAt s (jobOperand c)).map (fun j => jSaveBytes j.desc) = some 0) ∧
    (∃ s c, Runs s 0x11 c ∧ ∃ j, jobAt s (jobOperand c) = some j ∧ jSaveBytes j.desc ≠ 0 ∧ j.preempt = none) ∧
    (let s := withJob saveDesc (some ⟨true, 0, []⟩)
     awake s = true ∧ (jobAt s (2 ^ 37 - 128)).bind (·.preempt) = some ⟨true, 0, []⟩ ∧ preemptLimit s ≤ elapsed s 0) ∧
    (∃ s c, Runs s 0x12 c ∧ (jobAt s (jobOperand c)).isSome = true) ∧
    (∃ s c, Runs s 0x12 c ∧ jobAt s (jobOperand c) = none ∧ (s.ac.records.reverse.find? fun x => x.npa == jobOperand c) = none) ∧
    (∃ s c, Runs s 0x12 c ∧ jobAt s (jobOperand c) = none
      ∧ (s.ac.records.reverse.find? fun x => x.npa == jobOperand c) = some ⟨128, 0, 1, 0, 0, 0⟩) := by
  refine ⟨?_, ?_, ?_, ?_, by decide +kernel, ?_, ?_, ?_⟩
  · exact runs_with jobNode (jobCmd 0x10 0) (by decide +kernel) (by decide +kernel)
  · exact runs_with base (jobCmd 0x11 0) (by decide +kernel) (by decide +kernel)
  · exact runs_with (withJob jobDesc none) (jobCmd 0x11 (2 ^ 37 - 128)) (by decide +kernel) (by decide +kernel)
  · exact runs_with (withJob saveDesc none) (jobCmd 0x11 (2 ^ 37 - 128)) (by decide +kernel) ⟨_, rfl, by decide +kernel⟩
  · exact runs_with (withJob jobDesc none) (jobCmd 0x12 (2 ^ 37 - 128)) (by decide +kernel) (by decide +kernel)
  · exact runs_with base (jobCmd 0x12 0) (by decide +kernel) (by decide +kernel)
  · exact runs_with { base with ac := { base.ac with records := [⟨128, 0, 1, 0, 0, 0⟩] } } (jobCmd 0x12 128) (by decide +kernel)
      (by decide +kernel)

/-- A model of 128 bytes and one layer at NPA 2^30, checked, and whether a model is loaded. -/
def modelNode (loaded : Nat) (jobs : NMap Job) : State :=
  { tableNode with
    regs := mapPut tableNode.regs rAcStatus (BitVec.ofNat 64 (at_ 12 1 loaded))
    ac := { base.ac with jobs := jobs }
    mem := [(17188257792, 128), (17188257796, 1), (17188257800, 64), (17188257854, 0x4B), (17188257855, 0x21)] }

theorem witness_ModelCommandsAct :
    (∃ s c, Runs s 0x13 c ∧ jobOperand c + num c.d 0x10 4 ≤ gddrSize ∧ jobOperand c + 64 ≤ gddrSize
      ∧ rangeOut s (jobOperand c) 64 = none
      ∧ num (readMem s (jobOperand c) 64) 0x3E 2 = crc16 ((readMem s (jobOperand c) 64).take 0x3E)
      ∧ num (readMem s (jobOperand c) 64) 4 1 ≠ 0
      ∧ modelOutside (begun s c) (jobOperand c) (readMem s (jobOperand c) 64) = false
      ∧ (swapRegion (begun s c) :: fixedRegions (begun s c)).any
          (fun (a, n) => overlaps a n (jobOperand c) (num (readMem s (jobOperand c) 64) 0 4)) = false
      ∧ num (readMem s (jobOperand c) 64) 0 4 ≤ num c.d 0x10 4 ∧ getB s rAcStatus fAcStatusRmLoaded = false) ∧
    (∃ s c, Runs s 0x14 c ∧ getB s rAcStatus fAcStatusRmLoaded = false) ∧
    (∃ s c, Runs s 0x14 c ∧ getB s rAcStatus fAcStatusRmLoaded = true ∧ s.ac.jobs.any (fun e => jKind e.2.desc == 1) = true) ∧
    (∃ s c, Runs s 0x14 c ∧ getB s rAcStatus fAcStatusRmLoaded = true ∧ s.ac.jobs.any (fun e => jKind e.2.desc == 1) = false
      ∧ s.ac.unload = none) := by
  refine ⟨?_, ?_, ?_, ?_⟩
  · exact runs_with (modelNode 0 []) (ringCmd 1 0x13 [(8, 0, 40, 2 ^ 30), (0x10, 0, 32, 128)]) (by decide +kernel) (by decide +kernel)
  · exact runs_with (modelNode 0 []) (ringCmd 1 0x14 []) (by decide +kernel) (by decide +kernel)
  · exact runs_with (modelNode 1 [(0, { sxJob [] with desc := bytesOf 128 [(0, 0, 2, 1)] })]) (ringCmd 1 0x14 []) (by decide +kernel)
      (by decide +kernel)
  · exact runs_with (modelNode 1 []) (ringCmd 1 0x14 []) (by decide +kernel) (by decide +kernel)

/-! ## Witnesses: memory tiers and proofreading -/

/-- Context 0 open with one page, at local ordinal 0 of layer 0 and KV head 0, in the wide slot at 2^29: its descriptor, root
header, root entry and page entry, as an open, a grown run and an edit leave them; with a plan entry, registers and moves. -/
def pageNode (plan : Nat) (regs : List (Nat × Nat)) (moves : NMap Move) : State :=
  { tableNode with
    regs := regs.foldl (fun m (o, v) => mapPut m o (BitVec.ofNat 64 v)) (mapPut tableNode.regs (rTmPlan 0 0) (BitVec.ofNat 64 plan))
    cx := { base.cx with open_ := [(0, ⟨1, 0, 0, 0, none, false, []⟩)] }
    tm := { base.tm with moves := moves }
    mem := [(0, 1), (3, 32), (4, 1), (5, 1), (20, 1), (35, 16), (126, 124), (127, 125), (4297064448, 1), (4297064449, 16),
      (4297064451, 16), (4297064462, 98), (4297064463, 166), (4297068532, 1), (4297068533, 2), (4297068542, 57),
      (4297068543, 115), (5370806275, 32), (5370806277, 1), (5370806278, 32), (5370806286, 194), (5370806287, 160),
      (19328466944, 1)] }

/-- A move of that page: why, the stage and the new slots. -/
def pageMove (why : MoveWhy) (stage : MoveStage) (dst : List Nat) : Move := ⟨0, 0, 0, 0, 1, why, 0, stage, dst, none, [], none⟩

/-- An edit is done. -/
def isDone : EditRes → Bool
  | .done _ => true
  | _ => false

theorem done_of {r : EditRes} (h : isDone r = true) : ∃ u, r = .done u := by
  cases r <;> simp_all [isDone]

/-- The page of context 0, as it is read once the descriptor has been. -/
def lookPage (s : State) : PageLook := readPage (fillCtx s 0) 2 0 (ctxBytes s 0) 0 0 0

/-- The edit that gives the page of a move its new home. -/
def moveEdit (s : State) (m : Move) : EditRes :=
  let s := fillCtx (takeReads s .clean) m.ctx
  editPage (m.dst.foldl (stampGen ((dGen (ctxBytes s m.ctx) + 1) % 2 ^ 32)) s) 2 m.ctx m.layer m.n m.head
    (fun p e => ⟨0, m.dst.getD p 0, 1, 0, eValid e⟩)

/-- The same page, owned by a bank. -/
def ownedNode (moves : NMap Move) : State :=
  let s := pageNode 0xFE0010 [] moves
  { s with mem := mapPut (mapPut (mapPut s.mem 5370806277 5) 5370806286 154) 5370806287 21 }

theorem witness_MovesRun :
    (let m := pageMove .layerAhead .queued []
     let starts (s : State) (owner : Nat) : Prop :=
       lookPage s = .present [2 ^ 29] owner 32 ∧ awake s = true ∧ mapGet s.tm.moves 0 = some m ∧ moverRuns s = true
         ∧ isNext s 0 = true ∧ moveClosed s m = false ∧ descFault s m.ctx 2 = none
         ∧ [2 ^ 29].any (accessWaits (fillCtx s m.ctx)) = false ∧ m.isSpill = false
         ∧ moveTarget (fillCtx s m.ctx) (ctxBytes s m.ctx) m [2 ^ 29] owner 32 = some 1
         ∧ (walkStart (updMove (fillCtx s m.ctx) 0 fun x => { x with tier := 1 }) m.ctx (some m.layer) (.move 0)).isSome = true
     starts (pageNode 0xFE0010 [] [(0, m)]) 0 ∧ starts (ownedNode [(0, m)]) 1) ∧
    (let m := pageMove .layerAhead .ready [mkHandle 2 132]
     let s := pageNode 0xFE0010 [] [(0, m)]
     let x := takeReads s .clean
     (∃ u, moveEdit s m = .done u) ∧ awake s = true ∧ mapGet s.tm.moves 0 = some m ∧ moverEnds s = true
       ∧ m.stage = .ready ∧ m.dst ≠ [] ∧ moveHeld x m.ctx m.why = false ∧ moveClosed x m = false ∧ targetDead x m = false
       ∧ m.dst.any (accessWaits x) = false ∧ descFault x m.ctx 2 = none ∧ lookPage x = .present [2 ^ 29] 0 32
       ∧ failTarget (fillCtx x m.ctx) 0 m = none) ∧
    (let m := pageMove .layerAhead .copying [mkHandle 2 132]
     let s := pageNode 0xFE0010 [] [(0, m)]
     let s : State := { s with tm := { s.tm with down := [(0, (0, true))] } }
     awake s = true ∧ mapGet s.tm.moves 0 = some m ∧ targetDead s m = true) ∧
    (let m := pageMove .parkReopen .queued []
     let s := pageNode 0xFE0010 [] [(0, m)]
     awake s = true ∧ mapGet s.tm.moves 0 = some m ∧ moveClosed s m = false ∧ reasonGone s m = true
       ∧ moveClosed { s with cx := base.cx } m = true) :=
  ⟨by decide +kernel, ⟨done_of (by decide +kernel), by decide +kernel⟩, by decide +kernel⟩

/-- A drive of one extent on link 0, which is written and sparse. -/
def driveNode : State :=
  { base with
    regs := [(rTmControl, BitVec.ofNat 64 (at_ 56 8 1)), (rTpLink 0 0, BitVec.ofNat 64 (at_ 1 1 1 + at_ 8 1 1 + at_ 32 32 1))]
    tm := { base.tm with extents := [(0, [0])] } }

/-- A spill of the page for its class's quota. -/
def spillMove : Move := pageMove .quotaCut .queued []

/-- The page waits for that spill. -/
abbrev Spills (s : State) : Prop :=
  awake s = true ∧ auxState s 0 = 1 ∧ ctxGood s 0 = true ∧
    let s := takeReads s .clean
    readPage s 2 0 (ctxBytes s 0) 0 0 0 = .present [2 ^ 29] 0 32 ∧ moveOf s 0 0 0 0 = some (0, spillMove) ∧ spillMove.runs = false ∧ spillMove.isSpill = true ∧ opLocks s 0 0 0 0 = false

/-- Room is made for it. -/
def roomFor (s : State) : Room × State := spillRoom (takeReads s .clean) 0 spillMove (pageTier [2 ^ 29])

theorem witness_SpillsStart :
    ((let s := pageNode 0xFE0010 [(quotaReg 0 0, 10), (rCxSpillMark 0, 10)] [(0, spillMove)]
      Spills s ∧ spillNeeded (takeReads s .clean) spillMove [2 ^ 29] = false) ∧
     (let s := pageNode 0xFE0010 [(quotaReg 0 1, 1), (rTpLink 0 0, 2 ^ 8 + 2 ^ 32)] [(0, spillMove)]
      Spills s ∧ spillNeeded (takeReads s .clean) spillMove [2 ^ 29] = true ∧ (roomFor s).1 = .ready 1) ∧
     (let s := pageNode 0xFE0010 [] [(0, spillMove), (1, { spillMove with n := 1, for_ := some 0 })]
      Spills s ∧ spillNeeded (takeReads s .clean) spillMove [2 ^ 29] = true ∧ (roomFor s).1 = .waits) ∧
     (let s := pageNode 0xFE0008 [] [(0, spillMove)]
      Spills s ∧ spillNeeded (takeReads s .clean) spillMove [2 ^ 29] = true ∧ (roomFor s).1 = .drop
        ∧ (dropByMover (roomFor s).2 0 0 0 0).1 = .done) ∧
     (let s := pageNode 0xFE0000 [] [(0, spillMove)]
      Spills s ∧ spillNeeded (takeReads s .clean) spillMove [2 ^ 29] = true ∧ (roomFor s).1 = .stop)) ∧
    (awake driveNode = true ∧ moverRuns driveNode = true ∧ extentsFreeOf driveNode 0 < compactMark driveNode
      ∧ (sortBy (fun a b => decide (a.2.length ≤ b.2.length))
          (driveNode.tm.extents.filter fun e => decide (e.1 / 2 ^ 29 = 0 ∧ e.2.length < extentPositions))).take
            (compactMark driveNode - extentsFreeOf driveNode 0) = [(0, [0])]
      ∧ driveNode.tm.compacting.contains 0 = false) := by
  refine ⟨⟨?_, ?_, ?_, ?_, ?_⟩, ?_⟩ <;> decide +kernel

/-- A node with an extent buffer 7 of drive 7, at a time. -/
def bufferNode (b : ExtBuf) : State := { base with time := 2 ^ 40, tm := { base.tm with buffers := [(7, b)] } }

theorem witness_DrivesAndTierLinksAct :
    (let b : ExtBuf := ⟨7, 0, [(0, [])], [], 0, false⟩
     let s := bufferNode b
     awake s = true ∧ mapGet s.tm.buffers 7 = some b ∧ b.sent = false ∧ b.filled ≠ []
       ∧ accessWaits s (mkFlash b.drive 0 b.extent) = false ∧ 1024 * getF s rTmControl fTmControlFlushTime ≤ elapsed s b.first) ∧
    (let b : ExtBuf := ⟨7, 0, (List.range 31).map fun p => (p, []), [], 2 ^ 40, false⟩
     let s := bufferNode b
     awake s = true ∧ mapGet s.tm.buffers 7 = some b ∧ b.sent = false ∧ b.filled ≠ [] ∧ extentPositions ≤ b.filled.length
       ∧ accessWaits s (mkFlash b.drive 0 b.extent) = false) ∧
    (let b : ExtBuf := ⟨7, 0, [(0, [])], [], 0, true⟩
     let s := bufferNode b
     let s : State := { s with tm := { s.tm with nvme := [(16 * 7 + 15, [.write 7, .flush 7])] } }
     let l := leaveDrive (leaveDrive s b.drive (.write 7)) b.drive (.flush 7)
     awake s = true ∧ mapGet s.tm.buffers 7 = some b ∧ b.sent = true ∧ driveHas s b.drive (.flush 7) = true
       ∧ accessWaits s (mkFlash b.drive 0 b.extent) = false ∧ slotDead l (mkFlash b.drive 0 b.extent) = false) ∧
    (freePair base 7 = some 0 ∧
      freePair { base with tm := { base.tm with nvme := (List.range 15).map fun j => (16 * 7 + j, [.read 0]) } } 7 = some 15) ∧
    (let h := mkFlash 7 30 0
     let s (n : Nat) : State :=
       { base with tm := { base.tm with nvme := [(16 * fDrive h, [.read h])], staged := [(h, n)] } }
     ∀ n < 2, awake (s n) = true ∧ driveHas (s n) (fDrive h) (.read h) = true ∧ accessWaits (s n) h = false) ∧
    (let s : State := { base with regs := [(rTpLink 1 3, 1)] }
     awake s = true ∧ tierLink 1 3 = some 7 ∧ getB s (tpLink 7) fTpLinkUp = true) ∧
    (let s : State := { base with time := linkWaitCycles, tm := { base.tm with down := [(7, (0, false))] } }
     awake s = true ∧ tierLink 1 3 = some 7 ∧ mapGet s.tm.down 7 = some (0, false) ∧ linkWaitCycles ≤ elapsed s 0
       ∧ mapGet s.tm.down 7 ≠ none) := by decide +kernel

/-- A pass over slots that has begun to read the wide slot at 0. -/
def slotPass : Pass := ⟨0, 0, 0, 2 ^ 40, some (0, 0), false, 0, 0⟩

/-- Slot 0 of the wide tier is the home of a page of context 0. -/
def homeNode : State := { tableNode with pm := { base.pm with slots := [(0, ⟨0, 0, .home, false⟩)] } }

/-- `homeNode` in a pass. -/
def passNode (p : Pass) : State :=
  { homeNode with
    regs := mapPut homeNode.regs rPfControl (BitVec.ofNat 64 (at_ fPfControlPassRate.lo fPfControlPassRate.w 1))
    pf := { base.pf with pass := some p } }

/-- `RETIRE_SLOT` of line 131 of slot 0. -/
def retireZero : Cmd := ringCmd 0 0x40 [(0x10, 0, 8, 131)]

theorem witness_PassesReadAndRetirementsAct :
    (let s := passNode slotPass
     awake s = true ∧ s.pf.pass = some slotPass ∧ slotPass.grid = s.time / 1024
       ∧ slotPass.used < getF s rPfControl fPfControlPassRate ∧ s.power.retain = .out
       ∧ (passUnit (takeReads s .clean) slotPass).2.2 = true ∧ (passUnit (takeReads s .clean) slotPass).2.1.slot = some (0, 1)) ∧
    (let p : Pass := { slotPass with slot := none, stop := 0 }
     let s := passNode p
     let q := (passUnit (takeReads s .clean) p).2.1
     awake s = true ∧ s.pf.pass = some p ∧ p.grid = s.time / 1024 ∧ p.used < getF s rPfControl fPfControlPassRate
       ∧ s.power.retain = .out ∧ passOver (freeDeferred (setPass s q)) q = true) ∧
    (let s : State := { pageNode 0xFE0010 [] [] with pm := { base.pm with runs := [(0, 0)] } }
     let b := poolBase s
     let p : Pass := { slotPass with kind := 1, cursor := b }
     ((mapBlocks s).find? fun b => decide (p.cursor < b + 4096 ∧ b < p.stop)) = some b ∧ (passEntry { s with mem := s.mem.filter fun c => c.1 != 4297064462 } b).isSome = true
       ∧ passEntry s (b + 4080) = none ∧ max (b + 4080) b = b + 4080
       ∧ ((mapBlocks s).find? fun c => decide (b + 4080 < c + 4096 ∧ c < p.stop)) = some b) ∧
    (let s := pageNode 0xFE0010 [] []
     (s.cx.open_.find? fun e => decide (0 ≤ e.1 ∧ e.1 < 2 ^ 40)).map (·.1) = some 0 ∧ passDesc s 0 = none
       ∧ (passDesc { s with mem := [(0, 1)] } 0).isSome = true) ∧
    (∃ s c, Runs s 0x40 c ∧ pageSlot s (bfld c.d 8 0 40) ≠ none ∧ walkerSlots ≤ s.pm.walkers.length) ∧
    (∃ s c, Runs s 0x40 c ∧ pageSlot s (bfld c.d 8 0 40) ≠ none ∧ s.pm.walkers.length < walkerSlots
      ∧ slotLocked s (bfld c.d 8 0 40) = true) ∧
    (∃ s c, Runs s 0x40 c ∧ pageSlot s (bfld c.d 8 0 40) = some 0 ∧ s.pm.walkers.length < walkerSlots
      ∧ slotLocked s (bfld c.d 8 0 40) = false ∧ num c.d 0x10 1 = 131 ∧ bfld c.d 0x10 8 2 ≠ 3
      ∧ handleBad (begun s c) (bfld c.d 8 0 40) = false ∧ withheldStatus (begun s c) (bfld c.d 8 0 40) 131 = none) ∧
    (∃ s c, Runs s 0x40 c ∧ pageSlot s (bfld c.d 8 0 40) = none ∧ num c.d 0x10 1 = 131 ∧ bfld c.d 0x10 8 2 ≠ 3
      ∧ handleBad (begun s c) (bfld c.d 8 0 40) = false ∧ withheldStatus (begun s c) (bfld c.d 8 0 40) 131 = some stOk) ∧
    (∃ s c, Runs s 0x40 c ∧ pageSlot s (bfld c.d 8 0 40) = none ∧ num c.d 0x10 1 = 131 ∧ bfld c.d 0x10 8 2 ≠ 3
      ∧ handleBad (begun s c) (bfld c.d 8 0 40) = false ∧ withheldStatus (begun s c) (bfld c.d 8 0 40) 131 = none
      ∧ hTier (bfld c.d 8 0 40) ≤ 1) ∧
    (∃ s c, Runs s 0x40 c ∧ pageSlot s (bfld c.d 8 0 40) = none ∧ num c.d 0x10 1 ≤ 131 ∧ bfld c.d 0x10 8 2 ≠ 3
      ∧ handleBad (begun s c) (bfld c.d 8 0 40) = false
      ∧ withheldStatus (begun s c) (bfld c.d 8 0 40) (num c.d 0x10 1) = none ∧ 2 ≤ hTier (bfld c.d 8 0 40)) ∧
    (∃ s c, Runs s 0x41 c ∧ s.tn.channels.contains (bfld c.d 8 0 7) = true) ∧
    (∃ s c, Runs s 0x41 c ∧ s.tn.channels.contains (bfld c.d 8 0 7) = false ∧ 2 ≤ s.tn.channels.length) ∧
    (∃ s c, Runs s 0x41 c ∧ s.tn.channels.contains (bfld c.d 8 0 7) = false ∧ s.tn.channels.length < 2) := by
  refine ⟨by decide +kernel, by decide +kernel, by decide +kernel, by decide +kernel, ?_, ?_, ?_, ?_, ?_, ?_, ?_, ?_, ?_⟩
  · exact runs_with { homeNode with pm := { homeNode.pm with walkers := (List.range walkerSlots).map fun w => (w, ⟨0, 0, .request w⟩) } } retireZero
      (by decide +kernel) (by decide +kernel)
  · exact runs_with { homeNode with bb := lockedNode.bb } retireZero (by decide +kernel) (by decide +kernel)
  · exact runs_with homeNode retireZero (by decide +kernel) (by decide +kernel)
  · exact runs_with { tableNode with tn := { base.tn with granules := [2 ^ 18 * 4] } } retireZero
      (by decide +kernel) (by decide +kernel)
  · exact runs_with tableNode retireZero (by decide +kernel) (by decide +kernel)
  · exact runs_with { tableNode with regs := mapPut tableNode.regs (rTpLink 0 0) 0x100000100 }
      (ringCmd 0 0x40 [(8, 0, 40, mkHandle 2 0)]) (by decide +kernel) (by decide +kernel)
  · exact runs_with { base with tn := { base.tn with channels := [127] } } (ringCmd 0 0x41 [(8, 0, 7, 127)]) (by decide +kernel)
      (by decide +kernel)
  · exact runs_with { base with tn := { base.tn with channels := [0, 1] } } (ringCmd 0 0x41 [(8, 0, 7, 127)]) (by decide +kernel)
      (by decide +kernel)
  · exact runs_with { base with tn := { base.tn with channels := [0] } } (ringCmd 0 0x41 [(8, 0, 7, 127)]) (by decide +kernel)
      (by decide +kernel)

/-! ## Witnesses: transport -/

/-- A packet header for node 0 of a kind and a service. -/
def packetOf (kind service : Nat) : Bytes := Hdr.bytes { kind := kind, service := service, src := 0, dst := 0 }

/-- It stands at the head of class 7 of ring port 17. -/
def packetNode (kind service : Nat) : State :=
  { base with fl := [(17, { Port.fresh with rx := [(7, [⟨7, 0, 0, packetOf kind service, none, []⟩])] })] }

theorem witness_PacketsArrive :
    awake (packetNode 0 0) = true ∧
      (∀ k ∈ [0, 1, 2, 3, 4, 5, 6, 7], headPacket (packetNode k 3) 17 7 = some (packetOf k 3) ∧ (hdrOf (packetOf k 3)).kind = k
        ∧ (hdrOf (packetOf k 3)).kind < 8 ∧ (hdrOf (packetOf k 3)).service = 3) ∧
      headPacket (packetNode 6 2) 17 7 = some (packetOf 6 2) ∧ (hdrOf (packetOf 6 2)).kind = 6
      ∧ (hdrOf (packetOf 6 2)).service = 2 := by decide +kernel

/-- A connection to node 5 by the eastern ring port. -/
def openConn : Conn := mkConn 6 1 63 0 5 0 0 false

/-- The last connection is this one, at a time. -/
def connNode (k : Conn) : State := { base with time := 2 ^ 40, ft := { base.ft with conns := [(16383, k)] } }

/-- A message of one packet on it. -/
def oneMsg : TxMsg := TxMsg.plain 0 0 64 (.bytes (zeros 64))

theorem witness_ConnectionsSendAndTimeOut :
    (let k : Conn := { openConn with ackSince := some 0, gapSince := some 0, retxSince := some 0 }
     let s := connNode k
     awake s = true ∧ connOf s 16383 = some k ∧ k.ackSince = some 0 ∧ k.gapSince = some 0 ∧ k.state = 1 ∧ k.retxSince = some 0
       ∧ getF s rFtControl fFtControlAckTime * 1024 ≤ elapsed s 0 ∧ getF s rFtControl fFtControlNakTime * 1024 ≤ elapsed s 0
       ∧ max 1 (getF s rFtControl fFtControlRetxTime) * 1024 ≤ elapsed s 0 ∧ k.retries < getF s rFtControl fFtControlRetryLimit) ∧
    (let k : Conn := { openConn with retxSince := some 0, retries := 255 }
     let s := connNode k
     awake s = true ∧ connOf s 16383 = some k ∧ k.state = 1 ∧ k.retxSince = some 0
       ∧ max 1 (getF s rFtControl fFtControlRetxTime) * 1024 ≤ elapsed s 0 ∧ getF s rFtControl fFtControlRetryLimit ≤ k.retries) ∧
    (let k : Conn := { openConn with ctl := [zeros 64] }
     let s := connNode k
     connOf s 16383 = some k ∧ k.state = 1 ∧ outPort s k.tc k.ports = some 16 ∧ k.ctl = [zeros 64]) ∧
    (let k : Conn := { openConn with tx := [oneMsg], nextPsn := 1 }
     let s := connNode k
     connOf s 16383 = some k ∧ k.state = 1 ∧ outPort s k.tc k.ports = some 16 ∧ k.ctl = [] ∧ k.sndNxt ≠ k.nextPsn
       ∧ psnSub k.sndNxt k.sndUna < 256
       ∧ k.tx.find? (fun m => decide (psnSub k.sndNxt m.psn < m.packets)) = some oneMsg
       ∧ packetLocks s oneMsg (psnSub k.sndNxt oneMsg.psn) = [] ∧ serialBefore 24 k.sndNxt k.sndMax = false) ∧
    (let k : Conn := { openConn with tx := [oneMsg], nextPsn := 1, sndMax := 1 }
     let s := connNode k
     connOf s 16383 = some k ∧ k.state = 1 ∧ outPort s k.tc k.ports = some 16 ∧ k.ctl = [] ∧ k.sndNxt ≠ k.nextPsn
       ∧ psnSub k.sndNxt k.sndUna < 256
       ∧ k.tx.find? (fun m => decide (psnSub k.sndNxt m.psn < m.packets)) = some oneMsg
       ∧ packetLocks s oneMsg (psnSub k.sndNxt oneMsg.psn) = [] ∧ serialBefore 24 k.sndNxt k.sndMax = true) ∧
    (let m : TxMsg := TxMsg.plain 0 0 64 (.npa (slotNpa lockedNode 0))
     let k : Conn := { openConn with tx := [m], nextPsn := 1 }
     let s : State := { lockedNode with ft := { base.ft with conns := [(16383, k)] } }
     connOf s 16383 = some k ∧ k.state = 1 ∧ outPort s k.tc k.ports = some 16 ∧ k.ctl = [] ∧ k.sndNxt ≠ k.nextPsn
       ∧ psnSub k.sndNxt k.sndUna < 256
       ∧ k.tx.find? (fun m => decide (psnSub k.sndNxt m.psn < m.packets)) = some m
       ∧ packetLocks s m (psnSub k.sndNxt m.psn) ≠ []) ∧
    (let d : DgramOut := ⟨6, 2 ^ 17, 5, 63, zeros 64⟩
     let s : State := { connNode openConn with ft := { base.ft with conns := [(16383, openConn)], dgrams := [d] } }
     awake s = true ∧ connOf s 16383 = some openConn ∧ s.ft.dgrams.find? (fun d => (outPort s d.tc d.mask).isSome) = some d
       ∧ outPort s d.tc d.mask = some 17) := by decide +kernel

theorem witness_ConnectionCommandsAct :
    (∃ s c, Runs s 0x20 c ∧ openBad s (slice c.d 0x0C 12) (Conn.named c.d) = false ∧ Conn.named c.d = 16383) ∧
    (∃ s c, Runs s 0x20 c ∧ openBad s (slice c.d 0x0C 12) (Conn.named c.d) = true) ∧
    (∃ s c, Runs s 0x21 c ∧ connOf s (Conn.named c.d) = none) ∧
    (∃ s c, Runs s 0x21 c ∧ connOf s (Conn.named c.d) = some openConn ∧ openConn.tree = false) ∧
    (∃ s c, Runs s 0x22 c ∧ c.badBuf 32 = false) := by
  refine ⟨?_, ?_, ?_, ?_, ?_⟩
  · exact runs_with base (ringCmd 1 0x20 [(8, 0, 14, 16383), (0x0C, 5, 2, 1), (0x0C, 7, 6, 63), (0x10, 0, 12, 5)]) (by decide +kernel)
      (by decide +kernel)
  · exact runs_with base (ringCmd 1 0x20 []) (by decide +kernel) (by decide +kernel)
  · exact runs_with base (ringCmd 1 0x21 [(8, 0, 14, 16383)]) (by decide +kernel) (by decide +kernel)
  · exact runs_with (connNode openConn) (ringCmd 1 0x21 [(8, 0, 14, 16383)]) (by decide +kernel) (by decide +kernel)
  · exact runs_with base (ringCmd 1 0x22 [(8, 0, 14, 16383), (0x18, 0, 32, 32)]) (by decide +kernel) (by decide +kernel)

/-- A work request on the last connection, perhaps armed below its threshold of 1. -/
def wrCmd (armed : Nat) : Cmd := ringCmd 1 0x26 [(8, 4, 1, armed), (0x0C, 0, 14, 16383), (0x30, 0, 32, armed)]

theorem witness_WorkRequestsAct :
    (∃ s c, Runs s 0x26 c ∧ wrBad s (wrOf c.d) = false ∧ wLength (wrOf c.d) ≤ msgMax
      ∧ wLocal (wrOf c.d) + wLength (wrOf c.d) ≤ gddrSize ∧ s.ft.wrs.length < 65536 ∧ wArmed (wrOf c.d) = true
      ∧ armedCount s < 4096 ∧ armedReady s (wrOf c.d) = false) ∧
    (∃ s c, Runs s 0x26 c ∧ wrBad s (wrOf c.d) = false ∧ wLength (wrOf c.d) ≤ msgMax
      ∧ wLocal (wrOf c.d) + wLength (wrOf c.d) ≤ gddrSize ∧ s.ft.wrs.length < 65536 ∧ wArmed (wrOf c.d) = false) ∧
    (∃ s c, Runs s 0x26 c ∧ wrBad s (wrOf c.d) = true) ∧
    (let w : Wr := ⟨wrOf (wrCmd 0).d, ⟨1, 63, 0, 0x26, 0⟩, 16383, 0, .armed⟩
     let s : State := { connNode openConn with ft := { base.ft with conns := [(16383, openConn)], wrs := [(0, w)] } }
     awake s = true ∧ nextFire s = some (0, w) ∧ connOf s w.conn = some openConn) := by
  refine ⟨?_, ?_, ?_, by decide +kernel⟩
  · exact runs_with (connNode openConn) (wrCmd 1) (by decide +kernel) (by decide +kernel)
  · exact runs_with (connNode openConn) (wrCmd 0) (by decide +kernel) (by decide +kernel)
  · exact runs_with base (wrCmd 0) (by decide +kernel) (by decide +kernel)

/-- A node with region 16383 at generation 1 in a state. -/
def regionNode (st : RegionState) (n : Nat) : State :=
  { base with ft := { base.ft with regions := [(16383, ⟨zeros 32, 1, st, n, []⟩)] } }

/-- The key of that region in a command. -/
def keyCmd (op : Nat) (l : List (Nat × Nat × Nat × Nat)) : Cmd := ringCmd 1 op ((8, 0, 32, 16383 + 2 ^ 14) :: l)

/-- A node with a posted slot 65535. -/
def slotNode (status : Option Nat) : State :=
  { connNode openConn with ft := { base.ft with conns := [(16383, openConn)], recv := [(65535, ⟨16383, 0, 64, 0, status, 0⟩)] } }

theorem witness_RegionsSlotsAndCountersAct :
    (∃ s c, Runs s 0x23 c ∧ regionBad s (regionOf c.d) = false ∧ freeRegion s = some 0) ∧
    (∃ s c, Runs s 0x24 c ∧ regionKeyed s (num c.d 8 4) = none) ∧
    (∃ s c, Runs s 0x24 c ∧ regionKeyed s (num c.d 8 4) = some (16383, ⟨zeros 32, 1, .revoked, 0, []⟩)) ∧
    (∃ s c, Runs s 0x24 c ∧ regionKeyed s (num c.d 8 4) = some (16383, ⟨zeros 32, 1, .active, 0, []⟩)) ∧
    (∃ s c, Runs s 0x24 c ∧ regionKeyed s (num c.d 8 4) = some (16383, ⟨zeros 32, 1, .active, 1, []⟩)) ∧
    (∃ s c, Runs s 0x24 c ∧ regionKeyed s (num c.d 8 4) = some (16383, ⟨zeros 32, 1, .revoking, 1, []⟩)) ∧
    (∃ s c, Runs s 0x25 c ∧ c.badBuf 32 = false ∧ regionKeyed s (num c.d 8 4) = none) ∧
    (∃ s c, Runs s 0x25 c ∧ c.badBuf 32 = false ∧ regionKeyed s (num c.d 8 4) = some (16383, ⟨zeros 32, 1, .active, 0, []⟩)) ∧
    (∃ s c, Runs s 0x27 c ∧ connOf s (Conn.named c.d) = some openConn ∧ openConn.state = 1 ∧ c.len ≤ msgMax
      ∧ bfld c.d 0x10 0 40 + c.len = gddrSize ∧ s.ft.recv.length < 65536) ∧
    (∃ s c, Runs s 0x28 c ∧ mapGet s.ft.recv (bfld c.d 8 0 16) = none) ∧
    (∃ s c, Runs s 0x28 c ∧ mapGet s.ft.recv (bfld c.d 8 0 16) = some ⟨16383, 0, 64, 0, none, 0⟩) ∧
    (∃ s c, Runs s 0x28 c ∧ mapGet s.ft.recv (bfld c.d 8 0 16) = some ⟨16383, 0, 64, 0, some 0, 0⟩) ∧
    (∃ s c, Runs s 0x29 c ∧ bfld c.d 8 0 12 = 4095) := by
  refine ⟨?_, ?_, ?_, ?_, ?_, ?_, ?_, ?_, ?_, ?_, ?_, ?_, ?_⟩
  · exact runs_with tableNode (ringCmd 1 0x23 [(8, 0, 40, 2 ^ 30), (0x10, 0, 40, 4096)]) (by decide +kernel) (by decide +kernel)
  · exact runs_with base (keyCmd 0x24 []) (by decide +kernel) (by decide +kernel)
  · exact runs_with (regionNode .revoked 0) (keyCmd 0x24 []) (by decide +kernel) (by decide +kernel)
  · exact runs_with (regionNode .active 0) (keyCmd 0x24 []) (by decide +kernel) (by decide +kernel)
  · exact runs_with (regionNode .active 1) (keyCmd 0x24 []) (by decide +kernel) (by decide +kernel)
  · exact runs_with (regionNode .revoking 1) (keyCmd 0x24 []) (by decide +kernel) (by decide +kernel)
  · exact runs_with base (keyCmd 0x25 [(0x18, 0, 32, 32)]) (by decide +kernel) (by decide +kernel)
  · exact runs_with (regionNode .active 0) (keyCmd 0x25 [(0x18, 0, 32, 32)]) (by decide +kernel) (by decide +kernel)
  · exact runs_with (connNode openConn) (ringCmd 1 0x27 [(8, 0, 14, 16383), (0x10, 0, 40, 2 ^ 37 - 64), (0x18, 0, 32, 64)])
      (by decide +kernel) (by decide +kernel)
  · exact runs_with base (ringCmd 1 0x28 [(8, 0, 16, 65535)]) (by decide +kernel) (by decide +kernel)
  · exact runs_with (slotNode none) (ringCmd 1 0x28 [(8, 0, 16, 65535)]) (by decide +kernel) (by decide +kernel)
  · exact runs_with (slotNode (some 0)) (ringCmd 1 0x28 [(8, 0, 16, 65535)]) (by decide +kernel) (by decide +kernel)
  · exact runs_with base (ringCmd 1 0x29 [(8, 0, 12, 4095)]) (by decide +kernel) (by decide +kernel)

/-! ## Witnesses: manager requests -/

/-- A request of manager 7, whose node is 5 and whose key is empty: its header and body. -/
def requestOf (type serial epoch : Nat) (body : Bytes) : Bytes := mgmtBytes type 0 0 0 1 serial epoch body

/-- The request as it arrives: with its tag. -/
def arrives (port : Nat) (m : Bytes) : Mgmt := ⟨port, 5, m ++ mgmtTag [] 5 m⟩

/-- What is asked of a request's header and body and of the state. -/
abbrev Acceptable (s : State) (type : Nat) (m : Bytes) : Prop :=
  awake s = true ∧ m.length = 32 + bfld m 4 0 12 ∧ bfld m 4 0 12 ≤ 4032 ∧ bfld m 0 16 12 = nodeId s
    ∧ mgmtBytes (mgType m) 0 (nodeId s) (mgStatus m) (mgSeq m) (mgSerial m) (mgEpoch m) (mgBody m) = m
    ∧ s.tn.managers = [(7, ⟨5, some [], 0⟩)] ∧ mgType m = type ∧ 0 < mgSeq m ∧ (0x13 ≤ type → type ≤ 0x15 → tableReady s = true)
    ∧ mgFormat m = false

theorem num_left (m x : Bytes) (off len : Nat) (h : off + len ≤ m.length) : num (m ++ x) off len = num m off len := by
  unfold num slice
  rw [List.drop_append_of_le_length (by omega), List.take_append_of_le_length (by rw [List.length_drop]; omega)]

theorem accepted_of (s : State) (type port : Nat) (m : Bytes) (h : Acceptable s type m) :
    Accepted s type (arrives port m) 7 ⟨5, some [], 0⟩ := by
  obtain ⟨h1, h2, h3, h4, h5, h6, h7, h8, h9, h10⟩ := h
  have hx : (mgmtTag [] 5 m).length = 32 := kmac256_length _ _ _
  have hn : bfld (m ++ mgmtTag [] 5 m) 4 0 12 = bfld m 4 0 12 := congrArg (fld · 0 12) (num_left m _ 4 2 (by omega))
  have hd : bfld (m ++ mgmtTag [] 5 m) 0 16 12 = bfld m 0 16 12 := congrArg (fld · 16 12) (num_left m _ 0 4 (by omega))
  have ht : mgType (m ++ mgmtTag [] 5 m) = mgType m := num_left m _ 0 1 (by omega)
  have hs : mgStatus (m ++ mgmtTag [] 5 m) = mgStatus m := congrArg (fld · 16 8) (num_left m _ 4 3 (by omega))
  have hq : mgSeq (m ++ mgmtTag [] 5 m) = mgSeq m := num_left m _ 8 8 (by omega)
  have hr : mgSerial (m ++ mgmtTag [] 5 m) = mgSerial m := num_left m _ 0x10 4 (by omega)
  have he : mgEpoch (m ++ mgmtTag [] 5 m) = mgEpoch m := num_left m _ 0x14 4 (by omega)
  have hb : mgBody (m ++ mgmtTag [] 5 m) = mgBody m := by
    unfold mgBody
    rw [hn, List.drop_append_of_le_length (by omega), List.take_append_of_le_length (by rw [List.length_drop]; omega)]
  have hl : (mgBody m).length = bfld m 4 0 12 := by
    unfold mgBody
    rw [List.length_take, List.length_drop]
    omega
  have hk : (m ++ mgmtTag [] 5 m).take (32 + bfld m 4 0 12) = m := by
    rw [← h2, List.take_left]
  have hp : (m ++ mgmtTag [] 5 m).drop (32 + bfld m 4 0 12) = mgmtTag [] 5 m := by
    rw [← h2, List.drop_left]
  have hf : mgShape (takeMgmt s (arrives port m)) (m ++ mgmtTag [] 5 m) = true := by
    have hid : nodeId (takeMgmt s (arrives port m)) = nodeId s := rfl
    unfold mgShape
    simp only [hn, hd, ht, hs, hq, hr, he, hb, hk, hid, h5, List.length_append, hx, Bool.and_eq_true, decide_eq_true_eq]
    exact ⟨⟨by omega, h3, h4⟩, trivial⟩
  refine ⟨h1, ht.trans h7, ?_, hq ▸ h8, h9, ?_⟩
  · have hm : (takeMgmt s (arrives port m)).tn.managers = [(7, ⟨5, some [], 0⟩)] := h6
    unfold mgAuth
    show (if mgShape (takeMgmt s (arrives port m)) (m ++ mgmtTag [] 5 m) = true then _ else _) = _
    rw [if_pos hf, hm]
    simp [arrives, hb, hl, hk, hp]
  · show mgFormat (m ++ mgmtTag [] 5 m) = false
    unfold mgFormat at h10 ⊢
    rw [ht, hs, hr, hb]
    exact h10

theorem accepted_with {Q : State → Mgmt → Nat → Manager → Prop} {type : Nat} (s : State) (port : Nat) (m : Bytes)
    (h : Acceptable s type m) (q : Q s (arrives port m) 7 ⟨5, some [], 0⟩) : ∃ s g k m, Accepted s type g k m ∧ Q s g k m :=
  ⟨s, arrives port m, 7, _, accepted_of s type port m h, q⟩

/-- A node with that manager and with fields of its epochs and its status. -/
def managedNode (l : List (Nat × Fld × Nat)) : State :=
  { withFields tableNode l with tn := { base.tn with managers := [(7, ⟨5, some [], 0⟩)] } }

/-- The node is composed at epoch 1, perhaps with epoch 0 still open. -/
def epochNode (prev : Nat) : State :=
  managedNode [(rCfEpoch, fCfEpochCurrent, 1), (rCfStatus, fCfStatusComposed, 1), (rCfStatus, fCfStatusPrevOpen, prev)]

/-- A route of an entry of `ROUTE_SET` by ring port 16 on the last connection. -/
def ringRoute : Nat := 2 + 2 ^ 2 + 16383 * 2 ^ 24

theorem witness_ManagerRequestsAct :
    (∃ s g k m, Accepted s 1 g k m ∧ True) ∧
    (∃ s g k m, Accepted s 2 g k m ∧ rsEntries (mgBody g.body) = [(4095, ringRoute)]
      ∧ (rsEntries (mgBody g.body)).any (fun x => decide (4096 ≤ x.1)) = false
      ∧ (rsEntries (mgBody g.body)).any (fun x => decide (rtPath x.2 ≠ 0) && routeRefused (granted s g k m) (rsEntries (mgBody g.body)) x.1 x.2)
        = false) ∧
    (∃ s g k m, Accepted s 3 g k m ∧ composed (granted s g k m) = false) ∧
    (∃ s g k m, Accepted s 3 g k m ∧ composed (granted s g k m) = true ∧ mgEpoch g.body = epochNow (granted s g k m)) ∧
    (∃ s g k m, Accepted s 3 g k m ∧ composed (granted s g k m) = true ∧ mgEpoch g.body ≠ epochNow (granted s g k m)
      ∧ mgEpoch g.body = (epochNow (granted s g k m) + 1) % 2 ^ 32) ∧
    (∃ s g k m, Accepted s 4 g k m ∧ composed (granted s g k m) = true ∧ mgEpoch g.body = epochNow (granted s g k m)) ∧
    (∃ s g k m, Accepted s 4 g k m ∧ composed (granted s g k m) = true ∧ mgEpoch g.body ≠ epochNow (granted s g k m)
      ∧ prevOpen (granted s g k m) = true ∧ mgEpoch g.body = epochPrev (granted s g k m)) ∧
    (∃ s g k m, Accepted s 4 g k m ∧ composed (granted s g k m) = true ∧ mgEpoch g.body ≠ epochNow (granted s g k m)
      ∧ prevOpen (granted s g k m) = false) ∧
    (∃ s g k m, Accepted s 5 g k m ∧ fld (bfld (mgBody g.body) 4 0 18) g.port 1 = 1) ∧
    (∃ s g k m, Accepted s 5 g k m ∧ fld (bfld (mgBody g.body) 4 0 18) g.port 1 ≠ 1) ∧
    (∃ s g k m, Accepted s 6 g k m ∧ bfld (mgBody g.body) 0 0 7 = 64) ∧
    (∃ s g k m, Accepted s 7 g k m ∧ bfld (mgBody g.body) 0 0 10 = 577 ∧ bfld (mgBody g.body) 0 16 10 = 1) := by
  refine ⟨?_, ?_, ?_, ?_, ?_, ?_, ?_, ?_, ?_, ?_, ?_, ?_⟩
  · exact accepted_with (managedNode []) 17 (requestOf 1 0 0 []) (by decide +kernel) trivial
  · exact accepted_with (managedNode []) 17 (requestOf 2 0 0 (bytesOf 12 [(0, 0, 12, 4095), (0, 16, 9, 1), (4, 0, 64, ringRoute)]))
      (by decide +kernel) (by decide +kernel)
  · exact accepted_with (managedNode []) 17 (requestOf 3 0 1 []) (by decide +kernel) (by decide +kernel)
  · exact accepted_with (epochNode 0) 17 (requestOf 3 0 1 []) (by decide +kernel) (by decide +kernel)
  · exact accepted_with (epochNode 0) 17 (requestOf 3 0 2 []) (by decide +kernel) (by decide +kernel)
  · exact accepted_with (epochNode 0) 17 (requestOf 4 0 1 []) (by decide +kernel) (by decide +kernel)
  · exact accepted_with (epochNode 1) 17 (requestOf 4 0 0 []) (by decide +kernel) (by decide +kernel)
  · exact accepted_with (epochNode 0) 17 (requestOf 4 0 0 []) (by decide +kernel) (by decide +kernel)
  · exact accepted_with (managedNode []) 17 (requestOf 5 0 0 (bytesOf 8 [(4, 0, 18, 2 ^ 17)])) (by decide +kernel) (by decide +kernel)
  · exact accepted_with (managedNode []) 17 (requestOf 5 0 0 (bytesOf 8 [(4, 0, 18, 2 ^ 16)])) (by decide +kernel) (by decide +kernel)
  · exact accepted_with (managedNode []) 17 (requestOf 6 0 0 (bytesOf 130 [(0, 0, 7, 64)])) (by decide +kernel) (by decide +kernel)
  · exact accepted_with (managedNode []) 17 (requestOf 7 0 0 (bytesOf 4 [(0, 0, 10, 577), (0, 16, 10, 1)])) (by decide +kernel)
      (by decide +kernel)

theorem witness_RecoveryCommandsAct_requests :
    (∃ s g k m, Accepted s 0x10 g k m ∧ True) ∧ (∃ s g k m, Accepted s 0x11 g k m ∧ True) ∧ (∃ s g k m, Accepted s 0x12 g k m ∧ True) ∧
    (∃ s g k m, Accepted s 0x13 g k m ∧ True) ∧ (∃ s g k m, Accepted s 0x14 g k m ∧ True) ∧
    (∃ s g k m, Accepted s 0x15 g k m ∧ True) := by
  refine ⟨?_, ?_, ?_, ?_, ?_, ?_⟩
  · exact accepted_with (managedNode []) 17 (requestOf 0x10 9 0 (zeros 8)) (by decide +kernel) trivial
  · exact accepted_with (managedNode []) 17 (requestOf 0x11 9 0 (zeros 4)) (by decide +kernel) trivial
  · exact accepted_with (managedNode []) 17 (requestOf 0x12 9 0 (zeros 8)) (by decide +kernel) trivial
  · exact accepted_with (managedNode []) 17 (requestOf 0x13 9 0 (zeros 12)) (by decide +kernel) trivial
  · exact accepted_with (managedNode []) 17 (requestOf 0x14 9 0 (zeros 4)) (by decide +kernel) trivial
  · exact accepted_with (managedNode []) 17 (requestOf 0x15 9 0 (zeros 8)) (by decide +kernel) trivial

/-! ## Witnesses: heartbeats, recovery and rebuilds -/

/-- A composed node that watches node 4095 in the last entry of its list, at a time. -/
def beatNode : State :=
  { withFields base [(rCfStatus, fCfStatusComposed, 1), (rCfControl, fCfControlHbPeriod, 1), (rCfWatch 63, fCfWatchValid, 1),
      (rCfWatch 63, fCfWatchNode, 4095)] with time := 2 ^ 40 }

theorem witness_HeartbeatsAndHealth :
    awake beatNode = true ∧ composed beatNode = true ∧ hbPeriod beatNode ≠ 0 ∧ hbPeriod beatNode ≤ elapsed beatNode beatNode.cf.hbLast
      ∧ beatNode.power.retain = .out ∧ (zeros 16).length = 16 ∧ (watched beatNode).filter (fun e => e.2 == 4095) = [(63, 4095)]
      ∧ hbPeriod beatNode ≤ elapsed beatNode beatNode.cf.hbEnd ∧ watched beatNode = [(63, 4095)]
      ∧ beatNode.time / 940000 ≠ beatNode.cf.healthAt := by decide +kernel

/-- A `RECOVERY` that fences job 65535. -/
def fenceCmd : Cmd := ringCmd 1 0x30 [(8, 0, 8, 0x10), (0x10, 0, 16, 65535)]

/-- A node whose last recovery command on that job has this serial and status. -/
def tableOf (serial : Nat) (status : Option Nat) : State :=
  { base with cf := { base.cf with table := [(65535, ⟨serial, 0x10, status, 0, []⟩)] } }

theorem witness_RecoveryCommandsAct :
    (∃ s c, Runs s 0x30 c ∧ num c.d 8 1 = 0x10 ∧ isRecovery (num c.d 8 1) = true
      ∧ recBodyOk (num c.d 8 1) ((slice c.d 0x10 12).take (recLen (num c.d 8 1))) = true
      ∧ leNat ((slice c.d 0x10 12).drop (recLen (num c.d 8 1))) = 0) ∧
    (∃ s c, Runs s 0x30 c ∧ num c.d 8 1 = 0x15 ∧ isRecovery (num c.d 8 1) = true
      ∧ recBodyOk (num c.d 8 1) ((slice c.d 0x10 12).take (recLen (num c.d 8 1))) = true
      ∧ leNat ((slice c.d 0x10 12).drop (recLen (num c.d 8 1))) = 0 ∧ tableReady s = true) ∧
    recTarget 0x10 (bytesOf 8 [(0, 0, 16, 65535)]) = 65535 ∧
    (∀ st ∈ [none, some 0], mapGet (tableOf 1 st).cf.table 65535 = some ⟨1, 0x10, st, 0, []⟩) ∧ (1 : Nat) ≠ 2 ∧
    serialAfter 32 1 2 = false ∧ mapGet base.cf.table 65535 = none ∧ serialAfter 32 0 base.tn.floor = false
      ∧ serialAfter 32 1 base.tn.floor = true ∧ (recTest base 0x10 (bytesOf 8 [(0, 0, 16, 65535)])).1 = none
      ∧ (recTest (tableOf 1 (some 0)) 0x10 (bytesOf 8 [(0, 0, 16, 65535)])).1 = none ∧ serialAfter 32 2 1 = true
      ∧ base.cf.table.length < 4096 := by
  refine ⟨?_, ?_, by decide +kernel⟩
  · exact runs_with base fenceCmd (by decide +kernel) (by decide +kernel)
  · exact runs_with tableNode (ringCmd 1 0x30 [(8, 0, 8, 0x15), (0x10, 0, 20, 2 ^ 20 - 1), (0x14, 0, 12, 5)]) (by decide +kernel)
      (by decide +kernel)

/-- A node that rebuilds the map of the last context, at a time. -/
def rebuildNode (r : Rebuild) : State :=
  { ctxNode 1 none with
    time := 2 ^ 40, pm := { base.pm with slots := [(0, ⟨0, 0, .home, false⟩)] }, cf := { base.cf with rebuilds := [(2 ^ 20 - 1, r)] } }

theorem witness_RebuildsReadTails :
    (let r : Rebuild := ⟨false, [], [], [], 0, 0⟩
     let s := rebuildNode r
     awake s = true ∧ mapGet s.cf.rebuilds (2 ^ 20 - 1) = some r ∧ r.started = false ∧ inFlight s (2 ^ 20 - 1) = 0
       ∧ s.tm.moves.any (fun e => e.2.ctx == 2 ^ 20 - 1) = false ∧ s.pm.grants.filter (fun g => g.ctx == 2 ^ 20 - 1) = []) ∧
    (let r : Rebuild := ⟨true, [], [], [], 0, 0⟩
     let s := rebuildNode r
     awake s = true ∧ mapGet s.cf.rebuilds (2 ^ 20 - 1) = some r ∧ r.started = true ∧ r.toRead = []) ∧
    (let r : Rebuild := ⟨true, [0], [], [], 2 ^ 30, 255⟩
     let s := rebuildNode r
     awake s = true ∧ mapGet s.cf.rebuilds (2 ^ 20 - 1) = some r ∧ r.started = true ∧ r.toRead = [0] ∧ r.grid = s.time / 1024
       ∧ r.used < rebuildRate s ∧ accessWaits (takeReads s .clean) 0 = false ∧ taken (takeReads s .clean) 0 = true) ∧
    (let h := mkFlash 7 30 0
     let r : Rebuild := ⟨true, [h], [], [], 2 ^ 30, 255⟩
     let s : State := { rebuildNode r with pm := { base.pm with slots := [(h, ⟨0, 0, .home, false⟩)] } }
     awake s = true ∧ mapGet s.cf.rebuilds (2 ^ 20 - 1) = some r ∧ r.started = true ∧ r.toRead = [h] ∧ r.grid = s.time / 1024
       ∧ r.used < rebuildRate s ∧ accessWaits (takeReads s .clean) h = false ∧ taken (takeReads s .clean) h = true
       ∧ unread (takeReads s .clean) [h] ≠ []) := by decide +kernel

/-! ## Witnesses: handover -/

/-- A handover with node 5 of serial 7. -/
def peerHandover (source : Bool) (phase : HoPhase) : Handover := ⟨5, 7, source, phase, [], [], [], 0⟩

/-- The node `s` with a handover of context `i` and its outcomes, at a time. -/
def hoNode (s : State) (i : Nat) (h : Option Handover) : State :=
  { s with
    time := 2 ^ 40
    cf := { base.cf with handovers := h.toList.map fun h => (i, h), outcomes := [(i, 7, true)] } }

/-- A message of node 5 about its handover of a context. -/
def peerMsg (type ctx : Nat) (body : Bytes) : Bytes := hoMsg type ctx 7 5 0 0 body

/-- The entries of a context were sent. -/
def entriesSent : Except State State → Bool
  | .ok _ => true
  | .error _ => false

theorem entriesSent_cases (r : Except State State) :
    (entriesSent r = true → ∃ v, r = .ok v) ∧ (entriesSent r = false → ∃ v, r = .error v) := by
  cases r <;> simp [entriesSent]

theorem witness_HandoverSourceActs :
    (∀ p ∈ [HoPhase.offered, .committed 0, .committed (2 ^ 40)],
      let s := hoNode (ctxNode 1 none) (2 ^ 20 - 1) (some (peerHandover true p))
      ∀ t ∈ [2, 3, 6], awake s = true ∧ hoType (peerMsg t (2 ^ 20 - 1) []) = t ∧ hoShape (peerMsg t (2 ^ 20 - 1) []) = true
        ∧ (sourceOf (withoutHo s 5 (peerMsg t (2 ^ 20 - 1) [])) 5 (peerMsg t (2 ^ 20 - 1) [])).isSome = true) ∧
    (∀ p ∈ [HoPhase.sending, .frozen], ∀ st ∈ [0, 5, 1],
      let s := hoNode (ctxNode st none) (2 ^ 20 - 1) (some (peerHandover true p))
      awake s = true ∧ mapGet s.cf.handovers (2 ^ 20 - 1) = some (peerHandover true p) ∧ auxState s (2 ^ 20 - 1) = st
        ∧ (st = 1 → entriesSent (sendEntries (takeReads s .clean) (2 ^ 20 - 1)) = true)) ∧
    (let s := hoNode { ctxNode 1 none with mem := [(1074790272, 1)] } (2 ^ 20 - 1) (some (peerHandover true .sending))
     auxState s (2 ^ 20 - 1) = 1 ∧ entriesSent (sendEntries (takeReads s .clean) (2 ^ 20 - 1)) = false) ∧
    (let s := hoNode base 0 (some (peerHandover true (.committed 0)))
     mapGet s.cf.handovers 0 = some (peerHandover true (.committed 0)) ∧ hoTimeout s ≤ elapsed s 0) ∧
    (let s := hoNode (withFields (ctxNode 1 none) [(rCfHandover, fCfHandoverTimeout, 1)]) (2 ^ 20 - 1)
       (some (peerHandover true (.committed (2 ^ 40))))
     elapsed s (2 ^ 40) < hoTimeout s ∧ auxState s (2 ^ 20 - 1) = 1) ∧
    (let s := hoNode base 0 none
     ∀ t ∈ [6, 9], awake s = true ∧ hoType (peerMsg t 0 []) = t ∧ hoShape (peerMsg t 0 []) = true
        ∧ sourceOf (withoutHo s 5 (peerMsg t 0 [])) 5 (peerMsg t 0 []) = none
        ∧ s.cf.outcomes.reverse.find? (fun o => o.1 == hoCtx (peerMsg t 0 []) && o.2.1 == hoSerial (peerMsg t 0 [])) = some (0, 7, true)
        ∧ (hoNode base 1 none).cf.outcomes.reverse.find?
          (fun o => o.1 == hoCtx (peerMsg t 0 []) && o.2.1 == hoSerial (peerMsg t 0 [])) = none) := by decide +kernel

/-- An offer of the last context, of one layer and one head in shard set 0 of node 5. -/
def offerMsg : Bytes := peerMsg 1 (2 ^ 20 - 1) (bytesOf 28 [(4, 0, 8, 1), (5, 0, 8, 1), (24, 0, 16, 1), (26, 0, 12, 5)])

/-- The state in which an offer has been taken and the descriptor of its context read. -/
def offerState (s : State) : State := fillCtx (takeReads (withoutHo s 5 offerMsg) Reads.clean) (hoCtx offerMsg)

/-- Zeros written to memory that lists nothing leave it so. -/
theorem writeMem_zeros (s : State) (hs : s.mem = []) (a n : Nat) : writeMem s a (zeros n) = s := by
  induction n generalizing a with
  | zero => rfl
  | succ n ih =>
    have h : writeByte s a 0 = s := by
      unfold writeByte
      split
      · rw [hs]; simp only [memPut, if_true]; rw [← hs]
      · rfl
    show writeMem (writeByte s a 0) (a + 1) (zeros n) = s
    rw [h]; exact ih _

/-- A set of which only the width need be written. -/
def setAlone (s : State) (set : Nat) (ids : List Nat) : State :=
  writeMem { s with cx := { s.cx with sets := if s.cx.sets.contains set then s.cx.sets else s.cx.sets ++ [set] } }
    (shardHeader s set) (natLe 16 ids.length)

theorem writeSet_zeros (s : State) (hs : s.mem = []) (set n : Nat) (ids : List Nat) (h : ids.flatMap (natLe 2) = zeros n)
    (hn : n ≤ 2048) : writeSet s set ids = setAlone s set ids := by
  have h2 : padTo 2048 (zeros n) = zeros 2048 := by
    unfold padTo zeros
    rw [← List.replicate_add, List.length_replicate, Nat.add_sub_cancel' hn, List.take_replicate, Nat.min_self]
  let u : State := { s with cx := { s.cx with sets := if s.cx.sets.contains set then s.cx.sets else s.cx.sets ++ [set] } }
  show writeMem (writeMem u (shardBase u + 2048 * set) (padTo 2048 (ids.flatMap (natLe 2))))
    (shardHeader (writeMem u (shardBase u + 2048 * set) (padTo 2048 (ids.flatMap (natLe 2)))) set) (natLe 16 ids.length) =
      setAlone s set ids
  rw [h, h2, writeMem_zeros u hs]
  rfl

/-- What came of an offer: it was opened, or what it lacks. -/
def offerSays : Except OfferFail State → Nat
  | .ok _ => 0
  | .error .pool => 1
  | .error .quota => 2
  | .error (.lost _) => 3

theorem offerSays_cases (r : Except OfferFail State) :
    (offerSays r = 0 → ∃ w, r = .ok w) ∧ (offerSays r = 1 → r = .error .pool) ∧ (offerSays r = 2 → r = .error .quota) ∧
      (offerSays r = 3 → ∃ w, r = .error (.lost w)) := by
  cases r with
  | ok w => simp [offerSays]
  | error f => cases f <;> simp [offerSays]

theorem offer_as (s : State) (k : Nat) (hs : s.mem = []) (hi : (offeredIds s offerMsg).flatMap (natLe 2) = zeros 2)
    (h : offerSays (openOfferIn s (setAlone s (dSet ((hoBody offerMsg).take 20)) (offeredIds s offerMsg)) 5 offerMsg
      ((hoBody offerMsg).take 20)) = k) : offerSays (openOffer s 5 offerMsg) = k := by
  unfold openOffer
  rw [writeSet_zeros s hs _ 2 _ hi (by decide)]
  exact h

/-- A node that holds 64 handovers of other contexts. -/
def hoFull : State :=
  { tableNode with cf := { base.cf with handovers := (List.range 64).map fun i => (i, peerHandover false .accepting) } }

/-- A node whose class 0 has no quota of contexts. -/
def noQuota : State := { tableNode with regs := mapPut tableNode.regs (rCxQuotaCtx 0) 0 }

/-- A node whose pool is empty. -/
def noPool : State := { tableNode with regs := mapPut tableNode.regs rPmPoolSize 0 }

/-- A node of which only the BBD of the last context's descriptor is in service, and whose pool begins in another. -/
def noDie : State :=
  { tableNode with regs := mapPut (mapPut tableNode.regs rPmPoolBase 0x10800000) rGsStatus (BitVec.ofNat 64
      (2 ^ 15 * (255 - 2 ^ bbdAt tableNode (ctxAddr tableNode (2 ^ 20 - 1))))) }

/-- The page of context 0 is placed. -/
def isPlaced : PageRes → Bool
  | .done _ => true
  | _ => false

theorem placed_of {r : PageRes} (h : isPlaced r = true) : ∃ u, r = .done u := by
  cases r <;> simp_all [isPlaced]

/-- A page of context 0 that was dropped, of one position. -/
def droppedMsg : Bytes := peerMsg 4 0 (bytesOf 8 [(0, 17, 2, 2), (0, 19, 9, 1)])

theorem witness_HandoverAcceptorActs :
    (∀ s ∈ [tableNode, hoFull, noQuota, noPool, noDie], let u := withoutHo s 5 offerMsg
     awake s = true ∧ hoType offerMsg = 1 ∧ hoShape offerMsg = true ∧ tableReady u = true ∧ hoCtx offerMsg = 2 ^ 20 - 1
       ∧ auxState u (2 ^ 20 - 1) = 0 ∧ mapGet u.cf.handovers (2 ^ 20 - 1) = none ∧ offerBad u offerMsg = false
       ∧ descFault (takeReads u .clean) (2 ^ 20 - 1) 2 = none) ∧
    (64 ≤ (offerState hoFull).cf.handovers.length ∧ ∀ s ∈ [tableNode, noQuota, noPool, noDie], (offerState s).cf.handovers.length < 64) ∧
    ((∃ w, openOffer (offerState tableNode) 5 offerMsg = .ok w) ∧ openOffer (offerState noQuota) 5 offerMsg = .error .quota ∧
      openOffer (offerState noPool) 5 offerMsg = .error .pool ∧ ∃ w, openOffer (offerState noDie) 5 offerMsg = .error (.lost w)) ∧
    (let s := hoNode (pageNode 0xFE0010 [] []) 0 (some (peerHandover false .accepting))
     let u := withoutHo s 5 droppedMsg
     awake s = true ∧ hoType droppedMsg = 4 ∧ hoShape droppedMsg = true ∧ hoCtx droppedMsg = 0
       ∧ acceptorOf u 5 droppedMsg = some (peerHandover false .accepting) ∧ auxState u 0 = 1
       ∧ descFault u 0 2 = none ∧ pageBad (ctxBytes u 0) droppedMsg = false
       ∧ isPlaced (placePage (fillCtx u 0) 0 (peerHandover false .accepting) (hoPage droppedMsg)) = true) ∧
    (let m := peerMsg 5 0 (zeros 4)
     let s := hoNode (pageNode 0xFE0010 [] []) 0 (some (peerHandover false .accepting))
     let u := withoutHo s 5 m
     awake s = true ∧ hoType m = 5 ∧ hoShape m = true ∧ hoCtx m = 0 ∧ acceptorOf u 5 m = some (peerHandover false .accepting)
       ∧ auxState u 0 = 1 ∧ descFault u 0 2 = none ∧ hoCount m = 0 ∧ (hoBody m).length = 4 ∧ (flashHomes u 0).any (flashLost u) = false
       ∧ (flashHomes u 0).all (flashWritten u) = true) ∧
    (let m := hoMsg 5 0 7 5 0 1 (zeros 4)
     let s := hoNode (pageNode 0xFE0010 [] []) 0 (some (peerHandover false .accepting))
     hoType m = 5 ∧ hoShape m = true ∧ hoCount m = 1 ∧ acceptorOf (withoutHo s 5 m) 5 m = some (peerHandover false .accepting)) ∧
    (∀ t ∈ [7, 8], let m := peerMsg t 0 []
     let s := hoNode base 0 (some (peerHandover false (.held 0 0)))
     awake s = true ∧ hoType m = t ∧ hoShape m = true
       ∧ acceptorOf (withoutHo s 5 m) 5 m = some (peerHandover false (.held 0 0))) ∧
    (let s := hoNode (connNode { openConn with tree := true }) 0 (some (peerHandover false (.held 0 0)))
     let s : State := { s with cf := { s.cf with current := [(5, 1 + 2 ^ 8 + 16383 * 2 ^ 24)] } }
     awake s = true ∧ mapGet s.cf.handovers 0 = some (peerHandover false (.held 0 0)) ∧ 2 * hoTimeout s ≤ elapsed s 0
       ∧ treeOpen s 5 = true) := by
  refine ⟨?_, ?_, ⟨(offerSays_cases _).1 (offer_as _ _ ?_ ?_ ?_), (offerSays_cases _).2.2.1 (offer_as _ _ ?_ ?_ ?_),
    (offerSays_cases _).2.1 (offer_as _ _ ?_ ?_ ?_), (offerSays_cases _).2.2.2 (offer_as _ _ ?_ ?_ ?_)⟩, ?_, ?_, ?_, ?_, ?_⟩ <;>
    decide +kernel

/-! ## Witnesses: the Lexicon and the Tense block -/

/-- A node with its Tense block changed. -/
def withTn (f : Tense → Tense) : State := { base with tn := f base.tn }

/-- The version of the image that runs is the highest that a rollback counter holds. -/
def svnNode (k v : Nat) : State :=
  { withFields base [(rIdFirmware, fIdFirmwareImageSvn, 2 ^ 32 - 1)] with tn := { base.tn with rollback := [(k, v)] } }

theorem witness_OwnerCommandsAct :
    (∃ s c, Runs s 0x50 c ∧ s.tn.ownerKey = none ∧ c.badBuf 1312 = false) ∧
    (∃ s c, Runs s 0x50 c ∧ s.tn.ownerKey ≠ none) ∧
    (∃ s c, Runs s 0x51 c ∧ s.tn.ownerKey = some [] ∧ c.badBuf (1312 + 2420) = false) ∧
    (∃ s c, Runs s 0x52 c ∧ c.badBuf 32 = false ∧ bfld c.d 8 0 3 = 7) ∧
    (∃ s c, Runs s 0x53 c ∧ bfld c.d 8 0 3 = 7) ∧
    (∃ s c, Runs s 0x55 c ∧ bfld c.d 8 0 2 = 1 ∧ getF s rLxStatus fLxStatusActiveSlot ≠ 1 ∧ c.len = areaBytes 1 ∧ c.badBuf 0 = false) ∧
    (∃ s c, Runs s 0x55 c ∧ bfld c.d 8 0 2 = 3 ∧ getF s rLxStatus fLxStatusRecordSlot + 2 ≠ 3 ∧ c.len = areaBytes 3 ∧ c.badBuf 0 = false) ∧
    (∃ s c, Runs s 0x56 c ∧ num c.d 0x0C 4 < rollback s (bfld c.d 8 0 4)) ∧
    (∃ s c, Runs s 0x56 c ∧ bfld c.d 8 0 4 = 1 ∧ getF s rIdFirmware fIdFirmwareRecordSvn < num c.d 0x0C 4) ∧
    (∃ s c, Runs s 0x56 c ∧ bfld c.d 8 0 4 = 15 ∧ num c.d 0x0C 4 = rollback s 15) ∧
    (∃ s c, Runs s 0x56 c ∧ bfld c.d 8 0 4 = 0 ∧ rollback s 0 < num c.d 0x0C 4 ∧
      num c.d 0x0C 4 = getF s rIdFirmware fIdFirmwareImageSvn) ∧
    (∃ s c, Runs s 0x57 c ∧ s.tn.anchors.length = 256) ∧
    (∃ s c, Runs s 0x5A c ∧ bfld c.d 8 0 1 = 1) := by
  refine ⟨?_, ?_, ?_, ?_, ?_, ?_, ?_, ?_, ?_, ?_, ?_, ?_, ?_⟩
  · exact runs_with base (ringCmd 0 0x50 [(0x18, 0, 32, 1312)]) (by decide +kernel) (by decide +kernel)
  · exact runs_with (withTn fun t => { t with ownerKey := some [] }) (ringCmd 0 0x50 []) (by decide +kernel) (by decide +kernel)
  · exact runs_with (withTn fun t => { t with ownerKey := some [] }) (ringCmd 0 0x51 [(0x18, 0, 32, 3732)]) (by decide +kernel)
      (by decide +kernel)
  · exact runs_with base (ringCmd 0 0x52 [(8, 0, 3, 7), (0x18, 0, 32, 32)]) (by decide +kernel) (by decide +kernel)
  · exact runs_with base (ringCmd 0 0x53 [(8, 0, 3, 7)]) (by decide +kernel) (by decide +kernel)
  · exact runs_with base (ringCmd 0 0x55 [(8, 0, 2, 1), (0x18, 0, 32, 2 ^ 22)]) (by decide +kernel) (by decide +kernel)
  · exact runs_with base (ringCmd 0 0x55 [(8, 0, 2, 3), (0x18, 0, 32, 4096)]) (by decide +kernel) (by decide +kernel)
  · exact runs_with (svnNode 15 1) (ringCmd 0 0x56 [(8, 0, 4, 15)]) (by decide +kernel) (by decide +kernel)
  · exact runs_with base (ringCmd 0 0x56 [(8, 0, 4, 1), (0x0C, 0, 32, 2 ^ 32 - 1)]) (by decide +kernel) (by decide +kernel)
  · exact runs_with (svnNode 15 1) (ringCmd 0 0x56 [(8, 0, 4, 15), (0x0C, 0, 32, 1)]) (by decide +kernel) (by decide +kernel)
  · exact runs_with (svnNode 0 1) (ringCmd 0 0x56 [(0x0C, 0, 32, 2 ^ 32 - 1)]) (by decide +kernel) (by decide +kernel)
  · exact runs_with (withTn fun t => { t with anchors := List.replicate 256 ⟨0, 0, 0, 0⟩ }) (ringCmd 0 0x57 []) (by decide +kernel)
      (by decide +kernel)
  · exact runs_with base (ringCmd 0 0x5A [(8, 0, 1, 1)]) (by decide +kernel) (by decide +kernel)

/-- A tenant handover to tenant 1 is in progress. -/
def handoverNode : State := withPower fun p => { p with running := some .H, handover := some ⟨[], 1, []⟩ }

/-- A node whose first AC is physical AC 0 and that has one spare left. -/
def spareNode : State := { base with ac := { base.ac with spares := [135] } }

theorem witness_TenantAndUnitCommandsAct :
    (∃ s c, Runs s 0x54 c ∧ s.power.retain = .out ∧ s.power.running = none ∧ c.badBuf 32 = false) ∧
    (∃ s c, Runs s 0x54 c ∧ s.power.retain = .out ∧ s.power.running = some .H ∧ s.power.handover = some ⟨[], 1, []⟩
      ∧ num c.d 8 4 = 1 ∧ c.badBuf 32 = false) ∧
    (∃ s c, Runs s 0x54 c ∧ s.power.retain = .out ∧ s.power.running = some .H ∧ s.power.handover = some ⟨[], 1, []⟩
      ∧ num c.d 8 4 ≠ 1) ∧
    (∃ s c, Runs s 0x58 c ∧ num c.d 8 1 = 9 ∧ c.badBuf (recordBytes 9) = false) ∧
    (∃ s c, Runs s 0x58 c ∧ num c.d 8 1 = 10) ∧
    (∃ s c, Runs s 0x59 c ∧ bfld c.d 8 0 1 = 0 ∧ (acIndex s (bfld c.d 8 4 8)).isSome = true ∧ s.lx.supplete = []
      ∧ (s.lx.supplete.filter (fun e => decide (e.1 < 2 ^ 16))).length < s.ac.spares.length) ∧
    (∃ s c, Runs s 0x59 c ∧ bfld c.d 8 0 1 = 0 ∧ acIndex s (bfld c.d 8 4 8) = none) := by
  refine ⟨?_, ?_, ?_, ?_, ?_, ?_, ?_⟩
  · exact runs_with base (ringCmd 0 0x54 [(0x18, 0, 32, 32)]) (by decide +kernel) (by decide +kernel)
  · exact runs_with handoverNode (ringCmd 0 0x54 [(8, 0, 32, 1), (0x18, 0, 32, 32)]) (by decide +kernel) (by decide +kernel)
  · exact runs_with handoverNode (ringCmd 0 0x54 [(8, 0, 32, 2 ^ 32 - 1)]) (by decide +kernel) (by decide +kernel)
  · exact runs_with base (ringCmd 0 0x58 [(8, 0, 8, 9), (0x18, 0, 32, 65536)]) (by decide +kernel) (by decide +kernel)
  · exact runs_with base (ringCmd 0 0x58 [(8, 0, 8, 10)]) (by decide +kernel) (by decide +kernel)
  · exact runs_with spareNode (ringCmd 0 0x59 []) (by decide +kernel) (by decide +kernel)
  · exact runs_with spareNode (ringCmd 0 0x59 [(8, 4, 8, 255)]) (by decide +kernel) (by decide +kernel)

theorem witness_TheLexiconActs :
    awake base = true ∧ lxHalted base = false ∧ answers base 0 = true ∧ base.power.restricted = false ∧ wakeLogic base = false
      ∧ base.lx.doe = none
      ∧ (let s : State := { withFields base [(rLxStatus, fLxStatusHalted, 1)] with power := { base.power with restricted := true } }
         answers s 0 = true ∧ s.power.restricted = true ∧ lxHalted s = true ∧ wakeLogic s = false ∧ s.lx.doe = none)
      ∧ (let s : State := { base with time := 60 * 940000000 }
         awake s = true ∧ s.power.running = none ∧ secondsDue s = 60)
      ∧ (∀ k ∈ [31, 32], let s := withTn fun t => { t with failing := [9], sparesUsed := k }
         9 ≠ 8 ∧ s.tn.failing = [9] ∧ s.tn.sparesUsed = k) := by decide +kernel

/-! ## Witnesses: rules of the spec -/

theorem witness_JobsAreNamedByTheirNpa :
    (∃ s c, Runs s 0x10 c ∧ jobAt s (bfld c.d 8 0 40) ≠ none) ∧ (∃ s c, Runs s 0x11 c ∧ jobAt s (bfld c.d 8 0 40) = none) := by
  refine ⟨?_, ?_⟩
  · exact runs_with (withJob saveDesc none) (jobCmd 0x10 (2 ^ 37 - 128)) (by decide +kernel) (by decide +kernel)
  · exact runs_with (withJob saveDesc none) (jobCmd 0x11 (2 ^ 37)) (by decide +kernel) (by decide +kernel)

theorem witness_RepeatedFailuresAreCounted :
    let f : Failure := { cause := 0, source := 0 }
    let s : State := { base with pf := { base.pf with recent := [(f.handle, f.line, f.cause)] } }
    (f.handle, f.line, f.cause) ∈ s.pf.recent ∧ (f.handle, f.line, f.cause) ∉ base.pf.recent
      ∧ ¬(getF base rPfLogTail fPfLogTailPfLogTail + 2 ^ 32 - getF base rPfLogHead fPfLogHeadPfLogHead) % 2 ^ 32 = 1024 := by
  decide +kernel

end Sys2Proof.Tests
end

/-!
PROOFS. What a host write of BAR0 does when it reaches one register (R7, R407, R497), and that a register whose write is only
stored takes it and leaves every other register as it was.
-/

namespace Sys2Proof.Machine

/-! ## A write that reaches one register -/

/-- A register of one owner takes the bits that the write names. -/
theorem writeReached_of_mask {block : Option Nat} {a : Access} {s : State} {r : Reached}
    (owner : ownsWrite a.fn r.reg.owner = true) (single : r.reg.owner ≠ .both) (lexicon : (byLexicon r && lxHalted s) = false)
    (bits : (regWrite s a r).mask ≠ 0) : writeReached block a s r = applyWrite block s (regWrite s a r) := by
  simp [writeReached, owner, single, lexicon, bits]

/-- A write whose one register its function owns raises no flag first (R407). -/
theorem takeWrite_of_only {block : Option Nat} {a : Access} {s : State} {r : Reached} (only : reachedBy a.off a.size = [r])
    (owner : ownsWrite a.fn r.reg.owner = true) : takeWrite block s a = writeReached block a s r := by
  simp [takeWrite, only, owner]

theorem hostWrite_of_reaches {block : Option Nat} {a : Access} {s : State} {r : Reached} (h : Reaches s a r) :
    hostWrite block s a = applyWrite block s (regWrite s a r) := by
  obtain ⟨answers, host, blockAnswers, size, now, only, owner, single, lexicon, bits⟩ := h
  have taken : hostWrite block s a = takeWrite block s a := by simp [hostWrite, answers, host, blockAnswers, size, now]
  rw [taken, takeWrite_of_only only owner, writeReached_of_mask owner single lexicon bits]

theorem exec_registerWrite (a : Access) (s : State) : exec (.registerWrite a) s = .next (hostWrite none s a) := rfl

/-! ## What storing a word leaves -/

theorem regGet_storeReg_same (s : State) (w : RegWrite) :
    regGet (storeReg s w) w.off = if w.new = w.old then regGet s w.off else w.new % 2 ^ 64 := by
  unfold storeReg
  split
  · rfl
  · exact regGet_setR_same s w.off w.new

theorem regGet_storeReg_ne (s : State) (w : RegWrite) {o : Nat} (h : o ≠ w.off) : regGet (storeReg s w) o = regGet s o := by
  unfold storeReg
  split
  · rfl
  · exact regGet_setR_ne s w.new h

/-! ## What a register without an effect of its own is not -/

/-- The arrays of registers whose writes have an effect of their own: the first offset, the stride and the number. -/
def effectArrays : List (Nat × Nat × Nat) :=
  [(rGsIntEnable1 0, 8, 64), (rGsIntEnable0 0, 8, 64), (rQeSqBase1 0, 0x40, 64), (rQeCqBase1 0, 0x40, 64),
    (rQeRingCtrl1 0, 0x40, 64), (rQeSqBase0 0, 0x40, 8), (rQeCqBase0 0, 0x40, 8), (rQeRingCtrl0 0, 0x40, 8),
    (rBbPermitLimit 0, 0x100, 8), (rTmPlan 0 0, 8, 4096), (rFlPort 0, 0x200, 18)]

section
variable {off : Nat} (h : ownEffect off = false)
include h

theorem ne_of_ownEffect_false {o : Nat} (ho : ownEffect o = true) : off ≠ o := by
  rintro rfl
  exact Bool.false_ne_true (h.symm.trans ho)

/-- The offset lies in none of the arrays of such registers. -/
theorem indexIn_of_ownEffect_false : ∀ x ∈ effectArrays, indexIn x.1 x.2.1 x.2.2 off = none := by
  simp only [ownEffect, Bool.or_eq_false_iff] at h
  obtain ⟨⟨⟨⟨_, arrays⟩, _⟩, _⟩, _⟩ := h
  intro x hx
  simpa using List.any_eq_false.mp arrays x hx

theorem portClassAt_of_ownEffect_false : portClassAt off = none := by
  simp only [ownEffect, Bool.or_eq_false_iff] at h
  obtain ⟨⟨⟨_, marks⟩, _⟩, _⟩ := h
  simpa using marks

theorem esAt_of_ownEffect_false (block : off / 2 ^ 20 = 0xD) :
    esAt off ≠ 0 ∧ ¬(0x40 ≤ esAt off ∧ esAt off < 0x80) ∧ ¬(0x400 ≤ esAt off ∧ esAt off < 0x600) := by
  simp only [ownEffect, Bool.or_eq_false_iff, decide_eq_false_iff_not] at h
  obtain ⟨⟨_, gates⟩, _⟩ := h
  exact ⟨fun e => gates ⟨block, .inl e⟩, fun e => gates ⟨block, .inr (.inl e)⟩, fun e => gates ⟨block, .inr (.inr e)⟩⟩

theorem lt_rImSource_of_ownEffect_false (block : off / 2 ^ 20 = 0xE) : off < rImSource 0 := by
  simp only [ownEffect, Bool.or_eq_false_iff, decide_eq_false_iff_not] at h
  obtain ⟨_, meter⟩ := h
  omega

end

/-! ## What `storesOnly` asks of each register -/

/-- The registers that keep their value while any context is in a state other than `FREE` (R23, R84, R232). -/
def heldWhileOpen : List Nat := [rCxShardBase, rPmPoolBase, rPmPoolSize, rTmSlotBase, rTmSlotCount]

section
variable {s : State} {w : RegWrite}

theorem storesOnly_of_heldWhileOpen (held : w.off ∈ heldWhileOpen) : storesOnly s w = !(anyOpen s) :=
  if_pos (List.contains_iff_mem.mpr held)

theorem storesOnly_of_not_heldWhileOpen (other : w.off ∉ heldWhileOpen) :
    storesOnly s w =
      if w.off = rAcSaveBase ∨ w.off = rAcSaveSize then s.ac.jobs.isEmpty
      else if w.off = rAcControl then decide (w.get fAcControlAttnContexts ≤ 16)
      else if w.off = rCfControl then decide (w.get fCfControlHbTc ≠ 7 ∧ w.get fCfControlTreeTc ≠ 7)
      else !(ownEffect w.off) :=
  if_neg (fun listed => other (List.contains_iff_mem.mp listed))

theorem ownEffect_of_heldWhileOpen : ∀ o ∈ heldWhileOpen, ownEffect o = false := by decide

variable (h : storesOnly s w = true)
include h

/-- The registers written on a condition have no further effect, and the others have none by the definition. -/
theorem ownEffect_of_storesOnly : ownEffect w.off = false := by
  by_cases held : w.off ∈ heldWhileOpen
  · exact ownEffect_of_heldWhileOpen w.off held
  rw [storesOnly_of_not_heldWhileOpen held] at h
  by_cases save : w.off = rAcSaveBase ∨ w.off = rAcSaveSize
  · rcases save with save | save <;> rw [save] <;> decide
  by_cases acControl : w.off = rAcControl
  · rw [acControl]; decide
  by_cases cfControl : w.off = rCfControl
  · rw [cfControl]; decide
  simpa [save, acControl, cfControl] using h

theorem off_ne_of_storesOnly {o : Nat} (ho : ownEffect o = true) : w.off ≠ o :=
  ne_of_ownEffect_false (ownEffect_of_storesOnly h) ho

theorem indexIn_of_storesOnly {base stride n : Nat} (hx : (base, stride, n) ∈ effectArrays) :
    indexIn base stride n w.off = none :=
  indexIn_of_ownEffect_false (ownEffect_of_storesOnly h) _ hx

theorem anyOpen_of_storesOnly (held : w.off ∈ heldWhileOpen) : anyOpen s = false := by
  simpa [storesOnly_of_heldWhileOpen held] using h

theorem storeWhenFree_of_storesOnly (held : w.off ∈ heldWhileOpen) : storeWhenFree s w = storeReg s w := by
  simp [storeWhenFree, anyOpen_of_storesOnly h held]

theorem jobs_of_storesOnly (save : w.off = rAcSaveBase ∨ w.off = rAcSaveSize) : s.ac.jobs.isEmpty = true := by
  have other : w.off ∉ heldWhileOpen := by rcases save with save | save <;> rw [save] <;> decide
  rwa [storesOnly_of_not_heldWhileOpen other, if_pos save] at h

theorem attnContexts_of_storesOnly (control : w.off = rAcControl) : w.get fAcControlAttnContexts ≤ 16 := by
  rw [storesOnly_of_not_heldWhileOpen (by rw [control]; decide), if_neg (by rw [control]; decide), if_pos control] at h
  exact of_decide_eq_true h

theorem classes_of_storesOnly (control : w.off = rCfControl) :
    w.get fCfControlHbTc ≠ 7 ∧ w.get fCfControlTreeTc ≠ 7 := by
  rw [storesOnly_of_not_heldWhileOpen (by rw [control]; decide), if_neg (by rw [control]; decide),
    if_neg (by rw [control]; decide), if_pos control] at h
  exact of_decide_eq_true h

/-! ## Block by block, such a write is stored -/

theorem writeGs_of_storesOnly : writeGs s w = storeReg s w := by
  have enable1 : indexIn (rGsIntEnable1 0) 8 64 w.off = none := indexIn_of_storesOnly h (by decide)
  have enable0 : indexIn (rGsIntEnable0 0) 8 64 w.off = none := indexIn_of_storesOnly h (by decide)
  have control : w.off ≠ rGsControl := off_ne_of_storesOnly h (by decide)
  simp only [writeGs, control, if_false, enable1, enable0]

theorem writeQe_of_storesOnly : writeQe s w = storeReg s w := by
  unfold writeQe
  split
  · have sq : indexIn (rQeSqBase1 0) 0x40 (ringsOf 1) w.off = none := indexIn_of_storesOnly h (by decide)
    have cq : indexIn (rQeCqBase1 0) 0x40 (ringsOf 1) w.off = none := indexIn_of_storesOnly h (by decide)
    have ctrl : indexIn (rQeRingCtrl1 0) 0x40 (ringsOf 1) w.off = none := indexIn_of_storesOnly h (by decide)
    simp only [writeRings, sq, cq, ctrl]
  · have sq : indexIn (rQeSqBase0 0) 0x40 (ringsOf 0) w.off = none := indexIn_of_storesOnly h (by decide)
    have cq : indexIn (rQeCqBase0 0) 0x40 (ringsOf 0) w.off = none := indexIn_of_storesOnly h (by decide)
    have ctrl : indexIn (rQeRingCtrl0 0) 0x40 (ringsOf 0) w.off = none := indexIn_of_storesOnly h (by decide)
    simp only [writeRings, sq, cq, ctrl]

theorem writeCx_of_storesOnly : writeCx s w = storeReg s w := by
  have tableBase : w.off ≠ rCxTableBase := off_ne_of_storesOnly h (by decide)
  rw [writeCx, if_neg tableBase]
  split
  case isTrue ho => exact storeWhenFree_of_storesOnly h (by rw [ho]; decide)
  case isFalse => rfl

theorem writePm_of_storesOnly : writePm s w = storeReg s w := by
  unfold writePm
  split
  case isTrue ho => exact storeWhenFree_of_storesOnly h (by rcases ho with ho | ho <;> rw [ho] <;> decide)
  case isFalse => rfl

theorem writeBb_of_storesOnly : writeBb s w = storeReg s w := by
  have limit : indexIn (rBbPermitLimit 0) 0x100 8 w.off = none := indexIn_of_storesOnly h (by decide)
  have share : w.off ≠ rBbNarrowShare := off_ne_of_storesOnly h (by decide)
  simp only [writeBb, share, if_false, limit]

theorem writeAc_of_storesOnly : writeAc s w = storeReg s w := by
  unfold writeAc
  split
  case isTrue save => rw [if_pos (jobs_of_storesOnly h save)]
  case isFalse =>
    split
    case isTrue control =>
      have contexts := attnContexts_of_storesOnly h control
      simp [writeAcControl, Nat.not_lt.mpr contexts]
    case isFalse => rfl

theorem writeTm_of_storesOnly : writeTm s w = storeReg s w := by
  have plan : indexIn (rTmPlan 0 0) 8 4096 w.off = none := indexIn_of_storesOnly h (by decide)
  unfold writeTm
  split
  case isTrue ho => exact storeWhenFree_of_storesOnly h (by rcases ho with ho | ho <;> rw [ho] <;> decide)
  case isFalse => simp only [plan]

theorem writePf_of_storesOnly : writePf s w = storeReg s w := by
  have logHead : w.off ≠ rPfLogHead := off_ne_of_storesOnly h (by decide)
  have pass : w.off ≠ rPfPass := off_ne_of_storesOnly h (by decide)
  have test : w.off ≠ rPfTestTarget := off_ne_of_storesOnly h (by decide)
  simp only [writePf, logHead, pass, test, if_false]

theorem writeFl_of_storesOnly (block : Option Nat) : writeFl s block w = storeReg s w := by
  have port : indexIn (rFlPort 0) 0x200 18 w.off = none := indexIn_of_storesOnly h (by decide)
  have marks := portClassAt_of_ownEffect_false (ownEffect_of_storesOnly h)
  have swap : w.off ≠ rFlSwap := off_ne_of_storesOnly h (by decide)
  have ring : w.off ≠ rFlRingControl := off_ne_of_storesOnly h (by decide)
  simp only [writeFl, swap, ring, if_false, port, marks]

theorem writeEs_of_storesOnly (block : w.off / 2 ^ 20 = 0xD) : writeEs s w = storeReg s w := by
  obtain ⟨port, shaper, gate⟩ := esAt_of_ownEffect_false (ownEffect_of_storesOnly h) block
  unfold esAt at port shaper gate
  simp only [writeEs, port, shaper, gate, if_false]

theorem writeIm_of_storesOnly (block : w.off / 2 ^ 20 = 0xE) : writeIm s w = storeReg s w := by
  have below := lt_rImSource_of_ownEffect_false (ownEffect_of_storesOnly h) block
  have source : ¬rImSource 0 ≤ w.off := Nat.not_le.mpr below
  have profile : ¬rImProfile 0 0 ≤ w.off := Nat.not_le.mpr (below.trans (by decide))
  have mgmt : w.off ≠ rImMgmt := off_ne_of_storesOnly h (by decide)
  have control : w.off ≠ rImControl := off_ne_of_storesOnly h (by decide)
  simp only [writeIm, mgmt, control, profile, source, if_false]

theorem writeCf_of_storesOnly : writeCf s w = storeReg s w := by
  unfold writeCf
  split
  case isTrue control =>
    obtain ⟨heartbeat, tree⟩ := classes_of_storesOnly h control
    simp only [writeCfControl, heartbeat, tree, if_false]
  case isFalse => rfl

theorem writePw_of_storesOnly : writePw s w = storeReg s w := by
  have state : w.off ≠ rPwState := off_ne_of_storesOnly h (by decide)
  have cap : w.off ≠ rPwCap := off_ne_of_storesOnly h (by decide)
  simp only [writePw, state, cap, if_false]

theorem applyWrite_of_storesOnly (block : Option Nat) : applyWrite block s w = storeReg s w := by
  unfold applyWrite
  split
  · exact writeGs_of_storesOnly h
  · exact writeQe_of_storesOnly h
  · exact writeCx_of_storesOnly h
  · exact writePm_of_storesOnly h
  · exact writeBb_of_storesOnly h
  · exact writeAc_of_storesOnly h
  · exact writeTm_of_storesOnly h
  · exact writePf_of_storesOnly h
  · exact writeFl_of_storesOnly h block
  · next es => exact writeEs_of_storesOnly h es
  · next im => exact writeIm_of_storesOnly h im
  · exact writeCf_of_storesOnly h
  · exact writePw_of_storesOnly h
  · rfl

end

/-! ## The statement -/

/-- Settles O14: the write reaches one register, and one whose write is only stored takes the merged word and no more. -/
theorem registerWritesAct : Obligations.RegisterWritesAct := by
  intro a r s reaches w
  have acts : exec (.registerWrite a) s = .next (applyWrite none s w) := by
    rw [exec_registerWrite, hostWrite_of_reaches reaches]
  refine ⟨acts, fun stores => ⟨storeReg s w, ?_, ?_, ?_⟩⟩
  · rw [acts, applyWrite_of_storesOnly stores]
  · exact regGet_storeReg_same s w
  · exact fun o other => regGet_storeReg_ne s w other

end Sys2Proof.Machine

/-!
PROOFS. What the timers of a connection and the spray of its packets and of the datagrams do (R21, R184, R325 to R329, R348).
-/

namespace Sys2Proof.Machine

/-! ## The commands on a powered node die -/

theorem live_of_awake {s : State} (up : awake s = true) (f : State → State) : live s f = f s := if_pos up

theorem due_of_le {s : State} {t limit : Nat} (h : limit ≤ elapsed s t) : due s t limit = true := decide_eq_true h

theorem exec_ackTimer (c : Nat) (s : State) : exec (.ackTimer c) s = execAckTimer c s := rfl

theorem exec_gapTimer (c : Nat) (s : State) : exec (.gapTimer c) s = execGapTimer c s := rfl

theorem exec_retxTimer (c : Nat) (s : State) : exec (.retxTimer c) s = execRetxTimer c s := rfl

theorem exec_packetSpray_conn {s : State} (up : awake s = true) (c : Nat) :
    exec (.packetSpray (.conn c)) s = .next (sprayConn s c) :=
  congrArg _ (live_of_awake up _)

theorem exec_packetSpray_dgram {s : State} (up : awake s = true) :
    exec (.packetSpray .dgram) s = .next (sprayDgram s) :=
  congrArg _ (live_of_awake up _)

/-! ## The timers (R327, R328, R329) -/

section
variable {s : State} {c t : Nat} {k : Conn} (up : awake s = true) (found : connOf s c = some k)
include up found

theorem exec_ackTimer_of_due (since : k.ackSince = some t)
    (late : getF s rFtControl fFtControlAckTime * 1024 ≤ elapsed s t) : exec (.ackTimer c) s = .next (sendAck s c) := by
  rw [exec_ackTimer, execAckTimer, live_of_awake up]
  simp only [found, Option.bind_some, since, unit1024, due_of_le late, if_true]

theorem exec_gapTimer_of_due (since : k.gapSince = some t)
    (late : getF s rFtControl fFtControlNakTime * 1024 ≤ elapsed s t) :
    exec (.gapTimer c) s = .next (updConn (sendNak s c) c fun x => { x with gapSince := some s.time }) := by
  rw [exec_gapTimer, execGapTimer, live_of_awake up]
  simp only [found, Option.bind_some, since, unit1024, due_of_le late, if_true]

theorem exec_retxTimer_of_due (isOpen : k.state = 1) (since : k.retxSince = some t)
    (late : max 1 (getF s rFtControl fFtControlRetxTime) * 1024 ≤ elapsed s t) :
    exec (.retxTimer c) s = .next (retxExpire s c k) := by
  rw [exec_retxTimer, execRetxTimer, live_of_awake up]
  simp only [found, since, isOpen, unit1024, due_of_le late, and_self, if_true]

end

theorem retxExpire_of_limit {s : State} {k : Conn} (spent : getF s rFtControl fFtControlRetryLimit ≤ k.retries) (c : Nat) :
    retxExpire s c k = connError s c stTimeout := if_pos spent

theorem retxExpire_of_lt {s : State} {k : Conn} (left : k.retries < getF s rFtControl fFtControlRetryLimit) (c : Nat) :
    retxExpire s c k =
      goBack (putConn s c { k with retries := k.retries + 1, retxSince := some s.time }) c k.sndUna :=
  if_neg (Nat.not_le.mpr left)

/-! ## The next packet of a connection (R325, R326) -/

/-- A connection once its next packet has left: `SND_NXT` advances, and the retransmit timer runs. -/
def Conn.sent (k : Conn) (time top : Nat) : Conn :=
  { k with sndNxt := psnAdd k.sndNxt 1, sndMax := top, retxSince := some (k.retxSince.getD time) }

section
variable {s : State} {c g : Nat} {k : Conn} (found : connOf s c = some k) (isOpen : k.state = 1)
  (port : outPort s k.tc k.ports = some g)
include found isOpen port

/-- An `ACK` or `NAK` goes before the packets of the stream. -/
theorem sprayConn_of_control {p : Bytes} {rest : List Bytes} (control : k.ctl = p :: rest) :
    sprayConn s c = putFrame (putConn s c { k with ctl := rest }) g k.tc k.peer k.hops p := by
  simp only [sprayConn, found, port, isOpen, control, ne_eq, not_true_eq_false, if_false]

variable {m : TxMsg} (noControl : k.ctl = []) (unsent : k.sndNxt ≠ k.nextPsn) (window : psnSub k.sndNxt k.sndUna < 256)
  (message : k.tx.find? (fun m => decide (psnSub k.sndNxt m.psn < m.packets)) = some m)
include noControl unsent window message

theorem sprayConn_of_locked (locked : packetLocks s m (psnSub k.sndNxt m.psn) ≠ []) :
    sprayConn s c = waitLocks s (.packet c) (packetLocks s m (psnSub k.sndNxt m.psn)) := by
  have sends : ¬(k.sndNxt = k.nextPsn ∨ 256 ≤ psnSub k.sndNxt k.sndUna) := by omega
  simp only [sprayConn, found, port, isOpen, noControl, sends, message, locked, ne_eq, not_true_eq_false,
    not_false_eq_true, if_true, if_false]

variable (free : packetLocks s m (psnSub k.sndNxt m.psn) = [])
include free

/-- A packet behind `SND_MAX` goes out again, which is counted and ends no stage. -/
theorem sprayConn_of_free :
    let again := serialBefore 24 k.sndNxt k.sndMax
    let p := setSrcConn (formPacket s k m (psnSub k.sndNxt m.psn)) c
    let u := putFrameFor (putConn s c (k.sent s.time (if again then k.sndMax else psnAdd k.sndNxt 1))) g k.tc k.peer k.hops p
      (packetStages m (psnSub k.sndNxt m.psn) again)
    sprayConn s c = if again then tally (bumpR u rFtRetxPackets 1) (288 + g) 256 else u := by
  have sends : ¬(k.sndNxt = k.nextPsn ∨ 256 ≤ psnSub k.sndNxt k.sndUna) := by omega
  cases timer : k.retxSince <;>
    simp only [sprayConn, found, port, isOpen, noControl, sends, message, free, ne_eq, not_true_eq_false, if_false, timer,
      Conn.sent, Option.getD_none, Option.getD_some]

theorem sprayConn_of_first (first : serialBefore 24 k.sndNxt k.sndMax = false) :
    sprayConn s c = putFrameFor (putConn s c (k.sent s.time (psnAdd k.sndNxt 1))) g k.tc k.peer k.hops
      (setSrcConn (formPacket s k m (psnSub k.sndNxt m.psn)) c) (packetStages m (psnSub k.sndNxt m.psn) false) := by
  simpa [first] using sprayConn_of_free found isOpen port noControl unsent window message free

theorem sprayConn_of_again (again : serialBefore 24 k.sndNxt k.sndMax = true) :
    sprayConn s c = tally (bumpR (putFrameFor (putConn s c (k.sent s.time k.sndMax)) g k.tc k.peer k.hops
      (setSrcConn (formPacket s k m (psnSub k.sndNxt m.psn)) c) (packetStages m (psnSub k.sndNxt m.psn) true))
      rFtRetxPackets 1) (288 + g) 256 := by
  simpa [again] using sprayConn_of_free found isOpen port noControl unsent window message free

end

/-! ## The next datagram (R348) -/

theorem sprayDgram_of_port {s : State} {d : DgramOut} {g : Nat}
    (next : s.ft.dgrams.find? (fun d => (outPort s d.tc d.mask).isSome) = some d) (port : outPort s d.tc d.mask = some g) :
    sprayDgram s = putFrame { s with ft := { s.ft with dgrams := s.ft.dgrams.erase d } } g d.tc d.dest d.hops d.pkt := by
  simp only [sprayDgram, next, port]

/-! ## The statement -/

/-- Settles O46: each timer that is due, and each packet or datagram that a port can take, by its own rule above. -/
theorem connectionsSendAndTimeOut : Obligations.ConnectionsSendAndTimeOut := by
  intro c k s up found
  refine ⟨?_, ?_, ?_, ?_, ?_⟩
  · exact fun t since late => exec_ackTimer_of_due up found since late
  · exact fun t since late => exec_gapTimer_of_due up found since late
  · intro t isOpen since late
    rw [exec_retxTimer_of_due up found isOpen since late]
    exact ⟨fun spent => by rw [retxExpire_of_limit spent], fun left => by rw [retxExpire_of_lt left]⟩
  · intro g isOpen port
    rw [exec_packetSpray_conn up]
    refine ⟨fun p rest control => ?_, fun m noControl unsent window message => ⟨fun locked => ?_, fun free first => ?_,
      fun free again => ?_⟩⟩
    · rw [sprayConn_of_control found isOpen port control]
    · rw [sprayConn_of_locked found isOpen port noControl unsent window message locked]
    · rw [sprayConn_of_first found isOpen port noControl unsent window message free first]
      rfl
    · rw [sprayConn_of_again found isOpen port noControl unsent window message free again]
      rfl
  · intro d g next port
    rw [exec_packetSpray_dgram up, sprayDgram_of_port next port]

end Sys2Proof.Machine

/-!
PROOFS. What a host access of the node-memory window reads and writes (R24, R184, R215, R258, R260).
-/

namespace Sys2Proof.Machine

/-! ## A write of the window -/

/-- The write reaches this byte of node memory: it lies in no table and in no loaded model, and is backed. -/
def windowWrites (s : State) (n : Nat) : Bool := !(inTables s n || inModel s n || !(reachable? s n))

theorem putWindow_of_writes {s : State} {n : Nat} (h : windowWrites s n = true) (b : Byte) :
    putWindow s n b = { s with mem := memPut s.mem (phys s n) b } := by
  have stored : (inTables s n || inModel s n || !(reachable? s n)) = false := by
    simpa only [windowWrites, Bool.not_eq_true'] using h
  have backed : n < gddrSize := by
    simp only [reachable?, Bool.or_eq_false_iff, Bool.not_eq_false', Bool.and_eq_true, decide_eq_true_eq] at stored
    exact stored.2.1
  rw [putWindow, stored, if_neg Bool.false_ne_true, writeByte, if_pos backed]

theorem putWindow_of_not_writes {s : State} {n : Nat} (h : windowWrites s n = false) (b : Byte) : putWindow s n b = s :=
  if_pos (by simpa only [windowWrites, Bool.not_eq_false'] using h)

/-- A byte written to the window leaves the map from addresses to places as it was, memory in its canonical form, and the bytes
of every other place. -/
theorem putWindow_frame (s : State) (n : Nat) (b : Byte) (wf : Memory.wf s.mem = true) :
    (∀ a, phys (putWindow s n b) a = phys s a) ∧ Memory.wf (putWindow s n b).mem = true ∧
      ∀ a, phys s a ≠ phys s n → memGet (putWindow s n b).mem (phys s a) = memGet s.mem (phys s a) := by
  cases reached : windowWrites s n
  case false => rw [putWindow_of_not_writes reached]; exact ⟨fun _ => rfl, wf, fun _ _ => rfl⟩
  case true =>
    rw [putWindow_of_writes reached]
    exact ⟨fun _ => rfl, memWf_put _ 0 _ _ wf (Nat.zero_le _), fun a other => memGet_put_ne _ 0 _ wf other⟩

/-- A run of bytes written to the window leaves the bytes of every place outside the run. -/
theorem putWindows_memGet_other (s : State) (n : Nat) (data : Bytes) (wf : Memory.wf s.mem = true) (a : Nat)
    (outside : ∀ k, k < data.length → phys s a ≠ phys s (n + k)) :
    memGet (putWindows s n data).mem (phys s a) = memGet s.mem (phys s a) := by
  induction data generalizing s n with
  | nil => rfl
  | cons b rest ih =>
    obtain ⟨places, kept, others⟩ := putWindow_frame s n b wf
    have first : memGet (putWindow s n b).mem (phys s a) = memGet s.mem (phys s a) := others a (outside 0 (Nat.succ_pos _))
    have later := ih (putWindow s n b) (n + 1) kept fun k inside => by
      rw [places, places, Nat.add_assoc, Nat.add_comm 1 k]
      exact outside (k + 1) (Nat.succ_lt_succ inside)
    rw [putWindows, ← places a, later, places, first]

/-- The write meets a loaded model outside the tables, which is counted (R215). -/
def meetsModel (s : State) (n len : Nat) : Bool := (List.range len).any fun k => inModel s (n + k) && !(inTables s (n + k))

theorem meetsModel_of_outside {s : State} {n len : Nat} (outside : ∀ k, k < len → inModel s (n + k) = false) :
    meetsModel s n len = false := by
  rw [meetsModel, List.any_eq_false]
  intro k hk
  simp [outside k (List.mem_range.mp hk)]

/-- The state once the bytes of a write are stored, and the model that it meets is counted. -/
def windowWritten (s : State) (n : Nat) (data : Bytes) : State :=
  if meetsModel s n data.length = true then raise1 (putWindows s n data) 13 fAcEventRmWrite else putWindows s n data

theorem windowWritten_mem (s : State) (n : Nat) (data : Bytes) : (windowWritten s n data).mem = (putWindows s n data).mem := by
  unfold windowWritten
  split
  · exact raise1_mem
  · rfl

/-! ## The accesses -/

section
variable {s : State} (opened : windowOpen s = true)
include opened

theorem powered_of_windowOpen : powered s = true ∧ s.power.opened = true := by
  simp only [windowOpen, answers, Bool.and_eq_true] at opened
  obtain ⟨⟨⟨⟨on, functions⟩, _⟩, _⟩, _⟩ := opened
  exact ⟨on, functions⟩

variable {off len : Nat} (inside : off + len ≤ 2 ^ 34)
include inside

theorem exec_bar4Read_of_inside : exec (.bar4Read off len) s = .next (
    if lockedIn s (windowNpa s off) len = [] then answerRead s (windowNpa s off, len) else holdRead s (windowNpa s off) len) := by
  obtain ⟨on, functions⟩ := powered_of_windowOpen opened
  change Host.Outcome.next (bar4Read off len s) = _
  simp only [bar4Read, on, functions, opened, Nat.not_lt.mpr inside, Bool.not_true, Bool.false_eq_true, if_false]

end

theorem exec_bar4Write_of_inside {s : State} {off : Nat} {data : Bytes} (opened : windowOpen s = true)
    (inside : off + data.length ≤ 2 ^ 34) :
    exec (.bar4Write off data) s =
      .next (noteBad (windowWritten s (windowNpa s off) data) (windowNpa s off) data.length) := by
  have within : ¬(!(windowOpen s) ∨ 2 ^ 34 < off + data.length) := by
    rw [opened]; simpa using inside
  change Host.Outcome.next (bar4Write off data s) = _
  rw [bar4Write, if_neg within]
  rfl

/-- A read that waits joins the reads that wait, and nothing is answered. -/
theorem holdRead_waits (s : State) (n len : Nat) :
    (holdRead s n len).bb.hostReads = s.bb.hostReads ++ [(n, len)] ∧ (holdRead s n len).out = s.out := ⟨rfl, rfl⟩

/-! ## The statement -/

/-- Settles O19: a read is answered or waits by the locks it meets; a write stores byte by byte, each at its own place. -/
theorem windowReachesMemory : Obligations.WindowReachesMemory := by
  intro off data s opened inside n
  refine ⟨fun free => ?_, fun locked => ?_, windowWritten s n data, exec_bar4Write_of_inside opened inside,
    windowWritten_mem s n data, fun outside => ?_, fun wf b outside => ?_⟩
  · rw [exec_bar4Read_of_inside opened inside, if_pos free]
    rfl
  · rw [exec_bar4Read_of_inside opened inside, if_neg locked]
    exact ⟨_, rfl, holdRead_waits s n data.length⟩
  · rw [windowWritten, meetsModel_of_outside outside, if_neg Bool.false_ne_true]
  · rw [windowWritten_mem, putWindows_memGet_other s n data wf b outside]

end Sys2Proof.Machine

/-!
PROOFS. What a context command finds in the state in which it has begun: the same registers, memory, contexts and maps as before
it, since the refetches that it counts write none of what it reads (R269); and how a command on a context whose descriptor is good
goes on from there (R28, R480).
-/

namespace Sys2Proof.Machine

/-! ## States that a command reads alike -/

/-- The second state shows a command the memory, the contexts, the maps and the registers of the first, but for the registers that
a passed refetch writes (R269). -/
structure SameSight (s t : State) : Prop where
  regs : ∀ o, o ∉ readRegs → regGet t o = regGet s o
  mem  : t.mem = s.mem
  cx   : t.cx = s.cx
  pm   : t.pm = s.pm

theorem sameSight_begun (s : State) (c : Cmd) : SameSight s (begun s c) :=
  ⟨fun _ other => begun_regGet other, takeReads_mem, takeReads_cx, takeReads_pm⟩

namespace SameSight

section
variable {s t : State} (h : SameSight s t)
include h

theorem getF {o : Nat} (f : Fld) (other : o ∉ readRegs) : Machine.getF t o f = Machine.getF s o f := by
  rw [Machine.getF, h.regs o other, Machine.getF]

theorem narrowShare : Machine.narrowShare t = Machine.narrowShare s := by
  rw [Machine.narrowShare, h.getF _ (by decide), Machine.narrowShare]

theorem wideSize : Machine.wideSize t = Machine.wideSize s := by
  rw [Machine.wideSize, h.narrowShare, Machine.wideSize]

theorem reserveBase : Machine.reserveBase t = Machine.reserveBase s := by
  rw [Machine.reserveBase, h.wideSize, Machine.reserveBase]

theorem place (a : Nat) : Machine.place t a = Machine.place s a := by
  rw [Machine.place, h.narrowShare, Machine.place]

theorem remapped (c l : Nat) : Machine.remapped t c l = Machine.remapped s c l := by
  simp only [Machine.remapped, remaps, h.regs rPfChannels (by decide), h.reserveBase]

theorem phys (a : Nat) : Machine.phys t a = Machine.phys s a := by
  simp only [Machine.phys, h.place, h.remapped]

theorem readMem (a len : Nat) : Machine.readMem t a len = Machine.readMem s a len := by
  induction len generalizing a with
  | zero => rfl
  | succ len ih => rw [Machine.readMem, Machine.readMem, ih, readByte, readByte, h.phys, h.mem]

theorem bbdUp (b : Nat) : Machine.bbdUp t b = Machine.bbdUp s b := by
  rw [Machine.bbdUp, h.getF _ (by decide), Machine.bbdUp]

theorem bbdAt (a : Nat) : Machine.bbdAt t a = Machine.bbdAt s a := by rw [Machine.bbdAt, h.phys, Machine.bbdAt]

/-! ### Contexts -/

theorem ctxBase : Machine.ctxBase t = Machine.ctxBase s := by
  rw [Machine.ctxBase, h.getF _ (by decide), Machine.ctxBase]

theorem ctxAddr (i : Nat) : Machine.ctxAddr t i = Machine.ctxAddr s i := by
  rw [Machine.ctxAddr, h.ctxBase, Machine.ctxAddr]

theorem ctxStored (i : Nat) : Machine.ctxStored t i = Machine.ctxStored s i := by
  rw [Machine.ctxStored, h.ctxAddr, h.readMem, Machine.ctxStored]

theorem ctxCopy (i : Nat) : Machine.ctxCopy t i = Machine.ctxCopy s i := by
  rw [Machine.ctxCopy, h.ctxAddr, h.pm, Machine.ctxCopy]

theorem ctxBytes (i : Nat) : Machine.ctxBytes t i = Machine.ctxBytes s i := by
  rw [Machine.ctxBytes, h.ctxCopy, h.ctxStored, Machine.ctxBytes]

theorem ctxGood (i : Nat) : Machine.ctxGood t i = Machine.ctxGood s i := by
  rw [Machine.ctxGood, h.ctxCopy, h.ctxStored, ctxBad, h.cx, Machine.ctxGood, ctxBad]

theorem auxState (i : Nat) : Machine.auxState t i = Machine.auxState s i := by
  rw [Machine.auxState, h.cx, Machine.auxState]

theorem ctxClass (i : Nat) : Machine.ctxClass t i = Machine.ctxClass s i := by
  rw [Machine.ctxClass, h.cx, Machine.ctxClass]

/-! ### Shard sets and regions -/

theorem shardBase : Machine.shardBase t = Machine.shardBase s := by
  rw [Machine.shardBase, h.getF _ (by decide), Machine.shardBase]

theorem suppliedSetOk (d : Bytes) : Machine.suppliedSetOk t d = Machine.suppliedSetOk s d := by
  have width (set : Nat) : setWidth t set = setWidth s set := by
    rw [setWidth, h.cx, shardHeader, h.shardBase, h.readMem, setWidth, shardHeader]
  have node (set shard : Nat) : setNode t set shard = setNode s set shard := by
    rw [setNode, h.shardBase, h.readMem, setNode]
  have self : nodeId t = nodeId s := h.getF _ (by decide)
  rw [Machine.suppliedSetOk, width, node, self, Machine.suppliedSetOk]

theorem fixedRegions : Machine.fixedRegions t = Machine.fixedRegions s := by
  have pool : poolBase t = poolBase s ∧ poolBlocks t = poolBlocks s :=
    ⟨congrArg (4096 * ·) (h.getF _ (by decide)), h.getF _ (by decide)⟩
  have slots : slotRegionBase t = slotRegionBase s ∧ slotRegionCount t = slotRegionCount s :=
    ⟨congrArg (4096 * ·) (h.getF _ (by decide)), h.getF _ (by decide)⟩
  rw [Machine.fixedRegions, h.ctxBase, h.shardBase, pool.1, pool.2, slots.1, slots.2, Machine.fixedRegions]

theorem openRegionsOk : Machine.openRegionsOk t = Machine.openRegionsOk s := by
  simp only [Machine.openRegionsOk, regionsOk, h.fixedRegions, h.wideSize, h.reserveBase]

end

end SameSight

/-! ## A fill of the Map cache -/

section
variable {s : State} {i : Nat}

@[simp] theorem fillCtx_cx : (fillCtx s i).cx = s.cx := keep_fillCtx (P := fun t => t.cx = s.cx) (fun _ _ h => h) rfl
@[simp] theorem fillCtx_mem : (fillCtx s i).mem = s.mem := keep_fillCtx (P := fun t => t.mem = s.mem) (fun _ _ h => h) rfl
@[simp] theorem fillCtx_cf : (fillCtx s i).cf = s.cf := keep_fillCtx (P := fun t => t.cf = s.cf) (fun _ _ h => h) rfl
@[simp] theorem fillCtx_qe : (fillCtx s i).qe = s.qe := keep_fillCtx (P := fun t => t.qe = s.qe) (fun _ _ h => h) rfl
@[simp] theorem fillCtx_tm : (fillCtx s i).tm = s.tm := keep_fillCtx (P := fun t => t.tm = s.tm) (fun _ _ h => h) rfl
@[simp] theorem fillCtx_out : (fillCtx s i).out = s.out := keep_fillCtx (P := fun t => t.out = s.out) (fun _ _ h => h) rfl

@[simp] theorem auxState_fillCtx (j : Nat) : auxState (fillCtx s i) j = auxState s j := by rw [auxState, fillCtx_cx, auxState]

@[simp] theorem ctxClass_fillCtx (j : Nat) : ctxClass (fillCtx s i) j = ctxClass s j := by rw [ctxClass, fillCtx_cx, ctxClass]

/-- Of the maps, a fill writes nothing but the Map cache. -/
theorem fillCtx_pm_but_cache : { (fillCtx s i).pm with cache := s.pm.cache } = s.pm := by
  unfold fillCtx fillLine
  repeat' split
  all_goals rfl

end

/-! ## Reading a descriptor -/

theorem descFault_of_ctxGood {s : State} {i : Nat} (good : ctxGood s i = true)
    (up : bbdUp s (bbdAt s (ctxAddr s i)) = true) (source : Nat) : descFault s i source = none := by
  rw [ctxGood, Bool.or_eq_true] at good
  rw [descFault, up]
  rcases good with copied | sound
  · exact if_pos copied
  · simp [sound]

/-- What a good descriptor reads as, and that its read fills the Map cache at most (R28, R200). -/
theorem readCtx_of_ctxGood {s : State} {i : Nat} (good : ctxGood s i = true)
    (up : bbdUp s (bbdAt s (ctxAddr s i)) = true) (source : Nat) :
    readCtx s i source = .ok (ctxBytes s i, fillCtx s i) := by
  rw [readCtx, descFault_of_ctxGood good up]

/-- A read of a descriptor that succeeds leaves the fill of it. -/
theorem eq_fillCtx_of_readCtx_ok {s t : State} {i source : Nat} {d : Bytes} (read : readCtx s i source = .ok (d, t)) :
    t = fillCtx s i := by
  unfold readCtx at read
  split at read
  · cases read
  · cases read; rfl

/-- A command reads the good descriptor of a context from the state in which it has begun. -/
theorem readCtx_begun {s : State} {i : Nat} (good : ctxGood s i = true) (up : bbdUp s (bbdAt s (ctxAddr s i)) = true)
    (c : Cmd) (source : Nat) : readCtx (begun s c) i source = .ok (ctxBytes s i, fillCtx (begun s c) i) := by
  have same := sameSight_begun s c
  rw [← same.ctxGood] at good
  rw [← same.ctxAddr, ← same.bbdAt, ← same.bbdUp] at up
  rw [readCtx_of_ctxGood good up, same.ctxBytes]

/-! ## Commands that run and end -/

/-- The answer of a command that acts on a powered node die. -/
theorem next_live_of_awake {s : State} (up : awake s = true) (f : State → State) :
    (.next (live s f) : Host.Outcome State Fault Refusal) = .next (f s) := congrArg _ (live_of_awake up f)

section
variable {c : Cmd} {t : State}

@[simp] theorem swept_mem : (swept c t).mem = t.mem := sweepUnknown_mem
@[simp] theorem swept_cx : (swept c t).cx = t.cx := sweepUnknown_cx
@[simp] theorem swept_pm : (swept c t).pm = t.pm := sweepUnknown_pm
@[simp] theorem swept_cf : (swept c t).cf = t.cf := sweepUnknown_cf
@[simp] theorem swept_out : (swept c t).out = t.out := sweepUnknown_out

@[simp] theorem begun_mem (s : State) : (begun s c).mem = s.mem := (sameSight_begun s c).mem
@[simp] theorem begun_cx (s : State) : (begun s c).cx = s.cx := (sameSight_begun s c).cx
@[simp] theorem begun_pm (s : State) : (begun s c).pm = s.pm := (sameSight_begun s c).pm

end

section
variable {s : State} {op : Nat} {c : Cmd} (runs : Runs s op c)
include runs

theorem startCmd_of_runs (f : CmdRef → State → State) : startCmd s op c f = swept c (f (refOf s c) (begun s c)) :=
  startCmd_runs runs f

/-- A context command that runs while the table is ready waits for nothing (R480). -/
theorem startCx_of_runs (ready : tableReady s = true) (f : CmdRef → State → State) :
    startCx s op c f = swept c (f (refOf s c) (begun s c)) := by
  rw [startCx, live_of_awake runs.isAwake, ready, if_pos rfl, startCmd_of_runs runs]

/-- The answer of such a command. -/
theorem next_startCx_of_runs (ready : tableReady s = true) (f : CmdRef → State → State) :
    (.next (startCx s op c f) : Host.Outcome State Fault Refusal) = .next (swept c (f (refOf s c) (begun s c))) :=
  congrArg _ (startCx_of_runs runs ready f)

/-- A command ends with a status once its effect is to finish with it. -/
theorem ends_of_finish {i : Instr} {u : State} {st : Nat} {Q : State → Prop}
    (acts : exec i s = .next (swept c (finish u (refOf s c) st))) (grows : Grows (begun s c) u)
    (holds : Q (swept c (finish u (refOf s c) st))) : Ends i s c st 0 0 0 0 Q := by
  have fromStart : Grows s u := Grows.trans ⟨begun_resets1, [], by rw [begun_finished, List.append_nil]⟩ grows
  have answered := startCmd_complete runs (f := fun _ _ => finish u (refOf s c) st) rfl fromStart
  rw [startCmd_of_runs runs] at answered
  exact ⟨_, acts, answered, holds⟩

end

end Sys2Proof.Machine

/-!
PROOFS. What the context commands do on a context whose descriptor is good (R24, R28, R31 to R35, R42, R43, R200).
-/

namespace Sys2Proof.Machine

/-- The operands of a `CX_OPEN` and the regions allow the open (R23, R25 to R27). -/
def openAllowed (s : State) (c : Cmd) : Bool :=
  suppliedOk (supplied c) && suppliedSetOk s (supplied c) && openRegionsOk s

theorem not_openAllowed (s : State) (c : Cmd) :
    (!(suppliedOk (supplied c)) || !(suppliedSetOk s (supplied c)) || !(openRegionsOk s)) = !(openAllowed s c) := by
  simp only [openAllowed, Bool.not_and]

theorem SameSight.openAllowed {s t : State} (h : SameSight s t) (c : Cmd) : Machine.openAllowed t c = Machine.openAllowed s c := by
  rw [Machine.openAllowed, h.suppliedSetOk, h.openRegionsOk, Machine.openAllowed]

section
variable {s : State} {c : Cmd} (ready : tableReady s = true) (good : ctxGood s (cmdIndex c) = true)
  (up : bbdUp s (bbdAt s (ctxAddr s (cmdIndex c))) = true)
include ready good up

/-! ## `CX_OPEN` (R31, R32) -/

section
variable (runs : Runs s 0x01 c)
include runs

omit up in
theorem exec_cxOpen_of_same (isOpen : auxState s (cmdIndex c) = 1)
    (same : sameSupplied (supplied c) (ctxBytes s (cmdIndex c)) = true) :
    exec (.cxOpen c) s = .next (swept c (finish (begun s c) (refOf s c) stOk)) := by
  have sight := sameSight_begun s c
  refine (next_startCx_of_runs runs ready _).trans ?_
  simp only [sight.auxState, sight.ctxGood, sight.ctxBytes, isOpen, good, same, and_self, if_true]

omit good up in
/-- Operands that allow no open are refused before the descriptor is read. -/
theorem exec_cxOpen_of_refused (refused : openAllowed s c = false)
    (other : sameSupplied (supplied c) (ctxBytes s (cmdIndex c)) = false) :
    exec (.cxOpen c) s = .next (swept c (finish (begun s c) (refOf s c) stFormat)) := by
  have sight := sameSight_begun s c
  refine (next_startCx_of_runs runs ready _).trans ?_
  simp only [sight.ctxBytes, other, Bool.false_eq_true, and_false, if_false, not_openAllowed, sight.openAllowed, refused,
    Bool.not_false, if_true]

theorem exec_cxOpen_of_open (allowed : openAllowed s c = true) (isOpen : auxState s (cmdIndex c) = 1)
    (other : sameSupplied (supplied c) (ctxBytes s (cmdIndex c)) = false) :
    exec (.cxOpen c) s = .next (swept c (finish (fillCtx (begun s c) (cmdIndex c)) (refOf s c) stFormat)) := by
  have sight := sameSight_begun s c
  refine (next_startCx_of_runs runs ready _).trans ?_
  simp only [sight.ctxBytes, other, Bool.false_eq_true, and_false, if_false, not_openAllowed, sight.openAllowed, allowed,
    Bool.not_true, readCtx_begun good up, auxState_fillCtx, sight.auxState, isOpen]

theorem exec_cxOpen_of_free (allowed : openAllowed s c = true) (free : auxState s (cmdIndex c) = 0) :
    exec (.cxOpen c) s = .next (swept c (
      let opened := openCtx (fillCtx (begun s c) (cmdIndex c)) (cmdIndex c) (supplied c)
      finish opened.2 (refOf s c) opened.1)) := by
  have sight := sameSight_begun s c
  refine (next_startCx_of_runs runs ready _).trans ?_
  simp only [not_openAllowed, sight.openAllowed, allowed, Bool.not_true, Bool.false_eq_true, readCtx_begun good up,
    auxState_fillCtx, sight.auxState, free, zero_ne_one, false_and, if_false]

/-- What a repeated open ends in: the state in which it began, or that with a fill of the Map cache (R31). -/
theorem exec_cxOpen_repeated (isOpen : auxState s (cmdIndex c) = 1) :
    let same := sameSupplied (supplied c) (ctxBytes s (cmdIndex c))
    ∃ u, exec (.cxOpen c) s = .next (swept c (finish u (refOf s c) (if same = true then stOk else stFormat))) ∧
      (u = begun s c ∨ same = false ∧ u = fillCtx (begun s c) (cmdIndex c)) := by
  intro same
  cases repeated : same
  case true => exact ⟨_, exec_cxOpen_of_same ready good runs isOpen repeated, .inl rfl⟩
  case false =>
    cases allowed : openAllowed s c
    case false => exact ⟨_, exec_cxOpen_of_refused ready runs allowed repeated, .inl rfl⟩
    case true => exact ⟨_, exec_cxOpen_of_open ready good up runs allowed isOpen repeated, .inr ⟨rfl, rfl⟩⟩

end

/-! ## `CX_CLOSE` (R30, R35) -/

section
variable (runs : Runs s 0x02 c)
include runs

theorem exec_cxClose_of_free (free : auxState s (cmdIndex c) = 0) :
    exec (.cxClose c) s = .next (swept c (finish (fillCtx (begun s c) (cmdIndex c)) (refOf s c) stNoContext)) := by
  refine (next_startCx_of_runs runs ready _).trans ?_
  simp only [readCtx_begun good up, auxState_fillCtx, (sameSight_begun s c).auxState, free, if_true]

theorem exec_cxClose_of_closing (closing : auxState s (cmdIndex c) = 5) :
    exec (.cxClose c) s = .next (swept c (joinOp (fillCtx (begun s c) (cmdIndex c)) (cmdIndex c) (refOf s c))) := by
  refine (next_startCx_of_runs runs ready _).trans ?_
  simp only [readCtx_begun good up, auxState_fillCtx, (sameSight_begun s c).auxState, closing]

theorem exec_cxClose_of_used (used : auxState s (cmdIndex c) ≠ 0) (stays : auxState s (cmdIndex c) ≠ 5) :
    exec (.cxClose c) s =
      .next (swept c (closePoint (fillCtx (begun s c) (cmdIndex c)) (cmdIndex c) true [refOf s c])) := by
  refine (next_startCx_of_runs runs ready _).trans ?_
  simp only [readCtx_begun good up, auxState_fillCtx, (sameSight_begun s c).auxState]

end

/-! ## `CX_PARK` (R30, R33) -/

section
variable (runs : Runs s 0x03 c)
include runs

theorem exec_cxPark_of_parked (parked : auxState s (cmdIndex c) = 3) :
    exec (.cxPark c) s = .next (swept c (finish (fillCtx (begun s c) (cmdIndex c)) (refOf s c) stOk)) := by
  refine (next_startCx_of_runs runs ready _).trans ?_
  simp only [readCtx_begun good up, auxState_fillCtx, (sameSight_begun s c).auxState, parked]

/-- The park of a context begins: its state, the operation, and the moves of its pages. -/
def beginPark (s : State) (i : Nat) (r : CmdRef) (d : Bytes) : State :=
  let v := setCtxState (endCtxOp s i stAborted) i 2
  queueParks (setCtxOp v i (some ⟨.park, [r], 0, none⟩)) i d (parkPages v i d)

theorem exec_cxPark_of_open (isOpen : auxState s (cmdIndex c) = 1)
    (lower : noLower (fillCtx (begun s c) (cmdIndex c)) (ctxBytes s (cmdIndex c)) = false) :
    exec (.cxPark c) s = .next (swept c
      (beginPark (fillCtx (begun s c) (cmdIndex c)) (cmdIndex c) (refOf s c) (ctxBytes s (cmdIndex c)))) := by
  refine (next_startCx_of_runs runs ready _).trans ?_
  simp only [readCtx_begun good up, auxState_fillCtx, (sameSight_begun s c).auxState, isOpen, lower, Bool.false_eq_true,
    if_false, beginPark]

end

/-! ## `CX_REOPEN` (R30, R34) -/

section
variable (runs : Runs s 0x04 c)
include runs

theorem exec_cxReopen_of_open (isOpen : auxState s (cmdIndex c) = 1) :
    exec (.cxReopen c) s = .next (swept c (finish (fillCtx (begun s c) (cmdIndex c)) (refOf s c) stOk)) := by
  refine (next_startCx_of_runs runs ready _).trans ?_
  simp only [readCtx_begun good up, auxState_fillCtx, (sameSight_begun s c).auxState, isOpen]

/-- The reopen of a context begins: its state, the operation, and the moves of its pages. -/
def beginReopen (s : State) (i : Nat) (r : CmdRef) (d : Bytes) : State :=
  let v := setCtxState (endCtxOp s i stAborted) i 4
  queueReopens (setCtxOp v i (some ⟨.reopen, [r], 0, none⟩)) i (reopenPages v i d)

theorem exec_cxReopen_of_parked (parked : auxState s (cmdIndex c) = 3)
    (room : let u := fillCtx (begun s c) (cmdIndex c)
      reopenSlots u (cmdIndex c) (ctxBytes s (cmdIndex c)) ≤
        quota u (ctxClass s (cmdIndex c)) 0 - usage u (ctxClass s (cmdIndex c)) 0) :
    exec (.cxReopen c) s = .next (swept c
      (beginReopen (fillCtx (begun s c) (cmdIndex c)) (cmdIndex c) (refOf s c) (ctxBytes s (cmdIndex c)))) := by
  have sight := sameSight_begun s c
  refine (next_startCx_of_runs runs ready _).trans ?_
  simp only [readCtx_begun good up, auxState_fillCtx, ctxClass_fillCtx, sight.auxState, sight.ctxClass, parked,
    Nat.not_lt.mpr room, if_false, beginReopen]

end

/-! ## `CX_QUERY` (R24) -/

theorem exec_cxQuery_of_room (runs : Runs s 0x05 c) (room : c.badBuf 128 = false) :
    exec (.cxQuery c true) s = .next (swept c (finish
      (emit (fillCtx (begun s c) (cmdIndex c)) (.hostWrite c.host (ctxBytes s (cmdIndex c)))) (refOf s c) stOk)) := by
  refine (next_startCx_of_runs runs ready _).trans ?_
  simp only [room, Bool.false_eq_true, if_false, readCtx_begun good up, putHost, if_true]

end

/-! ## `CX_SET_SHARDS` (R42, R43) -/

theorem writeSet_qe {s : State} {set : Nat} {ids : List Nat} : (writeSet s set ids).qe = s.qe :=
  keep_writeSet (P := fun t => t.qe = s.qe) (fun _ _ h => h) (fun t a b h => by rw [← h]; unfold writeByte; split <;> rfl) rfl

section
variable {s : State} {c : Cmd} (runs : Runs s 0x06 c) (width : bfld c.d 8 16 11 ≤ 1024)
  (room : c.badBuf (2 * bfld c.d 8 16 11) = false)
  (unused : s.cx.open_.any (fun e => e.2.shardSet == bfld c.d 8 0 12) = false)
include runs width room unused

/-- The distinct node IDs of a buffer are written, and an empty set where W is 0, whatever the buffer. -/
theorem exec_cxSetShards_of_ids {buf : Option Bytes} {ids : List Nat}
    (given : (∃ b, buf = some b ∧ ids = idsOf b (bfld c.d 8 16 11)) ∨ bfld c.d 8 16 11 = 0 ∧ ids = [])
    (small : ∀ v ∈ ids, v < 4096) (distinct : ids.eraseDups.length = ids.length) :
    exec (.cxSetShards c buf) s =
      .next (swept c (finish (writeSet (begun s c) (bfld c.d 8 0 12) ids) (refOf s c) stOk)) := by
  have large : ids.any (fun v => decide (4096 ≤ v)) = false := by
    rw [List.any_eq_false]
    exact fun v hv => by simpa using small v hv
  change Host.Outcome.next (startCmd s 0x06 c _) = _
  rw [startCmd_of_runs runs]
  by_cases empty : bfld c.d 8 16 11 = 0
  case pos =>
    have noIds : ids = idsOf [] 0 := by
      rcases given with ⟨b, -, rfl⟩ | ⟨-, rfl⟩
      · rw [empty]; rfl
      · rfl
    rw [noIds] at large distinct ⊢
    rw [empty] at room
    simp only [empty, room, large, distinct, unused, begun_cx, if_true, if_false, Nat.not_lt_zero, Bool.false_eq_true,
      ne_eq, not_true_eq_false, decide_false, Bool.or_self]
  case neg =>
    obtain ⟨b, rfl, rfl⟩ : ∃ b, buf = some b ∧ ids = idsOf b (bfld c.d 8 16 11) := given.resolve_right fun h => empty h.1
    simp only [Nat.not_lt.mpr width, empty, room, large, distinct, unused, begun_cx, withHost, if_false, Bool.false_eq_true,
      ne_eq, not_true_eq_false, decide_false, Bool.or_self]

end

/-! ## The statements -/

/-- Settles O28: a repeated open ends in the state in which it began, or with a fill of the Map cache. -/
theorem repeatedOpenIsHarmless : Obligations.RepeatedOpenIsHarmless := by
  intro c s ready runs isOpen good up same
  obtain ⟨u, acts, rfl | ⟨other, rfl⟩⟩ := exec_cxOpen_repeated ready good up runs isOpen
  · exact ends_of_finish runs acts (.refl _) (by simp)
  · have filled : { (fillCtx (begun s c) (cmdIndex c)).pm with cache := s.pm.cache } = s.pm := by
      simpa only [begun_pm] using fillCtx_pm_but_cache (s := begun s c) (i := cmdIndex c)
    exact ends_of_finish runs acts (.of_qe fillCtx_qe) (by simp [same, other, filled])

/-- Settles O29: each command, by what it does in the state in which it has begun. -/
theorem contextCommandsAct : Obligations.ContextCommandsAct := by
  intro c s i u r
  refine ⟨fun ready good up => ⟨?_, ?_, ?_, ?_, ?_, ?_, ?_, ?_, ?_⟩, ?_⟩
  · intro runs free supplied set regions
    have allowed : openAllowed s c = true := by rw [openAllowed, supplied, set, regions]; rfl
    exact exec_cxOpen_of_free ready good up runs allowed free
  · intro runs free
    exact ends_of_finish runs (exec_cxClose_of_free ready good up runs free) (.of_qe fillCtx_qe) (by simp)
  · exact fun runs used stays => exec_cxClose_of_used ready good up runs used stays
  · exact fun runs closing => exec_cxClose_of_closing ready good up runs closing
  · intro runs parked
    exact ends_of_finish runs (exec_cxPark_of_parked ready good up runs parked) (.of_qe fillCtx_qe) (by simp)
  · exact fun runs isOpen lower => exec_cxPark_of_open ready good up runs isOpen lower
  · intro runs isOpen
    exact ends_of_finish runs (exec_cxReopen_of_open ready good up runs isOpen) (.of_qe fillCtx_qe) (by simp)
  · exact fun runs parked room => exec_cxReopen_of_parked ready good up runs parked room
  · intro runs room
    exact ends_of_finish runs (exec_cxQuery_of_room ready good up runs room) (.of_qe fillCtx_qe) (by simp [emit, i])
  · intro w set writes runs width room unused
    refine ⟨fun b small distinct => ?_, fun empty => ?_⟩
    · have acts := exec_cxSetShards_of_ids runs width room unused (.inl ⟨b, rfl, rfl⟩) small distinct
      exact ends_of_finish runs acts (.of_qe writeSet_qe) (by simp [writes, w, set])
    · have acts := exec_cxSetShards_of_ids (buf := none) runs width room unused (.inr ⟨empty, rfl⟩) (by simp) rfl
      exact ends_of_finish runs acts (.of_qe writeSet_qe) (by simp [writes, set])

end Sys2Proof.Machine

/-!
PROOFS. What ends an operation on a context: the zeroing of the table, a close, a park and a reopen (R28, R33 to R35, R79, R480).
-/

namespace Sys2Proof.Machine

/-! ## The state of a context, its operation and what its commands answer -/

theorem auxState_of_mapGet {s : State} {i : Nat} {a : CtxAux} (found : mapGet s.cx.open_ i = some a) :
    auxState s i = a.state := by
  simp only [auxState, found]

theorem runsOp_of_mapGet {s : State} {i : Nat} {a : CtxAux} {o : CtxOp} (found : mapGet s.cx.open_ i = some a)
    (op : a.op = some o) : runsOp s i o.kind = true := by
  simp [runsOp, found, op]

/-- The pages of a closing context that a bank owns, where its descriptor shows them. -/
def bankedPages (s : State) (i : Nat) : List Nat :=
  if ctxGood s i = true then (s.pm.grants.filter fun g => g.ctx == i).map (·.handle) else []

section
variable {s : State} (up : awake s = true)
include up

/-! ## The zeroing of the table (R480) -/

theorem exec_cxReady_of_zeroing (zeroing : s.cx.zeroing = true) :
    exec .cxReady s = .next (setB { s with cx := { s.cx with zeroing := false } } rPwStart fPwStartCxReady true) := by
  refine (next_live_of_awake up _).trans ?_
  simp only [zeroing, if_true]

/-! ## The end of a close (R35, R79) -/

theorem exec_closeDrainEnd_of_drained {x : CtxRead} {a : CtxAux} {o : CtxOp} (found : mapGet s.cx.open_ x.ctx = some a)
    (closing : a.state = 5) (op : a.op = some o) (drained : inFlight s x.ctx = 0) :
    exec (.closeDrainEnd x) s = .next (
      if bankedPages s x.ctx = [] then closeEnded (finishAll (freeCtx (takeReads s x.reads) x.ctx) o.refs stOk 0) x.ctx
      else askRelease s (bankedPages s x.ctx)) := by
  refine (next_live_of_awake up _).trans ?_
  simp only [auxState_of_mapGet found, closing, drained, ne_eq, not_true_eq_false, or_self, if_false, ite_not, found, op,
    Option.map_some, Option.getD_some]
  rfl

/-! ## The end of a park and of a reopen (R28, R33, R34) -/

section
variable {x : CtxRead}

/-- A park or a reopen whose descriptor fails its check stops. -/
theorem exec_parkEnd_of_error {u : State} (read : readCtx (takeReads s x.reads) x.ctx 2 = .error u)
    (runs : runsOp s x.ctx .park = true) : exec (.parkEnd x) s = .next (failCtxOp u x.ctx .park) := by
  refine (next_live_of_awake up _).trans ?_
  simp only [runs, read, Bool.true_eq_false, and_false, if_false]

theorem exec_reopenEnd_of_error {u : State} (read : readCtx (takeReads s x.reads) x.ctx 2 = .error u)
    (runs : runsOp s x.ctx .reopen = true) : exec (.reopenEnd x) s = .next (failCtxOp u x.ctx .reopen) := by
  refine (next_live_of_awake up _).trans ?_
  simp only [runs, read, Bool.true_eq_false, if_false]

variable {d : Bytes} {u : State} (read : readCtx (takeReads s x.reads) x.ctx 2 = .ok (d, u))
include read

omit up in
/-- The read of the descriptor leaves the node's record of the contexts. -/
theorem cx_of_readCtx_takeReads : u.cx = s.cx := by
  rw [eq_fillCtx_of_readCtx_ok read, fillCtx_cx, takeReads_cx]

/-- A parked context has its full pages queued once more (R248). -/
theorem exec_parkEnd_of_parked (parked : auxState s x.ctx = 3) :
    exec (.parkEnd x) s = .next (queueParks u x.ctx d (parkLeft u x.ctx d)) := by
  have still : auxState u x.ctx = 3 := by rw [auxState, cx_of_readCtx_takeReads read]; exact parked
  refine (next_live_of_awake up _).trans ?_
  simp only [parked, ne_eq, not_true_eq_false, false_and, if_false, read, still, if_true]

theorem exec_parkEnd_of_parking (parking : auxState s x.ctx ≠ 3) (runs : runsOp s x.ctx .park = true)
    (settled : lifting u x.ctx = false) :
    exec (.parkEnd x) s = .next (tryEndOp u x.ctx .park 3 1 (parkLeft u x.ctx d)
      fun v => queueParks v x.ctx d (parkLeft u x.ctx d)) := by
  have still : auxState u x.ctx ≠ 3 := by rw [auxState, cx_of_readCtx_takeReads read]; exact parking
  refine (next_live_of_awake up _).trans ?_
  simp only [runs, Bool.true_eq_false, and_false, if_false, read, still, settled, Bool.false_eq_true]

theorem exec_reopenEnd_of_reopening (runs : runsOp s x.ctx .reopen = true) :
    exec (.reopenEnd x) s = .next (tryEndOp u x.ctx .reopen 1 1 (reopenPages u x.ctx d)
      fun v => queueReopens v x.ctx (reopenPages u x.ctx d)) := by
  refine (next_live_of_awake up _).trans ?_
  simp only [runs, Bool.true_eq_false, if_false, read]

end

end

/-- An operation that nothing stops and whose moves are done ends with the pages that are left: with none it is done, and else
they are queued. -/
theorem tryEndOp_of_settled {s : State} {i : Nat} {a : CtxAux} {o : CtxOp} (found : mapGet s.cx.open_ i = some a)
    (op : a.op = some o) (goesOn : o.stop = none) (settled : opMoves s i = false) (done stopped : Nat) (left : List PageAt)
    (again : State → State) :
    tryEndOp s i o.kind done stopped left again =
      if left = [] then endCtxOp (setCtxState s i done) i stOk else again s := by
  simp only [tryEndOp, found, op, ne_eq, not_true_eq_false, if_false, goesOn, settled, Bool.false_eq_true, ite_not]

/-! ## The statement -/

/-- Settles O30: each ending by its own rule above; the read of the descriptor leaves the operation as it was. -/
theorem contextOperationsEnd : Obligations.ContextOperationsEnd := by
  intro x s up i
  refine ⟨exec_cxReady_of_zeroing up,
    fun a o found closing op drained => exec_closeDrainEnd_of_drained up found closing op drained,
    fun d u read => ⟨exec_parkEnd_of_parked up read, ?_⟩,
    fun u read => ⟨exec_parkEnd_of_error up read, exec_reopenEnd_of_error up read⟩⟩
  intro a o found op goesOn settled parks reopens
  have kept : mapGet u.cx.open_ i = some a := by rw [cx_of_readCtx_takeReads read]; exact found
  have runs := runsOp_of_mapGet found op
  have ends := tryEndOp_of_settled kept op goesOn settled
  refine ⟨fun park parking lifted => ?_, fun reopen => ?_⟩
  · rw [park] at runs ends
    rw [exec_parkEnd_of_parking up read (by rwa [auxState_of_mapGet found]) runs lifted, ends]
  · rw [reopen] at runs ends
    rw [exec_reopenEnd_of_reopening up read runs, ends]

end Sys2Proof.Machine

/-!
PROOFS. How a move of the tier mover starts, commits and is abandoned (R35, R244, R245, R248, R252, R264, R284).
-/

namespace Sys2Proof.Machine

/-! ## The mover's record of a move -/

theorem mapGet_moves_updMove_same (s : State) (id : Nat) (f : Move → Move) :
    mapGet (updMove s id f).tm.moves id = (mapGet s.tm.moves id).map f := by
  rw [updMove, mapGet_adj, if_pos rfl]

/-- The refetches among the reads of a command leave the moves (R269). -/
@[simp] theorem takeReads_moves (s : State) (r : Reads) : (takeReads s r).tm.moves = s.tm.moves := by
  have counted : (r.passed.foldl refetchOk s).tm.moves = s.tm.moves :=
    keep_foldl (P := fun t => t.tm.moves = s.tm.moves)
      (fun t k (h : t.tm.moves = s.tm.moves) => (congrArg Tm.moves refetchOk_tm).trans h) rfl
  exact counted

/-- So does the read of a descriptor that succeeds. -/
theorem moves_of_readCtx_ok {s t : State} {i source : Nat} {d : Bytes} (read : readCtx s i source = .ok (d, t)) :
    t.tm.moves = s.tm.moves := by
  rw [eq_fillCtx_of_readCtx_ok read, fillCtx_tm]

/-! ## The start of a move (R244, R248, R252) -/

section
variable {s : State} {id : Nat} {n : Reads} {m : Move}

/-- The move takes its page's walker; a page that a bank owns is released first, and a die-owned one goes on to its slots. -/
theorem lockMove_of_walkStart {hs : List Nat} {owner w : Nat} {u : State} (found : mapGet s.tm.moves id = some m)
    (walk : walkStart s m.ctx (some m.layer) (.move id) = some (w, u)) :
    lockMove s id n hs owner =
      let y := updMove u id fun x => { x with walker := some w }
      if owner = 1 then askRelease (updMove y id fun x => { x with stage := .releasing }) hs else placeMove y id n m hs := by
  simp only [lockMove, found, walk]

theorem exec_moveStart_of_next (up : awake s = true) (run : moverRuns s = true) (next : isNext s id = true) :
    exec (.moveStart id n) s = .next (pokeRetires (startMove s id n)) := by
  refine (next_live_of_awake up _).trans ?_
  simp only [run, next, Bool.and_self, if_true]

variable (found : mapGet s.tm.moves id = some m) (goesOn : moveClosed s m = false) {d : Bytes} {v : State}
  {hs : List Nat} {owner valid t : Nat} (read : readCtx s m.ctx 2 = .ok (d, v))
  (page : readPage v 2 m.ctx d m.layer m.head m.n = .present hs owner valid) (reached : hs.any (accessWaits v) = false)
include found goesOn read page reached

/-- A move that is no spill, and whose target takes it now, takes its page's lock on the way there. -/
theorem startMove_of_target (kind : m.isSpill = false) (target : moveTarget v d m hs owner valid = some t)
    (buffer : t = 2 → buffersBusy (updMove v id fun x => { x with tier := t }) = false) :
    startMove s id n = lockMove (updMove v id fun x => { x with tier := t }) id n hs owner := by
  have room : ¬(t = 2 ∧ buffersBusy (updMove v id fun x => { x with tier := t }) = true) :=
    fun ⟨flash, busy⟩ => Bool.false_ne_true ((buffer flash).symm.trans busy)
  simp only [startMove, found, goesOn, read, page, reached, kind, target, room, Bool.false_eq_true, if_false]

end

/-! ## The edit of a move (R244, R245) -/

section
variable {s : State} {id : Nat} {m : Move}

theorem exec_moveCommit_of_ends {n : Reads} (up : awake s = true) (ends : moverEnds s = true) :
    exec (.moveCommit ⟨id, n⟩) s = .next (pokeRetires (commitMove (takeReads s n) id)) := by
  refine (next_live_of_awake up _).trans ?_
  simp only [ends, if_true]

/-- The edit that a move ends with installs its slots as the page's home, at the generation that their headers name. -/
def homeEdit (s : State) (d : Bytes) (m : Move) : EditRes :=
  editPage (m.dst.foldl (stampGen ((dGen d + 1) % 2 ^ 32)) s) 2 m.ctx m.layer m.n m.head
    fun p e => ⟨0, m.dst.getD p 0, 1, 0, eValid e⟩

theorem commitMove_of_done (found : mapGet s.tm.moves id = some m) (copied : m.stage = .copying ∨ m.stage = .ready)
    (slots : m.dst ≠ []) (free : moveHeld s m.ctx m.why = false) (goesOn : moveClosed s m = false)
    (alive : targetDead s m = false) (reached : m.dst.any (accessWaits s) = false) {d : Bytes} {v u : State}
    (read : readCtx s m.ctx 2 = .ok (d, v)) {hs : List Nat} {owner valid : Nat}
    (page : readPage v 2 m.ctx d m.layer m.head m.n = .present hs owner valid) (writes : failTarget v id m = none)
    (edited : homeEdit v d m = .done u) :
    commitMove s id = endMove (liftedTail (countMove u m) m) id none := by
  have due : ¬(m.stage ≠ .copying ∧ m.stage ≠ .ready ∨ m.dst = [] ∨ moveHeld s m.ctx m.why = true) := by
    simp only [slots, free, Bool.false_eq_true, or_self, or_false, not_and_or, not_not]
    exact copied
  unfold homeEdit at edited
  simp only [commitMove, found, due, if_false, goesOn, alive, reached, Bool.false_eq_true, read, page, writes, edited]

end

/-! ## Moves that are abandoned (R231, R245) -/

section
variable {s : State} (up : awake s = true) {id : Nat} {m : Move} (found : mapGet s.tm.moves id = some m)
include up found

theorem exec_moveAbandon_of_dead (dead : targetDead s m = true) :
    exec (.moveAbandon id true) s = .next (pokeRetires (faultMove s id)) := by
  refine (next_live_of_awake up _).trans ?_
  simp only [found, dead, Bool.and_self, if_true]

theorem exec_moveAbandon_of_closed (closed : moveClosed s m = true) :
    exec (.moveAbandon id false) s = .next (pokeRetires (endMove s id (some stAborted))) := by
  refine (next_live_of_awake up _).trans ?_
  simp only [found, closed, Bool.false_and, Bool.false_eq_true, if_false, if_true]

theorem exec_moveAbandon_of_gone (goesOn : moveClosed s m = false) (gone : reasonGone s m = true) :
    exec (.moveAbandon id false) s = .next (pokeRetires (stopMove s id)) := by
  refine (next_live_of_awake up _).trans ?_
  simp only [found, goesOn, gone, Bool.false_and, Bool.false_eq_true, if_false, if_true]

end

/-! ## The statement -/

/-- Settles O41: the start, the edit and the ends of a move, each from the move as the mover records it. -/
theorem movesRun : Obligations.MovesRun := by
  intro id n s m up found r
  refine ⟨?_, ?_, exec_moveAbandon_of_dead up found, exec_moveAbandon_of_closed up found, exec_moveAbandon_of_gone up found⟩
  · intro d v hs owner valid t w u run next goesOn read page reached kind target buffer walk y
    have headed : mapGet (updMove v id fun x => { x with tier := t }).tm.moves id = some { m with tier := t } := by
      rw [mapGet_moves_updMove_same, moves_of_readCtx_ok read, found, Option.map_some]
    have started := startMove_of_target (n := n) found goesOn read page reached kind target buffer
    rw [lockMove_of_walkStart headed walk] at started
    rw [exec_moveStart_of_next up run next, started]
    refine ⟨fun die => ?_, fun bank => ?_⟩
    · rw [die]; rfl
    · rw [bank]; rfl
  · intro d v hs owner valid u ends copied slots free goesOn alive reached read page writes edited
    have same : mapGet r.tm.moves id = some m := by rw [takeReads_moves]; exact found
    rw [exec_moveCommit_of_ends up ends,
      commitMove_of_done same copied slots free goesOn alive reached read page writes edited]

end Sys2Proof.Machine

/-!
PROOFS. Why spills start, what the spill of one page does, and how compaction chooses the pages of an extent (R47, R48, R249, R250,
R254).
-/

namespace Sys2Proof.Machine

/-! ## The marks that queue spills (R47, R48, R249) -/

section
variable {s : State} (up : awake s = true)
include up

theorem exec_quotaSpill_of_awake (cls : Nat) :
    exec (.quotaSpill cls) s = .next (queueSpills s (gddrPages s fun a => a.cls == cls) .quotaCut fun out =>
      decide (quota s cls 0 ≤ usage s cls 0 - out)) :=
  next_live_of_awake up _

theorem exec_spillMarkSpill_of_awake (cls : Nat) :
    exec (.spillMarkSpill cls) s = .next (queueSpills s (gddrPages s fun a => a.cls == cls) .mark fun out =>
      decide (fld (regGet s (rCxSpillMark cls)) 0 32 ≤ usage s cls 0 - out)) :=
  next_live_of_awake up _

theorem exec_freeMarkSpill_of_awake (narrow : Bool) :
    exec (.freeMarkSpill narrow) s = .next (queueSpills s
      ((gddrPages s fun _ => true).filter fun e => hTier (e.2.handles.headD 0) == if narrow then 1 else 0) .mark fun out =>
        decide ((if narrow then narrowFree s else wideFree s) + out < getF s rTmControl fTmControlFreeMark)) :=
  next_live_of_awake up _

end

/-! ## The spill of one page (R250) -/

/-- What the spill of a page does once its room has been looked for. -/
def spillWith (ctx layer n head id : Nat) : Room × State → State
  | (.ready t, s) => updMove s id fun x => { x with tier := t }
  | (.waits, s) => s
  | (.drop, s) =>
    match dropByMover s ctx layer n head with
    | (.done, s) => endMove s id none
    | (.waits, s) => s
    | (.failed, s) => checkMove s id
  | (.stop, s) => stopSpill 4 s id

section
variable {s : State} (up : awake s = true) {ctx layer n head id : Nat} {k : Reads} {hs : List Nat} {owner valid : Nat} {m : Move}
  (used : auxState s ctx ≠ 0) (stays : auxState s ctx ≠ 5) (good : ctxGood s ctx = true)
  (page : readPage (takeReads s k) 2 ctx (ctxBytes s ctx) layer head n = .present hs owner valid)
  (found : moveOf (takeReads s k) ctx layer n head = some (id, m)) (waits : m.runs = false) (kind : m.isSpill = true)
  (free : opLocks (takeReads s k) ctx layer n head = false)
include up used stays good page found waits kind free

/-- The queued spill of a page stops where nothing calls for it any more, and else goes by the room there is for it. -/
theorem exec_spill_of_queued :
    exec (.spill ctx layer n ⟨head, k⟩) s = .next (
      if spillNeeded (takeReads s k) m hs = false then stopMove (takeReads s k) id
      else spillWith ctx layer n head id (spillRoom (takeReads s k) id m (pageTier hs))) := by
  refine (next_live_of_awake up _).trans ?_
  simp only [used, stays, good, Bool.not_true, Bool.false_eq_true, or_self, if_false, page, found, waits, kind, free,
    Bool.or_self, Bool.not_eq_true']
  rfl

end

/-! ## Compaction (R254) -/

/-- The written extents of a drive with a free position, those with the fewest live positions first. -/
def sparseExtents (s : State) (drive : Nat) : List (Nat × List Nat) :=
  sortBy (fun a b => decide (a.2.length ≤ b.2.length))
    (s.tm.extents.filter fun e => decide (e.1 / 2 ^ 29 = drive ∧ e.2.length < extentPositions))

/-- The page of a live position of an extent that is being emptied is queued to move. -/
def compactPosition (drive x : Nat) (s : State) (p : Nat) : State :=
  match flashPage s (mkFlash drive p (x % 2 ^ 29)) with
  | some (c, l, n, kv) =>
    if mayChoose s [mkFlash drive p (x % 2 ^ 29)] = true then queueMove s c l n kv 2 .compact none none else s
  | none => s

theorem exec_compact_of_one {s : State} (up : awake s = true) {drive x : Nat} {ps : List Nat} (run : moverRuns s = true)
    (wanted : extentsFreeOf s drive < compactMark s)
    (chosen : (sparseExtents s drive).take (compactMark s - extentsFreeOf s drive) = [(x, ps)])
    (fresh : s.tm.compacting.contains x = false) :
    exec (.compact drive) s = .next (ps.foldl (compactPosition drive x)
      { s with tm := { s.tm with compacting := s.tm.compacting ++ [x] } }) := by
  unfold sparseExtents at chosen
  refine (next_live_of_awake up _).trans ?_
  simp only [run, Bool.not_true, Bool.false_or, decide_eq_true_eq, Nat.not_le.mpr wanted, if_false, chosen, List.foldl_cons,
    List.foldl_nil, fresh, Bool.false_eq_true]
  rfl

/-! ## The statement -/

/-- Settles O42: each mark by the pages that it queues, the spill of a page by the room for it, and compaction by the extent that
it chooses. -/
theorem spillsStart : Obligations.SpillsStart := by
  intro cls s up
  refine ⟨exec_quotaSpill_of_awake up cls, exec_spillMarkSpill_of_awake up cls, exec_freeMarkSpill_of_awake up false,
    exec_freeMarkSpill_of_awake up true, ?_, fun drive x ps run wanted chosen fresh =>
      exec_compact_of_one up run wanted chosen fresh⟩
  intro ctx layer n head k hs owner valid id m u used stays good r page found waits kind free
  have acts := exec_spill_of_queued up used stays good page found waits kind free
  refine ⟨fun idle => by rw [acts, if_pos idle], fun needed => ?_⟩
  rw [if_neg (by rw [needed]; exact Bool.false_ne_true.symm)] at acts
  refine ⟨fun t room => ?_, fun room => ?_, fun v room => ⟨fun dropped => ?_, fun dropped => ?_, fun dropped => ?_⟩,
    fun room => ?_⟩
  · rw [acts, room]; rfl
  · rw [acts, room]; rfl
  · rw [acts, room, spillWith, dropped]
  · rw [acts, room, spillWith, dropped]
  · rw [acts, room, spillWith, dropped]
  · rw [acts, room]; rfl

end Sys2Proof.Machine

/-!
PROOFS. How what waits on the page maps goes on: the work that a free walker slot is given to, the edit that is tried again, and
the grant and the release of a page by its bank (R72, R75, R78, R79, R182).
-/

namespace Sys2Proof.Machine

/-! ## A free walker slot (R72) -/

/-- The work at the front of the wait for walker slots waits no more, and what it waited is counted. -/
def leftWalkWait (s : State) (rest : List (WalkOwner × Nat)) (t : Nat) : State :=
  bumpR { s with pm := { s.pm with walkWait := rest } } rPmWaitWalker (elapsed s t)

section
variable {s : State} (up : awake s = true) {o : WalkOwner} {t : Nat} {rest : List (WalkOwner × Nat)}
  (front : s.pm.walkWait = (o, t) :: rest) (room : s.pm.walkers.length < walkerSlots)
include up front room

theorem exec_walkerSlotGrant_of_request {id : Nat} (owner : o = .request id) :
    exec .walkerSlotGrant s = .next (startWalk (leftWalkWait s rest t) id) := by
  refine (next_live_of_awake up _).trans ?_
  simp only [front, owner, Nat.not_le.mpr room, if_false, leftWalkWait]

theorem exec_walkerSlotGrant_of_move {id : Nat} (owner : o = .move id) (run : moverRuns (leftWalkWait s rest t) = true)
    (next : isNext (leftWalkWait s rest t) id = true) :
    exec .walkerSlotGrant s = .next (startMove (leftWalkWait s rest t) id .clean) := by
  unfold leftWalkWait at run next
  refine (next_live_of_awake up _).trans ?_
  simp only [front, owner, Nat.not_le.mpr room, if_false, run, next, Bool.and_self, if_true, leftWalkWait]

theorem exec_walkerSlotGrant_of_command {h : Nat} (owner : o = .command h) :
    exec .walkerSlotGrant s = .next (pokeRetires (leftWalkWait s rest t)) := by
  refine (next_live_of_awake up _).trans ?_
  simp only [front, owner, Nat.not_le.mpr room, if_false, leftWalkWait]

theorem exec_walkerSlotGrant_of_op {id w : Nat} {x : PageOp} {v : State} (owner : o = .op id)
    (found : mapGet s.ae.ops id = some x)
    (walk : walkStart (leftWalkWait s rest t) x.ctx (some x.layer) (.op id) = some (w, v)) :
    exec .walkerSlotGrant s = .next (runOp (updOp v id fun x => { x with walker := some w }) id) := by
  have same : mapGet (leftWalkWait s rest t).ae.ops id = some x := found
  unfold leftWalkWait at same walk
  refine (next_live_of_awake up _).trans ?_
  simp only [front, owner, Nat.not_le.mpr room, if_false, same, walk]

end

/-! ## A waiting edit (R75) -/

/-- The edit of an owner is tried again: a drop goes on as the spill that asked for it, when the mover may start it now. -/
def tryEdit (s : State) : EditOwner → State
  | .move id => commitMove s id
  | .op id => runOp s id
  | .flip h => releasePage s h
  | .drop c l n k => match moveOf s c l n k with
    | some (id, m) => if m.isSpill && moverRuns s && isNext s id then startMove s id .clean else s
    | none => s
  | .install _ => s
  | .requant c l n k => flipAgain s c l n k

theorem tryEdit_drop (s : State) (c l n k : Nat) :
    tryEdit s (.drop c l n k) = match moveOf s c l n k with
      | some (id, m) => if m.isSpill = true ∧ moverRuns s = true ∧ isNext s id = true then startMove s id .clean else s
      | none => s := by
  rw [tryEdit]
  cases moveOf s c l n k with
  | none => rfl
  | some e => exact if_congr (by simp only [Bool.and_eq_true, and_assoc]) rfl rfl

/-- The state once the edit at the front of the wait has been tried again, and with it the drops that wait. -/
def triedFront (s : State) (rest : List (EditOwner × Nat)) (o : EditOwner) : State :=
  pokeRetires (tryEdit { s with pm := { s.pm with editWait := rest } } o)

/-- An edit that waits no more after it was tried again has gone on, and what it waited is counted. -/
theorem exec_editWaitEnd_of_front {s : State} (up : awake s = true) {o : EditOwner} {t : Nat} {rest : List (EditOwner × Nat)}
    (front : s.pm.editWait = (o, t) :: rest)
    (gone : (triedFront s rest o).pm.editWait.any (fun w => w.1 == o) = false) :
    exec .editWaitEnd s = .next (bumpR (triedFront s rest o) rPmWaitEdit (elapsed s t)) := by
  have answer : exec .editWaitEnd s = .next (if (triedFront s rest o).pm.editWait.any (fun w => w.1 == o) = true then s
      else bumpR (triedFront s rest o) rPmWaitEdit (elapsed s t)) := by
    refine (next_live_of_awake up _).trans ?_
    rw [front]
    rfl
  rw [answer, gone, if_neg Bool.false_ne_true]

/-! ## The grant of a page and its release (R78, R79, R182) -/

section
variable {s : State} (up : awake s = true) {h : Nat} {g : Grant} (found : grantOf s h = some g)
include up found

theorem exec_bankGrant_of_waiting (waits : g.granted = false) (kept : g.releasing = false) :
    exec (.bankGrant h) s = .next (if grantMax ≤ (grantsOf s (slotBbd h)).length then releaseOldest s (slotBbd h)
      else pokeOps (updGrant s h fun x => { x with granted := true, lastWrite := s.time })) := by
  refine (next_live_of_awake up _).trans ?_
  simp only [found, waits, kept, Bool.false_eq_true, or_self, if_false]

theorem exec_bankReleaseAck_of_unlocked (releasing : g.releasing = true) (open_ : g.acked = false)
    (unlocked : g.parts.any (slotLocked s) = false) :
    exec (.bankReleaseAck h) s =
      .next (pokeRetires (releasePage (updGrant s h fun x => { x with acked := true }) h)) := by
  refine (next_live_of_awake up _).trans ?_
  simp only [found, releasing, open_, unlocked, Bool.not_true, Bool.or_self, Bool.false_eq_true, if_false]

end

/-! ## The statement -/

/-- Settles O31: each kind of work that waits for a walker slot, the edit tried again by its owner, and a grant by how far it is. -/
theorem mapWaitsEnd : Obligations.MapWaitsEnd := by
  intro s up
  refine ⟨fun o t rest front room => ⟨?_, ?_, ?_, ?_⟩, fun o t rest front => ?_,
    fun h g found => ⟨exec_bankGrant_of_waiting up found, exec_bankReleaseAck_of_unlocked up found⟩⟩
  · exact fun id owner => exec_walkerSlotGrant_of_request up front room owner
  · exact fun id owner run next => exec_walkerSlotGrant_of_move up front room owner run next
  · exact fun h owner => exec_walkerSlotGrant_of_command up front room owner
  · exact fun id x w v owner found walk => exec_walkerSlotGrant_of_op up front room owner found walk
  · intro v u gone
    have tried : u = triedFront s rest o := by
      cases o with
      | drop c l n k => exact congrArg pokeRetires (tryEdit_drop v c l n k).symm
      | _ => rfl
    rw [tried] at gone ⊢
    exact exec_editWaitEnd_of_front up front gone

end Sys2Proof.Machine

/-!
PROOFS. What a proofreading pass does at its rate and with each unit of the page maps and the context table (R278, R280), and what
the retirement of a slot and of a channel does once its command has begun (R72, R81, R184, R283 to R286).
-/

namespace Sys2Proof.Machine

/-! ## The next unit of a pass (R277, R278, R280) -/

/-- A unit that was read is counted in its pass. -/
def countUnit (q : Pass) (read : Bool) : Pass := if read = true then { q with used := q.used + 1 } else q

@[simp] theorem countUnit_slot (q : Pass) (read : Bool) : (countUnit q read).slot = q.slot := by cases read <;> rfl

/-- What is left of the range does not depend on the count. -/
@[simp] theorem passOver_countUnit (s : State) (q : Pass) (read : Bool) : passOver s (countUnit q read) = passOver s q := by
  cases read <;> rfl

/-- The state once a pass has gone on: a unit read is counted, and between slots the deferred frees that it held are made
(R279). -/
def passGone (u : State) (q : Pass) (read : Bool) : State :=
  let v := setPass (if read = true then bumpR u rPfPassLines 1 else u) (countUnit q read)
  if (countUnit q read).slot.isNone = true then freeDeferred v else v

theorem exec_passUnitRead_of_due {s : State} {n : Reads} {p : Pass} {u : State} {q : Pass} {read : Bool} (up : awake s = true)
    (found : s.pf.pass = some p) (present : p.grid = s.time / 1024) (rate : p.used < getF s rPfControl fPfControlPassRate)
    (out : s.power.retain = .out) (unit : passUnit (takeReads s n) p = (u, q, read)) :
    exec (.passUnitRead n) s = .next (
      let w := passGone u q read
      if passOver w (countUnit q read) = true then endPass w else w) := by
  refine (next_live_of_awake up _).trans ?_
  simp only [found, present, if_true, Nat.not_le.mpr rate, out, ne_eq, not_true_eq_false, or_self, if_false, unit, passGone,
    countUnit_slot, passOver_countUnit]
  rfl

section
variable {s : State} {p : Pass}

section
variable (kind : p.kind = 1) {b : Nat}
  (next : ((mapBlocks s).find? fun b => decide (p.cursor < b + 4096 ∧ b < p.stop)) = some b)
include kind next

theorem passUnit_of_entry (sound : passEntry s (max p.cursor b) = none) :
    passUnit s p = (s, { p with cursor := max p.cursor b + 16 }, true) := by
  simp only [passUnit, kind, if_true, next, sound]

theorem passUnit_of_failing_entry {f : Failure} (failing : passEntry s (max p.cursor b) = some f) :
    passUnit s p =
      let failed := passFail (entryFailed s f) { p with cursor := max p.cursor b + 16 } f
      (failed.1, failed.2, true) := by
  simp only [passUnit, kind, if_true, next, failing]

end

section
variable (kind : p.kind = 2) {i : Nat} {a : CtxAux}
  (next : (s.cx.open_.find? fun e => decide (p.cursor ≤ e.1 ∧ e.1 < p.stop)) = some (i, a))
include kind next

theorem passUnit_of_descriptor (sound : passDesc s i = none) : passUnit s p = (s, { p with cursor := i + 1 }, true) := by
  simp only [passUnit, kind, OfNat.ofNat_ne_one, if_false, if_true, next, sound]

theorem passUnit_of_failing_descriptor {f : Failure} (failing : passDesc s i = some f) :
    passUnit s p =
      let failed := passFail (logFailure s f) { p with cursor := i + 1 } f
      (failed.1, failed.2, true) := by
  simp only [passUnit, kind, OfNat.ofNat_ne_one, if_false, if_true, next, failing]

end

end

/-! ## What a retirement finds in the state in which it has begun -/

section
variable {c : Cmd} {t : State}

@[simp] theorem swept_tn : (swept c t).tn = t.tn := sweepUnknown_tn
@[simp] theorem begun_tn (s : State) : (begun s c).tn = s.tn := takeReads_tn

end

/-- Of the tier mover's state, the reads of a command write nothing but the list of poisoned lines (R227, R269). -/
theorem takeReads_tm_but_poison (s : State) (r : Reads) : { (takeReads s r).tm with poison := s.tm.poison } = s.tm := by
  have counted : (r.passed.foldl refetchOk s).tm = s.tm :=
    keep_foldl (P := fun t => t.tm = s.tm) (fun _ _ h => refetchOk_tm.trans h) rfl
  exact congrArg (fun t : Tm => { t with poison := s.tm.poison }) counted

@[simp] theorem begun_retired (s : State) (c : Cmd) : (begun s c).tm.retired = s.tm.retired :=
  (congrArg Tm.retired (takeReads_tm_but_poison (beginCmd s c).2 c.reads) :)

@[simp] theorem pageSlot_begun (s : State) (c : Cmd) (h : Nat) : pageSlot (begun s c) h = pageSlot s h := by
  rw [pageSlot, begun_pm, pageSlot]

/-- A command that finishes in the state in which it has begun leaves the records of the Tense block and the memory. -/
theorem ends_of_finish_begun {s : State} {op : Nat} {c : Cmd} (runs : Runs s op c) {i : Instr} {st : Nat}
    (acts : exec i s = .next (swept c (finish (begun s c) (refOf s c) st))) :
    Ends i s c st 0 0 0 0 fun t => t.tn = s.tn ∧ t.mem = s.mem :=
  ends_of_finish runs acts (.refl _) (by simp)

/-! ## `RETIRE_SLOT` (R81, R283 to R285) -/

/-- What a retirement does by what is withheld already and by the slot: one that may hold a page is read by its handle first. -/
def retireReady (s : State) (r : CmdRef) (h line mode : Nat) : State :=
  match withheldStatus s h line with
  | some st => finish s r st
  | none =>
    match pageSlot s h with
    | some ctx => retireNamed s r h line mode ctx
    | none => retirePages (withhold s h line) r none false h line mode

section
variable {s : State} {c : Cmd} (runs : Runs s 0x40 c)
include runs

section
variable (holds : pageSlot s (bfld c.d 8 0 40) ≠ none)
include holds

/-- A slot that may hold a page is read by its handle, which takes a walker slot (R72). -/
theorem exec_retireSlot_of_full (full : walkerSlots ≤ s.pm.walkers.length) :
    exec (.retireSlot c) s = .next (waitWalker s (.command (bfld c.d 8 0 40))) := by
  refine (next_live_of_awake runs.isAwake _).trans ?_
  simp only [runs.turn, Option.isSome_iff_ne_none.mpr holds, full, decide_true, Bool.and_self, if_true]

/-- The read of its header waits for a lock (R184). -/
theorem exec_retireSlot_of_locked (room : s.pm.walkers.length < walkerSlots) (locked : slotLocked s (bfld c.d 8 0 40) = true) :
    exec (.retireSlot c) s = .next (waitLocks s (.command (bfld c.d 8 0 40)) [bfld c.d 8 0 40]) := by
  refine (next_live_of_awake runs.isAwake _).trans ?_
  simp only [runs.turn, Option.isSome_iff_ne_none.mpr holds, Nat.not_le.mpr room, locked, decide_false, Bool.and_false,
    Bool.false_eq_true, Bool.and_self, if_false, if_true]

end

variable (free : pageSlot s (bfld c.d 8 0 40) = none ∨
    s.pm.walkers.length < walkerSlots ∧ slotLocked s (bfld c.d 8 0 40) = false)
include free

omit runs in
/-- A slot that holds no page, or one with a walker free and no lock, waits for nothing. -/
theorem retireSlot_waits_not :
    ¬(turnOf s c && (pageSlot s (bfld c.d 8 0 40)).isSome && decide (walkerSlots ≤ s.pm.walkers.length)) = true ∧
    ¬(turnOf s c && (pageSlot s (bfld c.d 8 0 40)).isSome && slotLocked s (bfld c.d 8 0 40)) = true := by
  rcases free with empty | ⟨room, unlocked⟩
  · simp [empty]
  · simp [room, unlocked]

variable (line : num c.d 0x10 1 ≤ 131) (mode : bfld c.d 0x10 8 2 ≠ 3)
  (formed : handleBad (begun s c) (bfld c.d 8 0 40) = false)
include line mode formed

/-- Then a command whose operands are well formed acts in the state in which it has begun. -/
theorem exec_retireSlot_of_ready :
    exec (.retireSlot c) s = .next (swept c
      (retireReady (begun s c) (refOf s c) (bfld c.d 8 0 40) (num c.d 0x10 1) (bfld c.d 0x10 8 2))) := by
  obtain ⟨walks, reads⟩ := retireSlot_waits_not free
  refine (next_live_of_awake runs.isAwake _).trans ?_
  simp only [walks, reads, if_false, startCmd_of_runs runs, Nat.not_lt.mpr line, mode, formed, Bool.false_eq_true, or_self]
  rfl

theorem exec_retireSlot_of_withheld {st : Nat}
    (status : withheldStatus (begun s c) (bfld c.d 8 0 40) (num c.d 0x10 1) = some st) :
    exec (.retireSlot c) s = .next (swept c (finish (begun s c) (refOf s c) st)) := by
  rw [exec_retireSlot_of_ready runs free line mode formed, retireReady, status]

variable (fresh : withheldStatus (begun s c) (bfld c.d 8 0 40) (num c.d 0x10 1) = none)
include fresh

theorem exec_retireSlot_of_page {ctx : Nat} (page : pageSlot s (bfld c.d 8 0 40) = some ctx) :
    exec (.retireSlot c) s = .next (swept c
      (retireNamed (begun s c) (refOf s c) (bfld c.d 8 0 40) (num c.d 0x10 1) (bfld c.d 0x10 8 2) ctx)) := by
  simp only [exec_retireSlot_of_ready runs free line mode formed, retireReady, fresh, pageSlot_begun, page]

theorem exec_retireSlot_of_empty (empty : pageSlot s (bfld c.d 8 0 40) = none) :
    exec (.retireSlot c) s = .next (swept c
      (retirePages (withhold (begun s c) (bfld c.d 8 0 40) (num c.d 0x10 1)) (refOf s c) none false (bfld c.d 8 0 40)
        (num c.d 0x10 1) (bfld c.d 0x10 8 2))) := by
  simp only [exec_retireSlot_of_ready runs free line mode formed, retireReady, fresh, pageSlot_begun, empty]

end

/-- In GDDR7 the granule of the line is recorded, and each reserved slot that is short for it sets `RESERVE_OUT` (R283, R285). -/
theorem withhold_of_gddr {s : State} {h : Nat} (tier : hTier h ≤ 1) (line : Nat) :
    withhold s h line =
      let t := commit { s with tn := { s.tn with granules := s.tn.granules ++ [granuleOf s h line] } } 6
      (List.range (reserveShort t (granuleOf s h line) - reserveShort s (granuleOf s h line))).foldl
        (fun u _ => raise1 u 16 fPfEventReserveOut) t := by
  rw [withhold, if_pos tier]

/-- In a lower tier the slot is listed, or in flash its extent (R285). -/
theorem withhold_of_lower {s : State} {h : Nat} (tier : 2 ≤ hTier h) (line : Nat) :
    withhold s h line = { s with tm := { s.tm with
      retired := s.tm.retired ++ [if hTier h = 4 then mkFlash (fDrive h) 0 (fExtent h) else h] } } := by
  rw [withhold, if_neg (Nat.not_le.mpr tier)]

/-! ## `RETIRE_CHANNEL` (R286) -/

section
variable {s : State} {c : Cmd} (runs : Runs s 0x41 c)
include runs

theorem exec_retireChannel_of_recorded (recorded : s.tn.channels.contains (bfld c.d 8 0 7) = true) :
    exec (.retireChannel c) s = .next (swept c (finish (begun s c) (refOf s c) stOk)) := by
  refine (congrArg Host.Outcome.next (startCmd_of_runs runs _)).trans ?_
  simp only [begun_tn, recorded, if_true]

variable (fresh : s.tn.channels.contains (bfld c.d 8 0 7) = false)
include fresh

theorem exec_retireChannel_of_full (full : 2 ≤ s.tn.channels.length) :
    exec (.retireChannel c) s = .next (swept c (finish (begun s c) (refOf s c) stQuota)) := by
  refine (congrArg Host.Outcome.next (startCmd_of_runs runs _)).trans ?_
  simp only [begun_tn, fresh, Bool.false_eq_true, if_false, full, if_true]

theorem exec_retireChannel_of_room (room : s.tn.channels.length < 2) :
    exec (.retireChannel c) s = .next (swept c (finish (showPending (commit { begun s c with
      tn := { s.tn with channels := s.tn.channels ++ [bfld c.d 8 0 7] } } 6)) (refOf s c) stOk)) := by
  refine (congrArg Host.Outcome.next (startCmd_of_runs runs _)).trans ?_
  simp only [begun_tn, fresh, Bool.false_eq_true, if_false, Nat.not_le.mpr room]

end

/-! ## The statement -/

/-- Settles O44: a pass by its next unit, a slot by what stands in its way and where it lies, a channel by what is recorded. -/
theorem passesReadAndRetirementsAct : Obligations.PassesReadAndRetirementsAct := by
  intro n s
  refine ⟨?_, ?_, ?_, ?_, ?_⟩
  · intro p u q read up found present rate out unit
    exact exec_passUnitRead_of_due up found present rate out unit
  · exact fun p b kind next => ⟨passUnit_of_entry kind next,
      fun f failing => congrArg Prod.fst (passUnit_of_failing_entry kind next failing)⟩
  · exact fun p i a kind next => ⟨passUnit_of_descriptor kind next,
      fun f failing => congrArg Prod.fst (passUnit_of_failing_descriptor kind next failing)⟩
  · intro c runs h line mode u
    refine ⟨exec_retireSlot_of_full runs, exec_retireSlot_of_locked runs,
      fun free inside known formed => ⟨?_, fun fresh => ⟨?_, ?_, ?_⟩⟩⟩
    · exact fun st status =>
        ends_of_finish_begun runs (exec_retireSlot_of_withheld runs free inside known formed status)
    · exact fun ctx page => exec_retireSlot_of_page runs free inside known formed fresh page
    · intro empty tier
      rw [exec_retireSlot_of_empty runs free inside known formed fresh empty, withhold_of_gddr tier, begun_tn]
    · intro empty tier
      rw [exec_retireSlot_of_empty runs free inside known formed fresh empty, withhold_of_lower tier, begun_retired]
  · intro c runs ch
    refine ⟨fun recorded => ?_, fun fresh full => ?_, exec_retireChannel_of_room runs⟩
    · exact ends_of_finish runs (exec_retireChannel_of_recorded runs recorded) (.refl _) (by simp)
    · exact ends_of_finish runs (exec_retireChannel_of_full runs fresh full) (.refl _) (by simp)

end Sys2Proof.Machine

/-!
PROOFS. How the attention engine takes a message of each of its rows: by what the message asks for once it is whole, draft rows by
the request that they match and by the room among those held, a clause by the child that it settles (R118, R126, R131, R135, R143,
R144).
-/

namespace Sys2Proof.Machine

/-! ## A message of a row (R118, R119) -/

section
variable {s : State} (up : awake s = true) {m : Bytes}
include up

theorem withMsg_of_short (short : m.length < 32) (op : Nat) (f : State → State) :
    withMsg s op m f = raise1 (takeMsg s m) 4 fAeEventShortMessage := by
  rw [withMsg, live_of_awake up, if_pos short]

/-- Every row discards a short message alike. -/
theorem exec_message_of_short (short : m.length < 32) (n : Reads) (src : Nat) :
    ∀ i ∈ [Instr.attend m n, .draftRows ⟨m, n⟩, .clause src m, .done src m, .append m n, .refill m n],
      exec i s = .next (raise1 (takeMsg s m) 4 fAeEventShortMessage) := by
  simp only [List.forall_mem_cons]
  have discards (op : Nat) (f : State → State) :
      (.next (withMsg s op m f) : Host.Outcome State Fault Refusal) = .next (raise1 (takeMsg s m) 4 fAeEventShortMessage) :=
    congrArg _ (withMsg_of_short up short op f)
  exact ⟨discards opAttend _, discards opDraft _, discards opClause _, discards opDone _, discards opAppend _,
    discards opRefill _, List.forall_mem_nil _⟩

variable (whole : 32 ≤ m.length) (known : knownOp m = true)
include whole known

theorem withMsg_of_op {op : Nat} (own : msgOp m = op) (f : State → State) : withMsg s op m f = f s := by
  rw [withMsg, live_of_awake up, if_neg (Nat.not_lt.mpr whole), known, Bool.not_true, if_neg Bool.false_ne_true,
    if_neg (not_not_intro own)]

/-- The answer of a row to a whole message of its own. -/
theorem next_withMsg_of_op {op : Nat} (own : msgOp m = op) (f : State → State) :
    (.next (withMsg s op m f) : Host.Outcome State Fault Refusal) = .next (f s) :=
  congrArg _ (withMsg_of_op up whole known own f)

theorem exec_attend_of_op (own : msgOp m = opAttend) (n : Reads) :
    exec (.attend m n) s = .next (takeAttend (takeReads s n) m (receivedAt s m)) :=
  next_withMsg_of_op up whole known own _

theorem exec_append_of_op (own : msgOp m = opAppend) (n : Reads) :
    exec (.append m n) s = .next (takeOp (takeReads s n) m (receivedAt s m)) :=
  next_withMsg_of_op up whole known own _

theorem exec_refill_of_op (own : msgOp m = opRefill) (n : Reads) :
    exec (.refill m n) s = .next (takeOp (takeReads s n) m (receivedAt s m)) :=
  next_withMsg_of_op up whole known own _

theorem exec_done_of_op (own : msgOp m = opDone) (src : Nat) :
    exec (.done src m) s = .next (raise1 (takeMsg s m) 4 fAeEventLateReply) :=
  next_withMsg_of_op up whole known own _

/-- Draft rows that nothing discards first are placed once the descriptor of their context has been read (R126). -/
theorem exec_draftRows_of_read {n : Reads} {d : Bytes} {v : State} (own : msgOp m = opDraft) (header : headerBad m = false)
    (body : bodyShort m = false) (out : s.power.retain = .out) (epoch : epochOk s (msgEpoch m) = true)
    (fence : jobFenced s (msgJob m) (msgEpoch m) = false) (table : tableReady s = true)
    (read : readCtx (takeReads (takeMsg s m) n) (msgCtx m) 0 = .ok (d, v)) :
    exec (.draftRows ⟨m, n⟩) s = .next (placeDraft v m d) := by
  refine (next_withMsg_of_op up whole known own _).trans ?_
  simp only [header, body, out, epoch, fence, table, read, bne_self_eq_false, Bool.not_true, Bool.or_self, Bool.false_eq_true,
    if_false]

end

/-! ## Draft rows find their request, are held, or are discarded (R126) -/

section
variable {s : State} {m d : Bytes}

theorem placeDraft_of_full (full : 256 ≤ s.ae.drafts.length) : placeDraft s m d = discardDraft s :=
  if_pos (.inr (.inr (.inr (.inl full))))

variable (used : auxState s (msgCtx m) ≠ 0) (stays : auxState s (msgCtx m) ≠ 5) (first : dIndex d = 0)
  (new : s.ae.drafts.any (fun x => sameRequest x.msg m) = false) (room : s.ae.drafts.length < 256)
include used stays first new room

theorem placeDraft_of_waiting {id : Nat} {r : Req}
    (waits : (s.ae.reqs.find? fun e => e.2.draft == .waiting && sameRequest e.2.msg m) = some (id, r)) :
    placeDraft s m d = updReq s id fun x => { x with draft := checkDraft r.msg (dWidth d) m } := by
  simp only [placeDraft, used, stays, first, new, Nat.not_le.mpr room, ne_eq, not_true_eq_false, Bool.false_eq_true, or_self,
    if_false, waits]

theorem placeDraft_of_early (early : (s.ae.reqs.find? fun e => e.2.draft == .waiting && sameRequest e.2.msg m) = none) :
    placeDraft s m d = { s with ae := { s.ae with drafts := s.ae.drafts ++ [⟨m, s.time⟩] } } := by
  simp only [placeDraft, used, stays, first, new, Nat.not_le.mpr room, ne_eq, not_true_eq_false, Bool.false_eq_true, or_self,
    if_false, early]

end

/-! ## A clause and the child that it settles (R119, R135, R144) -/

/-- The request that a clause answers: it has an unsettled child at the shard from which the clause comes. -/
def clauseReq (s : State) (m : Bytes) : Option (Nat × Req) :=
  s.ae.reqs.find? fun e => sameRequest e.2.msg m && decide (msgParent m = nodeId s)
    && e.2.children.any fun c => c.shard == msgDest m && c.settled.isNone

section
variable {s : State} (up : awake s = true) {m : Bytes} (whole : 32 ≤ m.length) (known : knownOp m = true)
  (own : msgOp m = opClause) (src : Nat)
include up whole known own

theorem exec_clause_of_late (late : clauseReq (takeMsg s m) m = none) :
    exec (.clause src m) s = .next (raise1 (takeMsg s m) 4 fAeEventLateReply) := by
  unfold clauseReq at late
  refine (next_withMsg_of_op up whole known own _).trans ?_
  simp only [late]

variable {id : Nat} {r : Req} {c : Child} (wanted : clauseReq (takeMsg s m) m = some (id, r))
  (child : (r.children.find? fun c => c.shard == msgDest m) = some c)
include wanted child

theorem exec_clause_of_settles (settles : movedHint (childBody r c m) = none) :
    exec (.clause src m) s =
      .next (updReq (updChild (takeMsg s m) id c.shard fun x => { x with settled := some (childBody r c m) }) id
        fun x => { x with lastChild := some (receivedAt s m) }) := by
  unfold clauseReq at wanted
  refine (next_withMsg_of_op up whole known own _).trans ?_
  simp only [wanted, child, settles]

theorem exec_clause_of_moved {node : Nat} (moved : movedHint (childBody r c m) = some node)
    (forward : getB (takeMsg s m) rAeControl fAeControlForwardEn = true) (once : c.resent = false) :
    exec (.clause src m) s = .next (raise1 (sendChild (updChild (takeMsg s m) id c.shard fun x =>
      { x with node := node, start := s.time, resent := true }) id r.msg c.shard node []) 4 fAeEventMovedForward) := by
  unfold clauseReq at wanted
  refine (next_withMsg_of_op up whole known own _).trans ?_
  simp only [wanted, child, moved, forward, once, Bool.not_false, Bool.and_self, if_true]
  rfl

end

/-! ## The statement -/

/-- Settles O32: a short message as every row discards it, a whole one by its row, draft rows by where they are placed, a clause
by the child that it finds. -/
theorem attentionMessagesAreTaken : Obligations.AttentionMessagesAreTaken := by
  intro m n src s up
  refine ⟨fun short => exec_message_of_short up short n src, fun whole known => ⟨?_, ?_, ?_, ?_, ?_, ?_⟩⟩
  · exact fun own => exec_attend_of_op up whole known own n
  · exact fun own => exec_append_of_op up whole known own n
  · exact fun own => exec_refill_of_op up whole known own n
  · exact fun own => exec_done_of_op up whole known own src
  · intro own header body out epoch fence table u d v read used stays first new
    rw [exec_draftRows_of_read up whole known own header body out epoch fence table read]
    refine ⟨fun full => ?_, fun id r waits room => ?_, fun early room => ?_⟩
    · rw [placeDraft_of_full full]
    · rw [placeDraft_of_waiting used stays first new room waits]
    · rw [placeDraft_of_early used stays first new room early]
  · exact fun own => ⟨exec_clause_of_late up whole known own src, fun id r c wanted child =>
      ⟨exec_clause_of_settles up whole known own src wanted child,
        fun node => exec_clause_of_moved up whole known own src wanted child⟩⟩

end Sys2Proof.Machine

/-!
PROOFS. How what waits in the attention engine ends at its limit, and how the work of a request, of the page operations and of a
verify request that waits for a way goes on (R28, R126, R131, R138, R143, R147, R180, R184, R218).
-/

namespace Sys2Proof.Machine

section
variable {s : State} (up : awake s = true)
include up

/-! ## Waits end at their limits (R126, R131, R143) -/

theorem exec_draftHoldExpiry_of_due {k : Nat} {x : HeldDraft} (held : s.ae.drafts[k]? = some x)
    (late : childTimeout s ≤ elapsed s x.time) :
    exec (.draftHoldExpiry k) s = .next (discardDraft { s with ae := { s.ae with drafts := s.ae.drafts.eraseIdx k } }) := by
  refine (next_live_of_awake up _).trans ?_
  simp only [held, due_of_le late, if_true]

theorem exec_draftWaitTimeout_of_due {id : Nat} {r : Req} (found : mapGet s.ae.reqs id = some r) (waits : r.draft = .waiting)
    (late : childTimeout s ≤ elapsed s r.accepted) :
    exec (.draftWaitTimeout id) s =
      .next (raise1 (updReq s id fun x => { x with draft := .failed stTimeout }) 4 fAeEventChildTimeout) := by
  refine (next_live_of_awake up _).trans ?_
  simp only [found, waits, due_of_le late, and_self, if_true]

theorem exec_childTimeout_of_due {id shard : Nat} {r : Req} {c : Child} (found : mapGet s.ae.reqs id = some r)
    (child : (r.children.find? fun c => c.shard == shard && c.settled.isNone) = some c)
    (late : r.height * childTimeout s ≤ elapsed s c.start) :
    exec (.childTimeout id shard) s = .next (raise1 (settleFail s id r.msg shard c.node stTimeout) 4 fAeEventChildTimeout) := by
  refine (next_live_of_awake up _).trans ?_
  simp only [found, child, due_of_le late, if_true]

theorem exec_attnSlotFree_of_front {m : Bytes} {t : Nat} {rest : List (Bytes × Nat)} (front : s.ae.slotWait = (m, t) :: rest)
    (free : slotsFull s = false) :
    exec .attnSlotFree s = .next (
      let u := bumpR { s with ae := { s.ae with slotWait := rest } } rAeWaitSlot (elapsed s t)
      if msgOp m = opAttend then takeAttend u m t else takeOp u m t) := by
  refine (next_live_of_awake up _).trans ?_
  simp only [front, free, Bool.false_eq_true, if_false]

/-! ## The own clause of a request (R28, R138, R143, R180, R184) -/

section
variable {id : Nat} {r : Req} {n : Reads} (found : mapGet s.ae.reqs id = some r) (drafted : r.draft ≠ .waiting)
  (settled : r.children.any (fun c => c.settled.isNone) = false)
include found drafted settled

theorem exec_shardClauseSend_of_error {v : State} (read : readCtx (takeReads s n) r.ctx 0 = .error v) :
    exec (.shardClauseSend id n) s = .next (sendClause v id r (reqShard r.msg)
      (foldChildren r (failClause stUncorrectable (reqShard r.msg) (nodeId v) none (atBf16 r.msg)))) := by
  refine (next_live_of_awake up _).trans ?_
  simp only [found, drafted, settled, Bool.false_eq_true, or_self, if_false, read]

variable {d : Bytes} {t : State} (read : readCtx (takeReads s n) r.ctx 0 = .ok (d, t))
include read

theorem exec_shardClauseSend_of_ready (ready : workReady s r d = true) (dispatched : r.dispatched = true) :
    exec (.shardClauseSend id n) s = .next (sendClause (attendUnstage (ownClause t r d).2 (attendSlots s r d)) id r
      (reqShard r.msg) (foldChildren r (ownClause t r d).1)) := by
  refine (next_live_of_awake up _).trans ?_
  simp only [found, drafted, settled, Bool.false_eq_true, or_self, if_false, read, ready, dispatched, Bool.and_self,
    Bool.not_true]

theorem exec_shardClauseSend_of_waits (waits : workReady s r d = false ∨ r.dispatched = false) :
    exec (.shardClauseSend id n) s = .next (unserve (awaitPages s id r d) id) := by
  have unready : (workReady s r d && r.dispatched) = false := by rwa [Bool.and_eq_false_iff]
  refine (next_live_of_awake up _).trans ?_
  simp only [found, drafted, settled, Bool.false_eq_true, or_self, if_false, read, unready, Bool.not_false, if_true]

end

/-! ## Page operations that go on (R147) -/

theorem exec_pageOpWaitEnd_of_awake :
    exec .pageOpWaitEnd s = .next ((s.ae.ops.filter fun e => opReady s e.1 e.2).foldl (fun u e => runOp u e.1) s) :=
  next_live_of_awake up _

/-! ## A way for a row tile (R218) -/

/-- The one verify request that waits for ways and finds one takes it, and with its first the stage from its receipt ends. -/
theorem exec_attnWayGrant_of_only {id w : Nat} {r : Req}
    (only : (s.ae.reqs.filter fun e => decide (waysWanted e.2 ≠ 0) && (tileWay s e.2).isSome) = [(id, r)])
    (way : tileWay s r = some w) :
    exec .attnWayGrant s = .next (
      let u := bumpR (updReq (takeAttnWay s w id) id fun r => { r with ways := r.ways ++ [w] }) rAcAttnWait
        (elapsed s r.accepted)
      if r.ways.isEmpty then noteIngress u id else u) := by
  refine (next_live_of_awake up _).trans ?_
  simp only [only, List.foldl_cons, List.foldl_nil, way]
  rfl

end

/-! ## The statement -/

/-- Settles O33: each wait that its limit ends, and each work by what it still waits for, by the rules above. -/
theorem attentionWaitsAndWorkEnd : Obligations.AttentionWaitsAndWorkEnd := by
  refine ⟨fun s up => ⟨?_, ?_, ?_, ?_⟩, fun s up => ⟨fun id r n found drafted settled => ⟨?_, ?_, ?_⟩, ?_, ?_⟩⟩
  · exact fun k x held late => exec_draftHoldExpiry_of_due up held late
  · exact fun id r found waits late => exec_draftWaitTimeout_of_due up found waits late
  · exact fun id r shard c found child late => exec_childTimeout_of_due up found child late
  · exact fun m t rest front free => exec_attnSlotFree_of_front up front free
  · exact fun d t read ready dispatched => exec_shardClauseSend_of_ready up found drafted settled read ready dispatched
  · exact fun d t read waits => exec_shardClauseSend_of_waits up found drafted settled read waits
  · exact fun v read => exec_shardClauseSend_of_error up found drafted settled read
  · exact exec_pageOpWaitEnd_of_awake up
  · exact fun id r w only way => exec_attnWayGrant_of_only up only way

end Sys2Proof.Machine

/-!
PROOFS. What a host write of a setting with a condition stores (R23, R162, R179, R241, R273, R282, R466, R480).
-/

namespace Sys2Proof.Machine

/-! ## The rows and the arrays of registers -/

/-- The row of a register acts as the write of the one register that is reached, when that is of the row. -/
theorem next_writeRow_of_reaches {p : Nat → Bool} {a : Access} {s : State} {r : Reached} (h : Reaches s a r)
    (own : p r.off = true) :
    (.next (writeRow p a s) : Host.Outcome State Fault Refusal) = .next (applyWrite none s (regWrite s a r)) := by
  rw [writeRow, h.only, if_pos (by simpa using own), hostWrite_of_reaches h]

theorem indexIn_of_lt {stride n i : Nat} (base : Nat) (pos : 0 < stride) (lt : i < n) :
    indexIn base stride n (base + stride * i) = some i := by
  have index : (base + stride * i - base) / stride = i := by rw [Nat.add_sub_cancel_left, Nat.mul_div_cancel_left i pos]
  rw [indexIn, index, if_pos ⟨Nat.le_add_right _ _, by rw [Nat.add_sub_cancel_left, Nat.mul_mod_right], lt⟩]

theorem indexIn_rBbPermitLimit {b : Nat} (lt : b < 8) : indexIn (rBbPermitLimit 0) 0x100 8 (rBbPermitLimit b) = some b :=
  indexIn_of_lt (rBbPermitLimit 0) (by decide) lt

/-- The placement plan of a class and priority lies at their number (R241). -/
theorem indexIn_rTmPlan {cls k : Nat} (class_ : cls < 256) (priority : k < 16) :
    indexIn (rTmPlan 0 0) 8 4096 (rTmPlan cls k) = some (16 * cls + k) := by
  have place : rTmPlan cls k = rTmPlan 0 0 + 8 * (16 * cls + k) := by unfold rTmPlan; omega
  rw [place]
  exact indexIn_of_lt _ (by decide) (by omega)

/-! ## The block of a write -/

section
variable {lcf : Option Nat} {s : State} {w : RegWrite}

theorem applyWrite_of_cx (block : w.off / 2 ^ 20 = 0x3) : applyWrite lcf s w = writeCx s w := by simp only [applyWrite, block]
theorem applyWrite_of_bb (block : w.off / 2 ^ 20 = 0x6) : applyWrite lcf s w = writeBb s w := by simp only [applyWrite, block]
theorem applyWrite_of_tm (block : w.off / 2 ^ 20 = 0x8) : applyWrite lcf s w = writeTm s w := by simp only [applyWrite, block]
theorem applyWrite_of_pf (block : w.off / 2 ^ 20 = 0xA) : applyWrite lcf s w = writePf s w := by simp only [applyWrite, block]
theorem applyWrite_of_pw (block : w.off / 2 ^ 20 = 0x12) : applyWrite lcf s w = writePw s w := by simp only [applyWrite, block]

end

/-! ## The writes by register -/

section
variable {s : State} {a : Access} {r : Reached} (h : Reaches s a r)
include h

theorem exec_bbNarrowShareWrite_of_fits (reg : r.off = rBbNarrowShare) (share : (regWrite s a r).get fBbNarrowShareShare ≤ 16)
    (closed : anyOpen s = false)
    (room : 2081 * (remaps s).length ≤ reserveStripes ((regWrite s a r).get fBbNarrowShareShare)) :
    exec (.bbNarrowShareWrite a) s = .next (storeReg s (regWrite s a r)) := by
  have off : (regWrite s a r).off = rBbNarrowShare := reg
  have allowed : ¬(16 < (regWrite s a r).get fBbNarrowShareShare ∨ anyOpen s = true) := by
    rw [closed]; simpa using share
  refine (next_writeRow_of_reaches h (by simpa using reg)).trans ?_
  rw [applyWrite_of_bb (by rw [off]; rfl), writeBb, if_pos off, writeNarrowShare, if_neg allowed, if_neg (Nat.not_lt.mpr room)]

theorem exec_bbPermitLimitWrite_of_lt {b : Nat} (lt : b < 8) (reg : r.off = rBbPermitLimit b) :
    exec (.bbPermitLimitWrite a) s = .next (writePermitLimit s b (regWrite s a r)) := by
  have off : (regWrite s a r).off = rBbPermitLimit b := reg
  have block : rBbPermitLimit b / 2 ^ 20 = 6 := by unfold rBbPermitLimit; omega
  have notShare : rBbPermitLimit b ≠ rBbNarrowShare := by unfold rBbPermitLimit rBbNarrowShare; omega
  refine (next_writeRow_of_reaches h (by rw [reg, indexIn_rBbPermitLimit lt]; rfl)).trans ?_
  rw [applyWrite_of_bb (by rw [off, block]), writeBb, off, if_neg notShare, indexIn_rBbPermitLimit lt]

theorem exec_tmPlanWrite_of_ok {cls k : Nat} (class_ : cls < 256) (priority : k < 16) (reg : r.off = rTmPlan cls k)
    (ok : planOk (regWrite s a r).new = true) (unused : (s.cx.open_.any fun e => e.2.plan == cls) = false) :
    exec (.tmPlanWrite a) s = .next (storeReg s (regWrite s a r)) := by
  have off : (regWrite s a r).off = rTmPlan cls k := reg
  have block : rTmPlan cls k / 2 ^ 20 = 8 := by unfold rTmPlan; omega
  have notSlots : ¬(rTmPlan cls k = rTmSlotBase ∨ rTmPlan cls k = rTmSlotCount) := by
    unfold rTmPlan rTmSlotBase rTmSlotCount; omega
  have index : (16 * cls + k) / 16 = cls := by omega
  refine (next_writeRow_of_reaches h (by rw [reg, indexIn_rTmPlan class_ priority]; rfl)).trans ?_
  rw [applyWrite_of_tm (by rw [off, block]), writeTm, off, if_neg notSlots, indexIn_rTmPlan class_ priority]
  simp only [index, writePlan, ok, unused, Bool.not_true, Bool.or_self, Bool.false_eq_true, if_false]

theorem exec_pfLogHeadWrite_of_ok (reg : r.off = rPfLogHead) (ok : headOk s ((regWrite s a r).get fPfLogHeadPfLogHead) = true) :
    exec (.pfLogHeadWrite a) s = .next (storeReg s (regWrite s a r)) := by
  have off : (regWrite s a r).off = rPfLogHead := reg
  refine (next_writeRow_of_reaches h (by simpa using reg)).trans ?_
  rw [applyWrite_of_pf (by rw [off]; rfl), writePf, if_pos off, writeLogHead, if_pos ok]

theorem exec_pwCapWrite_of_range (reg : r.off = rPwCap) (low : 600 ≤ (regWrite s a r).get fPwCapWatts)
    (high : (regWrite s a r).get fPwCapWatts ≤ 1650) : exec (.pwCapWrite a) s = .next (storeReg s (regWrite s a r)) := by
  have off : (regWrite s a r).off = rPwCap := reg
  have notState : (regWrite s a r).off ≠ rPwState := by rw [off]; decide
  refine (next_writeRow_of_reaches h (by simpa using reg)).trans ?_
  rw [applyWrite_of_pw (by rw [off]; rfl), writePw, if_neg notState, if_pos off, writeCap]
  simp only [low, high, and_self, if_true]

theorem exec_cxTableBaseWrite_of_closed (reg : r.off = rCxTableBase) (closed : anyOpen s = false) :
    exec (.cxTableBaseWrite a) s = .next (
      let u := { storeReg s (regWrite s a r) with cx := { (storeReg s (regWrite s a r)).cx with written := true } }
      if s.cx.written = true ∨ tableReady s = true then u else zeroTable u) := by
  have off : (regWrite s a r).off = rCxTableBase := reg
  refine (next_writeRow_of_reaches h (by simpa using reg)).trans ?_
  rw [applyWrite_of_cx (by rw [off]; rfl), writeCx, if_pos off, writeTableBase, closed, if_neg Bool.false_ne_true]
  simp only [Bool.or_eq_true]

end

/-- A permit limit above the maximum becomes the maximum (R179). -/
theorem writePermitLimit_eq {s : State} {b : Nat} {w : RegWrite} (reg : w.off = rBbPermitLimit b) : writePermitLimit s b w =
    if w.get fBbPermitLimitLimit ≤ getF s (rBbStatus b) fBbStatusPermitMax then storeReg s w
    else setF (storeReg s w) (rBbPermitLimit b) fBbPermitLimitLimit (getF s (rBbStatus b) fBbStatusPermitMax) := by
  rw [writePermitLimit, reg]
  by_cases within : w.get fBbPermitLimitLimit ≤ getF s (rBbStatus b) fBbStatusPermitMax
  · rw [if_pos within, if_neg (Nat.not_lt.mpr within)]
  · rw [if_neg within, if_pos (Nat.lt_of_not_le within)]

/-! ## The statement -/

/-- Settles O16: the write reaches one register, whose own rule then lets it be stored. -/
theorem guardedSettingsAreWritten : Obligations.GuardedSettingsAreWritten := by
  intro a r s h w
  refine ⟨?_, ?_, ?_, ?_, ?_, ?_⟩
  · exact fun reg share closed room => exec_bbNarrowShareWrite_of_fits h reg share closed room
  · intro b lt reg
    rw [exec_bbPermitLimitWrite_of_lt h lt reg, writePermitLimit_eq (w := regWrite s a r) reg]
  · exact fun cls k class_ priority reg ok unused => exec_tmPlanWrite_of_ok h class_ priority reg ok unused
  · exact fun reg ok => exec_pfLogHeadWrite_of_ok h reg ok
  · exact fun reg low high => exec_pwCapWrite_of_range h reg low high
  · exact fun reg closed => exec_cxTableBaseWrite_of_closed h reg closed

end Sys2Proof.Machine

/-!
PROOFS. What a step does when no command waits: one tick of a powered module (R178, R364, R452).
-/

namespace Sys2Proof.Machine

/-- A table whose entries are changed under their keys. -/
theorem mapGet_map {α β : Type} (m : NMap α) (f : Nat → α → β) (k : Nat) :
    mapGet (m.map fun e => (e.1, f e.1 e.2)) k = (mapGet m k).map (f k) := by
  induction m with
  | nil => rfl
  | cons e m ih =>
    obtain ⟨j, v⟩ := e
    rw [List.map_cons, mapGet, mapGet, ih]
    split
    · next here => rw [here]; rfl
    · split <;> rfl

/-! ## The hold counters (R364) -/

section
variable {o : Nat} (other : ∀ g c, o ≠ rEsHoldCycles g c)
include other

theorem regGet_countHold (s : State) (g c : Nat) : regGet (countHold s g c) o = regGet s o := by
  unfold countHold
  split
  · rfl
  · split
    · exact regGet_setR_ne s _ (other g c)
    · rfl

theorem regGet_countHolds (s : State) : regGet (countHolds s) o = regGet s o := by
  unfold countHolds
  induction s.es.queues generalizing s with
  | nil => rfl
  | cons e queues ih => rw [List.foldl_cons, ih, regGet_countHold other]

end

theorem countHolds_but_regs (s : State) : { countHolds s with time := s.time, regs := s.regs } = s :=
  keep_countHolds (P := fun t => { t with time := s.time, regs := s.regs } = s) (fun _ _ _ kept => kept) rfl

/-! ## The requests that wait for permits (R178) -/

/-- A request that no BAU runs notes one more cycle. -/
def BauEntry.waitedMore (y : BauEntry) : BauEntry := if y.baus.isEmpty then { y with waited := y.waited + 1 } else y

@[simp] theorem BauEntry.waitedMore_cmd (y : BauEntry) : y.waitedMore.cmd = y.cmd := by
  unfold BauEntry.waitedMore
  split <;> rfl

/-- A die whose waiting requests have noted a cycle. -/
def Bbd.waitedMore (x : Bbd) : Bbd := { x with queue := x.queue.map BauEntry.waitedMore }

theorem Bbd.cmds_waitedMore (x : Bbd) : x.waitedMore.queue.map (·.cmd) = x.queue.map (·.cmd) := by
  simp [Bbd.waitedMore, Function.comp_def]

theorem bbdOf_countPermits (s : State) (b : Nat) : bbdOf (countPermits s) b =
    if awaitsPermits s b then (bbdOf s b).waitedMore else bbdOf s b := by
  have entry : mapGet (countPermits s).bb.bbd b =
      (mapGet s.bb.bbd b).map fun x => if awaitsPermits s b then x.waitedMore else x :=
    mapGet_map s.bb.bbd (fun b x => if awaitsPermits s b then x.waitedMore else x) b
  rw [bbdOf, entry, bbdOf]
  cases mapGet s.bb.bbd b with
  | some x => rfl
  | none => split <;> rfl

theorem cmds_countPermits (s : State) (b : Nat) :
    (bbdOf (countPermits s) b).queue.map (·.cmd) = (bbdOf s b).queue.map (·.cmd) := by
  rw [bbdOf_countPermits]
  split
  · exact (bbdOf s b).cmds_waitedMore
  · rfl

/-! ## The statement -/

theorem step_of_empty {s : State} (empty : s.pending = []) : step s = .next (tick s) := by
  rw [step, empty]

/-- A cycle has passed for the held frames and the local counter. -/
def cycleHeld (s : State) : State := { countHolds s with time := (s.time + 1) % 2 ^ 64 }

theorem cycleHeld_but_regs (s : State) : { cycleHeld s with time := s.time, regs := s.regs } = s := countHolds_but_regs s

theorem cycleHeld_bb (s : State) : (cycleHeld s).bb = s.bb := (congrArg State.bb (cycleHeld_but_regs s) :)

theorem tick_of_on {s : State} (on : s.power.supply = .on) : tick s = countPermits (cycleHeld s) := if_pos on

theorem tick_of_not_on {s : State} (off : s.power.supply ≠ .on) : tick s = s := if_neg off

/-- Settles O2: a step is a tick, which is the counting of the held frames, of the cycle, and of the waiting requests. -/
theorem emptyQueueTicks : Obligations.EmptyQueueTicks := by
  intro s empty
  refine ⟨tick s, step_of_empty empty, tick_of_not_on, fun on => ?_⟩
  rw [tick_of_on on]
  refine ⟨rfl, rfl, fun o other => regGet_countHolds other s, fun b => ?_, ?_⟩
  · have same : bbdOf (cycleHeld s) b = bbdOf s b := by rw [bbdOf, cycleHeld_bb, bbdOf]
    exact (cmds_countPermits (cycleHeld s) b).trans (by rw [same])
  · calc { countPermits (cycleHeld s) with time := s.time, regs := s.regs, bb := s.bb }
        = { cycleHeld s with time := s.time, regs := s.regs, bb := s.bb } := rfl
      _ = { cycleHeld s with time := s.time, regs := s.regs } := by rw [← cycleHeld_bb]
      _ = s := cycleHeld_but_regs s

end Sys2Proof.Machine

/-!
PROOFS. How an instruction of an attention core runs for its thread, and what it leaves of the thread and its job (R184, R202,
R204, R206).
-/

namespace Sys2Proof.Machine

/-! ## A job whose thread is updated -/

section
variable {α β : Type} {m : NMap α} {k : Nat} {g : α → List β}

theorem flatMap_mapPut_of_mapGet {v w : α} (found : mapGet m k = some v) (same : g w = g v) :
    (mapPut m k w).flatMap (fun e => g e.2) = m.flatMap fun e => g e.2 := by
  induction m with
  | nil => cases found
  | cons e m ih =>
    obtain ⟨j, u⟩ := e
    rw [mapGet] at found
    rw [mapPut]
    by_cases here : j = k
    · obtain rfl : u = v := by simpa [here] using found
      simp [here, same]
    · by_cases before : k < j
      · simp [here, before] at found
      · rw [if_neg here, if_neg before] at found
        simp [here, before, ih found]

/-- What an update under a key leaves of every entry, the whole table keeps, in its order. -/
theorem flatMap_mapAdj {f : α → α} (keeps : ∀ v, g (f v) = g v) :
    (mapAdj m k f).flatMap (fun e => g e.2) = m.flatMap fun e => g e.2 := by
  unfold mapAdj
  split
  · next v found => exact flatMap_mapPut_of_mapGet found (keeps v)
  · rfl

end

/-- What a thread's instruction leaves of its job: the descriptor, the number of the next ticket, and each ticket. -/
structure Job.Alike (j j' : Job) : Prop where
  desc     : j'.desc = j.desc
  nextTick : j'.nextTick = j.nextTick
  ticket   : ∀ id, ticketIn j' id = ticketIn j id

theorem Job.Alike.refl (j : Job) : j.Alike j := ⟨rfl, rfl, fun _ => rfl⟩

section
variable {s : State} {n i : Nat} {j : Job}

theorem jobAt_updThread_same (found : jobAt s n = some j) (f : Thread → Thread) :
    jobAt (updThread s n i f) n = some { j with threads := mapAdj j.threads i f } := by
  rw [updThread, jobAt_updJob, if_pos rfl, found]
  rfl

theorem jobAt_updThread_alike {f : Thread → Thread} (keeps : ∀ t, (f t).tickets = t.tickets) {j₀ : Job}
    (found : ∃ j', jobAt s n = some j' ∧ j₀.Alike j') :
    ∃ j', jobAt (updThread s n i f) n = some j' ∧ j₀.Alike j' := by
  obtain ⟨j', found, alike⟩ := found
  refine ⟨_, jobAt_updThread_same found f, alike.desc, alike.nextTick, fun id => ?_⟩
  rw [← alike.ticket id, ticketIn, ticketIn, flatMap_mapAdj keeps]

end

/-! ## The thread at work, and once its instruction is done -/

/-- A runnable thread that executes is running, from now. -/
def Thread.atWork (t : Thread) (now : Nat) : Thread :=
  if t.cond = .running then t else { t with cond := .running, since := now }

/-- A thread past an instruction: at the next one, with the result in rd when there is one (R202). -/
def Thread.stepped (t : Thread) (i : SxOp) (v : Option Nat) : Thread :=
  match v with
  | some v => ({ t with pc := t.pc + 4 } : Thread).setX (sxRd i) v
  | none => { t with pc := t.pc + 4 }

section
variable {t : Thread} {now : Nat} {i : SxOp} {v : Option Nat}

@[simp] theorem Thread.atWork_cond : (t.atWork now).cond = .running := by
  unfold Thread.atWork
  split
  · assumption
  · rfl

@[simp] theorem Thread.atWork_pc : (t.atWork now).pc = t.pc := by unfold Thread.atWork; split <;> rfl
@[simp] theorem Thread.atWork_place : (t.atWork now).place = t.place := by unfold Thread.atWork; split <;> rfl
@[simp] theorem Thread.atWork_x : (t.atWork now).x = t.x := by unfold Thread.atWork; split <;> rfl
@[simp] theorem Thread.atWork_tickets : (t.atWork now).tickets = t.tickets := by unfold Thread.atWork; split <;> rfl

@[simp] theorem Thread.stepped_pc : (t.stepped i v).pc = t.pc + 4 := by cases v <;> simp [Thread.stepped]
@[simp] theorem Thread.stepped_place : (t.stepped i v).place = t.place := by cases v <;> simp [Thread.stepped]
@[simp] theorem Thread.stepped_cond : (t.stepped i v).cond = t.cond := by cases v <;> simp [Thread.stepped]
@[simp] theorem Thread.stepped_tickets : (t.stepped i v).tickets = t.tickets := by cases v <;> simp [Thread.stepped]

end

/-- The state in which the instruction of a thread acts: the thread is running. -/
def atWork (s : State) (i : SxOp) (t : Thread) : State :=
  if t.cond = .running then s else setCond s i.job i.idx .running

section
variable {s : State} {i : SxOp} {t : Thread}

@[simp] theorem atWork_time : (atWork s i t).time = s.time := by unfold atWork; split <;> rfl
@[simp] theorem atWork_mem : (atWork s i t).mem = s.mem := by unfold atWork; split <;> rfl
@[simp] theorem atWork_regs : (atWork s i t).regs = s.regs := by unfold atWork; split <;> rfl
@[simp] theorem atWork_bb : (atWork s i t).bb = s.bb := by unfold atWork; split <;> rfl
@[simp] theorem atWork_ft : (atWork s i t).ft = s.ft := by unfold atWork; split <;> rfl
@[simp] theorem teQueue_atWork (q : Nat) : teQueue (atWork s i t) q = teQueue s q := by unfold atWork; split <;> rfl
@[simp] theorem wayStore_atWork (k : Nat) : wayStore (atWork s i t) k = wayStore s k := by unfold atWork; split <;> rfl

theorem threadAt_atWork (found : threadAt s i.job i.idx = some t) :
    threadAt (atWork s i t) i.job i.idx = some (t.atWork s.time) := by
  unfold atWork Thread.atWork
  split
  · exact found
  · rw [setCond, threadAt_updThread_same, found]
    rfl

theorem jobAt_atWork {j : Job} (found : jobAt s i.job = some j) :
    ∃ j', jobAt (atWork s i t) i.job = some j' ∧ j.Alike j' := by
  unfold atWork
  split
  · exact ⟨j, found, .refl j⟩
  · rw [setCond]
    exact jobAt_updThread_alike (by exact fun _ => rfl) ⟨j, found, .refl j⟩

@[simp] theorem sxDone_time (v : Option Nat) : (sxDone s i v).time = s.time := rfl
@[simp] theorem sxDone_mem (v : Option Nat) : (sxDone s i v).mem = s.mem := rfl
@[simp] theorem sxDone_regs (v : Option Nat) : (sxDone s i v).regs = s.regs := rfl
@[simp] theorem sxDone_bb (v : Option Nat) : (sxDone s i v).bb = s.bb := rfl
@[simp] theorem sxDone_ft (v : Option Nat) : (sxDone s i v).ft = s.ft := rfl

variable {w : Thread} (v : Option Nat) (found : threadAt s i.job i.idx = some w)
include found

theorem threadAt_sxDone : threadAt (sxDone s i v) i.job i.idx = some (w.stepped i v) := by
  rw [sxDone, threadAt_updThread_same, found]
  cases v <;> rfl

theorem executed_sxDone (pc : w.pc = t.pc) (place : w.place = t.place) (running : w.cond = .running) (x : w.x = t.x) :
    Executed (sxDone s i v) i t v := by
  refine ⟨w.stepped i v, threadAt_sxDone v found, by simp [pc], by simp [place], by simp [running], fun r => ?_⟩
  have before : w.getX r = t.getX r := by rw [Thread.getX, Thread.getX, x]
  cases v with
  | none => exact before
  | some v => rw [Thread.stepped, getX_setX, ← before]; rfl

end

/-! ## A new ticket -/

/-- The thread has taken this ticket, the next of its job. -/
def ticketTaken (s : State) (n i : Nat) (x : Ticket) : State :=
  updThread (updJob s n fun j => { j with nextTick := j.nextTick + 1 }) n i fun t => { t with tickets := t.tickets ++ [x] }

@[simp] theorem ticketTaken_mem (s : State) (n i : Nat) (x : Ticket) : (ticketTaken s n i x).mem = s.mem := rfl
@[simp] theorem ticketTaken_regs (s : State) (n i : Nat) (x : Ticket) : (ticketTaken s n i x).regs = s.regs := rfl
@[simp] theorem ticketTaken_bb (s : State) (n i : Nat) (x : Ticket) : (ticketTaken s n i x).bb = s.bb := rfl
@[simp] theorem teQueue_ticketTaken (s : State) (n i k : Nat) (x : Ticket) :
    teQueue (ticketTaken s n i x) k = teQueue s k := rfl

theorem threadAt_ticketTaken (s : State) (n i : Nat) (x : Ticket) :
    threadAt (ticketTaken s n i x) n i = (threadAt s n i).map fun t => { t with tickets := t.tickets ++ [x] } := by
  have numbered : threadAt (updJob s n fun j => { j with nextTick := j.nextTick + 1 }) n i = threadAt s n i := by
    rw [threadAt, jobAt_updJob, if_pos rfl, threadAt]
    cases jobAt s n <;> rfl
  rw [ticketTaken, threadAt_updThread_same, numbered]

theorem newTicket_of_jobAt {s : State} {n : Nat} {j : Job} (found : jobAt s n = some j) (i : Nat) (kind : TicketKind)
    (status : Option Nat) (src dst len : Nat) :
    newTicket s n i kind status src dst len =
      (tickVal j.nextTick, ticketTaken s n i ⟨tickVal j.nextTick, kind, status, src, dst, len⟩) := by
  rw [newTicket, found]
  rfl

/-! ## An instruction of a thread that executes it -/

section
variable {s : State} {i : SxOp} {j : Job} {t : Thread} {k op f3 : Nat} (runs : Executes s i j t k)
include runs

theorem sxRun_of_spells (word : Spells op f3 i) (f : Job → Thread → Nat → State → State) :
    sxRun s op f3 i f = f j t k (atWork s i t) := by
  obtain ⟨up, job, thread, way, kind, ready⟩ := runs
  obtain ⟨alone, code, legal⟩ := word
  have noLocks : actLocks s j [] = [] := rfl
  rw [sxRun, live_of_awake up]
  simp only [job, thread, way, kind, ready, code, and_self, if_true, alone, noLocks, ne_eq, not_true_eq_false, if_false,
    List.foldl_nil, legal, Bool.false_eq_true]
  rfl

/-- A load ahead of the instruction meets a locked slot: the thread waits (R184). -/
theorem sxRun_of_locked (code : sxIs op f3 i = true) (locked : actLocks s j i.acts ≠ [])
    (f : Job → Thread → Nat → State → State) :
    sxRun s op f3 i f = waitLocks s (.thread i.job i.idx) (actLocks s j i.acts) := by
  obtain ⟨up, job, thread, way, kind, ready⟩ := runs
  rw [sxRun, live_of_awake up]
  simp only [job, thread, way, kind, ready, code, and_self, if_true, locked, ne_eq, not_false_eq_true]

/-- What the thread runs ahead runs first, and the instruction then acts as it does alone (R202). -/
theorem sxRun_of_ahead (code : sxIs op f3 i = true) (free : actLocks s j i.acts = []) {j' : Job} {t' : Thread}
    (after : Executes (i.acts.foldl (sxAct i.job i.idx k) s) { i with acts := [] } j' t' k)
    (f : Job → Thread → Nat → State → State) :
    sxRun s op f3 i f = sxRun (i.acts.foldl (sxAct i.job i.idx k) s) op f3 { i with acts := [] } f := by
  obtain ⟨up, job, thread, way, kind, ready⟩ := runs
  obtain ⟨up', job', thread', way', kind', ready'⟩ := after
  have noLocks : ∀ u, actLocks u j' [] = [] := fun _ => rfl
  have code' : sxIs op f3 { i with acts := [] } = true := code
  rw [sxRun, sxRun, live_of_awake up, live_of_awake up']
  simp only [job, thread, way, kind, ready, code, and_self, if_true, free, ne_eq, not_true_eq_false, if_false,
    job', thread', way', kind', ready', code', noLocks, List.foldl_nil]
  rfl

/-- The row of an instruction whose effect does not look at what ran ahead of it. -/
theorem row_runs_ahead {r : SxOp → Instr} {f : SxOp → Job → Thread → Nat → State → State}
    (acts : ∀ o u, exec (r o) u = .next (sxRun u op f3 o (f o))) (alone : f { i with acts := [] } = f i)
    (code : sxIs op f3 i = true) :
    (actLocks s j i.acts ≠ [] → exec (r i) s = .next (waitLocks s (.thread i.job i.idx) (actLocks s j i.acts))) ∧
      (actLocks s j i.acts = [] → ∀ j' t', Executes (i.acts.foldl (sxAct i.job i.idx k) s) { i with acts := [] } j' t' k →
        exec (r i) s = exec (r { i with acts := [] }) (i.acts.foldl (sxAct i.job i.idx k) s)) := by
  refine ⟨fun locked => ?_, fun free j' t' after => ?_⟩
  · rw [acts, sxRun_of_locked runs code locked]
  · rw [acts, acts, alone, sxRun_of_ahead runs code free after]

theorem newTicket_atWork (kind : TicketKind) (status : Option Nat) (src dst len : Nat) :
    newTicket (atWork s i t) i.job i.idx kind status src dst len = (tickVal j.nextTick,
      ticketTaken (atWork s i t) i.job i.idx ⟨tickVal j.nextTick, kind, status, src, dst, len⟩) := by
  obtain ⟨j', found, alike⟩ := jobAt_atWork (t := t) runs.job
  rw [newTicket_of_jobAt found, alike.nextTick]

end

theorem sxLoad_of_inside {s : State} {off n : Nat} (inside : off + n ≤ segBytes) (i : SxOp) (k : Nat) (f : Bytes → State) :
    sxLoad s i k off n f = f (segRead (wayStore s k) off n) := if_neg (Nat.not_lt.mpr inside)

end Sys2Proof.Machine

/-!
PROOFS. The instructions of an attention core that issue work: tensor engines, BAU stores and commands, and copies (R168, R204,
R205).
-/

namespace Sys2Proof.Machine

/-! ## A command for a tensor engine (R193, R204) -/

section
variable {s : State} {i : SxOp} {j : Job} {t : Thread} {k : Nat}

/-- The 32 bytes of a command for a tensor engine have joined its queue, and the thread goes on with the ticket. -/
def teIssued (s : State) (i : SxOp) (j : Job) (t : Thread) (k te : Nat) : State :=
  let ticket := tickVal j.nextTick
  sxDone (queueTe (ticketTaken (atWork s i t) i.job i.idx ⟨ticket, .te, none, 0, 0, 0⟩)
    ⟨⟨k / 16, te, k % 16, segRead (wayStore s k) (t.getX (sxRs1 i)) 32⟩, some (i.job, i.idx), ticket⟩) i (some ticket)

theorem teIssued_mem (te : Nat) : (teIssued s i j t k te).mem = s.mem := by
  simp [teIssued, queueTe, setTeQueue]

theorem teIssued_regs (te : Nat) : (teIssued s i j t k te).regs = s.regs := by
  simp [teIssued, queueTe, setTeQueue]

theorem teQueue_teIssued (te q : Nat) : teQueue (teIssued s i j t k te) q = if q = teKey (k / 16) te then
    teQueue s q ++ [⟨⟨k / 16, te, k % 16, segRead (wayStore s k) (t.getX (sxRs1 i)) 32⟩, some (i.job, i.idx),
      tickVal j.nextTick⟩] else teQueue s q := by
  rw [teIssued, sxDone, teQueue_updThread, queueTe, teQueue_setTeQueue]
  split
  · next here => rw [here, teQueue_ticketTaken, teQueue_atWork]
  · rw [teQueue_ticketTaken, teQueue_atWork]

variable (runs : Executes s i j t k)
include runs

/-! ## What the thread is once it has a ticket -/

/-- The state in which a thread at work has taken a ticket. -/
theorem threadAt_ticketTaken_atWork (x : Ticket) : threadAt (ticketTaken (atWork s i t) i.job i.idx x) i.job i.idx =
    some { t.atWork s.time with tickets := t.tickets ++ [x] } := by
  rw [threadAt_ticketTaken, threadAt_atWork runs.thread]
  simp

/-- An instruction that is done by a thread at work. -/
theorem executed_atWork : Executed (sxDone (atWork s i t) i none) i t none :=
  executed_sxDone none (threadAt_atWork runs.thread) (by simp) (by simp) (by simp) (by simp)

theorem executed_ticketTaken (x : Ticket) (v : Option Nat) :
    Executed (sxDone (ticketTaken (atWork s i t) i.job i.idx x) i v) i t v :=
  executed_sxDone v (threadAt_ticketTaken_atWork runs x) (by simp) (by simp) (by simp) (by simp)

/-! ## `SX_TE` (R193, R204) -/

theorem exec_sxTe_of_spells {te : Nat} (word : Spells 0x0B 0 i) (engine : te = t.getX (sxRs2 i) % 2)
    (room : teFull s (teKey (k / 16) te) = false) (inside : t.getX (sxRs1 i) + 32 ≤ segBytes) :
    exec (.sxTe i) s = .next (teIssued s i j t k te) := by
  have room' : teFull (atWork s i t) (teKey (k / 16) te) = false := by rwa [teFull, teQueue_atWork, ← teFull]
  refine (congrArg Host.Outcome.next (sxRun_of_spells runs word _)).trans ?_
  simp only [← engine, room', Bool.false_eq_true, if_false, sxLoad_of_inside inside, newTicket_atWork runs, wayStore_atWork]
  rfl

theorem executed_teIssued (te : Nat) : Executed (teIssued s i j t k te) i t (some (tickVal j.nextTick)) := by
  have found : threadAt (queueTe (ticketTaken (atWork s i t) i.job i.idx ⟨tickVal j.nextTick, .te, none, 0, 0, 0⟩)
      ⟨⟨k / 16, te, k % 16, segRead (wayStore s k) (t.getX (sxRs1 i)) 32⟩, some (i.job, i.idx), tickVal j.nextTick⟩)
      i.job i.idx = _ := threadAt_ticketTaken_atWork runs _
  exact executed_sxDone _ found (by simp) (by simp) (by simp) (by simp)

/-! ## `SX_BSTORE` and `SX_BAU` (R168, R204, R205) -/

theorem exec_sxBstore_of_spells (word : Spells 0x0B 1 i)
    (inside : t.getX (sxRs1 i) + fld (t.getX (sxRs2 i)) 0 16 ≤ segBytes) :
    exec (.sxBstore i) s = .next (pokeThreads (arrive (sxDone (atWork s i t) i none) (fld (t.getX (sxRs2 i)) 61 3)
      (.store (.thread i.job i.idx) (fld (t.getX (sxRs2 i)) 32 16)
        (segRead (wayStore s k) (t.getX (sxRs1 i)) (fld (t.getX (sxRs2 i)) 0 16))))) := by
  refine (congrArg Host.Outcome.next (sxRun_of_spells runs word _)).trans ?_
  simp only [sxLoad_of_inside inside, wayStore_atWork]

theorem exec_sxBau_of_spells (word : Spells 0x0B 2 i) (inside : t.getX (sxRs1 i) + 32 ≤ segBytes)
    (window : inRanges (jWindows j.desc) (fld (t.getX (sxRs2 i)) 0 40) 1 = true)
    (backed : fld (t.getX (sxRs2 i)) 0 40 < gddrSize) :
    exec (.sxBau i) s = .next (pokeThreads (arrive (sxDone (ticketTaken (atWork s i t) i.job i.idx
        ⟨tickVal j.nextTick, .bau, none, 0, 0, 0⟩) i (some (tickVal j.nextTick))) (fld (t.getX (sxRs2 i)) 61 3)
      (.command ⟨fld (t.getX (sxRs2 i)) 61 3, .thread i.job i.idx, segRead (wayStore s k) (t.getX (sxRs1 i)) 32,
        fld (t.getX (sxRs2 i)) 0 40⟩ (tickVal j.nextTick)))) := by
  refine (congrArg Host.Outcome.next (sxRun_of_spells runs word _)).trans ?_
  simp only [sxLoad_of_inside inside, wayStore_atWork, window, Nat.not_le.mpr backed, decide_false, Bool.not_true, Bool.or_self,
    Bool.false_eq_true, if_false, newTicket_atWork runs]

/-! ## `SX_COPY` (R205, R258) -/

/-- How a copy of a program begins: at once over when it moves nothing or is not allowed (R205). -/
def copyBegins (d : Bytes) (src dst len : Nat) : Option Nat :=
  if len = 0 then some stOk else if copyOk d [] src dst len = true then none else some stAccess

theorem startCopy_atWork (src dst len : Nat) : startCopy (atWork s i t) i.job i.idx src dst len = (tickVal j.nextTick,
    ticketTaken (atWork s i t) i.job i.idx ⟨tickVal j.nextTick, .copy, copyBegins j.desc src dst len, src, dst, len⟩) := by
  obtain ⟨j', found, alike⟩ := jobAt_atWork (t := t) runs.job
  have noModel : basedRanges (atWork s i t) j.desc = [] := if_neg (by rw [runs.kind]; decide)
  rw [startCopy, found]
  simp only [alike.desc, noModel, newTicket_atWork runs]
  rfl

theorem exec_sxCopy_of_spells (word : Spells 0x5B 0 i) (starts : t.getX (sxRs3 i) = 0 ∨
      copyOk j.desc [] (t.getX (sxRs1 i)) (t.getX (sxRs2 i)) (t.getX (sxRs3 i)) = false ∨
      copyUnbacked j.desc [] (t.getX (sxRs1 i)) (t.getX (sxRs2 i)) (t.getX (sxRs3 i)) = false) :
    exec (.sxCopy i) s = .next (pokeThreads (sxDone (ticketTaken (atWork s i t) i.job i.idx
      ⟨tickVal j.nextTick, .copy, copyBegins j.desc (t.getX (sxRs1 i)) (t.getX (sxRs2 i)) (t.getX (sxRs3 i)),
        t.getX (sxRs1 i), t.getX (sxRs2 i), t.getX (sxRs3 i)⟩) i (some (tickVal j.nextTick)))) := by
  have noFault : ¬(t.getX (sxRs3 i) ≠ 0 ∧
      copyOk j.desc [] (t.getX (sxRs1 i)) (t.getX (sxRs2 i)) (t.getX (sxRs3 i)) = true ∧
      copyUnbacked j.desc [] (t.getX (sxRs1 i)) (t.getX (sxRs2 i)) (t.getX (sxRs3 i)) = true) := by
    rintro ⟨moves, ok, unbacked⟩
    rcases starts with empty | bad | backed
    · exact moves empty
    · exact absurd ok (by rw [bad]; decide)
    · exact absurd unbacked (by rw [backed]; decide)
  refine (congrArg Host.Outcome.next (sxRun_of_spells runs word _)).trans ?_
  simp only [noFault, if_false, startCopy_atWork runs]

/-- The thread holds the ticket that it has taken. -/
theorem mem_tickets_ticketTaken (x : Ticket) (v : Option Nat) {w : Thread}
    (found : threadAt (sxDone (ticketTaken (atWork s i t) i.job i.idx x) i v) i.job i.idx = some w) : x ∈ w.tickets := by
  rw [threadAt_sxDone v (threadAt_ticketTaken_atWork runs x), Option.some.injEq] at found
  rw [← found, Thread.stepped_tickets]
  exact List.mem_append_right _ (List.mem_singleton_self x)

end

/-! ## The statement -/

/-- Settles O7: each instruction runs by its rule above, and the state that it leaves is read off field by field. -/
theorem engineInstructionsIssue : Obligations.EngineInstructionsIssue := by
  intro i s j t k runs a b ticket
  refine ⟨fun word te engine room inside => ?_, fun word inside => ?_, fun word inside window backed => ?_,
    fun word starts => ?_⟩
  · exact ⟨_, exec_sxTe_of_spells runs word engine room inside, executed_teIssued runs te, teIssued_mem te, teIssued_regs te,
      teQueue_teIssued te⟩
  · exact ⟨_, exec_sxBstore_of_spells runs word inside, executed_atWork runs, by simp, by simp, by simp⟩
  · exact ⟨_, exec_sxBau_of_spells runs word inside window backed, executed_ticketTaken runs _ _, by simp, by simp,
      by simp⟩
  · exact ⟨_, exec_sxCopy_of_spells runs word starts, executed_ticketTaken runs _ _, by simp, by simp,
      fun w found => mem_tickets_ticketTaken runs _ _ found⟩

end Sys2Proof.Machine

/-!
PROOFS. What a thread runs ahead of an instruction of an attention core, and how it waits (R184, R202 to R204, R206, R212,
R258).
-/

namespace Sys2Proof.Machine

/-! ## What a thread runs ahead (R202, R203, R258) -/

@[simp] theorem writeMem_ac (s : State) (a : Nat) (d : Bytes) : (writeMem s a d).ac = s.ac := by
  refine keep_writeMem (P := fun u => u.ac = s.ac) (fun u a b kept => ?_) rfl
  unfold writeByte
  split <;> exact kept

section
variable {s : State} {n i : Nat} {j : Job} {t : Thread}

theorem threadAt_sxNext (found : threadAt s n i = some t) (f : Thread → Thread) :
    threadAt (sxNext s n i f) n i = some { f t with pc := t.pc + 4 } := by
  rw [sxNext, threadAt_updThread_same, found]
  rfl

theorem threadAt_sxAct_csr (thread : threadAt s n i = some t) {c v : Nat} (known : threadCsr s n i c = some v) (k rd : Nat) :
    threadAt (sxAct n i k s (.csr rd c)) n i = some { t.setX rd v with pc := t.pc + 4 } := by
  simp only [sxAct, known]
  exact threadAt_sxNext thread _

variable (job : jobAt s n = some j)
include job

/-- An access that Table 07.5 allows, of no line out of service, reaches its bytes. -/
theorem sxAccess_of_ok {mcause a len : Nat} {w : Where} (space : spaceOf j.desc [] a len = some w)
    (ok : accessOk j.desc mcause a len = true) (serves : (w.npa.bind fun p => rangeOut s p len) = none) (f : Where → State) :
    sxAccess s n i mcause a len f = f w := by
  simp only [sxAccess, job, space, ok, serves, if_true]

/-- Another access traps (R203). -/
theorem sxAccess_of_bad {mcause a len : Nat} (bad : accessOk j.desc mcause a len = false) (f : Where → State) :
    sxAccess s n i mcause a len f = trapJob s n i mcause a := by
  rw [sxAccess, job]
  cases space : spaceOf j.desc [] a len <;> simp only [space, bad, Bool.false_eq_true, if_false]

theorem sxAct_jump_of_bad {p : Nat} (bad : accessOk j.desc 1 p 4 = false) (k : Nat) :
    sxAct n i k s (.jump p) = trapJob s n i 1 p := by
  simp only [sxAct, job, bad, Bool.false_eq_true, if_false]

variable (thread : threadAt s n i = some t)
include thread

theorem threadAt_sxAct_jump {p : Nat} (ok : accessOk j.desc 1 p 4 = true) (k : Nat) :
    threadAt (sxAct n i k s (.jump p)) n i = some { t with pc := p } := by
  simp only [sxAct, job, ok, if_true, threadAt_updThread_same, thread, Option.map_some]

section
variable {rd a len : Nat} {x : Bool} {w : Where} (space : spaceOf j.desc [] a len = some w)
  (ok : accessOk j.desc 5 a len = true)
include space ok

theorem threadAt_sxAct_load_segment {b : Nat} (segment : w = .segment b) (k : Nat) :
    threadAt (sxAct n i k s (.load rd a len x)) n i =
      some { t.setX rd (loadValue (segRead (wayStore s k) b len) x) with pc := t.pc + 4 } := by
  subst segment
  rw [sxAct, sxAccess_of_ok job space ok rfl]
  exact threadAt_sxNext thread _

theorem threadAt_sxAct_load_node {p : Nat} (node : w.npa = some p) (serves : rangeOut s p len = none) (k : Nat) :
    threadAt (sxAct n i k s (.load rd a len x)) n i =
      some { t.setX rd (loadValue (readMem s p len) x) with pc := t.pc + 4 } := by
  rw [sxAct, sxAccess_of_ok job space ok (by rw [node]; exact serves), threadAt_sxNext thread]
  cases w with
  | segment _ => cases node
  | _ => obtain rfl := Option.some.inj node; rfl

end

section
variable {a : Nat} {d : Bytes} {w : Where} (space : spaceOf j.desc [] a d.length = some w)
  (ok : accessOk j.desc 7 a d.length = true)
include space ok

theorem sxAct_store_segment {b : Nat} (segment : w = .segment b) (k : Nat) :
    threadAt (sxAct n i k s (.store a d)) n i = some { t with pc := t.pc + 4 } ∧
      wayStore (sxAct n i k s (.store a d)) k = segWrite (wayStore s k) b d := by
  subst segment
  rw [sxAct, sxAccess_of_ok job space ok rfl]
  refine ⟨threadAt_sxNext thread _, ?_⟩
  rw [sxNext, wayStore_updThread, wayStore_setWay, if_pos rfl]

theorem sxAct_store_node {p : Nat} (node : w.npa = some p) (serves : rangeOut s p d.length = none) (k : Nat) :
    threadAt (sxAct n i k s (.store a d)) n i = some { t with pc := t.pc + 4 } ∧
      (sxAct n i k s (.store a d)).mem = (writeMem s p d).mem := by
  have kept : threadAt (writeMem s p d) n i = some t := by rw [threadAt, jobAt, writeMem_ac]; exact thread
  have written : sxAct n i k s (.store a d) = sxNext (writeMem s p d) n i id := by
    rw [sxAct, sxAccess_of_ok job space ok (by rw [node]; exact serves)]
    cases w with
    | segment _ => cases node
    | _ => obtain rfl := Option.some.inj node; rfl
  rw [written]
  exact ⟨threadAt_sxNext kept _, rfl⟩

end

end

/-! ## Waits (R204, R206, R212) -/

/-- The condition of a thread that waits: blocked, when nothing but an external event ends the wait (R206). -/
def waitCond (j : Job) (t : Thread) (a : Await) : Cond :=
  if externalWait j t a = true ∧ t.engines = false then .blocked else .internalWait

section
variable {s u : State} {j j' : Job} {t t' : Thread} (alike : j.Alike j') (tickets : t'.tickets = t.tickets)

include tickets in
theorem openTickets_congr : t'.open_ = t.open_ := by rw [Thread.open_, tickets, Thread.open_]

include tickets in
theorem engines_congr : t'.engines = t.engines := by rw [Thread.engines, openTickets_congr tickets, Thread.engines]

include alike tickets

theorem awaited_congr (time : u.time = s.time) (recv : u.ft = s.ft) (a : Await) : awaited u j' t' a = awaited s j t a := by
  cases a with
  | ticket id => rw [awaited, alike.ticket, awaited]
  | slot k => rw [awaited, recv, awaited]
  | time v => rw [awaited, time, awaited]
  | step => rw [awaited, openTickets_congr tickets, awaited]

theorem externalWait_congr (a : Await) : externalWait j' t' a = externalWait j t a := by
  cases a with
  | ticket id => rw [externalWait, externalTicket, alike.ticket, externalWait, externalTicket]
  | slot k => rfl
  | time v => rfl
  | step => rw [externalWait, openTickets_congr tickets, externalWait]

theorem waitCond_congr (a : Await) : waitCond j' t' a = waitCond j t a := by
  rw [waitCond, externalWait_congr alike tickets, engines_congr tickets, waitCond]

end

section
variable {s : State} {j : Job} {t : Thread}

theorem awaited_time_of_lt {v : Nat} (early : s.time < v) : awaited s j t (.time v) = none := if_neg (Nat.not_le.mpr early)

theorem awaited_step_of_open (busy : t.open_ ≠ []) : awaited s j t .step = none :=
  if_neg (by rwa [List.isEmpty_iff])

end

/-- A thread that begins to wait, before its event is looked for. -/
def Thread.awaiting (t : Thread) (rd : Nat) (a : Await) (now : Nat) : Thread :=
  { t with await := some (rd, a), cond := .internalWait, since := now }

/-- The thread awaits the event, which is not yet looked for. -/
def awaitSet (s : State) (n i rd : Nat) (a : Await) : State := updThread s n i fun t => t.awaiting rd a s.time

theorem beginWait_eq (s : State) (n i rd : Nat) (a : Await) :
    beginWait s n i rd a = settleThread (awaitSet s n i rd a) n i := rfl

section
variable {s : State} {n i rd : Nat} {j : Job} {t : Thread} {a : Await}

/-- A thread whose event has not come stays as it is, but for its condition. -/
theorem threadAt_settleThread_of_unmet (job : jobAt s n = some j) (thread : threadAt s n i = some t)
    (waits : t.await = some (rd, a)) (internal : t.cond = .internalWait) (unmet : awaited s j t a = none) :
    ∃ t', threadAt (settleThread s n i) n i = some t' ∧ t'.await = t.await ∧ t'.pc = t.pc ∧ t'.x = t.x ∧
      t'.cond = waitCond j t a := by
  have settles : settleThread s n i =
      if externalWait j t a = true ∧ t.engines = false then setCond s n i .blocked else s := by
    simp only [settleThread, job, thread, waits, unmet, internal, true_and]
  rw [settles, waitCond]
  split
  · refine ⟨{ t with cond := .blocked, since := s.time }, ?_, rfl, rfl, rfl, rfl⟩
    rw [setCond, threadAt_updThread_same, thread]
    rfl
  · exact ⟨t, thread, rfl, rfl, rfl, internal⟩

theorem threadAt_beginWait_of_unmet (job : ∃ j', jobAt s n = some j' ∧ j.Alike j') (thread : threadAt s n i = some t)
    (unmet : awaited s j t a = none) :
    ∃ t', threadAt (beginWait s n i rd a) n i = some t' ∧ t'.await = some (rd, a) ∧ t'.pc = t.pc ∧ t'.x = t.x ∧
      t'.cond = waitCond j t a := by
  have thread' : threadAt (awaitSet s n i rd a) n i = some (t.awaiting rd a s.time) := by
    rw [awaitSet, threadAt_updThread_same, thread]
    rfl
  obtain ⟨j', job', alike⟩ : ∃ j', jobAt (awaitSet s n i rd a) n = some j' ∧ j.Alike j' :=
    jobAt_updThread_alike (by exact fun _ => rfl) job
  have unmet' : awaited (awaitSet s n i rd a) j' (t.awaiting rd a s.time) a = none :=
    (awaited_congr (s := s) alike rfl rfl rfl a).trans unmet
  rw [← waitCond_congr (t := t) (t' := t.awaiting rd a s.time) alike rfl a, beginWait_eq]
  exact threadAt_settleThread_of_unmet job' thread' rfl rfl unmet'

end

/-- Where a thread waits once an instruction has begun its wait: at the next instruction. -/
def WaitsAt (w : State) (i : SxOp) (j : Job) (t : Thread) (rd : Nat) (a : Await) : Prop :=
  ∃ t', threadAt w i.job i.idx = some t' ∧ t'.await = some (rd, a) ∧ t'.pc = t.pc + 4 ∧ t'.x = t.x ∧
    t'.cond = waitCond j t a

section
variable {s : State} {i : SxOp} {j : Job} {t : Thread} {k : Nat}

theorem awaitKnown_atWork (a : Await) : awaitKnown (atWork s i t) j a = awaitKnown s j a := by
  cases a <;> simp only [awaitKnown, atWork_ft]

variable (runs : Executes s i j t k)
include runs

theorem waitsAt_beginWait {a : Await} (unmet : awaited s j t a = none) (rd : Nat) :
    WaitsAt (beginWait (sxDone (atWork s i t) i none) i.job i.idx rd a) i j t rd a := by
  have thread := threadAt_sxDone none (threadAt_atWork runs.thread)
  have job : ∃ j', jobAt (sxDone (atWork s i t) i none) i.job = some j' ∧ j.Alike j' :=
    jobAt_updThread_alike (by exact fun _ => rfl) (jobAt_atWork runs.job)
  have unmet' : awaited (sxDone (atWork s i t) i none) j ((t.atWork s.time).stepped i none) a = none :=
    (awaited_congr (s := s) (t := t) (.refl j) (by simp) (by simp) (by simp) a).trans unmet
  obtain ⟨t', found, await, pc, x, cond⟩ := threadAt_beginWait_of_unmet (rd := rd) job thread unmet'
  exact ⟨t', found, await, by simpa using pc, by simpa [Thread.stepped] using x,
    cond.trans (waitCond_congr (.refl j) (by simp) a)⟩

theorem exec_sxWait_of_known (word : Spells 0x0B 3 i) (known : awaitKnown s j (awaitOf (t.getX (sxRs1 i))) = true) :
    exec (.sxWait i) s = .next (pokeThreads (beginWait (sxDone (atWork s i t) i none) i.job i.idx (sxRd i)
      (awaitOf (t.getX (sxRs1 i))))) := by
  refine (congrArg Host.Outcome.next (sxRun_of_spells runs word _)).trans ?_
  simp only [awaitKnown_atWork, known, if_true]

theorem exec_sxSleep_of_spells (word : Spells 0x0B 5 i) : exec (.sxSleep i) s =
    .next (beginWait (sxDone (atWork s i t) i none) i.job i.idx 0 (.time (t.getX (sxRs1 i)))) :=
  congrArg Host.Outcome.next (sxRun_of_spells runs word _)

theorem exec_sxStep_of_spells (word : Spells 0x0B 6 i) : exec (.sxStep i) s =
    .next (beginWait (sxDone (atWork s i t) i none) i.job i.idx 0 .step) :=
  congrArg Host.Outcome.next (sxRun_of_spells runs word _)

end

/-! ## The statement -/

/-- Settles O8: a row looks ahead by `row_runs_ahead`, what runs there acts by the rules above, and a wait begins by its own. -/
theorem threadsRunAheadAndWait : Obligations.ThreadsRunAheadAndWait := by
  refine ⟨fun i s j t k runs => ?_, fun i s j t k runs => ?_⟩
  · intro n o ahead row gives
    have job := runs.job
    have thread := runs.thread
    refine ⟨row_runs_ahead runs (fun _ _ => rfl) rfl, row_runs_ahead runs (fun _ _ => rfl) rfl,
      row_runs_ahead runs (fun _ _ => rfl) rfl, row_runs_ahead runs (fun _ _ => rfl) rfl,
      row_runs_ahead runs (fun _ _ => rfl) rfl, row_runs_ahead runs (fun _ _ => rfl) rfl,
      row_runs_ahead runs (fun _ _ => rfl) rfl, row_runs_ahead runs (fun _ _ => rfl) rfl,
      row_runs_ahead runs (fun _ _ => rfl) rfl, ?_, ?_, ?_, ?_, ?_, ?_, ?_, ?_, ?_, ?_⟩
    · exact fun rd v => threadAt_sxNext thread _
    · exact threadAt_sxAct_csr thread (by simp [threadCsr, job]) k 1
    · exact threadAt_sxAct_csr thread (by simp [threadCsr, job]) k 1
    · exact threadAt_sxAct_csr thread (by simp [threadCsr, job]) k 1
    · exact fun rd a len x w space ok => ⟨fun b segment => threadAt_sxAct_load_segment job thread space ok segment k,
        fun p node serves => threadAt_sxAct_load_node job thread space ok node serves k⟩
    · exact fun a d w space ok => ⟨fun b segment => sxAct_store_segment job thread space ok segment k,
        fun p node serves => sxAct_store_node job thread space ok node serves k⟩
    · exact fun a len bad rd x => sxAccess_of_bad job bad _
    · exact fun a d bad => sxAccess_of_bad job bad _
    · exact fun p bad => sxAct_jump_of_bad job bad k
    · exact fun p ok => threadAt_sxAct_jump job thread ok k
  · refine ⟨fun word known unmet => ?_, fun word early => ?_, fun word busy => ?_⟩
    · exact ⟨_, exec_sxWait_of_known runs word known, waitsAt_beginWait runs unmet _⟩
    · exact ⟨_, exec_sxSleep_of_spells runs word, waitsAt_beginWait runs (awaited_time_of_lt early) _⟩
    · exact ⟨_, exec_sxStep_of_spells runs word, waitsAt_beginWait runs (awaited_step_of_open busy) _⟩

end Sys2Proof.Machine

/-!
PROOFS. What the bank buffer dies do: words and bytes arrive, commands get their permits and complete, links retrain, and
channels refresh (R160, R161, R168, R169, R176 to R178, R182 to R186, R269, R387).
-/

namespace Sys2Proof.Machine

/-! ## Arrival (R168, R169) -/

section
variable {s : State} (up : awake s = true)
include up

/-- A command word is taken by its own row, and by any row when its opcode has none. -/
theorem bauRow_of_spells {b : BauCmd} (die : b.bbd < 8) {op : Nat}
    (spells : bOp b.word = op ∨ bOp b.word = 0 ∨ 8 < bOp b.word) :
    bauRow op b s = pokeThreads (arrive s b.bbd (.command b 0)) := by
  have taken : ¬(8 ≤ b.bbd ∨ (bOp b.word ≠ op ∧ 1 ≤ bOp b.word ∧ bOp b.word ≤ 8)) := by omega
  rw [bauRow, live_of_awake up, if_neg taken]

theorem exec_bauStoreWrite_of_lt {b : Nat} (die : b < 8) (issuer : Issuer) (off : Nat) (data : Bytes) :
    exec (.bauStoreWrite b issuer off data) s = .next (pokeThreads (arrive s b (.store issuer off data))) := by
  refine (next_live_of_awake up _).trans ?_
  rw [if_neg (Nat.not_le.mpr die)]

end

/-- Settles O34: each of the eight rows takes the word as `bauRow` does. -/
theorem bankCommandsArrive : Obligations.BankCommandsArrive := by
  intro b s up die u spells
  have row {op : Nat} (word : spells op) : (.next (bauRow op b s) : Host.Outcome State Fault Refusal) = .next u :=
    congrArg _ (bauRow_of_spells up die word)
  exact ⟨row, row, row, row, row, row, row, row, exec_bauStoreWrite_of_lt up die⟩

/-! ## Permits and the end of a command (R176 to R178, R182, R183) -/

section
variable {s : State} {b : Nat} {e : BauEntry} {rest : List BauEntry} (queued : queuedCmds (bbdOf s b) = e :: rest)
  (link : linkUp s b = true) (ordered : orderedOk (bbdOf s b) e = true)
  (unlocked : ((lockFor s e).map (slotLocked s)).getD false = false)
include queued link ordered unlocked

/-- The oldest request, which nothing else holds up, waits for permits while too few are free (R178). -/
theorem awaitsPermits_of_unlocked :
    awaitsPermits s b = decide (permitLimit s b < permitsHeld (bbdOf s b) + bSpan e.cmd.word) := by
  simp only [awaitsPermits, queued, link, ordered, unlocked, Bool.not_false, Bool.and_self, Bool.true_and]

variable (plain : requantRef e = none)
include plain

theorem grantOldest_of_free (free : permitsHeld (bbdOf s b) + bSpan e.cmd.word ≤ permitLimit s b) {l : List Nat}
    (baus : bausFor s b e.cmd.word = some l) : grantOldest s b = startBau s b e l := by
  have noFlip : flipRequant s b e = .ok s := by rw [flipRequant, plain]
  have enough : awaitsPermits s b = false := by
    rw [awaitsPermits_of_unlocked queued link ordered unlocked, decide_eq_false (Nat.not_lt.mpr free)]
  rw [grantOldest, queued]
  simp only [link, ordered, noFlip, unlocked, enough, baus, Bool.not_true, Bool.or_self, Bool.false_eq_true, if_false]

theorem grantOldest_of_few (few : permitLimit s b < permitsHeld (bbdOf s b) + bSpan e.cmd.word) : grantOldest s b = s := by
  have noFlip : flipRequant s b e = .ok s := by rw [flipRequant, plain]
  have waits : awaitsPermits s b = true := by
    rw [awaitsPermits_of_unlocked queued link ordered unlocked, decide_eq_true few]
  rw [grantOldest, queued]
  simp only [link, ordered, noFlip, waits, Bool.not_true, Bool.or_self, Bool.or_true, Bool.false_eq_true, if_true, if_false]

end

@[simp] theorem linkReplays_bb (s : State) (b n : Nat) : (linkReplays s b n).bb = s.bb :=
  keep_linkReplays (P := fun t => t.bb = s.bb) (fun _ _ h => h) (fun _ _ h => h) (fun _ _ h => h) (fun _ _ _ h => h) rfl

@[simp] theorem linkReplays_time (s : State) (b n : Nat) : (linkReplays s b n).time = s.time :=
  keep_linkReplays (P := fun t => t.time = s.time) (fun _ _ h => h) (fun _ _ h => h) (fun _ _ h => h) (fun _ _ _ h => h) rfl

@[simp] theorem bbdOf_linkReplays (s : State) (b n c : Nat) : bbdOf (linkReplays s b n) c = bbdOf s c := by
  rw [bbdOf, linkReplays_bb, bbdOf]

theorem exec_permitGrant_of_awake {s : State} (up : awake s = true) (b : Nat) :
    exec (.permitGrant b) s = .next (pokeThreads (pokeBbd (grantOldest s b) b)) := next_live_of_awake up _

theorem exec_bauCompletion_of_running {s : State} {b bau replays : Nat} {phase : BauPhase} {reads : Reads} {e : BauEntry}
    (up : awake s = true) (die : b < 8) (running : ((bbdOf s b).queue.find? fun e => e.baus.contains bau) = some e)
    (link : linkUp (linkReplays s b replays) b = true)
    (streaming : (streams (linkReplays s b replays) e).any
      (fun c => (refreshOf (linkReplays s b replays) c).paused) = false) :
    exec (.bauCompletion b ⟨bau, phase, replays, reads⟩) s =
      .next (pokeThreads (bauReport (takeReads (linkReplays s b replays) reads) b e phase)) := by
  refine (next_live_of_awake up _).trans ?_
  simp only [Nat.not_le.mpr die, if_false, bbdOf_linkReplays, running, link, streaming, Bool.not_true, Bool.or_self,
    Bool.false_eq_true]

/-- Settles O35: a grant is of the oldest request, by the permits that are free; a report, of what runs on the BAU. -/
theorem bankCommandsRunAndComplete : Obligations.BankCommandsRunAndComplete := by
  intro b s up
  refine ⟨fun e rest queued link ordered plain unlocked => ⟨fun free l baus => ?_, fun few => ?_⟩,
    fun bau phase replays reads e die running => ?_⟩
  · rw [exec_permitGrant_of_awake up, grantOldest_of_free queued link ordered unlocked plain free baus, startBau]
    cases lockFor s e <;> rfl
  · rw [exec_permitGrant_of_awake up, grantOldest_of_few queued link ordered unlocked plain few]
  · intro u link streaming
    exact exec_bauCompletion_of_running up die running link streaming

/-! ## Links that retrain (R160, R161, R387) -/

theorem not_due_of_lt {s : State} {t limit : Nat} (h : elapsed s t < limit) : due s t limit = false :=
  decide_eq_false (Nat.not_le.mpr h)

theorem linkReplays_succ (s : State) (b n : Nat) : linkReplays s b (n + 1) =
    linkReplays (tally (raise1 s (5 + b) fBbEventLinkReplay) (306 + b) (4 * 256)) b n := rfl

section
variable {s : State} {b : Nat} (up : awake s = true)
include up

theorem exec_d2dLinkRetrain_of_up (die : b < 8) (link : linkUp s b = true) (n : Nat) : exec (.d2dLinkRetrain ⟨b, n⟩) s =
    .next (tally (updBbd (raise1 (linkReplays s b (n + 64)) (5 + b) fBbEventLinkRetrain) b
      fun x => { x with retrain := some s.time }) (306 + b) (256 * 256)) := by
  have acts : ¬(8 ≤ b ∨ linkUp s b = false) := by rw [link]; simpa using die
  refine (next_live_of_awake up _).trans ?_
  simp only [acts, if_false, raise1_time, linkReplays_time]

variable {t : Nat} (retrains : (bbdOf s b).retrain = some t)
include retrains

theorem exec_d2dRetrainDone_of_lt (early : elapsed s t < 9400) : exec (.d2dRetrainDone b) s =
    .next (pokeThreads (pokePlaced (pokeBbd (updBbd s b fun x => { x with retrain := none }) b))) := by
  refine (next_live_of_awake up _).trans ?_
  simp only [retrains, retrainLimit, not_due_of_lt early, Bool.false_eq_true, if_false]

theorem exec_bbdOutOfService_of_le (late : 9400 ≤ elapsed s t) :
    exec (.bbdOutOfService b) s = .next (pokeThreads (pokePlaced (bbdOut s b))) := by
  refine (next_live_of_awake up _).trans ?_
  simp only [retrains, retrainLimit, due_of_le late, Bool.not_true, Bool.false_eq_true, if_false]

end

/-- A flag in both copies of `GS_EVENT` leaves every register but those of the flags of Table 17.4. -/
theorem regGet_raiseGs (s : State) (f : Fld) {o : Nat} (event1 : o ≠ rGsEvent1) (event0 : o ≠ rGsEvent0)
    (count1 : o ≠ rGsEventCount1 f.lo) (count0 : o ≠ rGsEventCount0 f.lo) : regGet (raiseGs s f) o = regGet s o := by
  have first : regGet (raise s 1 0 f.lo) o = regGet s o :=
    raise_regGet s 1 0 f.lo (fun e => event1 (Option.some.inj e).symm) count1
  rw [raiseGs, raise_regGet _ 0 0 f.lo (fun e => event0 (Option.some.inj e).symm) count0, first]

/-- A field of a field. -/
theorem fld_fld {k v w : Nat} (within : k + v ≤ w) (n lo : Nat) : fld (fld n lo w) k v = fld n (lo + k) v := by
  obtain ⟨m, rfl⟩ := Nat.exists_eq_add_of_le within
  unfold fld
  rw [Nat.add_assoc, pow_add, Nat.mod_mul_right_div_self, Nat.div_div_eq_div_mul, ← pow_add,
    Nat.mod_mod_of_dvd _ (pow_dvd_pow 2 (Nat.le_add_right v m))]

/-- A die whose bit of `GS_STATUS` is set is out of service (R161). -/
theorem bbdUp_setF_out {b : Nat} (die : b < 8) (s : State) : bbdUp (setF s rGsStatus ⟨15 + b, 1⟩ 1) b = false := by
  have bit : getF (setF s rGsStatus ⟨15 + b, 1⟩ 1) rGsStatus ⟨15 + b, 1⟩ = 1 :=
    getF_setF_same s rGsStatus ⟨15 + b, 1⟩ 1 (show 15 + b + 1 ≤ 64 by omega)
  have out : fld (getF (setF s rGsStatus ⟨15 + b, 1⟩ 1) rGsStatus fGsStatusBbdOut) b 1 = 1 :=
    (fld_fld (show b + 1 ≤ 8 by omega) _ _).trans bit
  rw [bbdUp, out]
  rfl

/-- A die that leaves service: its link is down, and the fault is reported (R161). -/
def bbdLeaves (s : State) (b : Nat) : State :=
  raiseGs (setF (setB (updBbd s b fun x => { x with retrain := none }) (rBbStatus b) fBbStatusLinkUp false) rGsStatus
    ⟨15 + b, 1⟩ 1) fGsEvent1BbdOut

theorem bbdOut_eq (s : State) (b : Nat) : bbdOut s b = pokeBbd (bbdLeaves s b) b := rfl

theorem bbdUp_bbdLeaves {b : Nat} (die : b < 8) (s : State) : bbdUp (bbdLeaves s b) b = false := by
  rw [bbdUp, getF, bbdLeaves, regGet_raiseGs _ _ (by decide) (by decide) (by decide) (by decide), ← getF, ← bbdUp]
  exact bbdUp_setF_out die _

theorem pokeBbd_of_out {s : State} {b : Nat} (out : bbdUp s b = false) : pokeBbd s b = bbdFails s b := by
  rw [pokeBbd, out]
  rfl

/-! ## Channels that refresh (R183, R185, R186) -/

section
variable {s : State} (up : awake s = true) {ch : Nat}
include up

theorem exec_refreshDue_of_running (channel : ch < 128) (runs : (refreshOf s ch).paused = false) :
    exec (.refreshDue ch) s = .next (setRefresh s ch
      ⟨if (streamers s ch).isEmpty = true then 0 else min 4 ((refreshOf s ch).postponed + 1), false⟩) := by
  refine (next_live_of_awake up _).trans ?_
  simp only [Nat.not_le.mpr channel, runs, Bool.false_eq_true, if_false]
  split <;> rfl

theorem exec_refreshPause_of_postponed (channel : ch < 128) (runs : (refreshOf s ch).paused = false)
    (postponed : 4 ≤ (refreshOf s ch).postponed) (streamed : (streamers s ch).isEmpty = false)
    (unlocked : (streamers s ch).any (fun e => e.lock.isSome) = false) :
    exec (.refreshPause ch) s = .next (bumpF (raise1 (setRefresh s ch ⟨(refreshOf s ch).postponed, true⟩) (5 + ch / 16)
      fBbEventRefreshPause) (rBbRefreshPause (ch / 16)) fBbRefreshPausePauses 1) := by
  refine (next_live_of_awake up _).trans ?_
  simp only [Nat.not_le.mpr channel, Nat.not_lt.mpr postponed, runs, streamed, unlocked, Bool.false_eq_true, or_self, if_false]

theorem exec_refreshResume_of_paused (paused : (refreshOf s ch).paused = true) (cycles : Nat) :
    exec (.refreshResume ch cycles) s =
      .next (bumpF (setRefresh s ch ⟨0, false⟩) (rBbRefreshPause (ch / 16)) fBbRefreshPauseCycles cycles) := by
  refine (next_live_of_awake up _).trans ?_
  rw [if_pos paused]

end

/-- Settles O36: each event of a link and of a channel by its own rule above. -/
theorem dieLinksRetrainAndChannelsRefresh : Obligations.DieLinksRetrainAndChannelsRefresh := by
  refine ⟨fun b s up => ⟨?_, ?_, ?_, ?_⟩, fun ch cycles s up channel => ⟨?_, ?_, ?_⟩⟩
  · exact fun n die link => exec_d2dLinkRetrain_of_up up die link n
  · exact linkReplays_succ s b
  · exact fun t retrains early => exec_d2dRetrainDone_of_lt up retrains early
  · intro t retrains late u
    refine ⟨exec_bbdOutOfService_of_le up retrains late, fun die => ?_⟩
    have out : bbdUp u b = false := bbdUp_bbdLeaves die s
    exact ⟨out, pokeBbd_of_out out⟩
  · exact fun runs => exec_refreshDue_of_running up channel runs
  · exact fun runs postponed streamed unlocked => exec_refreshPause_of_postponed up channel runs postponed streamed unlocked
  · exact fun paused => exec_refreshResume_of_paused up paused cycles

end Sys2Proof.Machine

/-!
PROOFS. How a tensor engine takes a command and completes the one at the head of its queue (R193, R194, R196, R198).
-/

namespace Sys2Proof.Machine

/-! ## A command joins its queue (R193) -/

/-- A row queues the words of its own opcode, and of the opcodes that are none, while there is room. -/
theorem teRow_of_spells {t : TeCmd} {s : State} (up : awake s = true) (core : t.ac < activeAcs s) (way : t.way < 16)
    (room : teFull s (teKey t.ac t.te) = false) {op : Nat} (spells : tOp t.word = op ∨ tOp t.word = 0 ∨ 5 < tOp t.word) :
    teRow op t s = queueTe s ⟨t, none, 0⟩ := by
  have taken : ¬(tOp t.word ≠ op ∧ 1 ≤ tOp t.word ∧ tOp t.word ≤ 5) := by omega
  rw [teRow, live_of_awake up]
  simp only [Nat.not_le.mpr core, Nat.not_le.mpr way, taken, room, Bool.false_eq_true, or_self, if_false]

/-! ## A ticket completes (R204) -/

/-- The thread once the ticket with this number has the status. -/
def Thread.ticketDone (t : Thread) (id st : Nat) : Thread :=
  { t with tickets := t.tickets.map fun x => if x.id = id then { x with status := some st } else x }

/-- The ticket of a command completes, when a thread issued it. -/
def ticketEnds (s : State) (issuer : Option (Nat × Nat)) (id st : Nat) : State :=
  match issuer with
  | some (n, i) => setTicket s n i id st
  | none => s

section
variable {s : State} {issuer : Option (Nat × Nat)} {id st : Nat}

@[simp] theorem ticketEnds_out : (ticketEnds s issuer id st).out = s.out := by cases issuer <;> rfl
@[simp] theorem ticketEnds_mem : (ticketEnds s issuer id st).mem = s.mem := by cases issuer <;> rfl
@[simp] theorem ticketEnds_regs : (ticketEnds s issuer id st).regs = s.regs := by cases issuer <;> rfl
@[simp] theorem teQueue_ticketEnds (k : Nat) : teQueue (ticketEnds s issuer id st) k = teQueue s k := by cases issuer <;> rfl
@[simp] theorem wayStore_ticketEnds (k : Nat) : wayStore (ticketEnds s issuer id st) k = wayStore s k := by cases issuer <;> rfl

theorem threadAt_ticketEnds_same {n i : Nat} (named : issuer = some (n, i)) :
    threadAt (ticketEnds s issuer id st) n i = (threadAt s n i).map fun t => t.ticketDone id st := by
  rw [named]
  exact threadAt_updThread_same n i _

theorem threadAt_ticketEnds_ne {n i : Nat} (other : issuer ≠ some (n, i)) :
    threadAt (ticketEnds s issuer id st) n i = threadAt s n i := by
  cases issuer with
  | none => rfl
  | some who =>
    obtain ⟨m, k⟩ := who
    refine threadAt_updThread_ne m k n i _ fun same => other ?_
    obtain ⟨rfl, rfl⟩ := same
    rfl

end

/-! ## The command at the head of a queue completes (R196, R198) -/

/-- The status that a tensor engine returns with a result. -/
def teStatus : Except Nat Bytes → Nat
  | .ok _ => stOk
  | .error st => st

/-- The result of a command is written to a way from an offset; a refusal writes nothing (R196). -/
def teWritten (s : State) (way off : Nat) (r : Except Nat Bytes) : State :=
  match r with
  | .ok b => setWay s way (segWrite (wayStore s way) off b)
  | .error _ => s

section
variable {s : State} {way off : Nat} {r : Except Nat Bytes}

@[simp] theorem teWritten_out : (teWritten s way off r).out = s.out := by cases r <;> rfl
@[simp] theorem teWritten_mem : (teWritten s way off r).mem = s.mem := by cases r <;> rfl
@[simp] theorem teWritten_regs : (teWritten s way off r).regs = s.regs := by cases r <;> rfl
@[simp] theorem teQueue_teWritten (k : Nat) : teQueue (teWritten s way off r) k = teQueue s k := by cases r <;> rfl
@[simp] theorem threadAt_teWritten (n i : Nat) : threadAt (teWritten s way off r) n i = threadAt s n i := by cases r <;> rfl

theorem wayStore_teWritten (k : Nat) : wayStore (teWritten s way off r) k = match r with
    | .ok b => if k = way then segWrite (wayStore s k) off b else wayStore s k
    | .error _ => wayStore s k := by
  cases r with
  | error st => rfl
  | ok b =>
    rw [teWritten, wayStore_setWay]
    split
    · next here => rw [here]
    · rfl

end

/-- The queue without its head, once that command's result is in its way and its tag and status have gone out. -/
def teReturned (s : State) (k : Nat) (e : TeEntry) (rest : List TeEntry) (r : Except Nat Bytes) : State :=
  emit (teWritten (setTeQueue s k rest) (16 * e.cmd.ac + e.cmd.way) (tCOff e.cmd.word) r)
    (.teDone e.cmd.ac (k % 2) (tTag e.cmd.word) (teStatus r))

section
variable {s : State} {k : Nat} {e : TeEntry} {rest : List TeEntry} {r : Except Nat Bytes}

@[simp] theorem teReturned_mem : (teReturned s k e rest r).mem = s.mem := teWritten_mem
@[simp] theorem teReturned_regs : (teReturned s k e rest r).regs = s.regs := teWritten_regs
@[simp] theorem threadAt_teReturned (n i : Nat) : threadAt (teReturned s k e rest r) n i = threadAt s n i :=
  threadAt_teWritten n i

theorem teReturned_out :
    (teReturned s k e rest r).out = s.out ++ [.teDone e.cmd.ac (k % 2) (tTag e.cmd.word) (teStatus r)] :=
  congrArg (· ++ _) teWritten_out

theorem teQueue_teReturned (j : Nat) : teQueue (teReturned s k e rest r) j = if j = k then rest else teQueue s j :=
  (teQueue_teWritten j).trans (teQueue_setTeQueue k j rest)

theorem wayStore_teReturned (j : Nat) : wayStore (teReturned s k e rest r) j = match r with
    | .ok b => if j = 16 * e.cmd.ac + e.cmd.way then segWrite (wayStore s j) (tCOff e.cmd.word) b else wayStore s j
    | .error _ => wayStore s j := wayStore_teWritten j

end

theorem completeTe_of_head {s : State} {k : Nat} {e : TeEntry} {rest : List TeEntry} (head : teQueue s k = e :: rest) :
    let r := teResult ⟨wayStore s (16 * e.cmd.ac + e.cmd.way), e.cmd.word⟩
    completeTe s k = ticketEnds (teReturned s k e rest r) e.issuer e.ticket (teStatus r) := by
  rw [completeTe, head]
  generalize result : teResult ⟨wayStore s (16 * e.cmd.ac + e.cmd.way), e.cmd.word⟩ = r
  cases r <;> simp only [result] <;> rfl

theorem exec_teComplete_of_awake {s : State} (up : awake s = true) (ac te : Nat) :
    exec (.teComplete ac te) s = .next (pokeThreads (completeTe s (teKey ac te))) := next_live_of_awake up _

/-- The engine of a queue: its number in the core is the low bit of the queue's. -/
theorem teKey_mod_two (ac te : Nat) : teKey ac te % 2 = te % 2 := by
  rw [teKey, Nat.mul_add_mod, Nat.mod_mod]

/-! ## The statement -/

/-- Settles O6: a row queues the word by `teRow_of_spells`, and the head of a queue completes by `completeTe_of_head`. -/
theorem tensorCommandsQueueAndComplete : Obligations.TensorCommandsQueueAndComplete := by
  refine ⟨fun t s up core way room => ?_, fun ac te e rest s up head => ?_⟩
  · intro u spells
    have row {op : Nat} (word : spells op) : (.next (teRow op t s) : Host.Outcome State Fault Refusal) = .next u :=
      congrArg _ (teRow_of_spells up core way room word)
    exact ⟨row, row, row, row, row⟩
  · intro way result st
    have acts := exec_teComplete_of_awake up ac te
    rw [completeTe_of_head head] at acts
    refine ⟨_, acts, fun k => ?_, fun k => ?_, ?_, ?_, ?_, fun n i t named found => ?_, fun n i other => ?_⟩
    · rw [teQueue_ticketEnds, teQueue_teReturned]
    · rw [wayStore_ticketEnds]
      exact wayStore_teReturned k
    · rw [ticketEnds_out, teReturned_out, teKey_mod_two]
      rfl
    · rw [ticketEnds_mem, teReturned_mem]
    · rw [ticketEnds_regs, teReturned_regs]
    · rw [threadAt_ticketEnds_same named, threadAt_teReturned, found]
      rfl
    · rw [threadAt_ticketEnds_ne other, threadAt_teReturned]

end Sys2Proof.Machine

/-!
PROOFS. How a thread polls, ends and traps, and how its copies end (R202 to R205, R212, R258, R422).
-/

namespace Sys2Proof.Machine

section
variable {s : State} {i : SxOp} {j : Job} {t : Thread} {k : Nat}

@[simp] theorem atWork_draws : (atWork s i t).draws = s.draws := by unfold atWork; split <;> rfl
@[simp] theorem sxDone_draws (v : Option Nat) : (sxDone s i v).draws = s.draws := rfl

@[simp] theorem drawFree_mem (w : Nat) : (drawFree s w).2.mem = s.mem := rfl
@[simp] theorem drawFree_regs (w : Nat) : (drawFree s w).2.regs = s.regs := rfl
@[simp] theorem drawFree_ft (w : Nat) : (drawFree s w).2.ft = s.ft := rfl
@[simp] theorem drawFree_draws (w : Nat) : (drawFree s w).2.draws = s.draws + 1 := rfl

/-! ## A poll (R204, R422) -/

/-- A poll has read this status, or none: a message slot whose status it read is free (R422). -/
def polled (s : State) (a : Await) : Option Nat → State
  | some _ => freeRecv s a
  | none => s

section
variable {a : Await} {st : Option Nat}

@[simp] theorem polled_mem : (polled s a st).mem = s.mem := by cases st <;> cases a <;> rfl
@[simp] theorem polled_regs : (polled s a st).regs = s.regs := by cases st <;> cases a <;> rfl
@[simp] theorem polled_draws : (polled s a st).draws = s.draws := by cases st <;> cases a <;> rfl
@[simp] theorem threadAt_polled (n m : Nat) : threadAt (polled s a st) n m = threadAt s n m := by
  cases st <;> cases a <;> rfl

theorem polled_atWork_ft : (polled (atWork s i t) a st).ft = match st, a with
    | some _, .slot n => { s.ft with recv := mapDel s.ft.recv n }
    | _, _ => s.ft := by
  rw [← atWork_ft (s := s) (i := i) (t := t)]
  cases st <;> cases a <;> rfl

end

variable (runs : Executes s i j t k)
include runs

theorem exec_sxPoll_of_known (word : Spells 0x0B 4 i) {a : Await} (names : awaitOf (t.getX (sxRs1 i)) = a)
    (known : awaitKnown s j a = true) : exec (.sxPoll i) s =
      .next (sxDone (polled (atWork s i t) a (awaited s j t a)) i (some ((awaited s j t a).getD 0xFF))) := by
  have same : awaited (atWork s i t) j t a = awaited s j t a := awaited_congr (.refl j) rfl atWork_time atWork_ft a
  refine (congrArg Host.Outcome.next (sxRun_of_spells runs word _)).trans ?_
  simp only [names, awaitKnown_atWork, known, if_true, same]
  cases awaited s j t a <;> cases a <;> rfl

theorem executed_polled (a : Await) (st : Option Nat) (v : Nat) :
    Executed (sxDone (polled (atWork s i t) a st) i (some v)) i t (some v) :=
  executed_sxDone _ ((threadAt_polled _ _).trans (threadAt_atWork runs.thread)) (by simp) (by simp) (by simp) (by simp)

/-- The status of what does not exist is free (log entry 11). -/
theorem exec_sxPoll_of_unknown (word : Spells 0x0B 4 i) (unknown : awaitKnown s j (awaitOf (t.getX (sxRs1 i))) = false) :
    exec (.sxPoll i) s = .next (sxDone (drawFree (atWork s i t) 64).2 i (some (drawFree s 64).1)) := by
  have same : (drawFree (atWork s i t) 64).1 = (drawFree s 64).1 := by rw [drawFree, atWork_draws, drawFree]
  refine (congrArg Host.Outcome.next (sxRun_of_spells runs word _)).trans ?_
  simp only [awaitKnown_atWork, unknown, Bool.false_eq_true, if_false, same]

theorem executed_drawFree (v : Nat) : Executed (sxDone (drawFree (atWork s i t) 64).2 i (some v)) i t (some v) :=
  executed_sxDone _ (threadAt_atWork runs.thread) (by simp) (by simp) (by simp) (by simp)

/-! ## The end of a thread, and traps (R202, R203, R212) -/

theorem exec_sxEnd_of_spells (word : Spells 0x0B 7 i) : exec (.sxEnd i) s =
    .next (pokeThreads (endThread (sxDone (atWork s i t) i none) i.job i.idx (t.getX (sxRs1 i) % 256))) :=
  congrArg Host.Outcome.next (sxRun_of_spells runs word _)

omit runs in
/-- A trap of a thread ends its job with the thread, the cause and the address (R203). -/
theorem trapJob_of_jobAt {n : Nat} (job : jobAt s n = some j) (idx mcause addr : Nat) : trapJob s n idx mcause addr =
    endJob (raise1 s 13 fAcEventJobFault) n stAborted idx 0 addr mcause := by
  rw [trapJob, job]

/-- A word of a row's opcode and funct3 that Table 07.6 does not hold traps, whatever the row does (log entry 199). -/
theorem sxRun_of_illegal {op f3 : Nat} (code : sxIs op f3 i = true) (illegal : sxIllegal i = true) (alone : i.acts = [])
    (f : Job → Thread → Nat → State → State) : sxRun s op f3 i f =
      endJob (raise1 s 13 fAcEventJobFault) i.job stAborted i.idx 0 t.pc 2 := by
  obtain ⟨up, job, thread, way, kind, ready⟩ := runs
  have noLocks : actLocks s j [] = [] := rfl
  rw [sxRun, live_of_awake up]
  simp only [job, thread, way, kind, ready, code, and_self, if_true, alone, noLocks, ne_eq, not_true_eq_false, if_false,
    List.foldl_nil, illegal, trapJob_of_jobAt job]

theorem exec_sxTrap_of_bad {mcause addr : Nat} (bad : ¬(mcause ∈ [1, 5, 7] ∧ accessOk j.desc mcause addr 1 = true)) :
    exec (.sxTrap i.job i.idx mcause addr) s =
      .next (endJob (raise1 s 13 fAcEventJobFault) i.job stAborted i.idx 0 addr mcause) := by
  obtain ⟨up, job, thread, _, kind, ready⟩ := runs
  refine (next_live_of_awake up _).trans ?_
  simp only [job, thread, kind, ready, bad, not_false_eq_true, and_self, if_true, trapJob_of_jobAt job]

/-! ## The end of a copy (R204, R205, R258) -/

theorem exec_sxCopyComplete_of_unlocked {id : Nat} {x : Ticket}
    (found : t.tickets.find? (fun x => x.id == id && x.kind == .copy && x.status.isNone) = some x)
    (unlocked : copyLocks s i.job x = []) :
    exec (.sxCopyComplete i.job i.idx id) s = .next (pokeThreads (finishCopy s i.job i.idx x)) := by
  refine (next_live_of_awake runs.isAwake _).trans ?_
  simp only [runs.thread, Option.bind_some, found, unlocked, ne_eq, not_true_eq_false, if_false]

section
variable {x : Ticket} {o p : Nat} (serves : rangeOut s p x.len = none)
include serves

theorem finishCopy_to_node (source : spaceOf j.desc (basedRanges s j.desc) x.src x.len = some (.segment o))
    (target : spaceOf j.desc (basedRanges s j.desc) x.dst x.len = some (.node p)) : finishCopy s i.job i.idx x =
      setTicket (writeMem s p (segRead (wayStore s k) o x.len)) i.job i.idx x.id stOk := by
  have outside : [Where.segment o, .node p].filterMap Where.npa = [p] := rfl
  simp only [finishCopy, runs.job, runs.thread, Option.bind_some, runs.way, source, target, outside, List.findSome?_cons,
    List.findSome?_nil, serves]

theorem finishCopy_to_segment {y : Where} (source : spaceOf j.desc (basedRanges s j.desc) x.src x.len = some y)
    (node : y.npa = some p) (target : spaceOf j.desc (basedRanges s j.desc) x.dst x.len = some (.segment o)) :
    finishCopy s i.job i.idx x =
      setTicket (setWay s k (segWrite (wayStore s k) o (readMem s p x.len))) i.job i.idx x.id stOk := by
  have outside : [y, .segment o].filterMap Where.npa = [p] := by rw [List.filterMap_cons, node]; rfl
  simp only [finishCopy, runs.job, runs.thread, Option.bind_some, runs.way, source, target, outside, List.findSome?_cons,
    List.findSome?_nil, serves]
  cases y with
  | segment _ => cases node
  | _ => obtain rfl := Option.some.inj node; rfl

end

end

/-! ## The statement -/

/-- Settles O37: a poll by what it names, a trap by the job that it ends, a copy by the space that it writes. -/
theorem threadsPollAndEnd : Obligations.ThreadsPollAndEnd := by
  intro i s j t k runs a
  refine ⟨fun word known => ?_, fun word unknown => ?_, fun word => ?_, fun illegal alone => ?_,
    fun mcause addr bad => exec_sxTrap_of_bad runs bad, fun x id found unlocked => ⟨fun o p source target serves => ?_,
      fun y p o source node target serves => ?_⟩⟩
  · exact ⟨_, exec_sxPoll_of_known runs word rfl known, executed_polled runs _ _ _, by simp, by simp, by simp,
      polled_atWork_ft⟩
  · exact ⟨_, exec_sxPoll_of_unknown runs word unknown, executed_drawFree runs _, by simp, by simp, by simp, by simp⟩
  · exact ⟨_, exec_sxEnd_of_spells runs word, executed_atWork runs, by simp, by simp, by simp⟩
  · have row {op f3 : Nat} (f : Job → Thread → Nat → State → State) (code : sxIs op f3 i = true) :
        (.next (sxRun s op f3 i f) : Host.Outcome State Fault Refusal) =
          .next (endJob (raise1 s 13 fAcEventJobFault) i.job stAborted i.idx 0 t.pc 2) :=
      congrArg _ (sxRun_of_illegal runs code illegal alone f)
    exact ⟨row _, row _, row _, row _, row _, row _, row _, row _, row _⟩
  · rw [exec_sxCopyComplete_of_unlocked runs found unlocked, finishCopy_to_node runs serves source target]
  · rw [exec_sxCopyComplete_of_unlocked runs found unlocked, finishCopy_to_segment runs serves source node target]

end Sys2Proof.Machine

/-!
PROOFS. How a context wakes once what it awaits has come, and how contexts are swapped between the ways of a core and the swap pool
(R206 to R208, R221, R422, R457).
-/

namespace Sys2Proof.Machine

/-! ## What is awaited has come (R206, R207, R422) -/

section
variable {s : State} {n i : Nat} {j : Job} {t : Thread} {rd : Nat} {a : Await} {st : Nat}

@[simp] theorem jobAt_freeRecv (m : Nat) : jobAt (freeRecv s a) m = jobAt s m := by cases a <;> rfl

/-- A thread of a program is brought up to date by its event alone: no layer program goes on. -/
theorem pokeThread_of_program {u : State} (settles : settleThread s n i = u) (job : jobAt s n = some j)
    (kept : (jobAt u n).map (·.desc) = (jobAt s n).map (·.desc)) (kind : jKind j.desc = 0) : pokeThread s n i = u := by
  rw [job] at kept
  obtain ⟨j', job', desc⟩ := Option.map_eq_some_iff.mp kept
  have program : jKind j'.desc ≠ 1 := by rw [desc, kind]; decide
  simp only [pokeThread, settles, job', program, if_false]

/-- The job of a thread that takes its event keeps its descriptor, unless the event is a step boundary. -/
theorem jobAt_takeEvent_desc (event : a ≠ .step) (u : State) (m : Nat) :
    (jobAt (takeEvent u n i t rd a st) m).map (·.desc) = (jobAt u m).map (·.desc) := by
  cases a with
  | step => exact absurd rfl event
  | _ => exact jobAt_updThread_desc n i m _

variable (job : jobAt s n = some j) (thread : threadAt s n i = some t) (waits : t.await = some (rd, a))
  (come : awaited s j t a = some st)
include job thread waits come

theorem settleThread_of_resident {ac way since : Nat} (place : t.place = .resident ac way since) :
    settleThread s n i = takeEvent (freeRecv s a) n i t rd a st := by
  simp only [settleThread, job, thread, waits, come, place]

theorem settleThread_of_blocked (place : t.place = .swapped) (blocked : t.cond = .blocked) :
    settleThread s n i =
      updThread (freeRecv s a) n i fun t => { t with event := some st, cond := .runnable, since := s.time } := by
  simp only [settleThread, job, thread, waits, come, place, blocked, if_true]

theorem settleThread_of_saving {ac way : Nat} (place : t.place = .saving ac way) (unmarked : t.event = none) :
    settleThread s n i = updThread (freeRecv s a) n i fun t => { t with event := some st } := by
  simp only [settleThread, job, thread, waits, come, place, unmarked, Option.isSome_none, Bool.false_eq_true, if_false]

end

section
variable {s : State} (up : awake s = true)
include up

theorem exec_contextEvent_of_settles {n i : Nat} {j : Job} (job : jobAt s n = some j) (kind : jKind j.desc = 0) {u : State}
    (settles : settleThread s n i = u) (kept : (jobAt u n).map (·.desc) = (jobAt s n).map (·.desc)) :
    exec (.contextEvent n i) s = .next u :=
  (next_live_of_awake up _).trans (congrArg _ (pokeThread_of_program settles job kept kind))

/-! ## A context leaves its way (R206 to R208, R221) -/

/-- The class's way that a waiting thread would find, on a core where all of them are held (R208). -/
def heldWay (s : State) (ac cls : Nat) : Option Nat :=
  if (jobWays s cls).any (fun w => wayFree s (16 * ac + w)) = true then none else (jobWays s cls).head?

variable {ac : Nat} (core : ac < activeAcs s)
include core

theorem exec_swapOut_of_full (inUse : acOpen s ac = true) (blocked : allBlocked s ac = true) {r : Ready} {j : Job}
    (waiting : longest s (wanting s (heldWay s ac)) = some r) (job : jobAt s r.job = some j) {w n i : Nat} {t : Thread}
    (chosen : victim s ac (fun w => (jobWays s (jClass j.desc)).contains w) residentMin = some (w, n, i, t)) :
    exec (.swapOut ac) s =
      .next (raise1 (updThread s n i fun t => { t with place := .saving ac w }) 13 fAcEventSwapOut) := by
  unfold heldWay at waiting
  refine (next_live_of_awake up _).trans ?_
  simp only [Nat.not_le.mpr core, inUse, blocked, waiting, job, chosen, Bool.true_eq_false, Bool.not_true, Bool.false_eq_true,
    if_false]

theorem exec_swapOut_of_replaced (replaced : acOpen s ac = false) {w n i : Nat} {t : Thread}
    (chosen : victim s ac (fun _ => true) 0 = some (w, n, i, t)) : exec (.swapOut ac) s =
      .next (raise1 (updThread s n i fun t => { t with place := .saving ac w }) 13 fAcEventSwapOut) := by
  refine (next_live_of_awake up _).trans ?_
  simp only [Nat.not_le.mpr core, replaced, chosen, if_true, if_false]

omit core in
theorem exec_swapSaveDone_of_saving {way n i : Nat} {t : Thread} (holder : holderOf s (16 * ac + way) = some (n, i, t))
    {a w : Nat} (place : t.place = .saving a w) :
    let u := segToMem s (slotSegment s t.slot) (wayStore s (16 * ac + way))
    let v := (writeFree u (slotSegment u t.slot - 4096) 4096).2
    exec (.swapSaveDone ac way) s = .next (pokeThread (dropWay (updThread v n i fun t =>
      { t with place := .swapped, cond := if t.event.isSome = true then .runnable else .blocked,
               since := if t.event.isSome = true then v.time else t.since }) (some (16 * ac + way))) n i) := by
  refine (next_live_of_awake up _).trans ?_
  simp only [holder, place]

/-! ## A context takes a way (R199, R207, R208) -/

/-- The load of the thread that has been runnable longest, by where its state lies. -/
def loadFrom (u : State) (ac : Nat) (r : Ready) : State :=
  match r.t.place with
  | .fresh => pokeThread (updThread (setWay u (16 * ac + r.way) []) r.job r.idx
      fun t => { t with place := .resident ac r.way u.time }) r.job r.idx
  | .area => updThread u r.job r.idx fun t => { t with place := .loading ac r.way true }
  | _ => updThread u r.job r.idx fun t => { t with place := .loading ac r.way false }

theorem exec_swapLoad_of_wanting (inUse : acOpen s ac = true) {r : Ready}
    (waiting : longest s (wanting s fun cls => (jobWays s cls).find? fun w => wayFree s (16 * ac + w)) = some r) :
    exec (.swapLoad ac) s = .next (loadFrom (takeWay s (16 * ac + r.way) (.thread r.job r.idx)) ac r) := by
  refine (next_live_of_awake up _).trans ?_
  simp only [Nat.not_le.mpr core, inUse, Bool.true_eq_false, or_self, if_false, waiting]
  rfl

omit core in
theorem exec_swapLoadDone_of_loading {way n i : Nat} {t : Thread} (holder : holderOf s (16 * ac + way) = some (n, i, t))
    {a w : Nat} {area : Bool} (place : t.place = .loading a w area) {j : Job} (job : jobAt s n = some j)
    (quiet : t.event = none) : exec (.swapLoadDone ac way) s = .next (pokeThread (updThread (setWay s (16 * ac + way)
      (segFromMem s (if area = true then areaSegment j.desc i else slotSegment s t.slot))) n i fun t =>
        { t with place := .resident ac way s.time, cond := .running, since := s.time }) n i) := by
  refine (next_live_of_awake up _).trans ?_
  simp only [holder, place, job, quiet]
  rfl

end

/-! ## The statement -/

/-- Settles O38: a context wakes by where it lies, and leaves or takes a way by the rules above. -/
theorem contextsWakeAndSwap : Obligations.ContextsWakeAndSwap := by
  refine ⟨fun n i s j t rd a st up job thread kind waits come event => ⟨?_, ?_, ?_⟩, fun ac s up core => ⟨?_, ?_, ?_, ?_, ?_⟩⟩
  · exact fun ac way since place => exec_contextEvent_of_settles up job kind
      (settleThread_of_resident job thread waits come place) (by rw [jobAt_takeEvent_desc event, jobAt_freeRecv])
  · exact fun place blocked => exec_contextEvent_of_settles up job kind
      (settleThread_of_blocked job thread waits come place blocked) (by rw [jobAt_updThread_desc, jobAt_freeRecv])
  · exact fun ac way place unmarked => exec_contextEvent_of_settles up job kind
      (settleThread_of_saving job thread waits come place unmarked) (by rw [jobAt_updThread_desc, jobAt_freeRecv])
  · exact fun r j w n i t inUse blocked waiting job chosen => exec_swapOut_of_full up core inUse blocked waiting job chosen
  · exact fun w n i t replaced chosen => exec_swapOut_of_replaced up core replaced chosen
  · exact fun way n i t a w holder place => exec_swapSaveDone_of_saving up holder place
  · intro r inUse waiting
    rw [exec_swapLoad_of_wanting up core inUse waiting]
    exact ⟨fun fresh => by rw [loadFrom, fresh], fun area => by rw [loadFrom, area], fun swapped => by rw [loadFrom, swapped]⟩
  · exact fun way n i t a w area j holder place job quiet => exec_swapLoadDone_of_loading up holder place job quiet

end Sys2Proof.Machine

/-!
PROOFS. What a job command finds in the state in which it has begun, and what each does there (R211 to R214, R258, R420, R421).
-/

namespace Sys2Proof.Machine

/-! ## What the command finds as it was -/

section
variable {c : Cmd} {s : State}

@[simp] theorem begun_ac : (begun s c).ac = s.ac := takeReads_ac
@[simp] theorem begun_time : (begun s c).time = s.time := takeReads_time
@[simp] theorem swept_ac : (swept c s).ac = s.ac := sweepUnknown_ac

@[simp] theorem jobAt_begun (n : Nat) : jobAt (begun s c) n = jobAt s n := by rw [jobAt, begun_ac, jobAt]

theorem SameSight.rangeOut {s t : State} (h : SameSight s t) (a len : Nat) :
    Machine.rangeOut t a len = Machine.rangeOut s a len := by
  simp only [Machine.rangeOut, h.regs rGsStatus (by decide), h.bbdUp, h.bbdAt]

/-- A command reads backed memory of dies in service as it was before the command (R161, R258). -/
theorem withNpa_begun {a len : Nat} (backed : a + len ≤ gddrSize) (serves : rangeOut s a len = none) (r : CmdRef)
    (f : Bytes → State) : withNpa (begun s c) r a len f = f (readMem s a len) := by
  have same := sameSight_begun s c
  rw [withNpa, if_neg (Nat.not_lt.mpr backed), same.rangeOut, serves, same.readMem]

end

/-! ## Commands that complete with results -/

/-- A command ends with a status and its results once its effect is to complete with them. -/
theorem ends_of_complete {s u : State} {op : Nat} {c : Cmd} (runs : Runs s op c) {i : Instr} {st n r0 r1 r2 : Nat}
    {Q : State → Prop} (acts : exec i s = .next (swept c (complete u ⟨refOf s c, st, n, r0, r1, r2, false⟩)))
    (grows : Grows (begun s c) u) (holds : Q (swept c (complete u ⟨refOf s c, st, n, r0, r1, r2, false⟩))) :
    Ends i s c st n r0 r1 r2 Q := by
  have fromStart : Grows s u := Grows.trans ⟨begun_resets1, [], by rw [begun_finished, List.append_nil]⟩ grows
  have answered := startCmd_complete runs (f := fun _ _ => complete u ⟨refOf s c, st, n, r0, r1, r2, false⟩) rfl fromStart
  rw [startCmd_of_runs runs] at answered
  exact ⟨_, acts, answered, holds⟩

/-- A job command that completes in the state in which it has begun leaves the attention cores as they were. -/
theorem ends_of_complete_begun {s : State} {op : Nat} {c : Cmd} (runs : Runs s op c) {i : Instr} {st n r0 r1 r2 : Nat}
    (acts : exec i s = .next (swept c (complete (begun s c) ⟨refOf s c, st, n, r0, r1, r2, false⟩))) :
    Ends i s c st n r0 r1 r2 fun t => t.ac = s.ac :=
  ends_of_complete runs acts (.refl _) (by simp)

/-! ## `JOB_SUBMIT` (R211, R420) -/

section
variable {s : State} {c : Cmd}

theorem exec_jobSubmit_of_fits (runs : Runs s 0x10 c) (fresh : jobAt s (jobOperand c) = none)
    (backed : jobOperand c + 128 ≤ gddrSize) (serves : rangeOut s (jobOperand c) 128 = none) {d : Bytes}
    (desc : readMem s (jobOperand c) 128 = d) (formed : jobFormatBad (begun s c) d = false)
    (area : jSaveBytes d = 0 ∨ 4096 + swapBytes * jThreads d ≤ jSaveBytes d) (resumes : resumeBad (begun s c) d = false)
    (room : jobNoRoom (begun s c) d = false) :
    exec (.jobSubmit c) s = .next (swept c (admitJob (begun s c) (refOf s c) (jobOperand c) d)) := by
  have fits : ¬(jSaveBytes d ≠ 0 ∧ jSaveBytes d < 4096 + swapBytes * jThreads d) := by omega
  refine (congrArg Host.Outcome.next (startCmd_of_runs runs _)).trans ?_
  simp only [jobAt_begun, fresh, Option.isSome_none, withNpa_begun backed serves, desc, formed, fits, resumes, room,
    Bool.false_eq_true, if_false]

/-! ## `JOB_PREEMPT` and its time-out (R213, R214, R420) -/

section
variable (runs : Runs s 0x11 c)
include runs

theorem exec_jobPreempt_of_absent (absent : jobAt s (jobOperand c) = none) :
    exec (.jobPreempt c) s = .next (swept c (finish (begun s c) (refOf s c) stOk)) := by
  refine (congrArg Host.Outcome.next (startCmd_of_runs runs _)).trans ?_
  simp only [jobAt_begun, absent]

variable {j : Job} (active : jobAt s (jobOperand c) = some j)
include active

theorem exec_jobPreempt_of_no_area (noArea : jSaveBytes j.desc = 0) :
    exec (.jobPreempt c) s = .next (swept c (finish (begun s c) (refOf s c) stFormat)) := by
  refine (congrArg Host.Outcome.next (startCmd_of_runs runs _)).trans ?_
  simp only [jobAt_begun, active, noArea, if_true]

theorem exec_jobPreempt_of_area (area : jSaveBytes j.desc ≠ 0) (first : j.preempt = none) :
    exec (.jobPreempt c) s = .next (swept c (updJob (begun s c) (jobOperand c) fun j =>
      { j with preempt := some ⟨decide (bfld c.d 0x10 0 1 = 1), s.time, [refOf s c]⟩ })) := by
  refine (congrArg Host.Outcome.next (startCmd_of_runs runs _)).trans ?_
  simp only [jobAt_begun, active, area, first, if_false, begun_time]

end

theorem exec_preemptTimeout_of_due (up : awake s = true) {m : Nat} {j : Job} (active : jobAt s m = some j) {p : Preempt}
    (asked : j.preempt = some p) (late : preemptLimit s ≤ elapsed s p.time) :
    exec (.preemptTimeout m) s = .next (endJob (raise1 s 13 fAcEventPreemptTimeout) m stTimeout 0 0 0 0) := by
  refine (next_live_of_awake up _).trans ?_
  simp only [active, Option.bind_some, asked, due_of_le late, if_true]

/-! ## `JOB_QUERY` (R421) -/

section
variable (runs : Runs s 0x12 c)
include runs

theorem exec_jobQuery_of_active {j : Job} (active : jobAt s (jobOperand c) = some j) :
    exec (.jobQuery c) s = .next (swept c (completeWith (begun s c) (refOf s c) stOk 1)) := by
  refine (congrArg Host.Outcome.next (startCmd_of_runs runs _)).trans ?_
  simp only [jobAt_begun, active, Option.isSome_some, if_true]

variable (absent : jobAt s (jobOperand c) = none)
include absent

theorem exec_jobQuery_of_unrecorded
    (unrecorded : (s.ac.records.reverse.find? fun x => x.npa == jobOperand c) = none) :
    exec (.jobQuery c) s = .next (swept c (completeWith (begun s c) (refOf s c) stOk 0)) := by
  refine (congrArg Host.Outcome.next (startCmd_of_runs runs _)).trans ?_
  simp only [jobAt_begun, absent, Option.isSome_none, Bool.false_eq_true, if_false, begun_ac, unrecorded]

theorem exec_jobQuery_of_recorded {x : JobRec}
    (recorded : (s.ac.records.reverse.find? fun x => x.npa == jobOperand c) = some x) :
    exec (.jobQuery c) s = .next (swept c (complete (begun s c)
      ⟨refOf s c, stOk, x.count, 2 + 2 ^ 8 * x.status + 2 ^ 16 * x.result, x.r1, x.r2, false⟩)) := by
  refine (congrArg Host.Outcome.next (startCmd_of_runs runs _)).trans ?_
  simp only [jobAt_begun, absent, Option.isSome_none, Bool.false_eq_true, if_false, begun_ac, recorded]

end

end

/-- Settles O39: each command by whether the job is active, and by what its descriptor or its record holds. -/
theorem jobCommandsAct : Obligations.JobCommandsAct := by
  intro c s n u d
  refine ⟨?_, ?_, ?_, ?_, ?_, ?_, ?_, ?_⟩
  · exact fun runs fresh backed serves formed area resumes room =>
      exec_jobSubmit_of_fits runs fresh backed serves rfl formed area resumes room
  · exact fun runs absent => ends_of_complete_begun runs (exec_jobPreempt_of_absent runs absent)
  · exact fun j runs active noArea => ends_of_complete_begun runs (exec_jobPreempt_of_no_area runs active noArea)
  · exact fun j runs active area first => exec_jobPreempt_of_area runs active area first
  · exact fun m j p up active asked late => exec_preemptTimeout_of_due up active asked late
  · exact fun j runs active => ends_of_complete_begun runs (exec_jobQuery_of_active runs active)
  · exact fun runs absent unrecorded => ends_of_complete_begun runs (exec_jobQuery_of_unrecorded runs absent unrecorded)
  · exact fun x runs absent recorded => ends_of_complete_begun runs (exec_jobQuery_of_recorded runs absent recorded)

end Sys2Proof.Machine

/-!
PROOFS. How a resident model is loaded and unloaded (R215, R217).
-/

namespace Sys2Proof.Machine

/-! ## A model is loaded or gone (R215, R217) -/

section
variable {s t : State} {c : Cmd} {r : CmdRef} {st o : Nat}

/-- What follows a command that finishes writes no register but the count of discarded completions. -/
theorem regGet_swept_finish (other : o ≠ rQeDiscards1) : regGet (swept c (finish t r st)) o = regGet t o :=
  (sweepUnknown_regGet _ _ _ _ other).trans (finish_regGet t r st other)

theorem getB_swept_finish (other : o ≠ rQeDiscards1) (f : Fld) : getB (swept c (finish t r st)) o f = getB t o f := by
  rw [getB, getF, regGet_swept_finish other, getB, getF]

end

/-- The registers name the model loaded at an NPA, of this size (R215). -/
def modelLoaded (s : State) (base size : Nat) : State :=
  setB (setR (setR s rAcRmBase base) rAcRmSize size) rAcStatus fAcStatusRmLoaded true

/-- The registers name no model, and no command waits to unload one (R217). -/
def modelGone (s : State) : State :=
  setR (setR (setB { s with ac := { s.ac with unload := none } } rAcStatus fAcStatusRmLoaded false) rAcRmBase 0) rAcRmSize 0

/-- The registers of the resident model. -/
structure ModelIs (s : State) (base size : Nat) (loaded : Bool) : Prop where
  base   : regGet s rAcRmBase = base
  size   : regGet s rAcRmSize = size
  loaded : getB s rAcStatus fAcStatusRmLoaded = loaded

theorem modelIs_modelLoaded (s : State) {base size : Nat} (wordBase : base < 2 ^ 64) (wordSize : size < 2 ^ 64) :
    ModelIs (modelLoaded s base size) base size true where
  base := by
    rw [modelLoaded, setB, regGet_setF_ne _ _ _ (by decide), regGet_setR_ne _ _ (by decide), regGet_setR_same,
      Nat.mod_eq_of_lt wordBase]
  size := by rw [modelLoaded, setB, regGet_setF_ne _ _ _ (by decide), regGet_setR_same, Nat.mod_eq_of_lt wordSize]
  loaded := getB_setB_same _ _ _ _ (by decide) (by decide)

theorem modelIs_modelGone (s : State) : ModelIs (modelGone s) 0 0 false where
  base := (regGet_setR_ne _ _ (by decide)).trans (regGet_setR_same _ _ 0)
  size := regGet_setR_same _ _ 0
  loaded := by
    rw [getB, getF, modelGone, regGet_setR_ne _ _ (by decide), regGet_setR_ne _ _ (by decide)]
    exact getB_setB_same _ _ _ _ (by decide) (by decide)

theorem ModelIs.swept_finish {t : State} {base size : Nat} {loaded : Bool} (h : ModelIs t base size loaded) (c : Cmd)
    (r : CmdRef) (st : Nat) : ModelIs (swept c (finish t r st)) base size loaded where
  base := (regGet_swept_finish (by decide)).trans h.base
  size := (regGet_swept_finish (by decide)).trans h.size
  loaded := (getB_swept_finish (by decide) _).trans h.loaded

/-! ## `RM_LOAD` (R215) -/

theorem exec_rmLoad_of_fits {s : State} {c : Cmd} {h : Bytes} (runs : Runs s 0x13 c)
    (backed : jobOperand c + num c.d 0x10 4 ≤ gddrSize) (headBacked : jobOperand c + 64 ≤ gddrSize)
    (serves : rangeOut s (jobOperand c) 64 = none) (header : readMem s (jobOperand c) 64 = h)
    (checked : num h 0x3E 2 = crc16 (h.take 0x3E)) (layers : num h 4 1 ≠ 0)
    (within : modelOutside (begun s c) (jobOperand c) h = false)
    (apart : (swapRegion (begun s c) :: fixedRegions (begun s c)).any
      (fun (a, n) => overlaps a n (jobOperand c) (num h 0 4)) = false)
    (fits : num h 0 4 ≤ num c.d 0x10 4) (unloaded : getB s rAcStatus fAcStatusRmLoaded = false) :
    exec (.rmLoad c) s =
      .next (swept c (finish (modelLoaded (begun s c) (jobOperand c) (num h 0 4)) (refOf s c) stOk)) := by
  refine (congrArg Host.Outcome.next (startCmd_of_runs runs _)).trans ?_
  simp only [Nat.not_lt.mpr headBacked, Nat.not_lt.mpr backed, false_and, if_false, withNpa_begun headBacked serves, header,
    checked, layers, within, apart, Nat.not_lt.mpr fits, begun_getB _ (show rAcStatus ∉ readRegs by decide), unloaded, ne_eq,
    not_true_eq_false, or_self, decide_false, Bool.or_self, firstRefusal, Bool.false_eq_true]
  rfl

/-! ## `RM_UNLOAD` (R217) -/

section
variable {s : State} {c : Cmd}

/-- While a job of `KIND` 1 remains, the model stays. -/
theorem unloadCheck_of_jobs {refs : List CmdRef} (asked : s.ac.unload = some refs)
    (busy : (s.ac.jobs.any fun e => jKind e.2.desc == 1) = true) : unloadCheck s = s := by
  simp only [unloadCheck, asked, busy, if_true]

theorem unloadCheck_of_idle {refs : List CmdRef} (asked : s.ac.unload = some refs)
    (idle : (s.ac.jobs.any fun e => jKind e.2.desc == 1) = false) :
    unloadCheck s = finishAll (modelGone s) refs stOk 0 := by
  simp only [unloadCheck, asked, idle, Bool.false_eq_true, if_false]
  rfl

/-- One more command waits for the model to be unloaded. -/
def unloadAsked (s : State) (r : CmdRef) : State :=
  { s with ac := { s.ac with unload := some (s.ac.unload.getD [] ++ [r]) } }

section
variable {r : CmdRef}

@[simp] theorem jobs_unloadAsked_begun : (unloadAsked (begun s c) r).ac.jobs = s.ac.jobs :=
  (congrArg Ac.jobs (begun_ac (s := s) (c := c)) :)

theorem unload_unloadAsked_begun : (unloadAsked (begun s c) r).ac.unload = some (s.ac.unload.getD [] ++ [r]) :=
  congrArg (fun x : Ac => some (x.unload.getD [] ++ [r])) begun_ac

/-- The only command that waits finishes with the model gone, once no job of `KIND` 1 is there. -/
theorem unloadCheck_unloadAsked_of_idle (idle : (s.ac.jobs.any fun e => jKind e.2.desc == 1) = false)
    (first : s.ac.unload = none) : unloadCheck (unloadAsked (begun s c) r) =
      finish (modelGone (unloadAsked (begun s c) r)) r stOk := by
  rw [unloadCheck_of_idle unload_unloadAsked_begun (by rw [jobs_unloadAsked_begun, idle]), first]
  rfl

end

variable (runs : Runs s 0x14 c)
include runs

theorem exec_rmUnload_of_none (unloaded : getB s rAcStatus fAcStatusRmLoaded = false) :
    exec (.rmUnload c) s = .next (swept c (finish (begun s c) (refOf s c) stOk)) := by
  refine (congrArg Host.Outcome.next (startCmd_of_runs runs _)).trans ?_
  simp only [begun_getB _ (show rAcStatus ∉ readRegs by decide), unloaded, Bool.not_false, if_true]

theorem exec_rmUnload_of_loaded (loaded : getB s rAcStatus fAcStatusRmLoaded = true) :
    exec (.rmUnload c) s = .next (swept c (unloadCheck (unloadAsked (begun s c) (refOf s c)))) := by
  refine (congrArg Host.Outcome.next (startCmd_of_runs runs _)).trans ?_
  simp only [begun_getB _ (show rAcStatus ∉ readRegs by decide), loaded, Bool.not_true, Bool.false_eq_true, if_false]
  rfl

end

/-- Settles O40: a load writes what its header says, and an unload waits or ends by `unloadCheck`. -/
theorem modelCommandsAct : Obligations.ModelCommandsAct := by
  intro c s base u h size
  refine ⟨fun runs backed headBacked serves checked layers within apart fits unloaded => ?_, fun runs unloaded => ?_,
    fun runs loaded busy => ?_, fun runs loaded idle first => ?_⟩
  · have wordBase : base < 2 ^ 64 := (fld_lt _ _ 40).trans (by decide)
    have wordSize : size < 2 ^ 64 := by
      have : gddrSize < 2 ^ 64 := by decide
      omega
    obtain ⟨atBase, ofSize, loaded⟩ := (modelIs_modelLoaded u wordBase wordSize).swept_finish c (refOf s c) stOk
    refine ends_of_finish runs (exec_rmLoad_of_fits runs backed headBacked serves rfl checked layers within apart fits unloaded)
      (.of_qe rfl) ⟨atBase, ofSize, loaded, ?_⟩
    rw [swept_mem, finish_mem]
    exact begun_mem s
  · exact ends_of_complete_begun runs (exec_rmUnload_of_none runs unloaded)
  · rw [exec_rmUnload_of_loaded runs loaded,
      unloadCheck_of_jobs unload_unloadAsked_begun (by rw [jobs_unloadAsked_begun, busy]), unloadAsked, begun_ac]
  · have acts := exec_rmUnload_of_loaded runs loaded
    rw [unloadCheck_unloadAsked_of_idle idle first] at acts
    obtain ⟨atBase, ofSize, gone⟩ := (modelIs_modelGone (unloadAsked u (refOf s c))).swept_finish c (refOf s c) stOk
    refine ends_of_finish runs acts (.of_qe rfl) ⟨atBase, ofSize, gone, ?_⟩
    rw [swept_mem, finish_mem]
    exact begun_mem s

end Sys2Proof.Machine

/-!
PROOFS. How the drives and the tier links act: the queue pairs of a drive, the extent buffers, the Reads that stage flash slots, and
the links that go down and train again (R228, R230, R231, R235, R236, R238, R244, R245, R256, R269).
-/

namespace Sys2Proof.Machine

/-! ## The queue pairs of a drive (R228) -/

section
variable {s : State} {drive k : Nat}

/-- The pair that takes a drive's next command is one of its sixteen, and has room. -/
theorem room_of_freePair (free : freePair s drive = some k) : k < 16 ∧ (pairOf s drive k).length < 1024 := by
  have least := List.find?_some free
  rw [Bool.and_eq_true, decide_eq_true_eq] at least
  exact ⟨List.mem_range.mp (List.mem_of_find?_eq_some free), least.1⟩

theorem nvme_enterPair (s : State) (drive k : Nat) (c : NvmeCmd) :
    (enterPair s drive k c).tm.nvme = mapPut s.tm.nvme (16 * drive + k) (pairOf s drive k ++ [c]) := by
  cases c with
  | read h => rfl
  | write b =>
    rw [enterPair]
    dsimp only
    split <;> rfl
  | flush b => rfl

theorem pairOf_enterPair (s : State) (drive k i : Nat) (c : NvmeCmd) :
    pairOf (enterPair s drive k c) drive i = if i = k then pairOf s drive k ++ [c] else pairOf s drive i := by
  rw [pairOf, nvme_enterPair, mapGet_put]
  simp only [Nat.add_left_cancel_iff]
  split <;> rfl

theorem giveDrive_of_freePair (free : freePair s drive = some k) (c : NvmeCmd) :
    giveDrive s drive c = enterPair s drive k c := by
  simp only [giveDrive, free]

theorem giveDrive_of_full (full : freePair s drive = none) (c : NvmeCmd) :
    giveDrive s drive c = { s with tm := { s.tm with
      nvmeWait := mapPut s.tm.nvmeWait drive ((mapGet s.tm.nvmeWait drive).getD [] ++ [c]) } } := by
  simp only [giveDrive, full]

end

/-! ## The extent buffers (R235, R236, R244, R245) -/

/-- A move whose slots are all written is ready for its edit (R244). -/
def readyIfWritten (s : State) (id : Nat) : State :=
  match mapGet s.tm.moves id with
  | some m => if dstWritten s m = true then updMove s id fun x => { x with stage := .ready } else s
  | none => s

section
variable {s : State} (up : awake s = true) {k : Nat} {b : ExtBuf} (found : mapGet s.tm.buffers k = some b)
  (reached : accessWaits s (mkFlash b.drive 0 b.extent) = false)
include up found reached

/-- A buffer that is full or of age goes to its drive, or is lost with the link it lies behind. -/
theorem exec_extentFlush_of_ready (kept : b.sent = false) (filled : b.filled ≠ [])
    (ready : extentPositions ≤ b.filled.length ∨ 1024 * getF s rTmControl fTmControlFlushTime ≤ elapsed s b.first) :
    exec (.extentFlush k) s = .next (
      if slotDead s (mkFlash b.drive 0 b.extent) = true then loseBuf s k b
      else giveDrive (giveDrive { s with tm := { s.tm with buffers := mapPut s.tm.buffers k { b with sent := true } } }
        b.drive (.write k)) b.drive (.flush k)) := by
  refine (next_live_of_awake up _).trans ?_
  simp only [found, ready.imp_right due_of_le, if_true, flushBuf, kept, filled, reached, Bool.false_eq_true, or_self, if_false]

variable (sent : b.sent = true) (has : driveHas s b.drive (.flush k) = true) {l : State}
  (left : leaveDrive (leaveDrive s b.drive (.write k)) b.drive (.flush k) = l)
  (alive : slotDead l (mkFlash b.drive 0 b.extent) = false)
include sent has left alive

/-- The moves that filled a buffer are lost with it when its drive fails the Write or the Flush. -/
theorem exec_driveCompletion_of_failed :
    exec (.driveCompletion k false) s = .next (pokeRetires (loseBuf (raise1 l 15 fTpEventNvmeError) k b)) := by
  refine (next_live_of_awake up _).trans ?_
  simp only [found, sent, has, reached, left, alive, Bool.not_true, Bool.not_false, Bool.or_self, Bool.false_eq_true, if_false,
    if_true]

/-- Once both have ended, the extent is stored, and the moves whose slots are all written are ready for their edits. -/
theorem exec_driveCompletion_of_written :
    exec (.driveCompletion k true) s = .next (pokeRetires (pokePlaced (b.moves.foldl readyIfWritten
      (storeExtent { l with tm := { l.tm with buffers := mapDel l.tm.buffers k } } b)))) := by
  refine (next_live_of_awake up _).trans ?_
  simp only [found, sent, has, reached, left, alive, Bool.not_true, Bool.or_self, Bool.false_eq_true, if_false]
  rfl

end

/-! ## The end of a Read (R256, R269) -/

/-- The Read that an attend waits for is counted. -/
def countRead (s : State) (h : Nat) : State :=
  if s.ae.reqs.any (fun e => (attendSlots s e.2 (ctxBytes s e.2.ctx)).contains h) then bumpR s rTmStageReads 1 else s

/-- A slot is staged: as it came (0), once more to be read (1), or failed by its drive (2). -/
def stageAs (s : State) (h n : Nat) : State := { s with tm := { s.tm with staged := mapPut s.tm.staged h n } }

/-- The moves that wait for the slot go on, those whose parts are all read now. -/
def resumeMoves (s : State) (h : Nat) : State :=
  (s.tm.moves.filter fun e => (readingSources s e.2).contains h).foldl (fun s e =>
    if (unread s (readingSources s e.2)).isEmpty then copyMove s e.1 .clean else s) s

/-- What a Read that came as `got` leaves, where `old` was staged, once it has left its queue pair. -/
def readEnded (s : State) (h old : Nat) (got : DriveRead) : State :=
  let sound := decide (got = .good) && slotSound (slotRead s h 0 slotBytes)
  let again := !sound && decide (old = 0)
  let s := stageAs (if sound && decide (old = 1) then refetchOk s 128 else s) h
    (if again then 1 else if got = .error then 2 else 0)
  if again then issueRead s h else resumeMoves s h

theorem exec_driveReadCompletion_of_has {s : State} (up : awake s = true) {h : Nat}
    (has : driveHas s (fDrive h) (.read h) = true) (reached : accessWaits s h = false) (got : DriveRead) :
    exec (.driveReadCompletion h got) s = .next (readEnded (leaveDrive
      (if got = .error then raise1 (countRead s h) 15 fTpEventNvmeError else countRead s h) (fDrive h) (.read h)) h
      ((mapGet s.tm.staged h).getD 0) got) := by
  refine (next_live_of_awake up _).trans ?_
  simp only [has, reached, Bool.not_true, Bool.or_self, Bool.false_eq_true, if_false]
  rfl

section
variable {s : State} {h old : Nat}

theorem readEnded_of_sound (sound : slotSound (slotRead s h 0 slotBytes) = true) :
    readEnded s h old .good = resumeMoves (stageAs (if old = 1 then refetchOk s 128 else s) h 0) h := by
  simp [readEnded, sound]

/-- A slot whose bytes fail a check is read once more, and is then staged as it came. -/
theorem readEnded_of_unsound {got : DriveRead}
    (bad : got = .corrupt ∨ got = .good ∧ slotSound (slotRead s h 0 slotBytes) = false) :
    readEnded s h old got =
      if decide (old ≠ 0) = true then resumeMoves (stageAs s h 0) h else issueRead (stageAs s h 1) h := by
  have unsound : (decide (got = .good) && slotSound (slotRead s h 0 slotBytes)) = false := by
    obtain rfl | ⟨rfl, fails⟩ := bad
    · rfl
    · rw [fails, Bool.and_false]
  have served : got ≠ .error := by obtain rfl | ⟨rfl, -⟩ := bad <;> decide
  by_cases first : old = 0 <;> simp [readEnded, unsound, served, first]

/-- So is one that the drive failed, which is then staged as failed. -/
theorem readEnded_of_error :
    readEnded s h old .error =
      if decide (old ≠ 0) = true then resumeMoves (stageAs s h 2) h else issueRead (stageAs s h 1) h := by
  by_cases first : old = 0 <;> simp [readEnded, first]

end

/-! ## The tier links (R230, R231) -/

/-- A link is named by its port and its number on the port. -/
theorem div_mod_of_tierLink {port link k : Nat} (named : tierLink port link = some k) : k / 4 = port ∧ k % 4 = link := by
  rw [tierLink, Option.ite_none_right_eq_some] at named
  obtain ⟨⟨-, inPort⟩, number⟩ := named
  rw [Option.some.injEq] at number
  omega

section
variable {s : State} (up : awake s = true) {port link k : Nat} (named : tierLink port link = some k)
include up named

theorem exec_tierLinkDown_of_up (trained : getB s (tpLink k) fTpLinkUp = true) :
    exec (.tierLinkDown port link) s = .next (raise1 { setTierUp s port link false with
      tm := { s.tm with down := mapPut s.tm.down k (s.time, false) } } 15 fTpEventLinkDown) := by
  obtain ⟨onPort, number⟩ := div_mod_of_tierLink named
  refine (next_live_of_awake up _).trans ?_
  simp only [named, tierDown, trained, if_true, onPort, number]
  rfl

theorem exec_inboundRequest_of_up (trained : getB s (tpLink k) fTpLinkUp = true) :
    exec (.inboundRequest port link) s = .next (emit (raise1 s 15 fTpEventInboundRefused) .unsupported) := by
  refine (next_live_of_awake up _).trans ?_
  simp only [named, trained, if_true]

theorem exec_tierLinkTimeout_of_due {t : Nat} {x : Bool} (down : mapGet s.tm.down k = some (t, x))
    (late : linkWaitCycles ≤ elapsed s t) :
    exec (.tierLinkTimeout port link) s =
      .next (pokeRetires (pokePlaced { s with tm := { s.tm with down := mapPut s.tm.down k (t, true) } })) := by
  refine (next_live_of_awake up _).trans ?_
  simp only [named, down, due_of_le late, if_true]

theorem exec_tierLinkRetrained_of_down (down : mapGet s.tm.down k ≠ none) :
    exec (.tierLinkRetrained port link) s = .next (pokePlaced
      (setTierUp { s with tm := { s.tm with down := mapDel s.tm.down k } } port link true)) := by
  refine (next_live_of_awake up _).trans ?_
  simp only [named, Option.isSome_iff_ne_none.mpr down, if_true]

end

/-! ## The statement -/

/-- Settles O43: a command by the pairs with room, a buffer by its Write and Flush, a Read by how it came, a link by its own rule. -/
theorem drivesAndTierLinksAct : Obligations.DrivesAndTierLinksAct := by
  refine ⟨fun k s up => ⟨fun c => ⟨fun j free => ?_, fun full => giveDrive_of_full full c⟩, fun b found => ⟨?_, ?_⟩, ?_⟩,
    fun port link k s up named => ⟨fun trained => ?_, fun t x => exec_tierLinkTimeout_of_due up named,
      exec_tierLinkRetrained_of_down up named⟩⟩
  · obtain ⟨isPair, room⟩ := room_of_freePair free
    rw [giveDrive_of_freePair free]
    refine ⟨isPair, room, ?_, fun i _ other => ?_⟩
    · rw [pairOf_enterPair, if_pos rfl]
    · rw [pairOf_enterPair, if_neg other]
  · exact fun kept filled reached ready => exec_extentFlush_of_ready up found reached kept filled ready
  · intro sent has reached l alive
    exact ⟨exec_driveCompletion_of_written up found reached sent has rfl alive,
      exec_driveCompletion_of_failed up found reached sent has rfl alive⟩
  · intro has reached again u left stage ends sound
    have acts := exec_driveReadCompletion_of_has up has reached
    refine ⟨fun good => ?_, fun got bad => ?_, ?_⟩
    · exact (acts .good).trans (congrArg _ (readEnded_of_sound good))
    · have served : got ≠ .error := by obtain rfl | ⟨rfl, -⟩ := bad <;> decide
      rw [acts, if_neg served]
      exact congrArg _ (readEnded_of_unsound bad)
    · exact (acts .error).trans (congrArg _ readEnded_of_error)
  · exact ⟨exec_tierLinkDown_of_up up named trained, exec_inboundRequest_of_up up named trained⟩

end Sys2Proof.Machine

/-!
PROOFS. How a rebuild starts, reads its tails and ends (R256, R396).
-/

namespace Sys2Proof.Machine

/-! ## The start (R396) -/

/-- A context without moves has none to end. -/
theorem endCtxMoves_of_none {s : State} {i : Nat} (still : s.tm.moves.any (fun e => e.2.ctx == i) = false) :
    endCtxMoves s i = s := by
  have noMoves : s.tm.moves.filter (fun e => e.2.ctx == i) = [] :=
    List.filter_eq_nil_iff.mpr (List.any_eq_false.mp still)
  rw [endCtxMoves, noMoves, List.foldl_nil]

theorem rebuildStart_of_idle {s : State} {i : Nat} (idle : inFlight s i = 0)
    (still : s.tm.moves.any (fun e => e.2.ctx == i) = false) (unowned : s.pm.grants.filter (fun g => g.ctx == i) = []) :
    rebuildStart s i = updRebuild s i fun r =>
      { r with started := true, toRead := s.pm.slots.map (·.1), grid := s.time / 1024 } := by
  simp only [rebuildStart, idle, ne_eq, not_true_eq_false, if_false, endCtxMoves_of_none still, unowned, List.map_nil]

/-! ## A tail, and the end after the last (R256, R396) -/

/-- The refetches among the reads of a command leave the rate of a rebuild (R269). -/
theorem rebuildRate_takeReads (s : State) (n : Reads) : rebuildRate (takeReads s n) = rebuildRate s := by
  have kept : getF (takeReads s n) rPfControl fPfControlPassRate = getF s rPfControl fPfControlPassRate := by
    rw [getF, takeReads_regGet s n (by decide), getF]
  rw [rebuildRate, kept, rebuildRate]

section
variable {s : State} (up : awake s = true) {i : Nat} {n : Reads} {r : Rebuild} (found : mapGet s.cf.rebuilds i = some r)
include up found

theorem exec_rebuildTailRead_of_new (new : r.started = false) :
    exec (.rebuildTailRead ⟨i, n⟩) s = .next (rebuildStart s i) := by
  refine (next_live_of_awake up _).trans ?_
  simp only [found, new, Bool.not_false, if_true]

variable (started : r.started = true)
include started

theorem exec_rebuildTailRead_of_read (all : r.toRead = []) :
    exec (.rebuildTailRead ⟨i, n⟩) s = .next (rebuildEnd (takeReads s n) i r) := by
  refine (next_live_of_awake up _).trans ?_
  simp only [found, started, Bool.not_true, Bool.false_eq_true, if_false, all]

/-- A slot that is still allocated is staged first, and then its tail is read. -/
theorem exec_rebuildTailRead_of_next {h : Nat} {rest : List Nat} {u : State} (after : takeReads s n = u)
    (next : r.toRead = h :: rest) (grid : r.grid = s.time / 1024) (paced : r.used < rebuildRate s)
    (reached : accessWaits u h = false) (allocated : taken u h = true) :
    let q := rebuildTail u i h { r with toRead := rest, used := r.used + 1 }
    let v := unstage (poisonedTail u h) [h]
    exec (.rebuildTailRead ⟨i, n⟩) s = .next (
      if unread u [h] ≠ [] then stageCounted u [h]
      else if rest = [] then rebuildEnd v i q else updRebuild v i fun _ => q) := by
  have rate : ¬rebuildRate u ≤ r.used := by
    rw [← after, rebuildRate_takeReads]
    exact Nat.not_le.mpr paced
  have sameGrid : u.time / 1024 = r.grid := by rw [← after, takeReads_time, grid]
  refine (next_live_of_awake up _).trans ?_
  simp only [found, started, Bool.not_true, Bool.false_eq_true, if_false, after, next, sameGrid, if_true, rate, reached,
    or_self, allocated, true_and, readRebuilt]

end

/-! ## The statement -/

/-- Settles O53: the start by what still runs in the context, each tail by its slot, and the end by what is left to read. -/
theorem rebuildsReadTails : Obligations.RebuildsReadTails := by
  intro i n s r up found
  refine ⟨fun new idle still unowned => ?_, exec_rebuildTailRead_of_read up found, ?_⟩
  · rw [exec_rebuildTailRead_of_new up found new, rebuildStart_of_idle idle still unowned]
  · intro h rest started next grid paced reached u q v allocated
    exact exec_rebuildTailRead_of_next up found started rfl next grid paced reached allocated

end Sys2Proof.Machine

/-!
PROOFS. What a host write of a register that gives an order does (R275 to R277, R280, R301, R302, R414, R473, R474, R492, R493).
-/

namespace Sys2Proof.Machine

/-! ## The registers of an array -/

theorem indexIn_rGsIntEnable1 {src : Nat} (lt : src < 64) : indexIn (rGsIntEnable1 0) 8 64 (rGsIntEnable1 src) = some src :=
  indexIn_of_lt (rGsIntEnable1 0) (by decide) lt

theorem indexIn_rQeRingCtrl1 {n : Nat} (lt : n < 64) : indexIn (rQeRingCtrl1 0) 0x40 64 (rQeRingCtrl1 n) = some n :=
  indexIn_of_lt (rQeRingCtrl1 0) (by decide) lt

/-- A register between those of an array is none of them. -/
theorem indexIn_of_mod_ne {base stride n off : Nat} (between : (off - base) % stride ≠ 0) : indexIn base stride n off = none :=
  if_neg fun ⟨_, multiple, _⟩ => between multiple

/-! ## The effect of a write, by register -/

section
variable {lcf : Option Nat} {s : State} {w : RegWrite}

theorem applyWrite_of_gs (block : w.off / 2 ^ 20 = 0x1) : applyWrite lcf s w = writeGs s w := by simp only [applyWrite, block]
theorem applyWrite_of_qe (block : w.off / 2 ^ 20 = 0x2) : applyWrite lcf s w = writeQe s w := by simp only [applyWrite, block]
theorem applyWrite_of_fl (block : w.off / 2 ^ 20 = 0xB) : applyWrite lcf s w = writeFl s lcf w := by simp only [applyWrite, block]

theorem applyWrite_rGsControl (off : w.off = rGsControl) : applyWrite lcf s w = writeGsControl s w := by
  rw [applyWrite_of_gs (by rw [off]; rfl), writeGs, if_pos off]

theorem applyWrite_rGsIntEnable1 {src : Nat} (lt : src < 64) (off : w.off = rGsIntEnable1 src) :
    applyWrite lcf s w = writeIntEnable s 1 src w := by
  have block : rGsIntEnable1 src / 2 ^ 20 = 1 := by unfold rGsIntEnable1; omega
  have notControl : rGsIntEnable1 src ≠ rGsControl := by unfold rGsIntEnable1 rGsControl; omega
  rw [applyWrite_of_gs (by rw [off, block]), writeGs, off, if_neg notControl, indexIn_rGsIntEnable1 lt]

theorem applyWrite_rQeRingCtrl1 {n : Nat} (lt : n < 64) (off : w.off = rQeRingCtrl1 n) :
    applyWrite lcf s w = writeRingCtrl s 1 n w := by
  have block : rQeRingCtrl1 n / 2 ^ 20 = 2 := by unfold rQeRingCtrl1; omega
  have function1 : rQeRingCtrl1 n < 0x203000 := by unfold rQeRingCtrl1; omega
  have notSq : indexIn (rQeSqBase1 0) 0x40 (ringsOf 1) (rQeRingCtrl1 n) = none :=
    indexIn_of_mod_ne (by unfold rQeRingCtrl1 rQeSqBase1; omega)
  have notCq : indexIn (rQeCqBase1 0) 0x40 (ringsOf 1) (rQeRingCtrl1 n) = none :=
    indexIn_of_mod_ne (by unfold rQeRingCtrl1 rQeCqBase1; omega)
  have ctrl : indexIn (rQeRingCtrl1 0) 0x40 (ringsOf 1) (rQeRingCtrl1 n) = some n := indexIn_rQeRingCtrl1 lt
  rw [applyWrite_of_qe (by rw [off, block]), writeQe, off, if_pos function1, writeRings, off, notSq, notCq, ctrl]

theorem applyWrite_rPfPass (off : w.off = rPfPass) : applyWrite lcf s w = writePass s w := by
  rw [applyWrite_of_pf (by rw [off]; rfl), writePf, if_neg (by rw [off]; decide), if_pos off]

theorem applyWrite_rPfTestTarget (off : w.off = rPfTestTarget) : applyWrite lcf s w = writeTestTarget s w := by
  rw [applyWrite_of_pf (by rw [off]; rfl), writePf, if_neg (by rw [off]; decide), if_neg (by rw [off]; decide), if_pos off]

theorem applyWrite_rFlSwap (off : w.off = rFlSwap) : applyWrite lcf s w = writeSwap s lcf w := by
  rw [applyWrite_of_fl (by rw [off]; rfl), writeFl, if_pos off]

theorem applyWrite_rPwState (off : w.off = rPwState) : applyWrite lcf s w = writeState s w := by
  rw [applyWrite_of_pw (by rw [off]; rfl), writePw, if_pos off]

/-! ## The orders -/

/-- `GO` acts while no swap runs (Table 10.7). -/
theorem writeSwap_of_go (go : w.order fFlSwapGo = 1) (free : getB (storeReg s w) rFlSwap fFlSwapBusy = false) (b : Nat) :
    writeSwap s (some b) w = startSwap (storeReg s w) b := by
  simp only [writeSwap, go, free, and_self, if_true]

theorem writePass_of_start (kind : w.get fPfPassKind ≤ 4) (start : w.order fPfPassStart = 1) (stays : w.order fPfPassAbort = 0)
    (idle : s.pf.pass = none) : writePass s w = startPass (storeReg s w) := by
  simp only [writePass, Nat.not_lt.mpr kind, start, stays, idle, Option.isSome_none, Nat.zero_ne_one, and_self, if_true,
    if_false]

theorem writePass_of_abort (kind : w.get fPfPassKind ≤ 4) (noStart : w.order fPfPassStart = 0)
    (abort : w.order fPfPassAbort = 1) : writePass s w = abortPass (storeReg s w) := by
  simp only [writePass, Nat.not_lt.mpr kind, noStart, abort, Nat.zero_ne_one, false_and, if_true, if_false]

theorem writeTestTarget_of_op {op : Nat} (given : w.order fPfTestTargetOp = op) (test : op = 1 ∨ op = 2) :
    writeTestTarget s w = startTest (storeReg s w) op := by
  simp only [writeTestTarget, given, test, if_true]

/-- `LOG2` is taken while the ring is `DISABLED`, and `ENABLE` acts after the other fields (R414). -/
theorem writeRingCtrl_of_disabled {fn n : Nat} (disabled : ringMode s fn n = 0) (low : 4 ≤ w.get fQeRingCtrl1Log2)
    (high : w.get fQeRingCtrl1Log2 ≤ 16) (enable : w.touches fQeRingCtrl1Enable = true) :
    writeRingCtrl s fn n w =
      ringEnable (storeReg s (w.keep fQeRingCtrl1Enable)) fn n (decide (w.get fQeRingCtrl1Enable = 1)) := by
  simp only [writeRingCtrl, disabled, low, high, and_self, enable, if_true]

theorem writeGsControl_of_reset (reset : w.order fGsControlNodeReset = 1) : writeGsControl s w = requestReset .N s :=
  if_pos reset

theorem writeState_of_covers (covers : w.covers fPwStateRequest = true) :
    writeState s w = requestState s (w.order fPwStateRequest) :=
  if_pos covers

end

/-! ## The rows of the orders -/

section
variable {s : State} {a : Access} {r : Reached} (h : Reaches s a r)
include h

theorem exec_flSwapGo_of_reg (reg : r.off = rFlSwap) (b : Nat) :
    exec (.flSwapGo a b) s = .next (writeSwap s (some b) (regWrite s a r)) := by
  have own : ((reachedBy a.off a.size).any fun x => x.off == rFlSwap) = true := by simp [h.only, reg]
  have acts : exec (.flSwapGo a b) s = .next (hostWrite (some b) s a) := congrArg Host.Outcome.next (if_pos own)
  rw [acts, hostWrite_of_reaches h, applyWrite_rFlSwap (w := regWrite s a r) reg]

theorem next_writeRow_rPfPass (reg : r.off = rPfPass) :
    (.next (writeRow (· == rPfPass) a s) : Host.Outcome State Fault Refusal) = .next (writePass s (regWrite s a r)) := by
  rw [next_writeRow_of_reaches h (by simpa using reg), applyWrite_rPfPass (w := regWrite s a r) reg]

theorem exec_passStart_of_bit (reg : r.off = rPfPass) (bit : a.val.toNat / 64 % 2 = 1) :
    exec (.passStart a) s = .next (writePass s (regWrite s a r)) :=
  (congrArg Host.Outcome.next (if_pos bit)).trans (next_writeRow_rPfPass h reg)

theorem exec_passAbort_of_bit (reg : r.off = rPfPass) (bit : a.val.toNat / 128 % 2 = 1) :
    exec (.passAbort a) s = .next (writePass s (regWrite s a r)) :=
  (congrArg Host.Outcome.next (if_pos bit)).trans (next_writeRow_rPfPass h reg)

theorem next_writeRow_rPfTestTarget (reg : r.off = rPfTestTarget) :
    (.next (writeRow (· == rPfTestTarget) a s) : Host.Outcome State Fault Refusal) =
      .next (writeTestTarget s (regWrite s a r)) := by
  rw [next_writeRow_of_reaches h (by simpa using reg), applyWrite_rPfTestTarget (w := regWrite s a r) reg]

theorem exec_splitWrite_of_op (reg : r.off = rPfTestTarget) (op : testOp a = 1) :
    exec (.splitWrite a) s = .next (writeTestTarget s (regWrite s a r)) :=
  (congrArg Host.Outcome.next (if_pos op)).trans (next_writeRow_rPfTestTarget h reg)

theorem exec_testRead_of_op (reg : r.off = rPfTestTarget) (op : testOp a = 2) :
    exec (.testRead a) s = .next (writeTestTarget s (regWrite s a r)) :=
  (congrArg Host.Outcome.next (if_pos op)).trans (next_writeRow_rPfTestTarget h reg)

theorem exec_gsIntEnableWrite_of_lt {src : Nat} (lt : src < 64) (reg : r.off = rGsIntEnable1 src) :
    exec (.gsIntEnableWrite a) s = .next (writeIntEnable s 1 src (regWrite s a r)) := by
  refine (next_writeRow_of_reaches h (by rw [reg, indexIn_rGsIntEnable1 lt]; rfl)).trans ?_
  rw [applyWrite_rGsIntEnable1 (w := regWrite s a r) lt reg]

theorem exec_ringEnableWrite_of_lt {n : Nat} (lt : n < 64) (reg : r.off = rQeRingCtrl1 n) :
    exec (.ringEnableWrite a) s = .next (writeRingCtrl s 1 n (regWrite s a r)) := by
  refine (next_writeRow_of_reaches h (by rw [reg, indexIn_rQeRingCtrl1 lt]; rfl)).trans ?_
  rw [applyWrite_rQeRingCtrl1 (w := regWrite s a r) lt reg]

theorem exec_nodeReset_of_reg (reg : r.off = rGsControl) :
    exec (.nodeReset a) s = .next (writeGsControl s (regWrite s a r)) := by
  refine (next_writeRow_of_reaches h (by simpa using reg)).trans ?_
  rw [applyWrite_rGsControl (w := regWrite s a r) reg]

/-- A request of `PW_STATE` is the value written (R473). -/
theorem requestRow_of_covers {v : Nat} (reg : r.off = rPwState) (whole : a.off = rPwState)
    (covers : (regWrite s a r).covers fPwStateRequest = true) (given : (regWrite s a r).order fPwStateRequest = a.val.toNat % 4)
    (value : a.val.toNat % 4 = v) : requestRow v a s = requestState s v := by
  rw [requestRow, if_pos ⟨whole, value⟩, hostWrite_of_reaches h, applyWrite_rPwState (w := regWrite s a r) reg,
    writeState_of_covers covers, given, value]

end

/-- An enable of a source that a function can read is stored, and one set while its flag is set requests the vector (R493). -/
theorem writeIntEnable_of_eventReg {s : State} {fn src e : Nat} {w : RegWrite} (source : eventReg fn src = some e) :
    writeIntEnable s fn src w =
      if Nat.land (regGet (storeReg s w) e) (Nat.land (w.get fGsIntEnable1Mask) (2 ^ 32 - 1 - fld w.old 0 32)) = 0 then
        storeReg s w else requestEvent (storeReg s w) fn := by
  rw [writeIntEnable, source]

/-! ## The statement -/

/-- Settles O18: the write reaches one register, and the order that its register gives is carried out by its own rule. -/
theorem ordersAreCarriedOut : Obligations.OrdersAreCarriedOut := by
  intro a r s h w
  refine ⟨?_, ?_, ?_, ?_, ?_, ?_, ?_, ?_⟩
  · intro b reg go free
    rw [exec_flSwapGo_of_reg h reg, writeSwap_of_go go free]
  · intro reg kind start stays idle bit
    rw [exec_passStart_of_bit h reg bit, writePass_of_start kind start stays idle]
  · intro reg kind noStart abort bit
    rw [exec_passAbort_of_bit h reg bit, writePass_of_abort kind noStart abort]
  · intro reg given
    refine ⟨fun op => ?_, fun op => ?_⟩
    · rw [exec_splitWrite_of_op h reg op, writeTestTarget_of_op (given.trans op) (.inl rfl)]
    · rw [exec_testRead_of_op h reg op, writeTestTarget_of_op (given.trans op) (.inr rfl)]
  · intro src e lt reg source
    rw [exec_gsIntEnableWrite_of_lt h lt reg, writeIntEnable_of_eventReg source]
  · intro n lt reg disabled low high enable
    rw [exec_ringEnableWrite_of_lt h lt reg, writeRingCtrl_of_disabled disabled low high enable]
  · intro reg reset
    rw [exec_nodeReset_of_reg h reg, writeGsControl_of_reset reset]
  · intro reg whole covers given
    have asked {v : Nat} (value : a.val.toNat % 4 = v) : requestRow v a s = requestState s v :=
      requestRow_of_covers h reg whole covers given value
    exact ⟨fun retain => congrArg Host.Outcome.next (asked retain), fun run => congrArg Host.Outcome.next (asked run)⟩

end Sys2Proof.Machine

/-!
PROOFS. Which failures the error log takes, and which it only counts (R227, R269, R273, R274).
-/

namespace Sys2Proof.Machine

/-! ## What an operation on the registers makes of them follows from them alone -/

section
variable {s t : State} (same : t.regs = s.regs)
include same

theorem setR_regs_congr (o v : Nat) : (setR t o v).regs = (setR s o v).regs := by simp only [setR, same]

theorem setF_regs_congr (o : Nat) (f : Fld) (v : Nat) : (setF t o f v).regs = (setF s o f v).regs := by
  rw [setF, setF, regGet_congr same]
  exact setR_regs_congr same o _

theorem bumpF_regs_congr (o : Nat) (f : Fld) (k : Nat) : (bumpF t o f k).regs = (bumpF s o f k).regs := by
  rw [bumpF, bumpF, getF_congr same]
  exact setF_regs_congr same o f _

end

/-- A flag is set and counted; that its vector is requested shows in no register (R8, R426). -/
theorem raise_regs_of_eventReg {fn src r : Nat} (source : eventReg fn src = some r) (s : State) (bit : Nat) :
    (raise s fn src bit).regs = (bumpF (setF s r ⟨bit, 1⟩ 1) (counterReg fn src bit) fCount 1).regs := by
  simp only [raise, source]
  split
  · exact requestEvent_regs _ fn
  · rfl

theorem raise_regs_congr {s t : State} (same : t.regs = s.regs) (fn src bit : Nat) :
    (raise t fn src bit).regs = (raise s fn src bit).regs := by
  cases source : eventReg fn src with
  | none => simpa only [raise, source] using same
  | some r =>
    rw [raise_regs_of_eventReg source, raise_regs_of_eventReg source]
    exact bumpF_regs_congr (setF_regs_congr same r _ 1) _ _ 1

/-- A flag that was raised is set (R8). -/
theorem getB_raise_same {fn src r bit : Nat} (source : eventReg fn src = some r) (counter : r ≠ counterReg fn src bit)
    (within : bit < 64) (s : State) : getB (raise s fn src bit) r ⟨bit, 1⟩ = true := by
  rw [getB, getF_congr (raise_regs_of_eventReg source s bit), bumpF, getF_setF_ne _ _ _ _ counter,
    getF_setF_same s r ⟨bit, 1⟩ 1 within]
  rfl

/-! ## The parts of logging a failure -/

/-- The score of the channel that a failing GDDR7 line lies in (Table 13.4). -/
def scoreFailure (s : State) (f : Failure) : State :=
  match f.channel with
  | some c => if f.cause ≤ 2 then tally s (314 + c) (256 * 256) else s
  | none => s

/-- Poison is flagged for the read and for its refetch (R227, R269). -/
def flagPoison (s : State) (f : Failure) : State :=
  if f.cause = 5 then raise1 (raise1 s 15 fTpEventPoison) 15 fTpEventPoison else s

/-- What R274 compares failures by. -/
def Failure.key (f : Failure) : Nat × Nat × Nat := (f.handle, f.line, f.cause)

/-- The entries between `PF_LOG_HEAD` and `PF_LOG_TAIL` (R273). -/
def logEntries (s : State) : Nat :=
  (getF s rPfLogTail fPfLogTailPfLogTail + 2 ^ 32 - getF s rPfLogHead fPfLogHeadPfLogHead) % 2 ^ 32

/-- The entry is written, and its failure is one of the last 16 (R273, R274). -/
def enterFailure (s : State) (f : Failure) : State :=
  let tail := getF s rPfLogTail fPfLogTailPfLogTail
  let t := setF (writeLogWords s (tail % 1024) (f.words s.time)) rPfLogTail fPfLogTailPfLogTail (tail + 1)
  { t with pf := { t.pf with recent := (t.pf.recent ++ [f.key]).drop (t.pf.recent.length - 15) } }

theorem logFailure_eq (s : State) (f : Failure) :
    let u := flagPoison (scoreFailure s f) f
    logFailure s f =
      if u.pf.recent.contains f.key then bumpF u rPfLogLost fPfLogLostRepeat 1
      else if logEntries u = 1024 then raise1 (bumpF u rPfLogLost fPfLogLostLost 1) 16 fPfEventLogFull
      else raise1 (enterFailure u f) 16 fPfEventCheckFail := rfl

theorem scoreFailure_regs (s : State) (f : Failure) : (scoreFailure s f).regs = s.regs := by
  unfold scoreFailure
  split
  · split <;> rfl
  · rfl

theorem scoreFailure_pf (s : State) (f : Failure) : (scoreFailure s f).pf = s.pf := by
  unfold scoreFailure
  split
  · split <;> rfl
  · rfl

theorem flagPoison_pf (s : State) (f : Failure) : (flagPoison s f).pf = s.pf := by
  unfold flagPoison
  split
  · rw [raise1_pf, raise1_pf]
  · rfl

theorem flagPoison_regs_congr {s t : State} (same : t.regs = s.regs) (f : Failure) :
    (flagPoison t f).regs = (flagPoison s f).regs := by
  unfold flagPoison
  split
  · exact raise_regs_congr (raise_regs_congr same 1 15 _) 1 15 _
  · exact same

theorem flagPoison_regGet (s : State) (f : Failure) {o : Nat} (flag : rTpEvent ≠ o)
    (counter : o ≠ rTpEventCount fTpEventPoison.lo) :
    regGet (flagPoison s f) o = regGet s o := by
  have flagged (u : State) : regGet (raise1 u 15 fTpEventPoison) o = regGet u o :=
    raise_regGet u 1 15 _ (fun e => flag (Option.some.inj e)) counter
  unfold flagPoison
  split
  · rw [flagged, flagged]
  · rfl

theorem flagPoison_scoreFailure_pf (s : State) (f : Failure) : (flagPoison (scoreFailure s f) f).pf = s.pf := by
  rw [flagPoison_pf, scoreFailure_pf]

/-- Neither the score nor the flags of poison move the log. -/
theorem logEntries_flagPoison_scoreFailure (s : State) (f : Failure) :
    logEntries (flagPoison (scoreFailure s f) f) = logEntries s := by
  have scored := scoreFailure_regs s f
  rw [logEntries, getF, getF, flagPoison_regGet _ f (by decide) (by decide), flagPoison_regGet _ f (by decide) (by decide),
    regGet_congr scored, regGet_congr scored]
  rfl

/-! ## The cases -/

section
variable {s : State} {f : Failure}

theorem logFailure_of_recent (listed : f.key ∈ s.pf.recent) :
    logFailure s f = bumpF (flagPoison (scoreFailure s f) f) rPfLogLost fPfLogLostRepeat 1 := by
  rw [logFailure_eq, flagPoison_scoreFailure_pf, if_pos (List.contains_iff_mem.mpr listed)]

theorem logFailure_of_new (new : f.key ∉ s.pf.recent) (room : logEntries s ≠ 1024) :
    logFailure s f = raise1 (enterFailure (flagPoison (scoreFailure s f) f) f) 16 fPfEventCheckFail := by
  rw [logFailure_eq, flagPoison_scoreFailure_pf, if_neg (fun listed => new (List.contains_iff_mem.mp listed)),
    logEntries_flagPoison_scoreFailure, if_neg room]

end

/-- The words of an entry lie in registers: the list of the last failures stays. -/
theorem writeLogWords_pf (s : State) (slot : Nat) (ws : List Nat) : (writeLogWords s slot ws).pf = s.pf :=
  keep_writeLogWords (P := fun t => t.pf = s.pf) (fun _ _ _ kept => kept) rfl

theorem enterFailure_recent (s : State) (f : Failure) :
    (enterFailure s f).pf.recent = (s.pf.recent ++ [f.key]).drop (s.pf.recent.length - 15) := by
  simp only [enterFailure, setF_pf, writeLogWords_pf]

/-! ## The statement -/

/-- Settles O60: by whether the failure is one of the last 16; the poison it may flag moves neither the list nor the log. -/
theorem repeatedFailuresAreCounted : Obligations.RepeatedFailuresAreCounted := by
  intro f s key v full
  refine ⟨fun listed => ?_, fun new room => ?_⟩
  · rw [logFailure_of_recent listed, bumpF_pf, flagPoison_scoreFailure_pf]
    exact ⟨bumpF_regs_congr (flagPoison_regs_congr (scoreFailure_regs s f) f) _ _ 1, rfl⟩
  · rw [logFailure_of_new new room, raise1_pf, enterFailure_recent, flagPoison_scoreFailure_pf]
    exact ⟨getB_raise_same rfl (by decide) (by decide) _, rfl⟩

end Sys2Proof.Machine

/-!
PROOFS. The ports of the links: what an update of one leaves of the others, and what a link control frame makes of the port that
it comes in by (R296, R301, R302, R305, R315).
-/

namespace Sys2Proof.Machine

/-! ## The ports as a table -/

section
variable {s t : State}

/-- What a port holds follows from the table of the ports alone. -/
theorem portOf_congr (same : t.fl = s.fl) (g : Nat) : portOf t g = portOf s g := by rw [portOf, same, portOf]

@[simp] theorem portOf_setF (o : Nat) (f : Fld) (v g : Nat) : portOf (setF s o f v) g = portOf s g := rfl
@[simp] theorem portOf_setB (o : Nat) (f : Fld) (b : Bool) (g : Nat) : portOf (setB s o f b) g = portOf s g := rfl

@[simp] theorem portOf_updPort_same (g : Nat) (f : Port → Port) : portOf (updPort s g f) g = f (portOf s g) := by
  simp only [portOf, updPort, setPort, mapGet_put_same, Option.getD_some]

theorem portOf_updPort_ne {g q : Nat} (other : q ≠ g) (f : Port → Port) : portOf (updPort s g f) q = portOf s q := by
  simp only [portOf, updPort, setPort, mapGet_put_ne _ _ other]

@[simp] theorem updPort_time (g : Nat) (f : Port → Port) : (updPort s g f).time = s.time := rfl
@[simp] theorem getF_updPort (g : Nat) (p : Port → Port) (o : Nat) (f : Fld) : getF (updPort s g p) o f = getF s o f := rfl
@[simp] theorem getB_updPort (g : Nat) (p : Port → Port) (o : Nat) (f : Fld) : getB (updPort s g p) o f = getB s o f := rfl
@[simp] theorem portState_updPort (g : Nat) (p : Port → Port) (q : Nat) : portState (updPort s g p) q = portState s q := rfl

theorem portState_setPortState (g v : Nat) : portState (setPortState s g v) g = v % 2 ^ 3 :=
  getF_setF_same s (rFlPort g) fFlPortState v (by decide)

end

/-! ## A link control frame acts on a port that is up (R296, R315) -/

section
variable {s : State} {p type : Nat} {b : Bytes}

theorem lcfRow_of_up (on : awake s = true) (up : portUp s p = true) (takes : discarding s = false)
    (named : bfld b 0 0 4 = type) : lcfRow s p type b = takeLcf s p b := by
  simp only [lcfRow, live_of_awake on, up, takes, named, Bool.not_false, decide_true, Bool.and_self, if_true]

end

theorem sendLcf_of_up {s : State} {p : Nat} (up : portUp s p = true) (b : Bytes) :
    sendLcf s p b = updPort s p fun q => { q with lcf := q.lcf ++ [b] } := by
  simp only [sendLcf, up, Bool.true_or, if_true]

section
variable {s : State} {p : Nat} {b : Bytes} (on : awake s = true) (up : portUp s p = true) (takes : discarding s = false)
include on up takes

theorem exec_hello_of_up (whole : b.length = 64) (named : bfld b 0 0 4 = 0) :
    exec (.hello p b) s = .next (takeHello s p b) := by
  refine (congrArg _ (lcfRow_of_up on up takes named)).trans ?_
  simp only [takeLcf, whole, named, ne_eq, not_true_eq_false, if_false]

theorem exec_pause_of_up (whole : b.length = 64) (named : bfld b 0 0 4 = 1) :
    exec (.pause p b) s = .next (takePause s p b) := by
  refine (congrArg _ (lcfRow_of_up on up takes named)).trans ?_
  simp only [takeLcf, whole, named, ne_eq, not_true_eq_false, if_false]

theorem exec_swapReq_of_up (whole : b.length = 64) (named : bfld b 0 0 4 = 2) :
    exec (.swapReq p b) s = .next (takeSwapReq s p b) := by
  refine (congrArg _ (lcfRow_of_up on up takes named)).trans ?_
  simp only [takeLcf, whole, named, ne_eq, not_true_eq_false, if_false]

theorem exec_swapAck_of_up (whole : b.length = 64) (named : bfld b 0 0 4 = 3) :
    exec (.swapAck p b) s = .next (takeSwapAck s p b) := by
  refine (congrArg _ (lcfRow_of_up on up takes named)).trans ?_
  simp only [takeLcf, whole, named, ne_eq, not_true_eq_false, if_false]

end

theorem exec_helloSend_of_up {s : State} {p : Nat} (on : awake s = true) (up : portUp s p = true) :
    exec (.helloSend p) s = .next (updPort s p fun q => { q with lcf := q.lcf ++ [mkLcf s p 0] }) :=
  (next_live_of_awake on _).trans (congrArg Host.Outcome.next (sendLcf_of_up up _))

/-! ## HELLO (R296, R314) -/

/-- The partner that a `HELLO` names is recorded. -/
def partnerNoted (s : State) (p node : Nat) : State :=
  updPort (setB (setF s (rFlPort p) fFlPortPartner node) (rFlPort p) fFlPortPartnerValid true) p fun q =>
    { q with heard := some node }

theorem takeHello_eq (s : State) (p : Nat) (b : Bytes) :
    let node := bfld b 0 12 12
    let u := partnerNoted s p node
    takeHello s p b = if isRing p && (portOf s p).heard.any (· ≠ node)
      then noticeManagers (raise1 (raise1 u (17 + p) fFlPortEventNeighbourChange) 55 fCfEventRingChange) 3 p else u := rfl

theorem getF_partnerNoted (s : State) (p node : Nat) : getF (partnerNoted s p node) (rFlPort p) fFlPortPartner = node % 2 ^ 12 := by
  rw [partnerNoted, getF_updPort, setB, getF_setF_other _ _ _ _ _ (by decide) (by decide)]
  exact getF_setF_same s _ _ _ (by decide)

theorem getB_partnerNoted (s : State) (p node : Nat) :
    getB (partnerNoted s p node) (rFlPort p) fFlPortPartnerValid = true := by
  rw [partnerNoted, getB_updPort]
  exact getB_setB_same _ _ _ true (by decide) (by decide)

/-! ## PAUSE (R305) -/

/-- One class of a `PAUSE`: named, it is held for its time, or released at time 0. -/
def holdClass (p : Nat) (b : Bytes) (s : State) (c : Nat) : State :=
  if bfld b 4 c 1 = 0 then s
  else
    let t := num b (8 + 2 * c) 2
    updPort s p fun q =>
      if t = 0 then { q with paused := mapDel q.paused c, stalled := q.stalled.filter (· ≠ c) }
      else
        let since := match mapGet q.paused c with
          | some x => x.since
          | none => s.time
        { q with paused := mapPut q.paused c ⟨(s.time + pauseCycles t) % 2 ^ 64, since⟩ }

theorem takePause_eq (s : State) (p : Nat) (b : Bytes) : takePause s p b = (List.range 8).foldl (holdClass p b) s := rfl

/-- The time at which a `PAUSE` that comes now lets a class go. -/
def pausedUntil (s : State) (b : Bytes) (c : Nat) : Nat := (s.time + pauseCycles (num b (8 + 2 * c) 2)) % 2 ^ 64

section
variable (p : Nat) (b : Bytes) (s : State) (c : Nat)

theorem holdClass_time : (holdClass p b s c).time = s.time := by unfold holdClass; split <;> rfl

theorem holdClass_regs : (holdClass p b s c).regs = s.regs := by unfold holdClass; split <;> rfl

theorem portOf_holdClass_ne {q : Nat} (other : q ≠ p) : portOf (holdClass p b s c) q = portOf s q := by
  unfold holdClass
  split
  · rfl
  · exact portOf_updPort_ne other _

end

section
variable {p : Nat} {b : Bytes} {s : State} {c : Nat}

theorem paused_holdClass_named (named : bfld b 4 c 1 = 1) (lasts : num b (8 + 2 * c) 2 ≠ 0) :
    (mapGet (portOf (holdClass p b s c) p).paused c).map (·.until_) = some (pausedUntil s b c) := by
  simp only [holdClass, named, lasts, Nat.one_ne_zero, if_false, portOf_updPort_same, mapGet_put_same, Option.map_some, pausedUntil]

theorem paused_holdClass_other {d : Nat} (other : c = d → bfld b 4 d 1 = 0)
    (lasts : bfld b 4 d 1 = 1 → num b (8 + 2 * d) 2 ≠ 0) :
    mapGet (portOf (holdClass p b s d) p).paused c = mapGet (portOf s p).paused c := by
  by_cases named : bfld b 4 d 1 = 0
  · rw [holdClass, if_pos named]
  · have bit : bfld b 4 d 1 < 2 := fld_lt _ _ _
    have lasting := lasts (by omega)
    have apart : c ≠ d := fun same => named (other same)
    simp only [holdClass, named, lasting, if_false, portOf_updPort_same, mapGet_put_ne _ _ apart]

/-! ### The classes of a frame, one after another -/

theorem foldl_holdClass_regs (cs : List Nat) : (cs.foldl (holdClass p b) s).regs = s.regs := by
  induction cs generalizing s with
  | nil => rfl
  | cons d cs ih => rw [List.foldl_cons, ih, holdClass_regs]

theorem portOf_foldl_holdClass_ne {q : Nat} (other : q ≠ p) (cs : List Nat) :
    portOf (cs.foldl (holdClass p b) s) q = portOf s q := by
  induction cs generalizing s with
  | nil => rfl
  | cons d cs ih => rw [List.foldl_cons, ih, portOf_holdClass_ne _ _ _ _ other]

variable {cs : List Nat} (lasts : ∀ d ∈ cs, bfld b 4 d 1 = 1 → num b (8 + 2 * d) 2 ≠ 0)
include lasts

/-- A class that is not named keeps its pause. -/
theorem paused_foldl_holdClass_other (other : c ∈ cs → bfld b 4 c 1 = 0) :
    mapGet (portOf (cs.foldl (holdClass p b) s) p).paused c = mapGet (portOf s p).paused c := by
  induction cs generalizing s with
  | nil => rfl
  | cons d cs ih =>
    rw [List.forall_mem_cons] at lasts
    rw [List.foldl_cons, ih lasts.2 fun mem => other (List.mem_cons_of_mem _ mem),
      paused_holdClass_other (fun same => same ▸ other (same ▸ List.mem_cons_self)) lasts.1]

/-- A class that is named is held from the time at which the frame came. -/
theorem paused_foldl_holdClass_named (once : cs.Nodup) (mem : c ∈ cs) (named : bfld b 4 c 1 = 1) :
    (mapGet (portOf (cs.foldl (holdClass p b) s) p).paused c).map (·.until_) = some (pausedUntil s b c) := by
  induction cs generalizing s with
  | nil => cases mem
  | cons d cs ih =>
    rw [List.forall_mem_cons] at lasts
    obtain ⟨first, later⟩ := List.nodup_cons.mp once
    rw [List.foldl_cons]
    rcases List.mem_cons.mp mem with rfl | mem
    · rw [paused_foldl_holdClass_other lasts.2 fun again => absurd again first,
        paused_holdClass_named named (lasts.1 named)]
    · rw [ih lasts.2 later mem, pausedUntil, holdClass_time, pausedUntil]

end

/-! ## SWAP_REQ and SWAP_ACK (R301, R302) -/

section
variable {s : State} {p : Nat} {b : Bytes}

/-- With no swap in progress a request is answered, and held unless the spare lane is in use or there is none. -/
theorem takeSwapReq_of_idle (up : portUp s p = true) (idle : (portOf s p).swap = none) :
    let u := updPort s p fun q => { q with lcf := q.lcf ++ [mkSwap s p 3 (bfld b 0x18 0 4) 0 (num b 0x1C 4)] }
    takeSwapReq s p b = if getB s (rFlPort p) fFlPortSpareIn || isRing p then u
      else updPort u p fun q =>
        { q with swap := some ⟨bfld b 0x18 0 4, num b 0x1C 4, false, true, s.time, decide (bfld b 0x18 4 1 = 1)⟩ } := by
  simp only [takeSwapReq, sendLcf_of_up up, portOf_updPort_same, idle, getB_updPort, updPort_time]

theorem takeSwapAck_of_ours {w : Swap} (swap : (portOf s p).swap = some w) (ours : w.ours = true)
    (lane : w.lane = bfld b 0x18 0 4) (block : w.block = num b 0x1C 4) :
    takeSwapAck s p b = updPort s p fun x => { x with swap := some { w with acked := true } } := by
  simp only [takeSwapAck, swap, ours, lane, block, true_or, and_self, if_true]

end

/-! ## The statement -/

/-- Settles O9: each type by what its frame leaves of the port that it came in by, a `PAUSE` class by class. -/
theorem linkControlFramesAct : Obligations.LinkControlFramesAct := by
  intro p b s on up takes
  refine ⟨fun whole named => ?_, fun whole named lasts => ?_, fun whole named idle => ?_,
    fun whole named w swap ours lane block => ?_, exec_helloSend_of_up on up⟩
  · refine ⟨partnerNoted s p (bfld b 0 12 12), ?_, ?_, getB_partnerNoted _ _ _, ?_, ?_⟩
    · rw [exec_hello_of_up on up takes whole named, takeHello_eq]
    · exact (getF_partnerNoted _ _ _).trans (Nat.mod_eq_of_lt (fld_lt _ _ _))
    · rw [partnerNoted, portOf_updPort_same]
    · exact fun q other => portOf_updPort_ne other _
  · have lasting : ∀ d ∈ List.range 8, bfld b 4 d 1 = 1 → num b (8 + 2 * d) 2 ≠ 0 :=
      fun d mem => lasts d (List.mem_range.mp mem)
    refine ⟨takePause s p b, exec_pause_of_up on up takes whole named, ?_⟩
    rw [takePause_eq]
    refine ⟨foldl_holdClass_regs _, fun q other => portOf_foldl_holdClass_ne other _, fun c lt => ?_⟩
    split
    case isTrue held => exact paused_foldl_holdClass_named lasting List.nodup_range (List.mem_range.mpr lt) held
    case isFalse free =>
      have bit : bfld b 4 c 1 < 2 := fld_lt _ _ _
      exact paused_foldl_holdClass_other lasting fun _ => by omega
  · refine ⟨takeSwapReq s p b, exec_swapReq_of_up on up takes whole named, ?_⟩
    rw [takeSwapReq_of_idle up idle]
    split
    case isTrue none_ =>
      exact ⟨rfl, fun q other => portOf_updPort_ne other _, by rw [portOf_updPort_same],
        by rw [portOf_updPort_same, idle]⟩
    case isFalse =>
      refine ⟨rfl, fun q other => ?_, ?_, ?_⟩
      · rw [portOf_updPort_ne other, portOf_updPort_ne other]
      · rw [portOf_updPort_same, portOf_updPort_same]
      · rw [portOf_updPort_same]
  · rw [exec_swapAck_of_up on up takes whole named, takeSwapAck_of_ours swap ours lane block]

end Sys2Proof.Machine

/-!
PROOFS. The pause timers of a port and the end of a lane swap (R301 to R303, R305, R306, R448, R450).
-/

namespace Sys2Proof.Machine

/-! ## Pause timers (R303, R305, R306) -/

section
variable {s : State} {p tc t : Nat} {x : Paused} (on : awake s = true)
include on

theorem exec_pauseRepeat_of_due (sent : mapGet (portOf s p).sent tc = some t) (time : getF s rFlControl fFlControlPauseTime ≠ 0)
    (fill : regionLo s p tc < regionFill s p tc)
    (late : cyclesNs (16 * getF s rFlControl fFlControlPauseTime) ≤ elapsed s t) :
    exec (.pauseRepeat p tc) s =
      .next (sendPause (updPort s p fun q => { q with sent := mapPut q.sent tc s.time }) p [tc]) := by
  refine (next_live_of_awake on _).trans ?_
  simp only [sent, time, fill, due_of_le late, ne_eq, not_false_eq_true, and_self, if_true]

theorem exec_pauseExpiry_of_reached (paused : mapGet (portOf s p).paused tc = some x) (ended : reached s x.until_ = true) :
    exec (.pauseExpiry p tc) s = .next (updPort s p fun q =>
      { q with paused := mapDel q.paused tc, stalled := q.stalled.filter (· ≠ tc) }) := by
  refine (next_live_of_awake on _).trans ?_
  simp only [paused, ended, if_true]

theorem exec_pauseWatchdog_of_late (paused : mapGet (portOf s p).paused tc = some x)
    (limit : 1024 * getF s rFlControl fFlControlPauseWatchdog ≠ 0)
    (late : 1024 * getF s rFlControl fFlControlPauseWatchdog < elapsed s x.since)
    (first : (portOf s p).stalled.contains tc = false) :
    exec (.pauseWatchdog p tc) s =
      .next (updPort (tally (raise1 s (17 + p) fFlPortEventPauseStall) (288 + p) (16 * 256)) p
        fun q => { q with stalled := q.stalled ++ [tc] }) := by
  refine (next_live_of_awake on _).trans ?_
  simp only [paused, limit, late, first, ne_eq, not_false_eq_true, and_self, if_true]

end

/-! ## A record of the Tense block is committed (R448, R450) -/

section
variable (s : State) (record : Nat)

/-- The flags of the Tense block lie in its own registers. -/
theorem regGet_raise0_tn {bit : Fld} {o : Nat} (below : o < rTnEvent) : regGet (raise0 s 57 bit) o = regGet s o := by
  have event : eventReg 0 57 = some rTnEvent := rfl
  have counter : counterReg 0 57 bit.lo = rTnEventCount bit.lo := rfl
  refine raise_regGet s 0 57 bit.lo ?_ ?_
  · rw [event]
    exact fun same => below.ne' (Option.some.inj same)
  · have above : rTnEvent < rTnEventCount bit.lo := by unfold rTnEvent rTnEventCount; omega
    exact counter ▸ (below.trans above).ne

theorem regGet_writeSector {o : Nat} (below : o < rTnEvent) : regGet (writeSector s record) o = regGet s o := by
  unfold writeSector spareSector
  dsimp only
  split
  · split
    · rw [regGet_raise0_tn _ below]; rfl
    · rw [regGet_raise0_tn _ below]; rfl
  · rfl

theorem writeSector_lanes : (writeSector s record).tn.lanes = s.tn.lanes := by
  unfold writeSector spareSector
  dsimp only
  split
  · split
    · rw [raise0_tn]
    · rw [raise0_tn]
  · rfl

theorem regGet_commit {o : Nat} (below : o < rTnEvent) : regGet (commit s record) o = regGet s o := by
  rw [commit, regGet_writeSector _ _ below, regGet_writeSector _ _ below]

theorem commit_lanes : (commit s record).tn.lanes = s.tn.lanes := by
  rw [commit, writeSector_lanes, writeSector_lanes]

end

/-! ## A lane is retired (R301, R455) -/

section
variable (s : State) (p l : Nat)

theorem regGet_retireLane {o : Nat} (below : o < rTnEvent) : regGet (retireLane s p l) o = regGet s o :=
  regGet_commit _ _ below

theorem portOf_retireLane (q : Nat) : portOf (retireLane s p l) q = portOf s q := portOf_congr commit_fl q

theorem retiredLane_retireLane : retiredLane (retireLane s p l) p l = true := by
  rw [retiredLane, laneHist, retireLane, putHist, commit_lanes, mapGet_put_same, Option.getD_some]

end

/-! ## The command of a swap ends (R302) -/

section
variable (s : State) (st : Nat)

theorem regGet_endSwap {o : Nat} (other : o ≠ rFlSwap) : regGet (endSwap s st) o = regGet s o := by
  rw [endSwap, regGet_setF_ne _ _ _ other, setB, regGet_setF_ne _ _ _ other]


theorem getB_endSwap_busy : getB (endSwap s st) rFlSwap fFlSwapBusy = false := by
  rw [endSwap, getB, getF_setF_other _ _ _ _ _ (by decide) (by decide)]
  exact getB_setB_same s _ _ false (by decide) (by decide)

theorem getF_endSwap_status : getF (endSwap s st) rFlSwap fFlSwapStatus = st % 2 ^ 8 :=
  getF_setF_same _ _ _ _ (by decide)

end

/-! ## The spare takes a lane's place (R301) -/

/-- The spare stands for the lane of a swap, which is in progress no more. -/
def spareTaken (s : State) (p : Nat) (w : Swap) : State :=
  setF (setB (updPort s p fun q => { q with swap := none }) (rFlPort p) fFlPortSpareIn true) (rFlPort p) fFlPortSpareFor w.lane

/-- The map of the lanes in use once the spare carries data: a lane that moves in both directions leaves it. -/
def mapWithSpare (s : State) (p : Nat) (w : Swap) : Nat :=
  let m := setFld (getF s (rFlPort p) fFlPortLaneMap) (physLane s p 16) 1 1
  if w.both then setFld m (physLane s p w.lane) 1 0 else m

/-- The spare stands for the lane, and the map says so. -/
def spareStands (s : State) (p : Nat) (w : Swap) : State :=
  setF (spareTaken s p w) (rFlPort p) fFlPortLaneMap (mapWithSpare (spareTaken s p w) p w)

/-- The lane that moves in both directions is recorded as retired. -/
def laneLeft (s : State) (p : Nat) (w : Swap) : State :=
  let t := spareStands s p w
  if w.both then retireLane t p (physLane t p w.lane) else t

section
variable (s : State) (p : Nat) (w : Swap)

/-- A swap moves no logical lane to another place: the spare has its own. -/
theorem physLane_spareTaken (l : Nat) : physLane (spareTaken s p w) p l = physLane s p l := by
  simp only [physLane, spareTaken, portOf_setF, portOf_setB, portOf_updPort_same]

theorem physLane_spareStands (l : Nat) : physLane (spareStands s p w) p l = physLane s p l := by
  rw [physLane, spareStands, portOf_setF, ← physLane, physLane_spareTaken]

theorem mapWithSpare_spareTaken : mapWithSpare (spareTaken s p w) p w = mapWithSpare s p w := by
  have map : getF (spareTaken s p w) (rFlPort p) fFlPortLaneMap = getF s (rFlPort p) fFlPortLaneMap := by
    rw [spareTaken, getF_setF_other _ _ _ _ _ (by decide) (by decide), setB,
      getF_setF_other _ _ _ _ _ (by decide) (by decide), getF_updPort]
  simp only [mapWithSpare, map, physLane_spareTaken]

theorem swap_spareStands : (portOf (spareStands s p w) p).swap = none := by
  simp only [spareStands, spareTaken, portOf_setF, portOf_setB, portOf_updPort_same]

theorem getB_spareStands : getB (spareStands s p w) (rFlPort p) fFlPortSpareIn = true := by
  rw [getB, spareStands, getF_setF_other _ _ _ _ _ (by decide) (by decide), spareTaken,
    getF_setF_other _ _ _ _ _ (by decide) (by decide)]
  exact getB_setB_same _ _ _ true (by decide) (by decide)

theorem getF_spareStands_for : getF (spareStands s p w) (rFlPort p) fFlPortSpareFor = w.lane % 2 ^ 4 := by
  rw [spareStands, getF_setF_other _ _ _ _ _ (by decide) (by decide)]
  exact getF_setF_same _ _ _ _ (by decide)

theorem getF_spareStands_map : getF (spareStands s p w) (rFlPort p) fFlPortLaneMap = mapWithSpare s p w % 2 ^ 17 := by
  rw [← mapWithSpare_spareTaken]
  exact getF_setF_same _ _ _ _ (by decide)

theorem swap_laneLeft : (portOf (laneLeft s p w) p).swap = none := by
  unfold laneLeft
  split
  · rw [portOf_retireLane, swap_spareStands]
  · exact swap_spareStands s p w

theorem regGet_laneLeft {o : Nat} (below : o < rTnEvent) : regGet (laneLeft s p w) o = regGet (spareStands s p w) o := by
  unfold laneLeft
  split
  · exact regGet_retireLane _ _ _ below
  · rfl

theorem retiredLane_laneLeft (both : w.both = true) : retiredLane (laneLeft s p w) p (physLane s p w.lane) = true := by
  rw [laneLeft, if_pos both, physLane_spareStands, retiredLane_retireLane]

theorem lanes_laneLeft (oneWay : w.both = false) : (laneLeft s p w).tn.lanes = s.tn.lanes := by
  rw [laneLeft, if_neg (by rw [oneWay]; decide)]
  rfl

end

/-- The swap has taken effect, and its command, if it is this node's, has ended. -/
def swapDone (s : State) (p : Nat) (w : Swap) : State := if w.ours then endSwap (laneLeft s p w) stOk else laneLeft s p w

section
variable {s : State} {p : Nat} {w : Swap}

theorem swapDone_lanes : (swapDone s p w).tn.lanes = (laneLeft s p w).tn.lanes := by unfold swapDone; split <;> rfl

theorem portOf_swapDone (q : Nat) : portOf (swapDone s p w) q = portOf (laneLeft s p w) q := by unfold swapDone; split <;> rfl

theorem regGet_swapDone_rFlPort (port : p < 16) : regGet (swapDone s p w) (rFlPort p) = regGet (spareStands s p w) (rFlPort p) := by
  have below : rFlPort p < rTnEvent := by unfold rFlPort rTnEvent; omega
  have other : rFlPort p ≠ rFlSwap := by unfold rFlPort rFlSwap; omega
  unfold swapDone
  split
  · rw [regGet_endSwap _ _ other, regGet_laneLeft _ _ _ below]
  · rw [regGet_laneLeft _ _ _ below]

theorem getF_swapDone_rFlPort (port : p < 16) (f : Fld) :
    getF (swapDone s p w) (rFlPort p) f = getF (spareStands s p w) (rFlPort p) f := by
  rw [getF, regGet_swapDone_rFlPort port, getF]

theorem exec_swapMarker_of_agreed {block : Nat} (on : awake s = true) (swap : (portOf s p).swap = some w)
    (acked : w.acked = true) (named : w.block = block) (passed : markerPassed s p block = true) :
    exec (.swapMarker p block) s = .next (swapDone s p w) := by
  refine (next_live_of_awake on _).trans ?_
  simp only [swap, acked, named, passed, and_self, if_true]
  rfl

theorem exec_swapTimeout_of_due (on : awake s = true) (swap : (portOf s p).swap = some w) (unanswered : w.acked = false)
    (late : 9400 ≤ elapsed s w.start) :
    let u := updPort (raise1 s (17 + p) fFlPortEventSwapFail) p fun q => { q with swap := none }
    exec (.swapTimeout p) s = .next (if w.ours = true then endSwap u stTimeout else u) := by
  refine (next_live_of_awake on _).trans ?_
  simp only [swap, unanswered, due_of_le late, and_self, if_true]

end

/-! ## The statement -/

/-- Settles O10: each timer from what the port holds of its class, and a swap by whether it was agreed. -/
theorem pauseTimersAndLaneSwapsEnd : Obligations.PauseTimersAndLaneSwapsEnd := by
  refine ⟨fun p tc s on => ⟨fun t sent time fill late => exec_pauseRepeat_of_due on sent time fill late,
    fun x paused ended => exec_pauseExpiry_of_reached on paused ended,
    fun x paused limit late first => exec_pauseWatchdog_of_late on paused limit late first⟩,
    fun p block s w on port lane swap => ⟨fun acked named passed => ?_, fun unanswered late =>
      exec_swapTimeout_of_due on swap unanswered late⟩⟩
  refine ⟨swapDone s p w, exec_swapMarker_of_agreed on swap acked named passed, ?_, ?_, ?_, fun both => ⟨?_, ?_⟩,
    fun oneWay => ⟨?_, ?_⟩, fun ours => ⟨?_, ?_⟩⟩
  · rw [portOf_swapDone, swap_laneLeft]
  · rw [getB, getF_swapDone_rFlPort port]
    exact getB_spareStands s p w
  · rw [getF_swapDone_rFlPort port, getF_spareStands_for]
    exact Nat.mod_eq_of_lt lane
  · rw [retiredLane, laneHist, swapDone_lanes]
    exact retiredLane_laneLeft s p w both
  · rw [getF_swapDone_rFlPort port, getF_spareStands_map, mapWithSpare, if_pos both]
  · rw [swapDone_lanes, lanes_laneLeft s p w oneWay]
  · rw [getF_swapDone_rFlPort port, getF_spareStands_map, mapWithSpare, if_neg (by rw [oneWay]; decide)]
  · rw [swapDone, if_pos ours, getB_endSwap_busy]
  · rw [swapDone, if_pos ours, getF_endSwap_status]
    rfl

end Sys2Proof.Machine

/-!
PROOFS. What a port does with a frame that arrives, and which frame it starts when it is free (R294, R295, R303, R308, R354, R355,
R386).
-/

namespace Sys2Proof.Machine

/-! ## A frame arrives -/

theorem exec_frameReceive_of_up {s : State} {p : Nat} (on : awake s = true) (up : portUp s p = true)
    (takes : discarding s = false) (f : Bytes) : exec (.frameReceive p f) s = .next (takeFrame s p f) := by
  refine (next_live_of_awake on _).trans ?_
  simp only [up, takes, Bool.not_false, Bool.and_self, if_true]

/-- The packet that a frame carries (Table 10.2). -/
def packetOf (f : Bytes) : Bytes := slice f 8 (f.length - 12)

/-- The packet of a frame enters its class region when the meter lets it. -/
def keepFrame (p : Nat) (f : Bytes) (metered : Bool × State) : State :=
  if metered.1 then (enterRegion metered.2 p ⟨bfld f 0 0 3, 0, 0, packetOf f, none, []⟩).2 else metered.2

section
variable {s : State} {p : Nat} {f : Bytes}

theorem takeFrame_of_bad (bad : frameOk f = false) :
    takeFrame s p f = tally (raise1 s (17 + p) fFlPortEventCrcDrop) (288 + p) (4 * 256) := by
  simp only [takeFrame, bad, Bool.not_false, if_true]

variable (good : frameOk f = true)
include good

theorem takeFrame_of_lcf (lcf : bfld f 0 3 1 = 1) : takeFrame s p f = takeLcf s p (packetOf f) := by
  simp only [takeFrame, good, lcf, Bool.not_true, Bool.false_eq_true, if_true, if_false, packetOf]

variable (data : bfld f 0 3 1 = 0)
include data

theorem takeFrame_of_stopped (stopped : fenceStops s p (bfld f 0 0 3) (packetOf f) = true) :
    takeFrame s p f = raise1 s 55 fCfEventFenceDrop := by
  simp only [packetOf] at stopped
  simp only [takeFrame, good, data, stopped, Bool.not_true, Bool.false_eq_true, Nat.zero_ne_one, if_true, if_false]

variable (passes : fenceStops s p (bfld f 0 0 3) (packetOf f) = false)
include passes

/-- A frame that the fence lets pass is forwarded on the ring, metered when it is for this node, and else only kept. -/
theorem takeFrame_of_passing :
    takeFrame s p f = if isRing p ∧ bfld f 0 4 12 ≠ nodeId s then
        forwardFrame s p (bfld f 0 0 3) (bfld f 0 4 12) (bfld f 0 16 6) (packetOf f)
      else keepFrame p f (if isRing p || decide ((hdrOf (packetOf f)).dst = nodeId s) then
        meter s p (bfld f 0 0 3) (packetOf f) else (true, s)) := by
  simp only [packetOf] at passes ⊢
  simp only [takeFrame, good, data, passes, Bool.not_true, Bool.false_eq_true, Nat.zero_ne_one, if_false]
  rfl

theorem takeFrame_of_transit (ring : 16 ≤ p) (other : bfld f 0 4 12 ≠ nodeId s) :
    takeFrame s p f = forwardFrame s p (bfld f 0 0 3) (bfld f 0 4 12) (bfld f 0 16 6) (packetOf f) := by
  rw [takeFrame_of_passing good data passes, if_pos ⟨decide_eq_true ring, other⟩]

theorem takeFrame_of_foreign (fabric : p < 16) (other : (hdrOf (packetOf f)).dst ≠ nodeId s) :
    takeFrame s p f = (enterRegion s p ⟨bfld f 0 0 3, 0, 0, packetOf f, none, []⟩).2 := by
  have notRing : isRing p = false := decide_eq_false (Nat.not_le.mpr fabric)
  simp only [takeFrame_of_passing good data passes, notRing, other, decide_false, Bool.or_self, Bool.false_eq_true, false_and,
    if_false, keepFrame, if_true]

theorem takeFrame_of_own
    (own : 16 ≤ p ∧ bfld f 0 4 12 = nodeId s ∨ p < 16 ∧ (hdrOf (packetOf f)).dst = nodeId s) :
    takeFrame s p f = keepFrame p f (meter s p (bfld f 0 0 3) (packetOf f)) := by
  have stays : ¬(isRing p ∧ bfld f 0 4 12 ≠ nodeId s) := by
    rcases own with ⟨_, here⟩ | ⟨fabric, _⟩
    · exact fun transit => transit.2 here
    · exact fun transit => absurd (of_decide_eq_true transit.1) (Nat.not_le.mpr fabric)
  have metered : (isRing p || decide ((hdrOf (packetOf f)).dst = nodeId s)) = true := by
    rcases own with ⟨ring, _⟩ | ⟨_, here⟩
    · simp only [isRing, ring, decide_true, Bool.true_or]
    · simp only [here, decide_true, Bool.or_true]
  rw [takeFrame_of_passing good data passes, if_neg stays, if_pos metered]

end

/-! ## A port that is free starts a frame (R354, R355, R386) -/

section
variable {s : State} {p : Nat} (on : awake s = true) (up : portUp s p = true)
include on up

theorem exec_frameStart_of_lcf {b : Bytes} {rest : List Bytes} (waits : (portOf s p).lcf = b :: rest) :
    exec (.frameStart p) s = .next (emit (updPort s p fun q => { q with lcf := rest }) (.frame p (mkFrame 7 1 0 0 b))) := by
  refine (next_live_of_awake on _).trans ?_
  simp only [up, waits, Bool.not_true, Bool.false_eq_true, if_false]

theorem exec_frameStart_of_class {c : Nat} {f : Frame} (noLcf : (portOf s p).lcf = []) (next : nextClass s p = some (c, f)) :
    exec (.frameStart p) s = .next (if c = 7 then fenceAfter (startFrame s p c f) p f.pkt else startFrame s p c f) := by
  refine (next_live_of_awake on _).trans ?_
  simp only [up, noLcf, next, Bool.not_true, Bool.false_eq_true, if_false]

theorem exec_frameStart_of_none (noLcf : (portOf s p).lcf = []) (next : nextClass s p = none) :
    exec (.frameStart p) s = .next (emit s (.idle p)) := by
  refine (next_live_of_awake on _).trans ?_
  simp only [up, noLcf, next, Bool.not_true, Bool.false_eq_true, if_false]

end

/-! ## The statement -/

/-- Settles O12: a frame by what it is and for whom, and a free port by what waits on it. -/
theorem framesArriveAndStart : Obligations.FramesArriveAndStart := by
  refine ⟨fun p f s on up takes => ?_, fun p s on up => ⟨fun b rest waits => exec_frameStart_of_lcf on up waits,
    fun c f noLcf next => exec_frameStart_of_class on up noLcf next, fun noLcf next => exec_frameStart_of_none on up noLcf next⟩⟩
  rw [exec_frameReceive_of_up on up takes f]
  refine ⟨fun bad => ?_, fun good lcf => ?_, fun good data stopped => ?_, fun good data passes ring other => ?_,
    fun good data passes fabric other => ?_, fun good data passes own => ?_⟩
  · rw [takeFrame_of_bad bad]
  · rw [takeFrame_of_lcf good lcf, packetOf]
  · rw [takeFrame_of_stopped good data stopped]
  · rw [takeFrame_of_transit good data passes ring other, packetOf]
  · rw [takeFrame_of_foreign good data passes fabric other, packetOf]
  · rw [takeFrame_of_own good data passes own, packetOf]
    rcases meter s p (bfld f 0 0 3) (slice f 8 (f.length - 12)) with ⟨_ | _, u⟩ <;> rfl

end Sys2Proof.Machine

/-!
PROOFS. How a port trains, faults and retrains, and how the node joins and leaves the board ring (R297, R298, R300, R312, R313).
-/

namespace Sys2Proof.Machine

/-! ## Training (R297, R300) -/

@[simp] theorem noteAttempt_time (s : State) (p : Nat) : (noteAttempt s p).time = s.time := by
  unfold noteAttempt
  dsimp only
  split <;> rfl

/-- A port takes a training: it is enabled, and trains for the first time or again. -/
def takesTraining (s : State) (p : Nat) : Prop := portDisabled s p = false ∧ (portState s p = 3 ∨ portState s p = 5)

theorem refusesTraining_of_takes {s : State} {p : Nat} (trains : takesTraining s p) :
    (portDisabled s p || !(decide (portState s p = 3) || decide (portState s p = 5))) = false := by
  obtain ⟨free, first | again⟩ := trains
  · simp only [free, first, decide_true, Bool.true_or, Bool.not_true, Bool.or_self]
  · simp only [free, again, decide_true, Bool.or_true, Bool.not_true, Bool.or_self]

/-- The lanes of a training that the port comes up over: width, map, and what the training found (R292, R297). -/
def trainedOver (s : State) (p : Nat) (fromUp : Prop) [Decidable fromUp] (t : Training) (a : TrainedAs) : State :=
  let s := setF s (rFlPort p) fFlPortWidth a.width
  let s := setF s (rFlPort p) fFlPortLaneMap (sumOf (a.lanes.map fun e => 2 ^ e.2))
  let s := if fromUp then s else setB s (rFlPort p) fFlPortPartnerValid false
  updPort (setPortState s p 4) p fun q =>
    { q with
      trained := t.lanes.map (·.1), since := s.time, block := t.block % 2 ^ 32, aligned := s.time,
      place := placed t.lanes (List.range 17), failedLanes := q.failedLanes.filter fun l => !(t.lanes.any fun e => e.1 == l) }

section
variable (s : State) (p : Nat) (fromUp : Prop) [Decidable fromUp] (t : Training) (a : TrainedAs)

theorem portState_trainedOver : portState (trainedOver s p fromUp t a) p = 4 := by
  rw [trainedOver, portState_updPort]
  exact portState_setPortState p 4

theorem trained_trainedOver : (portOf (trainedOver s p fromUp t a) p).trained = t.lanes.map (·.1) := by
  rw [trainedOver, portOf_updPort_same]

theorem since_trainedOver : (portOf (trainedOver s p fromUp t a) p).since = s.time := by
  rw [trainedOver, portOf_updPort_same]
  by_cases up : fromUp
  · rw [if_pos up]; rfl
  · rw [if_neg up]; rfl

theorem block_trainedOver : (portOf (trainedOver s p fromUp t a) p).block = t.block % 2 ^ 32 := by
  rw [trainedOver, portOf_updPort_same]

end

/-- Too few lanes trained: the port is down without any (R297). -/
def trainedNone (s : State) (p : Nat) : State :=
  let s := setF (setF s (rFlPort p) fFlPortWidth 0) (rFlPort p) fFlPortLaneMap 0
  updPort (setPortState s p 1) p fun q => { q with attempt := s.time }

section
variable (s : State) (p : Nat)

theorem portState_trainedNone : portState (trainedNone s p) p = 1 := by
  rw [trainedNone, portState_updPort]
  exact portState_setPortState p 1

theorem attempt_trainedNone : (portOf (trainedNone s p) p).attempt = s.time := by
  rw [trainedNone, portOf_updPort_same]
  rfl

theorem getF_trainedNone_map : getF (trainedNone s p) (rFlPort p) fFlPortLaneMap = 0 := by
  rw [trainedNone, getF_updPort, setPortState, getF_setF_other _ _ _ _ _ (by decide) (by decide)]
  exact getF_setF_same _ _ _ 0 (by decide)

theorem getF_trainedNone_width : getF (trainedNone s p) (rFlPort p) fFlPortWidth = 0 := by
  rw [trainedNone, getF_updPort, setPortState, getF_setF_other _ _ _ _ _ (by decide) (by decide),
    getF_setF_other _ _ _ _ _ (by decide) (by decide)]
  exact getF_setF_same _ _ _ 0 (by decide)

end

section
variable {s : State} {p : Nat} (on : awake s = true)
include on

theorem exec_portTrained_of_lanes {t : Training} {a : TrainedAs} (trains : takesTraining s p)
    (enough : trainAs (noteAttempt s p) p t.lanes = some a) (noSpare : a.spare = none) :
    exec (.portTrained p t) s =
      .next (checkSuspend (trainedOver (noteAttempt s p) p (portState s p = 5) t a) p) := by
  refine (next_live_of_awake on _).trans ?_
  simp only [refusesTraining_of_takes trains, Bool.false_eq_true, if_false, enough, noSpare]
  rfl

theorem exec_portTrained_of_few {t : Training} (trains : takesTraining s p)
    (few : trainAs (noteAttempt s p) p t.lanes = none) :
    exec (.portTrained p t) s = .next (trainedNone (noteAttempt s p) p) := by
  refine (next_live_of_awake on _).trans ?_
  simp only [refusesTraining_of_takes trains, Bool.false_eq_true, if_false, few]
  rfl

theorem exec_portTrainRetry_of_due (down : portState s p = 1) (free : portDisabled s p = false)
    (late : 940000 ≤ elapsed s (portOf s p).attempt)
    (attached : isRing p = false ∨ getB s rFlRingStatus fFlRingStatusAttached = true) :
    exec (.portTrainRetry p) s = .next (setPortState s p 3) := by
  refine (next_live_of_awake on _).trans ?_
  simp only [down, free, due_of_le late, attached, and_self, if_true]

/-! ## Lane faults (R298) -/

theorem exec_laneFault_partner (up : portUp s p = true) : exec (.laneFault p none) s = .next (retrainOver s p []) := by
  refine (next_live_of_awake on _).trans ?_
  simp only [up, Bool.not_true, Bool.false_eq_true, if_false]

theorem exec_laneFault_of_inUse {l : Nat} (up : portUp s p = true) (inUse : laneInUse s p l = true) :
    exec (.laneFault p (some l)) s = .next (retrainOver s p [l]) := by
  refine (next_live_of_awake on _).trans ?_
  simp only [up, inUse, Bool.not_true, Bool.false_eq_true, if_false, if_true]

end

/-! ## The codewords of a period (R298, R387) -/

/-- What one physical lane counted in a period goes to its counters and to its score. -/
def countLane (p : Nat) (corrected uncorrected : List Nat) (s : State) (l : Nat) : State :=
  let k := corrected.getD l 0
  let u := uncorrected.getD l 0
  let s := bumpF (bumpF s (laneReg p l) fFlLaneCorrected k) (laneReg p l) fFlLaneUncorrected u
  if k = 0 ∧ u = 0 then s else tally s (laneIndex p l) (k + 256 * (16 * u))

/-- Every physical lane of a port is counted. -/
def lanesCounted (s : State) (p : Nat) (corrected uncorrected : List Nat) : State :=
  (List.range (lanesOf p)).foldl (countLane p corrected uncorrected) s

/-- The lanes in use whose uncorrected codewords of a period exceed the limit. -/
def lanesOverLimit (s : State) (p : Nat) (uncorrected : List Nat) : List Nat :=
  (List.range (lanesOf p)).filter fun l =>
    laneInUse s p l && decide (getF s rFlControl fFlControlUncorrLimit < uncorrected.getD l 0)

section
variable {p : Nat} {k u : List Nat}

theorem countLane_fl (s : State) (l : Nat) : (countLane p k u s l).fl = s.fl := by
  unfold countLane
  dsimp only
  split <;> rfl

theorem regGet_countLane (s : State) {o l : Nat} (other : o ≠ laneReg p l) : regGet (countLane p k u s l) o = regGet s o := by
  have counted : regGet (bumpF (bumpF s (laneReg p l) fFlLaneCorrected (k.getD l 0)) (laneReg p l) fFlLaneUncorrected (u.getD l 0)) o
      = regGet s o := by
    rw [bumpF, regGet_setF_ne _ _ _ other, bumpF, regGet_setF_ne _ _ _ other]
  unfold countLane
  dsimp only
  split
  · exact counted
  · exact (regGet_congr tally_regs o).trans counted

theorem foldl_countLane_fl (ls : List Nat) (s : State) : (ls.foldl (countLane p k u) s).fl = s.fl := by
  induction ls generalizing s with
  | nil => rfl
  | cons l ls ih => rw [List.foldl_cons, ih, countLane_fl]

theorem regGet_foldl_countLane {o : Nat} (other : ∀ l, o ≠ laneReg p l) (ls : List Nat) (s : State) :
    regGet (ls.foldl (countLane p k u) s) o = regGet s o := by
  induction ls generalizing s with
  | nil => rfl
  | cons l ls ih => rw [List.foldl_cons, ih, regGet_countLane s (other l)]

theorem exec_fecPeriod_of_up {s : State} (on : awake s = true) (up : portUp s p = true) :
    let v := lanesCounted s p k u
    exec (.fecPeriod p k u) s =
      .next (if lanesOverLimit v p u = [] then v else retrainOver v p (lanesOverLimit v p u)) := by
  refine (next_live_of_awake on _).trans ?_
  simp only [up, Bool.not_true, Bool.false_eq_true, if_false]
  rfl

end

/-! ## Joining and leaving the board ring (R312, R313) -/

theorem isRing_of_le {p : Nat} (ring : 16 ≤ p) : isRing p = true := decide_eq_true ring

section
variable {s : State} {p : Nat} (on : awake s = true) (ring : 16 ≤ p)
include on ring

section
variable (joins : getB s rFlRingControl fFlRingControlJoinEn = true) (listens : portState s p = 2)
include joins listens

theorem exec_listenDone_of_listening :
    exec (.listenDone p) s = .next (attachIfListened
      (setB s rFlRingStatus (if p = 16 then fFlRingStatusListenedE else fFlRingStatusListenedW) true)) := by
  refine (next_live_of_awake on _).trans ?_
  simp only [isRing_of_le ring, joins, listened, listens, Bool.and_self, if_true]

/-- Without a signal the port counts as listened at its limit; with one it listens again (R312). -/
theorem exec_listenLimitExpiry_of_due
    (late : 1024 * getF s rFlRingControl fFlRingControlListenLimit ≤ elapsed s (portOf s p).since) (signal : Bool) :
    exec (.listenLimitExpiry p signal) s = .next (
      if signal then updPort (raise1 s (17 + p) fFlPortEventRetrain) p fun q => { q with since := s.time }
      else attachIfListened (setB s rFlRingStatus (if p = 16 then fFlRingStatusListenedE else fFlRingStatusListenedW) true)) := by
  refine (next_live_of_awake on _).trans ?_
  simp only [isRing_of_le ring, joins, listened, listens, due_of_le late, decide_true, Bool.and_self, if_true]

end

theorem exec_detachLimitExpiry_of_late (limit : getF s rFlRingControl fFlRingControlDetachLimit ≠ 0)
    (attached : getB s rFlRingStatus fFlRingStatusAttached = true)
    (down : portState s p = 1 ∨ portState s p = 3 ∨ portState s p = 5)
    (late : 1024 * getF s rFlRingControl fFlRingControlDetachLimit < elapsed s (portOf s p).since) :
    exec (.detachLimitExpiry p) s = .next (startListening (releaseRing (raise1 s (17 + p) fFlPortEventDetach))) := by
  have positive : 1024 * getF s rFlRingControl fFlRingControlDetachLimit ≠ 0 := Nat.mul_ne_zero (by decide) limit
  refine (next_live_of_awake on _).trans ?_
  simp only [isRing_of_le ring, positive, attached, down, late, ne_eq, not_false_eq_true, decide_true, Bool.and_self, if_true]

end

/-! ## The statement -/

/-- Settles O11: training by the lanes that suffice, a fault by the lane that it names, and the ring by what its ports heard. -/
theorem portsTrainJoinAndLeave : Obligations.PortsTrainJoinAndLeave := by
  refine ⟨fun p s on => ⟨fun t a free state enough noSpare => ?_, fun t free state few => ?_,
    fun down free late attached => exec_portTrainRetry_of_due on down free late attached,
    fun up => exec_laneFault_partner on up, fun l up inUse => exec_laneFault_of_inUse on up inUse, fun k u up => ?_⟩,
    fun p s on ring => ⟨fun joins listens => ⟨exec_listenDone_of_listening on ring joins listens, fun late => ⟨?_, ?_⟩⟩,
      fun limit attached down late => exec_detachLimitExpiry_of_late on ring limit attached down late⟩⟩
  · refine ⟨_, exec_portTrained_of_lanes on ⟨free, state⟩ enough noSpare, portState_trainedOver _ _ _ _ _,
      trained_trainedOver _ _ _ _ _, ?_, block_trainedOver _ _ _ _ _⟩
    rw [since_trainedOver, noteAttempt_time]
  · refine ⟨_, exec_portTrained_of_few on ⟨free, state⟩ few, portState_trainedNone _ _, ?_, getF_trainedNone_map _ _,
      getF_trainedNone_width _ _⟩
    rw [attempt_trainedNone, noteAttempt_time]
  · exact ⟨lanesCounted s p k u, fun o other => regGet_foldl_countLane other _ s, foldl_countLane_fl _ s,
      exec_fecPeriod_of_up on up⟩
  · exact exec_listenLimitExpiry_of_due on ring joins listens late false
  · exact exec_listenLimitExpiry_of_due on ring joins listens late true

end Sys2Proof.Machine

/-!
PROOFS. What a write does that sets a port, a class region, a gate list, a shaper or a profile of the meter (R299, R303, R307, R356,
R357, R360, R367, R370).
-/

namespace Sys2Proof.Machine

/-! ## The registers of the links, the scheduler and the meter -/

theorem indexIn_rFlPort {p : Nat} (lt : p < 18) : indexIn (rFlPort 0) 0x200 18 (rFlPort p) = some p :=
  indexIn_of_lt (rFlPort 0) (by decide) lt

theorem indexIn_rEsPort {p : Nat} (lt : p < 18) : indexIn (rEsPort 0) 0x800 18 (rEsPort p) = some p :=
  indexIn_of_lt (rEsPort 0) (by decide) lt

/-- The eight classes of a port lie at 8 bytes from 0x10 on (R307). -/
theorem portClassAt_of_lt {p c : Nat} (port : p < 18) (class_ : c < 8) :
    portClassAt (rFlPort p + 0x10 + 8 * c) = some (p, c) := by
  have place : rFlPort p + 0x10 + 8 * c - rFlPort 0 = 0x200 * p + (0x10 + 8 * c) := by unfold rFlPort; omega
  have after : rFlPort 0 ≤ rFlPort p + 0x10 + 8 * c := by unfold rFlPort; omega
  have portNo : (0x200 * p + (0x10 + 8 * c)) / 0x200 = p := by omega
  have inPort : (0x200 * p + (0x10 + 8 * c)) % 0x200 = 0x10 + 8 * c := by omega
  have classNo : (0x10 + 8 * c - 0x10) / 8 = c := by omega
  have within : 0x10 + 8 * c < 0x50 := by omega
  simp only [portClassAt, place, after, portNo, inPort, classNo, port, within, Nat.le_add_right, and_self, if_true]

/-- A register of a shaper by its port and its place in it (R356). -/
theorem rEsShaper_place {p c : Nat} (class_ : c < 8) :
    (rEsShaper p c - rEsPort 0) / 0x800 = p ∧ (rEsShaper p c - rEsPort 0) % 0x800 = 0x40 + 8 * c := by
  unfold rEsShaper rEsPort
  omega

/-- A register of a profile by its number and class (R367). -/
theorem rImProfile_place {i c : Nat} (class_ : c < 8) :
    (rImProfile i c - rImProfile 0 0) / 0x40 = i ∧ (rImProfile i c - rImProfile 0 0) % 0x40 / 8 = c := by
  unfold rImProfile
  omega

/-! ## The effect of a write, by register -/

section
variable {lcf : Option Nat} {s : State} {w : RegWrite}

theorem applyWrite_of_es (block : w.off / 2 ^ 20 = 0xD) : applyWrite lcf s w = writeEs s w := by simp only [applyWrite, block]
theorem applyWrite_of_im (block : w.off / 2 ^ 20 = 0xE) : applyWrite lcf s w = writeIm s w := by simp only [applyWrite, block]

/-- A register of the ports is neither that of the swaps nor that of the ring. -/
theorem not_swap_nor_ring_of_port {o : Nat} (port : rFlPort 0 ≤ o) : o ≠ rFlSwap ∧ o ≠ rFlRingControl :=
  ⟨fun same => absurd (same ▸ port) (by decide), fun same => absurd (same ▸ port) (by decide)⟩

theorem applyWrite_rFlPort {p : Nat} (lt : p < 18) (off : w.off = rFlPort p) : applyWrite lcf s w = writePort s p w := by
  have block : rFlPort p / 2 ^ 20 = 0xB := by unfold rFlPort; omega
  obtain ⟨notSwap, notRing⟩ := not_swap_nor_ring_of_port (o := rFlPort p) (by unfold rFlPort; omega)
  rw [applyWrite_of_fl (by rw [off, block])]
  simp only [writeFl, off, notSwap, notRing, indexIn_rFlPort lt, if_false]

theorem applyWrite_rFlPortClass {p c : Nat} (lt : p < 18) (class_ : c < 8) (off : w.off = rFlPort p + 0x10 + 8 * c) :
    applyWrite lcf s w = writePortClass s p c w := by
  have block : (rFlPort p + 0x10 + 8 * c) / 2 ^ 20 = 0xB := by unfold rFlPort; omega
  obtain ⟨notSwap, notRing⟩ := not_swap_nor_ring_of_port (o := rFlPort p + 0x10 + 8 * c) (by unfold rFlPort; omega)
  have notPort : indexIn (rFlPort 0) 0x200 18 (rFlPort p + 0x10 + 8 * c) = none :=
    indexIn_of_mod_ne (by unfold rFlPort; omega)
  rw [applyWrite_of_fl (by rw [off, block])]
  simp only [writeFl, off, notSwap, notRing, notPort, portClassAt_of_lt lt class_, if_false]

theorem applyWrite_rEsPort {p : Nat} (lt : p < 18) (off : w.off = rEsPort p) : applyWrite lcf s w = writeEsPort s p w := by
  have block : rEsPort p / 2 ^ 20 = 0xD := by unfold rEsPort; omega
  have port : (rEsPort p - rEsPort 0) / 0x800 = p := by unfold rEsPort; omega
  have first : (rEsPort p - rEsPort 0) % 0x800 = 0 := by unfold rEsPort; omega
  rw [applyWrite_of_es (by rw [off, block])]
  simp only [writeEs, off, first, port, if_true]

theorem applyWrite_rEsShaper {p c : Nat} (lt : p < 18) (class_ : c < 8) (off : w.off = rEsShaper p c) :
    applyWrite lcf s w = writeShaper s p c w := by
  have block : rEsShaper p c / 2 ^ 20 = 0xD := by unfold rEsShaper; omega
  obtain ⟨port, place⟩ := rEsShaper_place (p := p) class_
  have notFirst : 0x40 + 8 * c ≠ 0 := by omega
  have shaper : 0x40 + 8 * c < 0x80 := by omega
  have classNo : (0x40 + 8 * c - 0x40) / 8 = c := by omega
  rw [applyWrite_of_es (by rw [off, block])]
  simp only [writeEs, off, place, port, notFirst, shaper, classNo, Nat.le_add_right, and_self, if_true, if_false]

theorem applyWrite_rImProfile {i c : Nat} (lt : i < 64) (class_ : c < 8) (off : w.off = rImProfile i c) :
    applyWrite lcf s w = writeProfile s w := by
  have block : rImProfile i c / 2 ^ 20 = 0xE := by unfold rImProfile; omega
  have profile : rImProfile 0 0 ≤ rImProfile i c := by unfold rImProfile; omega
  have notMgmt : rImProfile i c ≠ rImMgmt := fun same => absurd (same ▸ profile) (by decide)
  have notControl : rImProfile i c ≠ rImControl := fun same => absurd (same ▸ profile) (by decide)
  rw [applyWrite_of_im (by rw [off, block]), writeIm, off, if_neg notMgmt, if_neg notControl, if_pos profile]

/-! ## The settings -/

/-- A port that is enabled begins to train, or to listen, unless a fence holds it (R299, R386). -/
theorem writePort_of_enables {p : Nat} (enables : w.get fFlPortEnable = 1) (was : fld w.old 3 1 = 0)
    (free : elecFenced (storeReg s w) p = false) : writePort s p w = wakePort (storeReg s w) p := by
  have was : fld w.old fFlPortEnable.lo 1 = 0 := was
  simp only [writePort, enables, was, free, Nat.one_ne_zero, Nat.zero_ne_one, Bool.false_eq_true, if_false]

theorem writePort_of_disables {p : Nat} (disables : w.get fFlPortEnable = 0) (was : fld w.old 3 1 = 1)
    (state : portState (storeReg s w) p ≠ 0) : writePort s p w = portDown (storeReg s w) p 0 := by
  have was : fld w.old fFlPortEnable.lo 1 = 1 := was
  simp only [writePort, disables, was, state, Nat.zero_ne_one, if_true, if_false]

/-- A size and marks that keep the rule are stored, and the marks act at once (R303, R307). -/
theorem writePortClass_of_fits {p c : Nat} (down : portState s p ≤ 1) (marks : w.get fFlPortClassLo < w.get fFlPortClassHi)
    (high : w.get fFlPortClassHi ≤ w.get fFlPortClassSize)
    (room : sizesWith s p c (w.get fFlPortClassSize) ≤ if isRing p then 256 else 1024) :
    writePortClass s p c w = marksChanged (storeReg s w) p c := by
  simp only [writePortClass, down, marks, high, room, and_self, if_true]

theorem writeEsPort_of_install {p : Nat} (install : w.order fEsPortInstall = 1) :
    writeEsPort s p w = installGates (storeReg s w) p :=
  if_pos install

/-- The credit of a class that stays shaped is clipped to the cap that follows (R357). -/
theorem writeShaper_of_shaped {p c : Nat} (was : fld w.old fEsShaperShapeEn.lo 1 = 1) (stays : w.get fEsShaperShapeEn = 1) :
    writeShaper s p c w = setShaperCredit (storeReg s w) p c
      (min (shaperCredit s p c) ((65536 * (1024 * shaperCap (storeReg s w) p c) : Nat) : Int)) := by
  simp only [writeShaper, was, stays, Nat.one_ne_zero, or_self, if_false]

/-- A profile that keeps its rule is stored once its buckets are up to date (R367, R370). -/
theorem writeProfile_of_allowed {i c : Nat} (class_ : c < 8) (off : w.off = rImProfile i c)
    (allowed : w.get fImProfilePoliceEn = 0 ∨ w.get fImProfileRate = 0 ∨ 6 ≤ w.get fImProfileBurst) :
    writeProfile s w = settleProfile s i c fun u => storeReg u w := by
  have kept : ¬(w.get fImProfilePoliceEn = 1 ∧ w.get fImProfileRate ≠ 0 ∧ w.get fImProfileBurst < 6) := by omega
  obtain ⟨profile, classNo⟩ := rImProfile_place (i := i) class_
  rw [writeProfile, if_neg kept, off]
  simp only [profile, classNo]

end

/-! ## The rows of the settings -/

section
variable {s : State} {a : Access} {r : Reached} (h : Reaches s a r)
include h

theorem exec_flPortEnableWrite_of_lt {p : Nat} (lt : p < 18) (reg : r.off = rFlPort p) :
    exec (.flPortEnableWrite a) s = .next (writePort s p (regWrite s a r)) := by
  refine (next_writeRow_of_reaches h (by rw [reg, indexIn_rFlPort lt]; rfl)).trans ?_
  rw [applyWrite_rFlPort (w := regWrite s a r) lt reg]

theorem exec_flPortClassWrite_of_lt {p c : Nat} (lt : p < 18) (class_ : c < 8) (reg : r.off = rFlPort p + 0x10 + 8 * c) :
    exec (.flPortClassWrite a) s = .next (writePortClass s p c (regWrite s a r)) := by
  refine (next_writeRow_of_reaches h (by rw [reg, portClassAt_of_lt lt class_]; rfl)).trans ?_
  rw [applyWrite_rFlPortClass (w := regWrite s a r) lt class_ reg]

theorem exec_gateInstall_of_lt {p : Nat} (lt : p < 18) (reg : r.off = rEsPort p) :
    exec (.gateInstall a) s = .next (writeEsPort s p (regWrite s a r)) := by
  refine (next_writeRow_of_reaches h (by rw [reg, indexIn_rEsPort lt]; rfl)).trans ?_
  rw [applyWrite_rEsPort (w := regWrite s a r) lt reg]

theorem exec_esShaperWrite_of_lt {p c : Nat} (lt : p < 18) (class_ : c < 8) (reg : r.off = rEsShaper p c) :
    exec (.esShaperWrite a) s = .next (writeShaper s p c (regWrite s a r)) := by
  obtain ⟨port, place⟩ := rEsShaper_place (p := p) class_
  have after : rEsPort 0 ≤ rEsShaper p c := by unfold rEsPort rEsShaper; omega
  have own : rEsPort 0 ≤ r.off ∧ 0x40 ≤ (r.off - rEsPort 0) % 0x800 ∧ (r.off - rEsPort 0) % 0x800 < 0x80 ∧
      (r.off - rEsPort 0) / 0x800 < 18 := by
    rw [reg, port, place]
    omega
  refine (next_writeRow_of_reaches h (decide_eq_true own)).trans ?_
  rw [applyWrite_rEsShaper (w := regWrite s a r) lt class_ reg]

theorem exec_imProfileWrite_of_lt {i c : Nat} (lt : i < 64) (class_ : c < 8) (reg : r.off = rImProfile i c) :
    exec (.imProfileWrite a) s = .next (writeProfile s (regWrite s a r)) := by
  have own : rImProfile 0 0 ≤ r.off ∧ r.off < rImProfile 64 0 := by
    rw [reg]
    unfold rImProfile
    omega
  refine (next_writeRow_of_reaches h (decide_eq_true own)).trans ?_
  rw [applyWrite_rImProfile (w := regWrite s a r) lt class_ reg]

end

/-! ## The statement -/

/-- Settles O17: the write reaches one register, and the setting that it holds acts by its own rule. -/
theorem linkSettingsAct : Obligations.LinkSettingsAct := by
  intro a r p c s h port class_ w
  refine ⟨?_, ?_, ?_, ?_, ?_, ?_⟩
  · intro reg enables was free
    rw [exec_flPortEnableWrite_of_lt h port reg, writePort_of_enables enables was free]
  · intro reg disables was state
    rw [exec_flPortEnableWrite_of_lt h port reg, writePort_of_disables disables was state]
  · intro reg down marks high room
    rw [exec_flPortClassWrite_of_lt h port class_ reg, writePortClass_of_fits down marks high room]
  · intro reg install
    rw [exec_gateInstall_of_lt h port reg, writeEsPort_of_install install]
  · intro reg was stays
    rw [exec_esShaperWrite_of_lt h port class_ reg, writeShaper_of_shaped was stays]
  · intro i lt reg allowed
    rw [exec_imProfileWrite_of_lt h lt class_ reg, writeProfile_of_allowed class_ reg allowed]

end Sys2Proof.Machine

/-!
PROOFS. What the packet at the head of a class's region does as its row takes it (R319, R323, R324, R326, R335, R348).
-/

namespace Sys2Proof.Machine

section
variable {s : State} {port tc k : Nat} {p : Bytes} (up : awake s = true) (head : headPacket s port tc = some p)
  (kind : (hdrOf p).kind = k) (known : k < 8)
include up head kind known

/-- The row of its kind takes the head packet; one that breaks R319 is flagged and does nothing else. -/
theorem takeKind_of_head (f : State → Bytes → State) :
    takeKind s port tc k f =
      let u := takePacket s port tc
      if packetOk u tc p = true then f u p else badPacket u := by
  subst kind
  rw [takeKind, live_of_awake up]
  simp only [head, Nat.not_le.mpr known, ne_eq, not_true_eq_false, if_false]

/-- The answer of such a row. -/
theorem next_takeKind_of_head (f : State → Bytes → State) :
    (.next (takeKind s port tc k f) : Host.Outcome State Fault Refusal) =
      let u := takePacket s port tc
      .next (if packetOk u tc p = true then f u p else badPacket u) :=
  congrArg _ (takeKind_of_head up head kind known f)

end

section
variable {s : State} {p : Bytes}

theorem receiveDgram_of_heartbeat (service : (hdrOf p).service = 3) (port : Nat) :
    receiveDgram s port p =
      bumpR { s with ft := { s.ft with hbIn := s.ft.hbIn ++ [((hdrOf p).src, p.drop 64)] } } rFtDgrams 1 := by
  rw [receiveDgram, if_pos service]

theorem receiveDgram_of_management (service : (hdrOf p).service = 2) (port : Nat) :
    receiveDgram s port p =
      bumpR { s with ft := { s.ft with mgmtIn := s.ft.mgmtIn ++ [⟨port, (hdrOf p).src, p.drop 64⟩] } } rFtDgrams 1 := by
  have other : (hdrOf p).service ≠ 3 := by rw [service]; decide
  rw [receiveDgram, if_neg other, if_pos service]

end

/-- Settles O45: the row of its kind takes the packet, and a datagram goes where its service says. -/
theorem packetsArrive : Obligations.PacketsArrive := by
  intro port tc p s up head known u row
  have takes {k : Nat} (f : State → Bytes → State) (kind : (hdrOf p).kind = k) :=
    next_takeKind_of_head up head kind (kind ▸ known) f
  refine ⟨takes _, takes _, takes _, takes _, takes _, takes _, fun kind => ?_, fun service kind => ?_,
    fun service kind => ?_⟩
  · refine (takes _ kind).trans ?_
    simp only [Option.isNone_iff_eq_none]
    rfl
  · rw [← receiveDgram_of_heartbeat service port]
    exact takes _ kind
  · rw [← receiveDgram_of_management service port]
    exact takes _ kind

end Sys2Proof.Machine

/-!
PROOFS. How a work request is posted, and how one that waits for its counter fires (R336, R337, R347).
-/

namespace Sys2Proof.Machine

/-! ## What the command finds as it was -/

section
variable {c : Cmd} {s : State}

@[simp] theorem begun_ft : (begun s c).ft = s.ft := takeReads_ft
@[simp] theorem swept_ft : (swept c s).ft = s.ft := sweepUnknown_ft

@[simp] theorem connOf_begun (i : Nat) : connOf (begun s c) i = connOf s i := by rw [connOf, begun_ft, connOf]

@[simp] theorem wrBad_begun (w : Bytes) : wrBad (begun s c) w = wrBad s w := by rw [wrBad, connOf_begun, wrBad]

@[simp] theorem armedCount_begun : armedCount (begun s c) = armedCount s := by rw [armedCount, begun_ft, armedCount]

/-- No refetch counts in a trigger counter. -/
theorem rFtCounter_notMem_readRegs (i : Nat) : rFtCounter i ∉ readRegs := by
  have low : ∀ o ∈ readRegs, o < rFtCounter 0 := by decide
  intro mem
  exact absurd (low _ mem) (by unfold rFtCounter; omega)

@[simp] theorem counterOf_begun (i : Nat) : counterOf (begun s c) i = counterOf s i :=
  begun_getF _ (rFtCounter_notMem_readRegs i)

@[simp] theorem armedReady_begun (w : Bytes) : armedReady (begun s c) w = armedReady s w := by
  rw [armedReady, counterOf_begun, armedReady]

end

/-! ## `WR_POST` (R336, R337, R347) -/

/-- A work request is recorded under the lowest free number, in the order of posting; it has not been sent. -/
def recordWr (s : State) (r : CmdRef) (w : Bytes) : State :=
  { s with ft := { s.ft with wrs := mapPut s.ft.wrs (mapFresh s.ft.wrs 0) ⟨w, r, wConn w, s.ft.order, .armed⟩,
                             order := s.ft.order + 1 } }

/-- A trigger counter is a register: whether a request is ready does not depend on what the transport holds. -/
theorem armedReady_with_ft (s : State) (x : Ft) (w : Bytes) : armedReady { s with ft := x } w = armedReady s w := rfl

section
variable {s : State} {c : Cmd} (runs : Runs s 0x26 c)
include runs

theorem exec_wrPost_of_fits (whole : wrBad s (wrOf c.d) = false) (short : wLength (wrOf c.d) ≤ msgMax)
    (within : wLocal (wrOf c.d) + wLength (wrOf c.d) ≤ gddrSize) (room : s.ft.wrs.length < 65536)
    (armedRoom : wArmed (wrOf c.d) = true → armedCount s < 4096) :
    exec (.wrPost c) s = .next (swept c (
      let v := recordWr (begun s c) (refOf s c) (wrOf c.d)
      if wArmed (wrOf c.d) = true ∧ armedReady s (wrOf c.d) = false then v else sendWr v (mapFresh s.ft.wrs 0))) := by
  have fits : ¬(msgMax < wLength (wrOf c.d) ∨ gddrSize < wLocal (wrOf c.d) + wLength (wrOf c.d)) := by omega
  have taken : (decide (65536 ≤ s.ft.wrs.length) || wArmed (wrOf c.d) && decide (4096 ≤ armedCount s)) = false := by
    simpa [room] using armedRoom
  refine (congrArg Host.Outcome.next (startCmd_of_runs runs _)).trans ?_
  simp only [wrBad_begun, whole, fits, begun_ft, armedCount_begun, taken, decide_false, firstRefusal, Bool.false_eq_true,
    if_false, Bool.and_eq_true, Bool.not_eq_true', armedReady_with_ft, armedReady_begun, recordWr]

theorem exec_wrPost_of_bad (bad : wrBad s (wrOf c.d) = true) :
    exec (.wrPost c) s = .next (swept c (completeWith (begun s c) (refOf s c) stFormat (wTag (wrOf c.d)))) := by
  refine (congrArg Host.Outcome.next (startCmd_of_runs runs _)).trans ?_
  simp only [wrBad_begun, bad, firstRefusal, if_true]

end

/-! ## `WR_FIRE` (R347) -/

theorem exec_wrFire_of_next {s : State} {i : Nat} {w : Wr} {k : Conn} (up : awake s = true)
    (next : nextFire s = some (i, w)) (found : connOf s w.conn = some k) :
    exec (.wrFire i) s = .next (if k.state = 1 then sendWr s i else endWr s i stAborted) := by
  refine (next_live_of_awake up _).trans ?_
  simp only [next, found, ne_eq, not_true_eq_false, if_false]

/-! ## The statement -/

/-- Settles O48: a post by whether the request is whole and must wait, and a fire by the connection of the request that is next. -/
theorem workRequestsAct : Obligations.WorkRequestsAct := by
  intro c s w u id v
  refine ⟨fun runs whole short within room armedRoom => ?_, fun runs bad => ?_, fun i w k up next found => ?_⟩
  · rw [exec_wrPost_of_fits runs whole short within room armedRoom]
    simp only [recordWr, begun_ft, v, u, id, w]
  · exact ends_of_complete runs (exec_wrPost_of_bad runs bad) (.refl _) (by simp)
  · exact exec_wrFire_of_next up next found

end Sys2Proof.Machine

/-!
PROOFS. What a query of a connection or of a region sends (R269, R322, R342, R425, Table 14.4): it writes its buffer after whatever
the lines that were read for it have sent. A line that came as poison at first flags `TP_EVENT.POISON`, and where that interrupt is
enabled its message goes out before the write.
-/

namespace Sys2Proof.Machine

/-! ## The queries -/

section
variable {s : State} {c : Cmd}

theorem exec_connQuery_of_room (runs : Runs s 0x22 c) (room : c.badBuf 32 = false) :
    exec (.connQuery c true) s = .next (swept c (finish
      (emit (begun s c) (.hostWrite c.host (connBytes (connOf s (Conn.named c.d))))) (refOf s c) stOk)) := by
  refine (congrArg Host.Outcome.next (startCmd_of_runs runs _)).trans ?_
  simp only [room, Bool.false_eq_true, if_false, connOf_begun, putHost, if_true]

theorem regionKeyed_begun (key : Nat) : regionKeyed (begun s c) key = regionKeyed s key := by
  rw [regionKeyed, begun_ft, regionKeyed]

theorem exec_regionQuery_of_none (runs : Runs s 0x25 c) (room : c.badBuf 32 = false)
    (unnamed : regionKeyed s (num c.d 8 4) = none) :
    exec (.regionQuery c true) s = .next (swept c (finish
      (emit (begun s c) (.hostWrite c.host (zeros 32))) (refOf s c) stOk)) := by
  refine (congrArg Host.Outcome.next (startCmd_of_runs runs _)).trans ?_
  simp only [room, Bool.false_eq_true, if_false, regionKeyed_begun, unnamed, putHost, if_true]
  rfl

/-- Such a command sends its write last. -/
theorem out_swept_finish_emit (o : Out) (r : CmdRef) (st : Nat) :
    (swept c (finish (emit (begun s c) o) r st)).out = (begun s c).out ++ [o] := by simp [emit]

/-- What holds where a command ends holds of the state that it answers. -/
theorem Ends.of_next {i : Instr} {t : State} {st n r0 r1 r2 : Nat} {Q : State → Prop} (ends : Ends i s c st n r0 r1 r2 Q)
    (acts : exec i s = .next t) : Q t := by
  obtain ⟨t', acts', -, holds⟩ := ends
  cases acts.symm.trans acts'
  exact holds

/-- A command whose reads have sent something does not send its write alone. -/
theorem not_ends_with_write_alone {i : Instr} {o : Out} {st : Nat} {Q : State → Prop} (sent : (begun s c).out ≠ s.out)
    (acts : exec i s = .next (swept c (finish (emit (begun s c) o) (refOf s c) st))) :
    ¬Ends i s c st 0 0 0 0 fun t => t.out = s.out ++ [o] ∧ Q t := by
  intro ends
  obtain ⟨alone, -⟩ := ends.of_next acts
  rw [out_swept_finish_emit] at alone
  exact sent (List.append_cancel_right alone)

end

/-! ## A poisoned line read for a query -/

/-- A node at reset, but for the interrupt of `TP_EVENT.POISON`, which is enabled, and vector 0 of Function 1, which is not masked. -/
def alarmedNode : State :=
  { State.reset with regs := [(rGsIntEnable1 15, 2 ^ fTpEventPoison.lo)],
                     qe := { State.reset.qe with unmasked := [256 * 1 + 0] } }

/-- A query of number 0 into a buffer of 32 bytes, for which a tier line was read that came as poison and then passed. -/
def poisonedQuery (op : Nat) : Cmd := ⟨1, 0, natLe 4 op ++ zeros 20 ++ natLe 4 32 ++ zeros 36, ⟨[129], []⟩⟩

theorem runs_poisonedQuery {op : Nat} (query : op = 0x22 ∨ op = 0x25) : Runs alarmedNode op (poisonedQuery op) := by
  rcases query with rfl | rfl
  · exact ⟨by decide, by decide, by decide, by decide, by decide, by decide, by decide⟩
  · exact ⟨by decide, by decide, by decide, by decide, by decide, by decide, by decide⟩

/-- Its reads send the event vector's message. -/
theorem begun_poisonedQuery_sends :
    ∀ op ∈ [0x22, 0x25], (begun alarmedNode (poisonedQuery op)).out = alarmedNode.out ++ [.msix 1 0 0 0] := by decide

theorem begun_poisonedQuery_out {op : Nat} (query : op = 0x22 ∨ op = 0x25) :
    (begun alarmedNode (poisonedQuery op)).out ≠ alarmedNode.out := by
  rw [begun_poisonedQuery_sends op (by simpa using query)]
  decide

/-! ## The statements -/

/-- Refutes O47 by its last clause: a `CONN_QUERY` for which a line came as poison and then passed sends the message of
`TP_EVENT.POISON` before its write, so the write is not all that it sends. It is all that follows the reads, to
`(begun s c).out`. -/
theorem not_connectionCommandsAct : ¬Obligations.ConnectionCommandsAct := by
  intro h
  obtain ⟨-, -, -, -, query⟩ := h (poisonedQuery 0x22) alarmedNode
  have runs : Runs alarmedNode 0x22 (poisonedQuery 0x22) := runs_poisonedQuery (.inl rfl)
  have room : (poisonedQuery 0x22).badBuf 32 = false := by decide
  exact not_ends_with_write_alone (begun_poisonedQuery_out (.inl rfl)) (exec_connQuery_of_room runs room) (query runs room)

/-- Refutes O49 by the clause of a `REGION_QUERY` whose key names no region: with the same read the write is not all that it
sends. -/
theorem not_regionsSlotsAndCountersAct : ¬Obligations.RegionsSlotsAndCountersAct := by
  rintro ⟨regions, -⟩
  obtain ⟨-, -, -, query⟩ := regions (poisonedQuery 0x25) alarmedNode
  have runs : Runs alarmedNode 0x25 (poisonedQuery 0x25) := runs_poisonedQuery (.inr rfl)
  have room : (poisonedQuery 0x25).badBuf 32 = false := by decide
  have unnamed : regionKeyed alarmedNode (num (poisonedQuery 0x25).d 8 4) = none := by decide
  obtain ⟨ofNone, -⟩ := query runs room
  exact not_ends_with_write_alone (begun_poisonedQuery_out (.inr rfl)) (exec_regionQuery_of_none runs room unnamed)
    (ofNone unnamed)

end Sys2Proof.Machine

/-!
PROOFS. What a step keeps: it runs the command at the front of its queue, each command writes only the parts that `touches` lists,
and every step keeps the canonical form of memory, the order of the register table and the width of the local counter (R452).
-/

namespace Sys2Proof.Machine

/-- Settles O1: with a command at the front of the queue, a step is that command on the rest. -/
theorem stepRunsTheFrontCommand : Obligations.StepRunsTheFrontCommand := by
  intro c rest s front
  rw [step, front]

/-! ## The invariant -/

/-- Settles O3: at reset memory and the register table are empty, and the local counter is 0. -/
theorem resetHasTheInvariant : Obligations.ResetHasTheInvariant := ⟨rfl, rfl, by decide⟩

/-- Settles O4: the invariant speaks of memory, registers and the local counter alone, and each of the operations that write them
keeps it. -/
theorem everyStepKeepsTheInvariant : Obligations.EveryStepKeepsTheInvariant := by
  intro s t tidy steps
  have kept : KeepOut Tidy (step s) :=
    keep_step (h_power := fun _ _ h => h) (h_qe := fun _ _ h => h) (h_cx := fun _ _ h => h) (h_pm := fun _ _ h => h)
      (h_ae := fun _ _ h => h) (h_bb := fun _ _ h => h) (h_ac := fun _ _ h => h) (h_tm := fun _ _ h => h)
      (h_pf := fun _ _ h => h) (h_fl := fun _ _ h => h) (h_es := fun _ _ h => h) (h_im := fun _ _ h => h)
      (h_ft := fun _ _ h => h) (h_cf := fun _ _ h => h) (h_tn := fun _ _ h => h) (h_lx := fun _ _ h => h)
      (h_out := fun _ _ h => h) (h_draws := fun _ _ h => h) (h_pending := fun _ _ h => h)
      (hR := tidy_setR) (hRF := tidy_resetFields) (hW := tidy_writeByte) (hZ := tidy_zeroWhere) (hC := tidy_resetClock)
      (hT := tidy_tick) tidy
  exact kept t steps

/-! ## The frame of a command -/

/-- A part that the command may not write. -/
def Untouched (p : Part) (c : Instr) : Prop := p ∉ touches c

/-! That the part is as it was in `s` survives every write to a part that the command lists. -/

namespace Untouched

variable {p : Part} {c : Instr} {s : State} (k : Untouched p c)
include k

theorem absurd {a : Prop} (lists : (touches c).contains p = true) : a := (k (List.contains_iff_mem.mp lists)).elim

theorem power (lists : (touches c).contains .power = true := by rfl) : UpPower (p.same s) := by
  intro t x same; cases p with | power => exact k.absurd lists | _ => exact same

theorem qe (lists : (touches c).contains .qe = true := by rfl) : UpQe (p.same s) := by
  intro t x same; cases p with | qe => exact k.absurd lists | _ => exact same

theorem cx (lists : (touches c).contains .cx = true := by rfl) : UpCx (p.same s) := by
  intro t x same; cases p with | cx => exact k.absurd lists | _ => exact same

theorem pm (lists : (touches c).contains .pm = true := by rfl) : UpPm (p.same s) := by
  intro t x same; cases p with | pm => exact k.absurd lists | _ => exact same

theorem ae (lists : (touches c).contains .ae = true := by rfl) : UpAe (p.same s) := by
  intro t x same; cases p with | ae => exact k.absurd lists | _ => exact same

theorem bb (lists : (touches c).contains .bb = true := by rfl) : UpBb (p.same s) := by
  intro t x same; cases p with | bb => exact k.absurd lists | _ => exact same

theorem ac (lists : (touches c).contains .ac = true := by rfl) : UpAc (p.same s) := by
  intro t x same; cases p with | ac => exact k.absurd lists | _ => exact same

theorem tm (lists : (touches c).contains .tm = true := by rfl) : UpTm (p.same s) := by
  intro t x same; cases p with | tm => exact k.absurd lists | _ => exact same

theorem pf (lists : (touches c).contains .pf = true := by rfl) : UpPf (p.same s) := by
  intro t x same; cases p with | pf => exact k.absurd lists | _ => exact same

theorem fl (lists : (touches c).contains .fl = true := by rfl) : UpFl (p.same s) := by
  intro t x same; cases p with | fl => exact k.absurd lists | _ => exact same

theorem es (lists : (touches c).contains .es = true := by rfl) : UpEs (p.same s) := by
  intro t x same; cases p with | es => exact k.absurd lists | _ => exact same

theorem im (lists : (touches c).contains .im = true := by rfl) : UpIm (p.same s) := by
  intro t x same; cases p with | im => exact k.absurd lists | _ => exact same

theorem ft (lists : (touches c).contains .ft = true := by rfl) : UpFt (p.same s) := by
  intro t x same; cases p with | ft => exact k.absurd lists | _ => exact same

theorem cf (lists : (touches c).contains .cf = true := by rfl) : UpCf (p.same s) := by
  intro t x same; cases p with | cf => exact k.absurd lists | _ => exact same

theorem tn (lists : (touches c).contains .tn = true := by rfl) : UpTn (p.same s) := by
  intro t x same; cases p with | tn => exact k.absurd lists | _ => exact same

theorem lx (lists : (touches c).contains .lx = true := by rfl) : UpLx (p.same s) := by
  intro t x same; cases p with | lx => exact k.absurd lists | _ => exact same

theorem out (lists : (touches c).contains .out = true := by rfl) : UpOut (p.same s) := by
  intro t x same; cases p with | out => exact k.absurd lists | _ => exact same

theorem draws (lists : (touches c).contains .draws = true := by rfl) : UpDraws (p.same s) := by
  intro t x same; cases p with | draws => exact k.absurd lists | _ => exact same

theorem regs (lists : (touches c).contains .regs = true := by rfl) : UpR (p.same s) := by
  intro t o v same; cases p with | regs => exact k.absurd lists | _ => exact same

theorem fields (lists : (touches c).contains .regs = true := by rfl) : UpRF (p.same s) := by
  intro t cls same; cases p with | regs => exact k.absurd lists | _ => exact same

theorem bytes (lists : (touches c).contains .mem = true := by rfl) : UpW (p.same s) := by
  intro t a v same
  unfold writeByte
  split
  · cases p with
    | mem => exact k.absurd lists
    | _ => exact same
  · exact same

theorem zeroed (lists : (touches c).contains .mem = true := by rfl) : UpZ (p.same s) := by
  intro t q same; cases p with | mem => exact k.absurd lists | _ => exact same

theorem clock (counter : (touches c).contains .time = true := by rfl) (memory : (touches c).contains .mem = true := by rfl) :
    UpC (p.same s) := by
  intro t cls same
  unfold resetClock
  split
  · cases p with
    | time => exact k.absurd counter
    | mem => exact k.absurd memory
    | _ => exact same
  · exact same

end Untouched

/-- Every part is the same as itself. -/
theorem Part.same_refl (p : Part) (s : State) : p.same s s := by cases p <;> rfl

/-- A command leaves a part that it does not list as it was: by what the command writes at most. -/
theorem exec_same {p : Part} {c : Instr} (k : Untouched p c) (s : State) : KeepOut (p.same s) (exec c s) := by
  have unchanged : Keep (p.same s) s := p.same_refl s
  cases c with
  | registerWrite _ | badSizeAccess _ _ | cxTableBaseWrite _ | bbNarrowShareWrite _ | bbPermitLimitWrite _ | tmPlanWrite _
  | flPortEnableWrite _ | flPortClassWrite _ | esShaperWrite _ | imProfileWrite _ | gsIntEnableWrite _ | pfLogHeadWrite _
  | pwCapWrite _ | passStart _ | passAbort _ | splitWrite _ | testRead _ | flSwapGo _ _ | gateInstall _ | ringEnableWrite _
  | nodeReset _ | startUpEnd _ | retainRequest _ | runRequest _ | retainExitEnd _ | retainHostAccess _ =>
    exact keep_exec k.power k.qe k.cx k.pm k.ae k.bb k.ac k.tm k.pf k.fl k.es k.im k.ft k.cf k.tn k.lx k.out k.draws k.regs
      k.fields k.bytes k.zeroed k.clock unchanged
  | tmStatusRead _ => exact keep_execTmStatusRead k.qe k.lx k.out k.regs unchanged
  | cxReady => exact keep_execCxReady k.cx k.regs unchanged
  | bar4Write _ _ => exact keep_execBar4Write k.qe k.pf k.cf k.out k.regs k.bytes unchanged
  | bar4Read _ _ => exact keep_execBar4Read k.qe k.bb k.pf k.cf k.out k.regs unchanged
  | cxOpen _ => exact keep_execCxOpen k.qe k.cx k.pm k.tm k.pf k.cf k.out k.regs k.bytes k.zeroed unchanged
  | cxClose _ => exact keep_execCxClose k.qe k.cx k.pm k.tm k.pf k.cf k.out k.regs k.bytes k.zeroed unchanged
  | closeDrainEnd _ => exact keep_execCloseDrainEnd k.qe k.cx k.pm k.tm k.pf k.ft k.cf k.out k.regs k.bytes unchanged
  | cxPark _ => exact keep_execCxPark k.qe k.cx k.pm k.tm k.pf k.cf k.out k.regs k.bytes k.zeroed unchanged
  | cxReopen _ => exact keep_execCxReopen k.qe k.cx k.pm k.tm k.pf k.cf k.out k.regs k.bytes k.zeroed unchanged
  | parkEnd _ => exact keep_execParkEnd k.qe k.cx k.pm k.tm k.pf k.cf k.out k.regs k.bytes unchanged
  | reopenEnd _ => exact keep_execReopenEnd k.qe k.cx k.pm k.tm k.pf k.cf k.out k.regs k.bytes unchanged
  | cxQuery _ _ => exact keep_execCxQuery k.qe k.cx k.pm k.tm k.pf k.cf k.out k.regs k.zeroed unchanged
  | cxSetShards _ _ => exact keep_execCxSetShards k.qe k.cx k.tm k.cf k.out k.regs k.bytes unchanged
  | walkerSlotGrant =>
    exact keep_execWalkerSlotGrant k.qe k.cx k.pm k.ae k.bb k.tm k.pf k.ft k.cf k.out k.regs k.bytes k.zeroed unchanged
  | editWaitEnd =>
    exact keep_execEditWaitEnd k.qe k.cx k.pm k.ae k.bb k.tm k.pf k.ft k.cf k.out k.regs k.bytes k.zeroed unchanged
  | bankGrant _ => exact keep_execBankGrant k.qe k.cx k.pm k.ae k.bb k.tm k.pf k.ft k.cf k.out k.regs k.bytes k.zeroed unchanged
  | bankReleaseAck _ =>
    exact keep_execBankReleaseAck k.qe k.cx k.pm k.ae k.bb k.tm k.pf k.ft k.cf k.out k.regs k.bytes k.zeroed unchanged
  | attend _ _ =>
    exact keep_execAttend k.qe k.cx k.pm k.ae k.bb k.ac k.tm k.pf k.ft k.cf k.out k.regs k.bytes k.zeroed unchanged
  | draftRows _ => exact keep_execDraftRows k.qe k.cx k.pm k.ae k.tm k.pf k.ft k.cf k.out k.regs k.zeroed unchanged
  | draftHoldExpiry _ => exact keep_execDraftHoldExpiry k.qe k.ae k.out k.regs unchanged
  | draftWaitTimeout _ => exact keep_execDraftWaitTimeout k.qe k.ae k.out k.regs unchanged
  | clause src _ => exact keep_execClause (a1 := src) k.qe k.ae k.ft k.out k.regs unchanged
  | done src _ => exact keep_execDone (a1 := src) k.qe k.ae k.ft k.out k.regs unchanged
  | childTimeout _ _ => exact keep_execChildTimeout k.qe k.ae k.out k.regs unchanged
  | shardClauseSend _ _ =>
    exact keep_execShardClauseSend k.qe k.cx k.pm k.ae k.bb k.ac k.tm k.pf k.ft k.cf k.tn k.lx k.out k.regs k.bytes unchanged
  | attnSlotFree =>
    exact keep_execAttnSlotFree k.qe k.cx k.pm k.ae k.bb k.ac k.tm k.pf k.ft k.cf k.out k.regs k.bytes k.zeroed unchanged
  | append _ _ => exact keep_execAppend k.qe k.cx k.pm k.ae k.bb k.tm k.pf k.ft k.cf k.out k.regs k.bytes k.zeroed unchanged
  | refill _ _ => exact keep_execRefill k.qe k.cx k.pm k.ae k.bb k.tm k.pf k.ft k.cf k.out k.regs k.bytes k.zeroed unchanged
  | pageOpWaitEnd =>
    exact keep_execPageOpWaitEnd k.qe k.cx k.pm k.ae k.bb k.tm k.pf k.ft k.cf k.out k.regs k.bytes k.zeroed unchanged
  | bauStoreWrite _ _ _ _ =>
    exact keep_execBauStoreWrite k.qe k.cx k.pm k.ae k.bb k.ac k.tm k.pf k.ft k.cf k.tn k.lx k.out k.draws k.regs k.bytes
      k.zeroed unchanged
  | glossBound _ =>
    exact keep_execGlossBound k.qe k.cx k.pm k.ae k.bb k.ac k.tm k.pf k.ft k.cf k.tn k.lx k.out k.draws k.regs k.bytes k.zeroed
      unchanged
  | attendPage _ =>
    exact keep_execAttendPage k.qe k.cx k.pm k.ae k.bb k.ac k.tm k.pf k.ft k.cf k.tn k.lx k.out k.draws k.regs k.bytes k.zeroed
      unchanged
  | appendRows _ =>
    exact keep_execAppendRows k.qe k.cx k.pm k.ae k.bb k.ac k.tm k.pf k.ft k.cf k.tn k.lx k.out k.draws k.regs k.bytes k.zeroed
      unchanged
  | requant _ =>
    exact keep_execRequant k.qe k.cx k.pm k.ae k.bb k.ac k.tm k.pf k.ft k.cf k.tn k.lx k.out k.draws k.regs k.bytes k.zeroed
      unchanged
  | rmsnorm _ =>
    exact keep_execRmsnorm k.qe k.cx k.pm k.ae k.bb k.ac k.tm k.pf k.ft k.cf k.tn k.lx k.out k.draws k.regs k.bytes k.zeroed
      unchanged
  | elementwise _ =>
    exact keep_execElementwise k.qe k.cx k.pm k.ae k.bb k.ac k.tm k.pf k.ft k.cf k.tn k.lx k.out k.draws k.regs k.bytes k.zeroed
      unchanged
  | gatherReduce _ =>
    exact keep_execGatherReduce k.qe k.cx k.pm k.ae k.bb k.ac k.tm k.pf k.ft k.cf k.tn k.lx k.out k.draws k.regs k.bytes
      k.zeroed unchanged
  | zeroRange _ =>
    exact keep_execZeroRange k.qe k.cx k.pm k.ae k.bb k.ac k.tm k.pf k.ft k.cf k.tn k.lx k.out k.draws k.regs k.bytes k.zeroed
      unchanged
  | permitGrant _ =>
    exact keep_execPermitGrant k.qe k.cx k.pm k.ae k.bb k.ac k.tm k.pf k.ft k.cf k.tn k.lx k.out k.draws k.regs k.bytes k.zeroed
      unchanged
  | bauCompletion _ _ =>
    exact keep_execBauCompletion k.qe k.cx k.pm k.ae k.bb k.ac k.tm k.pf k.ft k.cf k.tn k.lx k.out k.draws k.regs k.bytes
      k.zeroed unchanged
  | d2dLinkRetrain _ => exact keep_execD2dLinkRetrain k.qe k.bb k.cf k.out k.regs unchanged
  | bbdOutOfService _ =>
    exact keep_execBbdOutOfService k.qe k.cx k.pm k.ae k.bb k.ac k.tm k.pf k.ft k.cf k.tn k.lx k.out k.draws k.regs k.bytes
      k.zeroed unchanged
  | refreshDue _ => exact keep_execRefreshDue k.bb unchanged
  | refreshPause _ => exact keep_execRefreshPause k.qe k.bb k.out k.regs unchanged
  | refreshResume _ _ => exact keep_execRefreshResume k.bb k.regs unchanged
  | matmul _ => exact keep_execMatmul k.ac unchanged
  | score _ => exact keep_execScore k.ac unchanged
  | fold _ => exact keep_execFold k.ac unchanged
  | bound _ => exact keep_execBound k.ac unchanged
  | conjoin _ => exact keep_execConjoin k.ac unchanged
  | teComplete _ _ =>
    exact keep_execTeComplete k.qe k.cx k.pm k.ae k.bb k.ac k.tm k.pf k.ft k.cf k.tn k.lx k.out k.draws k.regs k.bytes k.zeroed
      unchanged
  | sxTe _ => exact keep_execSxTe k.qe k.bb k.ac k.pf k.cf k.tn k.lx k.out k.draws k.regs k.bytes unchanged
  | sxBstore _ =>
    exact keep_execSxBstore k.qe k.cx k.pm k.ae k.bb k.ac k.tm k.pf k.ft k.cf k.tn k.lx k.out k.draws k.regs k.bytes k.zeroed
      unchanged
  | sxBau _ =>
    exact keep_execSxBau k.qe k.cx k.pm k.ae k.bb k.ac k.tm k.pf k.ft k.cf k.tn k.lx k.out k.draws k.regs k.bytes k.zeroed
      unchanged
  | sxCopy _ =>
    exact keep_execSxCopy k.qe k.cx k.pm k.ae k.bb k.ac k.tm k.pf k.ft k.cf k.tn k.lx k.out k.draws k.regs k.bytes k.zeroed
      unchanged
  | sxWait _ =>
    exact keep_execSxWait k.qe k.cx k.pm k.ae k.bb k.ac k.tm k.pf k.ft k.cf k.tn k.lx k.out k.draws k.regs k.bytes k.zeroed
      unchanged
  | sxPoll _ => exact keep_execSxPoll k.qe k.bb k.ac k.pf k.ft k.cf k.tn k.lx k.out k.draws k.regs k.bytes unchanged
  | sxSleep _ => exact keep_execSxSleep k.qe k.bb k.ac k.pf k.ft k.cf k.tn k.lx k.out k.draws k.regs k.bytes k.zeroed unchanged
  | sxStep _ => exact keep_execSxStep k.qe k.bb k.ac k.pf k.ft k.cf k.tn k.lx k.out k.draws k.regs k.bytes k.zeroed unchanged
  | sxEnd _ =>
    exact keep_execSxEnd k.qe k.cx k.pm k.ae k.bb k.ac k.tm k.pf k.ft k.cf k.tn k.lx k.out k.draws k.regs k.bytes k.zeroed
      unchanged
  | sxTrap _ _ _ _ => exact keep_execSxTrap k.qe k.ac k.tn k.lx k.out k.regs unchanged
  | contextEvent _ _ =>
    exact keep_execContextEvent k.qe k.cx k.pm k.ae k.bb k.ac k.tm k.pf k.ft k.cf k.tn k.lx k.out k.draws k.regs k.bytes
      k.zeroed unchanged
  | swapOut _ => exact keep_execSwapOut k.qe k.ac k.out k.regs unchanged
  | swapLoad _ =>
    exact keep_execSwapLoad k.qe k.cx k.pm k.ae k.bb k.ac k.tm k.pf k.ft k.cf k.tn k.lx k.out k.draws k.regs k.bytes k.zeroed
      unchanged
  | jobSubmit _ => exact keep_execJobSubmit k.qe k.ac k.tm k.pf k.cf k.tn k.lx k.out k.regs unchanged
  | jobPreempt _ => exact keep_execJobPreempt k.qe k.ac k.tm k.cf k.out k.regs unchanged
  | preemptTimeout _ => exact keep_execPreemptTimeout k.qe k.ac k.tn k.lx k.out k.regs unchanged
  | jobQuery _ => exact keep_execJobQuery k.qe k.tm k.cf k.out k.regs unchanged
  | rmLoad _ => exact keep_execRmLoad k.qe k.tm k.pf k.cf k.out k.regs unchanged
  | rmUnload _ => exact keep_execRmUnload k.qe k.ac k.tm k.cf k.out k.regs unchanged
  | attnWayGrant => exact keep_execAttnWayGrant k.ae k.ac k.regs unchanged
  | moveStart _ _ => exact keep_execMoveStart k.qe k.cx k.pm k.ae k.tm k.pf k.cf k.out k.regs k.bytes unchanged
  | moveCommit _ => exact keep_execMoveCommit k.qe k.cx k.pm k.ae k.tm k.pf k.cf k.out k.regs k.bytes unchanged
  | moveAbandon _ _ => exact keep_execMoveAbandon k.qe k.cx k.pm k.ae k.tm k.pf k.cf k.out k.regs k.bytes unchanged
  | quotaSpill _ => exact keep_execQuotaSpill k.qe k.pm k.tm k.pf k.out k.regs unchanged
  | spillMarkSpill _ => exact keep_execSpillMarkSpill k.qe k.pm k.tm k.pf k.out k.regs unchanged
  | freeMarkSpill _ => exact keep_execFreeMarkSpill k.qe k.pm k.tm k.pf k.out k.regs unchanged
  | spill _ _ _ _ => exact keep_execSpill k.qe k.cx k.pm k.ae k.tm k.pf k.cf k.out k.regs k.bytes unchanged
  | compact _ => exact keep_execCompact k.qe k.pm k.tm k.pf k.out k.regs unchanged
  | extentFlush _ => exact keep_execExtentFlush k.qe k.cx k.pm k.ae k.tm k.pf k.cf k.out k.regs k.bytes unchanged
  | driveCompletion _ _ => exact keep_execDriveCompletion k.qe k.cx k.pm k.ae k.tm k.pf k.cf k.out k.regs k.bytes unchanged
  | tierLinkDown _ _ => exact keep_execTierLinkDown k.qe k.tm k.out k.regs unchanged
  | tierLinkTimeout _ _ => exact keep_execTierLinkTimeout k.qe k.cx k.pm k.ae k.tm k.pf k.cf k.out k.regs k.bytes unchanged
  | inboundRequest _ _ => exact keep_execInboundRequest k.qe k.out k.regs unchanged
  | passUnitRead _ => exact keep_execPassUnitRead k.qe k.cx k.pm k.bb k.tm k.pf k.cf k.out k.regs unchanged
  | retireSlot _ => exact keep_execRetireSlot k.qe k.cx k.pm k.bb k.tm k.pf k.cf k.tn k.out k.regs k.bytes unchanged
  | retireChannel _ => exact keep_execRetireChannel k.qe k.tm k.cf k.tn k.out k.regs unchanged
  | frameReceive _ _ => exact keep_execFrameReceive k.qe k.fl k.es k.im k.ft k.cf k.out k.regs unchanged
  | pauseRepeat _ _ => exact keep_execPauseRepeat k.fl unchanged
  | hello _ _ => exact keep_execHello k.qe k.fl k.ft k.cf k.out k.regs unchanged
  | helloSend _ => exact keep_execHelloSend k.fl unchanged
  | pause _ _ => exact keep_execPause k.qe k.fl k.ft k.cf k.out k.regs unchanged
  | pauseExpiry _ _ => exact keep_execPauseExpiry k.fl unchanged
  | pauseWatchdog _ _ => exact keep_execPauseWatchdog k.qe k.fl k.cf k.out k.regs unchanged
  | swapReq _ _ => exact keep_execSwapReq k.qe k.fl k.ft k.cf k.out k.regs unchanged
  | swapAck _ _ => exact keep_execSwapAck k.qe k.fl k.ft k.cf k.out k.regs unchanged
  | swapMarker _ _ => exact keep_execSwapMarker k.qe k.fl k.tn k.out k.regs unchanged
  | swapTimeout _ => exact keep_execSwapTimeout k.qe k.fl k.out k.regs unchanged
  | portTrained _ _ => exact keep_execPortTrained k.qe k.fl k.tn k.out k.regs unchanged
  | portTrainRetry _ => exact keep_execPortTrainRetry k.regs unchanged
  | laneFault _ _ => exact keep_execLaneFault k.qe k.fl k.cf k.tn k.out k.regs unchanged
  | fecPeriod _ _ _ => exact keep_execFecPeriod k.qe k.fl k.cf k.tn k.out k.regs unchanged
  | listenDone _ => exact keep_execListenDone k.fl k.out k.regs unchanged
  | listenLimitExpiry _ _ => exact keep_execListenLimitExpiry k.qe k.fl k.out k.regs unchanged
  | detachLimitExpiry _ => exact keep_execDetachLimitExpiry k.qe k.fl k.out k.regs unchanged
  | frameStart _ => exact keep_execFrameStart k.qe k.ae k.fl k.es k.cf k.out k.regs unchanged
  | gateInstallEffect _ => exact keep_execGateInstallEffect k.qe k.es k.out k.regs unchanged
  | gateEntryChange _ => exact keep_execGateEntryChange k.regs unchanged
  | connDropPeriod => exact keep_execConnDropPeriod k.im unchanged
  | msg _ _ => exact keep_execMsg k.qe k.ae k.fl k.ft k.out k.regs k.bytes unchanged
  | write _ _ => exact keep_execWrite k.qe k.ae k.fl k.ft k.out k.regs k.bytes unchanged
  | readReq _ _ => exact keep_execReadReq k.qe k.ae k.fl k.ft k.out k.regs k.bytes unchanged
  | readResp _ _ => exact keep_execReadResp k.qe k.ae k.fl k.ft k.out k.regs k.bytes unchanged
  | ack _ _ => exact keep_execAck k.qe k.ae k.fl k.ft k.cf k.out k.regs k.bytes unchanged
  | nak _ _ => exact keep_execNak k.qe k.ae k.fl k.ft k.cf k.out k.regs k.bytes unchanged
  | report _ _ => exact keep_execReport k.qe k.ae k.fl k.ft k.out k.regs k.bytes unchanged
  | dgram _ _ => exact keep_execDgram k.qe k.fl k.ft k.out k.regs unchanged
  | ackTimer _ => exact keep_execAckTimer k.ft unchanged
  | gapTimer _ => exact keep_execGapTimer k.ft unchanged
  | retxTimer _ => exact keep_execRetxTimer k.qe k.ft k.cf k.out k.regs unchanged
  | packetSpray _ => exact keep_execPacketSpray k.bb k.es k.ft k.cf k.regs unchanged
  | connOpen _ => exact keep_execConnOpen k.qe k.tm k.ft k.cf k.out k.regs unchanged
  | connClose _ => exact keep_execConnClose k.qe k.tm k.ft k.cf k.out k.regs unchanged
  | connQuery _ _ => exact keep_execConnQuery k.qe k.tm k.cf k.out k.regs unchanged
  | wrPost _ => exact keep_execWrPost k.qe k.tm k.ft k.cf k.out k.regs unchanged
  | wrFire _ => exact keep_execWrFire k.qe k.ft k.regs unchanged
  | regionRegister _ => exact keep_execRegionRegister k.qe k.tm k.ft k.cf k.tn k.out k.regs unchanged
  | regionRevoke _ => exact keep_execRegionRevoke k.qe k.tm k.ft k.cf k.out k.regs unchanged
  | regionQuery _ _ => exact keep_execRegionQuery k.qe k.tm k.cf k.out k.regs unchanged
  | recvPost _ => exact keep_execRecvPost k.qe k.tm k.ft k.cf k.out k.regs unchanged
  | recvQuery _ => exact keep_execRecvQuery k.qe k.tm k.ft k.cf k.out k.regs unchanged
  | counterSet _ => exact keep_execCounterSet k.qe k.tm k.cf k.out k.regs unchanged
  | status _ => exact keep_execStatus k.qe k.cx k.ft k.cf k.tn k.out k.regs k.zeroed unchanged
  | routeSet _ => exact keep_execRouteSet k.qe k.cx k.ft k.cf k.tn k.out k.regs k.zeroed unchanged
  | epochOpen _ => exact keep_execEpochOpen k.qe k.cx k.ft k.cf k.tn k.out k.regs k.zeroed unchanged
  | epochClose _ => exact keep_execEpochClose k.qe k.cx k.ft k.cf k.tn k.out k.regs k.zeroed unchanged
  | portFence _ => exact keep_execPortFence k.qe k.cx k.fl k.es k.ft k.cf k.tn k.out k.regs k.zeroed unchanged
  | watchSet _ => exact keep_execWatchSet k.qe k.cx k.ft k.cf k.tn k.out k.regs k.zeroed unchanged
  | scores _ => exact keep_execScores k.qe k.cx k.ft k.cf k.tn k.out k.regs k.zeroed unchanged
  | fence _ =>
    exact keep_execFence k.qe k.cx k.pm k.ae k.bb k.ac k.tm k.pf k.ft k.cf k.tn k.lx k.out k.regs k.bytes k.zeroed unchanged
  | drain _ =>
    exact keep_execDrain k.qe k.cx k.pm k.ae k.bb k.ac k.tm k.pf k.ft k.cf k.tn k.lx k.out k.regs k.bytes k.zeroed unchanged
  | reopen _ =>
    exact keep_execReopen k.qe k.cx k.pm k.ae k.bb k.ac k.tm k.pf k.ft k.cf k.tn k.lx k.out k.regs k.bytes k.zeroed unchanged
  | rehome _ =>
    exact keep_execRehome k.qe k.cx k.pm k.ae k.bb k.ac k.tm k.pf k.ft k.cf k.tn k.lx k.out k.regs k.bytes k.zeroed unchanged
  | rebuildMap _ =>
    exact keep_execRebuildMap k.qe k.cx k.pm k.ae k.bb k.ac k.tm k.pf k.ft k.cf k.tn k.lx k.out k.regs k.bytes k.zeroed
      unchanged
  | handover _ =>
    exact keep_execHandover k.qe k.cx k.pm k.ae k.bb k.ac k.tm k.pf k.ft k.cf k.tn k.lx k.out k.regs k.bytes k.zeroed unchanged
  | recovery _ =>
    exact keep_execRecovery k.qe k.cx k.pm k.ae k.bb k.ac k.tm k.pf k.ft k.cf k.tn k.lx k.out k.regs k.bytes k.zeroed unchanged
  | healthPeriod _ => exact keep_execHealthPeriod k.qe k.ft k.cf k.tn k.out k.regs unchanged
  | heartbeatSend => exact keep_execHeartbeatSend k.qe k.ft k.cf k.out k.regs unchanged
  | heartbeatReceive _ _ => exact keep_execHeartbeatReceive k.qe k.ft k.cf k.out k.regs unchanged
  | heartbeatPeriodEnd => exact keep_execHeartbeatPeriodEnd k.qe k.ft k.cf k.out k.regs unchanged
  | offer _ _ => exact keep_execOffer k.qe k.cx k.pm k.tm k.pf k.ft k.cf k.out k.regs k.bytes k.zeroed unchanged
  | accept _ _ => exact keep_execAccept k.qe k.cx k.pm k.ae k.bb k.tm k.pf k.ft k.cf k.out k.regs k.bytes k.zeroed unchanged
  | refuse _ _ => exact keep_execRefuse k.qe k.cx k.pm k.ae k.bb k.tm k.pf k.ft k.cf k.out k.regs k.bytes k.zeroed unchanged
  | page _ _ => exact keep_execPage k.qe k.cx k.pm k.tm k.pf k.ft k.cf k.out k.regs k.bytes k.zeroed unchanged
  | commitSend _ =>
    exact keep_execCommitSend k.qe k.cx k.pm k.ae k.bb k.tm k.pf k.ft k.cf k.out k.regs k.bytes k.zeroed unchanged
  | commit _ _ => exact keep_execCommit k.qe k.cx k.pm k.pf k.ft k.cf k.out k.regs k.bytes unchanged
  | commitAck _ _ =>
    exact keep_execCommitAck k.qe k.cx k.pm k.ae k.bb k.tm k.pf k.ft k.cf k.out k.regs k.bytes k.zeroed unchanged
  | final _ _ => exact keep_execFinal k.qe k.pm k.tm k.ft k.cf k.out k.regs unchanged
  | abandon _ _ => exact keep_execAbandon k.qe k.cx k.pm k.tm k.pf k.ft k.cf k.out k.regs k.bytes unchanged
  | query _ _ => exact keep_execQuery k.qe k.ft k.out k.regs unchanged
  | handoverTimer _ =>
    exact keep_execHandoverTimer k.qe k.cx k.pm k.ae k.bb k.tm k.pf k.ft k.cf k.out k.regs k.bytes k.zeroed unchanged
  | queryTimer _ => exact keep_execQueryTimer k.qe k.ft k.cf k.out k.regs unchanged
  | sqDoorbell _ _ _ => exact keep_execSqDoorbell k.power k.qe k.out k.regs unchanged
  | cqDoorbell _ _ _ => exact keep_execCqDoorbell k.power k.qe k.out k.regs unchanged
  | descriptorFetch _ _ _ => exact keep_execDescriptorFetch k.qe k.out k.regs unchanged
  | completionWrite _ _ _ => exact keep_execCompletionWrite k.qe k.out k.regs unchanged
  | msixCoalesceTimer _ _ => exact keep_execMsixCoalesceTimer k.qe k.out unchanged
  | eventHoldoffTimer _ => exact keep_execEventHoldoffTimer k.qe k.out unchanged
  | functionLevelReset =>
    exact keep_execFunctionLevelReset k.power k.qe k.cx k.pm k.ae k.bb k.ac k.tm k.pf k.fl k.es k.im k.ft k.cf k.tn k.lx k.out
      k.regs k.fields k.clock unchanged
  | lxEnrol _ _ => exact keep_execLxEnrol k.qe k.tm k.cf k.tn k.out k.regs unchanged
  | lxTransfer _ _ => exact keep_execLxTransfer k.qe k.tm k.cf k.tn k.out k.regs unchanged
  | lxManagerSet _ _ => exact keep_execLxManagerSet k.qe k.tm k.cf k.tn k.out k.regs unchanged
  | lxManagerClear _ => exact keep_execLxManagerClear k.qe k.tm k.cf k.tn k.out k.regs unchanged
  | lxHandover _ _ =>
    exact keep_execLxHandover k.power k.qe k.cx k.pm k.ae k.bb k.ac k.tm k.pf k.fl k.es k.im k.ft k.cf k.tn k.lx k.out k.regs
      k.fields k.clock unchanged
  | lxFlashWrite _ _ => exact keep_execLxFlashWrite k.qe k.tm k.cf k.lx k.out k.regs unchanged
  | lxRollback _ => exact keep_execLxRollback k.qe k.tm k.cf k.tn k.out k.regs unchanged
  | lxAnchor _ => exact keep_execLxAnchor k.qe k.tm k.cf k.tn k.out k.regs unchanged
  | lxTnRead _ _ _ => exact keep_execLxTnRead k.qe k.tm k.cf k.tn k.out k.draws k.regs unchanged
  | lxSupplete _ => exact keep_execLxSupplete k.qe k.bb k.ac k.tm k.cf k.tn k.lx k.out k.regs unchanged
  | lxSetActive _ => exact keep_execLxSetActive k.qe k.tm k.cf k.lx k.out k.regs unchanged
  | measuredRestart _ => exact keep_execMeasuredRestart k.power k.qe k.tm k.pf k.cf k.lx k.out k.regs unchanged
  | getChain _ => exact keep_execGetChain k.lx k.out unchanged
  | attest _ => exact keep_execAttest k.lx k.out unchanged
  | getHandover _ => exact keep_execGetHandover k.lx k.out unchanged
  | doeAbort => exact keep_execDoeAbort k.lx unchanged
  | tensePeriodicCommit _ _ => exact keep_execTensePeriodicCommit k.qe k.tn k.lx k.out k.draws k.regs unchanged
  | powerOn =>
    exact keep_execPowerOn k.power k.qe k.cx k.pm k.ae k.bb k.ac k.tm k.pf k.fl k.es k.im k.ft k.cf k.tn k.lx k.out k.regs
      k.fields k.clock unchanged
  | warmReset _ =>
    exact keep_execWarmReset k.power k.qe k.cx k.pm k.ae k.bb k.ac k.tm k.pf k.fl k.es k.im k.ft k.cf k.tn k.lx k.out k.regs
      k.fields k.clock unchanged
  | overvoltage _ =>
    exact keep_execOvervoltage k.power k.qe k.cx k.pm k.ae k.bb k.ac k.tm k.pf k.fl k.es k.im k.ft k.cf k.tn k.lx k.out k.regs
      k.fields k.clock unchanged
  | brownout => exact keep_execBrownout k.power k.qe k.tn k.lx k.out k.regs unchanged
  | thermalTrip _ _ => exact keep_execThermalTrip k.power k.qe k.tn k.lx k.out k.regs unchanged
  | clockLoss => exact keep_execClockLoss k.power k.qe k.tn k.lx k.out k.regs unchanged
  | throttleBoundary _ _ => exact keep_execThrottleBoundary k.power k.qe k.tn k.lx k.out k.regs unchanged
  | retainEntryProgress =>
    exact keep_execRetainEntryProgress k.power k.qe k.cx k.pm k.ae k.bb k.ac k.tm k.pf k.fl k.ft k.cf k.tn k.lx k.out k.draws
      k.regs k.bytes k.zeroed unchanged
  | wake => exact keep_execWake k.power unchanged
  | perstNRise =>
    exact keep_execPerstNRise k.power k.qe k.cx k.pm k.ae k.bb k.ac k.tm k.pf k.fl k.es k.im k.ft k.cf k.tn k.lx k.out k.regs
      k.fields k.zeroed k.clock unchanged
  | tierLinkRetrained _ _ => exact keep_execTierLinkRetrained k.qe k.cx k.pm k.ae k.tm k.pf k.cf k.out k.regs k.bytes unchanged
  | d2dRetrainDone _ =>
    exact keep_execD2dRetrainDone k.qe k.cx k.pm k.ae k.bb k.ac k.tm k.pf k.ft k.cf k.tn k.lx k.out k.draws k.regs k.bytes
      k.zeroed unchanged
  | thermtripRelease => exact keep_execThermtripRelease k.power k.out unchanged
  | sxCopyComplete _ _ _ =>
    exact keep_execSxCopyComplete k.qe k.cx k.pm k.ae k.bb k.ac k.tm k.pf k.ft k.cf k.tn k.lx k.out k.draws k.regs k.bytes
      k.zeroed unchanged
  | swapSaveDone _ _ =>
    exact keep_execSwapSaveDone k.qe k.cx k.pm k.ae k.bb k.ac k.tm k.pf k.ft k.cf k.tn k.lx k.out k.draws k.regs k.bytes
      k.zeroed unchanged
  | swapLoadDone _ _ =>
    exact keep_execSwapLoadDone k.qe k.cx k.pm k.ae k.bb k.ac k.tm k.pf k.ft k.cf k.tn k.lx k.out k.draws k.regs k.bytes
      k.zeroed unchanged
  | driveReadCompletion _ _ =>
    exact keep_execDriveReadCompletion k.qe k.cx k.pm k.ae k.tm k.pf k.cf k.out k.regs k.bytes unchanged
  | rebuildTailRead _ =>
    exact keep_execRebuildTailRead k.qe k.cx k.pm k.tm k.pf k.ft k.cf k.out k.regs k.bytes k.zeroed unchanged
  | msixUnmask _ _ => exact keep_execMsixUnmask k.qe k.out unchanged

/-- Settles O5: no command writes a part that it does not list. -/
theorem commandsTouchOnlyTheirParts : Obligations.CommandsTouchOnlyTheirParts :=
  fun _ s t _ acts unlisted => exec_same unlisted s t acts

end Sys2Proof.Machine

/-!
PROOFS. When a gate list comes into force and when a suspension ends, and the period in which dropped connections are remembered
(R358, R360 to R362, R369; log entry 204).
-/

namespace Sys2Proof.Machine

/-! ## What a list that comes into force leaves (R360) -/

/-- Writes of a port's gate registers leave every register below the port's own. -/
theorem regGet_setOper (s : State) {p o : Nat} (ins : Install) (below : o < rEsPort p) :
    regGet (setOper s p ins) o = regGet s o := by
  have entries : ∀ (es : List ((Nat × Nat) × Nat)) (s : State),
      regGet (es.foldl (fun s ((m, d), e) =>
        setF (setF s (rEsOper p e) fEsOperMask m) (rEsOper p e) fEsOperInterval d) s) o = regGet s o := by
    intro es
    induction es with
    | nil => exact fun _ => rfl
    | cons e es ih =>
      intro s
      have other : o ≠ rEsOper p e.2 := by unfold rEsPort at below; unfold rEsOper; omega
      rw [List.foldl_cons, ih, regGet_setF_ne _ _ _ other, regGet_setF_ne _ _ _ other]
  exact (regGet_setF_ne _ _ _ below.ne).trans (entries _ s)

/-- The event registers of the sources from 36 on, as Function 1 sees them: the scheduler's 18, the meter's, the composition unit's. -/
theorem eventReg_of_schedulerPort (p : Nat) : eventReg 1 (36 + p) =
    if p < 18 then some (rEsPortEvent p) else if p = 18 then some rImEvent else if p = 19 then some rCfEvent else none := by
  unfold eventReg
  grind

theorem lt_counterReg_of_schedulerPort {p : Nat} (bit : Nat) (near : p < 20) : rEsPort p < counterReg 1 (36 + p) bit := by
  unfold counterReg rEsPort rEsPortEventCount rImEventCount rCfEventCount
  grind

/-- So does the event of a port of the scheduler, whatever the number of the port. -/
theorem regGet_raise1_schedulerPort (s : State) {p o : Nat} (f : Fld) (below : o < rEsPort p) :
    regGet (raise1 s (36 + p) f) o = regGet s o := by
  by_cases near : p < 20
  · refine raise_regGet s 1 (36 + p) f.lo ?_ (below.trans (lt_counterReg_of_schedulerPort f.lo near)).ne
    rw [eventReg_of_schedulerPort]
    unfold rEsPort at below
    unfold rEsPortEvent rImEvent rCfEvent
    grind
  · have none : eventReg 1 (36 + p) = none := by rw [eventReg_of_schedulerPort]; grind
    rw [raise1, raise, none]

/-- The list of an install is in force, and its event is noted. -/
def listInForce (s : State) (p : Nat) (ins : Install) : State :=
  raise1 (setB (setOper s p ins) (rEsPort p) fEsPortPending false) (36 + p) fEsPortEventInstalled

/-- A port is up in its own register, below those of the scheduler. -/
theorem portUp_listInForce (s : State) (p : Nat) (ins : Install) : portUp (listInForce s p ins) p = portUp s p := by
  have below : rFlPort p < rEsPort p := by unfold rFlPort rEsPort; omega
  have same : regGet (listInForce s p ins) (rFlPort p) = regGet s (rFlPort p) := by
    rw [listInForce, regGet_raise1_schedulerPort _ _ below, setB, regGet_setF_ne _ _ _ below.ne, regGet_setOper _ _ below]
  rw [portUp, portState, getF, same, portUp, portState, getF]

/-! ## The rows -/

section
variable {s : State} {p : Nat} (up : awake s = true)
include up

theorem exec_gateInstallEffect_of_reached {ins : Install} (pending : mapGet s.es.pending p = some ins)
    (now : reached s ins.at_ = true) :
    exec (.gateInstallEffect p) s = .next (
      let u := listInForce s p ins
      if portUp s p = false then u
      else if windowsFit u p (portRate u p) ins.entries = true then setB u (rEsPort p) fEsPortSuspended false
      else if suspended u p = true then u else checkSuspend u p) := by
  refine (next_live_of_awake up _).trans ?_
  rw [← portUp_listInForce s p ins]
  simp only [pending, now, if_true, listInForce]
  rfl

theorem exec_gateEntryChange_of_fits (portIsUp : portUp s p = true) (stopped : suspended s p = true)
    (boundary : gatesFree (operList s p).1 = true ∨ phaseAt (operList s p) s.time = 0)
    (fits : windowsFit s p (portRate s p) (operList s p).1 = true) :
    exec (.gateEntryChange p) s = .next (setB s (rEsPort p) fEsPortSuspended false) := by
  refine (next_live_of_awake up _).trans ?_
  simp only [portIsUp, stopped, boundary, fits, decide_true, Bool.and_self, if_true]

theorem exec_connDropPeriod_of_awake :
    exec .connDropPeriod s = .next (if s.im.period = s.time / 940000 then s
      else { s with im := { s.im with drops := [], period := s.time / 940000 } }) :=
  next_live_of_awake up _

end

/-! ## The statement -/

/-- Settles O13: an install by its time, a change of the entry in force by the boundary, and the period by the local counter. -/
theorem gateListsTakeEffect : Obligations.GateListsTakeEffect := by
  intro p s up
  refine ⟨fun ins pending now => exec_gateInstallEffect_of_reached up pending now, fun portIsUp stopped boundary fits => ?_,
    exec_connDropPeriod_of_awake up⟩
  exact ⟨_, exec_gateEntryChange_of_fits up portIsUp stopped boundary fits, getB_setB_same _ _ _ _ (by decide) (by decide), rfl⟩

end Sys2Proof.Machine

/-!
PROOFS. What an accepted request of a manager does: the composition (R376 to R383, R386, R388, R390; log entries 143 and 144) and
the recovery commands, which a ring gives as well (R392 to R394).
-/

namespace Sys2Proof.Machine

/-! ## A request that is accepted (R375 to R377) -/

/-- An accepted request acts in the state in which its `SEQ` is recorded. -/
theorem mgmtRow_of_accepted {s : State} {type k : Nat} {g : Mgmt} {m : Manager} (ok : Accepted s type g k m)
    (f : Nat → State → State) : mgmtRow s type g f = f k (granted s g k m) := by
  have old : ¬(mgSeq g.body = 0 ∨ mgSeq g.body < m.seq) := by have := ok.fresh; omega
  have again : mgSeq g.body ≠ m.seq := ok.fresh.ne'
  have waits : (decide (0x13 ≤ type ∧ type ≤ 0x15) && !(tableReady (takeMgmt s g))) = false := by
    simpa using fun low high => ok.table low high
  rw [mgmtRow, live_of_awake ok.isAwake]
  simp only [ok.code, ok.auth, old, again, waits, ok.format, ne_eq, not_true_eq_false, decide_false, Bool.and_false,
    Bool.false_eq_true, if_false]
  rfl

/-- The answer of such a row. -/
theorem next_mgmtRow_of_accepted {s : State} {type k : Nat} {g : Mgmt} {m : Manager} (ok : Accepted s type g k m)
    (f : Nat → State → State) :
    (.next (mgmtRow s type g f) : Host.Outcome State Fault Refusal) = .next (f k (granted s g k m)) :=
  congrArg _ (mgmtRow_of_accepted ok f)

/-! ## The composition -/

section
variable {s : State} {g : Mgmt} {k : Nat} {m : Manager}

/-- `ROUTE_SET` (R379, R380): no entry is out of range or refused. -/
theorem exec_routeSet_of_accepted (ok : Accepted s 2 g k m)
    (range : (rsEntries (mgBody g.body)).any (fun x => decide (4096 ≤ x.1)) = false)
    (routes : (rsEntries (mgBody g.body)).any (fun x => decide (rtPath x.2 ≠ 0) &&
      routeRefused (granted s g k m) (rsEntries (mgBody g.body)) x.1 x.2) = false) :
    exec (.routeSet g) s = .next (sweepTrees
      (mgAnswer ((rsEntries (mgBody g.body)).foldl stageRoute (granted s g k m)) g k stOk [])) := by
  refine (next_mgmtRow_of_accepted ok _).trans ?_
  simp only [range, routes, Bool.or_self, Bool.false_eq_true, if_false]

/-! ### `EPOCH_OPEN` (R382) -/

section
variable (ok : Accepted s 3 g k m)
include ok

theorem exec_epochOpen_of_first (first : composed (granted s g k m) = false) :
    exec (.epochOpen g) s = .next (sweepTrees (mgAnswer (setB (takeEpoch
      { granted s g k m with cf := { (granted s g k m).cf with previous := [] } } (mgEpoch g.body))
        rCfStatus fCfStatusComposed true) g k stOk [])) := by
  refine (next_mgmtRow_of_accepted ok _).trans ?_
  simp only [first, Bool.not_false, if_true]

variable (comp : composed (granted s g k m) = true)
include comp

theorem exec_epochOpen_of_current (current : mgEpoch g.body = epochNow (granted s g k m)) :
    exec (.epochOpen g) s = .next (mgAnswer (granted s g k m) g k stOk []) := by
  refine (next_mgmtRow_of_accepted ok _).trans ?_
  simp only [comp, current, Bool.not_true, Bool.false_eq_true, if_false, if_true]

theorem exec_epochOpen_of_next (other : mgEpoch g.body ≠ epochNow (granted s g k m))
    (next : mgEpoch g.body = (epochNow (granted s g k m) + 1) % 2 ^ 32) :
    exec (.epochOpen g) s = .next (sweepTrees (mgAnswer (takeEpoch (setB (setF
      { granted s g k m with cf := { (granted s g k m).cf with previous := (granted s g k m).cf.current } }
        rCfEpoch fCfEpochPrevious (epochNow (granted s g k m))) rCfStatus fCfStatusPrevOpen true) (mgEpoch g.body))
      g k stOk [])) := by
  refine (next_mgmtRow_of_accepted ok _).trans ?_
  simp only [comp, other, Bool.not_true, Bool.false_eq_true, if_false]
  rw [if_pos next]

end

/-! ### `EPOCH_CLOSE` (R383; log entry 143) -/

section
variable (ok : Accepted s 4 g k m)
include ok

theorem exec_epochClose_of_current (comp : composed (granted s g k m) = true) (current : mgEpoch g.body = epochNow (granted s g k m)) :
    exec (.epochClose g) s = .next (mgAnswer (granted s g k m) g k stFormat []) := by
  refine (next_mgmtRow_of_accepted ok _).trans ?_
  simp only [comp, current, decide_true, Bool.and_self, if_true]

variable (other : mgEpoch g.body ≠ epochNow (granted s g k m))
include other

theorem exec_epochClose_of_previous (isOpen : prevOpen (granted s g k m) = true)
    (previous : mgEpoch g.body = epochPrev (granted s g k m)) :
    exec (.epochClose g) s = .next (sweepTrees (mgAnswer
      (setB { granted s g k m with cf := { (granted s g k m).cf with previous := [] } } rCfStatus fCfStatusPrevOpen false)
      g k stOk [])) := by
  have notCurrent : epochPrev (granted s g k m) ≠ epochNow (granted s g k m) := previous ▸ other
  refine (next_mgmtRow_of_accepted ok _).trans ?_
  simp only [isOpen, previous, notCurrent, decide_true, decide_false, Bool.and_false, Bool.and_self, Bool.false_eq_true, if_false,
    if_true]

theorem exec_epochClose_of_closed (closed : prevOpen (granted s g k m) = false) :
    exec (.epochClose g) s = .next (mgAnswer (granted s g k m) g k stOk []) := by
  refine (next_mgmtRow_of_accepted ok _).trans ?_
  simp only [other, closed, decide_false, Bool.and_false, Bool.false_and, Bool.false_eq_true, if_false]

end

/-! ### `PORT_FENCE` (R386) -/

section
variable (ok : Accepted s 5 g k m)
include ok

theorem exec_portFence_of_own (own : fld (bfld (mgBody g.body) 4 0 18) g.port 1 = 1) :
    exec (.portFence g) s = .next (mgAnswer { granted s g k m with cf := { (granted s g k m).cf with
      fenceWait := some (g.port, bfld (mgBody g.body) 0 0 18, bfld (mgBody g.body) 4 0 18) } } g k stOk []) := by
  refine (next_mgmtRow_of_accepted ok _).trans ?_
  simp only [own, if_true]

theorem exec_portFence_of_other (other : fld (bfld (mgBody g.body) 4 0 18) g.port 1 ≠ 1) :
    exec (.portFence g) s = .next (mgAnswer (applyFence
      { granted s g k m with cf := { (granted s g k m).cf with fenceWait := none } }
      (bfld (mgBody g.body) 0 0 18) (bfld (mgBody g.body) 4 0 18)) g k stOk []) := by
  refine (next_mgmtRow_of_accepted ok _).trans ?_
  simp only [other, if_false]

end

/-- Settles O50: each request by its row, in the state in which it was accepted. -/
theorem managerRequestsAct : Obligations.ManagerRequestsAct := by
  intro g s k m u b e
  refine ⟨fun ok => next_mgmtRow_of_accepted ok _, fun ok range routes => exec_routeSet_of_accepted ok range routes,
    fun ok => ⟨?_, ?_, ?_⟩, fun ok => ⟨?_, ?_, ?_⟩, fun ok => ⟨?_, ?_⟩, fun ok => next_mgmtRow_of_accepted ok _,
    fun ok => next_mgmtRow_of_accepted ok _⟩
  · exact fun first => exec_epochOpen_of_first ok first
  · exact fun comp current => exec_epochOpen_of_current ok comp current
  · exact fun comp other next => exec_epochOpen_of_next ok comp other next
  · exact fun comp current => exec_epochClose_of_current ok comp current
  · exact fun _ other isOpen previous => exec_epochClose_of_previous ok other isOpen previous
  · exact fun _ other closed => exec_epochClose_of_closed ok other closed
  · exact fun own => exec_portFence_of_own ok own
  · exact fun other => exec_portFence_of_other ok other

end

/-! ## Recovery commands by their serial (R393, R394) -/

/-- No serial is later than itself (R496). -/
theorem serialAfter_self (w a : Nat) : serialAfter w a a = false := by
  have whole : a + 2 ^ w - a % 2 ^ w = 2 ^ w * (a / 2 ^ w + 1) := by
    have := Nat.div_add_mod a (2 ^ w)
    rw [Nat.mul_add]
    omega
  rw [serialAfter, whole, Nat.mul_mod_right]
  rfl

section
variable {s : State} {who : RecIssuer} {type serial : Nat} {b : Bytes}

section
variable {e : RecEntry} (entry : mapGet s.cf.table (recTarget type b) = some e)
include entry

theorem recHandle_of_completed {st : Nat} (same : serial = e.serial) (kind : type = e.type) (done : e.status = some st) :
    recHandle s who type serial b = recAnswer s who type serial st 1 e.serial := by
  subst same kind
  simp only [recHandle, entry, done, ne_eq, not_true_eq_false, if_false, if_true]

theorem recHandle_of_running (same : serial = e.serial) (kind : type = e.type) (runs : e.status = none) :
    recHandle s who type serial b = { s with cf := { s.cf with
      table := mapPut s.cf.table (recTarget type b) { e with issuers := e.issuers ++ [who] } } } := by
  subst same kind
  simp only [recHandle, entry, runs, ne_eq, not_true_eq_false, if_false, if_true]

theorem recHandle_of_earlier (other : serial ≠ e.serial) (earlier : serialAfter 32 serial e.serial = false) :
    recHandle s who type serial b = recAnswer s who type serial stOk 0 e.serial := by
  simp only [recHandle, entry, other, earlier, Bool.false_eq_true, if_false]

theorem recHandle_of_later (later : serialAfter 32 serial e.serial = true) :
    recHandle s who type serial b = recNew s who type serial b := by
  have other : serial ≠ e.serial := by
    rintro rfl
    rw [serialAfter_self] at later
    cases later
  simp only [recHandle, entry, other, later, if_false, if_true]

end

section
variable (noEntry : mapGet s.cf.table (recTarget type b) = none)
include noEntry

theorem recHandle_of_floor (earlier : serialAfter 32 serial s.tn.floor = false) :
    recHandle s who type serial b = recAnswer s who type serial stOk 0 s.tn.floor := by
  simp only [recHandle, noEntry, serialFloor, earlier, Bool.false_eq_true, if_false]

theorem recHandle_of_fresh (later : serialAfter 32 serial s.tn.floor = true) :
    recHandle s who type serial b = recNew s who type serial b := by
  simp only [recHandle, noEntry, serialFloor, later, if_true]

end

/-- A command that passes its tests is recorded and acts where its target has room and no command in progress. -/
theorem recNew_of_passes {v : State} (passes : recTest s type b = (none, v)) (room : recRoom v (recTarget type b) = some v)
    (idle : recAbort v (recTarget type b) = v) :
    recNew s who type serial b = recAct { v with cf := { v.cf with
      table := mapPut v.cf.table (recTarget type b)
        { serial := serial, type := type, status := none, order := v.cf.order, issuers := [who] },
      order := v.cf.order + 1 } } type serial b := by
  simp only [recNew, passes, room, idle]

/-- A descriptor that is read leaves the composition unit as it was. -/
theorem cf_of_readCtx_ok {s t : State} {i source : Nat} {d : Bytes} (read : readCtx s i source = .ok (d, t)) : t.cf = s.cf := by
  rw [eq_fillCtx_of_readCtx_ok read, fillCtx_cf]

theorem cf_of_testRebuild {i : Nat} {v : State} (passes : testRebuild s i = (none, v)) : v.cf = s.cf := by
  unfold testRebuild at passes
  split at passes
  · cases passes
  · next read =>
    rw [← (Prod.mk.inj passes).2]
    exact cf_of_readCtx_ok read

theorem cf_of_testHandover {v : State} (passes : testHandover s b = (none, v)) : v.cf = s.cf := by
  unfold testHandover at passes
  dsimp only at passes
  split at passes
  · cases passes
  · split at passes
    · cases passes
    · next read =>
      rw [← (Prod.mk.inj passes).2]
      exact cf_of_readCtx_ok read

/-- The tests of a command that passes them read a descriptor at most. -/
theorem cf_of_recTest {v : State} (passes : recTest s type b = (none, v)) : v.cf = s.cf := by
  unfold recTest at passes
  split at passes
  · rw [← (Prod.mk.inj passes).2]
  · split at passes
    · exact cf_of_testRebuild passes
    · split at passes
      · exact cf_of_testHandover passes
      · rw [← (Prod.mk.inj passes).2]

variable {v : State} (passes : recTest s type b = (none, v))
include passes

/-- A target that is new to the table, where it has room for one more (R394). -/
theorem recHandle_acts_of_fresh (noEntry : mapGet s.cf.table (recTarget type b) = none)
    (later : serialAfter 32 serial s.tn.floor = true) (room : s.cf.table.length < 4096) :
    recHandle s who type serial b = recAct { v with cf := { v.cf with
      table := mapPut v.cf.table (recTarget type b)
        { serial := serial, type := type, status := none, order := v.cf.order, issuers := [who] },
      order := v.cf.order + 1 } } type serial b := by
  have cf := cf_of_recTest passes
  rw [recHandle_of_fresh noEntry later]
  refine recNew_of_passes passes (if_pos (.inr (cf ▸ room))) ?_
  simp only [recAbort, cf, noEntry]

/-- A target whose last command has completed (R393). -/
theorem recHandle_acts_of_completed {e : RecEntry} {st : Nat} (entry : mapGet s.cf.table (recTarget type b) = some e)
    (done : e.status = some st) (later : serialAfter 32 serial e.serial = true) :
    recHandle s who type serial b = recAct { v with cf := { v.cf with
      table := mapPut v.cf.table (recTarget type b)
        { serial := serial, type := type, status := none, order := v.cf.order, issuers := [who] },
      order := v.cf.order + 1 } } type serial b := by
  have cf := cf_of_recTest passes
  rw [recHandle_of_later entry later]
  have known : (mapGet v.cf.table (recTarget type b)).isSome = true := by rw [cf, entry]; rfl
  refine recNew_of_passes passes (if_pos (.inl known)) ?_
  simp only [recAbort, cf, entry, done, Option.isSome_some, if_true]

end

/-! ## The commands (R392, R393) -/

/-- A row of a manager acts by the serial of its request. -/
theorem next_recRow_of_accepted {s : State} {type k : Nat} {g : Mgmt} {m : Manager} (ok : Accepted s type g k m) :
    (.next (recRow s type g) : Host.Outcome State Fault Refusal) = .next
      (recHandle (granted s g k m) (.manager k (mgSeq g.body) g.port) type (mgSerial g.body) (mgBody g.body)) :=
  next_mgmtRow_of_accepted ok _

/-- A ring's command whose body is whole acts by its serial; the types that read the context table wait for it (R480). -/
theorem exec_recovery_of_whole {s : State} {c : Cmd} (runs : Runs s 0x30 c) (known : isRecovery (num c.d 8 1) = true)
    (body : recBodyOk (num c.d 8 1) ((slice c.d 0x10 12).take (recLen (num c.d 8 1))) = true)
    (rest : leNat ((slice c.d 0x10 12).drop (recLen (num c.d 8 1))) = 0)
    (ready : 0x13 ≤ num c.d 8 1 → tableReady s = true) :
    exec (.recovery c) s = .next (swept c (recHandle (begun s c) (.ring (refOf s c)) (num c.d 8 1) (num c.d 0x0C 4)
      ((slice c.d 0x10 12).take (recLen (num c.d 8 1))))) := by
  change Host.Outcome.next (ite _ _ _) = _
  split
  · next reads =>
    rw [startCx_of_runs runs (ready reads.1)]
    simp only [known, body, rest, decide_true, Bool.and_self, if_true]
  · rw [startCmd_of_runs runs]
    simp only [known, body, rest, decide_true, Bool.and_self, if_true]

/-- Settles O52: the rows by the request or the descriptor, and then the serial against that of the target's last command. -/
theorem recoveryCommandsAct : Obligations.RecoveryCommandsAct := by
  refine ⟨fun s => ⟨?_, ?_⟩, fun s who type serial b => ⟨?_, ?_, ?_, ?_, ?_⟩⟩
  · exact fun g k m => ⟨next_recRow_of_accepted, next_recRow_of_accepted, next_recRow_of_accepted, next_recRow_of_accepted,
      next_recRow_of_accepted, next_recRow_of_accepted⟩
  · exact fun c runs known body rest ready => exec_recovery_of_whole runs known body rest ready
  · exact fun e st entry same kind done => recHandle_of_completed entry same kind done
  · exact fun e entry same kind running => recHandle_of_running entry same kind running
  · exact fun e entry other earlier => recHandle_of_earlier entry other earlier
  · exact fun noEntry earlier => recHandle_of_floor noEntry earlier
  · exact fun v passes => ⟨fun noEntry later room => recHandle_acts_of_fresh passes noEntry later room,
      fun e st entry done later => recHandle_acts_of_completed passes entry done later⟩

end Sys2Proof.Machine

/-!
PROOFS. Heartbeats, suspicions and health scores (R387 to R390, Table 13.9).
-/

namespace Sys2Proof.Machine

section
variable {s : State} (up : awake s = true)
include up

theorem exec_heartbeatSend_of_due (comp : composed s = true) (period : hbPeriod s ≠ 0) (late : hbPeriod s ≤ elapsed s s.cf.hbLast)
    (run : s.power.retain = .out) :
    exec .heartbeatSend s = .next (sweepTrees (sendHeartbeats s (hbState s))) := by
  refine (next_live_of_awake up _).trans ?_
  simp only [comp, period, due_of_le late, run, ne_eq, not_false_eq_true, decide_true, BEq.rfl, Bool.and_self, if_true]

/-- A heartbeat of the one watch entry of its node. -/
theorem exec_heartbeatReceive_of_watched {src n node : Nat} {m : Bytes} (whole : m.length = 16)
    (watch : (watched s).filter (fun e => e.2 == src) = [(n, node)]) :
    exec (.heartbeatReceive src m) s = .next (
      let u := { s with ft := { s.ft with hbIn := s.ft.hbIn.erase (src, m) } }
      setSuspect { u with cf := { u.cf with watch := mapPut s.cf.watch n ⟨0, true⟩ } } n node
        (decide (bfld m 0 12 2 = 2 ∧ hbPeriod s ≠ 0))) := by
  have same : watched { s with ft := { s.ft with hbIn := s.ft.hbIn.erase (src, m) } } = watched s := rfl
  refine (next_live_of_awake up _).trans ?_
  simp only [whole, same, watch, ne_eq, not_true_eq_false, if_false, List.foldl_cons, List.foldl_nil]
  rfl

/-- A period ends of a list of one watched node. -/
theorem exec_heartbeatPeriodEnd_of_watched {n node : Nat} (period : hbPeriod s ≠ 0) (late : hbPeriod s ≤ elapsed s s.cf.hbEnd)
    (watch : watched s = [(n, node)]) :
    exec .heartbeatPeriodEnd s = .next (
      let w := (mapGet s.cf.watch n).getD ⟨0, false⟩
      let missed := if w.heard = true then 0 else w.missed + 1
      let u := { s with cf := { s.cf with hbEnd := s.time, watch := mapPut s.cf.watch n ⟨missed, false⟩ } }
      if getF s rCfControl fCfControlHbMisses < missed then setSuspect u n node true else u) := by
  refine (next_live_of_awake up _).trans ?_
  simp only [period, due_of_le late, watch, decide_false, Bool.not_true, Bool.or_self, Bool.false_eq_true, if_false,
    List.foldl_cons, List.foldl_nil]
  rfl

theorem exec_healthPeriod_of_other (other : s.time / 940000 ≠ s.cf.healthAt) :
    exec (.healthPeriod []) s = .next (sweepTrees ((List.range 578).foldl (formScore s.cf.tally)
      { s with cf := { s.cf with tally := [], healthAt := s.time / 940000 } })) := by
  refine (next_live_of_awake up _).trans ?_
  simp only [msCycles, other, if_false, List.foldl_nil]

end

/-- Settles O51: each row in the state of a powered node die, on a watch list with the node that the row is about. -/
theorem heartbeatsAndHealth : Obligations.HeartbeatsAndHealth := by
  intro s up
  refine ⟨?_, ?_, ?_, ?_⟩
  · exact fun comp period late run => exec_heartbeatSend_of_due up comp period late run
  · exact fun src m n node whole watch => exec_heartbeatReceive_of_watched up whole watch
  · exact fun n node period late watch => exec_heartbeatPeriodEnd_of_watched up period late watch
  · exact fun other => exec_healthPeriod_of_other up other

end Sys2Proof.Machine

/-!
PROOFS. What the two nodes of a handover do with its messages and timers (R398 to R402, R69, R161; log entries 154, 181, 218 and
229).
-/

namespace Sys2Proof.Machine

/-! ## A message that is taken (R398) -/

section
variable {s : State} {type src : Nat} {m : Bytes} (taken : Taken s type m)
include taken

/-- A message that is taken acts in the state in which it has left the list. -/
theorem withHo_of_taken (f : State → State) : withHo s type src m f = f (withoutHo s src m) := by
  rw [withHo, live_of_awake taken.isAwake]
  simp only [taken.code, taken.shape, ne_eq, not_true_eq_false, if_false, if_true]
  rfl

/-- The answer of such a row. -/
theorem next_withHo_of_taken (f : State → State) :
    (.next (withHo s type src m f) : Host.Outcome State Fault Refusal) = .next (f (withoutHo s src m)) :=
  congrArg _ (withHo_of_taken taken f)

end

/-! ## The source (R399 to R401) -/

section
variable {s : State} {src : Nat} {m : Bytes} {n : Reads} {h : Handover}

section
variable (taken : Taken s 2 m) (ours : sourceOf (withoutHo s src m) src m = some h) (offered : h.phase = .offered)
include taken ours offered

theorem exec_accept_of_ok {v : State} (sent : sendEntries (takeReads (updHo (withoutHo s src m) (hoCtx m)
    fun x => { x with phase := .sending }) n) (hoCtx m) = .ok v) : exec (.accept src ⟨m, n⟩) s = .next v := by
  refine (next_withHo_of_taken taken _).trans ?_
  simp only [ours, offered, sent, if_true]

theorem exec_accept_of_error {v : State} (sent : sendEntries (takeReads (updHo (withoutHo s src m) (hoCtx m)
    fun x => { x with phase := .sending }) n) (hoCtx m) = .error v) :
    exec (.accept src ⟨m, n⟩) s = .next (hoRevert v (hoCtx m) stUncorrectable) := by
  refine (next_withHo_of_taken taken _).trans ?_
  simp only [ours, offered, sent, if_true]

end

theorem exec_refuse_of_source (taken : Taken s 3 m) (ours : sourceOf (withoutHo s src m) src m = some h) :
    exec (.refuse src m) s = .next (hoRevert (withoutHo s src m) (hoCtx m) (knownCode (hoStatus m))) := by
  refine (next_withHo_of_taken taken _).trans ?_
  simp only [ours, Option.isSome_some, if_true]

/-! ### `COMMIT_SEND` and the timer -/

section
variable {i : Nat} (up : awake s = true) (found : mapGet s.cf.handovers i = some h) (source : h.source = true)
include up found source

theorem exec_handoverTimer_of_due {t : Nat} (committed : h.phase = .committed t) (late : hoTimeout s ≤ elapsed s t) :
    exec (.handoverTimer i) s = .next (hoRevert s i stTimeout) := by
  refine (next_live_of_awake up _).trans ?_
  simp only [found, source, hoExpired, committed, due_of_le late, Bool.and_self, if_true]

variable (sends : h.phase = .sending ∨ h.phase = .frozen)
include sends

theorem exec_commitSend_of_gone (gone : auxState s i = 0 ∨ auxState s i = 5) :
    exec (.commitSend ⟨i, n⟩) s = .next (hoRevert s i stAborted) := by
  have runs : (h.phase == .sending || h.phase == .frozen) = true := by simpa using sends
  refine (next_live_of_awake up _).trans ?_
  simp only [found, source, runs, gone, Bool.not_true, Bool.or_self, Bool.false_eq_true, if_false, if_true]

variable (stays : ¬(auxState s i = 0 ∨ auxState s i = 5))
include stays

theorem exec_commitSend_of_error {v : State} (sent : sendEntries (takeReads s n) i = .error v) :
    exec (.commitSend ⟨i, n⟩) s = .next (hoRevert v i stUncorrectable) := by
  have runs : (h.phase == .sending || h.phase == .frozen) = true := by simpa using sends
  refine (next_live_of_awake up _).trans ?_
  simp only [found, source, runs, stays, sent, Bool.not_true, Bool.or_self, Bool.false_eq_true, if_false]

theorem exec_commitSend_of_ok {v : State} (sent : sendEntries (takeReads s n) i = .ok v) :
    exec (.commitSend ⟨i, n⟩) s = .next (
      let w := updHo v i fun x => { x with phase := .frozen }
      if hoLeft v i = true then v else if opsDone w i = true then sendCommit w i h else w) := by
  have runs : (h.phase == .sending || h.phase == .frozen) = true := by simpa using sends
  refine (next_live_of_awake up _).trans ?_
  simp only [found, source, runs, stays, sent, Bool.not_true, Bool.or_self, Bool.false_eq_true, if_false]

end

/-! ### `COMMIT_ACK` and `QUERY` -/

theorem exec_commitAck_of_ended (taken : Taken s 6 m) (ended : sourceOf (withoutHo s src m) src m = none) :
    exec (.commitAck src m) s = .next (hoSend (withoutHo s src m) src
      (hoMsg 8 (hoCtx m) (hoSerial m) (nodeId (withoutHo s src m)) 0 0 [])) := by
  refine (next_withHo_of_taken taken _).trans ?_
  simp only [ended]

section
variable {t : Nat} (taken : Taken s 6 m) (ours : sourceOf (withoutHo s src m) src m = some h) (committed : h.phase = .committed t)
include taken ours committed

theorem exec_commitAck_of_late (late : hoTimeout s ≤ elapsed s t) :
    exec (.commitAck src m) s = .next (hoRevert (withoutHo s src m) (hoCtx m) stTimeout) := by
  have expired : hoExpired (withoutHo s src m) h = true := by
    simp only [hoExpired, committed]
    exact due_of_le late
  refine (next_withHo_of_taken taken _).trans ?_
  simp only [ours, expired, if_true, committed]

theorem exec_commitAck_of_early (early : elapsed s t < hoTimeout s) :
    exec (.commitAck src m) s = .next (
      if auxState s (hoCtx m) = 0 ∨ auxState s (hoCtx m) = 5 then hoRevert (withoutHo s src m) (hoCtx m) stAborted
      else hoFinal (withoutHo s src m) (hoCtx m) h) := by
  have inTime : hoExpired (withoutHo s src m) h = false := by
    simp only [hoExpired, committed]
    exact decide_eq_false early.not_ge
  have same : auxState (withoutHo s src m) (hoCtx m) = auxState s (hoCtx m) := rfl
  refine (next_withHo_of_taken taken _).trans ?_
  simp only [ours, inTime, committed, same, Bool.false_eq_true, if_false]

end

section
variable (taken : Taken s 9 m) (ended : sourceOf (withoutHo s src m) src m = none)
include taken ended

/-- What the outcomes kept say of the handover that a query names. -/
theorem exec_query_of_ended {found : Option (Nat × Nat × Bool)}
    (kept : (s.cf.outcomes.reverse.find? fun o => o.1 == hoCtx m && o.2.1 == hoSerial m) = found) :
    exec (.query src m) s = .next (hoSend (withoutHo s src m) src
      (hoMsg (if found.map (·.2.2) = some true then 7 else 8) (hoCtx m) (hoSerial m) (nodeId (withoutHo s src m)) 0 0 [])) := by
  have outcome : outcomeOf (withoutHo s src m) (hoCtx m) (hoSerial m) = found.map (·.2.2) := congrArg _ kept
  refine (next_withHo_of_taken taken _).trans ?_
  simp only [ended, outcome, Option.isSome_none, Bool.false_eq_true, if_false]

end

end

/-- Settles O54: each message of the source by its row, and its timer. -/
theorem handoverSourceActs : Obligations.HandoverSourceActs := by
  intro src i m n s h u
  refine ⟨?_, ?_, ?_, ?_, ?_, ?_, ?_⟩
  · exact fun taken ours offered => ⟨fun v sent => exec_accept_of_ok taken ours offered sent,
      fun v sent => exec_accept_of_error taken ours offered sent⟩
  · exact fun taken ours => exec_refuse_of_source taken ours
  · refine fun up found source sends => ⟨exec_commitSend_of_gone up found source sends, fun free closing => ?_⟩
    have stays : ¬(auxState s i = 0 ∨ auxState s i = 5) := not_or.mpr ⟨free, closing⟩
    exact ⟨fun v sent => exec_commitSend_of_error up found source sends stays sent,
      fun v sent => exec_commitSend_of_ok up found source sends stays sent⟩
  · exact fun taken ended => exec_commitAck_of_ended taken ended
  · exact fun t taken ours committed => ⟨exec_commitAck_of_late taken ours committed, exec_commitAck_of_early taken ours committed⟩
  · exact fun t up found source committed late => exec_handoverTimer_of_due up found source committed late
  · refine fun taken ended => ⟨fun o kept => ?_, fun kept => ?_⟩
    · simpa only [Option.map_some, Option.some.injEq] using exec_query_of_ended taken ended kept
    · simpa only [Option.map_none, reduceCtorEq, if_false] using exec_query_of_ended taken ended kept

/-! ## The acceptor (R399, R400, R402) -/

section
variable {s : State} {src : Nat} {m : Bytes} {n : Reads}

/-! ### `OFFER` -/

section
variable {d : Bytes} {v : State} (taken : Taken s 1 m) (ready : tableReady (withoutHo s src m) = true)
  (free : auxState (withoutHo s src m) (hoCtx m) = 0) (fresh : mapGet (withoutHo s src m).cf.handovers (hoCtx m) = none)
  (good : offerBad (withoutHo s src m) m = false)
  (read : readCtx (takeReads (withoutHo s src m) n) (hoCtx m) 2 = .ok (d, v))
include taken ready free fresh good read

theorem exec_offer_of_full (full : 64 ≤ v.cf.handovers.length) :
    exec (.offer src ⟨m, n⟩) s = .next (hoReply v src 3 stQuota m) := by
  refine (next_withHo_of_taken taken _).trans ?_
  simp only [ready, free, fresh, good, read, handoverMax, full, ne_eq, not_true_eq_false, Option.isSome_none, Bool.false_eq_true,
    Bool.not_true, or_self, if_false, if_true]

variable (room : v.cf.handovers.length < 64)
include room

theorem exec_offer_of_ok {w : State} (opened : openOffer v src m = .ok w) :
    exec (.offer src ⟨m, n⟩) s = .next (hoReply w src 2 0 m) := by
  refine (next_withHo_of_taken taken _).trans ?_
  simp only [ready, free, fresh, good, read, handoverMax, room.not_ge, opened, ne_eq, not_true_eq_false, Option.isSome_none,
    Bool.false_eq_true, Bool.not_true, or_self, if_false]

theorem exec_offer_of_error {f : OfferFail} (opened : openOffer v src m = .error f) :
    exec (.offer src ⟨m, n⟩) s = .next (offerFailed v src m f) := by
  refine (next_withHo_of_taken taken _).trans ?_
  simp only [ready, free, fresh, good, read, handoverMax, room.not_ge, opened, ne_eq, not_true_eq_false, Option.isSome_none,
    Bool.false_eq_true, Bool.not_true, or_self, if_false]

end

section
variable {h : Handover} (ours : acceptorOf (withoutHo s src m) src m = some h)
include ours

/-! ### `PAGE` and `COMMIT` -/

section
variable {d : Bytes} {r : State} (accepting : h.phase = .accepting) (isOpen : auxState (withoutHo s src m) (hoCtx m) = 1)
include accepting isOpen

theorem exec_page_of_placed (taken : Taken s 4 m) (read : readCtx (withoutHo s src m) (hoCtx m) 2 = .ok (d, r))
    (good : pageBad d m = false) {v : State} (placed : placePage r (hoCtx m) h (hoPage m) = .done v) :
    exec (.page src m) s = .next (updHo v (hoCtx m) fun x => { x with
      seen := mapPut x.seen (entryKey (hoPage m).layer (hoPage m).hpart (hoPage m).n) (0, (hoPage m).valid) }) := by
  refine (next_withHo_of_taken taken _).trans ?_
  simp only [ours, accepting, isOpen, read, good, placed, pageAnswer, ne_eq, not_true_eq_false, Bool.false_eq_true, if_false]

variable (taken : Taken s 5 m)
include taken

theorem exec_commit_of_count (read : readCtx (withoutHo s src m) (hoCtx m) 2 = .ok (d, r)) (count : h.seen.length = hoCount m)
    (whole : (hoBody m).length = 4) (safe : (flashHomes (withoutHo s src m) (hoCtx m)).any (flashLost (withoutHo s src m)) = false)
    (written : (flashHomes (withoutHo s src m) (hoCtx m)).all (flashWritten (withoutHo s src m)) = true) :
    exec (.commit src m) s = .next (
      let v := updCtx r (hoCtx m) fun d => setDEnd d (num (hoBody m) 0 4)
      hoReply (updHo v (hoCtx m) fun x => { x with phase := .held v.time v.time }) src 6 0 m) := by
  refine (next_withHo_of_taken taken _).trans ?_
  simp only [ours, accepting, isOpen, read, count, whole, safe, written, ne_eq, not_true_eq_false, or_self, Bool.not_true,
    Bool.false_eq_true, if_false]

theorem exec_commit_of_other_count (other : h.seen.length ≠ hoCount m) :
    exec (.commit src m) s = .next (hoReply (withoutHo s src m) src 3 stFormat m) := by
  refine (next_withHo_of_taken taken _).trans ?_
  simp only [ours, accepting, isOpen, other, ne_eq, not_true_eq_false, not_false_eq_true, true_or, if_false, if_true]

end

/-! ### `FINAL` and `ABANDON` -/

theorem exec_final_of_held (taken : Taken s 7 m) {t q : Nat} (held : h.phase = .held t q) :
    exec (.final src m) s = .next (dropHo (releaseReserved (withoutHo s src m) h) (hoCtx m)) := by
  refine (next_withHo_of_taken taken _).trans ?_
  simp only [ours, held]

theorem exec_abandon_of_acceptor (taken : Taken s 8 m) :
    exec (.abandon src m) s = .next (hoDrop (withoutHo s src m) (hoCtx m) h) := by
  refine (next_withHo_of_taken taken _).trans ?_
  simp only [ours]

end

/-- The first question of a held acceptor. -/
theorem exec_queryTimer_of_due {i t : Nat} {h : Handover} (up : awake s = true) (found : mapGet s.cf.handovers i = some h)
    (accepts : h.source = false) (held : h.phase = .held t t) (late : 2 * hoTimeout s ≤ elapsed s t)
    (tree : treeOpen s h.peer = true) :
    exec (.queryTimer i) s = .next (hoSend (updHo s i fun x => { x with phase := .held t s.time }) h.peer
      (hoMsg 9 i h.serial h.peer 0 0 [])) := by
  refine (next_live_of_awake up _).trans ?_
  simp only [found, accepts, held, due_of_le late, tree, decide_true, Bool.true_or, Bool.and_self, if_true]

end

/-- Settles O55: each message of the acceptor by its row, and its timer. -/
theorem handoverAcceptorActs : Obligations.HandoverAcceptorActs := by
  intro src i m n s h u c
  refine ⟨?_, ?_, ?_, ?_, ?_⟩
  · refine fun d v taken ready free fresh good read => ⟨exec_offer_of_full taken ready free fresh good read, fun room => ?_⟩
    have failed {f : OfferFail} (opened : openOffer v src m = .error f) :=
      exec_offer_of_error taken ready free fresh good read room opened
    exact ⟨fun w opened => exec_offer_of_ok taken ready free fresh good read room opened, failed, failed, fun w => failed⟩
  · refine fun d r ours accepting isOpen read => ⟨?_, ?_, ?_⟩
    · exact fun v taken good placed => exec_page_of_placed ours accepting isOpen taken read good placed
    · exact fun taken count whole safe written => exec_commit_of_count ours accepting isOpen taken read count whole safe written
    · exact fun taken other => exec_commit_of_other_count ours accepting isOpen taken other
  · exact fun t q taken ours held => exec_final_of_held ours taken held
  · exact fun taken ours => exec_abandon_of_acceptor ours taken
  · exact fun t up found accepts held late tree => exec_queryTimer_of_due up found accepts held late tree

end Sys2Proof.Machine

/-!
PROOFS. The commands of the owner and of the tenant (R374, R376, R441 to R446, R450, R451, R453 to R455, R457).
-/

namespace Sys2Proof.Machine

/-! ## What the commands find as it was -/

section
variable {c : Cmd} {s : State}

@[simp] theorem begun_power : (begun s c).power = s.power := takeReads_power
@[simp] theorem begun_lx : (begun s c).lx = s.lx := takeReads_lx
@[simp] theorem swept_power : (swept c s).power = s.power := sweepUnknown_power
@[simp] theorem swept_lx : (swept c s).lx = s.lx := sweepUnknown_lx

@[simp] theorem rollback_begun (k : Nat) : rollback (begun s c) k = rollback s k := by rw [rollback, begun_tn, rollback]

@[simp] theorem utcBackward_begun (utc : Nat) : utcBackward (begun s c) utc = utcBackward s utc := by
  rw [utcBackward, begun_tn, utcBackward]

end

/-- Of the fabric's state, the reads of a command write nothing but the tallies of the scores (R269, R387). -/
theorem refetchOk_replies (s : State) (k : Nat) : (refetchOk s k).cf.replies = s.cf.replies := by
  unfold refetchOk
  dsimp only
  split
  · rfl
  · split
    · rw [raise1_cf]; rfl
    · rfl

@[simp] theorem begun_replies (s : State) (c : Cmd) : (begun s c).cf.replies = s.cf.replies :=
  keep_foldl (P := fun t => t.cf.replies = s.cf.replies) (f := refetchOk) (l := c.reads.passed)
    (fun t k kept => (refetchOk_replies t k).trans kept) rfl

/-! ## What a commit leaves of the Tense block (R448, R450) -/

/-- What is recorded of a commit follows from the Tense block alone. -/
theorem writeSector_tn_congr {s t : State} (same : t.tn = s.tn) (record : Nat) :
    (writeSector t record).tn = (writeSector s record).tn := by
  unfold writeSector spareSector
  dsimp only
  rw [same]
  split
  · split
    · rw [raise0_tn, raise0_tn]
    · rw [raise0_tn, raise0_tn]
  · rfl

theorem commit_tn_congr {s t : State} (same : t.tn = s.tn) (record : Nat) : (commit t record).tn = (commit s record).tn :=
  writeSector_tn_congr (writeSector_tn_congr same record) 8

theorem writeSector_anchors (s : State) (record : Nat) : (writeSector s record).tn.anchors = s.tn.anchors := by
  unfold writeSector spareSector
  dsimp only
  split
  · split
    · rw [raise0_tn]
    · rw [raise0_tn]
  · rfl

@[simp] theorem commit_anchors (s : State) (record : Nat) : (commit s record).tn.anchors = s.tn.anchors := by
  rw [commit, writeSector_anchors, writeSector_anchors]

/-- A commit completes no command. -/
theorem quiet_writeSector (s : State) (record : Nat) : Quiet s (writeSector s record) := by
  unfold writeSector spareSector
  dsimp only
  split
  · split
    · exact quiet_raise _ _ _ _
    · exact quiet_raise _ _ _ _
  · exact ⟨rfl, rfl⟩

theorem quiet_commit (s : State) (record : Nat) : Quiet s (commit s record) :=
  (quiet_writeSector s record).trans (quiet_writeSector _ 8)

/-! ## The owner's commands -/

section
variable {s : State} {c : Cmd} {b : Bytes}

/-! ### Keys (R442) -/

theorem exec_lxEnrol_of_first (runs : Runs s 0x50 c) (first : s.tn.ownerKey = none) (room : c.badBuf 1312 = false) :
    exec (.lxEnrol c (some b)) s = .next (swept c (finish (commit { begun s c with
      tn := { (begun s c).tn with ownerKey := some (padTo 1312 b) } } 1) (refOf s c) stOk)) := by
  refine (congrArg Host.Outcome.next (startCmd_of_runs runs _)).trans ?_
  simp only [begun_tn, first, keyBytes, room, firstRefusal, refuseOr, withHost, Option.isSome_none, Bool.false_eq_true, if_false]

theorem exec_lxEnrol_of_enrolled (runs : Runs s 0x50 c) (enrolled : s.tn.ownerKey ≠ none) :
    exec (.lxEnrol c (some b)) s = .next (swept c (finish (begun s c) (refOf s c) stFormat)) := by
  have is : s.tn.ownerKey.isSome = true := Option.isSome_iff_ne_none.mpr enrolled
  refine (congrArg Host.Outcome.next (startCmd_of_runs runs _)).trans ?_
  simp only [begun_tn, is, firstRefusal, refuseOr, if_true]

theorem exec_lxTransfer_of_key {key : Bytes} (runs : Runs s 0x51 c) (enrolled : s.tn.ownerKey = some key)
    (room : c.badBuf (1312 + 2420) = false) :
    exec (.lxTransfer c (some b)) s = .next (swept c (if dsaVerify key (padTo 1312 b) (slice b 1312 2420) = true then
      finish (commit { begun s c with tn := { (begun s c).tn with ownerKey := some (padTo 1312 b) } } 1) (refOf s c) stOk
      else finish (begun s c) (refOf s c) stFormat)) := by
  refine (congrArg Host.Outcome.next (startCmd_of_runs runs _)).trans ?_
  simp only [begun_tn, enrolled, keyBytes, sigBytes, room, firstRefusal, refuseOr, withHost, Bool.false_eq_true, if_false]

/-! ### Managers (R374, R376, R441) -/

theorem exec_lxManagerSet_of_room (runs : Runs s 0x52 c) (room : c.badBuf 32 = false) :
    exec (.lxManagerSet c (some b)) s = .next (swept c (finish (commit { begun s c with
      tn := { (begun s c).tn with managers := mapPut s.tn.managers (bfld c.d 8 0 3) ⟨bfld c.d 8 16 12, some (padTo 32 b), 0⟩ },
      cf := { (begun s c).cf with replies := mapDel s.cf.replies (bfld c.d 8 0 3) } } 1) (refOf s c) stOk)) := by
  refine (congrArg Host.Outcome.next (startCmd_of_runs runs _)).trans ?_
  simp only [begun_tn, begun_replies, room, firstRefusal, refuseOr, withHost, Bool.false_eq_true, if_false]

theorem exec_lxManagerClear (runs : Runs s 0x53 c) :
    exec (.lxManagerClear c) s = .next (swept c (finish (commit { begun s c with
      tn := { (begun s c).tn with managers := mapDel s.tn.managers (bfld c.d 8 0 3) },
      cf := { (begun s c).cf with replies := mapDel s.cf.replies (bfld c.d 8 0 3) } } 1) (refOf s c) stOk)) := by
  refine (congrArg Host.Outcome.next (startCmd_of_runs runs _)).trans ?_
  simp only [begun_tn, begun_replies]

/-! ### The boot flash (R443) -/

/-- A write of the flash names an area in use: the image slot or the record slot that runs. -/
def areaInUse (s : State) (t : Nat) : Bool :=
  if t < 2 then decide (getF s rLxStatus fLxStatusActiveSlot = t) else decide (getF s rLxStatus fLxStatusRecordSlot + 2 = t)

theorem areaInUse_eq_false {t : Nat} (image : t < 2 → getF s rLxStatus fLxStatusActiveSlot ≠ t)
    (record : 2 ≤ t → getF s rLxStatus fLxStatusRecordSlot + 2 ≠ t) : areaInUse s t = false := by
  unfold areaInUse
  split
  case isTrue low => exact decide_eq_false (image low)
  case isFalse high => exact decide_eq_false (record (Nat.le_of_not_lt high))

theorem areaInUse_begun (t : Nat) : areaInUse (begun s c) t = areaInUse s t := by
  rw [areaInUse, begun_getF _ (by decide), begun_getF _ (by decide), areaInUse]

/-- What is given for an area holds: an image or a configuration record (R433, R434). -/
def areaValid (s : State) (t : Nat) (x : Bytes) : Bool := if t < 2 then imageValid s x else recordValid s x

theorem exec_lxFlashWrite_of_free (runs : Runs s 0x55 c) (free : areaInUse s (bfld c.d 8 0 2) = false)
    (fits : c.len ≤ areaBytes (bfld c.d 8 0 2)) (room : c.badBuf 0 = false) :
    exec (.lxFlashWrite c (some b)) s = .next (swept c (finish { begun s c with
      lx := { (begun s c).lx with
        areas := mapPut s.lx.areas (bfld c.d 8 0 2)
          (if areaValid (begun s c) (bfld c.d 8 0 2) (padTo c.len b) = true then padTo c.len b else []) } } (refOf s c)
      (if areaValid (begun s c) (bfld c.d 8 0 2) (padTo c.len b) = true then stOk else stFormat))) := by
  have noted : firstRefusal [(areaInUse (begun s c) (bfld c.d 8 0 2), stFormat),
      (decide (areaBytes (bfld c.d 8 0 2) < c.len) || c.badBuf 0, stLength)] = none := by
    rw [areaInUse_begun, free, room, decide_eq_false (Nat.not_lt.mpr fits)]
    rfl
  refine (congrArg Host.Outcome.next (startCmd_of_runs runs _)).trans ?_
  refine (congrArg (fun x => Host.Outcome.next (swept c (refuseOr (begun s c) (refOf s c) x _))) noted).trans ?_
  simp only [refuseOr, withHost, begun_lx]
  rfl

/-! ### Rollback counters (R453) -/

/-- The version that runs, of an image (`KEY` 0) or of a configuration record. -/
def versionRuns (s : State) (k : Nat) : Nat :=
  if k = 0 then getF s rIdFirmware fIdFirmwareImageSvn else getF s rIdFirmware fIdFirmwareRecordSvn

theorem versionRuns_begun (k : Nat) : versionRuns (begun s c) k = versionRuns s k := by
  rw [versionRuns, begun_getF _ (by decide), begun_getF _ (by decide), versionRuns]

theorem exec_lxRollback (runs : Runs s 0x56 c) :
    exec (.lxRollback c) s = .next (swept c (
      if num c.d 0x0C 4 < rollback s (bfld c.d 8 0 4) ∨ bfld c.d 8 0 4 ≤ 1 ∧ versionRuns s (bfld c.d 8 0 4) < num c.d 0x0C 4 then
        finish (begun s c) (refOf s c) stFormat
      else if num c.d 0x0C 4 = rollback s (bfld c.d 8 0 4) then finish (begun s c) (refOf s c) stOk
      else finish (commit { begun s c with tn := { s.tn with
        rollback := mapPut s.tn.rollback (bfld c.d 8 0 4) (num c.d 0x0C 4) } } 0) (refOf s c) stOk)) := by
  refine (congrArg Host.Outcome.next (startCmd_of_runs runs _)).trans ?_
  rw [← versionRuns_begun (c := c)]
  simp only [rollback_begun, begun_tn]
  rfl

section
variable (runs : Runs s 0x56 c)
include runs

/-- A counter does not fall, nor rise beyond the version that runs. -/
theorem ends_lxRollback_of_refused
    (bad : num c.d 0x0C 4 < rollback s (bfld c.d 8 0 4) ∨
      bfld c.d 8 0 4 ≤ 1 ∧ versionRuns s (bfld c.d 8 0 4) < num c.d 0x0C 4) :
    Ends (.lxRollback c) s c stFormat 0 0 0 0 fun t => t.tn = s.tn := by
  refine ends_of_finish runs ((exec_lxRollback runs).trans ?_) (.refl _) ?_
  · rw [if_pos bad]
  · simp

theorem ends_lxRollback_of_same (same : num c.d 0x0C 4 = rollback s (bfld c.d 8 0 4))
    (within : bfld c.d 8 0 4 ≤ 1 → num c.d 0x0C 4 ≤ versionRuns s (bfld c.d 8 0 4)) :
    Ends (.lxRollback c) s c stOk 0 0 0 0 fun t => t.tn = s.tn := by
  refine ends_of_finish runs ((exec_lxRollback runs).trans ?_) (.refl _) ?_
  · rw [if_neg (by omega), if_pos same]
  · simp

theorem ends_lxRollback_of_rise (rise : rollback s (bfld c.d 8 0 4) < num c.d 0x0C 4)
    (within : bfld c.d 8 0 4 ≤ 1 → num c.d 0x0C 4 ≤ versionRuns s (bfld c.d 8 0 4)) :
    Ends (.lxRollback c) s c stOk 0 0 0 0 fun t => t.tn =
      (commit { s with tn := { s.tn with rollback := mapPut s.tn.rollback (bfld c.d 8 0 4) (num c.d 0x0C 4) } } 0).tn := by
  have acts := exec_lxRollback runs
  rw [if_neg (by omega), if_neg (by omega)] at acts
  refine ends_of_finish runs acts ((Grows.of_qe ?_).trans (quiet_commit _ _).grows) ?_
  · rfl
  · rw [swept_tn, finish_tn]
    refine commit_tn_congr ?_ 0
    rfl

end

/-! ### Anchors and the active slot (R441, R454) -/

theorem ends_lxAnchor (runs : Runs s 0x57 c) :
    Ends (.lxAnchor c) s c stOk 0 0 0 0 fun t => t.tn.anchors = (s.tn.anchors ++ [(⟨num c.d 8 8, s.time, s.tn.coldStarts,
      if utcBackward s (num c.d 8 8) = true then 1 else 0⟩ : Anchor)]).drop (s.tn.anchors.length - 255) := by
  refine ends_of_finish runs (congrArg Host.Outcome.next (startCmd_of_runs runs _))
    ((Grows.of_qe ?_).trans (quiet_commit _ 7).grows) ?_
  · rfl
  · rw [swept_tn, finish_tn, commit_anchors]
    simp only [begun_tn, begun_time, utcBackward_begun]

theorem ends_lxSetActive (runs : Runs s 0x5A c) :
    Ends (.lxSetActive c) s c stOk 0 0 0 0 fun t =>
      t.lx = { s.lx with directory := setFld s.lx.directory 32 1 (bfld c.d 8 0 1) } := by
  refine ends_of_finish runs (congrArg Host.Outcome.next (startCmd_of_runs runs _)) (.of_qe ?_) ?_
  · rfl
  · rw [swept_lx, finish_lx]
    simp only [begun_lx]

end

/-- Settles O56: each clause is what the command does in the state in which it has begun. -/
theorem ownerCommandsAct : Obligations.OwnerCommandsAct := by
  unfold Obligations.OwnerCommandsAct
  intro c b s r u
  refine ⟨exec_lxEnrol_of_first, ?_, fun key => exec_lxTransfer_of_key, exec_lxManagerSet_of_room, exec_lxManagerClear, ?_,
    fun runs => ⟨ends_lxRollback_of_refused runs, ends_lxRollback_of_same runs, ends_lxRollback_of_rise runs⟩,
    ends_lxAnchor, ends_lxSetActive⟩
  · intro runs enrolled
    exact ends_of_finish runs (exec_lxEnrol_of_enrolled runs enrolled) (.refl _) (by simp)
  · intro runs t image record fits room
    exact exec_lxFlashWrite_of_free runs (areaInUse_eq_false image record) fits room

end Sys2Proof.Machine

/-!
PROOFS. A read of a Tense record whose reads send a message (R227, R451), and the Lexicon itself (R431, R439, R448 to R450).
-/

namespace Sys2Proof.Machine

/-! ## A poisoned line read for a Tense record -/

section
variable {s : State} {c : Cmd}

theorem exec_lxTnRead_of_unknown (runs : Runs s 0x58 c) (unknown : 9 < num c.d 8 1) (hostOk good : Bool) :
    exec (.lxTnRead c hostOk good) s = .next (swept c (finish (begun s c) (refOf s c) stFormat)) := by
  refine (congrArg Host.Outcome.next (startCmd_of_runs runs _)).trans ?_
  simp only [firstRefusal, unknown, decide_true, refuseOr, if_true]

end

/-- A read of record 10, which there is not, for which a tier line was read that came as poison and then passed. -/
def poisonedRecordRead : Cmd := ⟨0, 0, natLe 4 0x58 ++ zeros 4 ++ natLe 1 10 ++ zeros 55, ⟨[129], []⟩⟩

theorem runs_poisonedRecordRead : Runs alarmedNode 0x58 poisonedRecordRead :=
  ⟨by decide, by decide, by decide, by decide, by decide, by decide, by decide⟩

/-- Its reads send the event vector's message, which `TP_EVENT.POISON` asks for. -/
theorem begun_poisonedRecordRead_sends :
    (begun alarmedNode poisonedRecordRead).out = alarmedNode.out ++ [.msix 1 0 0 0] := by decide

/-- Refutes O57 by its clause of a record that there is not: a `LX_TN_READ` for which a line came as poison and then passed
sends the message of `TP_EVENT.POISON`, so what was sent before is not all that has been sent. -/
theorem not_tenantAndUnitCommandsAct : ¬Obligations.TenantAndUnitCommandsAct := by
  intro h
  obtain ⟨-, -, unknown, -, -⟩ := h poisonedRecordRead [] alarmedNode
  have beyond : 9 < num poisonedRecordRead.d 8 1 := by decide
  obtain ⟨-, silent⟩ := (unknown runs_poisonedRecordRead beyond).of_next
    (exec_lxTnRead_of_unknown runs_poisonedRecordRead beyond true true)
  rw [swept_out, finish_out, begun_poisonedRecordRead_sends] at silent
  exact absurd silent (by decide)

/-! ## Restarts and requests (R431, R439) -/

section
variable {s : State} (up : awake s = true)
include up

theorem exec_measuredRestart_of_runs (same : Bool) (runs : lxHalted s = false) :
    exec (.measuredRestart same) s = .next (
      if same = true ∧ ((s.lx.restarts.filter fun t => decide (elapsed s t < 940000000)) ++ [s.time]).length < 3 then
        raise0 (abortOwner { s with lx := { s.lx with
          restarts := (s.lx.restarts.filter fun t => decide (elapsed s t < 940000000)) ++ [s.time] } }) 56 fLxEventRestart
      else haltLexicon (raise0 (abortOwner { s with lx := { s.lx with
          restarts := (s.lx.restarts.filter fun t => decide (elapsed s t < 940000000)) ++ [s.time] } }) 56 fLxEventRestart)) := by
  refine (next_live_of_awake up _).trans ?_
  simp only [runs, Bool.false_eq_true, if_false]
  rfl

theorem doeRequest_of_answers (b : Bytes) (open0 : answers s 0 = true) (started : s.power.restricted = true → lxHalted s = true)
    (runs : wakeLogic s = false) (empty : s.lx.doe = none) :
    doeRequest s b = if s.power.running = some .H then { s with lx := { s.lx with doe := some b } }
      else emit s (.doe (doeAnswer s b)) := by
  have ready : (s.power.restricted && !(lxHalted s)) = false := by
    cases restricted : s.power.restricted with
    | false => rfl
    | true =>
      rw [started restricted]
      rfl
  refine (live_of_awake up _).trans ?_
  exact if_neg (by rw [open0, ready, runs, empty]; decide)

theorem exec_doeAbort : exec .doeAbort s = .next { s with lx := { s.lx with doe := none } } := next_live_of_awake up _

theorem exec_tensePeriodicCommit (failing celsius : List Nat) (settled : s.power.running = none) (due : 60 ≤ secondsDue s) :
    exec (.tensePeriodicCommit failing celsius) s = .next (
      let u := { s with tn := { s.tn with failing :=
        s.tn.failing ++ failing.eraseDups.filter fun n => decide (n ≤ 9) && !(s.tn.failing.contains n) } }
      let v := if dayAfter u (secondsDue u) = dayOf u then u else endDay (dayAfter u (secondsDue u)) u
      let w := commitSeconds v
      commit { w with tn := { w.tn with histogram := countTemps celsius (secondsDue v) w.tn.histogram } } 3) := by
  refine (next_live_of_awake up _).trans ?_
  exact congrArg _ (if_neg (by rw [settled]; simp; omega))

end

/-! ## A sector that fails its read-back (R450) -/

section
variable {s : State} {n : Nat}

/-- A sector that passes leaves what is known of failing sectors and of the spares. -/
theorem writeSector_spares_of_passed (passed : n ∉ s.tn.failing) :
    (writeSector s n).tn.sparesUsed = s.tn.sparesUsed ∧ (writeSector s n).tn.failing = s.tn.failing := by
  simp [writeSector, passed]

theorem writeSector_spares_of_spared (failing : s.tn.failing = [n]) (left : s.tn.sparesUsed < 32) :
    (writeSector s n).tn.sparesUsed = s.tn.sparesUsed + 1 ∧ (writeSector s n).tn.failing = [] := by
  simp [writeSector, spareSector, failing, left]

theorem writeSector_spares_of_worn (failing : s.tn.failing = [n]) (used : 32 ≤ s.tn.sparesUsed) :
    (writeSector s n).tn.sparesUsed = s.tn.sparesUsed ∧ (writeSector s n).tn.failing = [n] := by
  simp [writeSector, spareSector, failing, Nat.not_lt.mpr used]

theorem commit_spares_of_spared (failing : s.tn.failing = [n]) (left : s.tn.sparesUsed < 32) :
    (commit s n).tn.sparesUsed = s.tn.sparesUsed + 1 ∧ (commit s n).tn.failing = [] := by
  obtain ⟨used, none⟩ := writeSector_spares_of_spared failing left
  obtain ⟨used8, failing8⟩ := writeSector_spares_of_passed (s := writeSector s n) (n := 8) (by simp [none])
  exact ⟨used8.trans used, failing8.trans none⟩

theorem commit_spares_of_worn (other : n ≠ 8) (failing : s.tn.failing = [n]) (used : 32 ≤ s.tn.sparesUsed) :
    (commit s n).tn.sparesUsed = s.tn.sparesUsed ∧ (commit s n).tn.failing = [n] := by
  obtain ⟨same, still⟩ := writeSector_spares_of_worn failing used
  obtain ⟨used8, failing8⟩ := writeSector_spares_of_passed (s := writeSector s n) (n := 8) (by simp [still, other.symm])
  exact ⟨used8.trans same, failing8.trans still⟩

end

/-- Settles O58: each clause is what the Lexicon does on a powered node die. -/
theorem theLexiconActs : Obligations.TheLexiconActs := by
  unfold Obligations.TheLexiconActs
  intro s up
  refine ⟨fun same runs => exec_measuredRestart_of_runs up same runs, ?_, exec_doeAbort up,
    fun failing celsius settled due => exec_tensePeriodicCommit up failing celsius settled due, ?_⟩
  · intro b open0 started runs empty i request
    have answered := doeRequest_of_answers up b open0 started runs empty
    simp only [List.mem_cons, List.not_mem_nil, or_false] at request
    rcases request with rfl | rfl | rfl
    · exact congrArg Host.Outcome.next answered
    · exact congrArg Host.Outcome.next answered
    · exact congrArg Host.Outcome.next answered
  · exact fun n other failing => ⟨commit_spares_of_spared failing, commit_spares_of_worn other failing⟩

end Sys2Proof.Machine

/-!
PROOFS. The host queues: doorbells (R410, R474), fetches and completion entries (R409, R412, R413, R415, R416), interrupt
messages (R425, R426), and the commands that name a job (R213, R420).
-/

namespace Sys2Proof.Machine

/-! ## Doorbells (R410, R474) -/

section
variable {s : State} {fn ring v : Nat}

theorem bar2Write_tail (s : State) (fn ring v : Nat) : bar2Write s fn (4096 * ring) v = doorbell s fn ring v false := by
  unfold bar2Write
  rw [if_pos (by omega), show 4096 * ring / 4096 = ring by omega]

theorem bar2Write_consumer (s : State) (fn ring v : Nat) :
    bar2Write s fn (4096 * ring + 4) v = doorbell s fn ring v true := by
  unfold bar2Write
  rw [if_neg (by omega), if_pos (by omega), show (4096 * ring + 4) / 4096 = ring by omega]

theorem doorbell_of_bad {consumer : Bool} (isRing : ring < ringsOf fn) (bad : doorbellBad s fn ring v consumer = true) :
    doorbell s fn ring v consumer = raise s fn 1 fQeEvent1DoorbellBad.lo := by
  rw [doorbell, if_neg (Nat.not_le.mpr isRing), if_pos bad]

theorem doorbell_of_good {consumer : Bool} (isRing : ring < ringsOf fn) (good : doorbellBad s fn ring v consumer = false) :
    doorbell s fn ring v consumer =
      setF s (ringIndex fn ring) (if consumer then fQeRingIndex1CqConsumer else fQeRingIndex1SqTail) v := by
  rw [doorbell, if_neg (Nat.not_le.mpr isRing), good, if_neg Bool.false_ne_true]

/-- An index beyond the ring, or of a ring that is disabled or stopped, is not taken. -/
theorem doorbellBad_of_beyond (beyond : ringSize s fn ring ≤ v ∨ ringMode s fn ring = 0 ∨ ringMode s fn ring = 3)
    (consumer : Bool) : doorbellBad s fn ring v consumer = true := by
  rw [doorbellBad, decide_eq_true beyond, Bool.true_or]

section
variable (within : v < ringSize s fn ring) (enabled : ringMode s fn ring ≠ 0) (runs : ringMode s fn ring ≠ 3)
include within enabled runs

theorem not_beyond : ¬(ringSize s fn ring ≤ v ∨ ringMode s fn ring = 0 ∨ ringMode s fn ring = 3) := by omega

theorem tail_good : doorbellBad s fn ring v false = false := by
  simp only [doorbellBad, not_beyond within enabled runs, decide_false, Bool.false_and, Bool.or_false]

/-- A consumer index that does not pass the producer is taken. -/
theorem consumer_good (behind : (v + ringSize s fn ring - cqConsumer s fn ring) % ringSize s fn ring ≤
    (cqProducer s fn ring + ringSize s fn ring - cqConsumer s fn ring) % ringSize s fn ring) :
    doorbellBad s fn ring v true = false := by
  simp only [doorbellBad, not_beyond within enabled runs, decide_false, Nat.not_lt.mpr behind, Bool.and_false, Bool.or_false]

end

section
variable (open_ : answers s fn = true) (started : s.power.restricted = false)
include open_ started

theorem doorbellRow_of_retain (inside : wakeLogic s = true) (off : Nat) :
    doorbellRow s fn off v = { s with power := { s.power with doorbells := s.power.doorbells ++ [(fn, off, v)] } } := by
  simp only [doorbellRow, open_, started, inside, Bool.not_true, Bool.or_false, Bool.false_eq_true, if_false, if_true]

theorem doorbellRow_of_run (outside : wakeLogic s = false) (off : Nat) : doorbellRow s fn off v = bar2Write s fn off v := by
  simp only [doorbellRow, open_, started, outside, Bool.not_true, Bool.or_false, Bool.false_eq_true, if_false]

end

theorem exec_sqDoorbell (small : v < 2 ^ 32) : exec (.sqDoorbell fn ring v) s = .next (doorbellRow s fn (4096 * ring) v) :=
  congrArg (fun x => Host.Outcome.next (doorbellRow s fn (4096 * ring) x)) (Nat.mod_eq_of_lt small)

theorem exec_cqDoorbell (small : v < 2 ^ 32) : exec (.cqDoorbell fn ring v) s = .next (doorbellRow s fn (4096 * ring + 4) v) :=
  congrArg (fun x => Host.Outcome.next (doorbellRow s fn (4096 * ring + 4) x)) (Nat.mod_eq_of_lt small)

end

/-- Settles O20, by what the doorbell row does in Retain and out of it, with an index that is taken and one that is not. -/
theorem doorbellsAct : Obligations.DoorbellsAct := by
  unfold Obligations.DoorbellsAct
  intro fn ring v s open_ started isRing small
  rw [exec_sqDoorbell small, exec_cqDoorbell small]
  refine ⟨?_, ?_, ?_⟩
  · intro inside
    rw [doorbellRow_of_retain open_ started inside, doorbellRow_of_retain open_ started inside]
    exact ⟨rfl, rfl⟩
  · intro outside within enabled runs
    rw [doorbellRow_of_run open_ started outside, doorbellRow_of_run open_ started outside, bar2Write_tail, bar2Write_consumer]
    refine ⟨?_, fun behind => ?_⟩
    · rw [doorbell_of_good isRing (tail_good within enabled runs)]
      rfl
    · rw [doorbell_of_good isRing (consumer_good within enabled runs behind)]
      rfl
  · intro outside beyond
    rw [doorbellRow_of_run open_ started outside, doorbellRow_of_run open_ started outside, bar2Write_tail, bar2Write_consumer,
      doorbell_of_bad isRing (doorbellBad_of_beyond beyond false), doorbell_of_bad isRing (doorbellBad_of_beyond beyond true)]
    exact ⟨rfl, rfl⟩

/-! ## Fetches and completion entries -/

section
variable {s : State} (up : awake s = true) {fn ring : Nat}
include up

theorem exec_descriptorFetch_of_data (d : Bytes) (may : mayFetch s fn ring = true) :
    exec (.descriptorFetch fn ring (.data d)) s = .next (
      let u := setF s (ringIndex fn ring) fQeRingIndex1SqHead ((sqHead s fn ring + 1) % ringSize s fn ring)
      let u := setF u (ringState fn ring) fQeRingState1Reserved (reserved u fn ring + 1)
      let u := { u with qe := { s.qe with fetched := s.qe.fetched ++ [(s.qe.resets1, ⟨fn, ring, padTo 64 d, .clean⟩)] } }
      sweepUnknown fn ring (s.qe.fetched.length + 1) u) := by
  refine (next_live_of_awake up _).trans ?_
  simp only [may, Bool.not_true, Bool.false_eq_true, if_false, setF_qe, List.length_append, List.length_singleton]

theorem exec_descriptorFetch_of_error (may : mayFetch s fn ring = true) :
    exec (.descriptorFetch fn ring .error) s =
      .next (raise (setF s (ringState fn ring) fQeRingState1State 3) fn 1 fQeEvent1FetchError.lo) := by
  refine (next_live_of_awake up _).trans ?_
  simp only [may, Bool.not_true, Bool.false_eq_true, if_false]

/-- The oldest entry of a ring is taken from those that wait, with its reservation, and the producer advances. -/
def entryTaken (s : State) (fn ring : Nat) (c : Completion) : State :=
  advanceProducer (setF { s with qe := { s.qe with finished := removeFirst (· == c) s.qe.finished } } (ringState fn ring)
    fQeRingState1Reserved (reserved s fn ring - 1)) fn ring

theorem exec_completionWrite_of_next {c : Completion} (next : nextEntry s fn ring = some c) (answer : c.notice = false)
    (enabled : ringMode s fn ring ≠ 0) (hostOk : Bool) :
    exec (.completionWrite fn ring hostOk) s = .next (drainedRing (if hostOk then coalesceEntry (emit (entryTaken s fn ring c)
      (.hostWrite (cqBase s fn ring + 32 * cqProducer s fn ring) (cqEntry s c))) fn ring
      else raise (entryTaken s fn ring c) fn 1 fQeEvent1DmaError.lo) fn ring) := by
  refine (next_live_of_awake up _).trans ?_
  simp only [next, if_neg enabled, answer, Bool.false_eq_true, if_false]
  rfl

end

/-- Settles O21, by a fetch that may happen and by the oldest completion of the ring. -/
theorem ringsMoveEntries : Obligations.RingsMoveEntries := by
  unfold Obligations.RingsMoveEntries
  intro fn ring s up
  refine ⟨exec_descriptorFetch_of_data up, exec_descriptorFetch_of_error up, ?_⟩
  intro c next answer enabled u v at_
  exact ⟨exec_completionWrite_of_next up next answer enabled true, exec_completionWrite_of_next up next answer enabled false⟩

/-! ## Interrupt messages (R425, R426) -/

section
variable {s : State} (up : awake s = true) {fn : Nat}
include up

theorem exec_msixCoalesceTimer_of_due {ring : Nat} {k : Coalesce} (waits : mapGet s.qe.coalesce (coalesceKey fn ring) = some k)
    (passed : 1024 * getF s (ringCtrl fn ring) fQeRingCtrl1CoalesceTime ≤ elapsed s k.first) :
    exec (.msixCoalesceTimer fn ring) s = .next (sendRing s fn ring) := by
  refine (next_live_of_awake up _).trans ?_
  simp only [waits, due_of_le passed, if_true]

theorem exec_eventHoldoffTimer_of_due {t : Nat} (waits : eventMsg s fn = ⟨some t, true⟩) (passed : holdoff s fn ≤ elapsed s t) :
    exec (.eventHoldoffTimer fn) s = .next (sendEventNow s fn) := by
  refine (next_live_of_awake up _).trans ?_
  simp only [waits, due_of_le passed, if_true]

theorem exec_msixUnmask_of_vector {vec : Nat} (isVector : vec < vectorsOf fn) (open_ : answers s fn = true) :
    exec (.msixUnmask fn vec) s = .next (unmaskVector s fn vec) := by
  refine (next_live_of_awake up _).trans ?_
  exact congrArg _ (if_neg (by rw [open_]; simp; omega))

end

section
variable (s : State) (fn vec : Nat)

theorem mem_unmasked_unmaskVector : 256 * fn + vec ∈ (unmaskVector s fn vec).qe.unmasked := by
  unfold unmaskVector
  dsimp only
  by_cases already : 256 * fn + vec ∈ s.qe.unmasked
  · rw [if_pos already]
    split <;> exact already
  · rw [if_neg already]
    split <;> exact List.mem_append_right _ List.mem_cons_self

theorem unmaskVector_regs : (unmaskVector s fn vec).regs = s.regs := by
  unfold unmaskVector
  dsimp only
  split <;> split <;> rfl

variable {s fn vec}

theorem unmaskVector_of_pending (pending : 256 * fn + vec ∈ s.qe.pba) :
    (unmaskVector s fn vec).out = s.out ++ [msixMsg s fn vec] ∧
      (unmaskVector s fn vec).qe.pba = s.qe.pba.erase (256 * fn + vec) := by
  by_cases already : 256 * fn + vec ∈ s.qe.unmasked
  · simp [unmaskVector, already, pending, emit, msixMsg, msixDword]
  · simp [unmaskVector, already, pending, emit, msixMsg, msixDword]

theorem unmaskVector_of_idle (idle : 256 * fn + vec ∉ s.qe.pba) :
    (unmaskVector s fn vec).out = s.out ∧ (unmaskVector s fn vec).qe.pba = s.qe.pba := by
  by_cases already : 256 * fn + vec ∈ s.qe.unmasked
  · simp [unmaskVector, already, idle]
  · simp [unmaskVector, already, idle]

end

/-- Settles O22, by the two timers and by the vector that is unmasked. -/
theorem interruptsAreSent : Obligations.InterruptsAreSent := by
  unfold Obligations.InterruptsAreSent
  intro fn s up
  refine ⟨fun ring k => exec_msixCoalesceTimer_of_due up, fun t => exec_eventHoldoffTimer_of_due up, ?_⟩
  exact fun vec isVector open_ => ⟨_, exec_msixUnmask_of_vector up isVector open_, mem_unmasked_unmaskVector s fn vec,
    unmaskVector_regs s fn vec, unmaskVector_of_pending, unmaskVector_of_idle⟩

/-! ## Jobs by their NPA (R213, R420) -/

section
variable {s : State} {c : Cmd}

theorem exec_jobSubmit_of_admitted (runs : Runs s 0x10 c) (admitted : jobAt s (jobOperand c) ≠ none) :
    exec (.jobSubmit c) s = .next (swept c (finish (begun s c) (refOf s c) stFormat)) := by
  have is : (jobAt s (jobOperand c)).isSome = true := Option.isSome_iff_ne_none.mpr admitted
  refine (congrArg Host.Outcome.next (startCmd_of_runs runs _)).trans ?_
  simp only [jobAt_begun, is, if_true]

end

/-- Settles O59: both commands finish in the state in which they have begun. -/
theorem jobsAreNamedByTheirNpa : Obligations.JobsAreNamedByTheirNpa := by
  unfold Obligations.JobsAreNamedByTheirNpa
  intro c s
  refine ⟨?_, ?_⟩
  · intro runs admitted
    exact ends_of_finish runs (exec_jobSubmit_of_admitted runs admitted) (.refl _) (by simp)
  · intro runs absent
    exact ends_of_finish runs (exec_jobPreempt_of_absent runs absent) (.refl _) (by simp)

end Sys2Proof.Machine

/-!
PROOFS. Power-on and the resets, where they begin and where they end (R428, R435, R444, R459, R477 to R479, R488, R492).
-/

namespace Sys2Proof.Machine

/-! ## A reset begins -/

section
variable {s : State}

@[simp] theorem releaseRing_power : (releaseRing s).power = s.power :=
  keep_releaseRing (P := fun t => t.power = s.power) (h_out := fun _ _ h => h) (hR := fun _ _ _ h => h) rfl

@[simp] theorem resetBlocks_power (c : RClass) : (resetBlocks c s).power = s.power :=
  keep_resetBlocks (P := fun t => t.power = s.power) (h_qe := fun _ _ h => h) (h_cx := fun _ _ h => h) (h_pm := fun _ _ h => h)
    (h_ae := fun _ _ h => h) (h_bb := fun _ _ h => h) (h_ac := fun _ _ h => h) (h_tm := fun _ _ h => h)
    (h_pf := fun _ _ h => h) (h_fl := fun _ _ h => h) (h_es := fun _ _ h => h) (h_im := fun _ _ h => h)
    (h_ft := fun _ _ h => h) (h_cf := fun _ _ h => h) (h_tn := fun _ _ h => h) (h_lx := fun _ _ h => h)
    (h_out := fun _ _ h => h) (hR := fun _ _ _ h => h) rfl

theorem resetPower_regs (c : RClass) : (resetPower c s).regs = s.regs := by
  unfold resetPower
  split <;> rfl

theorem resetClock_regs (c : RClass) : (resetClock c s).regs = s.regs := by
  unfold resetClock
  split <;> rfl

theorem resetClock_power (c : RClass) : (resetClock c s).power = s.power := by
  unfold resetClock
  split <;> rfl

/-- A reset of class C or W begins with a power block that is afresh, but for `PERST_N` and the thermal marks (R468). -/
theorem resetPower_of_cold {c : RClass} (cold : c.cold = true) :
    (resetPower c s).power.running = some c ∧ (resetPower c s).power.supply = .on ∧ (resetPower c s).power.opened = false ∧
      (resetPower c s).power.perst = s.power.perst := by
  rw [resetPower, if_pos cold]
  exact ⟨rfl, rfl, rfl, rfl⟩

theorem beginReset_of_cold {c : RClass} (cold : c.cold = true) :
    (beginReset c s).power.running = some c ∧ (beginReset c s).power.supply = .on ∧ (beginReset c s).power.opened = false ∧
      (beginReset c s).power.perst = s.power.perst := by
  obtain ⟨running, supply, opened, perst⟩ :=
    resetPower_of_cold (s := resetClock c (resetFields c (resetBlocks c (releaseRing s)))) cold
  have kept : (resetClock c (resetFields c (resetBlocks c (releaseRing s)))).power = s.power := by
    rw [resetClock_power, resetFields, resetBlocks_power, releaseRing_power]
  exact ⟨running, supply, opened, perst.trans (congrArg Power.perst kept)⟩

/-- Class C begins with the local counter at 0 and no byte of memory written (R452, R189). -/
theorem beginReset_C_clock : (beginReset .C s).time = 0 ∧ (beginReset .C s).mem = [] := ⟨rfl, rfl⟩

theorem beginReset_regs (c : RClass) : (beginReset c s).regs = restoreRegs c (resetBlocks c (releaseRing s)).regs := by
  rw [beginReset, resetPower_regs, resetClock_regs, resetFields]

theorem requestReset_of_none {c : RClass} (none : s.power.running = none) : requestReset c s = begin_ c s := by
  rw [requestReset, none]

/-! ## Power-on and a warm reset -/

theorem exec_powerOn_of_free (trip : s.power.supply ≠ .tripped) (above : s.power.supply ≠ .overvoltage) :
    exec .powerOn s = .next (beginReset .C s) :=
  congrArg Host.Outcome.next (if_neg (not_or.mpr ⟨trip, above⟩))

theorem begin_W : begin_ .W s = beginReset .W s := if_neg (by decide)

/-- `PERST_N` falls, when that is what asks for the reset. -/
def perstFell (fromPerst : Bool) (s : State) : State :=
  if fromPerst then { s with power := { s.power with perst := false } } else s

theorem exec_warmReset_of_none {fromPerst : Bool} (on_ : powered (perstFell fromPerst s) = true)
    (none : (perstFell fromPerst s).power.running = none) :
    exec (.warmReset fromPerst) s = .next (beginReset .W (perstFell fromPerst s)) := by
  have acts : exec (.warmReset fromPerst) s = .next (if powered (perstFell fromPerst s) then
      requestReset .W (perstFell fromPerst s) else perstFell fromPerst s) := rfl
  rw [acts, if_pos on_, requestReset_of_none none, begin_W]

end

/-! ## A function-level reset begins (R428) -/

/-- The completions that Function 1's queues lose are counted (R428). -/
def countDiscards (s : State) : State :=
  (s.qe.finished.filter fun c => c.ref.fn == 1 && !c.notice).foldl (init := s) fun s _ =>
    bumpF s rQeDiscards1 fQeDiscards1QeDiscards 1

section
variable (s : State)

/-- The count is all that it writes. -/
theorem countDiscards_but_regs : { countDiscards s with regs := s.regs } = s :=
  keep_foldl (P := fun t => { t with regs := s.regs } = s) (fun _ _ kept => kept) rfl

theorem beginF_power :
    (beginF s).power = { s.power with running := some .F, waiting := s.power.waiting.erase .F, f1Closed := true } :=
  congrArg (fun t : State => { t.power with running := some .F, waiting := t.power.waiting.erase .F, f1Closed := true })
    (countDiscards_but_regs s)

theorem beginF_resets1 : (beginF s).qe.resets1 = s.qe.resets1 + 1 :=
  (congrArg (fun t : State => t.qe.resets1 + 1) (countDiscards_but_regs s) :)

theorem beginF_finished : (beginF s).qe.finished = s.qe.finished.filter fun c => c.ref.fn != 1 :=
  (congrArg (fun t : State => t.qe.finished.filter fun (c : Completion) => c.ref.fn != 1) (countDiscards_but_regs s) :)

theorem beginF_mem : (beginF s).mem = s.mem := (congrArg State.mem (countDiscards_but_regs s) :)

theorem beginF_cx : (beginF s).cx = s.cx := (congrArg State.cx (countDiscards_but_regs s) :)

variable {s} (up : awake s = true)
include up

theorem exec_functionLevelReset_of_closed (closed : s.power.opened = false) :
    exec .functionLevelReset s = .next (emit s .configRetry) := by
  refine (next_live_of_awake up _).trans ?_
  simp only [closed, Bool.not_false, if_true]

theorem exec_functionLevelReset_of_none (opened : s.power.opened = true) (outside : wakeLogic s = false)
    (none : s.power.running = none) : exec .functionLevelReset s = .next (beginF s) := by
  refine (next_live_of_awake up _).trans ?_
  simp only [opened, outside, Bool.not_true, Bool.false_eq_true, if_false, requestReset_of_none none, begin_, if_true]

end

/-! ## Start-up and the resets end -/

section
variable {s : State} (on_ : powered s = true)
include on_

/-- What START_UP_END does, by the class that runs. -/
theorem exec_startUpEnd (r : StartReport) : exec (.startUpEnd r) s = .next (
    match s.power.running with
    | some .C => if s.power.heldReport.isSome then s else afterReset (endCold .C r s)
    | some .W => if s.power.heldReport.isSome then s else afterReset (endCold .W r s)
    | some .H => afterReset (endH r s)
    | some .N => afterReset (endN r.linksDown s)
    | some .F => afterReset (endF s)
    | none => s) := by
  refine congrArg Host.Outcome.next ((if_neg ?_).trans ?_)
  · rw [on_]
    decide
  · rfl

theorem exec_perstNRise_of_held {c : RClass} (runs : s.power.running = some c) (held : s.power.heldReport ≠ none) :
    exec .perstNRise s = .next (afterReset (openUp c { s with power := { s.power with perst := true } })) := by
  have ready : (powered s && s.power.heldReport.isSome) = true := by
    rw [on_, Option.isSome_iff_ne_none.mpr held]
    rfl
  refine congrArg Host.Outcome.next ?_
  simp only [runs]
  exact if_pos ready

end

/-- Settles O23: the beginnings from what each request does in a state where none runs, the ends by the class that runs. -/
theorem resetsBeginAndEnd : Obligations.ResetsBeginAndEnd := by
  unfold Obligations.ResetsBeginAndEnd
  refine ⟨fun s => ⟨?_, ?_, exec_functionLevelReset_of_closed, ?_⟩, fun r s on_ => ⟨?_, ?_, ?_, ?_, ?_, ?_⟩⟩
  · intro trip above
    obtain ⟨running, supply, opened, perst⟩ := beginReset_of_cold (c := .C) (s := s) rfl
    obtain ⟨time, mem⟩ := beginReset_C_clock (s := s)
    exact ⟨_, exec_powerOn_of_free trip above, running, supply, opened, time, mem, perst, beginReset_regs .C⟩
  · intro on_ none
    obtain ⟨running, -, opened, perst⟩ :=
      beginReset_of_cold (c := .W) (s := { s with power := { s.power with perst := false } }) rfl
    exact ⟨_, exec_warmReset_of_none (fromPerst := true) on_ none,
      exec_warmReset_of_none (fromPerst := false) on_ none, running, opened, perst⟩
  · intro up opened outside none
    refine ⟨_, exec_functionLevelReset_of_none up opened outside none, ?_, ?_, beginF_resets1 s, ?_, beginF_mem s, beginF_cx s⟩
    · rw [beginF_power]
    · rw [beginF_power]
    · intro c waits
      rw [beginF_finished, List.mem_filter] at waits
      simpa using waits.2
  · intro runs fresh
    rw [exec_startUpEnd on_, runs, fresh]
    rfl
  · intro runs fresh
    rw [exec_startUpEnd on_, runs, fresh]
    rfl
  · intro runs
    rw [exec_startUpEnd on_, runs]
  · intro runs
    rw [exec_startUpEnd on_, runs]
  · intro runs
    rw [exec_startUpEnd on_, runs]
  · exact fun c => exec_perstNRise_of_held on_

end Sys2Proof.Machine

/-!
PROOFS. Input power, trips and clocks (R449, R459, R461, R468, R471), and the throttle steps of the 1 ms grid (R464 to R468).
-/

namespace Sys2Proof.Machine

/-! ## What has been sent stays sent -/

section
variable (s : State)

theorem setEventMsg_out (fn : Nat) (m : EventMsg) : (setEventMsg s fn m).out = s.out := by
  unfold setEventMsg
  split <;> rfl

variable {s} {t : State} (sent : s.out <+: t.out)
include sent

theorem sent_sendMsix (fn v : Nat) : s.out <+: (sendMsix t fn v).out := by
  unfold sendMsix
  split
  · exact sent
  · split
    · exact sent.trans (List.prefix_append _ _)
    · split <;> exact sent

theorem sent_sendEventNow (fn : Nat) : s.out <+: (sendEventNow t fn).out := by
  rw [sendEventNow, setEventMsg_out]
  exact sent_sendMsix sent fn _

theorem sent_requestEvent (fn : Nat) : s.out <+: (requestEvent t fn).out := by
  unfold requestEvent
  split
  · exact sent_sendEventNow sent fn
  · split
    · exact sent_sendEventNow sent fn
    · rw [setEventMsg_out]
      exact sent

theorem sent_raise0 (src : Nat) (f : Fld) : s.out <+: (raise0 t src f).out := by
  unfold raise0 raise
  split
  · exact sent
  · dsimp only
    split
    · refine sent_requestEvent ?_ 0
      exact sent
    · exact sent

theorem sent_writeSector (record : Nat) : s.out <+: (writeSector t record).out := by
  unfold writeSector spareSector
  dsimp only
  split
  · split
    · refine sent_raise0 ?_ 57 _
      exact sent
    · refine sent_raise0 ?_ 57 _
      exact sent
  · exact sent

theorem sent_commit (record : Nat) : s.out <+: (commit t record).out :=
  sent_writeSector (sent_writeSector sent record) 8

theorem sent_releaseRing : s.out <+: (releaseRing t).out := by
  unfold releaseRing
  split
  · exact sent.trans (List.prefix_append _ _)
  · exact sent

theorem sent_brownOut (cause : Nat) (why : Supply) : s.out <+: (brownOut cause why t).out := by
  have seconds : s.out <+: (commitSeconds t).out := by
    refine sent_commit ?_ 2
    exact sent
  have committed : s.out <+: (commit { commitSeconds t with tn := { (commitSeconds t).tn with offCause := cause } } 2).out := by
    refine sent_commit ?_ 2
    exact seconds
  exact sent_releaseRing committed

end

section
variable (s : State)

/-! ## A brownout (R449, R461) -/

theorem writeSector_offCause (record : Nat) : (writeSector s record).tn.offCause = s.tn.offCause := by
  unfold writeSector spareSector
  dsimp only
  split
  · split
    · rw [raise0_tn]
    · rw [raise0_tn]
  · rfl

@[simp] theorem commit_offCause (record : Nat) : (commit s record).tn.offCause = s.tn.offCause := by
  rw [commit, writeSector_offCause, writeSector_offCause]

theorem releaseRing_mem : (releaseRing s).mem = s.mem :=
  keep_releaseRing (P := fun t => t.mem = s.mem) (h_out := fun _ _ h => h) (hR := fun _ _ _ h => h) rfl

theorem releaseRing_tn : (releaseRing s).tn = s.tn :=
  keep_releaseRing (P := fun t => t.tn = s.tn) (h_out := fun _ _ h => h) (hR := fun _ _ _ h => h) rfl

theorem goOff_supply (why : Supply) : (goOff why s).power.supply = why := rfl

theorem goOff_running (why : Supply) : (goOff why s).power.running = none := rfl

theorem goOff_mem (why : Supply) : (goOff why s).mem = s.mem := releaseRing_mem s

theorem goOff_tn (why : Supply) : (goOff why s).tn = s.tn := releaseRing_tn s

variable (cause : Nat) (why : Supply)

theorem brownOut_supply : (brownOut cause why s).power.supply = why := rfl

theorem brownOut_offCause : (brownOut cause why s).tn.offCause = cause := by
  rw [brownOut, goOff_tn, commit_offCause]

theorem brownOut_mem : (brownOut cause why s).mem = s.mem := by
  rw [brownOut, goOff_mem, commit_mem]
  exact commit_mem

end

/-! ## The input and the clocks -/

section
variable {s : State}

theorem exec_overvoltage_of_above {mv : Nat} (above : 61000 < mv) (within : mv ≤ 64000) (on_ : powered s = true) :
    exec (.overvoltage mv) s = .next (goOff .overvoltage s) := by
  have is : s.power.supply = .on := of_decide_eq_true on_
  change execOvervoltage mv s = _
  rw [execOvervoltage, if_neg (Nat.not_lt.mpr within), if_neg (by rw [is]; decide), if_pos above, if_pos on_]

section
variable (held : s.power.supply = .overvoltage)
include held

theorem exec_overvoltage_of_back {mv : Nat} (enough : 48000 < mv) (back : mv ≤ 60000) :
    exec (.overvoltage mv) s = .next (beginReset .C s) := by
  change execOvervoltage mv s = _
  rw [execOvervoltage, if_neg (by omega), if_neg (by rw [held]; decide), if_neg (by omega), if_pos ⟨held, back⟩, if_pos enough]
  rfl

theorem exec_overvoltage_of_low {mv : Nat} (low : mv ≤ 48000) :
    exec (.overvoltage mv) s = .next { s with power := { s.power with supply := .off } } := by
  change execOvervoltage mv s = _
  rw [execOvervoltage, if_neg (by omega), if_neg (by rw [held]; decide), if_neg (by omega), if_pos ⟨held, by omega⟩,
    if_neg (by omega)]

end

section
variable (on_ : powered s = true)
include on_

theorem exec_brownout_of_powered : exec .brownout s = .next (brownOut 1 .off s) := congrArg Host.Outcome.next (if_pos on_)

theorem exec_clockLoss_of_powered : exec .clockLoss s = .next (brownOut 3 .off s) := congrArg Host.Outcome.next (if_pos on_)

theorem exec_thermalTrip_of_mark {k c : Nat} (sensor : k < 16) (marked : tripMark s k ≠ 0) (reached : tripMark s k ≤ c) :
    exec (.thermalTrip k c) s = .next (trip s) :=
  congrArg Host.Outcome.next (if_pos ⟨on_, sensor, decide_eq_true ⟨marked, reached⟩⟩)

end

theorem thermtrip_mem_out_trip : .thermtrip true ∈ (trip s).out :=
  (sent_brownOut (s := emit s (.thermtrip true)) (List.prefix_refl _) 2 .tripped).subset (List.mem_append_right _ List.mem_cons_self)

theorem exec_thermtripRelease_of_tripped (tripped : s.power.supply = .tripped) :
    exec .thermtripRelease s = .next (emit { s with power := { s.power with supply := .off } } (.thermtrip false)) :=
  congrArg Host.Outcome.next (if_pos tripped)

end

/-- Settles O24: a brownout, a loss of the clocks and a trip commit their cause and go Off; an overvoltage goes Off. -/
theorem moduleGoesOff : Obligations.ModuleGoesOff := by
  unfold Obligations.ModuleGoesOff
  intro s
  refine ⟨?_, ?_, fun mv low held => exec_overvoltage_of_low held low, fun on_ => ⟨?_, ?_, ?_⟩, exec_thermtripRelease_of_tripped⟩
  · intro mv above within on_
    exact ⟨_, exec_overvoltage_of_above above within on_, goOff_supply s _, goOff_running s _, goOff_mem s _⟩
  · intro mv enough back held
    obtain ⟨running, supply, -, -⟩ := beginReset_of_cold (c := .C) (s := s) rfl
    obtain ⟨time, -⟩ := beginReset_C_clock (s := s)
    exact ⟨_, exec_overvoltage_of_back held enough back, supply, running, time⟩
  · exact ⟨_, exec_brownout_of_powered on_, brownOut_supply s 1 _, brownOut_offCause s 1 _, brownOut_mem s 1 _⟩
  · exact ⟨_, exec_clockLoss_of_powered on_, brownOut_supply s 3 _, brownOut_offCause s 3 _, brownOut_mem s 3 _⟩
  · intro k c sensor marked reached
    exact ⟨_, exec_thermalTrip_of_mark on_ sensor marked reached, brownOut_supply _ 2 _, brownOut_offCause _ 2 _,
      thermtrip_mem_out_trip⟩

/-- Settles O25: the test of the absolute maximum comes before any other. -/
theorem inputAboveTheMaximumStops : Obligations.InputAboveTheMaximumStops := by
  unfold Obligations.InputAboveTheMaximumStops
  intro mv s above
  change execOvervoltage mv s = _
  rw [execOvervoltage, if_pos above]

/-! ## The throttle steps (R464 to R468) -/

section
variable (s : State)

@[simp] theorem readTemps_power (celsius : List Nat) : (readTemps celsius s).power = s.power :=
  keep_foldl (P := fun t => t.power = s.power) (fun _ _ kept => kept) rfl

/-- The temperature marks are those of the power block. -/
theorem hottest_congr {s t : State} (same : t.power.throttleDie = s.power.throttleDie ∧ t.power.throttleBbd = s.power.throttleBbd)
    (celsius : List Nat) : hottest t celsius = hottest s celsius := by
  obtain ⟨die, bbd⟩ := same
  have marks : throttleMark t = throttleMark s := by
    funext k
    rw [throttleMark, die, bbd, throttleMark]
  rw [hottest, marks, hottest]

/-- The flags of the power block lie above the registers of the throttle. -/
theorem regGet_raise0_pw {bit : Fld} {o : Nat} (below : o < rPwEvent) : regGet (raise0 s 58 bit) o = regGet s o := by
  have event : eventReg 0 58 = some rPwEvent := rfl
  have counter : counterReg 0 58 bit.lo = rPwEventCount bit.lo := rfl
  refine raise_regGet s 0 58 bit.lo ?_ ?_
  · rw [event]
    exact fun same => below.ne' (Option.some.inj same)
  · have above : rPwEvent < rPwEventCount bit.lo := by unfold rPwEvent rPwEventCount; omega
    exact counter ▸ (below.trans above).ne

/-- A commit leaves the registers of the power block. -/
theorem regGet_writeSector_pw {o : Nat} (above : rPwState ≤ o) (record : Nat) :
    regGet (writeSector s record) o = regGet s o := by
  have flag : ∀ (t : State) (bit : Fld), bit.lo < 32 → regGet (raise0 t 57 bit) o = regGet t o := by
    intro t bit low
    have event : eventReg 0 57 = some rTnEvent := rfl
    have counter : counterReg 0 57 bit.lo = rTnEventCount bit.lo := rfl
    refine raise_regGet t 0 57 bit.lo ?_ ?_
    · rw [event]
      intro same
      have := Option.some.inj same
      unfold rPwState at above
      unfold rTnEvent at this
      omega
    · rw [counter]
      unfold rPwState at above
      unfold rTnEventCount
      omega
  unfold writeSector spareSector
  dsimp only
  split
  · split
    · rw [flag _ _ (by decide)]; rfl
    · rw [flag _ _ (by decide)]; rfl
  · rfl

theorem regGet_commit_pw {o : Nat} (above : rPwState ≤ o) (record : Nat) : regGet (commit s record) o = regGet s o := by
  rw [commit, regGet_writeSector_pw _ above, regGet_writeSector_pw _ above]

/-- A thermal cycle is counted in the Tense block alone. -/
theorem countCycle_power (celsius : List Nat) : (countCycle celsius s).power = s.power := by
  unfold countCycle
  dsimp only
  split
  · rfl
  · split
    · rw [commit_power]
    · rfl

theorem regGet_countCycle_pw (celsius : List Nat) {o : Nat} (above : rPwState ≤ o) :
    regGet (countCycle celsius s) o = regGet s o := by
  unfold countCycle
  dsimp only
  split
  · rfl
  · split
    · rw [regGet_commit_pw _ above]; rfl
    · rfl

end

/-! ### The sub-steps -/

/-- The sub-step of the cap at a boundary, and its count of periods below the release threshold (R464, R465). -/
def capSub (watts : Nat) (s : State) : Nat × Nat :=
  subStep (getF s rPwPower fPwPowerCapStep) s.power.capLow (capRise watts (getF s rPwCap fPwCapWatts))
    (decide (100 * watts < 95 * getF s rPwCap fPwCapWatts))

/-- The sub-step of the hottest sensor, and its count (R464, R467). -/
def thermSub (celsius : List Nat) (s : State) : Nat × Nat :=
  subStep (getF s rPwPower fPwPowerThermStep) s.power.thermLow (if 0 ≤ hottest s celsius then 1 else 0)
    (decide (hottest s celsius < -(s.power.hyst : Int)))

/-- What a boundary counts before `PW_POWER` is written: the period at its step, and the flags (R8, R464). -/
def throttleNoted (watts : Nat) (celsius : List Nat) (s : State) : State :=
  let u := bumpR s (rPwStepPeriods (getF s rPwPower fPwPowerStep)) 1
  let u := if getF s rPwPower fPwPowerCapStep = 7 ∧ getF s rPwCap fPwCapWatts < watts then raise0 u 58 fPwEventCapUnmet else u
  if getF s rPwPower fPwPowerThermStep < (thermSub celsius s).1 then raise0 u 58 fPwEventThermal else u

/-- `PW_POWER` as a boundary writes it (Table 16.10). -/
def powerWord (watts minStep c h : Nat) : Nat :=
  at_ 0 11 (min 2047 watts) + at_ 16 3 (max (max c h) minStep) + at_ 19 3 c + at_ 22 3 h

theorem powerWord_lt (watts minStep c h : Nat) : powerWord watts minStep c h < 2 ^ 64 := by
  unfold powerWord at_
  omega

section
variable (watts : Nat) (celsius : List Nat) (s : State)

theorem regGet_throttleNoted {o : Nat} (below : o < rPwEvent) : regGet (throttleNoted watts celsius s) o = regGet s o := by
  have period : o ≠ rPwStepPeriods (getF s rPwPower fPwPowerStep) := by
    unfold rPwEvent at below
    unfold rPwStepPeriods
    omega
  have counted : regGet (bumpR s (rPwStepPeriods (getF s rPwPower fPwPowerStep)) 1) o = regGet s o := regGet_setR_ne s _ period
  unfold throttleNoted
  dsimp only
  split
  · split
    · rw [regGet_raise0_pw _ below, regGet_raise0_pw _ below, counted]
    · rw [regGet_raise0_pw _ below, counted]
  · split
    · rw [regGet_raise0_pw _ below, counted]
    · exact counted

theorem throttleNoted_power : (throttleNoted watts celsius s).power = s.power := by
  unfold throttleNoted
  dsimp only
  split
  · split
    · rw [raise0_power, raise0_power]; rfl
    · rw [raise0_power]; rfl
  · split
    · rw [raise0_power]; rfl
    · rfl

/-- The throttle step of a boundary, by its parts. -/
theorem throttle_eq : throttle watts celsius s = { setR (throttleNoted watts celsius s) rPwPower
      (powerWord watts (getF (throttleNoted watts celsius s) rPwCap fPwCapMinStep) (capSub watts s).1 (thermSub celsius s).1) with
    power := { (throttleNoted watts celsius s).power with
      capLow := (capSub watts s).2, thermLow := (thermSub celsius s).2 } } := rfl

theorem regGet_throttle : regGet (throttle watts celsius s) rPwPower =
    powerWord watts (getF s rPwCap fPwCapMinStep) (capSub watts s).1 (thermSub celsius s).1 := by
  have minStep : getF (throttleNoted watts celsius s) rPwCap fPwCapMinStep = getF s rPwCap fPwCapMinStep := by
    rw [getF, regGet_throttleNoted watts celsius s (by decide), getF]
  rw [throttle_eq, minStep]
  exact (regGet_setR_same _ _ _).trans (Nat.mod_eq_of_lt (powerWord_lt _ _ _ _))

theorem throttle_power : (throttle watts celsius s).power =
    { s.power with capLow := (capSub watts s).2, thermLow := (thermSub celsius s).2 } := by
  rw [throttle_eq, throttleNoted_power]

end

/-! ### A boundary -/

section
variable {watts : Nat} {celsius : List Nat} {s : State} (up : awake s = true) (new : s.time / msCycles ≠ s.power.boundary)
include up new

theorem exec_throttleBoundary_of_cool (cool : anyTrip s celsius = false) :
    exec (.throttleBoundary watts celsius) s = .next (passBoundary watts celsius s) := by
  refine (next_live_of_awake up _).trans ?_
  rw [if_neg new, cool, if_neg Bool.false_ne_true]

theorem exec_throttleBoundary_of_hot (hot : anyTrip s celsius = true) :
    exec (.throttleBoundary watts celsius) s = .next (trip (passBoundary watts celsius s)) := by
  refine (next_live_of_awake up _).trans ?_
  rw [if_neg new, hot, if_pos rfl]

end

/-- Settles O26: the state after a boundary is that of `passBoundary`, whatever the sensors then do. -/
theorem throttleFollowsTheGrid : Obligations.ThrottleFollowsTheGrid := by
  unfold Obligations.ThrottleFollowsTheGrid
  intro watts celsius s up new u cap c h
  have power : (passBoundary watts celsius s).power = { u.power with
      capLow := (capSub watts u).2, thermLow := (thermSub celsius u).2 } :=
    (countCycle_power _ celsius).trans (throttle_power watts celsius u)
  have kept : u.power = { s.power with boundary := s.time / msCycles } := readTemps_power _ celsius
  have cap_ : c = capSub watts u := by
    change _ = subStep _ u.power.capLow _ _
    rw [kept]
  have therm : h = thermSub celsius u := by
    change _ = subStep _ u.power.thermLow (if 0 ≤ hottest u celsius then 1 else 0)
      (decide (hottest u celsius < -(u.power.hyst : Int)))
    rw [kept, hottest_congr (s := s) (t := u) ⟨by rw [kept], by rw [kept]⟩]
  refine ⟨passBoundary watts celsius s, ?_, ?_, ?_, ?_, exec_throttleBoundary_of_cool up new, exec_throttleBoundary_of_hot up new⟩
  · rw [power, kept]
  · rw [power, cap_]
  · rw [power, therm]
  · rw [cap_, therm]
    exact (regGet_countCycle_pw _ celsius (by decide)).trans (regGet_throttle watts celsius u)

end Sys2Proof.Machine

/-!
PROOFS. How Retain is entered and left (R473 to R475), and what the host reads (R241, R486).
-/

namespace Sys2Proof.Machine

/-! ## The entry (R473, Table 16.5) -/

section
variable {s : State} (on_ : powered s = true)
include on_

/-- The node die is awake in every phase of Retain but the inside. -/
theorem awake_of_entering {k : Nat} (entering : s.power.retain = .entering k) : awake s = true := by
  rw [awake, on_, entering]
  rfl

/-- RETAIN_ENTRY_PROGRESS, by the phase of the entry. -/
theorem exec_retainEntryProgress_of_entering {k : Nat} (none : s.power.running = none) (entering : s.power.retain = .entering k) :
    exec .retainEntryProgress s = .next (match RetainPhase.entering k with
      | .entering 1 => if attentionDone s then setRetain (retainHandovers (retainJobs s)) (.entering 2) else s
      | .entering 2 => if jobsSaved s then setRetain (retainMoves s) (.entering 3) else s
      | .entering 3 => if movesDone s then setRetain { s with tm := { s.tm with linkLow := true } } (.entering 4) else s
      | .entering _ => if banksIdle s then retainSleep s else s
      | _ => s) := by
  refine (next_live_of_awake (awake_of_entering on_ entering) _).trans ?_
  simp only [none, Option.isSome_none, Bool.false_eq_true, if_false, entering] <;> rfl

end

/-! ## The inside, and the wake logic (R474) -/

section
variable {s : State} (inside : s.power.retain = .inside)
include inside

theorem wakeLogic_of_inside : wakeLogic s = true := by
  rw [wakeLogic, inside]
  rfl

theorem requestRun_of_inside : requestRun s = setRetain s .leaving := by rw [requestRun, inside]

variable (on_ : powered s = true)
include on_

theorem exec_wake_of_inside : exec .wake s = .next (setRetain s .leaving) := congrArg Host.Outcome.next (if_pos ⟨on_, inside⟩)

theorem exec_retainHostAccess_of_inside (h : HostAccess) : exec (.retainHostAccess h) s = .next (wakeAccess h s) := by
  refine congrArg Host.Outcome.next (if_pos ?_)
  rw [on_, wakeLogic_of_inside inside]
  rfl

end

section
variable (s : State)

theorem wakeAccess_read_state (n : Nat) :
    wakeAccess (.read 0 0 rPwState n) s = emit s (.readData (natLe n (pwStateView s))) := rfl

theorem wakeAccess_read_other {fn bar off : Nat} (n : Nat) (other : ¬(fn = 0 ∧ bar = 0 ∧ off = rPwState)) :
    wakeAccess (.read fn bar off n) s = emit s (.readData (List.replicate n 0xFF)) := if_neg other

theorem wakeAccess_write_run (n : Nat) {v : Word} (run : v.toNat % 4 = 1) :
    wakeAccess (.write 0 0 rPwState n v) s = requestRun s := by
  simp [wakeAccess, run]

theorem wakeAccess_write_doorbell {fn off : Nat} (v : Word) (page : msixAt fn off = none) :
    wakeAccess (.write fn 2 off 4 v) s = doorbellRow s fn off (v.toNat % 2 ^ 32) := by
  simp only [wakeAccess, bar2Access, page, if_true]

end

/-! ## The exit (R475) -/

theorem exec_retainExitEnd_of_leaving {s : State} (on_ : powered s = true) (leaving : s.power.retain = .leaving) (x : RetainExit) :
    exec (.retainExitEnd x) s = .next (if x.same then leaveRetain x.bbds x.tiers s else requestReset .W s) :=
  congrArg Host.Outcome.next (if_pos ⟨on_, leaving⟩)

/-- Settles O27, phase by phase. -/
theorem retainIsEnteredAndLeft : Obligations.RetainIsEnteredAndLeft := by
  unfold Obligations.RetainIsEnteredAndLeft
  intro s on_
  refine ⟨fun none => ⟨?_, ?_, ?_, ?_⟩, fun inside => ⟨exec_wake_of_inside inside on_, fun _ => ⟨?_, ?_, ?_, ?_⟩⟩, ?_⟩
  · intro entering drained
    rw [exec_retainEntryProgress_of_entering on_ none entering]
    exact congrArg _ (if_pos drained)
  · intro entering saved
    rw [exec_retainEntryProgress_of_entering on_ none entering]
    exact congrArg _ (if_pos saved)
  · intro entering moved
    rw [exec_retainEntryProgress_of_entering on_ none entering]
    exact congrArg _ (if_pos moved)
  · intro entering idle
    rw [exec_retainEntryProgress_of_entering on_ none entering]
    exact congrArg _ (if_pos idle)
  · intro n
    rw [exec_retainHostAccess_of_inside inside on_, wakeAccess_read_state]
  · intro fn bar off n other
    rw [exec_retainHostAccess_of_inside inside on_, wakeAccess_read_other s n other]
  · intro n v run
    rw [exec_retainHostAccess_of_inside inside on_, wakeAccess_write_run s n run, requestRun_of_inside inside]
  · intro fn off v page
    rw [exec_retainHostAccess_of_inside inside on_, wakeAccess_write_doorbell s v page]
  · intro leaving bbds tiers
    exact ⟨exec_retainExitEnd_of_leaving on_ leaving _, exec_retainExitEnd_of_leaving on_ leaving _⟩

/-! ## What the host reads (R241, R486) -/

theorem powered_of_answers {s : State} {fn : Nat} (answering : answers s fn = true) :
    powered s = true ∧ s.power.opened = true := by
  unfold answers at answering
  simp only [Bool.and_eq_true] at answering
  exact ⟨answering.1.1, answering.1.2⟩

section
variable {a : Access} {s : State} (answering : answers s a.fn = true) (outside : wakeLogic s = false)
  (serves : blockAnswers s a.off = true)
include answering outside serves

theorem hostWrite_of_bad_size (bad : sizeOk a.off a.size = false) : hostWrite none s a = badAccess s a.fn := by
  simp only [hostWrite, answering, outside, serves, bad, Bool.not_true, Bool.not_false, Bool.false_eq_true, if_false, if_true]

theorem hostRead_of_bad_size (bad : sizeOk a.off a.size = false) :
    hostRead s a = badAccess (emit s (.readData (zeros a.size))) a.fn := by
  obtain ⟨on_, opened⟩ := powered_of_answers answering
  simp only [hostRead, on_, opened, answering, outside, serves, bad, Bool.not_true, Bool.not_false, Bool.or_false,
    Bool.false_eq_true, if_false, if_true]

/-- A read of Function 1 of a good size is answered at once. -/
theorem hostRead_of_function1 (good : sizeOk a.off a.size = true) (one : a.fn = 1) : hostRead s a = takeRead s a := by
  obtain ⟨on_, opened⟩ := powered_of_answers answering
  have unheld : ¬(s.power.running = some .H ∧ a.fn = 0) := fun ⟨_, zero⟩ => absurd (one.symm.trans zero) (by decide)
  simp only [hostRead, on_, opened, answering, outside, serves, good, decide_eq_false unheld, Bool.not_true, Bool.or_false,
    Bool.false_and, Bool.false_eq_true, if_false]

theorem exec_badSizeAccess (bad : sizeOk a.off a.size = false) (write : Bool) :
    exec (.badSizeAccess a write) s =
      .next (if write then badAccess s a.fn else badAccess (emit s (.readData (zeros a.size))) a.fn) := by
  refine congrArg Host.Outcome.next ((if_neg ?_).trans ?_)
  · rw [bad]
    decide
  · rw [hostWrite_of_bad_size answering outside serves bad, hostRead_of_bad_size answering outside serves bad]

end

/-- The bytes read are sent, and `PLAN_LOCKED` is cleared. -/
theorem takeRead_of_tmStatus (s : State) {a : Access} (one : a.fn = 1)
    (reaches : (reachedBy a.off a.size).any (fun r => r.off == rTmStatus) = true) :
    takeRead s a = setB (emit s (.readData (readBytes s 1 a.off a.size))) rTmStatus fTmStatusPlanLocked false := by
  rw [takeRead, one]
  exact if_pos ⟨rfl, reaches⟩

/-- Settles O15, by the host's write and read of a bad size, and by Function 1's read of a good one. -/
theorem readsAndBadSizes : Obligations.ReadsAndBadSizes := by
  unfold Obligations.ReadsAndBadSizes
  intro a s answering outside serves
  refine ⟨fun bad => ?_, fun good one reaches => ?_⟩
  · exact ⟨exec_badSizeAccess answering outside serves bad true, exec_badSizeAccess answering outside serves bad false⟩
  · have acts : exec (.tmStatusRead a) s = .next (takeRead s a) :=
      congrArg Host.Outcome.next ((if_pos reaches).trans (hostRead_of_function1 answering outside serves good one))
    rw [takeRead_of_tmStatus s one reaches] at acts
    exact ⟨_, acts, rfl, getB_setB_same _ _ _ _ (by decide) (by decide), fun o other => regGet_setF_ne _ _ _ other⟩

end Sys2Proof.Machine
